-- ==== Sys2Proof/Syntax.lean ====
section
/-! DEFINITION. The commands of the block: register writes, operations of its rings and buses, and events on its pins
and inside it, one constructor per row of the opcode table, with the row's operands. -/

namespace Sys2Proof

/-- Where an access to register space or a doorbell page comes from (12 R295). -/
inductive Source where
  | mgmt
  | cantle
  | host (h : Fin 16) (virt : Bool)
  | pciePF
  | pcieVF (i : Fin 128)
  deriving DecidableEq, Repr

/-- An engine resource with its own queues (06 R148). -/
inductive Res where
  | field (f : Fin 17)
  | render
  | projector
  | dma (e : Fin 4)
  /-- The field loader, where FIELD_LOADs wait (04 R104). -/
  | loader
  deriving DecidableEq, Repr

/-- What a 64-bit control packet of the packet lane carries (02 R42). -/
inductive PacketKind where
  | token (n : Fin 16)
  | start (job : Nat)
  | stop
  | kill
  | progress
  deriving DecidableEq, Repr

/-- A ring of a ring set (06 R135). -/
inductive RingSel where
  | sq (r : Fin 8)
  | cq
  | eq
  | aq
  deriving DecidableEq, Repr


/-- A CSI-2 packet as ingress unpacks it (08 R194, R195): a frame start, a frame end, a line start, or a long packet
with its data type and the pixels of its payload. -/
inductive CamPacket where
  | frameStart
  | frameEnd
  | lineStart
  | line (dt : Nat) (pixels : List Nat)
  deriving DecidableEq, Repr

/-- What is wrong with a packet of a camera (08 R196). -/
inductive PacketError where
  | clean
  | headerBit
  | header
  | payloadCrc
  | retransmission
  deriving DecidableEq, Repr

/-- A primitive of a draw stream (09 R233, R235): whether its draw is marked as telltale, the vec4 outputs of its vertex
stage, the pixels of its bounding box clipped to the render area (x0, y0, x1, y1; none where it is culled or overlaps no
tile), and whether shading it touches memory outside the buffer list. The bytes of the stream that spell it are an encoding
of Igath's graphics driver. -/
structure DrawPrim where
  telltale : Bool
  outputs : Fin 17
  box : Option (Nat × Nat × Nat × Nat)
  outside : Bool
  deriving DecidableEq, Repr

/-- The kinds of periodic BIST slices (11 R286). -/
inductive SliceKind where
  | cluster
  | clsram
  | raster
  | girth
  | unit
  deriving DecidableEq, Repr

/-- A failing bit that a slice finds (11 R283, R290, R293): its macro within the block, whether the macro has at least
16 KiB, the row and the column of the macro it lies in, and the word and bit. -/
structure BistFail where
  macro_ : Fin 255
  large : Bool
  row : Nat
  col : Nat
  word : Nat
  bit : Fin 72
  deriving DecidableEq, Repr

/-- A unit with the machine of 16 R403. -/
inductive UnitSel where
  | pass (p : Fin 4)
  | can (c : Fin 16)
  | head (h : Fin 6)
  | eth (p : Fin 10)
  deriving DecidableEq, Repr

/-- A Pass packet without its TYPE (13 R317). `reserved` says that a reserved bit or field of it is not zero, or that its
TYPE is reserved. -/
structure PassPacket where
  poison : Bool
  cls : Nat
  fw : Bool
  dst : Nat
  src : Nat
  vef : Nat
  domain : Nat
  addr : Nat
  tag : Nat
  len : Nat
  gen : Nat
  payload : Bytes
  reserved : Bool
  deriving DecidableEq, Repr

/-- The payload of a HELLO (13 R320). -/
structure PassHello where
  hash : Nat
  id : Nat
  port : Nat
  assigned : Bool
  static : Bool
  gen : Nat
  sysId : Nat
  deriving DecidableEq, Repr

/-- One UP port in a link-state announcement (13 R320): its number and the peer's hash and port. -/
structure PassLink where
  port : Nat
  peer : Nat
  peerPort : Nat
  deriving DecidableEq, Repr

/-- A link-state announcement (13 R320). -/
structure PassLsa where
  hash : Nat
  id : Nat
  assigned : Bool
  static : Bool
  links : List PassLink
  deriving DecidableEq, Repr

/-- A route entry (13 R334) for one member. -/
structure PassRoute where
  member : Nat
  valid : Bool
  self : Bool
  port : Nat
  yield : Bool
  hops : Nat
  deriving DecidableEq, Repr

/-- Operations of an AMO (13 R327), as the RISC-V A extension names them. -/
inductive AmoOp where
  | swap
  | add
  | xor
  | and
  | or
  | min
  | max
  | minu
  | maxu
  deriving DecidableEq, Repr

/-- A CAN frame (14 R356, R357). -/
structure CanFrame where
  id : Nat
  ext : Bool
  fd : Bool
  xl : Bool
  data : Bytes
  deriving DecidableEq, Repr

/-- What a received gPTP message tells the service: its domain, and the offset of that base from its grandmaster in
nanoseconds where the message completes a measurement (14 R346). -/
structure GptpInfo where
  domain : Fin 3
  offset : Option Int
  deriving DecidableEq, Repr

/-- What a PCIe configuration read names (12 R296): a field of the physical function's SR-IOV capability, the size in bytes
of a base address register of the physical function or of its virtual functions, or any other word, by its number. -/
inductive PcieItem where
  | totalVfs
  | initialVfs
  | numVfs
  | vfEnable
  | firstVfOffset
  | vfStride
  | barSize (bar : Fin 6)
  | vfBarSize (bar : Fin 6)
  | word (n : Fin 1024)
  deriving DecidableEq, Repr

/-- What a PCIe configuration request asks of the endpoint (12 R296): a read of a function's configuration space, a write of
NumVFs and VF Enable by the physical function, or a Function Level Reset. -/
inductive PcieRequest where
  | read (function : Fin 128) (item : PcieItem)
  | setVfs (numVfs : Fin 128) (enable : Bool)
  | reset (function : Fin 128)
  deriving DecidableEq, Repr

/-- A failing bit that boot BIST finds (11 R283, R284): the block kind, unit and macro as in a repair-log entry, whether the
macro has at least 16 KiB, and the row and the column of the macro it lies in. -/
structure BootFail where
  kind : Fin 16
  unit : Fin 256
  macro_ : Fin 255
  large : Bool
  row : Nat
  col : Nat
  deriving DecidableEq, Repr

/-- What another device has answered a read (05 R115, 13 R318): the bytes, and the offsets among them that came poisoned. -/
structure FabricData where
  bytes : Bytes
  bad : List Nat
  deriving DecidableEq, Repr

/-- The commands the block takes, one constructor per row of the opcode table. -/
inductive Instr where
  /-- MODE_REQUEST_PARK_WARM (R410). -/
  | modeRequestParkWarm (src : Source)
  /-- MODE_REQUEST_PARK_COLD (R15). -/
  | modeRequestParkCold (src : Source)
  /-- MODE_REQUEST_DEPOT (R16). -/
  | modeRequestDepot (src : Source)
  /-- BOOT_COMPLETE (R14). -/
  | bootComplete
  /-- PARK_WARM_TIMER_EXPIRY (R24). -/
  | parkWarmTimerExpiry
  /-- ALWAYS_ON_TIMER_EXPIRY (R412). -/
  | alwaysOnTimerExpiry
  /-- CAN_WAKE (R17). -/
  | canWake
  /-- ETH_WAKE (R17). -/
  | ethWake
  /-- TENANT_FREEZE_KILL_DEADLINE (R20). -/
  | tenantFreezeKillDeadline
  /-- BACKSTOP (R20). -/
  | backstop
  /-- POCKET_WINDOW_WRITE (R30). -/
  | pocketWindowWrite (src : Source) (addr : Nat) (data : Bytes)
  /-- STITCH_SCRUB (R37). -/
  | stitchScrub (cell : Fin 2368) (bad : List Nat)
  /-- CONTROL_NOP (R102). -/
  | controlNop (cell : Fin 2368)
  /-- CONTROL_JUMP (R102). -/
  | controlJump (cell : Fin 2368)
  /-- CONTROL_LOOPSET (R102). -/
  | controlLoopset (cell : Fin 2368)
  /-- CONTROL_LOOP (R102). -/
  | controlLoop (cell : Fin 2368)
  /-- CONTROL_END (R103). -/
  | controlEnd (cell : Fin 2368)
  /-- MATRIX_MMA (R72). -/
  | matrixMma (cell : Fin 2368)
  /-- MATRIX_MMA_NEW (R72). -/
  | matrixMmaNew (cell : Fin 2368)
  /-- MATRIX_DRAIN (R74). -/
  | matrixDrain (cell : Fin 2368)
  /-- MATRIX_CHKCMP (R79). -/
  | matrixChkcmp (cell : Fin 2368)
  /-- VECTOR_LOAD (R102). -/
  | vectorLoad (cell : Fin 2368)
  /-- VECTOR_STORE (R102). -/
  | vectorStore (cell : Fin 2368)
  /-- VECTOR_LDC (R102). -/
  | vectorLdc (cell : Fin 2368)
  /-- VECTOR_ADD (R33). -/
  | vectorAdd (cell : Fin 2368)
  /-- VECTOR_MUL (R33). -/
  | vectorMul (cell : Fin 2368)
  /-- VECTOR_FMA (R33). -/
  | vectorFma (cell : Fin 2368)
  /-- VECTOR_MAX (R33). -/
  | vectorMax (cell : Fin 2368)
  /-- VECTOR_MIN (R33). -/
  | vectorMin (cell : Fin 2368)
  /-- VECTOR_CVT (R67). -/
  | vectorCvt (cell : Fin 2368)
  /-- VECTOR_SFU (R33). -/
  | vectorSfu (cell : Fin 2368)
  /-- VECTOR_REDUCE (R33). -/
  | vectorReduce (cell : Fin 2368)
  /-- VECTOR_ROWSTAT (R182). -/
  | vectorRowstat (cell : Fin 2368)
  /-- VECTOR_QUANT_MX (R66). -/
  | vectorQuantMx (cell : Fin 2368)
  /-- VECTOR_CMP (R102). -/
  | vectorCmp (cell : Fin 2368)
  /-- STREAM_SEND (R102). -/
  | streamSend (cell : Fin 2368)
  /-- STREAM_RECV (R102). -/
  | streamRecv (cell : Fin 2368)
  /-- MOVER_START (R43). -/
  | moverStart (cell : Fin 2368)
  /-- SIGNAL_TOKEN (R102). -/
  | signalToken (cell : Fin 2368)
  /-- SIGNAL_WAITTOK (R102). -/
  | signalWaittok (cell : Fin 2368)
  /-- STREAM_FLIT (R41). -/
  | streamFlit (cell : Fin 2368) (entry : Fin 40)
  /-- STREAM_CREDIT (R41). -/
  | streamCredit (cell : Fin 2368) (entry : Fin 32)
  /-- CONTROL_PACKET (R42). -/
  | controlPacket (cell : Fin 2368) (kind : PacketKind)
  /-- MOVER_HALF_EVENT (R43). -/
  | moverHalfEvent (cell : Fin 2368) (x : Fin 8)
  /-- MOVER_FULL_EVENT (R43). -/
  | moverFullEvent (cell : Fin 2368) (x : Fin 8)
  /-- PAGE_TABLE_MISS_FILL (R172). -/
  | pageTableMissFill (cell : Fin 2368) (x : Fin 8)
  /-- CLUSTER_MOVER_TRANSFER_DONE (R121). -/
  | clusterMoverTransferDone (field : Fin 17)
  /-- CMQ_RECORD_APPEND (R121). -/
  | cmqRecordAppend (field : Fin 17)
  /-- STALL_WATCHDOG_EXPIRY (R55). -/
  | stallWatchdogExpiry (field : Fin 17)
  /-- CONTAINED_FAULT_DRAIN_DONE (R56). -/
  | containedFaultDrainDone (field : Fin 17)
  /-- CLEARING_DONE (R50). -/
  | clearingDone (field : Fin 17)
  /-- KILL_DONE (R154). -/
  | killDone (res : Res)
  /-- FIELD_REINIT (R51). -/
  | fieldReinit (src : Source) (field : Fin 17)
  /-- FIELD_REINIT_DONE (R451). -/
  | fieldReinitDone (field : Fin 17)
  /-- FIELD_LOAD (R106). -/
  | fieldLoad
  /-- STITCH_PHASE_START (R104). -/
  | stitchPhaseStart
  /-- DIGEST_WAIT_RESOLVE (R104). -/
  | digestWaitResolve
  /-- FIELD_LOAD_DONE (R105). -/
  | fieldLoadDone (field : Fin 17)
  /-- PATROL_SCRUB (R116). -/
  | patrolScrub (word : Nat) (found : Fin 3)
  /-- KEY_GENERATE (R119). -/
  | keyGenerate (src : Source) (slot : Fin 128)
  /-- KEY_ZEROISE (R119). -/
  | keyZeroise (src : Source) (slot : Fin 128)
  /-- KEY_CMD_DONE (R119). -/
  | keyCmdDone
  /-- COPY (R122). -/
  | copy (engine : Fin 4)
  /-- FILL (R145). -/
  | fill (engine : Fin 4)
  /-- CHECKSUM (R124). -/
  | checksum (engine : Fin 4)
  /-- DMA_CHANNEL_START (R123). -/
  | dmaChannelStart (engine : Fin 4)
  /-- DMA_CHANNEL_DONE (R124). -/
  | dmaChannelDone (chan : Fin 32) (remote : FabricData)
  /-- DMA_CHANNEL_DISABLE (R125). -/
  | dmaChannelDisable (src : Source) (chan : Fin 32)
  /-- DOORBELL (R141). -/
  | doorbell (src : Source) (vef : Fin 129) (ring : Fin 8) (value : BitVec 32)
  /-- DESCRIPTOR_FETCH (R144). -/
  | descriptorFetch (vef : Fin 129)
  /-- RING_ENABLE (R139). -/
  | ringEnable (src : Source) (vef : Fin 129) (ring : RingSel)
  /-- SQ_DISABLE (R156). -/
  | sqDisable (src : Source) (vef : Fin 129) (ring : Fin 8)
  /-- RING_CONFIG_WRITE (R139). -/
  | ringConfigWrite (src : Source) (addr : Nat) (bytes : Nat) (value : Nat)
  /-- NOP (R145). -/
  | nop (res : Res) (cls : Fin 4)
  /-- FENCE (R145). -/
  | fence (res : Res) (cls : Fin 4)
  /-- FENCE_RELEASE (R145). -/
  | fenceRelease (vef : Fin 129) (ring : Fin 8)
  /-- INFER (R145). -/
  | infer (field : Fin 17)
  /-- COMMAND_ADMIT (R148). -/
  | commandAdmit (res : Res)
  /-- PREEMPT_KILL (R153). -/
  | preemptKill (res : Res)
  /-- COMMAND_COMMIT (R150). -/
  | commandCommit (res : Res)
  /-- FIELD_RELEASE (R53). -/
  | fieldRelease (field : Fin 17)
  /-- FIELD_DETACH (R53). -/
  | fieldDetach (field : Fin 17) (vef : Fin 129)
  /-- FIELD_CHECKPOINT (R212). -/
  | fieldCheckpoint (field : Fin 17)
  /-- ACCOUNTING_WINDOW_END (R162). -/
  | accountingWindowEnd (vef : Fin 128)
  /-- ACCOUNTING_RECORD_DEFERRED (R166). -/
  | accountingRecordDeferred (vef : Fin 128)
  /-- ENERGY_RECALIBRATION (R164). -/
  | energyRecalibration (cell : Nat) (engine : Nat) (byte : Nat) (static : List Nat)
  /-- SEQ_ADMIT (R175). -/
  | seqAdmit (field : Fin 17)
  /-- SEQ_STEP (R184). -/
  | seqStep (field : Fin 17)
  /-- SEQ_RETIRE (R188). -/
  | seqRetire (field : Fin 17)
  /-- PREFIX_PIN (R179). -/
  | prefixPin (field : Fin 17)
  /-- PREFIX_UNPIN (R179). -/
  | prefixUnpin (field : Fin 17)
  /-- POOL_VALID (R190). -/
  | poolValid (src : Source) (pool : Fin 16)
  /-- POOL_READY (R190). -/
  | poolReady (pool : Fin 16)
  /-- POOL_INVALIDATE (R189). -/
  | poolInvalidate (src : Source) (pool : Fin 16)
  /-- CAMERA_PACKET (R196). -/
  | cameraPacket (source : Fin 16) (vc : Fin 32) (packet : CamPacket) (err : PacketError)
  /-- LIDAR_PACKET (R203). -/
  | lidarPacket (frame : Bytes)
  /-- IMU_DRDY (R198). -/
  | imuDrdy (port : Fin 2)
  /-- IMU_TRANSACTION_DONE (R198). -/
  | imuTransactionDone (port : Fin 2) (data : Bytes)
  /-- SAMPLE_COMPLETE (R199). -/
  | sampleComplete (source : Fin 32)
  /-- FRAME_SYNC_START (R195). -/
  | frameSyncStart (source : Fin 16)
  /-- FRAME_SYNC_END (R195). -/
  | frameSyncEnd (source : Fin 16)
  /-- INSTANT_RELEASE (R204). -/
  | instantRelease
  /-- INSTANT_WAIT_LIMIT (R204). -/
  | instantWaitLimit
  /-- RESYNC_REQUEST (R208). -/
  | resyncRequest (source : Fin 8)
  /-- SOURCE_ENABLE (R225). -/
  | sourceEnable (src : Source) (source : Fin 32)
  /-- SOURCE_DISABLE (R207). -/
  | sourceDisable (src : Source) (source : Fin 32)
  /-- FUS_RUN_START (R226). -/
  | fusRunStart (src : Source)
  /-- FUS_RUN_STOP (R209). -/
  | fusRunStop (src : Source)
  /-- FRAME (R209). -/
  | frame (field : Fin 17)
  /-- PROJECT (R216). -/
  | project
  /-- RENDER (R233). -/
  | render (prims : List DrawPrim)
  /-- PRESENT (R244). -/
  | present (cls : Fin 4)
  /-- PRESENT_LATCH (R245). -/
  | presentLatch (head : Fin 6)
  /-- FRAME_START (R243). -/
  | frameStart (head : Fin 6) (late : List (Nat × Nat))
  /-- FAULT_REPORT (R260). -/
  | faultReport (source : Fin 256) (field : Option (Fin 17))
  /-- HEARTBEAT_TIMEOUT (R260). -/
  | heartbeatTimeout
  /-- FIRMWARE_SILENT (R261). -/
  | firmwareSilent
  /-- SAFE_STATE_FRAME (R263). -/
  | safeStateFrame
  /-- PRIMARY_DEADLINE_CHECK (R266). -/
  | primaryDeadlineCheck
  /-- STATUS_FRAME (R269). -/
  | statusFrame
  /-- SLEEP_PERMISSION_FRAME (R270). -/
  | sleepPermissionFrame (port : Fin 2) (id : Nat) (ext : Bool) (data : Bytes)
  /-- SLEEP_PERMISSION_EXPIRY (R270). -/
  | sleepPermissionExpiry
  /-- FALLBACK_DATAGRAM (R259). -/
  | fallbackDatagram
  /-- KICK (R271). -/
  | kick (src : Source)
  /-- WATCHDOG_WINDOW_EXPIRY (R271). -/
  | watchdogWindowExpiry
  /-- STATUS_WRITE (R278). -/
  | statusWrite (src : Source) (value : Fin 16)
  /-- GOLDEN_SLOT_OPEN (R275). -/
  | goldenSlotOpen (field : Fin 17) (ring : Fin 2)
  /-- GOLDEN_FORCED_KILL (R275). -/
  | goldenForcedKill (field : Fin 17)
  /-- GOLDEN_SKIP (R275). -/
  | goldenSkip (field : Fin 17)
  /-- GOLDEN_DEADLINE (R274). -/
  | goldenDeadline (field : Fin 17)
  /-- GOLDEN_COMPARE_DONE (R274). -/
  | goldenCompareDone (field : Fin 17)
  /-- BIST_SLICE_START (R287). -/
  | bistSliceStart (kind : SliceKind) (unit : Fin 192)
  /-- BIST_SLICE_DONE (R290). -/
  | bistSliceDone (fails : List BistFail)
  /-- BIST_INTERVAL_DUE (R288). -/
  | bistIntervalDue (kind : SliceKind) (unit : Fin 192)
  /-- COVERAGE_LAPSE (R289). -/
  | coverageLapse (kind : SliceKind) (unit : Fin 192)
  /-- READMIT (R291). -/
  | readmit (src : Source) (unit : Fin 192)
  /-- VEF_ENABLE (R297). -/
  | vefEnable (src : Source) (vef : Fin 128)
  /-- VEF_DISABLE (R298). -/
  | vefDisable (src : Source) (vef : Fin 128)
  /-- VEF_RESET (R303). -/
  | vefReset (src : Source) (vef : Fin 128)
  /-- VEF_RESET_DONE (R304). -/
  | vefResetDone (vef : Fin 128)
  /-- FUNCTION_LEVEL_RESET (R296). -/
  | functionLevelReset (vef : Fin 128)
  /-- VEF_FREEZE (R305). -/
  | vefFreeze (engine : Fin 4)
  /-- FREEZE_KILL_EXPIRY (R305). -/
  | freezeKillExpiry (vef : Fin 128)
  /-- FREEZE_COMPLETE (R306). -/
  | freezeComplete (vef : Fin 128)
  /-- VEF_THAW (R307). -/
  | vefThaw (engine : Fin 4)
  /-- DEPOT_AUTHORISATION (R300). -/
  | depotAuthorisation (datagram : Bytes)
  /-- DEPOT_AUTH_EXPIRY (R300). -/
  | depotAuthExpiry
  /-- ATTESTATION_GO (R311). -/
  | attestationGo (src : Source)
  /-- ATTESTATION_REPORT_DONE (R311). -/
  | attestationReportDone
  /-- ATTESTATION_REQUEST (R392). -/
  | attestationRequest (datagram : Bytes)
  /-- PASS_FLIT (R315). -/
  | passFlit (port : Fin 4) (flit : Bytes)
  /-- PASS_RETRAIN_DONE (R315). -/
  | passRetrainDone (port : Fin 4) (ok : Bool)
  /-- LINK_TRAINING_DONE (R316). -/
  | linkTrainingDone (port : Fin 4) (lanes : Fin 256)
  /-- SIGNAL_LOCK_LOSS (R316). -/
  | signalLockLoss (port : Fin 4)
  /-- HELLO_TIMEOUT (R316). -/
  | helloTimeout (port : Fin 4)
  /-- HELLO_SEND (R320). -/
  | helloSend (port : Fin 4)
  /-- HELLO (R320). -/
  | passHello (port : Fin 4) (hello : PassHello)
  /-- LSA_SEND (R320). -/
  | lsaSend
  /-- LSA (R320). -/
  | passLsa (port : Fin 4) (lsa : PassLsa)
  /-- LSA_AGE_OUT (R320). -/
  | lsaAgeOut (hash : Nat)
  /-- ROUTE_COMPUTE (R322). -/
  | routeCompute
  /-- ROUTES (R322). -/
  | passRoutes (gen : Fin 65536) (entries : List PassRoute)
  /-- ROUTES_ACK (R322). -/
  | routesAck (member : Fin 256) (gen : Fin 65536)
  /-- COMMIT (R322). -/
  | routesCommit (gen : Fin 65536)
  /-- WRITE (R318). -/
  | passWrite (port : Fin 4) (packet : PassPacket)
  /-- WRITE_ACK (R318). -/
  | passWriteAck (port : Fin 4) (packet : PassPacket)
  /-- READ (R318). -/
  | passRead (port : Fin 4) (packet : PassPacket)
  /-- READ_DATA (R318). -/
  | passReadData (port : Fin 4) (packet : PassPacket)
  /-- LOCK (R327). -/
  | passLock (port : Fin 4) (packet : PassPacket)
  /-- LOCK_GRANT (R327). -/
  | passLockGrant (port : Fin 4) (packet : PassPacket)
  /-- UNLOCK (R327). -/
  | passUnlock (port : Fin 4) (packet : PassPacket)
  /-- SB_POLL (R329). -/
  | sbPoll (port : Fin 4) (packet : PassPacket)
  /-- SB_DATA (R329). -/
  | sbData (port : Fin 4) (packet : PassPacket)
  /-- POLL_TIMER (R329). -/
  | pollTimer (entry : Fin 16)
  /-- POLL_MISS (R329). -/
  | pollMiss (entry : Fin 16)
  /-- SBO_SET (R329). -/
  | sboSet (src : Source) (word : Fin 16) (set : Nat)
  /-- REQUEST_TIMEOUT (R318). -/
  | requestTimeout (tag : Fin 65536)
  /-- TUNNEL_DATAGRAM (R324). -/
  | tunnelDatagram (payload : Bytes)
  /-- BRIDGE_BURST (R326). -/
  | bridgeBurst (src : Source) (cls : Fin 4) (addr : Nat) (data : Option Bytes) (len : Nat)
  /-- FABRIC_LR (R327). -/
  | fabricLr (src : Source) (addr : Nat)
  /-- FABRIC_SC (R327). -/
  | fabricSc (src : Source) (addr : Nat) (data : Bytes)
  /-- FABRIC_AMO (R327). -/
  | fabricAmo (src : Source) (addr : Nat) (op : AmoOp) (wide : Bool) (value : Nat)
  /-- LOCK_HOLD_EXPIRY (R327). -/
  | lockHoldExpiry
  /-- LOCK_WAIT_TIMEOUT (R327). -/
  | lockWaitTimeout
  /-- DELAYED_READ_EXPIRY (R330). -/
  | delayedReadExpiry (port : Fin 4)
  /-- SNAP (R340). -/
  | snap (src : Source)
  /-- TB_INC_WRITE (R341). -/
  | tbIncWrite (src : Source) (base : Fin 4) (value : Nat)
  /-- TB_OFS_LOW_WRITE (R342). -/
  | tbOfsLowWrite (src : Source) (base : Fin 4) (low : Nat)
  /-- TIME_STEP (R342). -/
  | timeStep (src : Source) (base : Fin 4) (high : Nat) (low : Option Nat)
  /-- GPTP_SYNC_SEND (R346). -/
  | gptpSyncSend (domain : Fin 3)
  /-- PDELAY_SEND (R346). -/
  | pdelaySend (port : Fin 10)
  /-- ETH_FRAME_RECEIVE (R352). -/
  | ethFrameReceive (port : Fin 10) (frame : Bytes) (gptp : Option GptpInfo)
  /-- ETH_TRANSMIT (R353). -/
  | ethTransmit (ring : Fin 8)
  /-- TX_TIMESTAMP (R354). -/
  | txTimestamp (port : Fin 10)
  /-- POP (R355). -/
  | txtsPop (src : Source) (port : Fin 10)
  /-- GATE_INTERVAL (R351). -/
  | gateInterval (port : Fin 10)
  /-- CAN_FRAME_RECEIVE (R357). -/
  | canFrameReceive (ctl : Fin 16) (frame : CanFrame)
  /-- CONTAINER_SEND (R361). -/
  | containerSend (container : Fin 1024)
  /-- CAN_TRANSMIT (R357). -/
  | canTransmit (ctl : Fin 14)
  /-- BUS_OFF (R358). -/
  | busOff (ctl : Fin 16)
  /-- BUS_OFF_RECOVERY (R358). -/
  | busOffRecovery (ctl : Fin 16)
  /-- CONTAINER_VALID (R367). -/
  | containerValid (src : Source) (container : Fin 1024)
  /-- ROUTE_VALID (R360). -/
  | routeValid (src : Source) (route : Fin 4096)
  /-- SWITCH_RUN (R349). -/
  | switchRun (src : Source)
  /-- UNIT_ENABLE (R403). -/
  | unitEnable (src : Source) (unit : UnitSel)
  /-- UNIT_DISABLE (R403). -/
  | unitDisable (src : Source) (unit : UnitSel)
  /-- UNIT_STARTING_DONE (R403). -/
  | unitStartingDone (unit : UnitSel)
  /-- UNIT_STOPPING_DONE (R403). -/
  | unitStoppingDone (unit : UnitSel)
  /-- UNIT_START_TIMEOUT (R403). -/
  | unitStartTimeout (unit : UnitSel)
  /-- COLD_RESET (R404). -/
  | coldReset (byMonitor : Bool)
  /-- COLD_BOOT (R376). -/
  | coldBoot (straps : Fin 16) (fails : List BootFail) (channels : List (Fin 64))
  /-- WARM_N_PULSE (R404). -/
  | warmNPulse
  /-- WARM_RESET (R405). -/
  | warmReset (src : Source) (key : Fin 256)
  /-- FIELD_RESET (R406). -/
  | fieldReset (src : Source) (field : Fin 32)
  /-- ANNOUNCE (R379). -/
  | recoveryAnnounce
  /-- DATA (R379). -/
  | recoveryData (sender : Nat) (offset : Nat) (payload : Bytes)
  /-- END (R379). -/
  | recoveryEnd (sender : Nat) (total : Nat)
  /-- RECOVERY_SILENCE_TIMEOUT (R379). -/
  | recoverySilenceTimeout
  /-- PACKAGE_UPDATE (R381). -/
  | packageUpdate (src : Source)
  /-- PACKAGE_UPDATE_DONE (R380). -/
  | packageUpdateDone (mismatch : Bool)
  /-- COMPONENT_FAULT (R383). -/
  | componentFault (comp : Fin 16)
  /-- COMPONENT_RESTART_DONE (R383). -/
  | componentRestartDone (comp : Fin 16)
  /-- SCHEDULER_FAULT (R384). -/
  | schedulerFault
  /-- SAVE (R386). -/
  | logSave (src : Source)
  /-- TRACE_POINT (R387). -/
  | tracePoint (field : Fin 17)
  /-- RAIL_VALID (R397). -/
  | railValid (rail : Fin 11)
  /-- RAIL_INVALID (R397). -/
  | railInvalid (rail : Fin 11)
  /-- DOMAIN_POWER_UP (R400). -/
  | domainPowerUp (domain : Fin 24)
  /-- DOMAIN_POWER_DOWN (R400). -/
  | domainPowerDown (domain : Fin 24)
  /-- DOMAIN_POWER_FAIL (R400). -/
  | domainPowerFail (domain : Fin 24)
  /-- PLL_LOCK (R401). -/
  | pllLock (pll : Fin 24)
  /-- CLOCK_CHANGE_DONE (R402). -/
  | clockChangeDone
  /-- AVS_ACK (R398). -/
  | avsAck
  /-- LIMITER_WINDOW (R413). -/
  | limiterWindow (watts : Nat) (tj : Nat)
  /-- MTIMECMP_MATCH (R427). -/
  | mtimecmpMatch (hart : Fin 16)
  /-- I2C_GO (R431). -/
  | i2cGo (src : Source) (receiver : Fin 12)
  /-- I2C_DONE (R432). -/
  | i2cDone (receiver : Fin 12) (result : Fin 8) (data : Bytes)
  /-- I2C_TIMEOUT (R432). -/
  | i2cTimeout (receiver : Fin 12)
  /-- APHY_LINK_LOCK (R430). -/
  | aphyLinkLock (receiver : Fin 12) (gear : Fin 8)
  /-- APHY_LINK_LOSS (R432). -/
  | aphyLinkLoss (receiver : Fin 12)
  /-- REGISTER_WRITE (R422). -/
  | registerWrite (src : Source) (addr : Nat) (bytes : Nat) (value : Nat)
  /-- SHADOW_DEADLINE_CHECK (R268). -/
  | shadowDeadlineCheck
  /-- PCIE_LINK_CHANGE (R429). -/
  | pcieLinkChange (up : Bool) (speed : Fin 8) (width : Fin 16)
  /-- PCIE_PERST_CHANGE (R408). -/
  | pciePerstChange (high : Bool)
  /-- PCIE_CONFIG_REQUEST (R296). -/
  | pcieConfigRequest (request : PcieRequest)
  /-- ETH_PORT_LINK_CHANGE (R363). -/
  | ethPortLinkChange (port : Fin 10) (up : Bool)
  /-- GRANDMASTER_LOSS (R346). -/
  | grandmasterLoss (domain : Fin 3)
  deriving DecidableEq, Repr

end Sys2Proof
end

