-- ==== Sys2Proof/Machine/Sparse.lean ====
section
/-! DEFINITION. Sparse stores: a list of (key, value) pairs with rising keys and no entry equal to what an unlisted
key reads as, so that equal stores are equal data. Registers, memories and arrays of units are kept in this form. -/

namespace Sys2Proof.Machine

/-- A store of values by number: keys strictly rising, no entry equal to the default its owner names. -/
abbrev Sparse (α : Type) := List (Nat × α)

/-- The value under key `n`; an unlisted key reads as `d`. -/
def Sparse.look {α : Type} (d : α) : Sparse α → Nat → α
  | [], _ => d
  | (k, v) :: r, n => if n = k then v else Sparse.look d r n

/-- The store with an entry for key `n`, in its place. -/
def Sparse.enter {α : Type} : Sparse α → Nat → α → Sparse α
  | [], n, x => [(n, x)]
  | (k, v) :: r, n, x =>
    if n = k then (n, x) :: r
    else if n < k then (n, x) :: (k, v) :: r
    else (k, v) :: Sparse.enter r n x

/-- The store with `x` under key `n`; writing the default removes the entry. -/
def Sparse.put {α : Type} [DecidableEq α] (d : α) (l : Sparse α) (n : Nat) (x : α) : Sparse α :=
  if x = d then l.filter (fun e => e.1 != n) else Sparse.enter l n x

/-- The canonical form: keys strictly rising (all above `lo`, where one is given) and no entry at the default. -/
def Sparse.okFrom {α : Type} [DecidableEq α] (d : α) : Option Nat → Sparse α → Bool
  | _, [] => true
  | lo, (k, v) :: r =>
    (match lo with
      | none => true
      | some b => decide (b < k)) && decide (v ≠ d) && Sparse.okFrom d (some k) r

/-- The canonical form of a whole store. -/
def Sparse.ok {α : Type} [DecidableEq α] (d : α) (l : Sparse α) : Bool := Sparse.okFrom d none l

/-- The store with `f` applied to the value under key `n`. -/
def Sparse.change {α : Type} [DecidableEq α] (d : α) (l : Sparse α) (n : Nat) (f : α → α) : Sparse α :=
  Sparse.put d l n (f (Sparse.look d l n))

/-- `n` bytes from address `a` up, where an unlisted address reads as `d`. -/
def Sparse.bytes (d : Byte) (l : Sparse Byte) (a n : Nat) : Bytes :=
  (List.range n).map (fun i => Sparse.look d l (a + i))

/-- The bytes `bs` written from address `a` up. -/
def Sparse.putBytes (d : Byte) (l : Sparse Byte) (a : Nat) : Bytes → Sparse Byte
  | [] => l
  | b :: r => Sparse.putBytes d (Sparse.put d l a b) (a + 1) r

/-- The number a byte string spells, lowest byte first (R5). -/
def leNat : Bytes → Nat
  | [] => 0
  | b :: r => b.toNat + 256 * leNat r

/-- The low `n` bytes of a number, lowest first (R5). -/
def leBytes : Nat → Nat → Bytes
  | 0, _ => []
  | n + 1, v => BitVec.ofNat 8 v :: leBytes n (v / 256)

/-- The number a byte string spells, highest byte first (network order). -/
def beNat (bs : Bytes) : Nat := leNat bs.reverse

/-- The low `n` bytes of a number, highest first. -/
def beBytes (n v : Nat) : Bytes := (leBytes n v).reverse

/-- A byte string cut or zero-filled to `n` bytes. -/
def Bytes.pad (bs : Bytes) (n : Nat) : Bytes := (bs ++ List.replicate (n - bs.length) 0).take n

/-- `len` bytes of `bs` from offset `o` (fewer where the string ends). -/
def Bytes.sub (bs : Bytes) (o len : Nat) : Bytes := (bs.drop o).take len

/-- The little-endian number of `len` bytes at offset `o`; bytes past the end count as zero. -/
def Bytes.num (bs : Bytes) (o len : Nat) : Nat := leNat (Bytes.sub bs o len)

/-- Bits `lo` up, `w` of them, of a number. -/
def bits (v lo w : Nat) : Nat := v / 2 ^ lo % 2 ^ w

/-- Bit `i` of a number. -/
def bit (v i : Nat) : Bool := v.testBit i

/-- A number with bit `i` set. -/
def setBit (v i : Nat) : Nat := v ||| 2 ^ i

/-- A number with bit `i` clear. -/
def clearBit (v i : Nat) : Nat := if v.testBit i then v - 2 ^ i else v

/-- A Bool as a number. -/
def b2n (b : Bool) : Nat := if b then 1 else 0

/-- The two's-complement reading of a `w`-bit number. -/
def signed (w v : Nat) : Int := if v % 2 ^ w < 2 ^ (w - 1) then (v % 2 ^ w : Nat) else (v % 2 ^ w : Nat) - (2 ^ w : Nat)

/-- An integer as a `w`-bit two's-complement number. -/
def unsigned (w : Nat) (x : Int) : Nat := (x % (2 ^ w : Nat)).toNat

/-- The number of ones among the low `n` bits. -/
def popCount (n v : Nat) : Nat := ((List.range n).filter (fun i => v.testBit i)).length

end Sys2Proof.Machine
end

