-- ==== Sys2Proof/Machine/Net.lean ====
section
/-! DEFINITION. Reading Ethernet frames: VLAN tag, EtherType and UDP over IPv4 or IPv6. The layouts are those of
IEEE 802.3, 802.1Q, RFC 791, RFC 8200 and RFC 768 (PRESUMED: the manual names the protocols and not their bytes). -/

namespace Sys2Proof.Machine

/-- A big-endian number of `n` bytes at offset `o` of a byte string; bytes past the end count as zero. -/
def Bytes.be (bs : Bytes) (o n : Nat) : Nat := (List.range n).foldl (fun a i => a * 256 + (bs.getD (o + i) 0).toNat) 0

/-- An Ethernet frame as its receiver reads it. -/
structure EthView where
  dst : Nat
  src : Nat
  /-- Tag control information, where the frame is tagged. -/
  tci : Option Nat
  etype : Nat
  body : Bytes
  deriving DecidableEq, Repr

/-- The fields of an Ethernet frame without its FCS; none for one shorter than a header. -/
def ethView (f : Bytes) : Option EthView :=
  if f.length < 14 then none
  else if Bytes.be f 12 2 = 0x8100 then
    if f.length < 18 then none
    else some ⟨Bytes.be f 0 6, Bytes.be f 6 6, some (Bytes.be f 14 2), Bytes.be f 16 2, f.drop 18⟩
  else some ⟨Bytes.be f 0 6, Bytes.be f 6 6, none, Bytes.be f 12 2, f.drop 14⟩

/-- A UDP datagram in a frame. -/
structure UdpView where
  srcPort : Nat
  dstPort : Nat
  payload : Bytes
  deriving DecidableEq, Repr

/-- The datagram behind a UDP header. -/
def udpView (b : Bytes) : Option UdpView :=
  let len := Bytes.be b 4 2
  if b.length < 8 ∨ len < 8 ∨ b.length < len then none
  else some ⟨Bytes.be b 0 2, Bytes.be b 2 2, (b.drop 8).take (len - 8)⟩

/-- The UDP datagram behind `next`, the header that an IPv6 packet names next: behind hop-by-hop, routing and destination
options, an authentication header, and the header of a fragment that is the whole packet. -/
def ipv6Udp : Nat → Nat → Bytes → Option UdpView
  | 0, _, _ => none
  | n + 1, next, b =>
    let len := Bytes.be b 1 1
    if next = 17 then udpView b
    else if b.length < 8 then none
    else if next = 0 ∨ next = 43 ∨ next = 60 then ipv6Udp n (Bytes.be b 0 1) (b.drop (len * 8 + 8))
    else if next = 51 then ipv6Udp n (Bytes.be b 0 1) (b.drop (len * 4 + 8))
    else if next = 44 ∧ Bytes.be b 2 2 % 2 = 0 ∧ Bytes.be b 2 2 / 8 = 0 then ipv6Udp n (Bytes.be b 0 1) (b.drop 8)
    else none

/-- The UDP datagram that a frame carries over IPv4 or IPv6, not fragmented. -/
def EthView.udp (e : EthView) : Option UdpView :=
  let b := e.body
  if e.etype = 0x0800 then
    let ihl := Bytes.be b 0 1 % 16 * 4
    if Bytes.be b 0 1 / 16 = 4 ∧ ihl ≥ 20 ∧ Bytes.be b 9 1 = 17 ∧ Bytes.be b 6 2 % 0x4000 = 0 then udpView (b.drop ihl)
    else none
  else if e.etype = 0x86DD then
    if Bytes.be b 0 1 / 16 = 6 then ipv6Udp 64 (Bytes.be b 6 1) (b.drop 40) else none
  else none

/-- The VLAN ID of a frame: that of its tag, 0 where it has none. -/
def EthView.vid (e : EthView) : Nat :=
  match e.tci with
  | some t => t % 4096
  | none => 0

end Sys2Proof.Machine
end

