-- ==== Sys2Proof/Machine/Hash.lean ====
section
/-! DEFINITION. The standard functions the manual names: SHA-384 and HMAC (15 R390, R391), the CRCs of 05 R124, 10 R271,
13 R315 and the E2E profiles of 10 R259, R267, and ECDSA P-384 verification (04 R85, 12 R300, 15 R370). -/

namespace Sys2Proof.Machine

/-! ## SHA-384 -/

/-- The largest `r` below `2 ^ k` beyond `r0` with `r ^ e ≤ x`, bit by bit. -/
def rootBits (e x : Nat) : Nat → Nat → Nat
  | 0, r => r
  | k + 1, r => rootBits e x k (if (r + 2 ^ k) ^ e ≤ x then r + 2 ^ k else r)

/-- The first 64 bits of the fractional part of the `e`-th root of a prime: how FIPS 180-4 fixes its constants. -/
def rootFraction (e p : Nat) : Nat := rootBits e (p * 2 ^ (64 * e)) 70 0 % 2 ^ 64

/-- The first eighty primes. -/
def eightyPrimes : List Nat := (List.range 410).filter (fun n => decide (2 ≤ n) && (List.range 21).all (fun d => d < 2 || n ≤ d || n % d != 0))

/-- Initial state of SHA-384: the square roots of the ninth to the sixteenth prime. -/
def sha384Init : List Nat := ((eightyPrimes.drop 8).take 8).map (rootFraction 2)

/-- A 64-bit word turned right by each of some distances, and the results added without carry. -/
def turns (x : Nat) (by_ : List Nat) : Nat := by_.foldl (fun y n => y ^^^ (x / 2 ^ n + x % 2 ^ n * 2 ^ (64 - n))) 0

/-- The working variables of a block: two queues of four, whose heads are the youngest. -/
structure ShaVars where
  ab : List Nat
  ef : List Nat
  deriving DecidableEq, Repr

/-- A queue of four moved on by one, with a new head and what its last element was. -/
def shaPush (x : Nat) (q : List Nat) : List Nat := (x % 2 ^ 64) :: q.take 3

/-- One round: the youngest element of each queue, their choice and majority, and the round's constant and word. -/
def ShaVars.round (v : ShaVars) (kw : Nat) : ShaVars :=
  let pick := v.ef.getD 2 0 ^^^ (v.ef.getD 0 0 &&& (v.ef.getD 1 0 ^^^ v.ef.getD 2 0))
  let most := (v.ab.getD 2 0 &&& (v.ab.getD 0 0 ||| v.ab.getD 1 0)) ||| (v.ab.getD 0 0 &&& v.ab.getD 1 0)
  let sum := turns (v.ef.getD 0 0) [14, 18, 41] + pick + v.ef.getD 3 0 + kw
  ⟨shaPush (sum + turns (v.ab.getD 0 0) [28, 34, 39] + most) v.ab, shaPush (sum + v.ab.getD 3 0) v.ef⟩

/-- Rounds over a window of the sixteen words to come, one for each prime. -/
def shaRounds : List Nat → List Nat → ShaVars → ShaVars
  | [], _, v => v
  | p :: ps, w, v =>
    let far := turns (w.getD 1 0) [1, 8] ^^^ w.getD 1 0 / 2 ^ 7
    let near := turns (w.getD 14 0) [19, 61] ^^^ w.getD 14 0 / 2 ^ 6
    shaRounds ps (w.drop 1 ++ [(far + near + w.getD 0 0 + w.getD 9 0) % 2 ^ 64]) (v.round (rootFraction 3 p + w.getD 0 0))

/-- One 128-byte block. -/
def shaBlock (h : List Nat) (w : List Nat) : List Nat :=
  let v := shaRounds eightyPrimes w ⟨h.take 4, h.drop 4⟩
  List.zipWith (fun x y => (x + y) % 2 ^ 64) h (v.ab ++ v.ef)

/-- The big-endian 64-bit words of a byte string, `n` of them. -/
def beWords : Nat → Bytes → List Nat
  | 0, _ => []
  | n + 1, bs => beNat (bs.take 8) :: beWords n (bs.drop 8)

/-- All blocks of a padded message, `n` of them. -/
def shaBlocks : Nat → List Nat → Bytes → List Nat
  | 0, h, _ => h
  | n + 1, h, bs => shaBlocks n (shaBlock h (beWords 16 bs)) (bs.drop 128)

/-- SHA-384 of a byte string, 48 bytes. -/
def sha384 (m : Bytes) : Bytes :=
  let pad := (239 - m.length % 128) % 128
  let p := m ++ [0x80#8] ++ List.replicate pad 0 ++ beBytes 16 (m.length * 8)
  ((shaBlocks (p.length / 128) sha384Init p).take 6).flatMap (beBytes 8)

/-- HMAC-SHA-384. -/
def hmac384 (key m : Bytes) : Bytes :=
  let k := if key.length > 128 then sha384 key else key
  let k := k ++ List.replicate (128 - k.length) 0
  sha384 (k.map (· ^^^ 0x5C#8) ++ sha384 (k.map (· ^^^ 0x36#8) ++ m))

/-- HKDF-SHA-384 with an output of 48 bytes. -/
def hkdf384 (salt ikm info : Bytes) : Bytes := hmac384 (hmac384 salt ikm) (info ++ [0x01#8])

/-! ## CRCs -/

/-- `f n`, with `n` evaluated first: a long loop over a register then runs without a nest of unevaluated steps. -/
def forced {α : Type} (n : Nat) (f : Nat → α) : α :=
  match n with
  | 0 => f 0
  | k + 1 => f (k + 1)

/-- `n` steps of a reflected CRC register with polynomial `poly` (bit-reversed). -/
def crcBits (poly : Nat) : Nat → Nat → Nat
  | 0, r => r
  | n + 1, r => crcBits poly n (if r.testBit 0 then r >>> 1 ^^^ poly else r >>> 1)

/-- A reflected CRC register run over bytes. -/
def crcRefl (poly : Nat) : Nat → Bytes → Nat
  | r, [] => r
  | r, b :: bs => forced (crcBits poly 8 (r ^^^ b.toNat)) (fun r => crcRefl poly r bs)

/-- A running CRC-32C register (05 R124): Castagnoli 0x1EDC6F41, reflected. -/
def crc32cStep (r : Nat) (bs : Bytes) : Nat := crcRefl 0x82F63B78 r bs

/-- CRC-32C with initial value and final XOR of all ones (05 R124). -/
def crc32c (bs : Bytes) : Nat := crc32cStep 0xFFFFFFFF bs ^^^ 0xFFFFFFFF

/-- CRC-64 with the reflected ECMA-182 polynomial, initial value and final XOR of all ones (CRC-64/XZ). -/
def crc64 (bs : Bytes) : Nat := crcRefl 0xC96C5795D7870F42 (2 ^ 64 - 1) bs ^^^ (2 ^ 64 - 1)

/-- `n` steps of a CRC register of width `w` with its highest bit first. -/
def crcBitsMsb (w poly : Nat) : Nat → Nat → Nat
  | 0, r => r
  | n + 1, r => crcBitsMsb w poly n (if r.testBit (w - 1) then (r <<< 1 ^^^ poly) % 2 ^ w else r <<< 1 % 2 ^ w)

/-- A CRC of width `w`, highest bit first, over bytes. -/
def crcMsb (w poly : Nat) : Nat → Bytes → Nat
  | r, [] => r
  | r, b :: bs => forced (crcBitsMsb w poly 8 (r ^^^ b.toNat <<< (w - 8))) (fun r => crcMsb w poly r bs)

/-- CRC-8 with polynomial 0x2F, initial value and final XOR 0xFF: the CRC of AUTOSAR E2E Profile 22. -/
def crc8h2f (bs : Bytes) : Nat := crcMsb 8 0x2F 0xFF bs ^^^ 0xFF

/-- The CRC of a frame protected by E2E Profile 22: over every byte after the CRC, then the Data ID that the counter
selects from the list of sixteen. -/
def e2eP22 (ids : Bytes) (frame : Bytes) : Nat :=
  let ctr := (frame.getD 1 0).toNat % 16
  crc8h2f (frame.drop 1 ++ [ids.getD ctr 0])

/-- The header of E2E Profile 7: CRC-64 (8), length (4), counter (4), Data ID (4), big-endian; the CRC is over
everything after itself. -/
def e2eP7 (dataId counter : Nat) (body : Bytes) : Bytes :=
  let rest := beBytes 4 (20 + body.length) ++ beBytes 4 counter ++ beBytes 4 dataId ++ body
  beBytes 8 (crc64 rest) ++ rest

/-! ## ECDSA P-384 -/

def p384p : Nat := 2 ^ 384 - 2 ^ 128 - 2 ^ 96 + 2 ^ 32 - 1
def p384n : Nat := 0xffffffffffffffffffffffffffffffffffffffffffffffffc7634d81f4372ddf581a0db248b0a77aecec196accc52973
def p384b : Nat := 0xb3312fa7e23ee7e4988e056be3f82d19181d9c6efe8141120314088f5013875ac656398d8a2ed19d2a85c8edd3ec2aef
def p384gx : Nat := 0xaa87ca22be8b05378eb1c71ef320ad746e1d3b628ba79b9859f741e082542a385502f25dbf55296c3a545e3872760ab7
def p384gy : Nat := 0x3617de4a96262c6f5d9e98bf9292dc29f8f41dbd289a147ce9da3113b5f0b8c00a60b1ce1d7e819d7a431d7c90ea0e5f

/-- `b ^ e mod m` by squaring, over `k` bits of the exponent, lowest first. -/
def powMod (m : Nat) : Nat → Nat → Nat → Nat → Nat
  | 0, _, _, acc => acc
  | k + 1, b, e, acc => powMod m k (b * b % m) (e / 2) (if e % 2 = 1 then acc * b % m else acc)

/-- The inverse modulo a prime. -/
def invMod (m x : Nat) : Nat := powMod m 384 (x % m) (m - 2) 1

/-- A point of the curve in Jacobian coordinates; Z = 0 is the point at infinity. -/
structure JPoint where
  x : Nat
  y : Nat
  z : Nat
  deriving DecidableEq, Repr

def subMod (m a b : Nat) : Nat := (a + (m - b % m)) % m

/-- The double of a point (a = −3). -/
def JPoint.dbl (q : JPoint) : JPoint :=
  let p := p384p
  let d := q.z * q.z % p
  let g := q.y * q.y % p
  let b := q.x * g % p
  let a := 3 * (subMod p q.x d * ((q.x + d) % p) % p) % p
  let x3 := subMod p (a * a % p) (8 * b % p)
  let z3 := 2 * q.y * q.z % p
  ⟨x3, subMod p (a * subMod p (4 * b % p) x3 % p) (8 * (g * g % p) % p), z3⟩

/-- The sum of two points. -/
def JPoint.add (q r : JPoint) : JPoint :=
  let p := p384p
  if q.z = 0 then r else if r.z = 0 then q else
  let z1 := q.z * q.z % p
  let z2 := r.z * r.z % p
  let u1 := q.x * z2 % p
  let u2 := r.x * z1 % p
  let s1 := q.y * r.z % p * z2 % p
  let s2 := r.y * q.z % p * z1 % p
  if u1 = u2 then (if s1 = s2 then q.dbl else ⟨1, 1, 0⟩) else
  let h := subMod p u2 u1
  let i := 2 * h % p * (2 * h % p) % p
  let j := h * i % p
  let w := 2 * subMod p s2 s1 % p
  let v := u1 * i % p
  let x3 := subMod p (subMod p (w * w % p) j) (2 * v % p)
  ⟨x3, subMod p (w * subMod p v x3 % p) (2 * (s1 * j % p) % p), 2 * (q.z * r.z % p) % p * h % p⟩

/-- A multiple of a point, over `n` bits of the scalar, highest first. -/
def JPoint.mul : Nat → Nat → JPoint → JPoint
  | 0, _, _ => ⟨1, 1, 0⟩
  | n + 1, k, q =>
    let r := (JPoint.mul n (k / 2) q).dbl
    if k % 2 = 1 then r.add q else r

/-- ECDSA P-384 verification: the public key as X then Y and the signature as r then s, 48 bytes each, big-endian; the
message hash as 48 bytes. -/
def ecdsaVerify (key sig hash : Bytes) : Bool :=
  let x := beNat (key.take 48)
  let y := beNat ((key.drop 48).take 48)
  let r := beNat (sig.take 48)
  let t := beNat ((sig.drop 48).take 48)
  let e := beNat hash
  let p := p384p
  if x ≥ p ∨ y ≥ p ∨ y * y % p ≠ (x * x % p * x + subMod p (p384b) (3 * x % p)) % p then false
  else if r = 0 ∨ r ≥ p384n ∨ t = 0 ∨ t ≥ p384n then false
  else
    let w := invMod p384n t
    let q := (JPoint.mul 384 (e * w % p384n) ⟨p384gx, p384gy, 1⟩).add (JPoint.mul 384 (r * w % p384n) ⟨x, y, 1⟩)
    if q.z = 0 then false
    else
      let zi := invMod p q.z
      decide (q.x * (zi * zi % p) % p % p384n = r)

end Sys2Proof.Machine
end

