-- ==== Sys2Proof/Config.lean ====
section
/-! DEFINITION. The free values: what the manual leaves open, as constants without a body, so that nothing can be
proved of them but that they are values of their type. Each is named in the assumption log. -/

namespace Sys2Proof.Config

/-- What a byte of HBM reads as when the key or the tweak in force differs from those it was written under
(05 R117, R118: the ciphertext is decrypted under another key or address): by key and line in force, key and line of
the write, storage address and the byte written. -/
opaque garbled : Nat → Nat → Nat → Nat → Nat → Byte → Byte

/-- A byte that the manual calls undefined, by the number of the draw and its place. -/
opaque undefinedByte : Nat → Nat → Byte

/-- A 32-bit value from the hardware entropy source or otherwise open, by the number of the draw and an index. -/
opaque freeWord : Nat → Nat → BitVec 32

/-- Results of the special functions of the vector unit (02 R33 gives bounds, not bits, and nothing for some
operands): function code and operand. Reals.lean holds it to the bounds. -/
opaque sfu : Nat → BitVec 32 → BitVec 32

/-- The sixteen bits that a stochastic conversion takes from its lane's generator, by the generator's state (03 R68 names no
places). -/
opaque laneBits : BitVec 32 → BitVec 16

/-- The slice row (2n) and column (2n + 1), in tiles, of the n-th tile drained into a checksum bank (03 R79 leaves the
order of the tiles open). -/
opaque tilePlace : Nat → Nat

/-- The FP32 sum of 32 lanes in the order of the lane tree, whose shape is open (02 R33). -/
opaque laneSum : List (BitVec 32) → BitVec 32

/-- A pixel coordinate as the projector's FP32 arithmetic finds it, by its exact value (08 R220 bounds the error). -/
opaque pixel : Rat → Rat

/-- What a primitive of a draw stream makes of a tile's attachments (09 R233: the stream's encoding is a driver's): by the
RENDER's draw, the primitive's sequence number, the tile and its contents. -/
opaque painted : Nat → Nat → Nat → List Bytes → List Bytes

/-- Colour components that a head sends for a stored pixel where the manual gives no conversion: format code, BPC10 and
pixel; the background colour at 8 bits is under format 0 (09 R244, R250). -/
opaque displayed : Nat → Nat → Nat → Nat

/-- A warped pixel's components as FP32 bilinear sampling finds them, by the exact source position, where it has one, and
the four texels around it (09 R248). -/
opaque warped : Option (Rat × Rat) → List Nat → Nat → Nat

/-- Where the Cantle image places its rings, its buffer list and the Shadow field's output inside the resident driving region,
and the ring sizes (10 R258 gives none), by number. -/
opaque cantleWord : Nat → Nat

/-- The seed that the fuzzy extractor recovers from the PUF's reading and helper data, and the helper data of an enrolment,
by the number of the draw (15 R388: neither layout nor algorithm is part of the interface). -/
opaque pufSeed : Bytes → Nat
opaque helperData : Nat → Bytes

/-- The hash of Igath's root public key in mask ROM (15 R370 gives no value). -/
opaque romHash : Bytes

/-- The HBM pseudo-channel that an entry of the repair log names whose block kind is none of the slice table's, by its MACRO
(05 R114 takes the set from the log; 11 R285 gives pseudo-channels no code). -/
opaque logChannel : Nat → Option (Fin 64)

/-- The nonce of an ECDSA signature, by the number of the draw (15 R391). -/
opaque signNonce : Nat → Nat

/-- Where firmware places the log ring (15 R385, R394 give no value). -/
opaque logBase : Nat

/-- The value firmware gives TB_INC when it slews a base: the old value and the measured offset in ns (14 R346). -/
opaque slew : Nat → Int → Nat

/-- Device ID of the gateway's translated accesses: 14 R353 names GW_SW.STREAM_ID, and no table gives it bits. -/
opaque gwStream : Nat

/-- Device ID of the hypervisor's accounting rings (06 R135, 17 R428: no table gives it). -/
opaque hypStream : Nat

/-- Ports of the static forwarding entries and of the VLANs (14 R348: of the platform configuration record, which has no
field for them): by record, VLAN and address, or by record and VLAN. -/
opaque staticPorts : Bytes → Nat → Nat → Nat
opaque vlanPorts : Bytes → Nat → Nat

/-- Whether the stream filters, gates, meters and the sequence recovery of the cited standards pass a frame, where their
tables are in use (14 R350): by draw, port and frame. -/
opaque streamPass : Nat → Nat → Bytes → Bool

/-- Whether the acceptance filters of a CAN controller, whose registers the manual does not give, pass a frame (14 R356):
by controller, identifier and format. -/
opaque canAccept : Nat → Nat → Bool → Bool

/-- Whether a PCIe device behind the root port has a function (17 R429): by bus, device and function. -/
opaque pcieThere : Nat → Bool

/-- What a word of a PCIe function's configuration space outside the fields that 12 R296 states reads as: by function and
word. -/
opaque pcieId : Nat → Nat → Nat

/-- Whether an acknowledgement code of a flit asks for a replay (13 R314 gives no codes). -/
opaque ackReplay : Nat → Bool

end Sys2Proof.Config
end

