-- ==== Sys2Proof/Machine/RegMap.lean ====
section
/-! DEFINITION. The register map: every register of the spec's register tables (R8), its place in the address map
(R111, R418 and each block's own chapter) and its fields with access code, Cold value and Warm rule. Reserved bits
have no field: they read zero and ignore writes (R9). -/

namespace Sys2Proof.Machine

/-- The access codes of R9 (a reserved bit has no field at all). -/
inductive Access where
  | rw | ro | wo | w1c | rwl
  deriving DecidableEq, Repr

/-- The Cold column of a field: a constant, the register's own index (VEF_CTL.DOMAIN), its index div 8
(DMA_CH_CTL.ENGINE), or one constant below an index and another from it on. -/
inductive Cold where
  | const (n : Nat)
  | index
  | indexDiv8
  | split (k below above : Nat)
  deriving DecidableEq, Repr

/-- The registers, under the manual's names in lower camel case. -/
inductive RegName where
  | sysId
  | sysCfg
  | sysAcc
  | sysMode
  | sysRst
  | sysStrap
  | sysPark
  | pwrLim
  | pwrCtl
  | pwrStat
  | pwrDom
  | tbInc
  | tbOfs
  | tbCtl
  | tbStat
  | tbCfg
  | tbSnap
  | fwStat
  | fwPkg
  | fwLog
  | fwTrace
  | idPub
  | idHash
  | safCtl
  | safWdog
  | safFaultLast
  | safFaultCnt
  | safEsc
  | safGold
  | bistCfg
  | bistGate
  | bistLast
  | bistStat
  | bistUnit
  | memPcInSvc
  | memPcNext
  | memKeyCmd
  | memStat
  | memEcc
  | memRgn
  | movCmq
  | dmaChCtl
  | dmaChCrc
  | dmaChBytes
  | ringVefCfg
  | ringVefAsid
  | ringVefDisc
  | ringVefAqBase
  | ringVefAqCtl
  | ringVefAqHead
  | ringVefAqIrqAddr
  | ringVefAqIrqData
  | vefGlb
  | vefHart
  | vefAtt
  | vefCtl
  | vefSave
  | vefSaveLen
  | vefViol
  | vefStat
  | plainLoadStat
  | plainFldCfg
  | plainFldState
  | plainFldWdog
  | plainFldErr
  | plainFldErrloc
  | plainFldTol
  | plainFldNum
  | plainFldWin
  | vlyPfxBase
  | vlyStat
  | vlyPool
  | ingRegion
  | ingSrc
  | fusCtl
  | fusEpoch
  | fusCfg
  | fusGrp
  | fusStat
  | fusForce
  | fusPose
  | fusCksel
  | fusCeil
  | fusSrcStat
  | rndCfg
  | rndStat
  | dspCfg
  | dspHead
  | dspTtStat
  | dspTt
  | passDev
  | passCfg
  | passStat
  | passIrqAddr
  | passIrqData
  | passIrqCause
  | passDevLost
  | passLinkCfg
  | passLinkStat
  | passTun
  | passSbo
  | passPoll
  | passRt
  | passTunt
  | gwSw
  | gwSgStat
  | gwPort
  | gwTxts
  | gwTxtsStat
  | gwHpq
  | gwCan
  | gwAddr
  | gwCont
  | gwRoute
  | aphyLink
  | aphyI2c
  | hostcClk
  | hostcMtimecmp
  | pcieObw
  | pcieStat
  | dbSqTail
  | dbCqHead
  | dbEqHead
  | dbStat
  | sqCfg
  | cqCfg
  | eqCfg
  deriving DecidableEq, Repr

/-- One field of a register: its register, lowest bit, width, access code, Cold value, and whether the Warm column
says "kept". -/
structure Fld where
  reg : RegName
  lo : Nat
  w : Nat
  acc : Access
  cold : Cold
  kept : Bool
  deriving DecidableEq, Repr

/-- The place of a field among the registers: its register and its lowest bit. -/
def Fld.spot (f : Fld) : Nat := f.lo * 256 + f.reg.ctorIdx

/-- The key of a field in the register store: its two indices above its place. -/
def Fld.code (f : Fld) (i j : Nat) : Nat := (i * 16 + j) * 262144 + f.spot

/-- The field's value after cold reset, in the register with index `i`. -/
def Fld.coldVal (f : Fld) (i : Nat) : Nat :=
  match f.cold with
  | .const n => n
  | .index => i
  | .indexDiv8 => i / 8
  | .split k a b => if i < k then a else b

/-- Where a register (or an array of registers, one or two dimensions) lies and how many bytes one takes. -/
structure RegPlace where
  base : Nat
  bytes : Nat
  n1 : Nat
  step1 : Nat
  n2 : Nat
  step2 : Nat
  deriving DecidableEq, Repr

/-! SYS_ID (R426). -/

def SYS_ID.MINOR : Fld := ⟨.sysId, 0, 8, .ro, (.const 0), false⟩
def SYS_ID.MAJOR : Fld := ⟨.sysId, 8, 8, .ro, (.const 2), false⟩
def SYS_ID.PART : Fld := ⟨.sysId, 16, 16, .ro, (.const 0x9460), false⟩

/-! SYS_CFG (R426). -/

def SYS_CFG.DEPOT_EN : Fld := ⟨.sysCfg, 0, 1, .ro, (.const 0), false⟩
def SYS_CFG.SPLIT : Fld := ⟨.sysCfg, 1, 1, .ro, (.const 0), false⟩
def SYS_CFG.BOUND : Fld := ⟨.sysCfg, 2, 1, .ro, (.const 0), false⟩
def SYS_CFG.RASTER : Fld := ⟨.sysCfg, 8, 4, .ro, (.const 0), false⟩
def SYS_CFG.HEADS : Fld := ⟨.sysCfg, 12, 6, .ro, (.const 0), false⟩
def SYS_CFG.PASS : Fld := ⟨.sysCfg, 18, 4, .ro, (.const 0), false⟩

/-! SYS_ACC (R426). -/

def SYS_ACC.HOLE : Fld := ⟨.sysAcc, 0, 16, .ro, (.const 0), true⟩
def SYS_ACC.DENIED : Fld := ⟨.sysAcc, 16, 16, .ro, (.const 0), true⟩
def SYS_ACC.NARROW : Fld := ⟨.sysAcc, 32, 16, .ro, (.const 0), true⟩
def SYS_ACC.LAST_SLOT : Fld := ⟨.sysAcc, 48, 8, .ro, (.const 0xff), true⟩

/-! SYS_MODE (R23). -/

def SYS_MODE.CURRENT : Fld := ⟨.sysMode, 0, 3, .ro, (.const 0), false⟩
def SYS_MODE.REQUEST : Fld := ⟨.sysMode, 4, 3, .rw, (.const 0), false⟩
def SYS_MODE.IN_TRANSITION : Fld := ⟨.sysMode, 7, 1, .ro, (.const 1), false⟩
def SYS_MODE.WAKE_SRC : Fld := ⟨.sysMode, 12, 3, .ro, (.const 0), true⟩
def SYS_MODE.DEPOT_AUTH : Fld := ⟨.sysMode, 16, 1, .ro, (.const 0), false⟩
def SYS_MODE.COOLANT : Fld := ⟨.sysMode, 17, 1, .ro, (.const 0), false⟩
def SYS_MODE.BACKSTOP : Fld := ⟨.sysMode, 18, 1, .w1c, (.const 0), true⟩
def SYS_MODE.REFUSED : Fld := ⟨.sysMode, 24, 8, .ro, (.const 0), true⟩

/-! SYS_RST (R415). -/

def SYS_RST.WARM : Fld := ⟨.sysRst, 0, 1, .wo, (.const 0), false⟩
def SYS_RST.KEY : Fld := ⟨.sysRst, 8, 8, .wo, (.const 0), false⟩
def SYS_RST.FIELD : Fld := ⟨.sysRst, 16, 5, .rw, (.const 0), false⟩
def SYS_RST.FIELD_GO : Fld := ⟨.sysRst, 21, 1, .wo, (.const 0), false⟩
def SYS_RST.FIELD_REFUSED : Fld := ⟨.sysRst, 24, 4, .ro, (.const 0), true⟩
def SYS_RST.LAST_CAUSE : Fld := ⟨.sysRst, 28, 4, .ro, (.const 0), false⟩

/-! SYS_STRAP (R415). -/

def SYS_STRAP.BOOT_SRC : Fld := ⟨.sysStrap, 0, 2, .ro, (.const 0), true⟩
def SYS_STRAP.PCIE_MODE : Fld := ⟨.sysStrap, 2, 1, .ro, (.const 0), true⟩
def SYS_STRAP.TEST_EN : Fld := ⟨.sysStrap, 3, 1, .ro, (.const 0), true⟩

/-! SYS_PARK (R24). -/

def SYS_PARK.WARM_S : Fld := ⟨.sysPark, 0, 16, .rw, (.const 0), true⟩
def SYS_PARK.COLD_WAKE_S : Fld := ⟨.sysPark, 16, 16, .rw, (.const 0), true⟩

/-! PWR_LIM (R416). -/

def PWR_LIM.DRIVE_W : Fld := ⟨.pwrLim, 0, 10, .rwl, (.const 0xf0), true⟩
def PWR_LIM.DEPOT_W : Fld := ⟨.pwrLim, 16, 10, .rwl, (.const 0x190), true⟩
def PWR_LIM.HYST_W : Fld := ⟨.pwrLim, 26, 6, .rwl, (.const 5), true⟩
def PWR_LIM.TJ_THROTTLE : Fld := ⟨.pwrLim, 32, 8, .rwl, (.const 0x73), true⟩

/-! PWR_CTL (R416). -/

def PWR_CTL.HOST_ON : Fld := ⟨.pwrCtl, 0, 4, .rw, (.const 1), false⟩
def PWR_CTL.LOCK : Fld := ⟨.pwrCtl, 8, 1, .rw, (.const 0), true⟩

/-! PWR_STAT (R417). -/

def PWR_STAT.POWER_W : Fld := ⟨.pwrStat, 0, 10, .ro, (.const 0), false⟩
def PWR_STAT.AT_FLOOR : Fld := ⟨.pwrStat, 10, 1, .ro, (.const 0), false⟩
def PWR_STAT.FLOOR_MS : Fld := ⟨.pwrStat, 16, 16, .ro, (.const 0), true⟩
def PWR_STAT.BATCH : Fld := ⟨.pwrStat, 32, 4, .ro, (.const 0xf), false⟩
def PWR_STAT.INTER : Fld := ⟨.pwrStat, 36, 4, .ro, (.const 0xf), false⟩
def PWR_STAT.RENDER : Fld := ⟨.pwrStat, 40, 4, .ro, (.const 0xf), false⟩
def PWR_STAT.RT : Fld := ⟨.pwrStat, 44, 4, .ro, (.const 0xf), false⟩
def PWR_STAT.HOST : Fld := ⟨.pwrStat, 48, 8, .ro, (.const 0x1a), false⟩
def PWR_STAT.TJ_MAX : Fld := ⟨.pwrStat, 56, 8, .ro, (.const 0), false⟩

/-! PWR_DOM (R417). -/

def PWR_DOM.STATE : Fld := ⟨.pwrDom, 0, 2, .ro, (.const 0), false⟩
def PWR_DOM.FAIL : Fld := ⟨.pwrDom, 2, 1, .ro, (.const 0), false⟩
def PWR_DOM.HELD : Fld := ⟨.pwrDom, 3, 1, .ro, (.const 0), true⟩
def PWR_DOM.UPS : Fld := ⟨.pwrDom, 16, 16, .ro, (.const 0), true⟩

/-! TB_INC (R362). -/

def TB_INC.INC : Fld := ⟨.tbInc, 0, 40, .rw, (.const 0x200000000), true⟩

/-! TB_OFS (R362). -/

def TB_OFS.OFS : Fld := ⟨.tbOfs, 0, 64, .wo, (.const 0), false⟩

/-! TB_CTL (R362). -/

def TB_CTL.SNAP : Fld := ⟨.tbCtl, 0, 1, .wo, (.const 0), false⟩

/-! TB_STAT (R362). -/

def TB_STAT.STEPS_V : Fld := ⟨.tbStat, 0, 8, .ro, (.const 0), true⟩
def TB_STAT.STEPS_S : Fld := ⟨.tbStat, 8, 8, .ro, (.const 0), true⟩
def TB_STAT.STEPS_D : Fld := ⟨.tbStat, 16, 8, .ro, (.const 0), true⟩
def TB_STAT.CLAMP : Fld := ⟨.tbStat, 24, 1, .w1c, (.const 0), true⟩
def TB_STAT.PARK_CLK : Fld := ⟨.tbStat, 25, 1, .ro, (.const 0), false⟩

/-! TB_CFG (R362). -/

def TB_CFG.STEP_US : Fld := ⟨.tbCfg, 0, 16, .rw, (.const 0x3e8), true⟩

/-! TB_SNAP (R362). -/

def TB_SNAP.VALUE : Fld := ⟨.tbSnap, 0, 96, .ro, (.const 0), true⟩

/-! FW_STAT (R394). -/

def FW_STAT.BOOT_SRC : Fld := ⟨.fwStat, 0, 2, .ro, (.const 0), false⟩
def FW_STAT.REENROLLED : Fld := ⟨.fwStat, 2, 1, .ro, (.const 0), true⟩
def FW_STAT.REASON : Fld := ⟨.fwStat, 8, 8, .ro, (.const 0), false⟩
def FW_STAT.RESTARTS : Fld := ⟨.fwStat, 16, 8, .ro, (.const 0), true⟩
def FW_STAT.ATT_DROP : Fld := ⟨.fwStat, 24, 8, .ro, (.const 0), true⟩
def FW_STAT.FW_VERSION : Fld := ⟨.fwStat, 32, 32, .ro, (.const 0), false⟩

/-! FW_PKG (R394). -/

def FW_PKG.ADDR : Fld := ⟨.fwPkg, 0, 64, .rw, (.const 0), false⟩
def FW_PKG.LEN_4K : Fld := ⟨.fwPkg, 64, 32, .rw, (.const 0), false⟩
def FW_PKG.GO : Fld := ⟨.fwPkg, 96, 1, .wo, (.const 0), false⟩
def FW_PKG.BUSY : Fld := ⟨.fwPkg, 97, 1, .ro, (.const 0), false⟩
def FW_PKG.RESULT : Fld := ⟨.fwPkg, 104, 8, .ro, (.const 0), false⟩

/-! FW_LOG (R394). -/

def FW_LOG.BASE : Fld := ⟨.fwLog, 0, 48, .ro, (.const 0), false⟩
def FW_LOG.NEXT_SEQ : Fld := ⟨.fwLog, 64, 32, .ro, (.const 0), true⟩
def FW_LOG.SAVE : Fld := ⟨.fwLog, 96, 1, .wo, (.const 0), false⟩

/-! FW_TRACE (R395). -/

def FW_TRACE.MASK : Fld := ⟨.fwTrace, 0, 32, .rw, (.const 0), true⟩

/-! ID_PUB (R395). -/

def ID_PUB.KEY : Fld := ⟨.idPub, 0, 768, .ro, (.const 0), true⟩

/-! ID_HASH (R395). -/

def ID_HASH.HASH : Fld := ⟨.idHash, 0, 384, .ro, (.const 0), true⟩

/-! SAF_CTL (R278). -/

def SAF_CTL.STATUS : Fld := ⟨.safCtl, 0, 4, .rw, (.const 1), false⟩
def SAF_CTL.SPLIT : Fld := ⟨.safCtl, 4, 1, .ro, (.const 0), true⟩
def SAF_CTL.CMP_MODE : Fld := ⟨.safCtl, 5, 1, .rwl, (.const 0), false⟩
def SAF_CTL.SAFE_STATE : Fld := ⟨.safCtl, 6, 1, .ro, (.const 0), false⟩
def SAF_CTL.FAULT_N_LOW : Fld := ⟨.safCtl, 7, 1, .ro, (.const 1), false⟩
def SAF_CTL.LOCK : Fld := ⟨.safCtl, 8, 1, .rw, (.const 0), false⟩

/-! SAF_WDOG (R278). -/

def SAF_WDOG.KICK : Fld := ⟨.safWdog, 0, 8, .wo, (.const 0), false⟩
def SAF_WDOG.WD_EN : Fld := ⟨.safWdog, 8, 1, .rw, (.const 0), true⟩

/-! SAF_FAULT_LAST (R279). -/

def SAF_FAULT_LAST.SOURCE : Fld := ⟨.safFaultLast, 0, 8, .ro, (.const 0), true⟩
def SAF_FAULT_LAST.CLASS : Fld := ⟨.safFaultLast, 8, 2, .ro, (.const 0), true⟩
def SAF_FAULT_LAST.FIELD : Fld := ⟨.safFaultLast, 16, 5, .ro, (.const 0x1f), true⟩
def SAF_FAULT_LAST.TIME : Fld := ⟨.safFaultLast, 32, 32, .ro, (.const 0), true⟩

/-! SAF_FAULT_CNT (R279). -/

def SAF_FAULT_CNT.CORRECTABLE : Fld := ⟨.safFaultCnt, 0, 16, .ro, (.const 0), true⟩
def SAF_FAULT_CNT.CONTAINED : Fld := ⟨.safFaultCnt, 16, 8, .ro, (.const 0), true⟩
def SAF_FAULT_CNT.FIELD : Fld := ⟨.safFaultCnt, 24, 8, .ro, (.const 0), true⟩
def SAF_FAULT_CNT.E2E_FAIL : Fld := ⟨.safFaultCnt, 32, 8, .ro, (.const 0), true⟩
def SAF_FAULT_CNT.FATAL_EXTRA : Fld := ⟨.safFaultCnt, 40, 8, .ro, (.const 0), true⟩

/-! SAF_ESC (R280). -/

def SAF_ESC.CONTAINED_MAX : Fld := ⟨.safEsc, 0, 4, .rwl, (.const 3), false⟩
def SAF_ESC.WINDOW_MS : Fld := ⟨.safEsc, 4, 12, .rwl, (.const 0x3e8), false⟩
def SAF_ESC.REINIT_MAX : Fld := ⟨.safEsc, 16, 4, .rwl, (.const 2), false⟩
def SAF_ESC.DEADLINE_MS : Fld := ⟨.safEsc, 24, 8, .rwl, (.const 0x32), false⟩

/-! SAF_GOLD (R281). -/

def SAF_GOLD.ENABLE : Fld := ⟨.safGold, 0, 1, .ro, (.const 0), false⟩
def SAF_GOLD.PHASE : Fld := ⟨.safGold, 1, 3, .rwl, (.const 0), false⟩
def SAF_GOLD.SKIPS : Fld := ⟨.safGold, 4, 2, .ro, (.const 0), false⟩
def SAF_GOLD.ARM : Fld := ⟨.safGold, 6, 1, .rwl, (.const 0), false⟩
def SAF_GOLD.BUDGET_US : Fld := ⟨.safGold, 8, 16, .rwl, (.const 0), false⟩
def SAF_GOLD.RUNS : Fld := ⟨.safGold, 32, 16, .ro, (.const 0), false⟩
def SAF_GOLD.FAILS : Fld := ⟨.safGold, 48, 8, .ro, (.const 0), false⟩
def SAF_GOLD.SKIPPED : Fld := ⟨.safGold, 56, 8, .ro, (.const 0), false⟩
def SAF_GOLD.NEXT_ENTRY : Fld := ⟨.safGold, 64, 16, .ro, (.const 0), false⟩

/-! BIST_CFG (R293). -/

def BIST_CFG.ENABLE : Fld := ⟨.bistCfg, 0, 1, .rw, (.const 0), true⟩
def BIST_CFG.LOCK : Fld := ⟨.bistCfg, 3, 1, .rw, (.const 0), true⟩
def BIST_CFG.SAFE_MS : Fld := ⟨.bistCfg, 4, 12, .rwl, (.const 0x64), true⟩
def BIST_CFG.OTHER_MS : Fld := ⟨.bistCfg, 16, 16, .rw, (.const 0x3e8), true⟩

/-! BIST_GATE (R293). -/

def BIST_GATE.NEXT_REL : Fld := ⟨.bistGate, 0, 64, .rw, (.const 0), false⟩

/-! BIST_LAST (R293). -/

def BIST_LAST.MACRO : Fld := ⟨.bistLast, 0, 32, .ro, (.const 0), true⟩
def BIST_LAST.ADDRESS : Fld := ⟨.bistLast, 32, 16, .ro, (.const 0), true⟩
def BIST_LAST.BIT : Fld := ⟨.bistLast, 48, 7, .ro, (.const 0), true⟩
def BIST_LAST.OUTCOME : Fld := ⟨.bistLast, 56, 8, .ro, (.const 0), true⟩

/-! BIST_STAT (R293). -/

def BIST_STAT.SLICES : Fld := ⟨.bistStat, 0, 16, .ro, (.const 0), true⟩
def BIST_STAT.DEFERRED : Fld := ⟨.bistStat, 16, 16, .ro, (.const 0), true⟩
def BIST_STAT.COVERAGE : Fld := ⟨.bistStat, 32, 8, .ro, (.const 0), true⟩
def BIST_STAT.REPAIRS : Fld := ⟨.bistStat, 40, 8, .ro, (.const 0), true⟩
def BIST_STAT.OOS : Fld := ⟨.bistStat, 48, 8, .ro, (.const 0), true⟩
def BIST_STAT.LOG_FULL : Fld := ⟨.bistStat, 56, 1, .ro, (.const 0), true⟩

/-! BIST_UNIT (R294). -/

def BIST_UNIT.STATE : Fld := ⟨.bistUnit, 0, 2, .ro, (.const 0), false⟩
def BIST_UNIT.READMIT : Fld := ⟨.bistUnit, 2, 1, .wo, (.const 0), false⟩
def BIST_UNIT.OOS_COUNT : Fld := ⟨.bistUnit, 8, 4, .ro, (.const 0), true⟩

/-! MEM_PC_IN_SVC (R129). -/

def MEM_PC_IN_SVC.IN_SVC : Fld := ⟨.memPcInSvc, 0, 64, .ro, (.const 0), false⟩

/-! MEM_PC_NEXT (R129). -/

def MEM_PC_NEXT.NEXT : Fld := ⟨.memPcNext, 0, 64, .rw, (.const 0), true⟩

/-! MEM_KEY_CMD (R131). -/

def MEM_KEY_CMD.SLOT : Fld := ⟨.memKeyCmd, 0, 7, .wo, (.const 0), false⟩
def MEM_KEY_CMD.OP : Fld := ⟨.memKeyCmd, 8, 2, .wo, (.const 0), false⟩

/-! MEM_STAT (R132). -/

def MEM_STAT.KEY_BUSY : Fld := ⟨.memStat, 0, 1, .ro, (.const 0), false⟩
def MEM_STAT.KEY_REFUSED : Fld := ⟨.memStat, 8, 8, .ro, (.const 0), true⟩
def MEM_STAT.OOR : Fld := ⟨.memStat, 16, 16, .ro, (.const 0), true⟩

/-! MEM_ECC (R132). -/

def MEM_ECC.CE : Fld := ⟨.memEcc, 0, 16, .ro, (.const 0), true⟩
def MEM_ECC.DED : Fld := ⟨.memEcc, 16, 8, .ro, (.const 0), true⟩
def MEM_ECC.LAST_PC : Fld := ⟨.memEcc, 24, 6, .ro, (.const 0), true⟩

/-! MEM_RGN (R130). -/

def MEM_RGN.BASE_RU : Fld := ⟨.memRgn, 0, 14, .rw, (.const 0), false⟩
def MEM_RGN.LIMIT_RU : Fld := ⟨.memRgn, 16, 14, .rw, (.const 0), false⟩
def MEM_RGN.GRAN : Fld := ⟨.memRgn, 30, 1, .rw, (.const 0), false⟩
def MEM_RGN.VALID : Fld := ⟨.memRgn, 31, 1, .rw, (.const 0), false⟩
def MEM_RGN.KEY : Fld := ⟨.memRgn, 32, 8, .rw, (.const 0), false⟩

/-! MOV_CMQ (R133). -/

def MOV_CMQ.BASE : Fld := ⟨.movCmq, 0, 48, .rw, (.const 0), false⟩
def MOV_CMQ.ENTRIES_LOG2 : Fld := ⟨.movCmq, 48, 8, .rw, (.const 6), false⟩
def MOV_CMQ.HEAD : Fld := ⟨.movCmq, 64, 32, .rw, (.const 0), false⟩
def MOV_CMQ.TAIL : Fld := ⟨.movCmq, 96, 32, .ro, (.const 0), false⟩

/-! DMA_CH_CTL (R134). -/

def DMA_CH_CTL.DISABLE : Fld := ⟨.dmaChCtl, 0, 1, .rw, (.const 0), false⟩
def DMA_CH_CTL.BUSY : Fld := ⟨.dmaChCtl, 1, 1, .ro, (.const 0), false⟩
def DMA_CH_CTL.ENGINE : Fld := ⟨.dmaChCtl, 2, 2, .ro, .indexDiv8, false⟩
def DMA_CH_CTL.VEF : Fld := ⟨.dmaChCtl, 8, 7, .ro, (.const 0), false⟩

/-! DMA_CH_CRC (R134). -/

def DMA_CH_CRC.CRC : Fld := ⟨.dmaChCrc, 0, 32, .ro, (.const 0), false⟩

/-! DMA_CH_BYTES (R134). -/

def DMA_CH_BYTES.BYTES : Fld := ⟨.dmaChBytes, 0, 41, .ro, (.const 0), false⟩

/-! RING_VEF_CFG (R140). -/

def RING_VEF_CFG.MAX_CLASS : Fld := ⟨.ringVefCfg, 0, 2, .rw, (.const 3), false⟩
def RING_VEF_CFG.PRIV : Fld := ⟨.ringVefCfg, 2, 1, .rw, (.const 0), false⟩
def RING_VEF_CFG.STREAM_ID : Fld := ⟨.ringVefCfg, 8, 24, .rw, (.const 0), false⟩

/-! RING_VEF_ASID (R140). -/

def RING_VEF_ASID.ASID : Fld := ⟨.ringVefAsid, 0, 20, .rw, (.const 0), false⟩

/-! RING_VEF_DISC (R140). -/

def RING_VEF_DISC.DISCARD : Fld := ⟨.ringVefDisc, 0, 16, .ro, (.const 0), false⟩

/-! RING_VEF_AQ_BASE (R140). -/

def RING_VEF_AQ_BASE.BASE : Fld := ⟨.ringVefAqBase, 0, 64, .rw, (.const 0), false⟩

/-! RING_VEF_AQ_CTL (R140). -/

def RING_VEF_AQ_CTL.SIZE_LOG2 : Fld := ⟨.ringVefAqCtl, 0, 5, .rw, (.const 6), false⟩
def RING_VEF_AQ_CTL.LOC : Fld := ⟨.ringVefAqCtl, 5, 1, .rw, (.const 0), false⟩
def RING_VEF_AQ_CTL.ENABLE : Fld := ⟨.ringVefAqCtl, 6, 1, .rw, (.const 0), false⟩
def RING_VEF_AQ_CTL.IRQ_EN : Fld := ⟨.ringVefAqCtl, 7, 1, .rw, (.const 0), false⟩
def RING_VEF_AQ_CTL.TAIL : Fld := ⟨.ringVefAqCtl, 16, 16, .ro, (.const 0), false⟩

/-! RING_VEF_AQ_HEAD (R140). -/

def RING_VEF_AQ_HEAD.HEAD : Fld := ⟨.ringVefAqHead, 0, 16, .rw, (.const 0), false⟩

/-! RING_VEF_AQ_IRQ_ADDR (R140). -/

def RING_VEF_AQ_IRQ_ADDR.IRQ_ADDR : Fld := ⟨.ringVefAqIrqAddr, 0, 64, .rw, (.const 0), false⟩

/-! RING_VEF_AQ_IRQ_DATA (R140). -/

def RING_VEF_AQ_IRQ_DATA.IRQ_DATA : Fld := ⟨.ringVefAqIrqData, 0, 32, .rw, (.const 0), false⟩

/-! VEF_GLB (R312). -/

def VEF_GLB.FREEZE_KILL_MS : Fld := ⟨.vefGlb, 0, 16, .rw, (.const 0x64), true⟩
def VEF_GLB.AUTH_REJECT : Fld := ⟨.vefGlb, 16, 8, .ro, (.const 0), true⟩
def VEF_GLB.CFG_REFUSED : Fld := ⟨.vefGlb, 24, 8, .ro, (.const 0), true⟩

/-! VEF_HART (R312). -/

def VEF_HART.VEF : Fld := ⟨.vefHart, 0, 7, .rw, (.const 0), false⟩
def VEF_HART.VALID : Fld := ⟨.vefHart, 7, 1, .rw, (.const 0), false⟩

/-! VEF_ATT (R312). -/

def VEF_ATT.BUF : Fld := ⟨.vefAtt, 0, 48, .rw, (.const 0), false⟩
def VEF_ATT.VEF : Fld := ⟨.vefAtt, 48, 7, .rw, (.const 0), false⟩
def VEF_ATT.GO : Fld := ⟨.vefAtt, 56, 1, .wo, (.const 0), false⟩
def VEF_ATT.BUSY : Fld := ⟨.vefAtt, 57, 1, .ro, (.const 0), false⟩
def VEF_ATT.ERR : Fld := ⟨.vefAtt, 58, 1, .ro, (.const 0), false⟩

/-! VEF_CTL (R313). -/

def VEF_CTL.ENABLE : Fld := ⟨.vefCtl, 0, 1, .rw, (.const 0), false⟩
def VEF_CTL.TENANT : Fld := ⟨.vefCtl, 1, 1, .rw, (.const 0), false⟩
def VEF_CTL.RESET : Fld := ⟨.vefCtl, 2, 1, .rw, (.const 0), false⟩
def VEF_CTL.FABRIC_OUT : Fld := ⟨.vefCtl, 3, 1, .rw, (.const 0), false⟩
def VEF_CTL.FABRIC_IN : Fld := ⟨.vefCtl, 4, 1, .rw, (.const 0), false⟩
def VEF_CTL.DOMAIN : Fld := ⟨.vefCtl, 8, 8, .rw, .index, false⟩
def VEF_CTL.STATE : Fld := ⟨.vefCtl, 16, 3, .ro, (.const 0), false⟩

/-! VEF_SAVE (R313). -/

def VEF_SAVE.BASE : Fld := ⟨.vefSave, 0, 48, .rw, (.const 0), false⟩

/-! VEF_SAVE_LEN (R313). -/

def VEF_SAVE_LEN.LEN_4K : Fld := ⟨.vefSaveLen, 0, 32, .rw, (.const 0), false⟩

/-! VEF_VIOL (R313). -/

def VEF_VIOL.REG : Fld := ⟨.vefViol, 0, 16, .ro, (.const 0), false⟩
def VEF_VIOL.IOMMU : Fld := ⟨.vefViol, 16, 16, .ro, (.const 0), false⟩
def VEF_VIOL.REGION : Fld := ⟨.vefViol, 32, 16, .ro, (.const 0), false⟩
def VEF_VIOL.FABRIC : Fld := ⟨.vefViol, 48, 16, .ro, (.const 0), false⟩

/-! VEF_STAT (R313). -/

def VEF_STAT.RESET_DONE : Fld := ⟨.vefStat, 0, 1, .w1c, (.const 0), false⟩
def VEF_STAT.THAW_CAUSE : Fld := ⟨.vefStat, 8, 8, .ro, (.const 0), false⟩
def VEF_STAT.KEY_EPOCH : Fld := ⟨.vefStat, 16, 16, .ro, (.const 0), true⟩

/-! PLAIN_LOAD_STAT (R107). -/

def PLAIN_LOAD_STAT.LAST_CAUSE : Fld := ⟨.plainLoadStat, 0, 8, .ro, (.const 0), true⟩
def PLAIN_LOAD_STAT.LAST_VEF : Fld := ⟨.plainLoadStat, 8, 7, .ro, (.const 0), true⟩
def PLAIN_LOAD_STAT.NO_VEF : Fld := ⟨.plainLoadStat, 15, 1, .ro, (.const 0), true⟩
def PLAIN_LOAD_STAT.MISMATCH : Fld := ⟨.plainLoadStat, 16, 8, .ro, (.const 0), true⟩
def PLAIN_LOAD_STAT.NOFIELD : Fld := ⟨.plainLoadStat, 24, 8, .ro, (.const 0), true⟩

/-! PLAIN_FLD_CFG (R57). -/

def PLAIN_FLD_CFG.ORIGIN_X : Fld := ⟨.plainFldCfg, 0, 4, .rw, (.const 0), false⟩
def PLAIN_FLD_CFG.ORIGIN_Y : Fld := ⟨.plainFldCfg, 4, 4, .rw, (.const 0), false⟩
def PLAIN_FLD_CFG.WIDTH_M1 : Fld := ⟨.plainFldCfg, 8, 4, .rw, (.split 16 0 1), false⟩
def PLAIN_FLD_CFG.HEIGHT_M1 : Fld := ⟨.plainFldCfg, 12, 4, .rw, (.split 16 0 1), false⟩
def PLAIN_FLD_CFG.CLASS : Fld := ⟨.plainFldCfg, 16, 2, .rw, (.split 16 0 1), false⟩
def PLAIN_FLD_CFG.PIPE_DEPTH_M1 : Fld := ⟨.plainFldCfg, 18, 6, .rw, (.const 0), false⟩

/-! PLAIN_FLD_STATE (R58). -/

def PLAIN_FLD_STATE.STATE : Fld := ⟨.plainFldState, 0, 3, .ro, (.const 0), false⟩
def PLAIN_FLD_STATE.IN_FLIGHT : Fld := ⟨.plainFldState, 8, 7, .ro, (.const 0), false⟩
def PLAIN_FLD_STATE.GENERATION : Fld := ⟨.plainFldState, 16, 16, .ro, (.const 0), false⟩

/-! PLAIN_FLD_WDOG (R59). -/

def PLAIN_FLD_WDOG.PERIOD_US : Fld := ⟨.plainFldWdog, 0, 17, .rw, (.const 0x7d0), false⟩

/-! PLAIN_FLD_ERR (R60). -/

def PLAIN_FLD_ERR.WDOG : Fld := ⟨.plainFldErr, 0, 1, .w1c, (.const 0), false⟩
def PLAIN_FLD_ERR.WINDOW : Fld := ⟨.plainFldErr, 1, 1, .w1c, (.const 0), false⟩
def PLAIN_FLD_ERR.FENCE : Fld := ⟨.plainFldErr, 2, 1, .w1c, (.const 0), false⟩
def PLAIN_FLD_ERR.POCKET_DED : Fld := ⟨.plainFldErr, 3, 1, .w1c, (.const 0), false⟩
def PLAIN_FLD_ERR.CLSRAM_DED : Fld := ⟨.plainFldErr, 4, 1, .w1c, (.const 0), false⟩
def PLAIN_FLD_ERR.STITCH_PAR : Fld := ⟨.plainFldErr, 5, 1, .w1c, (.const 0), false⟩
def PLAIN_FLD_ERR.RESIDUE : Fld := ⟨.plainFldErr, 6, 1, .w1c, (.const 0), false⟩
def PLAIN_FLD_ERR.CHECKSUM : Fld := ⟨.plainFldErr, 7, 1, .w1c, (.const 0), false⟩
def PLAIN_FLD_ERR.CE_COUNT : Fld := ⟨.plainFldErr, 16, 16, .ro, (.const 0), false⟩

/-! PLAIN_FLD_ERRLOC (R61). -/

def PLAIN_FLD_ERRLOC.CELL_ID : Fld := ⟨.plainFldErrloc, 0, 12, .ro, (.const 0xfff), false⟩
def PLAIN_FLD_ERRLOC.SOURCE : Fld := ⟨.plainFldErrloc, 12, 4, .ro, (.const 0), false⟩
def PLAIN_FLD_ERRLOC.WORD : Fld := ⟨.plainFldErrloc, 16, 16, .ro, (.const 0), false⟩

/-! PLAIN_FLD_TOL (R81). -/

def PLAIN_FLD_TOL.DEFAULT : Fld := ⟨.plainFldTol, 0, 16, .rw, (.const 0x100), false⟩
def PLAIN_FLD_TOL.MAX : Fld := ⟨.plainFldTol, 16, 16, .rw, (.const 0x1000), false⟩

/-! PLAIN_FLD_NUM (R82). -/

def PLAIN_FLD_NUM.RANGE : Fld := ⟨.plainFldNum, 0, 8, .ro, (.const 0), false⟩
def PLAIN_FLD_NUM.NF_DROP : Fld := ⟨.plainFldNum, 8, 8, .ro, (.const 0), false⟩
def PLAIN_FLD_NUM.CHK_SKIP : Fld := ⟨.plainFldNum, 16, 8, .ro, (.const 0), false⟩
def PLAIN_FLD_NUM.FMT_ERR : Fld := ⟨.plainFldNum, 24, 8, .ro, (.const 0), false⟩

/-! PLAIN_FLD_WIN (R62). -/

def PLAIN_FLD_WIN.BASE : Fld := ⟨.plainFldWin, 0, 48, .rw, (.const 0), false⟩
def PLAIN_FLD_WIN.LENGTH_4K : Fld := ⟨.plainFldWin, 64, 32, .rw, (.const 0), false⟩
def PLAIN_FLD_WIN.READ : Fld := ⟨.plainFldWin, 96, 1, .rw, (.const 0), false⟩
def PLAIN_FLD_WIN.WRITE : Fld := ⟨.plainFldWin, 97, 1, .rw, (.const 0), false⟩
def PLAIN_FLD_WIN.TRANSLATE : Fld := ⟨.plainFldWin, 98, 1, .rw, (.const 0), false⟩
def PLAIN_FLD_WIN.VEF : Fld := ⟨.plainFldWin, 104, 7, .rw, (.const 0), false⟩

/-! VLY_PFX_BASE (R191). -/

def VLY_PFX_BASE.BASE : Fld := ⟨.vlyPfxBase, 0, 48, .rw, (.const 0), true⟩

/-! VLY_STAT (R192). -/

def VLY_STAT.HIT : Fld := ⟨.vlyStat, 0, 16, .ro, (.const 0), true⟩
def VLY_STAT.COLLIDE : Fld := ⟨.vlyStat, 16, 8, .ro, (.const 0), true⟩
def VLY_STAT.INSERT_FAIL : Fld := ⟨.vlyStat, 24, 8, .ro, (.const 0), true⟩
def VLY_STAT.RECLAIM : Fld := ⟨.vlyStat, 32, 16, .ro, (.const 0), true⟩
def VLY_STAT.NOPAGES : Fld := ⟨.vlyStat, 48, 8, .ro, (.const 0), true⟩
def VLY_STAT.CFG_REFUSED : Fld := ⟨.vlyStat, 56, 8, .ro, (.const 0), true⟩

/-! VLY_POOL (R190). -/

def VLY_POOL.BASE : Fld := ⟨.vlyPool, 0, 64, .rw, (.const 0), false⟩
def VLY_POOL.GROUPS_M1 : Fld := ⟨.vlyPool, 64, 20, .rw, (.const 0), false⟩
def VLY_POOL.G_M1 : Fld := ⟨.vlyPool, 84, 8, .rw, (.const 0), false⟩
def VLY_POOL.PAGE_64K : Fld := ⟨.vlyPool, 92, 6, .rw, (.const 0), false⟩
def VLY_POOL.OWNER : Fld := ⟨.vlyPool, 104, 7, .rw, (.const 0), false⟩
def VLY_POOL.ADOPT : Fld := ⟨.vlyPool, 111, 1, .rw, (.const 0), false⟩
def VLY_POOL.VALID : Fld := ⟨.vlyPool, 112, 1, .rw, (.const 0), false⟩
def VLY_POOL.READY : Fld := ⟨.vlyPool, 113, 1, .ro, (.const 0), false⟩
def VLY_POOL.BOUND : Fld := ⟨.vlyPool, 114, 1, .ro, (.const 0), false⟩
def VLY_POOL.BOUND_FIELD : Fld := ⟨.vlyPool, 120, 4, .ro, (.const 0), false⟩
def VLY_POOL.GENERATION : Fld := ⟨.vlyPool, 128, 16, .ro, (.const 0), true⟩
def VLY_POOL.FREE_GROUPS : Fld := ⟨.vlyPool, 144, 21, .ro, (.const 0), false⟩

/-! ING_REGION (R224). -/

def ING_REGION.BASE : Fld := ⟨.ingRegion, 0, 48, .rw, (.const 0), true⟩
def ING_REGION.LENGTH_2M : Fld := ⟨.ingRegion, 64, 32, .rw, (.const 0), true⟩

/-! ING_SRC (R225). -/

def ING_SRC.ENABLE : Fld := ⟨.ingSrc, 0, 1, .rw, (.const 0), false⟩
def ING_SRC.PORT : Fld := ⟨.ingSrc, 4, 4, .rw, (.const 0), false⟩
def ING_SRC.VC : Fld := ⟨.ingSrc, 8, 5, .rw, (.const 0), false⟩
def ING_SRC.WAIT : Fld := ⟨.ingSrc, 13, 1, .rw, (.const 0), false⟩
def ING_SRC.GROUP : Fld := ⟨.ingSrc, 14, 3, .rw, (.const 7), false⟩
def ING_SRC.DIV_M1 : Fld := ⟨.ingSrc, 17, 3, .rw, (.const 0), false⟩
def ING_SRC.PHASE : Fld := ⟨.ingSrc, 20, 3, .rw, (.const 0), false⟩
def ING_SRC.TS_FMT : Fld := ⟨.ingSrc, 23, 1, .rw, (.const 0), false⟩
def ING_SRC.SLOTS : Fld := ⟨.ingSrc, 24, 8, .rw, (.const 0), false⟩
def ING_SRC.SLOT_4K : Fld := ⟨.ingSrc, 32, 32, .rw, (.const 0), false⟩
def ING_SRC.OFFSET : Fld := ⟨.ingSrc, 64, 48, .rw, (.const 0), false⟩
def ING_SRC.LAT : Fld := ⟨.ingSrc, 128, 32, .rw, (.const 0), false⟩
def ING_SRC.KIND_A : Fld := ⟨.ingSrc, 160, 32, .rw, (.const 0), false⟩
def ING_SRC.KIND_B : Fld := ⟨.ingSrc, 192, 32, .rw, (.const 0), false⟩
def ING_SRC.KIND_C : Fld := ⟨.ingSrc, 224, 32, .rw, (.const 0), false⟩

/-! FUS_CTL (R226). -/

def FUS_CTL.RUN : Fld := ⟨.fusCtl, 0, 1, .rw, (.const 0), false⟩
def FUS_CTL.LOCK : Fld := ⟨.fusCtl, 1, 1, .rw, (.const 0), false⟩
def FUS_CTL.PERIOD : Fld := ⟨.fusCtl, 2, 2, .rw, (.const 0), false⟩
def FUS_CTL.WAIT_US : Fld := ⟨.fusCtl, 8, 16, .rw, (.const 0x2ee0), false⟩

/-! FUS_EPOCH (R226). -/

def FUS_EPOCH.EPOCH : Fld := ⟨.fusEpoch, 0, 64, .rw, (.const 0), false⟩

/-! FUS_CFG (R227). -/

def FUS_CFG.EVT_VEF : Fld := ⟨.fusCfg, 0, 7, .rw, (.const 0), false⟩
def FUS_CFG.PRIMARY : Fld := ⟨.fusCfg, 8, 4, .rwl, (.const 0), false⟩

/-! FUS_GRP (R227). -/

def FUS_GRP.Q0 : Fld := ⟨.fusGrp, 0, 5, .rwl, (.const 0), false⟩
def FUS_GRP.Q1 : Fld := ⟨.fusGrp, 5, 5, .rwl, (.const 0), false⟩
def FUS_GRP.Q2 : Fld := ⟨.fusGrp, 10, 5, .rwl, (.const 0), false⟩
def FUS_GRP.Q3 : Fld := ⟨.fusGrp, 15, 5, .rwl, (.const 0), false⟩
def FUS_GRP.Q4 : Fld := ⟨.fusGrp, 20, 5, .rwl, (.const 0), false⟩
def FUS_GRP.Q5 : Fld := ⟨.fusGrp, 25, 5, .rwl, (.const 0), false⟩

/-! FUS_STAT (R228). -/

def FUS_STAT.RELEASED : Fld := ⟨.fusStat, 0, 32, .ro, (.const 0xffffffff), false⟩
def FUS_STAT.OOS_DROP : Fld := ⟨.fusStat, 32, 8, .ro, (.const 0), false⟩
def FUS_STAT.CFG_REFUSED : Fld := ⟨.fusStat, 40, 8, .ro, (.const 0), true⟩
def FUS_STAT.EXPIRED : Fld := ⟨.fusStat, 48, 8, .ro, (.const 0), true⟩

/-! FUS_FORCE (R229). -/

def FUS_FORCE.FORCE : Fld := ⟨.fusForce, 0, 32, .rw, (.const 0), false⟩

/-! FUS_POSE (R229). -/

def FUS_POSE.BASE : Fld := ⟨.fusPose, 0, 48, .rwl, (.const 0), true⟩
def FUS_POSE.LAST : Fld := ⟨.fusPose, 64, 64, .ro, (.const 18446744073709551615), false⟩

/-! FUS_CKSEL (R229). -/

def FUS_CKSEL.SEL : Fld := ⟨.fusCksel, 0, 17, .ro, (.const 0), false⟩

/-! FUS_CEIL (R230). -/

def FUS_CEIL.ENTRY_LO : Fld := ⟨.fusCeil, 0, 16, .rwl, (.const 0), false⟩
def FUS_CEIL.ENTRY_HI : Fld := ⟨.fusCeil, 16, 16, .rwl, (.const 0), false⟩

/-! FUS_SRC_STAT (R231). -/

def FUS_SRC_STAT.STATE : Fld := ⟨.fusSrcStat, 0, 3, .ro, (.const 0), false⟩
def FUS_SRC_STAT.LATE : Fld := ⟨.fusSrcStat, 8, 8, .ro, (.const 0), false⟩
def FUS_SRC_STAT.MISSING : Fld := ⟨.fusSrcStat, 16, 8, .ro, (.const 0), false⟩
def FUS_SRC_STAT.DROP : Fld := ⟨.fusSrcStat, 24, 8, .ro, (.const 0), false⟩
def FUS_SRC_STAT.OFS : Fld := ⟨.fusSrcStat, 32, 32, .ro, (.const 0), false⟩
def FUS_SRC_STAT.EXTRA : Fld := ⟨.fusSrcStat, 64, 8, .ro, (.const 0), false⟩

/-! RND_CFG (R252). -/

def RND_CFG.CORES_EN : Fld := ⟨.rndCfg, 0, 4, .ro, (.const 0), true⟩
def RND_CFG.INTERLOCK : Fld := ⟨.rndCfg, 4, 1, .ro, (.const 0), true⟩
def RND_CFG.SPLIT_REFS : Fld := ⟨.rndCfg, 8, 8, .rw, (.const 0x40), false⟩
def RND_CFG.IN_SVC : Fld := ⟨.rndCfg, 16, 8, .ro, (.const 0), true⟩

/-! RND_STAT (R252). -/

def RND_STAT.OVERFLOWS : Fld := ⟨.rndStat, 0, 16, .ro, (.const 0), true⟩
def RND_STAT.TT_OVERFLOW : Fld := ⟨.rndStat, 16, 8, .ro, (.const 0), true⟩

/-! DSP_CFG (R253). -/

def DSP_CFG.EVT_VEF : Fld := ⟨.dspCfg, 0, 7, .rw, (.const 0), false⟩
def DSP_CFG.HELD : Fld := ⟨.dspCfg, 8, 6, .ro, (.const 0), true⟩
def DSP_CFG.CFG_REFUSED : Fld := ⟨.dspCfg, 16, 8, .ro, (.const 0), true⟩

/-! DSP_HEAD (R254). -/

def DSP_HEAD.ENABLE : Fld := ⟨.dspHead, 0, 1, .rw, (.const 0), false⟩
def DSP_HEAD.PENDING : Fld := ⟨.dspHead, 1, 1, .ro, (.const 0), false⟩
def DSP_HEAD.HELD : Fld := ⟨.dspHead, 2, 1, .ro, (.const 0), true⟩
def DSP_HEAD.STATE : Fld := ⟨.dspHead, 4, 2, .ro, (.const 0), false⟩
def DSP_HEAD.WARP_EN : Fld := ⟨.dspHead, 6, 1, .rw, (.const 0), false⟩
def DSP_HEAD.REFRESH : Fld := ⟨.dspHead, 7, 1, .rw, (.const 0), false⟩
def DSP_HEAD.BPC10 : Fld := ⟨.dspHead, 8, 1, .rw, (.const 0), false⟩
def DSP_HEAD.EDP : Fld := ⟨.dspHead, 9, 1, .rw, (.const 0), false⟩
/-- Heads 0–3 only: of heads 4 and 5 the bits are reserved and read zero (R9, R254). -/
def DSP_HEAD.LANES : Fld := ⟨.dspHead, 10, 2, .rw, (.split 4 2 0), false⟩
def DSP_HEAD.H_ACTIVE : Fld := ⟨.dspHead, 32, 13, .rw, (.const 0), false⟩
def DSP_HEAD.V_ACTIVE : Fld := ⟨.dspHead, 48, 13, .rw, (.const 0), false⟩
def DSP_HEAD.H_TOTAL : Fld := ⟨.dspHead, 64, 13, .rw, (.const 0), false⟩
def DSP_HEAD.V_TOTAL : Fld := ⟨.dspHead, 80, 13, .rw, (.const 0), false⟩
def DSP_HEAD.HS_START : Fld := ⟨.dspHead, 96, 13, .rw, (.const 0), false⟩
def DSP_HEAD.HS_WIDTH : Fld := ⟨.dspHead, 112, 13, .rw, (.const 0), false⟩
def DSP_HEAD.HS_POL : Fld := ⟨.dspHead, 125, 1, .rw, (.const 0), false⟩
def DSP_HEAD.VS_START : Fld := ⟨.dspHead, 128, 13, .rw, (.const 0), false⟩
def DSP_HEAD.VS_WIDTH : Fld := ⟨.dspHead, 144, 13, .rw, (.const 0), false⟩
def DSP_HEAD.VS_POL : Fld := ⟨.dspHead, 157, 1, .rw, (.const 0), false⟩
def DSP_HEAD.BKGND : Fld := ⟨.dspHead, 160, 30, .rw, (.const 0), false⟩
def DSP_HEAD.EPOCH : Fld := ⟨.dspHead, 192, 64, .rw, (.const 0), false⟩
def DSP_HEAD.FRAMES : Fld := ⟨.dspHead, 256, 32, .ro, (.const 0), false⟩
def DSP_HEAD.WARPS : Fld := ⟨.dspHead, 288, 16, .ro, (.const 0), false⟩
def DSP_HEAD.REPEATS : Fld := ⟨.dspHead, 304, 16, .ro, (.const 0), false⟩
def DSP_HEAD.NOPOSE : Fld := ⟨.dspHead, 320, 8, .ro, (.const 0), false⟩
def DSP_HEAD.WARP_LIMIT : Fld := ⟨.dspHead, 328, 8, .ro, (.const 0), false⟩
def DSP_HEAD.UNDERFLOW : Fld := ⟨.dspHead, 336, 8, .ro, (.const 0), false⟩
def DSP_HEAD.SKIPPED : Fld := ⟨.dspHead, 344, 8, .ro, (.const 0), false⟩

/-! DSP_TT_STAT (R255). -/

def DSP_TT_STAT.MISMATCH : Fld := ⟨.dspTtStat, 0, 16, .w1c, (.const 0), false⟩
def DSP_TT_STAT.LAST_B : Fld := ⟨.dspTtStat, 16, 16, .ro, (.const 0), false⟩
def DSP_TT_STAT.COUNT : Fld := ⟨.dspTtStat, 32, 16, .ro, (.const 0), false⟩

/-! DSP_TT (R255). -/

def DSP_TT.X0 : Fld := ⟨.dspTt, 0, 13, .rw, (.const 0), false⟩
def DSP_TT.Y0 : Fld := ⟨.dspTt, 16, 13, .rw, (.const 0), false⟩
def DSP_TT.ENABLE : Fld := ⟨.dspTt, 31, 1, .rw, (.const 0), false⟩
def DSP_TT.W : Fld := ⟨.dspTt, 32, 13, .rw, (.const 0), false⟩
def DSP_TT.H : Fld := ⟨.dspTt, 48, 13, .rw, (.const 0), false⟩
def DSP_TT.EXP_A : Fld := ⟨.dspTt, 64, 32, .rw, (.const 0), false⟩
def DSP_TT.EXP_B : Fld := ⟨.dspTt, 96, 32, .rw, (.const 0), false⟩

/-! PASS_DEV (R331). -/

def PASS_DEV.ID : Fld := ⟨.passDev, 0, 16, .ro, (.const 0xffff), false⟩
def PASS_DEV.ASSIGNED : Fld := ⟨.passDev, 16, 1, .ro, (.const 0), false⟩
def PASS_DEV.STATIC : Fld := ⟨.passDev, 17, 1, .ro, (.const 0), false⟩
def PASS_DEV.AUTHORITY : Fld := ⟨.passDev, 18, 1, .ro, (.const 0), false⟩
def PASS_DEV.AUTH_ID : Fld := ⟨.passDev, 32, 16, .ro, (.const 0xffff), false⟩
def PASS_DEV.GEN : Fld := ⟨.passDev, 48, 16, .ro, (.const 0), false⟩

/-! PASS_CFG (R331). -/

def PASS_CFG.FABRIC : Fld := ⟨.passCfg, 0, 8, .rwl, (.const 0), true⟩
def PASS_CFG.STATIC_EN : Fld := ⟨.passCfg, 8, 1, .rwl, (.const 0), true⟩
def PASS_CFG.MEMBER : Fld := ⟨.passCfg, 16, 8, .rwl, (.const 0), true⟩
def PASS_CFG.LOCK : Fld := ⟨.passCfg, 24, 1, .rw, (.const 0), true⟩
def PASS_CFG.TIMEOUT_US : Fld := ⟨.passCfg, 32, 16, .rw, (.const 0x3e8), true⟩
def PASS_CFG.POLL_US : Fld := ⟨.passCfg, 48, 7, .rw, (.const 5), true⟩

/-! PASS_STAT (R332). -/

def PASS_STAT.NOROUTE : Fld := ⟨.passStat, 0, 16, .ro, (.const 0), true⟩
def PASS_STAT.TIMEOUTS : Fld := ⟨.passStat, 16, 16, .ro, (.const 0), true⟩
def PASS_STAT.LOCK_FAIL : Fld := ⟨.passStat, 32, 8, .ro, (.const 0), true⟩
def PASS_STAT.ID_LOST : Fld := ⟨.passStat, 40, 8, .ro, (.const 0), true⟩
def PASS_STAT.MALFORMED : Fld := ⟨.passStat, 48, 8, .ro, (.const 0), true⟩
def PASS_STAT.OVERFULL : Fld := ⟨.passStat, 56, 1, .ro, (.const 0), false⟩

/-! PASS_IRQ_ADDR (R332). -/

def PASS_IRQ_ADDR.ADDR : Fld := ⟨.passIrqAddr, 0, 64, .rw, (.const 0), true⟩

/-! PASS_IRQ_DATA (R332). -/

def PASS_IRQ_DATA.DATA : Fld := ⟨.passIrqData, 0, 32, .rw, (.const 0), true⟩

/-! PASS_IRQ_CAUSE (R332). -/

def PASS_IRQ_CAUSE.GEN : Fld := ⟨.passIrqCause, 0, 1, .w1c, (.const 0), false⟩
def PASS_IRQ_CAUSE.DEV_LOST : Fld := ⟨.passIrqCause, 1, 1, .w1c, (.const 0), false⟩
def PASS_IRQ_CAUSE.ID_CHANGE : Fld := ⟨.passIrqCause, 2, 1, .w1c, (.const 0), false⟩
def PASS_IRQ_CAUSE.PORT : Fld := ⟨.passIrqCause, 3, 1, .w1c, (.const 0), false⟩
def PASS_IRQ_CAUSE.POLL_LOST : Fld := ⟨.passIrqCause, 4, 1, .w1c, (.const 0), false⟩
def PASS_IRQ_CAUSE.IRQ_EN : Fld := ⟨.passIrqCause, 31, 1, .rw, (.const 0), false⟩

/-! PASS_DEV_LOST (R331). -/

def PASS_DEV_LOST.DEV : Fld := ⟨.passDevLost, 0, 16, .ro, (.const 0xffff), true⟩
def PASS_DEV_LOST.COUNT : Fld := ⟨.passDevLost, 16, 16, .ro, (.const 0), true⟩

/-! PASS_LINK_CFG (R333). -/

def PASS_LINK_CFG.DEADLOCK : Fld := ⟨.passLinkCfg, 0, 1, .rw, (.const 0), true⟩
def PASS_LINK_CFG.READ_TIMER_US : Fld := ⟨.passLinkCfg, 16, 10, .rw, (.const 0x14), true⟩

/-! PASS_LINK_STAT (R333). -/

def PASS_LINK_STAT.STATE : Fld := ⟨.passLinkStat, 0, 3, .ro, (.const 0), false⟩
def PASS_LINK_STAT.WIDTH4 : Fld := ⟨.passLinkStat, 3, 1, .ro, (.const 0), false⟩
def PASS_LINK_STAT.MODE_DISCARD : Fld := ⟨.passLinkStat, 4, 1, .ro, (.const 0), false⟩
def PASS_LINK_STAT.PEER_ID : Fld := ⟨.passLinkStat, 8, 16, .ro, (.const 0xffff), false⟩
def PASS_LINK_STAT.PEER_PORT : Fld := ⟨.passLinkStat, 24, 2, .ro, (.const 0), false⟩
def PASS_LINK_STAT.CRC_ERR : Fld := ⟨.passLinkStat, 32, 16, .ro, (.const 0), false⟩
def PASS_LINK_STAT.REPLAYS : Fld := ⟨.passLinkStat, 48, 16, .ro, (.const 0), false⟩
def PASS_LINK_STAT.RETRAINS : Fld := ⟨.passLinkStat, 64, 8, .ro, (.const 0), false⟩
def PASS_LINK_STAT.DISCARDED : Fld := ⟨.passLinkStat, 72, 8, .ro, (.const 0), false⟩
def PASS_LINK_STAT.BACKOFFS : Fld := ⟨.passLinkStat, 80, 16, .ro, (.const 0), false⟩

/-! PASS_TUN (R335). -/

def PASS_TUN.UDP_PORT : Fld := ⟨.passTun, 0, 16, .rwl, (.const 0), true⟩
def PASS_TUN.VLAN : Fld := ⟨.passTun, 16, 12, .rwl, (.const 0), true⟩
def PASS_TUN.ENABLE : Fld := ⟨.passTun, 28, 1, .rwl, (.const 0), true⟩

/-! PASS_SBO (R336). -/

def PASS_SBO.SET : Fld := ⟨.passSbo, 0, 32, .wo, (.const 0), false⟩
def PASS_SBO.PEND : Fld := ⟨.passSbo, 32, 32, .ro, (.const 0), false⟩
def PASS_SBO.STATUS : Fld := ⟨.passSbo, 64, 32, .rw, (.const 0), false⟩
def PASS_SBO.PEER : Fld := ⟨.passSbo, 96, 16, .rw, (.const 0xffff), false⟩

/-! PASS_POLL (R336). -/

def PASS_POLL.TARGET : Fld := ⟨.passPoll, 0, 16, .rw, (.const 0xffff), false⟩
def PASS_POLL.WORD : Fld := ⟨.passPoll, 16, 4, .rw, (.const 0), false⟩
def PASS_POLL.EN : Fld := ⟨.passPoll, 20, 1, .rw, (.const 0), false⟩
def PASS_POLL.LOST : Fld := ⟨.passPoll, 21, 1, .ro, (.const 0), false⟩
def PASS_POLL.MASK : Fld := ⟨.passPoll, 32, 32, .rw, (.const 0), false⟩
def PASS_POLL.IRQ_ADDR : Fld := ⟨.passPoll, 64, 64, .rw, (.const 0), false⟩
def PASS_POLL.IRQ_DATA : Fld := ⟨.passPoll, 128, 32, .rw, (.const 0), false⟩
def PASS_POLL.LAST_STATUS : Fld := ⟨.passPoll, 160, 32, .ro, (.const 0), false⟩
def PASS_POLL.PEND_ACC : Fld := ⟨.passPoll, 192, 32, .w1c, (.const 0), false⟩

/-! PASS_RT (R334). -/

def PASS_RT.VALID : Fld := ⟨.passRt, 0, 1, .ro, (.const 0), false⟩
def PASS_RT.SELF : Fld := ⟨.passRt, 1, 1, .ro, (.const 0), false⟩
def PASS_RT.PORT : Fld := ⟨.passRt, 2, 2, .ro, (.const 0), false⟩
def PASS_RT.YIELD : Fld := ⟨.passRt, 4, 1, .ro, (.const 0), false⟩
def PASS_RT.HOPS : Fld := ⟨.passRt, 8, 8, .ro, (.const 0), false⟩
def PASS_RT.GEN : Fld := ⟨.passRt, 16, 16, .ro, (.const 0), false⟩

/-! PASS_TUNT (R335). -/

def PASS_TUNT.ADDR : Fld := ⟨.passTunt, 0, 128, .rw, (.const 0), true⟩
def PASS_TUNT.EP_MEMBER : Fld := ⟨.passTunt, 128, 8, .rw, (.const 0), true⟩
def PASS_TUNT.VALID : Fld := ⟨.passTunt, 136, 1, .rw, (.const 0), true⟩

/-! GW_SW (R363). -/

def GW_SW.RUN : Fld := ⟨.gwSw, 0, 1, .rw, (.const 0), false⟩
def GW_SW.LOCK : Fld := ⟨.gwSw, 1, 1, .rw, (.const 0), true⟩
def GW_SW.SAFETY_VLAN : Fld := ⟨.gwSw, 4, 12, .rwl, (.const 0), true⟩

/-! GW_SG_STAT (R363). -/

def GW_SG_STAT.OVERWRITE : Fld := ⟨.gwSgStat, 0, 16, .ro, (.const 0), true⟩
def GW_SG_STAT.SHORT : Fld := ⟨.gwSgStat, 16, 16, .ro, (.const 0), true⟩
def GW_SG_STAT.CFG_REFUSED : Fld := ⟨.gwSgStat, 32, 8, .ro, (.const 0), true⟩

/-! GW_PORT (R363). -/

def GW_PORT.ENABLE : Fld := ⟨.gwPort, 0, 1, .rw, (.const 0), false⟩
def GW_PORT.STATE : Fld := ⟨.gwPort, 1, 2, .ro, (.const 0), false⟩
def GW_PORT.LINK : Fld := ⟨.gwPort, 3, 1, .ro, (.const 0), false⟩
def GW_PORT.SPEED : Fld := ⟨.gwPort, 4, 3, .rw, (.const 0), false⟩
def GW_PORT.TX_LAT : Fld := ⟨.gwPort, 32, 16, .rw, (.const 0), true⟩
def GW_PORT.RX_LAT : Fld := ⟨.gwPort, 48, 16, .rw, (.const 0), true⟩
def GW_PORT.TS_IGNORED : Fld := ⟨.gwPort, 64, 16, .ro, (.const 0), false⟩
def GW_PORT.RX_DROP : Fld := ⟨.gwPort, 80, 16, .ro, (.const 0), false⟩

/-! GW_TXTS (R364). -/

def GW_TXTS.TS_ID : Fld := ⟨.gwTxts, 0, 16, .ro, (.const 0), false⟩
def GW_TXTS.BASE : Fld := ⟨.gwTxts, 16, 2, .ro, (.const 0), false⟩
def GW_TXTS.DROPPED : Fld := ⟨.gwTxts, 18, 1, .ro, (.const 0), false⟩
def GW_TXTS.VALID : Fld := ⟨.gwTxts, 31, 1, .ro, (.const 0), false⟩
def GW_TXTS.STAMP : Fld := ⟨.gwTxts, 32, 96, .ro, (.const 0), false⟩

/-! GW_TXTS_STAT (R364). -/

def GW_TXTS_STAT.POP : Fld := ⟨.gwTxtsStat, 0, 1, .wo, (.const 0), false⟩
def GW_TXTS_STAT.OVF : Fld := ⟨.gwTxtsStat, 1, 1, .w1c, (.const 0), false⟩
def GW_TXTS_STAT.COUNT : Fld := ⟨.gwTxtsStat, 2, 6, .ro, (.const 0), false⟩
def GW_TXTS_STAT.LOST : Fld := ⟨.gwTxtsStat, 8, 16, .ro, (.const 0), false⟩

/-! GW_HPQ (R365). -/

def GW_HPQ.TX_BASE : Fld := ⟨.gwHpq, 0, 64, .rw, (.const 0), false⟩
def GW_HPQ.TX_SIZE_LOG2 : Fld := ⟨.gwHpq, 64, 4, .rw, (.const 6), false⟩
def GW_HPQ.TX_ENABLE : Fld := ⟨.gwHpq, 68, 1, .rw, (.const 0), false⟩
def GW_HPQ.TX_TAIL : Fld := ⟨.gwHpq, 96, 16, .rw, (.const 0), false⟩
def GW_HPQ.TX_HEAD : Fld := ⟨.gwHpq, 112, 16, .ro, (.const 0), false⟩
def GW_HPQ.RX_BASE : Fld := ⟨.gwHpq, 128, 64, .rw, (.const 0), false⟩
def GW_HPQ.RX_SIZE_LOG2 : Fld := ⟨.gwHpq, 192, 4, .rw, (.const 6), false⟩
def GW_HPQ.RX_ENABLE : Fld := ⟨.gwHpq, 196, 1, .rw, (.const 0), false⟩
def GW_HPQ.RX_BUF_2K : Fld := ⟨.gwHpq, 197, 2, .rw, (.const 1), false⟩
def GW_HPQ.RX_HEAD : Fld := ⟨.gwHpq, 224, 16, .rw, (.const 0), false⟩
def GW_HPQ.RX_TAIL : Fld := ⟨.gwHpq, 240, 16, .ro, (.const 0), false⟩

/-! GW_CAN (R366). -/

def GW_CAN.ENABLE : Fld := ⟨.gwCan, 0, 1, .rw, (.const 0), false⟩
def GW_CAN.STATE : Fld := ⟨.gwCan, 1, 2, .ro, (.const 0), false⟩
def GW_CAN.FD_EN : Fld := ⟨.gwCan, 3, 1, .rw, (.const 0), false⟩
def GW_CAN.XL_EN : Fld := ⟨.gwCan, 4, 1, .rw, (.const 0), false⟩
def GW_CAN.AUTO_RECOVER : Fld := ⟨.gwCan, 5, 1, .rw, (.const 0), false⟩
def GW_CAN.BUS_OFF : Fld := ⟨.gwCan, 6, 1, .ro, (.const 0), false⟩
def GW_CAN.ENTRY : Fld := ⟨.gwCan, 7, 1, .rw, (.const 0), false⟩
def GW_CAN.TEC : Fld := ⟨.gwCan, 8, 8, .ro, (.const 0), false⟩
def GW_CAN.REC : Fld := ⟨.gwCan, 16, 8, .ro, (.const 0), false⟩
def GW_CAN.RX_DROP : Fld := ⟨.gwCan, 24, 8, .ro, (.const 0), false⟩
def GW_CAN.RX_BASE : Fld := ⟨.gwCan, 64, 64, .rw, (.const 0), false⟩
def GW_CAN.TX_BASE : Fld := ⟨.gwCan, 128, 64, .rw, (.const 0), false⟩
def GW_CAN.RX_SIZE_LOG2 : Fld := ⟨.gwCan, 192, 4, .rw, (.const 6), false⟩
def GW_CAN.TX_SIZE_LOG2 : Fld := ⟨.gwCan, 196, 4, .rw, (.const 6), false⟩
def GW_CAN.NBT : Fld := ⟨.gwCan, 256, 32, .rw, (.const 0), false⟩
def GW_CAN.DBT_FD : Fld := ⟨.gwCan, 288, 32, .rw, (.const 0), false⟩
def GW_CAN.DBT_XL : Fld := ⟨.gwCan, 320, 32, .rw, (.const 0), false⟩
def GW_CAN.RX_HEAD : Fld := ⟨.gwCan, 384, 16, .rw, (.const 0), false⟩
def GW_CAN.RX_TAIL : Fld := ⟨.gwCan, 400, 16, .ro, (.const 0), false⟩
def GW_CAN.TX_HEAD : Fld := ⟨.gwCan, 416, 16, .ro, (.const 0), false⟩
def GW_CAN.TX_TAIL : Fld := ⟨.gwCan, 432, 16, .rw, (.const 0), false⟩

/-! GW_ADDR (R367). -/

def GW_ADDR.ADDR : Fld := ⟨.gwAddr, 0, 128, .rw, (.const 0), false⟩

/-! GW_CONT (R367). -/

def GW_CONT.VALID : Fld := ⟨.gwCont, 0, 1, .rw, (.const 0), false⟩
def GW_CONT.DIR : Fld := ⟨.gwCont, 1, 1, .rw, (.const 0), false⟩
def GW_CONT.KIND : Fld := ⟨.gwCont, 2, 1, .rw, (.const 0), false⟩
def GW_CONT.CTRL : Fld := ⟨.gwCont, 4, 4, .rw, (.const 0), false⟩
def GW_CONT.EXT : Fld := ⟨.gwCont, 8, 1, .rw, (.const 0), false⟩
def GW_CONT.FD : Fld := ⟨.gwCont, 9, 1, .rw, (.const 0), false⟩
def GW_CONT.XL : Fld := ⟨.gwCont, 10, 1, .rw, (.const 0), false⟩
def GW_CONT.LEN : Fld := ⟨.gwCont, 16, 12, .rw, (.const 0), false⟩
def GW_CONT.ADDR : Fld := ⟨.gwCont, 28, 4, .rw, (.const 0), false⟩
def GW_CONT.MIN_GAP_US : Fld := ⟨.gwCont, 32, 32, .rw, (.const 0), false⟩
def GW_CONT.ID : Fld := ⟨.gwCont, 64, 32, .rw, (.const 0), false⟩
def GW_CONT.VLAN : Fld := ⟨.gwCont, 96, 12, .rw, (.const 0), false⟩
def GW_CONT.UDP_PORT : Fld := ⟨.gwCont, 112, 16, .rw, (.const 0), false⟩

/-! GW_ROUTE (R367). -/

def GW_ROUTE.VALID : Fld := ⟨.gwRoute, 0, 1, .rw, (.const 0), false⟩
def GW_ROUTE.MODE : Fld := ⟨.gwRoute, 1, 2, .rw, (.const 0), false⟩
def GW_ROUTE.SRC : Fld := ⟨.gwRoute, 16, 10, .rw, (.const 0), false⟩
def GW_ROUTE.DST : Fld := ⟨.gwRoute, 32, 10, .rw, (.const 0), false⟩
def GW_ROUTE.SRC_BIT : Fld := ⟨.gwRoute, 64, 14, .rw, (.const 0), false⟩
def GW_ROUTE.DST_BIT : Fld := ⟨.gwRoute, 80, 14, .rw, (.const 0), false⟩
def GW_ROUTE.LEN : Fld := ⟨.gwRoute, 96, 14, .rw, (.const 0), false⟩

/-! APHY_LINK (R430). -/

def APHY_LINK.UP : Fld := ⟨.aphyLink, 0, 1, .ro, (.const 0), false⟩
def APHY_LINK.GEAR : Fld := ⟨.aphyLink, 1, 3, .ro, (.const 0), false⟩
def APHY_LINK.RETRAINS : Fld := ⟨.aphyLink, 8, 8, .ro, (.const 0), false⟩
def APHY_LINK.RETX : Fld := ⟨.aphyLink, 16, 16, .ro, (.const 0), false⟩
def APHY_LINK.GPIO_OUT : Fld := ⟨.aphyLink, 32, 3, .rw, (.const 0), false⟩

/-! APHY_I2C (R431). -/

def APHY_I2C.ADDR : Fld := ⟨.aphyI2c, 0, 7, .rw, (.const 0), false⟩
def APHY_I2C.WLEN : Fld := ⟨.aphyI2c, 8, 4, .rw, (.const 0), false⟩
def APHY_I2C.RLEN : Fld := ⟨.aphyI2c, 12, 4, .rw, (.const 0), false⟩
def APHY_I2C.SPEED : Fld := ⟨.aphyI2c, 16, 2, .rw, (.const 1), false⟩
def APHY_I2C.GO : Fld := ⟨.aphyI2c, 18, 1, .wo, (.const 0), false⟩
def APHY_I2C.BUSY : Fld := ⟨.aphyI2c, 19, 1, .ro, (.const 0), false⟩
def APHY_I2C.RESULT : Fld := ⟨.aphyI2c, 20, 3, .ro, (.const 0), false⟩
def APHY_I2C.WDATA : Fld := ⟨.aphyI2c, 32, 64, .rw, (.const 0), false⟩
def APHY_I2C.RDATA : Fld := ⟨.aphyI2c, 96, 64, .ro, (.const 0), false⟩

/-! HOSTC_CLK (R427). -/

def HOSTC_CLK.REQ : Fld := ⟨.hostcClk, 0, 5, .rw, (.const 0x1a), false⟩
def HOSTC_CLK.ACTUAL : Fld := ⟨.hostcClk, 8, 5, .ro, (.const 0x1a), false⟩

/-! HOSTC_MTIMECMP (R427). -/

def HOSTC_MTIMECMP.CMP : Fld := ⟨.hostcMtimecmp, 0, 64, .rw, (.const 18446744073709551615), false⟩

/-! PCIE_OBW (R429). -/

def PCIE_OBW.BASE : Fld := ⟨.pcieObw, 27, 37, .rw, (.const 0), true⟩

/-! PCIE_STAT (R429). -/

def PCIE_STAT.LINK_UP : Fld := ⟨.pcieStat, 0, 1, .ro, (.const 0), false⟩
def PCIE_STAT.SPEED : Fld := ⟨.pcieStat, 1, 3, .ro, (.const 0), false⟩
def PCIE_STAT.WIDTH : Fld := ⟨.pcieStat, 4, 4, .ro, (.const 0), false⟩

/-! DB_SQ_TAIL (R136). -/

def DB_SQ_TAIL.TAIL : Fld := ⟨.dbSqTail, 0, 16, .wo, (.const 0), false⟩

/-! DB_CQ_HEAD (R136). -/

def DB_CQ_HEAD.HEAD : Fld := ⟨.dbCqHead, 0, 16, .rw, (.const 0), false⟩

/-! DB_EQ_HEAD (R136). -/

def DB_EQ_HEAD.HEAD : Fld := ⟨.dbEqHead, 0, 16, .rw, (.const 0), false⟩

/-! DB_STAT (R136). -/

def DB_STAT.BAD_DB : Fld := ⟨.dbStat, 0, 1, .w1c, (.const 0), false⟩
def DB_STAT.CFG_IGNORED : Fld := ⟨.dbStat, 1, 1, .w1c, (.const 0), false⟩

/-! SQ_CFG (R137). -/

def SQ_CFG.BASE : Fld := ⟨.sqCfg, 0, 64, .rw, (.const 0), false⟩
def SQ_CFG.SIZE_LOG2 : Fld := ⟨.sqCfg, 64, 5, .rw, (.const 6), false⟩
def SQ_CFG.ENGINE : Fld := ⟨.sqCfg, 69, 2, .rw, (.const 0), false⟩
def SQ_CFG.CLASS : Fld := ⟨.sqCfg, 71, 2, .rw, (.const 3), false⟩
def SQ_CFG.LOC : Fld := ⟨.sqCfg, 73, 1, .rw, (.const 0), false⟩
def SQ_CFG.ENABLE : Fld := ⟨.sqCfg, 74, 1, .rw, (.const 0), false⟩
def SQ_CFG.IDLE : Fld := ⟨.sqCfg, 75, 1, .ro, (.const 1), false⟩
def SQ_CFG.HEAD : Fld := ⟨.sqCfg, 96, 16, .ro, (.const 0), false⟩

/-! CQ_CFG (R138). -/

def CQ_CFG.BASE : Fld := ⟨.cqCfg, 0, 64, .rw, (.const 0), false⟩
def CQ_CFG.SIZE_LOG2 : Fld := ⟨.cqCfg, 64, 5, .rw, (.const 6), false⟩
def CQ_CFG.LOC : Fld := ⟨.cqCfg, 73, 1, .rw, (.const 0), false⟩
def CQ_CFG.ENABLE : Fld := ⟨.cqCfg, 74, 1, .rw, (.const 0), false⟩
def CQ_CFG.IRQ_EN : Fld := ⟨.cqCfg, 75, 1, .rw, (.const 0), false⟩
def CQ_CFG.TAIL : Fld := ⟨.cqCfg, 96, 16, .ro, (.const 0), false⟩
def CQ_CFG.IRQ_ADDR : Fld := ⟨.cqCfg, 128, 64, .rw, (.const 0), false⟩
def CQ_CFG.IRQ_DATA : Fld := ⟨.cqCfg, 192, 32, .rw, (.const 0), false⟩

/-! EQ_CFG (R138). -/

def EQ_CFG.BASE : Fld := ⟨.eqCfg, 0, 64, .rw, (.const 0), false⟩
def EQ_CFG.SIZE_LOG2 : Fld := ⟨.eqCfg, 64, 5, .rw, (.const 6), false⟩
def EQ_CFG.LOC : Fld := ⟨.eqCfg, 73, 1, .rw, (.const 0), false⟩
def EQ_CFG.ENABLE : Fld := ⟨.eqCfg, 74, 1, .rw, (.const 0), false⟩
def EQ_CFG.IRQ_EN : Fld := ⟨.eqCfg, 75, 1, .rw, (.const 0), false⟩
def EQ_CFG.TAIL : Fld := ⟨.eqCfg, 96, 16, .ro, (.const 0), false⟩
def EQ_CFG.IRQ_ADDR : Fld := ⟨.eqCfg, 128, 64, .rw, (.const 0), false⟩
def EQ_CFG.IRQ_DATA : Fld := ⟨.eqCfg, 192, 32, .rw, (.const 0), false⟩

/-- The place of each register (R418 and the offsets of each chapter). -/
def RegName.place : RegName → RegPlace
  | .sysId => ⟨0xF000000000, 4, 1, 0x0, 1, 0x0⟩
  | .sysCfg => ⟨0xF000000008, 4, 1, 0x0, 1, 0x0⟩
  | .sysAcc => ⟨0xF000000010, 8, 1, 0x0, 1, 0x0⟩
  | .sysMode => ⟨0xF000000040, 4, 1, 0x0, 1, 0x0⟩
  | .sysRst => ⟨0xF000000044, 4, 1, 0x0, 1, 0x0⟩
  | .sysStrap => ⟨0xF000000048, 4, 1, 0x0, 1, 0x0⟩
  | .sysPark => ⟨0xF000000050, 8, 1, 0x0, 1, 0x0⟩
  | .pwrLim => ⟨0xF000100000, 8, 1, 0x0, 1, 0x0⟩
  | .pwrCtl => ⟨0xF000100008, 4, 1, 0x0, 1, 0x0⟩
  | .pwrStat => ⟨0xF000100010, 8, 1, 0x0, 1, 0x0⟩
  | .pwrDom => ⟨0xF000100100, 4, 24, 0x4, 1, 0x0⟩
  | .tbInc => ⟨0xF000200000, 8, 4, 0x10, 1, 0x0⟩
  | .tbOfs => ⟨0xF000200008, 8, 4, 0x10, 1, 0x0⟩
  | .tbCtl => ⟨0xF000200040, 4, 1, 0x0, 1, 0x0⟩
  | .tbStat => ⟨0xF000200044, 4, 1, 0x0, 1, 0x0⟩
  | .tbCfg => ⟨0xF000200048, 4, 1, 0x0, 1, 0x0⟩
  | .tbSnap => ⟨0xF000200080, 16, 4, 0x10, 1, 0x0⟩
  | .fwStat => ⟨0xF000300000, 8, 1, 0x0, 1, 0x0⟩
  | .fwPkg => ⟨0xF000300010, 16, 1, 0x0, 1, 0x0⟩
  | .fwLog => ⟨0xF000300020, 16, 1, 0x0, 1, 0x0⟩
  | .fwTrace => ⟨0xF000300040, 4, 8, 0x4, 1, 0x0⟩
  | .idPub => ⟨0xF000300100, 96, 1, 0x0, 1, 0x0⟩
  | .idHash => ⟨0xF000300160, 48, 1, 0x0, 1, 0x0⟩
  | .safCtl => ⟨0xF000400000, 4, 1, 0x0, 1, 0x0⟩
  | .safWdog => ⟨0xF000400004, 4, 1, 0x0, 1, 0x0⟩
  | .safFaultLast => ⟨0xF000400008, 8, 1, 0x0, 1, 0x0⟩
  | .safFaultCnt => ⟨0xF000400010, 8, 1, 0x0, 1, 0x0⟩
  | .safEsc => ⟨0xF000400018, 4, 1, 0x0, 1, 0x0⟩
  | .safGold => ⟨0xF000400100, 16, 17, 0x10, 1, 0x0⟩
  | .bistCfg => ⟨0xF000500000, 4, 1, 0x0, 1, 0x0⟩
  | .bistGate => ⟨0xF000500008, 8, 1, 0x0, 1, 0x0⟩
  | .bistLast => ⟨0xF000500010, 8, 1, 0x0, 1, 0x0⟩
  | .bistStat => ⟨0xF000500018, 8, 1, 0x0, 1, 0x0⟩
  | .bistUnit => ⟨0xF000501000, 4, 192, 0x4, 1, 0x0⟩
  | .memPcInSvc => ⟨0xF000600000, 8, 1, 0x0, 1, 0x0⟩
  | .memPcNext => ⟨0xF000600008, 8, 1, 0x0, 1, 0x0⟩
  | .memKeyCmd => ⟨0xF000600010, 4, 1, 0x0, 1, 0x0⟩
  | .memStat => ⟨0xF000600014, 4, 1, 0x0, 1, 0x0⟩
  | .memEcc => ⟨0xF000600018, 4, 1, 0x0, 1, 0x0⟩
  | .memRgn => ⟨0xF000601000, 16, 256, 0x10, 1, 0x0⟩
  | .movCmq => ⟨0xF000700100, 16, 17, 0x20, 1, 0x0⟩
  | .dmaChCtl => ⟨0xF000800100, 4, 32, 0x10, 1, 0x0⟩
  | .dmaChCrc => ⟨0xF000800104, 4, 32, 0x10, 1, 0x0⟩
  | .dmaChBytes => ⟨0xF000800108, 8, 32, 0x10, 1, 0x0⟩
  | .ringVefCfg => ⟨0xF000901000, 4, 128, 0x80, 1, 0x0⟩
  | .ringVefAsid => ⟨0xF000901004, 4, 128, 0x80, 8, 0x4⟩
  | .ringVefDisc => ⟨0xF000901024, 4, 128, 0x80, 1, 0x0⟩
  | .ringVefAqBase => ⟨0xF000901028, 8, 128, 0x80, 1, 0x0⟩
  | .ringVefAqCtl => ⟨0xF000901030, 4, 128, 0x80, 1, 0x0⟩
  | .ringVefAqHead => ⟨0xF000901034, 4, 128, 0x80, 1, 0x0⟩
  | .ringVefAqIrqAddr => ⟨0xF000901038, 8, 128, 0x80, 1, 0x0⟩
  | .ringVefAqIrqData => ⟨0xF000901040, 4, 128, 0x80, 1, 0x0⟩
  | .vefGlb => ⟨0xF000A00000, 4, 1, 0x0, 1, 0x0⟩
  | .vefHart => ⟨0xF000A00040, 4, 16, 0x4, 1, 0x0⟩
  | .vefAtt => ⟨0xF000A00100, 16, 1, 0x0, 1, 0x0⟩
  | .vefCtl => ⟨0xF000A01000, 4, 128, 0x40, 1, 0x0⟩
  | .vefSave => ⟨0xF000A01008, 8, 128, 0x40, 1, 0x0⟩
  | .vefSaveLen => ⟨0xF000A01010, 4, 128, 0x40, 1, 0x0⟩
  | .vefViol => ⟨0xF000A01018, 8, 128, 0x40, 1, 0x0⟩
  | .vefStat => ⟨0xF000A01020, 4, 128, 0x40, 1, 0x0⟩
  | .plainLoadStat => ⟨0xF000B00040, 4, 1, 0x0, 1, 0x0⟩
  | .plainFldCfg => ⟨0xF000B00100, 4, 17, 0x20, 1, 0x0⟩
  | .plainFldState => ⟨0xF000B00104, 4, 17, 0x20, 1, 0x0⟩
  | .plainFldWdog => ⟨0xF000B00108, 4, 17, 0x20, 1, 0x0⟩
  | .plainFldErr => ⟨0xF000B0010C, 4, 17, 0x20, 1, 0x0⟩
  | .plainFldErrloc => ⟨0xF000B00110, 4, 17, 0x20, 1, 0x0⟩
  | .plainFldTol => ⟨0xF000B00114, 4, 17, 0x20, 1, 0x0⟩
  | .plainFldNum => ⟨0xF000B00118, 4, 17, 0x20, 1, 0x0⟩
  | .plainFldWin => ⟨0xF000B01000, 16, 17, 0x100, 8, 0x10⟩
  | .vlyPfxBase => ⟨0xF000C00000, 8, 1, 0x0, 1, 0x0⟩
  | .vlyStat => ⟨0xF000C00008, 8, 1, 0x0, 1, 0x0⟩
  | .vlyPool => ⟨0xF000C00100, 32, 16, 0x20, 1, 0x0⟩
  | .ingRegion => ⟨0xF000D00000, 16, 1, 0x0, 1, 0x0⟩
  | .ingSrc => ⟨0xF000D00100, 32, 32, 0x20, 1, 0x0⟩
  | .fusCtl => ⟨0xF000E00000, 4, 1, 0x0, 1, 0x0⟩
  | .fusEpoch => ⟨0xF000E00008, 8, 1, 0x0, 1, 0x0⟩
  | .fusCfg => ⟨0xF000E00010, 4, 1, 0x0, 1, 0x0⟩
  | .fusGrp => ⟨0xF000E00014, 4, 1, 0x0, 1, 0x0⟩
  | .fusStat => ⟨0xF000E00018, 8, 1, 0x0, 1, 0x0⟩
  | .fusForce => ⟨0xF000E00020, 4, 1, 0x0, 1, 0x0⟩
  | .fusPose => ⟨0xF000E00028, 16, 1, 0x0, 1, 0x0⟩
  | .fusCksel => ⟨0xF000E00038, 4, 1, 0x0, 1, 0x0⟩
  | .fusCeil => ⟨0xF000E00100, 4, 32, 0x4, 1, 0x0⟩
  | .fusSrcStat => ⟨0xF000E00200, 16, 32, 0x10, 1, 0x0⟩
  | .rndCfg => ⟨0xF000F00000, 4, 1, 0x0, 1, 0x0⟩
  | .rndStat => ⟨0xF000F00004, 4, 1, 0x0, 1, 0x0⟩
  | .dspCfg => ⟨0xF001000000, 4, 1, 0x0, 1, 0x0⟩
  | .dspHead => ⟨0xF001000100, 64, 6, 0x40, 1, 0x0⟩
  | .dspTtStat => ⟨0xF001000800, 8, 6, 0x10, 1, 0x0⟩
  | .dspTt => ⟨0xF001001000, 16, 6, 0x100, 16, 0x10⟩
  | .passDev => ⟨0xF001100000, 8, 1, 0x0, 1, 0x0⟩
  | .passCfg => ⟨0xF001100008, 8, 1, 0x0, 1, 0x0⟩
  | .passStat => ⟨0xF001100010, 8, 1, 0x0, 1, 0x0⟩
  | .passIrqAddr => ⟨0xF001100020, 8, 1, 0x0, 1, 0x0⟩
  | .passIrqData => ⟨0xF001100028, 4, 1, 0x0, 1, 0x0⟩
  | .passIrqCause => ⟨0xF00110002C, 4, 1, 0x0, 1, 0x0⟩
  | .passDevLost => ⟨0xF001100030, 4, 1, 0x0, 1, 0x0⟩
  | .passLinkCfg => ⟨0xF001100100, 4, 4, 0x20, 1, 0x0⟩
  | .passLinkStat => ⟨0xF001100108, 16, 4, 0x20, 1, 0x0⟩
  | .passTun => ⟨0xF001100200, 4, 1, 0x0, 1, 0x0⟩
  | .passSbo => ⟨0xF001100400, 16, 16, 0x10, 1, 0x0⟩
  | .passPoll => ⟨0xF001100500, 32, 16, 0x20, 1, 0x0⟩
  | .passRt => ⟨0xF001101000, 4, 256, 0x4, 1, 0x0⟩
  | .passTunt => ⟨0xF001102000, 32, 256, 0x20, 1, 0x0⟩
  | .gwSw => ⟨0xF001200000, 4, 1, 0x0, 1, 0x0⟩
  | .gwSgStat => ⟨0xF001200008, 8, 1, 0x0, 1, 0x0⟩
  | .gwPort => ⟨0xF001200100, 12, 10, 0x20, 1, 0x0⟩
  | .gwTxts => ⟨0xF001200400, 16, 10, 0x20, 1, 0x0⟩
  | .gwTxtsStat => ⟨0xF001200410, 4, 10, 0x20, 1, 0x0⟩
  | .gwHpq => ⟨0xF001200800, 32, 8, 0x40, 1, 0x0⟩
  | .gwCan => ⟨0xF001201000, 64, 16, 0x40, 1, 0x0⟩
  | .gwAddr => ⟨0xF001201800, 16, 16, 0x10, 1, 0x0⟩
  | .gwCont => ⟨0xF001202000, 16, 1024, 0x10, 1, 0x0⟩
  | .gwRoute => ⟨0xF001210000, 16, 4096, 0x10, 1, 0x0⟩
  | .aphyLink => ⟨0xF001400000, 8, 12, 0x8, 1, 0x0⟩
  | .aphyI2c => ⟨0xF001400100, 32, 12, 0x20, 1, 0x0⟩
  | .hostcClk => ⟨0xF001500000, 4, 4, 0x4, 1, 0x0⟩
  | .hostcMtimecmp => ⟨0xF001501000, 8, 16, 0x8, 1, 0x0⟩
  | .pcieObw => ⟨0xF001A00000, 8, 1, 0x0, 1, 0x0⟩
  | .pcieStat => ⟨0xF001A00008, 4, 1, 0x0, 1, 0x0⟩
  | .dbSqTail => ⟨0xF100000000, 4, 128, 0x1000, 8, 0x4⟩
  | .dbCqHead => ⟨0xF100000020, 4, 128, 0x1000, 1, 0x0⟩
  | .dbEqHead => ⟨0xF100000024, 4, 128, 0x1000, 1, 0x0⟩
  | .dbStat => ⟨0xF100000028, 4, 128, 0x1000, 1, 0x0⟩
  | .sqCfg => ⟨0xF100000100, 32, 128, 0x1000, 8, 0x20⟩
  | .cqCfg => ⟨0xF100000200, 32, 128, 0x1000, 1, 0x0⟩
  | .eqCfg => ⟨0xF100000220, 32, 128, 0x1000, 1, 0x0⟩

/-- The fields of each register. -/
def RegName.flds : RegName → List Fld
  | .sysId => [SYS_ID.MINOR, SYS_ID.MAJOR, SYS_ID.PART]
  | .sysCfg => [SYS_CFG.DEPOT_EN, SYS_CFG.SPLIT, SYS_CFG.BOUND, SYS_CFG.RASTER, SYS_CFG.HEADS, SYS_CFG.PASS]
  | .sysAcc => [SYS_ACC.HOLE, SYS_ACC.DENIED, SYS_ACC.NARROW, SYS_ACC.LAST_SLOT]
  | .sysMode => [SYS_MODE.CURRENT, SYS_MODE.REQUEST, SYS_MODE.IN_TRANSITION, SYS_MODE.WAKE_SRC, SYS_MODE.DEPOT_AUTH, SYS_MODE.COOLANT, SYS_MODE.BACKSTOP, SYS_MODE.REFUSED]
  | .sysRst => [SYS_RST.WARM, SYS_RST.KEY, SYS_RST.FIELD, SYS_RST.FIELD_GO, SYS_RST.FIELD_REFUSED, SYS_RST.LAST_CAUSE]
  | .sysStrap => [SYS_STRAP.BOOT_SRC, SYS_STRAP.PCIE_MODE, SYS_STRAP.TEST_EN]
  | .sysPark => [SYS_PARK.WARM_S, SYS_PARK.COLD_WAKE_S]
  | .pwrLim => [PWR_LIM.DRIVE_W, PWR_LIM.DEPOT_W, PWR_LIM.HYST_W, PWR_LIM.TJ_THROTTLE]
  | .pwrCtl => [PWR_CTL.HOST_ON, PWR_CTL.LOCK]
  | .pwrStat => [PWR_STAT.POWER_W, PWR_STAT.AT_FLOOR, PWR_STAT.FLOOR_MS, PWR_STAT.BATCH, PWR_STAT.INTER, PWR_STAT.RENDER, PWR_STAT.RT, PWR_STAT.HOST, PWR_STAT.TJ_MAX]
  | .pwrDom => [PWR_DOM.STATE, PWR_DOM.FAIL, PWR_DOM.HELD, PWR_DOM.UPS]
  | .tbInc => [TB_INC.INC]
  | .tbOfs => [TB_OFS.OFS]
  | .tbCtl => [TB_CTL.SNAP]
  | .tbStat => [TB_STAT.STEPS_V, TB_STAT.STEPS_S, TB_STAT.STEPS_D, TB_STAT.CLAMP, TB_STAT.PARK_CLK]
  | .tbCfg => [TB_CFG.STEP_US]
  | .tbSnap => [TB_SNAP.VALUE]
  | .fwStat => [FW_STAT.BOOT_SRC, FW_STAT.REENROLLED, FW_STAT.REASON, FW_STAT.RESTARTS, FW_STAT.ATT_DROP, FW_STAT.FW_VERSION]
  | .fwPkg => [FW_PKG.ADDR, FW_PKG.LEN_4K, FW_PKG.GO, FW_PKG.BUSY, FW_PKG.RESULT]
  | .fwLog => [FW_LOG.BASE, FW_LOG.NEXT_SEQ, FW_LOG.SAVE]
  | .fwTrace => [FW_TRACE.MASK]
  | .idPub => [ID_PUB.KEY]
  | .idHash => [ID_HASH.HASH]
  | .safCtl => [SAF_CTL.STATUS, SAF_CTL.SPLIT, SAF_CTL.CMP_MODE, SAF_CTL.SAFE_STATE, SAF_CTL.FAULT_N_LOW, SAF_CTL.LOCK]
  | .safWdog => [SAF_WDOG.KICK, SAF_WDOG.WD_EN]
  | .safFaultLast => [SAF_FAULT_LAST.SOURCE, SAF_FAULT_LAST.CLASS, SAF_FAULT_LAST.FIELD, SAF_FAULT_LAST.TIME]
  | .safFaultCnt => [SAF_FAULT_CNT.CORRECTABLE, SAF_FAULT_CNT.CONTAINED, SAF_FAULT_CNT.FIELD, SAF_FAULT_CNT.E2E_FAIL, SAF_FAULT_CNT.FATAL_EXTRA]
  | .safEsc => [SAF_ESC.CONTAINED_MAX, SAF_ESC.WINDOW_MS, SAF_ESC.REINIT_MAX, SAF_ESC.DEADLINE_MS]
  | .safGold => [SAF_GOLD.ENABLE, SAF_GOLD.PHASE, SAF_GOLD.SKIPS, SAF_GOLD.ARM, SAF_GOLD.BUDGET_US, SAF_GOLD.RUNS, SAF_GOLD.FAILS, SAF_GOLD.SKIPPED, SAF_GOLD.NEXT_ENTRY]
  | .bistCfg => [BIST_CFG.ENABLE, BIST_CFG.LOCK, BIST_CFG.SAFE_MS, BIST_CFG.OTHER_MS]
  | .bistGate => [BIST_GATE.NEXT_REL]
  | .bistLast => [BIST_LAST.MACRO, BIST_LAST.ADDRESS, BIST_LAST.BIT, BIST_LAST.OUTCOME]
  | .bistStat => [BIST_STAT.SLICES, BIST_STAT.DEFERRED, BIST_STAT.COVERAGE, BIST_STAT.REPAIRS, BIST_STAT.OOS, BIST_STAT.LOG_FULL]
  | .bistUnit => [BIST_UNIT.STATE, BIST_UNIT.READMIT, BIST_UNIT.OOS_COUNT]
  | .memPcInSvc => [MEM_PC_IN_SVC.IN_SVC]
  | .memPcNext => [MEM_PC_NEXT.NEXT]
  | .memKeyCmd => [MEM_KEY_CMD.SLOT, MEM_KEY_CMD.OP]
  | .memStat => [MEM_STAT.KEY_BUSY, MEM_STAT.KEY_REFUSED, MEM_STAT.OOR]
  | .memEcc => [MEM_ECC.CE, MEM_ECC.DED, MEM_ECC.LAST_PC]
  | .memRgn => [MEM_RGN.BASE_RU, MEM_RGN.LIMIT_RU, MEM_RGN.GRAN, MEM_RGN.VALID, MEM_RGN.KEY]
  | .movCmq => [MOV_CMQ.BASE, MOV_CMQ.ENTRIES_LOG2, MOV_CMQ.HEAD, MOV_CMQ.TAIL]
  | .dmaChCtl => [DMA_CH_CTL.DISABLE, DMA_CH_CTL.BUSY, DMA_CH_CTL.ENGINE, DMA_CH_CTL.VEF]
  | .dmaChCrc => [DMA_CH_CRC.CRC]
  | .dmaChBytes => [DMA_CH_BYTES.BYTES]
  | .ringVefCfg => [RING_VEF_CFG.MAX_CLASS, RING_VEF_CFG.PRIV, RING_VEF_CFG.STREAM_ID]
  | .ringVefAsid => [RING_VEF_ASID.ASID]
  | .ringVefDisc => [RING_VEF_DISC.DISCARD]
  | .ringVefAqBase => [RING_VEF_AQ_BASE.BASE]
  | .ringVefAqCtl => [RING_VEF_AQ_CTL.SIZE_LOG2, RING_VEF_AQ_CTL.LOC, RING_VEF_AQ_CTL.ENABLE, RING_VEF_AQ_CTL.IRQ_EN, RING_VEF_AQ_CTL.TAIL]
  | .ringVefAqHead => [RING_VEF_AQ_HEAD.HEAD]
  | .ringVefAqIrqAddr => [RING_VEF_AQ_IRQ_ADDR.IRQ_ADDR]
  | .ringVefAqIrqData => [RING_VEF_AQ_IRQ_DATA.IRQ_DATA]
  | .vefGlb => [VEF_GLB.FREEZE_KILL_MS, VEF_GLB.AUTH_REJECT, VEF_GLB.CFG_REFUSED]
  | .vefHart => [VEF_HART.VEF, VEF_HART.VALID]
  | .vefAtt => [VEF_ATT.BUF, VEF_ATT.VEF, VEF_ATT.GO, VEF_ATT.BUSY, VEF_ATT.ERR]
  | .vefCtl => [VEF_CTL.ENABLE, VEF_CTL.TENANT, VEF_CTL.RESET, VEF_CTL.FABRIC_OUT, VEF_CTL.FABRIC_IN, VEF_CTL.DOMAIN, VEF_CTL.STATE]
  | .vefSave => [VEF_SAVE.BASE]
  | .vefSaveLen => [VEF_SAVE_LEN.LEN_4K]
  | .vefViol => [VEF_VIOL.REG, VEF_VIOL.IOMMU, VEF_VIOL.REGION, VEF_VIOL.FABRIC]
  | .vefStat => [VEF_STAT.RESET_DONE, VEF_STAT.THAW_CAUSE, VEF_STAT.KEY_EPOCH]
  | .plainLoadStat => [PLAIN_LOAD_STAT.LAST_CAUSE, PLAIN_LOAD_STAT.LAST_VEF, PLAIN_LOAD_STAT.NO_VEF, PLAIN_LOAD_STAT.MISMATCH, PLAIN_LOAD_STAT.NOFIELD]
  | .plainFldCfg => [PLAIN_FLD_CFG.ORIGIN_X, PLAIN_FLD_CFG.ORIGIN_Y, PLAIN_FLD_CFG.WIDTH_M1, PLAIN_FLD_CFG.HEIGHT_M1, PLAIN_FLD_CFG.CLASS, PLAIN_FLD_CFG.PIPE_DEPTH_M1]
  | .plainFldState => [PLAIN_FLD_STATE.STATE, PLAIN_FLD_STATE.IN_FLIGHT, PLAIN_FLD_STATE.GENERATION]
  | .plainFldWdog => [PLAIN_FLD_WDOG.PERIOD_US]
  | .plainFldErr => [PLAIN_FLD_ERR.WDOG, PLAIN_FLD_ERR.WINDOW, PLAIN_FLD_ERR.FENCE, PLAIN_FLD_ERR.POCKET_DED, PLAIN_FLD_ERR.CLSRAM_DED, PLAIN_FLD_ERR.STITCH_PAR, PLAIN_FLD_ERR.RESIDUE, PLAIN_FLD_ERR.CHECKSUM, PLAIN_FLD_ERR.CE_COUNT]
  | .plainFldErrloc => [PLAIN_FLD_ERRLOC.CELL_ID, PLAIN_FLD_ERRLOC.SOURCE, PLAIN_FLD_ERRLOC.WORD]
  | .plainFldTol => [PLAIN_FLD_TOL.DEFAULT, PLAIN_FLD_TOL.MAX]
  | .plainFldNum => [PLAIN_FLD_NUM.RANGE, PLAIN_FLD_NUM.NF_DROP, PLAIN_FLD_NUM.CHK_SKIP, PLAIN_FLD_NUM.FMT_ERR]
  | .plainFldWin => [PLAIN_FLD_WIN.BASE, PLAIN_FLD_WIN.LENGTH_4K, PLAIN_FLD_WIN.READ, PLAIN_FLD_WIN.WRITE, PLAIN_FLD_WIN.TRANSLATE, PLAIN_FLD_WIN.VEF]
  | .vlyPfxBase => [VLY_PFX_BASE.BASE]
  | .vlyStat => [VLY_STAT.HIT, VLY_STAT.COLLIDE, VLY_STAT.INSERT_FAIL, VLY_STAT.RECLAIM, VLY_STAT.NOPAGES, VLY_STAT.CFG_REFUSED]
  | .vlyPool => [VLY_POOL.BASE, VLY_POOL.GROUPS_M1, VLY_POOL.G_M1, VLY_POOL.PAGE_64K, VLY_POOL.OWNER, VLY_POOL.ADOPT, VLY_POOL.VALID, VLY_POOL.READY, VLY_POOL.BOUND, VLY_POOL.BOUND_FIELD, VLY_POOL.GENERATION, VLY_POOL.FREE_GROUPS]
  | .ingRegion => [ING_REGION.BASE, ING_REGION.LENGTH_2M]
  | .ingSrc => [ING_SRC.ENABLE, ING_SRC.PORT, ING_SRC.VC, ING_SRC.WAIT, ING_SRC.GROUP, ING_SRC.DIV_M1, ING_SRC.PHASE, ING_SRC.TS_FMT, ING_SRC.SLOTS, ING_SRC.SLOT_4K, ING_SRC.OFFSET, ING_SRC.LAT, ING_SRC.KIND_A, ING_SRC.KIND_B, ING_SRC.KIND_C]
  | .fusCtl => [FUS_CTL.RUN, FUS_CTL.LOCK, FUS_CTL.PERIOD, FUS_CTL.WAIT_US]
  | .fusEpoch => [FUS_EPOCH.EPOCH]
  | .fusCfg => [FUS_CFG.EVT_VEF, FUS_CFG.PRIMARY]
  | .fusGrp => [FUS_GRP.Q0, FUS_GRP.Q1, FUS_GRP.Q2, FUS_GRP.Q3, FUS_GRP.Q4, FUS_GRP.Q5]
  | .fusStat => [FUS_STAT.RELEASED, FUS_STAT.OOS_DROP, FUS_STAT.CFG_REFUSED, FUS_STAT.EXPIRED]
  | .fusForce => [FUS_FORCE.FORCE]
  | .fusPose => [FUS_POSE.BASE, FUS_POSE.LAST]
  | .fusCksel => [FUS_CKSEL.SEL]
  | .fusCeil => [FUS_CEIL.ENTRY_LO, FUS_CEIL.ENTRY_HI]
  | .fusSrcStat => [FUS_SRC_STAT.STATE, FUS_SRC_STAT.LATE, FUS_SRC_STAT.MISSING, FUS_SRC_STAT.DROP, FUS_SRC_STAT.OFS, FUS_SRC_STAT.EXTRA]
  | .rndCfg => [RND_CFG.CORES_EN, RND_CFG.INTERLOCK, RND_CFG.SPLIT_REFS, RND_CFG.IN_SVC]
  | .rndStat => [RND_STAT.OVERFLOWS, RND_STAT.TT_OVERFLOW]
  | .dspCfg => [DSP_CFG.EVT_VEF, DSP_CFG.HELD, DSP_CFG.CFG_REFUSED]
  | .dspHead => [DSP_HEAD.ENABLE, DSP_HEAD.PENDING, DSP_HEAD.HELD, DSP_HEAD.STATE, DSP_HEAD.WARP_EN, DSP_HEAD.REFRESH, DSP_HEAD.BPC10, DSP_HEAD.EDP, DSP_HEAD.LANES, DSP_HEAD.H_ACTIVE, DSP_HEAD.V_ACTIVE, DSP_HEAD.H_TOTAL, DSP_HEAD.V_TOTAL, DSP_HEAD.HS_START, DSP_HEAD.HS_WIDTH, DSP_HEAD.HS_POL, DSP_HEAD.VS_START, DSP_HEAD.VS_WIDTH, DSP_HEAD.VS_POL, DSP_HEAD.BKGND, DSP_HEAD.EPOCH, DSP_HEAD.FRAMES, DSP_HEAD.WARPS, DSP_HEAD.REPEATS, DSP_HEAD.NOPOSE, DSP_HEAD.WARP_LIMIT, DSP_HEAD.UNDERFLOW, DSP_HEAD.SKIPPED]
  | .dspTtStat => [DSP_TT_STAT.MISMATCH, DSP_TT_STAT.LAST_B, DSP_TT_STAT.COUNT]
  | .dspTt => [DSP_TT.X0, DSP_TT.Y0, DSP_TT.ENABLE, DSP_TT.W, DSP_TT.H, DSP_TT.EXP_A, DSP_TT.EXP_B]
  | .passDev => [PASS_DEV.ID, PASS_DEV.ASSIGNED, PASS_DEV.STATIC, PASS_DEV.AUTHORITY, PASS_DEV.AUTH_ID, PASS_DEV.GEN]
  | .passCfg => [PASS_CFG.FABRIC, PASS_CFG.STATIC_EN, PASS_CFG.MEMBER, PASS_CFG.LOCK, PASS_CFG.TIMEOUT_US, PASS_CFG.POLL_US]
  | .passStat => [PASS_STAT.NOROUTE, PASS_STAT.TIMEOUTS, PASS_STAT.LOCK_FAIL, PASS_STAT.ID_LOST, PASS_STAT.MALFORMED, PASS_STAT.OVERFULL]
  | .passIrqAddr => [PASS_IRQ_ADDR.ADDR]
  | .passIrqData => [PASS_IRQ_DATA.DATA]
  | .passIrqCause => [PASS_IRQ_CAUSE.GEN, PASS_IRQ_CAUSE.DEV_LOST, PASS_IRQ_CAUSE.ID_CHANGE, PASS_IRQ_CAUSE.PORT, PASS_IRQ_CAUSE.POLL_LOST, PASS_IRQ_CAUSE.IRQ_EN]
  | .passDevLost => [PASS_DEV_LOST.DEV, PASS_DEV_LOST.COUNT]
  | .passLinkCfg => [PASS_LINK_CFG.DEADLOCK, PASS_LINK_CFG.READ_TIMER_US]
  | .passLinkStat => [PASS_LINK_STAT.STATE, PASS_LINK_STAT.WIDTH4, PASS_LINK_STAT.MODE_DISCARD, PASS_LINK_STAT.PEER_ID, PASS_LINK_STAT.PEER_PORT, PASS_LINK_STAT.CRC_ERR, PASS_LINK_STAT.REPLAYS, PASS_LINK_STAT.RETRAINS, PASS_LINK_STAT.DISCARDED, PASS_LINK_STAT.BACKOFFS]
  | .passTun => [PASS_TUN.UDP_PORT, PASS_TUN.VLAN, PASS_TUN.ENABLE]
  | .passSbo => [PASS_SBO.SET, PASS_SBO.PEND, PASS_SBO.STATUS, PASS_SBO.PEER]
  | .passPoll => [PASS_POLL.TARGET, PASS_POLL.WORD, PASS_POLL.EN, PASS_POLL.LOST, PASS_POLL.MASK, PASS_POLL.IRQ_ADDR, PASS_POLL.IRQ_DATA, PASS_POLL.LAST_STATUS, PASS_POLL.PEND_ACC]
  | .passRt => [PASS_RT.VALID, PASS_RT.SELF, PASS_RT.PORT, PASS_RT.YIELD, PASS_RT.HOPS, PASS_RT.GEN]
  | .passTunt => [PASS_TUNT.ADDR, PASS_TUNT.EP_MEMBER, PASS_TUNT.VALID]
  | .gwSw => [GW_SW.RUN, GW_SW.LOCK, GW_SW.SAFETY_VLAN]
  | .gwSgStat => [GW_SG_STAT.OVERWRITE, GW_SG_STAT.SHORT, GW_SG_STAT.CFG_REFUSED]
  | .gwPort => [GW_PORT.ENABLE, GW_PORT.STATE, GW_PORT.LINK, GW_PORT.SPEED, GW_PORT.TX_LAT, GW_PORT.RX_LAT, GW_PORT.TS_IGNORED, GW_PORT.RX_DROP]
  | .gwTxts => [GW_TXTS.TS_ID, GW_TXTS.BASE, GW_TXTS.DROPPED, GW_TXTS.VALID, GW_TXTS.STAMP]
  | .gwTxtsStat => [GW_TXTS_STAT.POP, GW_TXTS_STAT.OVF, GW_TXTS_STAT.COUNT, GW_TXTS_STAT.LOST]
  | .gwHpq => [GW_HPQ.TX_BASE, GW_HPQ.TX_SIZE_LOG2, GW_HPQ.TX_ENABLE, GW_HPQ.TX_TAIL, GW_HPQ.TX_HEAD, GW_HPQ.RX_BASE, GW_HPQ.RX_SIZE_LOG2, GW_HPQ.RX_ENABLE, GW_HPQ.RX_BUF_2K, GW_HPQ.RX_HEAD, GW_HPQ.RX_TAIL]
  | .gwCan => [GW_CAN.ENABLE, GW_CAN.STATE, GW_CAN.FD_EN, GW_CAN.XL_EN, GW_CAN.AUTO_RECOVER, GW_CAN.BUS_OFF, GW_CAN.ENTRY, GW_CAN.TEC, GW_CAN.REC, GW_CAN.RX_DROP, GW_CAN.RX_BASE, GW_CAN.TX_BASE, GW_CAN.RX_SIZE_LOG2, GW_CAN.TX_SIZE_LOG2, GW_CAN.NBT, GW_CAN.DBT_FD, GW_CAN.DBT_XL, GW_CAN.RX_HEAD, GW_CAN.RX_TAIL, GW_CAN.TX_HEAD, GW_CAN.TX_TAIL]
  | .gwAddr => [GW_ADDR.ADDR]
  | .gwCont => [GW_CONT.VALID, GW_CONT.DIR, GW_CONT.KIND, GW_CONT.CTRL, GW_CONT.EXT, GW_CONT.FD, GW_CONT.XL, GW_CONT.LEN, GW_CONT.ADDR, GW_CONT.MIN_GAP_US, GW_CONT.ID, GW_CONT.VLAN, GW_CONT.UDP_PORT]
  | .gwRoute => [GW_ROUTE.VALID, GW_ROUTE.MODE, GW_ROUTE.SRC, GW_ROUTE.DST, GW_ROUTE.SRC_BIT, GW_ROUTE.DST_BIT, GW_ROUTE.LEN]
  | .aphyLink => [APHY_LINK.UP, APHY_LINK.GEAR, APHY_LINK.RETRAINS, APHY_LINK.RETX, APHY_LINK.GPIO_OUT]
  | .aphyI2c => [APHY_I2C.ADDR, APHY_I2C.WLEN, APHY_I2C.RLEN, APHY_I2C.SPEED, APHY_I2C.GO, APHY_I2C.BUSY, APHY_I2C.RESULT, APHY_I2C.WDATA, APHY_I2C.RDATA]
  | .hostcClk => [HOSTC_CLK.REQ, HOSTC_CLK.ACTUAL]
  | .hostcMtimecmp => [HOSTC_MTIMECMP.CMP]
  | .pcieObw => [PCIE_OBW.BASE]
  | .pcieStat => [PCIE_STAT.LINK_UP, PCIE_STAT.SPEED, PCIE_STAT.WIDTH]
  | .dbSqTail => [DB_SQ_TAIL.TAIL]
  | .dbCqHead => [DB_CQ_HEAD.HEAD]
  | .dbEqHead => [DB_EQ_HEAD.HEAD]
  | .dbStat => [DB_STAT.BAD_DB, DB_STAT.CFG_IGNORED]
  | .sqCfg => [SQ_CFG.BASE, SQ_CFG.SIZE_LOG2, SQ_CFG.ENGINE, SQ_CFG.CLASS, SQ_CFG.LOC, SQ_CFG.ENABLE, SQ_CFG.IDLE, SQ_CFG.HEAD]
  | .cqCfg => [CQ_CFG.BASE, CQ_CFG.SIZE_LOG2, CQ_CFG.LOC, CQ_CFG.ENABLE, CQ_CFG.IRQ_EN, CQ_CFG.TAIL, CQ_CFG.IRQ_ADDR, CQ_CFG.IRQ_DATA]
  | .eqCfg => [EQ_CFG.BASE, EQ_CFG.SIZE_LOG2, EQ_CFG.LOC, EQ_CFG.ENABLE, EQ_CFG.IRQ_EN, EQ_CFG.TAIL, EQ_CFG.IRQ_ADDR, EQ_CFG.IRQ_DATA]

/-! Every register, in rows of twelve. -/

def allRegs1 : List RegName := [.sysId, .sysCfg, .sysAcc, .sysMode, .sysRst, .sysStrap, .sysPark, .pwrLim, .pwrCtl, .pwrStat, .pwrDom, .tbInc]
def allRegs2 : List RegName := [.tbOfs, .tbCtl, .tbStat, .tbCfg, .tbSnap, .fwStat, .fwPkg, .fwLog, .fwTrace, .idPub, .idHash, .safCtl]
def allRegs3 : List RegName := [.safWdog, .safFaultLast, .safFaultCnt, .safEsc, .safGold, .bistCfg, .bistGate, .bistLast, .bistStat, .bistUnit, .memPcInSvc, .memPcNext]
def allRegs4 : List RegName := [.memKeyCmd, .memStat, .memEcc, .memRgn, .movCmq, .dmaChCtl, .dmaChCrc, .dmaChBytes, .ringVefCfg, .ringVefAsid, .ringVefDisc, .ringVefAqBase]
def allRegs5 : List RegName := [.ringVefAqCtl, .ringVefAqHead, .ringVefAqIrqAddr, .ringVefAqIrqData, .vefGlb, .vefHart, .vefAtt, .vefCtl, .vefSave, .vefSaveLen, .vefViol, .vefStat]
def allRegs6 : List RegName := [.plainLoadStat, .plainFldCfg, .plainFldState, .plainFldWdog, .plainFldErr, .plainFldErrloc, .plainFldTol, .plainFldNum, .plainFldWin, .vlyPfxBase, .vlyStat, .vlyPool]
def allRegs7 : List RegName := [.ingRegion, .ingSrc, .fusCtl, .fusEpoch, .fusCfg, .fusGrp, .fusStat, .fusForce, .fusPose, .fusCksel, .fusCeil, .fusSrcStat]
def allRegs8 : List RegName := [.rndCfg, .rndStat, .dspCfg, .dspHead, .dspTtStat, .dspTt, .passDev, .passCfg, .passStat, .passIrqAddr, .passIrqData, .passIrqCause]
def allRegs9 : List RegName := [.passDevLost, .passLinkCfg, .passLinkStat, .passTun, .passSbo, .passPoll, .passRt, .passTunt, .gwSw, .gwSgStat, .gwPort, .gwTxts]
def allRegs10 : List RegName := [.gwTxtsStat, .gwHpq, .gwCan, .gwAddr, .gwCont, .gwRoute, .aphyLink, .aphyI2c, .hostcClk, .hostcMtimecmp, .pcieObw, .pcieStat]
def allRegs11 : List RegName := [.dbSqTail, .dbCqHead, .dbEqHead, .dbStat, .sqCfg, .cqCfg, .eqCfg]

/-- Every register. -/
def allRegs : List RegName :=
  List.flatten [allRegs1, allRegs2, allRegs3, allRegs4, allRegs5, allRegs6, allRegs7, allRegs8, allRegs9, allRegs10, allRegs11]

/-- Every field of every register. -/
def allFlds : List Fld := allRegs.flatMap RegName.flds

end Sys2Proof.Machine
end

