-- ==== Sys2Proof/Machine/StateCore.lean ====
section
/-! DEFINITION. State of the memories, the rings, the commands and the fields: the plain data that chapters 2, 4, 5
and 6 of the manual give the device beside its registers. -/

namespace Sys2Proof.Machine

/-- Requester identities of an access to register space or a doorbell page (12 R295). -/
inductive Requester where
  | firmware
  | cantle
  | hypervisor
  | vef (v : Nat)
  | nobody
  deriving DecidableEq, Repr

/-! ## Memory (chapter 5) -/

/-- What a 64-byte line of HBM was last encrypted under: the key's serial number and the line address that was its
tweak (05 R117). Serial 0: never written. -/
structure LineTag where
  key : Nat
  line : Nat
  deriving DecidableEq, Repr

/-- A key command that has been accepted and has not yet taken effect (05 R119): slot, operation, and whether it is
the generation or zeroisation of a VEF enable or disable (12 R297, R298). -/
structure KeyCmd where
  slot : Nat
  generate : Bool
  forVef : Bool
  deriving DecidableEq, Repr

/-- The memories of the device and the keys of its cipher. -/
structure MemState where
  /-- HBM contents as plaintext, by storage address (pseudo-channel × 768 MiB + offset). 48 GiB of bytes; 05 R110, R113; reset: nothing listed. -/
  hbm : List Host.Cell
  /-- Key and tweak each HBM line was last written under, by storage line. 05 R117; reset: nothing listed. -/
  tags : Sparse LineTag
  /-- Ranges whose data has become undefined, newest first: first and last-plus-one address and a serial number from the
  counter of keys. Traffic was in flight as their region entry changed. 05 R119; reset: none. -/
  marks : List (Nat × Nat × Nat)
  /-- Errors standing in HBM words, by storage word: 0 none, 1 single-bit, 2 double-bit or poisoned. 05 R115; reset: none. -/
  hbmErr : Sparse Nat
  /-- Serial number of the key in each selector (0x00–0x7F VEF slots, 0x80 device, 0x81 Shadow field), 0 for none. 05 R118; reset: none. -/
  keys : Sparse Nat
  /-- Keys generated so far: the next serial number is one more. MODEL's own counter naming entropy; 05 R118; reset: 0. -/
  keySerial : Nat
  /-- The key command in progress. 05 R119; reset: none. -/
  keyCmd : Option KeyCmd
  /-- Key commands of VEF enables waiting for the engine, oldest first. 12 R297; reset: none. -/
  keyWait : List KeyCmd
  /-- Pockets of all 2,368 cells, by cell × 0x20000 + offset. 02 R34; reset: zero. -/
  pocket : List Host.Cell
  /-- Errors standing in 64-bit pocket words, by address / 8: 1 single-bit, 2 double-bit or poisoned. 02 R35; reset: none. -/
  pocketErr : Sparse Nat
  /-- Cluster SRAMs (148), by cluster × 0x80000 + offset. 02 The cluster; reset: zero. -/
  sram : List Host.Cell
  /-- Errors standing in 64-bit cluster SRAM words. 02 R35; reset: none. -/
  sramErr : Sparse Nat
  /-- Stitch stores, by cell × 0x4000 + offset. 02 R36; reset: zero. -/
  stitch : List Host.Cell
  /-- Stitch-store words with wrong parity, by address / 4. 02 R37; reset: none. -/
  stitchBad : Sparse Bool
  deriving DecidableEq, Repr

/-! ## Commands (chapter 6) -/

/-- A command window or a buffer list entry (02 R54, 06 R146). -/
structure Win where
  base : Nat
  len : Nat
  rd : Bool
  wr : Bool
  fabric : Bool
  publish : Nat
  deriving DecidableEq, Repr

/-- A fetched command: the device keeps its own copy of the descriptor (06 R141). `vef` = 128 names the Cantle's ring
set (10 R258). `serial` is its place in the order of fetch. -/
structure Cmd where
  vef : Nat
  ring : Nat
  cls : Nat
  engine : Nat
  sqIndex : Nat
  desc : Bytes
  rerun : Nat
  serial : Nat
  /-- A PROJECT's calibration block, read at its first admission and kept for every re-run (08 R216). -/
  copy : Bytes
  deriving DecidableEq, Repr

/-- Resources used (06 R163): cell-nanoseconds, engine nanoseconds, HBM bytes read and written, Pass, PCIe and DMA
bytes; and the cell-nanoseconds of each Plain half-quadrant, which carry its static power (06 R164). -/
structure Usage where
  cellNs : Nat
  engineNs : Nat
  hbmRd : Nat
  hbmWr : Nat
  pass : Nat
  pcie : Nat
  dma : Nat
  halves : List Nat
  deriving DecidableEq, Repr

/-- Nothing used. -/
def Usage.zero : Usage := ⟨0, 0, 0, 0, 0, 0, 0, []⟩

/-- Two lists of counts added place by place, the shorter one as if filled with zeros. -/
def addCounts : List Nat → List Nat → List Nat
  | [], bs => bs
  | as, [] => as
  | a :: as, b :: bs => (a + b) :: addCounts as bs

/-- A list of counts less another place by place, never below zero. -/
def lessCounts : List Nat → List Nat → List Nat
  | [], _ => []
  | as, [] => as
  | a :: as, b :: bs => (a - b) :: lessCounts as bs

/-- The sum of two uses. -/
def Usage.plus (a b : Usage) : Usage :=
  ⟨a.cellNs + b.cellNs, a.engineNs + b.engineNs, a.hbmRd + b.hbmRd, a.hbmWr + b.hbmWr, a.pass + b.pass,
   a.pcie + b.pcie, a.dma + b.dma, addCounts a.halves b.halves⟩

/-- A use less another, quantity by quantity, never below zero. -/
def Usage.less (a b : Usage) : Usage :=
  ⟨a.cellNs - b.cellNs, a.engineNs - b.engineNs, a.hbmRd - b.hbmRd, a.hbmWr - b.hbmWr, a.pass - b.pass,
   a.pcie - b.pcie, a.dma - b.dma, lessCounts a.halves b.halves⟩

/-- An open accounting window (06 R162–R166): its start in vehicle time, what was used, microjoules of the windows it
already covers, and the flags that apply to any of them. -/
structure Acct where
  start : Nat
  use : Usage
  energyUj : Nat
  stepped : Bool
  low : Bool
  merged : Bool
  deriving DecidableEq, Repr

/-- How a command in flight stands: running, finished by its work, or ended by a fault or an expiry (06 R150, R152). -/
inductive Outcome6 where
  | running
  | ended (status cause result : Nat)
  deriving DecidableEq, Repr

/-- New committed lengths that a command will write at its commit (06 R150 step 1): sequence key and length. -/
structure LenStep where
  seq : Nat
  len : Nat
  deriving DecidableEq, Repr

/-- An entry of a SEQ_STEP as the step was built (07 R184): its sequence, kind, the tokens it brings, the committed
length it starts from and, for DECODE, its input token and candidates. -/
structure StepRun where
  seq : Nat
  decode : Bool
  full : Bool
  clipped : Bool
  /-- Candidates taken (DECODE) or chunk length (PREFILL). -/
  count : Nat
  start : Nat
  token : Nat
  cands : List Nat
  deriving DecidableEq, Repr

/-- A command in flight on a resource. -/
structure Job where
  cmd : Cmd
  res : Res
  /-- System-DMA channel, for a DMA command. -/
  chan : Nat
  /-- The opcode's own work has begun. -/
  started : Bool
  outcome : Outcome6
  /-- Command windows 8–15 of the buffer list (06 R146). -/
  wins : List Win
  /-- Cells that have executed END for it (04 R103). -/
  endedCells : List Nat
  /-- Sequence lengths to advance at commit. -/
  lens : List LenStep
  /-- Bytes and CRC of the work done so far. -/
  bytes : Nat
  crc : Nat
  /-- Local monotonic nanoseconds at admission. -/
  since : Nat
  /-- What the run has used since the last window end (06 R163); a killed run drops it. -/
  use : Usage
  /-- A golden frame of the Cantle (10 R274). -/
  golden : Bool
  /-- A cluster-mover transfer met poison or a window violation, or a word read was poisoned. -/
  tainted : Bool
  /-- The checkpoint copies of a FRAME or FIELD_CHECKPOINT have been started (08 R212). -/
  copying : Bool
  /-- The entries of a SEQ_STEP and its manifest, the contents of window 15 (07 R184, R185). -/
  steps : List StepRun
  manifest : Bytes
  /-- What the run has used in windows that have ended (06 R163); a killed run gives it back (06 R154). -/
  past : Usage
  deriving DecidableEq, Repr

/-- Hidden state of one submission ring (06 R142, R145, R148). -/
structure RingRt where
  /-- Serial of the FENCE that holds fetching, if one does. -/
  fence : Option Nat
  /-- Field named by the most recent field-addressing command. -/
  lastField : Option Nat
  deriving DecidableEq, Repr

/-- A record of the accounting ring waiting for space (06 R166). -/
structure AcctRec where
  acct : Acct
  endNs : Nat
  final : Bool
  deriving DecidableEq, Repr

/-- An attachment kept by a freeze (12 R306). -/
structure Attach where
  handle : Nat
  pool : Nat
  image : Nat
  plan : Nat
  planLen : Nat
  digest : Bytes
  /-- Ring of the load that brought it (the save area has no place for it). -/
  ring : Nat
  deriving DecidableEq, Repr

/-- A pin of a VEF (07 R179): prefix key, pool, block index and sharing domain of the entry. -/
structure Pin where
  key : Nat
  pool : Nat
  block : Nat
  domain : Nat
  deriving DecidableEq, Repr

/-- A freeze in progress (12 R305): the freezing command, if one (none for the wake freeze), its admission moment and kill
moment in local monotonic nanoseconds. -/
structure Freeze where
  cmd : Option Cmd
  since : Nat
  killAt : Nat
  wake : Bool
  deriving DecidableEq, Repr

/-- What the device holds of a frozen VEF (12 R306): kept commands in queue order, attachments, pins and the time. -/
structure Held where
  kept : List Cmd
  attach : List Attach
  pins : List Pin
  freezeTime : Nat
  selfContained : Bool
  deriving DecidableEq, Repr

/-- A thaw in progress (12 R307–R309): its command and DMA engine, its target, whether the target is fresh (and its state
comes from the save area) or FROZEN, the save area's header and ring state, what was held, the attachments still to be
restored and those restored (old handle and field), and the load it waits for. -/
structure Thaw where
  cmd : Cmd
  engine : Nat
  vef : Nat
  fresh : Bool
  area : Bytes
  held : Held
  todo : List Attach
  done : List (Nat × Nat)
  loading : Option (Nat × Nat × Nat)
  /-- ASIDs of the target's rings before the thaw, for a thaw that fails. -/
  asids : List Nat
  /-- Pools found for its attachments, with the digest of the image of each; they are brought to the target when it ends well. -/
  pools : List (Nat × Bytes)
  deriving DecidableEq, Repr

/-- Hidden state of one VEF's ring set (chapter 6) and of its tenancy (chapter 12). -/
structure VefRt where
  /-- Completion slots reserved and not yet written. 06 R142; reset: 0. -/
  reserved : Nat
  /-- PHASE of the next record on the completion, event and accounting rings. 06 R159; reset: 1. -/
  cqPhase : Bool
  eqPhase : Bool
  aqPhase : Bool
  /-- Events lost since the last event record. 06 R161; reset: 0. -/
  lost : Nat
  /-- Ring the device fetched from last. 06 R142; reset: 7, so that ring 0 is first. -/
  lastRing : Nat
  /-- The open accounting window. 06 R162; reset: empty. -/
  acct : Acct
  /-- An accounting window is open. 06 R162; reset: no. -/
  acctOpen : Bool
  /-- Accounting records waiting for ring space, oldest first. 06 R166; reset: none. -/
  acctPending : List AcctRec
  /-- Windows that have ended and whose record is not yet due, oldest first. 06 R162; reset: none. -/
  acctDue : List AcctRec
  /-- Windows whose record fell due while the ring was full, as one record. 06 R166; reset: none. -/
  acctBack : Option AcctRec
  /-- What killed runs have been charged in windows that have ended and is to be given back. 06 R154; reset: nothing. -/
  debt : Usage
  /-- A reset in progress: ENABLE = 0 accepted (12 R298), to be DISABLED after it. 12 R303; reset: no. -/
  disabling : Bool
  /-- The freeze in progress. 12 R305; reset: none. -/
  freeze : Option Freeze
  /-- What is held of the VEF while FROZEN. 12 R306; reset: none. -/
  held : Option Held
  /-- The VEF's pins. 07 R179; reset: none. -/
  pins : List Pin
  deriving DecidableEq, Repr

/-! ## Fields and cells (chapters 2, 3 and 4) -/

/-- A golden-frame entry of an image (04 R98). -/
structure GoldenEntry where
  id : Nat
  inWin : Nat
  refWin : Nat
  inOff : Nat
  inLen : Nat
  refCount : Nat
  refOff : Nat
  deriving DecidableEq, Repr

/-- A state-tensor entry of an image, its place resolved to an absolute cell or cluster (04 R98). -/
structure StateEntry where
  id : Nat
  fmt : Nat
  inPocket : Bool
  place : Nat
  off : Nat
  len : Nat
  win : Nat
  ckOff : Nat
  deriving DecidableEq, Repr

/-- A preload entry resolved to an absolute cell or cluster (04 R95). -/
structure Preload where
  inPocket : Bool
  place : Nat
  win : Nat
  dst : Nat
  src : Nat
  len : Nat
  deriving DecidableEq, Repr

/-- What a field keeps of its loaded image (04 R83–R98): where it and its plan buffer lie and in whose address space,
its digest and flags, and the entries later steps use. -/
structure FieldImage where
  addr : Nat
  size : Nat
  plan : Nat
  planLen : Nat
  pool : Nat
  vef : Nat
  ring : Nat
  translated : Bool
  digest : Bytes
  fit : Nat
  pageSize : Nat
  pipeDepth : Nat
  persistW : Bool
  /-- Cells with a stitch entry, as absolute cell IDs, in entry order. -/
  cells : List Nat
  /-- Clusters at excluded positions. -/
  excluded : List Nat
  goldens : List GoldenEntry
  states : List StateEntry
  preloads : List Preload
  /-- Plan windows declared VALLEY. -/
  valley : List Nat
  deriving DecidableEq, Repr

/-- The phases of a FIELD_LOAD or a re-initialisation (04 R104–R106, R451): waiting for a load of the same digest, for
the field it replaces to be cleared, for the stitch engine, in its stitch phase, or in verification and preload. -/
inductive LoadPhase where
  | digestWait
  | clearing
  | waitStitch
  | stitch
  | preload
  deriving DecidableEq, Repr

/-- A load in progress: a FIELD_LOAD command, or a load that firmware makes itself (04 R104, R451). -/
structure Load where
  field : Nat
  cmd : Option Cmd
  image : FieldImage
  cls : Nat
  reinit : Bool
  phase : LoadPhase
  /-- Place in the order of arrival. -/
  serial : Nat
  /-- Cause found so far from 0x09 on (04 R106), 0 for none. -/
  cause : Nat
  /-- The load is to be ended when its stitch phase ends: 0 no, 1 and kept for the thaw, 2 and dropped. -/
  kill : Nat
  /-- VEFs that attach when it is done. -/
  attach : List Nat
  /-- The rectangle: cx, cy, width and height in clusters (02 R48); all zero before placement. -/
  rect : Nat × Nat × Nat × Nat
  /-- Plan windows to be set: base, length in 4 KiB, READ and WRITE, and whether the window is the Valley's (04 R94). -/
  wins : List (Nat × Nat × Bool × Bool × Bool)
  /-- The pool to be bound, by number (07 R169). -/
  bind : Option Nat
  deriving DecidableEq, Repr

/-- A cluster-mover record of R121. -/
structure CmqRec where
  tag : Nat
  kind : Nat
  status : Nat
  bytes : Nat
  crc : Nat
  deriving DecidableEq, Repr

/-- A cluster-mover transfer in progress (05 R121). -/
structure ClMove where
  tag : Nat
  kind : Nat
  vef : Nat
  inPocket : Bool
  place : Nat
  off : Nat
  win : Nat
  winOff : Nat
  len : Nat
  toWin : Bool
  deriving DecidableEq, Repr

/-- Hidden state of one field. -/
structure FldRt where
  /-- The image held. 02 R47; reset: none. -/
  image : Option FieldImage
  /-- Digest of the image the field last held, for GENERATION. 02 R51; reset: none. -/
  lastDigest : Option Bytes
  /-- VEFs attached (128: the Cantle). 02 R47; reset: none. -/
  attached : List Nat
  /-- FIELD_RELEASEs admitted, whose VEFs detach once their commands in flight have ended. 02 R53; reset: none. -/
  releases : List Cmd
  /-- Its last VEF has detached while commands were in flight: it is cleared when they have ended, and these VEFs are told. 02 R53; reset: no. -/
  emptied : Option (List Nat)
  /-- A kill is in progress (the field drains towards IDLE): its start in local ns. 02 R52; reset: none. -/
  killSince : Option Nat
  /-- A contained fault has ended the commands in flight and their writes drain. 02 R56; reset: no. -/
  faultDrain : Bool
  /-- No admission until re-initialised. 02 R37; reset: no. -/
  needReinit : Bool
  /-- Firmware stops admission for self-test, or the safety reaction holds the queues. 10 R264, 11 R288; reset: no. -/
  hold : Bool
  /-- Local ns of the last progress event, or of the last entry into RUNNING if that is later. 02 R55; reset: 0. -/
  lastProgress : Nat
  /-- Nanoseconds in RUNNING between the last progress event and that entry. 02 R55; reset: 0. -/
  wdogHeld : Nat
  /-- Watchdog period in force. 02 R59; reset: 2,000. -/
  wdogPeriod : Nat
  /-- Links of the field's edge are fenced. 02 R42; reset: no. -/
  fenced : Bool
  /-- Cluster-mover transfers in progress. 05 R121; reset: none. -/
  moves : List ClMove
  /-- Cluster-mover records held by a full queue. 05 R121; reset: none. -/
  heldRecs : List CmqRec
  /-- Occupied cell-cycles, in thousandths. 15 R387; reset: 0. -/
  occupied : Nat
  /-- The last committed command was a FRAME with CKPT = 1 or a FIELD_CHECKPOINT. 11 R287; reset: no. -/
  ckptLast : Bool
  /-- Firmware's own checkpoint before a slice is being copied. 11 R288; reset: no. -/
  bistCk : Bool
  /-- A field reset has been asked for and has not ended. 16 R406; reset: no. -/
  resetAsked : Bool
  /-- Cycles that the field's cells have lost to pocket bank conflicts. 02 R34; reset: 0. -/
  conflicts : Nat
  deriving DecidableEq, Repr

/-- One accumulator of the matrix unit (03 R72, R450): N and the anchor A, the special flags, the residue channel and
the FP32 value of BF16 and FP16 tiles. -/
structure Acc where
  n : Int
  anchor : Option Int
  pinf : Bool
  ninf : Bool
  nan : Bool
  range : Bool
  rho : Nat
  fp : Nat
  /-- The block in progress: its sum S, its smallest exponent g and its residue. 03 R72; reset: none. -/
  part : Option (Int × Int × Nat)
  deriving DecidableEq, Repr

/-- A cell-mover transfer in progress (02 R43, 04 R91): its program, the 32-byte pieces moved and their number, its
command, the pool offsets that the page tags of its source and destination resolved to (07 R180), and the sequences and
blocks whose page-table entries it waits for (07 R172). -/
structure Xfer where
  active : Bool
  prog : Nat
  moved : Nat
  total : Nat
  job : Nat
  page : Option Nat
  dstPage : Option Nat
  miss : List (Nat × Nat)
  deriving DecidableEq, Repr

/-- Position of an address generator (04 R91). -/
structure AgPos where
  i0 : Nat
  i1 : Nat
  i2 : Nat
  deriving DecidableEq, Repr

/-- One flit of a stream: 256 bits and whether a word of it is poisoned (02 R41, 05 R126). -/
structure Flit where
  data : Nat
  poison : Bool
  deriving DecidableEq, Repr

/-- State of one cell (chapters 2–4). -/
structure CellSt where
  /-- The sequencer runs (the cell has a stitch entry and a command has started it). 04 R90; reset: no. -/
  running : Bool
  /-- Microword address. 12 bits; 02 R38; reset: 0. -/
  pc : Nat
  /-- Repetitions of the current microword already done. 04 R99; reset: 0. -/
  rep : Nat
  /-- Command the cell works for (serial). 04 R103; reset: 0. -/
  job : Nat
  /-- Commands admitted that the cell has still to run, in order of admission. 02 R52; reset: none. -/
  todo : List Nat
  /-- Loop counters 0–15, 32 bits. 04 R102; reset: 0. -/
  loops : Sparse Nat
  /-- Address generators 0–7. 04 R91; reset: at BASE. -/
  ags : Sparse AgPos
  /-- Vector registers, by register × 32 + lane, 32 bits. 02 R33; reset: 0. -/
  vreg : Sparse Nat
  /-- Accumulators, by bank × 256 + row × 16 + column. 02 R32; reset: empty. -/
  acc : Sparse Acc
  /-- The bank in use. 02 R32; reset: 0. -/
  bank : Nat
  /-- K steps of the tile in each bank. 03 R77; reset: 0. -/
  ksteps : Sparse Nat
  /-- Row statistics by slot 0–127: running maximum and running sum, FP32. 02 R33, 07 R182; reset: (−∞, 0). -/
  rowstat : Sparse (Nat × Nat)
  /-- Outputs added into the checksum bank since it was cleared, in drain order: slice row, slice column and FP32 value. The 512 sums of the bank are those of this list. 03 R79; reset: none. -/
  chk : List (Nat × Nat × Nat)
  /-- Stochastic-rounding generators of the 32 lanes, 32 bits. 03 R68; reset: 0. -/
  lfsr : Sparse Nat
  /-- Number of the draw from which the generators were seeded at the last admission. 03 R69; reset: 0. -/
  seed : Nat
  /-- Cell-mover transfers 0–7. 02 R43; reset: idle. -/
  xfers : Sparse Xfer
  /-- Half and full events of the transfers, one bit each. 02 R43; reset: 0. -/
  half : Nat
  full : Nat
  /-- Tokens arrived and not yet taken, one bit each. 04 R102; reset: 0. -/
  tokens : Nat
  /-- Flits held by incoming endpoint (0–31) and by originating port (32–39), oldest first. 02 R41; reset: none. -/
  inBuf : Sparse (List Flit)
  /-- Flits delivered to local ports 0–7 and not yet consumed. 02 R41; reset: none. -/
  port : Sparse (List Flit)
  /-- Credits in use on outgoing endpoints 0–31 (0–4). 02 R41; reset: 0. -/
  used : Sparse Nat
  /-- The cell waits on a stream port. 02 R55; reset: no. -/
  waiting : Bool
  /-- Tokens it has sent that have not arrived: destination cell and token. 02 R42, 04 R102; reset: none. -/
  sent : List (Nat × Nat)
  deriving DecidableEq, Repr

end Sys2Proof.Machine
end

