-- ==== Sys2Proof/Machine/StateCockpit.lean ====
section
/-! DEFINITION. State of the display engine (chapter 9), beside its registers. -/

namespace Sys2Proof.Machine

/-- A PRESENT admitted to a head and not completed (09 R244): its head, its command and the image descriptor read at
admission. -/
structure Present where
  head : Nat
  cmd : Cmd
  desc : Bytes
  deriving DecidableEq, Repr

/-- The warp of a latched frame (09 R247, R248): the pose record and the warp record it uses, and the sensor time read at
its latch. -/
structure Warp where
  pose : Bytes
  record : Bytes
  sigma : Nat
  deriving DecidableEq, Repr

/-- Runtime of a head. -/
structure HeadRt where
  /-- The image latched last. 09 R245; reset: none, the background. -/
  shown : Option Present
  /-- The frame latched last latched a new image. 09 R245, R247; reset: no. -/
  fresh : Bool
  /-- Newest frame latched and newest frame started since the head came ON. 09 R243, R245; reset: none. -/
  latched : Option Nat
  started : Option Nat
  /-- Warp of the latched frame. 09 R247; reset: none. -/
  warp : Option Warp
  /-- EXP_A and EXP_B of the rectangles as latched, rectangle × 2 + (0 A, 1 B). 09 R250; reset: 0. -/
  exp : Sparse Nat
  /-- First frame after a step of vehicle time. 09 R243; reset: none. -/
  resume : Option Nat
  deriving DecidableEq, Repr

/-- A head at rest. -/
def HeadRt.rest : HeadRt := ⟨none, false, none, none, none, [], none⟩

/-- The display engine. -/
structure DispSt where
  /-- Heads 0–5. 09 R242; reset: at rest. -/
  heads : Sparse HeadRt
  /-- Pending PRESENTs of all heads, in order of admission. 09 R244; reset: none. -/
  pend : List Present
  deriving DecidableEq, Repr

end Sys2Proof.Machine
end

