-- ==== Sys2Proof/Machine/StateFirmware.lean ====
section
/-! DEFINITION. State of boot, firmware and identity (chapter 15), beside their registers, and the contents of the external
flash. -/

namespace Sys2Proof.Machine

/-- A recovery transfer over Ethernet (15 R379): its sender, the package bytes received by offset, and the local ns of the
last datagram. -/
structure Transfer where
  sender : Nat
  bytes : List (Nat × Option Byte)
  last : Nat
  deriving DecidableEq, Repr

/-- ROM in recovery (15 R377, R379): the transfer in progress, and the local ns of the last ANNOUNCE. -/
structure Recovery where
  transfer : Option Transfer
  announced : Option Nat
  deriving DecidableEq, Repr

/-- A log entry that a restarting component holds (15 R385): component, level, code and arguments. -/
structure LogEntry where
  comp : Nat
  level : Nat
  code : Nat
  time : Nat
  args : Bytes
  deriving DecidableEq, Repr

/-- Boot and firmware. -/
structure FwSt where
  /-- Contents of the external flash, by offset: bytes that differ from 0xFF. 15 R368; reset: as the flash is (MODEL: erased). -/
  flash : List Host.Cell
  /-- The platform configuration record in force. 15 R371; reset: none. -/
  record : Bytes
  /-- The certificate in force. 15 R370; reset: none. -/
  cert : Bytes
  /-- The manifest of the bundle in force. 15 R374; reset: none. -/
  manifest : Bytes
  /-- The private key; 0 for none. 15 R388, R390; reset: none. -/
  key : Nat
  /-- Addresses of the images that firmware wrote into the resident driving region and checked against their digests. 04 R84, 15 R376; reset: none. -/
  verified : List Nat
  /-- ROM has run its path since the last reset. 15 R376; reset: no. -/
  romRan : Bool
  /-- ROM has handed over to firmware, and firmware runs. 15 R376; reset: no. -/
  running : Bool
  /-- Firmware has halted after its third whole restart. 15 R384; reset: no. -/
  halted : Bool
  /-- Components that restart, by their codes 0x02–0x09; 0x02 stands for a whole restart. 15 R383, R384; reset: none. -/
  restarting : List Nat
  /-- Local ns of the whole restarts, newest first. 15 R384; reset: none. -/
  wholes : List Nat
  /-- Log entries held during a restart, oldest first, and the number lost beyond 64. 15 R383, R385; reset: none, 0. -/
  heldLog : List LogEntry
  lostLog : Nat
  /-- Repair-log entries not yet written to flash, and log saves held during an update. 15 R381; reset: 0, 0. -/
  heldRepairs : Nat
  heldSaves : Nat
  /-- Next slot of the log save area, 0–3. 15 R386; reset: 0. -/
  slot : Nat
  /-- ROM waits in recovery. 15 R377; reset: no. -/
  recovery : Option Recovery
  /-- The package of an update in progress. 15 R380, R381; reset: none. -/
  package : Option Bytes
  /-- Local ns of the last device-scope report served. 15 R392; reset: none. -/
  attested : Option Nat
  /-- Buffer and VEF of the VEF-scope report in progress. 12 R311, 17 R421; reset: none. -/
  attest : Option (Nat × Nat)
  /-- Local ns of the last entry of trace point 0x40 + field. 15 R387; reset: none. -/
  traced : Sparse (Option Nat)
  deriving DecidableEq, Repr

/-- Boot and firmware after cold reset, with the flash's contents. -/
def FwSt.cold (flash : List Host.Cell) : FwSt :=
  ⟨flash, [], [], [], 0, [], false, false, false, [], [], [], 0, 0, 0, 0, none, none, none, none, []⟩

end Sys2Proof.Machine
end

