-- ==== Sys2Proof/Machine/StateFusion.lean ====
section
/-! DEFINITION. State of sensor ingress and of the fusion aligner (chapter 8), beside their registers. -/

namespace Sys2Proof.Machine

/-- A frame sample being received, or received and not yet complete (08 R195–R200): its slot, the row stamps or packet
places so far, and what its header will hold. -/
structure OpenFrame where
  slot : Nat
  /-- CSI-2 data type of its lines, none before the first. -/
  dt : Option Nat
  /-- Lines or packets stored. -/
  count : Nat
  /-- A line has begun whose pixels have not come, with its row time. -/
  line : Option Int
  /-- The row time of ROW_REF, or the mapped time of the last packet. -/
  stamp : Int
  /-- Sweep counter. -/
  seq : Nat
  /-- Offset of the next packet record in the slot. -/
  fill : Nat
  truncated : Bool
  corr : Int
  deriving DecidableEq, Repr

/-- A complete sample that holds a slot (08 R200–R206): its window, whether it came late, and the instant whose
out-of-sequence list names it. -/
structure Sample where
  slot : Nat
  stamp : Int
  arrival : Nat
  seq : Nat
  truncated : Bool
  k : Nat
  late : Bool
  oosOf : Option Nat
  deriving DecidableEq, Repr

/-- An entry of an out-of-sequence list (08 R206, R211). -/
structure OosEntry where
  source : Nat
  off : Nat
  stamp : Int
  k : Nat
  deriving DecidableEq, Repr

/-- Runtime of one source (chapter 8). -/
structure SrcRt where
  /-- The frame or sweep being received. 08 R196, R197; reset: none. -/
  open_ : Option OpenFrame
  /-- The input of a frame dropped for want of a slot is passed over until the next frame or sweep: its sweep counter. 08 R201; reset: none. -/
  skip : Option Nat
  /-- Frames received and not yet complete, oldest first. 08 R199; reset: none. -/
  received : List OpenFrame
  /-- Samples that hold a slot, oldest first. 08 R200; reset: none. -/
  samples : List Sample
  /-- Windows that have held a sample. 08 R206; reset: none. -/
  windows : List Nat
  /-- Slot of the previous sample. 08 R200; reset: none. -/
  prevSlot : Option Nat
  /-- Frames completed since ENABLE. 08 R200; reset: 0. -/
  done : Nat
  /-- Offset estimate in 2^-16 ns and rate estimate in 2^-40, with the last t_src; none before the first packet. 08 R203; reset: none. -/
  est : Option (Int × Int × Nat)
  /-- Instants of LATE samples since the history was cleared. 08 R207; reset: none. -/
  lates : List Nat
  /-- Consecutive due instants that received a sample on time. 08 R207; reset: 0. -/
  good : Nat
  /-- State to be entered at the next release. 08 R207; reset: none. -/
  next : Option Nat
  /-- Fusion time of the entry into TIME_LOST. 08 R207; reset: 0. -/
  lostAt : Nat
  /-- Updates since that entry: fusion time, and whether the offset lay within P/16. 08 R207; reset: none. -/
  updates : List (Nat × Bool)
  /-- Local ns of the last RESYNC_REQUEST of this TIME_LOST. 08 R208; reset: none. -/
  resync : Option Nat
  /-- Stamps of IMU edges whose transactions have not ended, oldest first. 08 R198; reset: none. -/
  edges : List Int
  /-- Records written to the ring since ENABLE. 08 R200; reset: 0. -/
  written : Nat
  /-- Records complete since ENABLE. 08 R199; reset: 0. -/
  complete : Nat
  /-- Records listed by releases so far. 08 R204; reset: 0. -/
  listed : Nat
  /-- Records complete since the previous release in which the source was due. 08 R205; reset: 0. -/
  sinceDue : Nat
  /-- Frame sync: the last instant pulsed, and the fusion time at which the ball went high while it is high. 08 R195; reset: none, low. -/
  pulsed : Option Nat
  high : Option Nat
  deriving DecidableEq, Repr

/-- A source at rest. -/
def SrcRt.rest : SrcRt :=
  ⟨none, none, [], [], [], none, 0, none, [], 0, none, 0, [], none, [], 0, 0, 0, 0, none, none⟩

/-- A released instant (08 R201, R211): its mask, due set, group mask and ceiling, the slots it lists and the records it
lists, by source. -/
structure Inst where
  k : Nat
  mask : Nat
  due : Nat
  groups : Nat
  ceiling : Nat
  slots : List (Nat × Nat)
  recs : List (Nat × Nat × Nat)
  deriving DecidableEq, Repr

/-- The aligner and the sources. -/
structure FusionSt where
  /-- Sources 0–31. 08 R193; reset: at rest. -/
  srcs : Sparse SrcRt
  /-- The lowest instant not yet released. 08 R204; reset: 0. -/
  nextK : Nat
  /-- R of the newest released instant. 08 R204; reset: none. -/
  lastR : Option Nat
  /-- Released instants that are still held or named, newest first. 08 R201; reset: none. -/
  insts : List Inst
  /-- Out-of-sequence list of the lowest unreleased instant. 08 R206; reset: none. -/
  oos : List OosEntry
  /-- The instant last named by a FRAME admitted on each field. 08 R209; reset: none. -/
  lastFrame : Sparse (Option Nat)
  /-- Instants resolved for FRAMEs that name the next one, by serial of the command. 08 R209; reset: none. -/
  resolved : List (Nat × Nat)
  deriving DecidableEq, Repr

/-- The aligner after reset. -/
def FusionSt.cold : FusionSt := ⟨[], 0, none, [], [], [], []⟩

end Sys2Proof.Machine
end

