-- ==== Sys2Proof/Machine/StateGateway.lean ====
section
/-! DEFINITION. State of the Ethernet switch, the CAN controllers, the signal gateway and the gPTP service (chapter 14),
and of the host cores' timers, the A-PHY back channels and the PCIe function (chapters 12 and 17), beside their
registers. -/

namespace Sys2Proof.Machine

/-- A frame waiting for its class's gate at a port (14 R351), with its transmit-timestamp request (identifier and base),
and the port and the vehicle-time stamp of its receipt. -/
structure Egress where
  port : Nat
  cls : Nat
  frame : Bytes
  stamp : Option (Nat × Nat)
  ingress : Nat
  /-- Receive stamps in vehicle and in sensor time, less RX_LAT (14 R352). -/
  rx : Nat
  rxSensor : Nat
  deriving DecidableEq, Repr

/-- An entry of a transmit-timestamp queue, or one on its way there (14 R354). -/
structure TxStamp where
  port : Nat
  id : Nat
  base : Nat
  dropped : Bool
  /-- In the layout of R337. -/
  stamp : Nat
  deriving DecidableEq, Repr

/-- A container of the signal gateway (14 R359, R361). -/
structure ContRt where
  /-- The staging image; bytes past its end are zero. 14 R359; reset: zero. -/
  image : Bytes
  /-- Bit ranges (first bit, length) that hold a value not yet sent. 14 R361; reset: none. -/
  unsent : List (Nat × Nat)
  /-- Stamp of the oldest value not yet sent. 14 R361; reset: none. -/
  oldest : Option Nat
  /-- next_due. Vehicle ns; 14 R361; reset: 0. -/
  nextDue : Nat
  /-- Images that are due and not yet handed over, oldest first. 14 R361; reset: none. -/
  due : List Bytes
  deriving DecidableEq, Repr

/-- A container at rest. -/
def ContRt.rest : ContRt := ⟨[], [], none, 0, []⟩

/-- The gateway. -/
structure GwSt where
  /-- Learned entries of the forwarding table: VLAN × 2^48 + address, and port, newest first. 14 R348; reset: none. -/
  learned : List (Nat × Nat)
  /-- Frames waiting to be sent, oldest first. 14 R351; reset: none. -/
  egress : List Egress
  /-- Gate states by port, bit c for class c. 14 R351; reset: all open. -/
  gates : Sparse Nat
  /-- End of the port's current gate interval in vehicle ns; none where no schedule runs. 14 R351; reset: none. -/
  gateEnd : Sparse (Option Nat)
  /-- Ports whose gates hold the last entry's state since a step of vehicle time. 14 R343; reset: none. -/
  gateHold : List Nat
  /-- Transmit-timestamp queues, oldest first. 14 R354, R355; reset: empty. -/
  stamps : List TxStamp
  /-- Stamps taken whose entries are not yet in a queue. 14 R354; reset: none. -/
  leaving : List TxStamp
  /-- Containers 0–1,023. 14 R359; reset: at rest. -/
  conts : Sparse ContRt
  /-- PHASE of the next entry of each CAN receive ring (0–13) and host receive ring (16–23). 14 R353, R357; reset: 1. -/
  phase : Sparse Bool
  /-- Slave port of each gPTP domain; none without a grandmaster. 14 R346; reset: none. -/
  slave : Sparse (Option Nat)
  /-- Local ns of the last Sync by domain and of the last Pdelay by port. 14 R346; reset: none. -/
  synced : Sparse (Option Nat)
  delayed : Sparse (Option Nat)
  /-- Harts whose machine timer interrupt is pending. 17 R427; reset: none. -/
  mtip : List Nat
  /-- Local ns of GO of the I2C transactions in progress, by receiver. 17 R432; reset: none. -/
  i2c : Sparse (Option Nat)
  /-- Receivers whose A-PHY link has locked since reset. 17 R430; reset: none. -/
  aphyLocked : List Nat
  /-- NumVFs and VF Enable of the SR-IOV capability. 12 R296; reset: 0, no. -/
  numVfs : Nat
  vfEnable : Bool
  deriving DecidableEq, Repr

/-- The gateway after a reset. -/
def GwSt.cold : GwSt := ⟨[], [], [], [], [], [], [], [], [], [], [], [], [], [], [], 0, false⟩

end Sys2Proof.Machine
end

