-- ==== Sys2Proof/Machine/StateMisc.lean ====
section
/-! DEFINITION. State of self-test and repair (chapter 11) and of boot and firmware (chapter 15), beside their
registers. -/

namespace Sys2Proof.Machine

/-- A periodic BIST slice in progress (11 R286): kind, unit index (or Girth stop × 2 + bank for kind 4), the field whose
block it is, and its start in vehicle time. -/
structure Slice where
  kind : Nat
  unit : Nat
  field : Option Nat
  since : Nat
  deriving DecidableEq, Repr

/-- An entry of the repair log, without its CRC (11 R285). -/
structure RepairEntry where
  macro_ : Nat
  kind : Nat
  source : Nat
  index : Nat
  time : Nat
  deriving DecidableEq, Repr

/-- Self-test and repair. -/
structure BistSt where
  /-- The slice in progress. 11 R286; reset: none. -/
  slice : Option Slice
  /-- Vehicle time at which the interval of each block began, by kind × 256 + unit. 11 R288; reset: 0. -/
  began : Sparse Nat
  /-- Blocks whose current interval has been reported as lapsed. 11 R289; reset: none. -/
  lapsed : List Nat
  /-- Units in TESTING: slice kinds they have passed, by unit × 8 + kind. 11 R291; reset: none. -/
  passed : List Nat
  /-- The repair registers: spares in use by MACRO of R285, each a column or not and the row or column it replaces. 11 R283; reset: none. -/
  used : Sparse (List (Bool × Nat))
  /-- The repair log in flash, oldest first. 11 R285; reset: as flash holds it. -/
  log : List RepairEntry
  /-- Number of the next empty entry of the log in flash. 11 R285; reset: 0, set when ROM reads the log. -/
  logNext : Nat
  /-- Disabled banks of Girth stops, by stop × 2 + bank. 11 R284; reset: none. -/
  girth : List Nat
  /-- Admission to the render engine is stopped for a slice. 11 R288; reset: no. -/
  stop : Bool
  deriving DecidableEq, Repr

/-- Self-test after cold reset. -/
def BistSt.cold : BistSt := ⟨none, [], [], [], [], [], 0, [], false⟩

end Sys2Proof.Machine
end

