-- ==== Sys2Proof/Machine/StateMode.lean ====
section
/-! DEFINITION. State of the mode machine, the park and power sequences, the domains, clocks and units (chapters 1 and
16). -/

namespace Sys2Proof.Machine

/-- A mode change in progress (01 R15–R22). -/
inductive Trans where
  /-- The boot sequence; `park`: the boot out of PARK_COLD by the always-on timer, which ends in PARK_WARM (16 R412). -/
  | boot (park : Bool)
  /-- DRIVE to PARK_WARM, or on to PARK_COLD. -/
  | park (cold : Bool)
  /-- DRIVE to DEPOT. -/
  | depot
  /-- DEPOT to PARK_WARM, or on to PARK_COLD: tenants are being frozen. -/
  | depotPark (cold : Bool)
  /-- DEPOT to DRIVE after a wake event. -/
  | depotDrive
  /-- PARK to DRIVE after a wake event. -/
  | parkDrive
  deriving DecidableEq, Repr

/-- A depot authorisation in force (12 R300): its window in vehicle time. -/
structure Auth where
  issue : Nat
  until_ : Nat
  deriving DecidableEq, Repr

/-- A field to be loaded again on the way back to DRIVE (01 R19, 16 R411): its ID, image, attached VEFs, class and
rectangle. -/
structure Resident where
  field : Nat
  image : FieldImage
  attached : List Nat
  safety : Bool
  rect : Nat × Nat × Nat × Nat
  deriving DecidableEq, Repr

/-- The mode machine (chapter 1) and its pins. -/
structure ModeSt where
  /-- The mode change in progress. 01 R15; reset: boot. -/
  trans : Option Trans
  /-- Local ns of its trigger. 01 R15; reset: 0. -/
  since : Nat
  /-- Doorbells of tenant VEFs are no longer fetched. 01 R19; reset: no. -/
  tenantStop : Bool
  /-- Earliest local ns at which the park-warm timer may expire; none while it does not run. 01 R24; reset: none. -/
  warmTimer : Option Nat
  /-- Earliest local ns at which the always-on timer may expire. 01 R24; reset: none. -/
  coldTimer : Option Nat
  /-- PMIC_EN and MAIN_EN pins. 16 R396, R408; reset: low. -/
  pmicEn : Bool
  mainEn : Bool
  /-- The depot authorisation held. 12 R300; reset: none. -/
  auth : Option Auth
  /-- Highest COUNTER accepted since the last cold reset, plus one; 0 for none. 12 R300; reset: 0. -/
  authCounter : Nat
  /-- Arithmetic clock in MHz: 1,100 or 1,320. 16 R402; reset: 1,100. -/
  clockMhz : Nat
  /-- Clock change decided and not completed. 16 R402; reset: none. -/
  clockTo : Option Nat
  /-- A raise waits for the AVSBus acknowledgement. 16 R398; reset: no. -/
  avsWait : Bool
  /-- HBM is in self-refresh; it is trained. 16 R405, R408; reset: no, no. -/
  selfRefresh : Bool
  trained : Bool
  /-- The aligner ran when the device parked. 16 R410, R411; reset: no. -/
  ranFusion : Bool
  /-- Driving fields to be loaded again on the way to DRIVE. 01 R19, 16 R411; reset: none. -/
  reload : List Resident
  /-- Local ns from which PCIe's configuration answers are timed. 16 R408; reset: 0. -/
  perstAt : Nat
  /-- The PCIE_PERST_N input is high. 16 R408; reset: yes. -/
  perstHigh : Bool
  deriving DecidableEq, Repr

/-- The mode machine after cold reset. -/
def ModeSt.cold : ModeSt :=
  ⟨some (.boot false), 0, false, none, none, false, false, none, 0, 1100, none, false, false, false, false, [], 0, true⟩

/-- Rails, domains, clocks, the limiter and the units (chapter 16). -/
structure PowerSt where
  /-- Rails that are valid, by number 0–10 in the order of R396. 16 R396; reset: none. -/
  rails : List Nat
  /-- Domains isolated, by number 0–23, with 24 for the core domain. 16 R397; reset: all (listed are the free ones). -/
  joined : List Nat
  /-- PLLs that run and are locked: 0 timekeeping, 1 arithmetic, 2 Plain fabric, 3 Shadow, 4–7 host, 8 management, 9 Cantle, 10 core, 11–12 HBM, 13 render, 14–19 display, 20 ingress, 21 Pass, 22 PCIe, 23 gateway. 16 R401; reset: none. -/
  locked : List Nat
  /-- Local ns at which the current limiter window began. 16 R413; reset: 0. -/
  window : Nat
  /-- Energy coefficients of accounting: per cell-ns, engine-ns, HBM byte and, of each of the eight half-quadrants, nanosecond (in fJ). 06 R164; reset: 0. -/
  coefCell : Nat
  coefEngine : Nat
  coefByte : Nat
  coefStatic : List Nat
  /-- Local ns of the last recalibration. 06 R164; reset: 0. -/
  calAt : Nat
  /-- Units whose transition in progress is opposed by a later write: PENDING, by unit number. 16 R403; reset: none. -/
  pendingUnits : List Nat
  /-- Local ns at which each unit's transition began. 16 R403; reset: 0. -/
  unitSince : Sparse Nat
  /-- Unit states of the Pass ports, which have no ENABLE register. 2 bits; 13 R316, 16 R403; reset: OFF. -/
  passUnit : Sparse Nat
  /-- Pass ports that have been enabled and not disabled since. 13 R316, 16 R403; reset: none. -/
  passOn : List Nat
  deriving DecidableEq, Repr

/-- Power state after cold reset. -/
def PowerSt.cold : PowerSt := ⟨[], [], [], 0, 0, 0, 0, [], 0, [], [], [], []⟩

end Sys2Proof.Machine
end

