-- ==== Sys2Proof/Machine/StatePass.lean ====
section
/-! DEFINITION. State of the Pass ports, the routing and the bridge (chapter 13), beside their registers. -/

namespace Sys2Proof.Machine

/-- Types of Pass packets (13 R317), by their codes. -/
def ptWrite : Nat := 0x10
def ptWriteAck : Nat := 0x11
def ptRead : Nat := 0x12
def ptReadData : Nat := 0x13
def ptLock : Nat := 0x14
def ptLockGrant : Nat := 0x15
def ptUnlock : Nat := 0x16
def ptSbPoll : Nat := 0x20
def ptSbData : Nat := 0x21

/-- Runtime of a port (13 R315, R316, R320). -/
structure PortRt where
  /-- Sequence number of the next flit expected; none before the first. 12 bits; 13 R315; reset: none. -/
  next : Option Nat
  /-- A replay is awaited: replays of the expected flit that have failed. 13 R315; reset: none. -/
  failed : Option Nat
  /-- The port retrains. 13 R315; reset: no. -/
  retraining : Bool
  /-- Local ns of the retrains begun, newest first. 13 R315; reset: none. -/
  retrains : List Nat
  /-- Local ns of the last hello received, and of the last hello sent. 13 R316, R320; reset: none. -/
  heard : Option Nat
  sent : Option Nat
  /-- Identity hash of the peer, from its hello. 13 R320; reset: none. -/
  peer : Option Nat
  deriving DecidableEq, Repr

/-- A port at rest. -/
def PortRt.rest : PortRt := ⟨none, none, false, [], none, none, none⟩

/-- A link-state announcement kept, with the local ns at which it came (13 R320). -/
structure KeptLsa where
  lsa : PassLsa
  at_ : Nat
  deriving DecidableEq, Repr

/-- What a request of the bridge is part of (13 R326, R327): a burst that is written or read, the LR, the SC or the AMO of
a hart, with what the AMO still needs. -/
inductive ReqKind where
  | write
  | read
  | lr
  | sc
  | amo (op : AmoOp) (wide : Bool) (value : Nat) (tries : Nat) (old : Option Nat)
  deriving DecidableEq, Repr

/-- A request whose response has not arrived (13 R318, R326, R327): its type as last sent, first-hop port, requester,
local ns of its sending, and whether it holds its port's slot (R330). Type 0: it waits for the slot. -/
structure PassReq where
  kind : ReqKind
  type : Nat
  packet : PassPacket
  port : Nat
  src : Source
  since : Nat
  holds : Bool
  deriving DecidableEq, Repr

/-- Data of a delayed read parked for its requester (13 R330). -/
structure Parked where
  port : Nat
  src : Source
  dst : Nat
  addr : Nat
  data : Bytes
  poison : Bool
  since : Nat
  deriving DecidableEq, Repr

/-- A line locked for another device (13 R327): the line, the device and tag that hold it, and since when. -/
structure LineLock where
  line : Nat
  src : Nat
  tag : Nat
  since : Nat
  deriving DecidableEq, Repr

/-- A side-band poll without an answer (13 R329), and whether it has been counted as missed. -/
structure SbPoll where
  entry : Nat
  tag : Nat
  since : Nat
  missed : Bool
  deriving DecidableEq, Repr

/-- The Pass. -/
structure PassSt where
  /-- Ports 0–3. 13 R314–R316; reset: at rest. -/
  ports : Sparse PortRt
  /-- Kept announcements of other devices. 13 R320; reset: none. -/
  lsas : List KeptLsa
  /-- Local ns of the last announcement sent; one is due at once. 13 R320; reset: 0, no. -/
  lsaAt : Nat
  lsaDue : Bool
  /-- A change of the view has not yet been answered by new routes. 13 R322; reset: no. -/
  routesDue : Bool
  /-- Hash of a device with the same static ID, while both stay unassigned. 13 R321; reset: none. -/
  clash : Option Nat
  /-- The shadow route table and its generation. 13 R322; reset: none. -/
  shadow : Option (Nat × List PassRoute)
  /-- Generation that the authority has sent, and the members that have acknowledged it. 13 R322; reset: none. -/
  acks : Option (Nat × List Nat)
  /-- Members of the fabric as the authority has routed it. 13 R322; reset: none. -/
  members : List Nat
  /-- Requests outstanding, oldest first. 13 R318; reset: none. -/
  reqs : List PassReq
  /-- Next tag. 16 bits; 13 R317; reset: 0. -/
  tag : Nat
  /-- Parked data of delayed reads. 13 R330; reset: none. -/
  parked : List Parked
  /-- Inbound non-posted requests that wait for the slot of a port. 13 R330; reset: none. -/
  slotWait : List (Nat × Nat × PassPacket)
  /-- Lines locked, and requests that wait for a locked line, oldest first, with their type and arrival. 13 R327; reset: none. -/
  locks : List LineLock
  lineWait : List (Nat × PassPacket × Nat)
  /-- Sequences whose lock has expired: device and tag. 13 R327; reset: none. -/
  expired : List (Nat × Nat)
  /-- Lines that harts have reserved at other devices: hart, device, line and tag. 13 R327; reset: none. -/
  reserved : List (Nat × Nat × Nat × Nat)
  /-- Polls without an answer, and consecutive misses by entry. 13 R329; reset: none. -/
  polls : List SbPoll
  misses : Sparse Nat
  /-- Local ns of the last poll, by entry. 13 R329; reset: none. -/
  polled : Sparse (Option Nat)
  deriving DecidableEq, Repr

/-- The Pass after a reset. -/
def PassSt.cold : PassSt :=
  ⟨[], [], 0, false, false, none, none, none, [], [], 0, [], [], [], [], [], [], [], [], []⟩

end Sys2Proof.Machine
end

