-- ==== Sys2Proof/Machine/StateValley.lean ====
section
/-! DEFINITION. State of the Valley (chapter 7): pools, sequences, group tags and the prefix table. -/

namespace Sys2Proof.Machine

/-- The tag of a group (07 R170). -/
inductive GroupTag where
  | free
  | priv (vef : Nat)
  | shared (domain : Nat)
  deriving DecidableEq, Repr

/-- A page-table entry (07 R172). -/
structure PageEntry where
  group : Nat
  shared : Bool
  deriving DecidableEq, Repr

/-- A live sequence (07 R171): owner, prompt and reserved length, committed length L, prefilled count, page table, and
the prefix-table indices of the FILLING entries it inserted, by block. -/
structure SeqSt where
  vef : Nat
  promptLen : Nat
  resv : Nat
  len : Nat
  prefilled : Nat
  pages : List PageEntry
  filling : List (Nat × Nat)
  deriving DecidableEq, Repr

/-- The contents of a pool's management area (07 R168, R170, R171). -/
structure PoolSt where
  /-- Live sequences by index 0–4,095. 07 R171; reset: none. -/
  seqs : List (Nat × SeqSt)
  /-- Group tags. 07 R170; reset: FREE. -/
  tags : Sparse GroupTag
  deriving DecidableEq, Repr

/-- An empty pool. -/
def PoolSt.empty : PoolSt := ⟨[], []⟩

/-- An entry of the prefix table (07 R176). STATE: 0 EMPTY, 1 FILLING, 2 VALID. -/
structure PfxEntry where
  key : Nat
  group : Nat
  pool : Nat
  parent : Nat
  refs : Nat
  pins : Nat
  children : Nat
  domain : Nat
  state : Nat
  lastUse : Nat
  poolGen : Nat
  deriving DecidableEq, Repr

/-- An EMPTY entry: zeroes. -/
def PfxEntry.zero : PfxEntry := ⟨0, 0, 0, 0, 0, 0, 0, 0, 0, 0, 0⟩

/-- An entry of the page-table cache of a cluster of a field: its place among the 8,192 at the top of the cluster SRAM, and the
sequence and block it is of (07 R172). -/
structure PtEntry where
  field : Nat
  cluster : Nat
  slot : Nat
  seq : Nat
  block : Nat
  deriving DecidableEq, Repr

/-- The Valley. -/
structure ValleySt where
  /-- Pools 0–15. 07 R167; reset: empty. -/
  pools : Sparse PoolSt
  /-- The prefix table, 2^20 entries by index. 07 R176; reset: EMPTY. -/
  pfx : Sparse PfxEntry
  /-- Entries of the page-table caches of the fields' clusters. 07 R172; reset: none. -/
  ptCache : List PtEntry
  deriving DecidableEq, Repr

end Sys2Proof.Machine
end

