-- ==== Sys2Proof/Machine/State.lean ====
section
/-! DEFINITION. The state of the device as plain data, the reasons a step can stop, and the state after cold reset.
Registers are held field by field in one sparse store; everything the manual gives the device beside its registers is
in the groups below. -/

namespace Sys2Proof.Machine

/-- The four time bases (14 R337–R342). -/
structure TimeSt where
  /-- Bases 0 vehicle, 1 sensor, 2 depot, 3 local monotonic, in units of 2^-39 ns (a 32-bit fraction and the seven bits that the park increment divides by). 14 R337, R338; reset: 0. -/
  acc : Sparse Nat
  /-- Holding words of TB_OFS[0..2], 32 bits. 14 R342; reset: 0. -/
  hold : Sparse Nat
  /-- Steps formed and not yet applied, by base. 14 R342; reset: none. -/
  step : Sparse (Option Int)
  deriving DecidableEq, Repr

/-- A fault report on the fault-collection network (10 R260): source code, field and moment of detection. -/
structure SafReport where
  source : Nat
  field : Option Nat
  at_ : Nat
  deriving DecidableEq, Repr

/-- The content of a safety status frame from STATUS on (10 R267), for the change rule of R269. -/
structure FrameView where
  status : Nat
  flags : Nat
  deriving DecidableEq, Repr

/-- A golden frame between admission and its comparison (10 R274): field, entry index, instant of admission, serial of
its command, the status it completed with and where its outputs lie. -/
structure GoldenRun where
  field : Nat
  entry : Nat
  instant : Nat
  serial : Nat
  status : Option Nat
  buf : Nat
  /-- It has already failed by its deadline. -/
  failed : Bool
  deriving DecidableEq, Repr

/-- Hidden state of the safety island (chapter 10). -/
structure SafSt where
  /-- Faults detected and not yet collected, oldest first. 10 R260; reset: none. -/
  reports : List SafReport
  /-- Contained faults per field with their vehicle times, newest first. 10 R265; reset: none. -/
  contained : List (Nat × Nat)
  /-- Re-initialisations for field-class faults with their vehicle times, newest first. 10 R264; reset: none. -/
  reinits : List (Nat × Nat)
  /-- Fields with an unresolved field-class fault. 10 R264, R268; reset: none. -/
  unresolved : List Nat
  /-- Fields that wait for a golden before their queues are released. 10 R264; reset: none. -/
  needGolden : List Nat
  /-- Faults of class contained and field since cold reset (status bytes 10–11), saturating at 0xFFFF. 10 R267; reset: 0. -/
  faults : Nat
  /-- The source and field bytes of the status frame (LAST_SOURCE, LAST_FIELD). 10 R267; reset: 0, 0xFF. -/
  lastSource : Nat
  lastField : Nat
  /-- Newest instant committed by the primary field and by field 16. 10 R267; reset: none. -/
  primaryK : Option Nat
  shadowK : Option Nat
  /-- PRIMARY_K and SHADOW_K are of an earlier run of the aligner. 10 R266, 08 R226; reset: no. -/
  primaryOld : Bool
  shadowOld : Bool
  /-- Next instant that the primary and the Shadow deadline check test. 10 R266, R268; reset: 1, 2. -/
  primaryNext : Nat
  shadowNext : Nat
  /-- The newest FRAME of the primary field and of field 16 completed with DONE. 10 R268; reset: no. -/
  primaryDone : Bool
  shadowDone : Bool
  /-- The Shadow field's own deadline test of R268 holds. 10 R268; reset: no. -/
  shadowLive : Bool
  /-- GROUP_MASK of the primary field's newest instant. 10 R267; reset: 0. -/
  groupMask : Nat
  /-- PERCEPTION_LATE. 10 R266; reset: 0. -/
  late : Bool
  /-- Units with an unresolved coverage fault. 10 R268, 11 R289; reset: none. -/
  coverage : List Nat
  /-- Heads with an unresolved telltale mismatch. 10 R268; reset: none. -/
  telltale : List Nat
  /-- STARTING until both outputs have been valid at once. 10 R267; reset: yes. -/
  starting : Bool
  /-- E2E counter of the status frame, 4 bits. 10 R267; reset: 0. -/
  counter : Nat
  /-- Vehicle time of the next periodic frame, local time of the last frame, and the local time by which the next must go after a step of the vehicle base. 10 R269, 14 R343; reset: 0, 0, none. -/
  nextFrame : Nat
  lastFrame : Nat
  frameBy : Option Nat
  /-- Number of the last 1 ms cycle in which a frame went. 10 R269; reset: 0. -/
  cycle : Nat
  /-- Content of the last frame and repeats still to send. 10 R269; reset: none, 0. -/
  view : Option FrameView
  repeats : Nat
  /-- The safety gate is closed. 10 R263; reset: open. -/
  gate : Bool
  /-- The Cantle pair is held in reset. 10 R263; reset: held until released (15 R376). -/
  held : Bool
  /-- Core B of a split pair runs the second Cantle image; else it stays in reset, or follows core A. 10 R273; reset: no. -/
  coreB : Bool
  /-- Local time of the Cantle's release, while no kick has followed it. 10 R271; reset: none. -/
  released : Option Nat
  /-- Vehicle time of the last kick, none while the watchdog is suspended. 10 R271; reset: none. -/
  kick : Option Nat
  /-- A step restarted the window: the early-kick test is not applied. 10 R271; reset: no. -/
  kickFree : Bool
  /-- Sleep permission: the vehicle time of the frame held, and the E2E reference counter. 10 R270; reset: none. -/
  sleepAt : Option Nat
  sleepCtr : Option Nat
  /-- Goldens admitted and not yet judged. 10 R274; reset: none. -/
  goldens : List GoldenRun
  /-- Instants below this number need no more golden of the field: its last due instant run or skipped, plus one. 10 R275, R281; reset: 0. -/
  settled : Sparse Nat
  /-- Fields killed for a golden that is not deferrable. 10 R275; reset: none. -/
  forced : List Nat
  /-- E2E Profile 7 counter of the fall-back datagrams. 10 R259; reset: 0. -/
  p7Counter : Nat
  /-- Shadow FRAME results waiting to be sent: instant and object-list address. 10 R259; reset: none. -/
  fallback : List (Nat × Nat)
  deriving DecidableEq, Repr

/-- The safety island after cold reset. -/
def SafSt.cold : SafSt where
  reports := []
  contained := []
  reinits := []
  unresolved := []
  needGolden := []
  faults := 0
  lastSource := 0
  lastField := 0xFF
  primaryK := none
  shadowK := none
  primaryOld := false
  shadowOld := false
  primaryNext := 1
  shadowNext := 2
  primaryDone := false
  shadowDone := false
  shadowLive := false
  groupMask := 0
  late := false
  coverage := []
  telltale := []
  starting := true
  counter := 0
  nextFrame := 0
  lastFrame := 0
  frameBy := none
  cycle := 0
  view := none
  repeats := 0
  gate := false
  held := true
  coreB := false
  released := none
  kick := none
  kickFree := false
  sleepAt := none
  sleepCtr := none
  goldens := []
  settled := []
  forced := []
  p7Counter := 0
  fallback := []

/-- What has left the device, newest first: the trace of its outputs. -/
inductive Out where
  /-- The 32-bit interrupt write of a ring or table (06 R138, R150). -/
  | irq (addr data : Nat)
  /-- A write to the external host's memory over PCIe (06 R135). -/
  | hostWrite (addr : Nat) (data : Bytes)
  /-- A write to the memory of another device over the Pass (05 R112, 13). -/
  | fabricWrite (dev addr : Nat) (data : Bytes)
  /-- The frame sync of a camera source driven high or low (08 R195). -/
  | frameSync (source : Nat) (high : Bool)
  /-- A frame scanned out of a head: its number, whether it was warped, and the image descriptor it came from (09 R243). -/
  | scanout (head frame : Nat) (warped : Bool) (desc : Bytes)
  /-- A CAN frame sent: controller, identifier, extended format, and data (10 R267, 14 R357). -/
  | can (ctl id : Nat) (ext : Bool) (data : Bytes)
  /-- A fall-back datagram handed to the switch at the Cantle's port 9: UDP over IPv6 from DEVICE_IP to an address and a port, in
  a VLAN (10 R259). -/
  | fallback (src dst vlan udp : Nat) (payload : Bytes)
  /-- FAULT_N released high or driven low (10 R263). -/
  | faultN (high : Bool)
  /-- An SPI transaction begun by ingress: port, command byte and bytes to read (08 R198). -/
  | spi (port cmd len : Nat)
  /-- A Pass packet of a type sent on a port (13 R317). -/
  | packet (port type : Nat) (p : PassPacket)
  /-- A hello and an announcement sent on a port (13 R320). -/
  | hello (port : Nat) (h : PassHello)
  | lsa (port : Nat) (l : PassLsa)
  /-- Route entries of a generation sent to the device with an identity hash, an acknowledgement, and a commit (13 R322). -/
  | routes (hash gen : Nat) (entries : List PassRoute)
  | routesAck (gen : Nat)
  | routesCommit (gen : Nat)
  /-- A resend from the replay buffer of a port begun (13 R315). -/
  | replay (port : Nat)
  /-- A datagram sent through the tunnel: address, VLAN, UDP port and payload (13 R324). -/
  | tunnel (addr vlan udp : Nat) (payload : Bytes)
  /-- What a fabric request of the bridge came to for its requester: data of a read, the acknowledgement of a write, each
  with its poison, the result of an SC, the old value of an AMO, a retry asked for, and a store access fault (13 R318, R326,
  R327, R330). -/
  | fabricData (src : Source) (addr : Nat) (data : Bytes) (poison : Bool)
  | fabricAck (src : Source) (addr : Nat) (poison : Bool)
  | fabricSc (src : Source) (ok : Bool)
  | fabricAmo (src : Source) (old : Nat)
  | fabricRetry (src : Source) (addr : Nat)
  | fabricFault (src : Source) (addr : Nat)
  /-- An Ethernet frame sent on a port (14 R348, R353), and a gPTP message that firmware originates: Sync or Pdelay, on a
  port, of a domain (14 R346). -/
  | eth (port : Nat) (frame : Bytes)
  | gptpSync (domain port : Nat)
  | pdelay (port : Nat)
  /-- A UDP datagram sent: IPv6 destination, VLAN, UDP port and payload (14 R359, 15 R379, R392). -/
  | udp (addr vlan port : Nat) (payload : Bytes)
  /-- An attestation report sent to the source of its request (15 R392). -/
  | attestation (report : Bytes)
  /-- A recovery datagram sent by ROM: ANNOUNCE to the link, ACK or RESULT to the sender (15 R379). -/
  | recovery (payload : Bytes)
  /-- An interrupt of hart `hart`'s machine timer (17 R427). -/
  | mtip (hart : Nat)
  /-- Levels of the back-channel outputs of a camera receiver, and an I2C transaction begun on it (17 R430, R431). -/
  | gpio (receiver level : Nat)
  | i2c (receiver addr rlen : Nat) (write : Bytes)
  /-- The answer of the PCIe function to a configuration request: none for no response (12 R296); Configuration Request
  Retry Status (16 R408). -/
  | pcieAnswer (value : Option Nat)
  | pcieRetry
  deriving DecidableEq, Repr

/-- The state of the device. -/
structure State where
  /-- Register fields that differ from their Cold values, by field code (chapter 17 and the register tables). Each field's width, rule and reset value stand in RegMap.lean. -/
  regs : Sparse Nat
  time : TimeSt
  mem : MemState
  /-- Ring sets and tenancy, by VEF number; 128 is the Cantle's ring set. 06 R135, 10 R258; reset: VefRt at rest. -/
  vefs : Sparse VefRt
  /-- Submission rings, by VEF × 8 + ring. 06 R135; reset: at rest. -/
  rings : Sparse RingRt
  /-- Fetched commands not yet admitted, in queue order: the queue of a resource and class is the sublist that names them. 06 R148; reset: empty. -/
  queue : List (Res × Cmd)
  /-- Commands in flight, in order of admission. 02 R52, 06 R148; reset: empty. -/
  flight : List Job
  /-- The mode machine. -/
  mode : ModeSt
  /-- Power, clocks and units. -/
  power : PowerSt
  /-- The Valley. -/
  vly : ValleySt
  /-- The safety island. -/
  saf : SafSt
  /-- Sensor ingress and the fusion aligner. -/
  fus : FusionSt
  /-- The display engine. -/
  disp : DispSt
  /-- Self-test and repair. -/
  bist : BistSt
  /-- Boot, firmware and identity. -/
  fw : FwSt
  /-- The Pass. -/
  pass : PassSt
  /-- The gateway, the gPTP service, and the outer interfaces of chapter 17. -/
  gw : GwSt
  /-- Kills in progress of the render engine (0) and the projector (1): local time of the decision. 06 R153; reset: none. -/
  engKill : Sparse (Option Nat)
  /-- Commands fetched so far. 06 R148 (order of fetch); reset: 0. -/
  fetched : Nat
  /-- Fields, by ID 0–16. 02 Fields; reset: at rest. -/
  flds : Sparse FldRt
  /-- Loads waiting or in progress, in order of arrival. 04 R104; reset: none. -/
  loads : List Load
  /-- VEF_THAWs in progress. 12 R307; reset: none. -/
  thaws : List Thaw
  /-- Cells, by cell ID 0–2,367. 02 The cell; reset: at rest. -/
  cells : Sparse CellSt
  /-- MODEL's own counter: how many free values the machine has drawn. DESIGN CHOICE, no statement rests on it; reset: 0. -/
  freeCount : Nat
  /-- Words of the blocks whose layout a cited standard gives (IOMMU, APLIC, IMSIC, ECAM windows and the 802.1Q tables of the switch), by word address. 17 R418, R428, R429, 14 R350; reset: 0. -/
  std : Sparse Nat
  /-- Pending interrupt identities of the IMSIC files, by file address + identity. 17 R428; reset: none. -/
  imsic : Sparse Bool
  /-- Memory of the external host in endpoint mode, as the device reads it (MODEL's own view of the outside). 06 R135; reset: nothing listed. -/
  hostMem : List Host.Cell
  /-- Memory of the other devices on the Pass, as the device reads and writes it, by fabric address (MODEL's own view of the outside), and the poisoned 64-bit words of it. 05 R112, R115; reset: nothing listed. -/
  remoteMem : List Host.Cell
  remoteErr : Sparse Nat
  /-- What has left the device, newest first (MODEL's own trace of its outputs); reset: empty. -/
  out : List Out
  /-- Commands that are waiting, first in, first out (the block's input queue); reset: empty. -/
  pending : List Instr
  deriving DecidableEq, Repr

/-- Why the machine stops with a fault. No command of this block does: every row of the table leaves a next state
(00 R1–R13, 12 R302: violations are silent). The one constructor is raised by nobody, so it is safe. -/
inductive Fault where
  /-- Raised by no command: safe. -/
  | none
  deriving DecidableEq, Repr

/-- Why a command is turned away. -/
inductive Refusal where
  /-- The command has no meaning yet; raised by the dispatch only: safe. -/
  | notModelled (mnemonic : String)
  deriving DecidableEq, Repr

/-- What a step or a meaning answers. -/
abbrev Ans := Host.Outcome State Fault Refusal

/-- A field's runtime at rest. -/
def FldRt.rest : FldRt :=
  ⟨none, none, [], [], none, none, false, false, false, 0, 0, 2000, false, [], [], 0, false, false, false, 0⟩

/-- A cell at rest. -/
def CellSt.rest : CellSt :=
  ⟨false, 0, 0, 0, [], [], [], [], [], 0, [], [], [], [], 0, [], 0, 0, 0, [], [], [], false, []⟩

/-- An accounting accumulator opened at `t`. -/
def Acct.opened (t : Nat) : Acct := ⟨t, Usage.zero, 0, false, false, false⟩

/-- A ring set at rest. -/
def VefRt.rest : VefRt :=
  ⟨0, true, true, true, 0, 7, Acct.opened 0, false, [], [], none, Usage.zero, false, none, none, []⟩

/-- A submission ring at rest. -/
def RingRt.rest : RingRt := ⟨none, none⟩

/-! ## Reset (16 R404) -/

/-- Memories and keys after cold reset. -/
def MemState.cold : MemState := ⟨[], [], [], [], [], 0, none, [], [], [], [], [], [], []⟩

/-- The device after a cold reset of a cause that LAST_CAUSE names, with the contents of its flash: every register at its
Cold value, the boot sequence in progress (01 R14, R23), no time elapsed (14 R337). -/
def State.cold (cause : Nat) (flash : List Host.Cell) : State where
  regs := [(SYS_RST.LAST_CAUSE.code 0 0, cause)]
  time := ⟨[], [], []⟩
  mem := MemState.cold
  vefs := []
  rings := []
  queue := []
  flight := []
  mode := ModeSt.cold
  power := PowerSt.cold
  vly := ⟨[], [], []⟩
  saf := SafSt.cold
  fus := FusionSt.cold
  disp := ⟨[], []⟩
  bist := BistSt.cold
  fw := FwSt.cold flash
  pass := PassSt.cold
  gw := GwSt.cold
  engKill := []
  fetched := 0
  flds := []
  loads := []
  thaws := []
  cells := []
  freeCount := 0
  std := []
  imsic := []
  hostMem := []
  remoteMem := []
  remoteErr := []
  out := []
  pending := []

/-- The machine right after reset: POR_N rising (LAST_CAUSE 0b0001), with an erased flash. -/
def State.reset : State := State.cold 1 []

end Sys2Proof.Machine
end

