-- ==== Sys2Proof/Machine/Ops.lean ====
section
/-! DEFINITION. The named operations on registers, time, memory and address translation that every meaning is built
from. -/

namespace Sys2Proof.Machine

/-! ## Hidden state of a VEF -/

def State.vrt (s : State) (v : Nat) : VefRt := Sparse.look VefRt.rest s.vefs v
def State.setV (s : State) (v : Nat) (x : VefRt) : State := { s with vefs := Sparse.put VefRt.rest s.vefs v x }

/-- A use charged to VEF `v`'s open accounting window (06 R163). The Cantle's ring set has no account. -/
def State.charge (s : State) (v : Nat) (u : Usage) : State :=
  if v ≥ 128 then s
  else s.setV v { s.vrt v with acct := { (s.vrt v).acct with use := (s.vrt v).acct.use.plus u } }

/-! ## Register fields -/

/-- The value of a register field. -/
def State.rd (s : State) (f : Fld) (i : Nat := 0) (j : Nat := 0) : Nat := Sparse.look (f.coldVal i) s.regs (f.code i j)

/-- The state with a register field set, cut to the field's width. -/
def State.wr (s : State) (f : Fld) (v : Nat) (i : Nat := 0) (j : Nat := 0) : State :=
  { s with regs := Sparse.put (f.coldVal i) s.regs (f.code i j) (v % 2 ^ f.w) }

/-- A field as a flag. -/
def State.flag (s : State) (f : Fld) (i : Nat := 0) (j : Nat := 0) : Bool := s.rd f i j != 0

/-- A counter field counted up by `n`, saturating at its maximum. -/
def State.add (s : State) (f : Fld) (n : Nat) (i : Nat := 0) (j : Nat := 0) : State :=
  s.wr f (min (s.rd f i j + n) (2 ^ f.w - 1)) i j

/-- A counter field counted up by one, saturating at its maximum. -/
def State.inc (s : State) (f : Fld) (i : Nat := 0) (j : Nat := 0) : State := s.add f 1 i j

/-- A field counted up by one, modulo its width. -/
def State.incWrap (s : State) (f : Fld) (i : Nat := 0) (j : Nat := 0) : State := s.wr f (s.rd f i j + 1) i j

/-- A field returned to its Cold value. -/
def State.toCold (s : State) (f : Fld) (i : Nat := 0) (j : Nat := 0) : State := s.wr f (f.coldVal i) i j

/-- Every field of one register returned to its Cold value. -/
def State.regToCold (s : State) (r : RegName) (i : Nat := 0) (j : Nat := 0) : State :=
  r.flds.foldl (fun s f => s.toCold f i j) s

/-- `f` applied for each index below `n`, in rising order. -/
def State.each (s : State) (n : Nat) (f : Nat → State → State) : State :=
  (List.range n).foldl (fun s i => f i s) s

/-! ## Requesters (12 R295) -/

/-- The identity of an access: `space` is true for register space, false for a doorbell page. PCIe functions exist in
endpoint mode, and a VF only as far as NumVFs and VF Enable reach (12 R296). -/
def State.requester (s : State) (src : Source) (space : Bool) : Requester :=
  match src with
  | .mgmt => .firmware
  | .cantle => .cantle
  | .host h virt =>
    if !virt then .hypervisor
    else if s.flag VEF_HART.VALID h.val then .vef (s.rd VEF_HART.VEF h.val) else .nobody
  | .pciePF => if !s.flag SYS_STRAP.PCIE_MODE then .nobody else if space then .hypervisor else .vef 0
  | .pcieVF i =>
    if s.flag SYS_STRAP.PCIE_MODE && s.gw.vfEnable && decide (1 ≤ i.val ∧ i.val ≤ s.gw.numVfs) then .vef i.val else .nobody

/-- The identity of a requester of a register. -/
def State.who (s : State) (src : Source) : Requester := s.requester src true

/-- Firmware or the hypervisor. -/
def Requester.fwHyp : Requester → Bool
  | .firmware | .hypervisor => true
  | _ => false

/-- A refused access: a VEF's counts in VEF_VIOL.REG, any other requester's in SYS_ACC.DENIED, with the slot of the
address (17 R422); an access with no identity reads zero and is ignored (12 R295). -/
def State.denied (s : State) (who : Requester) (addr : Nat) : State :=
  match who with
  | .vef v => s.inc VEF_VIOL.REG v
  | .nobody => s
  | _ => (s.inc SYS_ACC.DENIED).wr SYS_ACC.LAST_SLOT (bits addr 20 8)

/-! ## Time (14 R337–R345) -/

/-- Units of a base's accumulator in one nanosecond. -/
def nsUnit : Nat := 2 ^ 39

/-- A base in nanosecond form: seconds × 10^9 + nanoseconds modulo 2^64 (14 R339). -/
@[irreducible] def State.ns (s : State) (base : Nat) : Nat := Sparse.look 0 s.time.acc base / nsUnit % 2 ^ 64

/-- Vehicle time, sensor time, depot time and local monotonic time in nanosecond form. -/
def State.vehicleNs (s : State) : Nat := s.ns 0
def State.sensorNs (s : State) : Nat := s.ns 1
def State.depotNs (s : State) : Nat := s.ns 2
def State.localNs (s : State) : Nat := s.ns 3

/-- The 96-bit value of a base: fraction [15:0], nanoseconds [47:16], seconds [95:48] (14 R337). -/
@[irreducible] def State.baseValue (s : State) (base : Nat) : Nat :=
  let a := Sparse.look 0 s.time.acc base
  let t := a / nsUnit
  (t / 10 ^ 9 % 2 ^ 48) * 2 ^ 48 + (t % 10 ^ 9) * 2 ^ 16 + a / 2 ^ 23 % 2 ^ 16

/-- `now` is less than `gap` after `t`. It stays folded: a proof must not unfold a large number beside a variable. -/
@[irreducible] def within (t gap now : Nat) : Bool := decide (now < t + gap)

/-- The nanosecond interval `lo ≤ t < hi` of the boundary rule (14 R344). -/
def inWindow (lo t hi : Nat) : Bool := lo ≤ t && t < hi

/-! ## Free values and outputs -/

/-- A state in which one more free value has been drawn. -/
def State.drawn (s : State) : State := { s with freeCount := s.freeCount + 1 }

/-- Something leaves the device. -/
def State.emit (s : State) (o : Out) : State := { s with out := o :: s.out }

/-- An interrupt write: bits [1:0] of the address are ignored (06 R138); a write to an IMSIC interrupt file sets the
identity it names pending (17 R428). -/
def State.irq (s : State) (addr data : Nat) : State :=
  let a := addr / 4 * 4
  let s := s.emit (.irq a data)
  let machine := decide (0xF001800000 ≤ a ∧ a < 0xF001810000)
  let super := decide (0xF001900000 ≤ a ∧ a < 0xF001980000)
  if (machine || super) && a % 0x1000 == 0 && decide (1 ≤ data ∧ data ≤ 255) then
    { s with imsic := Sparse.put false s.imsic (a + data) true }
  else s

/-! ## HBM: placement, keys and bytes (05 R110–R119) -/

/-- Bytes in a pseudo-channel. -/
def pcBytes : Nat := 768 * 2 ^ 20

/-- The in-service pseudo-channels in ascending order (05 R113). -/
def State.pcs (s : State) : List Nat := (List.range 64).filter (fun p => (s.rd MEM_PC_IN_SVC.IN_SVC).testBit p)

/-- Bytes of a region unit: n × 64 KiB (05 R113). -/
def State.ru (s : State) : Nat := s.pcs.length * 65536

/-- The usable capacity of HBM (05 R113). -/
def State.hbmCap (s : State) : Nat := s.pcs.length * pcBytes

/-- An entry of MEM_RGN is valid (05 R130). -/
def State.rgnValid (s : State) (r : Nat) : Bool :=
  s.flag MEM_RGN.VALID r && decide (s.rd MEM_RGN.BASE_RU r < s.rd MEM_RGN.LIMIT_RU r)
    && decide (s.rd MEM_RGN.LIMIT_RU r ≤ 12288) && decide (s.rd MEM_RGN.KEY r ≤ 0x81)

/-- First and last-plus-one address of a region entry. -/
def State.rgnBase (s : State) (r : Nat) : Nat := s.rd MEM_RGN.BASE_RU r * s.ru
def State.rgnEnd (s : State) (r : Nat) : Nat := s.rd MEM_RGN.LIMIT_RU r * s.ru

/-- The lowest-numbered valid region entry that holds an address (05 R113). -/
def State.rgnOf (s : State) (a : Nat) : Option Nat :=
  (List.range 256).find? (fun r => s.rgnValid r && decide (s.rgnBase r ≤ a) && decide (a < s.rgnEnd r))

/-- An address lies in the usable HBM. -/
def State.inHbm (s : State) (a : Nat) : Bool := decide (a < s.hbmCap)

/-- Where a byte of HBM is stored: pseudo-channel × 768 MiB + offset (05 R113). -/
def State.place (s : State) (a : Nat) : Nat :=
  let r := s.rgnOf a
  let n := s.pcs.length
  let b := match r with
    | some r => s.rgnBase r
    | none => 0
  let g := match r with
    | some r => if s.flag MEM_RGN.GRAN r then 4096 else 256
    | none => 256
  let o := a - b
  let q := o / g
  s.pcs.getD (q % n) 0 * pcBytes + (b / n + q / n * g + o % g)

/-- The key selector of an address: its region's KEY, or the device key (05 R117). -/
def State.keySel (s : State) (a : Nat) : Nat :=
  match s.rgnOf a with
  | some r => s.rd MEM_RGN.KEY r
  | none => 0x80

/-- The newest mark on an address whose data has become undefined, 0 for none (05 R119). -/
def State.markAt (s : State) (a : Nat) : Nat :=
  match s.mem.marks.find? (fun m => decide (m.1 ≤ a) && decide (a < m.2.1)) with
  | some m => m.2.2
  | none => 0

/-- The serial number of the key in force at an address, 0 where the slot holds none. A newer mark stands for it: what was
written before it reads as under another key. -/
def State.keyAt (s : State) (a : Nat) : Nat :=
  let k := Sparse.look 0 s.mem.keys (s.keySel a)
  if k = 0 then 0 else max k (s.markAt a)

/-- A byte of HBM as its reader sees it: zero outside HBM (05 R111) and under a slot that holds no key (05 R118);
the byte written, where key and tweak are those of the write; otherwise a free value (05 R117). -/
def State.byteAt (s : State) (a : Nat) : Byte :=
  if s.inHbm a && s.keyAt a != 0 then
    let p := s.place a
    let t := Sparse.look ⟨0, 0⟩ s.mem.tags (p / 64)
    let b := Sparse.look 0 s.mem.hbm p
    if (t.key = 0 ∧ s.markAt a = 0) ∨ (t.key = s.keyAt a ∧ t.line = a / 64) then b
    else Config.garbled (s.keyAt a) (a / 64) t.key t.line p b
  else 0

/-- `n` bytes of HBM from a local physical address up. -/
def State.memRead (s : State) (a n : Nat) : Bytes := (List.range n).map (fun i => s.byteAt (a + i))

/-- A little-endian number of `n` bytes in HBM. -/
def State.memNum (s : State) (a n : Nat) : Nat := leNat (s.memRead a n)

/-- The line that holds an address re-encrypted under the key and tweak in force (05 R117: a partial write is a
read-modify-write of its line). -/
def State.rekeyLine (s : State) (a : Nat) : State :=
  let p := s.place a / 64
  let t := Sparse.look ⟨0, 0⟩ s.mem.tags p
  if t.key = s.keyAt a ∧ t.line = a / 64 then s
  else
    let old := s.memRead (a / 64 * 64) 64
    { s with mem := { s.mem with hbm := Sparse.putBytes 0 s.mem.hbm (p * 64) old,
                                 tags := Sparse.put ⟨0, 0⟩ s.mem.tags p ⟨s.keyAt a, a / 64⟩ } }

/-- One byte written to HBM; ignored outside HBM (05 R111) and under a slot that holds no key (05 R118). -/
def State.putByte (s : State) (a : Nat) (b : Byte) : State :=
  if s.inHbm a && s.keyAt a != 0 then
    let s := s.rekeyLine a
    { s with mem := { s.mem with hbm := Sparse.put 0 s.mem.hbm (s.place a) b } }
  else s

/-- Bytes written to HBM from a local physical address up, byte by byte. -/
def State.putBytes (s : State) (a : Nat) : Bytes → State
  | [] => s
  | b :: r => (s.putByte a b).putBytes (a + 1) r

/-- A write to an address of HBM is carried out: the address is usable and its selector holds a key (05 R111, R118). -/
def State.takes (s : State) (a : Nat) : Bool := s.inHbm a && s.keyAt a != 0

/-- Errors of the 64-bit words that a write of `n` bytes at `a` covers whole are gone: their ECC is new (05 R115). -/
def State.healWords (s : State) (a n : Nat) : State :=
  (List.range (n / 8 + 1)).foldl (fun s k =>
    let w := (a + 7) / 8 * 8 + k * 8
    if w + 8 ≤ a + n ∧ s.takes w then
      { s with mem := { s.mem with hbmErr := Sparse.put 0 s.mem.hbmErr (s.place w / 8) 0 } }
    else s) s

/-- An address lies in one of the ranges of the local address map: usable HBM, the pocket and cluster SRAM windows,
register space and the doorbell pages (05 R111). -/
def State.inMap (s : State) (a : Nat) : Bool :=
  s.inHbm a || decide (0xE000000000 ≤ a ∧ a < 0xE012000000) || decide (0xE100000000 ≤ a ∧ a < 0xE104800000) ||
    decide (0xF000000000 ≤ a ∧ a < 0xF010000000) || decide (0xF100000000 ≤ a ∧ a < 0xF100080000)

/-- An access of `n` bytes at local physical address `a` that leaves the map counts in MEM_STAT.OOR (05 R111). -/
def State.noteOut (s : State) (a n : Nat) : State :=
  if n == 0 || (s.inMap a && s.inMap (a + n - 1)) then s else s.inc MEM_STAT.OOR

/-- Bytes written to HBM by an engine at a local physical address. -/
def State.memWrite (s : State) (a : Nat) (bs : Bytes) : State :=
  ((s.noteOut a bs.length).putBytes a bs).healWords a bs.length

/-- The address whose byte is stored at a place: under each region entry and the default one in turn, the first that places
there (05 R113). -/
def State.unplace (s : State) (p : Nat) : Option Nat :=
  let n := s.pcs.length
  let i := (s.pcs.findIdx? (fun c => c == p / pcBytes)).getD 0
  let at_ (b g : Nat) : Nat := b + ((p % pcBytes - b / n) / g * n + i) * g + (p % pcBytes - b / n) % g
  (((List.range 256).filter s.rgnValid).map (fun r => at_ (s.rgnBase r) (if s.flag MEM_RGN.GRAN r then 4096 else 256)) ++
    [at_ 0 256]).find? (fun a => s.place a == p)

/-- `n` bytes of HBM zeroed from an address up, a whole number of lines: they read as memory that nothing has written. -/
def State.zeroHbm (s : State) (a n : Nat) : State :=
  let hit (p : Nat) : Bool := (s.unplace p).any (fun x => decide (a ≤ x) && decide (x < a + n) && s.takes x)
  { s with mem := { s.mem with hbm := s.mem.hbm.filter (fun e => !hit e.1), tags := s.mem.tags.filter (fun e => !hit (e.1 * 64)),
                               hbmErr := s.mem.hbmErr.filter (fun e => !hit (e.1 * 8)) } }

/-- The data of a range made undefined (05 R119). -/
def State.markUndefined (s : State) (lo hi : Nat) : State :=
  { s with mem := { s.mem with marks := (lo, hi, s.mem.keySerial + 1) :: s.mem.marks, keySerial := s.mem.keySerial + 1 } }

/-- Traffic is in flight: a command, a load, a transfer of a cluster mover or a request of the bridge. It stands for traffic
to any range. -/
def State.traffic (s : State) : Bool :=
  !s.flight.isEmpty || !s.loads.isEmpty || s.flds.any (fun x => !x.2.moves.isEmpty) || !s.pass.reqs.isEmpty

/-- The worst error standing in the HBM words of a range: 0 none, 1 single-bit, 2 double-bit. -/
def State.hbmWorst (s : State) (a n : Nat) : Nat :=
  ((List.range n).map (fun i => if s.inHbm (a + i) then Sparse.look 0 s.mem.hbmErr (s.place (a + i) / 8) else 0)).foldl max 0

/-- A word of HBM read with a single-bit error is corrected, written back and counted; with a double-bit error it is
counted and its pseudo-channel recorded (05 R115). `w` is a storage word. -/
def State.readWordErr (s : State) (w : Nat) : State :=
  match Sparse.look 0 s.mem.hbmErr w with
  | 0 => s
  | 1 => { s.inc MEM_ECC.CE with mem := { (s.inc MEM_ECC.CE).mem with hbmErr := Sparse.put 0 s.mem.hbmErr w 0 } }
  | _ => (s.inc MEM_ECC.DED).wr MEM_ECC.LAST_PC (w * 8 / pcBytes)

/-- The errors of every 64-bit word of a range handled as the range is read. -/
def State.readErrs (s : State) (a n : Nat) : State :=
  (List.range (n / 8 + 2)).foldl (fun s k =>
    let w := a / 8 * 8 + k * 8
    if w < a + n ∧ s.inHbm w then s.readWordErr (s.place w / 8) else s) s

/-- The words that hold the bytes of a list marked poisoned, where the write to them is carried out (05 R115: a poisoned word
is stored with an uncorrectable syndrome). -/
def State.poisonAt (s : State) (as : List Nat) : State :=
  as.foldl (fun s a =>
    if s.takes a then { s with mem := { s.mem with hbmErr := Sparse.put 0 s.mem.hbmErr (s.place a / 8) 2 } } else s) s

/-! ## The IOMMU and the region check (17 R428, 12 R301, R302) -/

/-- A 32-bit word of a block whose layout a cited standard gives. -/
def State.stdWord (s : State) (addr : Nat) : Nat := Sparse.look 0 s.std (addr / 4)

/-- A 64-bit word of such a block. -/
def State.stdDword (s : State) (addr : Nat) : Nat := s.stdWord addr + 2 ^ 32 * s.stdWord (addr + 4)

/-- Base of the IOMMU block (17 R418). -/
def iommuBase : Nat := 0xF001600000

/-- A 64-bit word of memory as the IOMMU reads it. -/
def State.dword (s : State) (a : Nat) : Nat := s.memNum a 8

/-- A page-table walk of the RISC-V privileged architecture: `lvls` levels left below the table at `root`, the index
of the top level `extra` bits wider; `xl` maps the guest addresses of the tables themselves. Answers the address
mapped and whether a write is allowed. -/
def State.walk (s : State) (xl : Nat → Option Nat) (va : Nat) (user : Bool) : Nat → Nat → Nat → Option (Nat × Bool)
  | 0, _, _ => none
  | l + 1, extra, root =>
    let idx := bits va (12 + 9 * l) (9 + extra)
    match xl (root + idx * 8) with
    | none => none
    | some pa =>
      let pte := s.dword pa
      let v := pte.testBit 0
      let r := pte.testBit 1
      let w := pte.testBit 2
      let x := pte.testBit 3
      let ppn := bits pte 10 44
      if !v || (w && !r) then none
      else if r || x then
        if !r || (user && !pte.testBit 4) || !pte.testBit 6 || ppn % 2 ^ (9 * l) != 0 then none
        else some (ppn * 4096 + va % 2 ^ (12 + 9 * l), w && pte.testBit 7)
      else s.walk xl va user l 0 (ppn * 4096)

/-- Second-stage translation with an iohgatp value (Bare, Sv39x4 or Sv48x4). -/
def State.gStage (s : State) (iohgatp : Nat) (ga : Nat) : Option (Nat × Bool) :=
  let root := bits iohgatp 0 44 * 4096
  match bits iohgatp 60 4 with
  | 0 => some (ga, true)
  | 8 => if ga < 2 ^ 41 then s.walk some ga true 3 2 root else none
  | 9 => if ga < 2 ^ 50 then s.walk some ga true 4 2 root else none
  | _ => none

/-- Second-stage translation of the address of a first-stage table. -/
def State.gAddr (s : State) (iohgatp : Nat) (ga : Nat) : Option Nat := (s.gStage iohgatp ga).map (·.1)

/-- First-stage translation with an fsc value (Bare, Sv39 or Sv48), followed by the second stage. -/
def State.twoStage (s : State) (fsc iohgatp iova : Nat) (write : Bool) : Option Nat :=
  let root := bits fsc 0 44 * 4096
  let first : Option (Nat × Bool) := match bits fsc 60 4 with
    | 0 => some (iova, true)
    | 8 => if iova < 2 ^ 38 then s.walk (s.gAddr iohgatp) iova true 3 0 root else none
    | 9 => if iova < 2 ^ 47 then s.walk (s.gAddr iohgatp) iova true 4 0 root else none
    | _ => none
  match first with
  | none => none
  | some (ga, w1) =>
    if write && !w1 then none
    else match s.gStage iohgatp ga with
      | none => none
      | some (pa, w2) => if write && !w2 then none else some pa

/-- A non-leaf table entry: the address of the next table, where the entry is valid. -/
def State.tableStep (s : State) (a : Nat) : Option Nat :=
  let e := s.dword a
  if e.testBit 0 then some (bits e 10 44 * 4096) else none

/-- The device context of a device ID: its address, through a directory of one to three levels of extended-format
contexts (DDTP modes 2 to 4). -/
def State.deviceCtx (s : State) (dev : Nat) : Option Nat :=
  let ddtp := s.stdDword (iommuBase + 0x10)
  let root := bits ddtp 10 44 * 4096
  let leaf (t : Nat) : Option Nat :=
    let a := t + bits dev 0 6 * 64
    if (s.dword a).testBit 0 then some a else none
  match bits ddtp 0 4 with
  | 2 => if dev < 2 ^ 6 then leaf root else none
  | 3 => if dev < 2 ^ 15 then (s.tableStep (root + bits dev 6 9 * 8)).bind leaf else none
  | 4 => ((s.tableStep (root + bits dev 15 9 * 8)).bind (fun t => s.tableStep (t + bits dev 6 9 * 8))).bind leaf
  | _ => none

/-- The first-stage context of a process ID in a process directory (pdtp modes 1 to 3). -/
def State.processFsc (s : State) (pdtp iohgatp pid : Nat) : Option Nat :=
  let root := bits pdtp 0 44 * 4096
  let next (t i : Nat) : Option Nat := (s.gAddr iohgatp (t + i * 8)).bind s.tableStep
  let leaf (t : Nat) : Option Nat :=
    (s.gAddr iohgatp (t + bits pid 0 8 * 16)).bind (fun a => if (s.dword a).testBit 0 then some (s.dword (a + 8)) else none)
  match bits pdtp 60 4 with
  | 1 => if pid < 2 ^ 8 then leaf root else none
  | 2 => if pid < 2 ^ 17 then (next root (bits pid 8 9)).bind leaf else none
  | 3 => ((next root (bits pid 17 3)).bind (fun t => next t (bits pid 8 9))).bind leaf
  | _ => none

/-- Translation of an IOVA with a device ID and, where given, a process ID (17 R428). -/
def State.iommu (s : State) (dev : Nat) (pid : Option Nat) (iova : Nat) (write : Bool) : Option Nat :=
  match bits (s.stdDword (iommuBase + 0x10)) 0 4 with
  | 0 => none
  | 1 => some iova
  | _ => match s.deviceCtx dev with
    | none => none
    | some dc =>
      let tc := s.dword dc
      let iohgatp := s.dword (dc + 8)
      let fsc := s.dword (dc + 24)
      if tc.testBit 5 then
        match pid with
        | some p => (s.processFsc fsc iohgatp p).bind (fun f => s.twoStage f iohgatp iova write)
        | none => s.twoStage 0 iohgatp iova write
      else match pid with
        | some _ => none
        | none => s.twoStage fsc iohgatp iova write

/-- In whose name an access is made: firmware's and the Cantle's use local physical addresses; a VEF's is translated
with its STREAM_ID and, where it has one, its ASID (12 R301, 06 R135). -/
inductive Ctx where
  | phys
  | vef (v stream : Nat) (asid : Option Nat)
  | hyp (stream : Nat) (asid : Option Nat)
  deriving DecidableEq, Repr

/-- The resident driving region, the DRIVE working region and the depot region are region entries 253 to 255
(05 R130). -/
def rgnResident : Nat := 253
def rgnWorking : Nat := 254
def rgnDepot : Nat := 255

/-- The region check of R301 for VEF `v`. -/
def State.regionOk (s : State) (v a : Nat) : Bool :=
  s.inHbm a && match s.rgnOf a with
    | none => false
    | some r =>
      s.rd MEM_RGN.KEY r == v ||
        (s.rd MEM_RGN.KEY r == 0x80 && !s.flag VEF_CTL.TENANT v && r != rgnResident && r != rgnDepot)

/-- Why a byte of an access is refused. -/
inductive Deny where
  | iommu
  | region
  deriving DecidableEq, Repr

/-- The local physical address of a byte of an access, or why it has none (12 R301). -/
def State.xlate (s : State) (c : Ctx) (a : Nat) (write : Bool) : Except Deny Nat :=
  match c with
  | .phys => .ok a
  | .hyp stream asid => match s.iommu stream asid a write with
    | none => .error .iommu
    | some p => .ok p
  | .vef v stream asid => match s.iommu stream asid a write with
    | none => .error .iommu
    | some p => if s.regionOk v p then .ok p else .error .region

/-- A byte as the requester of a context reads it: zero where the access is refused (12 R302). -/
def State.readVia (s : State) (c : Ctx) (a : Nat) : Byte :=
  match s.xlate c a false with
  | .ok p => s.byteAt p
  | .error _ => 0

/-- `n` bytes read in a context. -/
def State.ctxRead (s : State) (c : Ctx) (a n : Nat) : Bytes := (List.range n).map (fun i => s.readVia c (a + i))

/-- The first reason for which a byte of an access is refused. -/
def State.ctxDeny (s : State) (c : Ctx) (a n : Nat) (write : Bool) : Option Deny :=
  (List.range n).findSome? (fun i => match s.xlate c (a + i) write with
    | .ok _ => none
    | .error d => some d)

/-- The IOMMU's record of a refused access in the hypervisor's fault queue (12 R302; layout of the RISC-V IOMMU
specification): written where the queue is on and has room. -/
def State.iommuFault (s : State) (dev : Nat) (pid : Option Nat) (iova : Nat) (write : Bool) : State :=
  let fqb := s.stdDword (iommuBase + 0x28)
  let head := s.stdWord (iommuBase + 0x30)
  let tail := s.stdWord (iommuBase + 0x34)
  let n := 2 ^ (bits fqb 0 5 + 1)
  let csr := s.stdWord (iommuBase + 0x4C)
  if !csr.testBit 16 then s
  else if (tail + 1) % n == head % n then
    { s with std := Sparse.put 0 s.std ((iommuBase + 0x4C) / 4) (setBit csr 9) }
  else
    let cause := if write then 15 else 13
    let w0 := cause + (match pid with
      | some p => p * 2 ^ 12 + 2 ^ 32
      | none => 0) + (if write then 3 else 2) * 2 ^ 34 + dev * 2 ^ 40
    let s := s.memWrite (bits fqb 10 44 * 4096 + tail * 32) (leBytes 8 w0 ++ leBytes 8 0 ++ leBytes 8 iova ++ leBytes 8 0)
    { s with std := Sparse.put 0 s.std ((iommuBase + 0x34) / 4) ((tail + 1) % n) }

/-- What a refused access counts (12 R302): IOMMU or REGION of the VEF's VEF_VIOL, and the IOMMU's own record. -/
def State.noteDeny (s : State) (c : Ctx) (a : Nat) (write : Bool) : Option Deny → State
  | none => s
  | some d => match c, d with
    | .phys, _ => s
    | .hyp st p, _ => s.iommuFault st p a write
    | .vef v st p, .iommu => (s.inc VEF_VIOL.IOMMU v).iommuFault st p a write
    | .vef v _ _, .region => s.inc VEF_VIOL.REGION v

/-- The lines of an access that reach HBM: of `n` bytes at `a`, the first byte of the access in each 64-byte line. -/
def State.hbmLines (s : State) (c : Ctx) (a n : Nat) (write : Bool) : List Nat :=
  ((List.range (n / 64 + 2)).map (fun k => max a (a / 64 * 64 + k * 64))).filter (fun w =>
    decide (w < a + n) && match s.xlate c w write with
      | .ok p => s.inHbm p
      | .error _ => false)

/-- What an access moves at the HBM controllers (06 R163): whole lines, and a partial write one line each way. -/
def State.hbmUse (s : State) (c : Ctx) (a n : Nat) (write : Bool) : Usage :=
  let ls := s.hbmLines c a n write
  let part := ls.filter (fun w => !(w % 64 == 0 && decide (w + 64 ≤ a + n)))
  if write then { Usage.zero with hbmRd := part.length * 64, hbmWr := ls.length * 64 }
  else { Usage.zero with hbmRd := ls.length * 64 }

/-- What an access counts beside its data: a refusal (12 R302), an access outside the local map (05 R111), and the bytes
moved on a VEF's behalf (06 R163). -/
def State.noteAccess (s : State) (c : Ctx) (a n : Nat) (write : Bool) : State :=
  match c with
  | .phys => s.noteOut a n
  | .vef v _ _ => (s.noteDeny c a write (s.ctxDeny c a n write)).charge v (s.hbmUse c a n write)
  | .hyp _ _ =>
    let s := s.noteDeny c a write (s.ctxDeny c a n write)
    let out := (List.range n).any (fun i => match s.xlate c (a + i) write with
      | .ok p => !s.inMap p
      | .error _ => false)
    if out then s.inc MEM_STAT.OOR else s

/-- The effects of a read access beside its data: what it counts, and the errors of the words read are handled. -/
def State.ctxTouch (s : State) (c : Ctx) (a n : Nat) : State :=
  let s := s.noteAccess c a n false
  (List.range (n / 8 + 2)).foldl (fun s k =>
    let w := a / 8 * 8 + k * 8
    if w < a + n then
      match s.xlate c (max w a) false with
      | .ok p => if s.inHbm p then s.readWordErr (s.place p / 8) else s
      | .error _ => s
    else s) s

/-- The error standing in the word that holds a byte as a context reads it. -/
def State.ctxErr (s : State) (c : Ctx) (a : Nat) : Nat :=
  match s.xlate c a false with
  | .ok p => if s.inHbm p then Sparse.look 0 s.mem.hbmErr (s.place p / 8) else 0
  | .error _ => 0

/-- The worst error that a read access in a context meets: 2 where a word is poisoned. -/
def State.ctxWorst (s : State) (c : Ctx) (a n : Nat) : Nat := ((List.range n).map (fun i => s.ctxErr c (a + i))).foldl max 0

/-- The byte offsets of a read access in a context whose word is poisoned (05 R115). -/
def State.ctxBad (s : State) (c : Ctx) (a n : Nat) : List Nat := (List.range n).filter (fun i => s.ctxErr c (a + i) == 2)

/-- Bytes written one by one in a context; refused bytes are discarded silently (12 R302). -/
def State.ctxPut (s : State) (c : Ctx) (a : Nat) : Bytes → State
  | [] => s
  | b :: r =>
    let s := match s.xlate c a true with
      | .ok p => s.putByte p b
      | .error _ => s
    s.ctxPut c (a + 1) r

/-- Bytes written in a context: refusals count once for the access (17 R422, 12 R302); the errors of words written
whole are gone. -/
def State.ctxWrite (s : State) (c : Ctx) (a : Nat) (bs : Bytes) : State :=
  let s := s.noteAccess c a bs.length true
  let t := s.ctxPut c a bs
  (List.range (bs.length / 8 + 1)).foldl (fun t k =>
    let w := (a + 7) / 8 * 8 + k * 8
    if w + 8 ≤ a + bs.length then
      match t.xlate c w true with
      | .ok p => if t.takes p then { t with mem := { t.mem with hbmErr := Sparse.put 0 t.mem.hbmErr (t.place p / 8) 0 } } else t
      | .error _ => t
    else t) t

/-- A range lies wholly inside a region entry. -/
def State.inRegion (s : State) (r a n : Nat) : Bool :=
  s.rgnValid r && decide (s.rgnBase r ≤ a) && decide (a + n ≤ s.rgnEnd r)

end Sys2Proof.Machine
end

