-- ==== Sys2Proof/Machine/RingOps.lean ====
section
/-! DEFINITION. The shared operations of the ring sets (chapter 6): ring memory, completion, event and accounting
records, the queues of the engine resources and the commands in flight. -/

namespace Sys2Proof.Machine

/-- The number that names the Cantle's ring set beside the 128 VEFs (10 R258). -/
def cantleSet : Nat := 128

/-! ## Hidden state of rings, fields and cells -/

def State.ringRt (s : State) (v r : Nat) : RingRt := Sparse.look RingRt.rest s.rings (v * 8 + r)
def State.setRing (s : State) (v r : Nat) (x : RingRt) : State :=
  { s with rings := Sparse.put RingRt.rest s.rings (v * 8 + r) x }
def State.frt (s : State) (f : Nat) : FldRt := Sparse.look FldRt.rest s.flds f
def State.setF (s : State) (f : Nat) (x : FldRt) : State := { s with flds := Sparse.put FldRt.rest s.flds f x }
def State.cell (s : State) (c : Nat) : CellSt := Sparse.look CellSt.rest s.cells c
def State.setCell (s : State) (c : Nat) (x : CellSt) : State := { s with cells := Sparse.put CellSt.rest s.cells c x }

/-! ## Fields of a descriptor (06 R143, R145) -/

def Cmd.opcode (c : Cmd) : Nat := Bytes.num c.desc 0 1
def Cmd.flags (c : Cmd) : Nat := Bytes.num c.desc 1 1
def Cmd.irq (c : Cmd) : Bool := c.flags.testBit 0
def Cmd.wait (c : Cmd) : Bool := c.flags.testBit 1
def Cmd.srcFabric (c : Cmd) : Bool := c.flags.testBit 2
def Cmd.dstFabric (c : Cmd) : Bool := c.flags.testBit 3
def Cmd.asid (c : Cmd) : Nat := Bytes.num c.desc 4 4 % 2 ^ 20
def Cmd.stream (c : Cmd) : Nat := Bytes.num c.desc 8 4 % 2 ^ 24
def Cmd.tag (c : Cmd) : Nat := Bytes.num c.desc 0x10 8
/-- An operand of `n` bytes at a descriptor offset. -/
def Cmd.op (c : Cmd) (o n : Nat) : Nat := Bytes.num c.desc o n

/-- In whose name a command's own accesses are made (06 R143, 10 R258). -/
def Cmd.ctx (c : Cmd) : Ctx := if c.vef = cantleSet then .phys else .vef c.vef c.stream (some c.asid)

/-- Context of a VEF's completion and event records: its STREAM_ID and no process ID (06 R135). -/
def State.devCtx (s : State) (v : Nat) : Ctx :=
  if v = cantleSet then .phys else .vef v (s.rd RING_VEF_CFG.STREAM_ID v) none

/-- Context of a submission ring's descriptor fetches (06 R135). -/
def State.sqCtx (s : State) (v r : Nat) : Ctx :=
  if v = cantleSet then .phys else .vef v (s.rd RING_VEF_CFG.STREAM_ID v) (some (s.rd RING_VEF_ASID.ASID v r))

/-! ## Ring memory: an IOVA or a host bus address (06 R135) -/

/-- Context of the hypervisor's accounting rings: its address space, under a device ID that the manual does not name
(06 R135, R140, 17 R428). -/
def hypCtx : Ctx := .hyp Config.hypStream none

/-- Bytes over PCIe charged to the VEF in whose name they move (06 R163). -/
def State.chargePcie (s : State) (c : Ctx) (n : Nat) : State :=
  match c with
  | .vef v _ _ => s.charge v { Usage.zero with pcie := n }
  | _ => s

/-- Bytes written to ring memory. -/
def State.ringWrite (s : State) (host : Bool) (c : Ctx) (a : Nat) (bs : Bytes) : State :=
  if host then
    let s := s.chargePcie c bs.length
    { s.emit (.hostWrite a bs) with hostMem := Sparse.putBytes 0 s.hostMem a bs }
  else s.ctxWrite c a bs

/-- Bytes read from ring memory. -/
def State.ringRead (s : State) (host : Bool) (c : Ctx) (a n : Nat) : Bytes :=
  if host then Sparse.bytes 0 s.hostMem a n else s.ctxRead c a n

/-- The effects of a ring-memory read beside its data. -/
def State.ringTouch (s : State) (host : Bool) (c : Ctx) (a n : Nat) : State :=
  if host then s.chargePcie c n else s.ctxTouch c a n

/-- A record written to ring memory: every aligned word that does not hold PHASE, in rising order, and after them, in one
write of its own, the word `w` that does (06 R159). -/
def State.ringRecord (s : State) (host : Bool) (c : Ctx) (a : Nat) (bs : Bytes) (w : Nat) : State :=
  let word (s : State) (k : Nat) : State := s.ringWrite host c (a + k * 8) (Bytes.sub bs (k * 8) 8)
  word (((List.range (bs.length / 8)).filter (· != w)).foldl word s) w

/-! ## Commands that are not completed -/

/-- Every command fetched and not completed: queued, in flight, loading, pending on a head, freezing or thawing. -/
def State.live (s : State) : List Cmd :=
  s.queue.map (·.2) ++ s.flight.map (·.cmd) ++ s.loads.filterMap (·.cmd) ++ s.disp.pend.map (·.cmd) ++
    s.vefs.filterMap (fun x => x.2.freeze.bind (·.cmd)) ++ s.thaws.map (·.cmd) ++ s.flds.flatMap (fun x => x.2.releases)

/-- SQ_CFG.IDLE of a ring: 1 when no command fetched from it is uncompleted (06 R137). -/
def State.refreshIdle (s : State) (v r : Nat) : State :=
  s.wr SQ_CFG.IDLE (b2n !(s.live.any (fun c => c.vef == v && c.ring == r))) v r

/-! ## Records -/

/-- Firmware has halted, or a component of it restarts, by itself or with all of firmware (15 R383, R384). -/
def State.fwOut (s : State) (comp : Nat) : Bool := s.fw.halted || s.fw.restarting.contains comp || s.fw.restarting.contains 2

/-- Unread records of a ring of `n` entries between its head and tail. -/
def unread (head tail n : Nat) : Nat := (tail + n - head % n) % n

/-- A completion record (06 R157). -/
def completionRecord (c : Cmd) (status cause result phase time : Nat) : Bytes :=
  leBytes 8 c.tag ++ [BitVec.ofNat 8 status, BitVec.ofNat 8 c.opcode, BitVec.ofNat 8 (c.ring + c.rerun * 16),
    BitVec.ofNat 8 cause] ++ leBytes 2 c.sqIndex ++ [BitVec.ofNat 8 phase, 0] ++ leBytes 8 result ++ leBytes 8 time

/-- A completion slot released (06 R142, R144). -/
def State.releaseSlot (s : State) (v : Nat) : State :=
  s.setV v { s.vrt v with reserved := (s.vrt v).reserved - 1 }

/-- Steps 3 and 4 of a commit (06 R150): the completion record, written at the ring's tail with the current PHASE, and
the interrupt where IRQ_EN and FLAGS.IRQ ask for it. The closed safety gate turns every record of a SAFETY-class ring
into OUTPUT_INVALID (10 R263). -/
def State.complete (s : State) (c : Cmd) (status cause result : Nat) : State :=
  let v := c.vef
  let shut := s.saf.gate && c.cls == 0
  let status := if shut then 0x30 else status
  let cause := if shut then 0 else cause
  let n := 2 ^ s.rd CQ_CFG.SIZE_LOG2 v
  let tail := s.rd CQ_CFG.TAIL v
  let x := s.vrt v
  let rec_ := completionRecord c status cause result (b2n x.cqPhase) s.localNs
  let t := s.ringRecord (s.flag CQ_CFG.LOC v) (s.devCtx v) (s.rd CQ_CFG.BASE v / 4096 * 4096 + tail * 32) rec_ 1
  let t := t.wr CQ_CFG.TAIL ((tail + 1) % n) v
  let t := t.setV v { t.vrt v with reserved := (t.vrt v).reserved - 1,
                                   cqPhase := if tail + 1 ≥ n then !x.cqPhase else x.cqPhase }
  let t := if s.flag CQ_CFG.IRQ_EN v && c.irq then t.irq (s.rd CQ_CFG.IRQ_ADDR v) (s.rd CQ_CFG.IRQ_DATA v) else t
  t.refreshIdle v c.ring

/-- An event record for VEF `v` (06 R160, R161): written where the event ring is enabled and has room, else lost and
counted. -/
def State.event (s : State) (v type subject detail : Nat) : State :=
  let n := 2 ^ s.rd EQ_CFG.SIZE_LOG2 v
  let tail := s.rd EQ_CFG.TAIL v
  let x := s.vrt v
  if v ≥ 128 then s
  else if !s.flag EQ_CFG.ENABLE v || unread (s.rd DB_EQ_HEAD.HEAD v) tail n ≥ n - 1 then
    s.setV v { x with lost := min (x.lost + 1) 0xFFFF }
  else
    let rec_ := [BitVec.ofNat 8 type, BitVec.ofNat 8 (b2n x.eqPhase)] ++ leBytes 2 x.lost ++ leBytes 4 subject ++
      leBytes 8 s.localNs ++ leBytes 16 detail
    let t := s.ringRecord (s.flag EQ_CFG.LOC v) (s.devCtx v) (s.rd EQ_CFG.BASE v / 4096 * 4096 + tail * 32) rec_ 0
    let t := t.wr EQ_CFG.TAIL ((tail + 1) % n) v
    let t := t.setV v { t.vrt v with lost := 0, eqPhase := if tail + 1 ≥ n then !x.eqPhase else x.eqPhase }
    if s.flag EQ_CFG.IRQ_EN v then t.irq (s.rd EQ_CFG.IRQ_ADDR v) (s.rd EQ_CFG.IRQ_DATA v) else t

/-- The same event to each VEF of a list. -/
def State.events (s : State) (vs : List Nat) (type subject detail : Nat) : State :=
  vs.foldl (fun s v => s.event v type subject detail) s

/-! ## Accounting (06 R162–R166) -/

/-- The accounting ring of VEF `v` has room for a record. -/
def State.aqRoom (s : State) (v : Nat) : Bool :=
  let n := 2 ^ s.rd RING_VEF_AQ_CTL.SIZE_LOG2 v
  decide (unread (s.rd RING_VEF_AQ_HEAD.HEAD v) (s.rd RING_VEF_AQ_CTL.TAIL v) n < n - 1)

/-- An accounting record (06 R165). -/
def acctRecord (v : Nat) (r : AcctRec) (phase : Bool) : Bytes :=
  let u := r.acct.use
  let sat (k x : Nat) : Bytes := leBytes k (min x (2 ^ (8 * k) - 1))
  leBytes 8 r.acct.start ++ leBytes 8 r.endNs ++ sat 6 u.cellNs ++ sat 6 u.engineNs ++ sat 4 r.acct.energyUj ++
    sat 6 u.hbmRd ++ sat 6 u.hbmWr ++ sat 6 u.pass ++ sat 6 u.pcie ++ sat 6 u.dma ++
    [BitVec.ofNat 8 v, BitVec.ofNat 8 (b2n phase + 2 * b2n r.final + 4 * b2n r.acct.low + 8 * b2n r.acct.merged +
      16 * b2n r.acct.stepped)]

/-- An accounting record written at the ring's tail, in the hypervisor's address space, with its interrupt (06 R135, R140,
R165). -/
def State.acctWrite (s : State) (v : Nat) (r : AcctRec) : State :=
  let n := 2 ^ s.rd RING_VEF_AQ_CTL.SIZE_LOG2 v
  let tail := s.rd RING_VEF_AQ_CTL.TAIL v
  let x := s.vrt v
  let t := s.ringRecord (s.flag RING_VEF_AQ_CTL.LOC v) hypCtx (s.rd RING_VEF_AQ_BASE.BASE v / 4096 * 4096 + tail * 64)
    (acctRecord v r x.aqPhase) 7
  let t := t.wr RING_VEF_AQ_CTL.TAIL ((tail + 1) % n) v
  let t := t.setV v { t.vrt v with aqPhase := if tail + 1 ≥ n then !x.aqPhase else x.aqPhase }
  if s.flag RING_VEF_AQ_CTL.IRQ_EN v then
    t.irq (s.rd RING_VEF_AQ_IRQ_ADDR.IRQ_ADDR v) (s.rd RING_VEF_AQ_IRQ_DATA.IRQ_DATA v)
  else t

/-- The uses of VEF `v`'s commands in flight brought into its open window, as it ends: what a run has used so far falls
into the window that ends (06 R162, R163). The job keeps the sum, in case the run is killed later. -/
def State.flushUse (s : State) (v : Nat) : State :=
  let u := s.flight.foldl (fun u j => if j.cmd.vef = v then u.plus j.use else u) Usage.zero
  let s := s.charge v u
  { s with flight := s.flight.map (fun j => if j.cmd.vef = v then { j with use := Usage.zero, past := j.past.plus j.use } else j) }

/-- A run of a command is killed: what it was charged in windows that have ended is to be given back (06 R154). -/
def State.refund (s : State) (j : Job) : State :=
  if j.cmd.vef ≥ 128 then s
  else s.setV j.cmd.vef { s.vrt j.cmd.vef with debt := (s.vrt j.cmd.vef).debt.plus j.past }

/-- Average power of a window in watts is above 20: energy in µJ over nanoseconds (06 R164). -/
def aboveTwentyW (energyUj ns : Nat) : Bool := decide (energyUj * 1000 > 20 * ns)

/-- Energy of a use in µJ from the calibrated coefficients: activity of cells and engines, HBM bytes, and of each powered
half-quadrant its static power times the share of its 288 cells (06 R164). -/
def State.energyOf (s : State) (u : Usage) : Nat :=
  let shares := (List.range 8).map (fun h => s.power.coefStatic.getD h 0 * u.halves.getD h 0 / 288)
  (s.power.coefCell * u.cellNs + s.power.coefEngine * u.engineNs + s.power.coefByte * (u.hbmRd + u.hbmWr) +
    shares.foldl (· + ·) 0) / 1000000

/-- The open window of VEF `v` ends at vehicle time `t`, and the next starts at `next`: its record falls due, its energy and
the flag LOW its own, and what killed runs were charged before is given back as far as it goes (06 R154, R162–R166). -/
def State.closeWindow (s : State) (v t next : Nat) (stepped final : Bool) : State :=
  let s := s.flushUse v
  let x := s.vrt v
  let u := x.acct.use.less x.debt
  let e := s.energyOf u
  let a := { x.acct with use := u, energyUj := e, stepped := stepped, low := !aboveTwentyW e (t - x.acct.start) }
  s.setV v { x with acct := Acct.opened next, debt := x.debt.less x.acct.use, acctDue := x.acctDue ++ [⟨a, t, final⟩] }

/-- One record over the windows of two that follow each other: MERGED, with STEPPED and LOW where either has it (06 R166). -/
def AcctRec.merge (b r : AcctRec) : AcctRec :=
  ⟨⟨b.acct.start, b.acct.use.plus r.acct.use, b.acct.energyUj + r.acct.energyUj, b.acct.stepped || r.acct.stepped,
    b.acct.low || r.acct.low, true⟩, r.endNs, r.final⟩

/-- Records kept pending are written while there is space, oldest first (06 R166). -/
def State.acctDrain (s : State) (v : Nat) : State :=
  (s.vrt v).acctPending.foldl (fun s r =>
    if s.aqRoom v then
      let t := s.acctWrite v r
      t.setV v { t.vrt v with acctPending := (t.vrt v).acctPending.drop 1 }
    else s) s

/-- A record that falls due: written after all pending ones where there is space, together with the windows that are
already waiting for it; else kept to be merged with the next, or, a FINAL record, kept pending (06 R166). -/
def State.postRecord (s : State) (v : Nat) (r : AcctRec) : State :=
  let s := s.acctDrain v
  let x := s.vrt v
  let r := match x.acctBack with
    | some b => b.merge r
    | none => r
  let s := s.setV v { x with acctBack := none }
  if s.aqRoom v && x.acctPending.isEmpty then s.acctWrite v r
  else if r.final then s.setV v { s.vrt v with acctPending := x.acctPending ++ [r] }
  else s.setV v { s.vrt v with acctBack := some r }

/-- The records of every window of VEF `v` that has ended are formed, in order. -/
def State.postDue (s : State) (v : Nat) : State :=
  let due := (s.vrt v).acctDue
  due.foldl (fun s r => s.postRecord v r) (s.setV v { s.vrt v with acctDue := [] })

/-- Length of an accounting window: 10^8 ns of vehicle time (06 R162). -/
def windowNs : Nat := 100000000

/-- The windows of VEF `v` whose end lies at or before vehicle time `now` end there (06 R162). -/
def State.closeEnded (s : State) (v now : Nat) : State :=
  if s.flag RING_VEF_AQ_CTL.ENABLE v && (s.vrt v).acctOpen then
    let k := (s.vrt v).acct.start / windowNs
    (List.range (now / windowNs - k)).foldl (fun s i =>
      s.closeWindow v ((k + 1 + i) * windowNs) ((k + 1 + i) * windowNs) false false) s
  else s

/-! ## Instants and FRAMEs (08 R202, R209, 10 R266–R268) -/

/-- The period P as a fraction: numerator and denominator in ns. -/
def State.period (s : State) : Nat × Nat :=
  match s.rd FUS_CTL.PERIOD with
  | 1 => (20000000, 1)
  | 2 => (50000000, 1)
  | _ => (100000000, 3)

def State.epoch (s : State) : Nat := s.rd FUS_EPOCH.EPOCH

/-- T_k = E + floor(k × P). -/
def State.tK (s : State) (k : Nat) : Nat := s.epoch + k * s.period.1 / s.period.2

/-- A FRAME's instant number, where it has been resolved or is written out. -/
def State.frameK (s : State) (c : Cmd) : Option Nat :=
  let k := c.op 0x28 8 % 2 ^ 56
  if k = 2 ^ 56 - 1 then (s.fus.resolved.find? (fun x => x.1 == c.serial)).map (·.2) else some k

/-- A released instant that is still kept. -/
def State.inst (s : State) (k : Nat) : Option Inst := s.fus.insts.find? (fun n => n.k == k)

/-- DEADLINE_MS of R266 in ns. -/
def State.deadlineNs (s : State) : Nat := s.rd SAF_ESC.DEADLINE_MS * 1000000

/-- The newest of an instant kept and another; one kept from an earlier run gives way. -/
def newer (old : Option Nat) (stale : Bool) (k : Nat) : Option Nat :=
  match old with
  | some o => if stale then some k else some (max o k)
  | none => some k

/-- The instant j with T_j ≤ fusion time < T_(j+1), while the aligner runs. -/
def State.curInstant (s : State) : Option Nat :=
  let e := s.epoch
  if !s.flag FUS_CTL.RUN || decide (s.sensorNs < e) then none
  else some (((s.sensorNs - e + 1) * s.period.2 + s.period.1 - 1) / s.period.1 - 1)

/-- PRIMARY_VALID and SHADOW_VALID (10 R268). -/
def State.primaryValid (s : State) : Bool :=
  s.saf.primaryDone && !s.saf.unresolved.contains (s.rd FUS_CFG.PRIMARY) && !s.saf.late
def State.shadowValid (s : State) : Bool :=
  s.saf.shadowDone && !s.saf.unresolved.contains 16 && s.saf.shadowLive

/-- STARTING ends when both outputs have been valid at once (10 R267). -/
def State.endStarting (s : State) : State :=
  if s.primaryValid && s.shadowValid then { s with saf := { s.saf with starting := false } } else s

/-- What the safety island learns when a FRAME, not a golden, completes on the primary field or on field 16
(10 R259, R266–R268). -/
def State.noteFrame (s : State) (c : Cmd) (field status : Nat) : State :=
  let k := (s.frameK c).getD 0
  let ok := status == 0 && (s.frameK c).isSome
  let s := if field = 16 then
      { s with saf := { s.saf with
          shadowDone := ok, shadowOld := s.saf.shadowOld && !ok,
          shadowK := if ok then newer s.saf.shadowK s.saf.shadowOld k else s.saf.shadowK } }
    else s
  let s := if field = s.rd FUS_CFG.PRIMARY then
    let gm := match s.inst k with
      | some i => i.groups
      | none => s.saf.groupMask
    let inTime := decide (s.sensorNs ≤ s.tK k + s.deadlineNs)
    { s with saf := { s.saf with
        primaryDone := ok, primaryOld := s.saf.primaryOld && !ok,
        primaryK := if ok then newer s.saf.primaryK s.saf.primaryOld k else s.saf.primaryK,
        groupMask := if ok then gm else s.saf.groupMask,
        late := if ok && inTime then false else s.saf.late } }
  else s
  s.endStarting

/-- The end of a golden frame noted (10 R274). -/
def State.noteGolden (s : State) (serial status : Nat) : State :=
  { s with saf := { s.saf with goldens := s.saf.goldens.map (fun g =>
      if g.serial = serial then { g with status := some status } else g) } }

/-- What follows the end of a command in flight beside its record. -/
def State.noteEnd (s : State) (j : Job) (status : Nat) : State :=
  if j.golden then s.noteGolden j.cmd.serial status
  else if j.cmd.opcode = 0x31 then
    match j.res with
    | .field f => s.noteFrame j.cmd f status
    | _ => s
  else s

/-! ## Queues and commands in flight -/

/-- A resource's commands in flight, oldest first. -/
def State.jobsOn (s : State) (r : Res) : List Job := s.flight.filter (fun j => j.res == r)

/-- A resource's queue of one class, head first (06 R148). -/
def State.queueOf (s : State) (r : Res) (cls : Nat) : List Cmd :=
  (s.queue.filter (fun q => q.1 == r && q.2.cls == cls)).map (·.2)

/-- A command taken from the queues. -/
def State.dequeue (s : State) (serial : Nat) : State :=
  { s with queue := s.queue.filter (fun q => q.2.serial != serial) }

/-- A command in flight removed. -/
def State.dropJob (s : State) (serial : Nat) : State :=
  { s with flight := s.flight.filter (fun j => j.cmd.serial != serial) }

/-- A command in flight changed. -/
def State.changeJob (s : State) (serial : Nat) (f : Job → Job) : State :=
  { s with flight := s.flight.map (fun j => if j.cmd.serial = serial then f j else j) }

/-- An operation carried out for a command in flight: what its accesses move is charged to the command's run, not to the
open window (06 R154, R163). -/
def State.onBehalf (s : State) (c : Cmd) (op : State → State) : State :=
  let before := (s.vrt c.vef).acct.use
  let t := op s
  let after := (t.vrt c.vef).acct.use
  (t.setV c.vef { t.vrt c.vef with acct := { (t.vrt c.vef).acct with use := before } }).changeJob c.serial (fun j =>
    { j with use := j.use.plus (after.less before) })

/-- The re-run count one higher, saturating at 15 (06 R154). -/
def Cmd.again (c : Cmd) : Cmd := { c with rerun := min (c.rerun + 1) 15 }

/-- The commands in flight on a resource return to the heads of their queues in their original order, their re-run
counts incremented (06 R154). -/
def State.requeue (s : State) (r : Res) : State :=
  let s := (s.jobsOn r).foldl (fun s j => s.refund j) s
  { s with queue := (s.jobsOn r).map (fun j => (r, j.cmd.again)) ++ s.queue,
           flight := s.flight.filter (fun j => j.res != r) }

/-- A FRAME of a field's queue that ends there (10 R268). -/
def State.noteUnrun (s : State) (c : Cmd) (status : Nat) : State :=
  if c.opcode ≠ 0x31 then s
  else match s.queue.find? (fun q => q.2.serial == c.serial) with
    | some (.field f, _) => s.noteFrame c f status
    | _ => s

/-- A queued command completes without running. -/
def State.endQueued (s : State) (c : Cmd) (status cause result : Nat) : State :=
  ((s.noteUnrun c status).dequeue c.serial).complete c status cause result

/-- A command in flight completes with the status given and leaves the flight list. What it used is charged. -/
def State.endJob (s : State) (j : Job) (status cause result : Nat) : State :=
  let status := if s.saf.gate && j.cmd.cls == 0 then 0x30 else status
  (((s.noteEnd j status).dropJob j.cmd.serial).charge j.cmd.vef j.use).complete j.cmd status cause result

/-- A command fetched earlier from the rings that a predicate selects has not completed (06 R145, R149). -/
def State.earlierLive (s : State) (serial : Nat) (p : Cmd → Bool) : Bool :=
  s.live.any (fun c => decide (c.serial < serial) && p c)

/-- FLAGS.WAIT still holds a command back: an earlier command of its own ring has not completed (06 R149). -/
def State.waits (s : State) (c : Cmd) : Bool :=
  c.wait && s.earlierLive c.serial (fun d => d.vef == c.vef && d.ring == c.ring)

end Sys2Proof.Machine
end

