-- ==== Sys2Proof/Machine/ValleyOps.lean ====
section
/-! DEFINITION. The shared operations of the Valley (chapter 7): pools, groups, the prefix table, page tables and the
retirement of sequences. -/

namespace Sys2Proof.Machine

/-! ## Pools -/

def State.pool (s : State) (p : Nat) : PoolSt := Sparse.look PoolSt.empty s.vly.pools p

/-- Groups of a pool (07 R190). -/
def State.poolGroups (s : State) (p : Nat) : Nat := s.rd VLY_POOL.GROUPS_M1 p + 1

/-- Page slots per group, G (07 R167). -/
def State.poolG (s : State) (p : Nat) : Nat := s.rd VLY_POOL.G_M1 p + 1

/-- The page size in bytes. -/
def State.poolPage (s : State) (p : Nat) : Nat := s.rd VLY_POOL.PAGE_64K p * 65536

/-- Base of a pool: bits [20:0] read zero (07 R190). -/
def State.poolBase (s : State) (p : Nat) : Nat := s.rd VLY_POOL.BASE p / 2 ^ 21 * 2 ^ 21

/-- Offset of the page slots (07 R168). -/
def State.pageOff (s : State) (p : Nat) : Nat :=
  (0x1800000 + s.poolGroups p * 0x400 + 2 ^ 21 - 1) / 2 ^ 21 * 2 ^ 21

/-- Bytes a pool occupies (07 R168). -/
def State.poolBytes (s : State) (p : Nat) : Nat := s.pageOff p + s.poolGroups p * s.poolG p * s.poolPage p

/-- The tag of a group. -/
def PoolSt.tag (x : PoolSt) (g : Nat) : GroupTag := Sparse.look .free x.tags g

/-- The FREE groups of a pool with `n` groups, lowest first. -/
def PoolSt.free (x : PoolSt) (n : Nat) : List Nat := (List.range n).filter (fun g => x.tag g = .free)

/-- A group's tag set. -/
def PoolSt.setTag (x : PoolSt) (g : Nat) (t : GroupTag) : PoolSt := { x with tags := Sparse.put .free x.tags g t }

/-- The sequence of an index, where it is live (07 R171). -/
def PoolSt.seq (x : PoolSt) (i : Nat) : Option SeqSt := (x.seqs.find? (fun q => q.1 == i)).map (·.2)

/-- A sequence's state stored. -/
def PoolSt.setSeq (x : PoolSt) (i : Nat) (q : SeqSt) : PoolSt :=
  { x with seqs := (x.seqs.filter (fun r => r.1 != i)) ++ [(i, q)] }

/-- In whose name firmware and the movers reach a pool: its OWNER's device-level context (07 R169). -/
def State.poolCtx (s : State) (p : Nat) : Ctx :=
  let v := s.rd VLY_POOL.OWNER p
  .vef v (s.rd RING_VEF_CFG.STREAM_ID v) none

/-! ### The management area: a layout of the model's own, since none is part of the interface (07 R168) -/

/-- A group and its tag in one word: group, then 1 PRIVATE or 2 SHARED, then the VEF or the domain. -/
def GroupTag.word (g : Nat) : GroupTag → Nat
  | .free => g
  | .priv v => g + 2 ^ 20 + 2 ^ 22 * v
  | .shared d => g + 2 ^ 21 + 2 ^ 22 * d

def SeqSt.nums (i : Nat) (q : SeqSt) : List Nat :=
  [i, q.vef, q.promptLen, q.resv, q.len, q.prefilled, q.pages.length] ++
    q.pages.map (fun e => e.group + 2 ^ 31 * b2n e.shared)

/-- The management area as 32-bit words: sequences with their page tables of one word a block (07 R172), then group tags. With
4,096 sequences of 1,024 blocks and 2^20 tags it stays below 24 MiB. -/
def PoolSt.nums (x : PoolSt) : List Nat :=
  [x.seqs.length] ++ x.seqs.flatMap (fun r => r.2.nums r.1) ++ [x.tags.length] ++
    x.tags.map (fun t => t.2.word t.1)

/-- Sequences read back, `n` of them. -/
def readSeqs : Nat → List Nat → List (Nat × SeqSt) × List Nat
  | 0, l => ([], l)
  | n + 1, i :: v :: p :: r :: a :: b :: k :: l =>
    let rest := readSeqs n (l.drop k)
    ((i, ⟨v, p, r, a, b, (l.take k).map (fun e => ⟨e % 2 ^ 20, e.testBit 31⟩), []⟩) :: rest.1, rest.2)
  | _ + 1, l => ([], l)

/-- Group tags read back, `n` of them. -/
def readTags : Nat → List Nat → Sparse GroupTag
  | 0, _ => []
  | n + 1, w :: l =>
    Sparse.put .free (readTags n l) (w % 2 ^ 20)
      (if bits w 20 2 = 1 then .priv (bits w 22 7) else if bits w 20 2 = 2 then .shared (bits w 22 7) else .free)
  | _ + 1, _ => []

/-- The management area read back from its numbers. -/
def PoolSt.ofNums : List Nat → PoolSt
  | [] => PoolSt.empty
  | n :: l =>
    let q := readSeqs n l
    match q.2 with
    | [] => ⟨q.1, []⟩
    | k :: m => ⟨q.1, readTags k m⟩

/-- Magic of the management area's header: the model's own. -/
def poolMagic : Nat := 0x564C_5950

/-- The management area as bytes: magic, GROUPS_M1, G_M1, PAGE_64K, length of the body in words, CRC-32C of the body,
body (07 R190 names the header's contents). -/
def State.poolBytesOf (s : State) (p : Nat) (x : PoolSt) : Bytes :=
  let body := x.nums.flatMap (leBytes 4)
  (leBytes 4 poolMagic ++ leBytes 4 (s.rd VLY_POOL.GROUPS_M1 p) ++ leBytes 4 (s.rd VLY_POOL.G_M1 p) ++
    leBytes 4 (s.rd VLY_POOL.PAGE_64K p) ++ leBytes 4 x.nums.length ++ leBytes 4 (crc32c body) ++ body).take 0x1800000

/-- `n` 32-bit words of a byte string. -/
def leWords : Nat → Bytes → List Nat
  | 0, _ => []
  | n + 1, bs => leNat (bs.take 4) :: leWords n (bs.drop 4)

/-- The management area at a pool's BASE, where its header passes the checks of R190. -/
def State.poolAdopt (s : State) (p : Nat) : Option PoolSt :=
  let rdw (o : Nat) : Nat := leNat (s.ctxRead (s.poolCtx p) (s.poolBase p + o) 4)
  let n := rdw 16
  if rdw 0 = poolMagic ∧ rdw 4 = s.rd VLY_POOL.GROUPS_M1 p ∧ rdw 8 = s.rd VLY_POOL.G_M1 p ∧
     rdw 12 = s.rd VLY_POOL.PAGE_64K p ∧ 24 + 4 * n ≤ 0x1800000 then
    let body := s.ctxRead (s.poolCtx p) (s.poolBase p + 24) (4 * n)
    if crc32c body = rdw 20 then some (PoolSt.ofNums (leWords n body)) else none
  else none

/-- A pool's management area changed: the state, its bytes in memory and FREE_GROUPS (07 R168, R190). -/
def State.setPool (s : State) (p : Nat) (x : PoolSt) : State :=
  let s := { s with vly := { s.vly with pools := Sparse.put PoolSt.empty s.vly.pools p x } }
  let s := s.wr VLY_POOL.FREE_GROUPS (s.poolGroups p - x.tags.length) p
  s.ctxWrite (s.poolCtx p) (s.poolBase p) (s.poolBytesOf p x)

/-- The pool bound to a field (07 R169). -/
def State.poolOf (s : State) (f : Nat) : Option Nat :=
  (List.range 16).find? (fun p => s.flag VLY_POOL.BOUND p && s.rd VLY_POOL.BOUND_FIELD p == f)

/-- Address of a group's token block (07 R168). -/
def State.tokenBlock (s : State) (p g : Nat) : Nat := s.poolBase p + 0x1800000 + g * 0x400

/-- The 1,024 bytes of a group's token block. -/
def State.tokensOf (s : State) (p g : Nat) : Bytes := s.ctxRead (s.poolCtx p) (s.tokenBlock p g) 1024

/-! ## The prefix table (07 R175–R178) -/

/-- Entries of the prefix table. -/
def pfxSize : Nat := 2 ^ 20

def State.pfxAt (s : State) (i : Nat) : PfxEntry := Sparse.look PfxEntry.zero s.vly.pfx i

/-- An entry as the 64 bytes of R176. -/
def PfxEntry.bytes (e : PfxEntry) : Bytes :=
  leBytes 8 e.key ++ leBytes 4 (e.group + e.pool * 2 ^ 20) ++ leBytes 4 e.parent ++ leBytes 2 e.refs ++
    leBytes 2 e.pins ++ leBytes 2 e.children ++ leBytes 1 e.domain ++ leBytes 1 e.state ++ leBytes 8 e.lastUse ++
    leBytes 2 e.poolGen ++ leBytes 30 0

/-- An entry stored, in the table and in its memory. -/
def State.setPfx (s : State) (i : Nat) (e : PfxEntry) : State :=
  let s := { s with vly := { s.vly with pfx := Sparse.put PfxEntry.zero s.vly.pfx i e } }
  s.memWrite (s.rd VLY_PFX_BASE.BASE / 4096 * 4096 + i * 64) e.bytes

/-- The key of a block from its parent's key and its 256 token IDs (07 R175). -/
def pfxKey (parent : Nat) (tokens : Bytes) : Nat := leNat ((sha384 (leBytes 8 parent ++ tokens)).take 8)

/-- The parent key of block 0: bytes 0 to 7 of the image's DIGEST (07 R175). -/
def rootKey (digest : Bytes) : Nat := leNat (digest.take 8)

/-- The sixteen indices a key probes (07 R177). -/
def probes (key : Nat) : List Nat := (List.range 16).map (fun i => (key + i) % pfxSize)

/-- An entry names a block in KEY, pool and domain. -/
def State.pfxSame (s : State) (p dom key i : Nat) : Bool :=
  let e := s.pfxAt i
  e.state != 0 && e.key == key && e.pool == p && e.poolGen == s.rd VLY_POOL.GENERATION p && e.domain == dom

/-- A lookup of R177: the VALID entry that matches, and the collisions counted on the way. -/
def State.pfxLookup (s : State) (p dom key : Nat) (tokens : Bytes) : Option Nat × Nat :=
  (probes key).foldl (fun acc i =>
    match acc.1 with
    | some _ => acc
    | none =>
      if s.pfxSame p dom key i then
        if s.tokensOf p (s.pfxAt i).group = tokens then (if (s.pfxAt i).state = 2 then (some i, acc.2) else acc)
        else (none, acc.2 + 1)
      else acc) (none, 0)

/-- The insertion of a FILLING entry for a block (07 R177): the table afterwards and the index taken. -/
def State.pfxInsert (s : State) (p dom key group parent : Nat) (tokens : Bytes) : State × Option Nat :=
  if (probes key).any (fun i => s.pfxSame p dom key i && decide (s.tokensOf p (s.pfxAt i).group = tokens)) then (s, none)
  else match (probes key).find? (fun i => (s.pfxAt i).state == 0) with
    | none => (s.inc VLY_STAT.INSERT_FAIL, none)
    | some i =>
      let s := s.setPfx i ⟨key, group, p, parent, 1, 0, 0, dom, 1, s.localNs, s.rd VLY_POOL.GENERATION p⟩
      let s := if parent < pfxSize then
        s.setPfx parent { s.pfxAt parent with children := (s.pfxAt parent).children + 1 } else s
      (s, some i)

/-- The entry that reclaim takes next in a pool: VALID with no REFS, PINS or CHILDREN, oldest LAST_USE, lowest index on
a tie, none of `chain` (07 R178, R175). -/
def pfxVictim (t : Sparse PfxEntry) (p : Nat) (chain : List Nat) : Option (Nat × PfxEntry) :=
  t.foldl (fun best x =>
    if x.2.state = 2 ∧ x.2.pool = p ∧ x.2.refs = 0 ∧ x.2.pins = 0 ∧ x.2.children = 0 ∧ !chain.contains x.1 then
      match best with
      | none => some x
      | some b => if x.2.lastUse < b.2.lastUse then some x else best
    else best) none

/-- The table with one entry reclaimed. -/
def pfxDrop (t : Sparse PfxEntry) (x : Nat × PfxEntry) : Sparse PfxEntry :=
  let t := Sparse.put PfxEntry.zero t x.1 PfxEntry.zero
  if x.2.parent < pfxSize then
    Sparse.change PfxEntry.zero t x.2.parent (fun e => { e with children := e.children - 1 })
  else t

/-- How many groups reclaim could free (07 R175): the entries reclaimed one after another until none is left. -/
def reclaimable (p : Nat) (chain : List Nat) : Nat → Sparse PfxEntry → Nat
  | 0, _ => 0
  | n + 1, t => match pfxVictim t p chain with
    | none => 0
    | some x => 1 + reclaimable p chain n (pfxDrop t x)

/-- `n` entries of a pool reclaimed: each is set EMPTY, its group freed, its parent's CHILDREN decremented, and counted
(07 R178). -/
def State.reclaim (s : State) (p : Nat) (chain : List Nat) : Nat → State
  | 0 => s
  | n + 1 => match pfxVictim s.vly.pfx p chain with
    | none => s
    | some x =>
      let s := s.setPfx x.1 PfxEntry.zero
      let s := if x.2.parent < pfxSize then
        s.setPfx x.2.parent { s.pfxAt x.2.parent with children := (s.pfxAt x.2.parent).children - 1 } else s
      let s := s.setPool p ((s.pool p).setTag x.2.group .free)
      (s.inc VLY_STAT.RECLAIM).reclaim p chain n

/-- REFS of an entry changed, with LAST_USE (07 R176). -/
def State.pfxRefs (s : State) (i : Nat) (f : Nat → Nat) : State :=
  s.setPfx i { s.pfxAt i with refs := f (s.pfxAt i).refs, lastUse := s.localNs }

/-- PINS of an entry changed, with LAST_USE. -/
def State.pfxPins (s : State) (i : Nat) (f : Nat → Nat) : State :=
  s.setPfx i { s.pfxAt i with pins := f (s.pfxAt i).pins, lastUse := s.localNs }

/-- The VALID entry of a pool that holds a group. -/
def State.pfxOfGroup (s : State) (p g : Nat) : Option Nat :=
  (s.vly.pfx.find? (fun x => x.2.state == 2 && x.2.pool == p && x.2.group == g &&
    x.2.poolGen == s.rd VLY_POOL.GENERATION p)).map (·.1)

/-- An entry set EMPTY, its parent's CHILDREN decremented. -/
def State.pfxClear (s : State) (i : Nat) : State :=
  let e := s.pfxAt i
  let s := s.setPfx i PfxEntry.zero
  if e.parent < pfxSize then s.setPfx e.parent { s.pfxAt e.parent with children := (s.pfxAt e.parent).children - 1 } else s

/-- A sequence retired (07 R188): its PRIVATE groups return to FREE, the VALID entries of its page table lose a
reference, the FILLING entries it inserted are set EMPTY, and its index is free. -/
def State.retireSeq (s : State) (p i : Nat) : State :=
  match (s.pool p).seq i with
  | none => s
  | some q =>
    let s := q.filling.foldl (fun s b => s.pfxClear b.2) s
    let s := q.pages.foldl (fun s e =>
      if e.shared then match s.pfxOfGroup p e.group with
        | some x => s.pfxRefs x (· - 1)
        | none => s
      else s) s
    let x := s.pool p
    let x := q.pages.foldl (fun x e => if x.tag e.group = .priv q.vef then x.setTag e.group .free else x) x
    s.setPool p { x with seqs := x.seqs.filter (fun r => r.1 != i) }

/-- Every live sequence of VEF `v` in a field's pool retired (07 R188). -/
def State.retireVef (s : State) (f v : Nat) : State :=
  match s.poolOf f with
  | none => s
  | some p => ((s.pool p).seqs.filter (fun r => r.2.vef == v)).foldl (fun s r => s.retireSeq p r.1) s

/-- A field's pool unbound; its live sequences are retired first, but for those of frozen VEFs (07 R188, 12 R305). -/
def State.unbindPool (s : State) (f : Nat) : State :=
  match s.poolOf f with
  | none => s
  | some p =>
    let held (v : Nat) : Bool := (s.vrt v).held.isSome
    let s := ((s.pool p).seqs.filter (fun r => !held r.2.vef)).foldl (fun s r => s.retireSeq p r.1) s
    let s := { s with vly := { s.vly with ptCache := s.vly.ptCache.filter (fun e => e.field != f) } }
    (s.wr VLY_POOL.BOUND 0 p).wr VLY_POOL.BOUND_FIELD 0 p

/-- The entry that a pin of a list names: the VALID one of its key in its pool's present generation and its domain
(07 R177, R179). -/
def State.pinned (s : State) (x : Pin) : Option Nat :=
  (probes x.key).find? (fun i => s.pfxSame x.pool x.domain x.key i && (s.pfxAt i).state == 2)

/-- The pins of a pool taken off every list: its entries are EMPTY (07 R179, R189). -/
def State.dropPins (s : State) (p : Nat) : State :=
  s.each 128 (fun v s => s.setV v { s.vrt v with pins := (s.vrt v).pins.filter (fun x => x.pool != p) })

/-- Every pin of VEF `v` released (07 R179). -/
def State.releasePins (s : State) (v : Nat) : State :=
  let pins := (s.vrt v).pins
  let s := pins.foldl (fun s pin =>
    match s.pinned pin with
    | some x => s.pfxPins x (· - 1)
    | none => s) s
  s.setV v { s.vrt v with pins := [] }

end Sys2Proof.Machine
end

