-- ==== Sys2Proof/Machine/FieldOps.lean ====
section
/-! DEFINITION. The shared operations of fields and cells (chapters 2 and 4): geometry, field states, contained faults,
kills, clearing and detaching. -/

namespace Sys2Proof.Machine

/-! ## Geometry (02 R29) -/

/-- Field states of R58. -/
def stFree : Nat := 0
def stLoading : Nat := 1
def stIdle : Nat := 2
def stRunning : Nat := 3
def stDraining : Nat := 4
def stStopped : Nat := 5
def stClearing : Nat := 6

def State.fState (s : State) (f : Nat) : Nat := s.rd PLAIN_FLD_STATE.STATE f

/-- Clusters of a rectangle of the main Plain. -/
def rectClusters (cx cy w h : Nat) : List Nat :=
  (List.range h).flatMap (fun y => (List.range w).map (fun x => (cy + y) * 12 + cx + x))

/-- The clusters of a field, row by row; the Shadow field's shape is fixed (02 R46, R57). -/
def State.clustersOf (s : State) (f : Nat) : List Nat :=
  if f = 16 then [144, 145, 146, 147]
  else rectClusters (s.rd PLAIN_FLD_CFG.ORIGIN_X f) (s.rd PLAIN_FLD_CFG.ORIGIN_Y f)
    (s.rd PLAIN_FLD_CFG.WIDTH_M1 f + 1) (s.rd PLAIN_FLD_CFG.HEIGHT_M1 f + 1)

/-- Width of a field in clusters. -/
def State.fWidth (s : State) (f : Nat) : Nat := if f = 16 then 2 else s.rd PLAIN_FLD_CFG.WIDTH_M1 f + 1
def State.fHeight (s : State) (f : Nat) : Nat := if f = 16 then 2 else s.rd PLAIN_FLD_CFG.HEIGHT_M1 f + 1

/-- The field that a cluster belongs to (02 R46: at most one). -/
def State.fieldOfCluster (s : State) (k : Nat) : Option Nat :=
  (List.range 17).find? (fun f => s.fState f != stFree && (s.clustersOf f).contains k)

/-- The field of a cell. -/
def State.fieldOfCell (s : State) (c : Nat) : Option Nat := s.fieldOfCluster (c / 16)

/-- Absolute cluster at a field-relative column and row, where it lies inside the field. -/
def State.clusterAt (s : State) (f col row : Nat) : Option Nat :=
  if col < s.fWidth f ∧ row < s.fHeight f then
    if f = 16 then some (144 + row * 2 + col)
    else some ((s.rd PLAIN_FLD_CFG.ORIGIN_Y f + row) * 12 + s.rd PLAIN_FLD_CFG.ORIGIN_X f + col)
  else none

/-- Absolute cell at a field-relative cell column and row. -/
def State.cellAt (s : State) (f x y : Nat) : Option Nat :=
  (s.clusterAt f (x / 4) (y / 4)).map (fun k => k * 16 + y % 4 * 4 + x % 4)

/-- Coordinates of a cell: of the main Plain, or within the Shadow field (02 R29). -/
def cellX (c : Nat) : Nat :=
  let k := c / 16
  (if k < 144 then k % 12 else (k - 144) % 2) * 4 + c % 4
def cellY (c : Nat) : Nat :=
  let k := c / 16
  (if k < 144 then k / 12 else (k - 144) / 2) * 4 + c % 16 / 4

/-- Cells of a field, cluster by cluster. -/
def State.cellsOf (s : State) (f : Nat) : List Nat :=
  (s.clustersOf f).flatMap (fun k => (List.range 16).map (fun i => k * 16 + i))

/-! ## State and registers of a field -/

/-- A field of class SAFETY, or the Shadow field, whose CLASS reads 0b01 (02 R57). -/
def State.isSafety (s : State) (f : Nat) : Bool := f == 16 || s.rd PLAIN_FLD_CFG.CLASS f == 1

/-- The current handle of a field (06 R147). -/
def State.handle (s : State) (f : Nat) : Nat := s.rd PLAIN_FLD_STATE.GENERATION f * 65536 + f

/-- SAF_GOLD[f].ENABLE, kept by hardware (10 R281). -/
def State.refreshGold (s : State) (f : Nat) : State :=
  let st := s.fState f
  let img := match (s.frt f).image with
    | some i => !i.goldens.isEmpty
    | none => false
  let on := s.flag SAF_GOLD.ARM f && s.flag SAF_GOLD.BUDGET_US f && decide (2 ≤ st ∧ st ≤ 5) && img && s.isSafety f
  let s := if on && !s.flag SAF_GOLD.ENABLE f then
      { s with saf := { s.saf with settled := Sparse.put 0 s.saf.settled f (match s.curInstant with
        | some j => j + 1
        | none => 0) } }
    else s
  s.wr SAF_GOLD.ENABLE (b2n on) f

/-- The counters cleared at each entry into LOADING: those of PLAIN_FLD_NUM and CE_COUNT (03 R82, 02 R60). -/
def State.clearNum (s : State) (f : Nat) : State :=
  [PLAIN_FLD_NUM.RANGE, PLAIN_FLD_NUM.NF_DROP, PLAIN_FLD_NUM.CHK_SKIP, PLAIN_FLD_NUM.FMT_ERR, PLAIN_FLD_ERR.CE_COUNT].foldl
    (fun s c => s.wr c 0 f) s

/-- The count of a field's stall watchdog: local nanoseconds in RUNNING since the last progress event (02 R55). -/
def State.wdogCount (s : State) (f : Nat) : Nat :=
  (s.frt f).wdogHeld + (if s.fState f = stRunning then s.localNs - (s.frt f).lastProgress else 0)

/-- The stall watchdog stands still outside RUNNING (02 R55): its count is kept as the field leaves RUNNING and goes on as
it enters. -/
def State.wdogTurn (s : State) (f st : Nat) : State :=
  if (st = stRunning) ≠ (s.fState f = stRunning) then
    s.setF f { s.frt f with wdogHeld := s.wdogCount f, lastProgress := s.localNs }
  else s

/-- A field's state set, with what follows it in hardware (02 R50, R55, 10 R281). -/
def State.setState (s : State) (f st : Nat) : State :=
  (((if st = stLoading then s.clearNum f else s).wdogTurn f st).wr PLAIN_FLD_STATE.STATE st f).refreshGold f

/-- IN_FLIGHT of a field counted again (02 R58). -/
def State.countFlight (s : State) (f : Fin 17) : State :=
  s.wr PLAIN_FLD_STATE.IN_FLIGHT (s.jobsOn (.field f)).length f

/-- The flags of FLD_ERR by bit number (02 R60). -/
def fldErrFlags : List Fld :=
  [PLAIN_FLD_ERR.WDOG, PLAIN_FLD_ERR.WINDOW, PLAIN_FLD_ERR.FENCE, PLAIN_FLD_ERR.POCKET_DED, PLAIN_FLD_ERR.CLSRAM_DED,
   PLAIN_FLD_ERR.STITCH_PAR, PLAIN_FLD_ERR.RESIDUE, PLAIN_FLD_ERR.CHECKSUM]

/-- Error numbers of FLD_ERR. -/
def errWdog : Nat := 0
def errWindow : Nat := 1
def errFence : Nat := 2
def errPocket : Nat := 3
def errClsram : Nat := 4
def errStitch : Nat := 5
def errResidue : Nat := 6
def errChecksum : Nat := 7

/-- FLD_ERR as a word. -/
def State.errWord (s : State) (f : Nat) : Nat :=
  (fldErrFlags.zipIdx.map (fun x => s.rd x.1 f * 2 ^ x.2)).foldl (· + ·) 0 + s.rd PLAIN_FLD_ERR.CE_COUNT f * 65536

/-- FLD_ERRLOC as a word. -/
def State.locWord (s : State) (f : Nat) : Nat :=
  s.rd PLAIN_FLD_ERRLOC.CELL_ID f + s.rd PLAIN_FLD_ERRLOC.SOURCE f * 4096 + s.rd PLAIN_FLD_ERRLOC.WORD f * 65536

/-- An error flag set; the first error after FLD_ERR was all zero is recorded in FLD_ERRLOC (02 R56, R61). -/
def State.fldError (s : State) (f n cell word : Nat) : State :=
  let none_ := fldErrFlags.all (fun x => s.rd x f == 0)
  let s := s.wr (fldErrFlags.getD n PLAIN_FLD_ERR.WDOG) 1 f
  if none_ then
    ((s.wr PLAIN_FLD_ERRLOC.CELL_ID cell f).wr PLAIN_FLD_ERRLOC.SOURCE n f).wr PLAIN_FLD_ERRLOC.WORD word f
  else s

/-- CELL_ID and WORD of FLD_ERRLOC return to their Cold values when every flag is clear (02 R61). -/
def State.refreshLoc (s : State) (f : Nat) : State :=
  if fldErrFlags.all (fun x => s.rd x f == 0) then
    (s.toCold PLAIN_FLD_ERRLOC.CELL_ID f).toCold PLAIN_FLD_ERRLOC.WORD f
  else s

/-- A progress event of a field: the watchdog restarts, and a new period takes effect (02 R55, R59). -/
def State.progress (s : State) (f : Nat) : State :=
  s.setF f { s.frt f with lastProgress := s.localNs, wdogHeld := 0, wdogPeriod := s.rd PLAIN_FLD_WDOG.PERIOD_US f }

/-- A safety fault detected: its report is on its way to the collector (10 R260). -/
def State.report (s : State) (source : Nat) (field : Option Nat) : State :=
  { s with saf := { s.saf with reports := s.saf.reports ++ [⟨source, field, s.vehicleNs⟩] } }

/-- A fault of a field reported where it is a safety fault (10 R261). -/
def State.reportField (s : State) (source f : Nat) : State :=
  if s.isSafety f then s.report source (some f) else s

/-! ## Cells -/

/-- A cell's sequencer halted and its streams, transfers, events and tokens discarded. -/
def CellSt.halt (c : CellSt) : CellSt :=
  { c with running := false, pc := 0, rep := 0, todo := [], xfers := [], half := 0, full := 0, tokens := 0,
           inBuf := [], port := [], used := [], waiting := false, sent := [] }

/-- What a kill does to a cell: it also clears accumulators and row statistics (02 R33, R52). -/
def CellSt.kill (c : CellSt) : CellSt := { c.halt with acc := [], ksteps := [], rowstat := [] }

/-- `f` applied to every cell of a field. -/
def State.onCells (s : State) (f : Nat) (g : CellSt → CellSt) : State :=
  (s.cellsOf f).foldl (fun s c => s.setCell c (g (s.cell c))) s

/-! ## Cluster-mover records (05 R121, R133) -/

/-- A queue of cluster-mover records is full. -/
def State.cmqFull (s : State) (f : Nat) : Bool :=
  (s.rd MOV_CMQ.TAIL f + 2 ^ 32 - s.rd MOV_CMQ.HEAD f) % 2 ^ 32 == 2 ^ s.rd MOV_CMQ.ENTRIES_LOG2 f

/-- A record written at the queue's tail. -/
def State.cmqWrite (s : State) (f : Nat) (r : CmqRec) : State :=
  let tail := s.rd MOV_CMQ.TAIL f
  let a := s.rd MOV_CMQ.BASE f / 64 * 64 + tail % 2 ^ s.rd MOV_CMQ.ENTRIES_LOG2 f * 16
  let bs := leBytes 2 r.tag ++ leBytes 1 f ++ leBytes 1 r.kind ++ leBytes 1 r.status ++ leBytes 3 0 ++
    leBytes 4 r.bytes ++ leBytes 4 r.crc
  (s.memWrite a bs).wr MOV_CMQ.TAIL (tail + 1) f

/-- A record appended, or held by the mover while the queue is full. -/
def State.cmqAppend (s : State) (f : Nat) (r : CmqRec) : State :=
  if s.cmqFull f || !(s.frt f).heldRecs.isEmpty then
    s.setF f { s.frt f with heldRecs := (s.frt f).heldRecs ++ [r] }
  else s.cmqWrite f r

/-- The unfinished cluster-mover transfers that a predicate selects are squashed, each with a record (05 R121). -/
def State.squashMoves (s : State) (f : Nat) (p : ClMove → Bool) : State :=
  let x := s.frt f
  let s := s.setF f { x with moves := x.moves.filter (fun m => !p m) }
  (x.moves.filter p).foldl (fun s m => s.cmqAppend f ⟨m.tag, m.kind, 0x50, 0, 0⟩) s

/-! ## Releases (02 R53) -/

/-- The admitted FIELD_RELEASEs that a predicate selects complete with the status given. -/
def State.dropReleases (s : State) (f : Nat) (p : Cmd → Bool) (status : Nat) : State :=
  let x := s.frt f
  let s := s.setF f { x with releases := x.releases.filter (fun c => !p c) }
  (x.releases.filter p).foldl (fun s c => s.complete c status 0 0) s

/-! ## Clearing (02 R50) -/

/-- A store with the keys of [lo, hi) forgotten. -/
def Sparse.forget {α : Type} (l : Sparse α) (lo hi : Nat) : Sparse α := l.filter (fun x => x.1 < lo || hi ≤ x.1)

/-- The pockets, cluster SRAM, accumulators, vector registers and row statistics of a cluster zeroed (02 R50). -/
def State.zeroCluster (s : State) (k : Nat) : State :=
  let m := s.mem
  let s := { s with mem := { m with
    pocket := Sparse.forget m.pocket (k * 16 * 0x20000) ((k * 16 + 16) * 0x20000),
    pocketErr := Sparse.forget m.pocketErr (k * 16 * 0x4000) ((k * 16 + 16) * 0x4000),
    sram := Sparse.forget m.sram (k * 0x80000) ((k + 1) * 0x80000),
    sramErr := Sparse.forget m.sramErr (k * 0x10000) ((k + 1) * 0x10000) } }
  (List.range 16).foldl (fun s i =>
    let c := s.cell (k * 16 + i)
    s.setCell (k * 16 + i) { c.kill with vreg := [], chk := [] }) s

/-- A field enters CLEARING: its pool is unbound, its image and attachments are gone (02 R50, 07 R188). `gone` names the
VEFs that are told FIELD_GONE (06 R160). -/
def State.enterClearing (s : State) (f : Fin 17) (gone : List Nat) : State :=
  let h := s.handle f
  let s := s.unbindPool f
  let s := s.events gone 0x03 h 0
  let s := s.dropReleases f (fun _ => true) 0x21
  let s := (s.onCells f CellSt.halt).squashMoves f (fun _ => true)
  let s := s.setF f { s.frt f with image := none, attached := [], releases := [], emptied := none, killSince := none,
                                   faultDrain := false, needReinit := false, hold := false, resetAsked := false }
  let s := { s with saf := { s.saf with unresolved := s.saf.unresolved.filter (· != f.val),
                                        needGolden := s.saf.needGolden.filter (· != f.val),
                                        forced := s.saf.forced.filter (· != f.val) } }
  s.setState f stClearing

/-- A field that its last VEF has left is cleared once nothing is in flight in it (02 R53). -/
def State.clearEmptied (s : State) (f : Fin 17) : State :=
  match (s.frt f).emptied with
  | some gone => if s.fState f = stIdle ∨ s.fState f = stStopped then s.enterClearing f gone else s
  | none => s

/-- A RUNNING field with nothing left in flight is IDLE (02 R50). -/
def State.settle (s : State) (f : Fin 17) : State :=
  let s := s.countFlight f
  if s.fState f = stRunning ∧ (s.jobsOn (.field f)).isEmpty then (s.setState f stIdle).clearEmptied f else s

/-! ## Faults, kills and stops -/

/-- Commands of chapter 7 that occupy no cell (07 R173). -/
def tableOp (op : Nat) : Bool := op == 0x40 || op == 0x42 || op == 0x43 || op == 0x44

/-- Every command in flight in a field ends with OUTPUT_INVALID at its commit; the one that broke an arithmetic rule
ends with FORMAT_ERROR, cause 0x05 (02 R56, 03 R71). -/
def State.endFlight (s : State) (f : Fin 17) (bad : Option Nat) : State :=
  { s with flight := s.flight.map (fun j =>
      if j.res = .field f then
        { j with outcome := if bad = some j.cmd.serial then .ended 0x40 0x05 0 else .ended 0x30 0 0 }
      else j) }

/-- A contained fault of a field (02 R56): its commands in flight end, its cells halt, and the field drains; a golden's
fault counts as a golden failure (10 R265). A table command occupies no cell and is not ended (07 R173). -/
def State.contained (s : State) (f : Fin 17) (source : Nat) (bad : Option Nat) : State :=
  if (s.jobsOn (.field f)).all (fun j => tableOp j.cmd.opcode) then s.reportField source f
  else
    let golden := (s.jobsOn (.field f)).any (fun j => j.golden)
    let s := ((s.endFlight f bad).onCells f CellSt.halt).squashMoves f (fun _ => true)
    let s := s.setF f { s.frt f with faultDrain := true }
    if golden then s else s.reportField source f

/-- A contained fault with an FLD_ERR flag. -/
def State.fldFault (s : State) (f : Fin 17) (n cell word : Nat) : State :=
  (s.fldError f n cell word).contained f 0x10 none

/-- A field stopped: its commands in flight complete at once with the status given, its cells halt, and its VEFs are told
(02 R50, R55, 06 R160, 10 R264). -/
def State.stopField (s : State) (f : Fin 17) (status : Nat) : State :=
  let s := (s.jobsOn (.field f)).foldl (fun s j =>
    s.endJob j (match j.outcome with
      | .ended st _ _ => if st = 0x41 then st else status
      | .running => status) 0 0) s
  let s := ((s.onCells f CellSt.halt).squashMoves f (fun _ => true)).countFlight f
  let s := s.setF f { s.frt f with faultDrain := false, killSince := none }
  let s := s.setState f stStopped
  (s.events (s.frt f).attached 0x01 (s.handle f) (s.errWord f + s.locWord f * 2 ^ 32)).clearEmptied f

/-- A kill of a field decided (02 R52): sequencers stop, flits and credits are discarded, accumulators and row
statistics are cleared, and the field drains. A table command in flight runs on, and the kill takes effect after its commit,
when nothing is in flight (07 R173). -/
def State.killField (s : State) (f : Fin 17) : State :=
  if (s.jobsOn (.field f)).any (fun j => tableOp j.cmd.opcode) then s.setF f { s.frt f with killSince := some s.localNs } else
  let s := (s.onCells f CellSt.kill).squashMoves f (fun m => m.kind == 0x02)
  (s.setF f { s.frt f with killSince := some s.localNs, faultDrain := false }).setState f stDraining

/-! ## Re-initialisation -/

/-- A re-initialisation started: the field enters LOADING with its own image, GENERATION unchanged. -/
def State.startReinit (s : State) (f : Fin 17) : State :=
  match (s.frt f).image with
  | none => s
  | some i =>
    let l : Load := { field := f, cmd := none, image := i, cls := if s.isSafety f then 0 else 1, reinit := true,
                      phase := .waitStitch, serial := s.fetched, cause := 0, kill := 0, attach := [],
                      rect := (s.rd PLAIN_FLD_CFG.ORIGIN_X f, s.rd PLAIN_FLD_CFG.ORIGIN_Y f, s.fWidth f, s.fHeight f),
                      wins := [], bind := none }
    let s := s.setState f stLoading
    { s with loads := s.loads ++ [l], fetched := s.fetched + 1 }

/-! ## Detaching (02 R53) -/

/-- The queued commands of VEF `v` for a field complete with NO_FIELD (02 R53). -/
def State.endQueuedOf (s : State) (f : Fin 17) (v : Nat) : State :=
  (s.queue.filter (fun q => q.1 == .field f && q.2.vef == v)).foldl (fun s q => s.endQueued q.2 0x21 0 0) s

/-- VEF `v` detached from a field (02 R53): its queued commands complete with NO_FIELD and its sequences are retired,
but for a freeze, which keeps both (12 R305); when it was the last VEF the field enters CLEARING, a RUNNING or DRAINING
one once what is in flight has ended. -/
def State.detach (s : State) (f : Fin 17) (v : Nat) (frozen : Bool) (gone : List Nat) : State :=
  let s := if frozen then s else (s.endQueuedOf f v).retireVef f v
  let x := s.frt f
  let rest := x.attached.filter (· != v)
  let s := s.setF f { x with attached := rest, releases := x.releases.filter (fun c => c.vef != v) }
  let st := s.fState f
  if rest.isEmpty && st != stFree && st != stClearing then
    if st == stRunning || st == stDraining then s.setF f { s.frt f with emptied := some gone } else s.enterClearing f gone
  else s

/-- Fields to which a VEF is attached. -/
def State.fieldsOf (s : State) (v : Nat) : List (Fin 17) :=
  (List.finRange 17).filter (fun f => (s.frt f).attached.contains v)

end Sys2Proof.Machine
end

