-- ==== Sys2Proof/Machine/Merge.lean ====
section
/-! DEFINITION. How a 32-bit or 64-bit write meets the fields of a register (17 R420): which fields it touches, and the
value each takes from the new bits and the old. -/

namespace Sys2Proof.Machine

/-- A write of `b` bytes at byte offset `o` of a register touches a field. -/
def Fld.touched (f : Fld) (o b : Nat) : Bool := decide (f.lo < 8 * (o + b)) && decide (8 * o < f.lo + f.w)

/-- The value a field takes from a write: the new bits of the words written beside the old bits of the others. -/
def Fld.merge (f : Fld) (old o b value : Nat) : Nat :=
  let x := old * 2 ^ f.lo
  let mask := (2 ^ (8 * b) - 1) * 2 ^ (8 * o)
  bits (x - (x &&& mask) + value % 2 ^ (8 * b) * 2 ^ (8 * o)) f.lo f.w

/-- The bits of a field that a write carries, the rest zero (for WO and W1C fields). -/
def Fld.given (f : Fld) (o b value : Nat) : Nat := f.merge 0 o b value

/-- The address of a register of an array. -/
def RegName.addr (r : RegName) (i : Nat := 0) (j : Nat := 0) : Nat := r.place.base + i * r.place.step1 + j * r.place.step2

/-- A register write, as its address meets a register: register, indices and byte offset inside it. -/
structure Hit where
  reg : RegName
  i : Nat
  j : Nat
  off : Nat
  deriving DecidableEq, Repr

/-- Whether an address lies in a register (or array of registers), and where. -/
def RegName.hit (r : RegName) (a : Nat) : Option Hit :=
  let p := r.place
  if a < p.base then none
  else
    let d := a - p.base
    let i := if p.step1 = 0 then 0 else d / p.step1
    let d1 := if p.step1 = 0 then d else d % p.step1
    let j := if p.step2 = 0 then 0 else d1 / p.step2
    let o := if p.step2 = 0 then d1 else d1 % p.step2
    if i < p.n1 ∧ j < p.n2 ∧ o < p.bytes then some ⟨r, i, j, o⟩ else none

/-- The register that holds an address. -/
def findReg (a : Nat) : Option Hit := allRegs.findSome? (fun r => r.hit a)

/-- The stored value of an RW field changed by a write, where the write touches it. -/
def State.store (s : State) (f : Fld) (o b value : Nat) (i : Nat := 0) (j : Nat := 0) : State :=
  if f.touched o b then s.wr f (f.merge (s.rd f i j) o b value) i j else s

/-- A write carried out for the requesters that a predicate names, refused to the others (17 R421, R422). -/
def State.asWho (s : State) (src : Source) (addr : Nat) (ok : Requester → Bool) (f : State → State) : State :=
  if ok (s.who src) then f s else s.denied (s.who src) addr

/-- The hypervisor alone, and the Cantle alone. -/
def Requester.hyp : Requester → Bool
  | .hypervisor => true
  | _ => false
def Requester.isCantle : Requester → Bool
  | .cantle => true
  | _ => false
def Requester.fw : Requester → Bool
  | .firmware => true
  | _ => false

end Sys2Proof.Machine
end

