-- ==== Sys2Proof/Machine/Rings.lean ====
section
/-! DEFINITION. The ring commands (chapter 6): doorbells, ring configuration, descriptor fetch, NOP and FENCE, and the
accounting rings. -/

namespace Sys2Proof.Machine

/-- Mode codes of SYS_MODE (01 R23). -/
def mBoot : Nat := 0
def mDrive : Nat := 1
def mWarm : Nat := 2
def mCold : Nat := 3
def mDepot : Nat := 4

/-- VEF states (12 R313). -/
def vDisabled : Nat := 0
def vActive : Nat := 1
def vFreezing : Nat := 2
def vFrozen : Nat := 3
def vResetting : Nat := 4

/-- The mode in force. -/
def State.cur (s : State) : Nat := s.rd SYS_MODE.CURRENT

/-- ROM and firmware run the boot of the always-on timer, which ends in PARK_WARM (16 R412). -/
def State.parkBoot (s : State) : Bool := decide (s.mode.trans = some (.boot true))

/-- Who may reach the doorbell page of VEF `v`: its own driver, the hypervisor and firmware (06 The doorbell page). -/
def pageOk (who : Requester) (v : Nat) : Bool :=
  match who with
  | .vef u => u == v
  | .firmware | .hypervisor => true
  | _ => false

/-- The identity of an access to a doorbell page: the physical function is VEF 0 at page 0 and the hypervisor at the
others (12 R295, R296). -/
def State.pageWho (s : State) (src : Source) (v : Nat) : Requester :=
  match src with
  | .pciePF => if v = 0 then .vef 0 else .hypervisor
  | _ => s.requester src false

/-! ## Doorbells (06 R141) -/

/-- A 32-bit doorbell write: ignored with BAD_DB and an event where the ring is disabled or the tail out of range,
otherwise the new tail. -/
def State.doorbell (s : State) (v r value : Nat) : State :=
  let tail := value % 65536
  if !s.flag SQ_CFG.ENABLE v r || decide (tail ≥ 2 ^ s.rd SQ_CFG.SIZE_LOG2 v r) then
    (s.wr DB_STAT.BAD_DB 1 v).event v 0x05 r tail
  else s.wr DB_SQ_TAIL.TAIL tail v r

/-- The Cantle has read every completion record of its ring. DESIGN CHOICE: it does so whenever it submits; the manual leaves
that to its image. -/
def State.cantleReads (s : State) : State := s.wr DB_CQ_HEAD.HEAD (s.rd CQ_CFG.TAIL cantleSet) cantleSet

/-- An operation on one of the Cantle's two submission rings, which only the Cantle reaches (10 R258). -/
def State.onCantleRing (s : State) (src : Source) (ring : Nat) (op : State → State) : State :=
  if s.who src = .cantle ∧ ring < 2 then op s else s

/-- DOORBELL. Ring set 128 is the Cantle's own. -/
def execDoorbell (src : Source) (vef : Fin 129) (ring : Fin 8) (value : BitVec 32) (s : State) : Ans :=
  let who := s.pageWho src vef
  if vef.val = cantleSet then .next (s.onCantleRing src ring (fun s => (s.doorbell vef ring value.toNat).cantleReads))
  else if pageOk who vef then .next (s.doorbell vef ring value.toNat)
  else .next (s.denied who (0xF100000000 + vef.val * 0x1000 + ring.val * 4))

/-! ## Enabling and configuring rings (06 R135–R140, R156) -/

/-- ENABLE of a submission ring set: HEAD and TAIL are 0 (06 R139). -/
def State.sqEnable (s : State) (v r : Nat) : State :=
  (((s.wr SQ_CFG.ENABLE 1 v r).wr SQ_CFG.HEAD 0 v r).wr DB_SQ_TAIL.TAIL 0 v r).setRing v r RingRt.rest

/-- ENABLE of the completion ring set: indices 0 and PHASE 1 (06 R139, R159). -/
def State.cqEnable (s : State) (v : Nat) : State :=
  let s := ((s.wr CQ_CFG.ENABLE 1 v).wr CQ_CFG.TAIL 0 v).wr DB_CQ_HEAD.HEAD 0 v
  s.setV v { s.vrt v with cqPhase := true }

/-- ENABLE of the event ring set. -/
def State.eqEnable (s : State) (v : Nat) : State :=
  let s := ((s.wr EQ_CFG.ENABLE 1 v).wr EQ_CFG.TAIL 0 v).wr DB_EQ_HEAD.HEAD 0 v
  s.setV v { s.vrt v with eqPhase := true }

/-- ENABLE of the accounting ring set: the first window begins at that moment (06 R162). -/
def State.aqEnable (s : State) (v : Nat) : State :=
  let s := ((s.wr RING_VEF_AQ_CTL.ENABLE 1 v).wr RING_VEF_AQ_CTL.TAIL 0 v).wr RING_VEF_AQ_HEAD.HEAD 0 v
  s.setV v { s.vrt v with aqPhase := true, acctOpen := true, acct := Acct.opened s.vehicleNs, acctDue := [], acctBack := none }

/-- ENABLE of the accounting ring cleared: the records of the windows that have ended are formed, and accounting stops
(06 R162). -/
def State.aqDisable (s : State) (v : Nat) : State :=
  let s := ((s.closeEnded v s.vehicleNs).postDue v).wr RING_VEF_AQ_CTL.ENABLE 0 v
  s.setV v { s.vrt v with acctOpen := false }

/-- ENABLE of a submission ring cleared: fetching stops, and commands fetched and not admitted complete with SQUASHED
(06 R156). -/
def State.sqDisable (s : State) (v r : Nat) : State :=
  let s := s.wr SQ_CFG.ENABLE 0 v r
  let mine := s.queue.filter (fun q => q.2.vef == v && q.2.ring == r)
  let s := mine.foldl (fun s q => s.endQueued q.2 0x50 0 0) s
  s.setRing v r { s.ringRt v r with fence := none }

/-- A write of 0 to CQ_CFG.ENABLE is ignored, with CFG_IGNORED, while a submission ring is enabled or not idle
(06 R139). -/
def State.cqDisable (s : State) (v : Nat) : State :=
  if (List.range 8).any (fun r => s.flag SQ_CFG.ENABLE v r || !s.flag SQ_CFG.IDLE v r) then s.wr DB_STAT.CFG_IGNORED 1 v
  else s.wr CQ_CFG.ENABLE 0 v

/-- A field of a doorbell-page ring stored through a store rule; a value other than the one written sets CFG_IGNORED
(06 R139). -/
def State.ringStore (s : State) (f : Fld) (rule : Nat → Nat) (o b value v r : Nat) : State :=
  if f.touched o b then
    let x := f.merge (s.rd f v r) o b value
    let s := s.wr f (rule x) v r
    if rule x = x then s else s.wr DB_STAT.CFG_IGNORED 1 v
  else s

/-- SIZE_LOG2: 6–16; other values store 6 (06 R137). -/
def sizeRule (x : Nat) : Nat := if 6 ≤ x ∧ x ≤ 16 then x else 6

/-- LOC = 1 stores 0 in root-port mode (06 R135). -/
def State.locRule (s : State) (x : Nat) : Nat := if s.flag SYS_STRAP.PCIE_MODE then x else 0

/-- A BASE whose bits [11:0] are ignored and read zero. -/
def baseRule (x : Nat) : Nat := x / 4096 * 4096

/-- A class of higher priority than MAX_CLASS stores MAX_CLASS (06 R139). -/
def State.classRule (s : State) (v x : Nat) : Nat := max x (s.rd RING_VEF_CFG.MAX_CLASS v)

/-- The write reaches some field of a list. -/
def touchesAny (fs : List Fld) (o b : Nat) : Bool := fs.any (fun f => f.touched o b)

/-- A write to SQ_CFG[r] of VEF `v` at byte offset `o` (06 R137, R139). -/
def State.sqCfgWrite (s : State) (v r o b value : Nat) : State :=
  let fs := [SQ_CFG.BASE, SQ_CFG.SIZE_LOG2, SQ_CFG.ENGINE, SQ_CFG.CLASS, SQ_CFG.LOC]
  let s := if s.flag SQ_CFG.ENABLE v r then
      (if touchesAny fs o b then s.wr DB_STAT.CFG_IGNORED 1 v else s)
    else
      let s := if SQ_CFG.BASE.touched o b then s.wr SQ_CFG.BASE (baseRule (SQ_CFG.BASE.merge (s.rd SQ_CFG.BASE v r) o b value)) v r else s
      let s := s.ringStore SQ_CFG.SIZE_LOG2 sizeRule o b value v r
      let s := s.store SQ_CFG.ENGINE o b value v r
      let s := s.ringStore SQ_CFG.CLASS (s.classRule v) o b value v r
      s.ringStore SQ_CFG.LOC s.locRule o b value v r
  if SQ_CFG.ENABLE.touched o b then
    let on := SQ_CFG.ENABLE.merge (s.rd SQ_CFG.ENABLE v r) o b value
    if on = 1 ∧ !s.flag SQ_CFG.ENABLE v r then s.sqEnable v r
    else if on = 0 ∧ s.flag SQ_CFG.ENABLE v r then s.sqDisable v r else s
  else s

/-- A write to CQ_CFG of VEF `v` (06 R138, R139). -/
def State.cqCfgWrite (s : State) (v o b value : Nat) : State :=
  let fs := [CQ_CFG.BASE, CQ_CFG.SIZE_LOG2, CQ_CFG.LOC, CQ_CFG.IRQ_EN, CQ_CFG.IRQ_ADDR, CQ_CFG.IRQ_DATA]
  let s := if s.flag CQ_CFG.ENABLE v then
      (if touchesAny fs o b then s.wr DB_STAT.CFG_IGNORED 1 v else s)
    else
      let s := if CQ_CFG.BASE.touched o b then s.wr CQ_CFG.BASE (baseRule (CQ_CFG.BASE.merge (s.rd CQ_CFG.BASE v) o b value)) v else s
      let s := s.ringStore CQ_CFG.SIZE_LOG2 sizeRule o b value v 0
      let s := s.ringStore CQ_CFG.LOC s.locRule o b value v 0
      ((s.store CQ_CFG.IRQ_EN o b value v).store CQ_CFG.IRQ_ADDR o b value v).store CQ_CFG.IRQ_DATA o b value v
  if CQ_CFG.ENABLE.touched o b then
    let on := CQ_CFG.ENABLE.merge (s.rd CQ_CFG.ENABLE v) o b value
    if on = 1 ∧ !s.flag CQ_CFG.ENABLE v then s.cqEnable v
    else if on = 0 then s.cqDisable v else s
  else s

/-- A write to EQ_CFG of VEF `v` (06 R138, R139). -/
def State.eqCfgWrite (s : State) (v o b value : Nat) : State :=
  let fs := [EQ_CFG.BASE, EQ_CFG.SIZE_LOG2, EQ_CFG.LOC, EQ_CFG.IRQ_EN, EQ_CFG.IRQ_ADDR, EQ_CFG.IRQ_DATA]
  let s := if s.flag EQ_CFG.ENABLE v then
      (if touchesAny fs o b then s.wr DB_STAT.CFG_IGNORED 1 v else s)
    else
      let s := if EQ_CFG.BASE.touched o b then s.wr EQ_CFG.BASE (baseRule (EQ_CFG.BASE.merge (s.rd EQ_CFG.BASE v) o b value)) v else s
      let s := s.ringStore EQ_CFG.SIZE_LOG2 sizeRule o b value v 0
      let s := s.ringStore EQ_CFG.LOC s.locRule o b value v 0
      ((s.store EQ_CFG.IRQ_EN o b value v).store EQ_CFG.IRQ_ADDR o b value v).store EQ_CFG.IRQ_DATA o b value v
  if EQ_CFG.ENABLE.touched o b then
    let on := EQ_CFG.ENABLE.merge (s.rd EQ_CFG.ENABLE v) o b value
    if on = 1 ∧ !s.flag EQ_CFG.ENABLE v then s.eqEnable v
    else if on = 0 then s.wr EQ_CFG.ENABLE 0 v else s
  else s

/-- A write to the accounting ring's part of RING_VEF[v] (06 R140): while the ring is enabled its other fields ignore
writes; DB_STAT belongs to the VEF's own rings and is not touched. -/
def State.aqWrite (s : State) (reg : RegName) (v o b value : Nat) : State :=
  let on := s.flag RING_VEF_AQ_CTL.ENABLE v
  match reg with
  | .ringVefAqBase => if on then s else
      s.wr RING_VEF_AQ_BASE.BASE (baseRule (RING_VEF_AQ_BASE.BASE.merge (s.rd RING_VEF_AQ_BASE.BASE v) o b value)) v
  | .ringVefAqIrqAddr => if on then s else s.store RING_VEF_AQ_IRQ_ADDR.IRQ_ADDR o b value v
  | .ringVefAqIrqData => if on then s else s.store RING_VEF_AQ_IRQ_DATA.IRQ_DATA o b value v
  | .ringVefAqHead => s.store RING_VEF_AQ_HEAD.HEAD o b value v
  | .ringVefAqCtl =>
    let s := if on then s else
      let s := if RING_VEF_AQ_CTL.SIZE_LOG2.touched o b then
        s.wr RING_VEF_AQ_CTL.SIZE_LOG2 (sizeRule (RING_VEF_AQ_CTL.SIZE_LOG2.merge 6 o b value)) v else s
      let s := if RING_VEF_AQ_CTL.LOC.touched o b then
        s.wr RING_VEF_AQ_CTL.LOC (s.locRule (RING_VEF_AQ_CTL.LOC.given o b value)) v else s
      s.store RING_VEF_AQ_CTL.IRQ_EN o b value v
    if RING_VEF_AQ_CTL.ENABLE.touched o b then
      let e := RING_VEF_AQ_CTL.ENABLE.given o b value
      if e = 1 ∧ !on then s.aqEnable v
      else if e = 0 ∧ on then s.aqDisable v
      else s
    else s
  | _ => s

/-- The hypervisor's configuration of VEF `v`: for a tenant VEF a MAX_CLASS above INTERACTIVE stores INTERACTIVE
(06 R140, 12 R299). -/
def State.vefCfgWrite (s : State) (v o b value : Nat) : State :=
  let s := if RING_VEF_CFG.MAX_CLASS.touched o b then
      let m := RING_VEF_CFG.MAX_CLASS.merge (s.rd RING_VEF_CFG.MAX_CLASS v) o b value
      s.wr RING_VEF_CFG.MAX_CLASS (if s.flag VEF_CTL.TENANT v then max m 2 else m) v
    else s
  (s.store RING_VEF_CFG.PRIV o b value v).store RING_VEF_CFG.STREAM_ID o b value v

/-- A write to one ring register, by register. -/
def State.ringRegWrite (s : State) (h : Hit) (b value : Nat) : State :=
  match h.reg with
  | .sqCfg => s.sqCfgWrite h.i h.j h.off b value
  | .cqCfg => s.cqCfgWrite h.i h.off b value
  | .eqCfg => s.eqCfgWrite h.i h.off b value
  | .dbCqHead => s.store DB_CQ_HEAD.HEAD h.off b value h.i
  | .dbEqHead => s.store DB_EQ_HEAD.HEAD h.off b value h.i
  | .dbStat =>
    let s := if DB_STAT.BAD_DB.given h.off b value = 1 then s.wr DB_STAT.BAD_DB 0 h.i else s
    if DB_STAT.CFG_IGNORED.given h.off b value = 1 then s.wr DB_STAT.CFG_IGNORED 0 h.i else s
  | .ringVefCfg => s.vefCfgWrite h.i h.off b value
  | .ringVefAsid => s.store RING_VEF_ASID.ASID h.off b value h.i h.j
  | r => s.aqWrite r h.i h.off b value

/-- A register of the doorbell pages. -/
def RegName.onPage : RegName → Bool
  | .dbSqTail | .dbCqHead | .dbEqHead | .dbStat | .sqCfg | .cqCfg | .eqCfg => true
  | _ => false

/-- A register of the RING block. -/
def RegName.inRing : RegName → Bool
  | .ringVefCfg | .ringVefAsid | .ringVefDisc | .ringVefAqBase | .ringVefAqCtl | .ringVefAqHead | .ringVefAqIrqAddr
  | .ringVefAqIrqData => true
  | _ => false

/-- A ring register write by a requester: refused ones are counted (06 R139, R140, 17 R422). -/
def State.ringCfgWrite (s : State) (src : Source) (addr b value : Nat) : State :=
  match findReg addr with
  | none => s
  | some h =>
    if h.reg.onPage then
      let who := s.pageWho src h.i
      if pageOk who h.i then s.ringRegWrite h b value else s.denied who addr
    else if h.reg.inRing then
      let who := s.who src
      if who.fwHyp then s.ringRegWrite h b value else s.denied who addr
    else s

/-- The words of a 64-bit write that fall into two registers are written one after the other (17 R420). -/
def State.ringCfgAccess (s : State) (src : Source) (addr b value : Nat) : State :=
  match findReg addr with
  | none => s
  | some h =>
    if b = 8 ∧ h.off + 8 > h.reg.place.bytes then
      (s.ringCfgWrite src addr 4 (value % 2 ^ 32)).ringCfgWrite src (addr + 4) 4 (value / 2 ^ 32)
    else s.ringCfgWrite src addr b value

/-- RING_CONFIG_WRITE. -/
def execRingConfigWrite (src : Source) (addr bytes value : Nat) (s : State) : Ans :=
  if bytes = 4 ∨ bytes = 8 then
    if addr % bytes = 0 then .next (s.ringCfgAccess src addr bytes value) else .next s
  else .next s

/-- The Cantle's rings set up by its image: two submission rings and a completion ring in the resident driving region
(10 R258). -/
def State.residentAt (s : State) (n align : Nat) : Nat :=
  s.rgnBase rgnResident + Config.cantleWord n % max 1 (s.rgnEnd rgnResident - s.rgnBase rgnResident) / align * align
def State.cantleRings (s : State) : State :=
  if s.saf.held then s
  else
    let sq (s : State) (r : Nat) : State :=
      (((s.wr SQ_CFG.BASE (s.residentAt r 4096) cantleSet r).wr SQ_CFG.SIZE_LOG2 (sizeRule (Config.cantleWord (8 + r))) cantleSet r).wr
        SQ_CFG.LOC 0 cantleSet r).sqEnable cantleSet r
    let s := sq (sq s 0) 1
    (((s.wr CQ_CFG.BASE (s.residentAt 2 4096) cantleSet).wr CQ_CFG.SIZE_LOG2 (sizeRule (Config.cantleWord 10)) cantleSet).wr
      CQ_CFG.LOC 0 cantleSet).cqEnable cantleSet

/-- RING_ENABLE: ENABLE = 1 written to a ring that is not enabled. The Cantle's set has two submission rings and a completion
ring. -/
def execRingEnable (src : Source) (vef : Fin 129) (ring : RingSel) (s : State) : Ans :=
  if vef.val = cantleSet then .next (match ring with
    | .sq r => s.onCantleRing src r (fun s => if s.flag SQ_CFG.ENABLE vef r then s else s.sqEnable vef r)
    | .cq => s.onCantleRing src 0 (fun s => if s.flag CQ_CFG.ENABLE vef then s else s.cqEnable vef)
    | .eq | .aq => s)
  else
  let v := vef.val
  let page := 0xF100000000 + v * 0x1000
  let pg := s.pageWho src v
  let rb := s.who src
  .next (match ring with
    | .sq r => if !pageOk pg v then s.denied pg (page + 0x100 + r.val * 0x20)
        else if s.flag SQ_CFG.ENABLE v r then s else s.sqEnable v r
    | .cq => if !pageOk pg v then s.denied pg (page + 0x200)
        else if s.flag CQ_CFG.ENABLE v then s else s.cqEnable v
    | .eq => if !pageOk pg v then s.denied pg (page + 0x220)
        else if s.flag EQ_CFG.ENABLE v then s else s.eqEnable v
    | .aq => if !rb.fwHyp then s.denied rb (0xF000901000 + v * 0x80 + 0x30)
        else if s.flag RING_VEF_AQ_CTL.ENABLE v then s else s.aqEnable v)

/-- SQ_DISABLE: ENABLE = 0 written to a submission ring. -/
def execSqDisable (src : Source) (vef : Fin 129) (ring : Fin 8) (s : State) : Ans :=
  let who := s.pageWho src vef
  if vef.val = cantleSet then
    .next (s.onCantleRing src ring (fun s => if s.flag SQ_CFG.ENABLE vef ring then s.sqDisable vef ring else s))
  else if !pageOk who vef then .next (s.denied who (0xF100000100 + vef.val * 0x1000 + ring.val * 0x20))
  else if s.flag SQ_CFG.ENABLE vef ring then .next (s.sqDisable vef ring) else .next s

/-! ## Fetching descriptors (06 R142–R147) -/

/-- Opcodes and the engine class that accepts them: 0 FIELD, 1 RENDER, 2 DMA, 3 PROJECTOR (06 R135, R145). -/
def opEngine (op : Nat) : Option Nat :=
  if op ∈ [0x20, 0x21, 0x22, 0x30, 0x31, 0x40, 0x41, 0x42, 0x43, 0x44] then some 0
  else if op ∈ [0x50, 0x51] then some 1
  else if op ∈ [0x10, 0x11, 0x12, 0x70, 0x71] then some 2
  else if op = 0x60 then some 3
  else none

/-- NOP and FENCE are accepted by every engine class. -/
def opCommon (op : Nat) : Bool := op == 1 || op == 2

/-- Operand bytes of an opcode: (offset, length) pairs; every other operand byte is reserved (06 R145). -/
def opOperands (op : Nat) : List (Nat × Nat) :=
  match op with
  | 0x02 => [(0x18, 1)]
  | 0x10 => [(0x18, 8), (0x20, 8), (0x28, 8)]
  | 0x11 => [(0x20, 8), (0x28, 8), (0x30, 8)]
  | 0x12 => [(0x18, 8), (0x28, 8)]
  | 0x20 => [(0x18, 8), (0x20, 8), (0x28, 8), (0x30, 4), (0x34, 4)]
  | 0x21 => [(0x30, 4)]
  | 0x22 => [(0x30, 4)]
  | 0x30 => [(0x18, 8), (0x20, 1), (0x30, 4)]
  | 0x31 => [(0x18, 8), (0x20, 1), (0x28, 8), (0x30, 4)]
  | 0x40 => [(0x18, 8), (0x20, 4), (0x24, 4), (0x28, 4), (0x30, 4)]
  | 0x41 => [(0x18, 8), (0x20, 1), (0x28, 8), (0x30, 4), (0x34, 4)]
  | 0x42 => [(0x28, 4), (0x30, 4)]
  | 0x43 => [(0x18, 8), (0x20, 4), (0x30, 4)]
  | 0x44 => [(0x18, 8), (0x20, 4), (0x30, 4)]
  | 0x50 => [(0x18, 8), (0x20, 4), (0x28, 8), (0x30, 1)]
  | 0x51 => [(0x18, 8), (0x20, 1), (0x28, 8)]
  | 0x60 => [(0x18, 8), (0x20, 1), (0x28, 8)]
  | 0x70 => [(0x18, 8), (0x20, 8), (0x28, 1)]
  | 0x71 => [(0x18, 8), (0x20, 8), (0x28, 1)]
  | _ => []

/-- A reserved field or bit of the descriptor is non-zero (06 R143–R145). -/
def Cmd.reservedSet (c : Cmd) : Bool :=
  c.flags ≥ 16 || c.op 2 1 ≥ 128 || c.op 3 1 != 0 || c.op 4 4 ≥ 2 ^ 20 ||
    c.op 8 4 ≥ 2 ^ 24 || c.op 0x0C 4 != 0 || (c.opcode == 0x31 && decide (c.op 0x28 8 ≥ 2 ^ 59)) ||
    (List.range 40).any (fun i =>
      !((opOperands c.opcode).any (fun x => x.1 ≤ 0x18 + i && 0x18 + i < x.1 + x.2)) && c.op (0x18 + i) 1 != 0)

/-- An IOVA operand whose bits [63:48] are not zero is out of range, but for a fabric address (06 R143). -/
def badIova (a : Nat) (fabric : Bool) : Bool := !fabric && a ≥ 2 ^ 48

/-- A field handle is malformed: bits [15:5] non-zero or an ID above 16 (06 R147). -/
def badHandle (h : Nat) : Bool := bits h 5 11 != 0 || bits h 0 5 > 16

/-- An operand lies outside its range (06 R145). -/
def Cmd.outOfRange (c : Cmd) : Bool :=
  let len := c.op 0x28 8
  let badLen := len == 0 || len > 2 ^ 40
  let src := badIova (c.op 0x18 8) c.srcFabric
  let plain := badIova (c.op 0x18 8) false
  let dst := badIova (c.op 0x20 8) c.dstFabric
  let cnt := c.op 0x20 1 > 8
  match c.opcode with
  | 0x10 => badLen || src || dst
  | 0x11 => badLen || dst
  | 0x12 => badLen || src
  | 0x20 =>
    let f := c.op 0x30 4
    let special := f == 0xFFFFFFFF || f / 256 == 0xFFFF00
    plain || badIova (c.op 0x20 8) false || (!special && badHandle f) ||
      (f != 0xFFFFFFFF && f / 256 == 0xFFFF00 &&
        (c.cls != 0 || f % 256 > 16 || (f % 256 == 16 && c.vef != cantleSet)))
  | 0x21 | 0x22 => badHandle (c.op 0x30 4)
  | 0x30 => plain || cnt || badHandle (c.op 0x30 4)
  | 0x31 => plain || cnt || badHandle (c.op 0x30 4)
  | 0x40 => plain || c.op 0x28 4 ≥ 4096 || badHandle (c.op 0x30 4)
  | 0x41 => plain || cnt || badIova (c.op 0x28 8) false || badHandle (c.op 0x30 4) || c.op 0x34 4 == 0 || c.op 0x34 4 > 257
  | 0x42 => c.op 0x28 4 ≥ 4096 || badHandle (c.op 0x30 4)
  | 0x43 | 0x44 => plain || c.op 0x20 4 % 256 != 0 || c.op 0x20 4 < 256 || c.op 0x20 4 > 262144 || badHandle (c.op 0x30 4)
  | 0x50 => plain || badIova (c.op 0x28 8) false || c.op 0x30 1 > 8
  | 0x51 => plain || c.op 0x20 1 > 5
  | 0x60 => plain || cnt || badIova (c.op 0x28 8) false
  | 0x70 | 0x71 => plain || c.op 0x28 1 > 127
  | _ => false

/-- The FORMAT_ERROR cause of a descriptor, 0 for none (06 R144 step 3, R158). -/
def Cmd.formCause (c : Cmd) : Nat :=
  match opEngine c.opcode with
  | none => if opCommon c.opcode then (if c.reservedSet then 3 else 0) else 1
  | some e => if e ≠ c.engine then 2 else if c.reservedSet then 3 else if c.outOfRange then 4 else 0

/-- The command addresses a field by handle (06 R148). -/
def Cmd.fieldCmd (c : Cmd) : Bool := c.engine == 0 && !opCommon c.opcode && c.opcode != 0x20

/-- The field that a handle names, where R147 lets the command join it. -/
def State.fieldFor (s : State) (c : Cmd) : Option (Fin 17) :=
  let h := c.op 0x30 4
  let f := bits h 0 5
  if hf : f < 17 then
    let fld : Fin 17 := ⟨f, hf⟩
    let st := s.fState f
    let safe := s.isSafety f
    let attachedOk := if c.vef = cantleSet then safe else (s.frt f).attached.contains c.vef && f != 16
    if h / 65536 = s.rd PLAIN_FLD_STATE.GENERATION f ∧ st ≠ stFree ∧ st ≠ stClearing ∧ attachedOk ∧
       (c.cls = 0) = safe then some fld else none
  else none

/-- The system-DMA engine a command of a class joins (05 R122): 0 SAFETY, 1 REALTIME, else the one of engines 2 and 3
with fewer channels holding a command, 2 on a tie. -/
def State.dmaEngineFor (s : State) (cls : Nat) : Fin 4 :=
  match cls with
  | 0 => 0
  | 1 => 1
  | _ =>
    let held (e : Nat) : Nat := ((List.range 8).filter (fun k => s.flag DMA_CH_CTL.BUSY (e * 8 + k))).length
    if held 3 < held 2 then 3 else 2

/-- The queue a fetched command joins; none where it completes at once (06 R148): NO_FIELD for a handle that fails R147,
DONE for a NOP or FENCE on a FIELD ring that follows no field-addressing command. -/
def State.routeCmd (s : State) (c : Cmd) : Except Nat Res :=
  if c.engine = 0 then
    if opCommon c.opcode then
      match (s.ringRt c.vef c.ring).lastField with
      | some f => if hf : f < 17 then .ok (.field ⟨f, hf⟩) else .error 0
      | none => .error 0
    else if c.opcode = 0x20 then .ok .loader
    else match s.fieldFor c with
      | some f => .ok (.field f)
      | none => .error 0x21
  else if c.engine = 1 then .ok .render
  else if c.engine = 2 then .ok (.dma (s.dmaEngineFor c.cls))
  else .ok .projector

/-- The class in effect for a submission ring: the lower priority of its CLASS and MAX_CLASS, and for a tenant at most
INTERACTIVE (06 R139, 12 R299). -/
def State.ringClass (s : State) (v r : Nat) : Nat :=
  if v = cantleSet then 0
  else
    let c := max (s.rd SQ_CFG.CLASS v r) (s.rd RING_VEF_CFG.MAX_CLASS v)
    if s.flag VEF_CTL.TENANT v then max c 2 else c

/-- Fetching is open for a VEF: the VEF is ACTIVE, and for a tenant the device is in DEPOT and no wake has stopped it
(12 R297, R299, 01 R19). The Cantle's rings are open while the Cantle is released. -/
def State.fetchOpen (s : State) (v : Nat) : Bool :=
  if v = cantleSet then !s.saf.held
  else s.rd VEF_CTL.STATE v == vActive &&
    (!s.flag VEF_CTL.TENANT v || (s.cur == mDepot && !s.mode.tenantStop))

/-- Unfetched descriptors of a ring. -/
def State.ringHolds (s : State) (v r : Nat) : Nat :=
  unread (s.rd SQ_CFG.HEAD v r) (s.rd DB_SQ_TAIL.TAIL v r) (2 ^ s.rd SQ_CFG.SIZE_LOG2 v r)

/-- The completion ring has room for one more record (06 R142). -/
def State.cqRoom (s : State) (v : Nat) : Bool :=
  let n := 2 ^ s.rd CQ_CFG.SIZE_LOG2 v
  s.flag CQ_CFG.ENABLE v &&
    decide (unread (s.rd DB_CQ_HEAD.HEAD v) (s.rd CQ_CFG.TAIL v) n + (s.vrt v).reserved < n - 1)

/-- Submission rings of a ring set: eight of a VEF, two of the Cantle (06 R135, 10 R258). -/
def ringCount (v : Nat) : Nat := if v = cantleSet then 2 else 8

/-- The ring that fetches next, by round robin over the ring set's enabled rings that hold a descriptor and are held by no
FENCE (06 R142, R145). -/
def State.nextRing (s : State) (v : Nat) : Option Nat :=
  let last := (s.vrt v).lastRing
  ((List.range (ringCount v)).map (fun k => (last + 1 + k) % ringCount v)).find? (fun r =>
    s.flag SQ_CFG.ENABLE v r && s.ringHolds v r != 0 && (s.ringRt v r).fence.isNone)

/-- A fetched and accepted command joins its queue or completes at once (06 R145, R147, R148). -/
def State.joinQueue (s : State) (c : Cmd) : State :=
  match s.routeCmd c with
  | .error st => s.complete c st 0 0
  | .ok r =>
    let s := { s with queue := s.queue ++ [(r, c)] }
    let rt := s.ringRt c.vef c.ring
    let rt := if c.fieldCmd then (match r with
      | .field f => { rt with lastField := some f.val }
      | _ => rt) else rt
    let rt := if c.opcode = 2 then { rt with fence := some c.serial } else rt
    (s.setRing c.vef c.ring rt).refreshIdle c.vef c.ring

/-- One descriptor fetched from ring `r` of VEF `v` and checked (06 R141–R144). -/
def State.fetch (s : State) (v r : Nat) : State :=
  let head := s.rd SQ_CFG.HEAD v r
  let n := 2 ^ s.rd SQ_CFG.SIZE_LOG2 v r
  let a := s.rd SQ_CFG.BASE v r / 4096 * 4096 + head * 64
  let host := s.flag SQ_CFG.LOC v r
  let ctx := s.sqCtx v r
  let desc := s.ringRead host ctx a 64
  let c : Cmd := ⟨v, r, s.ringClass v r, s.rd SQ_CFG.ENGINE v r, head, desc, 0, s.fetched, []⟩
  let s := (s.ringTouch host ctx a 64).wr SQ_CFG.HEAD ((head + 1) % n) v r
  let s := { s.setV v { s.vrt v with lastRing := r } with fetched := s.fetched + 1 }
  let wrongSource := v ≠ cantleSet ∧ (c.op 2 1 % 128 ≠ v ∨ c.asid ≠ s.rd RING_VEF_ASID.ASID v r ∨
    c.stream ≠ s.rd RING_VEF_CFG.STREAM_ID v)
  let noPriv := v ≠ cantleSet ∧ (c.opcode = 0x70 ∨ c.opcode = 0x71) ∧ !s.flag RING_VEF_CFG.PRIV v
  if wrongSource ∨ noPriv then s.inc RING_VEF_DISC.DISCARD v
  else
    let s := s.setV v { s.vrt v with reserved := (s.vrt v).reserved + 1 }
    let cause := c.formCause
    if cause ≠ 0 then s.complete c 0x40 cause 0 else s.joinQueue c

/-- DESCRIPTOR_FETCH: the next descriptor of a ring set, where one can be fetched. -/
def execDescriptorFetch (vef : Fin 129) (s : State) : Ans :=
  if s.fetchOpen vef && s.cqRoom vef then
    match s.nextRing vef with
    | some r => .next (s.fetch vef r)
    | none => .next s
  else .next s

/-! ## NOP and FENCE (06 R145, R148, R149) -/

/-- The head of a queue, where its opcode is the one named. -/
def State.headIs (s : State) (r : Res) (cls op : Nat) : Option Cmd :=
  match s.queueOf r cls with
  | c :: _ => if c.opcode = op then some c else none
  | [] => none

/-- NOP: at the head of its queue, and not held by WAIT, it completes DONE. -/
def execNop (res : Res) (cls : Fin 4) (s : State) : Ans :=
  match s.headIs res cls 1 with
  | some c => if s.waits c then .next s else .next (s.endQueued c 0 0 0)
  | none => .next s

/-- A FENCE waits for every command fetched earlier from the rings it selects (06 R145). -/
def State.fenceWaits (s : State) (c : Cmd) : Bool :=
  s.earlierLive c.serial (fun d => d.vef == c.vef && (c.op 0x18 1).testBit d.ring)

/-- A FENCE completed, and its ring's hold released. -/
def State.fenceDone (s : State) (c : Cmd) : State :=
  let s := s.setRing c.vef c.ring { s.ringRt c.vef c.ring with fence := none }
  s.endQueued c 0 0 0

/-- FENCE: at the head of its queue it holds its ring, and completes where nothing it selects is uncompleted. -/
def execFence (res : Res) (cls : Fin 4) (s : State) : Ans :=
  match s.headIs res cls 2 with
  | some c =>
    if s.fenceWaits c || s.waits c then
      .next (s.setRing c.vef c.ring { s.ringRt c.vef c.ring with fence := some c.serial })
    else .next (s.fenceDone c)
  | none => .next s

/-- FENCE_RELEASE: the FENCE that holds a ring completes once the commands it waits on have completed. -/
def execFenceRelease (vef : Fin 129) (ring : Fin 8) (s : State) : Ans :=
  match (s.ringRt vef ring).fence with
  | none => .next s
  | some k => match (s.queue.find? (fun q => q.2.serial == k)).map (·.2) with
    | none => .next (s.setRing vef ring { s.ringRt vef ring with fence := none })
    | some c => if s.fenceWaits c || s.waits c then .next s else .next (s.fenceDone c)

/-! ## Accounting (06 R162–R166) -/

/-- ACCOUNTING_WINDOW_END: the records of the VEF's windows that have ended are appended, or merged while the ring is
full. -/
def execAccountingWindowEnd (vef : Fin 128) (s : State) : Ans :=
  let t := s.closeEnded vef s.vehicleNs
  if s.flag RING_VEF_AQ_CTL.ENABLE vef && !(t.vrt vef).acctDue.isEmpty then .next (t.postDue vef) else .next s

/-- ACCOUNTING_RECORD_DEFERRED: a record kept pending is written once space appears, before any later record. -/
def execAccountingRecordDeferred (vef : Fin 128) (s : State) : Ans :=
  match (s.vrt vef).acctPending with
  | r :: rest =>
    if s.aqRoom vef && s.flag RING_VEF_AQ_CTL.ENABLE vef then
      let t := s.acctWrite vef r
      .next (t.setV vef { t.vrt vef with acctPending := rest })
    else .next s
  | [] => .next s

/-- ENERGY_RECALIBRATION: every 10 ms firmware takes new coefficients from the package rail sensors, the static power of
each half-quadrant among them (06 R164). -/
def execEnergyRecalibration (cell engine byte : Nat) (static : List Nat) (s : State) : Ans :=
  if s.fwOut 6 then .next s else
  if s.localNs < s.power.calAt + 10000000 && s.power.calAt != 0 then .next s
  else .next { s with power := { s.power with coefCell := cell, coefEngine := engine, coefByte := byte,
                                              coefStatic := static, calAt := s.localNs } }

end Sys2Proof.Machine
end

