-- ==== Sys2Proof/Machine/FusionOps.lean ====
section
/-! DEFINITION. The shared operations of sensor ingress and the fusion aligner (chapter 8): fusion time, storage, the
estimator, samples and records, and the release of an instant. -/

namespace Sys2Proof.Machine

/-! ## Fusion time (08 R202) -/

/-- Source states of FUS_SRC_STAT (08 R231). -/
def srcDisabled : Nat := 0
def srcActive : Nat := 1
def srcDegraded : Nat := 2
def srcTimeLost : Nat := 3

/-- W_k = E + floor((k − 1/2) × P). -/
def State.wK (s : State) (k : Nat) : Int := (s.epoch : Int) + ((2 * k - 1 : Int) * s.period.1) / (2 * s.period.2)

/-- The instant whose window holds a stamp; none before W_0. -/
def State.instantOf (s : State) (t : Int) : Option Nat :=
  let p := s.period
  let m := ((t - s.epoch + 1) * (2 * p.2) - 1) / p.1
  let k := (m + 1) / 2
  if t < s.wK 0 then none else some k.toNat

/-- L of R204 in ns. -/
def State.waitNs (s : State) : Nat := s.rd FUS_CTL.WAIT_US * 1000

/-- |x| > num/den × P for an x in units of 2^-`sh` ns. -/
def State.beyond (s : State) (x : Int) (sh num den : Nat) : Bool :=
  decide (x.natAbs * s.period.2 * den > num * s.period.1 * 2 ^ sh)

/-- DIV of a source. -/
def State.srcDiv (s : State) (i : Nat) : Nat := s.rd ING_SRC.DIV_M1 i + 1

/-- A source is due in an instant (08 R202). -/
def State.due (s : State) (i k : Nat) : Bool := k % s.srcDiv i == s.rd ING_SRC.PHASE i

def State.srt (s : State) (i : Nat) : SrcRt := Sparse.look SrcRt.rest s.fus.srcs i
def State.setSrc (s : State) (i : Nat) (x : SrcRt) : State :=
  { s with fus := { s.fus with srcs := Sparse.put SrcRt.rest s.fus.srcs i x } }

/-- A source that takes input: RUN and ENABLE are 1 (08 R199). -/
def State.srcOn (s : State) (i : Nat) : Bool := s.flag FUS_CTL.RUN && s.flag ING_SRC.ENABLE i

/-! ## Storage (08 R200, R225) -/

/-- Base of the ingress region. -/
def State.ingBase (s : State) : Nat := s.rd ING_REGION.BASE / 2 ^ 21 * 2 ^ 21

/-- Length of the ingress region. -/
def State.ingLen (s : State) : Nat := s.rd ING_REGION.LENGTH_2M * 2 ^ 21

/-- Offset of a source's storage in the region. -/
def State.srcOff (s : State) (i : Nat) : Nat := s.rd ING_SRC.OFFSET i / 4096 * 4096

/-- REC_BYTES of a stream source; 0 for the encoding that names no size. -/
def State.recBytes (s : State) (i : Nat) : Nat :=
  match bits (s.rd ING_SRC.SLOT_4K i) 0 2 with
  | 1 => 32
  | 2 => 64
  | 3 => 128
  | _ => 0

/-- DATA_LEN and CMD of an IMU source. -/
def State.dataLen (s : State) (i : Nat) : Nat := bits (s.rd ING_SRC.SLOT_4K i) 2 6
def State.imuCmd (s : State) (i : Nat) : Nat := bits (s.rd ING_SRC.SLOT_4K i) 8 8

/-- Bytes of a frame source's slot. -/
def State.slotBytes (s : State) (i : Nat) : Nat := s.rd ING_SRC.SLOT_4K i * 4096

/-- Window 14 offset of a slot. -/
def State.slotOff (s : State) (i slot : Nat) : Nat := s.srcOff i + slot * s.slotBytes i

/-- Records of a stream source's ring. -/
def State.ringRecs (s : State) (i : Nat) : Nat := 2 ^ s.rd ING_SRC.SLOTS i

/-- Bytes of a source's storage. -/
def State.srcBytes (s : State) (i : Nat) : Nat :=
  if i < 24 then s.rd ING_SRC.SLOTS i * s.slotBytes i else s.ringRecs i * s.recBytes i

/-- Camera dimensions. -/
def State.camWidth (s : State) (i : Nat) : Nat := bits (s.rd ING_SRC.KIND_C i) 0 16
def State.camHeight (s : State) (i : Nat) : Nat := bits (s.rd ING_SRC.KIND_C i) 16 16

/-- STRIDE: bytes per row rounded up to 64 (08 R200). -/
def State.stride (s : State) (i px : Nat) : Nat := (s.camWidth i * px + 63) / 64 * 64

/-- Offset of the pixels in a camera slot: 64 + HEIGHT × 8 rounded up to 4 KiB. -/
def State.pixOff (s : State) (i : Nat) : Nat := (64 + s.camHeight i * 8 + 4095) / 4096 * 4096

/-- Bytes a camera frame takes with `px` bytes a pixel. -/
def State.frameBytes (s : State) (i px : Nat) : Nat := s.pixOff i + s.camHeight i * s.stride i px

/-- Two byte ranges overlap. -/
def overlap (a n b m : Nat) : Bool := decide (a < b + m) && decide (b < a + n)

/-- The checks of a write of ENABLE from 0 to 1 (08 R225). -/
def State.srcConfigOk (s : State) (i : Nat) : Bool :=
  let o := s.srcOff i
  let n := s.srcBytes i
  decide (o + n ≤ s.ingLen) && decide (64 * 4096 ≤ o) &&
  (List.range 32).all (fun j => j == i || !s.flag ING_SRC.ENABLE j || !overlap o n (s.srcOff j) (s.srcBytes j)) &&
  decide (s.rd ING_SRC.PHASE i ≤ s.rd ING_SRC.DIV_M1 i) &&
  (if i < 24 then decide (6 ≤ s.rd ING_SRC.SLOTS i) else
    decide (6 ≤ s.rd ING_SRC.SLOTS i) && decide (s.rd ING_SRC.SLOTS i ≤ 16) && decide (s.dataLen i + 16 ≤ s.recBytes i)) &&
  (decide (16 ≤ i) || (decide (64 ≤ s.camWidth i) && decide (s.camWidth i ≤ 4096) && decide (64 ≤ s.camHeight i) &&
    decide (s.camHeight i ≤ 2304) && decide (s.frameBytes i 2 ≤ s.slotBytes i)))

/-! ## Events and drops -/

/-- An ingress or fusion event to VEF FUS_CFG.EVT_VEF (08 R223). -/
def State.fusEvent (s : State) (type source detail : Nat) : State := s.event (s.rd FUS_CFG.EVT_VEF) type source detail

/-- A drop counted. -/
def State.drop (s : State) (i : Nat) : State := s.inc FUS_SRC_STAT.DROP i

/-- A drop for want of a free slot or record, with its event (08 R201). -/
def State.dropFull (s : State) (i : Nat) : State :=
  let s := s.drop i
  s.fusEvent 0x12 i (s.rd FUS_SRC_STAT.DROP i)

/-! ## Slots (08 R200, R201) -/

/-- An admitted FRAME names instant `k`. -/
def State.named (s : State) (k : Nat) : Bool :=
  s.flight.any (fun j => j.cmd.opcode == 0x31 && !j.golden && s.frameK j.cmd == some k)

/-- A released instant is held: fewer than four newer ones are released, or an admitted FRAME names it (08 R201). -/
def State.held (s : State) (k : Nat) : Bool := decide (k < s.fus.nextK) && (decide (s.fus.nextK < k + 5) || s.named k)

/-- A slot of a frame source that ingress may not overwrite. -/
def State.slotBusy (s : State) (i slot : Nat) : Bool :=
  let x := s.srt i
  (match x.open_ with
    | some f => f.slot == slot
    | none => false) ||
  x.received.any (fun f => f.slot == slot) ||
  x.samples.any (fun p => p.slot == slot &&
    (match p.oosOf with
      | some k => decide (s.fus.nextK ≤ k)
      | none => decide (s.fus.nextK ≤ p.k))) ||
  s.fus.insts.any (fun n => s.held n.k && n.slots.contains (i, slot))

/-- The first free slot, searching upward modulo SLOTS from the slot after the previous sample's (08 R200). -/
def State.freeSlot (s : State) (i : Nat) : Option Nat :=
  let n := s.rd ING_SRC.SLOTS i
  let start := match (s.srt i).prevSlot with
    | some p => p + 1
    | none => 0
  ((List.range n).map (fun d => (start + d) % n)).find? (fun t => !s.slotBusy i t)

/-- A slot given to a new frame: the sample it held before is gone. -/
def State.takeSlot (s : State) (i slot : Nat) (f : OpenFrame) : State :=
  let x := s.srt i
  s.setSrc i { x with open_ := some f, skip := none, samples := x.samples.filter (fun p => p.slot != slot) }

/-! ## The estimator (08 R203) -/

/-- The offset and rate after a packet stamped `a` with timestamp `t`, in 2^-16 ns and 2^-40; divisions truncate toward
zero. -/
def State.estimate (s : State) (old : Option (Int × Int × Nat)) (a t : Nat) : Int × Int × Nat :=
  let d : Int := (a : Int) - t
  match old with
  | none => (d * 2 ^ 16, 0, t)
  | some (o, r, last) =>
    let dt : Int := (t : Int) - last
    let pred := o * 2 ^ 24 + r * dt
    let e := d * 2 ^ 40 - pred
    if s.beyond e 40 1 1 then (d * 2 ^ 16, 0, t)
    else
      let o := (pred + (e.tdiv (16 * 2 ^ 24)) * 2 ^ 24).tdiv (2 ^ 24)
      (o, if dt = 0 then r else r + e.tdiv (256 * dt), t)

/-- ô − LAT in 2^-16 ns. -/
def State.corr16 (s : State) (i : Nat) (o : Int) : Int := o - (s.rd ING_SRC.LAT i : Int) * 2 ^ 16

/-- The two seconds and eight updates of R207 that bring a source back from TIME_LOST. -/
def State.timeBack (s : State) (x : SrcRt) : Bool :=
  let recent := x.updates.filter (fun u => decide (s.sensorNs ≤ u.1 + 2000000000))
  decide (x.lostAt + 2000000000 ≤ s.sensorNs) && decide (8 ≤ recent.length) && recent.all (·.2)

/-- A source enters the state named at the next release. -/
def State.pend (s : State) (i st : Nat) : State := s.setSrc i { s.srt i with next := some st }

/-- The state a source has or will have at the next release. -/
def State.effState (s : State) (i : Nat) : Nat := (s.srt i).next.getD (s.rd FUS_SRC_STAT.STATE i)

/-- A lidar's estimate updated by a packet, with OFS and the test of R207. -/
def State.estUpdate (s : State) (i a t : Nat) : State :=
  let x := s.srt i
  let e := s.estimate x.est a t
  let c := s.corr16 i e.1
  let ofs := max (-(2 ^ 31 : Int)) (min (2 ^ 31 - 1) (c / 2 ^ 16))
  let s := s.wr FUS_SRC_STAT.OFS (unsigned 32 ofs) i
  let keep := x.updates.filter (fun u => decide (a ≤ u.1 + 2000000000))
  let s := s.setSrc i { x with est := some e, updates := keep ++ [(a, !s.beyond c 16 1 16)] }
  let st := s.effState i
  if s.beyond c 16 1 1 && (st == srcActive || st == srcDegraded) then s.pend i srcTimeLost else s

/-! ## Samples (08 R199, R206) -/

/-- An out-of-sequence sample joins the list of the lowest unreleased instant, where there is room and it is not too
old. -/
def State.oosAdd (s : State) (i : Nat) (p : Sample) : State :=
  let k := s.fus.nextK
  if s.fus.oos.length ≥ 64 || s.beyond (max 0 ((s.tK k : Int) - p.stamp)) 0 4 1 then s.inc FUS_STAT.OOS_DROP
  else
    let x := s.srt i
    let s := s.setSrc i { x with samples := x.samples ++ [{ p with oosOf := some k }] }
    { s with fus := { s.fus with oos := s.fus.oos ++ [⟨i, s.slotOff i p.slot, p.stamp, p.k⟩] } }

/-- A LATE sample counted, with the history that may degrade its source (08 R207). -/
def State.lateHistory (s : State) (i k : Nat) : State :=
  let s := s.inc FUS_SRC_STAT.LATE i
  let x := s.srt i
  let h := x.lates ++ [k]
  let j := h.foldl max 0
  let s := s.setSrc i { x with lates := h.filter (fun m => decide (j ≤ m + 9)) }
  if s.effState i = srcActive ∧ (h.filter (fun m => decide (j ≤ m + 9))).length ≥ 3 then s.pend i srcDegraded else s

/-- A complete frame sample placed in its window, marked LATE or EXTRA, or discarded (08 R206). -/
def State.placeSample (s : State) (i : Nat) (f : OpenFrame) : State :=
  match s.instantOf f.stamp with
  | none => s.drop i
  | some k =>
    let x := s.srt i
    if x.windows.contains k then s.inc FUS_SRC_STAT.EXTRA i
    else
      let late := decide (k < s.fus.nextK) || decide (s.tK k + s.waitNs ≤ s.sensorNs)
      let p : Sample := ⟨f.slot, f.stamp, s.sensorNs, f.seq, f.truncated, k, late, none⟩
      let s := s.setSrc i { x with windows := x.windows ++ [k] }
      if late then (s.oosAdd i p).lateHistory i k
      else s.setSrc i { s.srt i with samples := (s.srt i).samples ++ [p] }

/-- A 64-bit stamp modulo 2^64. -/
def stampBytes (t : Int) : Bytes := leBytes 8 (unsigned 64 t)

/-- The header of a camera or lidar slot written at completion (08 R200). -/
def State.slotHeader (s : State) (i : Nat) (f : OpenFrame) : State :=
  let px := if f.dt = some 0x2F then 4 else 2
  let bs := stampBytes f.stamp ++ leBytes 8 s.sensorNs ++ leBytes 4 f.seq ++
    (if i < 16 then leBytes 2 (s.camWidth i) ++ leBytes 2 (s.camHeight i) else leBytes 4 f.count) ++
    [BitVec.ofNat 8 (if i < 16 then f.dt.getD 0 else 0), BitVec.ofNat 8 (b2n (i ≥ 16 && f.truncated))] ++ leBytes 2 0 ++
    leBytes 4 (if i < 16 then s.stride i px else 0) ++
    (if i < 16 then leBytes 8 0 else stampBytes f.corr) ++ leBytes 24 0
  s.memWrite (s.ingBase + s.slotOff i f.slot) bs

/-! ## Stream records (08 R198, R201) -/

/-- The record after the last one written may be overwritten: no held instant lists the one it replaces, and that one
has been listed. -/
def State.recordFree (s : State) (i : Nat) : Bool :=
  let x := s.srt i
  let n := s.ringRecs i
  if x.written < n then true
  else
    let old := x.written - n
    decide (old < x.listed) &&
      !s.fus.insts.any (fun m => s.held m.k && m.recs.any (fun r => r.1 == i && r.2.1 ≤ old && old < r.2.1 + r.2.2))

/-- A record written to a stream source's ring, or dropped (08 R198, R201). -/
def State.putRecord (s : State) (i : Nat) (stamp : Int) (flags id : Nat) (data : Bytes) : State :=
  if !s.recordFree i then s.dropFull i
  else
    let x := s.srt i
    let w := s.recBytes i
    let a := s.ingBase + s.srcOff i + x.written % s.ringRecs i * w
    let rec_ := stampBytes stamp ++ leBytes 2 data.length ++ leBytes 2 flags ++ leBytes 4 id ++ data
    let s := s.memWrite a (rec_ ++ List.replicate (w - rec_.length) 0)
    s.setSrc i { x with written := x.written + 1 }

/-- A CAN frame copied into the records of every CAN source that its controller and identifier select (08 R198). -/
def State.canIngest (s : State) (port id flags : Nat) (data : Bytes) : State :=
  ((List.range 6).map (· + 24)).foldl (fun s i =>
    let mask := s.rd ING_SRC.KIND_B i % 2 ^ 29
    if s.srcOn i && s.rd ING_SRC.PORT i == port && (id &&& mask) == ((s.rd ING_SRC.KIND_A i % 2 ^ 29) &&& mask) then
      let cap := min 64 (s.recBytes i - 16)
      let cut := decide (64 < data.length)
      s.putRecord i ((s.sensorNs : Int) - s.rd ING_SRC.LAT i) (flags + b2n cut) id (data.take cap)
    else s) s

/-! ## Release of an instant (08 R201, R204–R207, R211, R214) -/

/-- The sample of a frame source for window `k`. -/
def State.sampleFor (s : State) (i k : Nat) : Option Sample :=
  (s.srt i).samples.find? (fun p => p.k == k && !p.late)

/-- The state that a source has at the next release, the return from TIME_LOST with it (08 R207). -/
def State.stateAtRelease (s : State) (i : Nat) : Nat :=
  if s.rd FUS_SRC_STAT.STATE i = srcTimeLost ∧ (s.srt i).next = none ∧ s.timeBack (s.srt i) then srcActive else s.effState i

/-- A source that the release of instant `k` waits for (08 R204). -/
def State.waited (s : State) (i k : Nat) : Bool :=
  let st := s.stateAtRelease i
  decide (i < 24) && s.flag ING_SRC.ENABLE i && s.flag ING_SRC.WAIT i && s.due i k && st != srcDegraded &&
    st != srcTimeLost && !(s.rd FUS_FORCE.FORCE).testBit i

/-- Every waited source has a complete sample for window `k`. -/
def State.allIn (s : State) (k : Nat) : Bool :=
  (List.range 24).all (fun i => !s.waited i k || (s.sampleFor i k).isSome)

/-- A source's state change, with its event (08 R207, R223). -/
def State.srcState (s : State) (i new k : Nat) : State :=
  let old := s.rd FUS_SRC_STAT.STATE i
  if old = new then s
  else (s.wr FUS_SRC_STAT.STATE new i).fusEvent 0x10 i (new + old * 256 + k * 2 ^ 64)

/-- The pending state change of a source made at the release of instant `k` (08 R207). -/
def State.applyState (s : State) (k i : Nat) : State :=
  let x := s.srt i
  let s := if s.rd FUS_SRC_STAT.STATE i = srcTimeLost ∧ x.next = none ∧ s.timeBack x then s.pend i srcActive else s
  match (s.srt i).next with
  | none => s
  | some new =>
    let old := s.rd FUS_SRC_STAT.STATE i
    let x := { s.srt i with next := none }
    let x := if new = srcTimeLost then { x with lostAt := s.sensorNs, updates := [], resync := none } else x
    let x := if new = srcDegraded then { x with good := 0 } else x
    let x := if old = srcTimeLost ∧ new = srcActive then { x with lates := [], updates := [], resync := none } else x
    (s.setSrc i x).srcState i new k

/-- The newest earlier sample of a source: of an earlier window, in its slot still. -/
def State.earlierSample (s : State) (i k : Nat) : Option Sample :=
  (s.srt i).samples.foldl (fun best p =>
    if p.k < k ∧ !p.late then
      match best with
      | none => some p
      | some b => if b.k < p.k then some p else best
    else best) none

/-- What the manifest lists of a source in instant `k`: flags, sample for a frame source, and for a stream source the
first record and the count. -/
structure Listing where
  flags : Nat
  sample : Option Sample
  first : Nat
  count : Nat
  deriving DecidableEq, Repr

/-- The listing of source `i` in instant `k` (08 R205, R211). -/
def State.listing (s : State) (k i : Nat) : Listing :=
  let x := s.srt i
  let en := s.flag ING_SRC.ENABLE i
  let st := s.rd FUS_SRC_STAT.STATE i
  let due := s.due i k
  let forced := (s.rd FUS_FORCE.FORCE).testBit i
  let own := if i < 24 then s.sampleFor i k else none
  let missing := en && due && (if i < 24 then own.isNone else x.sinceDue == 0)
  let stale := if i < 24 ∧ own.isNone ∧ !due then s.earlierSample i k else none
  let smp := if own.isSome then own else stale
  let masked := !en || st == srcDegraded || st == srcTimeLost || forced || missing
  let trunc := match smp with
    | some p => p.truncated
    | none => false
  let flags := b2n masked + 2 * b2n missing + 4 * b2n (st == srcDegraded) + 8 * b2n (st == srcTimeLost) +
    16 * b2n forced + 32 * b2n (!en) + 64 * b2n (!due) + 128 * b2n stale.isSome + 256 * b2n trunc
  ⟨flags, smp, x.listed % s.ringRecs i, if i < 24 then 0 else x.complete - x.listed⟩

/-- The 32-byte entry of a source in the manifest (08 R211). -/
def State.srcEntry (s : State) (i : Nat) (l : Listing) : Bytes :=
  let g := s.rd ING_SRC.GROUP i
  let head := leBytes 2 l.flags ++ [BitVec.ofNat 8 (if g < 6 then g else 7), BitVec.ofNat 8 (s.rd FUS_SRC_STAT.STATE i)]
  if i < 24 then
    match l.sample with
    | some p => head ++ leBytes 4 1 ++ leBytes 8 (s.slotOff i p.slot) ++ stampBytes p.stamp ++ leBytes 4 p.seq ++ leBytes 4 0
    | none => head ++ leBytes 28 0
  else head ++ leBytes 4 l.count ++ leBytes 8 (s.srcOff i) ++ leBytes 8 l.first ++ leBytes 4 (s.rd ING_SRC.SLOTS i) ++
    leBytes 4 (s.recBytes i)

/-- Quorum Q[g] of a group. -/
def State.quorum (s : State) (g : Nat) : Nat :=
  s.rd ([FUS_GRP.Q0, FUS_GRP.Q1, FUS_GRP.Q2, FUS_GRP.Q3, FUS_GRP.Q4, FUS_GRP.Q5].getD g FUS_GRP.Q0)

/-- GROUP_MASK of an instant, from the MASK and DUE of its sources (08 R214). -/
def State.groupMask (s : State) (mask due : Nat) : Nat :=
  (List.range 6).foldl (fun m g =>
    let n := ((List.range 32).filter (fun i => s.rd ING_SRC.GROUP i == g && s.flag ING_SRC.ENABLE i &&
      (!mask.testBit i || !due.testBit i))).length
    if n < s.quorum g then m + 2 ^ g else m) 0

/-- The ceiling of a GROUP_MASK (08 R214, R230). -/
def State.ceiling (s : State) (m : Nat) : Nat :=
  if m % 2 = 0 then s.rd FUS_CEIL.ENTRY_LO (m / 2) else s.rd FUS_CEIL.ENTRY_HI (m / 2)

/-- The bytes of a manifest (08 R211). -/
def State.manifest (s : State) (k r mask due gm cause : Nat) (ls : List Listing) : Bytes :=
  leBytes 8 k ++ leBytes 8 (s.tK k) ++ leBytes 8 r ++ leBytes 4 mask ++ leBytes 4 due ++
    [BitVec.ofNat 8 gm, BitVec.ofNat 8 cause] ++ leBytes 2 (s.ceiling gm) ++ leBytes 2 s.fus.oos.length ++ leBytes 26 0 ++
    (ls.zipIdx.flatMap (fun x => s.srcEntry x.2 x.1)) ++
    (s.fus.oos.flatMap (fun o => leBytes 1 o.source ++ leBytes 7 0 ++ leBytes 8 o.off ++ stampBytes o.stamp ++ leBytes 8 o.k)) ++
    List.replicate ((64 - s.fus.oos.length) * 32) 0

/-- What a release leaves at a source: MISSING, the count of due instants on time, and the records listed. -/
def State.afterRelease (s : State) (k i : Nat) (l : Listing) : State :=
  let x := s.srt i
  let en := s.flag ING_SRC.ENABLE i
  let due := s.due i k
  let missing := l.flags.testBit 1
  let s := if missing then s.inc FUS_SRC_STAT.MISSING i else s
  let good := if en && due then (if missing then 0 else x.good + 1) else x.good
  let next := if s.rd FUS_SRC_STAT.STATE i = srcDegraded ∧ x.next = none ∧ good ≥ 30 then some srcActive else x.next
  s.setSrc i { x with good := good, next := next, listed := x.listed + l.count,
                      sinceDue := if en && due then 0 else x.sinceDue }

/-- A FRAME of instant `k − 64` still admitted when its manifest slot is written again ends as a contained fault
(08 R201). -/
def State.expire (s : State) (k : Nat) : State :=
  if k < 64 then s
  else (List.finRange 17).foldl (fun s f =>
    if s.flight.any (fun j => j.res == .field f && j.cmd.opcode == 0x31 && !j.golden && s.frameK j.cmd == some (k - 64)) then
      (s.inc FUS_STAT.EXPIRED).contained f 0x10 none
    else s) s

/-- The Shadow field's FRAME that the Cantle submits for an instant: K all ones, OBJLIST = 1, POSE = 0, CKPT = 1, and buffer
entry 0 an object list (10 R258, 06 R143, R146). -/
def State.shadowFrame (s : State) : Bytes :=
  leBytes 24 0x31 ++ leBytes 8 (s.residentAt 3 32) ++ leBytes 8 1 ++ leBytes 8 (2 ^ 56 - 1 + 2 ^ 56 + 2 ^ 58) ++
    leBytes 16 (s.handle 16)

/-- The Cantle submits one Shadow field FRAME per instant, while it runs and field 16 is loaded (10 R258). DESIGN CHOICE: as the
instant is released, on its ring 0, with TAG 0. -/
def State.submitShadow (s : State) : State :=
  let n := 2 ^ s.rd SQ_CFG.SIZE_LOG2 cantleSet 0
  let tail := s.rd DB_SQ_TAIL.TAIL cantleSet 0
  let st := s.fState 16
  if s.saf.held || !s.flag SQ_CFG.ENABLE cantleSet 0 || st == stFree || st == stLoading || st == stClearing ||
      decide (n - 1 ≤ unread (s.rd SQ_CFG.HEAD cantleSet 0) tail n) then s
  else
    let s := s.memWrite (s.residentAt 3 32) (leBytes 8 (s.residentAt 4 32) ++ leBytes 8 16512 ++ leBytes 16 3)
    let s := s.memWrite (s.rd SQ_CFG.BASE cantleSet 0 / 4096 * 4096 + tail * 64) s.shadowFrame
    (s.wr DB_SQ_TAIL.TAIL ((tail + 1) % n) cantleSet 0).cantleReads

/-- Instant `k` released at fusion time `r` (08 R204): states change, the sample set is fixed, the records are listed,
the manifest is written, and the Cantle submits the Shadow field's FRAME. -/
def State.release (s : State) (k r cause : Nat) : State :=
  let s := (List.range 32).foldl (fun s i => s.applyState k i) s
  let ls := (List.range 32).map (fun i => s.listing k i)
  let mask := (ls.zipIdx.map (fun x => x.1.flags % 2 * 2 ^ x.2)).foldl (· + ·) 0
  let due := ((List.range 32).map (fun i => b2n (s.due i k) * 2 ^ i)).foldl (· + ·) 0
  let gm := s.groupMask mask due
  let s := s.expire k
  let s := s.memWrite (s.ingBase + k % 64 * 4096) (s.manifest k r mask due gm cause ls)
  let slots := (ls.zipIdx.filterMap (fun x => x.1.sample.map (fun p => (x.2, p.slot)))) ++
    (List.range 24).flatMap (fun i => ((s.srt i).samples.filter (fun p => p.oosOf == some k)).map (fun p => (i, p.slot)))
  let recs := ls.zipIdx.filterMap (fun x => if x.1.count = 0 then none else some (x.2, (s.srt x.2).listed, x.1.count))
  let s := ls.zipIdx.foldl (fun s x => s.afterRelease k x.2 x.1) s
  let inst : Inst := ⟨k, mask, due, gm, s.ceiling gm, slots, recs⟩
  let s := { s with fus := { s.fus with nextK := k + 1, lastR := some r, oos := [] } }
  let s := { s with fus := { s.fus with insts := inst :: s.fus.insts.filter (fun n => s.held n.k) } }
  (s.wr FUS_STAT.RELEASED k).submitShadow

/-- R of an instant released at its wait limit: T_k + L, and not before the instant before it (08 R204). -/
def State.limitR (s : State) (k : Nat) : Nat := max (s.tK k + s.waitNs) (s.fus.lastR.getD 0)

/-- Instant `k` released at its wait limit. -/
def State.releaseLimit (s : State) (k : Nat) : State := s.release k (s.limitR k) (if s.allIn k then 1 else 2)

/-- Every instant whose wait limit has passed released, in order, at most `n` of them. -/
def State.releaseOverdue (s : State) : Nat → State
  | 0 => s
  | n + 1 => if s.limitR s.fus.nextK ≤ s.sensorNs then (s.releaseLimit s.fus.nextK).releaseOverdue n else s

end Sys2Proof.Machine
end

