-- ==== Sys2Proof/Machine/Windows.lean ====
section
/-! DEFINITION. Windows of a field, buffer lists and fabric addresses: how a command reaches memory (02 R54, 06 R146,
05 R112, 12 R302). -/

namespace Sys2Proof.Machine

/-! ## Fabric addresses (05 R112, 12 R302) -/

/-- Where an address of a command leads: local memory in a context, another device, or nowhere. -/
inductive Target where
  | here (c : Ctx) (a : Nat)
  | there (dev a : Nat)
  | refused
  deriving DecidableEq, Repr

/-- The target of an address in a context; a fabric address with the device's own ID is local, another is sent only
where FABRIC_OUT of the VEF allows it. -/
def State.target (s : State) (c : Ctx) (fabric : Bool) (a : Nat) : Target :=
  if !fabric then .here c a
  else if a / 2 ^ 48 = s.rd PASS_DEV.ID then .here c (a % 2 ^ 48)
  else match c with
    | .vef v _ _ => if s.flag VEF_CTL.FABRIC_OUT v then .there (a / 2 ^ 48) (a % 2 ^ 48) else .refused
    | _ => .there (a / 2 ^ 48) (a % 2 ^ 48)

/-- A refused fabric access counted (12 R302). -/
def State.noteFabric (s : State) (c : Ctx) : State :=
  match c with
  | .vef v _ _ => s.inc VEF_VIOL.FABRIC v
  | _ => s

/-- The key of another device's memory: its fabric address (05 R112). -/
def remoteKey (dev a : Nat) : Nat := dev * 2 ^ 48 + a

/-- Bytes read at a target; `remote` is what another device answered, as far as it goes, and then what it is taken to
hold. -/
def State.targetRead (s : State) (t : Target) (n : Nat) (remote : Bytes) : Bytes :=
  match t with
  | .here c a => s.ctxRead c a n
  | .there dev a => (remote.take n) ++ Sparse.bytes 0 s.remoteMem (remoteKey dev a + remote.length) (n - remote.length)
  | .refused => List.replicate n 0

/-- Bytes moved over the Pass charged to the VEF in whose name they move (06 R163). -/
def State.chargeFabric (s : State) (c : Ctx) (n : Nat) : State :=
  match c with
  | .vef v _ _ => s.charge v { Usage.zero with pass := n }
  | _ => s

/-- The effects of a read beside its data. -/
def State.targetTouch (s : State) (c : Ctx) (t : Target) (n : Nat) : State :=
  match t with
  | .here d a => s.ctxTouch d a n
  | .there _ _ => s.chargeFabric c n
  | .refused => s.noteFabric c

/-- The byte offsets of a read whose word is poisoned: in local memory, or in another device's (05 R115: the mark travels
over the Pass). -/
def State.targetBad (s : State) (t : Target) (n : Nat) : List Nat :=
  match t with
  | .here c a => s.ctxBad c a n
  | .there dev a => (List.range n).filter (fun i => Sparse.look 0 s.remoteErr ((remoteKey dev a + i) / 8) == 2)
  | .refused => []

/-- Bytes written at a target. -/
def State.targetWrite (s : State) (c : Ctx) (t : Target) (bs : Bytes) : State :=
  match t with
  | .here d a => s.ctxWrite d a bs
  | .there dev a =>
    let k := remoteKey dev a
    { (s.chargeFabric c bs.length).emit (.fabricWrite dev a bs) with
      remoteMem := Sparse.putBytes 0 s.remoteMem k bs,
      remoteErr := (List.range (bs.length / 8 + 1)).foldl (fun e i =>
        let w := (k + 7) / 8 + i
        if w * 8 + 8 ≤ k + bs.length then Sparse.put 0 e w 0 else e) s.remoteErr }
  | .refused => s.noteFabric c

/-- The words at a target that hold the bytes at a list of offsets marked poisoned: in local memory, or, as the mark travels
with the data, at another device (05 R115). -/
def State.targetPoison (s : State) (t : Target) (bad : List Nat) : State :=
  match t with
  | .here c a => s.poisonAt (bad.filterMap (fun i => match s.xlate c (a + i) true with
      | .ok p => some p
      | .error _ => none))
  | .there dev a => { s with remoteErr := bad.foldl (fun e i => Sparse.put 0 e ((remoteKey dev a + i) / 8) 2) s.remoteErr }
  | .refused => s

/-! ## Buffer lists (06 R146) -/

/-- One entry of a buffer list and the FORMAT_ERROR cause it gives, 0 for none. -/
def bufEntry (bs : Bytes) : Win × Nat :=
  let base := Bytes.num bs 0 8
  let len := Bytes.num bs 8 8
  let perm := Bytes.num bs 0x10 1
  let pub := Bytes.num bs 0x18 8
  let w : Win := ⟨base, len, perm.testBit 0, perm.testBit 1, perm.testBit 2, pub⟩
  let cause :=
    if perm ≥ 8 ∨ Bytes.num bs 0x11 7 ≠ 0 then 3
    else if base % 32 ≠ 0 ∨ len % 32 ≠ 0 ∨ len > 2 ^ 40 ∨ pub % 8 ≠ 0 ∨ (pub ≠ 0 ∧ !w.wr) ∨ badIova base w.fabric ∨
      badIova pub w.fabric then 4 else 0
  (w, cause)

/-- The windows of a buffer list, or the cause with which it fails. -/
def State.bufList (s : State) (c : Cmd) (list count : Nat) : Except Nat (List Win) :=
  if list % 32 ≠ 0 then .error 4
  else
    let es := (List.range count).map (fun i => bufEntry (s.ctxRead c.ctx (list + i * 32) 32))
    match es.find? (fun e => e.2 != 0) with
    | some e => .error e.2
    | none => .ok (es.map (·.1))

/-- The effects of reading a buffer list. -/
def State.bufTouch (s : State) (c : Cmd) (list count : Nat) : State := s.ctxTouch c.ctx list (count * 32)

/-- The buffer-list operand of a command: address and count. -/
def Cmd.bufOp (c : Cmd) : Nat × Nat :=
  if c.opcode = 0x50 then (c.op 0x28 8, c.op 0x30 1) else (c.op 0x18 8, c.op 0x20 1)

/-- Step 2 of a commit: each PUBLISH word is written with its entry's BASE (06 R150). -/
def State.publish (s : State) (c : Cmd) (ws : List Win) : State :=
  ws.foldl (fun s w =>
    if w.publish = 0 then s
    else s.targetWrite c.ctx (s.target c.ctx w.fabric w.publish) (leBytes 8 w.base)) s

/-! ## Windows of a field (02 R54, R62, 08 R210, 10 R274) -/

/-- A window as an access meets it. `manifest` is set for the window that holds a SEQ_STEP's manifest, which has no
address. -/
structure WinView where
  base : Nat
  len : Nat
  rd : Bool
  wr : Bool
  fabric : Bool
  ctx : Ctx
  manifest : Bool
  deriving DecidableEq, Repr

/-- A window of length zero. -/
def WinView.none_ : WinView := ⟨0, 0, false, false, false, .phys, false⟩

/-- The address space of a field's plan windows: that of the VEF named by the window, with the ASID of the ring that
loaded the image, or local physical addresses. The Valley's window lies in the pool's own space, with no process ID
(07 R169). -/
def State.planCtx (s : State) (f w : Nat) : Ctx :=
  if s.flag PLAIN_FLD_WIN.TRANSLATE f w then
    let v := s.rd PLAIN_FLD_WIN.VEF f w
    let valley := match (s.frt f).image with
      | some i => i.valley.contains w
      | none => false
    if valley then .vef v (s.rd RING_VEF_CFG.STREAM_ID v) none else
    let ring := match (s.frt f).image with
      | some i => i.ring
      | none => 0
    .vef v (s.rd RING_VEF_CFG.STREAM_ID v) (some (s.rd RING_VEF_ASID.ASID v ring))
  else .phys

/-- Plan window `w` of field `f`. -/
def State.planWin (s : State) (f w : Nat) : WinView :=
  ⟨s.rd PLAIN_FLD_WIN.BASE f w / 4096 * 4096, s.rd PLAIN_FLD_WIN.LENGTH_4K f w * 4096, s.flag PLAIN_FLD_WIN.READ f w,
   s.flag PLAIN_FLD_WIN.WRITE f w, false, s.planCtx f w, false⟩

/-- The golden entry that a golden command runs. -/
def State.goldenOf (s : State) (serial : Nat) : Option (GoldenRun × GoldenEntry) :=
  match s.saf.goldens.find? (fun g => g.serial == serial) with
  | none => none
  | some g => match (s.frt g.field).image with
    | none => none
    | some i => (i.goldens[g.entry]?).map (fun e => (g, e))

/-- Window `w` of field `f` for an access of a command in flight. -/
def State.window (s : State) (f w : Nat) (j : Option Job) : WinView :=
  if w < 8 then s.planWin f w
  else match j with
    | none => .none_
    | some j =>
      if j.golden ∧ w ≥ 14 then
        match s.goldenOf j.cmd.serial with
        | none => .none_
        | some (_, e) =>
          let p := s.planWin f e.inWin
          ⟨p.base + e.inOff, if w = 14 then e.inLen else min 4096 e.inLen, true, false, false, p.ctx, false⟩
      else if j.cmd.opcode = 0x31 ∧ w = 14 then ⟨s.ingBase, s.ingLen, true, false, false, .phys, false⟩
      else if j.cmd.opcode = 0x31 ∧ w = 15 then
        ⟨s.ingBase + (s.frameK j.cmd).getD 0 % 64 * 4096, 4096, true, false, false, .phys, false⟩
      else if j.cmd.opcode = 0x41 ∧ w = 15 then ⟨0, j.manifest.length, true, false, false, .phys, true⟩
      else match j.wins[w - 8]? with
        | some x => ⟨x.base, x.len, x.rd, x.wr, x.fabric, j.cmd.ctx, false⟩
        | none => .none_

/-- An access of `n` bytes at an offset is a violation (02 R54). -/
def WinView.violates (w : WinView) (off n : Nat) (write : Bool) : Bool :=
  decide (w.len < off + n) || w.len == 0 || (if write then !w.wr else !w.rd)

/-- The target of an offset in a window. -/
def State.winTarget (s : State) (w : WinView) (off : Nat) : Target := s.target w.ctx w.fabric (w.base + off)

/-- Bytes read through a window that the access does not violate. -/
def State.winRead (s : State) (w : WinView) (j : Option Job) (off n : Nat) : Bytes :=
  if w.manifest then match j with
    | some j => Bytes.sub j.manifest off n
    | none => List.replicate n 0
  else s.targetRead (s.winTarget w off) n []

/-- The effects of such a read beside its data. -/
def State.winTouch (s : State) (w : WinView) (off n : Nat) : State :=
  if w.manifest then s else s.targetTouch w.ctx (s.winTarget w off) n

/-- The offsets of such a read whose word is poisoned. -/
def State.winBad (s : State) (w : WinView) (off n : Nat) : List Nat :=
  if w.manifest then [] else s.targetBad (s.winTarget w off) n

/-- Bytes written through a window. -/
def State.winWrite (s : State) (w : WinView) (off : Nat) (bs : Bytes) : State :=
  s.targetWrite w.ctx (s.winTarget w off) bs

/-! ## Recurrent state (04 R98, 08 R212) -/

/-- The bytes of a state tensor. -/
def State.tensorRead (s : State) (e : StateEntry) : Bytes :=
  if e.inPocket then Sparse.bytes 0 s.mem.pocket (e.place * 0x20000 + e.off) e.len
  else Sparse.bytes 0 s.mem.sram (e.place * 0x80000 + e.off) e.len

/-- The bytes of a state tensor set. -/
def State.tensorWrite (s : State) (e : StateEntry) (bs : Bytes) : State :=
  let m := s.mem
  { s with mem := if e.inPocket then { m with pocket := Sparse.putBytes 0 m.pocket (e.place * 0x20000 + e.off) bs }
                  else { m with sram := Sparse.putBytes 0 m.sram (e.place * 0x80000 + e.off) bs } }

/-- Offset of copy `c` of a tensor in its checkpoint window. -/
def StateEntry.copyOff (e : StateEntry) (c : Nat) : Nat := e.ckOff + c * ((e.len + 63) / 64 * 64)

/-- The selected checkpoint copy of a field: FUS_CKSEL bit n. -/
def State.ckSel (s : State) (f : Nat) : Nat := b2n ((s.rd FUS_CKSEL.SEL).testBit f)

/-- The selector of a field complemented. -/
def State.ckFlip (s : State) (f : Nat) : State := s.wr FUS_CKSEL.SEL (s.rd FUS_CKSEL.SEL ^^^ 2 ^ f)

/-- A cluster-mover transfer of a state tensor: to a copy of its checkpoint, or back from it. -/
def StateEntry.move (e : StateEntry) (kind vef copy : Nat) (toWin : Bool) : ClMove :=
  ⟨e.id, kind, vef, e.inPocket, e.place, e.off, e.win, e.copyOff copy, e.len, toWin⟩

/-- The cluster movers begin to write every state tensor of a field to its unselected copy (08 R212, 05 R121). -/
def State.startCopies (s : State) (f : Nat) : State :=
  match (s.frt f).image with
  | none => s
  | some i =>
    let x := s.frt f
    s.setF f { x with moves := x.moves ++ i.states.map (fun e => e.move 0x02 i.vef (1 - s.ckSel f) true) }

/-- The cluster movers begin to restore the state tensors that a predicate selects from the selected copy (02 R51). -/
def State.startRestore (s : State) (f kind : Nat) (p : StateEntry → Bool) : State :=
  match (s.frt f).image with
  | none => s
  | some i =>
    let x := s.frt f
    s.setF f { x with moves := x.moves ++ (i.states.filter p).map (fun e => e.move kind i.vef (s.ckSel f) false) }

/-- The cluster movers begin the preloads that a predicate selects (04 R95). -/
def State.startPreload (s : State) (f kind : Nat) (p : Preload → Bool) : State :=
  match (s.frt f).image with
  | none => s
  | some i =>
    let x := s.frt f
    s.setF f { x with moves := x.moves ++ (i.preloads.zipIdx.filter (fun q => p q.1)).map (fun q =>
      ⟨q.2, kind, i.vef, q.1.inPocket, q.1.place, q.1.dst, q.1.win, q.1.src, q.1.len, false⟩) }

/-- Bytes of a transfer that pass the window check: an access is a piece of 64 bytes, the most that a cluster mover moves in
a cycle (02 R54, 05 R121). -/
def WinView.passes (w : WinView) (off n : Nat) (write : Bool) : Nat :=
  if w.len = 0 ∨ (if write then !w.wr else !w.rd) then 0
  else if off + n ≤ w.len then n
  else (w.len - off) / 64 * 64

/-- The offsets of poison in the SRAM bytes of a state tensor. -/
def State.tensorPoison (s : State) (e : StateEntry) (bad : List Nat) : State :=
  let m := s.mem
  let mark (l : Sparse Nat) (base : Nat) : Sparse Nat :=
    let healed := (List.range (e.len / 8)).foldl (fun l i => Sparse.put 0 l (base / 8 + i) 0) l
    bad.foldl (fun l i => Sparse.put 0 l ((base + i) / 8) 2) healed
  { s with mem := if e.inPocket then { m with pocketErr := mark m.pocketErr (e.place * 0x20000 + e.off) }
                  else { m with sramErr := mark m.sramErr (e.place * 0x80000 + e.off) } }

/-- One cluster-mover transfer made: what it leaves and its record (05 R121). Of an access that violates the window a read
delivers zeros and a write is discarded, and the field's flag is set (02 R54); poison stays with its words (05 R115). Either
ends the transfer with OUTPUT_INVALID. The manual names no cell for a violation by a cluster mover: none is recorded. -/
def State.doMove (s : State) (f : Nat) (m : ClMove) : State × CmqRec :=
  let w := s.planWin f m.win
  let e : StateEntry := ⟨m.tag, 0, m.inPocket, m.place, m.off, m.len, m.win, 0⟩
  let n := w.passes m.winOff m.len m.toWin
  let t := if n = m.len then s else s.fldError f errWindow 0xFFF 0
  if m.toWin then
    let bs := (s.tensorRead e).take n
    (t.winWrite w m.winOff bs, ⟨m.tag, m.kind, if n = m.len then 0 else 0x30, n, crc32c bs⟩)
  else
    let bs := s.winRead w none m.winOff n ++ List.replicate (m.len - n) 0
    let bad := s.winBad w m.winOff n
    let t := (t.winTouch w m.winOff n).tensorWrite e bs
    (t.tensorPoison e bad, ⟨m.tag, m.kind, if n = m.len ∧ bad = [] then 0 else 0x30, m.len, crc32c bs⟩)

end Sys2Proof.Machine
end

