-- ==== Sys2Proof/Machine/Image.lean ====
section
/-! DEFINITION. The stitch image (chapter 4): its header, segments and fits, the checks of the field loader, and what a
fit puts into the cells. -/

namespace Sys2Proof.Machine

/-- Where an image lies and in whose address space it is read. -/
structure ImgAt where
  ctx : Ctx
  addr : Nat
  deriving DecidableEq, Repr

/-- Bytes of an image. -/
def State.img (s : State) (x : ImgAt) (o n : Nat) : Bytes := s.ctxRead x.ctx (x.addr + o) n

/-- A little-endian number in an image. -/
def State.imgNum (s : State) (x : ImgAt) (o n : Nat) : Nat := leNat (s.img x o n)

/-! ## Header, segments and fits (04 R83, R86, R88) -/

/-- The header of an image. -/
structure ImgHdr where
  raw : Bytes
  deriving DecidableEq, Repr

def State.imgHdr (s : State) (x : ImgAt) : ImgHdr := ⟨s.img x 0 256⟩
def ImgHdr.num (h : ImgHdr) (o n : Nat) : Nat := Bytes.num h.raw o n
def ImgHdr.fitCount (h : ImgHdr) : Nat := h.num 0x0A 1
def ImgHdr.segCount (h : ImgHdr) : Nat := h.num 0x0B 1
def ImgHdr.safety (h : ImgHdr) : Bool := (h.num 0x0C 4).testBit 0
def ImgHdr.signed (h : ImgHdr) : Bool := (h.num 0x0C 4).testBit 1
def ImgHdr.features (h : ImgHdr) : Nat := h.num 0x12 2
def ImgHdr.pipeDepth (h : ImgHdr) : Nat := h.num 0x14 1
def ImgHdr.pageSize (h : ImgHdr) : Nat := h.num 0x15 1
def ImgHdr.planSize (h : ImgHdr) : Nat := h.num 0x18 8
def ImgHdr.size (h : ImgHdr) : Nat := h.num 0x20 8
def ImgHdr.digest (h : ImgHdr) : Bytes := Bytes.sub h.raw 0x70 48
def ImgHdr.signature (h : ImgHdr) : Bytes := Bytes.sub h.raw 0xA0 96
def ImgHdr.fitBytes (h : ImgHdr) (i : Nat) : Bytes := Bytes.sub h.raw (0x30 + i * 16) 16

/-- A segment-table entry. -/
structure Seg where
  type : Nat
  off : Nat
  size : Nat
  rsv : Bool
  deriving DecidableEq, Repr

/-- The segment table of an image. -/
def State.segs (s : State) (x : ImgAt) : List Seg :=
  (List.range (s.imgHdr x).segCount).map (fun i =>
    let e := s.img x (0x100 + i * 32) 32
    ⟨Bytes.num e 0 1, Bytes.num e 8 8, Bytes.num e 0x10 8, Bytes.num e 1 7 != 0 || Bytes.num e 0x18 8 != 0⟩)

/-- A fit descriptor: width and height in clusters, mirroring, excluded positions and segment indices. -/
structure Fit where
  w : Nat
  h : Nat
  mx : Bool
  my : Bool
  excl : List (Nat × Nat)
  exclRaw : List Nat
  stitch : Nat
  route : Nat
  chk : Nat
  reloc : Nat
  preload : Nat
  state : Nat
  rsv : Bool
  deriving DecidableEq, Repr

/-- A fit descriptor read. -/
def fitOf (b : Bytes) : Fit :=
  let d := Bytes.num b 0 1
  let m := Bytes.num b 1 1
  let ex := (List.range 4).map (fun i => Bytes.num b (2 + i) 1)
  ⟨d % 16 + 1, d / 16 + 1, m.testBit 0, m.testBit 1, (ex.filter (· != 0xFF)).map (fun e => (e % 16, e / 16)), ex,
   Bytes.num b 6 1, Bytes.num b 7 1, Bytes.num b 8 1, Bytes.num b 9 1, Bytes.num b 10 1, Bytes.num b 11 1,
   m ≥ 4 || Bytes.num b 12 4 != 0⟩

/-- The fits of an image, in image order. -/
def ImgHdr.fits (h : ImgHdr) : List Fit := (List.range (min h.fitCount 4)).map (fun i => fitOf (h.fitBytes i))

/-- A segment by index; an absent one is empty. -/
def segAt (segs : List Seg) (i : Nat) : Seg := segs.getD i ⟨0, 0, 0, false⟩

/-! ## Stitch entries (04 R90) -/

/-- A stitch entry: its place in the image, compiled cell column and row, and overflow count. -/
structure StitchEntry where
  off : Nat
  x : Nat
  y : Nat
  ovf : Nat
  deriving DecidableEq, Repr

/-- Bytes of a stitch entry. -/
def StitchEntry.bytes (e : StitchEntry) : Nat := 0x39D0 + e.ovf * 16

/-- The entries of a STITCH segment from an offset on, with what is left over when no further whole entry fits. -/
def State.stitchEntries (s : State) (x : ImgAt) : Nat → Nat → Nat → List StitchEntry × Nat
  | 0, _, left => ([], left)
  | n + 1, o, left =>
    if left < 0x39D0 then ([], left)
    else
      let e : StitchEntry := ⟨o, s.imgNum x o 1, s.imgNum x (o + 1) 1, s.imgNum x (o + 2) 2⟩
      if left < e.bytes then ([], left)
      else
        let r := s.stitchEntries x n (o + e.bytes) (left - e.bytes)
        (e :: r.1, r.2)

/-- The entries of a fit. -/
def State.entriesOf (s : State) (x : ImgAt) (f : Fit) : List StitchEntry × Nat :=
  let g := segAt (s.segs x) f.stitch
  s.stitchEntries x (f.w * f.h * 16 + 1) g.off g.size

/-- Fixed-size records of a segment: how many, and one of them. -/
def Seg.count (g : Seg) (n : Nat) : Nat := g.size / n
def State.segRec (s : State) (x : ImgAt) (g : Seg) (n i : Nat) : Bytes := s.img x (g.off + i * n) n

/-- Column and row of a placed cell for a compiled one (04 R96). -/
def Fit.placeX (f : Fit) (x : Nat) : Nat := if f.mx then 4 * f.w - 1 - x else x
def Fit.placeY (f : Fit) (y : Nat) : Nat := if f.my then 4 * f.h - 1 - y else y

/-- Column and row of a placed cluster for a compiled one. -/
def Fit.clX (f : Fit) (x : Nat) : Nat := if f.mx then f.w - 1 - x else x
def Fit.clY (f : Fit) (y : Nat) : Nat := if f.my then f.h - 1 - y else y

/-! ## Route and sequencer tables of an entry (04 R91, R92) -/

/-- The route table of the i-th entry of a fit, and its sequencer tables, as the image holds them. -/
def State.routeOf (s : State) (x : ImgAt) (f : Fit) (i : Nat) : Bytes := s.img x ((segAt (s.segs x) f.route).off + i * 1024) 1024
def State.tablesOf (s : State) (x : ImgAt) (e : StitchEntry) : Bytes := s.img x (e.off + 0x3010) 2048

/-- Reserved bits of a route table: [7] and [127:15] of an entry, and entries 40 to 63. -/
def routeReserved (t : Bytes) : Bool :=
  (List.range 64).any (fun i =>
    let v := Bytes.num t (i * 16) 16
    if i < 40 then v.testBit 7 || decide (v ≥ 2 ^ 15) else v != 0)

/-- A route table breaks R92: an origination entry that delivers or forks, or an adder whose addend port originates. -/
def routeBad (t : Bytes) : Bool :=
  let v (i : Nat) : Nat := Bytes.num t (i * 16) 16
  (List.range 8).any (fun p => decide (v (32 + p) % 4 ≥ 2)) ||
    (List.range 40).any (fun i => (v i).testBit 11 && v (32 + bits (v i) 12 3) % 4 != 0)

/-- The mover programs of sequencer tables: one of zeros is no program. -/
def progsOf (t : Bytes) : List Bytes :=
  ((List.range 16).map (fun n => Bytes.sub t (0x140 + n * 64) 64)).filter (fun p => p.any (· != 0))

/-- Reserved bytes and codes of sequencer tables. -/
def tablesReserved (t : Bytes) : Bool :=
  let kind (k : Nat) : Bool := k == 0 || decide (k > 3)
  (List.range 8).any (fun g => Bytes.num t (0x40 + g * 32 + 22) 2 != 0) || (Bytes.sub t 0x540 704).any (· != 0) ||
    (progsOf t).any (fun p => kind (Bytes.num p 0 1) || kind (Bytes.num p 3 1) || Bytes.num p 6 2 != 0 || Bytes.num p 0x30 16 != 0)

/-- Sequencer tables break R91: a count below 1, a window above 15, or a run that is no multiple of 32 bytes. -/
def tablesBad (t : Bytes) : Bool :=
  (List.range 16).any (fun i => Bytes.num t (i * 4) 4 == 0) ||
    (List.range 8).any (fun g => (List.range 3).any (fun d => Bytes.num t (0x40 + g * 32 + 16 + d * 2) 2 == 0)) ||
    (progsOf t).any (fun p => Bytes.num p 0x1C 2 == 0 || Bytes.num p 0x1E 2 == 0 || Bytes.num p 0x18 4 % 32 != 0 ||
      (Bytes.num p 0 1 == 3 && decide (Bytes.num p 1 1 > 15)) || (Bytes.num p 3 1 == 3 && decide (Bytes.num p 4 1 > 15)))

/-! ## Checks of the loader (04 R106, causes 0x01–0x08) -/

/-- Cause 0x04: reserved fields, bits and codes of header, segment table, segments and tables. -/
def State.imgReserved (s : State) (x : ImgAt) : Bool :=
  let h := s.imgHdr x
  let segs := s.segs x
  let plan := segs.find? (fun g => g.type == 5)
  let recs (t n : Nat) (bad : Bytes → Bool) : Bool :=
    segs.any (fun g => g.type == t && (List.range (g.count n)).any (fun i => bad (s.segRec x g n i)))
  decide (h.num 0x0C 4 ≥ 4) || decide (h.num 0x10 2 ≥ 2 ^ 11) || decide (h.features ≥ 2 ^ 8) || h.num 0x16 2 != 0 ||
  h.num 0x28 8 != 0 || decide (h.pageSize > 0x20) || segs.any (fun g => g.rsv || g.type == 0 || decide (g.type > 10)) ||
  h.fits.any (fun f => f.rsv) ||
  (match plan with
    | some g => (List.range (min 8 (g.count 32))).any (fun i =>
        let d := s.segRec x g 32 i
        decide (Bytes.num d 0 1 > 4) || decide (Bytes.num d 1 1 > 3) || Bytes.num d 3 5 != 0 || Bytes.num d 0x10 16 != 0)
    | none => false) ||
  recs 4 8 (fun d => Bytes.num d 5 1 == 0 || decide (Bytes.num d 5 1 > 8) || decide (Bytes.num d 6 1 > 1) || Bytes.num d 7 1 != 0) ||
  recs 7 32 (fun d => Bytes.num d 2 1 == 0 || decide (Bytes.num d 2 1 > 2) || Bytes.num d 0x14 12 != 0) ||
  recs 8 32 (fun d => Bytes.num d 4 4 != 0) ||
  recs 9 32 (fun d => decide (Bytes.num d 2 1 > 10) || Bytes.num d 3 1 == 0 || decide (Bytes.num d 3 1 > 2) ||
    Bytes.num d 6 2 != 0 || Bytes.num d 0x11 3 != 0 || Bytes.num d 0x1C 4 != 0) ||
  h.fits.any (fun f => (s.entriesOf x f).1.zipIdx.any (fun e => s.imgNum x (e.1.off + 4) 4 != 0 ||
    routeReserved (s.routeOf x f e.2) || tablesReserved (s.tablesOf x e.1)))

/-- A plan window declaration. -/
structure PlanDecl where
  kind : Nat
  perm : Nat
  seg : Nat
  size : Nat
  deriving DecidableEq, Repr

/-- The eight declarations of the PLAN segment (04 R94). -/
def State.planDecls (s : State) (x : ImgAt) : List PlanDecl :=
  match (s.segs x).find? (fun g => g.type == 5) with
  | some g => (List.range 8).map (fun i =>
      let d := s.segRec x g 32 i
      ⟨Bytes.num d 0 1, Bytes.num d 1 1, Bytes.num d 2 1, Bytes.num d 8 8⟩)
  | none => []

/-- A declaration breaks R94. -/
def PlanDecl.bad (d : PlanDecl) (segs : List Seg) (pageSize : Nat) : Bool :=
  (d.kind == 1 && ((segAt segs d.seg).type != 6 || decide (segs.length ≤ d.seg) || d.perm.testBit 1)) ||
  (d.kind != 1 && d.seg != 0) ||
  (if d.kind = 2 ∨ d.kind = 3 then d.size % 4096 != 0 else d.size != 0) || (d.kind == 4 && pageSize == 0)

/-- The width of a patched value by RELOC kind (04 R97). -/
def relocWidth (k : Nat) : Nat := [0, 2, 5, 4, 4, 6, 6, 8, 12].getD k 0

/-- A fit breaks R86–R97. DESIGN CHOICE: a fit of more than 12 clusters either way is refused here, where R88 lets the
field hold any value and R89 would only find no placement; and so is a stitch entry that lands at an excluded position, which
R89 gives none and no check names. -/
def State.fitBad (s : State) (x : ImgAt) (segs : List Seg) (ds : List PlanDecl) (f : Fit) : Bool :=
  let r := s.entriesOf x f
  let es := r.1
  let n := es.length
  let ty (i t : Nat) : Bool := decide (i < segs.length) && (segAt segs i).type == t
  let opt (i t : Nat) : Bool := i == 0xFF || ty i t
  let idx (e : StitchEntry) : Nat := e.y * (4 * f.w) + e.x
  let rising := (es.zip es.tail).all (fun p => decide (idx p.1 < idx p.2))
  let inside := es.all (fun e => decide (e.x < 4 * f.w) && decide (e.y < 4 * f.h) && decide (e.ovf ≤ 3328) &&
    !f.excl.contains (f.placeX e.x / 4, f.placeY e.y / 4))
  let recs (i m : Nat) : List Bytes := if i = 0xFF then [] else
    (List.range ((segAt segs i).count m)).map (s.segRec x (segAt segs i) m)
  let tables := es.zipIdx.any (fun e => routeBad (s.routeOf x f e.2) || tablesBad (s.tablesOf x e.1))
  let whole (i m : Nat) : Bool := i == 0xFF || (segAt segs i).size % m == 0
  let reloc := (recs f.reloc 8).any (fun d =>
    let e := es.getD (Bytes.num d 0 2) ⟨0, 0, 0, 0⟩
    decide (n ≤ Bytes.num d 0 2) || decide (Bytes.num d 4 1 + relocWidth (Bytes.num d 5 1) > 32) ||
    (if Bytes.num d 6 1 = 0 then decide (Bytes.num d 2 2 > 0x3FBC) || Bytes.num d 2 2 % 4 != 0
     else decide (Bytes.num d 2 2 ≥ 4 * e.ovf)))
  let pre := (recs f.preload 32).any (fun d =>
    decide (n ≤ Bytes.num d 0 2) || decide (Bytes.num d 3 1 > 7) || Bytes.num d 4 4 % 32 != 0 || Bytes.num d 0x10 4 % 32 != 0 ||
    decide (Bytes.num d 4 4 + Bytes.num d 0x10 4 > if Bytes.num d 2 1 = 1 then 0x20000 else 0x80000))
  let st := (recs f.state 32).any (fun d =>
    let loc := Bytes.num d 4 2
    let pocket := Bytes.num d 3 1 == 1
    (if pocket then decide (loc % 64 ≥ 4 * f.w) || decide (loc / 64 ≥ 4 * f.h)
     else decide (loc % 16 ≥ f.w) || decide (loc / 16 ≥ f.h)) ||
    decide (Bytes.num d 8 4 + Bytes.num d 0x0C 4 > if pocket then 0x20000 else 0x80000) ||
    (ds.getD (Bytes.num d 0x10 1) ⟨0, 0, 0, 0⟩).kind != 3)
  decide (f.w > 12) || decide (f.h > 12) || f.exclRaw.any (fun e => e != 0xFF && (decide (e % 16 ≥ f.w) || decide (e / 16 ≥ f.h))) ||
  !ty f.stitch 1 || !ty f.route 2 || !ty f.chk 3 || !opt f.reloc 4 || !opt f.preload 7 || !opt f.state 9 ||
  r.2 != 0 || !rising || !inside || (segAt segs f.route).size != 1024 * n || (segAt segs f.chk).size != 512 * n ||
  !whole f.reloc 8 || !whole f.preload 32 || !whole f.state 32 || reloc || pre || st || tables

/-- Cause 0x05: the structure of an image (04 R83, R86–R97). -/
def State.imgStructure (s : State) (x : ImgAt) : Bool :=
  let h := s.imgHdr x
  let segs := s.segs x
  let ds := s.planDecls x
  let weights := segs.filter (fun g => g.type == 6)
  let others := segs.filter (fun g => g.type != 6)
  let plans := segs.filter (fun g => g.type == 5)
  let wd := segs.filter (fun g => g.type == 10)
  let gold := segs.filter (fun g => g.type == 8)
  let tbl := 0x100 + 32 * h.segCount
  let clash := segs.zipIdx.any (fun a => decide (a.1.off < tbl) || segs.zipIdx.any (fun b =>
    decide (a.2 < b.2) && overlap a.1.off a.1.size b.1.off b.1.size))
  x.addr % 4096 != 0 || h.fitCount == 0 || decide (h.fitCount > 4) || h.segCount == 0 || h.pipeDepth == 0 ||
  decide (h.pipeDepth > 64) || (List.range 4).any (fun i => decide (h.fitCount ≤ i) && (h.fitBytes i).any (· != 0)) ||
  segs.any (fun g => g.off % (if g.type = 6 then 4096 else 64) != 0 || decide (g.off + g.size > h.size)) || clash ||
  decide ((others.map (·.size)).foldl (· + ·) 0 > (2 ^ 28 : Nat)) || plans.length != 1 || plans.any (fun g => g.size != 256) ||
  (if weights.isEmpty then !wd.isEmpty else wd.length != 1 || wd.any (fun g => g.size != 48 * weights.length)) ||
  (if h.features.testBit 7 then gold.isEmpty else !gold.isEmpty) || gold.any (fun g => g.size % 32 != 0) ||
  ds.any (fun d => d.bad segs h.pageSize) ||
  h.planSize != ((ds.filter (fun d => d.kind == 2 || d.kind == 3)).map (·.size)).foldl (· + ·) 0 ||
  gold.any (fun g => (List.range (g.count 32)).any (fun i =>
    let e := s.segRec x g 32 i
    (ds.getD (Bytes.num e 2 1) ⟨0, 0, 0, 0⟩).kind != 1 || (ds.getD (Bytes.num e 3 1) ⟨0, 0, 0, 0⟩).kind != 1)) ||
  h.fits.any (fun f => s.fitBad x segs ds f)

/-- The car maker's key: SUBJECT_KEY of the certificate (15 R370, 04 R85). -/
def State.makerKey (s : State) : Bytes := Bytes.sub s.fw.cert 0x70 96

/-- The first of causes 0x01 to 0x08 that an image gives, 0 for none (04 R106). `safety` is a SAFETY-class load. -/
def State.imgCause (s : State) (x : ImgAt) (safety : Bool) (plan planLen : Nat) : Nat :=
  let h := s.imgHdr x
  let resident (a n : Nat) : Bool := s.inRegion rgnResident a n
  let planIn := resident plan planLen || s.inRegion rgnWorking plan planLen
  if h.num 0 4 ≠ 0x53544348 ∨ h.num 4 2 ≠ 0x0100 then 1
  else if h.num 7 1 ≠ 1 then 2
  else if h.num 8 2 ≠ 0 then 3
  else if s.imgReserved x then 4
  else if s.imgStructure x then 5
  else if safety && (!h.safety || !h.signed || !resident x.addr h.size || !planIn ||
      !ecdsaVerify s.makerKey h.signature h.digest) then 6
  else if h.signed && !ecdsaVerify s.makerKey h.signature h.digest then 7
  else if planLen < h.planSize then 8
  else 0

/-- The digest of an image as R84 computes it. -/
def State.imgDigest (s : State) (x : ImgAt) : Bytes :=
  sha384 (s.img x 0 0x70 ++ s.img x 0x100 (32 * (s.imgHdr x).segCount) ++
    ((s.segs x).filter (fun g => g.type != 6)).flatMap (fun g => s.img x g.off g.size))

/-- Every WEIGHT segment equals its WDIGEST entry (04 R84). -/
def State.weightsOk (s : State) (x : ImgAt) : Bool :=
  match (s.segs x).find? (fun g => g.type == 10) with
  | none => true
  | some d => ((s.segs x).filter (fun g => g.type == 6)).zipIdx.all (fun g =>
      decide (sha384 (s.img x g.1.off g.1.size) = s.img x (d.off + 48 * g.2) 48))

/-- The image declares a PERSIST window with WRITE = 1 (04 R94). -/
def State.persistW (s : State) (x : ImgAt) : Bool := (s.planDecls x).any (fun d => d.kind == 3 && d.perm.testBit 1)

/-! ## What a fit puts into the cells (04 R90, R96, R97) -/

/-- Link number after mirroring: E and W change places under MIRROR_X, N and S under MIRROR_Y. -/
def Fit.link (f : Fit) (l : Nat) : Nat :=
  if f.mx && l % 2 == 1 then 4 - l else if f.my && l % 2 == 0 then 2 - l else l

/-- Endpoint after mirroring. -/
def Fit.endpoint (f : Fit) (e : Nat) : Nat := f.link (e / 8) * 8 + e % 8

/-- A route entry with its OUT_EP mirrored. -/
def Fit.routeEntry (f : Fit) (b : Bytes) : Bytes :=
  let v := leNat b
  let ep := bits v 2 5
  leBytes 16 (v - ep * 4 + f.endpoint ep * 4)

/-- The route table of a cell after mirroring. -/
def Fit.routeTable (f : Fit) (t : Bytes) : Bytes :=
  (List.range 64).flatMap (fun i =>
    let src := if i < 32 then f.endpoint i else i
    f.routeEntry (Bytes.sub t (src * 16) 16))

/-- A field-relative cluster byte after mirroring. -/
def Fit.clByte (f : Fit) (b : Nat) : Nat := f.clX (b % 16) % 16 + f.clY (b / 16) % 16 * 16

/-- The sequencer tables with the clusters of every mover program mirrored. -/
def Fit.tables (f : Fit) (t : Bytes) : Bytes :=
  (List.range t.length).map (fun i =>
    let o := (i - 0x140) % 64
    let b := t.getD i 0
    if 0x140 ≤ i ∧ i < 0x540 ∧ (o = 2 ∨ o = 5) then BitVec.ofNat 8 (f.clByte b.toNat) else b)

/-- The value that a relocation patches in (04 R97): `org` is the field's first cluster column and row, `shadow` a load
of field 16. -/
def Fit.patched (f : Fit) (org : Nat × Nat) (shadow : Bool) (kind v : Nat) : Nat :=
  let cl (x y : Nat) : Nat := if shadow then 144 + y * 2 + x else (org.2 + y) * 12 + org.1 + x
  match kind with
  | 1 => f.link v
  | 2 => f.endpoint v
  | 3 => f.clX v
  | 4 => f.clY v
  | 5 => f.placeX v
  | 6 => f.placeY v
  | 7 => cl (f.clX (v % 16)) (f.clY (v / 16))
  | _ => let x := f.placeX (v % 64); let y := f.placeY (v / 64); cl (x / 4) (y / 4) * 16 + y % 4 * 4 + x % 4

/-- One relocation applied to the assembled store or to the overflow microwords. -/
def Fit.applyReloc (f : Fit) (org : Nat × Nat) (shadow : Bool) (d : Bytes) (st : Bytes × Bytes) : Bytes × Bytes :=
  let space := Bytes.num d 6 1
  let word := Bytes.num d 2 2
  let o := if space = 0 then word else word * 4
  let lsb := Bytes.num d 4 1
  let kind := Bytes.num d 5 1
  let w := relocWidth kind
  let buf := if space = 0 then st.1 else st.2
  let old := Bytes.num buf o 4
  let v := bits old lsb w
  let new := (old - v * 2 ^ lsb + f.patched org shadow kind v % 2 ^ w * 2 ^ lsb) % 2 ^ 32
  let buf := buf.take o ++ leBytes 4 new ++ buf.drop (o + 4)
  if space = 0 then (buf, st.2) else (st.1, buf)

/-- What a stitch entry puts into its cell: the store, the overflow microwords, and whether the load signature holds
(02 R36, 04 R90). -/
def State.assemble (s : State) (x : ImgAt) (f : Fit) (org : Nat × Nat) (shadow : Bool) (i : Nat) (e : StitchEntry) :
    Bytes × Bytes × Bool :=
  let segs := s.segs x
  let body := s.img x (e.off + 0x10) (e.bytes - 0x10)
  let route := s.img x ((segAt segs f.route).off + i * 1024) 1024
  let chk := s.img x ((segAt segs f.chk).off + i * 512) 512
  let sig := s.img x (e.off + 8) 8
  let ok := decide ((sha384 (body ++ route ++ chk)).take 8 = sig)
  let store := Bytes.sub body 0 12288 ++ f.routeTable route ++ f.tables (Bytes.sub body 0x3000 2048) ++ chk ++
    Bytes.sub body 0x3800 448 ++ sig ++ List.replicate 56 0
  let g := segAt segs f.reloc
  let rs := if f.reloc = 0xFF then [] else
    ((List.range (g.count 8)).map (s.segRec x g 8)).filter (fun d => Bytes.num d 0 2 == i)
  let r := rs.foldl (fun st d => f.applyReloc org shadow d st) (store, Bytes.sub body 0x39C0 (e.ovf * 16))
  (r.1, r.2, ok)

/-! ## What the field keeps of an image -/

/-- The golden entries of an image (04 R98). -/
def State.goldenEntries (s : State) (x : ImgAt) : List GoldenEntry :=
  ((s.segs x).filter (fun g => g.type == 8)).flatMap (fun g => (List.range (g.count 32)).map (fun i =>
    let d := s.segRec x g 32 i
    ⟨Bytes.num d 0 2, Bytes.num d 2 1, Bytes.num d 3 1, Bytes.num d 8 8, Bytes.num d 0x10 4, Bytes.num d 0x14 4,
     Bytes.num d 0x18 8⟩))

/-- The state entries of a fit, at absolute cells and clusters (04 R98, R96). -/
def State.stateEntries (s : State) (x : ImgAt) (f : Fit) (org : Nat × Nat) (shadow : Bool) : List StateEntry :=
  let g := segAt (s.segs x) f.state
  if f.state = 0xFF then []
  else (List.range (g.count 32)).map (fun i =>
    let d := s.segRec x g 32 i
    let pocket := Bytes.num d 3 1 == 1
    let loc := Bytes.num d 4 2
    let place := if pocket then f.patched org shadow 8 loc else f.patched org shadow 7 loc
    ⟨Bytes.num d 0 2, Bytes.num d 2 1, pocket, place, Bytes.num d 8 4, Bytes.num d 0x0C 4, Bytes.num d 0x10 1,
     Bytes.num d 0x14 8⟩)

/-- The preloads of a fit, at absolute cells and clusters (04 R95). -/
def State.preloadEntries (s : State) (x : ImgAt) (f : Fit) (org : Nat × Nat) (shadow : Bool) : List Preload :=
  let g := segAt (s.segs x) f.preload
  let es := (s.entriesOf x f).1
  if f.preload = 0xFF then []
  else (List.range (g.count 32)).map (fun i =>
    let d := s.segRec x g 32 i
    let e := es.getD (Bytes.num d 0 2) ⟨0, 0, 0, 0⟩
    let cell := f.patched org shadow 8 (e.x + e.y * 64)
    let pocket := Bytes.num d 2 1 == 1
    ⟨pocket, if pocket then cell else cell / 16, Bytes.num d 3 1, Bytes.num d 4 4, Bytes.num d 8 8, Bytes.num d 0x10 4⟩)

/-- Absolute cluster of a position of a placed fit. -/
def absCluster (org : Nat × Nat) (shadow : Bool) (x y : Nat) : Nat :=
  if shadow then 144 + y * 2 + x else (org.2 + y) * 12 + org.1 + x

/-- What the field keeps of a placed image. -/
def State.fieldImage (s : State) (x : ImgAt) (i : Nat) (org : Nat × Nat) (shadow : Bool)
    (plan planLen pool vef ring : Nat) (translated : Bool) : FieldImage :=
  let h := s.imgHdr x
  let f := h.fits.getD i (fitOf [])
  ⟨x.addr, h.size, plan, planLen, pool, vef, ring, translated, h.digest, i, h.pageSize, h.pipeDepth, s.persistW x,
   (s.entriesOf x f).1.map (fun e => f.patched org shadow 8 (e.x + e.y * 64)),
   f.excl.map (fun e => absCluster org shadow e.1 e.2), s.goldenEntries x, s.stateEntries x f org shadow,
   s.preloadEntries x f org shadow,
   (s.planDecls x).zipIdx.filterMap (fun d => if d.1.kind = 4 then some d.2 else none)⟩

/-- The plan windows of an image: base, length in 4 KiB, READ, WRITE, and whether it is the Valley's (04 R94). -/
def State.planWins (s : State) (x : ImgAt) (plan : Nat) : List (Nat × Nat × Bool × Bool × Bool) :=
  let ds := s.planDecls x
  let segs := s.segs x
  ds.zipIdx.map (fun d =>
    let before := (((ds.take d.2).filter (fun e => e.kind == 2 || e.kind == 3)).map (·.size)).foldl (· + ·) 0
    let rd := d.1.perm.testBit 0
    let wr := d.1.perm.testBit 1
    match d.1.kind with
    | 1 => let g := segAt segs d.1.seg
           (x.addr + g.off, (g.size + 4095) / 4096, rd, false, false)
    | 2 | 3 => (plan + before, d.1.size / 4096, rd, wr, false)
    | 4 => (0, 0, rd, wr, true)
    | _ => (0, 0, rd, false, false))

end Sys2Proof.Machine
end

