-- ==== Sys2Proof/Machine/SeqOps.lean ====
section
/-! DEFINITION. The shared operations of sequence serving (chapter 7): admission, retirement, pins, the building of a
step and its commit. -/

namespace Sys2Proof.Machine

/-- What a command answers: status, cause and RESULT0. -/
structure Reply where
  status : Nat
  cause : Nat
  result : Nat
  deriving DecidableEq, Repr

def Reply.done (r : Nat) : Reply := ⟨0, 0, r⟩
def Reply.format (cause : Nat) : Reply := ⟨0x40, cause, 0⟩

/-- Token IDs of block `b` of a token string: 1,024 bytes. -/
def blockToks (toks : Bytes) (b : Nat) : Bytes := Bytes.sub toks (b * 1024) 1024

/-- The walk of a chain of blocks (07 R175, R177): the entries found, the key of the last one, and the collisions met. -/
structure Walk where
  chain : List Nat
  key : Nat
  collide : Nat
  deriving DecidableEq, Repr

/-- Blocks matched one after another from block `b`, at most `n` of them, until the first miss. -/
def State.walkChain (s : State) (p dom : Nat) (toks : Bytes) : Nat → Nat → Walk → Walk
  | 0, _, w => w
  | n + 1, b, w =>
    let k := pfxKey w.key (blockToks toks b)
    let r := s.pfxLookup p dom k (blockToks toks b)
    match r.1 with
    | some e => s.walkChain p dom toks n (b + 1) ⟨w.chain ++ [e], k, w.collide + r.2⟩
    | none => { w with collide := w.collide + r.2 }

/-- The root key of a field's image. -/
def State.rootOf (s : State) (f : Nat) : Nat :=
  match (s.frt f).image with
  | some i => rootKey i.digest
  | none => 0

/-- FILLING entries inserted for the blocks from `b` up, at most `n` of them (07 R175, R177): the state, and the entries
inserted by block. `parent` is the entry of the block before. -/
def State.insertBlocks (s : State) (p dom : Nat) (toks : Bytes) (groups : List Nat) (shared : Nat) :
    Nat → Nat → Nat → Nat → List (Nat × Nat) → State × List (Nat × Nat)
  | 0, _, _, _, acc => (s, acc)
  | n + 1, b, key, parent, acc =>
    let k := pfxKey key (blockToks toks b)
    let r := s.pfxInsert p dom k (groups.getD (b - shared) 0) parent (blockToks toks b)
    match r.2 with
    | some i => r.1.insertBlocks p dom toks groups shared n (b + 1) k i (acc ++ [(b, i)])
    | none => r.1.insertBlocks p dom toks groups shared n (b + 1) k 0xFFFFFFFF acc

/-- Prompt tokens copied into the token blocks of the groups taken (07 R174). -/
def State.copyTokens (s : State) (p : Nat) (toks : Bytes) (groups : List Nat) (shared : Nat) : State :=
  groups.zipIdx.foldl (fun s g =>
    let bs := blockToks toks (shared + g.2)
    if bs.isEmpty then s else s.ctxWrite (s.poolCtx p) (s.tokenBlock p g.1) bs) s

/-- SEQ_ADMIT carried out on a bound pool (07 R174, R175). -/
def State.seqAdmit (s : State) (f p : Nat) (c : Cmd) : State × Reply :=
  let plen := c.op 0x20 4
  let mnew := c.op 0x24 4
  let i := c.op 0x28 4
  if plen = 0 ∨ mnew = 0 ∨ plen + mnew > 262144 ∨ ((s.pool p).seq i).isSome then (s, .format 4)
  else
    let toks := s.ctxRead c.ctx (c.op 0x18 8) (plen * 4)
    let s := s.ctxTouch c.ctx (c.op 0x18 8) (plen * 4)
    let dom := s.rd VEF_CTL.DOMAIN c.vef
    let resv := plen + mnew
    let nblk := (resv + 255) / 256
    let w := s.walkChain p dom toks ((plen - 1) / 256) 0 ⟨[], s.rootOf f, 0⟩
    let shared := w.chain.length
    let s := s.add VLY_STAT.COLLIDE w.collide
    let need := nblk - shared
    let free := ((s.pool p).free (s.poolGroups p)).length
    let rec_ := reclaimable p w.chain (s.vly.pfx.length) s.vly.pfx
    if free + rec_ < need then
      (s.inc VLY_STAT.NOPAGES, ⟨0x20, 0, (need - free - rec_) * 2 ^ 32⟩)
    else
      let s := s.add VLY_STAT.HIT shared
      let s := if free < need then s.reclaim p w.chain (need - free) else s
      let groups := ((s.pool p).free (s.poolGroups p)).take need
      let s := s.copyTokens p toks groups shared
      let s := w.chain.foldl (fun s e => s.pfxRefs e (· + 1)) s
      let parent := w.chain.getLast?.getD 0xFFFFFFFF
      let r := s.insertBlocks p dom toks groups shared (plen / 256 - shared) shared w.key parent []
      let s := r.1
      let x := s.pool p
      let pages := w.chain.map (fun e => (⟨(s.pfxAt e).group, true⟩ : PageEntry)) ++ groups.map (fun g => ⟨g, false⟩)
      let q : SeqSt := ⟨c.vef, plen, resv, shared * 256, shared * 256, pages, r.2⟩
      let x := groups.foldl (fun x g => x.setTag g (.priv c.vef)) x
      (s.setPool p (x.setSeq i q), .done (shared * 256 + need * 2 ^ 32))

/-- A live sequence that a command may name: it is live and its VEF owns it (07 R171). -/
def State.ownSeq (s : State) (p : Nat) (c : Cmd) (i : Nat) : Option SeqSt :=
  match (s.pool p).seq i with
  | some q => if q.vef = c.vef then some q else none
  | none => none

/-- SEQ_RETIRE carried out (07 R188). -/
def State.seqRetire (s : State) (p : Nat) (c : Cmd) : State × Reply :=
  match s.ownSeq p c (c.op 0x28 4) with
  | some _ => (s.retireSeq p (c.op 0x28 4), .done 0)
  | none => (s, .format 4)

/-- The chain that a pin command walks (07 R179). -/
def State.pinWalk (s : State) (f p : Nat) (c : Cmd) : Walk :=
  let n := c.op 0x20 4
  s.walkChain p (s.rd VEF_CTL.DOMAIN c.vef) (s.ctxRead c.ctx (c.op 0x18 8) (n * 4)) (n / 256) 0 ⟨[], s.rootOf f, 0⟩

/-- A pin names the entry of a key in a pool and domain. -/
def Pin.names (x : Pin) (key p dom : Nat) : Bool := x.key == key && x.pool == p && x.domain == dom

/-- PREFIX_PIN carried out (07 R179). -/
def State.prefixPin (s : State) (f p : Nat) (c : Cmd) : State × Reply :=
  let w := s.pinWalk f p c
  let s := (s.ctxTouch c.ctx (c.op 0x18 8) (c.op 0x20 4 * 4)).add VLY_STAT.COLLIDE w.collide
  let r := w.chain.zipIdx.foldl (fun (a : State × Nat) e =>
    let pins := (a.1.vrt c.vef).pins
    let pin : Pin := ⟨(a.1.pfxAt e.1).key, p, e.2, s.rd VEF_CTL.DOMAIN c.vef⟩
    if pins.any (fun x => x.names pin.key p pin.domain) || pins.length ≥ 4096 then a
    else ((a.1.pfxPins e.1 (· + 1)).setV c.vef { a.1.vrt c.vef with pins := pins ++ [pin] }, a.2 + 1)) (s, 0)
  (r.1, .done r.2)

/-- PREFIX_UNPIN carried out (07 R179). -/
def State.prefixUnpin (s : State) (f p : Nat) (c : Cmd) : State × Reply :=
  let w := s.pinWalk f p c
  let s := (s.ctxTouch c.ctx (c.op 0x18 8) (c.op 0x20 4 * 4)).add VLY_STAT.COLLIDE w.collide
  let r := w.chain.foldl (fun (a : State × Nat) e =>
    let pins := (a.1.vrt c.vef).pins
    let key := (a.1.pfxAt e).key
    let dom := s.rd VEF_CTL.DOMAIN c.vef
    if pins.any (fun x => x.names key p dom) then
      ((a.1.pfxPins e (· - 1)).setV c.vef { a.1.vrt c.vef with pins := pins.filter (fun x => !x.names key p dom) }, a.2 + 1)
    else a) (s, 0)
  (r.1, .done r.2)

/-! ## Steps (07 R183–R187) -/

/-- A step entry as it lies in memory breaks R183's own table. -/
def stepBad (e : Bytes) : Bool :=
  let kind := Bytes.num e 2 1
  let cand := Bytes.num e 3 1
  decide (Bytes.num e 0 2 ≥ 4096) || !(kind == 1 || kind == 2) || decide (cand > 8) || decide (Bytes.num e 4 2 > 2048) ||
  Bytes.num e 6 2 != 0 || (kind == 1 && (cand != 0 || Bytes.num e 8 4 != 0)) || (kind == 2 && Bytes.num e 4 2 != 0) ||
  (List.range 8).any (fun i => decide (cand ≤ i) && Bytes.num e (0x0C + 4 * i) 4 != 0) ||
  (e.drop 0x2C).any (fun b => b != 0)

/-- The kind of an entry matches the state of its sequence (07 R171, R183). -/
def SeqSt.accepts (q : SeqSt) (decode : Bool) : Bool :=
  if decode then decide (q.promptLen ≤ q.prefilled) else decide (q.prefilled < q.promptLen)

/-- DECODE entries built (07 R184). -/
def stepDecode (q : SeqSt) (e : Bytes) : StepRun :=
  let cand := Bytes.num e 3 1
  let i := Bytes.num e 0 2
  let tok := Bytes.num e 8 4
  if q.len = q.resv then ⟨i, true, true, false, 0, q.len, tok, []⟩
  else
    let c := min cand (q.resv - q.len - 1)
    ⟨i, true, false, decide (c < cand), c, q.len, tok, (List.range c).map (fun j => Bytes.num e (0x0C + 4 * j) 4)⟩

/-- The chunk of the PREFILL entry, where the DECODE entries bring `d` tokens (07 R184). -/
def stepChunk (q : SeqSt) (chunkMax d : Nat) : Nat :=
  let rem := q.promptLen - q.prefilled
  let k := min rem (min 2048 (4096 - d))
  let k := if chunkMax > 0 then min k chunkMax else k
  if k < rem then
    let e := q.prefilled + k - (q.prefilled + k) % 256
    if e > q.prefilled then e - q.prefilled else k
  else k

/-- Tokens an entry brings into the manifest. -/
def StepRun.tokens (r : StepRun) : Nat := if r.full then 0 else if r.decode then 1 + r.count else r.count

/-- A SEQ_STEP's entries checked and built, or the cause of its FORMAT_ERROR (07 R183, R184). -/
def State.buildSteps (s : State) (p : Nat) (c : Cmd) (bufs : List Win) : Except Nat (List StepRun) :=
  let n := c.op 0x34 4
  let es := (List.range n).map (fun i => s.ctxRead c.ctx (c.op 0x28 8 + i * 64) 64)
  let seqs := es.map (fun e => Bytes.num e 0 2)
  let kind (e : Bytes) : Nat := Bytes.num e 2 1
  let bufBad := match bufs with
    | w :: _ => !w.wr || decide (w.len < 128 * n)
    | [] => true
  if es.any stepBad || (es.filter (fun e => kind e == 1)).length > 1 || (es.filter (fun e => kind e == 2)).length > 256 ||
     !decide seqs.Nodup || bufs.length == 0 || bufs.length == 8 || bufBad then .error 4
  else
    let owned := es.map (fun e => s.ownSeq p c (Bytes.num e 0 2))
    let fits := (es.zip owned).all (fun x => match x.2 with
      | some q => q.accepts (kind x.1 == 2)
      | none => false)
    if !fits then .error 4
    else
      let dec := (es.zip owned).filterMap (fun x => match x.2 with
        | some q => if kind x.1 = 2 then some (stepDecode q x.1) else none
        | none => none)
      let d := (dec.map StepRun.tokens).foldl (· + ·) 0
      .ok ((es.zip owned).filterMap (fun x => match x.2 with
        | some q =>
          if kind x.1 = 2 then some (stepDecode q x.1)
          else some ⟨Bytes.num x.1 0 2, false, false, false, stepChunk q (Bytes.num x.1 4 2) d, q.prefilled, 0, []⟩
        | none => none))

/-- The token at a position of a sequence, from its token blocks. -/
def State.tokenAt (s : State) (p : Nat) (q : SeqSt) (pos : Nat) : Nat :=
  leNat (s.ctxRead (s.poolCtx p) (s.tokenBlock p ((q.pages.getD (pos / 256) ⟨0, false⟩).group) + pos % 256 * 4) 4)

/-- One record of the manifest (07 R185). -/
def manifestRec (seq entry token pos role cand : Nat) : Bytes :=
  leBytes 2 seq ++ leBytes 2 entry ++ leBytes 4 token ++ leBytes 4 pos ++ leBytes 1 role ++ leBytes 1 cand ++ leBytes 2 0

/-- The manifest of a step (07 R185). -/
def State.stepManifest (s : State) (p : Nat) (rs : List StepRun) : Bytes :=
  let total := (rs.map StepRun.tokens).foldl (· + ·) 0
  let pre := rs.zipIdx.find? (fun r => !r.1.decode)
  let dec := rs.zipIdx.flatMap (fun r =>
    if !r.1.decode || r.1.full then []
    else manifestRec r.1.seq r.2 r.1.token r.1.start 1 0 ++
      r.1.cands.zipIdx.flatMap (fun c => manifestRec r.1.seq r.2 c.1 (r.1.start + 1 + c.2) 2 (c.2 + 1)))
  let chunk := match pre with
    | none => []
    | some r => match (s.pool p).seq r.1.seq with
      | none => []
      | some q => (List.range r.1.count).flatMap (fun j =>
          let pos := r.1.start + j
          manifestRec r.1.seq r.2 (s.tokenAt p q pos) pos (if pos + 1 = q.promptLen then 4 else 3) 0)
  let k := match pre with
    | some r => r.1.count
    | none => 0
  let pi := match pre with
    | some r => r.2
    | none => 0xFFFF
  leBytes 4 total ++ leBytes 2 rs.length ++ leBytes 2 pi ++ leBytes 2 k ++ leBytes 54 0 ++ dec ++ chunk

/-- FILLING entries whose blocks are wholly committed become VALID, their groups SHARED (07 R178). -/
def State.validate (s : State) (p i : Nat) : State :=
  match (s.pool p).seq i with
  | none => s
  | some q =>
    let ready := q.filling.filter (fun b => decide ((b.1 + 1) * 256 ≤ q.len))
    let s := ready.foldl (fun s b => s.setPfx b.2 { s.pfxAt b.2 with state := 2 }) s
    let x := s.pool p
    let x := ready.foldl (fun x b => x.setTag (s.pfxAt b.2).group (.shared (s.pfxAt b.2).domain)) x
    let pages := q.pages.zipIdx.map (fun e => if ready.any (fun b => b.1 == e.2) then { e.1 with shared := true } else e.1)
    s.setPool p (x.setSeq i { q with pages := pages, filling := q.filling.filter (fun b => !ready.contains b) })

/-- A committed token written into its block. -/
def State.putToken (s : State) (p : Nat) (q : SeqSt) (pos tok : Nat) : State :=
  s.ctxWrite (s.poolCtx p) (s.tokenBlock p ((q.pages.getD (pos / 256) ⟨0, false⟩).group) + pos % 256 * 4) (leBytes 4 tok)

/-- The accepted candidates: the longest prefix of the candidates that the outputs confirm (07 R187). -/
def accepted : List Nat → List Nat → Nat
  | c :: cs, o :: os => if c = o then 1 + accepted cs os else 0
  | _, _ => 0

/-- One entry of a step committed: the result record's controller fields, and what its sequence becomes (07 R186,
R187). -/
def State.commitEntry (s : State) (p : Nat) (j : Job) (e : Nat) (r : StepRun) : State :=
  match (s.pool p).seq r.seq, j.wins with
  | some q, w :: _ =>
    let t := s.target j.cmd.ctx w.fabric w.base
    let recs := s.targetRead t (128 * (e + 1)) []
    let outs := (List.range 9).map (fun i => Bytes.num recs (128 * e + 4 * i) 4)
    let a := if r.decode && !r.full then accepted r.cands outs else 0
    let len := if r.full then q.len else if r.decode then q.len + 1 + a else q.len + r.count
    let s := if r.decode && !r.full then
        ((r.token :: r.cands.take a).zipIdx).foldl (fun s x => s.putToken p q (q.len + x.2) x.1) s
      else s
    let q := { q with len := len, prefilled := if r.decode then q.prefilled else q.prefilled + r.count }
    let s := s.setPool p ((s.pool p).setSeq r.seq q)
    let put (s : State) (o : Nat) (bs : Bytes) : State :=
      s.targetWrite j.cmd.ctx (s.target j.cmd.ctx w.fabric (w.base + 128 * e + o)) bs
    let s := put s 0x24 (leBytes 1 (if r.full then 1 else if r.clipped then 2 else 0) ++ leBytes 1 a)
    let s := put s 0x28 (leBytes 4 len ++ leBytes 4 r.tokens)
    s.validate p r.seq
  | _, _ => s

/-- A SEQ_STEP committed: the lengths advance and RESULT0 is formed (07 R187). -/
def State.commitSteps (s : State) (f : Nat) (j : Job) : State × Nat :=
  match s.poolOf f with
  | none => (s, 0)
  | some p =>
    let s := j.steps.zipIdx.foldl (fun s r => s.commitEntry p j r.2 r.1) s
    let total := (j.steps.map StepRun.tokens).foldl (· + ·) 0
    let left := match j.steps.find? (fun r => !r.decode) with
      | none => 0
      | some r => match (s.pool p).seq r.seq with
        | some q => q.promptLen - q.prefilled
        | none => 0
    (s, total + left * 2 ^ 32)

end Sys2Proof.Machine
end

