-- ==== Sys2Proof/Machine/Schedule.lean ====
section
/-! DEFINITION. Admission, pre-emption and commit on the engine resources (06 R148–R155), and the field commands INFER,
FRAME, SEQ_STEP, FIELD_CHECKPOINT, FIELD_RELEASE and the table commands. -/

namespace Sys2Proof.Machine

/-! ## Admission (06 R148, R149, 02 R52) -/

/-- What becomes of the head of a queue: it is admitted; it completes without running; it waits, and the next queue may
go; or it holds the resource. -/
inductive Gate where
  | takeUp
  | finish (status cause : Nat)
  | wait
  | hold
  deriving DecidableEq, Repr

/-- A BIST slice of a block of the field is in progress (11 R287). -/
def State.sliceIn (s : State) (f : Nat) : Bool :=
  match s.bist.slice with
  | some x => x.field == some f
  | none => false

/-- A field takes commands: IDLE or RUNNING, no fault draining, nothing that holds its queues, no transfer left of a slice's
re-initialisation, room in its pipeline and no table command in flight (02 R37, R52, R56, 07 R173, 10 R264, 11 R286,
R288). -/
def State.fieldOpen (s : State) (f : Fin 17) : Bool :=
  let x := s.frt f
  let st := s.fState f
  let jobs := s.jobsOn (.field f)
  (st == stIdle || st == stRunning) && x.emptied.isNone && !x.faultDrain && x.killSince.isNone && !x.needReinit && !x.hold && !x.moves.any (fun m => m.kind == 4) &&
    !s.saf.needGolden.contains f.val && !s.saf.forced.contains f.val && !s.sliceIn f && decide (jobs.length < s.rd PLAIN_FLD_CFG.PIPE_DEPTH_M1 f + 1) &&
    !jobs.any (fun j => tableOp j.cmd.opcode)

/-- The VEF of a command may have commands admitted (12 R297, R305). -/
def State.vefRuns (s : State) (v : Nat) : Bool := v == cantleSet || s.rd VEF_CTL.STATE v == vActive

/-- A FRAME's instant resolved, where its operand names the next one (08 R209). -/
def State.resolveFrame (s : State) (f : Nat) (c : Cmd) : State :=
  if (s.frameK c).isSome then s
  else
    let k := match Sparse.look none s.fus.lastFrame f with
      | some k => k + 1
      | none => s.fus.nextK
    { s with fus := { s.fus with resolved := s.fus.resolved ++ [(c.serial, k)] } }

/-- The image of a field lies in the resident driving region. -/
def State.residentImage (s : State) (f : Nat) : Bool :=
  match (s.frt f).image with
  | some i => s.inRegion rgnResident i.addr i.size
  | none => false

/-- The operand bits of a FRAME. -/
def Cmd.objList (c : Cmd) : Bool := (c.op 0x28 8).testBit 56
def Cmd.pose (c : Cmd) : Bool := (c.op 0x28 8).testBit 57
def Cmd.ckpt (c : Cmd) : Bool := (c.op 0x28 8).testBit 58

/-- A FRAME at the head of its queue (08 R209). -/
def State.frameGate (s : State) (f : Nat) (c : Cmd) : Gate :=
  match s.frameK c with
  | none => .wait
  | some k =>
    let bufs := s.bufList c c.bufOp.1 c.bufOp.2
    let objBad := c.objList && match bufs with
      | .ok (w :: _) => !w.wr || decide (w.len < 16512)
      | _ => true
    let noState := match (s.frt f).image with
      | some i => i.states.isEmpty
      | none => true
    if !s.flag FUS_CTL.RUN then .finish 0x40 4
    else if k ≥ s.fus.nextK + 16 then .finish 0x40 4
    else if k ≥ s.fus.nextK then .wait
    else if !s.held k || decide (c.bufOp.2 > 6) || !s.residentImage f || objBad ||
        (c.pose && f != s.rd FUS_CFG.PRIMARY) || (c.ckpt && noState) then .finish 0x40 4
    else match bufs with
      | .error e => .finish 0x40 e
      | .ok _ => .takeUp

/-- The head of a queue of a field (02 R51–R53, 06 R148, R153, 16 R414). It is passed over only where it waits under R149 or
for its instant; a NOP, a FENCE, a FIELD_RELEASE, a command of a VEF that is not ACTIVE and one held at the power floor hold
the resource. -/
def State.fieldGate (s : State) (f : Fin 17) (c : Cmd) : Gate :=
  let jobs := s.jobsOn (.field f)
  if opCommon c.opcode || c.opcode == 0x21 then (if s.waits c then .wait else .hold)
  else if c.op 0x30 4 / 65536 ≠ s.rd PLAIN_FLD_STATE.GENERATION f then .finish 0x21 0
  else if (s.frt f).releases.any (fun d => d.vef == c.vef) then .finish 0x21 0
  else if s.waits c then .wait
  else if !s.vefRuns c.vef then .hold
  else if c.opcode = 0x31 ∧ s.frameGate f c ≠ .takeUp then s.frameGate f c
  else if c.cls ≥ 2 && s.flag PWR_STAT.AT_FLOOR then .hold
  else if tableOp c.opcode && !jobs.isEmpty then .hold
  else if c.cls == 1 && jobs.any (fun j => j.cmd.cls ≥ 2) then .hold
  else if (tableOp c.opcode || c.opcode == 0x41) && (s.poolOf f).isNone then .finish 0x40 4
  else .takeUp

/-- A RASTER slice is in progress (11 R287). -/
def State.rasterSlice (s : State) : Bool :=
  match s.bist.slice with
  | some x => x.kind == 3
  | none => false

/-- The device is in DEPOT or on its way there, where the render engine is OFF (01 R16). -/
def State.depotDark (s : State) : Bool := s.cur == mDepot || decide (s.mode.trans = some .depot)

/-- The head of a queue of another engine. -/
def State.engineGate (s : State) (r : Res) (c : Cmd) : Gate :=
  if s.waits c then .wait
  else if opCommon c.opcode || c.opcode == 0x51 || !s.vefRuns c.vef then .hold
  else if r == .render && (s.bist.stop || s.rasterSlice || s.depotDark) then .hold
  else if !(s.jobsOn r).isEmpty then .hold
  else .takeUp

/-- The gate of a head on its resource. -/
def State.gate (s : State) (r : Res) (c : Cmd) : Gate :=
  match r with
  | .field f => s.fieldGate f c
  | .loader => .hold
  | _ => s.engineGate r c

/-- The head that a resource admits or finishes: that of the highest-priority queue, passing over heads that wait
(06 R148). -/
def State.pick (s : State) (r : Res) : List Nat → Option (Cmd × Gate)
  | [] => none
  | cls :: rest => match s.queueOf r cls with
    | [] => s.pick r rest
    | c :: _ => match s.gate r c with
      | .wait => s.pick r rest
      | .hold => none
      | g => some (c, g)

/-- A new entry of the flight list. -/
def Cmd.job (c : Cmd) (r : Res) (now : Nat) : Job :=
  ⟨c, r, 0, false, .running, [], [], [], 0, 0, now, Usage.zero, false, false, false, [], [], Usage.zero⟩

/-- What admission does to the cells of a field: row statistics are cleared and the stochastic-rounding generators are
seeded anew, and the checksum bank is cleared (02 R33, 03 R69, R79). -/
def State.seedField (s : State) (f : Fin 17) : State :=
  let n := s.freeCount
  (s.drawn).onCells f (fun c => { c with rowstat := [], lfsr := [], seed := n, chk := [] })

/-- A command put in flight on a field (02 R50, R52, R55). -/
def State.admitField (s : State) (f : Fin 17) (j : Job) : State :=
  let s := { s with flight := s.flight ++ [j] }
  let s := s.seedField f
  let s := if s.fState f = stIdle then s.setState f stRunning else s
  let s := if j.cmd.opcode = 0x31 ∧ !j.golden then
      { s with fus := { s.fus with lastFrame := Sparse.put none s.fus.lastFrame f (s.frameK j.cmd) } }
    else s
  s.countFlight f

/-- The lowest-numbered idle channel of a system-DMA engine that is not disabled (05 R122, R125). -/
def State.idleChannel (s : State) (e : Nat) : Option Nat :=
  ((List.range 8).map (fun k => e * 8 + k)).find? (fun k => !s.flag DMA_CH_CTL.BUSY k && !s.flag DMA_CH_CTL.DISABLE k)

/-- SPARE raster cores come into service at the admission of a RENDER (11 R292). -/
def State.takeCores (s : State) : State :=
  s.each 8 (fun c s => if s.rd BIST_UNIT.STATE (148 + c) = 3 then
    (s.wr BIST_UNIT.STATE 0 (148 + c)).wr RND_CFG.IN_SVC (setBit (s.rd RND_CFG.IN_SVC) c) else s)

/-- Bytes of the projector's calibration block (08 R217). -/
def calSize : Nat := 0x840 + 8 * 64

/-- The command with its calibration block: read at its first admission, kept at a re-run (08 R216). -/
def State.withCal (s : State) (c : Cmd) : Cmd :=
  if c.copy = [] then { c with copy := s.ctxRead c.ctx (c.op 0x28 8) calSize } else c

/-- A command admitted to its resource. -/
def State.takeUp (s : State) (r : Res) (c : Cmd) : State :=
  let s := s.dequeue c.serial
  let j := c.job r s.localNs
  match r with
  | .field f => s.admitField f j
  | .render => { s.takeCores with flight := s.takeCores.flight ++ [j] }
  | .projector =>
    let j := (s.withCal c).job r s.localNs
    let s := if c.copy = [] then s.ctxTouch c.ctx (c.op 0x28 8) calSize else s
    { s with flight := s.flight ++ [j] }
  | _ => { s with flight := s.flight ++ [j] }

/-- A DMA command assigned to an idle channel of its engine (05 R122). -/
def State.assign (s : State) (e : Fin 4) (c : Cmd) : State :=
  match s.idleChannel e with
  | none => s
  | some k =>
    let s := s.dequeue c.serial
    let s := { s with flight := s.flight ++ [{ c.job (.dma e) s.localNs with chan := k }] }
    ((s.wr DMA_CH_CTL.BUSY 1 k).wr DMA_CH_CTL.VEF c.vef k).wr DMA_CH_BYTES.BYTES 0 k

/-- The head of the highest-priority queue of a DMA engine that can be assigned. -/
def State.dmaHead (s : State) (e : Fin 4) : List Nat → Option Cmd
  | [] => none
  | cls :: rest => match s.queueOf (.dma e) cls with
    | [] => s.dmaHead e rest
    | c :: _ =>
      if s.waits c then s.dmaHead e rest
      else if opCommon c.opcode || c.opcode == 0x70 || c.opcode == 0x71 || !s.vefRuns c.vef then none
      else some c

/-- The FRAMEs at the heads of a field's queues get their instants (08 R209). -/
def State.resolveHeads (s : State) (f : Fin 17) : State :=
  (List.range 4).foldl (fun s cls => match s.headIs (.field f) cls 0x31 with
    | some c => s.resolveFrame f c
    | none => s) s

/-- A resource takes up the next command that it may take up. -/
def State.admitNext (s : State) (r : Res) : State :=
  match s.pick r [0, 1, 2, 3] with
  | some (c, .takeUp) => s.takeUp r c
  | some (c, .finish st cause) => s.endQueued c st cause 0
  | _ => s

/-- COMMAND_ADMIT: a resource admits the head of its highest-priority queue that can be admitted. -/
def execCommandAdmit (res : Res) (s : State) : Ans :=
  if s.fwOut 2 then .next s else
  match res with
  | .field f =>
    let s := s.resolveHeads f
    if s.fieldOpen f then .next (s.admitNext res) else .next s
  | .dma e => match s.dmaHead e [0, 1, 2, 3] with
    | some c => .next (s.assign e c)
    | none => .next s
  | .loader => .next s
  | r => if (Sparse.look none s.engKill (if r = .render then 0 else 1)).isSome then .next s else .next (s.admitNext r)

/-! ## Pre-emption (06 R153, R154) -/

/-- A REALTIME head is held neither under R149 nor for its instant, and the oldest command in flight is INTERACTIVE or
BATCH. -/
def State.preempts (s : State) (r : Res) : Bool :=
  (match s.queueOf r 1 with
    | c :: _ => !s.waits c &&
      (c.opcode != 0x31 || match s.frameK c with
        | some k => decide (k < s.fus.nextK)
        | none => false)
    | [] => false) &&
  (match s.jobsOn r with
    | j :: _ => decide (2 ≤ j.cmd.cls) && !tableOp j.cmd.opcode
    | [] => false)

/-- Index of the two engines that a kill stops at once. -/
def killIndex : Res → Option Nat
  | .render => some 0
  | .projector => some 1
  | _ => none

/-- The stall watchdog of a field has reached its period (02 R55). -/
def State.wdogDue (s : State) (f : Nat) : Bool :=
  s.fState f == stRunning && decide ((s.frt f).wdogPeriod * 1000 ≤ s.wdogCount f)

/-- PREEMPT_KILL: the kill is decided. An expiry of the field's watchdog that is due wins (02 R55). -/
def execPreemptKill (res : Res) (s : State) : Ans :=
  if s.fwOut 2 then .next s else
  if !s.preempts res then .next s
  else match res with
    | .field f =>
      if s.fState f = stRunning ∧ !(s.frt f).faultDrain ∧ !s.wdogDue f then .next (s.killField f) else .next s
    | r => match killIndex r with
      | some i => match Sparse.look none s.engKill i with
        | some _ => .next s
        | none => .next { s with engKill := Sparse.put none s.engKill i (some s.localNs) }
      | none => .next s

/-- Golden frames are not run again: one in flight when its field is killed is forgotten by the queues (10 R274: it
fails by its deadline). -/
def State.dropGoldens (s : State) (f : Fin 17) : State :=
  (s.jobsOn (.field f)).foldl (fun s j =>
    if j.golden then (s.dropJob j.cmd.serial).releaseSlot j.cmd.vef else s) s

/-- The kill of a field complete (02 R52, 06 R154): its commands return to the heads of their queues; a field reset
re-initialises it (16 R406). -/
def State.fieldKilled (s : State) (f : Fin 17) : State :=
  let s := (s.dropGoldens f).requeue (.field f)
  let s := s.setF f { s.frt f with killSince := none }
  let s := (s.countFlight f).setState f stIdle
  if (s.frt f).resetAsked then s.startReinit f else s.clearEmptied f

/-- KILL_DONE: outstanding writes are acknowledged or squashed and the resource is free. -/
def execKillDone (res : Res) (s : State) : Ans :=
  match res with
  | .field f => if s.fState f = stDraining then .next (s.fieldKilled f) else .next s
  | r => match killIndex r with
    | some i => match Sparse.look none s.engKill i with
      | some _ => .next ({ s with engKill := Sparse.put none s.engKill i none }.requeue r)
      | none => .next s
    | none => .next s

/-! ## The field commands begin (06 R145, R146) -/

/-- The oldest command of an opcode in flight on a resource that has not begun. -/
def State.unstarted (s : State) (r : Res) (op : Nat) : Option Job :=
  s.flight.find? (fun j => j.res == r && j.cmd.opcode == op && !j.started && decide (j.outcome = .running))

/-- A cell's sequencer begins a command at microword 0 (04 R90, R103). -/
def CellSt.begin (c : CellSt) (serial : Nat) : CellSt :=
  { c with running := true, pc := 0, rep := 0, job := serial, waiting := false }

/-- The cells of a field that have a stitch entry take a command up, in order of admission. -/
def State.startCells (s : State) (f : Fin 17) (serial : Nat) : State :=
  match (s.frt f).image with
  | none => s
  | some i => i.cells.foldl (fun s k =>
      let c := s.cell k
      s.setCell k (if c.running then { c with todo := c.todo ++ [serial] } else c.begin serial)) s

/-- A command in flight that cannot run ends at its commit with FORMAT_ERROR. -/
def State.refuseJob (s : State) (serial cause : Nat) : State :=
  s.changeJob serial (fun j => { j with started := true, outcome := .ended 0x40 cause 0 })

/-- A command whose windows come from its buffer list begins on its field. -/
def State.startWindows (s : State) (f : Fin 17) (j : Job) : State :=
  let b := j.cmd.bufOp
  let t := s.bufTouch j.cmd b.1 b.2
  match s.bufList j.cmd b.1 b.2 with
  | .error e => t.refuseJob j.cmd.serial e
  | .ok ws => (t.changeJob j.cmd.serial (fun j => { j with started := true, wins := ws })).startCells f j.cmd.serial

/-- INFER. -/
def execInfer (field : Fin 17) (s : State) : Ans :=
  match s.unstarted (.field field) 0x30 with
  | some j => .next (s.startWindows field j)
  | none => .next s

/-- FRAME: an admitted FRAME runs its instant through the field. -/
def execFrame (field : Fin 17) (s : State) : Ans :=
  match s.unstarted (.field field) 0x31 with
  | some j => .next (s.startWindows field j)
  | none => .next s

/-- SEQ_STEP: the step is built, and runs (07 R183–R185). -/
def execSeqStep (field : Fin 17) (s : State) : Ans :=
  match s.unstarted (.field field) 0x41, s.poolOf field with
  | some j, some p =>
    let b := j.cmd.bufOp
    let t := (s.bufTouch j.cmd b.1 b.2).ctxTouch j.cmd.ctx (j.cmd.op 0x28 8) (j.cmd.op 0x34 4 * 64)
    .next (match s.bufList j.cmd b.1 b.2 with
      | .error e => t.refuseJob j.cmd.serial e
      | .ok ws => match s.buildSteps p j.cmd ws with
        | .error e => t.refuseJob j.cmd.serial e
        | .ok rs =>
          (t.changeJob j.cmd.serial (fun j =>
            { j with started := true, wins := ws, steps := rs, manifest := s.stepManifest p rs })).startCells field j.cmd.serial)
  | _, _ => .next s

/-- FIELD_CHECKPOINT: the cluster movers begin to write every STATE entry to the unselected copy (08 R212). -/
def execFieldCheckpoint (field : Fin 17) (s : State) : Ans :=
  match s.unstarted (.field field) 0x22 with
  | some j => .next ((s.startCopies field).changeJob j.cmd.serial (fun j =>
      { j with started := true, copying := true, outcome := .ended 0 0 0 }))
  | none => .next s

/-! ## Table commands (07 R173) -/

/-- What follows the commit of a table command: a kill decided in the meantime has taken effect, and a field reset that
waited for it re-initialises the field (07 R173, 16 R406). -/
def State.afterTable (s : State) (f : Fin 17) : State :=
  let s := (s.setF f { s.frt f with killSince := none }).settle f
  if (s.frt f).resetAsked && s.fState f == stIdle then s.startReinit f else s

/-- A table command in flight carried out and committed in one step: its changes become visible at its commit. -/
def State.tableCommand (s : State) (f : Fin 17) (op : Nat) (g : State → Nat → Cmd → State × Reply) : State :=
  match if s.fwOut 2 then none else s.unstarted (.field f) op with
  | none => s
  | some j =>
    let r := match s.poolOf f with
      | some p => g s p j.cmd
      | none => (s, .format 4)
    (r.1.endJob j r.2.status r.2.cause r.2.result).afterTable f

/-- The table command in flight in a field, whichever it is, carried out and committed. -/
def State.commitTable (s : State) (f : Fin 17) : State :=
  (((s.tableCommand f 0x40 (fun s p c => s.seqAdmit f p c)).tableCommand f 0x42 (fun s p c => s.seqRetire p c)).tableCommand f 0x43
    (fun s p c => s.prefixPin f p c)).tableCommand f 0x44 (fun s p c => s.prefixUnpin f p c)

/-- SEQ_ADMIT. -/
def execSeqAdmit (field : Fin 17) (s : State) : Ans :=
  .next (s.tableCommand field 0x40 (fun s p c => s.seqAdmit field p c))

/-- SEQ_RETIRE. -/
def execSeqRetire (field : Fin 17) (s : State) : Ans :=
  .next (s.tableCommand field 0x42 (fun s p c => s.seqRetire p c))

/-- PREFIX_PIN. -/
def execPrefixPin (field : Fin 17) (s : State) : Ans :=
  .next (s.tableCommand field 0x43 (fun s p c => s.prefixPin field p c))

/-- PREFIX_UNPIN. -/
def execPrefixUnpin (field : Fin 17) (s : State) : Ans :=
  .next (s.tableCommand field 0x44 (fun s p c => s.prefixUnpin field p c))

/-! ## Release (02 R53) -/

/-- FIELD_RELEASE: at the head of its queue it is admitted, and its VEF detaches once nothing of it is in flight. -/
def execFieldRelease (field : Fin 17) (s : State) : Ans :=
  match (List.range 4).findSome? (fun cls => s.headIs (.field field) cls 0x21) with
  | some c =>
    let x := s.frt field
    if s.waits c || !s.vefRuns c.vef then .next s
    else if c.op 0x30 4 / 65536 ≠ s.rd PLAIN_FLD_STATE.GENERATION field then .next (s.endQueued c 0x21 0 0)
    else .next ((s.dequeue c.serial).setF field { x with releases := x.releases ++ [c] })
  | none => .next s

/-- FIELD_DETACH: the VEF detaches once its commands in flight in the field have ended, and its FIELD_RELEASE completes
DONE. -/
def execFieldDetach (field : Fin 17) (vef : Fin 129) (s : State) : Ans :=
  let x := s.frt field
  if x.releases.any (fun c => c.vef == vef.val) && !(s.jobsOn (.field field)).any (fun j => j.cmd.vef == vef.val && !j.golden) &&
      s.fState field != stLoading && s.fState field != stDraining && !x.faultDrain && !s.sliceIn field then
    .next ((s.dropReleases field (fun c => c.vef == vef.val) 0).detach field vef false [])
  else .next s

/-! ## Commit (06 R150–R152) -/

/-- A field command has finished: every cell with a stitch entry has executed END for it and its transfers have raised
their full events (04 R103). -/
def State.cellsDone (s : State) (f : Fin 17) (j : Job) : Bool :=
  match (s.frt f).image with
  | none => false
  | some i => i.cells.all (fun k => j.endedCells.contains k &&
      (s.cell k).xfers.all (fun x => !(x.2.active && x.2.job == j.cmd.serial)))

/-- A command in flight is ready to commit: field commands in order of admission (02 R52). -/
def State.commitReady (s : State) (j : Job) : Bool :=
  match j.outcome with
  | .ended _ _ _ => true
  | .running => j.started && match j.res with
    | .field f => s.cellsDone f j
    | _ => false

/-- Object list, pose and selector written at a FRAME's commit, in order (08 R212–R215). -/
def State.commitFrame (s : State) (f : Fin 17) (j : Job) : State :=
  match s.frameK j.cmd, j.wins with
  | some k, ws =>
    let s := if j.cmd.ckpt then s.ckFlip f else s
    let mask := match s.inst k with
      | some i => i.mask
      | none => 0
    let ceil := match s.inst k with
      | some i => i.ceiling
      | none => 0
    let w := ws.getD 0 ⟨0, 0, false, false, false, 0⟩
    let at_ (o : Nat) : Target := s.target j.cmd.ctx w.fabric (w.base + o)
    let s := if j.cmd.objList then
        let s := (s.targetWrite j.cmd.ctx (at_ 0x14) (leBytes 4 mask)).targetWrite j.cmd.ctx (at_ 0x12) (leBytes 2 ceil)
        (List.range 256).foldl (fun s t =>
          let p := at_ (0x84 + t * 64)
          let conf := leNat (s.targetRead p 2 [])
          s.targetWrite j.cmd.ctx p (leBytes 2 (min conf ceil))) s
      else s
    if j.cmd.pose then
      let rec_ := s.targetRead (at_ 0x40) 64 []
      (s.memWrite (s.rd FUS_POSE.BASE / 4096 * 4096 + k % 64 * 64) rec_).wr FUS_POSE.LAST k
    else s
  | none, _ => s

/-- RESULT0 of a FRAME (08 R210). -/
def State.frameResult (s : State) (c : Cmd) : Nat :=
  match s.frameK c with
  | none => 0
  | some k => (match s.inst k with
      | some i => i.mask
      | none => 0) + k % 2 ^ 32 * 2 ^ 32

/-- A field command commits with DONE: step 1 by opcode, then the PUBLISH words and the record. -/
def State.commitField (s : State) (f : Fin 17) (j : Job) : State :=
  let shut := s.saf.gate && j.cmd.cls == 0
  let r : State × Nat :=
    if shut then (s, 0)
    else if j.golden then (s, 0)
    else if j.cmd.opcode = 0x31 then (s.commitFrame f j, s.frameResult j.cmd)
    else if j.cmd.opcode = 0x41 then s.commitSteps f j
    else if j.cmd.opcode = 0x22 then (s.ckFlip f, 0)
    else (s, 0)
  let s := if shut then r.1 else r.1.publish j.cmd j.wins
  let s := s.setF f { s.frt f with
    ckptLast := !shut && (j.cmd.opcode == 0x22 || (j.cmd.opcode == 0x31 && j.cmd.ckpt && !j.golden)) }
  let s := s.endJob j 0 0 r.2
  let s := if j.cmd.opcode = 0x31 ∧ f = 16 ∧ !j.golden ∧ !shut then
      { s with saf := { s.saf with fallback := s.saf.fallback ++ [((s.frameK j.cmd).getD 0, (j.wins.getD 0 ⟨0, 0, false, false, false, 0⟩).base)] } }
    else s
  s.settle f

/-- A poisoned read of a SAFETY command reported (10 R261, source 0x12). -/
def State.reportPoison (s : State) (j : Job) : State :=
  if j.cmd.cls = 0 then s.report 0x12 (match j.res with
    | .field f => some f.val
    | _ => none)
  else s

/-- A command of another engine leaves its resource; a DMA channel becomes idle. -/
def State.freeEngine (s : State) (j : Job) : State :=
  match j.res with
  | .dma _ => s.wr DMA_CH_CTL.BUSY 0 j.chan
  | _ => s

/-- COMMAND_COMMIT: the oldest command in flight of a resource that has finished commits; a poisoned read ends it with
OUTPUT_INVALID (05 R115). -/
def execCommandCommit (res : Res) (s : State) : Ans :=
  match res with
  | .field f =>
    match s.jobsOn res with
    | j :: _ =>
      if s.fState f ≠ stRunning ∨ (s.frt f).faultDrain ∨ !s.commitReady j then .next s
      else if j.cmd.opcode = 0x31 ∧ j.cmd.ckpt ∧ !j.golden ∧ !j.copying ∧ j.outcome = .running then
        .next ((s.startCopies f).changeJob j.cmd.serial (fun j => { j with copying := true }))
      else if j.copying ∧ (s.frt f).moves.any (fun m => m.kind == 0x02) then .next s
      else match j.outcome with
        | .ended 0 _ _ | .running =>
          if j.tainted then .next (((s.reportPoison j).endJob j 0x30 0 0).settle f) else .next (s.commitField f j)
        | .ended st cause r => .next ((s.endJob j st cause r).settle f)
    | [] => .next s
  | r =>
    match (s.jobsOn r).find? (fun j => s.commitReady j) with
    | none => .next s
    | some j =>
      let s := s.freeEngine j
      match j.outcome with
      | .ended 0 _ res0 =>
        if j.tainted then .next ((s.reportPoison j).endJob j 0x30 0 res0)
        else
          let s := if s.saf.gate && j.cmd.cls == 0 then s else s.publish j.cmd j.wins
          .next (s.endJob j 0 0 res0)
      | .ended st cause res0 => .next (s.endJob j st cause res0)
      | .running => .next s

end Sys2Proof.Machine
end

