-- ==== Sys2Proof/Machine/LoadOps.lean ====
section
/-! DEFINITION. The shared operations of loading and re-initialising a field (chapters 2 and 4): the tests of the FIELD
and POOL operands, attachment, placement, entering LOADING, the stitch phase and the end of a load. -/

namespace Sys2Proof.Machine

/-! ## Operands of a FIELD_LOAD (02 R48, R49, 07 R169) -/

/-- What a FIELD operand asks for: a new placement, one under a field ID, or the replacement of a field. -/
inductive LoadWant where
  | fresh
  | id (n : Nat)
  | replace (f : Fin 17)
  deriving DecidableEq, Repr

/-- The FIELD operand, or its NO_FIELD cause. Field 16 is loaded by a field-ID request only, so its handle names no field
that a load may replace. -/
def State.loadWant (s : State) (c : Cmd) : Except Nat LoadWant :=
  let h := c.op 0x30 4
  if h = 0xFFFFFFFF then .ok .fresh
  else if h / 256 = 0xFFFF00 then .ok (.id (h % 256))
  else
    let n := bits h 0 5
    if hf : n < 16 then
      let f : Fin 17 := ⟨n, Nat.lt_succ_of_lt hf⟩
      let at_ := (s.frt f).attached
      if h / 65536 = s.rd PLAIN_FLD_STATE.GENERATION f ∧ s.fState f ≠ stFree ∧ at_.contains c.vef then
        if at_.any (· != c.vef) then .error 0x11 else .ok (.replace f)
      else .error 0x12
    else .error 0x12

/-- Where the image of a command lies: on a SAFETY-class ring its operands are local physical addresses (06 R143). -/
def Cmd.imgAt (c : Cmd) : ImgAt := ⟨if c.cls = 0 then .phys else c.ctx, c.op 0x18 8⟩

/-- Where the image a field keeps lies. -/
def State.imgOf (s : State) (i : FieldImage) : ImgAt :=
  ⟨if i.translated then .vef i.vef (s.rd RING_VEF_CFG.STREAM_ID i.vef) (some (s.rd RING_VEF_ASID.ASID i.vef i.ring)) else .phys,
   i.addr⟩

/-- The POOL operand fails R169. A pool that another load has taken counts as bound. -/
def State.poolBad (s : State) (c : Cmd) (pageSize : Nat) : Bool :=
  let h := c.op 0x34 4
  let p := h % 16
  (h != 0 && pageSize == 0) || (h == 0 && pageSize != 0) ||
  (h != 0 && (bits h 4 12 != 0 || h / 65536 != s.rd VLY_POOL.GENERATION p || !s.flag VLY_POOL.READY p ||
    s.flag VLY_POOL.BOUND p || s.loads.any (fun l => l.bind == some p) || s.rd VLY_POOL.OWNER p != c.vef ||
    s.rd VLY_POOL.PAGE_64K p != pageSize)) ||
  (c.cls == 0 && pageSize != 0)

/-- Two VEFs are of one sharing domain (12 R304); the Cantle's ring set stands alone. -/
def State.sameDomain (s : State) (v w : Nat) : Bool :=
  v == w || (v != cantleSet && w != cantleSet && s.rd VEF_CTL.DOMAIN v == s.rd VEF_CTL.DOMAIN w)

/-- A field whose loaded image an equal new placement attaches to (02 R48). DESIGN CHOICE: of several such fields the one with
the lowest ID; the manual names none. -/
def State.attachTo (s : State) (v : Nat) (safety : Bool) (digest : Bytes) : Option (Fin 17) :=
  (List.finRange 17).find? (fun f =>
    let st := s.fState f
    st != stFree && st != stLoading && st != stClearing && s.isSafety f == safety &&
    (s.frt f).attached.all (s.sameDomain v) && !(s.frt f).attached.isEmpty && match (s.frt f).image with
      | some i => decide (i.digest = digest) && !i.persistW
      | none => false)

/-- Another load of the same image, class and domain is in LOADING, whichever was fetched first (04 R104). -/
def State.loadTwin (s : State) (v : Nat) (safety : Bool) (digest : Bytes) (serial : Nat) : Bool :=
  s.loads.any (fun l => l.serial != serial && l.phase != .digestWait && l.phase != .clearing &&
    decide (l.image.digest = digest) &&
    (l.cls == 0) == safety && s.sameDomain v l.image.vef && !l.image.persistW)

/-! ## Placement (02 R48, R49, 04 R89) -/

/-- A unit counts as in service for an allocation decision (11 R291, R292). -/
def State.unitUsable (s : State) (u : Nat) : Bool := s.rd BIST_UNIT.STATE u == 0 || s.rd BIST_UNIT.STATE u == 3

/-- Clusters of a load's rectangle. -/
def Load.clusters (l : Load) : List Nat :=
  if l.field = 16 then [144, 145, 146, 147] else rectClusters l.rect.1 l.rect.2.1 l.rect.2.2.1 l.rect.2.2.2

/-- A cluster is free: of no field but `freed`, and promised to no replacement of another. -/
def State.clusterFree (s : State) (k : Nat) (freed : Option Nat) : Bool :=
  (match s.fieldOfCluster k with
    | some g => freed == some g
    | none => true) &&
  s.loads.all (fun l => l.phase != .clearing || !l.clusters.contains k)

/-- A fit passes the placement test at an origin. -/
def State.fits (s : State) (f : Fit) (cx cy : Nat) (freed : Option Nat) : Bool :=
  decide (cx + f.w ≤ 12) && decide (cy + f.h ≤ 12) &&
  (List.range f.h).all (fun y => (List.range f.w).all (fun x =>
    let k := (cy + y) * 12 + cx + x
    s.clusterFree k freed && (f.excl.contains (x, y) || s.unitUsable k)))

/-- The first fit and origin that pass, in the order of R48. -/
def State.search (s : State) (fs : List Fit) (freed : Option Nat) : Option (Nat × Nat × Nat) :=
  fs.zipIdx.findSome? (fun f => (List.range (13 - f.1.h)).findSome? (fun cy =>
    ((List.range (13 - f.1.w)).find? (fun cx => s.fits f.1 cx cy freed)).map (fun cx => (f.2, cx, cy))))

/-- The first fit that passes at a given origin. -/
def State.searchAt (s : State) (fs : List Fit) (cx cy : Nat) (freed : Option Nat) : Option (Nat × Nat × Nat) :=
  (fs.zipIdx.find? (fun f => s.fits f.1 cx cy freed)).map (fun f => (f.2, cx, cy))

/-- The field ID of a new placement (02 R49). -/
def State.newId (s : State) : LoadWant → Option Nat
  | .id n => if s.fState n = stFree then some n else none
  | _ => (List.range 16).find? (fun n => s.fState n == stFree && n != s.rd FUS_CFG.PRIMARY && !s.flag SAF_GOLD.ARM n)

/-- A placement: field, index of the fit and origin. -/
structure Placement where
  field : Nat
  fit : Nat
  cx : Nat
  cy : Nat
  deriving DecidableEq, Repr

/-- The placement of an image's fits. -/
def State.placement (s : State) (fs : List Fit) (want : LoadWant) : Option Placement :=
  match want with
  | .replace f =>
    match s.searchAt fs (s.rd PLAIN_FLD_CFG.ORIGIN_X f) (s.rd PLAIN_FLD_CFG.ORIGIN_Y f) (some f) with
    | some x => some ⟨f, x.1, x.2.1, x.2.2⟩
    | none => (s.search fs (some f)).map (fun x => ⟨f, x.1, x.2.1, x.2.2⟩)
  | _ => match s.newId want with
    | none => none
    | some 16 =>
      if [144, 145, 146, 147].all s.unitUsable then
        (fs.zipIdx.find? (fun f => f.1.w == 2 && f.1.h == 2 && f.1.excl.isEmpty)).map (fun f => ⟨16, f.2, 0, 0⟩)
      else none
    | some n => (s.search fs none).map (fun x => ⟨n, x.1, x.2.1, x.2.2⟩)

/-- The power domain of a cluster: its half-quadrant, or the Shadow field's (02 R29, 16 R399). -/
def clusterDomain (k : Nat) : Nat :=
  if k ≥ 144 then 8 else (k % 12 / 6 + k / 12 / 6 * 2) * 2 + k / 12 % 6 / 3

/-- PWR_DOM.STATE of a domain that is powered. -/
def domOn : Nat := 2

/-! ## Entering LOADING (02 R42, R50, R51, R57, R62) -/

/-- FLD_CFG and FLD_WIN written from a placed image. -/
def State.configure (s : State) (l : Load) : State :=
  let f := l.field
  let s := (s.wr PLAIN_FLD_CFG.CLASS (b2n (l.cls == 0)) f).wr PLAIN_FLD_CFG.PIPE_DEPTH_M1 (l.image.pipeDepth - 1) f
  let s := if f = 16 then s else
    (((s.wr PLAIN_FLD_CFG.ORIGIN_X l.rect.1 f).wr PLAIN_FLD_CFG.ORIGIN_Y l.rect.2.1 f).wr
      PLAIN_FLD_CFG.WIDTH_M1 (l.rect.2.2.1 - 1) f).wr PLAIN_FLD_CFG.HEIGHT_M1 (l.rect.2.2.2 - 1) f
  l.wins.zipIdx.foldl (fun s w =>
    let valley := w.1.2.2.2.2
    let base := if valley then (match l.bind with
      | some p => s.poolBase p
      | none => 0) else w.1.1
    let len := if valley then (match l.bind with
      | some p => s.poolBytes p / 4096
      | none => 0) else w.1.2.1
    (((((s.wr PLAIN_FLD_WIN.BASE (base / 4096 * 4096) f w.2).wr PLAIN_FLD_WIN.LENGTH_4K len f w.2).wr PLAIN_FLD_WIN.READ (b2n w.1.2.2.1) f w.2).wr
      PLAIN_FLD_WIN.WRITE (b2n w.1.2.2.2.1) f w.2).wr PLAIN_FLD_WIN.TRANSLATE (b2n l.image.translated) f w.2).wr
      PLAIN_FLD_WIN.VEF l.image.vef f w.2) s

/-- The golden counters of a field, cleared as it enters LOADING with a new image (10 R281). -/
def State.clearGold (s : State) (f : Nat) : State :=
  [SAF_GOLD.SKIPS, SAF_GOLD.RUNS, SAF_GOLD.FAILS, SAF_GOLD.SKIPPED].foldl (fun s c => s.wr c 0 f) s

/-- A field enters LOADING with a placed load: GENERATION counts a new image, the fence is set, SPARE clusters come into
service, and the golden counters and the watchdog's count start anew (02 R42, R51, 10 R281, 11 R292). -/
def State.enterLoading (s : State) (l : Load) : State :=
  let f := l.field
  let x := s.frt f
  let s := s.clearGold f
  let s := if x.lastDigest = some l.image.digest then s else s.incWrap PLAIN_FLD_STATE.GENERATION f
  let s := (l.clusters.filter (fun k => !l.image.excluded.contains k)).foldl (fun s k =>
    if s.rd BIST_UNIT.STATE k = 3 then s.wr BIST_UNIT.STATE 0 k else s) s
  let s := s.setF f { s.frt f with image := some l.image, lastDigest := some l.image.digest, fenced := true,
                                   needReinit := false, ckptLast := false, heldRecs := [], wdogHeld := 0 }
  let s := (s.setState f stLoading).configure l
  { s with loads := s.loads ++ [l] }

/-! ## Failure and success (04 R106, R107) -/

/-- PLAIN_LOAD_STAT records a failed load; one that the closed safety gate turns into OUTPUT_INVALID is not recorded (04 R107,
10 R263). -/
def State.noteLoadFail (s : State) (c : Option Cmd) (status cause : Nat) : State :=
  let v := match c with
    | some c => c.vef
    | none => cantleSet
  let shut := s.saf.gate && (c.any (fun c => c.cls == 0))
  if shut then s else
  let s := (s.wr PLAIN_LOAD_STAT.LAST_CAUSE cause).wr PLAIN_LOAD_STAT.LAST_VEF (if v < 128 then v else 0)
  let s := s.wr PLAIN_LOAD_STAT.NO_VEF (b2n (v ≥ 128))
  if status = 0x22 then s.inc PLAIN_LOAD_STAT.MISMATCH else if status = 0x21 then s.inc PLAIN_LOAD_STAT.NOFIELD else s

/-- The status of a load cause: NO_FIELD from 0x10 on, IMAGE_MISMATCH below. -/
def loadStatus (cause : Nat) : Nat := if cause ≥ 0x10 then 0x21 else 0x22

/-- A FIELD_LOAD taken from its queue fails. -/
def State.loadFail (s : State) (c : Cmd) (status cause : Nat) : State :=
  let s := if status = 0x40 then s else s.noteLoadFail (some c) status cause
  s.endQueued c status cause 0

/-- Every queued command of a field completes with NO_FIELD: its field is gone. -/
def State.endQueue (s : State) (f : Fin 17) : State :=
  (s.queue.filter (fun q => q.1 == .field f)).foldl (fun s q => s.endQueued q.2 0x21 0 0) s

/-- A load leaves the list of loads. -/
def State.dropLoad (s : State) (serial : Nat) : State :=
  { s with loads := s.loads.filter (fun l => l.serial != serial) }

/-- A load in LOADING fails: the field goes to CLEARING (04 R106). A re-initialisation that fails takes the field from
its VEFs. -/
def State.failLoad (s : State) (f : Fin 17) (l : Load) (cause : Nat) : State :=
  let s := s.dropLoad l.serial
  let s := s.noteLoadFail l.cmd (loadStatus cause) cause
  let s := (s.endQueue f).enterClearing f (s.frt f).attached
  match l.cmd with
  | some c => s.complete c (loadStatus cause) cause 0
  | none => s

/-- A load killed by a freeze (kept for the thaw, its re-run count one higher) or a reset (dropped without a record)
(04 R104). -/
def State.cancelLoad (s : State) (f : Fin 17) (l : Load) (keep : Bool) : State :=
  let s := s.dropLoad l.serial
  let s := if l.phase = .digestWait ∨ l.phase = .clearing then s else s.enterClearing f []
  match l.cmd with
  | some c =>
    if keep then { s with queue := (.loader, c.again) :: s.queue } else s.releaseSlot c.vef
  | none => s

/-- A kill of a load asked for: at once, or when its stitch phase ends. -/
def State.killLoad (s : State) (l : Load) (keep : Bool) : State :=
  if l.phase = .stitch then
    { s with loads := s.loads.map (fun m => if m.serial = l.serial then { m with kill := if keep then 1 else 2 } else m) }
  else if hf : l.field < 17 then s.cancelLoad ⟨l.field, hf⟩ l keep
  else s

/-! ## The stitch phase (02 R36, 04 R90, R104) -/

/-- The stitch stream writes one cell: its store, its overflow microwords. -/
def State.stitchCell (s : State) (cell : Nat) (store ovf : Bytes) : State :=
  let m := s.mem
  { s with mem := { m with
      stitch := Sparse.putBytes 0 (Sparse.forget m.stitch (cell * 0x4000) ((cell + 1) * 0x4000)) (cell * 0x4000) store,
      stitchBad := Sparse.forget m.stitchBad (cell * 0x1000) ((cell + 1) * 0x1000),
      pocket := Sparse.putBytes 0 m.pocket (cell * 0x20000 + 0x13000) ovf } }

/-- The stitch store of a cell without an entry is zero. -/
def State.blankCell (s : State) (cell : Nat) : State :=
  let m := s.mem
  { s with mem := { m with stitch := Sparse.forget m.stitch (cell * 0x4000) ((cell + 1) * 0x4000),
                           stitchBad := Sparse.forget m.stitchBad (cell * 0x1000) ((cell + 1) * 0x1000) } }

/-- The stitch stream of a load delivered: every cell of the field, and the cause 0x0A where a load signature does not
hold. -/
def State.stitchAll (s : State) (f : Nat) (l : Load) : State × Nat :=
  let x := s.imgOf l.image
  let fit := (s.imgHdr x).fits.getD l.image.fit (fitOf [])
  let org := (l.rect.1, l.rect.2.1)
  let es := (s.entriesOf x fit).1
  let t := (s.cellsOf f).foldl (fun t c => (t.blankCell c).setCell c { t.cell c with
    running := false, pc := 0, rep := 0, todo := [], ags := [], loops := [], half := 0, full := 0, tokens := 0 }) s
  es.zipIdx.foldl (fun acc e =>
    let a := s.assemble x fit org (f == 16) e.2 e.1
    let cell := fit.patched org (f == 16) 8 (e.1.x + e.1.y * 64)
    (acc.1.stitchCell cell a.1 a.2.1, if a.2.2 then acc.2 else 0x0A)) (t, 0)

/-- Every half-quadrant of a load's rectangle is powered, and no BIST slice runs in it (04 R105, 11 R287). -/
def State.loadPowered (s : State) (l : Load) : Bool :=
  l.clusters.all (fun k => s.rd PWR_DOM.STATE (clusterDomain k) == domOn) && match s.bist.slice with
    | some x => !(decide (x.kind ≤ 2) && l.clusters.contains x.unit)
    | none => true

/-- The load whose stitch phase comes next: by class, then by arrival. -/
def State.nextStitch (s : State) : Option Load :=
  [0, 1, 2, 3].findSome? (fun cls => s.loads.find? (fun l => l.cls == cls && l.phase == .waitStitch && s.loadPowered l))

/-- A load changed. -/
def State.changeLoad (s : State) (serial : Nat) (g : Load → Load) : State :=
  { s with loads := s.loads.map (fun l => if l.serial = serial then g l else l) }

/-- The load of a field. -/
def State.loadOf (s : State) (f : Nat) : Option Load := s.loads.find? (fun l => l.field == f && l.phase != .digestWait && l.phase != .clearing)

end Sys2Proof.Machine
end

