-- ==== Sys2Proof/Machine/Fields.lean ====
section
/-! DEFINITION. Fields: loading, clearing, re-initialisation, the watchdog, contained faults, cluster-mover records, the
stitch-store scrub and the SRAM windows of the management cores (chapters 2, 4 and 5). -/

namespace Sys2Proof.Machine

/-! ## FIELD_LOAD (04 R104–R107, 02 R48, R49) -/

/-- The FIELD_LOAD that the loader takes next: by class, then in order of fetch. -/
def State.loadHead (s : State) : Option Cmd :=
  [0, 1, 2, 3].findSome? (fun cls => match s.queueOf .loader cls with
    | c :: _ => if s.waits c || !s.vefRuns c.vef then none else some c
    | [] => none)

/-- A VEF attached to a loaded field. -/
def State.attachField (s : State) (f : Fin 17) (v : Nat) : State :=
  let x := s.frt f
  if x.attached.contains v then s else s.setF f { x with attached := x.attached ++ [v] }

/-- A load enters LOADING; a half-quadrant that cannot be powered ends it with cause 0x09. -/
def State.startLoad (s : State) (f : Fin 17) (l : Load) : State :=
  let t := s.enterLoading l
  if l.clusters.any (fun k => s.flag PWR_DOM.FAIL (clusterDomain k)) then t.failLoad f l 0x09 else t

/-- The load of a placement. -/
def State.mkLoad (s : State) (c : Cmd) (x : ImgAt) (p : Placement) : Load :=
  let h := s.imgHdr x
  let fit := h.fits.getD p.fit (fitOf [])
  let pool := c.op 0x34 4
  { field := p.field, cmd := some c,
    image := s.fieldImage x p.fit (p.cx, p.cy) (p.field == 16) (c.op 0x20 8) (c.op 0x28 8) pool c.vef c.ring (c.cls != 0),
    cls := c.cls, reinit := false, phase := .waitStitch, serial := c.serial, cause := 0, kill := 0, attach := [c.vef],
    rect := (p.cx, p.cy, fit.w, fit.h), wins := s.planWins x (c.op 0x20 8),
    bind := if pool = 0 then none else some (pool % 16) }

/-- A checked load tests its pool, is placed and enters LOADING, or clears the field it replaces first. A field that
still works is replaced once it is IDLE or STOPPED. -/
def State.placeLoad (s : State) (c : Cmd) (x : ImgAt) (want : LoadWant) : State :=
  let h := s.imgHdr x
  if s.poolBad c h.pageSize then (s.dropLoad c.serial).loadFail c 0x40 4
  else match want with
    | .replace f =>
      if s.fState f ≠ stIdle ∧ s.fState f ≠ stStopped then s
      else match s.placement h.fits want with
        | none => ((s.endQueue f).enterClearing f []).loadFail c 0x21 0x10
        | some p =>
          let l := s.mkLoad c x p
          let t := (s.dequeue c.serial).enterClearing f []
          { t with loads := t.loads ++ [{ l with phase := .clearing }] }
    | _ => match s.placement h.fits want with
      | none => (s.dropLoad c.serial).loadFail c 0x21 0x10
      | some p =>
        let l := s.mkLoad c x p
        let t := (s.dequeue c.serial).dropLoad c.serial
        if hf : p.field < 17 then t.startLoad ⟨p.field, hf⟩ l else t

/-- A load attaches its VEF to a field that holds its image, and loads nothing. -/
def State.attachLoad (s : State) (c : Cmd) (f : Fin 17) : State :=
  ((s.dropLoad c.serial).attachField f c.vef).endQueued c 0 0 (s.handle f)

/-- A checked load of a new placement: it attaches, waits for a load of the same image, or is placed. -/
def State.freshLoad (s : State) (c : Cmd) (x : ImgAt) : State :=
  let d := (s.imgHdr x).digest
  let safety := c.cls == 0
  if s.persistW x then s.placeLoad c x .fresh
  else match s.attachTo c.vef safety d with
    | some f => s.attachLoad c f
    | none =>
      if s.loadTwin c.vef safety d c.serial then
        let t := (s.dequeue c.serial).dropLoad c.serial
        { t with loads := t.loads ++ [{ s.mkLoad c x ⟨0, 0, 0, 0⟩ with phase := .digestWait, bind := none }] }
      else s.placeLoad c x .fresh

/-- FIELD_LOAD: the loader takes the next load, tests its operand and its image, and attaches, replaces or places it. -/
def execFieldLoad (s : State) : Ans :=
  if s.fwOut 3 then .next s else
  match s.loadHead with
  | none => .next s
  | some c => match s.loadWant c with
    | .error cause => .next (s.loadFail c 0x21 cause)
    | .ok want =>
      let x := c.imgAt
      let t := s.ctxTouch x.ctx x.addr 256
      let cause := s.imgCause x (c.cls == 0) (c.op 0x20 8) (c.op 0x28 8)
      if cause ≠ 0 then .next (t.loadFail c 0x22 cause)
      else match want with
        | .fresh => .next (t.freshLoad c x)
        | _ => .next (t.placeLoad c x want)

/-- DIGEST_WAIT_RESOLVE: the oldest load whose twin has ended attaches, or is loaded on its own. -/
def execDigestWaitResolve (s : State) : Ans :=
  if s.fwOut 3 then .next s else
  match s.loads.find? (fun l => l.phase == .digestWait &&
      !s.loadTwin l.image.vef (l.cls == 0) l.image.digest l.serial) with
  | none => .next s
  | some l => match l.cmd with
    | some c => .next (s.freshLoad c c.imgAt)
    | none => .next (s.dropLoad l.serial)

/-! ## The phases of a load -/

/-- A stitch phase ends: a load to be killed is killed, else its preloads begin, and the restores of a
re-initialisation. -/
def State.endStitch (s : State) (l : Load) : State :=
  if hf : l.field < 17 then
    let f : Fin 17 := ⟨l.field, hf⟩
    if l.kill ≠ 0 then s.cancelLoad f l (l.kill == 1)
    else
      let s := s.changeLoad l.serial (fun l => { l with phase := .preload })
      if l.cause ≠ 0 then s
      else
        let s := s.startPreload f 1 (fun _ => true)
        if l.reinit then s.startRestore f 3 (fun _ => true) else s
  else s

/-- STITCH_PHASE_START: the phase in progress ends, and the engine streams the stitch entries of the next load. -/
def execStitchPhaseStart (s : State) : Ans :=
  if s.fwOut 3 then .next s else
  let s := match s.loads.find? (fun l => l.phase == .stitch) with
    | some l => s.endStitch l
    | none => s
  match s.nextStitch with
  | none => .next s
  | some l =>
    let r := s.stitchAll l.field l
    .next (r.1.changeLoad l.serial (fun l => { l with phase := .stitch, cause := r.2 }))

/-- The load of a field whose moves have ended. -/
def State.loadedOf (s : State) (f : Fin 17) (reinit : Bool) : Option Load :=
  match s.loadOf f with
  | some l =>
    if l.phase = .preload ∧ l.reinit = reinit ∧ (s.frt f).heldRecs.isEmpty ∧
       !(s.frt f).moves.any (fun m => m.kind == 1 || m.kind == 3) then some l else none
  | none => none

/-- The causes found after the stitch phase (04 R106). -/
def State.lateCause (s : State) (l : Load) : Nat :=
  let x := s.imgOf l.image
  if l.cause ≠ 0 then l.cause
  else if l.reinit then 0
  else if s.imgDigest x ≠ l.image.digest then 0x0B
  else if !(!l.image.translated && s.fw.verified.contains x.addr) && !s.weightsOk x then 0x0C
  else 0

/-- The test intervals of a field's clusters restart (11 R288). -/
def State.restartTests (s : State) (f : Fin 17) : State :=
  (s.clustersOf f).foldl (fun s k =>
    let b := s.bist
    let began := Sparse.put 0 (Sparse.put 0 b.began (256 + k) s.vehicleNs) (512 + k) s.vehicleNs
    { s with bist := { b with began := began, lapsed := b.lapsed.filter (fun n => n != 256 + k && n != 512 + k) } }) s

/-- A load ends: the field is IDLE, its VEFs attached, its pool bound. -/
def State.endLoad (s : State) (f : Fin 17) (l : Load) : State :=
  let s := s.dropLoad l.serial
  let s := l.attach.foldl (fun s v => s.attachField f v) s
  let s := match l.bind with
    | some p => (s.wr VLY_POOL.BOUND 1 p).wr VLY_POOL.BOUND_FIELD f p
    | none => s
  let s := (s.setState f stIdle).restartTests f
  match l.cmd with
  | some c => s.complete c 0 0 (s.handle f)
  | none => s

/-- FIELD_LOAD_DONE: verification and preload have ended. -/
def execFieldLoadDone (field : Fin 17) (s : State) : Ans :=
  if s.fwOut 3 then .next s else
  match s.loadedOf field false with
  | none => .next s
  | some l =>
    let cause := s.lateCause l
    if l.kill ≠ 0 then .next (s.cancelLoad field l (l.kill == 1))
    else if cause ≠ 0 then .next (s.failLoad field l cause)
    else .next (s.endLoad field l)

/-! ## Re-initialisation (02 R51, 04 R451, 10 R264) -/

/-- Re-initialisations of a field for field-class faults in the last 10 s of vehicle time: in [t − 10 s, t) (10 R264,
14 R344). -/
def State.recentReinits (s : State) (f : Nat) : Nat :=
  (s.saf.reinits.filter (fun r => r.1 == f && decide (s.vehicleNs ≤ r.2 + 10000000000) && decide (r.2 < s.vehicleNs))).length

/-- A field stands where it may be re-initialised: STOPPED, or IDLE with a stitch-store parity error or a field-class
fault. -/
def State.mayReinit (s : State) (f : Fin 17) : Bool :=
  let st := s.fState f
  (s.frt f).image.isSome && (st == stStopped || (st == stIdle && ((s.frt f).needReinit || s.saf.unresolved.contains f.val)))

/-- FIELD_REINIT: firmware's own for a general field, the Cantle's for a SAFETY field and field 16. -/
def execFieldReinit (src : Source) (field : Fin 17) (s : State) : Ans :=
  if s.fwOut 3 then .next s else
  let safety := s.isSafety field
  let who := s.who src
  if !s.mayReinit field then .next s
  else if !safety && decide (who = .firmware) then .next (s.startReinit field)
  else if safety && decide (who = .cantle) then
    if s.saf.unresolved.contains field.val then
      if s.recentReinits field ≥ s.rd SAF_ESC.REINIT_MAX then .next s
      else
        let t := { s with saf := { s.saf with reinits := (field.val, s.vehicleNs) :: s.saf.reinits } }
        .next (t.startReinit field)
    else .next (s.startReinit field)
  else .next s

/-- FIELD_REINIT_DONE: the field is IDLE again and its VEFs are told; after a field-class fault it waits for a golden. -/
def execFieldReinitDone (field : Fin 17) (s : State) : Ans :=
  if s.fwOut 3 then .next s else
  match s.loadedOf field true with
  | none => .next s
  | some l =>
    let cause := s.lateCause l
    if cause ≠ 0 then .next (s.failLoad field l cause)
    else
      let s := (s.dropLoad l.serial).setF field { (s.dropLoad l.serial).frt field with
        needReinit := false, hold := (s.frt field).hold && s.flag SAF_CTL.SAFE_STATE && s.isSafety field, resetAsked := false }
      let s := (s.setState field stIdle).restartTests field
      let s := if s.saf.unresolved.contains field.val then
          { s with saf := { s.saf with needGolden := s.saf.needGolden.filter (· != field.val) ++ [field.val] } }
        else s
      .next (s.events (s.frt field).attached 0x02 (s.handle field) 0)

/-! ## CLEARING (02 R50) -/

/-- CLEARING_DONE: every cluster of the field but one out of service is zeroed (11 R290); the field is FREE, or LOADING when a replacement follows. -/
def execClearingDone (field : Fin 17) (s : State) : Ans :=
  if s.fState field ≠ stClearing then .next s
  else
    let t := (((s.clustersOf field).filter (fun k => s.rd BIST_UNIT.STATE k != 1)).foldl (fun s k => s.zeroCluster k) s)
    match s.loads.find? (fun l => l.field == field.val && l.phase == .clearing) with
    | some l => .next ((t.dropLoad l.serial).startLoad field { l with phase := .waitStitch })
    | none => .next ((t.setF field { t.frt field with fenced := false }).setState field stFree)

/-! ## Watchdog and contained faults (02 R55, R56) -/

/-- STALL_WATCHDOG_EXPIRY. The count starts anew. DESIGN CHOICE: where no cell waits on a stream port CELL_ID is 0xFFF, none. -/
def execStallWatchdogExpiry (field : Fin 17) (s : State) : Ans :=
  if s.wdogDue field then
    let waiting := (s.cellsOf field).find? (fun c => (s.cell c).waiting)
    let s := s.setF field { s.frt field with lastProgress := s.localNs, wdogHeld := 0 }
    .next (((s.fldError field errWdog (waiting.getD 0xFFF) 0).reportField 0x20 field).stopField field 0x41)
  else .next s

/-- CONTAINED_FAULT_DRAIN_DONE: the commands in flight get their records and the field returns to IDLE. -/
def execContainedFaultDrainDone (field : Fin 17) (s : State) : Ans :=
  if !(s.frt field).faultDrain then .next s
  else
    let t := (s.jobsOn (.field field)).foldl (fun s j => match j.outcome with
      | .ended st cause r => s.endJob j st cause r
      | .running => s) s
    let t := (t.setF field { t.frt field with faultDrain := false }).settle field
    .next (if (t.frt field).resetAsked then t.startReinit field else t)

/-! ## Cluster movers (05 R121) -/

/-- The SRAM words of a cluster-mover transfer: whether of a pocket, the first word's key, and their number. -/
def ClMove.words (m : ClMove) : Nat × Nat := ((m.place * (if m.inPocket then 0x20000 else 0x80000) + m.off) / 8, (m.len + 7) / 8)

/-- An uncorrectable error stands in the words that a state tensor fills: the error number of the field, with the first
such word. -/
def State.tensorBad (s : State) (m : ClMove) : Option (Nat × Nat) :=
  let errs := if m.inPocket then s.mem.pocketErr else s.mem.sramErr
  ((List.range m.words.2).find? (fun k => Sparse.look 0 errs (m.words.1 + k) == 2)).map
    (fun k => (if m.inPocket then errPocket else errClsram, (m.off / 8 + k)))

/-- Single-bit errors in the words that a state tensor fills are corrected as they are read, and counted (02 R35). -/
def State.tensorFix (s : State) (f : Nat) (m : ClMove) : State :=
  (List.range m.words.2).foldl (fun s k =>
    let w := m.words.1 + k
    let errs := if m.inPocket then s.mem.pocketErr else s.mem.sramErr
    if Sparse.look 0 errs w = 1 then
      let t := s.inc PLAIN_FLD_ERR.CE_COUNT f
      { t with mem := if m.inPocket then { t.mem with pocketErr := Sparse.put 0 t.mem.pocketErr w 0 }
                      else { t.mem with sramErr := Sparse.put 0 t.mem.sramErr w 0 } }
    else s) s

/-- CLUSTER_MOVER_TRANSFER_DONE: the oldest transfer of a field ends with its record; none starts while a record is
held. DESIGN CHOICE: the manual names no cell for an error that a cluster mover finds: a pocket word's is its own cell, a
cluster SRAM word's the first cell of the cluster, and a window violation's none (0xFFF). -/
def execClusterMoverTransferDone (field : Fin 17) (s : State) : Ans :=
  let x := s.frt field
  match x.moves with
  | [] => .next s
  | m :: rest =>
    if !x.heldRecs.isEmpty then .next s
    else
      let s := s.setF field { x with moves := rest }
      match (if m.toWin then s.tensorBad m else none) with
      | some (e, w) =>
        let t := s.cmqAppend field ⟨m.tag, m.kind, 0x30, 0, 0⟩
        .next ((t.fldFault field e (if m.inPocket then m.place else m.place * 16) w).progress field)
      | none =>
        let r := (if m.toWin then s.tensorFix field m else s).doMove field m
        let t := (r.1.cmqAppend field r.2).progress field
        if r.2.status = 0x30 ∧ m.toWin then .next (t.contained field 0x10 none) else .next t

/-- CMQ_RECORD_APPEND: a held record is written once the queue has room. -/
def execCmqRecordAppend (field : Fin 17) (s : State) : Ans :=
  match (s.frt field).heldRecs with
  | [] => .next s
  | r :: rest =>
    if s.cmqFull field then .next s
    else .next ((s.setF field { s.frt field with heldRecs := rest }).cmqWrite field r)

/-! ## Stitch-store scrub (02 R37) -/

/-- A stitch-store parity error of a cell: the field admits nothing until it is re-initialised, and a running command
ends as a contained fault. -/
def State.parityError (s : State) (f : Fin 17) (cell word : Nat) : State :=
  (s.setF f { s.frt f with needReinit := true }).fldFault f errStitch cell word

/-- STITCH_SCRUB: the words of `bad` are found with wrong parity, beside those that already have it; every word of a
cell that belongs to a field is read. -/
def execStitchScrub (cell : Fin 2368) (bad : List Nat) (s : State) : Ans :=
  let m := s.mem
  let marks := (bad.filter (· < 0x1000)).foldl (fun t w => Sparse.put false t (cell.val * 0x1000 + w) true) m.stitchBad
  let s := { s with mem := { m with stitchBad := marks } }
  match s.fieldOfCell cell with
  | none => .next s
  | some f =>
    match (List.range 0x1000).find? (fun w => Sparse.look false marks (cell.val * 0x1000 + w)) with
    | none => .next s
    | some w => if hf : f < 17 then .next (s.parityError ⟨f, hf⟩ cell w) else .next s

/-! ## The SRAM windows of the management cores (02 R30) -/

/-- The place of an address in the pocket window or the cluster SRAM window: the cluster, and the key in its memory. -/
def sramPlace (a : Nat) : Option (Bool × Nat × Nat) :=
  if 0xE000000000 ≤ a ∧ a < 0xE000000000 + 2304 * 0x20000 then
    some (true, (a - 0xE000000000) / 0x20000 / 16, a - 0xE000000000)
  else if 0xE100000000 ≤ a ∧ a < 0xE100000000 + 144 * 0x80000 then
    some (false, (a - 0xE100000000) / 0x80000, a - 0xE100000000)
  else none

/-- A firmware write is accepted while the owning cell's field is FREE, LOADING, IDLE or STOPPED, or there is none. -/
def State.sramOpen (s : State) (cluster : Nat) : Bool :=
  match s.fieldOfCluster cluster with
  | none => true
  | some f => let st := s.fState f
    st == stLoading || st == stIdle || st == stStopped

/-- The 64-bit words of an SRAM that a write covers in part are read first: a single-bit error there is corrected and
counted, and a double-bit error is the field's contained fault and stays (02 R35). -/
def State.rmwWord (s : State) (inPocket : Bool) (w cell word : Nat) (field : Option Nat) : State :=
  let errs := if inPocket then s.mem.pocketErr else s.mem.sramErr
  match Sparse.look 0 errs w, field with
  | 0, _ => s
  | 1, fld =>
    let t := match fld with
      | some f => s.inc PLAIN_FLD_ERR.CE_COUNT f
      | none => s
    { t with mem := if inPocket then { t.mem with pocketErr := Sparse.put 0 t.mem.pocketErr w 0 }
                    else { t.mem with sramErr := Sparse.put 0 t.mem.sramErr w 0 } }
  | _, some f => if hf : f < 17 then s.fldFault ⟨f, hf⟩ (if inPocket then errPocket else errClsram) cell word else s
  | _, none => s

/-- One byte of a window written; a word that the write covers whole loses its error, one that it covers in part is a
read-modify-write. -/
def State.sramPut (s : State) (a : Nat) (b : Byte) (whole : Bool) : State :=
  match sramPlace a with
  | none => s
  | some (p, k, o) =>
    if !s.sramOpen k then s
    else
      let s := if whole then s
        else s.rmwWord p (o / 8) (if p then o / 0x20000 else k * 16) (if p then o % 0x20000 / 8 else o % 0x80000 / 8) (s.fieldOfCluster k)
      let m := s.mem
      let heal (e : Sparse Nat) : Sparse Nat := if whole then Sparse.put 0 e (o / 8) 0 else e
      { s with mem := if p then { m with pocket := Sparse.put 0 m.pocket o b, pocketErr := heal m.pocketErr }
                      else { m with sram := Sparse.put 0 m.sram o b, sramErr := heal m.sramErr } }

/-- Bytes written through the SRAM windows. -/
def State.sramWrite (s : State) (addr : Nat) (data : Bytes) : State :=
  data.zipIdx.foldl (fun s b =>
    let a := addr + b.2
    s.sramPut a b.1 (decide (addr ≤ a / 8 * 8) && decide (a / 8 * 8 + 8 ≤ addr + data.length))) s

/-- Bytes read through the SRAM windows: the current contents for the management cores, whatever the field's state, and zeros
for any other requester (02 R30). -/
def State.sramRead (s : State) (src : Source) (addr n : Nat) : Bytes :=
  (List.range n).map (fun i => match src, sramPlace (addr + i) with
    | .mgmt, some (true, _, o) => Sparse.look 0 s.mem.pocket o
    | .mgmt, some (false, _, o) => Sparse.look 0 s.mem.sram o
    | _, _ => 0)

/-- POCKET_WINDOW_WRITE: only the management cores reach the windows. -/
def execPocketWindowWrite (src : Source) (addr : Nat) (data : Bytes) (s : State) : Ans :=
  match src with
  | .mgmt => .next (s.sramWrite addr data)
  | _ => .next s

end Sys2Proof.Machine
end

