-- ==== Sys2Proof/Machine/Numbers.lean ====
section
/-! DEFINITION. Number formats and arithmetic (chapter 3): the element formats, exact values, conversion with rounding
to nearest even or by chance, and the floating operations of the vector unit. -/

namespace Sys2Proof.Machine

/-- A number as an operation takes it: a NaN, an infinity, or (−1)^neg × sig × 2^exp with its sign kept at zero. -/
inductive Num where
  | nan
  | inf (neg : Bool)
  | fin (neg : Bool) (sig : Nat) (exp : Int)
  deriving DecidableEq, Repr

/-- Format codes (03 R63). -/
def fFp32 : Nat := 0
def fBf16 : Nat := 1
def fFp16 : Nat := 2
def fE4m3 : Nat := 3
def fE5m2 : Nat := 4
def fE3m2 : Nat := 5
def fE2m1 : Nat := 6
def fInt16 : Nat := 7
def fInt8 : Nat := 8
def fInt4 : Nat := 9
def fInt32 : Nat := 10

/-- A floating format: exponent bits, mantissa bits, bias, bits of its largest finite magnitude, bits of +∞ where it has
one, and the canonical NaN where it has one (03 R63, R64). -/
structure FloatFmt where
  ew : Nat
  mw : Nat
  bias : Int
  maxFin : Nat
  inf : Option Nat
  nan : Option Nat
  deriving DecidableEq, Repr

/-- The floating format of a code. -/
def floatFmt (f : Nat) : Option FloatFmt :=
  match f with
  | 0 => some ⟨8, 23, 127, 0x7F7FFFFF, some 0x7F800000, some 0x7FC00000⟩
  | 1 => some ⟨8, 7, 127, 0x7F7F, some 0x7F80, some 0x7FC0⟩
  | 2 => some ⟨5, 10, 15, 0x7BFF, some 0x7C00, some 0x7E00⟩
  | 3 => some ⟨4, 3, 7, 0x7E, none, some 0x7F⟩
  | 4 => some ⟨5, 2, 15, 0x7B, some 0x7C, some 0x7E⟩
  | 5 => some ⟨3, 2, 3, 0x1F, none, none⟩
  | 6 => some ⟨2, 1, 1, 0x7, none, none⟩
  | _ => none

/-- Bits of an element (03 R63). -/
def fmtBits (f : Nat) : Nat := [32, 16, 16, 8, 8, 6, 4, 16, 8, 4, 32].getD f 0

/-- An integer format. -/
def isInt (f : Nat) : Bool := decide (7 ≤ f ∧ f ≤ 10)

/-- An integer as a number. -/
def Num.ofInt (x : Int) (exp : Int) : Num := .fin (decide (x < 0)) x.natAbs exp

/-- The number that the bits of an element stand for (03 R63). -/
def decodeNum (f v : Nat) : Num :=
  let v := v % 2 ^ fmtBits f
  match floatFmt f with
  | none => Num.ofInt (signed (fmtBits f) v) 0
  | some t =>
    let neg := v.testBit (t.ew + t.mw)
    let mag := v % 2 ^ (t.ew + t.mw)
    let e := mag / 2 ^ t.mw
    let m := mag % 2 ^ t.mw
    if mag > t.maxFin then
      if t.inf = some mag then .inf neg else .nan
    else if e = 0 then .fin neg m (1 - t.bias - t.mw)
    else .fin neg (2 ^ t.mw + m) ((e : Int) - t.bias - t.mw)

/-- What a conversion does where R67 leaves a choice: SAT, and stochastic rounding with its sixteen bits. -/
structure RoundMode where
  sat : Bool
  sr : Option Nat
  deriving DecidableEq, Repr

/-- Round to nearest even, no saturation by choice. -/
def rne : RoundMode := ⟨false, none⟩

/-- A quotient by 2^d rounded: to nearest even, or up where the sixteen bits of chance lie below the fraction's
(03 R67, R68). -/
def roundShift (sig d : Nat) (sr : Option Nat) : Nat :=
  let lo := sig / 2 ^ d
  let rem := sig % 2 ^ d
  match sr with
  | some r => if r < rem * 2 ^ 16 / 2 ^ d then lo + 1 else lo
  | none =>
    if rem * 2 > 2 ^ d ∨ (rem * 2 = 2 ^ d ∧ lo % 2 = 1) then lo + 1 else lo

/-- The magnitude sig × 2^exp as the magnitude bits of a floating format, before the overflow test: the exponent field
above the mantissa. -/
def magBits (t : FloatFmt) (sig : Nat) (exp : Int) (sr : Option Nat) : Nat :=
  let least : Int := 1 - t.bias - t.mw
  let top : Int := (Nat.log2 sig : Int) + exp
  let q : Int := max least (top - t.mw)
  let m := if q ≤ exp then sig * 2 ^ (exp - q).toNat else roundShift sig (q - exp).toNat sr
  (q - least).toNat * 2 ^ t.mw + m

/-- A conversion's result: the element's bits, and whether a NaN was dropped (NF_DROP). -/
structure Conv where
  bits : Nat
  drop : Bool
  deriving DecidableEq, Repr

/-- Sign bit and magnitude put together. -/
def FloatFmt.pack (t : FloatFmt) (neg : Bool) (mag : Nat) : Nat := b2n neg * 2 ^ (t.ew + t.mw) + mag

/-- A magnitude that overflows, or an infinity: infinite where the format has an infinity and SAT = 0. -/
def FloatFmt.overflow (t : FloatFmt) (mode : RoundMode) : Nat :=
  match t.inf with
  | some i => if mode.sat then t.maxFin else i
  | none => t.maxFin

/-- The integer nearest to sig × 2^exp, ties to even. -/
def nearestInt (neg : Bool) (sig : Nat) (exp : Int) : Int :=
  let m : Nat := if 0 ≤ exp then sig * 2 ^ exp.toNat else roundShift sig (-exp).toNat none
  if neg then -(m : Int) else m

/-- An integer clamped to a `w`-bit two's-complement range, as its bits. -/
def clampInt (w : Nat) (x : Int) : Nat :=
  unsigned w (max (-(2 ^ (w - 1) : Nat)) (min x ((2 ^ (w - 1) : Nat) - 1)))

/-- A number converted to a format (03 R67, R68). -/
def encodeNum (f : Nat) (mode : RoundMode) (x : Num) : Conv :=
  match floatFmt f with
  | none => match x with
    | .nan => ⟨0, true⟩
    | .inf neg => ⟨clampInt (fmtBits f) (if neg then -(2 ^ 200 : Nat) else (2 ^ 200 : Nat)), false⟩
    | .fin neg sig exp => ⟨clampInt (fmtBits f) (nearestInt neg sig exp), false⟩
  | some t => match x with
    | .nan => match t.nan with
      | some n => ⟨n, false⟩
      | none => ⟨0, true⟩
    | .inf neg => ⟨t.pack neg (t.overflow mode), false⟩
    | .fin neg sig exp =>
      if sig = 0 then ⟨t.pack neg 0, false⟩
      else
        let m := magBits t sig exp mode.sr
        ⟨t.pack neg (if m > t.maxFin then t.overflow mode else m), false⟩

/-! ## Exact operations -/

/-- A finite number as an integer multiple of 2^e, where e is at most its exponent. -/
def scaleTo (neg : Bool) (sig : Nat) (exp e : Int) : Int :=
  let m : Int := (sig * 2 ^ (exp - e).toNat : Nat)
  if neg then -m else m

/-- A sum, exact; a zero sum of numbers of unlike sign is +0 (IEEE 754, to nearest). -/
def Num.add : Num → Num → Num
  | .nan, _ | _, .nan => .nan
  | .inf a, .inf b => if a = b then .inf a else .nan
  | .inf a, _ | _, .inf a => .inf a
  | .fin a m e, .fin b n f =>
    let g := min e f
    let t := scaleTo a m e g + scaleTo b n f g
    if t = 0 then .fin (a && b) 0 g else Num.ofInt t g

/-- A product, exact. -/
def Num.mul : Num → Num → Num
  | .nan, _ | _, .nan => .nan
  | .inf a, .inf b => .inf (a != b)
  | .inf a, .fin b n _ | .fin b n _, .inf a => if n = 0 then .nan else .inf (a != b)
  | .fin a m e, .fin b n f => .fin (a != b) (m * n) (e + f)

/-- The number with its sign changed. -/
def Num.neg : Num → Num
  | .nan => .nan
  | .inf a => .inf (!a)
  | .fin a m e => .fin (!a) m e

/-- The magnitude. -/
def Num.abs : Num → Num
  | .nan => .nan
  | .inf _ => .inf false
  | .fin _ m e => .fin false m e

def Num.finite : Num → Bool
  | .fin _ _ _ => true
  | _ => false

/-- A finite number times a power of two. -/
def Num.scale (k : Int) : Num → Num
  | .fin a m e => .fin a m (e + k)
  | x => x

/-- A value for comparison: infinities as integers beyond every other. -/
def Num.lt : Num → Num → Bool
  | .nan, _ | _, .nan => false
  | .inf a, .inf b => a && !b
  | .inf a, .fin _ _ _ => a
  | .fin _ _ _, .inf b => !b
  | .fin a m e, .fin b n f =>
    let g := min e f
    decide (scaleTo a m e g < scaleTo b n f g)

/-- The larger and the smaller of two numbers that are not NaN; −0 counts as below +0. -/
def Num.above : Num → Num → Bool
  | .fin a m _, .fin b n _ => if m = 0 ∧ n = 0 then !a && b else false
  | _, _ => false
def Num.max2 (x y : Num) : Num := if y.lt x || (!x.lt y && x.above y) then x else y
def Num.min2 (x y : Num) : Num := if x.lt y || (!y.lt x && y.above x) then x else y

/-- FP32 operations, to nearest even. -/
def fp32 (x : Num) : Nat := (encodeNum fFp32 rne x).bits
def fpAdd (a b : Nat) : Nat := fp32 ((decodeNum fFp32 a).add (decodeNum fFp32 b))
def fpMul (a b : Nat) : Nat := fp32 ((decodeNum fFp32 a).mul (decodeNum fFp32 b))

/-- FP32 constants. -/
def fpOne : Nat := 0x3F800000
def fpNegInf : Nat := 0xFF800000

/-- floor(log2 |x|) of a finite non-zero number. -/
def Num.log2 : Num → Int
  | .fin _ m e => (Nat.log2 m : Int) + e
  | _ => 0

/-! ## The generators of stochastic rounding (03 R69) -/

/-- One step of the 32-bit Galois generator of x^32 + x^22 + x^2 + x + 1. -/
def lfsrStep (x : Nat) : Nat := if x.testBit 0 then (x / 2) ^^^ 0x80200003 else x / 2

/-- Sixteen steps. -/
def lfsr16 (x : Nat) : Nat := (List.range 16).foldl (fun x _ => lfsrStep x) x

end Sys2Proof.Machine
end

