-- ==== Sys2Proof/Machine/Operands.lean ====
section
/-! DEFINITION. The fields of a microword and the operand forms of a cell: pocket operands, address generators, packed
elements, vector registers and the regions of the stitch store (chapter 4, R91, R99–R102; chapter 3, R64, R65). -/

namespace Sys2Proof.Machine

/-- A microword of 128 bits (04 R99). -/
abbrev Micro := Nat

def Micro.cls (m : Micro) : Nat := bits m 124 4
def Micro.op (m : Micro) : Nat := bits m 120 4
def Micro.inEn (m : Micro) : Bool := bit m 119
def Micro.inPort (m : Micro) : Nat := bits m 116 3
def Micro.outEn (m : Micro) : Bool := bit m 115
def Micro.outPort (m : Micro) : Nat := bits m 112 3
def Micro.inFlits (m : Micro) : Nat := if bits m 108 4 = 0 then 16 else bits m 108 4
def Micro.outFlits (m : Micro) : Nat := if bits m 104 4 = 0 then 16 else bits m 104 4
def Micro.evEn (m : Micro) : Bool := bit m 103
def Micro.evXfer (m : Micro) : Nat := bits m 100 3
def Micro.evFull (m : Micro) : Bool := bit m 99
def Micro.evClr (m : Micro) : Bool := bit m 98
def Micro.loop (m : Micro) : Nat := bits m 16 16 + 1
def Micro.fmtA (m : Micro) : Nat := bits m 0 4
def Micro.fmtB (m : Micro) : Nat := bits m 4 4
def Micro.fmtOut (m : Micro) : Nat := bits m 8 4
def Micro.mx (m : Micro) : Bool := bit m 12
def Micro.sr (m : Micro) : Bool := bit m 13
def Micro.sat (m : Micro) : Bool := bit m 14
def Micro.check (m : Micro) : Bool := bit m 15
def Micro.dst (m : Micro) : Nat := bits m 91 5
def Micro.src1 (m : Micro) : Nat := bits m 86 5
def Micro.src2 (m : Micro) : Nat := bits m 81 5
def Micro.src3 (m : Micro) : Nat := bits m 76 5

/-- A pocket operand (04 R101). -/
structure Opd where
  ag : Bool
  sel : Nat
  base : Nat
  stride : Int
  deriving DecidableEq, Repr

/-- An operand descriptor of 32 bits. -/
def opdOf (d : Nat) : Opd := ⟨bit d 31, bits d 28 3, bits d 16 12 * 32, signed 16 (bits d 0 16)⟩
def Micro.opA (m : Micro) : Opd := opdOf (bits m 64 32)
def Micro.opB (m : Micro) : Opd := opdOf (bits m 32 32)

/-! ## Regions of the stitch store (02 R36, 04 R91–R93) -/

/-- A little-endian number in the stitch store of a cell. -/
def State.stitchNum (s : State) (cell o n : Nat) : Nat := leNat (Sparse.bytes 0 s.mem.stitch (cell * 0x4000 + o) n)

/-- The first word of a range of the stitch store whose parity is wrong. -/
def State.storeBad (s : State) (cell o n : Nat) : Option Nat :=
  if s.mem.stitchBad.isEmpty then none
  else ((List.range (n / 4 + 2)).map (o / 4 + ·)).find? (fun w =>
    decide (w * 4 < o + n) && Sparse.look false s.mem.stitchBad (cell * 0x1000 + w))

/-- Loop bound n. -/
def State.loopBound (s : State) (cell n : Nat) : Nat := s.stitchNum cell (0x3400 + n * 4) 4

/-- An address generator's parameters. -/
structure Gen where
  base : Nat
  str : Int × Int × Int
  cnt : Nat × Nat × Nat
  scaleBase : Nat
  scaleStr : Int
  deriving DecidableEq, Repr

/-- Address generator n of a cell. -/
def State.gen (s : State) (cell n : Nat) : Gen :=
  let o := 0x3440 + n * 32
  let st (k : Nat) : Int := signed 32 (s.stitchNum cell (o + k) 4)
  ⟨s.stitchNum cell o 4 % 2 ^ 17, (st 4, st 8, st 12),
   (max 1 (s.stitchNum cell (o + 16) 2), max 1 (s.stitchNum cell (o + 18) 2), max 1 (s.stitchNum cell (o + 20) 2)),
   s.stitchNum cell (o + 24) 4, st 28⟩

/-- Position of a generator. -/
def CellSt.agPos (c : CellSt) (n : Nat) : AgPos := Sparse.look ⟨0, 0, 0⟩ c.ags n

/-- The address a generator stands at. -/
def Gen.addr (g : Gen) (p : AgPos) : Int := g.base + p.i0 * g.str.1 + p.i1 * g.str.2.1 + p.i2 * g.str.2.2

/-- The number of steps a generator has taken since BASE. -/
def Gen.steps (g : Gen) (p : AgPos) : Nat := p.i0 + g.cnt.1 * (p.i1 + g.cnt.2.1 * p.i2)

/-- One step: dimension 0, then 1, then 2, then BASE again. -/
def Gen.next (g : Gen) (p : AgPos) : AgPos :=
  if p.i0 + 1 < g.cnt.1 then ⟨p.i0 + 1, p.i1, p.i2⟩
  else if p.i1 + 1 < g.cnt.2.1 then ⟨0, p.i1 + 1, p.i2⟩
  else if p.i2 + 1 < g.cnt.2.2 then ⟨0, 0, p.i2 + 1⟩
  else ⟨0, 0, 0⟩

/-- A pocket offset: 17 bits. -/
def pocketOff (x : Int) : Nat := unsigned 17 x

/-- The pocket offset of an operand at a repetition. -/
def State.opdAddr (s : State) (cell : Nat) (o : Opd) (rep : Nat) : Nat :=
  if o.ag then pocketOff ((s.gen cell o.sel).addr ((s.cell cell).agPos o.sel) + o.base)
  else pocketOff (o.base + rep * o.stride)

/-- The block of 32 K steps that an operand is at, for its scale array: by its generator's steps, or by repetitions. -/
def State.opdSteps (s : State) (cell : Nat) (o : Opd) (rep : Nat) : Nat :=
  if o.ag then (s.gen cell o.sel).steps ((s.cell cell).agPos o.sel) else rep

/-- The pocket offset of a scale byte: block and row or column. -/
def State.scaleAddr (s : State) (cell : Nat) (o : Opd) (block lane : Nat) : Nat :=
  let g := s.gen cell o.sel
  pocketOff (g.scaleBase + block * g.scaleStr + lane)

/-- The generators that the operands of a microword name advance by one step after a repetition. -/
def State.stepGens (s : State) (cell : Nat) (os : List Opd) : State :=
  ((os.filter (·.ag)).map (·.sel)).eraseDups.foldl (fun s n =>
    let c := s.cell cell
    s.setCell cell { c with ags := Sparse.put ⟨0, 0, 0⟩ c.ags n ((s.gen cell n).next (c.agPos n)) }) s

/-- A microword that reads scale bytes (03 R65, R66). -/
def Micro.scaled (m : Micro) : Bool := (m.mx && m.cls == 1 && decide (m.op ≤ 1)) || (m.cls == 2 && m.op == 12)

/-- The first word of wrong parity in the generators that a microword reads (02 R37). -/
def State.gensBad (s : State) (cell : Nat) (m : Micro) (os : List Opd) : Option Nat :=
  ((os.filter (fun o => o.ag || m.scaled)).map (·.sel)).findSome? (fun n => s.storeBad cell (0x3440 + n * 32) 32)

/-! ## Pocket accesses (02 R34, R35) -/

/-- Key of a pocket byte. -/
def pocketKey (cell o : Nat) : Nat := cell * 0x20000 + o % 0x20000

/-- Bytes of a pocket. -/
def State.pocketBytes (s : State) (cell o n : Nat) : Bytes :=
  (List.range n).map (fun i => Sparse.look 0 s.mem.pocket (pocketKey cell (o + i)))

/-- The first pocket word of a range with a double-bit error. -/
def State.pocketBad (s : State) (cell o n : Nat) : Option Nat :=
  if s.mem.pocketErr.isEmpty then none
  else ((List.range (n / 8 + 2)).map (o / 8 + ·)).find? (fun w =>
    decide (w * 8 < o + n) && Sparse.look 0 s.mem.pocketErr (pocketKey cell (w * 8) / 8) == 2) |>.map (· % 0x4000)

/-- Single-bit errors of a range corrected, written back and counted. -/
def State.pocketFix (s : State) (f cell o n : Nat) : State :=
  if s.mem.pocketErr.isEmpty then s
  else (List.range (n / 8 + 2)).foldl (fun s k =>
    let w := o / 8 + k
    let a := pocketKey cell (w * 8) / 8
    if w * 8 < o + n ∧ Sparse.look 0 s.mem.pocketErr a = 1 then
      { s.inc PLAIN_FLD_ERR.CE_COUNT f with mem :=
          { (s.inc PLAIN_FLD_ERR.CE_COUNT f).mem with pocketErr := Sparse.put 0 s.mem.pocketErr a 0 } }
    else s) s

/-- The same in a cell's own field, where it has one. -/
def State.fixPocket (s : State) (cell o n : Nat) : State :=
  match s.fieldOfCell cell with
  | some f => s.pocketFix f cell o n
  | none => s

/-- Offsets of the bytes of a pocket range that lie in words with a double-bit error. -/
def State.pocketBadAt (s : State) (cell o n : Nat) : List Nat :=
  (List.range n).filter (fun i => Sparse.look 0 s.mem.pocketErr (pocketKey cell (o + i) / 8) == 2)

/-- Words of a pocket poisoned, by the offsets of bytes in them. -/
def State.pocketPoison (s : State) (cell o : Nat) (bad : List Nat) : State :=
  { s with mem := { s.mem with
      pocketErr := bad.foldl (fun e i => Sparse.put 0 e (pocketKey cell (o + i) / 8) 2) s.mem.pocketErr } }

/-- Bytes written to a pocket; words written whole lose their error, or are poisoned. -/
def State.pocketPut (s : State) (cell o : Nat) (bs : Bytes) (poison : Bool) : State :=
  let m := s.mem
  let p := bs.zipIdx.foldl (fun p b => Sparse.put 0 p (pocketKey cell (o + b.2)) b.1) m.pocket
  let e := if m.pocketErr.isEmpty && !poison then m.pocketErr else
    (List.range (bs.length / 8 + 2)).foldl (fun e k =>
      let w := o / 8 + k
      let a := pocketKey cell (w * 8) / 8
      if poison then (if w * 8 < o + bs.length then Sparse.put 0 e a 2 else e)
      else if o ≤ w * 8 ∧ w * 8 + 8 ≤ o + bs.length then Sparse.put 0 e a 0 else e) m.pocketErr
  { s with mem := { m with pocket := p, pocketErr := e } }

/-- The words that a write covers in part and so reads first: a double-bit error found there is a fault (02 R35). -/
def State.partBad (s : State) (cell o n : Nat) : Option Nat :=
  let first := if o % 8 = 0 then none else s.pocketBad cell (o / 8 * 8) 8
  if first.isSome then first
  else if (o + n) % 8 = 0 then none else s.pocketBad cell ((o + n) / 8 * 8) 8

/-- Single-bit errors of the words that a write covers in part, corrected and counted. -/
def State.fixPart (s : State) (cell o n : Nat) : State :=
  let s := if o % 8 = 0 then s else s.fixPocket cell (o / 8 * 8) 8
  if (o + n) % 8 = 0 then s else s.fixPocket cell ((o + n) / 8 * 8) 8

/-! ## Cluster SRAM accesses of the cell movers (02 R35) -/

/-- Offsets of the bytes of a cluster-SRAM range that lie in words with a double-bit error. -/
def State.sramBadAt (s : State) (k o n : Nat) : List Nat :=
  (List.range n).filter (fun i => Sparse.look 0 s.mem.sramErr ((k * 0x80000 + o + i) / 8) == 2)

/-- Single-bit errors of a cluster-SRAM range corrected, written back and counted. -/
def State.sramFix (s : State) (f k o n : Nat) : State :=
  if s.mem.sramErr.isEmpty then s
  else (List.range (n / 8 + 2)).foldl (fun s i =>
    let w := o / 8 + i
    let a := k * 0x10000 + w
    if w * 8 < o + n ∧ Sparse.look 0 s.mem.sramErr a = 1 then
      let t := s.inc PLAIN_FLD_ERR.CE_COUNT f
      { t with mem := { t.mem with sramErr := Sparse.put 0 t.mem.sramErr a 0 } }
    else s) s

/-- The words of cluster SRAM that a write covers in part: a double-bit error found there. -/
def State.sramPartBad (s : State) (k o n : Nat) : Option Nat :=
  let bad (w : Nat) : Bool := Sparse.look 0 s.mem.sramErr (k * 0x10000 + w) == 2
  if o % 8 ≠ 0 ∧ bad (o / 8) then some (o / 8)
  else if (o + n) % 8 ≠ 0 ∧ bad ((o + n) / 8) then some ((o + n) / 8) else none

/-- Bytes written to cluster SRAM: words written whole lose their error, and those of the bytes listed are poisoned. -/
def State.sramStore (s : State) (k o : Nat) (bs : Bytes) (bad : List Nat) : State :=
  let m := s.mem
  let a := k * 0x80000 + o
  let e := (List.range (bs.length / 8 + 2)).foldl (fun e i =>
    let w := a / 8 + i
    if a ≤ w * 8 ∧ w * 8 + 8 ≤ a + bs.length then Sparse.put 0 e w 0 else e) m.sramErr
  { s with mem := { m with sram := Sparse.putBytes 0 m.sram a bs,
                           sramErr := bad.foldl (fun e i => Sparse.put 0 e ((a + i) / 8) 2) e } }

/-! ## Packed elements (03 R64) -/

/-- Element i of a packed row. -/
def element (f : Nat) (row : Bytes) (i : Nat) : Nat := bits (leNat row) (i * fmtBits f) (fmtBits f)

/-- Bytes that n elements of a format fill. -/
def packedBytes (f n : Nat) : Nat := (n * fmtBits f + 7) / 8

/-- Elements packed into bytes. -/
def packElems (f : Nat) (es : List Nat) : Bytes :=
  leBytes (packedBytes f es.length) ((es.zipIdx.map (fun e => e.1 % 2 ^ fmtBits f * 2 ^ (e.2 * fmtBits f))).foldl (· + ·) 0)

/-! ## Vector registers (02 R33) -/

/-- Lane i of register r. -/
def CellSt.lane (c : CellSt) (r i : Nat) : Nat := Sparse.look 0 c.vreg (r * 32 + i)

/-- The 32 lanes of a register. -/
def CellSt.lanes (c : CellSt) (r : Nat) : List Nat := (List.range 32).map (c.lane r)

/-- A register written from a list of lanes. -/
def CellSt.setLanes (c : CellSt) (r : Nat) (vs : List Nat) : CellSt :=
  { c with vreg := vs.zipIdx.foldl (fun g v => Sparse.put 0 g (r * 32 + v.2) (v.1 % 2 ^ 32)) c.vreg }

end Sys2Proof.Machine
end

