-- ==== Sys2Proof/Machine/Flags.lean ====
section
/-! DEFINITION. Every flag computation of the arithmetic: the format errors of a microword's controls (03 R71), the
sticky flags of the accumulators (R72–R74), the residue comparison (R77) and the counters of PLAIN_FLD_NUM (R82). -/

namespace Sys2Proof.Machine

/-! ## Reserved codes and control combinations (03 R71, 04 R102) -/

/-- The operations of a class that have a meaning. -/
def opsOf (cls : Nat) : Nat := [5, 4, 14, 2, 1, 2].getD cls 0

/-- CLASS and OP form a reserved code. -/
def Micro.reserved (m : Micro) : Bool := decide (m.op ≥ opsOf m.cls)

/-- A microword that carries out arithmetic or conversion, so that its control bits count (03 R70). -/
def Micro.arith (m : Micro) : Bool :=
  (m.cls == 1 && decide (m.op ≤ 2)) || (m.cls == 2 && decide (3 ≤ m.op))

/-- Formats that block scaling allows. -/
def mxFmt (f : Nat) : Bool := f == fE4m3 || f == fE5m2 || f == fE3m2 || f == fE2m1 || f == fInt8

/-- Formats that stochastic rounding allows. -/
def srFmt (f : Nat) : Bool := f == fE4m3 || f == fE5m2 || f == fE3m2 || f == fE2m1

/-- Floating formats of 16 bits or more. -/
def wideFmt (f : Nat) : Bool := f == fBf16 || f == fFp16 || f == fFp32

/-- The second source of an operation counts: every matrix operation and the vector operations of two sources. -/
def Micro.usesB (m : Micro) : Bool :=
  (m.cls == 1 && decide (m.op ≤ 2)) || (m.cls == 2 && (decide (3 ≤ m.op ∧ m.op ≤ 7) || m.op == 13))

/-- The matrix unit's own list of R71. -/
def Micro.badMatrix (m : Micro) : Bool :=
  let a := m.fmtA
  let b := m.fmtB
  let bad (f : Nat) : Bool := f == fFp32 || f == fInt32
  let half (f : Nat) : Bool := f == fBf16 || f == fFp16
  m.cls == 1 && decide (m.op ≤ 2) &&
  (bad a || bad b || !(m.fmtOut == fFp32 || m.fmtOut == fBf16 || m.fmtOut == fInt32) ||
   (m.fmtOut == fInt32 && (!isInt a || !isInt b || m.mx)) ||
   ((half a || half b) && a != b) ||
   (a == fInt16 && !isInt b) || (b == fInt16 && !isInt a))

/-- A selector inside a vector microword is reserved: a special function above 5, a reduction above 2. DESIGN CHOICE: R102
lists these codes as it lists operations, and R71 makes any reserved code a format error, without naming selectors. -/
def Micro.badSelector (m : Micro) : Bool :=
  m.cls == 2 && ((m.op == 9 && decide (bits m 72 4 > 5)) || (m.op == 10 && decide (bits m 72 4 > 2)))

/-- A microword is a format error. -/
def Micro.formatError (m : Micro) : Bool :=
  m.reserved || m.badSelector ||
  (m.arith &&
    (decide (m.fmtA > 10) || decide (m.fmtB > 10) || decide (m.fmtOut > 10) ||
     (m.mx && (!mxFmt m.fmtA || (m.usesB && !mxFmt m.fmtB) || (m.cls == 1 && decide (m.op ≤ 1) && m.loop % 32 != 0))) ||
     (m.sr && !srFmt m.fmtOut) ||
     (m.check && (!wideFmt m.fmtA || (m.usesB && !wideFmt m.fmtB))) || m.badMatrix))

/-! ## Accumulator flags (03 R72, R73) -/

/-- An empty accumulator: anchor unset, flags clear. -/
def Acc.empty : Acc := ⟨0, none, false, false, false, false, 0, 0, none⟩

/-- An integer fits the accumulator's 128 bits of two's complement. -/
def fits128 (n : Int) : Bool := decide (-(2 ^ 127 : Int) ≤ n) && decide (n < 2 ^ 127)

/-- The sticky flag that a product with a non-finite operand or a NaN scale sets. -/
def Acc.special (a : Acc) (x y : Num) (nanScale : Bool) : Acc :=
  if nanScale then { a with nan := true }
  else match x.mul y with
    | .nan => { a with nan := true }
    | .inf true => { a with ninf := true }
    | .inf false => { a with pinf := true }
    | .fin _ _ _ => a

/-- 2^k modulo 127 (03 R77). -/
def pow127 (k : Int) : Nat := 2 ^ (k % 7).toNat % 127

/-- An integer modulo 127, in 0 to 126. -/
def mod127 (n : Int) : Nat := (n % 127).toNat

/-- The residue comparison: a column whose N and ρ differ modulo 127, RANGE columns apart. -/
def Acc.residueBad (a : Acc) : Bool := !a.range && mod127 a.n != a.rho % 127

/-! ## Counters (03 R82) -/

/-- NaN inputs converted to 0, and blocks quantised with scale 0xFF. -/
def State.noteDrops (s : State) (f n : Nat) : State := s.add PLAIN_FLD_NUM.NF_DROP n f

/-- Columns that set RANGE. -/
def State.noteRange (s : State) (f n : Nat) : State := s.add PLAIN_FLD_NUM.RANGE n f

/-- Checksum comparisons skipped. -/
def State.noteSkips (s : State) (f n : Nat) : State := s.add PLAIN_FLD_NUM.CHK_SKIP n f

/-- A format error of a microword: counted, and a contained fault that ends its own command with FORMAT_ERROR. -/
def State.microError (s : State) (f : Fin 17) (job : Nat) : State :=
  (s.inc PLAIN_FLD_NUM.FMT_ERR f).contained f 0x11 (some job)

end Sys2Proof.Machine
end

