-- ==== Sys2Proof/Machine/Flash.lean ====
section
/-! DEFINITION. The external flash (15 R368, R369) and the repair log in it (11 R285). -/

namespace Sys2Proof.Machine

/-- `n` bytes of flash; erased flash reads 0xFF. -/
def State.flashRead (s : State) (o n : Nat) : Bytes := Sparse.bytes 0xFF s.fw.flash o n

/-- Bytes written to flash. -/
def State.flashWrite (s : State) (o : Nat) (bs : Bytes) : State :=
  { s with fw := { s.fw with flash := Sparse.putBytes 0xFF s.fw.flash o bs } }

/-- Offset and size of a flash area (15 R369). -/
def State.flashArea (s : State) (i : Nat) : Nat × Nat :=
  (leNat (s.flashRead (0x10 + i * 16) 8), leNat (s.flashRead (0x18 + i * 16) 8))

/-- The 16 bytes of a repair-log entry. -/
def RepairEntry.bytes (e : RepairEntry) : Bytes :=
  let b := leBytes 4 e.macro_ ++ leBytes 1 e.kind ++ leBytes 1 e.source ++ leBytes 2 e.index ++ leBytes 4 e.time
  b ++ leBytes 4 (crc32c b)

/-- Entry `i` of the repair log in flash: none where it is empty, `some none` where its CRC does not match. -/
def State.flashEntry (s : State) (i : Nat) : Option (Option RepairEntry) :=
  let b := s.flashRead ((s.flashArea 2).1 + i * 16) 16
  if leNat (b.take 4) = 0xFFFFFFFF then none
  else if leNat (b.drop 12) ≠ crc32c (b.take 12) then some none
  else some (some ⟨Bytes.num b 0 4, Bytes.num b 4 1, Bytes.num b 5 1, Bytes.num b 6 2, Bytes.num b 8 4⟩)

/-- Entries of the log not yet in flash written there. -/
def State.flushRepairs (s : State) : State :=
  let n := s.fw.heldRepairs
  let es := s.bist.log.drop (s.bist.log.length - n)
  let first := (s.flashArea 2).1 + (s.bist.logNext - n) * 16
  let s := es.zipIdx.foldl (fun s e => s.flashWrite (first + e.2 * 16) e.1.bytes) s
  { s with fw := { s.fw with heldRepairs := 0 } }

/-- A repair-log entry appended, where the log has room; it reaches flash at once, or after an update in progress
(15 R381). -/
def State.logRepair (s : State) (m kind source index : Nat) : State :=
  if s.bist.logNext ≥ 4096 then s.wr BIST_STAT.LOG_FULL 1
  else
    let e : RepairEntry := ⟨m, kind, source, index, s.vehicleNs / 1000000000 % 2 ^ 32⟩
    let s := { s with bist := { s.bist with log := s.bist.log ++ [e], logNext := s.bist.logNext + 1 },
                      fw := { s.fw with heldRepairs := s.fw.heldRepairs + 1 } }
    if s.flag FW_PKG.BUSY then s else s.flushRepairs

/-! ## The manifest (15 R374) -/

/-- A little-endian number of `n` bytes at an offset of a part. -/
def partNum (p : Nat → Nat → Bytes) (o n : Nat) : Nat := leNat (p o n)

/-- A component of a manifest (15 R374). -/
structure Comp where
  type : Nat
  flags : Nat
  off : Nat
  size : Nat
  load : Nat
  digest : Bytes
  deriving DecidableEq, Repr

/-- The components of a manifest, in table order. -/
def comps (p : Nat → Nat → Bytes) : List Comp :=
  (List.range (min (partNum p 6 2) 32)).map (fun i =>
    let e := p (0x40 + i * 80) 80
    ⟨Bytes.num e 0 1, Bytes.num e 1 1, Bytes.num e 8 8, Bytes.num e 16 8, Bytes.num e 24 8, Bytes.sub e 32 48⟩)

/-- Core B of a split pair runs the second Cantle image, where the bundle has one (10 R273). -/
def secondCantle (manifest record : Bytes) : Bool :=
  (Bytes.num record 6 2).testBit 1 && (comps (fun o n => Bytes.sub manifest o n)).any (fun c => c.type == 2)

end Sys2Proof.Machine
end

