-- ==== Sys2Proof/Machine/Bist.lean ====
section
/-! DEFINITION. Self-test, repair and re-admission (chapter 11). -/

namespace Sys2Proof.Machine

/-! ## Blocks and units (11 R286, R294) -/

/-- Code of a slice kind, and the worst-case total of its slice in ns. -/
def kindCode : SliceKind → Nat
  | .cluster => 1
  | .clsram => 2
  | .raster => 3
  | .girth => 4
  | .unit => 5

def kindNs : Nat → Nat
  | 1 => 150000
  | 2 => 40000
  | 3 => 110000
  | 4 => 30000
  | _ => 150000

/-- A unit is of a kind's blocks; for GIRTH the number is stop × 2 + bank. -/
def kindHas (k u : Nat) : Bool :=
  match k with
  | 1 => decide (u < 148)
  | 2 => decide (u < 148)
  | 3 => decide (148 ≤ u ∧ u < 156)
  | 4 => decide (u < 48)
  | _ => decide (156 ≤ u ∧ u < 192)

/-- The number of a block in the logs of intervals and coverage. -/
def blockKey (k u : Nat) : Nat := k * 256 + u

/-- Kinds of slices that a unit must pass in TESTING (11 R291). -/
def unitKinds (u : Nat) : List Nat := if u < 148 then [1, 2] else if u < 156 then [3] else [5]

/-- MACRO of a log entry (11 R285). -/
def macroCode (k u m : Nat) : Nat := k * 2 ^ 24 + (if k = 4 then u / 2 + u % 2 * 2 ^ 15 else u) * 256 + m

/-! ## Out of service (11 R290, R291) -/

/-- The VEFs of a field detached, as FIELD_RELEASE does, and the field on its way to FREE; each VEF is told. A
re-initialisation that waits for the field is given up. -/
def State.evictField (s : State) (f : Fin 17) : State :=
  let vs := (s.frt f).attached
  let s := { s with loads := s.loads.filter (fun l => !(l.field == f.val && l.reinit)) }
  if vs.isEmpty then s.enterClearing f [] else vs.foldl (fun s v => s.detach f v false vs) s

/-- A unit enters OUT_OF_SERVICE, with what follows from it; one that is there already stays as it is. -/
def State.unitOut (s : State) (u : Nat) : State :=
  if s.rd BIST_UNIT.STATE u = 1 then s else
  let s := ((s.wr BIST_UNIT.STATE 1 u).inc BIST_UNIT.OOS_COUNT u).inc BIST_STAT.OOS
  if u < 148 then
    match s.fieldOfCluster u with
    | some f => if h : f < 17 then (if s.fState f = stClearing then s else s.evictField ⟨f, h⟩) else s
    | none => s
  else if u < 156 then s.wr RND_CFG.IN_SVC (clearBit (s.rd RND_CFG.IN_SVC) (u - 148))
  else s

/-- A unit that is SPARE comes into service at its allocation decision (11 R292). -/
def State.takeUnit (s : State) (u : Nat) : State :=
  if s.rd BIST_UNIT.STATE u = 3 then s.wr BIST_UNIT.STATE 0 u else s

/-- READMIT: TESTING, while OOS_COUNT is below 3. -/
def State.readmit (s : State) (u : Nat) : State :=
  if s.rd BIST_UNIT.STATE u = 1 ∧ s.rd BIST_UNIT.OOS_COUNT u < 3 then
    { s.wr BIST_UNIT.STATE 2 u with
      bist := { s.bist with passed := s.bist.passed.filter (fun p => p / 8 != u) } }
  else s

/-- READMIT. -/
def execReadmit (src : Source) (unit : Fin 192) (s : State) : Ans :=
  .next (s.asWho src (RegName.addr .bistUnit unit) Requester.fwHyp (fun s => s.readmit unit))

/-! ## Slices (11 R286, R287) -/

/-- The field whose block a cluster slice tests. -/
def State.sliceField (s : State) (k u : Nat) : Option Nat := if k ≤ 2 then s.fieldOfCluster u else none

/-- A state tensor lies in a block. -/
def StateEntry.inBlock (e : StateEntry) (k u : Nat) : Bool :=
  if k = 1 then e.inPocket && e.place / 16 == u else !e.inPocket && e.place == u

/-- A preload goes into a block. -/
def Preload.inBlock (e : Preload) (k u : Nat) : Bool :=
  if k = 1 then e.inPocket && e.place / 16 == u else !e.inPocket && e.place == u

/-- A slice of the block needs a checkpoint that the field has not got. -/
def State.needsCheckpoint (s : State) (f k u : Nat) : Bool :=
  match (s.frt f).image with
  | some i => i.states.any (fun e => e.inBlock k u) && !(s.frt f).ckptLast
  | none => false

/-- The block may be tested at all: its unit is in a state in which slices of that kind run. -/
def State.sliceUnit (s : State) (k u : Nat) : Bool :=
  kindHas k u && (if k = 4 then !s.bist.girth.contains u
    else if k = 5 then s.rd BIST_UNIT.STATE u == 1 || s.rd BIST_UNIT.STATE u == 2
    else s.rd BIST_UNIT.STATE u != 1)

/-- The conditions of R287. -/
def State.sliceMay (s : State) (k u : Nat) : Bool :=
  decide (s.vehicleNs + kindNs k + 50000 ≤ s.rd BIST_GATE.NEXT_REL) && !s.flag SAF_CTL.SAFE_STATE &&
  (match s.sliceField k u with
    | some f => (s.fState f == stIdle || s.fState f == stStopped) && !s.needsCheckpoint f k u
    | none => true) &&
  !(k == 3 && !(s.jobsOn .render).isEmpty)

/-- A slice asked for: it starts, or it is deferred and counted. -/
def State.startSlice (s : State) (k u : Nat) : State :=
  if !s.flag BIST_CFG.ENABLE || s.bist.slice.isSome || !s.sliceUnit k u then s
  else if s.sliceMay k u then
    { s with bist := { s.bist with slice := some ⟨k, u, s.sliceField k u, s.vehicleNs⟩ } }
  else s.inc BIST_STAT.DEFERRED

/-- BIST_SLICE_START. -/
def execBistSliceStart (kind : SliceKind) (unit : Fin 192) (s : State) : Ans :=
  if s.fwOut 5 then .next s else .next (s.startSlice (kindCode kind) unit)

/-! ## Re-initialisation of a block (11 R286) -/

/-- An accumulator whose contents are open. -/
def freeAcc (k i : Nat) : Acc :=
  let w (n : Nat) : Nat := (Config.freeWord k (i * 8 + n)).toNat
  ⟨(w 0 : Nat), some ((w 1 : Nat) : Int), (w 2).testBit 0, (w 2).testBit 1, (w 2).testBit 2, (w 2).testBit 3, w 3 % 127, w 4, none⟩

/-- A block of open bytes, by the number of its draw. -/
@[irreducible] def openBytes (n len : Nat) : Bytes := (List.range len).map (Config.undefinedByte n)

/-- What a destructive test leaves in the cells of a cluster: pockets, accumulators and vector registers are open. Row
statistics and checksum banks are shown empty, as the next admission leaves them before anything reads them (02 R33,
03 R79). -/
def State.wreckCells (s : State) (k : Nat) : State :=
  let n := s.freeCount
  let s := s.drawn
  let m := s.mem
  let s := { s with mem := { m with
    pocket := Sparse.putBytes 0 m.pocket (k * 16 * 0x20000) (openBytes n (16 * 0x20000)),
    pocketErr := Sparse.forget m.pocketErr (k * 16 * 0x4000) ((k * 16 + 16) * 0x4000) } }
  (List.range 16).foldl (fun s i =>
    let c := s.cell (k * 16 + i)
    let vr := (List.range 1024).foldl (fun v j => Sparse.put 0 v j (Config.freeWord n (i * 0x10000 + j)).toNat) []
    let ac := (List.range 512).foldl (fun v j => Sparse.put Acc.empty v j (freeAcc n (i * 0x1000 + j + 0x100000))) []
    s.setCell (k * 16 + i) { c.halt with vreg := vr, acc := ac, rowstat := [], chk := [] }) s

/-- What it leaves in a cluster SRAM; the page-table entries cached there are gone (07 R172). -/
def State.wreckSram (s : State) (k : Nat) : State :=
  let n := s.freeCount
  let s := s.drawn
  let m := s.mem
  { s with
    mem := { m with
      sram := Sparse.putBytes 0 m.sram (k * 0x80000) (openBytes n 0x80000),
      sramErr := Sparse.forget m.sramErr (k * 0x10000) ((k + 1) * 0x10000) },
    vly := { s.vly with ptCache := s.vly.ptCache.filter (fun e => e.cluster != k) } }

/-- The stitch entries of a cluster's cells written again. -/
def State.restitch (s : State) (f : Nat) (i : FieldImage) (u : Nat) : State :=
  let x := s.imgOf i
  let fit := (s.imgHdr x).fits.getD i.fit (fitOf [])
  let org := (s.rd PLAIN_FLD_CFG.ORIGIN_X f, s.rd PLAIN_FLD_CFG.ORIGIN_Y f)
  let s0 := s
  let s := (List.range 16).foldl (fun s n => s.blankCell (u * 16 + n)) s
  (s0.entriesOf x fit).1.zipIdx.foldl (fun s e =>
    let cell := fit.patched org (f == 16) 8 (e.1.x + e.1.y * 64)
    if cell / 16 ≠ u then s
    else
      let a := s0.assemble x fit org (f == 16) e.2 e.1
      s.stitchCell cell a.1 a.2.1) s

/-- The transfers of a re-initialisation carried out, each with its record of kind 0x04. While a record is held for a full
queue no transfer starts: those left wait at the movers (05 R121). -/
def State.runMoves (s : State) (f : Nat) (tag : Nat) (ms : List ClMove) : State :=
  ms.foldl (fun s m =>
    let m := { m with tag := tag, kind := 4 }
    if (s.frt f).heldRecs.isEmpty then
      let r := s.doMove f m
      r.1.cmqAppend f r.2
    else s.setF f { s.frt f with moves := (s.frt f).moves ++ [m] }) s

/-- A block of a field re-initialised from its image and from the selected checkpoint copy. -/
def State.reinitBlock (s : State) (f k u : Nat) : State :=
  match (s.frt f).image with
  | none => s
  | some i =>
    let s := if k = 1 then s.restitch f i u else s
    let pre := (i.preloads.filter (fun e => e.inBlock k u)).map (fun e =>
      (⟨0, 4, i.vef, e.inPocket, e.place, e.dst, e.win, e.src, e.len, false⟩ : ClMove))
    let sts := (i.states.filter (fun e => e.inBlock k u)).map (fun e => e.move 4 i.vef (s.ckSel f) false)
    s.runMoves f (s.rd BIST_STAT.SLICES) (pre ++ sts)

/-! ## The end of a slice (11 R290, R291) -/

/-- What becomes of a failing bit (11 R283): a spare already replaces its row or column, a spare is taken for it, or the
spares are exhausted. `rows` is the number of failing rows in its column. -/
inductive Mend where
  | covered
  | spare (column : Bool) (index : Nat)
  | exhausted
  deriving DecidableEq, Repr

/-- The repair of a failing bit, given the spares its macro has in use. -/
def mend (inUse : List (Bool × Nat)) (large : Bool) (row col rows : Nat) : Mend :=
  if inUse.contains (false, row) || inUse.contains (true, col) then .covered
  else if large && decide (rows > 2) && !inUse.any (·.1) then .spare true col
  else if (inUse.filter (fun x => !x.1)).length < (if large then 2 else 1) then .spare false row
  else .exhausted

/-- A spare taken and logged. -/
def State.takeSpare (s : State) (key source : Nat) (column : Bool) (index : Nat) : State :=
  { s with bist := { s.bist with used := Sparse.change [] s.bist.used key (· ++ [(column, index)]) } }.logRepair key
    (if column then 2 else 1) source (index % 65536)

/-- One failing bit of a slice recorded in BIST_LAST, and repaired where a spare of its macro is left. -/
def State.repair (s : State) (k u : Nat) (x : BistFail) (rows : Nat) : State × Bool :=
  let key := macroCode k u x.macro_
  let s := ((s.wr BIST_LAST.MACRO key).wr BIST_LAST.ADDRESS x.word).wr BIST_LAST.BIT x.bit
  match mend (Sparse.look [] s.bist.used key) x.large x.row x.col rows with
  | .covered => (s.wr BIST_LAST.OUTCOME 1, true)
  | .spare c i => ((((s.wr BIST_LAST.OUTCOME 1).inc BIST_STAT.REPAIRS).takeSpare key 2 c i), true)
  | .exhausted => (s.wr BIST_LAST.OUTCOME 2, false)

/-- Failing rows of a bit's column among the failures of a slice. -/
def failRows (fails : List BistFail) (x : BistFail) : Nat :=
  ((fails.filter (fun y => y.macro_ == x.macro_ && y.col == x.col)).map (·.row)).eraseDups.length

/-- The failures of a slice, in the order found: each is recorded and repaired where it can be; whether all were. -/
def State.repairs (s : State) (k u : Nat) (fails : List BistFail) : State × Bool :=
  fails.foldl (fun (a : State × Bool) x =>
    let r := a.1.repair k u x (failRows fails x)
    (r.1, a.2 && r.2)) (s, true)

/-- A slice that passes in TESTING: the unit is SPARE once all of its slices have passed. -/
def State.passSlice (s : State) (k u : Nat) : State :=
  if k = 4 ∨ s.rd BIST_UNIT.STATE u ≠ 2 then s
  else
    let p := (u * 8 + k) :: s.bist.passed.filter (· != u * 8 + k)
    let s := { s with bist := { s.bist with passed := p } }
    if (unitKinds u).all (fun n => p.contains (u * 8 + n)) then
      (s.wr BIST_UNIT.STATE 3 u).logRepair (macroCode k u 0xFF) 4 2 0
    else s

/-- A slice that leaves a failure: a Girth bank is disabled unless it is the stop's last, a unit goes out of service; one
that is out of service stays so. -/
def State.failSlice (s : State) (k u : Nat) : State :=
  if k = 4 then
    if s.bist.girth.contains (u / 2 * 2 + (1 - u % 2)) then s
    else
      let s := (s.logRepair (macroCode k u 0xFF) 3 2 0).inc BIST_STAT.OOS
      { s with bist := { s.bist with girth := u :: s.bist.girth } }
  else if s.rd BIST_UNIT.STATE u = 1 then s
  else (s.logRepair (macroCode k u 0xFF) 3 2 0).unitOut u

/-- A slice completed: it counts, and its block's interval starts again from its start. -/
def State.endSlice (s : State) (x : Slice) : State :=
  let key := blockKey x.kind x.unit
  let b := s.bist
  let s := { s with
    bist := { b with slice := none, began := Sparse.put 0 b.began key x.since, lapsed := b.lapsed.filter (· != key), stop := false }
    saf := { s.saf with coverage := s.saf.coverage.filter (· != key) } }
  let s := s.incWrap BIST_STAT.SLICES
  match x.field with
  | some f => if s.isSafety f then s else s.setF f { s.frt f with hold := false }
  | none => s

/-- BIST_SLICE_DONE: the slice in progress ends with the failing bits given. -/
def execBistSliceDone (fails : List BistFail) (s : State) : Ans :=
  if s.fwOut 5 then .next s else
  match s.bist.slice with
  | none => .next s
  | some x =>
    let s := match x.kind with
      | 1 => s.wreckCells x.unit
      | 2 => s.wreckSram x.unit
      | _ => s
    let r := s.repairs x.kind x.unit (if x.kind = 5 then [] else fails)
    let ok := r.2 && (x.kind != 5 || fails.isEmpty)
    if ok then
      let t := match x.field with
        | some f => r.1.reinitBlock f x.kind x.unit
        | none => r.1
      .next ((t.passSlice x.kind x.unit).endSlice x)
    else .next ((r.1.failSlice x.kind x.unit).endSlice x)

/-! ## Intervals (11 R288, R289) -/

/-- The SAFETY-class field, or field 16, whose cluster a block is; the clusters of field 16 are its own whether it is loaded
or not. -/
def State.safeBlock (s : State) (k u : Nat) : Option Nat :=
  if k ≤ 2 ∧ 144 ≤ u ∧ u < 148 then some 16
  else match s.sliceField k u with
    | some f => if s.isSafety f then some f else none
    | none => none

/-- The test interval of a block in ns. -/
def State.testInterval (s : State) (k u : Nat) : Nat :=
  (if (s.safeBlock k u).isSome then s.rd BIST_CFG.SAFE_MS else s.rd BIST_CFG.OTHER_MS) * 1000000

/-- Start of a block's interval. -/
def State.intervalStart (s : State) (k u : Nat) : Nat := Sparse.look 0 s.bist.began (blockKey k u)

/-- BIST_INTERVAL_DUE: firmware stops admission to a general field or to the render engine, takes a checkpoint where the
block needs one, and runs the slice. -/
def execBistIntervalDue (kind : SliceKind) (unit : Fin 192) (s : State) : Ans :=
  if s.fwOut 5 then .next s else
  let k := kindCode kind
  if !s.flag BIST_CFG.ENABLE || !s.sliceUnit k unit then .next s
  else match s.sliceField k unit with
  | some f =>
    if hf : f < 17 then
      let g : Fin 17 := ⟨f, hf⟩
      if s.isSafety f then .next s
      else
        let s := s.setF f { s.frt f with hold := true }
        if s.fState f = stStopped then .next (s.startSlice k unit)
        else if !(s.jobsOn (.field g)).isEmpty || s.fState f != stIdle then .next s
        else if s.needsCheckpoint f k unit && !(s.frt f).bistCk then
          .next ((s.startCopies f).setF f { (s.startCopies f).frt f with bistCk := true })
        else if (s.frt f).bistCk then
          if (s.frt f).moves.any (fun m => m.kind == 2) then .next s
          else .next (((s.ckFlip f).setF f { s.frt f with bistCk := false, ckptLast := true }).startSlice k unit)
        else .next (s.startSlice k unit)
    else .next s
  | none =>
    if k = 3 then
      let s := { s with bist := { s.bist with stop := true } }
      if (s.jobsOn .render).isEmpty then .next (s.startSlice k unit) else .next s
    else .next (s.startSlice k unit)

/-- COVERAGE_LAPSE: a block whose slice has not started in time; of a safety cluster it is a contained fault. -/
def execCoverageLapse (kind : SliceKind) (unit : Fin 192) (s : State) : Ans :=
  if s.fwOut 4 then .next s else
  let k := kindCode kind
  let key := blockKey k unit
  let running := match s.bist.slice with
    | some x => x.kind == k && x.unit == unit.val
    | none => false
  let safe := s.safeBlock k unit
  let end_ := s.intervalStart k unit + s.testInterval k unit - (if safe.isSome then kindNs k else 0)
  if !s.flag BIST_CFG.ENABLE || !s.sliceUnit k unit || running || s.bist.lapsed.contains key || decide (s.vehicleNs < end_) then
    .next s
  else
    let t := { s.inc BIST_STAT.COVERAGE with bist := { s.bist with lapsed := key :: s.bist.lapsed } }
    match safe with
    | some f => .next ({ t with saf := { t.saf with coverage := key :: t.saf.coverage } }.report 0x14 (some f))
    | none => .next t

end Sys2Proof.Machine
end

