-- ==== Sys2Proof/Machine/LogOps.lean ====
section
/-! DEFINITION. Firmware's components, and the log service (15 R383–R386). -/

namespace Sys2Proof.Machine

/-! ## Components (15 R383, R384) -/

/-- Firmware does not run, or a component of it is restarting. -/
def State.fwDown (s : State) (comp : Nat) : Bool := !s.fw.running || s.fwOut comp

/-! ## Log (15 R385) -/

/-- An entry written to the log ring. -/
def State.writeLog (s : State) (e : LogEntry) : State :=
  let seq := s.rd FW_LOG.NEXT_SEQ
  let a := s.rd FW_LOG.BASE + seq % 32768 * 32
  let bs := leBytes 4 seq ++ leBytes 1 e.comp ++ leBytes 1 e.level ++ leBytes 2 e.code ++ leBytes 8 e.time ++ Bytes.pad e.args 16
  (s.memWrite a bs).wr FW_LOG.NEXT_SEQ (seq + 1)

/-- An entry logged, or held while the log service does not run: up to 64 of a component. -/
def State.log (s : State) (comp level code : Nat) (args : Bytes) : State :=
  let e := LogEntry.mk comp level code s.localNs args
  if !s.fwDown 9 then s.writeLog e
  else if (s.fw.heldLog.filter (fun x => x.comp == comp)).length < 64 then
    { s with fw := { s.fw with heldLog := s.fw.heldLog ++ [e] } }
  else { s with fw := { s.fw with lostLog := s.fw.lostLog + 1 } }

/-- An event logged whose code and arguments the manual does not give. -/
def State.logEvent (s : State) (comp level : Nat) : State :=
  let n := s.freeCount
  let args := (List.range 16).map (Config.undefinedByte n)
  s.drawn.log comp level ((Config.freeWord n 16).toNat % 65536) args

/-- Held entries written once the log service runs, with one entry that records the number lost. -/
def State.flushLog (s : State) : State :=
  if s.fwDown 9 then s
  else
    let es := s.fw.heldLog
    let lost := s.fw.lostLog
    let s := { s with fw := { s.fw with heldLog := [], lostLog := 0 } }
    let s := es.foldl (fun s e => s.writeLog e) s
    if lost = 0 then s else s.writeLog ⟨9, 2, 1, s.localNs, leBytes 8 lost⟩

/-- A slot of the log save area written: header, then the newest 2,047 entries (15 R386). -/
def State.saveLog (s : State) : State :=
  if s.flag FW_PKG.BUSY then { s with fw := { s.fw with heldSaves := s.fw.heldSaves + 1 } }
  else
    let next := s.rd FW_LOG.NEXT_SEQ
    let n := min next 2047
    let body := (List.range n).flatMap (fun i => s.memRead (s.rd FW_LOG.BASE + (next - n + i) % 32768 * 32) 32)
    let hdr := leBytes 4 ((next - n) % 2 ^ 32) ++ leBytes 4 ((next + 2 ^ 32 - 1) % 2 ^ 32) ++ leBytes 8 s.localNs ++
      leBytes 4 (crc32c body) ++ leBytes 12 0
    let s := s.flashWrite ((s.flashArea 5).1 + s.fw.slot * 65536) (hdr ++ body)
    { s with fw := { s.fw with slot := (s.fw.slot + 1) % 4 } }


end Sys2Proof.Machine
end

