-- ==== Sys2Proof/Machine/Reals.lean ====
section
/-! DEFINITION. The real functions that the manual names and no rational gives exactly: 2^x, log2, reciprocal, reciprocal
square root, tanh and sigmoid of the vector unit (02 R33), and square root, sine, cosine and arctangent of the projector
(08 R219, R220). Each is evaluated in fixed point, far more finely than the manual's tolerance, so that a tolerance can be
tested. DESIGN CHOICE: the evaluation's own error, below 2^-50 of the result, stands for none (log entry 110). -/

namespace Sys2Proof.Machine

/-! ## Fixed point with 80 fraction bits -/

/-- One. -/
def fx1 : Nat := 2 ^ 80
/-- The natural logarithm of 2, and its inverse. -/
def fxLn2 : Nat := 837963523372001241319907
def fxLog2e : Nat := 1744111284760651037637903

/-- A magnitude m × 2^e in fixed point, cut. -/
def fxOf (m : Nat) (e : Int) : Nat := if 0 ≤ e + 80 then m * 2 ^ (e + 80).toNat else m / 2 ^ (-(e + 80)).toNat

/-- 2^f for f up to 1, by the exponential series. -/
def fxExp2 (f : Nat) : Nat :=
  let t := f * fxLn2 / fx1
  ((List.range 32).foldl (fun (a : Nat × Nat) k => (a.1 + a.2, a.2 * t / fx1 / (k + 1))) (0, fx1)).1

/-- 2^-u. -/
def fxExp2Neg (u : Nat) : Nat := if 96 * fx1 ≤ u then 0 else fxExp2 (fx1 - u % fx1) / 2 ^ (u / fx1 + 1)

/-- The first 64 fraction bits of log2 y for y from 1 to 2, each by a squaring. -/
def fxLog2 (y : Nat) : Nat :=
  ((List.range 64).foldl (fun (a : Nat × Nat) _ =>
    let q := a.1 * a.1 / fx1
    if 2 * fx1 ≤ q then (q / 2, 2 * a.2 + 1) else (q, 2 * a.2)) (y, 0)).2

/-- The integer square root, one binary digit after another from the highest. -/
def isqrt (n : Nat) : Nat :=
  (List.range (Nat.log2 n / 2 + 1)).foldr (fun i r => if (r + 2 ^ i) * (r + 2 ^ i) ≤ n then r + 2 ^ i else r) 0

/-! ## The special functions of the vector unit (02 R33, 04 R102) -/

/-- 2^x: 0 or beyond every format where |x| passes 4,096. -/
def exp2Num (neg : Bool) (m : Nat) (e : Int) : Num :=
  if m ≠ 0 ∧ 12 ≤ (Nat.log2 m : Int) + e then .fin false 1 (if neg then -5000 else 5000)
  else
    let x := fxOf m e
    let n : Int := if neg then -(x / fx1 : Nat) - 1 else (x / fx1 : Nat)
    .fin false (fxExp2 (if neg then fx1 - x % fx1 else x % fx1)) (n - 80)

/-- log2 x of a positive x. -/
def log2Num (m : Nat) (e : Int) : Num :=
  let n := Nat.log2 m
  let y := if n ≤ 80 then m * 2 ^ (80 - n) else m / 2 ^ (n - 80)
  Num.ofInt (((n : Int) + e) * (2 ^ 64 : Nat) + (fxLog2 y : Nat)) (-64)

/-- 1/x and 1/√x of a positive x, with 64 bits and more. -/
def recipNum (neg : Bool) (m : Nat) (e : Int) : Num :=
  let k := Nat.log2 m + 64
  .fin neg (2 ^ k / m) (-(k : Int) - e)
def rsqrtNum (m : Nat) (e : Int) : Num :=
  let odd := e % 2 ≠ 0
  let m := if odd then 2 * m else m
  let e := if odd then e - 1 else e
  let k := Nat.log2 m + 64
  .fin false (isqrt (2 ^ (2 * k) / m)) (-(k : Int) - e / 2)

/-- tanh x and 1 / (1 + e^-x). -/
def tanhNum (neg : Bool) (m : Nat) (e : Int) : Num :=
  if m ≠ 0 ∧ 7 ≤ (Nat.log2 m : Int) + e then .fin neg 1 0
  else
    let q := fxExp2Neg (2 * fxOf m e * fxLog2e / fx1)
    .fin neg ((fx1 - q) * fx1 / (fx1 + q)) (-80)
def sigmoidNum (neg : Bool) (m : Nat) (e : Int) : Num :=
  if m ≠ 0 ∧ 7 ≤ (Nat.log2 m : Int) + e then (if neg then .fin false 0 0 else .fin false 1 0)
  else
    let q := fxExp2Neg (fxOf m e * fxLog2e / fx1)
    .fin false ((if neg then q else fx1) * fx1 / (fx1 + q)) (-80)

/-- The value of a special function (codes of 04 R102); none where the manual states none: an infinite operand, the
logarithm, the reciprocal and the reciprocal root of zero, the logarithm and the root of a negative number. -/
def sfuValue (code : Nat) : Num → Option Num
  | .nan => some .nan
  | .inf _ => none
  | .fin neg m e =>
    if code = 0 then some (exp2Num neg m e)
    else if code = 4 then some (tanhNum neg m e)
    else if code = 5 then some (sigmoidNum neg m e)
    else if m = 0 then none
    else if code = 2 then some (recipNum neg m e)
    else if neg then none
    else if code = 1 then some (log2Num m e)
    else some (rsqrtNum m e)

/-- The tolerance of a special function at a value: two units in the last place of FP32, or 2^-22 for tanh and sigmoid
(02 R33). -/
def sfuTol (code : Nat) (y : Num) : Num :=
  if code = 4 ∨ code = 5 then .fin false 1 (-22) else .fin false 1 (max (y.log2 - 23) (-149) + 1)

/-- A finite value within a tolerance of another. -/
def Num.within (tol x y : Num) : Bool := x.finite && y.finite && !tol.lt (x.add y.neg).abs

/-- The FP32 bits that a special function gives for FP32 bits: some value that the tolerance allows, or any value where
the manual states none. Where the value rounds to an infinity or is a NaN, that is the result. -/
def sfuOf (code x : Nat) : Nat :=
  let v := (Config.sfu code (BitVec.ofNat 32 x)).toNat
  match sfuValue code (decodeNum fFp32 x) with
  | none => v
  | some y => if (decodeNum fFp32 (fp32 y)).finite && (decodeNum fFp32 v).within (sfuTol code y) y then v else fp32 y

/-! ## Rational evaluations for the projector (08 R219, R220) -/

/-- Fraction bits of a rational, cut to 128. -/
def ratFx (x : Rat) : Int := (x * ((2 ^ 128 : Nat) : Rat)).floor
def fxRat (x : Int) : Rat := (x : Rat) / ((2 ^ 128 : Nat) : Rat)

/-- 2π. -/
def twoPi : Rat := (727543153783532648560469885555459725306786754656784859917544302235877788932370 : Rat) / ((2 ^ 256 : Nat) : Rat)

/-- √x of a rational that is not negative, with 64 bits and more. -/
def sqrtRat (x : Rat) : Rat :=
  if x ≤ 0 then 0
  else
    let k := 64 + (Nat.log2 x.den - Nat.log2 x.num.toNat)
    (isqrt (x.num.toNat * 2 ^ (2 * k) / x.den) : Rat) / ((2 ^ k : Nat) : Rat)

/-- Σ (−t)^i × first / ((d + 1) (d + 2) … (d + 2i)) in fixed point: with d = 1 the series of sin θ / θ and with d = 2 and a
first term of 1/2 that of (1 − cos θ) / θ², where t = θ². -/
def alternating (first : Rat) (d : Nat) (t : Rat) : Rat :=
  let u := ratFx t
  fxRat ((List.range 40).foldl (fun (a : Int × Int) i =>
    (a.1 + a.2, -(a.2 * u / (2 ^ 128 : Nat) / (((d + 2 * i + 1) * (d + 2 * i + 2) : Nat) : Int)))) (0, ratFx first)).1

/-- sin θ / θ and (1 − cos θ) / θ² where θ² = t; a θ above π is first brought between −π and π. -/
def rodrigues (t : Rat) : Rat × Rat :=
  if t ≤ 10 then (alternating 1 1 t, alternating (1 / 2) 2 t)
  else
    let th := sqrtRat t
    let r := th - twoPi * ((th / twoPi + 1 / 2).floor : Rat)
    (alternating 1 1 (r * r) * r / th, alternating (1 / 2) 2 (r * r) * (r * r) / t)

/-- arctan x for |x| up to 1: the angle halved twice, then its series. -/
def atanRat (x : Rat) : Rat :=
  let half (x : Rat) : Rat := fxRat (ratFx (x / (1 + sqrtRat (1 + x * x))))
  let y := half (half x)
  let y2 := ratFx (y * y)
  4 * fxRat ((List.range 64).foldl (fun (a : Int × Int) i =>
    (a.1 + a.2 / ((2 * i + 1 : Nat) : Int), -(a.2 * y2 / (2 ^ 128 : Nat)))) (0, ratFx y)).1

/-- atan2 of a distance that is not negative and a depth. -/
def atan2Rat (rho z : Rat) : Rat :=
  if rho ≤ z then (if z = 0 then 0 else atanRat (rho / z))
  else if -z < rho then twoPi / 4 - atanRat (z / rho)
  else twoPi / 2 + atanRat (rho / z)

end Sys2Proof.Machine
end

