-- ==== Sys2Proof/Machine/Projector.lean ====
section
/-! DEFINITION. The point projector (08 R216–R222). Coordinates are exact rationals, but for the real functions of
Reals.lean; where the manual gives the FP32 arithmetic a tolerance, the result is a free value inside it. -/

namespace Sys2Proof.Machine

/-! ## Numbers and vectors -/

/-- An FP32 pattern as a rational, where it is finite. -/
def ratOf (v : Nat) : Option Rat :=
  match decodeNum fFp32 v with
  | .fin neg m e =>
    let x : Rat := if 0 ≤ e then ((m * 2 ^ e.toNat : Nat) : Rat) else (m : Rat) / ((2 ^ (-e).toNat : Nat) : Rat)
    some (if neg then -x else x)
  | _ => none

/-- FP32 at an offset of a record. -/
def ratAt (b : Bytes) (o : Nat) : Option Rat := ratOf (Bytes.num b o 4)

/-- A vector of three. -/
structure Vec where
  x : Rat
  y : Rat
  z : Rat
  deriving DecidableEq

def Vec.add (a b : Vec) : Vec := ⟨a.x + b.x, a.y + b.y, a.z + b.z⟩
def Vec.smul (k : Rat) (a : Vec) : Vec := ⟨k * a.x, k * a.y, k * a.z⟩
def Vec.cross (a b : Vec) : Vec := ⟨a.y * b.z - a.z * b.y, a.z * b.x - a.x * b.z, a.x * b.y - a.y * b.x⟩
def Vec.norm2 (a : Vec) : Rat := a.x * a.x + a.y * a.y + a.z * a.z

/-- Three FP32 values. -/
def vecAt (b : Bytes) (o : Nat) : Option Vec := do
  .some ⟨← ratAt b o, ← ratAt b (o + 4), ← ratAt b (o + 8)⟩

/-- A 3 × 3 matrix by rows. -/
structure Mat where
  r0 : Vec
  r1 : Vec
  r2 : Vec
  deriving DecidableEq

def matAt (b : Bytes) (o : Nat) : Option Mat := do .some ⟨← vecAt b o, ← vecAt b (o + 12), ← vecAt b (o + 24)⟩
def Vec.dot (a b : Vec) : Rat := a.x * b.x + a.y * b.y + a.z * b.z
def Mat.mul (m : Mat) (v : Vec) : Vec := ⟨m.r0.dot v, m.r1.dot v, m.r2.dot v⟩

/-- The rotation-vector exponential applied to a vector, by the Rodrigues formula (08 R219). -/
def expRot (k p : Vec) : Vec :=
  let r := rodrigues k.norm2
  let c := k.cross p
  p.add ((Vec.smul r.1 c).add (Vec.smul r.2 (k.cross c)))

/-- The rotation of a quaternion (w, u) applied to a vector. -/
def quatRot (w : Rat) (u v : Vec) : Vec :=
  let c := u.cross v
  v.add ((Vec.smul (2 * w) c).add (Vec.smul 2 (u.cross c)))

/-! ## Calibration (08 R217) -/

/-- A camera record. -/
structure Cam where
  fisheye : Bool
  width : Nat
  height : Nat
  rowRef : Nat
  tFrame : Nat
  lineNs : Rat
  f : Rat × Rat
  c : Rat × Rat
  k : Rat × Rat × Rat × Rat
  p : Rat × Rat
  limit : Rat
  rc : Mat
  tc : Vec
  depthOff : Nat
  idxOff : Nat
  idxCap : Nat
  deriving DecidableEq

/-- A camera record read; none where a value is not finite. -/
def camOf (b : Bytes) : Option Cam := do
  let fe := Bytes.num b 0 1 == 2
  let p ← if fe then .some ((0, 0) : Rat × Rat) else (do .some (← ratAt b 0x34, ← ratAt b 0x38))
  .some ⟨fe, Bytes.num b 2 2, Bytes.num b 4 2, Bytes.num b 6 2, Bytes.num b 8 8, ← ratAt b 0x10,
    (← ratAt b 0x14, ← ratAt b 0x18), (← ratAt b 0x1C, ← ratAt b 0x20),
    (← ratAt b 0x24, ← ratAt b 0x28, ← ratAt b 0x2C, ← ratAt b 0x30), p, ← ratAt b 0x3C, ← matAt b 0x40, ← vecAt b 0x64,
    Bytes.num b 0x70 4, Bytes.num b 0x74 4, Bytes.num b 0x78 4⟩

/-- The FP32 value just above π: a θ_MAX above it is out of range. -/
def fpPi : Nat := 0x40490FDB

/-- A camera record outside its ranges. -/
def camBad (b : Bytes) : Bool :=
  let m := Bytes.num b 0 1
  let lim := Bytes.num b 0x3C 4
  decide (m ≠ 1 ∧ m ≠ 2) || decide (Bytes.num b 1 1 > 15) || Bytes.num b 0x70 4 % 64 != 0 || Bytes.num b 0x74 4 % 64 != 0 ||
  Bytes.num b 0x7C 4 != 0 || (m == 2 && decide (fpPi ≤ lim ∧ lim < 0x80000000))

/-- A lidar record outside its ranges. -/
def lidBad (b : Bytes) (ncam : Nat) : Bool :=
  let n := Bytes.num b 1 1
  decide (Bytes.num b 0 1 < 16) || decide (Bytes.num b 0 1 > 23) || decide (n > 4) || Bytes.num b 6 2 != 0 ||
  Bytes.num b 0x38 8 != 0 || (List.range (min n 4)).any (fun i => decide (Bytes.num b (2 + i) 1 ≥ ncam))

/-- The calibration block and what it names. -/
def calCam (cal : Bytes) (c : Nat) : Bytes := Bytes.sub cal (0x40 + c * 128) 128
def calLid (cal : Bytes) (l : Nat) : Bytes := Bytes.sub cal (0x840 + l * 64) 64

/-- A calibration block outside its ranges. -/
def calBad (cal : Bytes) : Bool :=
  let ncam := Bytes.num cal 0 1
  let nlid := Bytes.num cal 1 1
  decide (ncam = 0) || decide (ncam > 16) || decide (nlid = 0) || decide (nlid > 8) || decide (Bytes.num cal 2 1 ≥ 4) ||
  decide (Bytes.num cal 3 1 > 3) || (Bytes.sub cal 4 60).any (· != 0) ||
  (List.range (min ncam 16)).any (fun c => camBad (calCam cal c)) ||
  (List.range (min nlid 8)).any (fun l => lidBad (calLid cal l) ncam)

/-- A depth image or an index list lies outside its entry. -/
def camOutside (b : Bytes) (ds d i : Nat) : Bool :=
  decide (Bytes.num b 0x70 4 + Bytes.num b 2 2 / 2 ^ ds * (Bytes.num b 4 2 / 2 ^ ds) * 2 > d) ||
  decide (Bytes.num b 0x74 4 + 16 + Bytes.num b 0x78 4 * 12 > i)

/-! ## Projection (08 R218–R220) -/

/-- Entry `k` of the ego-pose ring. -/
def State.poseAt (s : State) (k : Nat) : Bytes := s.memRead (s.rd FUS_POSE.BASE / 4096 * 4096 + k % 64 * 64) 64

/-- The newest VALID pose record of the ring: the entries are tried backward from entry LAST (08 R215, 09 R247). -/
def State.newestPose (s : State) : Option Bytes :=
  let last := s.rd FUS_POSE.LAST
  if last = 2 ^ 64 - 1 then none
  else ((List.range 64).find? (fun i => (Bytes.num (s.poseAt (last + 64 - i)) 0x3C 4).testBit 0)).map (fun i => s.poseAt (last + 64 - i))

/-- A point moved to the exposure time t_r; the flag tells that it was not compensated. -/
def compensate (pose : Option Bytes) (twoP : Rat) (comp : Bool) (pv : Vec) (tp tr : Rat) : Vec × Bool :=
  if !comp then (pv, false)
  else match pose with
    | none => (pv, true)
    | some q =>
      let tq : Rat := (Bytes.num q 0 8 : Nat)
      if tr - tq > twoP ∨ tq - tr > twoP then (pv, true)
      else match ratAt q 0x14, vecAt q 0x18, vecAt q 0x24, vecAt q 0x30 with
        | some w, some u, some v, some om =>
          let d := (tp - tr) / 1000000000
          let dt := (tr - tq) / 1000000000
          let back := expRot (Vec.smul (-dt) om) (quatRot w (Vec.smul (-1) u) v)
          ((expRot (Vec.smul d om) pv).add (Vec.smul d back), false)
        | _, _, _, _ => (pv, true)

/-- A pixel coordinate: within 1/16 of its exact value below 8,192. -/
def pixelOf (x : Rat) : Rat :=
  if x < 8192 ∧ -8192 < x then max (x - 1 / 16) (min (x + 1 / 16) (Config.pixel x)) else Config.pixel x

/-- A camera point through its lens: pixel and exact depth; none where it is not projected. -/
def Cam.lens (c : Cam) (p : Vec) : Option (Rat × Rat × Rat) :=
  if c.fisheye then
    let rho := sqrtRat (p.x * p.x + p.y * p.y)
    let th := atan2Rat rho p.z
    if th > c.limit then none
    else
      let t2 := th * th
      let td := th * (1 + t2 * (c.k.1 + t2 * (c.k.2.1 + t2 * (c.k.2.2.1 + t2 * c.k.2.2.2))))
      let uv := if p.x = 0 ∧ p.y = 0 then c.c else (c.f.1 * td * p.x / rho + c.c.1, c.f.2 * td * p.y / rho + c.c.2)
      some (uv.1, uv.2, sqrtRat p.norm2)
  else if p.z ≤ c.limit then none
  else
    let x := p.x / p.z
    let y := p.y / p.z
    let r2 := x * x + y * y
    let g := 1 + r2 * (c.k.1 + r2 * (c.k.2.1 + r2 * c.k.2.2.1))
    let xd := x * g + 2 * c.p.1 * x * y + c.p.2 * (r2 + 2 * x * x)
    let yd := y * g + c.p.1 * (r2 + 2 * y * y) + 2 * c.p.2 * x * y
    some (c.f.1 * xd + c.c.1, c.f.2 * yd + c.c.2, p.z)

/-- One pass for one camera. -/
def Cam.pass (c : Cam) (pose : Option Bytes) (twoP : Rat) (comp : Bool) (pv : Vec) (tp tr : Rat) :
    Option (Rat × Rat × Rat) × Bool :=
  let m := compensate pose twoP comp pv tp tr
  let r := (c.lens ((c.rc.mul m.1).add c.tc)).map (fun x => (pixelOf x.1, pixelOf x.2.1, x.2.2))
  (match r with
    | some (u, v, d) => if 0 ≤ u ∧ u < c.width ∧ 0 ≤ v ∧ v < c.height then some (u, v, d) else none
    | none => none, m.2)

/-- A rational as a number, to far more bits than a format holds: 0 exactly, and its sign and 64 bits or more. -/
def numOfRat (x : Rat) : Num :=
  let k := 80 + Nat.log2 x.den - Nat.log2 x.num.natAbs
  .fin (decide (x < 0)) (x.num.natAbs * 2 ^ k / x.den) (-(k : Int))

/-- A depth in FP32. DEDUCED (log entry 111): the exact depth rounded once to nearest even; the manual says FP32 arithmetic
and gives its steps no order. -/
def depthBits (d : Rat) : Nat := fp32 (numOfRat d)

/-- A point kept for a camera: its number, pixel and depth, and whether it was not compensated. -/
structure Hit3 where
  point : Nat
  u : Rat
  v : Rat
  depth : Nat
  raw : Bool
  deriving DecidableEq

/-- A point projected into a camera, in one pass or in two for a rolling shutter. -/
def Cam.project (c : Cam) (pose : Option Bytes) (twoP : Rat) (comp : Bool) (n : Nat) (pv : Vec) (tp : Rat) : Option Hit3 :=
  let t0 : Rat := (c.tFrame : Nat)
  let r := c.pass pose twoP comp pv tp t0
  let fin : Option (Rat × Rat × Rat) × Bool := match r.1 with
    | none => (none, false)
    | some (_, v1, _) =>
      if c.lineNs = 0 then r else c.pass pose twoP comp pv tp (t0 + (v1 - (c.rowRef : Nat)) * c.lineNs)
  match fin.1 with
  | some (u, v, d) => some ⟨n, u, v, depthBits d, fin.2⟩
  | none => none

/-- The hits of one camera record, in ascending point order. -/
def camHits (cal pts : Bytes) (count : Nat) (pose : Option Bytes) (twoP : Rat) (ci : Nat) : List Hit3 :=
  let nlid := Bytes.num cal 1 1
  let comp := (Bytes.num cal 2 1).testBit 1
  match camOf (calCam cal ci) with
  | none => []
  | some c => (List.range count).filterMap (fun n =>
      let p := Bytes.sub pts (64 + n * 16) 16
      let l := Bytes.num p 14 1
      let lr := calLid cal l
      if l ≥ nlid then none
      else if !((List.range (Bytes.num lr 1 1)).any (fun i => Bytes.num lr (2 + i) 1 == ci)) then none
      else match matAt lr 8, vecAt lr 0x2C, vecAt p 0 with
        | some r, some t, some x =>
          let tp : Rat := ((Bytes.num pts 0 8 + 1000 * Bytes.num p 12 2 : Nat) : Rat)
          c.project pose twoP comp n ((r.mul x).add t) tp
        | _, _, _ => none)

/-! ## Outputs (08 R221) -/

/-- A depth image: the smallest depth of each pixel, FP16. -/
def depthImage (b : Bytes) (ds : Nat) (hs : List Hit3) : Bytes :=
  let w := Bytes.num b 2 2 / 2 ^ ds
  let h := Bytes.num b 4 2 / 2 ^ ds
  let put (m : Sparse (Option Nat)) (x : Hit3) : Sparse (Option Nat) :=
    let px := x.u.floor.toNat / 2 ^ ds
    let py := x.v.floor.toNat / 2 ^ ds
    let k := py * w + px
    if w ≤ px ∨ h ≤ py then m
    else match Sparse.look none m k with
      | some d => if (decodeNum fFp32 x.depth).lt (decodeNum fFp32 d) then Sparse.put none m k (some x.depth) else m
      | none => Sparse.put none m k (some x.depth)
  let m := hs.foldl put []
  (List.range (w * h)).flatMap (fun k => match Sparse.look none m k with
    | some d => leBytes 2 (encodeNum fFp16 ⟨true, none⟩ (decodeNum fFp32 d)).bits
    | none => [0, 0])

/-- An index list. -/
def indexList (cap : Nat) (hs : List Hit3) : Bytes :=
  let kept := hs.take cap
  leBytes 4 kept.length ++ leBytes 4 (hs.length - kept.length) ++ leBytes 8 0 ++
    kept.flatMap (fun x => leBytes 4 x.point ++ leBytes 2 (x.u * 8).floor.toNat ++ leBytes 2 (x.v * 8).floor.toNat ++
      leBytes 4 x.depth)

/-- The command runs: its outputs are written and RESULT0 is known. -/
def State.runProject (s : State) (j : Job) (ws : List Win) (cal : Bytes) : State :=
  let c := j.cmd
  let w (i : Nat) : Win := ws.getD i ⟨0, 0, false, false, false, 0⟩
  let t (i o : Nat) : Target := s.target c.ctx (w i).fabric ((w i).base + o)
  let count := leNat (s.targetRead (t 0 8) 4 [])
  let size := 64 + count * 16
  let pts := s.targetRead (t 0 0) size []
  let bad := s.targetBad (t 0 0) size != []
  let twoP : Rat := 2 * (s.period.1 : Nat) / (s.period.2 : Nat)
  let pose := s.newestPose
  let ds := Bytes.num cal 3 1
  let cams := (List.range (Bytes.num cal 0 1)).map (fun i => (calCam cal i, camHits cal pts count pose twoP i))
  let s := s.targetTouch c.ctx (t 0 0) size
  let s := cams.foldl (fun s x =>
    let s := s.targetWrite c.ctx (t 1 (Bytes.num x.1 0x70 4)) (depthImage x.1 ds x.2)
    s.targetWrite c.ctx (t 2 (Bytes.num x.1 0x74 4)) (indexList (Bytes.num x.1 0x78 4) x.2)) s
  let written := (cams.map (fun x => min x.2.length (Bytes.num x.1 0x78 4))).foldl (· + ·) 0
  let dropped := (cams.map (fun x => x.2.length - Bytes.num x.1 0x78 4)).foldl (· + ·) 0
  let raw := ((cams.flatMap (fun x => (x.2.filter (·.raw)).map (·.point))).eraseDups).length
  let r := written % 2 ^ 32 + min dropped 0xFFFF * 2 ^ 32 + min raw 0xFFFF * 2 ^ 48
  s.changeJob c.serial (fun j => { j with started := true, wins := ws, outcome := .ended 0 0 r, tainted := bad })

/-- The PROJECT admitted to the projector that has not begun. -/
def State.projectJob (s : State) : Option Job := s.unstarted .projector 0x60

/-- A PROJECT with DUP = 1 in flight (08 R217, R222). -/
def State.dupJob (s : State) : Option Job :=
  s.flight.find? (fun j => j.res == .projector && j.cmd.opcode == 0x60 && (Bytes.num j.cmd.copy 2 1).testBit 0)

/-- The two halves of the projector's datapath differ: the command ends OUTPUT_INVALID (08 R222). The mismatch itself comes
from the hardware's faults, as a report of source 0x16. -/
def State.dupMismatch (s : State) (j : Job) : State :=
  s.changeJob j.cmd.serial (fun j => { j with started := true, outcome := .ended 0x30 0 0 })

/-- PROJECT: the calibration block and the point list are tested, and every point is projected. -/
def execProject (s : State) : Ans :=
  if (Sparse.look none s.engKill 1).isSome then .next s
  else match s.projectJob with
  | none => .next s
  | some j =>
    let c := j.cmd
    let b := c.bufOp
    let u := s.bufTouch c b.1 b.2
    let cal := c.copy
    match s.bufList c b.1 b.2 with
    | .error e => .next (u.refuseJob c.serial e)
    | .ok ws => match ws with
      | [p, d, i] =>
        let count := leNat (s.targetRead (s.target c.ctx p.fabric (p.base + 8)) 4 [])
        let cams := (List.range (min (Bytes.num cal 0 1) 16)).map (calCam cal)
        if !p.rd || !d.wr || !i.wr || decide (p.len < 64) || decide (count * 16 + 64 > p.len) || calBad cal ||
            cams.any (fun x => camOutside x (Bytes.num cal 3 1) d.len i.len) then
          .next (u.refuseJob c.serial 4)
        else .next (u.runProject j ws cal)
      | _ => .next (u.refuseJob c.serial 4)

end Sys2Proof.Machine
end

