-- ==== Sys2Proof/Machine/Fusion.lean ====
section
/-! DEFINITION. The commands of sensor ingress and the fusion aligner (chapter 8), but for FRAME and PROJECT. -/

namespace Sys2Proof.Machine

/-! ## Cameras (08 R194–R196) -/

/-- Bits of a pixel of a CSI-2 data type, for the types of R194 (codes of the CSI-2 standard, PRESUMED). -/
def rawBits (dt : Nat) : Option Nat :=
  match dt with
  | 0x2B => some 10
  | 0x2C => some 12
  | 0x2D => some 14
  | 0x2E => some 16
  | 0x2F => some 20
  | _ => none

/-- The frame being received is discarded and its slot freed (08 R196). -/
def State.discardFrame (s : State) (i : Nat) : State := (s.setSrc i { s.srt i with open_ := none }).drop i

/-- A frame start: a frame still open is discarded, and the new one takes a slot. -/
def State.camStart (s : State) (i : Nat) : State :=
  let s := if (s.srt i).open_.isSome then s.discardFrame i else s
  match s.freeSlot i with
  | none => s.dropFull i
  | some slot =>
    let free : Int := (Config.freeWord s.freeCount 0).toNat + 2 ^ 32 * (Config.freeWord s.freeCount 1).toNat
    s.drawn.takeSlot i slot ⟨slot, none, 0, none, free, 0, 0, false, 0⟩

/-- The row time of a line that starts now (08 R195). -/
def State.rowTime (s : State) (i : Nat) : Int := (s.sensorNs : Int) - s.rd ING_SRC.LAT i

/-- A line of pixels stored with its row time (08 R195, R196, R200). -/
def State.camLine (s : State) (i dt : Nat) (pixels : List Nat) : State :=
  match rawBits dt, (s.srt i).open_ with
  | none, _ => s.drop i
  | some _, none => s
  | some w, some f =>
    if f.dt.isSome ∧ f.dt ≠ some dt then s.drop i
    else if pixels.length ≠ s.camWidth i then s.discardFrame i
    else
      let px := if w = 20 then 4 else 2
      if px = 4 ∧ s.frameBytes i 4 > s.slotBytes i then s.discardFrame i
      else
        let t := f.line.getD (s.rowTime i)
        let a := s.ingBase + s.slotOff i f.slot
        let s := if f.count < s.camHeight i then
            (s.memWrite (a + 0x40 + f.count * 8) (stampBytes t)).memWrite (a + s.pixOff i + f.count * s.stride i px)
              (pixels.flatMap (fun p => leBytes px (p % 2 ^ w)))
          else s
        let f := { f with dt := some dt, line := none, count := f.count + 1,
                          stamp := if f.count = s.rd ING_SRC.KIND_B i % 65536 then t else f.stamp }
        s.setSrc i { s.srt i with open_ := some f }

/-- A frame end: a frame with a wrong number of lines is discarded, another waits for its completion. -/
def State.camEnd (s : State) (i : Nat) : State :=
  let x := s.srt i
  match x.open_ with
  | none => s
  | some f =>
    if f.count ≠ s.camHeight i then s.discardFrame i
    else s.setSrc i { x with open_ := none, received := x.received ++ [f], prevSlot := some f.slot }

/-- CAMERA_PACKET. -/
def execCameraPacket (source : Fin 16) (vc : Fin 32) (packet : CamPacket) (err : PacketError) (s : State) : Ans :=
  let i := source.val
  let s := if err = .retransmission ∧ i < 12 then s.inc APHY_LINK.RETX i else s
  if !s.srcOn i then .next s
  else match err with
    | .header | .payloadCrc | .retransmission =>
      if (s.srt i).open_.isSome then .next (s.discardFrame i)
      else if packet = .frameStart then .next (s.drop i) else .next s
    | .clean | .headerBit =>
      if vc.val ≠ s.rd ING_SRC.VC i then .next (s.drop i)
      else match packet with
        | .frameStart => .next (s.camStart i)
        | .frameEnd => .next (s.camEnd i)
        | .lineStart => match (s.srt i).open_ with
          | some f => .next (s.setSrc i { s.srt i with open_ := some { f with line := some (s.rowTime i) } })
          | none => .next s
        | .line dt px => .next (s.camLine i dt px)

/-! ## Lidars (08 R197, R203) -/

/-- The enabled lidar source to which a frame is steered, whether the aligner runs or not (08 R197, R199). -/
def State.steer (s : State) (e : EthView) : Option (Nat × Bytes) :=
  match e.udp with
  | none => none
  | some u => (((List.range 8).map (· + 16)).find? (fun i => s.flag ING_SRC.ENABLE i && bits (s.rd ING_SRC.KIND_A i) 16 12 == e.vid &&
      s.rd ING_SRC.KIND_A i % 65536 == u.dstPort)).map (fun i => (i, u.payload))

/-- `n` free bytes. -/
def State.freeBytes (s : State) (n : Nat) : Bytes := (List.range n).map (fun i => Config.undefinedByte s.freeCount i)

/-- The two fixed fields of a lidar payload: t_src and the sweep counter (08 R197). Bytes past the payload's end are free
values. -/
def State.lidarFields (s : State) (i : Nat) (pay : Bytes) : Nat × Nat :=
  let at_ (o n : Nat) : Bytes := (pay ++ s.freeBytes (o + n - pay.length)).drop o |>.take n
  let to_ := s.rd ING_SRC.KIND_B i % 65536
  let fo := s.rd ING_SRC.KIND_B i / 65536
  if s.flag ING_SRC.TS_FMT i then (beNat (at_ to_ 4) * 10 ^ 9 + beNat (at_ (to_ + 4) 4), beNat (at_ fo 2))
  else (leNat (at_ to_ 8), leNat (at_ fo 2))

/-- The open sweep closed: it waits for its completion. -/
def State.closeSweep (s : State) (i : Nat) : State :=
  let x := s.srt i
  match x.open_ with
  | none => s
  | some f => s.setSrc i { x with open_ := none, received := x.received ++ [f], prevSlot := some f.slot }

/-- A sweep opened in a free slot, or dropped for want of one (08 R200, R201). -/
def State.openSweep (s : State) (i fc : Nat) : State :=
  match s.freeSlot i with
  | none => (s.dropFull i).setSrc i { (s.dropFull i).srt i with skip := some fc }
  | some slot => s.takeSlot i slot ⟨slot, none, 0, none, 0, fc, 0x40, false, 0⟩

/-- A packet with receive stamp `a` stored in the open sweep, or dropped once the slot is full (08 R197, R200). -/
def State.sweepPacket (s : State) (i a t : Nat) (pay : Bytes) : State :=
  let x := s.srt i
  match x.open_, x.est with
  | some f, some e =>
    let c := s.corr16 i e.1 / 2 ^ 16
    let f := { f with stamp := (t : Int) + c, corr := c }
    let pad := (pay.length + 15) / 16 * 16
    if f.truncated ∨ f.fill + 16 + pad > s.slotBytes i then
      (s.setSrc i { x with open_ := some { f with truncated := true } }).drop i
    else
      let at_ := s.ingBase + s.slotOff i f.slot + f.fill
      let s := s.memWrite at_ (leBytes 8 a ++ leBytes 2 pay.length ++ leBytes 6 0 ++ pay ++
        List.replicate (pad - pay.length) 0)
      s.setSrc i { x with open_ := some { f with count := f.count + 1, fill := f.fill + 16 + pad } }
  | _, _ => s

/-- A steered lidar payload with receive stamp `a` (08 R197, R203): while RUN = 0 it is discarded (R199). -/
def State.lidarPayload (s : State) (i a : Nat) (pay : Bytes) : State :=
  if !s.flag FUS_CTL.RUN then s else
  let tf := s.lidarFields i pay
  let s := s.drawn.estUpdate i a tf.1
  let s := match (s.srt i).open_ with
    | some f => if f.seq = tf.2 then s else s.closeSweep i
    | none => s
  let s := if (s.srt i).open_.isNone ∧ (s.srt i).skip ≠ some tf.2 then s.openSweep i tf.2 else s
  s.sweepPacket i a tf.1 pay

/-- LIDAR_PACKET: an Ethernet frame at the switch's internal host port that the filters steer to ingress. DEDUCED: it is
received there and then, so its receive stamp is the moment's sensor time less RX_LAT of port 8 (14 R352). -/
def execLidarPacket (frame : Bytes) (s : State) : Ans :=
  match (ethView frame).bind s.steer with
  | some (i, pay) => .next (s.lidarPayload i (s.sensorNs - s.rd GW_PORT.RX_LAT 8) pay)
  | none => .next s

/-! ## IMUs (08 R198) -/

/-- IMU_DRDY: the record is stamped at the edge and one SPI transaction runs. -/
def execImuDrdy (port : Fin 2) (s : State) : Ans :=
  let i := 30 + port.val
  if s.srcOn i then
    let x := s.srt i
    .next ((s.setSrc i { x with edges := x.edges ++ [s.rowTime i] }).emit (.spi port (s.imuCmd i) (s.dataLen i)))
  else .next s

/-- IMU_TRANSACTION_DONE: the bytes read are written to the source's ring. -/
def execImuTransactionDone (port : Fin 2) (data : Bytes) (s : State) : Ans :=
  let i := 30 + port.val
  let x := s.srt i
  match x.edges with
  | [] => .next s
  | t :: rest =>
    let n := s.dataLen i
    let d := (data ++ s.freeBytes (n - data.length)).take n
    .next ((s.drawn.setSrc i { x with edges := rest }).putRecord i t 0 0 d)

/-! ## Completion, release and events -/

/-- SAMPLE_COMPLETE: the oldest sample or record received becomes complete (08 R199, R206). -/
def execSampleComplete (source : Fin 32) (s : State) : Ans :=
  let i := source.val
  if !s.srcOn i then .next s
  else if i < 24 then
    match (s.srt i).received with
    | [] => .next s
    | f :: rest =>
      let s := s.releaseOverdue 64
      let x := s.srt i
      let f := if i < 16 then { f with seq := x.done + 1 } else f
      let s := s.setSrc i { x with received := rest, done := x.done + 1 }
      .next ((s.slotHeader i f).placeSample i f)
  else
    let x := s.srt i
    if x.complete < x.written then
      .next (s.setSrc i { x with complete := x.complete + 1, sinceDue := x.sinceDue + 1 })
    else .next s

/-- The instant in which a camera's frame sync is high at this moment (08 R195). -/
def State.syncInstant (s : State) (i : Nat) : Option Nat :=
  let lead := s.rd ING_SRC.KIND_A i
  let t := s.sensorNs + lead
  let p := s.period
  let k0 := ((t - s.epoch) * p.2 + p.2 - 1) / p.1
  if lead = 0 ∨ t < s.epoch then none
  else [k0, k0 - 1].find? (fun k => s.due i k && decide (s.tK k ≤ t) && decide (t < s.tK k + 10000))

/-- FRAME_SYNC_START: at T_k − FSYNC_LEAD a due camera's frame sync goes high. -/
def execFrameSyncStart (source : Fin 16) (s : State) : Ans :=
  let i := source.val
  let x := s.srt i
  if !s.srcOn i || x.high.isSome then .next s
  else match s.syncInstant i with
    | some k =>
      if x.pulsed = some k then .next s
      else .next ((s.setSrc i { x with pulsed := some k, high := some s.sensorNs }).emit (.frameSync i true))
    | none => .next s

/-- FRAME_SYNC_END: after 10 µs the frame sync goes low. -/
def execFrameSyncEnd (source : Fin 16) (s : State) : Ans :=
  let i := source.val
  let x := s.srt i
  match x.high with
  | some t =>
    if t + 10000 ≤ s.sensorNs then .next ((s.setSrc i { x with high := none }).emit (.frameSync i false)) else .next s
  | none => .next s

/-- INSTANT_RELEASE: every waited source is complete after the instant's centre; R is at most T_k + L (08 R204). -/
def execInstantRelease (s : State) : Ans :=
  let k := s.fus.nextK
  if s.flag FUS_CTL.RUN && decide (s.tK k ≤ s.sensorNs) && decide (s.fus.lastR.getD 0 ≤ s.sensorNs) && s.allIn k then
    .next (s.release k (min s.sensorNs (s.limitR k)) 1)
  else .next s

/-- INSTANT_WAIT_LIMIT: the instant is released at T_k + L. -/
def execInstantWaitLimit (s : State) : Ans :=
  let k := s.fus.nextK
  if s.flag FUS_CTL.RUN && decide (s.limitR k ≤ s.sensorNs) then .next (s.releaseLimit k) else .next s

/-- RESYNC_REQUEST: event 0x11 on entry into TIME_LOST and every 1 s while it lasts (08 R208). -/
def execResyncRequest (source : Fin 8) (s : State) : Ans :=
  let i := 16 + source.val
  let x := s.srt i
  let ready := match x.resync with
    | none => true
    | some t => decide (t + 10 ^ 9 ≤ s.localNs)
  match x.est with
  | some e =>
    if s.rd FUS_SRC_STAT.STATE i == srcTimeLost && ready then
      .next ((s.setSrc i { x with resync := some s.localNs }).fusEvent 0x11 i (unsigned 64 (s.corr16 i e.1 / 2 ^ 16)))
    else .next s
  | none => .next s

/-! ## Enabling and running (08 R207, R225, R226) -/

/-- A write of ENABLE from 0 to 1 (08 R207, R225). -/
def State.sourceEnable (s : State) (i : Nat) : State :=
  if s.flag ING_SRC.ENABLE i then s
  else if !s.srcConfigOk i then s.inc FUS_STAT.CFG_REFUSED
  else
    let x := s.srt i
    let s := s.setSrc i { x with open_ := none, skip := none, received := [], prevSlot := none, done := 0, est := none,
                                 lates := [], good := 0, next := none, updates := [], resync := none, edges := [],
                                 written := x.complete, sinceDue := 0 }
    let s := ((((s.wr ING_SRC.ENABLE 1 i).toCold FUS_SRC_STAT.LATE i).toCold FUS_SRC_STAT.MISSING i).toCold
      FUS_SRC_STAT.DROP i).toCold FUS_SRC_STAT.EXTRA i
    (s.toCold FUS_SRC_STAT.OFS i).srcState i srcActive s.fus.nextK

/-- A write of 0 to ENABLE (08 R199, R207). -/
def State.sourceDisable (s : State) (i : Nat) : State :=
  if !s.flag ING_SRC.ENABLE i then s
  else
    let x := s.srt i
    let s := if x.high.isSome then s.emit (.frameSync i false) else s
    let s := s.setSrc i { x with open_ := none, skip := none, received := [], next := none, edges := [], high := none,
                                 written := x.complete }
    (s.wr ING_SRC.ENABLE 0 i).srcState i srcDisabled s.fus.nextK

/-- The aligner as RUN finds it, and every stream's history gone. -/
def State.freshAligner (s : State) : State :=
  (List.range 32).foldl (fun s i =>
    s.setSrc i { s.srt i with open_ := none, skip := none, received := [], samples := [], windows := [], prevSlot := none,
                              edges := [], written := 0, complete := 0, listed := 0, sinceDue := 0, lates := [],
                              good := 0, pulsed := none, high := none })
    { s with fus := { FusionSt.cold with srcs := s.fus.srcs } }

/-- Every entry of the ego-pose ring invalid (08 R215). -/
def State.clearPoses (s : State) : State :=
  (List.range 64).foldl (fun s e => s.memWrite (s.rd FUS_POSE.BASE / 4096 * 4096 + e * 64 + 0x3C) (leBytes 4 0)) s

/-- The merge of the two sides at its start. -/
def State.freshMerge (s : State) : State :=
  { s with saf := { s.saf with primaryOld := true, shadowOld := true, primaryNext := 1, shadowNext := 2, shadowLive := true,
                               settled := [], forced := [] } }

/-- RUN from 0 to 1: the aligner starts at instant 0 and the ego-pose ring is invalid (08 R215, R226, R228). -/
def State.runStart (s : State) : State :=
  if s.flag FUS_CTL.RUN then s
  else (s.freshAligner.clearPoses.freshMerge.wr FUS_CTL.RUN 1).toCold FUS_STAT.RELEASED

/-- The heads of the field queues that are FRAMEs complete with FORMAT_ERROR, cause 0x04 (08 R209). -/
def State.endFrames (s : State) : State :=
  let heads := (List.finRange 17).flatMap (fun f => (List.range 4).filterMap (fun c => s.headIs (.field f) c 0x31))
  heads.foldl (fun s c => s.endQueued c 0x40 0x04 0) s

/-- RUN written 0: the aligner stops, input is discarded, and waiting FRAMEs complete (08 R199, R209). -/
def State.runStop (s : State) : State :=
  if !s.flag FUS_CTL.RUN then s
  else
    let s := (List.range 32).foldl (fun s i =>
      let x := s.srt i
      let s := if x.high.isSome then s.emit (.frameSync i false) else s
      s.setSrc i { x with open_ := none, skip := none, received := [], edges := [], high := none, written := x.complete }) s
    (s.wr FUS_CTL.RUN 0).endFrames

/-- A register write that only firmware may make. -/
def State.byFirmware (s : State) (src : Source) (addr : Nat) (f : State → State) : State :=
  if s.who src = .firmware then f s else s.denied (s.who src) addr

/-- SOURCE_ENABLE. -/
def execSourceEnable (src : Source) (source : Fin 32) (s : State) : Ans :=
  .next (s.byFirmware src (RegName.ingSrc.addr source) (fun s => s.sourceEnable source))

/-- SOURCE_DISABLE. -/
def execSourceDisable (src : Source) (source : Fin 32) (s : State) : Ans :=
  .next (s.byFirmware src (RegName.ingSrc.addr source) (fun s => s.sourceDisable source))

/-- FUS_RUN_START. -/
def execFusRunStart (src : Source) (s : State) : Ans :=
  .next (s.byFirmware src RegName.fusCtl.addr State.runStart)

/-- FUS_RUN_STOP. -/
def execFusRunStop (src : Source) (s : State) : Ans :=
  .next (s.byFirmware src RegName.fusCtl.addr State.runStop)

end Sys2Proof.Machine
end

