-- ==== Sys2Proof/Machine/Render.lean ====
section
/-! DEFINITION. The render engine (09 R232–R241): the render header, binning with the tile-list pools, flushes, the final
pass and fast clear. What a draw stream paints is open (its encoding is that of a driver): each primitive changes a tile's
contents by a free function, and the primitives of a tile act in sequence order, whatever flushes lie between (09 R237,
R241). Which raster core or pair of cores renders a tile changes the time alone. -/

namespace Sys2Proof.Machine

/-! ## Image descriptors (09 R234) -/

/-- An image descriptor. -/
structure Img where
  fmt : Nat
  samples : Nat
  w : Nat
  h : Nat
  base : Nat
  flags : Nat
  clearA : Bytes
  clearB : Bytes
  warp : Nat
  rsv : Nat
  deriving DecidableEq, Repr

/-- The descriptor that 64 bytes spell. -/
def imgOfBytes (b : Bytes) : Img :=
  ⟨Bytes.num b 0 1, Bytes.num b 1 1, Bytes.num b 4 2, Bytes.num b 6 2, Bytes.num b 8 8, Bytes.num b 0x10 8,
   Bytes.sub b 0x18 16, Bytes.sub b 0x28 16, Bytes.num b 0x38 8, Bytes.num b 2 2⟩

/-- Bytes per sample of a format code; none where it is reserved. -/
def fmtBytes (f : Nat) : Option Nat :=
  if f = 4 ∨ f = 0x12 then some 8 else if f = 6 then some 16
  else if f = 1 ∨ f = 2 ∨ f = 3 ∨ f = 5 ∨ f = 0x10 ∨ f = 0x11 then some 4 else none

/-- Bytes per sample, and per pixel. -/
def Img.sample (i : Img) : Nat := (fmtBytes i.fmt).getD 4
def Img.pixel (i : Img) : Nat := i.sample * i.samples
/-- Tiles in a row of an image. -/
def Img.tx (i : Img) : Nat := (i.w + 31) / 32

/-- A clear value fills one sample: its upper bytes are zero. -/
def Img.clearBad (i : Img) (v : Bytes) : Bool := (v.drop i.sample).any (· != 0)

/-- A descriptor breaks its table. -/
def Img.bad (i : Img) : Bool :=
  i.clearBad i.clearA || i.clearBad i.clearB || (fmtBytes i.fmt).isNone || !(i.samples == 1 || i.samples == 2 || i.samples == 4 || i.samples == 8) || i.rsv != 0 ||
  decide (i.w < 1 ∨ i.w > 8192 ∨ i.h < 1 ∨ i.h > 8192) || i.base % 4096 != 0

/-- Bytes of an image. -/
def Img.size (i : Img) : Nat := i.tx * ((i.h + 31) / 32) * 1024 * i.pixel

/-- Address of a tile. -/
def Img.tileAt (i : Img) (k : Nat) : Nat := i.base + k * 1024 * i.pixel

/-- Address of a pixel. -/
def Img.pixelAt (i : Img) (x y : Nat) : Nat :=
  i.tileAt (y / 32 * i.tx + x / 32) + (y % 32 * 32 + x % 32) * i.pixel

/-! ## The render header (09 R233) -/

/-- An attachment. -/
structure Att where
  depth : Bool
  load : Nat
  transient : Bool
  buf : Nat
  img : Img
  deriving DecidableEq, Repr

/-- A RENDER as its header states it. -/
structure Frame9 where
  cmd : Cmd
  wins : List Win
  tt : Bool
  resolve : Bool
  w : Nat
  h : Nat
  atts : List Att
  pool : Nat
  ttPool : Nat
  flush : Nat
  deriving DecidableEq, Repr

/-- What the render engine does at an address: a read, a write, or a read of its own staging data (flag arrays and the flush
area), for which an entry with WRITE is enough (09 R236, R239). -/
inductive Reach where
  | read
  | write
  | staging
  deriving DecidableEq, Repr

/-- The entry of the buffer list in which an access lies. -/
def inEntry (ws : List Win) (a n : Nat) (k : Reach) : Option Win :=
  ws.find? (fun w => decide (w.base ≤ a ∧ a + n ≤ w.base + w.len) && (match k with
    | .read => w.rd
    | .write => w.wr
    | .staging => w.rd || w.wr))

/-- Bytes as the render engine reads them: zero outside the buffer list. -/
def State.rndRead (s : State) (c : Cmd) (ws : List Win) (a n : Nat) (k : Reach) : Bytes :=
  match inEntry ws a n k with
  | some w => s.targetRead (s.target c.ctx w.fabric a) n []
  | none => List.replicate n 0

/-- The state of a RENDER in progress: an access went outside the buffer list; a word read was poisoned; the number of its
draw of free values. -/
structure Draw where
  s : State
  outside : Bool
  bad : Bool
  num : Nat

/-- An access that reads. -/
def Draw.touch (d : Draw) (c : Cmd) (ws : List Win) (a n : Nat) (k : Reach) : Draw :=
  match inEntry ws a n k with
  | some w =>
    let t := d.s.target c.ctx w.fabric a
    { d with s := d.s.targetTouch c.ctx t n, bad := d.bad || d.s.targetBad t n != [] }
  | none => { d with outside := true }

/-- An access that writes. -/
def Draw.write (d : Draw) (c : Cmd) (ws : List Win) (a : Nat) (bs : Bytes) : Draw :=
  match inEntry ws a bs.length .write with
  | some w => { d with s := d.s.targetWrite c.ctx (d.s.target c.ctx w.fabric a) bs }
  | none => { d with outside := true }

/-- An access that writes `n` bytes the manual leaves open. -/
def Draw.paint (d : Draw) (c : Cmd) (ws : List Win) (a n : Nat) : Draw :=
  if n = 0 then d
  else
    let bs := d.s.freeBytes n
    { d with s := d.s.drawn }.write c ws a bs

/-- An attachment record of the header and its descriptor. -/
def State.attOf (s : State) (c : Cmd) (ws : List Win) (hdr : Bytes) (i : Nat) : Att :=
  let o := 0x20 + i * 16
  ⟨Bytes.num hdr o 1 == 1, Bytes.num hdr (o + 1) 1, Bytes.num hdr (o + 2) 1 == 1, Bytes.num hdr (o + 3) 1,
   imgOfBytes (s.rndRead c ws (Bytes.num hdr (o + 8) 8) 64 .read)⟩

/-- An attachment record breaks its table. -/
def attBad (hdr : Bytes) (i : Nat) (ws : List Win) : Bool :=
  let o := 0x20 + i * 16
  decide (Bytes.num hdr o 1 > 1 ∨ Bytes.num hdr (o + 1) 1 > 3 ∨ Bytes.num hdr (o + 2) 1 > 1) ||
  Bytes.num hdr (o + 4) 4 != 0 || !((ws[Bytes.num hdr (o + 3) 1]?).any (·.wr))

/-- An attachment's image does not lie in the entry that its record names. -/
def Att.misplaced (a : Att) (ws : List Win) : Bool :=
  match ws[a.buf]? with
  | some w => !decide (w.base ≤ a.img.base ∧ a.img.base + a.img.size ≤ w.base + w.len)
  | none => true

def tilesX (w : Nat) : Nat := (w + 31) / 32

/-- Tiles of the render area. -/
def Frame9.tiles (f : Frame9) : Nat := tilesX f.w * tilesX f.h

/-- Combined footprint of the TRANSIENT attachments. -/
def Frame9.transientBytes (f : Frame9) : Nat :=
  ((f.atts.filter (·.transient)).map (·.img.pixel)).foldl (· + ·) 0

/-- The frame that a RENDER's header states. -/
def State.frame9 (s : State) (c : Cmd) (ws : List Win) (hdr : Bytes) : Frame9 :=
  let fl := Bytes.num hdr 2 2
  ⟨c, ws, fl.testBit 0, fl.testBit 1, Bytes.num hdr 4 2, Bytes.num hdr 6 2,
   (List.range (min (Bytes.num hdr 8 1) 9)).map (s.attOf c ws hdr), Bytes.num hdr 9 1, Bytes.num hdr 10 1, Bytes.num hdr 11 1⟩

/-- A pool entry breaks its sizes (09 R235). -/
def poolEntryBad (w : Option Win) (lo hi need : Nat) : Bool :=
  match w with
  | none => true
  | some w => !w.rd || !w.wr || w.len % 65536 != 0 || decide (w.len < lo ∨ w.len > hi ∨ w.len < need)

/-- The header, an attachment, a descriptor or a pool breaks its table: FORMAT_ERROR, cause 4 (09 R233–R236). -/
def Frame9.bad (f : Frame9) (hdr : Bytes) : Bool :=
  let n := Bytes.num hdr 8 1
  let t := f.tiles
  let colours := (f.atts.filter (fun a => !a.depth)).length
  Bytes.num hdr 0 2 != 1 || decide (Bytes.num hdr 2 2 ≥ 4 ∨ f.w < 1 ∨ f.w > 8192 ∨ f.h < 1 ∨ f.h > 8192 ∨ n < 1 ∨ n > 9) ||
  decide (colours > 8 ∨ n > colours + 1) || (Bytes.sub hdr 0x0C 20).any (· != 0) ||
  (Bytes.sub hdr (0x20 + n * 16) ((9 - n) * 16)).any (· != 0) || (Bytes.sub hdr 0xB0 80).any (· != 0) ||
  (List.range n).any (fun i => attBad hdr i f.wins) || f.atts.any (fun a => a.misplaced f.wins) ||
  f.atts.any (fun a => a.img.bad || a.depth != decide (a.img.fmt ≥ 0x10) || decide (a.img.w < f.w ∨ a.img.h < f.h)) ||
  f.atts.any (fun a => (f.atts.head?).any (fun b => a.img.samples != b.img.samples)) ||
  decide ((f.atts.map (·.img.pixel)).foldl (· + ·) 0 > 512) ||
  poolEntryBad f.wins[f.pool]? (8 * 2 ^ 20) (256 * 2 ^ 20) (t * 528 + 1024) ||
  (if f.tt then poolEntryBad f.wins[f.ttPool]? 65536 (8 * 2 ^ 20) (t * 16) else f.ttPool != 0xFF) ||
  (f.atts.any (·.transient) && match f.wins[f.flush]? with
    | some w => !w.wr || decide (w.len < t * 1024 * f.transientBytes)
    | none => true) ||
  (f.flush != 0xFF && f.wins[f.flush]?.isNone)

/-! ## Binning (09 R235, R236, R238) -/

/-- The binner: bytes allocated in each pool, the primitives in each tile's lists in sequence order, tiles flushed so far and
overflows. -/
structure Bin where
  d : Draw
  used : Nat
  lists : Sparse (List Nat)
  ttUsed : Nat
  ttLists : Sparse (List Nat)
  flushed : Sparse Bool
  overflows : Nat
  ttFull : Bool

/-- Tiles that a box overlaps. -/
def Frame9.boxTiles (f : Frame9) (b : Nat × Nat × Nat × Nat) : List Nat :=
  let tx := tilesX f.w
  (List.range (tilesX f.h)).flatMap (fun j => (List.range tx).filterMap (fun i =>
    if b.1 < i * 32 + 32 ∧ i * 32 ≤ b.2.2.1 ∧ b.2.1 < j * 32 + 32 ∧ j * 32 ≤ b.2.2.2 then some (j * tx + i) else none))

/-- Bytes that a primitive allocates: its record, and a chunk for each tile whose list needs room. -/
def primBytes (p : DrawPrim) (lists : Sparse (List Nat)) (ts : List Nat) : Nat :=
  64 + 48 * p.outputs.val + (ts.filter (fun t => (Sparse.look [] lists t).length % 63 == 0)).length * 512

/-- References to primitive `n` added. -/
def addRefs (lists : Sparse (List Nat)) (ts : List Nat) (n : Nat) : Sparse (List Nat) :=
  ts.foldl (fun l t => Sparse.change [] l t (· ++ [n])) lists

/-- A tile's place in an attachment's image. -/
def Frame9.imageTile (f : Frame9) (i : Img) (t : Nat) : Nat := t / tilesX f.w * i.tx + t % tilesX f.w

/-- The flag of an image tile set: its byte is read and written again. -/
def Draw.setFlag (d : Draw) (f : Frame9) (i : Img) (k v : Nat) : Draw :=
  if i.flags = 0 then d
  else
    let a := i.flags + k / 4
    let old := leNat (d.s.rndRead f.cmd f.wins a 1 .staging)
    let sh := 2 ^ (2 * (k % 4))
    (d.touch f.cmd f.wins a 1 .staging).write f.cmd f.wins a (leBytes 1 (old - old / sh % 4 * sh + v * sh))

/-- The flag of an image tile; 0b11 reads as in memory (09 R239). -/
def tileFlag (read : Nat → Nat → Bytes) (i : Img) (k : Nat) : Nat :=
  if i.flags = 0 then 0
  else
    let v := leNat (read (i.flags + k / 4) 1) / 2 ^ (2 * (k % 4)) % 4
    if v = 3 then 0 else v

/-- The flag of a tile of an attachment. -/
def Draw.flagOf (d : Draw) (f : Frame9) (a : Att) (t : Nat) : Nat :=
  tileFlag (fun x n => d.s.rndRead f.cmd f.wins x n .staging) a.img (f.imageTile a.img t)

/-- Clear value A (1) or B (2) in every sample of a tile. -/
def Att.clearTile (a : Att) (v : Nat) : Bytes :=
  (List.replicate (1024 * a.img.samples) ((if v = 1 then a.img.clearA else a.img.clearB).take a.img.sample)).flatten

/-- Bytes of a tile of an attachment. -/
def Att.tileLen (a : Att) : Nat := 1024 * a.img.pixel

/-- A tile rendered: bytes stored to its image, its flag 0b00. -/
def Draw.storeTile (d : Draw) (f : Frame9) (a : Att) (t : Nat) (bs : Bytes) : Draw :=
  let k := f.imageTile a.img t
  (d.write f.cmd f.wins (a.img.tileAt k) bs).setFlag f a.img k 0

/-- Where a TRANSIENT attachment's tile lies in the flush area: after those of the TRANSIENT attachments before it. -/
def Frame9.flushAt (f : Frame9) (n t : Nat) : Nat :=
  (f.wins.getD f.flush ⟨0, 0, false, false, false, 0⟩).base + t * 1024 * f.transientBytes +
    (((f.atts.take n).filter (·.transient)).map Att.tileLen).foldl (· + ·) 0

/-- Where a flush left attachment `n` of a tile. -/
def Frame9.leftAt (f : Frame9) (a : Att) (n t : Nat) : Nat :=
  if a.transient then f.flushAt n t else a.img.tileAt (f.imageTile a.img t)

/-- A tile's attachments as a pass finds them: where a flush left them, or as LOAD says (09 R233, R236, R239). -/
def Draw.contents (d : Draw) (f : Frame9) (flushed : Bool) (t : Nat) : List Bytes :=
  f.atts.zipIdx.map (fun (a, n) =>
    if flushed then d.s.rndRead f.cmd f.wins (f.leftAt a n t) a.tileLen .staging
    else if a.load = 1 ∨ a.load = 2 then a.clearTile a.load
    else if a.load = 3 then d.s.freeBytes a.tileLen
    else match d.flagOf f a t with
      | 0 => d.s.rndRead f.cmd f.wins (a.img.tileAt (f.imageTile a.img t)) a.tileLen .read
      | v => a.clearTile v)

/-- The accesses that finding them makes. -/
def Draw.loadTile (d : Draw) (f : Frame9) (flushed : Bool) (t : Nat) : Draw :=
  f.atts.zipIdx.foldl (fun d (a, n) =>
    if flushed then d.touch f.cmd f.wins (f.leftAt a n t) a.tileLen .staging
    else if a.load = 3 then { d with s := d.s.drawn }
    else if a.load = 0 ∧ d.flagOf f a t = 0 then
      d.touch f.cmd f.wins (a.img.tileAt (f.imageTile a.img t)) a.tileLen .read
    else d) d

/-- Contents cut to the tiles of the attachments. -/
def Frame9.fit (f : Frame9) (c : List Bytes) : List Bytes := f.atts.zipIdx.map (fun (a, n) => Bytes.pad (c.getD n []) a.tileLen)

/-- A pass over a tile: its primitives change the contents one after another, in sequence order. -/
def Draw.pass (d : Draw) (f : Frame9) (flushed : Bool) (t : Nat) (ps : List Nat) : List Bytes :=
  ps.foldl (fun c p => f.fit (Config.painted d.num p t c)) (d.contents f flushed t)

/-- A tile rendered between passes: its STORE attachments go to their images, the TRANSIENT ones to the flush area. -/
def Draw.flushTile (d : Draw) (f : Frame9) (flushed : Bool) (t : Nat) (ps : List Nat) : Draw :=
  let c := d.pass f flushed t ps
  f.atts.zipIdx.foldl (fun d (a, n) =>
    if a.transient then d.write f.cmd f.wins (f.flushAt n t) (c.getD n []) else d.storeTile f a t (c.getD n [])) (d.loadTile f flushed t)

/-- The binner's data in a pool: the directory, records and chunks up to `used`, whose bits the manual leaves open. -/
def Draw.poolData (d : Draw) (f : Frame9) (buf used : Nat) : Draw :=
  d.paint f.cmd f.wins (f.wins.getD buf ⟨0, 0, false, false, false, 0⟩).base used

/-- A main-pool overflow: every tile with a non-empty main list is rendered, and the pool is emptied, its directory zeroed
(09 R236). -/
def Bin.overflow (b : Bin) (f : Frame9) : Bin :=
  let d := b.lists.foldl (fun d x => d.flushTile f (Sparse.look false b.flushed x.1) x.1 x.2) (b.d.poolData f f.pool b.used)
  let d := d.write f.cmd f.wins (f.wins.getD f.pool ⟨0, 0, false, false, false, 0⟩).base (List.replicate (f.tiles * 16) 0)
  { b with d := { d with s := d.s.inc RND_STAT.OVERFLOWS },
           used := f.tiles * 16, lists := [],
           flushed := b.lists.foldl (fun m x => Sparse.put false m x.1 true) b.flushed,
           overflows := b.overflows + 1 }

/-- The primitive of sequence number `n` binned. -/
def Bin.prim (b : Bin) (f : Frame9) (len ttLen : Nat) (n : Nat) (p : DrawPrim) : Bin :=
  match p.box with
  | none => b
  | some box =>
    let ts := f.boxTiles box
    if b.ttFull || ts.isEmpty then b
    else
      let b := if p.outside then { b with d := { b.d with outside := true } } else b
      if p.telltale && f.tt then
        let k := primBytes p b.ttLists ts
        if b.ttUsed + k > ttLen then { b with ttFull := true }
        else { b with ttUsed := b.ttUsed + k, ttLists := addRefs b.ttLists ts n }
      else
        let b := if b.used + primBytes p b.lists ts > len then b.overflow f else b
        { b with used := b.used + primBytes p b.lists ts, lists := addRefs b.lists ts n }

/-! ## The final pass and fast clear (09 R237–R239) -/

/-- A tile with empty lists that was never flushed: the flag of a clear, or the tile written in full where there is no flag
array or RESOLVE asks for it. With RESOLVE that holds for a tile that was cleared before, too (09 R239). -/
def Draw.emptyTile (d : Draw) (f : Frame9) (t : Nat) : Draw :=
  f.atts.foldl (fun d a =>
    let k := f.imageTile a.img t
    let clears := a.load == 1 || a.load == 2
    let v := if clears then a.load else if f.resolve then d.flagOf f a t else 0
    if a.transient || v == 0 then d
    else if a.img.flags != 0 && !f.resolve then d.setFlag f a.img k v
    else d.storeTile f a t (a.clearTile v)) d

/-- One tile of the final pass: its main list, then its telltale list (09 R238). -/
def Bin.final (b : Bin) (f : Frame9) (t : Nat) : Bin :=
  let fl := Sparse.look false b.flushed t
  let ps := Sparse.look [] b.lists t ++ Sparse.look [] b.ttLists t
  if ps = [] then (if fl then b else { b with d := b.d.emptyTile f t })
  else
    let c := b.d.pass f fl t ps
    { b with d := f.atts.zipIdx.foldl (fun d (a, n) => if a.transient then d else d.storeTile f a t (c.getD n []))
                    (b.d.loadTile f fl t) }

/-! ## RENDER -/

/-- A raster core is ON: enabled, in service and powered (09 R232, R233, 01 R28, 16 R399). -/
def State.coreOn (s : State) (c : Nat) : Bool :=
  decide (c < s.rd RND_CFG.CORES_EN) && (s.rd RND_CFG.IN_SVC).testBit c && s.rd PWR_DOM.STATE (15 + c / 4) == domOn

/-- The command ends: its status and its result. -/
def State.endRender (s : State) (j : Job) (ws : List Win) (status result : Nat) (bad : Bool) : State :=
  s.changeJob j.cmd.serial (fun j => { j with started := true, wins := ws, outcome := .ended status 0 result, tainted := bad })

/-- The frame is binned and rendered. -/
def State.runRender (s : State) (j : Job) (f : Frame9) (prims : List DrawPrim) : State :=
  let c := j.cmd
  let len (i : Nat) : Nat := (f.wins.getD i ⟨0, 0, false, false, false, 0⟩).len
  let d := (Draw.mk s.drawn false false s.freeCount).touch c f.wins (c.op 0x18 8) (max 256 (c.op 0x20 4)) .read
  let b0 : Bin := ⟨d, f.tiles * 16, [], f.tiles * 16, [], [], 0, false⟩
  let b := prims.zipIdx.foldl (fun b p => b.prim f (len f.pool) (len f.ttPool) p.2 p.1) b0
  let b := { b with d := b.d.poolData f f.pool b.used }
  let b := if f.tt then { b with d := b.d.poolData f f.ttPool b.ttUsed } else b
  let r := b.overflows % 2 ^ 32
  if b.ttFull then (b.d.s.inc RND_STAT.TT_OVERFLOW).endRender j f.wins 0x30 r false
  else
    let e := (List.range f.tiles).foldl (fun b t => b.final f t) b
    if e.d.outside then e.d.s.endRender j f.wins 0x30 r false
    else e.d.s.endRender j f.wins 0 r e.d.bad

/-- RENDER: the draw stream is binned into tile lists and rendered into its attachments. -/
def execRender (prims : List DrawPrim) (s : State) : Ans :=
  if (Sparse.look none s.engKill 0).isSome then .next s
  else match s.unstarted .render 0x50 with
  | none => .next s
  | some j =>
    let c := j.cmd
    let b := c.bufOp
    let u := s.bufTouch c b.1 b.2
    match s.bufList c b.1 b.2 with
    | .error e => .next (u.refuseJob c.serial e)
    | .ok ws =>
      let hdr := s.rndRead c ws (c.op 0x18 8) 256 .read
      let f := s.frame9 c ws hdr
      if !(List.range 8).any s.coreOn then .next (u.refuseJob c.serial 2)
      else if f.bad hdr then .next (u.refuseJob c.serial 4)
      else .next (u.runRender j f prims)

end Sys2Proof.Machine
end

