-- ==== Sys2Proof/Machine/Cockpit.lean ====
section
/-! DEFINITION. Display heads (09 R242–R251): frame times, PRESENT, the latch, late reprojection, scanout and the telltale
checker. -/

namespace Sys2Proof.Machine

/-! ## Frame times (09 R243) -/

/-- A head's runtime. -/
def State.head (s : State) (h : Nat) : HeadRt := Sparse.look HeadRt.rest s.disp.heads h
def State.setHead (s : State) (h : Nat) (x : HeadRt) : State :=
  { s with disp := { s.disp with heads := Sparse.put HeadRt.rest s.disp.heads h x } }

/-- The head is ON. -/
def State.headOn (s : State) (h : Nat) : Bool := s.rd DSP_HEAD.STATE h == 2

/-- Π as a fraction of nanoseconds. -/
def State.framePi (s : State) (h : Nat) : Nat × Nat :=
  if s.flag DSP_HEAD.REFRESH h then (25000000, 3) else (50000000, 3)

/-- S_n. -/
def State.frameAt (s : State) (h n : Nat) : Nat := s.rd DSP_HEAD.EPOCH h + n * (s.framePi h).1 / (s.framePi h).2

/-- Frames that have started by vehicle time `t`: the number of the next frame. -/
def State.frameNext (s : State) (h t : Nat) : Nat :=
  let e := s.rd DSP_HEAD.EPOCH h
  if t < e then 0 else ((t - e + 1) * (s.framePi h).2 + (s.framePi h).1 - 1) / (s.framePi h).1

/-- The first frame that starts at least Π after a step of vehicle time (09 R243). -/
def State.headStep (s : State) (h : Nat) : State :=
  if !s.headOn h then s
  else
    let t := s.vehicleNs
    let pi := (s.framePi h).1 / (s.framePi h).2 + 1
    let n := s.frameNext h (t + pi - 1)
    s.setHead h { s.head h with resume := some n, latched := none, started := none }

/-- A display event (09 R251). -/
def State.dispEvent (s : State) (type head detail : Nat) : State := s.event (s.rd DSP_CFG.EVT_VEF) type head detail

/-! ## PRESENT (09 R244) -/

/-- The image of a PRESENT cannot be shown on its head. -/
def State.presentBad (s : State) (h : Nat) (i : Img) : Bool :=
  !s.headOn h || decide (i.fmt < 1 ∨ i.fmt > 4) || i.samples != 1 || i.w != s.rd DSP_HEAD.H_ACTIVE h ||
    i.h != s.rd DSP_HEAD.V_ACTIVE h

/-- A PRESENT completes: SKIPPED, or latched at frame `n`. What the low word holds of a PRESENT that was never latched is
open. -/
def State.endPresent (s : State) (p : Present) (n : Option Nat) (warped : Bool) : State :=
  let s := { s with disp := { s.disp with pend := s.disp.pend.filter (fun q => q.cmd.serial != p.cmd.serial) } }
  match n with
  | some n => s.complete p.cmd 0 0 (n % 2 ^ 32 + b2n warped * 2 ^ 33)
  | none => s.drawn.complete p.cmd 0 0 ((Config.freeWord s.freeCount 0).toNat + 2 ^ 32)

/-- Pending PRESENTs of a head, oldest first. -/
def State.pendOf (s : State) (h : Nat) : List Present := s.disp.pend.filter (fun p => p.head == h)

/-- PRESENT: a head's image joins its pending list. -/
def execPresent (cls : Fin 4) (s : State) : Ans :=
  match s.headIs .render cls 0x51 with
  | none => .next s
  | some c =>
    if s.waits c || !s.vefRuns c.vef then .next s
    else
      let h := c.op 0x20 1
      let a := c.op 0x18 8
      let d := s.ctxRead c.ctx a 64
      let bad := s.ctxBad c.ctx a 64 != []
      let t := s.ctxTouch c.ctx a 64
      if bad then .next (t.endQueued c 0x30 0 0)
      else if s.presentBad h (imgOfBytes d) then .next (t.endQueued c 0x40 4 0)
      else
        let t := t.dequeue c.serial
        let t := match t.pendOf h with
          | p :: _ => if (t.pendOf h).length ≥ 4 then t.endPresent p none false else t
          | [] => t
        .next { t with disp := { t.disp with pend := t.disp.pend ++ [⟨h, c, d⟩] } }

/-! ## Late reprojection (09 R247–R249) -/

def Mat.t (m : Mat) : Mat := ⟨⟨m.r0.x, m.r1.x, m.r2.x⟩, ⟨m.r0.y, m.r1.y, m.r2.y⟩, ⟨m.r0.z, m.r1.z, m.r2.z⟩⟩
def Mat.comp (a b : Mat) : Mat :=
  let c := b.t
  ⟨⟨a.r0.dot c.r0, a.r0.dot c.r1, a.r0.dot c.r2⟩, ⟨a.r1.dot c.r0, a.r1.dot c.r1, a.r1.dot c.r2⟩,
   ⟨a.r2.dot c.r0, a.r2.dot c.r1, a.r2.dot c.r2⟩⟩
def Mat.add (a b : Mat) : Mat := ⟨a.r0.add b.r0, a.r1.add b.r1, a.r2.add b.r2⟩
/-- The matrix whose columns a linear map gives the unit vectors. -/
def Mat.ofMap (f : Vec → Vec) : Mat := (Mat.mk (f ⟨1, 0, 0⟩) (f ⟨0, 1, 0⟩) (f ⟨0, 0, 1⟩)).t
/-- The adjugate: the inverse but for the factor that homogeneous division removes. -/
def Mat.adj (m : Mat) : Mat := (Mat.mk (m.r1.cross m.r2) (m.r2.cross m.r0) (m.r0.cross m.r1)).t
def Mat.det (m : Mat) : Rat := m.r0.dot (m.r1.cross m.r2)

/-- Orientation and position of a pose record, with its velocity and rate; none where a value is not finite. -/
structure Pose where
  time : Nat
  p : Vec
  r : Mat
  v : Vec
  om : Vec
  deriving DecidableEq

def poseOf (b : Bytes) (still : Bool) : Option Pose := do
  let zero : Vec := ⟨0, 0, 0⟩
  let w ← ratAt b 0x14
  let u ← vecAt b 0x18
  let v ← if still then .some zero else vecAt b 0x24
  let om ← if still then .some zero else vecAt b 0x30
  .some ⟨Bytes.num b 0 8, ← vecAt b 8, Mat.ofMap (quatRot w u), v, om⟩

/-- What the warper computes once for a frame: R_Δ, t_Δ and K. -/
structure Reproj where
  rd : Mat
  td : Vec
  k : Mat
  deriving DecidableEq

/-- t_s − TIME_q in nanoseconds (09 R248). -/
def State.warpDelta (s : State) (h : Nat) (w : Warp) : Rat :=
  let pi : Rat := (s.framePi h).1 / (s.framePi h).2
  (w.sigma : Nat) + 2000000 + pi * ((s.rd DSP_HEAD.V_ACTIVE h : Nat) / 2) / ((s.rd DSP_HEAD.V_TOTAL h : Nat) : Rat) -
    ((Bytes.num w.pose 0 8 : Nat) : Rat)

/-- The motion from the render pose to the predicted pose (09 R248). -/
def State.reproj (s : State) (h : Nat) (w : Warp) : Option Reproj := do
  let q ← poseOf w.pose false
  let z ← poseOf (Bytes.sub w.record 0 64) true
  let fx ← ratAt w.record 0x40
  let fy ← ratAt w.record 0x44
  let cx ← ratAt w.record 0x48
  let cy ← ratAt w.record 0x4C
  let re ← matAt w.record 0x50
  let te ← vecAt w.record 0x74
  let d := s.warpDelta h w / 1000000000
  let r1 := q.r.comp (Mat.ofMap (expRot (Vec.smul d q.om)))
  let p1 := q.p.add (Vec.smul d q.v)
  let c1 := p1.add (r1.mul te)
  let c0 := z.p.add (z.r.mul te)
  let rc1 := r1.comp re
  .some ⟨rc1.t.comp (z.r.comp re), rc1.t.mul (c0.add (Vec.smul (-1) c1)), ⟨⟨fx, 0, cx⟩, ⟨0, fy, cy⟩, ⟨0, 0, 1⟩⟩⟩

/-- H of a cell, without its last factor's scale: K (R_Δ + t_Δ nᵀ / d) K⁻¹. -/
def Reproj.homography (r : Reproj) (record : Bytes) (c : Nat) : Option Mat := do
  let n ← vecAt record (0x80 + c * 16)
  let d ← ratAt record (0x80 + c * 16 + 12)
  let m := if d ≤ 0 then r.rd
    else r.rd.add ⟨Vec.smul (r.td.x / d) n, Vec.smul (r.td.y / d) n, Vec.smul (r.td.z / d) n⟩
  .some (r.k.comp (m.comp r.k.adj))

/-- The cell of a destination pixel. -/
def warpCell (w h x y : Nat) : Nat :=
  let i := ((List.range 16).find? (fun i => decide (x < (i + 1) * w / 16))).getD 15
  let j := ((List.range 9).find? (fun j => decide (y < (j + 1) * h / 9))).getD 8
  j * 16 + i

/-- Where a destination pixel comes from: a position, a point at infinity (the homogeneous division has no result), or
nowhere the manual says (a value that is not finite, a homography without an inverse). -/
inductive WarpFrom where
  | at_ (x y : Rat)
  | infinite
  | unknown
  deriving DecidableEq

/-- The source of a destination pixel, H⁻¹ x with homogeneous division. -/
def warpSource (r : Option Reproj) (record : Bytes) (w h x y : Nat) : WarpFrom :=
  match r.bind (fun r => r.homography record (warpCell w h x y)) with
  | none => .unknown
  | some m =>
    let v := m.adj.mul ⟨(x : Nat), (y : Nat), 1⟩
    if m.det = 0 then .unknown else if v.z = 0 then .infinite else .at_ (v.x / v.z) (v.y / v.z)

/-- Some destination pixel comes from more than 128 rows or 256 columns away (09 R249). -/
def warpTooFar (r : Option Reproj) (record : Bytes) (w h : Nat) : Bool :=
  (List.range h).any (fun y => (List.range w).any (fun x => match warpSource r record w h x y with
    | .at_ sx sy => decide (sx - (x : Nat) > 256 ∨ (x : Nat) - sx > 256 ∨ sy - (y : Nat) > 128 ∨ (y : Nat) - sy > 128)
    | .infinite => true
    | .unknown => false))

/-- The warper's decision at Λ_n for the image that will be shown. -/
def State.decideWarp (s : State) (h n : Nat) (p : Present) : State × Option Warp :=
  let i := imgOfBytes p.desc
  if !s.flag DSP_HEAD.WARP_EN h || i.warp == 0 then (s, none)
  else
    let record := s.ctxRead p.cmd.ctx i.warp 0x980
    let s' := s.ctxTouch p.cmd.ctx i.warp 0x980
    if !(Bytes.num record 0x3C 4).testBit 0 then (s', none)
    else
      let noPose : State × Option Warp := ((s'.inc DSP_HEAD.NOPOSE h).dispEvent 0x22 h (n % 2 ^ 32), none)
      match s.newestPose with
      | none => noPose
      | some q =>
        let w : Warp := ⟨q, record, s.sensorNs⟩
        let d := s.warpDelta h w
        if d > 100000000 ∨ d < -100000000 then noPose
        else if warpTooFar (s.reproj h w) record i.w i.h then (s'.inc DSP_HEAD.WARP_LIMIT h, none)
        else (s', some w)

/-! ## The latch (09 R245) -/

/-- A PRESENT may be shown in frame n. -/
def State.eligible (s : State) (h n : Nat) (p : Present) : Bool :=
  p.cmd.op 0x28 8 == 0 || decide (p.cmd.op 0x28 8 < s.frameAt h (n + 1))

/-- What frame n latches: the newest eligible PRESENT, the older ones skipped. -/
def State.latch (s : State) (h n : Nat) : State :=
  let el := (s.pendOf h).filter (s.eligible h n)
  let s := el.dropLast.foldl (fun s p => (s.endPresent p none false).inc DSP_HEAD.SKIPPED h) s
  let shown := match el.getLast? with
    | some p => some p
    | none => (s.head h).shown
  let r : State × Option Warp := match shown with
    | some p => s.decideWarp h n p
    | none => (s, none)
  let s := match el.getLast? with
    | some p => r.1.endPresent p (some n) r.2.isSome
    | none => r.1
  let x := s.head h
  let exp := (List.range 16).foldl (fun m i => Sparse.put 0 (Sparse.put 0 m (2 * i) (s.rd DSP_TT.EXP_A h i)) (2 * i + 1)
    (s.rd DSP_TT.EXP_B h i)) []
  s.setHead h { x with shown := shown, fresh := !el.isEmpty, latched := some n, warp := r.2, exp := exp }

/-- PRESENT_LATCH: Λ_n, 2.0 ms before the next frame starts. -/
def execPresentLatch (head : Fin 6) (s : State) : Ans :=
  let t := s.vehicleNs
  let n := s.frameNext head t
  let x := s.head head
  let held := match x.resume with
    | some r => decide (n < r)
    | none => false
  let again := match x.latched with
    | some m => decide (n ≤ m)
    | none => false
  if !s.headOn head || held || again || decide (t + 2000000 < s.frameAt head n) then .next s
  else .next (s.latch head n)

/-! ## Scanout (09 R243, R246) -/

/-- The background colour as the head sends it. -/
def State.background (s : State) (h : Nat) : Nat :=
  if s.flag DSP_HEAD.BPC10 h then s.rd DSP_HEAD.BKGND h else Config.displayed 0 0 (s.rd DSP_HEAD.BKGND h) % 2 ^ 24

/-- The components a head sends for a stored pixel: R, G and B of 8 or 10 bits, lowest first. -/
def shownColour (fmt : Nat) (bpc10 : Bool) (raw : Nat) : Nat :=
  if fmt = 1 ∧ !bpc10 then raw % 2 ^ 24
  else if fmt = 3 ∧ bpc10 then raw % 2 ^ 30
  else Config.displayed fmt (b2n bpc10) raw % (if bpc10 then 2 ^ 30 else 2 ^ 24)

/-- A pixel of the shown image, its flag resolved (09 R240). -/
def State.texel (s : State) (h : Nat) (p : Present) (x y : Nat) : Nat :=
  let i := imgOfBytes p.desc
  let k := y / 32 * i.tx + x / 32
  let raw := match tileFlag (s.ctxRead p.cmd.ctx) i k with
    | 1 => leNat (i.clearA.take i.pixel)
    | 2 => leNat (i.clearB.take i.pixel)
    | _ => leNat (s.ctxRead p.cmd.ctx (i.pixelAt x y) i.pixel)
  shownColour i.fmt (s.flag DSP_HEAD.BPC10 h) raw

/-- A pixel lies in an enabled telltale rectangle. -/
def State.inTelltale (s : State) (h x y : Nat) : Bool :=
  (List.range 16).any (fun i => s.flag DSP_TT.ENABLE h i &&
    decide (s.rd DSP_TT.X0 h i ≤ x ∧ x < s.rd DSP_TT.X0 h i + s.rd DSP_TT.W h i ∧
      s.rd DSP_TT.Y0 h i ≤ y ∧ y < s.rd DSP_TT.Y0 h i + s.rd DSP_TT.H h i))

/-- A pixel of a warped frame (09 R248). At a whole source position it is that pixel; between pixels the FP32 arithmetic of
the bilinear sample is open. DEDUCED (log entry 113): a position left of the first or right of the last pixel, above the
first or below the last row, is outside the image. -/
def State.warpedPixel (s : State) (h : Nat) (p : Present) (r : Option Reproj) (w : Warp) (x y : Nat) : Nat :=
  let i := imgOfBytes p.desc
  let top := if s.flag DSP_HEAD.BPC10 h then 2 ^ 30 else 2 ^ 24
  match warpSource r w.record i.w i.h x y with
  | .unknown => Config.warped none [] (y * 8192 + x) % top
  | .infinite => s.background h
  | .at_ sx sy =>
    if sx < 0 ∨ sy < 0 ∨ sx > i.w - 1 ∨ sy > i.h - 1 then s.background h
    else if sx = sx.floor ∧ sy = sy.floor then s.texel h p sx.floor.toNat sy.floor.toNat
    else
      let fx := sx.floor.toNat
      let fy := sy.floor.toNat
      let at_ (dx dy : Nat) : Nat := s.texel h p (min (fx + dx) (i.w - 1)) (min (fy + dy) (i.h - 1))
      Config.warped (some (sx, sy)) [at_ 0 0, at_ 1 0, at_ 0 1, at_ 1 1] 0 % top

/-- A pixel as it leaves the head. `late` lists the lines whose pixels came late, and from which column. -/
def State.scanPixel (s : State) (h : Nat) (w : Option Warp) (late : List (Nat × Nat)) (x y : Nat) : Nat :=
  if late.any (fun l => l.1 == y && decide (l.2 ≤ x)) then s.background h
  else match (s.head h).shown with
    | none => s.background h
    | some p => match w with
      | none => s.texel h p x y
      | some w => if s.inTelltale h x y then s.texel h p x y else s.warpedPixel h p (s.reproj h w) w x y

/-! ## The telltale checker (09 R250) -/

/-- The CRC of a rectangle of a frame. -/
def State.rectCrc (s : State) (h i : Nat) (w : Option Warp) (late : List (Nat × Nat)) : Nat :=
  let n := if s.flag DSP_HEAD.BPC10 h then 4 else 3
  let px := (List.range (s.rd DSP_TT.H h i)).flatMap (fun dy => (List.range (s.rd DSP_TT.W h i)).flatMap (fun dx =>
    leBytes n (s.scanPixel h w late (s.rd DSP_TT.X0 h i + dx) (s.rd DSP_TT.Y0 h i + dy))))
  crcRefl 0xEDB88320 0xFFFFFFFF px ^^^ 0xFFFFFFFF

/-- The rectangles of a frame compared. -/
def State.checkTelltales (s : State) (h n : Nat) (w : Option Warp) (late : List (Nat × Nat)) : State :=
  let on := (List.range 16).filter (fun i => s.flag DSP_TT.ENABLE h i)
  let x := s.head h
  let res := on.map (fun i => (i, s.rectCrc h i w late))
  let isA (r : Nat × Nat) : Bool := r.2 == Sparse.look 0 x.exp (2 * r.1)
  let isB (r : Nat × Nat) : Bool := r.2 == Sparse.look 0 x.exp (2 * r.1 + 1)
  let miss := (res.filter (fun r => !isA r && !isB r)).map (·.1)
  let mask (l : List Nat) : Nat := l.foldl setBit 0
  let s := s.wr DSP_TT_STAT.LAST_B (mask ((res.filter isB).map (·.1))) h
  let others := s.saf.telltale.filter (· != h)
  if miss.isEmpty then { s with saf := { s.saf with telltale := others } }
  else
    let s := s.wr DSP_TT_STAT.MISMATCH (s.rd DSP_TT_STAT.MISMATCH h ||| mask miss) h
    let s := (s.add DSP_TT_STAT.COUNT miss.length h).dispEvent 0x21 h (mask miss + n % 2 ^ 32 * 2 ^ 32)
    let s := miss.foldl (fun s _ => s.report 0x15 none) s
    { s with saf := { s.saf with telltale := h :: others } }

/-- A frame scanned out. -/
def State.scanFrame (s : State) (h n : Nat) (late : List (Nat × Nat)) : State :=
  let x := s.head h
  let late := late.filter (fun l => decide (l.1 < s.rd DSP_HEAD.V_ACTIVE h))
  let w := if x.latched = some n then x.warp else none
  let s := (s.setHead h { x with started := some n, resume := if x.resume = some n then none else x.resume }).inc DSP_HEAD.FRAMES h
  let s := if x.resume = some n then s.inc DSP_HEAD.REPEATS h else s
  let s := if w.isSome then
      let s := s.inc DSP_HEAD.WARPS h
      if x.fresh then s else s.inc DSP_HEAD.REPEATS h
    else s
  let s := s.add DSP_HEAD.UNDERFLOW late.length h
  let s := if late.isEmpty then s else s.dispEvent 0x20 h (n % 2 ^ 32)
  let s := match x.shown with
    | some p => let i := imgOfBytes p.desc
      (s.ctxTouch p.cmd.ctx i.base (i.tx * ((i.h + 31) / 32) * 1024 * i.pixel)).emit (.scanout h n w.isSome p.desc)
    | none => s.emit (.scanout h n false [])
  s.checkTelltales h n w late

/-- FRAME_START: S_n. -/
def execFrameStart (head : Fin 6) (late : List (Nat × Nat)) (s : State) : Ans :=
  let n := s.frameNext head s.vehicleNs - 1
  let x := s.head head
  let held := match x.resume with
    | some r => decide (n < r)
    | none => false
  let again := match x.started with
    | some m => decide (n ≤ m)
    | none => false
  if !s.headOn head || held || again || s.frameNext head s.vehicleNs == 0 then .next s
  else .next (s.scanFrame head n late)

end Sys2Proof.Machine
end

