-- ==== Sys2Proof/Machine/UnitOps.lean ====
section
/-! DEFINITION. The unit state machine and the switched power domains (16 R399–R403). -/

namespace Sys2Proof.Machine

/-! ## Domains (16 R396–R400) -/

/-- Rails: 0 VDD_AON, 1 VDDIO18_AON, 2 VDD_PLAIN, 3 VDD_SOC, 4 VDD_SRAM, 5 VDD_HBMPHY, 6–8 HBM VDD, VDDQ and VPP,
9 VDD_SERDES, 10 VDDIO. Those a switched domain uses; 24 is the core domain. -/
def domainRails (d : Nat) : List Nat :=
  if d ≤ 7 then [0, 2, 4]
  else if d = 9 ∨ d = 10 then [0, 5]
  else if 19 ≤ d ∧ d ≤ 21 then [0, 3, 4, 9]
  else [0, 3, 4]

/-- The rails that the device wants, by PMIC_EN and MAIN_EN (16 R396). -/
def State.wantsRail (s : State) (r : Nat) : Bool :=
  decide (r ≤ 1) || (s.mode.pmicEn && (decide (5 ≤ r ∧ r ≤ 8) || s.mode.mainEn))

/-- Every rail of a domain is valid. -/
def State.railsGood (s : State) (d : Nat) : Bool := (domainRails d).all (fun r => s.power.rails.contains r)

/-- Isolation follows the rails: the domains that are not isolated (16 R397). -/
def State.joinDomains (s : State) : State :=
  { s with power := { s.power with joined := (List.range 25).filter s.railsGood } }

/-- Clusters of a half-quadrant. -/
def halfClusters (d : Nat) : List Nat := (List.range 144).filter (fun k => clusterDomain k == d)

/-- Outside PARK_WARM and PARK_COLD. -/
def State.outsidePark (s : State) : Bool := s.cur != mWarm && s.cur != mCold

/-- A switched domain is needed (16 R399); the render engine is OFF in DEPOT (01 R16), and host cores, display, ingress, Pass
and PCIe are OFF in a boot in PARK (16 R412). -/
def State.domNeeded (s : State) (d : Nat) : Bool :=
  if s.flag PWR_DOM.HELD d then false
  else if s.parkBoot && (decide (11 ≤ d ∧ d ≤ 14) || decide (17 ≤ d ∧ d ≤ 20)) then false
  else if d ≤ 7 then
    (halfClusters d).any (fun k => (s.fieldOfCluster k).isSome) || match s.bist.slice with
      | some x => decide (x.kind ≤ 2) && (halfClusters d).contains x.unit
      | none => false
  else if d = 9 ∨ d = 10 then s.cur != mCold
  else if d ≤ 14 then if d = 8 then s.outsidePark else (s.rd PWR_CTL.HOST_ON).testBit (d - 11)
  else if d ≤ 16 then !s.depotDark && (List.range 8).any (fun c => c / 4 == d - 15 && decide (c < s.rd RND_CFG.CORES_EN) &&
    (s.rd RND_CFG.IN_SVC).testBit c)
  else if d = 17 then (List.range 6).any (fun h => s.rd DSP_HEAD.STATE h != 0)
  else if d = 18 then s.flag FUS_CTL.RUN || (List.range 32).any (fun i => s.flag ING_SRC.ENABLE i) ||
    s.queue.any (fun q => q.1 == .projector) || !(s.jobsOn .projector).isEmpty
  else if d = 19 then (List.range 4).any (fun p => Sparse.look 0 s.power.passUnit p != 0)
  else s.outsidePark

/-- A domain comes up: ON, counted. -/
def State.domainUp (s : State) (d : Nat) : State :=
  if s.rd PWR_DOM.STATE d = domOn then s else (s.wr PWR_DOM.STATE domOn d).inc PWR_DOM.UPS d

/-- Clock sources that a PLL's domains need (16 R401). -/
def State.pllNeeded (s : State) (p : Nat) : Bool :=
  let on (d : Nat) : Bool := s.rd PWR_DOM.STATE d == domOn
  if p = 0 then s.outsidePark
  else if p = 1 ∨ p = 2 then (List.range 8).any on
  else if p = 3 then on 8
  else if p ≤ 7 then on (7 + p)
  else if p = 8 then on 22
  else if p = 9 then on 23
  else if p = 10 then s.power.rails.contains 3 && s.outsidePark
  else if p ≤ 12 then on (p - 2)
  else if p = 13 then on 15 || on 16
  else if p ≤ 19 then s.rd DSP_HEAD.STATE (p - 14) != 0
  else if p = 20 then on 18
  else if p = 21 then on 19
  else if p = 22 then on 20
  else on 21

/-- PLLs that nothing needs stop (16 R401). -/
def State.stopPlls (s : State) : State := { s with power := { s.power with locked := s.power.locked.filter s.pllNeeded } }

/-! ## Units (16 R403) -/

/-- Number of a unit in BIST_UNIT (11 R294). -/
def unitBist : UnitSel → Nat
  | .pass p => 156 + p.val
  | .can c => 160 + c.val
  | .head h => 176 + h.val
  | .eth p => 182 + p.val

/-- The power domain of a unit. -/
def unitDomain : UnitSel → Nat
  | .pass _ => 19
  | .can c => if c.val ≥ 14 then 23 else 21
  | .head _ => 17
  | .eth _ => 21

/-- Bound of STARTING in ns. -/
def unitBound : UnitSel → Nat
  | .pass _ => 5000000
  | .can _ => 1000000
  | .head _ => 100000000
  | .eth _ => 10000000

def uOff : Nat := 0
def uStarting : Nat := 1
def uOn : Nat := 2
def uStopping : Nat := 3

/-- The state of a unit. A Pass port has no register of its own for it. -/
def State.unitState (s : State) : UnitSel → Nat
  | .pass p => Sparse.look 0 s.power.passUnit p
  | .can c => s.rd GW_CAN.STATE c
  | .head h => s.rd DSP_HEAD.STATE h
  | .eth p => s.rd GW_PORT.STATE p

/-- The state of a unit set; a transition's time starts. -/
def State.setUnit (s : State) (u : UnitSel) (st : Nat) : State :=
  let s := { s with power := { s.power with unitSince := Sparse.put 0 s.power.unitSince (unitBist u) s.localNs } }
  match u with
  | .pass p => { s with power := { s.power with passUnit := Sparse.put 0 s.power.passUnit p (st % 4) } }
  | .can c => s.wr GW_CAN.STATE st c
  | .head h => s.wr DSP_HEAD.STATE st h
  | .eth p => s.wr GW_PORT.STATE st p

/-- ENABLE of a unit set to what was written. -/
def State.setEnable (s : State) (u : UnitSel) (v : Nat) : State :=
  match u with
  | .pass p =>
    let rest := s.power.passOn.filter (· != p.val)
    { s with power := { s.power with passOn := if v = 1 then p.val :: rest else rest } }
  | .can c => s.wr GW_CAN.ENABLE v c
  | .head h => s.wr DSP_HEAD.ENABLE v h
  | .eth p => s.wr GW_PORT.ENABLE v p

/-- ENABLE as last written. -/
def State.unitEnabled (s : State) : UnitSel → Bool
  | .pass p => s.power.passOn.contains p.val
  | .can c => s.flag GW_CAN.ENABLE c
  | .head h => s.flag DSP_HEAD.ENABLE h
  | .eth p => s.flag GW_PORT.ENABLE p

/-- A unit that the platform configuration record holds OFF (01 R27). -/
def State.unitHeld (s : State) : UnitSel → Bool
  | .pass p => !(s.rd SYS_CFG.PASS).testBit p
  | .head h => s.flag DSP_HEAD.HELD h
  | _ => false

/-- PENDING of a unit. -/
def State.unitPending (s : State) (u : UnitSel) : Bool := s.power.pendingUnits.contains (unitBist u)

/-- PENDING set or cleared; a head shows it in its register. -/
def State.setPending (s : State) (u : UnitSel) (p : Bool) : State :=
  let rest := s.power.pendingUnits.filter (· != (unitBist u))
  let s := { s with power := { s.power with pendingUnits := if p then (unitBist u) :: rest else rest } }
  match u with
  | .head h => s.wr DSP_HEAD.PENDING (b2n p) h
  | _ => s

/-- A unit counts as in service for the move from OFF to STARTING (11 R292). -/
def State.unitServes (s : State) (u : UnitSel) : Bool := s.unitUsable (unitBist u)

/-- OFF → STARTING: the allocation decision takes a SPARE unit, but for a Pass port, which the next route generation
takes; the unit's domain is powered first. A head stays OFF in DEPOT (01 R16). -/
def State.startUnit (s : State) (u : UnitSel) : State :=
  if !s.unitServes u then s
  else match u with
    | .head h => if s.depotDark then s else (s.takeUnit (unitBist u)).setUnit (.head h) uStarting
    | .pass _ => s.setUnit u uStarting
    | _ => (s.takeUnit (unitBist u)).setUnit u uStarting

/-- ENABLE written 1. -/
def State.unitOnWrite (s : State) (u : UnitSel) : State :=
  if s.unitHeld u then s
  else
    let s := s.setEnable u 1
    let st := s.unitState u
    if st = uOff then s.startUnit u
    else if st = uStarting then s.setPending u false
    else if st = uStopping then s.setPending u true
    else s

/-- ENABLE written 0. -/
def State.unitOffWrite (s : State) (u : UnitSel) : State :=
  if s.unitHeld u then s
  else
    let s := s.setEnable u 0
    let st := s.unitState u
    if st = uStarting then s.setPending u true
    else if st = uOn then s.setUnit u uStopping
    else if st = uStopping then s.setPending u false
    else s

/-- Every unit of the device. -/
def allUnits : List UnitSel :=
  (List.finRange 4).map .pass ++ (List.finRange 16).map .can ++ (List.finRange 6).map .head ++ (List.finRange 10).map .eth

/-- A unit OFF at once, with its transition forgotten. -/
def State.unitOff (s : State) (u : UnitSel) : State := (s.setPending u false).setUnit u uOff

/-- A unit that is enabled and OFF starts again. -/
def State.restartUnit (s : State) (u : UnitSel) : State :=
  if s.unitEnabled u && !s.unitHeld u && s.unitState u == uOff then s.startUnit u else s

/-! ## The timing of a head (09 R242, R254) -/

/-- The timing of a head breaks R242, a total is not larger than its active size, or a sync pulse lies outside its
blanking. -/
def State.headTimingBad (s : State) (h : Nat) : Bool :=
  let r (f : Fld) : Nat := s.rd f h
  let ha := r DSP_HEAD.H_ACTIVE
  let va := r DSP_HEAD.V_ACTIVE
  let ht := r DSP_HEAD.H_TOTAL
  let vt := r DSP_HEAD.V_TOTAL
  let fast := s.flag DSP_HEAD.REFRESH h
  let rate := if fast then 120 else 60
  let other := (List.range 6).any (fun k => k != h && s.flag DSP_HEAD.ENABLE k && s.flag DSP_HEAD.REFRESH k)
  decide (ha > 3840 ∨ va > 2160 ∨ ht * vt * rate > 600000000) || (fast && (decide (ha > 1920 ∨ va > 720) || other)) ||
    decide (ht ≤ ha ∨ vt ≤ va) ||
    decide (r DSP_HEAD.HS_START < ha ∨ ht < r DSP_HEAD.HS_START + r DSP_HEAD.HS_WIDTH ∨
      r DSP_HEAD.VS_START < va ∨ vt < r DSP_HEAD.VS_START + r DSP_HEAD.VS_WIDTH)

/-- Counters of a head, cleared when ENABLE goes from 0 to 1. -/
def headCounters : List Fld :=
  [DSP_HEAD.FRAMES, DSP_HEAD.WARPS, DSP_HEAD.REPEATS, DSP_HEAD.NOPOSE, DSP_HEAD.WARP_LIMIT, DSP_HEAD.UNDERFLOW,
   DSP_HEAD.SKIPPED]

/-- ENABLE of a head written 1. -/
def State.headEnable (s : State) (h : Fin 6) : State :=
  if s.flag DSP_HEAD.ENABLE h then s.unitOnWrite (.head h)
  else if s.unitHeld (.head h) || s.headTimingBad h then s.inc DSP_CFG.CFG_REFUSED
  else (headCounters.foldl (fun s f => s.wr f 0 h) s).unitOnWrite (.head h)

end Sys2Proof.Machine
end

