-- ==== Sys2Proof/Machine/Power.lean ====
section
/-! DEFINITION. Rails, switched domains, clocks and the power limiter (16 R396–R402, R413, R414). -/

namespace Sys2Proof.Machine

/-! ## Rails and domains (16 R397, R400) -/

/-- RAIL_VALID: a rail reaches valid; the domains whose rails are all valid leave isolation. -/
def execRailValid (rail : Fin 11) (s : State) : Ans :=
  if s.power.rails.contains rail.val then .next s
  else .next { s with power := { s.power with rails := rail.val :: s.power.rails } }.joinDomains

/-- RAIL_INVALID: a rail leaves valid; its domains are isolated, and a rail that the device wants is supply-monitor fault
0x07. -/
def execRailInvalid (rail : Fin 11) (s : State) : Ans :=
  if !s.power.rails.contains rail.val then .next s
  else
    let t := { s with power := { s.power with rails := s.power.rails.filter (· != rail.val) } }.joinDomains
    .next (if s.wantsRail rail then t.report 0x07 none else t)

/-- DOMAIN_POWER_UP: a needed domain comes up once its rails are valid; one that has failed is refused. -/
def execDomainPowerUp (domain : Fin 24) (s : State) : Ans :=
  if s.domNeeded domain && !s.flag PWR_DOM.FAIL domain && s.railsGood domain then .next (s.domainUp domain) else .next s

/-- DOMAIN_POWER_DOWN: a domain that is no longer needed goes off. -/
def execDomainPowerDown (domain : Fin 24) (s : State) : Ans :=
  if !s.domNeeded domain && s.rd PWR_DOM.STATE domain != 0 then .next (s.wr PWR_DOM.STATE 0 domain).stopPlls else .next s

/-- Loads that wait for a domain that has failed end with cause 0x09 (04 R106). -/
def State.failLoadsIn (s : State) (d : Nat) : State :=
  (s.loads.filter (fun l => l.phase == .waitStitch && l.clusters.any (fun k => clusterDomain k == d))).foldl (fun s l =>
    if hf : l.field < 17 then s.failLoad ⟨l.field, hf⟩ l 0x09 else s) s

/-- DOMAIN_POWER_FAIL: the domain stays off until the next reset; it ends loads, or is a die-level fault. -/
def execDomainPowerFail (domain : Fin 24) (s : State) : Ans :=
  if !s.domNeeded domain || s.rd PWR_DOM.STATE domain == domOn || s.flag PWR_DOM.FAIL domain then .next s
  else
    let t := s.wr PWR_DOM.FAIL 1 domain
    if domain.val ≤ 8 then .next (t.failLoadsIn domain)
    else if domain.val ≥ 15 then .next (t.report 0x07 none)
    else .next t

/-! ## Clocks (16 R398, R401, R402) -/

/-- PLL_LOCK: a PLL started for a needed clock domain locks. -/
def execPllLock (pll : Fin 24) (s : State) : Ans :=
  if s.pllNeeded pll && !s.power.locked.contains pll.val then
    .next { s with power := { s.power with locked := pll.val :: s.power.locked } }
  else .next s

/-- A change of the arithmetic clock decided: a raise first raises VDD_PLAIN and waits for its acknowledgement. -/
def State.decideClock (s : State) (mhz : Nat) : State :=
  if s.mode.clockMhz = mhz then { s with mode := { s.mode with clockTo := none, avsWait := false } }
  else { s with mode := { s.mode with clockTo := some mhz, avsWait := decide (s.mode.clockMhz < mhz) } }

/-- AVS_ACK: the voltage stands, and a raise that waited proceeds. -/
def execAvsAck (s : State) : Ans :=
  if s.mode.avsWait then .next { s with mode := { s.mode with avsWait := false } } else .next s

/-! ## The limiter (16 R413, R414) -/

/-- The throttled classes in their order: cycles per 16 minus 1, or the host ceiling in 100 MHz; floor and top. -/
def throttles : List (Fld × Nat × Nat) :=
  [(PWR_STAT.BATCH, 0, 15), (PWR_STAT.INTER, 0, 15), (PWR_STAT.HOST, 10, 26), (PWR_STAT.RENDER, 3, 15), (PWR_STAT.RT, 7, 15)]

/-- ACTUAL of the host clusters after a change of REQ or of the ceiling (17 R427). -/
def State.hostClocks (s : State) : State :=
  s.each 4 (fun c s => s.wr HOSTC_CLK.ACTUAL (min (s.rd HOSTC_CLK.REQ c) (s.rd PWR_STAT.HOST)) c)

/-- The first class above its floor lowered by one step. -/
def State.lowerOne (s : State) : State :=
  match throttles.find? (fun x => decide (x.2.1 < s.rd x.1)) with
  | some x => s.wr x.1 (s.rd x.1 - 1)
  | none => s

/-- The last class that is throttled raised by one step. -/
def State.raiseOne (s : State) : State :=
  match throttles.reverse.find? (fun x => decide (s.rd x.1 < x.2.2)) with
  | some x => s.wr x.1 (s.rd x.1 + 1)
  | none => s

/-- The limit in force: DEPOT's from its entry to the trigger that ends it. -/
def State.wattLimit (s : State) : Nat :=
  if s.cur = mDepot ∧ s.mode.trans.isNone then s.rd PWR_LIM.DEPOT_W else s.rd PWR_LIM.DRIVE_W

/-- The end of a window: its power and hottest junction, AT_FLOOR, and one step. -/
def State.limiterStep (s : State) (p tj : Nat) : State :=
  let lim := s.wattLimit
  let tt := s.rd PWR_LIM.TJ_THROTTLE
  let s := (s.wr PWR_STAT.POWER_W (min p 1023)).wr PWR_STAT.TJ_MAX (min tj 255)
  let floor := throttles.all (fun x => decide (s.rd x.1 ≤ x.2.1)) && decide (lim < p)
  let s := s.wr PWR_STAT.AT_FLOOR (b2n floor)
  let s := if floor then s.inc PWR_STAT.FLOOR_MS else s
  let s := if lim < p ∨ tt < tj then s.lowerOne
    else if p + s.rd PWR_LIM.HYST_W < lim ∧ tj + 5 ≤ tt then s.raiseOne
    else s
  let s := s.hostClocks
  if tj > 130 then s.report 0x08 none else s

/-- LIMITER_WINDOW: the 1 ms window of local monotonic time ends with the power and the hottest junction measured. -/
def execLimiterWindow (watts tj : Nat) (s : State) : Ans :=
  if !s.outsidePark || s.localNs / 1000000 ≤ s.power.window / 1000000 then .next s
  else .next ({ s with power := { s.power with window := s.localNs / 1000000 * 1000000 } }.limiterStep watts tj)

end Sys2Proof.Machine
end

