-- ==== Sys2Proof/Machine/SafetyOps.lean ====
section
/-! DEFINITION. The shared operations of functional safety (chapter 10): fault classes and their reactions, the safe state,
and the contents of the safety status frame. -/

namespace Sys2Proof.Machine

/-! ## Classes and records (10 R261, R262, R279) -/

/-- The class of a source code: 0 none, 1 contained, 2 field, 3 device-fatal, 4 correctable. -/
def faultClass (source : Nat) : Nat :=
  if 1 ≤ source ∧ source ≤ 0x0A then 3
  else if 0x10 ≤ source ∧ source ≤ 0x16 then 1
  else if 0x20 ≤ source ∧ source ≤ 0x22 then 2
  else if 0x30 ≤ source ∧ source ≤ 0x32 then 4
  else 0

/-- Sources whose mechanisms are physical: their reports come from outside the state. -/
def physicalSource (source : Nat) : Bool :=
  decide (1 ≤ source ∧ source ≤ 8) || source == 0x30 || source == 0x31

/-- SAF_FAULT_LAST and the status frame's copy of it. -/
def State.recordFault (s : State) (r : SafReport) : State :=
  let s := (s.wr SAF_FAULT_LAST.SOURCE r.source).wr SAF_FAULT_LAST.CLASS (faultClass r.source)
  let s := (s.wr SAF_FAULT_LAST.FIELD (r.field.getD 0x1F)).wr SAF_FAULT_LAST.TIME r.at_
  { s with saf := { s.saf with lastSource := r.source, lastField := r.field.getD 0xFF } }

/-- A contained or field-class fault counted for the status frame. -/
def State.countFault (s : State) : State := { s with saf := { s.saf with faults := min (s.saf.faults + 1) 0xFFFF } }

/-! ## Contained faults (10 R265) -/

/-- Contained faults of a field in a window of WINDOW_MS that holds the fault at `t`: the window is half-open, so two faults
WINDOW_MS apart do not share one (10 R265, 14 R344). -/
def State.containedIn (s : State) (f t : Nat) : Nat :=
  (s.saf.contained.filter (fun c => c.1 == f && decide (t < c.2 + s.rd SAF_ESC.WINDOW_MS * 1000000 ∧ c.2 ≤ t))).length

/-- The reaction to a contained fault: counted, and escalated when the field's count reaches CONTAINED_MAX. -/
def State.containedFault (s : State) (r : SafReport) : State :=
  let s := ((s.inc SAF_FAULT_CNT.CONTAINED).countFault).recordFault r
  match r.field with
  | none => s
  | some f =>
    if !s.isSafety f then s
    else
      let s := { s with saf := { s.saf with contained := (f, r.at_) :: s.saf.contained } }
      if s.containedIn f r.at_ ≥ s.rd SAF_ESC.CONTAINED_MAX then s.report 0x22 (some f) else s

/-! ## Field-class faults (10 R264) -/

/-- A field stopped by a field-class fault, or held when it is not running. -/
def State.fieldReaction (s : State) (f : Fin 17) (source : Nat) : State :=
  let s := { s with saf := { s.saf with unresolved := if s.saf.unresolved.contains f.val then s.saf.unresolved
                                                      else s.saf.unresolved ++ [f.val] } }
  let told (s : State) : State := s.events (s.frt f).attached 0x31 (s.handle f) (source + 2 * 256)
  if s.fState f = stRunning then told (s.stopField f 0x30)
  else if s.fState f = stStopped then told s
  else if s.fState f = stIdle ∨ s.fState f = stDraining then s.setF f { s.frt f with hold := true }
  else s

/-- The reaction to a field-class fault. -/
def State.fieldFault (s : State) (r : SafReport) : State :=
  let s := ((s.inc SAF_FAULT_CNT.FIELD).countFault).recordFault r
  match r.field with
  | none => s
  | some n => if h : n < 17 then s.fieldReaction ⟨n, h⟩ r.source else s

/-! ## The status frame (10 R267, R268) -/

/-- The FLAGS byte. -/
def State.statusFlags (s : State) : Nat :=
  b2n s.primaryValid + 2 * b2n s.shadowValid + 4 * s.rd SAF_CTL.SPLIT + 8 * b2n s.saf.late +
    16 * b2n (!s.saf.coverage.isEmpty) + 32 * b2n (!s.saf.telltale.isEmpty) +
    64 * b2n ((List.range 17).any (fun f => decide (s.rd SAF_GOLD.SKIPS f ≥ 2)))

/-- A SAFETY-class field other than the primary is stopped. -/
def State.safetyStopped (s : State) : Bool :=
  (List.range 17).any (fun f => s.fState f == stStopped && s.isSafety f && f != s.rd FUS_CFG.PRIMARY)

/-- The STATUS of R267, first match in its order. -/
def State.statusCode (s : State) : Nat :=
  if s.flag SAF_CTL.SAFE_STATE then 6
  else if s.saf.starting then 1
  else if s.cur = mDepot ∨ s.mode.trans = some .depot then 8
  else if !s.primaryValid && !s.shadowValid then 5
  else if !s.primaryValid then 4
  else if !s.shadowValid || bits s.statusFlags 3 4 != 0 || s.safetyStopped then 3
  else 2

/-- A safety status frame with a STATUS. -/
def State.statusFrame (s : State) (status : Nat) : Bytes :=
  let x := s.saf
  let body := leBytes 1 (x.counter % 16) ++ leBytes 1 status ++ leBytes 1 s.statusFlags ++ leBytes 2 (x.primaryK.getD 0) ++
    leBytes 2 (x.shadowK.getD 0) ++ leBytes 1 x.lastSource ++ leBytes 1 x.lastField ++ leBytes 2 x.faults ++
    leBytes 1 s.cur ++ leBytes 1 x.groupMask ++ [0, 0]
  leBytes 1 (e2eP22 (Bytes.sub s.fw.record 0xE4 16) (0 :: body)) ++ body

/-- A CAN controller receives and transmits: ON and not in bus-off (14 R356, R358). -/
def State.canOn (s : State) (c : Nat) : Bool := s.rd GW_CAN.STATE c == 2 && !s.flag GW_CAN.BUS_OFF c

/-- A status frame sent on both safety CAN ports, as far as their controllers can transmit; the boot in PARK sends none
(10 R269, 16 R412). -/
def State.sendStatus (s : State) (status : Nat) : State :=
  if s.parkBoot then s
  else
    let fr := s.statusFrame status
    let id := Bytes.num s.fw.record 0xD8 4
    let on (c : Nat) (s : State) : State := if s.canOn c then s.emit (.can c (id % 2 ^ 29) (id.testBit 29) fr) else s
    let s := on 15 (on 14 s)
    { s with saf := { s.saf with counter := (s.saf.counter + 1) % 16, lastFrame := s.localNs, frameBy := none } }

/-! ## The safe state (10 R263) -/

/-- A VEF has an enabled SAFETY-class submission ring. -/
def State.hasSafetyRing (s : State) (v : Nat) : Bool :=
  (List.range 8).any (fun r => s.flag SQ_CFG.ENABLE v r && s.ringClass v r == 0)

/-- Every SAFETY-class field and field 16 stopped, or idle with its queues held. -/
def State.stopSafety (s : State) : State :=
  (List.finRange 17).foldl (fun (s : State) (f : Fin 17) =>
    if !s.isSafety f then s
    else if s.fState f = stRunning then s.stopField f 0x30
    else if s.fState f = stFree ∨ s.fState f = stStopped then s
    else s.setF f { s.frt f with hold := true }) s

/-- The reaction to a device-fatal fault, all of its steps. -/
def State.enterSafe (s : State) (r : SafReport) : State :=
  if s.flag SAF_CTL.SAFE_STATE then s.inc SAF_FAULT_CNT.FATAL_EXTRA
  else
    let s := (((s.wr SAF_CTL.FAULT_N_LOW 1).wr SAF_CTL.SAFE_STATE 1).wr SAF_CTL.STATUS 6).emit (.faultN false)
    let s := s.recordFault r
    let hold := decide (r.source = 1 ∨ r.source = 2 ∨ r.source = 0x0A)
    let s := { s with saf := { s.saf with held := s.saf.held || hold, coreB := s.saf.coreB && !hold, gate := true, fallback := [] } }
    let s := (s.sendStatus 6).stopSafety
    let s := if s.fwDown 9 then s else s.saveLog
    let s := { s with saf := { s.saf with nextFrame := s.vehicleNs + 10000000 } }
    (List.range 128).foldl (fun s v => if s.hasSafetyRing v then s.event v 0x30 0 r.source else s) s

/-! ## Instants and goldens (10 R274, R275) -/

/-- The oldest due instant of a field whose golden has neither run nor been skipped. -/
def State.dueInstant (s : State) (f : Nat) : Nat :=
  let n := Sparse.look 0 s.saf.settled f
  n + (s.rd SAF_GOLD.PHASE f + 8 - n % 8) % 8

/-- A golden run of a field. -/
def State.goldenRun (s : State) (f : Nat) : Option GoldenRun := s.saf.goldens.find? (fun g => g.field == f)

/-- BUDGET_US and the 50 µs of a slot, in ns. -/
def State.goldenNs (s : State) (f : Nat) : Nat := s.rd SAF_GOLD.BUDGET_US f * 1000 + 50000

/-- A FRAME, not a golden, of field f that names instant j has not committed. -/
def State.frameLive (s : State) (f : Fin 17) (j : Nat) : Bool :=
  s.queue.any (fun q => q.1 == .field f && q.2.opcode == 0x31 && s.frameK q.2 == some j) ||
  s.flight.any (fun x => x.res == .field f && x.cmd.opcode == 0x31 && !x.golden && s.frameK x.cmd == some j)

/-- Goldens may run: in DRIVE, outside the safe state, with the Cantle released. -/
def State.goldensRun (s : State) : Bool := s.cur == mDrive && !s.saf.gate && !s.saf.held

/-- A golden of the field may be admitted now: the slot of a due instant is open, or the field waits for one after a kill
or a re-initialisation. -/
def State.slotOpen (s : State) (f : Fin 17) : Bool :=
  s.goldensRun && !s.sliceIn f && (s.goldenRun f).isNone && s.fState f == stIdle && (s.jobsOn (.field f)).isEmpty &&
  ((s.frt f).image.any (fun i => !i.goldens.isEmpty)) && s.curInstant.isSome &&
  (s.saf.needGolden.contains f.val || s.saf.forced.contains f.val ||
    (s.flag SAF_GOLD.ENABLE f && match s.curInstant with
      | none => false
      | some j =>
        let k := s.dueInstant f
        decide (k ≤ j) && decide (j ≤ k + 2) && (decide (s.rd SAF_GOLD.SKIPS f < 2) || j == k) && !s.frameLive f j &&
          decide (s.sensorNs + s.goldenNs f ≤ s.tK (j + 1))))

/-- A golden failure: source 0x21. -/
def State.goldenFail (s : State) (f : Nat) : State := (s.inc SAF_GOLD.FAILS f).report 0x21 (some f)

/-- lo ≤ y for FP32 patterns; a NaN is below and above nothing. -/
def fpLe (a b : Nat) : Bool :=
  let x := decodeNum fFp32 a
  let y := decodeNum fFp32 b
  x != .nan && y != .nan && !y.lt x

/-- Every output of a golden lies in its pair's range. -/
def State.goldenPass (s : State) (g : GoldenRun) : Bool :=
  match (s.frt g.field).image with
  | none => false
  | some i => match i.goldens[g.entry]? with
    | none => false
    | some e =>
      let w := s.planWin g.field e.refWin
      (List.range e.refCount).all (fun n =>
        let lo := leNat (s.winRead w none (e.refOff + n * 8) 4)
        let hi := leNat (s.winRead w none (e.refOff + n * 8 + 4) 4)
        let y := s.memNum (g.buf + n * 4) 4
        fpLe lo y && fpLe y hi)

end Sys2Proof.Machine
end

