-- ==== Sys2Proof/Machine/Safety.lean ====
section
/-! DEFINITION. Functional safety (chapter 10): fault reports, the status frame, the sleep permission, the fall-back list,
the window watchdog and golden frames. -/

namespace Sys2Proof.Machine

/-! ## Fault collection (10 R260–R263) -/

/-- A report processed by the collector. -/
def State.processFault (s : State) (r : SafReport) : State :=
  if r.source = 1 ∧ s.flag SAF_CTL.SPLIT then s
  else match faultClass r.source with
    | 1 => s.containedFault r
    | 2 => s.fieldFault r
    | 3 => s.enterSafe r
    | 4 => s.inc SAF_FAULT_CNT.CORRECTABLE
    | _ => s

/-- A duplicate mismatch found by the projector (08 R222): the command in flight with DUP = 1 ends OUTPUT_INVALID, and that
of a SAFETY command is a contained fault of the safety island (10 R261). -/
def State.projectorFault (s : State) : State :=
  match s.dupJob with
  | none => s
  | some j =>
    let t := s.dupMismatch j
    if j.cmd.cls = 0 then t.processFault ⟨0x16, none, s.vehicleNs⟩ else t

/-- FAULT_REPORT: the oldest pending report of a source and field, or one of a physical mechanism. -/
def execFaultReport (source : Fin 256) (field : Option (Fin 17)) (s : State) : Ans :=
  let fld := field.map (·.val)
  match s.saf.reports.find? (fun r => r.source == source.val && decide (r.field = fld)) with
  | some r => .next ({ s with saf := { s.saf with reports := s.saf.reports.erase r } }.processFault r)
  | none =>
    if source.val = 0x16 then .next s.projectorFault
    else if physicalSource source then .next (s.processFault ⟨source, fld, s.vehicleNs⟩) else .next s

/-- Neither PARK mode: the safety island runs. -/
def State.awake (s : State) : Bool := s.cur != mWarm && s.cur != mCold

/-- HEARTBEAT_TIMEOUT: a source of the fault-collection network has sent no heartbeat for 100 µs. -/
def execHeartbeatTimeout (s : State) : Ans := .next (if s.awake then s.report 0x05 none else s)

/-- FIRMWARE_SILENT: no liaison heartbeat for 50 ms. -/
def execFirmwareSilent (s : State) : Ans := .next (if s.awake then s.report 0x09 none else s)

/-! ## Frames (10 R263, R267–R269) -/

/-- SAFE_STATE_FRAME: the sequencer's frame, every 10 ms of vehicle time; after a step, at most 10 ms of local time after
the last (14 R343). -/
def execSafeStateFrame (s : State) : Ans :=
  let due := decide (s.saf.nextFrame ≤ s.vehicleNs) || (s.saf.frameBy).any (fun t => decide (t ≤ s.localNs))
  if s.flag SAF_CTL.SAFE_STATE && due then
    let t := s.sendStatus 6
    .next { t with saf := { t.saf with nextFrame := s.vehicleNs + 10000000 } }
  else .next s

/-- STATUS_FRAME: the heartbeat at multiples of 10 ms of vehicle time, or a change in the next 1 ms cycle and the four that
follow it. -/
def execStatusFrame (s : State) : Ans :=
  let s := s.endStarting
  let t := s.vehicleNs
  let v : FrameView := ⟨s.statusCode, s.statusFlags⟩
  let due := decide (s.saf.nextFrame ≤ t) || (s.saf.frameBy).any (fun b => decide (b ≤ s.localNs))
  let fresh := decide (s.saf.cycle < t / 1000000)
  let change := decide (s.saf.view ≠ some v)
  if !s.awake || s.flag SAF_CTL.SAFE_STATE || s.saf.held then .next s
  else if due || (fresh && (change || s.saf.repeats != 0)) then
    let u := s.sendStatus v.status
    .next { u with saf := { u.saf with
      view := some v, cycle := t / 1000000, repeats := if change then 4 else u.saf.repeats - 1,
      nextFrame := if due then (t / 10000000 + 1) * 10000000 else u.saf.nextFrame } }
  else .next s

/-- PRIMARY_DEADLINE_CHECK: T_k + DEADLINE_MS of the next instant to be tested. -/
def execPrimaryDeadlineCheck (s : State) : Ans :=
  let k := s.saf.primaryNext
  let p := s.rd FUS_CFG.PRIMARY
  if !s.flag FUS_CTL.RUN || decide (s.sensorNs < s.tK k + s.deadlineNs) then .next s
  else
    let t := { s with saf := { s.saf with primaryNext := k + 1 } }
    let loaded := decide (p < 17) && (s.frt p).image.isSome && s.fState p != stFree && s.fState p != stLoading &&
      s.fState p != stClearing
    let met := !s.saf.primaryOld && (s.saf.primaryK).any (fun n => decide (k ≤ n + 1))
    if !loaded || met then .next t
    else .next ({ t with saf := { t.saf with late := true } }.report 0x32 (some p))

/-- SHADOW_DEADLINE_CHECK: T_k of the next instant to be tested. -/
def execShadowDeadlineCheck (s : State) : Ans :=
  let k := s.saf.shadowNext
  if !s.flag FUS_CTL.RUN || decide (s.sensorNs < s.tK k) then .next s
  else
    let met := !s.saf.shadowOld && (s.saf.shadowK).any (fun n => decide (k ≤ n + 2))
    .next { s with saf := { s.saf with shadowNext := k + 1, shadowLive := met } }.endStarting

/-! ## Sleep permission (10 R270) -/

/-- A sleep permission frame received on one of the safety CAN controllers. -/
def State.sleepFrame (s : State) (id : Nat) (ext : Bool) (data : Bytes) : State :=
  let want := Bytes.num s.fw.record 0xDC 4
  let ctr := (data.getD 1 0).toNat % 16
  if s.saf.held || !s.awake || decide (id ≠ want % 2 ^ 29) || ext != want.testBit 29 || data.length != 8 then s
  else if (data.getD 0 0).toNat ≠ e2eP22 (Bytes.sub s.fw.record 0xF4 16) data then s.inc SAF_FAULT_CNT.E2E_FAIL
  else if s.saf.sleepCtr = some ctr ∨ (data.getD 2 0).toNat ≠ 0x5A then s
  else { s with saf := { s.saf with sleepCtr := some ctr, sleepAt := some s.vehicleNs } }

/-- SLEEP_PERMISSION_FRAME. -/
def execSleepPermissionFrame (port : Fin 2) (id : Nat) (ext : Bool) (data : Bytes) (s : State) : Ans :=
  .next (match port with
    | 0 => s.sleepFrame id ext data
    | 1 => s.sleepFrame id ext data)

/-- SLEEP_PERMISSION_EXPIRY: 1 s of vehicle time after its frame. -/
def execSleepPermissionExpiry (s : State) : Ans :=
  if (s.saf.sleepAt).any (fun t => !within t 1000000000 s.vehicleNs) then
    .next { s with saf := { s.saf with sleepAt := none } }
  else .next s

/-! ## Fall-back list (10 R259) -/

/-- One datagram of the fall-back list. -/
def State.fallbackPart (s : State) (k addr count part parts : Nat) (tracks : List Bytes) : Bytes :=
  let ofInst {α : Type} (d : α) (g : Inst → α) : α := match s.inst k with
    | some i => g i
    | none => d
  let mask := ofInst (s.memNum (addr + 0x14) 4) (·.mask)
  let ceil := ofInst (s.memNum (addr + 0x12) 2) (·.ceiling)
  let body := leBytes 8 k ++ leBytes 8 (s.tK k) ++ leBytes 4 mask ++ leBytes 2 count ++ leBytes 2 ceil ++
    leBytes 1 part ++ leBytes 1 parts ++ leBytes 1 (b2n s.shadowValid + 2 * s.rd SAF_CTL.SPLIT) ++ [0] ++
    ((tracks.drop (part * 16)).take 16).flatten
  e2eP7 (Bytes.num s.fw.record 0xE0 4) s.saf.p7Counter body

/-- A payload sent from the Cantle's port of the switch, where that is ON: UDP over IPv6 in the safety VLAN, between the
addresses and to the port of the record (10 R259, 15 R371). -/
def State.sendFallback (s : State) (payload : Bytes) : State :=
  let r := s.fw.record
  if s.rd GW_PORT.STATE 9 = 2 then
    s.emit (.fallback (Bytes.num r 0xB8 16) (Bytes.num r 0xC8 16) (s.rd GW_SW.SAFETY_VLAN) (Bytes.num r 0xB6 2) payload)
  else s

/-- FALLBACK_DATAGRAM: the object list of the oldest Shadow FRAME committed and not yet sent. -/
def execFallbackDatagram (s : State) : Ans :=
  match s.saf.fallback with
  | [] => .next s
  | (k, addr) :: rest =>
    let s := { s with saf := { s.saf with fallback := rest } }
    if s.saf.gate || s.saf.held then .next s
    else
      let all := (List.range 256).map (fun t => s.memRead (addr + 0x80 + t * 64) 64)
      let tracks := all.filter (fun t => t.getD 3 0 != 0)
      let parts := max 1 ((tracks.length + 15) / 16)
      .next ((List.range parts).foldl (fun s p =>
        let s := s.sendFallback (s.fallbackPart k addr tracks.length p parts tracks)
        { s with saf := { s.saf with p7Counter := (s.saf.p7Counter + 1) % 2 ^ 32 } }) s)

/-! ## The window watchdog and STATUS (10 R271, R278) -/

/-- The move from DEPOT into PARK is in progress: the window watchdog is suspended (10 R271). -/
def State.watchSuspended (s : State) : Bool :=
  match s.mode.trans with
  | some (.depotPark _) => true
  | _ => false

/-- A kick of the window watchdog: one earlier than 0.5 ms, 1 ms or later after the last, or the first 50 ms or later after
the Cantle's release, is a device-fatal fault. A suspended watchdog takes none. -/
def State.kickWatchdog (s : State) : State :=
  if !s.flag SAF_WDOG.WD_EN || s.watchSuspended then s
  else
    let t := s.vehicleNs
    let early := !s.saf.kickFree && (s.saf.kick).any (fun k => decide (t < k + 500000))
    let late := match s.saf.kick with
      | some k => decide (k + 1000000 ≤ t)
      | none => (s.saf.released).any (fun r => decide (r + 50000000 ≤ s.localNs))
    let s := if early || late then s.report 0x0A none else s
    { s with saf := { s.saf with kick := some t, kickFree := false, released := none } }

/-- KICK: 0x5A written to SAF_WDOG.KICK. -/
def execKick (src : Source) (s : State) : Ans :=
  .next (s.asWho src (RegName.addr .safWdog) Requester.isCantle State.kickWatchdog)

/-- WATCHDOG_WINDOW_EXPIRY: no kick by 1 ms after the last, or by 50 ms after the Cantle's release. -/
def execWatchdogWindowExpiry (s : State) : Ans :=
  let x := s.saf
  let late := x.kick.any (fun k => decide (k + 1000000 ≤ s.vehicleNs))
  let none_ := x.kick.isNone && x.released.any (fun r => decide (r + 50000000 ≤ s.localNs))
  if s.flag SAF_WDOG.WD_EN && (late || none_) then
    .next ({ s with saf := { x with kick := none, released := none } }.report 0x0A none)
  else .next s

/-- SAF_CTL.STATUS written: 0x6 and every write in the safe state are ignored; OPERATIONAL releases FAULT_N. -/
def State.writeStatus (s : State) (v : Nat) : State :=
  if s.flag SAF_CTL.SAFE_STATE || v == 6 then s
  else
    let s := s.wr SAF_CTL.STATUS v
    if v = 2 ∧ s.flag SAF_CTL.FAULT_N_LOW then (s.wr SAF_CTL.FAULT_N_LOW 0).emit (.faultN true) else s

/-- STATUS_WRITE. -/
def execStatusWrite (src : Source) (value : Fin 16) (s : State) : Ans :=
  .next (s.asWho src (RegName.addr .safCtl) Requester.isCantle (fun s => s.writeStatus value))

/-! ## Goldens (10 R274, R275) -/

/-- The golden that the Cantle submits on one of its rings admitted to a field. -/
def State.admitGolden (s : State) (f : Fin 17) (c : Cmd) (j : Nat) : State :=
  let k := s.dueInstant f
  let n := match (s.frt f).image with
    | some i => i.goldens.length
    | none => 1
  let e := s.rd SAF_GOLD.NEXT_ENTRY f % n
  let buf := match s.bufList c c.bufOp.1 c.bufOp.2 with
    | .ok (w :: _) => w.base
    | _ => 0
  let s := (s.dequeue c.serial).wr SAF_GOLD.NEXT_ENTRY ((e + 1) % n) f
  let x := s.saf
  let s := { s with saf := { x with
    goldens := x.goldens ++ [GoldenRun.mk f e j c.serial none buf false], forced := x.forced.filter (· != f.val),
    settled := if k ≤ j then Sparse.put 0 x.settled f (k + 1) else x.settled } }
  s.admitField f { c.job (.field f) s.localNs with golden := true }

/-- A fetched command is a golden of a field. -/
def goldenCmd (f : Fin 17) (serial : Nat) (q : Res × Cmd) : Bool :=
  q.1 == .field f && q.2.serial == serial && q.2.opcode == 0x31 && !q.2.objList && !q.2.pose && !q.2.ckpt

/-- GOLDEN_SLOT_OPEN: the Cantle writes the golden's descriptor to one of its rings, and it is admitted at the head of the
field's SAFETY queue. -/
def execGoldenSlotOpen (field : Fin 17) (ring : Fin 2) (s : State) : Ans :=
  let ready := s.flag SQ_CFG.ENABLE cantleSet ring && s.ringHolds cantleSet ring != 0 && s.cqRoom cantleSet &&
    (s.ringRt cantleSet ring).fence.isNone
  if !s.slotOpen field || !ready then .next s
  else
    let t := s.fetch cantleSet ring
    match t.queue.find? (goldenCmd field s.fetched) with
    | some q => .next (t.admitGolden field q.2 ((s.curInstant).getD 0))
    | none => .next t

/-- GOLDEN_FORCED_KILL: T_(k+1) − BUDGET_US − 50 µs of a golden that is not deferrable: the field is killed, one that is free
or already drains only takes no other command until the golden has run. -/
def execGoldenForcedKill (field : Fin 17) (s : State) : Ans :=
  let k := s.dueInstant field
  if s.goldensRun && s.flag SAF_GOLD.ENABLE field && decide (s.rd SAF_GOLD.SKIPS field ≥ 2) && s.curInstant == some k &&
      (s.goldenRun field).isNone && !s.saf.forced.contains field.val &&
      decide (s.tK (k + 1) ≤ s.sensorNs + s.goldenNs field) &&
      (s.fState field == stRunning || s.fState field == stIdle || s.fState field == stDraining) then
    let t := if s.fState field = stRunning ∧ !(s.frt field).faultDrain then s.killField field else s
    .next { t with saf := { t.saf with forced := t.saf.forced ++ [field.val] } }
  else .next s

/-- GOLDEN_SKIP: no slot opened in instants k to k + 2. -/
def execGoldenSkip (field : Fin 17) (s : State) : Ans :=
  let k := s.dueInstant field
  let late := match s.curInstant with
    | some j => decide (k + 2 < j)
    | none => false
  if s.goldensRun && s.flag SAF_GOLD.ENABLE field && late && !s.saf.forced.contains field.val then
    let t := (s.inc SAF_GOLD.SKIPPED field).wr SAF_GOLD.SKIPS (min (s.rd SAF_GOLD.SKIPS field + 1) 2) field
    .next { t with saf := { t.saf with settled := Sparse.put 0 t.saf.settled field (k + 1) } }
  else .next s

/-- GOLDEN_DEADLINE: T_(j+1) of the instant of admission. -/
def execGoldenDeadline (field : Fin 17) (s : State) : Ans :=
  match s.goldenRun field with
  | none => .next s
  | some g =>
    if g.status.isNone && !g.failed && decide (s.tK (g.instant + 1) ≤ s.sensorNs) then
      let t := { s with saf := { s.saf with
        goldens := s.saf.goldens.map (fun (x : GoldenRun) => if x.field = g.field then { x with failed := true } else x) } }
      .next (t.goldenFail field)
    else .next s

/-- A golden judged: it counts, and it leaves the list of runs. -/
def State.dropGolden (s : State) (f : Nat) : State :=
  { s with saf := { s.saf with goldens := s.saf.goldens.filter (fun g => g.field != f) } }

/-- GOLDEN_COMPARE_DONE: a golden that passes releases the queues of a field that waited for it. -/
def execGoldenCompareDone (field : Fin 17) (s : State) : Ans :=
  match s.goldenRun field with
  | none => .next s
  | some g => match g.status with
    | none => if s.flight.any (fun j => j.cmd.serial == g.serial) || !g.failed then .next s else .next (s.dropGolden field)
    | some st =>
      let t := ((s.dropGolden field).inc SAF_GOLD.RUNS field).wr SAF_GOLD.SKIPS 0 field
      if g.failed then .next t
      else if st = 0 ∧ s.goldenPass g then
        let x := t.saf
        .next { t with saf := { x with unresolved := x.unresolved.filter (· != field.val),
                                       needGolden := x.needGolden.filter (· != field.val) } }.endStarting
      else .next (t.goldenFail field)

end Sys2Proof.Machine
end

