-- ==== Sys2Proof/Machine/Dma.lean ====
section
/-! DEFINITION. The system DMA (05 R122–R125, R134), the keys (05 R118, R119) and the patrol scrub (05 R115, R116). -/

namespace Sys2Proof.Machine

/-! ## Assignment and movement (05 R122–R124) -/

/-- A command of one opcode at the head of a DMA engine assigned to a channel. -/
def State.assignOp (s : State) (e : Fin 4) (op : Nat) : State :=
  match s.dmaHead e [0, 1, 2, 3] with
  | some c => if c.opcode = op then s.assign e c else s
  | none => s

/-- COPY. -/
def execCopy (engine : Fin 4) (s : State) : Ans := .next (s.assignOp engine 0x10)

/-- FILL. -/
def execFill (engine : Fin 4) (s : State) : Ans := .next (s.assignOp engine 0x11)

/-- CHECKSUM. -/
def execChecksum (engine : Fin 4) (s : State) : Ans := .next (s.assignOp engine 0x12)

/-- The channel that an engine moves data for next: INTERACTIVE before BATCH, then oldest first (05 R123). -/
def State.nextJob (s : State) (e : Fin 4) : Option Job :=
  let held := (s.jobsOn (.dma e)).filter (fun j => !j.started)
  held.foldl (fun best j => match best with
    | none => some j
    | some b => if j.cmd.cls < b.cmd.cls ∨ (j.cmd.cls = b.cmd.cls ∧ j.cmd.serial < b.cmd.serial) then some j else best) none

/-- DMA_CHANNEL_START: an engine that moves nothing takes its next channel. -/
def execDmaChannelStart (engine : Fin 4) (s : State) : Ans :=
  if (s.jobsOn (.dma engine)).any (fun j => j.started && decide (j.outcome = .running)) then .next s
  else match s.nextJob engine with
    | some j => .next (s.changeJob j.cmd.serial (fun j => { j with started := true }))
    | none => .next s

/-- A FILL pattern repeated over `n` bytes (06 R145). -/
def fillBytes (pattern n : Nat) : Bytes := (List.range n).map (fun i => BitVec.ofNat 8 (pattern / 256 ^ (i % 8)))

/-- Source, destination and length of a DMA command. -/
def State.dmaSrc (s : State) (c : Cmd) : Target := s.target c.ctx c.srcFabric (c.op 0x18 8)
def State.dmaDst (s : State) (c : Cmd) : Target := s.target c.ctx c.dstFabric (c.op 0x20 8)
def Cmd.length (c : Cmd) : Nat := c.op 0x28 8

/-- The whole work of a DMA command: what is left in memory, the bytes issued, and the offsets that were read poisoned
(05 R115, R124). `bad` are those that another device marked. -/
def State.dmaMove (s : State) (c : Cmd) (remote : Bytes) (bad : List Nat) : State × Bytes × List Nat :=
  let n := c.length
  if c.opcode = 0x11 then
    let bs := fillBytes (c.op 0x30 8) n
    (s.targetWrite c.ctx (s.dmaDst c) bs, bs, [])
  else
    let t := s.dmaSrc c
    let bs := s.targetRead t n remote
    let marked := match t with
      | .there _ _ => s.targetBad t n ++ bad.filter (· < n)
      | _ => s.targetBad t n
    let s := s.targetTouch c.ctx t n
    if c.opcode = 0x12 then (s, bs, marked)
    else
      let d := s.dmaDst c
      ((s.targetWrite c.ctx d bs).targetPoison d marked, bs, marked)

/-- DMA_CHANNEL_DONE: the channel finishes its command and stores its CRC; `remote` is what another device answered a
read. -/
def execDmaChannelDone (chan : Fin 32) (remote : FabricData) (s : State) : Ans :=
  match s.flight.find? (fun j => j.chan == chan.val && j.started && decide (j.outcome = .running) &&
      j.res == .dma ⟨chan.val / 8, by omega⟩) with
  | none => .next s
  | some j =>
    let c := j.cmd
    let n := c.length
    let r := s.dmaMove c remote.bytes remote.bad
    let crc := crc32c r.2.1
    let s := s.onBehalf c (fun s => ((s.dmaMove c remote.bytes remote.bad).1.wr DMA_CH_CRC.CRC crc chan).wr DMA_CH_BYTES.BYTES n chan)
    .next (s.changeJob c.serial (fun j =>
      { j with outcome := .ended 0 0 crc, bytes := n, crc := crc, tainted := !r.2.2.isEmpty,
               use := j.use.plus { Usage.zero with dma := n } }))

/-- The engine on which a command taken from a channel runs again: its own, or, for a class that two engines serve, the
other one where its own has no channel that may take it (05 R122, R125). -/
def State.otherEngine (s : State) (e : Fin 4) : Fin 4 :=
  let o : Fin 4 := if e = 2 then 3 else if e = 3 then 2 else e
  if (s.idleChannel e).isNone && (s.idleChannel o).isSome then o else e

/-- The work of a channel stopped at once (05 R125): its command returns to the head of its queue, or is dropped; what the
destination holds and DMA_CH_BYTES are free values. The record of a command is written in one step, its commit: a command
that has not committed has not begun to write it. -/
def State.haltChannel (s : State) (chan : Fin 32) (keep : Bool) : State :=
  let e : Fin 4 := ⟨chan.val / 8, by omega⟩
  match s.flight.find? (fun j => j.chan == chan.val && j.res == .dma e) with
  | none => s
  | some j =>
    let c := j.cmd
    let s := if j.started ∧ c.opcode ≠ 0x12 then
        (s.onBehalf c (fun s => s.targetWrite c.ctx (s.dmaDst c) (s.freeBytes c.length))).drawn
      else s
    let s := (s.wr DMA_CH_BYTES.BYTES ((Config.freeWord s.freeCount 0).toNat + 2 ^ 32 * (Config.freeWord s.freeCount 1).toNat)
      chan).drawn
    let s := ((s.refund j).wr DMA_CH_CTL.BUSY 0 chan).dropJob c.serial
    if keep then { s with queue := (.dma (s.otherEngine e), c.again) :: s.queue } else s

/-- A channel stopped. -/
def State.stopChannel (s : State) (chan : Fin 32) : State := (s.wr DMA_CH_CTL.DISABLE 1 chan).haltChannel chan true

/-- DMA_CHANNEL_DISABLE. -/
def execDmaChannelDisable (src : Source) (chan : Fin 32) (s : State) : Ans :=
  let who := s.who src
  if !who.fwHyp then .next (s.denied who (RegName.dmaChCtl.addr chan))
  else if s.flag DMA_CH_CTL.DISABLE chan then .next s
  else .next (s.stopChannel chan)

/-! ## Keys (05 R118, R119, 12 R297, R298) -/

/-- A key slot given a new key, or none. -/
def State.setKey (s : State) (slot : Nat) (generate : Bool) : State :=
  let m := s.mem
  if generate then
    { s with mem := { m with keys := Sparse.put 0 m.keys slot (m.keySerial + 1), keySerial := m.keySerial + 1 } }
  else { s with mem := { m with keys := Sparse.put 0 m.keys slot 0 } }

/-- A valid region entry selects a key slot. -/
def State.slotInUse (s : State) (slot : Nat) : Bool :=
  (List.range 256).any (fun r => s.rgnValid r && s.rd MEM_RGN.KEY r == slot)

/-- A key command accepted, or refused while another is in progress or a valid region selects its slot (05 R119). -/
def State.keyCommand (s : State) (slot : Nat) (generate : Bool) : State :=
  if s.mem.keyCmd.isSome || s.slotInUse slot then s.inc MEM_STAT.KEY_REFUSED
  else { s.wr MEM_STAT.KEY_BUSY 1 with mem := { s.mem with keyCmd := some ⟨slot, generate, false⟩ } }

/-- KEY_GENERATE. -/
def execKeyGenerate (src : Source) (slot : Fin 128) (s : State) : Ans :=
  .next (s.byFirmware src RegName.memKeyCmd.addr (fun s => s.keyCommand slot true))

/-- KEY_ZEROISE. -/
def execKeyZeroise (src : Source) (slot : Fin 128) (s : State) : Ans :=
  .next (s.byFirmware src RegName.memKeyCmd.addr (fun s => s.keyCommand slot false))

/-- A key operation that the device makes on its own for VEF `v`: it starts, or waits for the engine (12 R297, R298). -/
def State.keyForVef (s : State) (v : Nat) (generate : Bool) : State :=
  let k : KeyCmd := ⟨v, generate, true⟩
  if s.mem.keyCmd.isSome then { s with mem := { s.mem with keyWait := s.mem.keyWait ++ [k] } }
  else { s.wr MEM_STAT.KEY_BUSY 1 with mem := { s.mem with keyCmd := some k } }

/-- KEY_CMD_DONE: the key command takes effect; a VEF that waited for its key becomes ACTIVE (12 R297). -/
def execKeyCmdDone (s : State) : Ans :=
  match s.mem.keyCmd with
  | none => .next s
  | some k =>
    let s := s.setKey k.slot k.generate
    let s := if k.forVef ∧ k.generate then s.wr VEF_CTL.STATE vActive k.slot else s
    .next (match s.mem.keyWait with
      | [] => { s.wr MEM_STAT.KEY_BUSY 0 with mem := { s.mem with keyCmd := none } }
      | n :: rest => { s with mem := { s.mem with keyCmd := some n, keyWait := rest } })

/-! ## The patrol scrub (05 R115, R116) -/

/-- PATROL_SCRUB: an in-service HBM word is read and corrected. `found` is the error that the scrub meets: none, one
bit, or two. -/
def execPatrolScrub (word : Nat) (found : Fin 3) (s : State) : Ans :=
  if s.pcs.contains (word * 8 / pcBytes) then
    let s := if found.val = 0 then s
      else { s with mem := { s.mem with hbmErr := Sparse.put 0 s.mem.hbmErr word (max found.val (Sparse.look 0 s.mem.hbmErr word)) } }
    let one := Sparse.look 0 s.mem.hbmErr word = 1
    let s := s.readWordErr word
    .next (if one then s.report 0x30 none else s)
  else .next s

end Sys2Proof.Machine
end

