-- ==== Sys2Proof/Machine/PassBase.lean ====
section
/-! DEFINITION. The Pass ports and their links (13 R314–R316, R332, R333), and what a kill or a reset takes from the
bridge (13 R328). -/

namespace Sys2Proof.Machine

/-! ## Ports -/

/-- States of a link (13 R333). -/
def lkDown : Nat := 0
def lkTraining : Nat := 1
def lkHello : Nat := 2
def lkUp : Nat := 3
def lkForeign : Nat := 4

/-- A port's runtime, and its link's state. -/
def State.port (s : State) (p : Nat) : PortRt := Sparse.look PortRt.rest s.pass.ports p
def State.setPort (s : State) (p : Nat) (x : PortRt) : State :=
  { s with pass := { s.pass with ports := Sparse.put PortRt.rest s.pass.ports p x } }
def State.link (s : State) (p : Nat) : Nat := s.rd PASS_LINK_STAT.STATE p

/-- A link's state changed: an announcement is due (13 R320). -/
def State.setLink (s : State) (p st : Nat) : State :=
  { s.wr PASS_LINK_STAT.STATE st p with pass := { s.pass with lsaDue := true } }

/-- A bit of PASS_IRQ_CAUSE set: the interrupt is written when it goes from 0 to 1 while IRQ_EN = 1 (13 R332). -/
def State.passCause (s : State) (f : Fld) : State :=
  if s.flag f then s
  else
    let s := s.wr f 1
    if s.flag PASS_IRQ_CAUSE.IRQ_EN then s.irq (s.rd PASS_IRQ_ADDR.ADDR) (s.rd PASS_IRQ_DATA.DATA) else s

/-- A link leaves UP or another state for DOWN: an announcement and, where the view changes, new routes are due. -/
def State.linkDown (s : State) (p : Nat) : State :=
  if s.link p = lkDown then s
  else
    let s := (((s.setLink p lkDown).wr PASS_LINK_STAT.PEER_ID 0xFFFF p).wr PASS_LINK_STAT.PEER_PORT 0 p).wr
      PASS_LINK_STAT.WIDTH4 0 p
    let s := s.setPort p { s.port p with next := none, failed := none, retraining := false, heard := none, sent := none, peer := none }
    let s := { s with pass := { s.pass with routesDue := true } }
    s.passCause PASS_IRQ_CAUSE.PORT

/-- A link enters FOREIGN (13 R316). -/
def State.linkForeign (s : State) (p : Nat) : State :=
  if s.link p = lkForeign then s
  else
    let s := s.setLink p lkForeign
    let s := { s with pass := { s.pass with routesDue := true } }
    s.passCause PASS_IRQ_CAUSE.PORT

/-- The counters of a port clear when it enters TRAINING from OFF (13 R333). -/
def State.portOn (s : State) (p : Nat) : State :=
  let s := [PASS_LINK_STAT.CRC_ERR, PASS_LINK_STAT.REPLAYS, PASS_LINK_STAT.RETRAINS, PASS_LINK_STAT.DISCARDED,
    PASS_LINK_STAT.BACKOFFS].foldl (fun s f => s.wr f 0 p) s
  (s.setPort p PortRt.rest).setLink p lkTraining

/-! ## The bridge -/

/-- The requests of a VEF still in the bridge dropped: responses that come later find no request (13 R328). -/
def State.squashFabric (s : State) (v : Nat) : State :=
  { s with pass := { s.pass with
      reqs := s.pass.reqs.filter (fun r => r.packet.fw || r.packet.vef != v),
      parked := s.pass.parked.filter (fun x => decide (s.requester x.src false ≠ .vef v)) } }

end Sys2Proof.Machine
end

