-- ==== Sys2Proof/Machine/Valley.lean ====
section
/-! DEFINITION. The pools of the Valley: VALID, initialisation or adoption, and discarding (07 R189, R190). -/

namespace Sys2Proof.Machine

/-- A write that sets VALID from 0 to 1 fails the tests of R190. -/
def State.poolRefused (s : State) (p : Nat) : Bool :=
  let k := s.rd VLY_POOL.PAGE_64K p
  decide (k = 0) || decide (k > 0x20) || decide (s.poolGroups p * s.poolG p > 1048576) || decide (s.poolBase p = 0)

/-- VALID set: the pool's GENERATION counts, skipping zero. -/
def State.poolValid (s : State) (p : Nat) : State :=
  if s.flag VLY_POOL.VALID p then s
  else if s.poolRefused p then s.inc VLY_STAT.CFG_REFUSED
  else
    let g := s.rd VLY_POOL.GENERATION p
    (s.wr VLY_POOL.VALID 1 p).wr VLY_POOL.GENERATION (if g ≥ 0xFFFF then 1 else g + 1) p

/-- The management area initialised, or adopted where ADOPT asks for it and the header at BASE holds. -/
def State.poolReady (s : State) (p : Nat) : State :=
  if !s.flag VLY_POOL.VALID p || s.flag VLY_POOL.READY p then s
  else
    let s := if s.flag VLY_POOL.ADOPT p then
        match s.poolAdopt p with
        | some x => s.setPool p x
        | none => (s.inc VLY_STAT.CFG_REFUSED).setPool p PoolSt.empty
      else s.setPool p PoolSt.empty
    s.wr VLY_POOL.READY 1 p

/-- VALID cleared while the pool is not bound: its prefix entries are EMPTY and its contents are gone. -/
def State.poolInvalid (s : State) (p : Nat) : State :=
  if !s.flag VLY_POOL.VALID p || s.flag VLY_POOL.BOUND p then s
  else
    let s := (s.vly.pfx.filter (fun e => e.2.pool == p)).foldl (fun s e => s.setPfx e.1 PfxEntry.zero) s
    let s := { s with vly := { s.vly with pools := Sparse.put PoolSt.empty s.vly.pools p PoolSt.empty } }
    (((s.dropPins p).wr VLY_POOL.VALID 0 p).wr VLY_POOL.READY 0 p).wr VLY_POOL.FREE_GROUPS 0 p

/-- POOL_VALID: a write of VALID = 1 by the hypervisor. -/
def execPoolValid (src : Source) (pool : Fin 16) (s : State) : Ans :=
  .next (s.asWho src (RegName.vlyPool.addr pool) Requester.hyp (fun s => s.poolValid pool))

/-- POOL_READY: firmware ends the initialisation or adoption. -/
def execPoolReady (pool : Fin 16) (s : State) : Ans := .next (s.poolReady pool)

/-- POOL_INVALIDATE: a write of VALID = 0 by the hypervisor. -/
def execPoolInvalidate (src : Source) (pool : Fin 16) (s : State) : Ans :=
  .next (s.asWho src (RegName.vlyPool.addr pool) Requester.hyp (fun s => s.poolInvalid pool))

end Sys2Proof.Machine
end

