-- ==== Sys2Proof/Machine/TenancyOps.lean ====
section
/-! DEFINITION. The shared operations of tenancy (chapter 12): the end of a VEF's commands, its reset, the freeze and the
save area. -/

namespace Sys2Proof.Machine

/-! ## Commands of a VEF -/

/-- Commands in flight of a VEF. -/
def State.jobsOf (s : State) (v : Nat) : List Job := s.flight.filter (fun j => j.cmd.vef == v)

/-- Sequences of VEF `v` in every pool retired. -/
def State.retireAll (s : State) (v : Nat) : State :=
  s.each 16 (fun p s => ((s.pool p).seqs.filter (fun r => r.2.vef == v)).foldl (fun s r => s.retireSeq p r.1) s)

/-- A field that runs work of a VEF killed (02 R52); it drains, and what it ran returns to the queues. -/
def State.killFor (s : State) (f : Fin 17) : State :=
  if s.fState f = stRunning ∧ !(s.frt f).faultDrain then s.killField f else s

/-- The resources on which a VEF has commands in flight killed: fields, the two engines and its DMA channels. `keep` is
false for a reset, whose DMA commands are not queued again. -/
def State.killJobs (s : State) (v : Nat) (keep : Bool) : State :=
  (s.jobsOf v).foldl (fun s j => match j.res with
    | .field f => s.killFor f
    | .render => { s with engKill := Sparse.put none s.engKill 0 (some s.localNs) }
    | .projector => { s with engKill := Sparse.put none s.engKill 1 (some s.localNs) }
    | .dma _ => if h : j.chan < 32 then s.haltChannel ⟨j.chan, h⟩ keep else s
    | .loader => s) s

/-- The admitted FIELD_RELEASEs of a VEF return to the heads of their queues. -/
def State.keepReleases (s : State) (v : Nat) : State :=
  (List.finRange 17).foldl (fun (s : State) (f : Fin 17) =>
    let x := s.frt f
    let mine := x.releases.filter (fun c => c.vef == v)
    { s.setF f { x with releases := x.releases.filter (fun c => c.vef != v) } with
      queue := mine.map (fun c => (Res.field f, c.again)) ++ s.queue }) s

/-- The table commands of a VEF in flight run to commit (07 R173). -/
def State.endTables (s : State) (v : Nat) : State :=
  (List.finRange 17).foldl (fun (s : State) (f : Fin 17) =>
    if (s.jobsOn (.field f)).any (fun j => j.cmd.vef == v && tableOp j.cmd.opcode) then s.commitTable f else s) s

/-- PRESENTs of a VEF taken off the heads; kept ones return to the head of their queue. -/
def State.dropPresents (s : State) (v : Nat) (keep : Bool) : State :=
  let mine := s.disp.pend.filter (fun p => p.cmd.vef == v)
  let s := { s with disp := { s.disp with pend := s.disp.pend.filter (fun p => p.cmd.vef != v) } }
  if keep then { s with queue := mine.map (fun p => (Res.render, p.cmd.again)) ++ s.queue } else s

/-- The loads that a VEF has asked for killed (04 R104). -/
def State.killLoads (s : State) (v : Nat) (keep : Bool) : State :=
  (s.loads.filter (fun l => (l.cmd).any (fun c => c.vef == v))).foldl (fun s l =>
    if l.phase = .digestWait ∨ l.phase = .clearing then
      let s := s.dropLoad l.serial
      match l.cmd with
      | some c => if keep then { s with queue := (.loader, c.again) :: s.queue } else s
      | none => s
    else s.killLoad l keep) s

/-- The open accounting window of a VEF closed with a FINAL record (06 R162, R166). -/
def State.finalRecord (s : State) (v : Nat) : State :=
  if (s.vrt v).acctOpen then
    ((s.closeEnded v s.vehicleNs).closeWindow v s.vehicleNs s.vehicleNs false true).postDue v
  else s

/-! ## Reset (12 R303, R304) -/

/-- A doorbell page returned to its Cold values (06 R136). -/
def State.coldPage (s : State) (v : Nat) : State :=
  let s := [RegName.dbCqHead, .dbEqHead, .dbStat, .cqCfg, .eqCfg].foldl (fun s r => s.regToCold r v) s
  let s := s.each 8 (fun r s => (s.regToCold .dbSqTail v r).regToCold .sqCfg v r)
  s.each 8 (fun r s => s.setRing v r RingRt.rest)

/-- Freezes and thaws that name or were asked for by a VEF end with its reset: a freeze of it with OUTPUT_INVALID. -/
def State.endFreezes (s : State) (v : Nat) : State :=
  let s := match (s.vrt v).freeze with
    | some f => match f.cmd with
      | some c => s.complete c 0x30 0 0
      | none => s
    | none => s
  let s := s.setV v { s.vrt v with freeze := none, held := none }
  let s := (s.thaws.filter (fun t => t.vef == v)).foldl (fun s t =>
    let s := s.complete t.cmd 0x30 0 0
    match t.loading with
    | some (serial, _, _) => match s.loads.find? (fun l => l.serial == serial) with
      | some l => s.killLoad l false
      | none => s
    | none => s) s
  let s := { s with thaws := s.thaws.filter (fun t => t.vef != v && t.cmd.vef != v) }
  s.each 128 (fun w s => match (s.vrt w).freeze with
    | some f => if (f.cmd).any (fun c => c.vef == v) then s.setV w { s.vrt w with freeze := some { f with cmd := none } } else s
    | none => s)

/-- A reset of VEF `v` begins (12 R303): its table commands commit, every other command that has not committed ends without a
record, the VEF is detached, its sequences and pins are gone, a FINAL record is written and its page is Cold. -/
def State.resetVef (s : State) (v : Nat) : State :=
  let st := s.rd VEF_CTL.STATE v
  if st ≠ vActive ∧ st ≠ vFreezing ∧ st ≠ vFrozen then s
  else
    let s := ((s.endTables v).wr VEF_CTL.STATE vResetting v).wr VEF_CTL.RESET 1 v
    let s := s.endFreezes v
    let s := { s with queue := s.queue.filter (fun q => q.2.vef != v) }
    let s := ((s.killJobs v false).dropPresents v false).killLoads v false
    let s := (s.jobsOf v).foldl (fun s j => s.refund j) s
    let s := { s with flight := s.flight.filter (fun j => j.cmd.vef != v) }
    let s := s.each 17 (fun f s => s.setF f { s.frt f with
      moves := (s.frt f).moves.filter (fun m => m.vef != v), releases := (s.frt f).releases.filter (fun c => c.vef != v) })
    let s := (s.fieldsOf v).foldl (fun s f => s.detach f v false []) s
    let s := (((s.squashFabric v).retireAll v).releasePins v).finalRecord v
    let s := s.coldPage v
    s.setV v { s.vrt v with reserved := 0 }

/-- Nothing of a resetting VEF is left in the device: no load in its stitch phase and no key operation before it. -/
def State.resetQuiet (s : State) (v : Nat) : Bool :=
  (s.jobsOf v).isEmpty && !s.loads.any (fun l => l.attach.contains v) &&
    !s.queue.any (fun q => q.2.vef == v)

/-! ## The save area (12 R306) -/

/-- `n` bytes of a register. -/
def State.regBytes (s : State) (r : RegName) (i j n : Nat) : Bytes :=
  leBytes n ((r.flds.map (fun f => s.rd f i j * 2 ^ f.lo)).foldl (· + ·) 0)

/-- The fields of a register set from its bytes. -/
def State.setRegBytes (s : State) (r : RegName) (i j : Nat) (bs : Bytes) : State :=
  r.flds.foldl (fun s f => s.wr f (bits (leNat bs) f.lo f.w) i j) s

/-- SQ_CFG of a ring with the last TAIL written in its top bits. -/
def State.sqBytes (s : State) (v r : Nat) : Bytes :=
  (s.regBytes .sqCfg v r 32).take 30 ++ leBytes 2 (s.rd DB_SQ_TAIL.TAIL v r)

/-- Ring state: the registers, then the rest packed in words (the order is R306's, the packing the model's own). -/
def State.ringState (s : State) (v : Nat) : Bytes :=
  let x := s.vrt v
  Bytes.pad ((List.range 8).flatMap (s.sqBytes v) ++ s.regBytes .cqCfg v 0 32 ++ s.regBytes .eqCfg v 0 32 ++
    leBytes 4 (Bytes.num (s.regBytes .ringVefCfg v 0 4) 0 1) ++
    (List.range 8).flatMap (fun r => leBytes 4 (s.rd RING_VEF_ASID.ASID v r)) ++
    leBytes 4 (s.rd DB_CQ_HEAD.HEAD v) ++ leBytes 4 (s.rd DB_EQ_HEAD.HEAD v) ++
    leBytes 4 (b2n x.cqPhase + 2 * b2n x.eqPhase + 4 * b2n x.aqPhase) ++ leBytes 4 x.reserved ++ leBytes 4 x.lost) 768

/-- Accounting: the open window with END zero, then a pending FINAL record or zeros. -/
def State.acctState (s : State) (v : Nat) : Bytes :=
  let x := s.vrt v
  Bytes.pad (acctRecord v ⟨x.acct, 0, false⟩ x.aqPhase ++ match x.acctPending with
    | r :: _ => acctRecord v r x.aqPhase
    | [] => []) 256

/-- An attachment's 64 bytes. -/
def Attach.bytes (a : Attach) : Bytes :=
  leBytes 4 a.handle ++ leBytes 4 a.pool ++ leBytes 8 a.image ++ leBytes 8 a.plan ++ leBytes 8 a.planLen ++ a.digest.take 32

/-- A pool entry's 64 bytes. -/
def State.poolEntry (s : State) (v p : Nat) : Bytes :=
  if s.flag VLY_POOL.VALID p && s.rd VLY_POOL.OWNER p == v then
    Bytes.pad (s.regBytes .vlyPool p 0 16 ++ leBytes 4 (s.pool p).seqs.length) 64
  else List.replicate 64 0

/-- The save area of a frozen VEF. -/
def State.saveArea (s : State) (v : Nat) (h : Held) : Bytes :=
  let size := 0x1000 + h.kept.length * 80 + h.pins.length * 16
  let hdr := leBytes 4 0x56454653 ++ leBytes 2 1 ++ leBytes 2 (s.rd PASS_DEV.ID) ++ s.regBytes .sysId 0 0 4 ++
    leBytes 1 v ++ leBytes 1 (s.rd VEF_CTL.TENANT v + 2 * b2n h.selfContained) ++ leBytes 1 (s.rd VEF_CTL.DOMAIN v) ++ [0] ++
    leBytes 4 h.kept.length ++ leBytes 4 h.pins.length ++ leBytes 8 size ++ leBytes 8 h.freezeTime ++ leBytes 24 0
  let body := s.ringState v ++ s.acctState v ++ Bytes.pad (h.attach.flatMap Attach.bytes) (17 * 64) ++
    (List.range 16).flatMap (s.poolEntry v) ++ List.replicate 704 0 ++
    h.kept.flatMap (fun c => Bytes.pad c.desc 64 ++ leBytes 1 c.ring ++ leBytes 1 c.rerun ++ leBytes 6 0 ++
      leBytes 2 c.sqIndex ++ leBytes 6 0) ++
    h.pins.flatMap (fun p => leBytes 8 p.key ++ leBytes 1 p.pool ++ leBytes 3 0 ++ leBytes 4 p.block)
  hdr ++ sha384 (hdr ++ body) ++ List.replicate 144 0 ++ body

/-- The save area written in a context where it fits: the state and whether it did. -/
def State.writeSave (s : State) (c : Ctx) (a len v : Nat) (h : Held) : State × Nat × Bool :=
  let bs := s.saveArea v h
  if len < bs.length then (s, bs.length, false) else (s.ctxWrite c a bs, bs.length, true)

/-- A VEF_FREEZE answered from the held state (12 R306). -/
def State.answerFreeze (s : State) (c : Cmd) (v : Nat) (h : Held) : State :=
  let r := s.writeSave c.ctx (c.op 0x18 8) (c.op 0x20 8) v h
  if r.2.2 then r.1.complete c 0 0 r.2.1 else r.1.complete c 0x40 4 r.2.1

/-! ## Freeze (12 R305) -/

/-- A freeze of an ACTIVE VEF begins: fetching and admission stop, and its loads are killed. -/
def State.beginFreeze (s : State) (v : Nat) (cmd : Option Cmd) (killAt : Nat) (wake : Bool) : State :=
  let s := s.wr VEF_CTL.STATE vFreezing v
  (s.setV v { s.vrt v with freeze := some ⟨cmd, s.localNs, killAt, wake⟩ }).killLoads v true

/-- What a freezing VEF has in flight is killed and kept. -/
def State.freezeKill (s : State) (v : Nat) : State := ((s.killJobs v true).dropPresents v true).keepReleases v

/-- The attachments of a VEF. -/
def State.attachments (s : State) (v : Nat) : List Attach :=
  (s.fieldsOf v).filterMap (fun (f : Fin 17) => (s.frt f).image.map (fun (i : FieldImage) =>
    Attach.mk (s.handle f) i.pool i.addr i.plan i.planLen i.digest i.ring))

/-- A VEF has nothing in flight, loading or pending. -/
def State.drained (s : State) (v : Nat) : Bool :=
  (s.jobsOf v).isEmpty && !s.disp.pend.any (fun p => p.cmd.vef == v) &&
    !(List.range 17).any (fun f => (s.frt f).releases.any (fun c => c.vef == v)) && !s.loads.any (fun l => (l.cmd).any (fun c => c.vef == v))

/-- The drain of a freeze is complete: the VEF detaches, its FINAL record is written, it is FROZEN, and its save area is
written where it fits. -/
def State.endFreeze (s : State) (v : Nat) (fz : Freeze) : State :=
  let kept := (s.queue.filter (fun q => q.2.vef == v)).map (·.2)
  let h : Held := ⟨kept, s.attachments v, (s.vrt v).pins, s.vehicleNs, false⟩
  let s := { s with queue := s.queue.filter (fun q => q.2.vef != v) }
  let s := s.setV v { s.vrt v with held := some h }
  let s := (s.fieldsOf v).foldl (fun s f => s.detach f v true []) s
  let s := s.finalRecord v
  let own := (List.range 16).all (fun p => !(s.flag VLY_POOL.VALID p && s.rd VLY_POOL.OWNER p == v && s.flag VLY_POOL.BOUND p))
  let h := { h with selfContained := own }
  let s := (s.setV v { s.vrt v with held := some h, freeze := none, acctOpen := false }).wr VEF_CTL.STATE vFrozen v
  match fz.cmd with
  | some c => s.answerFreeze c v h
  | none => if fz.wake then (s.writeSave .phys (s.rd VEF_SAVE.BASE v / 4096 * 4096) (s.rd VEF_SAVE_LEN.LEN_4K v * 4096) v h).1 else s

end Sys2Proof.Machine
end

