-- ==== Sys2Proof/Machine/ThawOps.lean ====
section
/-! DEFINITION. The thaw of a VEF (12 R307–R309): the checks of a save area, the state read back from it, the restoring of
attachments, and the end of a thaw. -/

namespace Sys2Proof.Machine

/-! ## The save area read back -/

/-- A byte string with `new` in place of its bytes from `o` on. -/
def Bytes.patch (bs : Bytes) (o : Nat) (new : Bytes) : Bytes := bs.take o ++ new ++ bs.drop (o + new.length)

/-- The whole save area of a thaw command, by the SIZE of its header. -/
def State.savedArea (s : State) (c : Cmd) : Bytes :=
  s.ctxRead c.ctx (c.op 0x18 8) (Bytes.num (s.ctxRead c.ctx (c.op 0x18 8) 256) 0x18 8)

/-- A fresh VEF: ACTIVE, every ring disabled, no field attached. -/
def State.freshVef (s : State) (v : Nat) : Bool :=
  s.rd VEF_CTL.STATE v == vActive && (List.range 8).all (fun r => !s.flag SQ_CFG.ENABLE v r) && !s.flag CQ_CFG.ENABLE v &&
    !s.flag EQ_CFG.ENABLE v && (s.fieldsOf v).isEmpty

/-- The cause of R307 for which a save area is refused, 0 for none. -/
def State.thawCause (s : State) (c : Cmd) : Nat :=
  let h := s.ctxRead c.ctx (c.op 0x18 8) 256
  let a := s.savedArea c
  if Bytes.num h 0 4 ≠ 0x56454653 ∨ Bytes.num h 4 2 ≠ 1 then 1
  else if sha384 (a.take 64 ++ a.drop 256) ≠ Bytes.sub h 0x40 48 then 2
  else if Bytes.sub h 8 4 ≠ s.regBytes .sysId 0 0 4 then 3
  else if !s.freshVef (c.op 0x28 1) then 4
  else if !(Bytes.num h 0x0D 1).testBit 1 ∧ Bytes.num h 6 2 ≠ s.rd PASS_DEV.ID then 5
  else if c.op 0x20 8 < Bytes.num h 0x18 8 then 6
  else 0

/-- An attachment of a save area. Its ring is not in the area: ring 0. -/
def savedAttach (a : Bytes) (i : Nat) : Attach :=
  let o := 0x500 + i * 64
  Attach.mk (Bytes.num a o 4) (Bytes.num a (o + 4) 4) (Bytes.num a (o + 8) 8) (Bytes.num a (o + 16) 8) (Bytes.num a (o + 24) 8)
    (Bytes.sub a (o + 32) 32) 0

/-- A kept command of a save area, for VEF `v`; its engine and class follow when its ring is restored. -/
def savedCmd (a : Bytes) (v serial i : Nat) : Cmd :=
  let o := 0x1000 + i * 80
  Cmd.mk v (Bytes.num a (o + 64) 1 % 8) 0 0 (Bytes.num a (o + 72) 2) (Bytes.sub a o 64) (Bytes.num a (o + 65) 1 % 16) (serial + i) []

/-- A pin of a save area. -/
def savedPin (a : Bytes) (cmds i : Nat) : Pin :=
  let o := 0x1000 + cmds * 80 + i * 16
  Pin.mk (Bytes.num a o 8) (Bytes.num a (o + 8) 1) (Bytes.num a (o + 12) 4) 0

/-- What a save area holds of its VEF. -/
def savedHeld (a : Bytes) (v serial : Nat) : Held :=
  let cmds := Bytes.num a 0x10 4
  let pins := Bytes.num a 0x14 4
  Held.mk ((List.range cmds).map (savedCmd a v serial)) ((List.range 17).map (savedAttach a) |>.filter (fun x => x.handle != 0))
    ((List.range pins).map (savedPin a cmds)) (Bytes.num a 0x20 8) ((Bytes.num a 0x0D 1).testBit 1)

/-- An accounting record read back. -/
def readAcct (bs : Bytes) : AcctRec :=
  let n (o k : Nat) : Nat := Bytes.num bs o k
  let fl := n 63 1
  AcctRec.mk ⟨n 0 8, ⟨n 16 6, n 22 6, n 32 6, n 38 6, n 44 6, n 50 6, n 56 6, []⟩, n 28 4, fl.testBit 4, fl.testBit 2, fl.testBit 3⟩
    (n 8 8) (fl.testBit 1)

/-! ## Pools (12 R308 step 2) -/

/-- Pool `q` can stand for the pool `p` of a save area. -/
def State.poolMatch (s : State) (a : Bytes) (v p q : Nat) : Bool :=
  let w := Bytes.num a (0x940 + p * 64) 16
  let same (f : Fld) : Bool := s.rd f q == bits w f.lo f.w
  s.rd VLY_POOL.OWNER q == v && s.flag VLY_POOL.VALID q && s.flag VLY_POOL.READY q && !s.flag VLY_POOL.BOUND q &&
    !s.loads.any (fun l => l.bind == some q) &&
    same VLY_POOL.BASE && same VLY_POOL.GROUPS_M1 && same VLY_POOL.G_M1 && same VLY_POOL.PAGE_64K

/-- The pool for a saved pool: the one of the same number first, else the lowest-numbered match. -/
def State.poolFor (s : State) (a : Bytes) (v p : Nat) : Option Nat := (p :: List.range 16).find? (s.poolMatch a v p)

/-- The owner and the PRIVATE tags of a VEF's sequences in a pool renumbered. -/
def PoolSt.renumber (x : PoolSt) (src v : Nat) : PoolSt :=
  { x with
    seqs := x.seqs.map (fun r => if r.2.vef = src then (r.1, { r.2 with vef := v }) else r),
    tags := x.tags.map (fun t => if t.2 = .priv src then (t.1, .priv v) else t) }

/-- The prefix entries of one sequence rebuilt from block `b` on, with `n` page-table entries left: a block already
entered gains a reference. -/
def State.rebuildSeq (s : State) (p : Nat) (pages : List PageEntry) (key parent : Nat) : State :=
  match pages with
  | [] => s
  | e :: rest =>
    if !e.shared then s
    else
      let toks := s.tokensOf p e.group
      let k := pfxKey key toks
      match s.pfxOfGroup p e.group with
      | some i => (s.pfxRefs i (· + 1)).rebuildSeq p rest k i
      | none =>
        let dom := match (s.pool p).tag e.group with
          | .shared d => d
          | _ => 0
        let r := s.pfxInsert p dom k e.group parent toks
        match r.2 with
        | some i => (r.1.setPfx i { r.1.pfxAt i with state := 2 }).rebuildSeq p rest k i
        | none => r.1.rebuildSeq p rest k 0xFFFFFFFF

/-- The prefix entries of a pool's SHARED groups rebuilt from its sequences; a SHARED group that none of them uses is
FREE. -/
def State.rebuildPrefix (s : State) (p : Nat) (digest : Bytes) : State :=
  let s := (s.pool p).seqs.foldl (fun s r => s.rebuildSeq p r.2.pages (rootKey digest) 0xFFFFFFFF) s
  let x := s.pool p
  let used := x.seqs.flatMap (fun r => r.2.pages.map (·.group))
  s.setPool p { x with tags := x.tags.filter (fun t => match t.2 with
    | .shared _ => used.contains t.1
    | _ => true) }

/-- A pool found in step 2 brought to its new VEF and device, once every attachment is restored: a thaw that fails changes
nothing else (12 R307). -/
def State.adoptPool (s : State) (t : Thaw) (p : Nat) (digest : Bytes) : State :=
  let src := Bytes.num t.area 0x0C 1
  let s := if src = t.vef then s else s.setPool p ((s.pool p).renumber src t.vef)
  if Bytes.num t.area 6 2 = s.rd PASS_DEV.ID then s else s.rebuildPrefix p digest

/-! ## Attachments (12 R308 steps 3, 4, R309) -/

/-- The field that an attachment of a FROZEN VEF names, where it still holds the same image. -/
def State.intact (s : State) (a : Attach) : Option (Fin 17) :=
  let n := bits a.handle 0 5
  if hf : n < 17 then
    let f : Fin 17 := ⟨n, hf⟩
    let st := s.fState f
    if s.handle f = a.handle ∧ st ≠ stFree ∧ st ≠ stClearing ∧ !(s.frt f).attached.isEmpty then some f else none
  else none

/-- MAX_CLASS of a save area, at most INTERACTIVE for a tenant (12 R299, R308 step 1). -/
def State.savedClass (s : State) (a : Bytes) (v : Nat) : Nat :=
  if s.flag VEF_CTL.TENANT v then max (Bytes.num a 0x240 1 % 4) 2 else Bytes.num a 0x240 1 % 4

/-- The class of a thaw's loads: that of the ring of its VEF_THAW, limited to the target's MAX_CLASS (04 R451), which step 1
of a thaw into a fresh VEF has restored. -/
def State.thawClass (s : State) (t : Thaw) : Nat :=
  max t.cmd.cls (if t.fresh then s.savedClass t.area t.vef else s.rd RING_VEF_CFG.MAX_CLASS t.vef)

/-- The pool that step 2 finds for an attachment of a thaw into a fresh VEF, with the digest of the attachment's image. -/
def State.foundPool (s : State) (t : Thaw) (a : Attach) : List (Nat × Bytes) :=
  if t.fresh ∧ a.pool ≠ 0 then (s.poolFor t.area t.vef (a.pool % 16)).toList.map (fun p => (p, a.digest)) else []

/-- The FIELD_LOAD that firmware makes for an attachment. -/
def State.thawLoad (s : State) (t : Thaw) (a : Attach) (pool : Nat) : Cmd :=
  let v := t.vef
  let desc := leBytes 2 0x20 ++ leBytes 2 v ++ leBytes 4 (s.rd RING_VEF_ASID.ASID v a.ring) ++
    leBytes 8 (s.rd RING_VEF_CFG.STREAM_ID v) ++ leBytes 8 0 ++ leBytes 8 a.image ++ leBytes 8 a.plan ++
    leBytes 8 a.planLen ++ leBytes 4 0xFFFFFFFF ++ leBytes 4 pool ++ leBytes 8 0
  Cmd.mk v a.ring (s.thawClass t) 0 0 desc 0 s.fetched []

/-- What trying to restore an attachment comes to. -/
inductive Restore where
  | done (s : State) (field : Nat)
  | loading (s : State) (serial field : Nat)
  | wait
  | fail (s : State)
  deriving DecidableEq, Repr

/-- One attachment restored: re-attached where its field still stands, else loaded. -/
def State.restoreOne (s : State) (t : Thaw) (a : Attach) : Restore :=
  let keep := if t.fresh then none else s.intact a
  match keep with
  | some f => .done (s.attachField f t.vef) f
  | none =>
    let p := if t.fresh ∧ a.pool ≠ 0 then s.poolFor t.area t.vef (a.pool % 16) else some (a.pool % 16)
    match p with
    | none => .fail s
    | some p =>
      let pool := if a.pool = 0 then 0 else if t.fresh then p + s.rd VLY_POOL.GENERATION p * 65536 else a.pool
      let c := s.thawLoad t a pool
      let x := c.imgAt
      let h := s.imgHdr x
      let twin := s.loadTwin t.vef (c.cls == 0) h.digest c.serial
      let cause := s.imgCause x (c.cls == 0) a.plan a.planLen
      if cause ≠ 0 then .fail (s.noteLoadFail none 0x22 cause)
      else match (if s.persistW x then none else s.attachTo t.vef (c.cls == 0) h.digest) with
        | some f => .done (s.attachField f t.vef) f
        | none =>
          if twin ∧ !s.persistW x then .wait
          else if s.poolBad c h.pageSize then .fail s
          else match s.placement h.fits .fresh with
            | none => .fail (s.noteLoadFail none 0x21 0x10)
            | some q =>
              if hf : q.field < 17 then
                let l := { s.mkLoad c x q with cmd := none }
                let s := { s with fetched := s.fetched + 1 }
                .loading (s.startLoad ⟨q.field, hf⟩ l) l.serial q.field
              else .fail s

/-! ## The end of a thaw -/

/-- A thaw in progress stored, and one that has ended removed. -/
def State.setThaw (s : State) (t : Thaw) : State :=
  { s with thaws := s.thaws.map (fun u => if u.cmd.serial = t.cmd.serial then t else u) }
def State.dropThaw (s : State) (t : Thaw) : State :=
  { s with thaws := s.thaws.filter (fun u => u.cmd.serial != t.cmd.serial) }

/-- The ASIDs of a VEF's rings. -/
def State.asidsOf (s : State) (v : Nat) : List Nat := (List.range 8).map (fun r => s.rd RING_VEF_ASID.ASID v r)
def State.setAsids (s : State) (v : Nat) (l : List Nat) : State :=
  l.zipIdx.foldl (fun s a => s.wr RING_VEF_ASID.ASID a.1 v a.2) s

/-- A thaw fails with cause 0x07: the fields it has restored are released. -/
def State.thawFail (s : State) (t : Thaw) : State :=
  let s := t.done.foldl (fun s d => if hf : d.2 < 17 then s.detach ⟨d.2, hf⟩ t.vef (!t.fresh) [] else s) s
  let s := if t.fresh then s.setAsids t.vef t.asids else s
  ((s.dropThaw t).wr VEF_STAT.THAW_CAUSE 7 t.vef).complete t.cmd 0x21 0 0

/-- The rings of a fresh VEF restored from a save area (12 R308 step 1). -/
def State.restoreRings (s : State) (a : Bytes) (v : Nat) : State :=
  let o := 0x100
  let s := s.each 8 (fun r s => (s.setRegBytes .sqCfg v r (Bytes.sub a (o + r * 32) 30)).wr DB_SQ_TAIL.TAIL (Bytes.num a (o + r * 32 + 30) 2) v r)
  let s := (s.setRegBytes .cqCfg v 0 (Bytes.sub a (o + 256) 32)).setRegBytes .eqCfg v 0 (Bytes.sub a (o + 288) 32)
  let s := s.wr RING_VEF_CFG.MAX_CLASS (s.savedClass a v) v
  let s := (s.wr DB_CQ_HEAD.HEAD (Bytes.num a (o + 356) 4) v).wr DB_EQ_HEAD.HEAD (Bytes.num a (o + 360) 4) v
  let ph := Bytes.num a (o + 364) 4
  s.setV v { s.vrt v with
    cqPhase := ph.testBit 0,
    eqPhase := ph.testBit 1,
    aqPhase := ph.testBit 2,
    reserved := Bytes.num a (o + 368) 4,
    lost := Bytes.num a (o + 372) 4 % 65536 }

/-- The ASIDs of a save area. -/
def savedAsids (a : Bytes) : List Nat := (List.range 8).map (fun r => Bytes.num a (0x100 + 324 + r * 4) 4 % 2 ^ 20)

/-- The pins of a save area applied again (12 R308 step 6). -/
def State.restorePins (s : State) (t : Thaw) : State :=
  t.held.pins.foldl (fun s pin =>
    let p := match t.held.attach.find? (fun a => a.pool != 0 && a.pool % 16 == pin.pool) with
      | some a => match t.done.find? (fun d => d.1 == a.handle) with
        | some d => (s.poolOf d.2).getD pin.pool
        | none => pin.pool
      | none => pin.pool
    let pin : Pin := { pin with pool := p, domain := s.rd VEF_CTL.DOMAIN t.vef }
    match s.pinned pin with
    | some x =>
      let s := s.pfxPins x (· + 1)
      s.setV t.vef { s.vrt t.vef with pins := (s.vrt t.vef).pins ++ [pin] }
    | none => s) s

/-- A kept command rewritten for its target (12 R308 step 5): source fields and field handle. -/
def State.rewriteCmd (s : State) (t : Thaw) (c : Cmd) : Cmd :=
  let v := t.vef
  let h := c.op 0x30 4
  let named := c.engine == 0 && !opCommon c.opcode
  let new := match t.done.find? (fun d => d.1 == h) with
    | some d => s.handle d.2
    | none => h
  let d := Bytes.patch c.desc 2 (leBytes 1 v)
  let d := Bytes.patch (Bytes.patch d 4 (leBytes 4 (s.rd RING_VEF_ASID.ASID v c.ring))) 8 (leBytes 4 (s.rd RING_VEF_CFG.STREAM_ID v))
  { c with desc := if named then Bytes.patch d 0x30 (leBytes 4 new) else d }

/-- The class and engine of a kept command of a save area, from its restored ring. -/
def State.rankCmd (s : State) (v : Nat) (c : Cmd) : Cmd :=
  { c with engine := s.rd SQ_CFG.ENGINE v c.ring, cls := s.ringClass v c.ring }

/-- Kept commands returned, in saved order, to the heads of their queues; one whose field is gone completes with
NO_FIELD. -/
def State.requeueKept (s : State) (cs : List Cmd) : State :=
  let r := cs.foldl (fun (acc : State × List (Res × Cmd)) c =>
    match acc.1.routeCmd c with
    | .error st => (acc.1.complete c st 0 0, acc.2)
    | .ok res =>
      let rt := acc.1.ringRt c.vef c.ring
      let rt := if c.fieldCmd then (match res with
        | .field f => { rt with lastField := some f.val }
        | _ => rt) else rt
      let rt := if c.opcode = 2 then { rt with fence := some c.serial } else rt
      (acc.1.setRing c.vef c.ring rt, acc.2 ++ [(res, c)])) (s, [])
  { r.1 with queue := r.2 ++ r.1.queue }

/-- A thaw ends well: rings, commands, pins and the pending record are back, the VEF is ACTIVE, its first accounting
window begins, and it learns of changed handles and of the thaw (12 R308–R310). -/
def State.thawFinish (s : State) (t : Thaw) : State :=
  let v := t.vef
  let s := s.dropThaw t
  let s := if t.fresh then
      let s := t.pools.foldl (fun s p => s.adoptPool t p.1 p.2) (s.restoreRings t.area v)
      let s := s.restorePins t
      let s := { s with fetched := s.fetched + t.held.kept.length }
      let pend := Bytes.sub t.area 0x440 64
      if pend.all (· == 0) then s else s.setV v { s.vrt v with acctPending := [readAcct pend] }
    else s
  let kept := t.held.kept.map (fun c => s.rewriteCmd t (if t.fresh then s.rankCmd v c else c))
  let s := s.requeueKept kept
  let s := s.wr VEF_CTL.STATE vActive v
  let on := s.flag RING_VEF_AQ_CTL.ENABLE v
  let s := s.setV v { s.vrt v with held := none, acctOpen := on, acct := Acct.opened s.vehicleNs }
  let s := t.done.foldl (fun s d => if s.handle d.2 = d.1 then s else s.event v 0x40 (s.handle d.2) d.1) s
  ((s.each 8 (fun r s => s.refreshIdle v r)).event v 0x41 0 t.held.freezeTime).complete t.cmd 0 0 0

/-- A thaw carried on: attachments are restored one after another until one must be waited for. -/
def State.thawRun (s : State) (t : Thaw) : Nat → State
  | 0 => s.setThaw t
  | n + 1 =>
    match t.loading with
    | some (serial, f, old) =>
      if s.loads.any (fun l => l.serial == serial) then s.setThaw t
      else if (s.frt f).attached.contains t.vef then
        s.thawRun { t with loading := none, done := t.done ++ [(old, f)] } n
      else s.thawFail t
    | none => match t.todo with
      | [] => s.thawFinish t
      | a :: rest =>
        let found := t.pools ++ s.foundPool t a
        match s.restoreOne t a with
        | .done s f => s.thawRun { t with todo := rest, pools := found, done := t.done ++ [(a.handle, f)] } n
        | .loading s serial f => s.setThaw { t with todo := rest, pools := found, loading := some (serial, f, a.handle) }
        | .wait => s.setThaw t
        | .fail s => s.thawFail t

/-- A thaw begins (12 R307, R309). -/
def State.thawBegin (s : State) (c : Cmd) (e : Nat) : State :=
  let v := c.op 0x28 1
  let go (s : State) (t : Thaw) : State := { s with thaws := s.thaws ++ [t] }.thawRun t (2 * t.todo.length + 2)
  match (if v < 128 ∧ s.rd VEF_CTL.STATE v = vFrozen then (s.vrt v).held else none) with
  | some h => go (s.dequeue c.serial) ⟨c, e, v, false, [], h, h.attach, [], none, [], []⟩
  | none =>
    let cause := s.thawCause c
    let s := s.ctxTouch c.ctx (c.op 0x18 8) (c.op 0x20 8)
    if cause ≠ 0 then (s.wr VEF_STAT.THAW_CAUSE cause v).endQueued c 0x40 4 0
    else
      let a := s.savedArea c
      let h := savedHeld a v s.fetched
      let s := { s.dequeue c.serial with fetched := s.fetched + h.kept.length }
      let old := s.asidsOf v
      go (s.setAsids v (savedAsids a)) ⟨c, e, v, true, a, h, h.attach, [], none, old, []⟩

end Sys2Proof.Machine
end

