-- ==== Sys2Proof/Machine/Tenancy.lean ====
section
/-! DEFINITION. The commands of tenancy (chapter 12): enabling, disabling, resetting, freezing and thawing a VEF. -/

namespace Sys2Proof.Machine

/-! ## Enable and disable (12 R297, R298) -/

/-- ENABLE of a VEF written 1: its key slot is generated, KEY_EPOCH counts and its violation counters clear. -/
def State.vefEnable (s : State) (v : Nat) : State :=
  if s.rd VEF_CTL.STATE v ≠ vDisabled ∨ s.flag VEF_CTL.ENABLE v then s
  else
    let s := ((s.wr VEF_CTL.ENABLE 1 v).incWrap VEF_STAT.KEY_EPOCH v)
    let s := [VEF_VIOL.REG, VEF_VIOL.IOMMU, VEF_VIOL.REGION, VEF_VIOL.FABRIC].foldl (fun s f => s.wr f 0 v) s
    s.keyForVef v true

/-- ENABLE written 0 may be accepted: no valid region selects the key slot and no VALID pool is owned. -/
def State.mayDisable (s : State) (v : Nat) : Bool :=
  !s.slotInUse v && !(List.range 16).any (fun p => s.flag VLY_POOL.VALID p && s.rd VLY_POOL.OWNER p == v) &&
    (s.rd VEF_CTL.STATE v == vActive || s.rd VEF_CTL.STATE v == vFrozen)

/-- ENABLE of a VEF written 0. -/
def State.vefDisable (s : State) (v : Nat) : State :=
  if !s.flag VEF_CTL.ENABLE v then s
  else if !s.mayDisable v then s.inc VEF_GLB.CFG_REFUSED
  else
    let s := s.wr VEF_CTL.ENABLE 0 v
    (s.setV v { s.vrt v with disabling := true }).resetVef v

/-- VEF_ENABLE. -/
def execVefEnable (src : Source) (vef : Fin 128) (s : State) : Ans :=
  .next (s.asWho src (RegName.vefCtl.addr vef) Requester.fwHyp (fun s => s.vefEnable vef))

/-- VEF_DISABLE. -/
def execVefDisable (src : Source) (vef : Fin 128) (s : State) : Ans :=
  .next (s.asWho src (RegName.vefCtl.addr vef) Requester.fwHyp (fun s => s.vefDisable vef))

/-! ## Reset (12 R303, R304) -/

/-- VEF_RESET. -/
def execVefReset (src : Source) (vef : Fin 128) (s : State) : Ans :=
  .next (s.asWho src (RegName.vefCtl.addr vef) Requester.fwHyp (fun s => s.resetVef vef))

/-- A reset ends once every transfer of the VEF has finished or been squashed: the VEF is ACTIVE again, or its key slot is
zeroised and it is DISABLED. -/
def State.resetDone (s : State) (v : Nat) : State :=
  if s.rd VEF_CTL.STATE v ≠ vResetting ∨ !s.resetQuiet v then s
  else
    let s := s.wr VEF_CTL.RESET 0 v
    let x := s.vrt v
    if x.disabling then
      let s := s.setV v { x with disabling := false, acctOpen := false }
      (s.keyForVef v false).wr VEF_CTL.STATE vDisabled v
    else (s.wr VEF_CTL.STATE vActive v).wr VEF_STAT.RESET_DONE 1 v

/-- A PCIe function is there: the physical function, or a virtual function within NumVFs while VF Enable is 1. -/
def State.functionOn (s : State) (f : Nat) : Bool := f == 0 || (s.gw.vfEnable && decide (f ≤ s.gw.numVfs))

/-- FUNCTION_LEVEL_RESET: an FLR of virtual function i resets VEF i in endpoint mode; a virtual function that is not there
answers no request (12 R296). -/
def execFunctionLevelReset (vef : Fin 128) (s : State) : Ans :=
  if s.flag SYS_STRAP.PCIE_MODE && decide (vef.val ≠ 0) && s.functionOn vef then .next (s.resetVef vef) else .next s

/-! ## Freeze (12 R305, R306) -/

/-- The head of a DMA engine's queues with a firmware opcode that may be admitted. -/
def State.firmwareHead (s : State) (e : Fin 4) (op : Nat) : Option Cmd :=
  [0, 1, 2, 3].findSome? (fun cls => match s.headIs (.dma e) cls op with
    | some c => if s.waits c || !s.vefRuns c.vef then none else some c
    | none => none)

/-- A VEF_FREEZE admitted. -/
def State.freeze (s : State) (c : Cmd) : State :=
  let v := c.op 0x28 1
  let st := s.rd VEF_CTL.STATE v
  if v = c.vef ∨ st = vDisabled ∨ st = vResetting then s.endQueued c 0x40 4 0
  else if st = vFreezing then s
  else if st = vFrozen then
    match (s.vrt v).held with
    | some h => (s.dequeue c.serial).answerFreeze c v h
    | none => s
  else (s.dequeue c.serial).beginFreeze v (some c) (s.localNs + s.rd VEF_GLB.FREEZE_KILL_MS * 1000000) false

/-- VEF_FREEZE. -/
def execVefFreeze (engine : Fin 4) (s : State) : Ans :=
  if s.fwOut 2 then .next s else
  match s.firmwareHead engine 0x70 with
  | some c => .next (s.freeze c)
  | none => .next s

/-- FREEZE_KILL_EXPIRY: commands of a freezing VEF still uncommitted after the kill time are killed and kept. -/
def execFreezeKillExpiry (vef : Fin 128) (s : State) : Ans :=
  if s.fwOut 2 then .next s else
  match (s.vrt vef).freeze with
  | some f => if f.killAt ≤ s.localNs then .next (s.freezeKill vef) else .next s
  | none => .next s

/-- A freeze whose drain is complete ends. -/
def State.freezeDone (s : State) (v : Nat) : State :=
  match (s.vrt v).freeze with
  | some f => if s.rd VEF_CTL.STATE v = vFreezing ∧ s.drained v then s.endFreeze v f else s
  | none => s

/-! ## Thaw (12 R307–R309) -/

/-- VEF_THAW: a thaw in progress on the engine is carried on, else the next one begins. -/
def execVefThaw (engine : Fin 4) (s : State) : Ans :=
  if s.fwOut 2 then .next s else
  match s.thaws.find? (fun t => t.engine == engine.val) with
  | some t => .next (s.thawRun t (2 * t.todo.length + 3))
  | none => match s.firmwareHead engine 0x71 with
    | some c =>
      if s.thaws.any (fun t => t.vef == c.op 0x28 1) then .next s else .next (s.thawBegin c engine)
    | none => .next s

end Sys2Proof.Machine
end

