-- ==== Sys2Proof/Machine/Units.lean ====
section
/-! DEFINITION. The commands of the units with an ENABLE bit (16 R403): display heads, Pass ports, CAN controllers and
Ethernet switch ports. -/

namespace Sys2Proof.Machine

/-- The register whose ENABLE a unit has; a Pass port is named by its link register. -/
def unitAddr : UnitSel → Nat
  | .pass p => RegName.passLinkCfg.addr p
  | .can c => RegName.gwCan.addr c
  | .head h => RegName.dspHead.addr h
  | .eth p => RegName.gwPort.addr p

/-- Who may write a unit's ENABLE: firmware and the hypervisor, but for CAN controllers 14 and 15, which are the Cantle's
(14 R356). -/
def unitBy (u : UnitSel) (w : Requester) : Bool :=
  match u with
  | .can c => if c.val ≥ 14 then w.isCantle else w.fwHyp
  | _ => w.fwHyp

/-- ENABLE of a CAN controller going from 0 to 1: its rings are empty, and a bus-off is over (14 R358, R366). -/
def State.canEnable (s : State) (c : Fin 16) : State :=
  if s.flag GW_CAN.ENABLE c then s
  else
    let s := [GW_CAN.RX_HEAD, GW_CAN.RX_TAIL, GW_CAN.TX_HEAD, GW_CAN.TX_TAIL, GW_CAN.BUS_OFF, GW_CAN.TEC, GW_CAN.REC].foldl
      (fun s f => s.wr f 0 c) s
    { s with gw := { s.gw with phase := Sparse.put true s.gw.phase c true } }

/-- ENABLE of a unit written 1. -/
def State.enableUnit (s : State) (u : UnitSel) : State :=
  match u with
  | .head h => s.headEnable h
  | .can c => (s.canEnable c).unitOnWrite u
  | _ => s.unitOnWrite u

/-- UNIT_ENABLE. -/
def execUnitEnable (src : Source) (unit : UnitSel) (s : State) : Ans :=
  .next (s.asWho src (unitAddr unit) (unitBy unit) (fun s => s.enableUnit unit))

/-- UNIT_DISABLE. -/
def execUnitDisable (src : Source) (unit : UnitSel) (s : State) : Ans :=
  .next (s.asWho src (unitAddr unit) (unitBy unit) (fun s => s.unitOffWrite unit))

/-- What follows from a unit coming ON. -/
def State.unitUp (s : State) (u : UnitSel) : State :=
  match u with
  | .head h => s.setHead h { HeadRt.rest with shown := (s.head h).shown }
  | .pass p => s.portOn p
  | _ => s

/-- A frame of a port dropped before its transmission: an entry with DROPPED for a timestamp request (14 R354). -/
def State.dropStamp (s : State) (e : Egress) : State :=
  match e.stamp with
  | some (id, base) => { s with gw := { s.gw with leaving := s.gw.leaving ++ [TxStamp.mk e.port id base true 0] } }
  | none => s

/-- The frames that wait at a port dropped. -/
def State.dropEgress (s : State) (p : Nat) : State :=
  let gone := s.gw.egress.filter (fun e => e.port == p)
  gone.foldl (fun s e => s.dropStamp e) { s with gw := { s.gw with egress := s.gw.egress.filter (fun e => e.port != p) } }

/-- What follows from a unit going OFF. -/
def State.unitDown (s : State) (u : UnitSel) : State :=
  match u with
  | .pass p => s.linkDown p
  | .eth p => (s.wr GW_PORT.LINK 0 p).dropEgress p
  | .head _ => s.stopPlls
  | .can _ => s

/-- UNIT_STARTING_DONE: ON, or STOPPING where a write has opposed the transition. -/
def execUnitStartingDone (unit : UnitSel) (s : State) : Ans :=
  if s.unitState unit ≠ uStarting ∨ s.rd PWR_DOM.STATE (unitDomain unit) ≠ domOn then .next s
  else if s.unitPending unit then .next ((s.setPending unit false).setUnit unit uStopping)
  else .next ((s.setUnit unit uOn).unitUp unit)

/-- UNIT_STOPPING_DONE: OFF, or STARTING where a write has opposed the transition. -/
def execUnitStoppingDone (unit : UnitSel) (s : State) : Ans :=
  if s.unitState unit ≠ uStopping then .next s
  else
    let again := s.unitPending unit
    let t := ((s.setPending unit false).setUnit unit uOff).unitDown unit
    .next (if again then t.startUnit unit else t)

/-- UNIT_START_TIMEOUT: a unit not ON within its bound stays in STARTING and is taken out of service (11 R291). -/
def execUnitStartTimeout (unit : UnitSel) (s : State) : Ans :=
  let since := Sparse.look 0 s.power.unitSince (unitBist unit)
  if s.unitState unit = uStarting ∧ since + unitBound unit ≤ s.localNs ∧ s.rd BIST_UNIT.STATE (unitBist unit) = 0 then
    .next (s.unitOut (unitBist unit))
  else .next s

end Sys2Proof.Machine
end

