-- ==== Sys2Proof/Machine/ModeOps.lean ====
section
/-! DEFINITION. The shared operations of the mode machine (chapter 1, 16 R404, R410–R412): requests, the park sequence,
DEPOT entry, and the ways back to DRIVE. Sequences without a row of their own run in the step that starts them. -/

namespace Sys2Proof.Machine

/-! ## Transitions -/

/-- A transition set or ended, as IN_TRANSITION shows it. -/
def State.setTrans (s : State) (t : Option Trans) : State :=
  let s := s.wr SYS_MODE.IN_TRANSITION (b2n t.isSome)
  { s with mode := { s.mode with trans := t, since := s.localNs } }

/-- A mode entered. -/
def State.enterMode (s : State) (m : Nat) : State := (s.wr SYS_MODE.CURRENT m).setTrans none

/-- The Cantle holds a sleep permission received in the last second (01 R15, 10 R270). -/
def State.maySleep (s : State) : Bool :=
  match s.saf.sleepAt with
  | some t => within t 1000000000 s.vehicleNs
  | none => false

/-! ## Fields and VEFs taken down at once -/

/-- A VEF reset from its start to its end. -/
def State.resetNow (s : State) (v : Nat) : State :=
  let s := s.resetVef v
  if s.rd VEF_CTL.STATE v ≠ vResetting then s
  else
    let s := (s.loads.filter (fun l => l.attach.contains v)).foldl (fun s l =>
      if hf : l.field < 17 then s.cancelLoad ⟨l.field, hf⟩ l false else s) s
    let s := s.wr VEF_CTL.RESET 0 v
    let x := s.vrt v
    if x.disabling then
      ((s.setV v { x with disabling := false, acctOpen := false }).setKey v false).wr VEF_CTL.STATE vDisabled v
    else (s.wr VEF_CTL.STATE vActive v).wr VEF_STAT.RESET_DONE 1 v

/-- A field released to FREE: its clusters are zeroed, but one out of service. -/
def State.freeField (s : State) (f : Fin 17) : State :=
  let s := (s.dropGoldens f).endQueue f
  let s := { s with loads := s.loads.filter (fun l => l.field != f.val) }
  if s.fState f = stFree then s
  else
    let s := if s.fState f = stClearing then s else s.enterClearing f []
    let s := ((s.clustersOf f).filter (fun k => s.rd BIST_UNIT.STATE k != 1)).foldl (fun s k => s.zeroCluster k) s
    (s.setF f { s.frt f with fenced := false }).setState f stFree

/-- A field holds no driving image: only tenant VEFs are attached to it. -/
def State.tenantOnly (s : State) (f : Nat) : Bool :=
  !(s.frt f).attached.isEmpty && (s.frt f).attached.all (fun v => v != cantleSet && s.flag VEF_CTL.TENANT v)

/-- The driving fields that are loaded again on the way back to DRIVE: those with an image in the resident region. -/
def State.residents (s : State) (p : Nat → Bool) : List Resident :=
  (List.finRange 17).filterMap (fun (f : Fin 17) => match (s.frt f).image with
    | some i =>
      if p f && s.fState f != stFree && s.fState f != stClearing && s.inRegion rgnResident i.addr i.size then
        some (Resident.mk f i (s.frt f).attached (s.isSafety f)
          (s.rd PLAIN_FLD_CFG.ORIGIN_X f, s.rd PLAIN_FLD_CFG.ORIGIN_Y f, s.fWidth f, s.fHeight f))
      else none
    | none => none)

/-- A driving field loaded again by firmware: a load like any other, whose image and signature are checked first
(04 R85, R106, R107). -/
def State.reloadOne (s : State) (r : Resident) : State :=
  let cause := s.imgCause (s.imgOf r.image) r.safety r.image.plan r.image.planLen
  if cause ≠ 0 then s.noteLoadFail none 0x22 cause
  else if hf : r.field < 17 then
    let l : Load := { field := r.field, cmd := none, image := r.image, cls := if r.safety then 0 else 1, reinit := false,
                      phase := .waitStitch, serial := s.fetched, cause := 0, kill := 0, attach := r.attached, rect := r.rect,
                      wins := s.planWins (s.imgOf r.image) r.image.plan, bind := none }
    { s with fetched := s.fetched + 1 }.startLoad ⟨r.field, hf⟩ l
  else s

/-- Every driving field loaded again. -/
def State.reloadAll (s : State) : State :=
  let rs := s.mode.reload
  rs.foldl (fun s r => s.reloadOne r) { s with mode := { s.mode with reload := [] } }

/-- A unit OFF at once, with what follows from it. -/
def State.unitStop (s : State) (u : UnitSel) : State := (s.unitOff u).unitDown u

/-! ## Parking (16 R404, R408, R410, 01 R24) -/

/-- Earliest expiry of a timer of `secs` seconds started now: 100 ppm and 1 s before its set value; none for 0. -/
def State.timerAt (s : State) (secs : Nat) : Option Nat :=
  if secs = 0 then none else some (s.localNs + (secs * 1000000000 - (secs * 100000 + 1000000000)))

/-- The register fields that a park-cold boot keeps: the safe state among them, whose sequencer stands in the always-on domain
(10 R263). -/
def parkColdKeeps : List Nat :=
  [SAF_CTL.SAFE_STATE.code 0 0, SAF_CTL.FAULT_N_LOW.code 0 0, SAF_CTL.STATUS.code 0 0, TB_INC.INC.code 0 0, TB_INC.INC.code 1 0, TB_INC.INC.code 2 0, SYS_MODE.WAKE_SRC.code 0 0, SYS_MODE.REFUSED.code 0 0,
   SYS_PARK.WARM_S.code 0 0, SYS_PARK.COLD_WAKE_S.code 0 0, SYS_STRAP.BOOT_SRC.code 0 0, SYS_STRAP.PCIE_MODE.code 0 0,
   SYS_STRAP.TEST_EN.code 0 0]

/-- A cold state that keeps what stands outside the device: flash, the external host's memory, what has left, the
commands that wait, and the model's counter of free values. -/
def State.coldFrom (s : State) (cause : Nat) : State :=
  { State.cold cause s.fw.flash with hostMem := s.hostMem, remoteMem := s.remoteMem, remoteErr := s.remoteErr, out := s.out, pending := s.pending, freeCount := s.freeCount }

/-- PARK_COLD entered: PMIC_EN falls, and all but the always-on domain is lost. -/
def State.parkCold (s : State) : State :=
  let t := s.coldFrom 1
  let t := { t with
    regs := s.regs.filter (fun e => parkColdKeeps.contains e.1), time := { s.time with hold := [], step := [] },
    mode := { t.mode with trans := none }, saf := { t.saf with gate := s.saf.gate },
    power := { t.power with rails := s.power.rails.filter (fun r => decide (r ≤ 1)) } }.joinDomains
  let t := (((t.wr SYS_MODE.CURRENT mCold).wr SYS_MODE.IN_TRANSITION 0).wr SYS_MODE.WAKE_SRC 0).wr TB_STAT.PARK_CLK 1
  { t with mode := { t.mode with coldTimer := t.timerAt (t.rd SYS_PARK.COLD_WAKE_S) } }

/-- The device's state of work dropped: queues, commands in flight, golden frames, and requests of the bridge. -/
def State.dropWork (s : State) : State :=
  let s := s.setV cantleSet { s.vrt cantleSet with reserved := 0 }
  { s with queue := [], flight := [], engKill := [], thaws := [], loads := [],
           saf := { s.saf with goldens := [], forced := [], fallback := [] },
           disp := { s.disp with pend := [] },
           pass := { s.pass with reqs := [], parked := [], slotWait := [], lineWait := [], locks := [], reserved := [] },
           gw := { s.gw with egress := [] } }

/-- FAULT_N is driven low from every cold and warm reset (10 R263), and in PARK (18 R437). -/
def State.faultLow (s : State) : State := if s.flag SAF_CTL.FAULT_N_LOW then s else s.emit (.faultN false)

/-- PARK_WARM entered: every field is FREE, every unit OFF, HBM in self-refresh and MAIN_EN low. What the registers hold is
the state that firmware saves (16 R410 step 4). -/
def State.parkDown (s : State) (reload : List Resident) : State :=
  let s := (List.finRange 17).foldl (fun s f => s.freeField f) s
  let ran := s.flag FUS_CTL.RUN
  let s := s.runStop
  let s := if ran then s.wr FUS_CTL.RUN 1 else s
  let s := (allUnits.foldl (fun s u => s.unitStop u) s).dropWork
  let s := s.each 24 (fun d s => if d = 9 ∨ d = 10 then s else s.wr PWR_DOM.STATE 0 d)
  let s := ((s.enterMode mWarm).wr SYS_MODE.WAKE_SRC 0).wr TB_STAT.PARK_CLK 1
  let s := s.faultLow.wr SAF_CTL.FAULT_N_LOW 1
  let m := s.mode
  { s with
    mode := { m with reload := reload, ranFusion := ran, selfRefresh := true, mainEn := false, tenantStop := false,
                     clockMhz := 1100, clockTo := none, avsWait := false, warmTimer := s.timerAt (s.rd SYS_PARK.WARM_S) },
    power := { s.power with rails := s.power.rails.filter (fun r => decide (r ≤ 1 ∨ 5 ≤ r ∧ r ≤ 8)),
                            locked := s.power.locked.filter (fun p => p == 11 || p == 12) },
    saf := { s.saf with held := true, coreB := false, released := none, kick := none, sleepAt := none },
    fw := { s.fw with running := false } }.joinDomains

/-- PARK_WARM entered with the status frame ASLEEP, which the Cantle does not send in the safe state (10 R263). -/
def State.parkWarm (s : State) (reload : List Resident) : State :=
  (if s.flag SAF_CTL.SAFE_STATE then s else s.sendStatus 7).parkDown reload

/-- Every VEF that is not FROZEN or DISABLED reset. -/
def State.resetAll (s : State) : State :=
  s.each 128 (fun v s =>
    if s.rd VEF_CTL.STATE v = vActive ∨ s.rd VEF_CTL.STATE v = vFreezing ∨ s.rd VEF_CTL.STATE v = vResetting then s.resetNow v
    else s)

/-- The park sequence from DRIVE, and on to PARK_COLD. -/
def State.parkNow (s : State) (cold : Bool) : State :=
  let rs := s.residents (fun _ => true)
  let s := s.resetAll.parkWarm rs
  if cold then s.parkCold else s

/-! ## DEPOT (01 R15, R16, R19, R20) -/

/-- A VEF is a tenant whose freeze the device waits for. -/
def State.tenantBusy (s : State) (v : Nat) : Bool :=
  let st := s.rd VEF_CTL.STATE v
  s.flag VEF_CTL.TENANT v && (st == vActive || st == vFreezing || st == vResetting)

/-- Every ACTIVE tenant is frozen by firmware, with a kill time 450 ms after now; a freeze in progress takes that kill
time too. -/
def State.freezeTenants (s : State) : State :=
  let s := { s with mode := { s.mode with tenantStop := true } }
  s.each 128 (fun v s =>
    if !s.flag VEF_CTL.TENANT v then s
    else if s.rd VEF_CTL.STATE v = vActive then s.beginFreeze v none (s.localNs + 450000000) true
    else match (s.vrt v).freeze with
      | some z => s.setV v { s.vrt v with freeze := some { z with killAt := min z.killAt (s.localNs + 450000000) } }
      | none => s)

/-- The end of a move out of DEPOT, once every tenant is frozen or reset. -/
def State.leaveDepot (s : State) : State :=
  match s.mode.trans with
  | some .depotDrive =>
    let s := (List.finRange 17).foldl (fun s f => if f.val = 16 then s else s.freeField f) s
    let s := (s.enterMode mDrive).reloadAll
    let s := { s with mode := { s.mode with tenantStop := false } }
    (List.finRange 6).foldl (fun s h => s.restartUnit (.head h)) s
  | some (.depotPark cold) =>
    let s := s.resetAll.parkWarm (s.mode.reload ++ s.residents (fun f => f == 16))
    if cold then s.parkCold else s
  | _ => s

/-- The move out of DEPOT ends when no tenant has work left. -/
def State.modeProgress (s : State) : State :=
  if (List.range 128).any s.tenantBusy then s else s.leaveDepot

/-- The move from DEPOT to PARK_WARM, or on to PARK_COLD, begins; it suspends the window watchdog (10 R271). -/
def State.depotPark (s : State) (cold : Bool) : State :=
  let s := { s with saf := { s.saf with kick := none, released := none } }
  (((s.setTrans (some (.depotPark cold))).decideClock 1100).freezeTenants).modeProgress

/-- DEPOT entered, once the arithmetic clock runs at 1.32 GHz; an authorisation lost meanwhile ends it at once. -/
def State.depotIn (s : State) : State :=
  let s := (s.enterMode mDepot).wr SYS_MODE.WAKE_SRC 0
  if s.flag SYS_MODE.DEPOT_AUTH && s.flag SYS_MODE.COOLANT then s else s.depotPark false

/-- The release steps of R16: non-tenant VEFs are reset; then every field but the Shadow field and those to which only tenants
are still attached is released, and the render engine, whose work in flight returns to its queue, and the heads go OFF. The
Shadow field keeps its image and its VEFs. -/
def State.depotEnter (s : State) : State :=
  let s := s.setTrans (some .depot)
  let rs := s.residents (fun f => f != 16 && !s.tenantOnly f)
  let old := (s.frt 16).attached
  let s := s.setF 16 { s.frt 16 with attached := cantleSet :: old }
  let s := s.each 128 (fun v s =>
    if !s.flag VEF_CTL.TENANT v ∧ s.rd VEF_CTL.STATE v = vActive then s.resetNow v else s)
  let s := s.setF 16 { s.frt 16 with attached := old }
  let free : List (Fin 17) := (List.finRange 17).filter (fun (f : Fin 17) => f.val != 16 && !s.tenantOnly f)
  let s := free.foldl (fun s f => s.freeField f) s
  let s := { s with engKill := Sparse.put none s.engKill 0 none }.requeue .render
  let s := (List.finRange 6).foldl (fun s h => s.unitStop (.head h)) s
  let s := { s with mode := { s.mode with reload := rs } }.decideClock 1320
  if s.mode.clockTo.isNone then s.depotIn else s

/-! ## Requests (01 R15, R23) -/

/-- A request refused. -/
def State.refuseMode (s : State) : State := s.inc SYS_MODE.REFUSED

/-- A write of SYS_MODE.REQUEST. No requester runs in PARK. DESIGN CHOICE: a request while another transition is in progress
matches no row of R15 and is refused; the manual is silent on it. DEDUCED: so is one in the safe state, which no register
write leaves (10 R263). -/
def State.requestMode (s : State) (m : Nat) : State :=
  if !s.outsidePark then s
  else
    let s := s.wr SYS_MODE.REQUEST m
    if m = 0 then s
    else if s.mode.trans.isSome || s.flag SAF_CTL.SAFE_STATE then s.refuseMode
    else if s.cur = mDrive ∧ (m = mWarm ∨ m = mCold) then
      if s.maySleep then s.parkNow (m == mCold) else s.refuseMode
    else if s.cur = mDrive ∧ m = mDepot then
      if s.maySleep && s.flag SYS_CFG.DEPOT_EN && s.flag SYS_MODE.DEPOT_AUTH && s.flag SYS_MODE.COOLANT then s.depotEnter
      else s.refuseMode
    else if s.cur = mDepot ∧ (m = mWarm ∨ m = mCold) then s.depotPark (m == mCold)
    else s.refuseMode

/-! ## Wake (01 R17, R19, R21, R22, 16 R411) -/

/-- A wake in DEPOT, or on the way into or out of it: every tenant VEF learns by when it is frozen (06 R160). -/
def State.depotWake (s : State) : State :=
  let s := (s.setTrans (some .depotDrive)).decideClock 1100
  let s := s.events ((List.range 128).filter (fun v => s.flag VEF_CTL.TENANT v)) 0x04 0 (s.localNs + 500000000)
  ({ s with saf := { s.saf with starting := true } }.freezeTenants).modeProgress

/-- A wake in PARK_WARM: rails, HBM and the Cantle are back, every submission ring is disabled, the driving fields load
and the units that were enabled start. -/
def State.warmWake (s : State) : State :=
  let s := { s with
    mode := { s.mode with warmTimer := none, mainEn := true, selfRefresh := false },
    power := { s.power with rails := List.range 11 },
    saf := { s.saf with held := s.flag SAF_CTL.SAFE_STATE,
                        coreB := !s.flag SAF_CTL.SAFE_STATE && secondCantle s.fw.manifest s.fw.record,
                        released := if s.flag SAF_CTL.SAFE_STATE then none else some s.localNs, starting := true, sleepCtr := none },
    fw := { s.fw with running := true } }.joinDomains
  let s := (s.enterMode mDrive).wr TB_STAT.PARK_CLK 0
  let s := (s.each 129 (fun v s => s.each 8 (fun r s => s.wr SQ_CFG.ENABLE 0 v r))).cantleRings
  let s := s.each 24 (fun d s => if s.domNeeded d then s.domainUp d else s)
  let s := s.reloadAll
  let s := allUnits.foldl (fun s u => s.restartUnit u) s
  if s.mode.ranFusion then { (s.wr FUS_CTL.RUN 0).runStart with mode := { s.mode with ranFusion := false } } else s

/-- The device leaves PARK_COLD for BOOT: PMIC_EN and MAIN_EN rise (01 R22, 16 R404, R412). -/
def State.coldWake (s : State) (park : Bool) : State :=
  let s := { s with mode := { s.mode with coldTimer := none, pmicEn := true, mainEn := true } }
  ((((s.wr SYS_MODE.CURRENT mBoot).wr SYS_RST.LAST_CAUSE 5).wr TB_STAT.PARK_CLK 0).setTrans (some (.boot park)))

/-- A wake event of a source: 1 CAN INH, 2 TC10, 3 wake identifier. -/
def State.wake (s : State) (src : Nat) : State :=
  let s := if s.rd SYS_MODE.WAKE_SRC = 0 then s.wr SYS_MODE.WAKE_SRC src else s
  match s.mode.trans with
  | some (.boot _) => { s with mode := { s.mode with trans := some (.boot false) } }
  | some .depotDrive => s
  | some _ => s.depotWake
  | none =>
    if s.cur = mWarm then s.warmWake
    else if s.cur = mCold then s.coldWake false
    else if s.cur = mDepot then s.depotWake
    else s

end Sys2Proof.Machine
end

