-- ==== Sys2Proof/Machine/FwOps.lean ====
section
/-! DEFINITION. The shared operations of firmware (chapter 15): the flash, the log, the device key and signatures, the
attestation report, and the depot authorisation (12 R300). -/

namespace Sys2Proof.Machine

/-! ## The device key (15 R388, R390) -/

/-- HKDF-SHA-384 without a salt, with an output of 56 bytes. -/
def hkdf56 (ikm info : Bytes) : Bytes :=
  let prk := hmac384 (List.replicate 48 0) ikm
  let t1 := hmac384 prk (info ++ [0x01#8])
  (t1 ++ hmac384 prk (t1 ++ info ++ [0x02#8])).take 56

/-- The info string "CHITUM-DEVKEY". -/
def devkeyInfo : Bytes := [0x43, 0x48, 0x49, 0x54, 0x55, 0x4D, 0x2D, 0x44, 0x45, 0x56, 0x4B, 0x45, 0x59]

/-- The private key that a seed gives. -/
def keyOfSeed (seed : Nat) : Nat := beNat (hkdf56 (beBytes 48 (seed % 2 ^ 384)) devkeyInfo) % (p384n - 1) + 1

/-- Affine coordinates of a point. -/
def JPoint.affine (q : JPoint) : Nat × Nat :=
  let zi := invMod p384p q.z
  let z2 := zi * zi % p384p
  (q.x * z2 % p384p, q.y * (z2 * zi % p384p) % p384p)

/-- A public key: X then Y, each 48 bytes big-endian. -/
def pubOf (d : Nat) : Bytes :=
  let a := (JPoint.mul 384 d ⟨p384gx, p384gy, 1⟩).affine
  beBytes 48 a.1 ++ beBytes 48 a.2

/-- The signature of a hash with the device key. -/
def State.signature (s : State) (hash : Bytes) : Bytes :=
  let k := Config.signNonce s.freeCount % (p384n - 1) + 1
  let r := (JPoint.mul 384 k ⟨p384gx, p384gy, 1⟩).affine.1 % p384n
  let t := invMod p384n k * ((beNat hash + r * s.fw.key) % p384n) % p384n
  beBytes 48 r ++ beBytes 48 t

/-- The identity hash, as bytes and as the number of R319. -/
def State.idHash (s : State) : Bytes := s.regBytes .idHash 0 0 48
def State.idNum (s : State) : Nat := beNat s.idHash

/-! ## Attestation (15 R391) -/

/-- Image entries of a report: fields that hold a loaded image. -/
def State.attestImages (s : State) (p : Fin 17 → Bool) : List Bytes :=
  (List.finRange 17).filterMap (fun (f : Fin 17) => match (s.frt f).image with
    | some i =>
      if p f && decide (2 ≤ s.fState f ∧ s.fState f ≤ 5) then
        some (leBytes 1 f ++ leBytes 1 (b2n (s.isSafety f)) ++ leBytes 14 0 ++ Bytes.pad i.digest 48)
      else none
    | none => none)

/-- A report: of the device, or of a VEF. -/
def State.attestReport (s : State) (vef : Option Nat) (nonce : Bytes) : Bytes :=
  let imgs := s.attestImages (fun f => match vef with
    | some v => (s.frt f).attached.contains v
    | none => true)
  let of (g : Nat → Nat) : Nat := match vef with
    | some v => g v
    | none => 0
  let size := Bytes.num s.fw.record 8 4
  let body := leBytes 4 0x41545354 ++ leBytes 2 1 ++ leBytes 1 (if vef.isSome then 2 else 1) ++ leBytes 1 imgs.length ++
    Bytes.pad nonce 48 ++ s.regBytes .idPub 0 0 96 ++ sha384 (s.fw.manifest.take 0xA40) ++ sha384 (s.fw.record.take (size - 96)) ++
    leBytes 4 (s.rd FW_STAT.FW_VERSION) ++ s.regBytes .sysId 0 0 4 ++ leBytes 8 s.vehicleNs ++ leBytes 1 s.cur ++
    leBytes 1 (vef.getD 0xFF) ++ leBytes 1 (of (fun v => s.rd VEF_CTL.DOMAIN v)) ++
    leBytes 1 (of (fun v => s.rd VEF_CTL.TENANT v) + 2 * s.rd SYS_CFG.SPLIT + 4 * s.rd FW_STAT.REENROLLED) ++
    leBytes 2 (of (fun v => s.rd VEF_STAT.KEY_EPOCH v)) ++ leBytes 2 0 ++ Bytes.pad imgs.flatten (17 * 64)
  body ++ s.signature (sha384 body)

/-! ## The depot authorisation (12 R300) -/

/-- A depot authorisation that firmware accepts. -/
def State.authOk (s : State) (d : Bytes) : Bool :=
  let issue := Bytes.num d 0x10 8
  let valid := Bytes.num d 0x18 4
  d.length == 256 && Bytes.num d 0 4 == 0x44504F54 && Bytes.num d 4 2 == 1 && decide (Bytes.num d 6 2 < 4) &&
    decide (1000 ≤ valid ∧ valid ≤ 60000) &&
    (Bytes.sub d 0x1C 4).all (· == 0) && (Bytes.sub d 0x50 48).all (· == 0) && (Bytes.sub d 0xE0 32).all (· == 0) &&
    decide (Bytes.sub d 0x20 48 = s.idHash) && decide (s.mode.authCounter ≤ Bytes.num d 8 8) &&
    ecdsaVerify (Bytes.sub s.fw.record 0x48 96) (Bytes.sub d 0x80 96) (sha384 (d.take 0x80)) &&
    inWindow issue s.vehicleNs (issue + valid * 1000000)

/-- DEPOT_AUTH and COOLANT set; their fall in DEPOT starts the move to PARK_WARM. -/
def State.setAuth (s : State) (a : Option Auth) (coolant : Bool) : State :=
  let s := { s with mode := { s.mode with auth := a } }
  let s := (s.wr SYS_MODE.DEPOT_AUTH (b2n a.isSome)).wr SYS_MODE.COOLANT (b2n (a.isSome && coolant))
  if s.cur = mDepot ∧ s.mode.trans.isNone ∧ !(a.isSome && coolant) then s.depotPark false else s

/-- A depot authorisation received by firmware. -/
def State.authorise (s : State) (d : Bytes) : State :=
  if !s.authOk d then s.inc VEF_GLB.AUTH_REJECT
  else
    let issue := Bytes.num d 0x10 8
    let fl := Bytes.num d 6 2
    let s := { s with mode := { s.mode with authCounter := Bytes.num d 8 8 + 1 } }
    s.setAuth (if fl.testBit 1 then none else some ⟨issue, issue + Bytes.num d 0x18 4 * 1000000⟩) (fl.testBit 0)

end Sys2Proof.Machine
end

