-- ==== Sys2Proof/Machine/Boot.lean ====
section
/-! DEFINITION. Mask ROM (chapter 15): the checks of the flash's parts, the device key, boot BIST, and the cold and warm
paths of R376. -/

namespace Sys2Proof.Machine

/-! ## The checks of R369–R375, on a set of parts -/

/-- The parts of the flash that a boot or an update checks: certificate, record and bundle, each read by offset and
length. -/
structure BootSet where
  cert : Bytes
  record : Nat → Nat → Bytes
  bundle : Nat → Nat → Bytes

/-- The boot header at offset 0 of flash stands (R369). -/
def State.headerOk (s : State) : Bool :=
  let n (o w : Nat) : Nat := leNat (s.flashRead o w)
  let areas := (List.range 6).map s.flashArea
  let least (i : Nat) : Nat := if i = 4 then 0 else if i = 5 then 0x40000 else 0x10000
  n 0 4 == 0x43484254 && n 4 2 == 1 && n 0xFFC 4 == crc32c (s.flashRead 0 0xFFC) &&
    areas.zipIdx.all (fun a => a.1.1 % 0x10000 == 0 && decide (least a.2 ≤ a.1.2) && decide (0x1000 ≤ a.1.1) &&
      areas.zipIdx.all (fun b => a.2 == b.2 || decide (a.1.1 + a.1.2 ≤ b.1.1) || decide (b.1.1 + b.1.2 ≤ a.1.1)))

/-- The certificate's structure, and its validity (R370). -/
def certForm (c : Bytes) : Bool := Bytes.num c 0 4 == 0x49434552 && Bytes.num c 4 2 == 1
def certValid (c : Bytes) : Bool :=
  decide (sha384 (Bytes.sub c 0x10 96) = Config.romHash) &&
    ecdsaVerify (Bytes.sub c 0x10 96) (Bytes.sub c 0x100 96) (sha384 (c.take 0x100))

/-- Bytes of a setup block (R372, 17 R418). -/
def setupSize (block : Nat) : Nat := if block = 3 then 0x200000 else 0x100000

/-- The structure of a setup entry. -/
def setupForm (e : Bytes) : Bool :=
  let b := Bytes.num e 0 1
  let o := Bytes.num e 4 4
  decide (1 ≤ b ∧ b ≤ 6) && o % 4 == 0 && decide (o < setupSize b)

/-- The structure of the record (R371). -/
def recordForm (p : Nat → Nat → Bytes) : Bool :=
  let r := p 0 0x200
  let n (o w : Nat) : Nat := Bytes.num r o w
  let size := n 8 4
  let count := n 0x14 4
  n 0 4 == 0x504C4346 && n 4 2 == 1 && decide (n 6 2 < 4) && decide (0x400 ≤ size ∧ size ≤ 0x40000) && size % 16 == 0 &&
    decide (n 0x11 1 < 64) && decide (n 0x12 1 < 16) && decide (n 0xA8 4 ≤ 12288) &&
    decide (n 0xD8 4 < 2 ^ 30 ∧ n 0xDC 4 < 2 ^ 30) && (List.range 8).all (fun i => decide (n (0x110 + i * 4) 4 < 2 ^ 31)) &&
    (List.range 3).all (fun d => n (0x133 + d * 4) 1 == 0) && decide (0x200 + count * 16 + 96 ≤ size) &&
    (List.range count).all (fun i => setupForm (p (0x200 + i * 16) 16)) &&
    (p (0x200 + count * 16) (size - 96 - (0x200 + count * 16))).all (· == 0)

/-- The record's signature by the car maker's key of a certificate. -/
def recordSigned (cert : Bytes) (p : Nat → Nat → Bytes) : Bool :=
  let size := partNum p 8 4
  ecdsaVerify (Bytes.sub cert 0x70 96) (p (size - 96) 96) (sha384 (p 0 (size - 96)))

/-- Most bytes of a component of a type (R375). -/
def compLimit (t : Nat) : Nat :=
  if t ≤ 2 then 0x80000 else if t = 3 then 0x100000 else 0x400000

/-- The structure of a manifest (R374, R375). -/
def manifestForm (p : Nat → Nat → Bytes) : Bool :=
  let cs := comps p
  let n := partNum p 6 2
  let count (t : Nat) : Nat := (cs.filter (fun c => c.type == t)).length
  partNum p 0 4 == 0x46424E44 && partNum p 4 2 == 1 && decide (2 ≤ n ∧ n ≤ 32) && count 1 == 1 && decide (count 2 ≤ 1) &&
    count 3 == 1 && decide (count 4 ≤ 1) &&
    cs.all (fun c => decide (1 ≤ c.type ∧ c.type ≤ 5) && c.off % 4096 == 0 && decide (c.off + c.size ≤ partNum p 0x10 8) &&
      (if c.type = 5 then c.load % 4096 == 0 else decide (c.size ≤ compLimit c.type) && c.load == 0 && c.flags == 0)) &&
    (p (0x40 + n * 80) ((32 - n) * 80)).all (· == 0)

/-- The manifest's signature by the car maker's key. -/
def manifestSigned (cert : Bytes) (p : Nat → Nat → Bytes) : Bool :=
  ecdsaVerify (Bytes.sub cert 0x70 96) (p 0xA40 96) (sha384 (p 0 0xA40))

/-- A component has its digest. -/
def compOk (p : Nat → Nat → Bytes) (c : Comp) : Bool := decide (sha384 (p c.off c.size) = c.digest)

/-- The record is bound to another device than that of an identity hash. -/
def wrongDevice (p : Nat → Nat → Bytes) (hash : Bytes) : Bool :=
  let d := p 0x18 48
  !d.all (· == 0) && d != hash

/-- What the check of an update answers: 0 passes, 3 structure or size, 2 a signature or digest (R380). -/
def BootSet.check (x : BootSet) (hash : Bytes) : Nat :=
  if !certForm x.cert || !recordForm x.record || !manifestForm x.bundle then 3
  else if !certValid x.cert || !recordSigned x.cert x.record || wrongDevice x.record hash || !manifestSigned x.cert x.bundle ||
      !(comps x.bundle).all (compOk x.bundle) then 2
  else 0

/-- The set as flash holds it. -/
def State.flashSet (s : State) : BootSet where
  cert := s.flashRead (s.flashArea 0).1 0x160
  record := fun o n => s.flashRead ((s.flashArea 1).1 + o) n
  bundle := fun o n => s.flashRead ((s.flashArea 4).1 + o) n

/-- The first reason of R377 that holds, 0 for none. Of the components, ROM checks those it loads: CANTLE, CANTLE_B under
SPLIT, and MGMT. -/
def State.bootReason (s : State) : Nat :=
  let x := s.flashSet
  let split := (partNum x.record 6 2).testBit 1
  if !s.headerOk then 2
  else if !certForm x.cert || !certValid x.cert then 3
  else if !recordForm x.record || !recordSigned x.cert x.record || wrongDevice x.record s.idHash then 4
  else if !manifestForm x.bundle || !manifestSigned x.cert x.bundle then 5
  else if !((comps x.bundle).filter (fun c => c.type == 1 || c.type == 3 || c.type == 2 && split)).all (compOk x.bundle) then 6
  else 0

/-! ## The device key (R388, R389) -/

/-- The key and its public parts set from a seed. -/
def State.setIdentity (s : State) (seed : Nat) : State :=
  let d := keyOfSeed seed
  let q := pubOf d
  let s := { s with fw := { s.fw with key := d } }
  (s.wr ID_PUB.KEY (leNat q)).wr ID_HASH.HASH (leNat (sha384 q))

/-- The helper-data area written at an enrolment. -/
def State.enrol (s : State) : State :=
  let h := (Config.helperData s.freeCount).take 1024
  let h := h ++ List.replicate (1024 - h.length) 0
  let s := s.drawn.setIdentity (Config.pufSeed h)
  let body := leBytes 4 0x48504C50 ++ h ++ s.idHash
  s.flashWrite (s.flashArea 3).1 (body ++ leBytes 4 (crc32c body))

/-- Key derivation by ROM, with an enrolment where the area is empty or does not stand. -/
def State.deriveKey (s : State) : State :=
  let a := (s.flashArea 3).1
  let b := s.flashRead a 1080
  let again (s : State) : State := s.enrol.wr FW_STAT.REENROLLED 1
  if leNat (b.take 4) = 0xFFFFFFFF then s.enrol
  else if leNat (b.drop 1076) ≠ crc32c (b.take 1076) then again s
  else
    let t := s.setIdentity (Config.pufSeed (Bytes.sub b 4 1024))
    if t.idHash = Bytes.sub b 1028 48 then t else again t

/-! ## Boot BIST and the repair log (11 R284, R285, 05 R114) -/

/-- The repair log read from flash; what its entries say of units out of service is applied. -/
def State.readRepairs (s : State) : State :=
  let es := (List.range 4096).map s.flashEntry
  let next := (es.findIdx? (·.isNone)).getD 4096
  let log := (es.take next).filterMap (fun e => e.bind id)
  let used := log.foldl (fun (u : Sparse (List (Bool × Nat))) e =>
    if e.kind = 1 ∨ e.kind = 2 then Sparse.change [] u e.macro_ (· ++ [(e.kind == 2, e.index)]) else u) []
  let s := { s with bist := { s.bist with log := log, logNext := next, used := used } }
  let s := ((es.take next).filter (fun e => decide (e = some none))).foldl (fun s _ => s.logEvent 1 2) s
  log.foldl (fun s e =>
    let k := e.macro_ / 2 ^ 24
    let u := e.macro_ / 256 % 65536
    if e.kind = 3 ∧ k = 4 then
      let b := u % 2 ^ 15 * 2 + u / 2 ^ 15
      if s.bist.girth.contains b then s else { s with bist := { s.bist with girth := b :: s.bist.girth } }
    else if e.kind = 3 ∧ u < 192 then s.wr BIST_UNIT.STATE 1 u
    else if e.kind = 4 ∧ u < 192 then s.wr BIST_UNIT.STATE 0 u
    else s) s

/-- What a macro that exhausts its spares takes out of service; `false` where the device does not start. -/
def State.bootLoss (s : State) (x : BootFail) : State × Bool :=
  if x.kind = 1 ∨ x.kind = 2 then (if x.unit.val < 148 then s.wr BIST_UNIT.STATE 1 x.unit else s, true)
  else if x.kind = 3 then (if 148 ≤ x.unit.val ∧ x.unit.val < 156 then s.wr BIST_UNIT.STATE 1 x.unit else s, true)
  else if x.kind = 4 then
    let u := x.unit.val
    (if s.bist.girth.contains (u / 2 * 2 + (1 - u % 2)) ∨ s.bist.girth.contains u then s
     else { s with bist := { s.bist with girth := u :: s.bist.girth } }, true)
  else (s, false)

/-- One failing bit of boot BIST: repaired with a spare, or its macro is exhausted. `rows` as for a slice. -/
def State.bootFail (s : State) (x : BootFail) (rows : Nat) : State × Bool :=
  let key := macroCode x.kind x.unit x.macro_
  match mend (Sparse.look [] s.bist.used key) x.large x.row x.col rows with
  | .covered => (s, true)
  | .spare c i => (s.takeSpare key 1 c i, true)
  | .exhausted => s.bootLoss x

/-- Every failing bit of boot BIST, and whether the device starts. -/
def State.bootBist (s : State) (fails : List BootFail) : State × Bool :=
  fails.foldl (fun (a : State × Bool) x =>
    let same := fails.filter (fun y => y.kind == x.kind && y.unit == x.unit && y.macro_ == x.macro_ && y.col == x.col)
    let b := a.1.bootFail x ((same.map (·.row)).eraseDups.length)
    (b.1, a.2 && b.2)) (s, true)

/-- Raster cores in service, from their units. -/
def State.rasterService (s : State) : State :=
  s.wr RND_CFG.IN_SVC ((List.range 8).foldl (fun m c => if s.rd BIST_UNIT.STATE (148 + c) = 0 then setBit m c else m) 0)

/-- The pseudo-channels that the repair log leaves in the set: an entry of a block kind outside the slice table takes its
channel out of service, or readmits it (05 R114, 11 R285). -/
def logSet (log : List RepairEntry) : Nat :=
  log.foldl (fun m e =>
    if 1 ≤ e.macro_ / 2 ^ 24 ∧ e.macro_ / 2 ^ 24 ≤ 5 then m
    else match Config.logChannel e.macro_ with
      | none => m
      | some p => if e.kind = 3 then (if m.testBit p then m - 2 ^ p.val else m) else if e.kind = 4 then setBit m p else m)
    (2 ^ 64 - 1)

/-- MEM_PC_NEXT written from the repair log (05 R114, 15 R376 step 5). -/
def State.pcsFromLog (s : State) : State := s.wr MEM_PC_NEXT.NEXT (logSet s.bist.log)

/-- HBM trained: the pseudo-channels that fail leave the set, and each is logged (05 R114). -/
def State.trainHbm (s : State) (channels : List (Fin 64)) : State :=
  let set (c : List (Fin 64)) : Nat := (List.range 64).foldl (fun m p =>
    if (s.rd MEM_PC_NEXT.NEXT).testBit p && !c.any (fun q => q.val == p) then setBit m p else m) 0
  let next := set channels
  let s := channels.foldl (fun s _ => s.logEvent 1 2) s
  let s := s.wr MEM_PC_NEXT.NEXT next
  let s := s.wr MEM_PC_IN_SVC.IN_SVC (s.rd MEM_PC_NEXT.NEXT)
  { s with mode := { s.mode with trained := true } }

/-! ## The paths of R376 -/

/-- ROM in recovery with a reason: the Cantle stays in reset and FAULT_N low. -/
def State.enterRecovery (s : State) (reason : Nat) : State :=
  let s := s.wr FW_STAT.REASON reason
  { s with fw := { s.fw with recovery := some ⟨none, none⟩ }, saf := { s.saf with held := true, released := none } }

/-- Steps 2 to 4 and 7 to 9, with `bist` between them: recovery, a device that does not start, or firmware entered. -/
def State.romPath (s : State) (bist : State → State × Bool) (train : State → State) : State :=
  let src := s.rd SYS_STRAP.BOOT_SRC
  let s := s.wr FW_STAT.BOOT_SRC (if src = 3 then 0 else src)
  let reason := if src = 1 ∨ src = 2 then 1 else s.bootReason
  let b := bist s
  if !b.2 then b.1
  else
    let s := train b.1
    if reason ≠ 0 then s.enterRecovery reason
    else
      let x := s.flashSet
      let s := { s with
        fw := { s.fw with cert := x.cert, record := x.record 0 (partNum x.record 8 4), manifest := x.bundle 0 0x1000, running := true },
        saf := { s.saf with held := s.flag SAF_CTL.SAFE_STATE, coreB := false,
                            released := if s.flag SAF_CTL.SAFE_STATE then none else some s.localNs } }
      let s := { s with saf := { s.saf with coreB := !s.saf.held && secondCantle s.fw.manifest s.fw.record } }
      ((s.wr FW_STAT.REASON 0).wr FW_STAT.FW_VERSION (partNum x.bundle 8 4)).wr SAF_CTL.SPLIT ((partNum x.record 6 2) / 2)

/-- The switched domains that are needed come up. -/
def State.bootDomains (s : State) : State := s.each 24 (fun d s => if s.domNeeded d then s.domainUp d else s)

/-- The cold path: rails and pins up, straps latched unless the always-on domain kept them, the key derived, the repair
log applied, boot BIST run, and keys generated for HBM. -/
def State.coldBoot (s : State) (straps : Nat) (fails : List BootFail) (channels : List (Fin 64)) : State :=
  let s := if s.rd SYS_RST.LAST_CAUSE = 5 then s
    else ((s.wr SYS_STRAP.BOOT_SRC (straps % 4)).wr SYS_STRAP.PCIE_MODE (straps / 4)).wr SYS_STRAP.TEST_EN (straps / 8)
  let s := { s with
    mode := { s.mode with pmicEn := true, mainEn := true, perstAt := max s.mode.perstAt s.localNs },
    power := { s.power with rails := List.range 11 },
    fw := { s.fw with romRan := true } }.joinDomains.bootDomains
  if s.flag SYS_STRAP.TEST_EN then s
  else
    s.deriveKey.romPath (fun s =>
        let b := s.readRepairs.pcsFromLog.bootBist fails
        (b.1.rasterService, b.2))
      (fun s => (((s.setKey 0x80 true).setKey 0x81 true)).trainHbm channels)

/-- COLD_BOOT: the end of a cold reset. -/
def execColdBoot (straps : Fin 16) (fails : List BootFail) (channels : List (Fin 64)) (s : State) : Ans :=
  match s.mode.trans with
  | some (.boot _) => if s.fw.romRan then .next s else .next (s.coldBoot straps fails channels)
  | _ => .next s

end Sys2Proof.Machine
end

