-- ==== Sys2Proof/Machine/Identity.lean ====
section
/-! DEFINITION. The commands of the identity service: depot authorisation and attestation (12 R300, R311, 15 R391, R392). -/

namespace Sys2Proof.Machine

/-- A depot authorisation at the firmware port; it is lost before the identity service runs (16 R409). -/
def State.depotDatagram (s : State) (d : Bytes) : State := if s.fwDown 8 || !s.outsidePark then s else s.authorise d

/-- DEPOT_AUTHORISATION. -/
def execDepotAuthorisation (datagram : Bytes) (s : State) : Ans := .next (s.depotDatagram datagram)

/-- DEPOT_AUTH_EXPIRY: vehicle time has left the window of the authorisation held. -/
def execDepotAuthExpiry (s : State) : Ans :=
  match s.mode.auth with
  | some a => if inWindow a.issue s.vehicleNs a.until_ then .next s else .next (s.setAuth none false)
  | none => .next s

/-- A VEF-scope report asked for. -/
def State.attestGo (s : State) : State :=
  if s.flag VEF_ATT.BUSY then s
  else
    let v := s.rd VEF_ATT.VEF
    let st := s.rd VEF_CTL.STATE v
    if st = vDisabled ∨ st = vResetting then s.wr VEF_ATT.ERR 1
    else
      let s := (s.wr VEF_ATT.ERR 0).wr VEF_ATT.BUSY 1
      { s with fw := { s.fw with attest := some (s.rd VEF_ATT.BUF / 4096 * 4096, v) } }

/-- ATTESTATION_GO. -/
def execAttestationGo (src : Source) (s : State) : Ans :=
  .next (s.asWho src RegName.vefAtt.addr Requester.fwHyp State.attestGo)

/-- ATTESTATION_REPORT_DONE: the report is written behind its nonce. -/
def execAttestationReportDone (s : State) : Ans :=
  match s.fw.attest with
  | none => .next s
  | some (buf, v) =>
    if s.fwDown 8 then .next s
    else
      let r := s.attestReport (some v) (s.memRead buf 48)
      let t := ((s.memWrite (buf + 0x40) r).drawn).wr VEF_ATT.BUSY 0
      .next { t with fw := { t.fw with attest := none } }

/-- A request of a device-scope report at the firmware port: at most one report per 100 ms is sent. -/
def State.attestDatagram (s : State) (d : Bytes) : State :=
  if s.fwDown 8 || !s.outsidePark || d.length != 56 || Bytes.num d 0 4 != 0x41545251 || Bytes.num d 4 2 != 1 then s
  else if (s.fw.attested).any (fun t => within t 100000000 s.localNs) then s.inc FW_STAT.ATT_DROP
  else
    let t := (s.emit (.attestation (s.attestReport none (d.drop 8)))).drawn
    { t with fw := { t.fw with attested := some s.localNs } }

/-- ATTESTATION_REQUEST. -/
def execAttestationRequest (datagram : Bytes) (s : State) : Ans := .next (s.attestDatagram datagram)

end Sys2Proof.Machine
end

