-- ==== Sys2Proof/Machine/Reset.lean ====
section
/-! DEFINITION. Cold, warm and field reset (16 R404–R406). -/

namespace Sys2Proof.Machine

/-- COLD_RESET: everything but the flash is at its Cold value. -/
def execColdReset (byMonitor : Bool) (s : State) : Ans := .next (s.faultLow.coldFrom (if byMonitor then 2 else 1))

/-! ## Warm reset -/

/-- The registers' fields that the Warm column keeps, by register and lowest bit. -/
def keptFields : List Nat := ((allRegs.flatMap (·.flds)).filter (·.kept)).map Fld.spot

/-- A field's store entry survives a warm reset: its Warm column says so, or it is the state of a unit that the always-on
domain keeps (11 R291), the in-service set (05 R114), or the strap latch. -/
def warmKeeps (code : Nat) : Bool :=
  let f := code % 262144
  keptFields.contains f || f == BIST_UNIT.STATE.spot || f == MEM_PC_IN_SVC.IN_SVC.spot

/-- The in-service set taken from MEM_PC_NEXT, where that names 48 pseudo-channels or more (05 R114). -/
def State.takePcs (s : State) : State :=
  let next := s.rd MEM_PC_NEXT.NEXT
  if 48 ≤ popCount 64 next then s.wr MEM_PC_IN_SVC.IN_SVC next else s.logEvent 1 2

/-- A warm reset: the always-on domain, the fields marked "kept" and HBM survive it; ROM's warm path follows. -/
def State.warmReset (s : State) (cause : Nat) : State :=
  let t := s.faultLow.coldFrom 1
  let m := s.mem
  let same := s.rd MEM_PC_NEXT.NEXT == s.rd MEM_PC_IN_SVC.IN_SVC || decide (popCount 64 (s.rd MEM_PC_NEXT.NEXT) < 48)
  let t := { t with
    regs := s.regs.filter (fun e => warmKeeps e.1),
    time := { s.time with hold := [], step := [] },
    mem := { t.mem with hbm := m.hbm, tags := m.tags, marks := m.marks, hbmErr := m.hbmErr, keys := m.keys.filter (fun k => decide (0x80 ≤ k.1)),
                        keySerial := m.keySerial },
    mode := { t.mode with authCounter := s.mode.authCounter, pmicEn := s.mode.pmicEn, mainEn := s.mode.mainEn,
                          trained := s.mode.trained, since := s.localNs, perstAt := s.mode.perstAt, perstHigh := s.mode.perstHigh },
    power := { t.power with rails := s.power.rails },
    saf := { t.saf with faults := s.saf.faults, lastSource := s.saf.lastSource, lastField := s.saf.lastField },
    bist := { t.bist with log := s.bist.log, logNext := s.bist.logNext, used := s.bist.used, girth := s.bist.girth,
                          began := s.bist.began },
    fw := { t.fw with key := s.fw.key, slot := s.fw.slot, heldRepairs := s.fw.heldRepairs, romRan := true,
                      verified := if same then s.fw.verified else [] } }
  let t := (t.joinDomains.bootDomains.wr SYS_RST.LAST_CAUSE cause).flushRepairs
  let t := t.each 192 (fun u s => if s.rd BIST_UNIT.STATE u = 2 then s.wr BIST_UNIT.STATE 1 u else s)
  let t := t.rasterService.takePcs
  if t.flag SYS_STRAP.TEST_EN then t else t.romPath (fun s => (s, true)) id

/-- WARM_N_PULSE; ignored in PARK. -/
def execWarmNPulse (s : State) : Ans := if s.outsidePark then .next (s.warmReset 3) else .next s

/-- A write of WARM by a requester: the Cantle's only counts in SYS_ACC.DENIED (16 R415). -/
def State.warmBy (s : State) (src : Source) (key : Nat) : State :=
  s.asWho src RegName.sysRst.addr Requester.fwHyp (fun s => if key = 0xA5 ∧ s.outsidePark then s.warmReset 4 else s)

/-- WARM_RESET: SYS_RST.WARM = 1 with a key. -/
def execWarmReset (src : Source) (key : Fin 256) (s : State) : Ans := .next (s.warmBy src key)

/-! ## Field reset (R406) -/

/-- FIELD_GO for field `n`, by the Cantle or another requester that may write it. -/
def State.fieldGo (s : State) (n : Nat) (byCantle : Bool) : State :=
  if hf : n < 17 then
    let f : Fin 17 := ⟨n, hf⟩
    let x := s.frt f
    let st := s.fState f
    let asked (s : State) : State := s.setF f { s.frt f with resetAsked := true }
    if (s.isSafety f || n == 16) && !byCantle then s.inc SYS_RST.FIELD_REFUSED
    else if x.resetAsked then s
    else if st = stFree ∨ st = stLoading ∨ st = stClearing then s.inc SYS_RST.FIELD_REFUSED
    else if st = stDraining ∨ x.faultDrain then asked s
    else if st = stRunning then (asked s).killField f
    else (asked s).startReinit f
  else s.inc SYS_RST.FIELD_REFUSED

/-- Who may write FIELD and FIELD_GO. -/
def Requester.resetsFields : Requester → Bool
  | .firmware | .hypervisor | .cantle => true
  | _ => false

/-- FIELD_RESET: a write of FIELD and FIELD_GO = 1. -/
def execFieldReset (src : Source) (field : Fin 32) (s : State) : Ans :=
  .next (s.asWho src RegName.sysRst.addr Requester.resetsFields
    (fun s => (s.wr SYS_RST.FIELD field).fieldGo field (decide (s.who src = .cantle))))

end Sys2Proof.Machine
end

