-- ==== Sys2Proof/Machine/Firmware.lean ====
section
/-! DEFINITION. Recovery, package updates, components, log and trace (15 R379–R387). -/

namespace Sys2Proof.Machine

/-! ## Packages (R380) -/

/-- A selected part of a package: offset and size, by its number. -/
def packagePart (b : Bytes) (i : Nat) : Option (Nat × Nat) :=
  if (Bytes.num b 6 2).testBit i then some (Bytes.num b (8 + i * 16) 8, Bytes.num b (16 + i * 16) 8) else none

/-- The flash area of a part: certificate, record, bundle. -/
def partArea (i : Nat) : Nat := if i = 2 then 4 else i

/-- The header and the parts' places stand. -/
def State.packageForm (s : State) (b : Bytes) : Bool :=
  let parts := Bytes.num b 6 2
  decide (64 ≤ b.length) && Bytes.num b 0 4 == 0x52504B47 && Bytes.num b 4 2 == 1 && decide (1 ≤ parts ∧ parts < 8) &&
    (List.range 3).all (fun i => match packagePart b i with
      | some (o, n) => o % 4096 == 0 && decide (o + n ≤ b.length) && decide (n ≤ (s.flashArea (partArea i)).2)
      | none => true)

/-- The set that would result: new parts with the kept old ones. -/
def State.packageSet (s : State) (b : Bytes) : BootSet :=
  let old := s.flashSet
  let part (i : Nat) (keep : Nat → Nat → Bytes) : Nat → Nat → Bytes := match packagePart b i with
    | some (o, n) => fun x len => Bytes.pad (Bytes.sub b (o + x) (min len (n - x))) len
    | none => keep
  { cert := (part 0 (fun o n => Bytes.sub old.cert o n)) 0 0x160, record := part 1 old.record, bundle := part 2 old.bundle }

/-- What the check of a package answers: 0, or RESULT 2 or 3. -/
def State.packageCheck (s : State) (b : Bytes) : Nat :=
  if !s.packageForm b then 3 else (s.packageSet b).check s.idHash

/-- The first `k` selected parts written to flash, in order. -/
def State.writeParts (s : State) (b : Bytes) (k : Nat) : State :=
  (((List.range 3).filterMap (fun i => (packagePart b i).map (fun p => (i, p)))).take k).foldl (fun s x =>
    s.flashWrite (s.flashArea (partArea x.1)).1 (Bytes.sub b x.2.1 x.2.2)) s

/-- A part that does not read back as written: which one, and what it holds, is open; the parts after it are not written. -/
def State.failWrite (s : State) (b : Bytes) : State :=
  let ps := (List.range 3).filterMap (fun i => (packagePart b i).map (fun p => (i, p)))
  let n := s.freeCount
  let k := (Config.freeWord n 0).toNat % max 1 ps.length
  let s := s.drawn.writeParts b k
  match ps[k]? with
  | some (i, (_, len)) => s.flashWrite (s.flashArea (partArea i)).1 ((List.range len).map (fun j => Config.undefinedByte n (j + 1)))
  | none => s

/-- An update ends with a result: what it held back is written. -/
def State.endUpdate (s : State) (result : Nat) : State :=
  let s := (s.wr FW_PKG.BUSY 0).wr FW_PKG.RESULT result
  let n := s.fw.heldSaves
  let s := { s with fw := { s.fw with package := none, heldSaves := 0 } }
  (List.range n).foldl (fun s _ => s.saveLog) s.flushRepairs

/-- ROM listens on PCIe, and on Ethernet port 0, for a package (R379). -/
def State.hearsPcie (s : State) : Bool :=
  s.fw.recovery.isSome && (s.rd FW_STAT.BOOT_SRC == 1 || (s.rd FW_STAT.BOOT_SRC == 0 && s.flag SYS_STRAP.PCIE_MODE))
def State.hearsEth (s : State) : Bool := s.fw.recovery.isSome && s.rd FW_STAT.BOOT_SRC != 1

/-- A transfer over Ethernet is in progress. -/
def State.ethTransfer (s : State) : Option Transfer := s.fw.recovery.bind (·.transfer)

/-- GO of FW_PKG: in operation by the hypervisor from HBM, in recovery by the PCIe host from its memory. -/
def State.packageGo (s : State) : State :=
  let a := s.rd FW_PKG.ADDR / 4096 * 4096
  let n := s.rd FW_PKG.LEN_4K * 4096
  let start (b : Bytes) : State := { ((s.wr FW_PKG.BUSY 1).wr FW_PKG.RESULT 0) with fw := { s.fw with package := some b } }
  if s.flag FW_PKG.BUSY then s
  else if s.hearsPcie then (if s.ethTransfer.isSome then s else start (Sparse.bytes 0 s.hostMem a n))
  else if s.fw.running then start (s.memRead a n)
  else s

/-- PACKAGE_UPDATE. -/
def execPackageUpdate (src : Source) (s : State) : Ans :=
  .next (s.asWho src RegName.fwPkg.addr Requester.hyp State.packageGo)

/-- A recovery datagram. -/
def recoveryDatagram (type : Nat) (body : Bytes) : Bytes := leBytes 4 0x52454356 ++ leBytes 1 type ++ leBytes 3 0 ++ body

/-- PACKAGE_UPDATE_DONE: the check, then the write; `mismatch`: a part still mismatches after 3 writes. ROM resets the
device after a package that it has written. -/
def execPackageUpdateDone (mismatch : Bool) (s : State) : Ans :=
  match s.fw.package with
  | none => .next s
  | some b =>
    if s.fw.recovery.isNone && (s.fwDown 8 || s.fwDown 9) then .next s
    else
      let chk := s.packageCheck b
      let result := if chk ≠ 0 then chk else if mismatch then 4 else 1
      let t := if chk ≠ 0 then s else if mismatch then s.failWrite b else s.writeParts b 3
      let t := t.endUpdate result
      match t.fw.recovery with
      | none => .next t
      | some r =>
        let t := if r.transfer.isSome then t.emit (.recovery (recoveryDatagram 5 (leBytes 1 result))) else t
        let t := { t with fw := { t.fw with recovery := some { r with transfer := none } } }
        .next (if result = 1 then t.warmReset 4 else t)

/-! ## Recovery over Ethernet (R379) -/

/-- ANNOUNCE: every 1 s until a transfer starts. -/
def execRecoveryAnnounce (s : State) : Ans :=
  match s.fw.recovery with
  | none => .next s
  | some r =>
    if !s.hearsEth || r.transfer.isSome || s.flag FW_PKG.BUSY || (r.announced).any (fun t => within t 1000000000 s.localNs) then .next s
    else
      let d := recoveryDatagram 1 (leBytes 1 (s.rd FW_STAT.REASON) ++ leBytes 3 0 ++ s.regBytes .sysId 0 0 4 ++ s.idHash)
      .next { (s.emit (.recovery d)) with fw := { s.fw with recovery := some { r with announced := some s.localNs } } }

/-- The lowest offset from `n` up that a list of received bytes does not hold. -/
def nextGap : Nat → List (Nat × Option Byte) → Nat
  | n, [] => n
  | n, (k, _) :: r => if k = n then nextGap (n + 1) r else n

/-- A datagram of the transfer's sender acknowledged. -/
def State.ackTransfer (s : State) (t : Transfer) : State := s.emit (.recovery (recoveryDatagram 3 (leBytes 4 (nextGap 0 t.bytes))))

/-- The transfer set. -/
def State.setTransfer (s : State) (t : Option Transfer) : State :=
  { s with fw := { s.fw with recovery := s.fw.recovery.map (fun r => { r with transfer := t }) } }

/-- DATA: bytes of the package; the first fixes the sender. -/
def execRecoveryData (sender offset : Nat) (payload : Bytes) (s : State) : Ans :=
  if !s.hearsEth || s.flag FW_PKG.BUSY || payload.isEmpty || decide (1024 < payload.length) then .next s
  else
    let t := s.ethTransfer.getD ⟨sender, [], 0⟩
    if t.sender ≠ sender then .next s
    else
      let bytes := payload.zipIdx.foldl (fun l x => Sparse.put none l (offset + x.2) (some x.1)) t.bytes
      let t := Transfer.mk sender bytes s.localNs
      .next ((s.setTransfer (some t)).ackTransfer t)

/-- END: answered with an ACK while bytes are missing; else the package is checked and written. -/
def execRecoveryEnd (sender total : Nat) (s : State) : Ans :=
  match s.ethTransfer with
  | none => .next s
  | some t =>
    if t.sender ≠ sender ∨ s.flag FW_PKG.BUSY then .next s
    else
      let t := { t with last := s.localNs }
      let u := s.setTransfer (some t)
      if nextGap 0 t.bytes < total then .next (u.ackTransfer t)
      else
        let b := (t.bytes.take total).map (fun x => x.2.getD 0)
        .next { ((u.wr FW_PKG.BUSY 1).wr FW_PKG.RESULT 0) with fw := { u.fw with package := some b } }

/-- RECOVERY_SILENCE_TIMEOUT: 10 s without a datagram of the sender abandon the transfer. -/
def execRecoverySilenceTimeout (s : State) : Ans :=
  match s.ethTransfer with
  | some t => if t.last + 10000000000 ≤ s.localNs ∧ !s.flag FW_PKG.BUSY then .next (s.setTransfer none) else .next s
  | none => .next s

/-! ## Components (R383, R384) -/

/-- The loads and re-initialisations of a field loader that restarts: killed, and run again. -/
def State.rerunLoads (s : State) : State :=
  let ls := s.loads
  let s := { s with loads := s.loads.map (fun l =>
    if l.cmd.isNone ∧ (l.phase = .stitch ∨ l.phase = .preload) then { l with phase := .waitStitch, cause := 0 } else l) }
  (ls.filter (fun l => l.cmd.isSome)).foldl (fun s l => s.killLoad l true) s

/-- What the fault of a component ends. -/
def State.componentEffect (s : State) (comp : Nat) : State :=
  let noUpdate (s : State) : State := if s.fw.package.isSome ∧ s.fw.recovery.isNone then s.endUpdate 4 else s
  if comp = 3 then s.rerunLoads
  else if comp = 8 then
    let s := if s.fw.attest.isSome then (s.wr VEF_ATT.BUSY 0).wr VEF_ATT.ERR 1 else s
    noUpdate { s with fw := { s.fw with attest := none } }
  else if comp = 9 then noUpdate s
  else s

/-- COMPONENT_FAULT: a component other than the scheduler restarts alone. -/
def execComponentFault (comp : Fin 16) (s : State) : Ans :=
  if comp.val < 3 ∨ 9 < comp.val ∨ s.fwDown comp then .next s
  else
    let t := { s with fw := { s.fw with restarting := comp.val :: s.fw.restarting } }
    .next ((t.componentEffect comp).inc FW_STAT.RESTARTS)

/-- COMPONENT_RESTART_DONE: the component runs again; code 0x02 stands for all of firmware. Log entries held are written. -/
def execComponentRestartDone (comp : Fin 16) (s : State) : Ans :=
  if !s.fw.restarting.contains comp.val ∨ s.fw.halted then .next s
  else
    let rest := if comp.val = 2 then [] else s.fw.restarting.filter (· != comp.val)
    let t := { s with fw := { s.fw with restarting := rest } }
    let t := t.flushLog
    .next (if comp.val = 9 ∨ comp.val = 2 then
        (List.range t.fw.heldSaves).foldl (fun s _ => s.saveLog) { t with fw := { t.fw with heldSaves := 0 } }
      else t)

/-- SCHEDULER_FAULT: all of firmware restarts; table commands that have not committed run again; a log slot is saved and
the Cantle reports. The third within 60 s halts firmware. -/
def execSchedulerFault (s : State) : Ans :=
  if s.fwDown 2 then .next s
  else
    let past := s.fw.wholes.filter (fun t => within t 60000000000 s.localNs)
    let t := s.saveLog
    let t := t.rerunLoads
    let t := { t with flight := t.flight.map (fun (j : Job) =>
      if tableOp j.cmd.opcode && j.outcome == Outcome6.running then { j with cmd := j.cmd.again } else j) }
    let t := t.report 0x13 none
    let t := ([8, 9]).foldl (fun s c => s.componentEffect c) t
    .next { t with fw := { t.fw with wholes := t.localNs :: past, restarting := [2], halted := decide (2 ≤ past.length) } }

/-! ## Log and trace (R386, R387) -/

/-- A save of a slot asked for by the hypervisor; the log service makes it when it runs. -/
def State.saveGo (s : State) : State :=
  if !s.fw.running then s
  else if s.fwDown 9 then { s with fw := { s.fw with heldSaves := s.fw.heldSaves + 1 } }
  else s.saveLog

/-- SAVE. -/
def execLogSave (src : Source) (s : State) : Ans := .next (s.asWho src RegName.fwLog.addr Requester.hyp State.saveGo)

/-- TRACE_POINT: point 0x40 + n of field n, every 10 ms while it is enabled: bank conflicts, CE_COUNT and occupied
cell-cycles. The bank-conflict counter has grown by a free number of lost cycles since the last point: which cycles a bank
refuses is timing (02 R34). -/
def execTracePoint (field : Fin 17) (s : State) : Ans :=
  let j := 0x40 + field.val
  let early := (Sparse.look none s.fw.traced field).any (fun t => within t 10000000 s.localNs)
  if !s.fw.running || early || !(s.rd FW_TRACE.MASK (j / 32)).testBit (j % 32) then .next s
  else
    let lost := ((s.frt field).conflicts + (Config.freeWord s.freeCount 0).toNat) % 2 ^ 32
    let args := leBytes 4 lost ++ leBytes 4 (s.rd PLAIN_FLD_ERR.CE_COUNT field) ++ leBytes 8 ((s.frt field).occupied / 1000)
    let t := (s.drawn.setF field { s.frt field with conflicts := lost }).log 2 0 j args
    .next { t with fw := { t.fw with traced := Sparse.put none s.fw.traced field (some s.localNs) } }

end Sys2Proof.Machine
end

