-- ==== Sys2Proof/Machine/PassLink.lean ====
section
/-! DEFINITION. The commands of the Pass links (13 R314–R316) and of the fabric's identity and routes (R319–R322, R325). -/

namespace Sys2Proof.Machine

/-! ## Flits (R314, R315) -/

/-- A flit's CRC-64 stands: ECMA-182, initial value 0, no reflection, over bytes 0–119. -/
def flitOk (b : Bytes) : Bool :=
  b.length == 128 && decide (crcMsb 64 0x42F0E1EBA9EA3693 0 (b.take 120) = leNat (b.drop 120))

/-- A port that retrains. -/
def State.startRetrain (s : State) (p : Nat) : State :=
  let x := s.port p
  let past := x.retrains.filter (fun t => within t 1000000000 s.localNs)
  (s.setPort p { x with retraining := true, failed := some 0, retrains := s.localNs :: past }).inc PASS_LINK_STAT.RETRAINS p

/-- A flit that fails its CRC: a replay is asked for; one that comes while a replay is awaited is that replay failing. -/
def State.badFlit (s : State) (p : Nat) : State :=
  let s := s.inc PASS_LINK_STAT.CRC_ERR p
  match (s.port p).failed with
  | none => s.setPort p { s.port p with failed := some 0 }
  | some n =>
    let s := ((s.setPort p { s.port p with failed := some (n + 1) }).inc PASS_LINK_STAT.REPLAYS p).report 0x31 none
    if n + 1 ≥ 8 then s.startRetrain p else s

/-- A flit that passes: accepted in sequence; its acknowledgement code may ask this side for a replay. -/
def State.goodFlit (s : State) (p : Nat) (b : Bytes) : State :=
  let w := leNat (b.take 2)
  let seq := w % 4096
  let x := s.port p
  if x.next.getD seq ≠ seq then s
  else
    let s := match x.failed with
      | some _ => (s.inc PASS_LINK_STAT.REPLAYS p).report 0x31 none
      | none => s
    let s := s.setPort p { s.port p with next := some ((seq + 1) % 4096), failed := none }
    if Config.ackReplay (w / 4096) then s.emit (.replay p) else s

/-- PASS_FLIT. -/
def execPassFlit (port : Fin 4) (flit : Bytes) (s : State) : Ans :=
  if s.link port = lkDown ∨ s.link port = lkTraining ∨ (s.port port).retraining then .next s
  else if flitOk flit then .next (s.goodFlit port flit) else .next (s.badFlit port)

/-- PASS_RETRAIN_DONE: a failure, or a third retrain within 1 s, takes the port DOWN and out of service. -/
def execPassRetrainDone (port : Fin 4) (ok : Bool) (s : State) : Ans :=
  let x := s.port port
  if !x.retraining then .next s
  else
    let near := match x.retrains with
      | t :: r => (r.filter (fun u => decide (t ≤ u + 1000000000))).length + 1
      | [] => 0
    let t := s.setPort port { x with retraining := false }
    if ok && decide (near < 3) then .next t else .next ((t.linkDown port).unitOut (156 + port.val))

/-! ## This device's view of the fabric (R319–R321) -/

/-- The device's own announcement. -/
def State.ownLsa (s : State) : PassLsa where
  hash := s.idNum
  id := s.rd PASS_DEV.ID
  assigned := s.flag PASS_DEV.ASSIGNED
  static := s.flag PASS_DEV.STATIC
  links := (List.range 4).filterMap (fun p =>
    if s.link p = lkUp then (s.port p).peer.map (fun h => PassLink.mk p h (s.rd PASS_LINK_STAT.PEER_PORT p)) else none)

/-- Announcements by hash: the device's own and those kept. -/
def State.lsaList (s : State) : List PassLsa := s.ownLsa :: s.pass.lsas.map (·.lsa)

/-- Devices reached from a set over `n` rounds of links. -/
def reachFrom (ls : List PassLsa) : Nat → List Nat → List Nat
  | 0, seen => seen
  | n + 1, seen =>
    let new := (ls.filter (fun l => seen.contains l.hash)).flatMap (fun l => l.links.map (·.peer))
    let more := (ls.filter (fun l => !seen.contains l.hash && new.contains l.hash)).map (·.hash)
    if more.isEmpty then seen else reachFrom ls n (seen ++ more.eraseDups)

/-- The announcements of the devices of the fabric as this device sees it. -/
def State.fabric (s : State) : List PassLsa :=
  let ls := s.lsaList
  let seen := reachFrom ls ls.length [s.idNum]
  ls.filter (fun l => seen.contains l.hash)

/-- The authority: the device with the lowest identity hash. -/
def State.authorityHash (s : State) : Nat := (s.fabric.map (·.hash)).foldl min s.idNum

/-- This device's ID set; a change is shown as a cause, and announced. -/
def State.setId (s : State) (id : Nat) (static : Bool) : State :=
  let assigned := id != 0xFFFF
  let same := s.rd PASS_DEV.ID == id
  let s := ((s.wr PASS_DEV.ID id).wr PASS_DEV.ASSIGNED (b2n assigned)).wr PASS_DEV.STATIC (b2n (static && assigned))
  if same then s
  else ({ s with pass := { s.pass with lsaDue := true, routesDue := true } }).passCause PASS_IRQ_CAUSE.ID_CHANGE

/-- The lowest member number that no device of a list holds. -/
def freeMember (ids : List Nat) : Option Nat := (List.range 256).find? (fun m => !ids.contains m)

/-- The ID that a static device claims. -/
def State.staticId (s : State) : Nat := s.rd PASS_CFG.FABRIC * 256 + s.rd PASS_CFG.MEMBER

/-- Conflicting claims resolved, and an ID taken: a static device takes its own, the authority itself the lowest free
one. A device that finds no free member number shows OVERFULL (R321). -/
def State.claimIds (s : State) : State :=
  let me := s.idNum
  let others := s.fabric.filter (fun l => l.hash != me)
  let id := s.rd PASS_DEV.ID
  let static := s.flag PASS_CFG.STATIC_EN
  let s := match s.pass.clash with
    | some h => if others.any (fun l => l.hash == h && l.static) then s
      else { s with pass := { s.pass with clash := none } }
    | none => s
  let rival := if s.flag PASS_DEV.ASSIGNED then others.find? (fun l => l.assigned && l.id == id) else none
  match rival with
  | some l =>
    if s.flag PASS_DEV.STATIC && l.static then
      { (s.setId 0xFFFF false) with pass := { (s.setId 0xFFFF false).pass with clash := some l.hash } }
    else if l.hash < me then (s.setId 0xFFFF false).inc PASS_STAT.ID_LOST
    else s
  | none =>
    if s.flag PASS_DEV.ASSIGNED then s
    else if static then
      if s.pass.clash.isSome || others.any (fun l => l.assigned && l.id == s.staticId && l.hash < me) then s
      else s.setId s.staticId true
    else match freeMember ((others.filter (·.assigned)).map (fun l => l.id % 256)) with
      | some m => if s.authorityHash = me then s.setId (s.rd PASS_CFG.FABRIC * 256 + m) false else s
      | none => s.wr PASS_STAT.OVERFULL 1

/-- AUTHORITY and AUTH_ID as the view gives them. -/
def State.showAuthority (s : State) : State :=
  let h := s.authorityHash
  let id := match s.fabric.find? (fun l => l.hash == h) with
    | some l => if l.assigned then l.id else 0xFFFF
    | none => 0xFFFF
  (s.wr PASS_DEV.AUTHORITY (b2n (h == s.idNum))).wr PASS_DEV.AUTH_ID id

/-- The view of the fabric taken anew. -/
def State.passView (s : State) : State := s.claimIds.showAuthority

/-! ## Links (R316, R320) -/

/-- LINK_TRAINING_DONE: the lanes that trained, by bit. -/
def execLinkTrainingDone (port : Fin 4) (lanes : Fin 256) (s : State) : Ans :=
  let st := s.link port
  if s.unitState (.pass port) ≠ uOn ∨ !s.unitUsable (156 + port.val) ∨ ¬(st = lkDown ∨ st = lkTraining) then .next s
  else
    let low := decide (lanes.val % 16 = 15)
    let high := decide (lanes.val / 16 = 15)
    if !low && !high then .next (s.linkDown port)
    else
      let t := (s.setLink port lkHello).wr PASS_LINK_STAT.WIDTH4 (b2n (!(low && high))) port
      .next (t.setPort port { t.port port with next := none, failed := none, retraining := false, heard := none, sent := none, peer := none })

/-- SIGNAL_LOCK_LOSS. -/
def execSignalLockLoss (port : Fin 4) (s : State) : Ans := .next (s.linkDown port).passView

/-- HELLO_TIMEOUT: 10 ms without a hello on a link that is UP. -/
def execHelloTimeout (port : Fin 4) (s : State) : Ans :=
  if s.link port = lkUp ∧ ((s.port port).heard).all (fun t => !within t 10000000 s.localNs) then .next (s.linkDown port).passView
  else .next s

/-- The hello that a port sends. -/
def State.helloOf (s : State) (p : Nat) : PassHello :=
  ⟨s.idNum, s.rd PASS_DEV.ID, p, s.flag PASS_DEV.ASSIGNED, s.flag PASS_DEV.STATIC, s.rd PASS_DEV.GEN, leNat (s.regBytes .sysId 0 0 4)⟩

/-- HELLO_SEND: every 1 ms. -/
def execHelloSend (port : Fin 4) (s : State) : Ans :=
  let st := s.link port
  if ¬(st = lkHello ∨ st = lkUp ∨ st = lkForeign) ∨ ((s.port port).sent).any (fun t => within t 1000000 s.localNs) then .next s
  else
    let t := s.setPort port { s.port port with sent := some s.localNs }
    .next (t.emit (.hello port (s.helloOf port)))

/-- HELLO: a hello from the peer. A fabric mismatch takes a link in HELLO to FOREIGN; a FOREIGN one returns to HELLO when the
peer's fabric number changes (R316). -/
def execPassHello (port : Fin 4) (hello : PassHello) (s : State) : Ans :=
  let st := s.link port
  if ¬(st = lkHello ∨ st = lkUp ∨ st = lkForeign) then .next s
  else
    let t := (s.wr PASS_LINK_STAT.PEER_ID hello.id port).wr PASS_LINK_STAT.PEER_PORT hello.port port
    let t := t.setPort port { t.port port with heard := some s.localNs, peer := some hello.hash }
    let foreign := hello.assigned && decide (hello.id / 256 ≠ s.rd PASS_CFG.FABRIC)
    if st = lkUp then .next t
    else if st = lkForeign then
      if hello.id / 256 ≠ s.rd PASS_LINK_STAT.PEER_ID port / 256 then .next (t.setLink port lkHello) else .next t
    else if foreign then .next (t.linkForeign port).passView
    else
      let u := t.setLink port lkUp
      .next ({ u with pass := { u.pass with routesDue := true } }).passView

/-! ## Announcements (R320) -/

/-- An announcement sent on every UP port but one. -/
def State.floodLsa (s : State) (l : PassLsa) (except_ : Nat) : State :=
  s.each 4 (fun p s => if p ≠ except_ ∧ s.link p = lkUp then s.emit (.lsa p l) else s)

/-- LSA_SEND: every 10 ms, and at once when a port has changed state; the link manager sends it. -/
def execLsaSend (s : State) : Ans :=
  if s.fwDown 7 || (!s.pass.lsaDue && decide (s.localNs < s.pass.lsaAt + 10000000)) then .next s
  else
    let t := s.passView
    let t := t.floodLsa t.ownLsa 4
    .next { t with pass := { t.pass with lsaDue := false, lsaAt := s.localNs } }

/-- LSA: a received announcement is kept and passed on, unless an equal one came within the last 5 ms. -/
def execPassLsa (port : Fin 4) (lsa : PassLsa) (s : State) : Ans :=
  if s.link port ≠ lkUp ∨ s.fwDown 7 ∨ lsa.hash = s.idNum then .next s
  else
    let old := s.pass.lsas.find? (fun k => k.lsa.hash == lsa.hash)
    let rest := s.pass.lsas.filter (fun k => k.lsa.hash != lsa.hash)
    let same := old.any (fun k => k.lsa == lsa)
    let fresh := old.any (fun k => k.lsa == lsa && decide (s.localNs < k.at_ + 5000000))
    let t := { s with pass := { s.pass with lsas := ⟨lsa, s.localNs⟩ :: rest, routesDue := s.pass.routesDue || !same } }
    let t := if fresh then t else t.floodLsa lsa port
    .next t.passView

/-- LSA_AGE_OUT: an announcement not renewed within 30 ms is dropped. -/
def execLsaAgeOut (hash : Nat) (s : State) : Ans :=
  if s.pass.lsas.any (fun k => k.lsa.hash == hash && decide (k.at_ + 30000000 ≤ s.localNs)) then
    let t := { s with pass := { s.pass with lsas := s.pass.lsas.filter (fun k => k.lsa.hash != hash), routesDue := true } }
    .next t.passView
  else .next s

/-! ## Routes (R322) -/

/-- A directed link of the fabric: node, port, neighbour. -/
structure Edge where
  from_ : Nat
  port : Nat
  dest : Nat
  deriving DecidableEq, Repr

/-- The links between members that both ends announce. -/
def edgesOf (ls : List PassLsa) : List Edge :=
  ls.flatMap (fun a => a.links.filterMap (fun k =>
    if ls.any (fun b => b.hash == k.peer && b.links.any (fun j => j.peer == a.hash && j.port == k.peerPort)) then
      some ⟨a.hash, k.port, k.peer⟩
    else none))

/-- Depths of a breadth-first tree: nodes at distance at most `n`, nearest first, each with its depth. -/
def bfsDepth (es : List Edge) : Nat → Nat → List (Nat × Nat) → List (Nat × Nat)
  | 0, _, seen => seen
  | n + 1, d, seen =>
    let more := ((es.filter (fun e => seen.any (fun x => x.1 == e.from_) && !seen.any (fun x => x.1 == e.dest))).map (·.dest)).eraseDups
    if more.isEmpty then seen else bfsDepth es n (d + 1) (seen ++ more.map (fun h => (h, d + 1)))

/-- The depth of a node, and its member number. -/
def depthOf (ds : List (Nat × Nat)) (h : Nat) : Nat := ((ds.find? (fun x => x.1 == h)).map (·.2)).getD 0
def memberOf (ms : List (Nat × Nat)) (h : Nat) : Nat := ((ms.find? (fun x => x.1 == h)).map (·.2)).getD 256

/-- A link is traversed upward: to the lower depth, or to the lower member number at equal depth. -/
def isUp (ds ms : List (Nat × Nat)) (e : Edge) : Bool :=
  let a := depthOf ds e.from_
  let b := depthOf ds e.dest
  decide (b < a) || (a == b && decide (memberOf ms e.dest < memberOf ms e.from_))

/-- Distances to a node over legal paths, as (node, may still go up, distance), grown round by round. -/
def legalDist (es : List Edge) (up : Edge → Bool) : Nat → Nat → List (Nat × Bool × Nat) → List (Nat × Bool × Nat)
  | 0, _, seen => seen
  | n + 1, d, seen =>
    let has (h : Nat) (u : Bool) : Bool := seen.any (fun x => x.1 == h && x.2.1 == u)
    let new := es.flatMap (fun e =>
      if up e then (if has e.dest true then [(e.from_, true)] else [])
      else if has e.dest false then [(e.from_, true), (e.from_, false)] else [])
    let more := (new.filter (fun x => !has x.1 x.2)).eraseDups
    if more.isEmpty then seen else legalDist es up n (d + 1) (seen ++ more.map (fun x => (x.1, x.2, d + 1)))

/-- The first-hop port and the hops of the shortest legal path from a node to the goal of a distance list; the lowest port
breaks ties. -/
def firstHop (es : List Edge) (up : Edge → Bool) (ds : List (Nat × Bool × Nat)) (h : Nat) : Option (Nat × Nat) :=
  let dist (x : Nat) (u : Bool) : Option Nat := (ds.find? (fun y => y.1 == x && y.2.1 == u)).map (·.2.2)
  match dist h true with
  | none => none
  | some n =>
    let ports := (es.filter (fun e => e.from_ == h && (match dist e.dest (up e) with
      | some m => m + 1 == n
      | none => false))).map (·.port)
    match ports with
    | [] => none
    | p :: r => some (r.foldl min p, n)

/-- Member numbers of the fabric's devices: those held, and the lowest free one for each unassigned device in ascending
hash order; static devices without an ID get none. -/
def assignMembers (ls : List PassLsa) : List (Nat × Nat) :=
  let held := (ls.filter (·.assigned)).map (fun l => (l.hash, l.id % 256))
  let want := (ls.filter (fun l => !l.assigned && !l.static)).map (·.hash)
  (want.mergeSort (fun a b => decide (a ≤ b))).foldl (fun m h =>
    match freeMember (m.map (·.2)) with
    | some n => m ++ [(h, n)]
    | none => m) held

/-- The entries of one device. -/
def routeEntries (es : List Edge) (ds ms : List (Nat × Nat)) (h : Nat) : List PassRoute :=
  let up := isUp ds ms
  let own := memberOf ms h
  ms.filterMap (fun t =>
    if t.1 = h then some (PassRoute.mk t.2 true true 0 false 0)
    else
      let dist := legalDist es up (2 * ms.length) 0 [(t.1, true, 0), (t.1, false, 0)]
      (firstHop es up dist h).map (fun x => PassRoute.mk t.2 true false x.1 (decide (t.2 < own)) x.2))

/-! ## Installation (R322, R325, R330) -/

/-- A route entry in force. -/
def State.rtValid (s : State) (m : Nat) : Bool := s.flag PASS_RT.VALID m

/-- The YIELD bits of a route pair agree: the member with the higher number yields. -/
def State.yieldOk (s : State) (m : Nat) : Bool :=
  s.flag PASS_RT.YIELD m == decide (m < s.rd PASS_DEV.ID % 256)

/-- DISCARD is in force on a port toward a member. -/
def State.discards (s : State) (p m : Nat) : Bool := s.flag PASS_LINK_CFG.DEADLOCK p || (s.rtValid m && !s.yieldOk m)

/-- MODE_DISCARD of every port as its setting and its pairs give it. -/
def State.showDiscard (s : State) : State :=
  s.each 4 (fun p s => s.wr PASS_LINK_STAT.MODE_DISCARD (b2n (s.flag PASS_LINK_CFG.DEADLOCK p ||
    (List.range 256).any (fun m => s.rtValid m && !s.flag PASS_RT.SELF m && s.rd PASS_RT.PORT m == p && !s.yieldOk m))) p)

/-- A device lost to the fabric recorded. -/
def State.lostDevice (s : State) (m : Nat) : State :=
  ((s.wr PASS_DEV_LOST.DEV (s.rd PASS_CFG.FABRIC * 256 + m)).inc PASS_DEV_LOST.COUNT).passCause PASS_IRQ_CAUSE.DEV_LOST

/-- The shadow table of a generation switched to. -/
def State.installRoutes (s : State) (gen : Nat) (es : List PassRoute) : State :=
  let was := (List.range 256).filter s.rtValid
  let s := s.each 256 (fun m s =>
    let e := (es.find? (fun (x : PassRoute) => x.member == m && x.valid)).getD (PassRoute.mk m false false 0 false 0)
    (((((s.wr PASS_RT.VALID (b2n e.valid) m).wr PASS_RT.SELF (b2n e.self) m).wr PASS_RT.PORT e.port m).wr
      PASS_RT.YIELD (b2n e.yield) m).wr PASS_RT.HOPS e.hops m).wr PASS_RT.GEN gen m)
  let s := match es.find? (fun (x : PassRoute) => x.self && x.valid) with
    | some e => if s.flag PASS_DEV.ASSIGNED ∨ s.flag PASS_CFG.STATIC_EN then s else s.setId (s.rd PASS_CFG.FABRIC * 256 + e.member) false
    | none => s
  let s := (s.wr PASS_DEV.GEN gen).passCause PASS_IRQ_CAUSE.GEN
  let s := (was.filter (fun m => !s.rtValid m)).foldl (fun s m => s.lostDevice m) s
  let s := (List.finRange 4).foldl (fun s p => if s.unitState (.pass p) = uOff then s else s.takeUnit (156 + p.val)) s
  ({ s with pass := { s.pass with shadow := none } }).showDiscard.showAuthority

/-- The shadow table of a generation switched to, where it holds one. -/
def State.commitRoutes (s : State) (gen : Nat) : State :=
  match s.pass.shadow with
  | some (g, es) => if g = gen then s.installRoutes gen es else s
  | none => s

/-- COMMIT. -/
def execRoutesCommit (gen : Fin 65536) (s : State) : Ans :=
  match s.pass.shadow with
  | some (g, _) => if g = gen.val then .next ((s.commitRoutes gen).emit (.routesCommit gen)) else .next s
  | none => .next s

/-- ROUTE_COMPUTE: the authority sends every device its entries under a new generation. -/
def execRouteCompute (s : State) : Ans :=
  if s.fwDown 7 || !s.pass.routesDue then .next s
  else
    let t := s.passView
    if !t.flag PASS_DEV.AUTHORITY then .next { t with pass := { t.pass with routesDue := false } }
    else
      let me := t.idNum
      let ls := t.fabric
      let ms := assignMembers ls
      let es := edgesOf (ls.filter (fun l => ms.any (fun x => x.1 == l.hash)))
      let ds := bfsDepth es ms.length 0 [(me, 0)]
      let last := match t.pass.acks with
        | some (g, _) => g
        | none => t.rd PASS_DEV.GEN
      let gen := (last + 1) % 65536
      let others := ms.filter (fun x => x.1 != me)
      let t := others.foldl (fun t x => t.emit (.routes x.1 gen (routeEntries es ds ms x.1))) t
      let t := { t with pass := { t.pass with routesDue := false, shadow := some (gen, routeEntries es ds ms me), acks := some (gen, []),
                                              members := ms.map (·.2) } }
      if others.isEmpty then .next { (t.commitRoutes gen) with pass := { (t.commitRoutes gen).pass with acks := none } } else .next t

/-- ROUTES: entries for this device go into the shadow table and are acknowledged. -/
def execPassRoutes (gen : Fin 65536) (entries : List PassRoute) (s : State) : Ans :=
  if s.fwDown 7 then .next s
  else .next ({ s with pass := { s.pass with shadow := some (gen.val, entries) } }.emit (.routesAck gen))

/-- ROUTES_ACK: with the last of them the authority floods COMMIT and switches itself. -/
def execRoutesAck (member : Fin 256) (gen : Fin 65536) (s : State) : Ans :=
  match s.pass.acks with
  | none => .next s
  | some (g, got) =>
    if s.fwDown 7 ∨ g ≠ gen.val ∨ !s.pass.members.contains member.val then .next s
    else
      let got := if got.contains member.val then got else member.val :: got
      let own := s.rd PASS_DEV.ID % 256
      if s.pass.members.all (fun m => m == own || got.contains m) then
        .next (({ s with pass := { s.pass with acks := none } }.emit (.routesCommit gen)).commitRoutes gen)
      else .next { s with pass := { s.pass with acks := some (g, got) } }

end Sys2Proof.Machine
end

