-- ==== Sys2Proof/Machine/PassOps.lean ====
section
/-! DEFINITION. The shared operations of Pass packets and of the bridge (13 R317, R318, R323, R324, R327, R330, 12 R302). -/

namespace Sys2Proof.Machine

/-! ## Packets (R317) -/

/-- Each 8-byte word of a payload most significant byte first, as the wire carries it. -/
def swapWords : Nat → Bytes → Bytes
  | 0, _ => []
  | n + 1, b => if b.isEmpty then [] else (b.take 8).reverse ++ swapWords n (b.drop 8)

/-- The bytes of a packet on the wire. -/
def packetBytes (type : Nat) (p : PassPacket) : Bytes :=
  leBytes 1 type ++ leBytes 1 (b2n p.poison + p.cls * 2 + b2n p.fw * 8) ++ leBytes 2 p.dst ++ leBytes 2 p.src ++ leBytes 1 p.vef ++
    leBytes 1 p.domain ++ leBytes 6 p.addr ++ leBytes 2 p.tag ++ leBytes 2 p.len ++ leBytes 2 p.gen ++ leBytes 4 0 ++
    swapWords 32 p.payload

/-- The types of packets that carry data between devices. -/
def dataTypes : List Nat := [ptWrite, ptWriteAck, ptRead, ptReadData, ptLock, ptLockGrant, ptUnlock, ptSbPoll, ptSbData]

/-- A packet read from wire bytes, with its type. -/
def packetOf (b : Bytes) : Nat × PassPacket :=
  let n (o w : Nat) : Nat := Bytes.num b o w
  let fl := n 1 1
  (n 0 1, { poison := fl.testBit 0, cls := fl / 2 % 4, fw := fl.testBit 3, dst := n 2 2, src := n 4 2, vef := n 6 1 % 128,
            domain := n 7 1, addr := n 8 6, tag := n 0xE 2, len := n 0x10 2, gen := n 0x12 2, payload := swapWords 32 ((b.drop 24).take 256),
            reserved := decide (16 ≤ fl) || decide (128 ≤ n 6 1) || n 0x14 4 != 0 || decide (256 < n 0x10 2) ||
              !dataTypes.contains (n 0 1) })

/-! ## Sending (R323, R324) -/

/-- A packet's bytes charged to its VEF at its source or destination (06 R163). -/
def State.chargePass (s : State) (p : PassPacket) : State :=
  if p.fw then s else s.charge p.vef { Usage.zero with pass := 24 + p.payload.length }

/-- The lines of HBM that an inbound request moves charged to its VEF (06 R163). -/
def State.chargeLines (s : State) (p : PassPacket) (a n : Nat) (write : Bool) : State :=
  if p.fw then s else s.charge p.vef (s.hbmUse .phys a n write)

/-- The first-hop port toward a member, where its entry is valid and the port is UP. -/
def State.hopTo (s : State) (m : Nat) : Option Nat :=
  let p := s.rd PASS_RT.PORT m
  if s.rtValid m && !s.flag PASS_RT.SELF m && s.link p == lkUp then some p else none

/-- A packet sent on by this device's routes: over Pass in its own fabric, by the tunnel to another. -/
def State.routePacket (s : State) (type : Nat) (p : PassPacket) : State :=
  let own := s.rd PASS_DEV.ID
  let hop (m : Nat) (s : State) : State := match s.hopTo m with
    | some q => s.emit (.packet q type p)
    | none => s.inc PASS_STAT.NOROUTE
  if p.dst / 256 = own / 256 then hop (p.dst % 256) s
  else if !s.flag PASS_TUN.ENABLE then s.inc PASS_STAT.NOROUTE
  else
    let ep := s.rd PASS_TUNT.EP_MEMBER (s.rd PASS_CFG.FABRIC)
    if ep ≠ own % 256 then hop ep s
    else if !s.flag PASS_TUNT.VALID (p.dst / 256) then s.inc PASS_STAT.NOROUTE
    else
      let b := packetBytes type p
      s.emit (.tunnel (s.rd PASS_TUNT.ADDR (p.dst / 256)) (s.rd PASS_TUN.VLAN) (s.rd PASS_TUN.UDP_PORT) (b ++ leBytes 4 (crc32c b)))

/-- A packet that starts here. An unassigned device sends control packets only (R319). -/
def State.sendPacket (s : State) (type : Nat) (p : PassPacket) : State :=
  if !s.flag PASS_DEV.ASSIGNED then s
  else (s.chargePass p).routePacket type { p with src := s.rd PASS_DEV.ID, gen := s.rd PASS_DEV.GEN }

/-- The response to a packet. -/
def packetReply (p : PassPacket) (payload : Bytes) (poison : Bool) : PassPacket :=
  { p with dst := p.src, src := p.dst, len := payload.length, payload := payload, poison := poison, reserved := false }

/-- A response sent. -/
def State.respond (s : State) (type : Nat) (p : PassPacket) (payload : Bytes) (poison : Bool) : State :=
  s.sendPacket type (packetReply p payload poison)

/-! ## Serving (12 R302, 13 R323, R327) -/

/-- Where a request at its destination leads: a local physical address; or the refusal, already counted. -/
def State.inbound (s : State) (p : PassPacket) (n : Nat) (write : Bool) : State × Option Nat :=
  if p.fw then
    if s.inHbm (p.addr + n - 1) && s.inHbm p.addr then (s, some p.addr) else (s.inc PASS_STAT.NOROUTE, none)
  else
    let v := p.vef
    if !s.flag VEF_CTL.FABRIC_IN v || s.rd VEF_CTL.DOMAIN v != p.domain then (s.inc VEF_VIOL.FABRIC v, none)
    else
      let c := s.devCtx v
      let pa := match c with
        | .vef _ st asid => s.iommu st asid p.addr write
        | _ => some p.addr
      match pa with
      | none => (s.noteDeny c p.addr write (some .iommu), none)
      | some a =>
        if !s.inHbm a || !s.inHbm (a + n - 1) then ((s.inc PASS_STAT.NOROUTE).inc VEF_VIOL.FABRIC v, none)
        else if !s.regionOk v a then (s.noteDeny c p.addr write (some .region), none)
        else (s, some a)

/-- The line of a request, for locks: translated where it can be. -/
def State.lineOf (s : State) (p : PassPacket) : Nat := ((s.inbound p 1 false).2.getD p.addr) / 64

/-- Another device or sequence holds the line. -/
def State.lineHeld (s : State) (p : PassPacket) : Bool :=
  s.pass.locks.any (fun l => l.line == s.lineOf p && !(l.src == p.src && l.tag == p.tag))

/-- A WRITE carried out and acknowledged; the writes of a sequence whose lock has expired fail. -/
def State.serveWrite (s : State) (p : PassPacket) : State :=
  if s.pass.expired.contains (p.src, p.tag) then s.respond ptWriteAck p [] true
  else
    let r := s.inbound p p.payload.length true
    let t := match r.2 with
      | none => r.1
      | some a =>
        let t := (r.1.chargeLines p a p.payload.length true).memWrite a p.payload
        if p.poison then t.poisonAt ((List.range p.payload.length).map (fun i => a + i)) else t
    (t.chargePass p).respond ptWriteAck p [] false

/-- A READ carried out and answered. -/
def State.serveRead (s : State) (p : PassPacket) : State :=
  let r := s.inbound p p.len false
  let t := r.1.chargePass p
  match r.2 with
  | none => t.respond ptReadData p (List.replicate p.len 0) false
  | some a =>
    let bad := decide (t.hbmWorst a p.len = 2)
    ((t.chargeLines p a p.len false).readErrs a p.len).respond ptReadData p (t.memRead a p.len) bad

/-- A LOCK of a free line granted. -/
def State.serveLock (s : State) (p : PassPacket) : State :=
  let gone := s.pass.expired.filter (· != (p.src, p.tag))
  let locks := LineLock.mk (s.lineOf p) p.src p.tag s.localNs :: s.pass.locks
  ({ s with pass := { s.pass with locks := locks, expired := gone } }.chargePass p).respond ptLockGrant p [] false

/-- A request that needs a line: served, or it waits for the line. -/
def State.serveLine (s : State) (type : Nat) (p : PassPacket) : State :=
  if s.lineHeld p then { s with pass := { s.pass with lineWait := s.pass.lineWait ++ [(type, p, s.localNs)] } }
  else if type = ptWrite then s.serveWrite p
  else if type = ptRead then s.serveRead p
  else s.serveLock p

/-- Requests that wait for lines served as far as the lines are free, in order. -/
def State.wakeLines (s : State) : State :=
  let ws := s.pass.lineWait
  ws.foldl (fun s w =>
    if s.lineHeld w.2.1 then { s with pass := { s.pass with lineWait := s.pass.lineWait ++ [w] } }
    else s.serveLine w.1 w.2.1) { s with pass := { s.pass with lineWait := [] } }

/-- An UNLOCK. -/
def State.serveUnlock (s : State) (p : PassPacket) : State :=
  let s := { s with pass := { s.pass with locks := s.pass.locks.filter (fun l => !(l.src == p.src && l.tag == p.tag)),
                                          expired := s.pass.expired.filter (· != (p.src, p.tag)) } }
  s.wakeLines

/-- An SB_POLL: the word's PEND and STATUS go to its peer, and PEND clears; any other device reads zeros. ADDR [3:0]
names the word. -/
def State.servePoll (s : State) (p : PassPacket) : State :=
  let j := p.addr % 16
  if s.rd PASS_SBO.PEER j = p.src then
    let d := leBytes 4 (s.rd PASS_SBO.PEND j) ++ leBytes 4 (s.rd PASS_SBO.STATUS j)
    (s.wr PASS_SBO.PEND 0 j).respond ptSbData p d false
  else s.respond ptSbData p (List.replicate 8 0) false

/-! ## Requests of this device (R318, R326, R327, R330) -/

/-- The port whose slot a request uses: its route's first hop. -/
def State.slotOf (s : State) (p : PassPacket) : Nat :=
  let own := s.rd PASS_DEV.ID
  let m := if p.dst / 256 = own / 256 then p.dst % 256 else s.rd PASS_TUNT.EP_MEMBER (s.rd PASS_CFG.FABRIC)
  s.rd PASS_RT.PORT m

/-- An outbound transfer holds a port's slot. -/
def State.slotHeld (s : State) (port : Nat) : Bool := s.pass.reqs.any (fun r => r.holds && r.port == port)

/-- A request outstanding changed, or gone. -/
def State.setReq (s : State) (tag : Nat) (f : PassReq → PassReq) : State :=
  { s with pass := { s.pass with reqs := s.pass.reqs.map (fun r => if r.packet.tag = tag then f r else r) } }
def State.dropReq (s : State) (tag : Nat) : State :=
  { s with pass := { s.pass with reqs := s.pass.reqs.filter (fun r => r.packet.tag != tag) } }

/-- A request (re)sent under its tag, with a type and packet. -/
def State.sendReq (s : State) (r : PassReq) (type : Nat) (p : PassPacket) (holds : Bool) : State :=
  (s.setReq r.packet.tag (fun r => { r with type := type, packet := { p with tag := r.packet.tag }, holds := holds })).sendPacket
    type { p with tag := r.packet.tag }

/-- The type that a request begins with. -/
def ReqKind.first : ReqKind → Nat
  | .write | .sc => ptWrite
  | .read => ptRead
  | .lr | .amo _ _ _ _ _ => ptLock

/-- The next outbound transfer that waits for a port's slot is sent. -/
def State.nextOut (s : State) (port : Nat) : State :=
  if s.slotHeld port then s
  else match s.pass.reqs.find? (fun r => r.type == 0 && r.port == port) with
    | some r => s.sendReq r r.kind.first r.packet true
    | none => s

/-- A non-posted inbound request served, now that it has its slot. -/
def State.serveSlot (s : State) (type : Nat) (p : PassPacket) : State := s.serveLine type p

/-- A port's slot is free: inbound requests that waited are served, then the next outbound one is sent. -/
def State.slotFree (s : State) (port : Nat) : State :=
  if s.slotHeld port then s
  else
    let ws := s.pass.slotWait.filter (fun w => w.1 == port)
    let s := { s with pass := { s.pass with slotWait := s.pass.slotWait.filter (fun w => w.1 != port) } }
    (ws.foldl (fun s w => s.serveSlot w.2.1 w.2.2) s).nextOut port

/-- A non-posted inbound request at a port (R330): an outbound transfer that yields gives it the slot and is retried after
it; one that does not yield keeps it waiting. -/
def State.slotIn (s : State) (port type : Nat) (p : PassPacket) : State :=
  match s.pass.reqs.find? (fun r => r.holds && r.port == port) with
  | none => s.serveSlot type p
  | some r =>
    if s.flag PASS_RT.YIELD (r.packet.dst % 256) then
      let s := (s.setReq r.packet.tag (fun r => { r with type := 0, holds := false })).inc PASS_LINK_STAT.BACKOFFS port
      (s.serveSlot type p).slotFree port
    else { s with pass := { s.pass with slotWait := s.pass.slotWait ++ [(port, type, p)] } }

/-- A new request entered: a write goes at once; another holds its port's slot, or waits for it, or under DISCARD, which
never holds the slot while it waits, goes without it. -/
def State.request (s : State) (kind : ReqKind) (src : Source) (p : PassPacket) : State :=
  let tag := s.pass.tag
  let port := s.slotOf p
  let free := match kind with
    | .write => true
    | _ => s.discards port (p.dst % 256)
  let wait := !free && s.slotHeld port
  let r := PassReq.mk kind (if wait then 0 else kind.first) { p with tag := tag } port src s.localNs (!free && !wait)
  let s := { s with pass := { s.pass with tag := (tag + 1) % 65536, reqs := s.pass.reqs ++ [r] } }
  if wait then s else s.sendPacket kind.first { p with tag := tag }

/-- A request of the bridge ended; its slot is free. -/
def State.endReq (s : State) (r : PassReq) : State :=
  let s := s.dropReq r.packet.tag
  if r.holds then s.slotFree r.port else s

/-- The outstanding request that a response answers: by tag, device and the type it was sent with. -/
def State.reqFor (s : State) (p : PassPacket) (type : Nat) : Option PassReq :=
  s.pass.reqs.find? (fun r => r.packet.tag == p.tag && r.packet.dst == p.src && r.type == type)

/-! ## Locked sequences (R327) -/

/-- The value that an AMO writes, by width 32 or 64 bits. -/
def amoValue (op : AmoOp) (w old v : Nat) : Nat :=
  let old := old % 2 ^ w
  let v := v % 2 ^ w
  match op with
  | .swap => v
  | .add => (old + v) % 2 ^ w
  | .xor => old ^^^ v
  | .and => old &&& v
  | .or => old ||| v
  | .min => if signed w old ≤ signed w v then old else v
  | .max => if signed w old ≤ signed w v then v else old
  | .minu => min old v
  | .maxu => max old v

/-- A try of a locked sequence has failed: an LR and an SC fail to their hart, an AMO is tried at most 3 times more. -/
def State.lockFailed (s : State) (r : PassReq) : State :=
  let s := s.inc PASS_STAT.LOCK_FAIL
  match r.kind with
  | .amo op wide v tries _ =>
    if tries ≥ 3 then (s.endReq r).emit (.fabricFault r.src (r.packet.dst * 2 ^ 48 + r.packet.addr))
    else
      let k := ReqKind.amo op wide v (tries + 1) none
      let s := s.setReq r.packet.tag (fun r => { r with kind := k, since := s.localNs })
      s.sendReq { r with kind := k } ptLock { r.packet with payload := [], len := 0, poison := false } r.holds
  | .sc => (s.endReq r).emit (.fabricSc r.src false)
  | _ => (s.endReq r).emit (.fabricData r.src (r.packet.dst * 2 ^ 48 + r.packet.addr) (List.replicate 64 0) true)

/-- A LOCK granted, or refused by its poison. -/
def State.lockGranted (s : State) (r : PassReq) (ok : Bool) : State :=
  if !ok then s.lockFailed r
  else match r.kind with
    | .amo _ wide _ _ _ => s.sendReq r ptRead { r.packet with len := if wide then 8 else 4 } r.holds
    | _ => s.sendReq r ptRead { r.packet with addr := r.packet.addr / 64 * 64, len := 64 } r.holds

/-- The number of a hart among sources. -/
def hartOf : Source → Option Nat
  | .host h _ => some h.val
  | _ => none

/-- Data of a read of this device. -/
def State.readArrived (s : State) (r : PassReq) (data : Bytes) (poison : Bool) : State :=
  let a := r.packet.dst * 2 ^ 48 + r.packet.addr
  let data := (data ++ List.replicate (r.packet.len - data.length) 0).take r.packet.len
  match r.kind with
  | .amo op wide v tries _ =>
    let w := if wide then 64 else 32
    let old := leNat data
    if poison then s.lockFailed r
    else
      let k := ReqKind.amo op wide v tries (some old)
      let s := s.setReq r.packet.tag (fun r => { r with kind := k })
      s.sendReq { r with kind := k } ptWrite { r.packet with payload := leBytes (w / 8) (amoValue op w old v), len := w / 8 } r.holds
  | .lr =>
    let s := match hartOf r.src with
      | some h => { s with pass := { s.pass with
          reserved := (h, r.packet.dst, r.packet.addr / 64, r.packet.tag) :: s.pass.reserved.filter (fun x => x.1 != h) } }
      | none => s
    (s.endReq r).emit (.fabricData r.src a data poison)
  | _ =>
    if r.holds then (s.endReq r).emit (.fabricData r.src a data poison)
    else
      let x := Parked.mk r.port r.src r.packet.dst r.packet.addr data poison s.localNs
      { s with pass := { s.pass with parked := s.pass.parked ++ [x] } }.endReq r

/-- An UNLOCK sent at the end of a sequence. -/
def State.sendUnlock (s : State) (r : PassReq) : State :=
  s.sendPacket ptUnlock { r.packet with payload := [], len := 0, poison := false }

/-- The acknowledgement of a write of this device; a host core's store is posted. -/
def State.writeAcked (s : State) (r : PassReq) (poison : Bool) : State :=
  match r.kind with
  | .amo _ _ _ _ old =>
    if poison then s.lockFailed r else ((s.sendUnlock r).endReq r).emit (.fabricAmo r.src (old.getD 0))
  | .sc => if poison then s.lockFailed r else ((s.sendUnlock r).endReq r).emit (.fabricSc r.src true)
  | _ =>
    let s := s.endReq r
    if (hartOf r.src).isSome then s else s.emit (.fabricAck r.src (r.packet.dst * 2 ^ 48 + r.packet.addr) poison)

/-- A request without a response for TIMEOUT_US: a read ends poisoned, a write is acknowledged with poison. -/
def State.reqTimeout (s : State) (r : PassReq) : State :=
  let s := s.inc PASS_STAT.TIMEOUTS
  match r.kind with
  | .write => s.writeAcked r true
  | .read => s.readArrived r [] true
  | _ => s.lockFailed r

/-! ## Packets that arrive -/

/-- A packet for this device, by its type; `port` is where it came in, none for the tunnel. -/
def State.deliver (s : State) (port : Option Nat) (type : Nat) (p : PassPacket) : State :=
  if type = ptWrite then s.serveLine type p
  else if type = ptRead ∨ type = ptLock then
    match port with
    | some q => s.slotIn q type p
    | none => s.serveLine type p
  else if type = ptUnlock then s.serveUnlock p
  else if type = ptSbPoll then s.servePoll p
  else if type = ptSbData then
    match s.pass.polls.find? (fun x => x.tag == p.tag && s.rd PASS_POLL.TARGET x.entry == p.src) with
    | none => s
    | some x =>
      let i := x.entry
      let s := { s with pass := { s.pass with polls := s.pass.polls.filter (fun y => y.entry != i), misses := Sparse.put 0 s.pass.misses i 0 } }
      let hit := Bytes.num p.payload 0 4 &&& s.rd PASS_POLL.MASK i
      let s := (s.wr PASS_POLL.LOST 0 i).wr PASS_POLL.LAST_STATUS (Bytes.num p.payload 4 4) i
      if hit = 0 then s
      else (s.wr PASS_POLL.PEND_ACC (s.rd PASS_POLL.PEND_ACC i ||| hit) i).irq (s.rd PASS_POLL.IRQ_ADDR i) (s.rd PASS_POLL.IRQ_DATA i)
  else
    let s := s.chargePass p
    if type = ptWriteAck then (match s.reqFor p ptWrite with
      | some r => s.writeAcked r p.poison
      | none => s)
    else if type = ptReadData then (match s.reqFor p ptRead with
      | some r => s.readArrived r p.payload p.poison
      | none => s)
    else match s.reqFor p ptLock with
      | some r => s.lockGranted r (!p.poison)
      | none => s

/-- A packet that arrives on a port: refused while the link is not UP, discarded where it is malformed or this device
unassigned, forwarded, or delivered. -/
def State.passReceive (s : State) (port type : Nat) (p : PassPacket) : State :=
  if s.link port ≠ lkUp then s
  else if p.reserved then s.inc PASS_STAT.MALFORMED
  else if !s.flag PASS_DEV.ASSIGNED then s
  else if p.dst = s.rd PASS_DEV.ID then s.deliver (some port) type p
  else s.routePacket type p

end Sys2Proof.Machine
end

