-- ==== Sys2Proof/Machine/Pass.lean ====
section
/-! DEFINITION. The commands of Pass packets, the bridge and the side band (13 R318, R323–R330). -/

namespace Sys2Proof.Machine

/-! ## Packets at a port -/

/-- WRITE. -/
def execPassWrite (port : Fin 4) (packet : PassPacket) (s : State) : Ans := .next (s.passReceive port ptWrite packet)

/-- WRITE_ACK. -/
def execPassWriteAck (port : Fin 4) (packet : PassPacket) (s : State) : Ans := .next (s.passReceive port ptWriteAck packet)

/-- READ. -/
def execPassRead (port : Fin 4) (packet : PassPacket) (s : State) : Ans := .next (s.passReceive port ptRead packet)

/-- READ_DATA. -/
def execPassReadData (port : Fin 4) (packet : PassPacket) (s : State) : Ans := .next (s.passReceive port ptReadData packet)

/-- LOCK. -/
def execPassLock (port : Fin 4) (packet : PassPacket) (s : State) : Ans := .next (s.passReceive port ptLock packet)

/-- LOCK_GRANT. -/
def execPassLockGrant (port : Fin 4) (packet : PassPacket) (s : State) : Ans := .next (s.passReceive port ptLockGrant packet)

/-- UNLOCK. -/
def execPassUnlock (port : Fin 4) (packet : PassPacket) (s : State) : Ans := .next (s.passReceive port ptUnlock packet)

/-- SB_POLL. -/
def execSbPoll (port : Fin 4) (packet : PassPacket) (s : State) : Ans := .next (s.passReceive port ptSbPoll packet)

/-- SB_DATA. -/
def execSbData (port : Fin 4) (packet : PassPacket) (s : State) : Ans := .next (s.passReceive port ptSbData packet)

/-- A datagram of the tunnel, with the packet's CRC-32C behind it (R324). -/
def State.tunnelIn (s : State) (payload : Bytes) : State :=
  let n := payload.length - 4
  if !s.flag PASS_TUN.ENABLE then s
  else if payload.length < 28 ∨ leNat (payload.drop n) ≠ crc32c (payload.take n) then s.inc PASS_STAT.MALFORMED
  else
    let x := packetOf (payload.take n)
    if x.2.reserved then s.inc PASS_STAT.MALFORMED
    else if !s.flag PASS_DEV.ASSIGNED then s
    else if x.2.dst = s.rd PASS_DEV.ID then s.deliver none x.1 x.2
    else s.routePacket x.1 x.2

/-- TUNNEL_DATAGRAM. -/
def execTunnelDatagram (payload : Bytes) (s : State) : Ans := .next (s.tunnelIn payload)

/-! ## The side band (R329) -/

/-- POLL_TIMER: an SB_POLL to the target of an enabled entry. -/
def execPollTimer (entry : Fin 16) (s : State) : Ans :=
  let i := entry.val
  let due := match Sparse.look none s.pass.polled i with
    | some t => decide (t + s.rd PASS_CFG.POLL_US * 1000 ≤ s.localNs)
    | none => true
  if !s.flag PASS_POLL.EN i || !due || !s.flag PASS_DEV.ASSIGNED then .next s
  else
    let tag := s.pass.tag
    let t := { s with pass := { s.pass with
      tag := (tag + 1) % 65536, polled := Sparse.put none s.pass.polled i (some s.localNs),
      polls := s.pass.polls ++ [SbPoll.mk i tag s.localNs false] } }
    .next (t.sendPacket ptSbPoll { poison := false, cls := 1, fw := true, dst := s.rd PASS_POLL.TARGET i, src := 0, vef := 0, domain := 0,
                                   addr := s.rd PASS_POLL.WORD i, tag := tag, len := 0, gen := 0, payload := [], reserved := false })

/-- POLL_MISS: a poll without an answer for 100 µs; the third in a row sets LOST. -/
def execPollMiss (entry : Fin 16) (s : State) : Ans :=
  let i := entry.val
  match s.pass.polls.find? (fun x => x.entry == i && !x.missed && decide (x.since + 100000 ≤ s.localNs)) with
  | none => .next s
  | some x =>
    let n := Sparse.look 0 s.pass.misses i + 1
    let t := { s with pass := { s.pass with
      polls := s.pass.polls.map (fun y => if y = x then { y with missed := true } else y), misses := Sparse.put 0 s.pass.misses i n } }
    if n ≥ 3 ∧ !t.flag PASS_POLL.LOST i then .next ((t.wr PASS_POLL.LOST 1 i).passCause PASS_IRQ_CAUSE.POLL_LOST) else .next t

/-- SBO_SET: bits of a word's PEND set. -/
def execSboSet (src : Source) (word : Fin 16) (set : Nat) (s : State) : Ans :=
  .next (s.asWho src (RegName.passSbo.addr word) Requester.fwHyp (fun s =>
    s.wr PASS_SBO.PEND (s.rd PASS_SBO.PEND word ||| set % 2 ^ 32) word))

/-! ## The bridge (R326, R327) -/

/-- The pieces of a burst: none crosses 4 KiB, none has more than 256 bytes. -/
def cutBurst : Nat → Nat → Nat → List (Nat × Nat)
  | 0, _, _ => []
  | k + 1, a, n =>
    if n = 0 then []
    else
      let m := min n (min 256 (4096 - a % 4096))
      (a, m) :: cutBurst k (a + m) (n - m)

/-- In whose name a request goes: the VEF and its domain, firmware without one, or nobody. -/
def State.fabricAs (s : State) (src : Source) : Option (Bool × Nat × Nat) :=
  match s.who src with
  | .firmware | .cantle => some (true, 0, 0)
  | .hypervisor => some (false, 0, s.rd VEF_CTL.DOMAIN 0)
  | .vef v => some (false, v, s.rd VEF_CTL.DOMAIN v)
  | .nobody => none

/-- The context of a local access of a requester. -/
def State.localCtx (s : State) (src : Source) : Ctx :=
  match s.who src with
  | .vef v => s.devCtx v
  | _ => .phys

/-- The class of a requester's own traffic, as the ring CLASS encodes it (01 R25): the Cantle's is SAFETY, that of the
management core REALTIME and that of the host cores INTERACTIVE; so is that of the PCIe functions (DEDUCED). -/
def sourceClass : Source → Nat
  | .cantle => 0
  | .mgmt => 1
  | .host _ _ | .pciePF | .pcieVF _ => 2

/-- A request packet to a fabric address. -/
def fabricPacket (who : Bool × Nat × Nat) (cls a len : Nat) (payload : Bytes) : PassPacket :=
  { poison := false, cls := cls, fw := who.1, dst := a / 2 ^ 48 % 2 ^ 16, src := 0, vef := who.2.1, domain := who.2.2, addr := a % 2 ^ 48,
    tag := 0, len := len, gen := 0, payload := payload, reserved := false }

/-- What keeps a requester from sending: no identity, or a VEF without FABRIC_OUT. -/
def State.fabricBars (s : State) (who : Option (Bool × Nat × Nat)) : Bool :=
  match who with
  | none => true
  | some (fw, v, _) => !fw && !s.flag VEF_CTL.FABRIC_OUT v

/-- A refused access counted for its VEF. -/
def State.fabricRefused (s : State) (who : Option (Bool × Nat × Nat)) : State :=
  match who with
  | some (false, v, _) => s.inc VEF_VIOL.FABRIC v
  | _ => s

/-- One piece of a read under DISCARD: parked data is collected; else the requester is told to retry, and the data is
fetched unless that is already under way. -/
def State.delayedRead (s : State) (src : Source) (p : PassPacket) : State :=
  let hit (x : Parked) : Bool := x.src == src && x.dst == p.dst && x.addr == p.addr && x.data.length == p.len
  let a := p.dst * 2 ^ 48 + p.addr
  match s.pass.parked.find? hit with
  | some x => { s with pass := { s.pass with parked := s.pass.parked.erase x } }.emit (.fabricData src a x.data x.poison)
  | none =>
    let busy := s.pass.reqs.any (fun r => r.kind == .read && r.src == src && r.packet.dst == p.dst && r.packet.addr == p.addr)
    (if busy then s else s.request .read src p).emit (.fabricRetry src a)

/-- FABRIC_LR: LOCK for the line, then a read under the lock. -/
def execFabricLr (src : Source) (addr : Nat) (s : State) : Ans :=
  let who := s.fabricAs src
  if s.fabricBars who then .next ((s.fabricRefused who).emit (.fabricData src addr (List.replicate 64 0) false))
  else
    let w := who.getD (true, 0, 0)
    .next (s.request .lr src (fabricPacket w (sourceClass src) addr 0 []))

/-- FABRIC_SC: the matching SC writes under the lock's tag; one without a matching LR fails. -/
def execFabricSc (src : Source) (addr : Nat) (data : Bytes) (s : State) : Ans :=
  let dst := addr / 2 ^ 48
  let line := addr % 2 ^ 48 / 64
  let held := (hartOf src).bind (fun h => s.pass.reserved.find? (fun x => x.1 == h && x.2.1 == dst && x.2.2.1 == line))
  match held with
  | none => .next ((s.inc PASS_STAT.LOCK_FAIL).emit (.fabricSc src false))
  | some x =>
    let who := s.fabricAs src
    let t := { s with pass := { s.pass with reserved := s.pass.reserved.erase x } }
    if s.fabricBars who then .next ((t.fabricRefused who).emit (.fabricSc src false))
    else
      let p := { fabricPacket (who.getD (true, 0, 0)) (sourceClass src) addr data.length data with tag := x.2.2.2 }
      let r := PassReq.mk .sc ptWrite p (t.slotOf p) src t.localNs false
      .next (({ t with pass := { t.pass with reqs := t.pass.reqs ++ [r] } }).sendPacket ptWrite p)

/-- FABRIC_AMO: LOCK, READ, WRITE and UNLOCK. -/
def execFabricAmo (src : Source) (addr : Nat) (op : AmoOp) (wide : Bool) (value : Nat) (s : State) : Ans :=
  let who := s.fabricAs src
  if s.fabricBars who then .next ((s.fabricRefused who).emit (.fabricAmo src 0))
  else
    let w := who.getD (true, 0, 0)
    .next (s.request (.amo op wide value 0 none) src (fabricPacket w (sourceClass src) addr 0 []))

/-- REQUEST_TIMEOUT: a request without a response for TIMEOUT_US. -/
def execRequestTimeout (tag : Fin 65536) (s : State) : Ans :=
  match s.pass.reqs.find? (fun r => r.packet.tag == tag.val && decide (r.since + s.rd PASS_CFG.TIMEOUT_US * 1000 ≤ s.localNs)) with
  | some r => .next (s.reqTimeout r)
  | none => .next s

/-- LOCK_HOLD_EXPIRY: locks held for 2 µs are released, and their sequences' later writes fail. -/
def execLockHoldExpiry (s : State) : Ans :=
  let old (l : LineLock) : Bool := decide (l.since + 2000 ≤ s.localNs)
  let gone := s.pass.locks.filter old
  if gone.isEmpty then .next s
  else .next { s with pass := { s.pass with
    locks := s.pass.locks.filter (fun l => !old l), expired := gone.map (fun (l : LineLock) => (l.src, l.tag)) ++ s.pass.expired } }.wakeLines

/-- LOCK_WAIT_TIMEOUT: LOCKs not granted within 2 µs fail. -/
def execLockWaitTimeout (s : State) : Ans :=
  let old (w : Nat × PassPacket × Nat) : Bool := w.1 == ptLock && decide (w.2.2 + 2000 ≤ s.localNs)
  let gone := s.pass.lineWait.filter old
  let t := { s with pass := { s.pass with lineWait := s.pass.lineWait.filter (fun w => !old w) } }
  .next (gone.foldl (fun s w => s.respond ptLockGrant w.2.1 [] true) t)

/-- DELAYED_READ_EXPIRY: data not collected within READ_TIMER_US is discarded. -/
def execDelayedReadExpiry (port : Fin 4) (s : State) : Ans :=
  let old (x : Parked) : Bool := x.port == port.val && decide (x.since + s.rd PASS_LINK_CFG.READ_TIMER_US port * 1000 ≤ s.localNs)
  let n := (s.pass.parked.filter old).length
  .next (({ s with pass := { s.pass with parked := s.pass.parked.filter (fun x => !old x) } }).add PASS_LINK_STAT.DISCARDED n port)

end Sys2Proof.Machine
end

