-- ==== Sys2Proof/Machine/Time.lean ====
section
/-! DEFINITION. The time bases' commands (14 R340–R342) and the gPTP service (14 R346). -/

namespace Sys2Proof.Machine

/-! ## Snapshot and correction (R340–R342) -/

/-- All four bases copied into TB_SNAP. -/
def State.snap (s : State) : State := s.each 4 (fun n s => s.wr TB_SNAP.VALUE (s.baseValue n) n)

/-- SNAP. -/
def execSnap (src : Source) (s : State) : Ans := .next (s.asWho src RegName.tbCtl.addr Requester.fw State.snap)

/-- Limits of TB_INC: 1.998 ns and 2.002 ns. -/
def incLow : Nat := 0x1FF7CED91
def incHigh : Nat := 0x20083126F

/-- The rate of a base set, within its limits. -/
def State.setInc (s : State) (n v : Nat) : State :=
  if n = 3 then s
  else if v < incLow then (s.wr TB_INC.INC incLow n).wr TB_STAT.CLAMP 1
  else if incHigh < v then (s.wr TB_INC.INC incHigh n).wr TB_STAT.CLAMP 1
  else s.wr TB_INC.INC v n

/-- TB_INC_WRITE. -/
def execTbIncWrite (src : Source) (base : Fin 4) (value : Nat) (s : State) : Ans :=
  .next (s.asWho src (RegName.tbInc.addr base) Requester.fw (fun s => s.setInc base (value % 2 ^ 40)))

/-- The low word of a step held. -/
def State.holdLow (s : State) (n low : Nat) : State :=
  if n = 3 then s else { s with time := { s.time with hold := Sparse.put 0 s.time.hold n (low % 2 ^ 32) } }

/-- TB_OFS_LOW_WRITE. -/
def execTbOfsLowWrite (src : Source) (base : Fin 4) (low : Nat) (s : State) : Ans :=
  .next (s.asWho src (RegName.tbOfs.addr base) Requester.fw (fun s => s.holdLow base low))

/-- A step of a base formed, to be applied at the next tick in place of one formed before. -/
def State.formStep (s : State) (n : Nat) (ofs : Int) : State :=
  if n = 3 then s else { s with time := { s.time with step := Sparse.put none s.time.step n (some ofs) } }

/-- A write of TB_OFS that includes its high word. -/
def State.writeOfs (s : State) (n high : Nat) (low : Option Nat) : State :=
  s.formStep n (signed 64 (high % 2 ^ 32 * 2 ^ 32 + low.getD (Sparse.look 0 s.time.hold n) % 2 ^ 32))

/-- TIME_STEP. -/
def execTimeStep (src : Source) (base : Fin 4) (high : Nat) (low : Option Nat) (s : State) : Ans :=
  .next (s.asWho src (RegName.tbOfs.addr base) Requester.fw (fun s => s.writeOfs base high low))

/-! ## gPTP (R346) -/

/-- Switch ports that take part in a domain. -/
def State.gptpPorts (s : State) (d : Nat) : Nat := Bytes.num s.fw.record (0x130 + d * 4) 2 % 1024

/-- A gPTP message on a port: it comes from the domain's slave port where it measures an offset, and the base is stepped
or slewed; the depot base follows only in DEPOT. -/
def State.gptpMessage (s : State) (port : Nat) (i : GptpInfo) : State :=
  let d := i.domain.val
  match i.offset with
  | none => s
  | some o =>
    if s.fwDown 7 || !(s.gptpPorts d).testBit port then s
    else
      let s := { s with gw := { s.gw with slave := Sparse.put none s.gw.slave d (some port) } }
      if d = 2 ∧ s.cur ≠ mDepot then s
      else if o.natAbs > s.rd TB_CFG.STEP_US * 1000 then s.formStep d (-o)
      else s.setInc d (Config.slew (s.rd TB_INC.INC d) o)

/-- GPTP_SYNC_SEND: Sync on every master port of a domain, every 125 ms. -/
def execGptpSyncSend (domain : Fin 3) (s : State) : Ans :=
  let d := domain.val
  let early := (Sparse.look none s.gw.synced d).any (fun t => within t 125000000 s.localNs)
  if s.fwDown 7 || early || !s.outsidePark then .next s
  else
    let t := s.each 10 (fun p s =>
      if (s.gptpPorts d).testBit p ∧ s.rd GW_PORT.STATE p = 2 ∧ Sparse.look none s.gw.slave d ≠ some p then s.emit (.gptpSync d p) else s)
    .next { t with gw := { t.gw with synced := Sparse.put none t.gw.synced d (some s.localNs) } }

/-- PDELAY_SEND: the peer-delay measurement on a port, every 1 s. -/
def execPdelaySend (port : Fin 10) (s : State) : Ans :=
  let p := port.val
  let early := (Sparse.look none s.gw.delayed p).any (fun t => within t 1000000000 s.localNs)
  if s.fwDown 7 || early || !s.outsidePark || s.rd GW_PORT.STATE p != 2 || !(List.range 3).any (fun d => (s.gptpPorts d).testBit p) then .next s
  else .next { (s.emit (.pdelay p)) with gw := { s.gw with delayed := Sparse.put none s.gw.delayed p (some s.localNs) } }

/-- GRANDMASTER_LOSS: the base keeps its last TB_INC. -/
def execGrandmasterLoss (domain : Fin 3) (s : State) : Ans :=
  .next { s with gw := { s.gw with slave := Sparse.put none s.gw.slave domain none } }

end Sys2Proof.Machine
end

