-- ==== Sys2Proof/Machine/SwitchOps.lean ====
section
/-! DEFINITION. The shared operations of the Ethernet switch and of the signal gateway (14 R347–R361). -/

namespace Sys2Proof.Machine

/-! ## The signal gateway's containers (R359–R361) -/

/-- A container's runtime. -/
def State.cont (s : State) (i : Nat) : ContRt := Sparse.look ContRt.rest s.gw.conts i
def State.setCont (s : State) (i : Nat) (x : ContRt) : State :=
  { s with gw := { s.gw with conts := Sparse.put ContRt.rest s.gw.conts i x } }

/-- A frame format is permitted on a controller (R366). -/
def State.canFormat (s : State) (c : Nat) (fd xl : Bool) : Bool := (!fd || s.flag GW_CAN.FD_EN c) && (!xl || s.flag GW_CAN.XL_EN c)

/-- The destination of a container can transmit (R361). -/
def State.contOpen (s : State) (i : Nat) : Bool :=
  if s.flag GW_CONT.KIND i then s.rd GW_PORT.STATE 8 == 2
  else s.canOn (s.rd GW_CONT.CTRL i) && s.canFormat (s.rd GW_CONT.CTRL i) (s.flag GW_CONT.FD i) (s.flag GW_CONT.XL i)

/-- The shortest spacing of a container's transmissions, in ns. -/
def State.contGap (s : State) (i : Nat) : Nat := s.rd GW_CONT.MIN_GAP_US i * 1000

/-- A value with stamp `a` comes to a container: an image that fell due before it goes out without it, as the values with a
stamp up to its due time; while the destination cannot transmit, the container keeps only its latest values (R361). -/
def State.contFlush (s : State) (i a : Nat) : State :=
  let x := s.cont i
  if !s.contOpen i then s.setCont i { x with due := [] }
  else match x.oldest with
    | none => s
    | some o =>
      let t := max x.nextDue o
      if t < a then s.setCont i { x with due := x.due ++ [x.image], unsent := [], oldest := none, nextDue := t + s.contGap i } else s

/-- Bit `n` of a payload: counted from the least significant bit of each byte, or in big-endian signal order from the
most significant. -/
def payloadBit (be : Bool) (b : Bytes) (n : Nat) : Bool :=
  (b.getD (n / 8) 0).toNat.testBit (if be then 7 - n % 8 else n % 8)

/-- A byte of an image after `len` bits from `dst` have been replaced by the bits of `src` from `from_`. -/
def blendByte (be : Bool) (img src : Bytes) (dst from_ len j : Nat) : Byte :=
  BitVec.ofNat 8 ((List.range 8).foldl (fun v k =>
    let n := j * 8 + k
    let b := if dst ≤ n ∧ n < dst + len then payloadBit be src (from_ + (n - dst)) else payloadBit be img n
    if b then v + 2 ^ (if be then 7 - k else k) else v) 0)

/-- An image with bits replaced; it grows with zeros. -/
def blend (be : Bool) (img src : Bytes) (dst from_ len : Nat) : Bytes :=
  (List.range (max img.length ((dst + len + 7) / 8))).map (blendByte be img src dst from_ len)

/-- A route applied to a payload received with stamp `a`. -/
def State.applyRoute (s : State) (r : Nat) (payload : Bytes) (a : Nat) : State :=
  let from_ := s.rd GW_ROUTE.SRC_BIT r
  let len := s.rd GW_ROUTE.LEN r
  if payload.length * 8 < from_ + len then s.inc GW_SG_STAT.SHORT
  else
    let d := s.rd GW_ROUTE.DST r
    let dst := s.rd GW_ROUTE.DST_BIT r
    let s := s.contFlush d a
    let x := s.cont d
    let s := if x.unsent.any (fun u => decide (u.1 < dst + len ∧ dst < u.1 + u.2)) then s.inc GW_SG_STAT.OVERWRITE else s
    let rest := x.unsent.filter (fun u => u != (dst, len))
    s.setCont d { x with image := blend (s.rd GW_ROUTE.MODE r == 2) x.image payload dst from_ len, unsent := rest ++ [(dst, len)],
                         oldest := some (x.oldest.getD a) }

/-- A receive container's payload carried by its routes, in ascending order. -/
def State.contReceive (s : State) (i : Nat) (payload : Bytes) (a : Nat) : State :=
  s.each 4096 (fun r s =>
    if s.flag GW_ROUTE.VALID r ∧ s.rd GW_ROUTE.SRC r = i ∧ s.flag GW_CONT.VALID (s.rd GW_ROUTE.DST r) then s.applyRoute r payload a else s)

/-- The receive containers that a predicate on their number selects get a payload. -/
def State.toContainers (s : State) (p : Nat → Bool) (payload : Bytes) (a : Nat) : State :=
  s.each 1024 (fun i s => if s.flag GW_CONT.VALID i && !s.flag GW_CONT.DIR i && p i then s.contReceive i payload a else s)

/-- The PDUs of a datagram: identifier and payload. -/
def pdusOf : Nat → Bytes → List (Nat × Bytes)
  | 0, _ => []
  | n + 1, b =>
    if b.length < 8 then []
    else
      let len := beNat (Bytes.sub b 4 4)
      if b.length < 8 + len then [] else (beNat (b.take 4), Bytes.sub b 8 len) :: pdusOf n (b.drop (8 + len))

/-! ## Timestamps (R352, R354, R355) -/

/-- The value of a base some nanoseconds later, in the layout of R337. -/
def State.laterValue (s : State) (base ns : Nat) : Nat :=
  let a := Sparse.look 0 s.time.acc base + ns * nsUnit
  let t := a / nsUnit
  (t / 10 ^ 9 % 2 ^ 48) * 2 ^ 48 + (t % 10 ^ 9) * 2 ^ 16 + a / 2 ^ 23 % 2 ^ 16

/-- A port's queue as its registers show it. -/
def State.showStamps (s : State) (p : Nat) : State :=
  let q := s.gw.stamps.filter (fun x => x.port == p)
  let h := q.head?.getD ⟨p, 0, 0, false, 0⟩
  (((((s.wr GW_TXTS.TS_ID h.id p).wr GW_TXTS.BASE h.base p).wr GW_TXTS.DROPPED (b2n h.dropped) p).wr GW_TXTS.VALID
    (b2n (!q.isEmpty)) p).wr GW_TXTS.STAMP h.stamp p).wr GW_TXTS_STAT.COUNT q.length p

/-! ## Egress (R347, R348, R351) -/

/-- The base of the GW block, and a parameter word of a port's gate table. -/
def gwBase : Nat := 0xF001200000
def State.gateWord (s : State) (p w : Nat) : Nat := s.stdWord (gwBase + 0x40000 + p * 0x4000 + w * 4)
def State.gateTime (s : State) (p w : Nat) : Nat := s.gateWord p w + 2 ^ 32 * s.gateWord p (w + 1)

/-- The rate of a port in Mb/s (R347, R363). -/
def State.portMbps (s : State) (p : Nat) : Nat :=
  if p ≤ 1 then 25000
  else if p = 8 then 100000
  else if p = 9 then 1000
  else [10000, 5000, 2500, 1000, 100].getD (s.rd GW_PORT.SPEED p) 10000

/-- Nanoseconds that a frame takes, preamble and FCS with it. -/
def State.frameNs (s : State) (p : Nat) (f : Bytes) : Nat := ((f.length + 12) * 8000 + s.portMbps p - 1) / s.portMbps p

/-- A port can send. -/
def State.portUp (s : State) (p : Nat) : Bool := s.rd GW_PORT.STATE p == 2 && (decide (8 ≤ p) || s.flag GW_PORT.LINK p)

/-- The class's gate at a port is open for a frame. -/
def State.gateOpen (s : State) (e : Egress) : Bool :=
  (Sparse.look 0xFF s.gw.gates e.port).testBit e.cls && match Sparse.look none s.gw.gateEnd e.port with
    | some t => decide (s.vehicleNs + s.frameNs e.port e.frame ≤ t)
    | none => true

/-- The stamp of a frame that leaves, on its way to the port's queue; TS_BASE = 3 names no base, and gives a free stamp. -/
def State.leaveStamp (s : State) (e : Egress) : State :=
  match e.stamp with
  | some (id, base) =>
    let w (i : Nat) : Nat := (Config.freeWord s.freeCount i).toNat
    let v := if base = 3 then w 0 + 2 ^ 32 * w 1 + 2 ^ 64 * w 2 else s.laterValue base (s.rd GW_PORT.TX_LAT e.port)
    let s := if base = 3 then s.drawn else s
    { s with gw := { s.gw with leaving := s.gw.leaving ++ [TxStamp.mk e.port id base false v] } }
  | none => s

/-- Context of the gateway's ring and buffer accesses (R353). -/
def gwCtx : Ctx := .hyp Config.gwStream none

/-- A frame at host receive ring `q`: the ring's buffer and descriptor are written, or it is dropped. -/
def State.hostRx (s : State) (q ingress vid base stamp : Nat) (f : Bytes) : State :=
  let n := 2 ^ s.rd GW_HPQ.RX_SIZE_LOG2 q
  let tail := s.rd GW_HPQ.RX_TAIL q
  if !s.flag GW_HPQ.RX_ENABLE q || (tail + 1) % n == s.rd GW_HPQ.RX_HEAD q % n then s.inc GW_PORT.RX_DROP 8
  else
    let b := s.rd GW_HPQ.RX_BASE q / 4096 * 4096
    let size := s.rd GW_HPQ.RX_BUF_2K q * 2048
    let f := f.take size
    let ph := Sparse.look true s.gw.phase (16 + q)
    let d := leBytes 8 stamp ++ leBytes 2 f.length ++ leBytes 1 ingress ++ leBytes 1 (base + 128 * b2n ph) ++ leBytes 2 vid ++ leBytes 2 0
    let s := (s.ctxWrite gwCtx (b + n * 16 + tail * size) f).ctxWrite gwCtx (b + tail * 16) d
    let s := if (tail + 1) % n = 0 then { s with gw := { s.gw with phase := Sparse.put true s.gw.phase (16 + q) (!ph) } } else s
    s.wr GW_HPQ.RX_TAIL ((tail + 1) % n) q

/-- A UDP datagram that the device itself takes at the internal host port: containers, the tunnel, and firmware's port. -/
def State.takeDatagram (s : State) (vid : Nat) (u : UdpView) : Option State :=
  let match_ (i : Nat) : Bool := s.flag GW_CONT.KIND i && s.rd GW_CONT.VLAN i == vid && s.rd GW_CONT.UDP_PORT i == u.dstPort
  if (List.range 1024).any (fun i => s.flag GW_CONT.VALID i && !s.flag GW_CONT.DIR i && match_ i) then
    some ((pdusOf 256 u.payload).foldl (fun s x => s.toContainers (fun i => match_ i && s.rd GW_CONT.ID i == x.1) x.2 s.vehicleNs) s)
  else if s.flag PASS_TUN.ENABLE && s.rd PASS_TUN.VLAN == vid && s.rd PASS_TUN.UDP_PORT == u.dstPort then some (s.tunnelIn u.payload)
  else if s.fw.running && Bytes.num s.fw.record 0xB4 2 == u.dstPort then
    some (if Bytes.num u.payload 0 4 = 0x41545251 then s.attestDatagram u.payload else s.depotDatagram u.payload)
  else none

/-- A frame at the internal host port: ingress, the device's own datagrams, or a host receive ring by its PCP. -/
def State.hostPort (s : State) (ingress rx rxSensor : Nat) (f : Bytes) : State :=
  match ethView f with
  | none => s
  | some e =>
    match s.steer e with
    | some (i, pay) => s.lidarPayload i rxSensor pay
    | none =>
      match e.udp.bind (fun u => s.takeDatagram e.vid u) with
      | some t => t
      | none => s.hostRx (e.tci.getD 0 / 2 ^ 13) ingress e.vid 0 rx f

/-- A frame leaves a port. -/
def State.leave (s : State) (e : Egress) : State :=
  let s := s.leaveStamp e
  if e.port = 8 then s.hostPort e.ingress e.rx e.rxSensor e.frame else s.emit (.eth e.port e.frame)

/-- Bytes held in the shared buffer. -/
def State.buffered (s : State) : Nat := (s.gw.egress.map (fun e => e.frame.length)).foldl (· + ·) 0

/-- A frame for a port: it leaves at once, waits for its gate behind earlier frames of its class, or is dropped. -/
def State.egress (s : State) (e : Egress) : State :=
  if !s.portUp e.port then s.dropStamp e
  else if s.gateOpen e && !s.gw.egress.any (fun x => x.port == e.port && x.cls == e.cls) then s.leave e
  else if s.buffered + e.frame.length > 8 * 2 ^ 20 then (s.dropStamp e).inc GW_PORT.RX_DROP e.ingress
  else { s with gw := { s.gw with egress := s.gw.egress ++ [e] } }

/-- The frames that wait at a port and may leave now do so, in order. -/
def State.drainPort (s : State) (p : Nat) : State :=
  let es := s.gw.egress
  es.foldl (fun s e =>
    if e.port = p ∧ s.gateOpen e ∧ !s.gw.egress.any (fun x => x.port == p && x.cls == e.cls) then s.leave e
    else { s with gw := { s.gw with egress := s.gw.egress ++ [e] } }) { s with gw := { s.gw with egress := [] } }

/-! ## Forwarding (R348–R350) -/

/-- A frame of the safety VLAN. -/
def State.safetyFrame (s : State) (e : EthView) : Bool := e.tci.isSome && e.vid == s.rd GW_SW.SAFETY_VLAN

/-- The source of a frame learned, while the table has room. -/
def State.learn (s : State) (e : EthView) (port : Nat) : State :=
  let key := e.vid * 2 ^ 48 + e.src
  let rest := s.gw.learned.filter (fun x => x.1 != key)
  if e.src / 2 ^ 40 % 2 = 1 ∨ rest.length ≥ 16384 then s else { s with gw := { s.gw with learned := (key, port) :: rest } }

/-- The ports that a frame goes to: those of its static entry, its learned port, or its VLAN's. -/
def State.portsFor (s : State) (e : EthView) (from_ : Nat) : List Nat :=
  let fixed := Config.staticPorts s.fw.record e.vid e.dst
  let mask := if s.safetyFrame e || fixed != 0 then fixed
    else match s.gw.learned.find? (fun x => x.1 == e.vid * 2 ^ 48 + e.dst) with
      | some x => 2 ^ x.2
      | none => Config.vlanPorts s.fw.record e.vid
  (List.range 10).filter (fun p => p != from_ && mask.testBit p)

/-- The tables of 802.1Qci and 802.1CB are in use. -/
def State.streamTables (s : State) : Bool :=
  s.std.any (fun x => decide ((gwBase + 0x70000) / 4 ≤ x.1 ∧ x.1 < (gwBase + 0x90000) / 4))

/-- A frame from a port (or from the host rings), with its receive stamps, forwarded by table. -/
def State.forward (s : State) (from_ rx rxSensor : Nat) (f : Bytes) : State :=
  match ethView f with
  | none => s
  | some e =>
    if s.streamTables && !Config.streamPass s.freeCount from_ f then s.drawn
    else
      let s := if s.streamTables then s.drawn else s
      if !s.safetyFrame e && !s.flag GW_SW.RUN then s.inc GW_PORT.RX_DROP from_
      else
        let s := if s.safetyFrame e then s else s.learn e from_
        (s.portsFor e from_).foldl (fun s p => s.egress (Egress.mk p (e.tci.getD 0 / 2 ^ 13) f none from_ rx rxSensor)) s

end Sys2Proof.Machine
end

