-- ==== Sys2Proof/Machine/Gateway.lean ====
section
/-! DEFINITION. The commands of the Ethernet switch, the CAN controllers and the signal gateway (14 R347–R367). -/

namespace Sys2Proof.Machine

/-! ## Ethernet (R348–R355) -/

/-- ETH_FRAME_RECEIVE: a frame at a port that is ON, with its FCS of 64 to 2,048 bytes; a gPTP frame goes to the gPTP
service. Until RUN, every frame outside the safety VLAN is dropped (R349). -/
def execEthFrameReceive (port : Fin 10) (frame : Bytes) (gptp : Option GptpInfo) (s : State) : Ans :=
  if s.rd GW_PORT.STATE port ≠ 2 ∨ frame.length < 60 then .next s
  else if frame.length > 2044 then .next (s.inc GW_PORT.RX_DROP port)
  else match ethView frame with
    | none => .next s
    | some e =>
      if !s.safetyFrame e && !s.flag GW_SW.RUN then .next (s.inc GW_PORT.RX_DROP port)
      else if e.etype = 0x88F7 then
        match gptp with
        | some i => .next (s.gptpMessage port i)
        | none => .next s
      else .next (s.forward port (s.vehicleNs - s.rd GW_PORT.RX_LAT port) (s.sensorNs - s.rd GW_PORT.RX_LAT port) frame)

/-- A transmit descriptor's frame sent, or dropped where it cannot be. The switch receives it on port 8 (R352). -/
def State.hostTx (s : State) (d f : Bytes) : State :=
  let lat := s.rd GW_PORT.RX_LAT 8
  let port := Bytes.num d 0xA 1
  let fl := Bytes.num d 0xB 1
  let req := if fl.testBit 0 then some (Bytes.num d 0xC 2, fl / 2 % 4) else none
  let len := Bytes.num d 8 2
  if port = 0xFF then
    let s := if req.isSome then s.inc GW_PORT.TS_IGNORED 8 else s
    if len < 64 ∨ 2044 < len then s else s.forward 8 (s.vehicleNs - lat) (s.sensorNs - lat) f
  else if port ≥ 10 then s
  else
    let e := match ethView f with
      | some v => Egress.mk port (v.tci.getD 0 / 2 ^ 13) f req 8 (s.vehicleNs - lat) (s.sensorNs - lat)
      | none => Egress.mk port 0 f req 8 (s.vehicleNs - lat) (s.sensorNs - lat)
    let safe := (ethView f).any s.safetyFrame
    if len < 64 ∨ 2044 < len ∨ (!s.flag GW_SW.RUN ∧ !safe) then s.dropStamp e else s.egress e

/-- ETH_TRANSMIT: the next descriptor of a host transmit ring. -/
def execEthTransmit (ring : Fin 8) (s : State) : Ans :=
  let n := 2 ^ s.rd GW_HPQ.TX_SIZE_LOG2 ring
  let head := s.rd GW_HPQ.TX_HEAD ring
  if !s.flag GW_HPQ.TX_ENABLE ring || s.rd GW_PORT.STATE 8 != 2 || head % n == s.rd GW_HPQ.TX_TAIL ring % n then .next s
  else
    let a := s.rd GW_HPQ.TX_BASE ring / 4096 * 4096 + head % n * 16
    let d := s.ctxRead gwCtx a 16
    let t := s.ctxTouch gwCtx a 16
    let f := t.ctxRead gwCtx (Bytes.num d 0 8) (Bytes.num d 8 2)
    let t := (t.ctxTouch gwCtx (Bytes.num d 0 8) (Bytes.num d 8 2)).wr GW_HPQ.TX_HEAD ((head + 1) % n) ring
    .next (t.hostTx d f)

/-- TX_TIMESTAMP: the oldest stamp taken at a port enters its queue, or is lost. -/
def execTxTimestamp (port : Fin 10) (s : State) : Ans :=
  match s.gw.leaving.find? (fun x => x.port == port.val) with
  | none => .next s
  | some x =>
    let t := { s with gw := { s.gw with leaving := s.gw.leaving.erase x } }
    if (s.gw.stamps.filter (fun y => y.port == port.val)).length ≥ 32 then
      .next ((t.wr GW_TXTS_STAT.OVF 1 port).inc GW_TXTS_STAT.LOST port)
    else .next ({ t with gw := { t.gw with stamps := t.gw.stamps ++ [x] } }.showStamps port)

/-- The oldest entry of a port's queue removed. -/
def State.popStamp (s : State) (p : Nat) : State :=
  match s.gw.stamps.find? (fun x => x.port == p) with
  | none => s
  | some x => { s with gw := { s.gw with stamps := s.gw.stamps.erase x } }.showStamps p

/-- POP. -/
def execTxtsPop (src : Source) (port : Fin 10) (s : State) : Ans :=
  .next (s.asWho src (RegName.gwTxtsStat.addr port) Requester.fwHyp (fun s => s.popStamp port))

/-! ### Gates (R351). Words of a port's table: 0 GateEnabled, 1 AdminGateStates, 2 OperGateStates, 3 and 4 the lists'
lengths, 5 and 1,029 the lists (operation, states, interval), 2,053 AdminCycleTime, 2,055 OperCycleTime, 2,057 and 2,059
their extensions, 2,061 AdminBaseTime, 2,063 OperBaseTime, 2,065 ConfigChange. -/

/-- The operational entries of a port: states and interval. -/
def State.gateList (s : State) (p : Nat) : List (Nat × Nat) :=
  (List.range (min (s.gateWord p 4) 256)).map (fun i => (s.gateWord p (1030 + i * 4) % 256, s.gateTime p (1031 + i * 4)))

/-- The entry in force at an offset of a cycle, and where its interval ends. -/
def gateAt : List (Nat × Nat) → Nat → Nat → Option (Nat × Nat)
  | [], _, _ => none
  | (st, n) :: r, o, at_ => if o < at_ + n then some (st, at_ + n) else gateAt r o (at_ + n)

/-- A word of a port's table set. -/
def State.setGateWord (s : State) (p w v : Nat) : State :=
  { s with std := Sparse.put 0 s.std ((gwBase + 0x40000 + p * 0x4000) / 4 + w) (v % 2 ^ 32) }

/-- A pending change of the operational list that is due takes effect (802.1Qbv). -/
def State.swapGates (s : State) (p : Nat) : State :=
  if s.gateWord p 2065 = 0 ∨ s.vehicleNs < s.gateTime p 2061 then s
  else
    let cp (s : State) (from_ dest n : Nat) : State := s.each n (fun i s => s.setGateWord p (dest + i) (s.gateWord p (from_ + i)))
    (cp (cp (cp (cp (cp s 3 4 1) 5 1029 1024) 2053 2055 2) 2057 2059 2) 2061 2063 2).setGateWord p 2065 0

/-- The gates of a port set by vehicle time: OperGateStates outside a schedule, the entry in force in one. -/
def State.setGates (s : State) (p : Nat) : State :=
  let put (s : State) (g : Nat) (e : Option Nat) : State :=
    { s with gw := { s.gw with gates := Sparse.put 0xFF s.gw.gates p g, gateEnd := Sparse.put none s.gw.gateEnd p e,
                               gateHold := s.gw.gateHold.filter (· != p) } }
  let now := s.vehicleNs
  let cycle := s.gateTime p 2055
  let base := s.gateTime p 2063
  if s.gateWord p 0 = 0 then put s 0xFF none
  else if cycle = 0 ∨ s.gateWord p 4 = 0 then put s (s.gateWord p 2 % 256) none
  else if now < base then put s (s.gateWord p 2 % 256) (some base)
  else
    let start := base + (now - base) / cycle * cycle
    match gateAt (s.gateList p) (now - start) 0 with
    | some (st, e) => put s st (some (start + min e cycle))
    | none => put s (((s.gateList p).getLast?.map (·.1)).getD 0xFF) (some (start + cycle))

/-- GATE_INTERVAL: a boundary of a port's schedule. -/
def execGateInterval (port : Fin 10) (s : State) : Ans :=
  let p := port.val
  match Sparse.look none s.gw.gateEnd p with
  | some e => if s.vehicleNs < e then .next s else .next (((s.swapGates p).setGates p).drainPort p)
  | none => .next (((s.swapGates p).setGates p).drainPort p)

/-- ETH_PORT_LINK_CHANGE: a loss drops the frames that wait. -/
def execEthPortLinkChange (port : Fin 10) (up : Bool) (s : State) : Ans :=
  let t := s.wr GW_PORT.LINK (b2n up) port
  .next (if up then t else t.dropEgress port)

/-- SWITCH_RUN. -/
def execSwitchRun (src : Source) (s : State) : Ans :=
  .next (s.asWho src RegName.gwSw.addr Requester.fwHyp (fun s => s.wr GW_SW.RUN 1))

/-! ## CAN (R356–R358) -/

/-- Bytes of a ring entry. -/
def State.canEntry (s : State) (c : Nat) : Nat := if s.flag GW_CAN.ENTRY c then 2064 else 80

/-- The flags of a ring entry, without TRUNC and PHASE. -/
def canFlags (f : CanFrame) : Nat := b2n f.xl + b2n f.fd * 2 + b2n f.ext * 4

/-- A frame written to a controller's receive ring. -/
def State.canRing (s : State) (c : Nat) (f : CanFrame) : State :=
  let n := 2 ^ s.rd GW_CAN.RX_SIZE_LOG2 c
  let tail := s.rd GW_CAN.RX_TAIL c
  if (tail + 1) % n = s.rd GW_CAN.RX_HEAD c % n then s.inc GW_CAN.RX_DROP c
  else
    let w := s.canEntry c
    let ph := Sparse.look true s.gw.phase c
    let fl := canFlags f + b2n (decide (w - 16 < f.data.length)) * 8 + b2n ph * 2 ^ 15
    let d := f.data.take (w - 16)
    let e := leBytes 8 s.vehicleNs ++ leBytes 4 f.id ++ leBytes 2 fl ++ leBytes 2 d.length ++ d
    let s := s.ctxWrite gwCtx (s.rd GW_CAN.RX_BASE c / 4096 * 4096 + tail * w) e
    let s := if (tail + 1) % n = 0 then { s with gw := { s.gw with phase := Sparse.put true s.gw.phase c (!ph) } } else s
    s.wr GW_CAN.RX_TAIL ((tail + 1) % n) c

/-- A frame is one of the wake identifiers of the record (01 R17). -/
def State.wakeFrame (s : State) (f : CanFrame) : Bool :=
  (List.range 8).any (fun i =>
    let w := Bytes.num s.fw.record (0x110 + i * 4) 4
    w.testBit 30 && w % 2 ^ 29 == f.id && w.testBit 29 == f.ext)

/-- CAN_FRAME_RECEIVE: a wake event in DEPOT; a frame of controllers 0–13 goes to ingress, to the ring and to containers.
DEDUCED: a controller receives no frame of a format that FD_EN or XL_EN does not permit. -/
def execCanFrameReceive (ctl : Fin 16) (frame : CanFrame) (s : State) : Ans :=
  let c := ctl.val
  if !s.canOn c || !s.canFormat c frame.fd frame.xl then .next s
  else
    let t := if c ≥ 14 then s
      else
        let t := s.canIngest c frame.id (b2n frame.xl * 2 + b2n frame.fd * 4 + b2n frame.ext * 8) frame.data
        let t := if Config.canAccept c frame.id frame.ext then t.canRing c frame else t
        t.toContainers (fun i => !s.flag GW_CONT.KIND i && s.rd GW_CONT.CTRL i == c && s.rd GW_CONT.ID i == frame.id &&
          s.flag GW_CONT.EXT i == frame.ext && s.flag GW_CONT.FD i == frame.fd && s.flag GW_CONT.XL i == frame.xl) frame.data s.vehicleNs
    .next (if s.cur = mDepot ∧ s.wakeFrame frame then t.wake 3 else t)

/-- CAN_TRANSMIT: the next entry of a controller's transmit ring. -/
def execCanTransmit (ctl : Fin 14) (s : State) : Ans :=
  let c := ctl.val
  let n := 2 ^ s.rd GW_CAN.TX_SIZE_LOG2 c
  let head := s.rd GW_CAN.TX_HEAD c
  if !s.canOn c || head % n == s.rd GW_CAN.TX_TAIL c % n then .next s
  else
    let w := s.canEntry c
    let a := s.rd GW_CAN.TX_BASE c / 4096 * 4096 + head % n * w
    let e := s.ctxRead gwCtx a w
    let t := (s.ctxTouch gwCtx a w).wr GW_CAN.TX_HEAD ((head + 1) % n) c
    let fl := Bytes.num e 12 2
    let cap := if fl.testBit 0 then 2048 else if fl.testBit 1 then 64 else 8
    let len := min (Bytes.num e 14 2) (min cap (w - 16))
    if s.canFormat c (fl.testBit 1) (fl.testBit 0) then
      .next (t.emit (.can c (Bytes.num e 8 4 % 2 ^ 29) (fl.testBit 2) (Bytes.sub e 16 len)))
    else .next t

/-- BUS_OFF: for controllers 14 and 15 the Cantle sends the status frame, which goes on the other port. PRESUMED
(ISO 11898-1): the transmit error counter has passed 255, where TEC saturates, and a recovery clears both counters. -/
def execBusOff (ctl : Fin 16) (s : State) : Ans :=
  if !s.canOn ctl then .next s
  else
    let t := (s.wr GW_CAN.BUS_OFF 1 ctl).wr GW_CAN.TEC 0xFF ctl
    .next (if ctl.val ≥ 14 ∧ !t.saf.held ∧ !t.flag SAF_CTL.SAFE_STATE then t.sendStatus t.statusCode else t)

/-- BUS_OFF_RECOVERY: only while AUTO_RECOVER = 1. -/
def execBusOffRecovery (ctl : Fin 16) (s : State) : Ans :=
  if s.flag GW_CAN.BUS_OFF ctl ∧ s.flag GW_CAN.AUTO_RECOVER ctl then
    .next (((s.wr GW_CAN.BUS_OFF 0 ctl).wr GW_CAN.TEC 0 ctl).wr GW_CAN.REC 0 ctl)
  else .next s

/-! ## The signal gateway (R359–R361, R367) -/

/-- A transmit container sent with an image. -/
def State.sendCont (s : State) (i : Nat) (image : Bytes) : State :=
  let len := s.rd GW_CONT.LEN i
  let d := Bytes.pad image len
  let id := s.rd GW_CONT.ID i
  if s.flag GW_CONT.KIND i then
    s.emit (.udp (s.rd GW_ADDR.ADDR (s.rd GW_CONT.ADDR i)) (s.rd GW_CONT.VLAN i) (s.rd GW_CONT.UDP_PORT i) (beBytes 4 id ++ beBytes 4 len ++ d))
  else s.emit (.can (s.rd GW_CONT.CTRL i) (id % 2 ^ 29) (s.flag GW_CONT.EXT i) d)

/-- CONTAINER_SEND: the oldest image that is due and has not been handed over is sent; else a pending container that is due,
whose next_due is then MIN_GAP_US after the time it was due. -/
def execContainerSend (container : Fin 1024) (s : State) : Ans :=
  let i := container.val
  let x := s.cont i
  if !s.flag GW_CONT.VALID i || !s.contOpen i then .next s
  else match x.due, x.oldest with
    | img :: rest, _ => .next ((s.sendCont i img).setCont i { x with due := rest })
    | [], none => .next s
    | [], some a =>
      let t := max x.nextDue a
      if s.vehicleNs < t then .next s
      else .next ((s.sendCont i x.image).setCont i { x with unsent := [], oldest := none, nextDue := t + s.contGap i })

/-- A write of VALID = 1 to a container: refused, or its staging image is zero. -/
def State.contValid (s : State) (i : Nat) : State :=
  let len := s.rd GW_CONT.LEN i
  let cap := if s.flag GW_CONT.KIND i then 2000 else if s.flag GW_CONT.FD i || s.flag GW_CONT.XL i then 64 else 8
  let out := s.flag GW_CONT.DIR i
  if s.rd GW_CONT.CTRL i ≥ 14 ∨ (out ∧ (len = 0 ∨ cap < len)) ∨
      (out ∧ s.flag GW_CONT.KIND i ∧ s.rd GW_ADDR.ADDR (s.rd GW_CONT.ADDR i) = 0) then s.inc GW_SG_STAT.CFG_REFUSED
  else (s.wr GW_CONT.VALID 1 i).setCont i ContRt.rest

/-- CONTAINER_VALID. -/
def execContainerValid (src : Source) (container : Fin 1024) (s : State) : Ans :=
  .next (s.asWho src (RegName.gwCont.addr container) Requester.fwHyp (fun s => s.contValid container))

/-- A route that R360 refuses. -/
def State.routeBad (s : State) (r : Nat) : Bool :=
  let src := s.rd GW_ROUTE.SRC r
  let dst := s.rd GW_ROUTE.DST r
  let a := s.rd GW_ROUTE.SRC_BIT r
  let b := s.rd GW_ROUTE.DST_BIT r
  let len := s.rd GW_ROUTE.LEN r
  let cap (i : Nat) : Nat := if s.flag GW_CONT.KIND i then 16000 else 512
  s.rd GW_ROUTE.MODE r == 3 || (s.rd GW_ROUTE.MODE r == 0 && decide (a % 8 ≠ 0 ∨ b % 8 ≠ 0 ∨ len % 8 ≠ 0)) || s.flag GW_CONT.DIR src ||
    !s.flag GW_CONT.DIR dst || len == 0 || decide (cap src < a + len) || decide (cap dst < b + len)

/-- A write of VALID = 1 to a route. -/
def State.routeValid (s : State) (r : Nat) : State :=
  if s.routeBad r then s.inc GW_SG_STAT.CFG_REFUSED else s.wr GW_ROUTE.VALID 1 r

/-- ROUTE_VALID. -/
def execRouteValid (src : Source) (route : Fin 4096) (s : State) : Ans :=
  .next (s.asWho src (RegName.gwRoute.addr route) Requester.fwHyp (fun s => s.routeValid route))

end Sys2Proof.Machine
end

