-- ==== Sys2Proof/Machine/Outer.lean ====
section
/-! DEFINITION. Host timers, the A-PHY back channel and the PCIe function (12 R296, 16 R408, 17 R427–R432). -/

namespace Sys2Proof.Machine

/-- MTIMECMP_MATCH: a hart's machine timer interrupt becomes pending. -/
def execMtimecmpMatch (hart : Fin 16) (s : State) : Ans :=
  if s.rd HOSTC_MTIMECMP.CMP hart ≤ s.localNs ∧ !s.gw.mtip.contains hart.val then
    .next { (s.emit (.mtip hart)) with gw := { s.gw with mtip := hart.val :: s.gw.mtip } }
  else .next s

/-! ## The back channel (R430–R432) -/

/-- GO of an I2C transaction. -/
def State.i2cGo (s : State) (r : Nat) : State :=
  if s.flag APHY_I2C.BUSY r then s
  else if !s.flag APHY_LINK.UP r then s.wr APHY_I2C.RESULT 4 r
  else
    let w := leBytes (s.rd APHY_I2C.WLEN r) (s.rd APHY_I2C.WDATA r)
    let t := (s.wr APHY_I2C.BUSY 1 r).emit (.i2c r (s.rd APHY_I2C.ADDR r) (s.rd APHY_I2C.RLEN r) w)
    { t with gw := { t.gw with i2c := Sparse.put none t.gw.i2c r (some s.localNs) } }

/-- I2C_GO. -/
def execI2cGo (src : Source) (receiver : Fin 12) (s : State) : Ans :=
  .next (s.asWho src (RegName.aphyI2c.addr receiver) Requester.fwHyp (fun s => s.i2cGo receiver))

/-- A transaction ended: BUSY falls, RESULT and the bytes read are written. -/
def State.i2cEnd (s : State) (r result : Nat) (data : Bytes) : State :=
  let t := ((s.wr APHY_I2C.BUSY 0 r).wr APHY_I2C.RESULT result r).wr APHY_I2C.RDATA (leNat (data.take (s.rd APHY_I2C.RLEN r))) r
  { t with gw := { t.gw with i2c := Sparse.put none t.gw.i2c r none } }

/-- A transaction ended before its time: which bytes it had read is open. -/
def State.i2cCut (s : State) (r result : Nat) : State :=
  s.drawn.i2cEnd r result ((List.range (s.rd APHY_I2C.RLEN r)).map (Config.undefinedByte s.freeCount))

/-- I2C_DONE: done, or a byte not acknowledged. -/
def execI2cDone (receiver : Fin 12) (result : Fin 8) (data : Bytes) (s : State) : Ans :=
  if s.flag APHY_I2C.BUSY receiver ∧ 1 ≤ result.val ∧ result.val ≤ 3 then .next (s.i2cEnd receiver result data) else .next s

/-- I2C_TIMEOUT: still open 10 ms after GO. -/
def execI2cTimeout (receiver : Fin 12) (s : State) : Ans :=
  if (Sparse.look none s.gw.i2c receiver).any (fun t => !within t 10000000 s.localNs) then .next (s.i2cCut receiver 5) else .next s

/-- APHY_LINK_LOCK: the held GPIO levels are sent; a lock that is not the first is a retrain. -/
def execAphyLinkLock (receiver : Fin 12) (gear : Fin 8) (s : State) : Ans :=
  if gear.val = 0 ∨ 5 < gear.val then .next s
  else
    let r := receiver.val
    let t := (s.wr APHY_LINK.UP 1 r).wr APHY_LINK.GEAR gear r
    let t := if s.gw.aphyLocked.contains r then t.inc APHY_LINK.RETRAINS r
      else { t with gw := { t.gw with aphyLocked := r :: t.gw.aphyLocked } }
    .next (t.emit (.gpio r (s.rd APHY_LINK.GPIO_OUT r)))

/-- APHY_LINK_LOSS: a transaction in progress ends with link down. -/
def execAphyLinkLoss (receiver : Fin 12) (s : State) : Ans :=
  let t := (s.wr APHY_LINK.UP 0 receiver).wr APHY_LINK.GEAR 0 receiver
  .next (if s.flag APHY_I2C.BUSY receiver then t.i2cCut receiver 4 else t)

/-! ## PCIe (12 R296, 16 R408, 17 R429) -/

/-- PCIE_LINK_CHANGE. -/
def execPcieLinkChange (up : Bool) (speed : Fin 8) (width : Fin 16) (s : State) : Ans :=
  .next (((s.wr PCIE_STAT.LINK_UP (b2n up)).wr PCIE_STAT.SPEED (if up then speed else 0)).wr PCIE_STAT.WIDTH (if up then width else 0))

/-- NumVFs and VF Enable at rest. -/
def State.noVfs (s : State) : State := { s with gw := { s.gw with numVfs := 0, vfEnable := false } }

/-- PCIE_PERST_CHANGE, in endpoint mode. -/
def execPciePerstChange (high : Bool) (s : State) : Ans :=
  if !s.flag SYS_STRAP.PCIE_MODE then .next s
  else if high then
    if s.mode.perstHigh then .next s else .next { s with mode := { s.mode with perstHigh := true, perstAt := s.localNs } }
  else .next { s.noVfs with mode := { s.mode with perstHigh := false } }

/-- What an item of a function's configuration space reads as. BAR0 and BAR2 of the physical function are 64 bits wide, so the
register after each is its upper half and has no size of its own; a virtual function has no SR-IOV capability. DEDUCED: an
absent BAR has size 0. -/
def State.pcieItem (s : State) (f : Nat) : PcieItem → Nat
  | .totalVfs | .initialVfs => if f = 0 then 127 else 0
  | .numVfs => if f = 0 then s.gw.numVfs else 0
  | .vfEnable => if f = 0 then b2n s.gw.vfEnable else 0
  | .firstVfOffset | .vfStride => if f = 0 then 1 else 0
  | .barSize b => if f ≠ 0 then 0 else if b.val = 0 then 0x10000000 else if b.val = 2 then 0x80000 else 0
  | .vfBarSize b => if f = 0 ∧ b.val = 0 then 0x1000 else 0
  | .word n => Config.pcieId f n

/-- PCIE_CONFIG_REQUEST at the endpoint: retry status until firmware is ready, no answer from a VF that is not there. -/
def execPcieConfigRequest (request : PcieRequest) (s : State) : Ans :=
  if !s.flag SYS_STRAP.PCIE_MODE || !s.mode.perstHigh || !s.outsidePark then .next (s.emit (.pcieAnswer none))
  else if !s.fw.running || s.cur == mBoot then .next (s.emit .pcieRetry)
  else match request with
    | .read f item => .next (s.emit (.pcieAnswer (if s.functionOn f then some (s.pcieItem f item) else none)))
    | .setVfs n e =>
      let t := { s with gw := { s.gw with numVfs := if s.gw.vfEnable then s.gw.numVfs else n, vfEnable := e } }
      .next (t.emit (.pcieAnswer (some 0)))
    | .reset f =>
      if !s.functionOn f then .next (s.emit (.pcieAnswer none))
      else if f.val = 0 then .next (s.noVfs.emit (.pcieAnswer (some 0)))
      else .next ((s.resetVef f).emit (.pcieAnswer (some 0)))

end Sys2Proof.Machine
end

