-- ==== Sys2Proof/Machine/RegRules.lean ====
section
/-! DEFINITION. What a write to each register does (17 R420–R425): the store rules of its fields, the locks of R425, and
the action bits, which call the operations of the commands that the opcode table names for them. -/

namespace Sys2Proof.Machine

/-! ## How one field takes a write -/

/-- The value that a write gives a field. -/
def State.newVal (s : State) (f : Fld) (h : Hit) (b value : Nat) : Nat := f.merge (s.rd f h.i h.j) h.off b value

/-- An RW field stored through a store rule, where the write touches it. -/
def State.keep (s : State) (f : Fld) (rule : Nat → Nat) (h : Hit) (b value : Nat) : State :=
  if f.touched h.off b then s.wr f (rule (s.newVal f h b value)) h.i h.j else s

/-- RW fields stored as written. -/
def State.keepAll (s : State) (fs : List Fld) (h : Hit) (b value : Nat) : State :=
  fs.foldl (fun s f => s.keep f id h b value) s

/-- W1C fields (R9): ones clear bits. -/
def State.clearOnes (s : State) (fs : List Fld) (h : Hit) (b value : Nat) : State :=
  fs.foldl (fun s f =>
    let old := s.rd f h.i h.j
    s.wr f (old - (old &&& f.given h.off b value)) h.i h.j) s

/-- RWL fields: stored until the block's LOCK bit is set (R10). -/
def State.keepLocked (s : State) (lock : Fld) (fs : List (Fld × (Nat → Nat))) (h : Hit) (b value : Nat) : State :=
  if s.flag lock then s else fs.foldl (fun s f => s.keep f.1 f.2 h b value) s

/-- A LOCK bit, or another bit that a write can only set. -/
def State.setOnly (s : State) (f : Fld) (h : Hit) (b value : Nat) : State :=
  if f.given h.off b value = 1 then s.wr f 1 h.i h.j else s

/-- A WO or action bit written 1. -/
def Fld.asked (f : Fld) (h : Hit) (b value : Nat) : Bool := f.given h.off b value == 1

/-- A bit whose writes of 1 and of 0 are actions. -/
def State.onOff (s : State) (f : Fld) (h : Hit) (b value : Nat) (on off : State → State) : State :=
  if f.touched h.off b then (if s.newVal f h b value = 1 then on s else off s) else s

/-- Values below `n` store `n`; above `n`, `n`. -/
def atLeast (n x : Nat) : Nat := max n x
def atMost (n x : Nat) : Nat := min n x

/-- Values outside `lo` to `hi` store `d`. -/
def orElse (lo hi d x : Nat) : Nat := if lo ≤ x ∧ x ≤ hi then x else d

/-- Low bits that are ignored and read zero. -/
def cutTo (n x : Nat) : Nat := x / n * n

/-! ## SYS, PWR, TB, FW (01 R23, R24, 16 R415, R416, 14 R362, 15 R394, R395) -/

/-- SYS_RST: the Cantle's write of WARM only counts in SYS_ACC.DENIED. -/
def State.rstWrite (s : State) (src : Source) (h : Hit) (b value : Nat) : State :=
  let s := s.keepAll [SYS_RST.FIELD] h b value
  let s := if SYS_RST.FIELD_GO.asked h b value then s.fieldGo (s.rd SYS_RST.FIELD) (decide (s.who src = .cantle)) else s
  if SYS_RST.WARM.asked h b value then s.warmBy src (SYS_RST.KEY.given h.off b value) else s

/-- Fields of TB_OFS: the low word alone is held, the high word applies the step (14 R342). -/
def State.ofsWrite (s : State) (h : Hit) (b value : Nat) : State :=
  if h.off = 0 ∧ b = 4 then s.holdLow h.i value
  else if h.off = 4 then s.writeOfs h.i (value % 2 ^ 32) none
  else s.writeOfs h.i (value / 2 ^ 32 % 2 ^ 32) (some (value % 2 ^ 32))

/-- A write to the SYS, PWR, TB and FW blocks. -/
def State.sysWrite (s : State) (src : Source) (who : Requester) (h : Hit) (b value : Nat) : State :=
  match h.reg with
  | .sysMode =>
    let s := s.clearOnes [SYS_MODE.BACKSTOP] h b value
    if SYS_MODE.REQUEST.touched h.off b then s.requestMode (s.newVal SYS_MODE.REQUEST h b value) else s
  | .sysRst => s.rstWrite src h b value
  | .sysPark => s.keepAll [SYS_PARK.WARM_S, SYS_PARK.COLD_WAKE_S] h b value
  | .pwrLim => s.keepLocked PWR_CTL.LOCK
      [(PWR_LIM.DRIVE_W, atMost 240), (PWR_LIM.DEPOT_W, atMost 400), (PWR_LIM.HYST_W, id), (PWR_LIM.TJ_THROTTLE, atMost 125)] h b value
  | .pwrCtl =>
    if who = .firmware then s.setOnly PWR_CTL.LOCK h b value else s.keepAll [PWR_CTL.HOST_ON] h b value
  | .tbInc => s.setInc h.i (s.newVal TB_INC.INC h b value)
  | .tbOfs => s.ofsWrite h b value
  | .tbCtl => if TB_CTL.SNAP.asked h b value then s.snap else s
  | .tbStat => s.clearOnes [TB_STAT.CLAMP] h b value
  | .tbCfg => s.keepAll [TB_CFG.STEP_US] h b value
  | .fwPkg =>
    let s := s.keepAll [FW_PKG.ADDR, FW_PKG.LEN_4K] h b value
    if FW_PKG.GO.asked h b value then s.packageGo else s
  | .fwLog => if FW_LOG.SAVE.asked h b value then s.saveGo else s
  | .fwTrace => s.keepAll [FW_TRACE.MASK] h b value
  | _ => s

/-! ## SAF, BIST (10 R278–R281, 11 R293, R294) -/

/-- SAF_CTL: STATUS under its own rule, CMP_MODE until the lock. -/
def State.safCtlWrite (s : State) (h : Hit) (b value : Nat) : State :=
  let s := s.keepLocked SAF_CTL.LOCK [(SAF_CTL.CMP_MODE, id)] h b value
  let s := if SAF_CTL.STATUS.touched h.off b then s.writeStatus (s.newVal SAF_CTL.STATUS h b value) else s
  s.setOnly SAF_CTL.LOCK h b value

/-- A write to the SAF and BIST blocks. -/
def State.safWrite (s : State) (h : Hit) (b value : Nat) : State :=
  match h.reg with
  | .safCtl => s.safCtlWrite h b value
  | .safWdog =>
    let s := s.setOnly SAF_WDOG.WD_EN h b value
    if SAF_WDOG.KICK.given h.off b value = 0x5A then s.kickWatchdog else s
  | .safEsc => s.keepLocked SAF_CTL.LOCK
      [(SAF_ESC.CONTAINED_MAX, atLeast 1), (SAF_ESC.WINDOW_MS, id), (SAF_ESC.REINIT_MAX, id), (SAF_ESC.DEADLINE_MS, id)] h b value
  | .safGold =>
    (s.keepLocked SAF_CTL.LOCK [(SAF_GOLD.PHASE, id), (SAF_GOLD.ARM, id), (SAF_GOLD.BUDGET_US, id)] h b value).refreshGold h.i
  | .bistCfg =>
    let s := s.keepAll [BIST_CFG.ENABLE, BIST_CFG.OTHER_MS] h b value
    (s.keepLocked BIST_CFG.LOCK [(BIST_CFG.SAFE_MS, atLeast 10)] h b value).setOnly BIST_CFG.LOCK h b value
  | .bistGate => s.keepAll [BIST_GATE.NEXT_REL] h b value
  | .bistUnit => if BIST_UNIT.READMIT.asked h b value then s.readmit h.i else s
  | _ => s

/-! ## MEM, MOV, DMA, PLAIN, VLY (05 R129–R134, 02 R59–R63, 07 R190, R191) -/

/-- DMA_CH_CTL.DISABLE. -/
def State.disableWrite (s : State) (h : Hit) (b value : Nat) : State :=
  if hc : h.i < 32 then
    s.onOff DMA_CH_CTL.DISABLE h b value
      (fun s => if s.flag DMA_CH_CTL.DISABLE h.i then s else s.stopChannel ⟨h.i, hc⟩) (fun s => s.wr DMA_CH_CTL.DISABLE 0 h.i)
  else s

/-- PLAIN_FLD_TOL: of a SAFETY field and of field 16 it accepts writes only in LOADING (03 R81). -/
def State.tolWrite (s : State) (h : Hit) (b value : Nat) : State :=
  if s.isSafety h.i && s.fState h.i != stLoading then s
  else (s.keep PLAIN_FLD_TOL.DEFAULT (atLeast 1) h b value).keepAll [PLAIN_FLD_TOL.MAX] h b value

/-- VLY_POOL: its fields accept writes only while VALID = 0; a write of VALID is an action, and one that would set it and is
refused is ignored whole (07 R190). -/
def State.poolWrite (s : State) (h : Hit) (b value : Nat) : State :=
  let t := if s.flag VLY_POOL.VALID h.i then s
    else (s.keep VLY_POOL.BASE (cutTo (2 ^ 21)) h b value).keepAll
      [VLY_POOL.GROUPS_M1, VLY_POOL.G_M1, VLY_POOL.PAGE_64K, VLY_POOL.OWNER, VLY_POOL.ADOPT] h b value
  let asks := VLY_POOL.VALID.touched h.off b && s.newVal VLY_POOL.VALID h b value == 1 && !s.flag VLY_POOL.VALID h.i
  if asks && t.poolRefused h.i then s.inc VLY_STAT.CFG_REFUSED
  else t.onOff VLY_POOL.VALID h b value (fun s => s.poolValid h.i) (fun s => s.poolInvalid h.i)

/-- MEM_KEY_CMD: the reserved OP is refused and counted (05 R131). -/
def State.keyWrite (s : State) (h : Hit) (b value : Nat) : State :=
  let slot := MEM_KEY_CMD.SLOT.given h.off b value
  match MEM_KEY_CMD.OP.given h.off b value with
  | 0 => s
  | 1 => s.keyCommand slot true
  | 2 => s.keyCommand slot false
  | _ => s.inc MEM_STAT.KEY_REFUSED

/-- MEM_RGN: a change while traffic is in flight leaves the data of the entry's range, as it was and as it is, undefined
(05 R119). -/
def State.regionWrite (s : State) (h : Hit) (b value : Nat) : State :=
  let t := s.keepAll [MEM_RGN.BASE_RU, MEM_RGN.LIMIT_RU, MEM_RGN.GRAN, MEM_RGN.VALID, MEM_RGN.KEY] h b value
  if s.traffic && decide (t.regs ≠ s.regs) then
    let mark (u : State) (x : State) : State := if u.rgnValid h.i then x.markUndefined (u.rgnBase h.i) (u.rgnEnd h.i) else x
    mark t (mark s t)
  else t

/-- PLAIN_FLD_CFG, only in LOADING: a reserved CLASS is stored as 0b00; the Shadow field's rectangle and class are fixed
(02 R57, R46). -/
def State.fieldCfgWrite (s : State) (h : Hit) (b value : Nat) : State :=
  if s.fState h.i ≠ stLoading then s
  else
    let s := s.keepAll [PLAIN_FLD_CFG.PIPE_DEPTH_M1] h b value
    if h.i = 16 then s
    else (s.keepAll [PLAIN_FLD_CFG.ORIGIN_X, PLAIN_FLD_CFG.ORIGIN_Y, PLAIN_FLD_CFG.WIDTH_M1, PLAIN_FLD_CFG.HEIGHT_M1] h b value).keep
      PLAIN_FLD_CFG.CLASS (orElse 0 1 0) h b value

/-- A write to the MEM, MOV, DMA, PLAIN and VLY blocks. -/
def State.memBlockWrite (s : State) (h : Hit) (b value : Nat) : State :=
  match h.reg with
  | .memPcNext => s.keepAll [MEM_PC_NEXT.NEXT] h b value
  | .memKeyCmd => s.keyWrite h b value
  | .memRgn => s.regionWrite h b value
  | .movCmq =>
    let s := if s.fState h.i = stFree then
        (s.keep MOV_CMQ.BASE (cutTo 64) h b value).keep MOV_CMQ.ENTRIES_LOG2 (orElse 6 16 6) h b value
      else s
    s.keepAll [MOV_CMQ.HEAD] h b value
  | .dmaChCtl => s.disableWrite h b value
  | .plainFldCfg => s.fieldCfgWrite h b value
  | .plainFldWdog => s.keep PLAIN_FLD_WDOG.PERIOD_US (fun x => min 100000 (max 50 x)) h b value
  | .plainFldErr => (s.clearOnes fldErrFlags h b value).refreshLoc h.i
  | .plainFldTol => s.tolWrite h b value
  | .plainFldWin => if s.fState h.i ≠ stLoading then s else
      (s.keep PLAIN_FLD_WIN.BASE (cutTo 4096) h b value).keepAll [PLAIN_FLD_WIN.LENGTH_4K, PLAIN_FLD_WIN.READ, PLAIN_FLD_WIN.WRITE,
        PLAIN_FLD_WIN.TRANSLATE, PLAIN_FLD_WIN.VEF] h b value
  | .vlyPfxBase => if (List.range 16).any (fun p => s.flag VLY_POOL.VALID p) then s else s.keep VLY_PFX_BASE.BASE (cutTo 4096) h b value
  | .vlyPool => s.poolWrite h b value
  | _ => s

/-! ## VEF (12 R312, R313) -/

/-- VEF_CTL: TENANT and DOMAIN only while DISABLED; RESET and ENABLE are actions. -/
def State.vefCtlWrite (s : State) (h : Hit) (b value : Nat) : State :=
  let s := s.keepAll [VEF_CTL.FABRIC_OUT, VEF_CTL.FABRIC_IN] h b value
  let s := if s.rd VEF_CTL.STATE h.i = vDisabled then s.keepAll [VEF_CTL.TENANT, VEF_CTL.DOMAIN] h b value else s
  let s := if VEF_CTL.RESET.asked h b value then s.resetVef h.i else s
  s.onOff VEF_CTL.ENABLE h b value (fun s => s.vefEnable h.i) (fun s => s.vefDisable h.i)

/-- A write to the VEF block. -/
def State.vefWrite (s : State) (h : Hit) (b value : Nat) : State :=
  match h.reg with
  | .vefGlb => s.keep VEF_GLB.FREEZE_KILL_MS (atLeast 1) h b value
  | .vefHart => s.keepAll [VEF_HART.VEF, VEF_HART.VALID] h b value
  | .vefAtt =>
    let s := (s.keep VEF_ATT.BUF (cutTo 4096) h b value).keepAll [VEF_ATT.VEF] h b value
    if VEF_ATT.GO.asked h b value then s.attestGo else s
  | .vefCtl => s.vefCtlWrite h b value
  | .vefSave => s.keep VEF_SAVE.BASE (cutTo 4096) h b value
  | .vefSaveLen => s.keepAll [VEF_SAVE_LEN.LEN_4K] h b value
  | .vefStat => s.clearOnes [VEF_STAT.RESET_DONE] h b value
  | _ => s

/-! ## ING, FUS (08 R224–R230) -/

/-- Fields of ING_SRC beside ENABLE. -/
def sourceFields : List Fld :=
  [ING_SRC.PORT, ING_SRC.VC, ING_SRC.WAIT, ING_SRC.GROUP, ING_SRC.DIV_M1, ING_SRC.PHASE, ING_SRC.TS_FMT, ING_SRC.SLOTS, ING_SRC.SLOT_4K,
   ING_SRC.LAT, ING_SRC.KIND_A, ING_SRC.KIND_B, ING_SRC.KIND_C]

/-- ING_SRC: its fields are ignored while ENABLE = 1. -/
def State.sourceWrite (s : State) (h : Hit) (b value : Nat) : State :=
  let s := if s.flag ING_SRC.ENABLE h.i then s
    else (s.keepAll sourceFields h b value).keep ING_SRC.OFFSET (cutTo 4096) h b value
  s.onOff ING_SRC.ENABLE h b value (fun s => s.sourceEnable h.i) (fun s => s.sourceDisable h.i)

/-- FUS_CTL: PERIOD only while RUN = 0; RUN is an action, and LOCK can only be set. -/
def State.fusCtlWrite (s : State) (h : Hit) (b value : Nat) : State :=
  let s := if s.flag FUS_CTL.RUN then s else s.keep FUS_CTL.PERIOD (orElse 0 2 0) h b value
  let s := s.keep FUS_CTL.WAIT_US (fun x => min 30000 (max 1000 x)) h b value
  let s := s.onOff FUS_CTL.RUN h b value State.runStart State.runStop
  s.setOnly FUS_CTL.LOCK h b value

/-- A write to the ING and FUS blocks. -/
def State.fusWrite (s : State) (h : Hit) (b value : Nat) : State :=
  match h.reg with
  | .ingRegion => if s.flag FUS_CTL.RUN then s else
      (s.keep ING_REGION.BASE (cutTo (2 ^ 21)) h b value).keepAll [ING_REGION.LENGTH_2M] h b value
  | .ingSrc => s.sourceWrite h b value
  | .fusCtl => s.fusCtlWrite h b value
  | .fusEpoch => if s.flag FUS_CTL.RUN then s else s.keepAll [FUS_EPOCH.EPOCH] h b value
  | .fusCfg => (s.keepLocked FUS_CTL.LOCK [(FUS_CFG.PRIMARY, id)] h b value).keepAll [FUS_CFG.EVT_VEF] h b value
  | .fusGrp => s.keepLocked FUS_CTL.LOCK ([FUS_GRP.Q0, FUS_GRP.Q1, FUS_GRP.Q2, FUS_GRP.Q3, FUS_GRP.Q4, FUS_GRP.Q5].map (fun f => (f, id))) h b value
  | .fusForce => s.keepAll [FUS_FORCE.FORCE] h b value
  | .fusPose => s.keepLocked FUS_CTL.LOCK [(FUS_POSE.BASE, cutTo 4096)] h b value
  | .fusCeil => s.keepLocked FUS_CTL.LOCK [(FUS_CEIL.ENTRY_LO, id), (FUS_CEIL.ENTRY_HI, id)] h b value
  | _ => s

/-! ## RND, DSP (09 R252–R255) -/

/-- Fields of DSP_HEAD that only a head whose ENABLE is 0 accepts. -/
def headFields : List Fld :=
  [DSP_HEAD.REFRESH, DSP_HEAD.BPC10, DSP_HEAD.H_ACTIVE, DSP_HEAD.V_ACTIVE, DSP_HEAD.H_TOTAL, DSP_HEAD.V_TOTAL, DSP_HEAD.HS_START,
   DSP_HEAD.HS_WIDTH, DSP_HEAD.HS_POL, DSP_HEAD.VS_START, DSP_HEAD.VS_WIDTH, DSP_HEAD.VS_POL, DSP_HEAD.BKGND, DSP_HEAD.EPOCH]

/-- DSP_HEAD: EDP and LANES are reserved on heads 4 and 5. -/
def State.headWrite (s : State) (h : Hit) (b value : Nat) : State :=
  let s := s.keepAll [DSP_HEAD.WARP_EN] h b value
  let s := if s.flag DSP_HEAD.ENABLE h.i then s
    else
      let s := s.keepAll headFields h b value
      if h.i < 4 then (s.keepAll [DSP_HEAD.EDP] h b value).keep DSP_HEAD.LANES (orElse 0 2 2) h b value else s
  if hh : h.i < 6 then
    s.onOff DSP_HEAD.ENABLE h b value (fun s => s.headEnable ⟨h.i, hh⟩) (fun s => s.unitOffWrite (.head ⟨h.i, hh⟩))
  else s

/-- A telltale rectangle lies wholly inside the active area. -/
def State.ttInside (s : State) (h i : Nat) : Bool :=
  decide (1 ≤ s.rd DSP_TT.W h i ∧ 1 ≤ s.rd DSP_TT.H h i) &&
    decide (s.rd DSP_TT.X0 h i + s.rd DSP_TT.W h i ≤ s.rd DSP_HEAD.H_ACTIVE h ∧
      s.rd DSP_TT.Y0 h i + s.rd DSP_TT.H h i ≤ s.rd DSP_HEAD.V_ACTIVE h)

/-- DSP_TT: a write that would leave an enabled rectangle outside the active area is ignored. -/
def State.ttWrite (s : State) (h : Hit) (b value : Nat) : State :=
  let t := s.keepAll [DSP_TT.X0, DSP_TT.Y0, DSP_TT.ENABLE, DSP_TT.W, DSP_TT.H, DSP_TT.EXP_A, DSP_TT.EXP_B] h b value
  if t.flag DSP_TT.ENABLE h.i h.j && !t.ttInside h.i h.j then s else t

/-- A write to the RND and DSP blocks. -/
def State.displayWrite (s : State) (h : Hit) (b value : Nat) : State :=
  match h.reg with
  | .rndCfg => s.keepAll [RND_CFG.SPLIT_REFS] h b value
  | .dspCfg => s.keepAll [DSP_CFG.EVT_VEF] h b value
  | .dspHead => s.headWrite h b value
  | .dspTtStat => s.clearOnes [DSP_TT_STAT.MISMATCH] h b value
  | .dspTt => s.ttWrite h b value
  | _ => s

/-! ## PASS (13 R331–R336) -/

/-- PASS_CFG: a change of the fabric number takes a FOREIGN port to HELLO; only firmware sets LOCK. -/
def State.passCfgWrite (s : State) (who : Requester) (h : Hit) (b value : Nat) : State :=
  let old := s.rd PASS_CFG.FABRIC
  let s := s.keepLocked PASS_CFG.LOCK [(PASS_CFG.FABRIC, orElse 0 0xFE 0), (PASS_CFG.STATIC_EN, id), (PASS_CFG.MEMBER, id)] h b value
  let s := (s.keep PASS_CFG.TIMEOUT_US (atLeast 10) h b value).keep PASS_CFG.POLL_US (fun x => min 100 (max 1 x)) h b value
  let s := if s.rd PASS_CFG.FABRIC = old then s
    else s.each 4 (fun p s => if s.link p = lkForeign then s.setLink p lkHello else s)
  if who = .firmware then s.setOnly PASS_CFG.LOCK h b value else s

/-- A write to the PASS block. -/
def State.passBlockWrite (s : State) (who : Requester) (h : Hit) (b value : Nat) : State :=
  match h.reg with
  | .passCfg => s.passCfgWrite who h b value
  | .passIrqAddr => s.keepAll [PASS_IRQ_ADDR.ADDR] h b value
  | .passIrqData => s.keepAll [PASS_IRQ_DATA.DATA] h b value
  | .passIrqCause => (s.clearOnes [PASS_IRQ_CAUSE.GEN, PASS_IRQ_CAUSE.DEV_LOST, PASS_IRQ_CAUSE.ID_CHANGE, PASS_IRQ_CAUSE.PORT,
      PASS_IRQ_CAUSE.POLL_LOST] h b value).keepAll [PASS_IRQ_CAUSE.IRQ_EN] h b value
  | .passLinkCfg => ((s.keepAll [PASS_LINK_CFG.DEADLOCK] h b value).keep PASS_LINK_CFG.READ_TIMER_US
      (fun x => min 1000 (max 1 x)) h b value).showDiscard
  | .passTun => s.keepLocked PASS_CFG.LOCK [(PASS_TUN.UDP_PORT, id), (PASS_TUN.VLAN, id), (PASS_TUN.ENABLE, id)] h b value
  | .passSbo =>
    let s := s.keepAll [PASS_SBO.STATUS, PASS_SBO.PEER] h b value
    s.wr PASS_SBO.PEND (s.rd PASS_SBO.PEND h.i ||| PASS_SBO.SET.given h.off b value) h.i
  | .passPoll =>
    let s := if s.flag PASS_POLL.EN h.i then s
      else s.keepAll [PASS_POLL.TARGET, PASS_POLL.WORD, PASS_POLL.MASK, PASS_POLL.IRQ_ADDR, PASS_POLL.IRQ_DATA] h b value
    (s.keepAll [PASS_POLL.EN] h b value).clearOnes [PASS_POLL.PEND_ACC] h b value
  | .passTunt => s.keepAll [PASS_TUNT.ADDR, PASS_TUNT.EP_MEMBER, PASS_TUNT.VALID] h b value
  | _ => s

/-! ## GW (14 R363–R367) -/

/-- A ring enabled: its indices are zero and its PHASE starts at 1. -/
def State.hostRing (s : State) (en head tail : Fld) (q : Nat) (rx : Bool) : State :=
  let s := ((s.wr en 1 q).wr head 0 q).wr tail 0 q
  if rx then { s with gw := { s.gw with phase := Sparse.put true s.gw.phase (16 + q) true } } else s

/-- GW_HPQ: BASE and SIZE_LOG2 only while their ring's ENABLE is 0. -/
def State.hpqWrite (s : State) (h : Hit) (b value : Nat) : State :=
  let q := h.i
  let s := s.keepAll [GW_HPQ.TX_TAIL, GW_HPQ.RX_HEAD] h b value
  let s := s.keep GW_HPQ.RX_BUF_2K (atLeast 1) h b value
  let s := if s.flag GW_HPQ.TX_ENABLE q then s
    else (s.keep GW_HPQ.TX_BASE (cutTo 4096) h b value).keep GW_HPQ.TX_SIZE_LOG2 (orElse 6 15 6) h b value
  let s := if s.flag GW_HPQ.RX_ENABLE q then s
    else (s.keep GW_HPQ.RX_BASE (cutTo 4096) h b value).keep GW_HPQ.RX_SIZE_LOG2 (orElse 6 15 6) h b value
  let s := s.onOff GW_HPQ.TX_ENABLE h b value
    (fun s => if s.flag GW_HPQ.TX_ENABLE q then s else s.hostRing GW_HPQ.TX_ENABLE GW_HPQ.TX_HEAD GW_HPQ.TX_TAIL q false)
    (fun s => s.wr GW_HPQ.TX_ENABLE 0 q)
  s.onOff GW_HPQ.RX_ENABLE h b value
    (fun s => if s.flag GW_HPQ.RX_ENABLE q then s else s.hostRing GW_HPQ.RX_ENABLE GW_HPQ.RX_HEAD GW_HPQ.RX_TAIL q true)
    (fun s => s.wr GW_HPQ.RX_ENABLE 0 q)

/-- GW_CAN: while ENABLE = 1 only ENABLE, AUTO_RECOVER, RX_HEAD and TX_TAIL accept writes. -/
def State.canWrite (s : State) (h : Hit) (b value : Nat) : State :=
  let s := s.keepAll [GW_CAN.AUTO_RECOVER, GW_CAN.RX_HEAD, GW_CAN.TX_TAIL] h b value
  let s := if s.flag GW_CAN.ENABLE h.i then s
    else
      let s := s.keepAll [GW_CAN.FD_EN, GW_CAN.XL_EN, GW_CAN.ENTRY, GW_CAN.NBT, GW_CAN.DBT_FD, GW_CAN.DBT_XL] h b value
      let s := (s.keep GW_CAN.RX_BASE (cutTo 4096) h b value).keep GW_CAN.TX_BASE (cutTo 4096) h b value
      (s.keep GW_CAN.RX_SIZE_LOG2 (orElse 6 12 6) h b value).keep GW_CAN.TX_SIZE_LOG2 (orElse 6 12 6) h b value
  if hc : h.i < 16 then
    s.onOff GW_CAN.ENABLE h b value (fun s => s.enableUnit (.can ⟨h.i, hc⟩)) (fun s => s.unitOffWrite (.can ⟨h.i, hc⟩))
  else s

/-- GW_CONT: while VALID = 1 only VALID accepts writes; clearing VALID drops the pending value. -/
def State.contWrite (s : State) (h : Hit) (b value : Nat) : State :=
  let s := if s.flag GW_CONT.VALID h.i then s
    else s.keepAll [GW_CONT.DIR, GW_CONT.KIND, GW_CONT.CTRL, GW_CONT.EXT, GW_CONT.FD, GW_CONT.XL, GW_CONT.LEN, GW_CONT.ADDR,
      GW_CONT.MIN_GAP_US, GW_CONT.ID, GW_CONT.VLAN, GW_CONT.UDP_PORT] h b value
  s.onOff GW_CONT.VALID h b value (fun s => s.contValid h.i)
    (fun s => (s.wr GW_CONT.VALID 0 h.i).setCont h.i { s.cont h.i with unsent := [], oldest := none, due := [] })

/-- GW_ROUTE. -/
def State.routeWrite (s : State) (h : Hit) (b value : Nat) : State :=
  let s := if s.flag GW_ROUTE.VALID h.i then s
    else s.keepAll [GW_ROUTE.MODE, GW_ROUTE.SRC, GW_ROUTE.DST, GW_ROUTE.SRC_BIT, GW_ROUTE.DST_BIT, GW_ROUTE.LEN] h b value
  s.onOff GW_ROUTE.VALID h b value (fun s => if s.flag GW_ROUTE.VALID h.i then s else s.routeValid h.i) (fun s => s.wr GW_ROUTE.VALID 0 h.i)

/-- A write to the GW block; only firmware sets its LOCK. SPEED exists on ports 2 to 7 (R363). -/
def State.gwWrite (s : State) (who : Requester) (h : Hit) (b value : Nat) : State :=
  match h.reg with
  | .gwSw =>
    let s := (s.keepLocked GW_SW.LOCK [(GW_SW.SAFETY_VLAN, id)] h b value).keepAll [GW_SW.RUN] h b value
    if who = .firmware then s.setOnly GW_SW.LOCK h b value else s
  | .gwPort =>
    let s := s.keepAll [GW_PORT.TX_LAT, GW_PORT.RX_LAT] h b value
    let s := if 2 ≤ h.i ∧ h.i ≤ 7 then s.keepAll [GW_PORT.SPEED] h b value else s
    if hp : h.i < 10 then
      s.onOff GW_PORT.ENABLE h b value (fun s => s.enableUnit (.eth ⟨h.i, hp⟩)) (fun s => s.unitOffWrite (.eth ⟨h.i, hp⟩))
    else s
  | .gwTxtsStat =>
    let s := s.clearOnes [GW_TXTS_STAT.OVF] h b value
    if GW_TXTS_STAT.POP.asked h b value then s.popStamp h.i else s
  | .gwHpq => s.hpqWrite h b value
  | .gwCan => s.canWrite h b value
  | .gwAddr => s.keepAll [GW_ADDR.ADDR] h b value
  | .gwCont => s.contWrite h b value
  | .gwRoute => s.routeWrite h b value
  | _ => s

/-! ## APHY, HOSTC, PCIE (17 R427–R431) -/

/-- A write to the APHY, HOSTC and PCIE blocks. -/
def State.hostWrite (s : State) (h : Hit) (b value : Nat) : State :=
  match h.reg with
  | .aphyLink =>
    let t := s.keepAll [APHY_LINK.GPIO_OUT] h b value
    if APHY_LINK.GPIO_OUT.touched h.off b && s.flag APHY_LINK.UP h.i then t.emit (.gpio h.i (t.rd APHY_LINK.GPIO_OUT h.i)) else t
  | .aphyI2c =>
    let s := (s.keep APHY_I2C.WLEN (atMost 8) h b value).keep APHY_I2C.RLEN (atMost 8) h b value
    let s := (s.keep APHY_I2C.SPEED (orElse 0 2 1) h b value).keepAll [APHY_I2C.ADDR, APHY_I2C.WDATA] h b value
    if APHY_I2C.GO.asked h b value then s.i2cGo h.i else s
  | .hostcClk => (s.keep HOSTC_CLK.REQ (fun x => min 26 (max 10 x)) h b value).hostClocks
  | .hostcMtimecmp =>
    let t := s.keepAll [HOSTC_MTIMECMP.CMP] h b value
    if t.localNs < t.rd HOSTC_MTIMECMP.CMP h.i then { t with gw := { t.gw with mtip := t.gw.mtip.filter (· != h.i) } } else t
  | .pcieObw => s.keepAll [PCIE_OBW.BASE] h b value
  | _ => s

end Sys2Proof.Machine
end

