-- ==== Sys2Proof/Machine/RegWrite.lean ====
section
/-! DEFINITION. A write to an address (17 R418–R425): what each of its words meets, who may write it, and what a refused
one counts. -/

namespace Sys2Proof.Machine

/-! ## Who may write a register (17 R422, and the register section of each block's chapter) -/

/-- Firmware, the hypervisor or the Cantle. -/
def Requester.anyButVef : Requester → Bool
  | .firmware | .hypervisor | .cantle => true
  | _ => false

/-- A requester that the chapter of a register names as a writer of it. -/
def Hit.allows (h : Hit) (who : Requester) : Bool :=
  match h.reg with
  | .sysRst => who.anyButVef
  | .sysId | .sysCfg | .sysAcc | .sysMode | .sysStrap | .sysPark | .pwrCtl | .pwrStat | .pwrDom => who.fwHyp
  | .pwrLim | .tbInc | .tbOfs | .tbCtl | .tbStat | .tbCfg | .tbSnap | .fwStat | .idPub | .idHash => who.fw
  | .fwPkg | .fwLog | .fwTrace => who.hyp
  | .safCtl | .safWdog | .safFaultLast | .safFaultCnt | .safEsc | .safGold | .bistGate => who.isCantle
  | .bistCfg => who.fw
  | .bistLast | .bistStat | .bistUnit => who.fwHyp
  | .memPcInSvc | .memPcNext | .memKeyCmd | .memStat | .memEcc | .memRgn | .movCmq => who.fw
  | .dmaChCtl | .dmaChCrc | .dmaChBytes => who.fwHyp
  | .ringVefCfg | .ringVefAsid | .ringVefDisc | .ringVefAqBase | .ringVefAqCtl | .ringVefAqHead | .ringVefAqIrqAddr
  | .ringVefAqIrqData => who.fwHyp
  | .vefGlb | .vefHart | .vefAtt | .vefCtl | .vefSave | .vefSaveLen | .vefViol | .vefStat => who.fwHyp
  | .plainLoadStat | .plainFldCfg | .plainFldState | .plainFldWdog | .plainFldErr | .plainFldErrloc | .plainFldTol | .plainFldNum
  | .plainFldWin => who.fw
  | .vlyPfxBase => who.fw
  | .vlyStat => who.fwHyp
  | .vlyPool => who.hyp
  | .fusForce => who.fw || who.isCantle
  | .ingRegion | .ingSrc | .fusCtl | .fusEpoch | .fusCfg | .fusGrp | .fusStat | .fusPose | .fusCksel | .fusCeil | .fusSrcStat => who.fw
  | .dspTt => who.anyButVef
  | .rndCfg | .rndStat | .dspCfg | .dspHead | .dspTtStat => who.fwHyp
  | .passDev | .passCfg | .passStat | .passIrqAddr | .passIrqData | .passIrqCause | .passDevLost | .passLinkCfg | .passLinkStat
  | .passTun | .passSbo | .passPoll | .passRt | .passTunt => who.fwHyp
  | .gwCan => if h.i ≥ 14 then who.isCantle else who.fwHyp
  | .gwSw | .gwSgStat | .gwPort | .gwTxts | .gwTxtsStat | .gwHpq | .gwAddr | .gwCont | .gwRoute => who.fwHyp
  | .aphyLink | .aphyI2c => who.fwHyp
  | .hostcClk | .hostcMtimecmp | .pcieObw | .pcieStat => who.hyp
  | .dbSqTail | .dbCqHead | .dbEqHead | .dbStat | .sqCfg | .cqCfg | .eqCfg => pageOk who h.i

/-- A permitted write of one or two words of a register. -/
def State.regWrite (s : State) (src : Source) (who : Requester) (h : Hit) (b value : Nat) : State :=
  match h.reg with
  | .sysId | .sysCfg | .sysAcc | .sysMode | .sysRst | .sysStrap | .sysPark | .pwrLim | .pwrCtl | .pwrStat | .pwrDom | .tbInc | .tbOfs
  | .tbCtl | .tbStat | .tbCfg | .tbSnap | .fwStat | .fwPkg | .fwLog | .fwTrace | .idPub | .idHash => s.sysWrite src who h b value
  | .safCtl | .safWdog | .safFaultLast | .safFaultCnt | .safEsc | .safGold | .bistCfg | .bistGate | .bistLast | .bistStat
  | .bistUnit => s.safWrite h b value
  | .memPcInSvc | .memPcNext | .memKeyCmd | .memStat | .memEcc | .memRgn | .movCmq | .dmaChCtl | .dmaChCrc | .dmaChBytes
  | .plainLoadStat | .plainFldCfg | .plainFldState | .plainFldWdog | .plainFldErr | .plainFldErrloc | .plainFldTol | .plainFldNum
  | .plainFldWin | .vlyPfxBase | .vlyStat | .vlyPool => s.memBlockWrite h b value
  | .vefGlb | .vefHart | .vefAtt | .vefCtl | .vefSave | .vefSaveLen | .vefViol | .vefStat => s.vefWrite h b value
  | .ingRegion | .ingSrc | .fusCtl | .fusEpoch | .fusCfg | .fusGrp | .fusStat | .fusForce | .fusPose | .fusCksel | .fusCeil
  | .fusSrcStat => s.fusWrite h b value
  | .rndCfg | .rndStat | .dspCfg | .dspHead | .dspTtStat | .dspTt => s.displayWrite h b value
  | .passDev | .passCfg | .passStat | .passIrqAddr | .passIrqData | .passIrqCause | .passDevLost | .passLinkCfg | .passLinkStat
  | .passTun | .passSbo | .passPoll | .passRt | .passTunt => s.passBlockWrite who h b value
  | .gwSw | .gwSgStat | .gwPort | .gwTxts | .gwTxtsStat | .gwHpq | .gwCan | .gwAddr | .gwCont | .gwRoute => s.gwWrite who h b value
  | .aphyLink | .aphyI2c | .hostcClk | .hostcMtimecmp | .pcieObw | .pcieStat => s.hostWrite h b value
  | .dbSqTail => s.doorbell h.i h.j value
  | .ringVefCfg | .ringVefAsid | .ringVefDisc | .ringVefAqBase | .ringVefAqCtl | .ringVefAqHead | .ringVefAqIrqAddr
  | .ringVefAqIrqData | .dbCqHead | .dbEqHead | .dbStat | .sqCfg | .cqCfg | .eqCfg => s.ringRegWrite h b value

/-! ## Blocks whose layout a standard gives (17 R428, R429, 14 R350) -/

/-- Register space, and the doorbell pages (05 R111). -/
def inRegSpace (a : Nat) : Bool := decide (0xF000000000 ≤ a ∧ a < 0xF010000000)
def inPages (a : Nat) : Bool := decide (0xF100000000 ≤ a ∧ a < 0xF100080000)

/-- The interrupt files of the IMSIC. -/
def inImsic (a : Nat) : Bool := decide (0xF001800000 ≤ a ∧ a < 0xF001810000) || decide (0xF001900000 ≤ a ∧ a < 0xF001980000)

/-- The IOMMU, the APLIC, and the 802.1Q tables of the switch. -/
def inStd (a : Nat) : Bool :=
  decide (0xF001600000 ≤ a ∧ a < 0xF001601000) || decide (0xF001700000 ≤ a ∧ a < 0xF001710000) ||
    decide (0xF001240000 ≤ a ∧ a < 0xF001290000)

/-- ECAM and the outbound window, in root-port mode. -/
def State.inEcam (s : State) (a : Nat) : Bool := !s.flag SYS_STRAP.PCIE_MODE && decide (0xF002000000 ≤ a ∧ a < 0xF003000000)
def State.inOutbound (s : State) (a : Nat) : Bool := !s.flag SYS_STRAP.PCIE_MODE && decide (0xF008000000 ≤ a ∧ a < 0xF010000000)

/-- A word of such a block written. -/
def State.stdWrite (s : State) (a value : Nat) : State := { s with std := Sparse.put 0 s.std (a / 4) (value % 2 ^ 32) }

/-- An address of ECAM behind which no function is (R429): on bus 0 every function but the root port, and beyond it a bus
above its subordinate bus number, every bus while the link is down, and a function that is not there. -/
def State.ecamAbsent (s : State) (a : Nat) : Bool :=
  let f := (a - 0xF002000000) / 2 ^ 12
  if f < 256 then f != 0
  else decide (s.stdWord 0xF002000018 / 2 ^ 16 % 2 ^ 8 < f / 256) || !s.flag PCIE_STAT.LINK_UP || !Config.pcieThere f

/-- A word written to an interrupt file: seteipnum_le and seteipnum_be make an identity pending. -/
def State.imsicWrite (s : State) (a value : Nat) : State :=
  let v := value % 2 ^ 32
  let id := if a % 0x1000 = 4 then leNat (beBytes 4 v) else v
  if a % 0x1000 ≤ 4 ∧ 1 ≤ id ∧ id ≤ 255 then { s with imsic := Sparse.put false s.imsic (a / 0x1000 * 0x1000 + id) true } else s

/-! ## One access -/

/-- What one word of an access meets. -/
inductive WordHit where
  | hole
  | denied
  | reg (h : Hit)
  | imsic
  | std
  | ecam
  | outbound
  deriving DecidableEq, Repr

/-- The requester of an access to an address. -/
def State.whoAt (s : State) (src : Source) (a : Nat) : Requester :=
  if inPages a then s.pageWho src ((a - 0xF100000000) / 0x1000) else s.who src

/-- What the word at an address meets for a requester. DESIGN CHOICE: a word of a register group that holds no register, such as
a field's reserved word, is a hole and counts as one; the manual does not say whether a reserved word inside a group does. -/
def State.wordHit (s : State) (who : Requester) (a : Nat) : WordHit :=
  match findReg a with
  | some h => if h.reg = .pcieObw ∧ s.flag SYS_STRAP.PCIE_MODE then .hole else if h.allows who then .reg h else .denied
  | none =>
    if inImsic a then (if who.fwHyp then .imsic else .denied)
    else if inStd a then (if who.fwHyp then .std else .denied)
    else if s.inEcam a then (if who.fwHyp then .ecam else .denied)
    else if s.inOutbound a then (if who.fwHyp then .outbound else .denied)
    else .hole

/-- A permitted word carried out. -/
def State.wordWrite (s : State) (src : Source) (who : Requester) (x : WordHit) (a value : Nat) : State :=
  match x with
  | .reg h => s.regWrite src who h 4 value
  | .imsic => s.imsicWrite a value
  | .std => s.stdWrite a value
  | .ecam => if s.ecamAbsent a then s else s.stdWrite a value
  | .outbound => s.emit (.hostWrite (s.rd PCIE_OBW.BASE * 2 ^ 27 + (a - 0xF008000000)) (leBytes 4 value))
  | .hole | .denied => s

/-- What an access counts: once for each reason that applies (17 R419, R422). -/
def State.countAccess (s : State) (who : Requester) (a : Nat) (xs : List WordHit) : State :=
  let hole := xs.contains .hole
  let no := xs.contains .denied
  match who with
  | .nobody => s
  | .vef v => if hole || no then s.inc VEF_VIOL.REG v else s
  | _ =>
    let s := if hole then s.inc SYS_ACC.HOLE else s
    let s := if no then s.inc SYS_ACC.DENIED else s
    if hole || no then s.wr SYS_ACC.LAST_SLOT (bits a 20 8) else s

/-- A write narrower than 32 bits, or misaligned (17 R420). -/
def State.countNarrow (s : State) (who : Requester) (a : Nat) : State :=
  match who with
  | .nobody => s
  | .vef v => s.inc VEF_VIOL.REG v
  | _ => (s.inc SYS_ACC.NARROW).wr SYS_ACC.LAST_SLOT (bits a 20 8)

/-- A write of one or two whole words: two words of one register are written together. -/
def State.spaceWrite (s : State) (src : Source) (a b value : Nat) : State :=
  let who := s.whoAt src a
  let x := s.wordHit who a
  if b = 4 then (s.countAccess who a [x]).wordWrite src who x a value
  else
    let y := s.wordHit who (a + 4)
    let s := s.countAccess who a [x, y]
    match x, y with
    | .reg h, .reg k =>
      if h.reg = k.reg ∧ h.i = k.i ∧ h.j = k.j then s.regWrite src who h 8 value
      else (s.regWrite src who h 4 (value % 2 ^ 32)).regWrite src who k 4 (value / 2 ^ 32)
    | _, _ => (s.wordWrite src who x a (value % 2 ^ 32)).wordWrite src who y (a + 4) (value / 2 ^ 32)

/-- A store outside register space and the doorbell pages goes to HBM or to an SRAM window: firmware, the Cantle and the
hypervisor at local physical addresses, a VEF under the region check. -/
def State.memStore (s : State) (src : Source) (a b value : Nat) : State :=
  let bs := leBytes b value
  match s.who src with
  | .nobody => s
  | .vef v => if s.regionOk v a && s.regionOk v (a + b - 1) then s.memWrite a bs else s.inc VEF_VIOL.REGION v
  | who =>
    if (sramPlace a).isSome then (if who = .firmware then s.sramWrite a bs else s) else s.memWrite a bs

/-- A write of `b` bytes at an address. -/
def State.writeAt (s : State) (src : Source) (a b value : Nat) : State :=
  if !inRegSpace a && !inPages a then s.memStore src a b value
  else if (b = 4 ∨ b = 8) ∧ a % b = 0 then s.spaceWrite src a b (value % 2 ^ (8 * b))
  else s.countNarrow (s.whoAt src a) a

/-- A 32-bit word of a register, as its fields spell it. -/
def State.regWord (s : State) (h : Hit) : Nat :=
  bits ((h.reg.flds.map (fun f => if f.acc = .wo then 0 else s.rd f h.i h.j * 2 ^ f.lo)).foldl (· + ·) 0) (8 * h.off) 32

/-- REGISTER_WRITE. -/
def execRegisterWrite (src : Source) (addr bytes value : Nat) (s : State) : Ans := .next (s.writeAt src addr bytes value)

end Sys2Proof.Machine
end

