-- ==== Sys2Proof/Machine/BootFw.lean ====
section
/-! DEFINITION. What firmware does at boot (15 R371–R376, R386, 01 R14, R27, R28, 16 R412). -/

namespace Sys2Proof.Machine

/-- The bits of a word that belong to RW and RWL fields. -/
def wordMask (h : Hit) : Nat :=
  bits ((h.reg.flds.map (fun f => if f.acc = .rw ∨ f.acc = .rwl then (2 ^ f.w - 1) * 2 ^ f.lo else 0)).foldl (· + ·) 0) (8 * h.off) 32

/-! ## The record's units (01 R27, R28, 17 R426) -/

/-- Raster cores enabled for a number that the record names. -/
def rasterCount (n : Nat) : Nat := if n ≥ 8 then 8 else if n ≥ 4 then 4 else n % 4 / 2 * 2 + (if n < 2 then n else 0)

/-- SYS_CFG, the HELD flags and the raster cores as the record has them. -/
def State.applyConfig (s : State) : State :=
  let r := s.fw.record
  let fl := Bytes.num r 6 2
  let named := Bytes.num r 0x10 1
  let cores := rasterCount named
  let heads := Bytes.num r 0x11 1 % 64
  let ports := Bytes.num r 0x12 1 % 16
  let s := if cores = named then s else s.logEvent 2 1
  let s := (((s.wr SYS_CFG.DEPOT_EN fl).wr SYS_CFG.SPLIT (fl / 2)).wr SYS_CFG.BOUND (b2n (!(Bytes.sub r 0x18 48).all (· == 0)))).wr
    SYS_CFG.RASTER cores
  let s := ((s.wr SYS_CFG.HEADS heads).wr SYS_CFG.PASS ports).wr DSP_CFG.HELD (63 - heads)
  let s := (s.wr RND_CFG.CORES_EN cores).wr RND_CFG.INTERLOCK (b2n (cores == 8))
  let s := s.each 6 (fun h s => s.wr DSP_HEAD.HELD (b2n (!heads.testBit h)) h)
  let held (s : State) (d : Nat) (b : Bool) : State := s.wr PWR_DOM.HELD (b2n b) d
  held (held (held (held s 15 (cores == 0)) 16 (decide (cores ≤ 4))) 17 (heads == 0)) 19 (ports == 0)

/-! ## Regions (R373) -/

/-- Whole region units of a number of MiB. -/
def State.unitsOf (s : State) (mib : Nat) : Nat := (mib * 2 ^ 20 + s.ru - 1) / s.ru

/-- One region entry written. -/
def State.setRegion (s : State) (r base limit : Nat) : State :=
  ((((s.wr MEM_RGN.BASE_RU base r).wr MEM_RGN.LIMIT_RU limit r).wr MEM_RGN.GRAN 0 r).wr MEM_RGN.KEY 0x80 r).wr MEM_RGN.VALID 1 r

/-- The three regions placed from address 0; what does not fit is cut, first from the depot region, then from the DRIVE
working region. -/
def State.placeRegions (s : State) : State :=
  let res := s.unitsOf (Bytes.num s.fw.record 0xA8 4)
  let work := s.unitsOf (Bytes.num s.fw.record 0xAC 4)
  let depot := s.unitsOf (Bytes.num s.fw.record 0xB0 4)
  let w := min work (12288 - res)
  let d := min depot (12288 - res - w)
  let s := if d = depot then s else s.logEvent 2 1
  let s := if w = work then s else s.logEvent 2 1
  ((s.setRegion rgnResident 0 res).setRegion rgnWorking res (res + w)).setRegion rgnDepot (res + w) (res + w + d)

/-! ## Setup entries (R372) -/

/-- Base of a setup block (17 R418). -/
def setupBase (block : Nat) : Nat :=
  match block with
  | 1 => 0xF000D00000
  | 2 => 0xF000E00000
  | 3 => 0xF001200000
  | 4 => 0xF001100000
  | 5 => 0xF000400000
  | _ => 0xF000500000

/-- Who writes a setup entry: the Cantle those of SAF, firmware the others. -/
def setupBy (block : Nat) : Source := if block = 5 then .cantle else .mgmt

/-- A setup entry applied; a write that its register refuses is logged. -/
def State.applySetup (s : State) (e : Bytes) : State :=
  let block := Bytes.num e 0 1
  let a := setupBase block + Bytes.num e 4 4
  let mask := Bytes.num e 12 4
  let want := Bytes.num e 8 4 &&& mask
  let old := match findReg a with
    | some h => s.regWord h
    | none => s.stdWord a
  let t := s.writeAt (setupBy block) a 4 (old - (old &&& mask) + want)
  match findReg a with
  | some h => if t.regWord h &&& mask &&& wordMask h = want &&& wordMask h then t else t.logEvent 2 2
  | none => t

/-- Every setup entry in record order, then the locks. -/
def State.applySetups (s : State) : State :=
  let s := s.each (min (Bytes.num s.fw.record 0x14 4) 16384) (fun i s => s.applySetup (Bytes.sub s.fw.record (0x200 + i * 16) 16))
  ((((s.wr FUS_CTL.LOCK 1).wr GW_SW.LOCK 1).wr PASS_CFG.LOCK 1).wr BIST_CFG.LOCK 1).wr SAF_CTL.LOCK 1

/-! ## Images (R376) -/

/-- One IMAGE in the resident driving region: left where it has its digest, else written from flash; one that fails its
check is left unwritten. -/
def State.placeImage (s : State) (c : Comp) : State :=
  let a := s.rgnBase rgnResident + c.load
  let good (s : State) : State := { s with fw := { s.fw with verified := a :: s.fw.verified } }
  if sha384 (s.memRead a c.size) = c.digest then good s
  else
    let bs := s.flashSet.bundle c.off c.size
    if sha384 bs = c.digest then good (s.memWrite a bs) else (s.logEvent 2 2).wr FW_STAT.REASON 6

/-- Every IMAGE, SHADOW entries first. -/
def State.placeImages (s : State) : State :=
  let cs := (comps (fun o n => Bytes.sub s.fw.manifest o n)).filter (fun c => c.type == 5)
  let s := { s with fw := { s.fw with verified := [] } }
  (cs.filter (fun c => c.flags.testBit 0) ++ cs.filter (fun c => !c.flags.testBit 0)).foldl (fun s c => s.placeImage c) s

/-! ## The log (R385, R386) -/

/-- The log ring placed, and after a cold boot the slots of the save area copied behind it. -/
def State.placeLog (s : State) : State :=
  let s := s.wr FW_LOG.BASE Config.logBase
  let cold := decide (s.rd SYS_RST.LAST_CAUSE ≠ 3 ∧ s.rd SYS_RST.LAST_CAUSE ≠ 4)
  if cold then s.memWrite (s.rd FW_LOG.BASE + 2 ^ 20) (s.flashRead (s.flashArea 5).1 0x40000) else s

/-- Bit timing of CAN controllers 14 and 15 (R371). -/
def State.safetyTiming (s : State) : State :=
  [14, 15].foldl (fun s c => ((s.wr GW_CAN.NBT (Bytes.num s.fw.record 0x104 4) c).wr GW_CAN.DBT_FD (Bytes.num s.fw.record 0x108 4) c).wr
    GW_CAN.DBT_XL (Bytes.num s.fw.record 0x10C 4) c) s

/-! ## The end of the boot sequence -/

/-- The 64 MiB of the prefix table zeroed, before any pool becomes VALID (07 R191). -/
def State.zeroPrefix (s : State) : State := s.zeroHbm (s.rd VLY_PFX_BASE.BASE / 4096 * 4096) (2 ^ 26)

/-- Firmware's part of the boot. -/
def State.firmwareBoot (s : State) : State :=
  (s.applyConfig.placeRegions.zeroPrefix.placeLog.flushLog).applySetups.safetyTiming.placeImages.cantleRings

/-- BOOT_COMPLETE: DRIVE, or PARK_WARM after the always-on timer's boot out of PARK_COLD. -/
def execBootComplete (s : State) : Ans :=
  match s.mode.trans with
  | some (.boot park) =>
    if !s.fw.running then .next s
    else
      let t := s.firmwareBoot.enterMode mDrive
      .next (if park then t.parkDown [] else t)
  | _ => .next s

end Sys2Proof.Machine
end

