-- ==== Sys2Proof/Machine/Bridge.lean ====
section
/-! DEFINITION. The bridge's bursts (13 R326), and the local access that a fabric address with the device's own ID stands for
(05 R112): to HBM, to the SRAM windows, to register space and to the doorbell pages. -/

namespace Sys2Proof.Machine

/-! ## Registers read (17 R420, R422) -/

/-- A requester may read a register: a writer of it may, and firmware, the hypervisor and the Cantle. DEDUCED: that stands for
every reader that a chapter names. -/
def Hit.readable (h : Hit) (who : Requester) : Bool := h.allows who || who.anyButVef

/-- A 32-bit word of register space or of a doorbell page as a requester reads it; a hole and a refused word read zero. -/
def State.wordRead (s : State) (who : Requester) (a : Nat) : Nat :=
  match findReg a with
  | some h => if h.reg = .pcieObw ∧ s.flag SYS_STRAP.PCIE_MODE then 0 else if h.readable who then s.regWord h else 0
  | none => match s.wordHit who a with
    | .std => s.stdWord a
    | .ecam => if s.ecamAbsent a then 2 ^ 32 - 1 else s.stdWord a
    | .outbound => leNat (Sparse.bytes 0 s.hostMem (s.rd PCIE_OBW.BASE * 2 ^ 27 + (a - 0xF008000000)) 4)
    | .hole | .denied | .reg _ | .imsic => 0

/-- What a read of a word meets: a register that its requester may read is no refusal. -/
def State.readHit (s : State) (who : Requester) (a : Nat) : WordHit :=
  match s.wordHit who a, findReg a with
  | .denied, some h => if h.readable who then .reg h else .denied
  | x, _ => x

/-- A read of 1, 2, 4 or 8 bytes, aligned, of register space: its bytes, and what it counts. A misaligned one reads zero. -/
def State.spaceRead (s : State) (src : Source) (a n : Nat) : State × Bytes :=
  let who := s.whoAt src a
  if !((n == 1 || n == 2 || n == 4 || n == 8) && a % n == 0) then (s.countNarrow who a, List.replicate n 0)
  else
    let w := a / 4 * 4
    let two := leNat (leBytes 4 (s.wordRead who w) ++ leBytes 4 (s.wordRead who (w + 4)))
    (s.countAccess who a (s.readHit who w :: if n = 8 then [s.readHit who (w + 4)] else []), leBytes n (two / 2 ^ (8 * (a % 4))))

/-! ## Local accesses of the bridge (05 R112) -/

/-- A burst cut into accesses of at most 8 bytes. -/
def cutWords : Nat → Nat → Nat → List (Nat × Nat)
  | 0, _, _ => []
  | k + 1, a, n => if n = 0 then [] else (a, min n 8) :: cutWords k (a + 8) (n - 8)

/-- An address outside HBM that registers or the SRAM windows answer. -/
def placedAt (a : Nat) : Bool := inRegSpace a || inPages a || (sramPlace a).isSome

/-- A write of a burst to a local address. -/
def State.ownWrite (s : State) (src : Source) (a : Nat) (d : Bytes) : State :=
  if placedAt a then
    (cutWords (d.length / 8 + 1) a d.length).foldl (fun s x => s.writeAt src x.1 x.2 (leNat (Bytes.sub d (x.1 - a) x.2))) s
  else s.ctxWrite (s.localCtx src) a d

/-- A read of a burst at a local address: what it counts, its bytes, and whether they are poisoned. -/
def State.ownRead (s : State) (src : Source) (a n : Nat) : State × Bytes × Bool :=
  if (sramPlace a).isSome then (s, s.sramRead src a n, false)
  else if placedAt a then
    let r := (cutWords (n / 8 + 1) a n).foldl (fun (acc : State × Bytes) x =>
      let y := acc.1.spaceRead src x.1 x.2
      (y.1, acc.2 ++ y.2)) (s, [])
    (r.1, r.2, false)
  else
    let c := s.localCtx src
    (s.ctxTouch c a n, s.ctxRead c a n, decide (s.ctxWorst c a n = 2))

/-! ## The bridge -/

/-- BRIDGE_BURST: a burst to a fabric address, a write with its data or a read of `len` bytes. -/
def execBridgeBurst (src : Source) (cls : Fin 4) (addr : Nat) (data : Option Bytes) (len : Nat) (s : State) : Ans :=
  let n := match data with
    | some d => d.length
    | none => len
  if addr / 2 ^ 48 = s.rd PASS_DEV.ID then
    match data with
    | some d => .next ((s.ownWrite src (addr % 2 ^ 48) d).emit (.fabricAck src addr false))
    | none =>
      let r := s.ownRead src (addr % 2 ^ 48) n
      .next (r.1.emit (.fabricData src addr r.2.1 r.2.2))
  else
    let who := s.fabricAs src
    if s.fabricBars who then
      match data with
      | some _ => .next ((s.fabricRefused who).emit (.fabricAck src addr false))
      | none => .next ((s.fabricRefused who).emit (.fabricData src addr (List.replicate n 0) false))
    else
      let w := who.getD (true, 0, 0)
      .next ((cutBurst (n / 256 + n / 4096 + 3) addr n).foldl (fun s x =>
        match data with
        | some d => s.request .write src (fabricPacket w cls x.1 x.2 (Bytes.sub d (x.1 - addr) x.2))
        | none =>
          let p := fabricPacket w cls x.1 x.2 []
          if s.discards (s.slotOf p) (p.dst % 256) then s.delayedRead src p else s.request .read src p) s)

end Sys2Proof.Machine
end

