-- ==== Sys2Proof/Machine/Accum.lean ====
section
/-! DEFINITION. The accumulators: exact accumulation with its residue channel, fused FP32 accumulation, conversion at
drain and the checksum bank (03 R72–R80, R450). -/

namespace Sys2Proof.Machine

/-- An operand element of the matrix unit: a block-scaled INT8 is its integer times 2^-6 (03 R65). -/
def elemNum (f v : Nat) (mx : Bool) : Num :=
  match decodeNum f v with
  | .fin a m e => .fin a m (if mx && f == fInt8 then e - 6 else e)
  | x => x

/-- A product that enters N: significands and exponent; none where an operand is zero or not finite. -/
def productOf : Num → Num → Option (Int × Int × Nat)
  | .fin a m e, .fin b n f =>
    if m = 0 ∨ n = 0 then none
    else
      let x := scaleTo a m 0 0
      let y := scaleTo b n 0 0
      some (x * y, e + f, mod127 x * mod127 y % 127)
  | _, _ => none

/-- A term added to the sum of a block: S and its residue are aligned to the smaller exponent (03 R72, R77). -/
def partAdd : Option (Int × Int × Nat) → Int × Int × Nat → Int × Int × Nat
  | none, t => t
  | some (n, g, r), (x, e, q) =>
    let h := min g e
    (n * ((2 ^ (g - h).toNat : Nat) : Int) + x * ((2 ^ (e - h).toNat : Nat) : Int), h,
     (r * pow127 (g - h) + q * pow127 (e - h)) % 127)

/-- The products of a K step taken into the block in progress, and the flags they set. -/
def Acc.gather (a : Acc) (ps : List (Num × Num)) (nanScale : Bool) : Acc :=
  let a := ps.foldl (fun a p => a.special p.1 p.2 nanScale) a
  let terms := if nanScale then [] else ps.filterMap (fun p => productOf p.1 p.2)
  { a with part := terms.foldl (fun p t => some (partAdd p t)) a.part }

/-- The block in progress ends: N, A and ρ take it (03 R72, R73, R77). Answers whether RANGE has just been set. -/
def Acc.close (a : Acc) (mx : Bool) (sa sb : Nat) : Acc × Bool :=
  match a.part with
  | none => (a, false)
  | some (sum, g0, res) =>
    let a := { a with part := none }
    if a.range then (a, false)
    else
      let g := if mx then g0 + ((sa : Int) - 127) + ((sb : Int) - 127) else g0
      let a := match a.anchor with
        | none => { a with n := 0, rho := 0, anchor := some g }
        | some _ => a
      let anchor := a.anchor.getD g
      let down := (anchor - g).toNat
      let n1 : Int := a.n * ((2 ^ down : Nat) : Int)
      let r1 := a.rho * pow127 down % 127
      let anchor1 := min anchor g
      let up := (g - anchor1).toNat
      let n2 : Int := n1 + sum * ((2 ^ up : Nat) : Int)
      if !fits128 n1 then ({ a with range := true }, true)
      else if !fits128 n2 then ({ a with n := n1, rho := r1, anchor := some anchor1, range := true }, true)
      else ({ a with n := n2, rho := (r1 + res * pow127 up) % 127, anchor := some anchor1 }, false)

/-- A K step of one column: pairs of elements, the scale bytes of A and B where MX = 1, and whether its block ends. Without
block scaling each step may end one, since the terms of a tile may be grouped in any way (03 R72). -/
def Acc.block (a : Acc) (ps : List (Num × Num)) (mx : Bool) (sa sb : Nat) (last : Bool) : Acc × Bool :=
  let a := a.gather ps (mx && (sa == 0xFF || sb == 0xFF))
  if last then a.close mx sa sb else (a, false)

/-- One fused FP32 addition of R450; a tile's first product is taken as it is. DESIGN CHOICE: a first BF16 product outside
the range of FP32 is rounded or overflows as any conversion to FP32 does; the rule takes it exactly into an FP32 sum and says
no more. -/
def Acc.fused (a : Acc) (first : Bool) (x y : Num) : Acc :=
  { a with fp := fp32 (if first then x.mul y else (x.mul y).add (decodeNum fFp32 a.fp)) }

/-- One K step as the matrix unit reads it: sixteen elements of A and of B, and the scale bytes of rows and columns. -/
structure KStep where
  a : List Num
  b : List Num
  sa : List Nat
  sb : List Nat
  deriving DecidableEq, Repr

/-- The pair of column (row i, column j) in a K step. -/
def KStep.pair (k : KStep) (i j : Nat) : Num × Num := (k.a.getD i .nan, k.b.getD j .nan)

/-- One column over K steps of a block; `last` tells that the block ends with them. -/
def Acc.steps (a : Acc) (half mx first last : Bool) (i j : Nat) (ks : List KStep) : Acc × Bool :=
  if half then
    ((ks.zipIdx.foldl (fun a k => a.fused (first && k.2 == 0) (k.1.pair i j).1 (k.1.pair i j).2) a), false)
  else match ks with
    | [] => (a, false)
    | k :: _ => a.block (ks.map (fun k => k.pair i j)) mx (k.sa.getD i 0) (k.sb.getD j 0) last

/-- A format that accumulates in FP32. -/
def halfFmt (f : Nat) : Bool := f == fBf16 || f == fFp16

/-- The 256 accumulators of a bank. -/
def CellSt.bankAcc (c : CellSt) (b k : Nat) : Acc := Sparse.look Acc.empty c.acc (b * 256 + k)

/-- A bank set from a list of its 256 accumulators. -/
def CellSt.setBank (c : CellSt) (b : Nat) (as : List Acc) : CellSt :=
  let new := as.zipIdx.filterMap (fun a => if a.1 = Acc.empty then none else some (b * 256 + a.2, a.1))
  { c with acc := if b = 0 then new ++ c.acc.filter (fun e => 256 ≤ e.1) else c.acc.filter (fun e => e.1 < 256) ++ new }

/-- A bank's K steps so far. -/
def CellSt.steps (c : CellSt) (b : Nat) : Nat := Sparse.look 0 c.ksteps b

/-- K steps of a block taken into the current bank: the cell, and how many columns set RANGE. -/
def CellSt.accumulate (c : CellSt) (half mx first last : Bool) (ks : List KStep) : CellSt × Nat :=
  let r := (List.range 256).map (fun n => (c.bankAcc c.bank n).steps half mx first last (n / 16) (n % 16) ks)
  ({ c.setBank c.bank (r.map (·.1)) with ksteps := Sparse.put 0 c.ksteps c.bank (c.steps c.bank + ks.length) },
   (r.filter (·.2)).length)

/-- Some column of a bank fails its residue comparison. -/
def CellSt.residueBad (c : CellSt) (b : Nat) : Bool := (List.range 256).any (fun n => (c.bankAcc b n).residueBad)

/-- The bank not in use. -/
def CellSt.idleBank (c : CellSt) : Nat := 1 - c.bank

/-- A new tile in the other bank. -/
def CellSt.newTile (c : CellSt) : CellSt :=
  let b := c.idleBank
  { c.setBank b [] with bank := b, ksteps := Sparse.put 0 c.ksteps b 0 }

/-! ## Drain (03 R74, R450) -/

/-- A column's value at drain. -/
def Acc.value (a : Acc) (half : Bool) : Num :=
  if half then decodeNum fFp32 a.fp
  else if a.range || a.nan || (a.pinf && a.ninf) then .nan
  else if a.pinf then .inf false
  else if a.ninf then .inf true
  else Num.ofInt a.n (a.anchor.getD 0)

/-- The 256 outputs of a bank in row order. -/
def CellSt.outputs (c : CellSt) (b : Nat) (half : Bool) (f : Nat) (mode : RoundMode) : List Conv :=
  (List.range 256).map (fun n => encodeNum f mode ((c.bankAcc b n).value half))

/-! ## The checksum bank (03 R79, R80) -/

/-- Where in its slice a drained tile lies: the first at the corner; the manual leaves the order of the others open. -/
def tileAt (n : Nat) : Nat × Nat :=
  if n = 0 then (0, 0)
  else (Config.tilePlace (2 * n) % 8 * 16, Config.tilePlace (2 * n + 1) % 8 * 16)

/-- Drained outputs added into the checksum bank: their numbers in the tile, and their FP32 values. -/
def CellSt.check (c : CellSt) (first : Nat) (vs : List Nat) : CellSt :=
  let t := tileAt (c.chk.length / 256)
  { c with chk := c.chk ++ vs.zipIdx.map (fun v => (t.1 + (first + v.2) / 16, t.2 + (first + v.2) % 16, v.1)) }

/-- The data of a row (column) of a slice, in drain order. -/
def chkData (l : List (Nat × Nat × Nat)) (row : Bool) (i last : Nat) : List Nat :=
  (l.filter (fun e => if row then e.1 == i && decide (e.2.1 < last) else e.2.1 == i && decide (e.1 < last))).map (·.2.2)

/-- The checksum of a row (column): the output at its end. -/
def chkEnd (l : List (Nat × Nat × Nat)) (row : Bool) (i last : Nat) : Nat :=
  ((l.find? (fun e => if row then e.1 == i && e.2.1 == last else e.2.1 == i && e.1 == last)).map (·.2.2)).getD 0

/-- One comparison: none where it is skipped, else whether it fails. -/
def chkFails (t : Nat) (c : Nat) (vs : List Nat) : Option Bool :=
  let sum := vs.foldl fpAdd 0
  let mag := vs.foldl (fun a v => fpAdd a (v % 2 ^ 31)) 0
  let x := decodeNum fFp32 c
  let y := decodeNum fFp32 sum
  let a := decodeNum fFp32 mag
  if !x.finite || !y.finite || !a.finite then none
  else
    let d := (decodeNum fFp32 (fp32 (x.add y.neg))).abs
    let m := Num.max2 a x.abs
    let lim := decodeNum fFp32 (fp32 ((Num.fin false t (-20)).mul m))
    some (lim.lt d)

/-- Every comparison of a slice of r rows and c columns with tolerance t. -/
def CellSt.compare (s : CellSt) (t r c : Nat) : List (Option Bool) :=
  (List.range (r - 1)).map (fun i => chkFails t (chkEnd s.chk true i (c - 1)) (chkData s.chk true i (c - 1))) ++
  (List.range (c - 1)).map (fun j => chkFails t (chkEnd s.chk false j (r - 1)) (chkData s.chk false j (r - 1)))

end Sys2Proof.Machine
end

