-- ==== Sys2Proof/Machine/CellOps.lean ====
section
/-! DEFINITION. How a cell executes a microword (chapters 2 and 4): fetching it, waiting under its STREAM field,
repeating it, retiring it, and the faults it can raise. -/

namespace Sys2Proof.Machine

/-- What stops a microword: an error of the field with its word, wrong parity in the stitch store, or an error found after
the repetition has had its effect, which stays. -/
inductive Bad where
  | flag (n word : Nat)
  | parity (word : Nat)
  | late (n word : Nat) (t : State)
  deriving DecidableEq, Repr

/-- The field of a cell, where it runs commands: RUNNING, no fault draining, no kill in progress. -/
def State.liveField (s : State) (cell : Nat) : Option (Fin 17) :=
  match s.fieldOfCell cell with
  | none => none
  | some f =>
    if hf : f < 17 then
      if s.fState f = stRunning ∧ !(s.frt f).faultDrain ∧ (s.frt f).killSince.isNone then some ⟨f, hf⟩ else none
    else none

/-- A fault raised in a cell. -/
def State.raise (s : State) (f : Fin 17) (cell : Nat) : Bad → State
  | .flag n w => s.fldFault f n cell w
  | .parity w => (s.setF f { s.frt f with needReinit := true }).fldFault f errStitch cell w
  | .late n w t => t.fldFault f n cell w

/-- The microword at an address of a cell, or the error that its fetch meets (02 R35–R38). -/
def State.microAt (s : State) (cell pc : Nat) : Except Bad Micro :=
  if pc < 768 then
    match s.storeBad cell (pc * 16) 16 with
    | some w => .error (.parity w)
    | none => .ok (s.stitchNum cell (pc * 16) 16)
  else
    let o := 0x13000 + (pc - 768) * 16
    match s.pocketBad cell o 16 with
    | some w => .error (.flag errPocket w)
    | none => .ok (leNat (s.pocketBytes cell o 16))

/-- A single-bit error of an overflow microword is corrected at its fetch, and counted (02 R35). -/
def State.fetchFix (s : State) (f cell pc : Nat) : State :=
  if pc < 768 then s else s.pocketFix f cell (0x13000 + (pc - 768) * 16) 16

/-- An event of a transfer that a microword waits for is set, or it waits for none. -/
def CellSt.eventOk (c : CellSt) (m : Micro) : Bool :=
  !m.evEn || (if m.evFull then c.full else c.half).testBit m.evXfer

/-- How many of the repetitions left a microword can make now: by the flits at its incoming port and the room at its
outgoing one. -/
def CellSt.ready (c : CellSt) (m : Micro) (left : Nat) : Nat :=
  let i := if m.inEn then (Sparse.look [] c.port m.inPort).length / m.inFlits else left
  let o := if m.outEn then (if (Sparse.look [] c.inBuf (32 + m.outPort)).isEmpty then 1 else 0) else left
  min left (min i o)

/-- The flits of one repetition leave the incoming port. -/
def State.taken (s : State) (cell : Nat) (m : Micro) : State :=
  if m.inEn then
    let c := s.cell cell
    s.setCell cell { c with port := Sparse.put [] c.port m.inPort ((Sparse.look [] c.port m.inPort).drop m.inFlits) }
  else s

/-- The flits that one repetition takes. -/
def State.flitsIn (s : State) (cell : Nat) (m : Micro) : List Flit :=
  if m.inEn then (Sparse.look [] (s.cell cell).port m.inPort).take m.inFlits else []

/-- Flits produced at the outgoing port. -/
def CellSt.give (c : CellSt) (m : Micro) (fs : List Flit) : CellSt :=
  let k := 32 + m.outPort
  { c with inBuf := Sparse.put [] c.inBuf k (Sparse.look [] c.inBuf k ++ fs) }

/-- A flit whose contents the manual leaves open: a microword that produces flits from no operand. -/
def State.freeFlit (s : State) (i : Nat) : Flit :=
  ⟨((List.range 8).map (fun k => (Config.freeWord s.freeCount (i * 8 + k)).toNat * 2 ^ (32 * k))).foldl (· + ·) 0, false⟩

/-- A microword retired: the next address, and its event cleared where it asks for that. -/
def CellSt.retire (c : CellSt) (m : Micro) (next : Nat) : CellSt :=
  let c := { c with pc := next % 4096, rep := 0, waiting := false }
  if m.evClr then
    if m.evFull then { c with full := clearBit c.full m.evXfer } else { c with half := clearBit c.half m.evXfer }
  else c

/-- A microword that itself waits: NOP and WAITTOK (02 R55, 04 R102). -/
def Micro.waits (m : Micro) : Bool := (m.cls == 0 && m.op == 0) || (m.cls == 5 && m.op == 1)

/-- What a repetition does: from the state, the microword, the repetition's number and the flits taken, the state
afterwards and, where it has some of its own, the flits produced. -/
abbrev Body := State → Micro → Nat → List Flit → Except Bad (State × Option (List Flit))

/-- What one repetition gives the outgoing port: the flits it computed, or flits whose contents are left open. -/
def State.given (s : State) (cell : Nat) (m : Micro) (fs : Option (List Flit)) : State :=
  if m.outEn then
    match fs with
    | some l => s.setCell cell ((s.cell cell).give m l)
    | none => s.drawn.setCell cell ((s.cell cell).give m ((List.range m.outFlits).map s.freeFlit))
  else s

/-- One repetition with its flits in and out; the generators named advance. -/
def State.oneRep (s : State) (cell : Nat) (m : Micro) (os : List Opd) (body : Body) (rep : Nat) : Except Bad State :=
  match body (s.taken cell m) m rep (s.flitsIn cell m) with
  | .error e => .error e
  | .ok (t, fs) => .ok ((t.stepGens cell os).given cell m fs)

/-- Repetitions `rep` to `rep + n − 1`; one that stops leaves what those before it did. -/
def State.reps (s : State) (cell : Nat) (m : Micro) (os : List Opd) (body : Body) (rep : Nat) :
    Nat → Except (Bad × State) State
  | 0 => .ok s
  | n + 1 => match s.oneRep cell m os body rep with
    | .error e => .error (e, s)
    | .ok t => t.reps cell m os body (rep + 1) n

/-- A cell executes the microword at its address, where the row names its class and operation; `total` is its number of
repetitions, `next` the address after it, `os` the pocket operands it steps. No effect while the field is not running,
the cell is halted, the microword is another's, or it stalls under R39. -/
def State.runWord (s : State) (cell cls op : Nat) (total : Micro → Nat) (os : Micro → List Opd)
    (next : CellSt → Micro → Nat) (body : Body) : State :=
  match s.liveField cell with
  | none => s
  | some f =>
    let c := s.cell cell
    if !c.running then s
    else match s.microAt cell c.pc with
      | .error e => s.raise f cell e
      | .ok m =>
        let s := s.fetchFix f cell c.pc
        if m.reserved then s.microError f c.job
        else if m.cls ≠ cls ∨ m.op ≠ op then s
        else if m.formatError then s.microError f c.job
        else if !c.eventOk m then s
        else
          let left := total m - c.rep
          let n := c.ready m left
          if n = 0 then s.setCell cell { c with waiting := m.inEn || m.outEn }
          else match s.gensBad cell m (os m) with
          | some w => s.raise f cell (.parity w)
          | none => match s.reps cell m (os m) body c.rep n with
            | .error e => e.2.raise f cell e.1
            | .ok t =>
              let d := t.cell cell
              if n < left then t.setCell cell { d with rep := c.rep + n, waiting := true }
              else
                let t := t.setCell cell (d.retire m (next d m))
                if m.waits then t else t.progress f

/-- The address after a microword that does not branch. -/
def onward (c : CellSt) (_ : Micro) : Nat := c.pc + 1

/-- No pocket operands. -/
def noOpds (_ : Micro) : List Opd := []

/-- A microword executed once. -/
def once (_ : Micro) : Nat := 1

/-- A pocket range read: its bytes, its correctable errors corrected. -/
def State.readPocket (s : State) (cell o n : Nat) : Except Bad (State × Bytes) :=
  match s.pocketBad cell o n with
  | some w => .error (.flag errPocket w)
  | none => .ok (s.fixPocket cell o n, s.pocketBytes cell o n)

/-- A pocket range written. -/
def State.writePocket (s : State) (cell o : Nat) (bs : Bytes) : Except Bad State :=
  match s.partBad cell o bs.length with
  | some w => .error (.flag errPocket w)
  | none => .ok ((s.fixPart cell o bs.length).pocketPut cell o bs false)

/-- NaN inputs dropped by the conversions of a cell's field. -/
def State.dropsOf (s : State) (cell : Nat) (cs : List Conv) : State :=
  match s.fieldOfCell cell with
  | some f => if cs.any (·.drop) then s.noteDrops f (cs.filter (·.drop)).length else s
  | none => s

end Sys2Proof.Machine
end

