-- ==== Sys2Proof/Machine/Cells.lean ====
section
/-! DEFINITION. The microwords of the CONTROL, MATRIX, STREAM and SIGNAL classes (04 R102). -/

namespace Sys2Proof.Machine

/-- A body that does nothing of its own. -/
def idleBody : Body := fun s _ _ _ => .ok (s, none)

/-! ## CONTROL -/

/-- NOP: waits under STREAM only. -/
def execControlNop (cell : Fin 2368) (s : State) : Ans :=
  .next (s.runWord cell 0 0 Micro.loop noOpds onward idleBody)

/-- JUMP: the target address is in [75:64]. -/
def execControlJump (cell : Fin 2368) (s : State) : Ans :=
  .next (s.runWord cell 0 1 once noOpds (fun _ m => bits m 64 12) idleBody)

/-- What a repetition of ControlLoopset does. -/
def controlLoopsetBody (cell : Nat) : Body := fun s m _ _ =>
  let n := bits m 76 4
  match s.storeBad cell (0x3400 + n * 4) 4 with
  | some w => .error (.parity w)
  | none =>
    let c := s.cell cell
    .ok (s.setCell cell { c with loops := Sparse.put 0 c.loops n (s.loopBound cell n) }, none)

/-- LOOPSET: counter [79:76] takes loop bound [79:76]. -/
def execControlLoopset (cell : Fin 2368) (s : State) : Ans :=
  .next (s.runWord cell 0 2 once noOpds onward (controlLoopsetBody cell))

/-- What a repetition of ControlLoop does. -/
def controlLoopBody (cell : Nat) : Body := fun s m _ _ =>
  let n := bits m 76 4
  let c := s.cell cell
  .ok (s.setCell cell { c with loops := Sparse.put 0 c.loops n ((Sparse.look 0 c.loops n + (2 ^ 32 - 1)) % 2 ^ 32) }, none)

/-- LOOP: the counter is decremented; a jump to [75:64] while it is not zero. -/
def execControlLoop (cell : Fin 2368) (s : State) : Ans :=
  .next (s.runWord cell 0 3 once noOpds
    (fun c m => if Sparse.look 0 c.loops (bits m 76 4) = 0 then c.pc + 1 else bits m 64 12)
    (controlLoopBody cell))

/-- The next command of a cell that has ended one, or none. -/
def CellSt.endJob (c : CellSt) : CellSt :=
  match c.todo with
  | j :: rest => { c.begin j with todo := rest }
  | [] => { c with running := false, pc := 0, rep := 0 }

/-- What a repetition of ControlEnd does. -/
def controlEndBody (cell : Nat) (job : Nat) : Body := fun s _ _ _ =>
  .ok (s.changeJob job (fun j => { j with endedCells := j.endedCells ++ [cell] }), none)

/-- A cell has ended its part of a command. -/
def State.cellEnded (s : State) (job cell : Nat) : Bool :=
  s.flight.any (fun j => j.cmd.serial == job && j.endedCells.contains cell)

/-- After the END of a cell at `s`: it begins its next command, or halts, where its part of the current one has now ended. -/
def State.afterEnd (t s : State) (cell : Nat) : State :=
  let job := (s.cell cell).job
  if t.cellEnded job cell && !s.cellEnded job cell then t.setCell cell (t.cell cell).endJob else t

/-- END: this cell's part of the current command ends (04 R103). -/
def execControlEnd (cell : Fin 2368) (s : State) : Ans :=
  .next ((s.runWord cell 0 4 once noOpds onward (controlEndBody cell (s.cell cell).job)).afterEnd s cell)

/-! ## MATRIX -/

/-- The scale bytes of sixteen rows or columns at an operand's block, their correctable errors corrected. -/
def State.readScales (s : State) (cell : Nat) (o : Opd) (rep : Nat) : Except Bad (State × List Nat) :=
  let block := s.opdSteps cell o rep / 32
  let as := (List.range 16).map (fun i => s.scaleAddr cell o block i)
  match as.findSome? (fun a => s.pocketBad cell a 1) with
  | some w => .error (.flag errPocket w)
  | none => .ok (as.foldl (fun s a => s.fixPocket cell a 1) s, as.map (fun a => leNat (s.pocketBytes cell a 1)))

/-- One K step read from the pocket at a repetition. -/
def State.readStep (s : State) (cell : Nat) (m : Micro) (rep : Nat) : Except Bad (State × KStep) := do
  let (s, a) ← s.readPocket cell (s.opdAddr cell m.opA rep) (packedBytes m.fmtA 16)
  let (s, b) ← s.readPocket cell (s.opdAddr cell m.opB rep) (packedBytes m.fmtB 16)
  let (s, sa) ← if m.mx then s.readScales cell m.opA rep else .ok (s, [])
  let (s, sb) ← if m.mx then s.readScales cell m.opB rep else .ok (s, [])
  let row (f : Nat) (bs : Bytes) : List Num := (List.range 16).map (fun i => elemNum f (element f bs i) m.mx)
  .ok (s, ⟨row m.fmtA a, row m.fmtB b, sa, sb⟩)

/-- The residue comparison of every 64th K step. -/
def CellSt.step64Bad (c : CellSt) (half : Bool) : Bool := !half && c.steps c.bank % 64 == 0 && c.residueBad c.bank

/-- One K step into the current bank; with block scaling every 32nd ends a block (03 R65, R72). -/
def mmaBody (cell : Nat) (new : Bool) : Body := fun s m rep _ => do
  let (s, k) ← s.readStep cell m rep
  let c := s.cell cell
  let c := if new && rep == 0 then c.newTile else c
  let half := halfFmt m.fmtA
  let r := c.accumulate half m.mx (new && rep == 0) (!m.mx || rep % 32 == 31) [k]
  let s := s.setCell cell r.1
  let s := match s.fieldOfCell cell with
    | some f => if r.2 = 0 then s else s.noteRange f r.2
    | none => s
  if r.1.step64Bad half then .error (.late errResidue 0 s) else .ok (s, none)

/-- MMA: A × B accumulated into the current bank over K steps. -/
def execMatrixMma (cell : Fin 2368) (s : State) : Ans :=
  .next (s.runWord cell 1 0 Micro.loop (fun m => [m.opA, m.opB]) onward (mmaBody cell false))

/-- MMA_NEW: as MMA, starting a new tile in the other bank. -/
def execMatrixMmaNew (cell : Fin 2368) (s : State) : Ans :=
  .next (s.runWord cell 1 1 Micro.loop (fun m => [m.opA, m.opB]) onward (mmaBody cell true))

/-- A byte string as flits of 32 bytes. -/
def flitsOf (bs : Bytes) (n : Nat) : List Flit := (List.range n).map (fun i => ⟨leNat (Bytes.sub bs (i * 32) 32), false⟩)

/-- What a repetition of MatrixDrain does. -/
def matrixDrainBody (cell : Nat) : Body := fun s m rep _ => do
  let c := s.cell cell
  let half := halfFmt m.fmtA
  let b := c.idleBank
  if !half && c.residueBad b then .error (.flag errResidue 0)
  let outs := c.outputs b half m.fmtOut ⟨m.sat, none⟩
  let bs := packElems m.fmtOut (outs.map (·.bits))
  let per := m.outFlits * 32 / (fmtBits m.fmtOut / 8)
  let first := if m.outEn then rep * per else 0
  let now := if m.outEn then (outs.drop first).take per else outs
  let s := s.dropsOf cell now
  let s := if m.check then
      s.setCell cell ((s.cell cell).check first (now.map (fun v => fp32 (decodeNum m.fmtOut v.bits))))
    else s
  if m.outEn then .ok (s, some (flitsOf (bs.drop (rep * m.outFlits * 32)) m.outFlits))
  else
    let s ← s.writePocket cell (s.opdAddr cell m.opB rep) bs
    .ok (s, none)

/-- DRAIN: the bank not in use converted to FMT_OUT, to the pocket or to the outgoing port. -/
def execMatrixDrain (cell : Fin 2368) (s : State) : Ans :=
  .next (s.runWord cell 1 2 Micro.loop (fun m => [m.opB]) onward (matrixDrainBody cell))

/-- The tolerance of a stage in units of 2^-20 (03 R80). -/
def State.tolerance (s : State) (cell n : Nat) : Nat :=
  let t := s.stitchNum cell (0x3C00 + n * 2) 2
  match s.fieldOfCell cell with
  | some f => min (if t = 0 then s.rd PLAIN_FLD_TOL.DEFAULT f else t) (s.rd PLAIN_FLD_TOL.MAX f)
  | none => t

/-- What a repetition of MatrixChkcmp does. -/
def matrixChkcmpBody (cell : Nat) : Body := fun s m _ _ =>
  let n := bits m 64 8
  match s.storeBad cell (0x3C00 + n * 2) 2 with
  | some w => .error (.parity w)
  | none =>
    let c := s.cell cell
    let rs := c.compare (s.tolerance cell n) (bits m 24 8 + 1) (bits m 16 8 + 1)
    let t := s.setCell cell { c with chk := [] }
    let skipped := (rs.filter (·.isNone)).length
    let t := match s.fieldOfCell cell with
      | some f => if skipped = 0 then t else t.noteSkips f skipped
      | none => t
    if rs.any (fun r => r == some true) then .error (.late errChecksum 0 t) else .ok (t, none)

/-- CHKCMP: the checksum row and column of a slice compared; the bank is cleared. -/
def execMatrixChkcmp (cell : Fin 2368) (s : State) : Ans :=
  .next (s.runWord cell 1 3 once noOpds onward (matrixChkcmpBody cell))

/-! ## STREAM -/

/-- What a repetition of StreamSend does. -/
def streamSendBody (cell : Nat) : Body := fun s m rep _ => do
  let (s, bs) ← s.readPocket cell (s.opdAddr cell m.opA rep) (m.outFlits * 32)
  .ok (s, some (flitsOf bs m.outFlits))

/-- SEND: pocket data at OPA to the outgoing port. -/
def execStreamSend (cell : Fin 2368) (s : State) : Ans :=
  .next (s.runWord cell 3 0 Micro.loop (fun m => [m.opA]) onward (streamSendBody cell))

/-- A list of flits written to the pocket. -/
def State.storeFlits (s : State) (cell o : Nat) (fs : List Flit) : State :=
  fs.zipIdx.foldl (fun s f => s.pocketPut cell (o + f.2 * 32) (leBytes 32 f.1.data) f.1.poison) s

/-- What a repetition of StreamRecv does. -/
def streamRecvBody (cell : Nat) : Body := fun s m rep fs => do
  let o := s.opdAddr cell m.opB rep
  match s.partBad cell o (fs.length * 32) with
  | some w => .error (.flag errPocket w)
  | none => .ok ((s.fixPart cell o (fs.length * 32)).storeFlits cell o fs, none)

/-- RECV: flits of the incoming port to the pocket at OPB. -/
def execStreamRecv (cell : Fin 2368) (s : State) : Ans :=
  .next (s.runWord cell 3 1 Micro.loop (fun m => [m.opB]) onward (streamRecvBody cell))

/-! ## Links of the mesh (02 R40, R42) -/

/-- The neighbour of a cell over a link (0 N, 1 E, 2 S, 3 W), where the mesh has one. -/
def neighbour (cell link : Nat) : Option Nat :=
  let shadow := decide (cell ≥ 2304)
  let n : Nat := if shadow then 8 else 48
  let x := cellX cell
  let y := cellY cell
  let at_ (x y : Nat) : Nat :=
    if shadow then (144 + y / 4 * 2 + x / 4) * 16 + y % 4 * 4 + x % 4 else (y / 4 * 12 + x / 4) * 16 + y % 4 * 4 + x % 4
  match link with
  | 0 => if y = 0 then none else some (at_ x (y - 1))
  | 1 => if x + 1 < n then some (at_ (x + 1) y) else none
  | 2 => if y + 1 < n then some (at_ x (y + 1)) else none
  | _ => if x = 0 then none else some (at_ (x - 1) y)

/-- A link inside the field, with no excluded cluster at either end. -/
def State.linkOpen (s : State) (f a b : Nat) : Bool :=
  s.fieldOfCell b == some f && match (s.frt f).image with
    | some i => !i.excluded.contains (a / 16) && !i.excluded.contains (b / 16)
    | none => false

/-- The link that XY routing takes from one cell toward another: along the row first. -/
def xyLink (a b : Nat) : Nat :=
  if cellX a < cellX b then 1 else if cellX b < cellX a then 3 else if cellY a < cellY b then 2 else 0

/-- Every link of the XY route from a cell to `b` is open, in at most `n` hops (02 R42, 04 R89). -/
def State.pathOpen (s : State) (f b : Nat) : Nat → Nat → Bool
  | 0, a => a == b
  | n + 1, a =>
    if a = b then true
    else match neighbour a (xyLink a b) with
      | some c => s.linkOpen f a c && s.pathOpen f b n c
      | none => false

/-! ## SIGNAL -/

/-- What a repetition of SignalToken does. -/
def signalTokenBody (cell : Nat) : Body := fun s m _ _ =>
  match s.fieldOfCell cell with
  | none => .ok (s, none)
  | some f => match s.cellAt f (bits m 64 6) (bits m 70 6) with
    | none => .ok (s, none)
    | some k =>
      let c := s.cell cell
      if s.pathOpen f k 96 cell then .ok (s.setCell cell { c with sent := c.sent ++ [(k, bits m 76 4)] }, none)
      else .ok (s, none)

/-- TOKEN: token [79:76] on its way to the cell at column [69:64] and row [75:70] of the field; the packet lane crosses no
fence, so a token whose XY route meets one is lost. -/
def execSignalToken (cell : Fin 2368) (s : State) : Ans :=
  .next (s.runWord cell 5 0 once noOpds onward (signalTokenBody cell))

/-- What a repetition of SignalWaittok does. -/
def signalWaittokBody (cell : Nat) : Body := fun s m _ _ =>
  let c := s.cell cell
  .ok (s.setCell cell { c with tokens := clearBit c.tokens (bits m 76 4) }, none)

/-- WAITTOK: stalls until its token has arrived, and takes it. -/
def execSignalWaittok (cell : Fin 2368) (s : State) : Ans :=
  let arrived (m : Micro) : Nat := if (s.cell cell).tokens.testBit (bits m 76 4) then 1 else 0
  .next (s.runWord cell 5 1 arrived noOpds onward (signalWaittokBody cell))

/-! ## Control packets (02 R42) -/

/-- A token that some cell of the field has sent to this one arrives. -/
def State.tokenArrives (s : State) (f : Nat) (cell n : Nat) : State :=
  match (s.cellsOf f).find? (fun k => (s.cell k).sent.contains (cell, n)) with
  | none => s
  | some k =>
    let x := s.cell k
    let s := s.setCell k { x with sent := x.sent.erase (cell, n) }
    let c := s.cell cell
    s.setCell cell { c with tokens := setBit c.tokens n }

/-- CONTROL_PACKET: a packet of the packet lane reaches a cell, or the field controller. -/
def execControlPacket (cell : Fin 2368) (kind : PacketKind) (s : State) : Ans :=
  match s.fieldOfCell cell with
  | none => .next s
  | some f =>
    let c := s.cell cell
    let x := s.frt f
    match kind with
    | .token n => .next (s.tokenArrives f cell n)
    | .start _ => .next (match c.running, c.todo with
      | false, j :: rest => s.setCell cell { c.begin j with todo := rest }
      | _, _ => s)
    | .stop => .next (if x.faultDrain then s.setCell cell c.halt else s)
    | .kill => .next (if s.fState f = stDraining then s.setCell cell c.kill else s)
    | .progress => .next (if s.fState f = stRunning ∧ !x.faultDrain then s.progress f else s)

end Sys2Proof.Machine
end

