-- ==== Sys2Proof/Machine/Modes.lean ====
section
/-! DEFINITION. The commands of the mode machine (chapter 1) and of the arithmetic clock's change (16 R402). -/

namespace Sys2Proof.Machine

/-- A mode request by a requester: firmware and the hypervisor may write SYS_MODE (01 R23). -/
def State.requestBy (s : State) (src : Source) (m : Nat) : State :=
  s.asWho src RegName.sysMode.addr Requester.fwHyp (fun s => s.requestMode m)

/-- MODE_REQUEST_PARK_WARM. -/
def execModeRequestParkWarm (src : Source) (s : State) : Ans := .next (s.requestBy src mWarm)

/-- MODE_REQUEST_PARK_COLD. -/
def execModeRequestParkCold (src : Source) (s : State) : Ans := .next (s.requestBy src mCold)

/-- MODE_REQUEST_DEPOT. -/
def execModeRequestDepot (src : Source) (s : State) : Ans := .next (s.requestBy src mDepot)

/-- CLOCK_CHANGE_DONE: the change decided takes effect; it ends the entry into DEPOT. -/
def execClockChangeDone (s : State) : Ans :=
  match s.mode.clockTo with
  | none => .next s
  | some m =>
    if s.mode.avsWait then .next s
    else
      let t := { s with mode := { s.mode with clockMhz := m, clockTo := none } }
      .next (if t.mode.trans = some .depot ∧ m = 1320 then t.depotIn else t)

/-- PARK_WARM_TIMER_EXPIRY. -/
def execParkWarmTimerExpiry (s : State) : Ans :=
  if s.cur = mWarm ∧ s.mode.trans.isNone ∧ (s.mode.warmTimer).any (fun t => decide (t ≤ s.localNs)) then .next s.parkCold
  else .next s

/-- ALWAYS_ON_TIMER_EXPIRY. -/
def execAlwaysOnTimerExpiry (s : State) : Ans :=
  if s.cur = mCold ∧ s.mode.trans.isNone ∧ (s.mode.coldTimer).any (fun t => decide (t ≤ s.localNs)) then .next (s.coldWake true)
  else .next s

/-- CAN_WAKE: the INH output of a transceiver. -/
def execCanWake (s : State) : Ans := .next (s.wake 1)

/-- ETH_WAKE: a TC10 wake on the PHY wake pin. -/
def execEthWake (s : State) : Ans := .next (s.wake 2)

/-- A move out of DEPOT is in progress since at least `ns`. -/
def State.leavingFor (s : State) (ns : Nat) : Bool :=
  (match s.mode.trans with
    | some .depotDrive | some (.depotPark _) => true
    | _ => false) && decide (s.mode.since + ns ≤ s.localNs)

/-- TENANT_FREEZE_KILL_DEADLINE: 450 ms after the trigger, tenant commands that have not committed are killed and kept. -/
def execTenantFreezeKillDeadline (s : State) : Ans :=
  if s.fwOut 2 then .next s else
  if s.leavingFor 450000000 then
    .next (s.each 128 (fun v s =>
      if s.flag VEF_CTL.TENANT v ∧ s.rd VEF_CTL.STATE v = vFreezing then s.freezeKill v else s))
  else .next s

/-- BACKSTOP: 500 ms after the trigger, each tenant not yet frozen is reset. -/
def execBackstop (s : State) : Ans :=
  let late (v : Nat) : Bool := s.flag VEF_CTL.TENANT v && (s.rd VEF_CTL.STATE v == vActive || s.rd VEF_CTL.STATE v == vFreezing)
  if s.leavingFor 500000000 && (List.range 128).any late then
    .next ((s.each 128 (fun v s => if late v then s.resetVef v else s)).wr SYS_MODE.BACKSTOP 1)
  else .next s

/-! ## What ends a move out of DEPOT -/

/-- FREEZE_COMPLETE: the drain of a freeze ends; the last one lets the device leave DEPOT. -/
def execFreezeComplete (vef : Fin 128) (s : State) : Ans :=
  if s.fwOut 2 then .next s else .next (s.freezeDone vef).modeProgress

/-- VEF_RESET_DONE: a reset ends; the last one lets the device leave DEPOT. -/
def execVefResetDone (vef : Fin 128) (s : State) : Ans := .next (s.resetDone vef).modeProgress

end Sys2Proof.Machine
end

