-- ==== Sys2Proof/Machine/Movers.lean ====
section
/-! DEFINITION. Cell movers (02 R43, R54, 04 R91, 07 R172, R180, R181) and the stream router (02 R40–R42, 04 R92). -/

namespace Sys2Proof.Machine

/-! ## Cell-mover programs (04 R91) -/

/-- One side of a program: kind, window, cluster, offset and strides. -/
structure Side where
  kind : Nat
  win : Nat
  cl : Nat
  off : Nat
  str1 : Int
  str2 : Int
  deriving DecidableEq, Repr

/-- A program. -/
structure Prog where
  src : Side
  dst : Side
  len0 : Nat
  cnt1 : Nat
  cnt2 : Nat
  deriving DecidableEq, Repr

/-- Cell-mover program n of a cell. -/
def State.prog (s : State) (cell n : Nat) : Prog :=
  let o := 0x3540 + n * 64
  let g (k l : Nat) : Nat := s.stitchNum cell (o + k) l
  let st (k : Nat) : Int := signed 32 (g k 4)
  ⟨⟨g 0 1, g 1 1, g 2 1, g 8 8, st 0x20, st 0x24⟩, ⟨g 3 1, g 4 1, g 5 1, g 0x10 8, st 0x28, st 0x2C⟩, g 0x18 4,
   g 0x1C 2, g 0x1E 2⟩

/-- Pieces of 32 bytes that a program moves. -/
def Prog.pieces (p : Prog) : Nat := p.len0 / 32 * p.cnt1 * p.cnt2

/-- Offset of piece n on a side, from its own base. -/
def Prog.pieceOff (p : Prog) (x : Side) (n : Nat) : Int :=
  let run := p.len0 / 32
  let k := n / run
  (n % run * 32 : Nat) + (k % p.cnt1 : Nat) * x.str1 + (k / p.cnt1 : Nat) * x.str2

/-- The command in flight that a transfer belongs to. -/
def State.jobOf (s : State) (serial : Nat) : Option Job := s.flight.find? (fun j => j.cmd.serial == serial)

/-- A side is the field's VALLEY window. -/
def State.valleySide (s : State) (f : Nat) (x : Side) : Bool :=
  x.kind == 3 && match (s.frt f).image with
    | some i => i.valley.contains x.win
    | none => false

/-- Where one piece lies on a side: a pocket offset, a cluster SRAM offset, a window with an offset, an address of the
pool, or nowhere it may be. -/
inductive Place where
  | pocket (o : Nat)
  | sram (k o : Nat)
  | win (w : WinView) (o : Nat)
  | pool (c : Ctx) (a : Nat)
  | bad
  deriving DecidableEq, Repr

/-- The place of piece n of a side. `page` is the pool offset that a page tag resolved to. -/
def State.placeOf (s : State) (f : Nat) (j : Option Job) (p : Prog) (x : Side) (page : Option Nat) (n : Nat) (write : Bool) :
    Place :=
  let d := p.pieceOff x n
  if s.valleySide f x then
    match page, s.poolOf f with
    | some base, some q =>
      let a : Int := base + d
      if a < 0 then .bad else .pool (s.poolCtx q) (s.poolBase q + a.toNat)
    | _, _ => .bad
  else
    let o : Int := x.off + d
    if o < 0 then .bad
    else match x.kind with
      | 1 => .pocket (o.toNat % 0x20000)
      | 2 =>
        match s.clusterAt f (x.cl % 16) (x.cl / 16) with
        | none => .bad
        | some k =>
          let img := (s.frt f).image
          let excl := match img with
            | some i => i.excluded.contains k
            | none => false
          let cache := match img with
            | some i => i.pageSize != 0
            | none => false
          if excl || decide (o.toNat + 32 > 0x80000) || (cache && decide (o.toNat + 32 > 0x78000)) then .bad
          else .sram k o.toNat
      | 3 =>
        let w := s.window f x.win j
        if w.violates o.toNat 32 write then .bad else .win w o.toNat
      | _ => .bad

/-- Bytes of a piece, and the offsets of those that are poisoned or lie in a word with a double-bit error; a violating read
delivers zeros (02 R54). -/
def State.pieceRead (s : State) (cell : Nat) (j : Option Job) : Place → Bytes × List Nat
  | .pocket o => (s.pocketBytes cell o 32, s.pocketBadAt cell o 32)
  | .sram k o => (Sparse.bytes 0 s.mem.sram (k * 0x80000 + o) 32, s.sramBadAt k o 32)
  | .win w o => (s.winRead w j o 32, s.winBad w o 32)
  | .pool c a => (s.ctxRead c a 32, s.ctxBad c a 32)
  | .bad => (List.replicate 32 0, [])

/-- The effects of reading a piece beside its bytes. -/
def State.pieceTouch (s : State) (f cell : Nat) : Place → State
  | .pocket o => s.pocketFix f cell o 32
  | .sram k o => s.sramFix f k o 32
  | .win w o => s.winTouch w o 32
  | .pool c a => s.ctxTouch c a 32
  | .bad => s

/-- A piece written; poison stays with its words, a word covered in part is read first, and a violating write is discarded
(02 R35, R54). -/
def State.pieceWrite (s : State) (f : Fin 17) (cell : Nat) (bs : Bytes) (bad : List Nat) : Place → State
  | .pocket o => match s.partBad cell o bs.length with
    | some w => s.fldFault f errPocket cell w
    | none => ((s.fixPart cell o bs.length).pocketPut cell o bs false).pocketPoison cell o bad
  | .sram k o => match s.sramPartBad k o bs.length with
    | some w => s.fldFault f errClsram cell w
    | none => (if o % 8 = 0 then s else s.sramFix f k (o / 8 * 8) (bs.length + 8)).sramStore k o bs bad
  | .win w o =>
    let t := s.winWrite w o bs
    if bad = [] then t else t.targetPoison (t.winTarget w o) bad
  | .pool c a =>
    let t := s.ctxWrite c a bs
    if bad = [] then t else t.targetPoison (.here c a) bad
  | .bad => s

/-- One piece moved: a double-bit error of a pocket or cluster SRAM is the field's, poison from memory taints the
command, and a window violation is the field's. -/
def State.movePiece (s : State) (f : Fin 17) (cell : Nat) (x : Xfer) (n : Nat) : State :=
  let p := s.prog cell x.prog
  let j := s.jobOf x.job
  let src := s.placeOf f j p p.src x.page n false
  let dst := s.placeOf f j p p.dst x.dstPage n true
  let r := s.pieceRead cell j src
  let t := (s.pieceTouch f cell src).pieceWrite f cell r.1 r.2 dst
  let t := match r.2, src with
    | [], _ => t
    | i :: _, .pocket o => t.fldFault f errPocket cell ((o + i) / 8 % 0x4000)
    | i :: _, .sram _ o => t.fldFault f errClsram cell ((o + i) / 8)
    | _ :: _, _ => t.changeJob x.job (fun j => { j with tainted := true })
  if src == .bad || dst == .bad then t.fldFault f errWindow cell 0 else t

/-- Pieces `from_` up to `to_` of a transfer moved; a fault squashes the rest. -/
def State.movePieces (s : State) (f : Fin 17) (cell : Nat) (x : Xfer) (from_ to_ : Nat) : State :=
  (List.range (to_ - from_)).foldl (fun s i =>
    if (s.frt f).faultDrain then s else s.movePiece f cell x (from_ + i)) s

/-! ## Tagged transfers (07 R180, R181) -/

/-- A page tag. -/
structure Tag where
  seq : Nat
  layer : Nat
  pos : Nat
  byte : Nat
  deriving DecidableEq, Repr

/-- The page tag that 32 bytes spell. -/
def tagOf (b : Bytes) : Tag := ⟨Bytes.num b 0 2 % 4096, Bytes.num b 2 1, Bytes.num b 4 4, Bytes.num b 8 4⟩

/-- A group's tag allows an access of a sequence's VEF (07 R170). -/
def State.groupOk (s : State) (p g v : Nat) (write : Bool) : Bool :=
  match (s.pool p).tag g with
  | .free => false
  | .priv w => w == v
  | .shared d => !write && d == s.rd VEF_CTL.DOMAIN v

/-- The pool offset of a tagged access, with its sequence and block; none for a window violation of R181: among others a
sequence without a record in the step's manifest. L is the committed length as it stands. -/
def State.resolveTag (s : State) (f : Nat) (j : Job) (p : Prog) (side : Side) (write : Bool) (t : Tag) :
    Option (Nat × Nat × Nat) :=
  match s.poolOf f with
  | none => none
  | some q =>
    match j.steps.find? (fun r => r.seq == t.seq), (s.pool q).seq t.seq with
    | some r, some x =>
      let n := r.tokens
      let page := s.poolPage q
      let inside := (List.range p.pieces).all (fun i =>
        let o : Int := t.byte + p.pieceOff side i
        decide (0 ≤ o) && decide (o + 32 ≤ page))
      match x.pages[t.pos / 256]? with
      | none => none
      | some e =>
        if n ≠ 0 ∧ t.layer < s.poolG q ∧ inside ∧ (!write || decide (x.len ≤ t.pos)) ∧ t.pos < x.len + n ∧
           s.groupOk q e.group x.vef write then
          some (s.pageOff q + (e.group * s.poolG q + t.layer) * page + t.byte, t.seq, t.pos / 256)
        else none
    | _, _ => none

/-! ## MOVER_START, the events, page-table misses -/

/-- An idle transfer. -/
def Xfer.idle : Xfer := ⟨false, 0, 0, 0, 0, none, none, []⟩

/-- A transfer of a cell. -/
def CellSt.xfer (c : CellSt) (n : Nat) : Xfer := Sparse.look Xfer.idle c.xfers n
def CellSt.setXfer (c : CellSt) (n : Nat) (x : Xfer) : CellSt := { c with xfers := Sparse.put Xfer.idle c.xfers n x }

/-- The rest of a transfer moved: its events are set, and its completion is a progress event of the field (02 R43,
R55). -/
def State.finishXfer (s : State) (f : Fin 17) (cell : Nat) (x : Fin 8) (t : Xfer) : State :=
  let u := s.movePieces f cell t t.moved t.total
  let c := u.cell cell
  if (c.xfer x).active then
    let c := { c.setXfer x { t with active := false, moved := t.total } with half := setBit c.half x, full := setBit c.full x }
    (u.setCell cell c).progress f
  else u

/-- What a side's page tag resolves to, where the side is the VALLEY window: its pool offset, and the page-table entry it
waits for. The tag is read from the pocket. -/
def State.sidePage (s : State) (f : Nat) (cell : Nat) (j : Option Job) (p : Prog) (side : Side) (write : Bool) :
    Except Bad (State × Option Nat × List (Nat × Nat)) :=
  if s.valleySide f side then
    match s.readPocket cell (side.off % 2 ^ 17) 32 with
    | .error e => .error e
    | .ok (u, b) => match j.bind (fun j => u.resolveTag f j p side write (tagOf b)) with
      | none => .ok (u, none, [])
      | some (a, q, k) =>
        .ok (u, some a, if u.vly.ptCache.any (fun e => e.field == f && e.cluster == cell / 16 && e.seq == q && e.block == k) then [] else [(q, k)])
  else .ok (s, none, [])

/-- What a repetition of MoverStart does. -/
def moverStartBody (cell : Nat) : Body := fun s m _ _ =>
  let n := bits m 64 4
  let x : Fin 8 := ⟨bits m 68 3 % 8, Nat.mod_lt _ (by decide)⟩
  match s.storeBad cell (0x3540 + n * 64) 64, s.liveField cell with
  | some w, _ => .error (.parity w)
  | none, none => .ok (s, none)
  | none, some f =>
    let old := (s.cell cell).xfer x
    let s := if old.active then s.finishXfer f cell x { old with miss := [] } else s
    if (s.frt f).faultDrain then .ok (s, none)
    else
      let p := s.prog cell n
      let j := s.jobOf (s.cell cell).job
      match s.sidePage f cell j p p.src false with
      | .error e => .error e
      | .ok (s, a, miss) => match s.sidePage f cell j p p.dst true with
        | .error e => .error e
        | .ok (s, b, more) =>
          let c := s.cell cell
          .ok (s.setCell cell (c.setXfer x ⟨true, n, 0, p.pieces, c.job, a, b, (miss ++ more).eraseDups⟩), none)

/-- START: program [67:64] as transfer [70:68]. It stalls on nothing of its own (02 R39). DESIGN CHOICE (log entry 112):
where a transfer of that number is still in progress, its remaining pieces are moved first. -/
def execMoverStart (cell : Fin 2368) (s : State) : Ans :=
  .next (s.runWord cell 4 0 once noOpds onward (moverStartBody cell))

/-- The page-table entry of a block of a field's sequence (07 R172). -/
def State.pageEntry (s : State) (f q b : Nat) : Option PageEntry :=
  match s.poolOf f with
  | none => none
  | some p => ((s.pool p).seq q).bind (fun x => x.pages[b]?)

/-- An entry read into the cache of a cluster: into one of its 8,192 places, whose entry it replaces. Which place the manual
leaves open (07 R172). -/
def State.cacheEntry (s : State) (f k q b : Nat) : State :=
  let slot := (Config.freeWord s.freeCount 0).toNat % 8192
  let word := match s.pageEntry f q b with
    | some e => e.group + 2 ^ 31 * b2n e.shared
    | none => 0
  let kept := s.vly.ptCache.filter (fun e => !(e.cluster == k && e.slot == slot))
  let s := { s with vly := { s.vly with ptCache := kept ++ [PtEntry.mk f k slot q b] } }
  s.drawn.sramStore k (0x78000 + slot * 4) (leBytes 4 word) []

/-- PAGE_TABLE_MISS_FILL: an entry that a transfer waits for is read into the cache, and the transfer proceeds once it waits
for none. -/
def execPageTableMissFill (cell : Fin 2368) (x : Fin 8) (s : State) : Ans :=
  let c := s.cell cell
  let t := c.xfer x
  match t.miss, s.fieldOfCell cell with
  | (q, b) :: rest, some f =>
    .next ((s.setCell cell (c.setXfer x { t with miss := rest })).cacheEntry f (cell.val / 16) q b)
  | _, _ => .next s

/-- A transfer of a cell that can move. -/
def State.movable (s : State) (cell : Nat) (n : Nat) : Option (Fin 17 × Xfer) :=
  match s.liveField cell with
  | none => none
  | some f =>
    let t := (s.cell cell).xfer n
    if t.active && t.miss.isEmpty then some (f, t) else none

/-- MOVER_HALF_EVENT: the first half of a transfer's bytes is written. -/
def execMoverHalfEvent (cell : Fin 2368) (x : Fin 8) (s : State) : Ans :=
  match s.movable cell x with
  | none => .next s
  | some (f, t) =>
    let half := (t.total + 1) / 2
    if t.moved ≥ half then .next s
    else
      let u := s.movePieces f cell t t.moved half
      let c := u.cell cell
      if (c.xfer x).active then .next (u.setCell cell { c.setXfer x { t with moved := half } with half := setBit c.half x })
      else .next u

/-- MOVER_FULL_EVENT: all of a transfer's bytes are written; its completion is a progress event of the field. -/
def execMoverFullEvent (cell : Fin 2368) (x : Fin 8) (s : State) : Ans :=
  match s.movable cell x with
  | none => .next s
  | some (f, t) => .next (s.finishXfer f cell x t)

/-! ## Streams (02 R40–R42, 04 R92) -/

/-- A route entry (04 R92). -/
structure Route where
  kind : Nat
  out : Nat
  port : Nat
  add : Bool
  addPort : Nat
  deriving DecidableEq, Repr

/-- Route entry e of a cell. -/
def State.route (s : State) (cell e : Nat) : Route :=
  let v := s.stitchNum cell (0x3000 + e * 16) 4
  ⟨bits v 0 2, bits v 2 5, bits v 8 3, bit v 11, bits v 12 3⟩

/-- Flits of an incoming endpoint or an originating port. -/
def CellSt.held (c : CellSt) (e : Nat) : List Flit := Sparse.look [] c.inBuf e
def CellSt.setHeld (c : CellSt) (e : Nat) (l : List Flit) : CellSt := { c with inBuf := Sparse.put [] c.inBuf e l }

/-- Flits that a local port can hold: as many as one repetition may consume. -/
def portRoom : Nat := 16

/-- Two flits added as eight FP32 values. -/
def Flit.plus (a b : Flit) : Flit :=
  ⟨((List.range 8).map (fun i => fpAdd (bits a.data (32 * i) 32) (bits b.data (32 * i) 32) * 2 ^ (32 * i))).foldl (· + ·) 0,
   a.poison || b.poison⟩

/-- A flit forwarded over an outgoing endpoint: a credit taken, the flit in the neighbour's channel buffer. -/
def State.forwardFlit (s : State) (cell out : Nat) (x : Flit) (nb : Nat) : State :=
  let c := s.cell cell
  let s := s.setCell cell { c with used := Sparse.put 0 c.used out (Sparse.look 0 c.used out + 1) }
  let d := s.cell nb
  let e := (out / 8 + 2) % 4 * 8 + out % 8
  s.setCell nb (d.setHeld e (d.held e ++ [x]))

/-- A flit delivered to a local port. -/
def State.deliverFlit (s : State) (cell port : Nat) (x : Flit) : State :=
  let c := s.cell cell
  s.setCell cell { c with port := Sparse.put [] c.port port (Sparse.look [] c.port port ++ [x]) }

/-- The flit at the head of an entry leaves it. -/
def State.popFlit (s : State) (cell e : Nat) : State := s.setCell cell ((s.cell cell).setHeld e (((s.cell cell).held e).drop 1))

/-- STREAM_FLIT: the flit at the head of an incoming endpoint or an originating port is routed, where every destination
has a credit and an addend it needs is there. A flit routed onto a fenced link is dropped, and the field faults. -/
def execStreamFlit (cell : Fin 2368) (entry : Fin 40) (s : State) : Ans :=
  match s.liveField cell, (s.cell cell).held entry with
  | some f, x :: _ =>
    match s.storeBad cell (0x3000 + entry.val * 16) 16 with
    | some w => .next (s.raise f cell (.parity w))
    | none =>
      let r := s.route cell entry
      let c := s.cell cell
      let forwards := r.kind == 1 || r.kind == 3
      let delivers := (r.kind == 2 || r.kind == 3) && decide (entry.val < 32)
      let addend := if forwards && r.add then (c.held (32 + r.addPort)).head? else none
      let nb := match neighbour cell (r.out / 8) with
        | some n => if s.linkOpen f cell n then some n else none
        | none => none
      let roomF := !forwards || nb.isNone || decide (Sparse.look 0 c.used r.out < 4)
      let roomD := !delivers || decide ((Sparse.look [] c.port r.port).length < portRoom)
      if r.kind = 0 ∨ (entry.val ≥ 32 ∧ r.kind ≠ 1) ∨ !roomF ∨ !roomD ∨ (forwards && r.add && addend.isNone) then .next s
      else
        let s := s.popFlit cell entry
        let s := if delivers then s.deliverFlit cell r.port x else s
        let y := match addend with
          | some a => x.plus a
          | none => x
        let s := if addend.isSome then s.popFlit cell (32 + r.addPort) else s
        if !forwards then .next s
        else match nb with
          | some n => .next (s.forwardFlit cell r.out y n)
          | none => .next (s.fldFault f errFence cell 0)
  | _, _ => .next s

/-- STREAM_CREDIT: a credit that the receiver has returned reaches the sending channel. -/
def execStreamCredit (cell : Fin 2368) (entry : Fin 32) (s : State) : Ans :=
  let c := s.cell cell
  let used := Sparse.look 0 c.used entry
  match neighbour cell (entry.val / 8) with
  | none => .next s
  | some n =>
    let e := (entry.val / 8 + 2) % 4 * 8 + entry.val % 8
    if used > ((s.cell n).held e).length then .next (s.setCell cell { c with used := Sparse.put 0 c.used entry (used - 1) })
    else .next s

end Sys2Proof.Machine
end

