-- ==== Sys2Proof/Machine/Vector.lean ====
section
/-! DEFINITION. The microwords of the VECTOR class (02 R33, 03 R66–R69, 04 R102, 07 R182). -/

namespace Sys2Proof.Machine

/-! ## Lanes -/

/-- Seeds of a draw are distinct and none is zero, for lanes below `n` (03 R69). -/
def seedsGood (draw : Nat) : Nat → Bool
  | 0 => true
  | n + 1 =>
    let x := Config.freeWord draw n
    x != 0 && (List.range n).all (fun i => Config.freeWord draw i != x) && seedsGood draw n

/-- Seed of lane `n` of a draw, over the lanes of all cells: distinct non-zero values from the entropy source. A draw that
has equal or zero values is none that the hardware makes; lane numbers stand for it (log entry 84). -/
def seedOf (draw n : Nat) : Nat := if seedsGood draw 75776 then (Config.freeWord draw n).toNat else n + 1

/-- The state of a lane's generator: the seed drawn at the last admission, until it first advances (03 R69). -/
def CellSt.lfsrOf (c : CellSt) (cell lane : Nat) : Nat :=
  match Sparse.look 0 c.lfsr lane with
  | 0 => seedOf c.seed (cell * 32 + lane)
  | x => x

/-- The lanes of a register converted: each with its own chance where SR = 1; the generators that were used advance by 16
steps. Which 16 bits of a generator a conversion takes the manual does not say: they are free (03 R68). -/
def CellSt.convert (c : CellSt) (cell : Nat) (f : Nat) (sat sr : Bool) (xs : List Num) : CellSt × List Conv :=
  if sr then
    let now := (List.range xs.length).map (c.lfsrOf cell)
    let next := now.map lfsr16
    let cs := xs.zipIdx.map (fun x => encodeNum f ⟨sat, some (Config.laneBits (BitVec.ofNat 32 (now.getD x.2 1))).toNat⟩ x.1)
    ({ c with lfsr := next.zipIdx.foldl (fun l x => Sparse.put 0 l x.2 x.1) c.lfsr }, cs)
  else (c, xs.map (encodeNum f ⟨sat, none⟩))

/-- The 32 lanes of a source as numbers. -/
def CellSt.nums (c : CellSt) (r f : Nat) : List Num := (c.lanes r).map (decodeNum f)

/-- Lane results converted to FMT_OUT into DST, with the dropped NaNs counted. DESIGN CHOICE: MX = 1 and CHECK = 1 on a vector
microword that R71 lets pass change nothing; R70 gives them a meaning for the matrix unit's operands and drains. -/
def State.vecOut (s : State) (cell : Nat) (m : Micro) (xs : List Num) : State :=
  let r := (s.cell cell).convert cell m.fmtOut m.sat m.sr xs
  (s.setCell cell (r.1.setLanes m.dst (r.2.map (·.bits)))).dropsOf cell r.2

/-- An operation of two sources on every lane. -/
def lanes2 (cell : Nat) (g : Num → Num → Num) : Body := fun s m _ _ =>
  let c := s.cell cell
  .ok (s.vecOut cell m (List.zipWith g (c.nums m.src1 m.fmtA) (c.nums m.src2 m.fmtB)), none)

/-- A value that the manual leaves open, as a lane of a format. -/
def State.freeLane (s : State) (f i : Nat) : Nat := (Config.freeWord s.freeCount i).toNat % 2 ^ fmtBits f

/-- A result that the manual leaves open; a NaN among its values is the canonical one of the format (03 R64). -/
def State.openLane (s : State) (f i : Nat) : Nat :=
  let v := s.freeLane f i
  if decodeNum f v = .nan then (encodeNum f rne .nan).bits else v

/-! ## LOAD, STORE, LDC -/

/-- What a repetition of VectorLoad does. -/
def vectorLoadBody (cell : Nat) : Body := fun s m rep _ => do
  let (s, bs) ← s.readPocket cell (s.opdAddr cell m.opB rep) 128
  .ok (s.setCell cell ((s.cell cell).setLanes m.dst ((List.range 32).map (fun i => Bytes.num bs (i * 4) 4))), none)

/-- LOAD: 128 bytes of the pocket at OPB into DST. -/
def execVectorLoad (cell : Fin 2368) (s : State) : Ans :=
  .next (s.runWord cell 2 0 Micro.loop (fun m => [m.opB]) onward (vectorLoadBody cell))

/-- What a repetition of VectorStore does. -/
def vectorStoreBody (cell : Nat) : Body := fun s m rep _ => do
  let s ← s.writePocket cell (s.opdAddr cell m.opB rep) (((s.cell cell).lanes m.src1).flatMap (leBytes 4))
  .ok (s, none)

/-- STORE: SRC1 to the pocket at OPB. -/
def execVectorStore (cell : Fin 2368) (s : State) : Ans :=
  .next (s.runWord cell 2 1 Micro.loop (fun m => [m.opB]) onward (vectorStoreBody cell))

/-- What a repetition of VectorLdc does. -/
def vectorLdcBody (cell : Nat) : Body := fun s m _ _ =>
  let o := 0x3E00 + bits m 32 16
  match s.storeBad cell o 128 with
  | some w => .error (.parity w)
  | none =>
    let lane (i : Nat) : Nat := if o + i * 4 + 4 ≤ 0x4000 then s.stitchNum cell (o + i * 4) 4 else 0
    .ok (s.setCell cell ((s.cell cell).setLanes m.dst ((List.range 32).map lane)), none)

/-- LDC: 128 bytes of the cell constants at the offset in [47:32] into DST. -/
def execVectorLdc (cell : Fin 2368) (s : State) : Ans :=
  .next (s.runWord cell 2 2 Micro.loop noOpds onward (vectorLdcBody cell))

/-! ## Arithmetic -/

/-- ADD. -/
def execVectorAdd (cell : Fin 2368) (s : State) : Ans :=
  .next (s.runWord cell 2 3 Micro.loop noOpds onward (lanes2 cell Num.add))

/-- MUL. -/
def execVectorMul (cell : Fin 2368) (s : State) : Ans :=
  .next (s.runWord cell 2 4 Micro.loop noOpds onward (lanes2 cell Num.mul))

/-- What a repetition of VectorFma does. -/
def vectorFmaBody (cell : Nat) : Body := fun s m _ _ =>
  let c := s.cell cell
  let ps := List.zipWith Num.mul (c.nums m.src1 m.fmtA) (c.nums m.src2 m.fmtB)
  .ok (s.vecOut cell m (List.zipWith Num.add ps (c.nums m.src3 m.fmtOut)), none)

/-- FMA: SRC1 × SRC2 + SRC3, rounded once; SRC3 is in FMT_OUT. -/
def execVectorFma (cell : Fin 2368) (s : State) : Ans :=
  .next (s.runWord cell 2 5 Micro.loop noOpds onward (vectorFmaBody cell))

/-- MAX or MIN of two sources; where one is a NaN the manual states no result and the lane is free. -/
def extremum (cell : Nat) (g : Num → Num → Num) : Body := fun s m _ _ =>
  let c := s.cell cell
  let xs := c.nums m.src1 m.fmtA
  let ys := c.nums m.src2 m.fmtB
  let isNan (x y : Num) : Bool := x == .nan || y == .nan
  let t := s.vecOut cell m (List.zipWith (fun x y => if isNan x y then .fin false 0 0 else g x y) xs ys)
  if (List.zipWith isNan xs ys).any id then
    let d := t.cell cell
    let ls := (List.range 32).map (fun i =>
      if isNan (xs.getD i .nan) (ys.getD i .nan) then s.openLane m.fmtOut i else d.lane m.dst i)
    .ok (t.drawn.setCell cell (d.setLanes m.dst ls), none)
  else .ok (t, none)

/-- MAX. -/
def execVectorMax (cell : Fin 2368) (s : State) : Ans :=
  .next (s.runWord cell 2 6 Micro.loop noOpds onward (extremum cell Num.max2))

/-- MIN. -/
def execVectorMin (cell : Fin 2368) (s : State) : Ans :=
  .next (s.runWord cell 2 7 Micro.loop noOpds onward (extremum cell Num.min2))

/-- What a repetition of VectorCvt does. -/
def vectorCvtBody (cell : Nat) : Body := fun s m _ _ =>
  .ok (s.vecOut cell m ((s.cell cell).nums m.src1 m.fmtA), none)

/-- CVT: SRC1 from FMT_A to FMT_OUT (03 R67, R68). -/
def execVectorCvt (cell : Fin 2368) (s : State) : Ans :=
  .next (s.runWord cell 2 8 Micro.loop noOpds onward (vectorCvtBody cell))

/-- What a repetition of VectorSfu does. -/
def vectorSfuBody (cell : Nat) : Body := fun s m _ _ =>
  let g (x : Num) : Num := decodeNum fFp32 (sfuOf (bits m 72 4) (fp32 x))
  .ok (s.vecOut cell m (((s.cell cell).nums m.src1 m.fmtA).map g), none)

/-- SFU: exp2, log2, reciprocal, reciprocal square root, tanh or sigmoid in FP32, within the manual's bounds; where it
states no result (log2 of 0), any value (02 R33). -/
def execVectorSfu (cell : Fin 2368) (s : State) : Ans :=
  .next (s.runWord cell 2 9 Micro.loop noOpds onward (vectorSfuBody cell))

/-- A reduction of 32 lanes: none where the manual states no result. -/
def reduceOf (kind f : Nat) (xs : List Num) : Option Num :=
  if kind = 0 then
    if isInt f then some (xs.foldl Num.add (.fin false 0 0))
    else some (decodeNum fFp32 (Config.laneSum (xs.map (fun x => BitVec.ofNat 32 (fp32 x)))).toNat)
  else if xs.any (· == .nan) then none
  else match xs with
    | [] => none
    | x :: r => some (r.foldl (if kind = 1 then Num.max2 else Num.min2) x)

/-- What a repetition of VectorReduce does. -/
def vectorReduceBody (cell : Nat) : Body := fun s m _ _ =>
  let c := s.cell cell
  let rest (d : CellSt) (x : Nat) : CellSt :=
    d.setLanes m.dst (x :: (List.range 31).map (fun i => s.freeLane m.fmtOut (i + 1)))
  match reduceOf (bits m 72 4) m.fmtA (c.nums m.src1 m.fmtA) with
  | none => .ok (s.drawn.setCell cell (rest c (s.openLane m.fmtOut 0)), none)
  | some x =>
    let r := c.convert cell m.fmtOut m.sat m.sr [x]
    .ok ((s.drawn.setCell cell (rest r.1 ((r.2.map (·.bits)).headD 0))).dropsOf cell r.2, none)

/-- REDUCE: SRC1's lanes to lane 0 of DST; what the other lanes hold is left open. -/
def execVectorReduce (cell : Fin 2368) (s : State) : Ans :=
  .next (s.runWord cell 2 10 Micro.loop noOpds onward (vectorReduceBody cell))

/-! ## ROWSTAT (07 R182) -/

/-- 2^x in FP32. -/
def exp2 (x : Nat) : Nat := sfuOf 0 x

/-- A difference in FP32. -/
def fpSub (a b : Nat) : Nat := fp32 ((decodeNum fFp32 a).add (decodeNum fFp32 b).neg)

/-- The update of a row-statistic slot (m, l) by a block's maximum and sum: the slot, and the factors of lanes 0 and 1. -/
def rowstat (m l beta sigma : Nat) : (Nat × Nat) × Nat × Nat :=
  if beta = fpNegInf then ((m, l), fpOne, 0)
  else
    let m1 := fp32 (Num.max2 (decodeNum fFp32 m) (decodeNum fFp32 beta))
    let f := if m = fpNegInf then 0 else exp2 (fpSub m m1)
    let g := exp2 (fpSub beta m1)
    ((m1, fpAdd (fpMul l f) (fpMul sigma g)), f, g)

/-- What a repetition of VectorRowstat does. -/
def vectorRowstatBody (cell : Nat) : Body := fun s m _ _ =>
  let c := s.cell cell
  let k := bits m 64 8 % 128
  let v := Sparse.look (fpNegInf, 0) c.rowstat k
  let r := rowstat v.1 v.2 (c.lane m.src1 0) (c.lane m.src1 1)
  let c := { c with rowstat := Sparse.put (fpNegInf, 0) c.rowstat k r.1 }
  .ok (s.setCell cell (c.setLanes m.dst (r.2.1 :: r.2.2 :: List.replicate 30 0)), none)

/-- ROWSTAT: slot [71:64] updated from lanes 0 and 1 of SRC1, its factors in DST. -/
def execVectorRowstat (cell : Fin 2368) (s : State) : Ans :=
  .next (s.runWord cell 2 11 Micro.loop noOpds onward (vectorRowstatBody cell))

/-! ## QUANT_MX (03 R66) -/

/-- Exponent of the largest finite value of an MX element format. -/
def emaxOf (f : Nat) : Int := if f = fE4m3 then 8 else if f = fE5m2 then 15 else if f = fE3m2 then 4 else if f = fE2m1 then 2 else 0

/-- The scale exponent of a block of finite values. -/
def blockScale (f : Nat) (xs : List Num) : Int :=
  let m := xs.foldl (fun m x => Num.max2 m x.abs) (.fin false 0 0)
  match m with
  | .fin _ 0 _ => -127
  | _ => min 127 (max (-127) (m.log2 - emaxOf f))

/-- A block of 32 values quantised: its elements' inputs, exactly scaled, and its scale byte; none for a NaN block. -/
def quantBlock (f : Nat) (xs : List Num) : Option (List Num × Nat) :=
  if xs.any (fun x => !x.finite) then none
  else
    let x := blockScale f xs
    some (xs.map (fun v => Num.scale ((if f = fInt8 then 6 else 0) - x) v), (x + 127).toNat)

/-- What a repetition of VectorQuantMx does. -/
def vectorQuantMxBody (cell : Nat) : Body := fun s m rep _ => do
  let c := s.cell cell
  let f := m.fmtOut
  let o := s.opdAddr cell m.opB rep
  let so := s.scaleAddr cell m.opB (s.opdSteps cell m.opB rep) 0
  if !mxFmt f then
    let s1 ← s.writePocket cell o ((List.range (packedBytes f 32)).map (Config.undefinedByte s.freeCount))
    let s2 ← s1.writePocket cell so [Config.undefinedByte s.freeCount 200]
    .ok (s2.drawn, none)
  else
    let r := match quantBlock f (c.nums m.src1 fFp32) with
      | none => (c, List.replicate 32 0, 0xFF, true)
      | some (vs, sc) =>
        let k := c.convert cell f true m.sr vs
        (k.1, k.2.map Conv.bits, sc, false)
    let s := s.setCell cell r.1
    let s := match s.fieldOfCell cell with
      | some g => if r.2.2.2 then s.noteDrops g 1 else s
      | none => s
    let s ← s.writePocket cell o (packElems f r.2.1)
    let s ← s.writePocket cell so [BitVec.ofNat 8 r.2.2.1]
    .ok (s, none)

/-- QUANT_MX: SRC1 as an MX block to the pocket at OPB, its scale byte through OPB's generator. A target that is no MX
format has no stated result: the block and its scale are free. DESIGN CHOICE: FMT_A is ignored, since R66 quantises FP32
values. -/
def execVectorQuantMx (cell : Fin 2368) (s : State) : Ans :=
  .next (s.runWord cell 2 12 Micro.loop (fun m => [m.opB]) onward (vectorQuantMxBody cell))

/-! ## CMP -/

/-- What a repetition of VectorCmp does. -/
def vectorCmpBody (cell : Nat) : Body := fun s m _ _ =>
  .ok (s.drawn.setCell cell ((s.cell cell).setLanes m.dst ((List.range 32).map (s.freeLane fInt32))), none)

/-- CMP: as ADD with a predicate result. The manual names neither the comparison nor the form of the predicate, so what
DST takes is free. -/
def execVectorCmp (cell : Fin 2368) (s : State) : Ans :=
  .next (s.runWord cell 2 13 Micro.loop noOpds onward (vectorCmpBody cell))

end Sys2Proof.Machine
end

