-- ==== Sys2Proof/Machine/Dispatch.lean ====
section
/-! DEFINITION. The one place where a command meets its meaning: one arm per row of the opcode table. -/

namespace Sys2Proof.Machine

def exec (i : Instr) (s : State) : Host.Outcome State Fault Refusal :=
  match i with
  | .modeRequestParkWarm src => Sys2Proof.Machine.execModeRequestParkWarm src s
  | .modeRequestParkCold src => Sys2Proof.Machine.execModeRequestParkCold src s
  | .modeRequestDepot src => Sys2Proof.Machine.execModeRequestDepot src s
  | .bootComplete => Sys2Proof.Machine.execBootComplete s
  | .parkWarmTimerExpiry => Sys2Proof.Machine.execParkWarmTimerExpiry s
  | .alwaysOnTimerExpiry => Sys2Proof.Machine.execAlwaysOnTimerExpiry s
  | .canWake => Sys2Proof.Machine.execCanWake s
  | .ethWake => Sys2Proof.Machine.execEthWake s
  | .tenantFreezeKillDeadline => Sys2Proof.Machine.execTenantFreezeKillDeadline s
  | .backstop => Sys2Proof.Machine.execBackstop s
  | .pocketWindowWrite src addr data => Sys2Proof.Machine.execPocketWindowWrite src addr data s
  | .stitchScrub cell bad => Sys2Proof.Machine.execStitchScrub cell bad s
  | .controlNop cell => Sys2Proof.Machine.execControlNop cell s
  | .controlJump cell => Sys2Proof.Machine.execControlJump cell s
  | .controlLoopset cell => Sys2Proof.Machine.execControlLoopset cell s
  | .controlLoop cell => Sys2Proof.Machine.execControlLoop cell s
  | .controlEnd cell => Sys2Proof.Machine.execControlEnd cell s
  | .matrixMma cell => Sys2Proof.Machine.execMatrixMma cell s
  | .matrixMmaNew cell => Sys2Proof.Machine.execMatrixMmaNew cell s
  | .matrixDrain cell => Sys2Proof.Machine.execMatrixDrain cell s
  | .matrixChkcmp cell => Sys2Proof.Machine.execMatrixChkcmp cell s
  | .vectorLoad cell => Sys2Proof.Machine.execVectorLoad cell s
  | .vectorStore cell => Sys2Proof.Machine.execVectorStore cell s
  | .vectorLdc cell => Sys2Proof.Machine.execVectorLdc cell s
  | .vectorAdd cell => Sys2Proof.Machine.execVectorAdd cell s
  | .vectorMul cell => Sys2Proof.Machine.execVectorMul cell s
  | .vectorFma cell => Sys2Proof.Machine.execVectorFma cell s
  | .vectorMax cell => Sys2Proof.Machine.execVectorMax cell s
  | .vectorMin cell => Sys2Proof.Machine.execVectorMin cell s
  | .vectorCvt cell => Sys2Proof.Machine.execVectorCvt cell s
  | .vectorSfu cell => Sys2Proof.Machine.execVectorSfu cell s
  | .vectorReduce cell => Sys2Proof.Machine.execVectorReduce cell s
  | .vectorRowstat cell => Sys2Proof.Machine.execVectorRowstat cell s
  | .vectorQuantMx cell => Sys2Proof.Machine.execVectorQuantMx cell s
  | .vectorCmp cell => Sys2Proof.Machine.execVectorCmp cell s
  | .streamSend cell => Sys2Proof.Machine.execStreamSend cell s
  | .streamRecv cell => Sys2Proof.Machine.execStreamRecv cell s
  | .moverStart cell => Sys2Proof.Machine.execMoverStart cell s
  | .signalToken cell => Sys2Proof.Machine.execSignalToken cell s
  | .signalWaittok cell => Sys2Proof.Machine.execSignalWaittok cell s
  | .streamFlit cell entry => Sys2Proof.Machine.execStreamFlit cell entry s
  | .streamCredit cell entry => Sys2Proof.Machine.execStreamCredit cell entry s
  | .controlPacket cell kind => Sys2Proof.Machine.execControlPacket cell kind s
  | .moverHalfEvent cell x => Sys2Proof.Machine.execMoverHalfEvent cell x s
  | .moverFullEvent cell x => Sys2Proof.Machine.execMoverFullEvent cell x s
  | .pageTableMissFill cell x => Sys2Proof.Machine.execPageTableMissFill cell x s
  | .clusterMoverTransferDone field => Sys2Proof.Machine.execClusterMoverTransferDone field s
  | .cmqRecordAppend field => Sys2Proof.Machine.execCmqRecordAppend field s
  | .stallWatchdogExpiry field => Sys2Proof.Machine.execStallWatchdogExpiry field s
  | .containedFaultDrainDone field => Sys2Proof.Machine.execContainedFaultDrainDone field s
  | .clearingDone field => Sys2Proof.Machine.execClearingDone field s
  | .killDone res => Sys2Proof.Machine.execKillDone res s
  | .fieldReinit src field => Sys2Proof.Machine.execFieldReinit src field s
  | .fieldReinitDone field => Sys2Proof.Machine.execFieldReinitDone field s
  | .fieldLoad => Sys2Proof.Machine.execFieldLoad s
  | .stitchPhaseStart => Sys2Proof.Machine.execStitchPhaseStart s
  | .digestWaitResolve => Sys2Proof.Machine.execDigestWaitResolve s
  | .fieldLoadDone field => Sys2Proof.Machine.execFieldLoadDone field s
  | .patrolScrub word found => Sys2Proof.Machine.execPatrolScrub word found s
  | .keyGenerate src slot => Sys2Proof.Machine.execKeyGenerate src slot s
  | .keyZeroise src slot => Sys2Proof.Machine.execKeyZeroise src slot s
  | .keyCmdDone => Sys2Proof.Machine.execKeyCmdDone s
  | .copy engine => Sys2Proof.Machine.execCopy engine s
  | .fill engine => Sys2Proof.Machine.execFill engine s
  | .checksum engine => Sys2Proof.Machine.execChecksum engine s
  | .dmaChannelStart engine => Sys2Proof.Machine.execDmaChannelStart engine s
  | .dmaChannelDone chan remote => Sys2Proof.Machine.execDmaChannelDone chan remote s
  | .dmaChannelDisable src chan => Sys2Proof.Machine.execDmaChannelDisable src chan s
  | .doorbell src vef ring value => Sys2Proof.Machine.execDoorbell src vef ring value s
  | .descriptorFetch vef => Sys2Proof.Machine.execDescriptorFetch vef s
  | .ringEnable src vef ring => Sys2Proof.Machine.execRingEnable src vef ring s
  | .sqDisable src vef ring => Sys2Proof.Machine.execSqDisable src vef ring s
  | .ringConfigWrite src addr bytes value => Sys2Proof.Machine.execRingConfigWrite src addr bytes value s
  | .nop res cls => Sys2Proof.Machine.execNop res cls s
  | .fence res cls => Sys2Proof.Machine.execFence res cls s
  | .fenceRelease vef ring => Sys2Proof.Machine.execFenceRelease vef ring s
  | .infer field => Sys2Proof.Machine.execInfer field s
  | .commandAdmit res => Sys2Proof.Machine.execCommandAdmit res s
  | .preemptKill res => Sys2Proof.Machine.execPreemptKill res s
  | .commandCommit res => Sys2Proof.Machine.execCommandCommit res s
  | .fieldRelease field => Sys2Proof.Machine.execFieldRelease field s
  | .fieldDetach field vef => Sys2Proof.Machine.execFieldDetach field vef s
  | .fieldCheckpoint field => Sys2Proof.Machine.execFieldCheckpoint field s
  | .accountingWindowEnd vef => Sys2Proof.Machine.execAccountingWindowEnd vef s
  | .accountingRecordDeferred vef => Sys2Proof.Machine.execAccountingRecordDeferred vef s
  | .energyRecalibration cell engine byte static => Sys2Proof.Machine.execEnergyRecalibration cell engine byte static s
  | .seqAdmit field => Sys2Proof.Machine.execSeqAdmit field s
  | .seqStep field => Sys2Proof.Machine.execSeqStep field s
  | .seqRetire field => Sys2Proof.Machine.execSeqRetire field s
  | .prefixPin field => Sys2Proof.Machine.execPrefixPin field s
  | .prefixUnpin field => Sys2Proof.Machine.execPrefixUnpin field s
  | .poolValid src pool => Sys2Proof.Machine.execPoolValid src pool s
  | .poolReady pool => Sys2Proof.Machine.execPoolReady pool s
  | .poolInvalidate src pool => Sys2Proof.Machine.execPoolInvalidate src pool s
  | .cameraPacket source vc packet err => Sys2Proof.Machine.execCameraPacket source vc packet err s
  | .lidarPacket frame => Sys2Proof.Machine.execLidarPacket frame s
  | .imuDrdy port => Sys2Proof.Machine.execImuDrdy port s
  | .imuTransactionDone port data => Sys2Proof.Machine.execImuTransactionDone port data s
  | .sampleComplete source => Sys2Proof.Machine.execSampleComplete source s
  | .frameSyncStart source => Sys2Proof.Machine.execFrameSyncStart source s
  | .frameSyncEnd source => Sys2Proof.Machine.execFrameSyncEnd source s
  | .instantRelease => Sys2Proof.Machine.execInstantRelease s
  | .instantWaitLimit => Sys2Proof.Machine.execInstantWaitLimit s
  | .resyncRequest source => Sys2Proof.Machine.execResyncRequest source s
  | .sourceEnable src source => Sys2Proof.Machine.execSourceEnable src source s
  | .sourceDisable src source => Sys2Proof.Machine.execSourceDisable src source s
  | .fusRunStart src => Sys2Proof.Machine.execFusRunStart src s
  | .fusRunStop src => Sys2Proof.Machine.execFusRunStop src s
  | .frame field => Sys2Proof.Machine.execFrame field s
  | .project => Sys2Proof.Machine.execProject s
  | .render prims => Sys2Proof.Machine.execRender prims s
  | .present cls => Sys2Proof.Machine.execPresent cls s
  | .presentLatch head => Sys2Proof.Machine.execPresentLatch head s
  | .frameStart head late => Sys2Proof.Machine.execFrameStart head late s
  | .faultReport source field => Sys2Proof.Machine.execFaultReport source field s
  | .heartbeatTimeout => Sys2Proof.Machine.execHeartbeatTimeout s
  | .firmwareSilent => Sys2Proof.Machine.execFirmwareSilent s
  | .safeStateFrame => Sys2Proof.Machine.execSafeStateFrame s
  | .primaryDeadlineCheck => Sys2Proof.Machine.execPrimaryDeadlineCheck s
  | .statusFrame => Sys2Proof.Machine.execStatusFrame s
  | .sleepPermissionFrame port id ext data => Sys2Proof.Machine.execSleepPermissionFrame port id ext data s
  | .sleepPermissionExpiry => Sys2Proof.Machine.execSleepPermissionExpiry s
  | .fallbackDatagram => Sys2Proof.Machine.execFallbackDatagram s
  | .kick src => Sys2Proof.Machine.execKick src s
  | .watchdogWindowExpiry => Sys2Proof.Machine.execWatchdogWindowExpiry s
  | .statusWrite src value => Sys2Proof.Machine.execStatusWrite src value s
  | .goldenSlotOpen field ring => Sys2Proof.Machine.execGoldenSlotOpen field ring s
  | .goldenForcedKill field => Sys2Proof.Machine.execGoldenForcedKill field s
  | .goldenSkip field => Sys2Proof.Machine.execGoldenSkip field s
  | .goldenDeadline field => Sys2Proof.Machine.execGoldenDeadline field s
  | .goldenCompareDone field => Sys2Proof.Machine.execGoldenCompareDone field s
  | .bistSliceStart kind unit => Sys2Proof.Machine.execBistSliceStart kind unit s
  | .bistSliceDone fails => Sys2Proof.Machine.execBistSliceDone fails s
  | .bistIntervalDue kind unit => Sys2Proof.Machine.execBistIntervalDue kind unit s
  | .coverageLapse kind unit => Sys2Proof.Machine.execCoverageLapse kind unit s
  | .readmit src unit => Sys2Proof.Machine.execReadmit src unit s
  | .vefEnable src vef => Sys2Proof.Machine.execVefEnable src vef s
  | .vefDisable src vef => Sys2Proof.Machine.execVefDisable src vef s
  | .vefReset src vef => Sys2Proof.Machine.execVefReset src vef s
  | .vefResetDone vef => Sys2Proof.Machine.execVefResetDone vef s
  | .functionLevelReset vef => Sys2Proof.Machine.execFunctionLevelReset vef s
  | .vefFreeze engine => Sys2Proof.Machine.execVefFreeze engine s
  | .freezeKillExpiry vef => Sys2Proof.Machine.execFreezeKillExpiry vef s
  | .freezeComplete vef => Sys2Proof.Machine.execFreezeComplete vef s
  | .vefThaw engine => Sys2Proof.Machine.execVefThaw engine s
  | .depotAuthorisation datagram => Sys2Proof.Machine.execDepotAuthorisation datagram s
  | .depotAuthExpiry => Sys2Proof.Machine.execDepotAuthExpiry s
  | .attestationGo src => Sys2Proof.Machine.execAttestationGo src s
  | .attestationReportDone => Sys2Proof.Machine.execAttestationReportDone s
  | .attestationRequest datagram => Sys2Proof.Machine.execAttestationRequest datagram s
  | .passFlit port flit => Sys2Proof.Machine.execPassFlit port flit s
  | .passRetrainDone port ok => Sys2Proof.Machine.execPassRetrainDone port ok s
  | .linkTrainingDone port lanes => Sys2Proof.Machine.execLinkTrainingDone port lanes s
  | .signalLockLoss port => Sys2Proof.Machine.execSignalLockLoss port s
  | .helloTimeout port => Sys2Proof.Machine.execHelloTimeout port s
  | .helloSend port => Sys2Proof.Machine.execHelloSend port s
  | .passHello port hello => Sys2Proof.Machine.execPassHello port hello s
  | .lsaSend => Sys2Proof.Machine.execLsaSend s
  | .passLsa port lsa => Sys2Proof.Machine.execPassLsa port lsa s
  | .lsaAgeOut hash => Sys2Proof.Machine.execLsaAgeOut hash s
  | .routeCompute => Sys2Proof.Machine.execRouteCompute s
  | .passRoutes gen entries => Sys2Proof.Machine.execPassRoutes gen entries s
  | .routesAck member gen => Sys2Proof.Machine.execRoutesAck member gen s
  | .routesCommit gen => Sys2Proof.Machine.execRoutesCommit gen s
  | .passWrite port packet => Sys2Proof.Machine.execPassWrite port packet s
  | .passWriteAck port packet => Sys2Proof.Machine.execPassWriteAck port packet s
  | .passRead port packet => Sys2Proof.Machine.execPassRead port packet s
  | .passReadData port packet => Sys2Proof.Machine.execPassReadData port packet s
  | .passLock port packet => Sys2Proof.Machine.execPassLock port packet s
  | .passLockGrant port packet => Sys2Proof.Machine.execPassLockGrant port packet s
  | .passUnlock port packet => Sys2Proof.Machine.execPassUnlock port packet s
  | .sbPoll port packet => Sys2Proof.Machine.execSbPoll port packet s
  | .sbData port packet => Sys2Proof.Machine.execSbData port packet s
  | .pollTimer entry => Sys2Proof.Machine.execPollTimer entry s
  | .pollMiss entry => Sys2Proof.Machine.execPollMiss entry s
  | .sboSet src word set => Sys2Proof.Machine.execSboSet src word set s
  | .requestTimeout tag => Sys2Proof.Machine.execRequestTimeout tag s
  | .tunnelDatagram payload => Sys2Proof.Machine.execTunnelDatagram payload s
  | .bridgeBurst src cls addr data len => Sys2Proof.Machine.execBridgeBurst src cls addr data len s
  | .fabricLr src addr => Sys2Proof.Machine.execFabricLr src addr s
  | .fabricSc src addr data => Sys2Proof.Machine.execFabricSc src addr data s
  | .fabricAmo src addr op wide value => Sys2Proof.Machine.execFabricAmo src addr op wide value s
  | .lockHoldExpiry => Sys2Proof.Machine.execLockHoldExpiry s
  | .lockWaitTimeout => Sys2Proof.Machine.execLockWaitTimeout s
  | .delayedReadExpiry port => Sys2Proof.Machine.execDelayedReadExpiry port s
  | .snap src => Sys2Proof.Machine.execSnap src s
  | .tbIncWrite src base value => Sys2Proof.Machine.execTbIncWrite src base value s
  | .tbOfsLowWrite src base low => Sys2Proof.Machine.execTbOfsLowWrite src base low s
  | .timeStep src base high low => Sys2Proof.Machine.execTimeStep src base high low s
  | .gptpSyncSend domain => Sys2Proof.Machine.execGptpSyncSend domain s
  | .pdelaySend port => Sys2Proof.Machine.execPdelaySend port s
  | .ethFrameReceive port frame gptp => Sys2Proof.Machine.execEthFrameReceive port frame gptp s
  | .ethTransmit ring => Sys2Proof.Machine.execEthTransmit ring s
  | .txTimestamp port => Sys2Proof.Machine.execTxTimestamp port s
  | .txtsPop src port => Sys2Proof.Machine.execTxtsPop src port s
  | .gateInterval port => Sys2Proof.Machine.execGateInterval port s
  | .canFrameReceive ctl frame => Sys2Proof.Machine.execCanFrameReceive ctl frame s
  | .containerSend container => Sys2Proof.Machine.execContainerSend container s
  | .canTransmit ctl => Sys2Proof.Machine.execCanTransmit ctl s
  | .busOff ctl => Sys2Proof.Machine.execBusOff ctl s
  | .busOffRecovery ctl => Sys2Proof.Machine.execBusOffRecovery ctl s
  | .containerValid src container => Sys2Proof.Machine.execContainerValid src container s
  | .routeValid src route => Sys2Proof.Machine.execRouteValid src route s
  | .switchRun src => Sys2Proof.Machine.execSwitchRun src s
  | .unitEnable src unit => Sys2Proof.Machine.execUnitEnable src unit s
  | .unitDisable src unit => Sys2Proof.Machine.execUnitDisable src unit s
  | .unitStartingDone unit => Sys2Proof.Machine.execUnitStartingDone unit s
  | .unitStoppingDone unit => Sys2Proof.Machine.execUnitStoppingDone unit s
  | .unitStartTimeout unit => Sys2Proof.Machine.execUnitStartTimeout unit s
  | .coldReset byMonitor => Sys2Proof.Machine.execColdReset byMonitor s
  | .coldBoot straps fails channels => Sys2Proof.Machine.execColdBoot straps fails channels s
  | .warmNPulse => Sys2Proof.Machine.execWarmNPulse s
  | .warmReset src key => Sys2Proof.Machine.execWarmReset src key s
  | .fieldReset src field => Sys2Proof.Machine.execFieldReset src field s
  | .recoveryAnnounce => Sys2Proof.Machine.execRecoveryAnnounce s
  | .recoveryData sender offset payload => Sys2Proof.Machine.execRecoveryData sender offset payload s
  | .recoveryEnd sender total => Sys2Proof.Machine.execRecoveryEnd sender total s
  | .recoverySilenceTimeout => Sys2Proof.Machine.execRecoverySilenceTimeout s
  | .packageUpdate src => Sys2Proof.Machine.execPackageUpdate src s
  | .packageUpdateDone mismatch => Sys2Proof.Machine.execPackageUpdateDone mismatch s
  | .componentFault comp => Sys2Proof.Machine.execComponentFault comp s
  | .componentRestartDone comp => Sys2Proof.Machine.execComponentRestartDone comp s
  | .schedulerFault => Sys2Proof.Machine.execSchedulerFault s
  | .logSave src => Sys2Proof.Machine.execLogSave src s
  | .tracePoint field => Sys2Proof.Machine.execTracePoint field s
  | .railValid rail => Sys2Proof.Machine.execRailValid rail s
  | .railInvalid rail => Sys2Proof.Machine.execRailInvalid rail s
  | .domainPowerUp domain => Sys2Proof.Machine.execDomainPowerUp domain s
  | .domainPowerDown domain => Sys2Proof.Machine.execDomainPowerDown domain s
  | .domainPowerFail domain => Sys2Proof.Machine.execDomainPowerFail domain s
  | .pllLock pll => Sys2Proof.Machine.execPllLock pll s
  | .clockChangeDone => Sys2Proof.Machine.execClockChangeDone s
  | .avsAck => Sys2Proof.Machine.execAvsAck s
  | .limiterWindow watts tj => Sys2Proof.Machine.execLimiterWindow watts tj s
  | .mtimecmpMatch hart => Sys2Proof.Machine.execMtimecmpMatch hart s
  | .i2cGo src receiver => Sys2Proof.Machine.execI2cGo src receiver s
  | .i2cDone receiver result data => Sys2Proof.Machine.execI2cDone receiver result data s
  | .i2cTimeout receiver => Sys2Proof.Machine.execI2cTimeout receiver s
  | .aphyLinkLock receiver gear => Sys2Proof.Machine.execAphyLinkLock receiver gear s
  | .aphyLinkLoss receiver => Sys2Proof.Machine.execAphyLinkLoss receiver s
  | .registerWrite src addr bytes value => Sys2Proof.Machine.execRegisterWrite src addr bytes value s
  | .shadowDeadlineCheck => Sys2Proof.Machine.execShadowDeadlineCheck s
  | .pcieLinkChange up speed width => Sys2Proof.Machine.execPcieLinkChange up speed width s
  | .pciePerstChange high => Sys2Proof.Machine.execPciePerstChange high s
  | .pcieConfigRequest request => Sys2Proof.Machine.execPcieConfigRequest request s
  | .ethPortLinkChange port up => Sys2Proof.Machine.execEthPortLinkChange port up s
  | .grandmasterLoss domain => Sys2Proof.Machine.execGrandmasterLoss domain s

end Sys2Proof.Machine
end

