-- ==== Sys2Proof/Machine/Tick.lean ====
section
/-! DEFINITION. What a tick of the timekeeping clock does (14 R337, R338, R342, R343): the bases advance, steps that were
formed are applied with the reactions of their consumers, and running work is accounted for. DESIGN CHOICE: a tick is what a
step does while no command waits. -/

namespace Sys2Proof.Machine

/-! ## The use of running work (06 R163) -/

/-- Clock cycles of 16 in which a class of a field's command runs, minus one (16 R413). -/
def State.duty (s : State) (cls : Nat) : Nat :=
  match cls with
  | 1 => s.rd PWR_STAT.RT
  | 2 => s.rd PWR_STAT.INTER
  | 3 => s.rd PWR_STAT.BATCH
  | _ => 15

/-- The throttle lets a class run in this tick. -/
def State.dutyOn (s : State) (cls : Nat) : Bool := decide (Sparse.look 0 s.time.acc 3 / (2 * nsUnit) % 16 ≤ s.duty cls)

/-- Cells of a RUNNING field that this tick charges to a command: those whose oldest command without END it is. -/
def State.chargedCells (s : State) (f : Nat) (j : Job) : List Nat :=
  match (s.frt f).image with
  | none => []
  | some i =>
    let before := (s.flight.takeWhile (fun k => k.cmd.serial != j.cmd.serial)).filter (fun k => k.res == j.res)
    i.cells.filter (fun c => !j.endedCells.contains c && before.all (fun k => k.endedCells.contains c))

/-- The use of `ns` nanoseconds of cells, also by the Plain half-quadrants they stand in (06 R163, R164). -/
def cellUse (cells : List Nat) (ns : Nat) : Usage :=
  { Usage.zero with
    cellNs := ns * cells.length,
    halves := (List.range 8).map (fun h => ns * (cells.filter (fun c => clusterDomain (c / 16) == h)).length) }

/-- What one tick of 2 ns adds to the use of a command in flight: its cells, or the engine that runs it. -/
def State.tickJob (s : State) (j : Job) : Job :=
  match j.res with
  | .field f => if s.fState f = stRunning ∧ s.dutyOn j.cmd.cls then { j with use := j.use.plus (cellUse (s.chargedCells f j) 2) } else j
  | .loader => j
  | _ => if j.started ∧ j.outcome = .running then { j with use := { j.use with engineNs := j.use.engineNs + 2 } } else j

/-- The occupied cell-cycles of a field counted (15 R387). -/
def State.tickField (s : State) (f : Nat) : State :=
  match (s.frt f).image with
  | none => s
  | some i =>
    if s.fState f = stRunning then s.setF f { s.frt f with occupied := (s.frt f).occupied + i.cells.length * 2 * s.mode.clockMhz } else s

/-- The use of all running work. -/
def State.tickUse (s : State) : State :=
  let s := { s with flight := s.flight.map s.tickJob }
  s.each 17 (fun f s => s.tickField f)

/-! ## The bases (R337, R338, R342) -/

/-- What a tick adds to a base, in units of 2^-39 ns: the parked device counts edges of the 32.768 kHz clock. -/
def State.tickInc (s : State) (n : Nat) : Nat :=
  if s.flag TB_STAT.PARK_CLK then s.rd TB_INC.INC n * 1953125 else s.rd TB_INC.INC n * 128

/-- A base's accumulator set. -/
def State.setBase (s : State) (n a : Nat) : State := { s with time := { s.time with acc := Sparse.put 0 s.time.acc n a } }

/-- Counters of the applied steps. -/
def stepCounter (n : Nat) : Fld := if n = 0 then TB_STAT.STEPS_V else if n = 1 then TB_STAT.STEPS_S else TB_STAT.STEPS_D

/-! ## Reactions to a step of vehicle time (R343) -/

/-- The accounting windows end at the time before the step. -/
def State.stepAccounts (s : State) (pre post : Nat) : State :=
  s.each 128 (fun v s =>
    if s.flag RING_VEF_AQ_CTL.ENABLE v && (s.vrt v).acctOpen then (s.closeEnded v pre).closeWindow v pre post true false else s)

/-- A port's schedule holds the state of the list's last entry until the first cycle start of the new time. -/
def State.stepGates (s : State) (p : Nat) : State :=
  let cycle := s.gateTime p 2055
  let base := s.gateTime p 2063
  let now := s.vehicleNs
  if s.gateWord p 0 = 0 ∨ cycle = 0 ∨ s.gateWord p 4 = 0 then s
  else
    let start := if now ≤ base then base else base + (now - base + cycle - 1) / cycle * cycle
    let last := ((s.gateList p).getLast?.map (·.1)).getD 0xFF
    { s with gw := { s.gw with gates := Sparse.put 0xFF s.gw.gates p last, gateEnd := Sparse.put none s.gw.gateEnd p (some start),
                               gateHold := p :: s.gw.gateHold.filter (· != p) } }

/-- The status frame's next time, and the watchdog's window restarted. -/
def State.stepSafety (s : State) : State :=
  let x := s.saf
  { s with saf := { x with
      nextFrame := (s.vehicleNs / 10000000 + 1) * 10000000, frameBy := some (x.lastFrame + 10000000),
      kick := if x.kick.isSome then some s.vehicleNs else none, kickFree := x.kick.isSome || x.kickFree } }

/-- Every reaction to a step of vehicle time. -/
def State.stepVehicle (s : State) (pre : Nat) : State :=
  let s := s.stepAccounts pre s.vehicleNs
  let s := s.each 6 (fun h s => s.headStep h)
  (s.each 10 (fun p s => s.stepGates p)).stepSafety

/-- The own increment of the vehicle, service or depot base, and the step formed for it: a result below zero is zero, with CLAMP. -/
def State.tickBase (s : State) (n : Nat) : State :=
  let a := Sparse.look 0 s.time.acc n + s.tickInc n
  match Sparse.look none s.time.step n with
  | none => s.setBase n a
  | some ofs =>
    let b : Int := (a : Int) + ofs * (nsUnit : Int)
    let s := if b < 0 then (s.setBase n 0).wr TB_STAT.CLAMP 1 else s.setBase n b.toNat
    let s := { s with time := { s.time with step := Sparse.put none s.time.step n none, hold := Sparse.put 0 s.time.hold n 0 } }
    let s := s.inc (stepCounter n)
    if n = 0 then s.stepVehicle (a / nsUnit % 2 ^ 64) else s

/-! ## The tick -/

/-- Accounting windows end at their exact nanosecond (06 R162). -/
def State.tickAccounts (s : State) : State := s.vefs.foldl (fun s x => s.closeEnded x.1 s.vehicleNs) s

/-- Inbound requests that wait for a Pass port's slot are served once it is free (13 R330). -/
def State.tickSlots (s : State) : State := s.each 4 (fun p s => s.slotFree p)

/-- A Pass link that is DOWN goes on to TRAINING while its port is ON and in service (13 R316). -/
def State.tickLinks (s : State) : State :=
  (List.finRange 4).foldl (fun (s : State) (p : Fin 4) =>
    if s.link p = lkDown ∧ s.unitState (.pass p) = uOn ∧ s.unitUsable (156 + p.val) then s.setLink p lkTraining else s) s

/-- Local monotonic time advances; it takes no step (14 R337, R342). -/
def State.tickLocal (s : State) : State := s.setBase 3 (Sparse.look 0 s.time.acc 3 + s.tickInc 3)

/-- One tick. -/
def State.tick (s : State) : State := (((s.tickLocal.tickUse.tickBase 0).tickAccounts.tickBase 1).tickBase 2).tickSlots.tickLinks

end Sys2Proof.Machine
end

