-- ==== Sys2Proof/Safety.lean ====
section
/-! DEFINITION. What a safe state and a safe run of the device are: the terms that claims about every step use. -/

namespace Sys2Proof.Machine

/-- The canonical form of the device's memories: addresses rise and no byte is listed at the value that an unlisted
address reads as. -/
def Memory.wf (m : MemState) : Bool :=
  Sparse.ok (0 : Byte) m.hbm && Sparse.ok (0 : Byte) m.pocket && Sparse.ok (0 : Byte) m.sram && Sparse.ok (0 : Byte) m.stitch

/-- Register fields that hold only part of the values of their width, with the least and the greatest (01 R14, 05, 08 R225,
11 R294, 13 R331, 14 R342, R365, R366, 16 R415, 17 R427, R431, 10 R280). -/
def rangedFields : List (Fld × Nat × Nat) :=
  [(SYS_MODE.CURRENT, 0, 4), (TB_INC.INC, incLow, incHigh), (PWR_LIM.DRIVE_W, 0, 240), (PWR_LIM.DEPOT_W, 0, 400),
   (PWR_LIM.TJ_THROTTLE, 0, 125), (SAF_ESC.CONTAINED_MAX, 1, 15), (BIST_CFG.SAFE_MS, 10, 4095), (FUS_CTL.PERIOD, 0, 2),
   (FUS_CTL.WAIT_US, 1000, 30000), (PASS_CFG.TIMEOUT_US, 10, 65535), (PASS_CFG.POLL_US, 1, 100),
   (PASS_LINK_CFG.READ_TIMER_US, 1, 1000), (GW_HPQ.TX_SIZE_LOG2, 6, 15), (GW_HPQ.RX_SIZE_LOG2, 6, 15),
   (GW_CAN.TX_SIZE_LOG2, 6, 12), (GW_CAN.RX_SIZE_LOG2, 6, 12), (APHY_I2C.WLEN, 0, 8), (APHY_I2C.RLEN, 0, 8),
   (HOSTC_CLK.REQ, 10, 26)]

/-- Each LOCK bit and the fields that accept no write once it is set (00 R10, 17 R425). -/
def lockTable : List (Fld × List Fld) :=
  [(SAF_CTL.LOCK, [SAF_CTL.CMP_MODE, SAF_ESC.CONTAINED_MAX, SAF_ESC.WINDOW_MS, SAF_ESC.REINIT_MAX, SAF_ESC.DEADLINE_MS,
      SAF_GOLD.PHASE, SAF_GOLD.ARM, SAF_GOLD.BUDGET_US]),
   (BIST_CFG.LOCK, [BIST_CFG.SAFE_MS]),
   (PWR_CTL.LOCK, [PWR_LIM.DRIVE_W, PWR_LIM.DEPOT_W, PWR_LIM.HYST_W, PWR_LIM.TJ_THROTTLE]),
   (FUS_CTL.LOCK, [FUS_CFG.PRIMARY, FUS_GRP.Q0, FUS_GRP.Q1, FUS_GRP.Q2, FUS_GRP.Q3, FUS_GRP.Q4, FUS_GRP.Q5, FUS_POSE.BASE,
      FUS_CEIL.ENTRY_LO, FUS_CEIL.ENTRY_HI]),
   (PASS_CFG.LOCK, [PASS_CFG.FABRIC, PASS_CFG.STATIC_EN, PASS_CFG.MEMBER, PASS_TUN.UDP_PORT, PASS_TUN.VLAN, PASS_TUN.ENABLE]),
   (GW_SW.LOCK, [GW_SW.SAFETY_VLAN])]

/-- Every ranged field of every register reads within its range. -/
def State.inRanges (s : State) : Prop :=
  ∀ p ∈ rangedFields, ∀ i j, p.2.1 ≤ s.rd p.1 i j ∧ s.rd p.1 i j ≤ p.2.2

/-- From `s` to `t`, a set LOCK bit stays set and the fields that it locks stay as they are. -/
def LocksHeld (s t : State) : Prop :=
  ∀ p ∈ lockTable, s.flag p.1 = true → t.flag p.1 = true ∧ ∀ f ∈ p.2, ∀ i j, t.rd f i j = s.rd f i j

/-- A state that no step of the device leaves: memories in canonical form, ranged fields in range, and the counters of the
status frame within their widths (10 R267). -/
structure State.Sound (s : State) : Prop where
  memory : Memory.wf s.mem = true
  ranges : s.inRanges
  faults : s.saf.faults ≤ 0xFFFF
  counter : s.saf.counter < 16

/-- An address whose write asks for no mode and no reset: it meets neither SYS_MODE nor SYS_RST. -/
def quietAddr (a : Nat) : Bool :=
  match findReg a with
  | some h => h.reg != .sysMode && h.reg != .sysRst
  | none => true

/-- A command that can lead to a cold reset, a warm reset, a boot or a park, on the state that it meets. -/
def mayReset : Instr → Bool
  | .modeRequestParkWarm _ | .modeRequestParkCold _ | .modeRequestDepot _ | .bootComplete | .parkWarmTimerExpiry | .canWake | .ethWake
  | .vefResetDone _ | .freezeComplete _ | .depotAuthorisation _ | .depotAuthExpiry | .ethFrameReceive .. | .ethTransmit _
  | .gateInterval _ | .canFrameReceive .. | .coldReset _ | .warmNPulse | .warmReset .. | .packageUpdateDone _ | .clockChangeDone => true
  | .registerWrite _ a b _ => !(quietAddr a && (b == 4 || quietAddr (a + 4)))
  | .bridgeBurst _ _ a (some d) _ =>
    !(cutWords (d.length / 8 + 1) (a % 2 ^ 48) d.length).all (fun x => quietAddr x.1 && (x.2 == 4 || quietAddr (x.1 + 4)))
  | _ => false

/-- A run is safe from a state: no step faults or refuses, and every state that it reaches is sound. -/
def SafeFrom (s : State) : Prop := ∀ k, ∃ t, Sys2Proof.core.run k s = .next t ∧ State.Sound t

/-! ## Microwords -/

/-- A cell of a running field stands at a microword of a class and operation, its event there (04 R99, R100); `u` is the
state once the microword has been fetched, a correctable error of its word corrected (02 R35). -/
structure Executes (s u : State) (cell : Nat) (f : Fin 17) (m : Micro) (cls op : Nat) : Prop where
  live : s.liveField cell = some f
  running : (s.cell cell).running = true
  fetched : s.microAt cell (s.cell cell).pc = .ok m
  fixed : u = s.fetchFix f cell (s.cell cell).pc
  isCls : m.cls = cls
  isOp : m.op = op
  legal : m.formatError = false
  event : (s.cell cell).eventOk m = true

/-- Of a microword with `total` repetitions, the flits and the room at the ports that it names allow exactly one now, and
the address generators of its pocket operands hold right parity (02 R37). -/
structure Steps (s u : State) (cell : Nat) (f : Fin 17) (m : Micro) (cls op total : Nat) (os : List Opd) : Prop extends
    Executes s u cell f m cls op where
  one : (s.cell cell).ready m (total - (s.cell cell).rep) = 1
  gens : u.gensBad cell m os = none

/-- A microword retires: the cell goes on at an address and, where the microword is no wait, its field makes progress
(02 R55). -/
def State.retired (s : State) (cell : Nat) (f : Fin 17) (m : Micro) (next : Nat) : State :=
  let t := s.setCell cell ((s.cell cell).retire m next)
  if m.waits then t else t.progress f

/-- After one repetition: it waits for the next, or retires. -/
def State.afterRep (s : State) (cell : Nat) (f : Fin 17) (m : Micro) (rep total next : Nat) : State :=
  if rep + 1 < total then s.setCell cell { s.cell cell with rep := rep + 1, waiting := true } else s.retired cell f m next

/-- The flits that a microword takes and gives where its operation computes none. -/
def State.streamed (s : State) (cell : Nat) (m : Micro) : State := (s.taken cell m).given cell m none

/-- What a microword command executes: its class and operation, its repetitions, its pocket operands, the address after it,
its effect, and what the command leaves of the state after that (END begins the next command). -/
structure Word where
  cls : Nat
  op : Nat
  total : Micro → Nat
  opds : Micro → List Opd
  next : CellSt → Micro → Nat
  body : Body
  after : State → State := id

/-- The microword commands, with their cells. -/
def wordOf (s : State) : Instr → Option (Nat × Word)
  | .controlNop c => some (c, ⟨0, 0, Micro.loop, noOpds, onward, idleBody, id⟩)
  | .controlJump c => some (c, ⟨0, 1, once, noOpds, fun _ m => bits m 64 12, idleBody, id⟩)
  | .controlLoopset c => some (c, ⟨0, 2, once, noOpds, onward, controlLoopsetBody c, id⟩)
  | .controlLoop c => some (c, ⟨0, 3, once, noOpds,
      fun d m => if Sparse.look 0 d.loops (bits m 76 4) = 0 then d.pc + 1 else bits m 64 12, controlLoopBody c, id⟩)
  | .controlEnd c => some (c, ⟨0, 4, once, noOpds, onward, controlEndBody c (s.cell c).job, fun t => t.afterEnd s c⟩)
  | .matrixMma c => some (c, ⟨1, 0, Micro.loop, fun m => [m.opA, m.opB], onward, mmaBody c false, id⟩)
  | .matrixMmaNew c => some (c, ⟨1, 1, Micro.loop, fun m => [m.opA, m.opB], onward, mmaBody c true, id⟩)
  | .matrixDrain c => some (c, ⟨1, 2, Micro.loop, fun m => [m.opB], onward, matrixDrainBody c, id⟩)
  | .matrixChkcmp c => some (c, ⟨1, 3, once, noOpds, onward, matrixChkcmpBody c, id⟩)
  | .vectorLoad c => some (c, ⟨2, 0, Micro.loop, fun m => [m.opB], onward, vectorLoadBody c, id⟩)
  | .vectorStore c => some (c, ⟨2, 1, Micro.loop, fun m => [m.opB], onward, vectorStoreBody c, id⟩)
  | .vectorLdc c => some (c, ⟨2, 2, Micro.loop, noOpds, onward, vectorLdcBody c, id⟩)
  | .vectorAdd c => some (c, ⟨2, 3, Micro.loop, noOpds, onward, lanes2 c Num.add, id⟩)
  | .vectorMul c => some (c, ⟨2, 4, Micro.loop, noOpds, onward, lanes2 c Num.mul, id⟩)
  | .vectorFma c => some (c, ⟨2, 5, Micro.loop, noOpds, onward, vectorFmaBody c, id⟩)
  | .vectorMax c => some (c, ⟨2, 6, Micro.loop, noOpds, onward, extremum c Num.max2, id⟩)
  | .vectorMin c => some (c, ⟨2, 7, Micro.loop, noOpds, onward, extremum c Num.min2, id⟩)
  | .vectorCvt c => some (c, ⟨2, 8, Micro.loop, noOpds, onward, vectorCvtBody c, id⟩)
  | .vectorSfu c => some (c, ⟨2, 9, Micro.loop, noOpds, onward, vectorSfuBody c, id⟩)
  | .vectorReduce c => some (c, ⟨2, 10, Micro.loop, noOpds, onward, vectorReduceBody c, id⟩)
  | .vectorRowstat c => some (c, ⟨2, 11, Micro.loop, noOpds, onward, vectorRowstatBody c, id⟩)
  | .vectorQuantMx c => some (c, ⟨2, 12, Micro.loop, fun m => [m.opB], onward, vectorQuantMxBody c, id⟩)
  | .vectorCmp c => some (c, ⟨2, 13, Micro.loop, noOpds, onward, vectorCmpBody c, id⟩)
  | .streamSend c => some (c, ⟨3, 0, Micro.loop, fun m => [m.opA], onward, streamSendBody c, id⟩)
  | .streamRecv c => some (c, ⟨3, 1, Micro.loop, fun m => [m.opB], onward, streamRecvBody c, id⟩)
  | .moverStart c => some (c, ⟨4, 0, once, noOpds, onward, moverStartBody c, id⟩)
  | .signalToken c => some (c, ⟨5, 0, once, noOpds, onward, signalTokenBody c, id⟩)
  | .signalWaittok c => some (c, ⟨5, 1, fun m => if (s.cell c).tokens.testBit (bits m 76 4) then 1 else 0, noOpds, onward,
      signalWaittokBody c, id⟩)
  | _ => none

end Sys2Proof.Machine
end

