-- ==== Sys2Proof/Certificates/Slice0/Obligations.lean ====
section
/-! DEFINITION. The statements for the provers, in the order of OBLIGATIONS.json. A statement's docstring says what it states and
which rules it rests on; values that the model chose itself are named as such. -/

open Sys2Proof Sys2Proof.Machine

/-- A step carries out the command at the front of the queue. For every state and command, step of the state with the command
at the front of its queue is exec of the command on the state with the queue's rest. The queue is the model's own way to take
commands from outside (log entry 1) -/
def Obligations.StepRunsFrontCommand : Prop :=
  ∀ (s : State) (c : Instr) (rest : List Instr), step { s with pending := c :: rest } = exec c { s with pending := rest }

/-- A step on an empty queue is one tick of the timekeeping clock. Where no command waits, a step answers the state after one
tick: the queue stays empty, and local monotonic time, which takes no step, advances by TB_INC[3] in units of 2^-32 ns, or by
1,953,125 / 128 of that on an edge of the always-on clock while the device is parked. That a tick is what an idle step does
is the model's own choice (log entry 2) -/
def Obligations.IdleStepIsTick : Prop :=
  ∀ s : State, s.pending = [] →
    ∃ t, step s = .next t ∧ t.pending = [] ∧
      Sparse.look 0 t.time.acc 3 = Sparse.look 0 s.time.acc 3 +
        (if s.flag TB_STAT.PARK_CLK then s.rd TB_INC.INC 3 * 1953125 else s.rd TB_INC.INC 3 * 128)

/-- Every command ends in a next state and leaves the queue alone. For every command and every state, exec answers a next
state, never a fault and never a refusal, and the commands that wait are those that waited before -/
def Obligations.EveryCommandCompletes : Prop :=
  ∀ (c : Instr) (s : State), ∃ t, exec c s = .next t ∧ t.pending = s.pending

/-- What the device holds right after a cold reset. After reset the device is in BOOT with IN_TRANSITION = 1, LAST_CAUSE
names POR_N, every base runs at 2 ns a tick from time zero, the limits of the power limiter and of the aligner are at the
values of their Cold columns, the safety outputs report FAULT_N low, no command waits, no byte of memory is listed, no key is
held and every field is FREE. The contents of memory with nothing listed are the model's own choice (log entry 4) -/
def Obligations.ResetValues : Prop :=
  State.reset.rd SYS_MODE.CURRENT = 0 ∧ State.reset.rd SYS_MODE.IN_TRANSITION = 1 ∧ State.reset.rd SYS_RST.LAST_CAUSE = 1 ∧
    (∀ n < 4, State.reset.rd TB_INC.INC n = 0x200000000 ∧ State.reset.ns n = 0) ∧
    State.reset.rd PWR_LIM.DRIVE_W = 240 ∧ State.reset.rd PWR_LIM.DEPOT_W = 400 ∧ State.reset.rd SAF_CTL.FAULT_N_LOW = 1 ∧
    State.reset.pending = [] ∧ State.reset.mem.hbm = [] ∧ State.reset.mem.keys = [] ∧ (∀ f < 17, State.reset.fState f = stFree)

/-- The device is sound after reset. In the reset state every memory is in canonical form, every ranged register field is
within its range, and the counters of the status frame are within their widths -/
def Obligations.ResetIsSound : Prop :=
  State.reset.Sound

/-- Every step keeps the device sound. From every sound state, whichever of the 247 commands waits at the front of the queue
or none, a step answers a next state, and that state is sound: memories stay in canonical form, every register field with a
range stays within it (the mode within 0 to 4, TB_INC within 1.998 ns to 2.002 ns, the limiter's, the safety island's, the
aligner's, the Pass's, the gateway's and the host clusters' limits within theirs), the fault count saturates at 0xFFFF and
the status frame's counter stays within 4 bits -/
def Obligations.StepKeepsSound : Prop :=
  ∀ s : State, s.Sound → ∃ t, step s = .next t ∧ t.Sound

/-- No run from a sound state stops, and every state that it reaches is sound. For every sound state and every number of
steps, the machine of the core runs that many steps to a next state, without a fault or a refusal, and the state reached is
sound -/
def Obligations.SoundRunsAreSafe : Prop :=
  ∀ s : State, s.Sound → SafeFrom s

/-- A LOCK bit that is set stays set, and the fields behind it stay as they are. For every command that asks for no reset, no
boot, no park and no mode (writes of SYS_RST and SYS_MODE among those), and every state: each LOCK bit of the six blocks with
RWL fields that is 1 before the command is 1 after it, and every RWL field of its block reads the same for every index. The
same holds of a tick. Register writes of every requester to every other address are among these commands -/
def Obligations.LocksStand : Prop :=
  (∀ (c : Instr) (s t : State), mayReset c = false → exec c s = .next t → LocksHeld s t) ∧
    ∀ s t : State, s.pending = [] → step s = .next t → LocksHeld s t

/-- Local monotonic time advances with the ticks and by nothing else. A tick adds TB_INC[3] units of 2^-32 ns to local
monotonic time (1,953,125 / 128 of it on an edge of the always-on clock while the device is parked), and every command that
asks for no reset, no boot, no park and no mode leaves it as it was: no step reaches it -/
def Obligations.LocalTimeOnlyTicks : Prop :=
  (∀ (c : Instr) (s t : State), mayReset c = false → exec c s = .next t → Sparse.look 0 t.time.acc 3 = Sparse.look 0 s.time.acc 3) ∧
    ∀ s t : State, s.pending = [] → step s = .next t →
      Sparse.look 0 t.time.acc 3 = Sparse.look 0 s.time.acc 3 +
        (if s.flag TB_STAT.PARK_CLK then s.rd TB_INC.INC 3 * 1953125 else s.rd TB_INC.INC 3 * 128)

/-- A refused mode request changes nothing but its record. For each of the three mode requests, by firmware or the hypervisor
outside PARK: where a transition is in progress (the model's own choice, log entry 116), in the safe state (deduced, log
entry 114), where the table of R15 names no move from the mode in force (DEPOT asked for in DEPOT, anything asked for in
BOOT), where the sleep permission is not held in DRIVE, and for DEPOT where the record does not enable it, the authorisation
is not held or the coolant is missing: the request is recorded in SYS_MODE.REQUEST, SYS_MODE.REFUSED counts it, and nothing
else changes. In PARK no requester runs: nothing changes. Any other requester's write is refused and counted as an access -/
def Obligations.ModeRequestsRefused : Prop :=
  ∀ (src : Source) (s : State),
    ((s.who src).fwHyp = true → s.outsidePark = true →
      (s.mode.trans.isSome ∨ s.flag SAF_CTL.SAFE_STATE = true ∨ (s.cur ≠ mDrive ∧ s.cur ≠ mDepot) ∨
        (s.cur = mDrive ∧ s.maySleep = false)) →
      exec (.modeRequestParkWarm src) s = .next ((s.wr SYS_MODE.REQUEST 2).inc SYS_MODE.REFUSED) ∧
      exec (.modeRequestParkCold src) s = .next ((s.wr SYS_MODE.REQUEST 3).inc SYS_MODE.REFUSED) ∧
      exec (.modeRequestDepot src) s = .next ((s.wr SYS_MODE.REQUEST 4).inc SYS_MODE.REFUSED)) ∧
    ((s.who src).fwHyp = true →
      (s.cur = mDepot ∨ (s.cur = mDrive ∧
        (s.flag SYS_CFG.DEPOT_EN && s.flag SYS_MODE.DEPOT_AUTH && s.flag SYS_MODE.COOLANT) = false)) →
      exec (.modeRequestDepot src) s = .next ((s.wr SYS_MODE.REQUEST 4).inc SYS_MODE.REFUSED)) ∧
    ((s.who src).fwHyp = true → s.outsidePark = false →
      exec (.modeRequestParkWarm src) s = .next s ∧ exec (.modeRequestParkCold src) s = .next s ∧
      exec (.modeRequestDepot src) s = .next s) ∧
    ((s.who src).fwHyp = false →
      exec (.modeRequestParkWarm src) s = .next (s.denied (s.who src) (RegName.sysMode.addr)) ∧
      exec (.modeRequestParkCold src) s = .next (s.denied (s.who src) (RegName.sysMode.addr)) ∧
      exec (.modeRequestDepot src) s = .next (s.denied (s.who src) (RegName.sysMode.addr)))

/-- A PARK request that R15 accepts parks the device, from DRIVE at once and from DEPOT once its tenants are frozen. For
firmware and the hypervisor, with no transition in progress and outside the safe state. In DRIVE with a sleep permission
held: a PARK_WARM request ends in PARK_WARM, out of transition, with WAKE_SRC cleared, the bases on the always-on clock,
FAULT_N low, HBM in self-refresh, MAIN_EN low and firmware not running; a PARK_COLD request passes through that state and
ends in PARK_COLD with the contents of every memory and every key lost and PMIC_EN low. In DEPOT either request begins the
move out of DEPOT to its target: the window watchdog is suspended, the clock change to 1.1 GHz is decided and the tenants are
frozen -/
def Obligations.ParkRequestsAccepted : Prop :=
  ∀ (src : Source) (s : State), (s.who src).fwHyp = true → s.mode.trans = none → s.flag SAF_CTL.SAFE_STATE = false →
    (s.cur = mDrive → s.maySleep = true →
     (∃ t, exec (.modeRequestParkWarm src) s = .next t ∧ t.cur = mWarm ∧ t.rd SYS_MODE.IN_TRANSITION = 0 ∧ t.rd SYS_MODE.WAKE_SRC = 0 ∧
      t.rd TB_STAT.PARK_CLK = 1 ∧ t.rd SAF_CTL.FAULT_N_LOW = 1 ∧ t.mode.selfRefresh = true ∧ t.mode.mainEn = false ∧ t.fw.running = false) ∧
    ∃ t, exec (.modeRequestParkCold src) s = .next t ∧ t.cur = mCold ∧ t.rd SYS_MODE.IN_TRANSITION = 0 ∧ t.rd TB_STAT.PARK_CLK = 1 ∧
      t.mem = MemState.cold ∧ t.mode.pmicEn = false ∧ t.mode.mainEn = false) ∧
    (s.cur = mDepot →
      exec (.modeRequestParkWarm src) s = .next ((s.wr SYS_MODE.REQUEST 2).depotPark false) ∧
      exec (.modeRequestParkCold src) s = .next ((s.wr SYS_MODE.REQUEST 3).depotPark true))

/-- A DEPOT request enters through the release steps, and the end of the clock change completes it. In DRIVE with no
transition in progress and outside the safe state, with a sleep permission, depot mode enabled by the platform record, the
authorisation held and coolant present, a DEPOT request of firmware or the hypervisor takes the release steps of R16.
CLOCK_CHANGE_DONE puts a decided clock that waits for no voltage in force, and where a DEPOT entry waits for 1.32 GHz it
enters DEPOT with WAKE_SRC cleared and stays there with the authorisation and the coolant still there, else it leaves again
at once; with no clock decided, or one that waits for a voltage, it changes nothing. AVS_ACK ends the wait for the voltage -/
def Obligations.DepotEntryAndExit : Prop :=
  (∀ (src : Source) (s : State), (s.who src).fwHyp = true → s.cur = mDrive → s.mode.trans = none →
      s.flag SAF_CTL.SAFE_STATE = false → s.maySleep = true → s.flag SYS_CFG.DEPOT_EN = true → s.flag SYS_MODE.DEPOT_AUTH = true → s.flag SYS_MODE.COOLANT = true →
      exec (.modeRequestDepot src) s = .next (s.wr SYS_MODE.REQUEST 4).depotEnter) ∧
    (∀ s : State, s.mode.clockTo = some 1320 → s.mode.avsWait = false → s.mode.trans = some .depot →
      s.flag SYS_MODE.DEPOT_AUTH = true → s.flag SYS_MODE.COOLANT = true →
      ∃ t, exec .clockChangeDone s = .next t ∧ t.cur = mDepot ∧ t.rd SYS_MODE.IN_TRANSITION = 0 ∧ t.rd SYS_MODE.WAKE_SRC = 0 ∧
        t.mode.clockMhz = 1320 ∧ t.mode.clockTo = none ∧ t.mode.trans = none ∧ t.mem = s.mem) ∧
    (∀ s : State, s.mode.clockTo = some 1320 → s.mode.avsWait = false → s.mode.trans = some .depot →
      (s.flag SYS_MODE.DEPOT_AUTH && s.flag SYS_MODE.COOLANT) = false →
      exec .clockChangeDone s = .next ((({ s with mode := { s.mode with clockMhz := 1320, clockTo := none } } : State).enterMode
        mDepot).wr SYS_MODE.WAKE_SRC 0 |>.depotPark false)) ∧
    (∀ (s : State) (m : Nat), s.mode.clockTo = some m → s.mode.avsWait = false → s.mode.trans ≠ some .depot ∨ m ≠ 1320 →
      exec .clockChangeDone s = .next { s with mode := { s.mode with clockMhz := m, clockTo := none } }) ∧
    (∀ s : State, s.mode.clockTo = none ∨ s.mode.avsWait = true → exec .clockChangeDone s = .next s) ∧
    (∀ s : State, s.mode.avsWait = true → exec .avsAck s = .next { s with mode := { s.mode with avsWait := false } })

/-- The timers of SYS_PARK and the wake pins move a parked device. In PARK_WARM out of transition, the park-warm timer's
expiry ends in PARK_COLD: the bases run on, flash and time are kept, memory and PMIC_EN are lost. In PARK_COLD, the always-on
timer's expiry starts the park-cold boot that ends in PARK_WARM, and a CAN or TC10 wake starts the one that ends in DRIVE:
BOOT with LAST_CAUSE 0b0101, IN_TRANSITION set, the PLL's clock, PMIC_EN and MAIN_EN high, and the wake's source recorded
where none is. While such a boot is in progress, a wake turns its end into DRIVE. A wake in PARK_WARM takes the wake of R411,
one in DEPOT, or on the way into it or out of it to PARK, begins the move to DRIVE, and one in DRIVE only records its source.
A timer that has not run out, or runs in another mode, changes nothing -/
def Obligations.ParkTimersAndWakes : Prop :=
  (∀ (s : State) (w : Nat), s.cur = mWarm → s.mode.trans = none → s.mode.warmTimer = some w → w ≤ s.localNs →
      ∃ t, exec .parkWarmTimerExpiry s = .next t ∧ t.cur = mCold ∧ t.rd TB_STAT.PARK_CLK = 1 ∧ t.mem = MemState.cold ∧
        t.mode.pmicEn = false ∧ t.fw.flash = s.fw.flash ∧ t.time.acc = s.time.acc) ∧
    (∀ (s : State) (w : Nat), s.cur = mCold → s.mode.trans = none → s.mode.coldTimer = some w → w ≤ s.localNs →
      ∃ t, exec .alwaysOnTimerExpiry s = .next t ∧ t.cur = mBoot ∧ t.rd SYS_RST.LAST_CAUSE = 5 ∧ t.rd SYS_MODE.IN_TRANSITION = 1 ∧
        t.rd TB_STAT.PARK_CLK = 0 ∧ t.mode.trans = some (.boot true) ∧ t.mode.pmicEn = true ∧ t.mode.mainEn = true ∧
        t.rd SYS_MODE.WAKE_SRC = s.rd SYS_MODE.WAKE_SRC) ∧
    (∀ s : State, s.cur = mCold → s.mode.trans = none →
      (∃ t, exec .canWake s = .next t ∧ t.cur = mBoot ∧ t.rd SYS_RST.LAST_CAUSE = 5 ∧ t.mode.trans = some (.boot false) ∧
        t.rd SYS_MODE.WAKE_SRC = if s.rd SYS_MODE.WAKE_SRC = 0 then 1 else s.rd SYS_MODE.WAKE_SRC) ∧
      ∃ t, exec .ethWake s = .next t ∧ t.cur = mBoot ∧ t.rd SYS_RST.LAST_CAUSE = 5 ∧ t.mode.trans = some (.boot false) ∧
        t.rd SYS_MODE.WAKE_SRC = if s.rd SYS_MODE.WAKE_SRC = 0 then 2 else s.rd SYS_MODE.WAKE_SRC) ∧
    (∀ (s : State) (park : Bool), s.mode.trans = some (.boot park) → s.rd SYS_MODE.WAKE_SRC ≠ 0 →
      exec .canWake s = .next { s with mode := { s.mode with trans := some (.boot false) } } ∧
      exec .ethWake s = .next { s with mode := { s.mode with trans := some (.boot false) } }) ∧
    (∀ s : State,
      let u (n : Nat) : State := if s.rd SYS_MODE.WAKE_SRC = 0 then s.wr SYS_MODE.WAKE_SRC n else s
      (s.mode.trans = none → s.cur = mWarm → exec .canWake s = .next (u 1).warmWake ∧ exec .ethWake s = .next (u 2).warmWake) ∧
      ((s.mode.trans = none ∧ s.cur = mDepot) ∨ s.mode.trans = some .depot ∨ (∃ c, s.mode.trans = some (.depotPark c)) →
        exec .canWake s = .next (u 1).depotWake ∧ exec .ethWake s = .next (u 2).depotWake) ∧
      (s.mode.trans = some .depotDrive ∨ (s.mode.trans = none ∧ s.cur = mDrive) →
        exec .canWake s = .next (u 1) ∧ exec .ethWake s = .next (u 2))) ∧
    (∀ s : State, (s.cur ≠ mWarm ∨ s.mode.trans ≠ none ∨ ∀ w, s.mode.warmTimer = some w → s.localNs < w) →
      exec .parkWarmTimerExpiry s = .next s) ∧
    (∀ s : State, (s.cur ≠ mCold ∨ s.mode.trans ≠ none ∨ ∀ w, s.mode.coldTimer = some w → s.localNs < w) →
      exec .alwaysOnTimerExpiry s = .next s)

/-- The boot's end enters DRIVE or PARK_WARM, and the two deadlines of the move out of DEPOT act. BOOT_COMPLETE completes in
every state. With a boot in progress and firmware running it carries out firmware's part of the boot and ends in DRIVE out of
transition, or, for the always-on timer's boot, goes on to PARK_WARM with every field FREE, FAULT_N low, HBM in self-refresh
and MAIN_EN low; without, it changes nothing. TENANT_FREEZE_KILL_DEADLINE completes in every state: in a move out of DEPOT,
450 ms after its start and with the scheduler running, what each FREEZING tenant has in flight is killed and kept, and
earlier or elsewhere nothing changes. BACKSTOP completes in every state: 500 ms after the start, with tenants that are ACTIVE
or FREEZING, it resets each of them and sets SYS_MODE.BACKSTOP; without one, earlier or elsewhere nothing changes -/
def Obligations.BootAndBackstop : Prop :=
  (∀ (s : State) (park : Bool), s.mode.trans = some (.boot park) → s.fw.running = true →
      let t := if park then (s.firmwareBoot.enterMode mDrive).parkDown [] else s.firmwareBoot.enterMode mDrive
      exec .bootComplete s = .next t ∧ t.cur = (if park then mWarm else mDrive) ∧ t.rd SYS_MODE.IN_TRANSITION = 0 ∧
        t.mode.trans = none ∧ (park = true → t.mode.selfRefresh = true ∧ t.mode.mainEn = false ∧ t.fw.running = false ∧
          t.rd SAF_CTL.FAULT_N_LOW = 1 ∧ t.rd TB_STAT.PARK_CLK = 1)) ∧
    (∀ s : State, s.fw.running = false ∨ (∀ park, s.mode.trans ≠ some (.boot park)) → exec .bootComplete s = .next s) ∧
    (∀ s : State, exec .tenantFreezeKillDeadline s = .next (if s.leavingFor 450000000 && !s.fwOut 2 then
        s.each 128 (fun v u => if u.flag VEF_CTL.TENANT v ∧ u.rd VEF_CTL.STATE v = vFreezing then u.freezeKill v else u)
      else s)) ∧
    (∀ s : State,
      let late (v : Nat) : Bool := s.flag VEF_CTL.TENANT v && (s.rd VEF_CTL.STATE v == vActive || s.rd VEF_CTL.STATE v == vFreezing)
      (s.leavingFor 500000000 = true → (∃ v, v < 128 ∧ late v = true) →
        ∃ t, exec .backstop s = .next t ∧ t = (s.each 128 (fun v u => if late v then u.resetVef v else u)).wr SYS_MODE.BACKSTOP 1 ∧
          t.rd SYS_MODE.BACKSTOP = 1) ∧
      (s.leavingFor 500000000 = false ∨ (∀ v, v < 128 → late v = false) → exec .backstop s = .next s))

/-- Cold, warm and field reset. A cold reset leaves every register at its Cold value but LAST_CAUSE, which names POR_N or the
supply monitor, no time elapsed, no memory and no key, and keeps the flash; ROM's cold path follows once, at COLD_BOOT.
Outside PARK a pulse of WARM_N is a warm reset with cause 0b0011, and a write of WARM with KEY 0xA5 by firmware or the
hypervisor one with cause 0b0100; any other key does nothing; the Cantle's write only counts as denied. A field reset of a
number above 16, of a SAFETY field or field 16 by another than the Cantle, and of a FREE, LOADING or CLEARING field is
refused and counted. Where the requester may reset the field and no reset of it is remembered, a RUNNING field is killed with
the reset remembered, one that drains remembers it, and an IDLE or STOPPED field is re-initialised at once; one more reset of
the same field changes nothing -/
def Obligations.ResetCommands : Prop :=
  (∀ (byMonitor : Bool) (s : State), ∃ t, exec (.coldReset byMonitor) s = .next t ∧
      t.regs = [(SYS_RST.LAST_CAUSE.code 0 0, if byMonitor then 2 else 1)] ∧ t.time.acc = [] ∧ t.mem = MemState.cold ∧
      t.fw.flash = s.fw.flash ∧ t.mode.trans = some (.boot false) ∧ t.fw.romRan = false) ∧
    (∀ (straps : Fin 16) (fails : List BootFail) (chans : List (Fin 64)) (s : State) (park : Bool),
      s.mode.trans = some (.boot park) → s.fw.romRan = false →
      exec (.coldBoot straps fails chans) s = .next (s.coldBoot straps fails chans)) ∧
    (∀ s : State, s.outsidePark = true → exec .warmNPulse s = .next (s.warmReset 3)) ∧
    (∀ (src : Source) (key : Fin 256) (s : State), s.outsidePark = true →
      ((s.who src).fwHyp = true → exec (.warmReset src key) s = .next (if key.val = 0xA5 then s.warmReset 4 else s)) ∧
      (s.who src = .cantle → exec (.warmReset src key) s = .next ((s.inc SYS_ACC.DENIED).wr SYS_ACC.LAST_SLOT (bits RegName.sysRst.addr 20 8)))) ∧
    (∀ (straps : Fin 16) (fails : List BootFail) (chans : List (Fin 64)) (s : State),
      s.fw.romRan = true ∨ (∀ park, s.mode.trans ≠ some (.boot park)) → exec (.coldBoot straps fails chans) s = .next s) ∧
    (∀ (src : Source) (n : Fin 32) (s : State), Requester.resetsFields (s.who src) = true →
      (16 < n.val → exec (.fieldReset src n) s = .next ((s.wr SYS_RST.FIELD n).inc SYS_RST.FIELD_REFUSED)) ∧
      ∀ f : Fin 17, n.val = f.val →
        let u := s.wr SYS_RST.FIELD n
        let asked := u.setF f { s.frt f with resetAsked := true }
        (s.who src ≠ .cantle → s.isSafety f = true ∨ f.val = 16 →
          exec (.fieldReset src n) s = .next (u.inc SYS_RST.FIELD_REFUSED)) ∧
        (s.who src = .cantle ∨ (s.isSafety f = false ∧ f.val ≠ 16) →
          ((s.frt f).resetAsked = true → exec (.fieldReset src n) s = .next u) ∧
          ((s.frt f).resetAsked = false →
            (s.fState f = stFree ∨ s.fState f = stLoading ∨ s.fState f = stClearing →
              exec (.fieldReset src n) s = .next (u.inc SYS_RST.FIELD_REFUSED)) ∧
            (s.fState f = stDraining ∨ ((s.fState f = stRunning ∨ s.fState f = stIdle ∨ s.fState f = stStopped) ∧ (s.frt f).faultDrain = true) →
              exec (.fieldReset src n) s = .next asked) ∧
            (s.fState f = stRunning → (s.frt f).faultDrain = false → exec (.fieldReset src n) s = .next (asked.killField f)) ∧
            (s.fState f = stIdle ∨ s.fState f = stStopped → (s.frt f).faultDrain = false →
              exec (.fieldReset src n) s = .next (asked.startReinit f)))))

/-- Rails, switched domains and PLLs follow what is needed and what is valid. A rail that reaches valid joins the valid
rails, and isolation follows them; a rail that leaves valid is dropped, and where the device wants it, supply-monitor fault
0x07 is reported. A needed domain that has not failed comes up, counted, once its rails are valid; one no longer needed goes
OFF with the PLLs that nothing needs; a needed half-quadrant or fabric domain that does not come up is marked failed and ends
the loads that wait for it, and one of the display, ingress, Pass and later domains is a die-level fault. A PLL that is
needed locks -/
def Obligations.RailsAndDomains : Prop :=
  (∀ (r : Fin 11) (s : State), r.val ∉ s.power.rails →
      ∃ t, exec (.railValid r) s = .next t ∧ t.power.rails = r.val :: s.power.rails ∧
        (∀ d < 25, d ∈ t.power.joined ↔ t.railsGood d = true) ∧ t.regs = s.regs ∧ t.mem = s.mem) ∧
    (∀ (r : Fin 11) (s : State), r.val ∈ s.power.rails →
      exec (.railInvalid r) s =
        .next (let t := ({ s with power := { s.power with rails := s.power.rails.filter (· != r.val) } } : State).joinDomains
          if s.wantsRail r then t.report 0x07 none else t)) ∧
    (∀ (d : Fin 24) (s : State), s.domNeeded d = true → s.flag PWR_DOM.FAIL d = false → s.railsGood d = true → s.rd PWR_DOM.STATE d ≠ domOn →
      exec (.domainPowerUp d) s = .next ((s.wr PWR_DOM.STATE domOn d).inc PWR_DOM.UPS d)) ∧
    (∀ (d : Fin 24) (s : State), s.domNeeded d = false → s.rd PWR_DOM.STATE d ≠ 0 →
      exec (.domainPowerDown d) s = .next (s.wr PWR_DOM.STATE 0 d).stopPlls) ∧
    (∀ (d : Fin 24) (s : State), s.domNeeded d = true → s.rd PWR_DOM.STATE d ≠ domOn → s.flag PWR_DOM.FAIL d = false →
      exec (.domainPowerFail d) s =
        .next (if d.val ≤ 8 then (s.wr PWR_DOM.FAIL 1 d).failLoadsIn d
          else if 15 ≤ d.val then (s.wr PWR_DOM.FAIL 1 d).report 0x07 none else s.wr PWR_DOM.FAIL 1 d)) ∧
    (∀ (p : Fin 24) (s : State), s.pllNeeded p = true → p.val ∉ s.power.locked →
      exec (.pllLock p) s = .next { s with power := { s.power with locked := p.val :: s.power.locked } })

/-- The unit state machine. For display heads, Pass ports, CAN controllers and Ethernet ports: ENABLE written by a requester
that may write it starts a unit that is OFF and in service, and in STARTING or STOPPING sets or clears PENDING as the write
opposes or agrees with the transition; ENABLE written 0 starts STOPPING in ON. STARTING ends in ON, or in STOPPING with
PENDING cleared; STOPPING ends in OFF, or in STARTING. A unit not ON within its bound stays in STARTING and is taken out of
service. Units held back by configuration ignore the writes -/
def Obligations.UnitMachine : Prop :=
  (∀ (src : Source) (u : UnitSel) (s : State), unitBy u (s.who src) = true →
      exec (.unitEnable src u) s = .next (s.enableUnit u) ∧ exec (.unitDisable src u) s = .next (s.unitOffWrite u)) ∧
    (∀ (u : UnitSel) (s : State), s.unitHeld u = true → s.unitOnWrite u = s ∧ s.unitOffWrite u = s) ∧
    (∀ (u : UnitSel) (s : State), s.unitHeld u = false →
      s.unitOnWrite u = (let t := s.setEnable u 1
        if t.unitState u = uOff then t.startUnit u else if t.unitState u = uStarting then t.setPending u false
        else if t.unitState u = uStopping then t.setPending u true else t) ∧
      s.unitOffWrite u = (let t := s.setEnable u 0
        if t.unitState u = uStarting then t.setPending u true else if t.unitState u = uOn then t.setUnit u uStopping
        else if t.unitState u = uStopping then t.setPending u false else t)) ∧
    (∀ (u : UnitSel) (s : State), s.unitState u = uStarting → s.rd PWR_DOM.STATE (unitDomain u) = domOn →
      exec (.unitStartingDone u) s =
        .next (if s.unitPending u then (s.setPending u false).setUnit u uStopping else (s.setUnit u uOn).unitUp u)) ∧
    (∀ (u : UnitSel) (s : State), s.unitState u = uStopping →
      exec (.unitStoppingDone u) s =
        .next (let t := ((s.setPending u false).setUnit u uOff).unitDown u
          if s.unitPending u then t.startUnit u else t)) ∧
    (∀ (u : UnitSel) (s : State), s.unitState u = uStarting → s.rd BIST_UNIT.STATE (unitBist u) = 0 →
      Sparse.look 0 s.power.unitSince (unitBist u) + unitBound u ≤ s.localNs →
      exec (.unitStartTimeout u) s = .next (s.unitOut (unitBist u)))

/-- The limiter acts once per 1 ms window, one step down or up, and its limits cap the host clocks. Outside PARK, at the end
of a window the measured power and hottest junction are stored, saturated; AT_FLOOR is set exactly where every class is at
its floor and the power is above the limit; where the power is above the limit or a junction above TJ_THROTTLE, the first
class above its floor goes down by one, and where the power is below the limit by more than the hysteresis and the junctions
are 5 degrees below, the last class below its top goes up by one. A junction above 130 degrees is fault 0x08 -/
def Obligations.PowerLimiter : Prop :=
  (∀ (w tj : Nat) (s : State), s.outsidePark = true → s.power.window / 1000000 < s.localNs / 1000000 →
      ∃ t, exec (.limiterWindow w tj) s = .next t ∧
        t = ({ s with power := { s.power with window := s.localNs / 1000000 * 1000000 } } : State).limiterStep w tj ∧
        t.rd PWR_STAT.POWER_W = min w 1023 ∧ t.rd PWR_STAT.TJ_MAX = min tj 255 ∧
        t.rd PWR_STAT.AT_FLOOR = b2n (throttles.all (fun x => decide (s.rd x.1 ≤ x.2.1)) && decide (s.wattLimit < w)) ∧
        (130 < tj → t.saf.reports = s.saf.reports ++ [⟨0x08, none, s.vehicleNs⟩]) ∧ (tj ≤ 130 → t.saf = s.saf)) ∧
    (∀ (w tj : Nat) (s : State), (s.outsidePark = false ∨ s.localNs / 1000000 ≤ s.power.window / 1000000) →
      exec (.limiterWindow w tj) s = .next s) ∧
    (∀ s : State, (∀ x ∈ throttles, s.rd x.1 ≤ x.2.1) → s.lowerOne = s) ∧
    (∀ s : State, (∀ x ∈ throttles, x.2.2 ≤ s.rd x.1) → s.raiseOne = s) ∧
    (∀ s : State, 0 < s.rd PWR_STAT.BATCH → s.lowerOne = s.wr PWR_STAT.BATCH (s.rd PWR_STAT.BATCH - 1)) ∧
    (∀ s : State, s.rd PWR_STAT.RT < 15 → s.raiseOne = s.wr PWR_STAT.RT (s.rd PWR_STAT.RT + 1))

/-- A rate outside the limits of TB_INC stores the nearest limit. A write of TB_INC[n] by firmware stores the value for n = 0
to 2 where it lies in 0x01_FF7C_ED91 to 0x02_0083_126F, and otherwise the nearest limit with TB_STAT.CLAMP set; a write of
TB_INC[3] changes nothing; the next tick advances the base by the value stored -/
def Obligations.RateWrites : Prop :=
  (∀ (src : Source) (s : State) (n : Fin 4) (v : Nat), s.who src = .firmware → v < 2 ^ 40 →
      exec (.tbIncWrite src n v) s = .next (if n = 3 then s
        else if v < 0x1FF7CED91 then (s.wr TB_INC.INC 0x1FF7CED91 n).wr TB_STAT.CLAMP 1
        else if 0x20083126F < v then (s.wr TB_INC.INC 0x20083126F n).wr TB_STAT.CLAMP 1 else s.wr TB_INC.INC v n)) ∧
    ∀ (s : State) (n : Nat), s.flag TB_STAT.PARK_CLK = false → s.tickInc n = s.rd TB_INC.INC n * 128 ∧ nsUnit = 2 ^ 32 * 128

/-- SNAP, steps and the gPTP service. For firmware, SNAP copies all four bases into TB_SNAP at one tick; the low word of
TB_OFS[0..2] is held and applies nothing; a write of its high word forms the step from it and from the low word given or
held, replacing one formed before; base 3 ignores the writes. Loss of the grandmaster leaves the base its rate. Every 125 ms
at most, the service sends Sync on each master port that is ON, and every 1 s at most a peer-delay request on a port that
takes part in a domain -/
def Obligations.TimeBaseCommands : Prop :=
  (∀ (src : Source) (s : State), s.who src = .firmware →
    (exec (.snap src) s = .next ((((s.wr TB_SNAP.VALUE (s.baseValue 0) 0).wr TB_SNAP.VALUE (s.baseValue 1) 1).wr TB_SNAP.VALUE
      (s.baseValue 2) 2).wr TB_SNAP.VALUE (s.baseValue 3) 3)) ∧
    (∀ (n : Fin 4) (low : Nat), low < 2 ^ 32 →
      exec (.tbOfsLowWrite src n low) s =
        .next (if n = 3 then s else { s with time := { s.time with hold := Sparse.put 0 s.time.hold n low } })) ∧
    (∀ (n : Fin 4) (high : Nat) (low : Option Nat), high < 2 ^ 32 →
      exec (.timeStep src n high low) s = .next (
        let ofs := signed 64 (high * 2 ^ 32 + low.getD (Sparse.look 0 s.time.hold n) % 2 ^ 32)
        if n = 3 then s else { s with time := { s.time with step := Sparse.put none s.time.step n (some ofs) } }))) ∧
    (∀ (d : Fin 3) (s : State), exec (.grandmasterLoss d) s = .next { s with gw := { s.gw with slave := Sparse.put none s.gw.slave d none } }) ∧
    (∀ (d : Fin 3) (s : State), s.fwDown 7 = false → s.outsidePark = true → (∀ t ∈ Sparse.look none s.gw.synced d, within t 125000000 s.localNs = false) →
      exec (.gptpSyncSend d) s = .next (
        let t := s.each 10 (fun p s => if (s.gptpPorts d).testBit p ∧ s.rd GW_PORT.STATE p = 2 ∧ Sparse.look none s.gw.slave d ≠ some p then
          s.emit (.gptpSync d p) else s)
        { t with gw := { t.gw with synced := Sparse.put none t.gw.synced d (some s.localNs) } })) ∧
    (∀ (p : Fin 10) (s : State), s.fwDown 7 = false → s.outsidePark = true → s.rd GW_PORT.STATE p = 2 →
      (∃ d < 3, (s.gptpPorts d).testBit p = true) → (∀ t ∈ Sparse.look none s.gw.delayed p, within t 1000000000 s.localNs = false) →
      exec (.pdelaySend p) s =
        .next { s with out := .pdelay p :: s.out, gw := { s.gw with delayed := Sparse.put none s.gw.delayed p (some s.localNs) } })

/-- How a microword runs, repeats, stalls, retires and faults. Each of the 28 microword commands (CONTROL, MATRIX, VECTOR,
STREAM, MOVER and SIGNAL classes) completes in every state. At a cell of a running field whose sequencer stands at that
microword, after the fetch has corrected a single-bit error of the word: with no repetition possible (no flit, no room, no
token) the cell stalls and nothing else changes; wrong parity in an address generator of its operands is a contained fault;
otherwise every repetition that can be made now is made, and the microword retires after its last, or waits for the flits of
the next; an error that a repetition meets is raised as a contained fault of the field on the state that the repetitions
before it left. The same command leaves a cell unchanged whose field is not running or whose sequencer is halted, and does no
more than the fetch at another legal microword or where its event is not set; an error of the fetch is a fault, a format
error ends the command. END then begins the next command, where the cell has ended its part of the current one -/
def Obligations.MicrowordsComplete : Prop :=
  ∀ (c : Instr) (s : State) (cell : Nat) (w : Word), wordOf s c = some (cell, w) →
    (∀ (f : Fin 17) (m : Micro) (u : State), Executes s u cell f m w.cls w.op →
      let left := w.total m - (s.cell cell).rep
      let n := (s.cell cell).ready m left
      (n = 0 → exec c s = .next (w.after (u.setCell cell { s.cell cell with waiting := m.inEn || m.outEn }))) ∧
      (0 < n → ∀ k, u.gensBad cell m (w.opds m) = some k → exec c s = .next (w.after (u.raise f cell (.parity k)))) ∧
      (0 < n → u.gensBad cell m (w.opds m) = none → ∀ e t, u.reps cell m (w.opds m) w.body (s.cell cell).rep n = .error (e, t) →
        exec c s = .next (w.after (t.raise f cell e))) ∧
      (0 < n → u.gensBad cell m (w.opds m) = none → ∀ t, u.reps cell m (w.opds m) w.body (s.cell cell).rep n = .ok t →
        exec c s = .next (w.after (if n < left then t.setCell cell { t.cell cell with rep := (s.cell cell).rep + n, waiting := true }
          else t.retired cell f m (w.next (t.cell cell) m))))) ∧
    (s.liveField cell = none → exec c s = .next s) ∧
    ((s.cell cell).running = false → exec c s = .next s) ∧
    (∀ f e, s.liveField cell = some f → (s.cell cell).running = true → s.microAt cell (s.cell cell).pc = .error e →
      exec c s = .next (w.after (s.raise f cell e))) ∧
    ∀ f m, s.liveField cell = some f → (s.cell cell).running = true → s.microAt cell (s.cell cell).pc = .ok m →
      let u := s.fetchFix f cell (s.cell cell).pc
      (m.reserved = true → exec c s = .next (w.after (u.microError f (s.cell cell).job))) ∧
      (m.reserved = false → (m.cls ≠ w.cls ∨ m.op ≠ w.op) → exec c s = .next u) ∧
      (m.cls = w.cls → m.op = w.op → m.formatError = true → exec c s = .next (w.after (u.microError f (s.cell cell).job))) ∧
      (m.cls = w.cls → m.op = w.op → m.formatError = false → (s.cell cell).eventOk m = false → exec c s = .next u)

/-- The control and signal microwords and the packets of the packet lane. For every repetition that a cell of a running field
makes of NOP, JUMP, LOOPSET, LOOP, TOKEN, WAITTOK or END, with the flits in and out that its STREAM field names: JUMP goes on
at its target; LOOPSET loads its counter from the loop bound of its number; LOOP decrements its counter modulo 2^32 and jumps
unless that leaves zero; LOOPSET faults where that bound's parity is wrong; TOKEN sends its token to the cell that it names,
or none where that lies outside the field or where the route there meets a fenced link; WAITTOK takes a token that has
arrived; END adds the cell to those that have ended the command and begins the next admitted one, or halts (with no such
command in flight, or at one that it has ended, it only retires). CONTROL_PACKET completes in every state: a token packet
delivers a token sent, START begins the next command of a halted cell, STOP halts a cell while a fault drains, KILL kills it
while the field drains, PROGRESS is a progress event of a running field; each is without effect otherwise, and at a cell of
no field -/
def Obligations.ControlAndSignalWords : Prop :=
  ∀ (s : State) (cell : Fin 2368),
    (∀ (f : Fin 17) (m : Micro) (u : State), let pc := (s.cell cell).pc; let rep := (s.cell cell).rep; let t := u.taken cell m; let d := t.cell cell
      let n := bits m 76 4
      (Steps s u cell f m 0 0 m.loop [] → exec (.controlNop cell) s = .next ((u.streamed cell m).afterRep cell f m rep m.loop (pc + 1))) ∧
      (Steps s u cell f m 0 1 1 [] → exec (.controlJump cell) s = .next ((u.streamed cell m).afterRep cell f m rep 1 (bits m 64 12))) ∧
      (Steps s u cell f m 0 2 1 [] → s.storeBad cell (0x3400 + n * 4) 4 = none →
        exec (.controlLoopset cell) s = .next (((t.setCell cell { d with loops := Sparse.put 0 d.loops n (s.loopBound cell n) }).given cell m none).afterRep
          cell f m rep 1 (pc + 1))) ∧
      (Steps s u cell f m 0 2 1 [] → ∀ w, s.storeBad cell (0x3400 + n * 4) 4 = some w →
        exec (.controlLoopset cell) s = .next (u.raise f cell (.parity w))) ∧
      (Steps s u cell f m 0 3 1 [] →
        exec (.controlLoop cell) s =
          .next (((t.setCell cell { d with loops := Sparse.put 0 d.loops n ((Sparse.look 0 d.loops n + (2 ^ 32 - 1)) % 2 ^ 32) }).given cell m none).afterRep
            cell f m rep 1 (if (Sparse.look 0 d.loops n + (2 ^ 32 - 1)) % 2 ^ 32 = 0 then pc + 1 else bits m 64 12))) ∧
      (Steps s u cell f m 5 0 1 [] → ∀ k, t.cellAt f (bits m 64 6) (bits m 70 6) = some k → t.pathOpen f k 96 cell = true →
        exec (.signalToken cell) s = .next (((t.setCell cell { d with sent := d.sent ++ [(k, n)] }).given cell m none).afterRep cell f m rep 1 (pc + 1))) ∧
      (Steps s u cell f m 5 0 1 [] → (∀ k, t.cellAt f (bits m 64 6) (bits m 70 6) = some k → t.pathOpen f k 96 cell = false) →
        exec (.signalToken cell) s = .next ((u.streamed cell m).afterRep cell f m rep 1 (pc + 1))) ∧
      (Steps s u cell f m 5 1 1 [] → (s.cell cell).tokens.testBit n = true →
        exec (.signalWaittok cell) s = .next (((t.setCell cell { d with tokens := clearBit d.tokens n }).given cell m none).afterRep cell f m rep 1 (pc + 1))) ∧
      (Steps s u cell f m 0 4 1 [] →
        let x := ((t.changeJob (s.cell cell).job (fun j => { j with endedCells := j.endedCells ++ [cell.val] })).given cell m none).afterRep cell f m rep 1 (pc + 1)
        ((∃ j ∈ s.flight, j.cmd.serial = (s.cell cell).job) → (∀ j ∈ s.flight, j.cmd.serial = (s.cell cell).job → cell.val ∉ j.endedCells) →
          exec (.controlEnd cell) s = .next (x.setCell cell (x.cell cell).endJob)) ∧
        ((∀ j ∈ s.flight, j.cmd.serial ≠ (s.cell cell).job) ∨ (∃ j ∈ s.flight, j.cmd.serial = (s.cell cell).job ∧ cell.val ∈ j.endedCells) →
          exec (.controlEnd cell) s = .next x))) ∧
    (∀ f, s.fieldOfCell cell = some f →
      (∀ n k, (s.cellsOf f).find? (fun k => (s.cell k).sent.contains (cell.val, n.val)) = some k →
        exec (.controlPacket cell (.token n)) s =
          .next (let t := s.setCell k { s.cell k with sent := (s.cell k).sent.erase (cell.val, n.val) }
            t.setCell cell { t.cell cell with tokens := setBit (t.cell cell).tokens n })) ∧
      (∀ n, (∀ k ∈ s.cellsOf f, (cell.val, n.val) ∉ (s.cell k).sent) → exec (.controlPacket cell (.token n)) s = .next s) ∧
      (∀ x j rest, (s.cell cell).running = false → (s.cell cell).todo = j :: rest →
        exec (.controlPacket cell (.start x)) s = .next (s.setCell cell { (s.cell cell).begin j with todo := rest })) ∧
      (∀ x, (s.cell cell).running = true ∨ (s.cell cell).todo = [] → exec (.controlPacket cell (.start x)) s = .next s) ∧
      exec (.controlPacket cell .stop) s = .next (if (s.frt f).faultDrain then s.setCell cell (s.cell cell).halt else s) ∧
      exec (.controlPacket cell .kill) s = .next (if s.fState f = stDraining then s.setCell cell (s.cell cell).kill else s) ∧
      exec (.controlPacket cell .progress) s = .next (if s.fState f = stRunning ∧ (s.frt f).faultDrain = false then s.progress f else s)) ∧
    (s.fieldOfCell cell = none → ∀ k, exec (.controlPacket cell k) s = .next s)

/-- One repetition of MMA, MMA_NEW, DRAIN and CHKCMP. With operands that the pocket can read: a repetition of MMA accumulates
one K step of sixteen elements of A by sixteen of B into the 256 accumulators of the bank in use, the first of an MMA_NEW
starting a new tile in the other bank; columns that leave their range are counted in FLD_NUM.RANGE, and a residue that
differs at the comparison of every 64th step is a contained fault. DRAIN faults on such a residue; otherwise it converts the
256 accumulators of the bank not in use to FMT_OUT, counting dropped NaNs and adding to the checksum bank where CHECK is set,
into the pocket at OPB or as flits at the outgoing port. CHKCMP compares the sums of the slice, counts the skipped
comparisons and clears the bank; a comparison that fails is a contained fault. Otherwise the generators named step once and
the microword goes on -/
def Obligations.MatrixWords : Prop :=
  ∀ (s : State) (cell : Fin 2368) (f : Fin 17) (m : Micro) (w : State), let pc := (s.cell cell).pc; let rep := (s.cell cell).rep; let u := w.taken cell m
    let half := halfFmt m.fmtA
    (∀ new t k, u.readStep cell m rep = .ok (t, k) →
      let c0 := if new && rep == 0 then (t.cell cell).newTile else t.cell cell
      let r := c0.accumulate half m.mx (new && rep == 0) (!m.mx || rep % 32 == 31) [k]
      let v := if r.2 = 0 then t.setCell cell r.1 else (t.setCell cell r.1).noteRange f r.2
      let z := if r.1.step64Bad half then v.fldFault f errResidue cell 0
        else ((v.stepGens cell [m.opA, m.opB]).given cell m none).afterRep cell f m rep m.loop (pc + 1)
      (new = false → Steps s w cell f m 1 0 m.loop [m.opA, m.opB] → exec (.matrixMma cell) s = .next z) ∧
      (new = true → Steps s w cell f m 1 1 m.loop [m.opA, m.opB] → exec (.matrixMmaNew cell) s = .next z)) ∧
    (Steps s w cell f m 1 2 m.loop [m.opB] → half = false → (u.cell cell).residueBad (u.cell cell).idleBank = true →
      exec (.matrixDrain cell) s = .next (w.fldFault f errResidue cell 0)) ∧
    (Steps s w cell f m 1 2 m.loop [m.opB] → (half = true ∨ (u.cell cell).residueBad (u.cell cell).idleBank = false) →
      let outs := (u.cell cell).outputs (u.cell cell).idleBank half m.fmtOut ⟨m.sat, none⟩
      let bs := packElems m.fmtOut (outs.map (·.bits))
      let per := m.outFlits * 32 / (fmtBits m.fmtOut / 8)
      let sums (first : Nat) (now : List Conv) : State :=
        let v := u.dropsOf cell now
        if m.check then v.setCell cell ((v.cell cell).check first (now.map (fun x => fp32 (decodeNum m.fmtOut x.bits)))) else v
      (m.outEn = false → ∀ t, (sums 0 outs).writePocket cell ((sums 0 outs).opdAddr cell m.opB rep) bs = .ok t →
        exec (.matrixDrain cell) s = .next ((t.stepGens cell [m.opB]).afterRep cell f m rep m.loop (pc + 1))) ∧
      (m.outEn = true →
        exec (.matrixDrain cell) s = .next ((((sums (rep * per) ((outs.drop (rep * per)).take per)).stepGens cell [m.opB]).given cell m
          (some (flitsOf (bs.drop (rep * m.outFlits * 32)) m.outFlits))).afterRep cell f m rep m.loop (pc + 1)))) ∧
    (Steps s w cell f m 1 3 1 [] → s.storeBad cell (0x3C00 + bits m 64 8 * 2) 2 = none →
      let rs := (u.cell cell).compare (u.tolerance cell (bits m 64 8)) (bits m 24 8 + 1) (bits m 16 8 + 1)
      let v := u.setCell cell { u.cell cell with chk := [] }
      let skipped := (rs.filter (·.isNone)).length
      let z := if skipped = 0 then v else v.noteSkips f skipped
      exec (.matrixChkcmp cell) s = .next (if rs.any (fun r => r == some true) then z.fldFault f errChecksum cell 0
        else (z.given cell m none).afterRep cell f m rep 1 (pc + 1)))

/-- One repetition of each arithmetic operation of the vector unit. Every repetition of ADD, MUL, FMA, CVT and SFU computes
its 32 lanes from its sources, converts them to FMT_OUT with the saturation and the stochastic rounding that the microword
asks for into DST, and counts the NaNs dropped; MAX and MIN do so on the lanes without a NaN, the others are free (the manual
gives them no result), the canonical NaN where that is a NaN; REDUCE writes lane 0 and leaves the other lanes open; ROWSTAT
updates its slot by the rule of running maximum and sum and writes the two factors; CMP writes lanes that the manual leaves
open. The values of the special functions are opaque within the bounds of R33, as are all free lanes -/
def Obligations.VectorArithmetic : Prop :=
  ∀ (s : State) (cell : Fin 2368) (f : Fin 17) (m : Micro) (w : State), let pc := (s.cell cell).pc; let rep := (s.cell cell).rep; let u := w.taken cell m
    let c := u.cell cell
    let xs := c.nums m.src1 m.fmtA
    let ys := c.nums m.src2 m.fmtB
    let goesOn (t : State) : Host.Outcome State Fault Refusal := .next ((t.given cell m none).afterRep cell f m rep m.loop (pc + 1))
    (Steps s w cell f m 2 3 m.loop [] → exec (.vectorAdd cell) s = goesOn (u.vecOut cell m (List.zipWith Machine.Num.add xs ys))) ∧
    (Steps s w cell f m 2 4 m.loop [] → exec (.vectorMul cell) s = goesOn (u.vecOut cell m (List.zipWith Machine.Num.mul xs ys))) ∧
    (Steps s w cell f m 2 5 m.loop [] → exec (.vectorFma cell) s =
      goesOn (u.vecOut cell m (List.zipWith Machine.Num.add (List.zipWith Machine.Num.mul xs ys) (c.nums m.src3 m.fmtOut)))) ∧
    (∀ (max : Bool), let g := if max then Machine.Num.max2 else Machine.Num.min2
      let nan (i : Nat) : Bool := xs.getD i .nan == .nan || ys.getD i .nan == .nan
      let t := u.vecOut cell m (List.zipWith (fun x y => if x == .nan || y == .nan then .fin false 0 0 else g x y) xs ys)
      let r := if (List.zipWith (fun x y => x == Machine.Num.nan || y == Machine.Num.nan) xs ys).any id then
          t.drawn.setCell cell ((t.cell cell).setLanes m.dst ((List.range 32).map (fun i =>
            if nan i then u.openLane m.fmtOut i else (t.cell cell).lane m.dst i)))
        else t
      (max = true → Steps s w cell f m 2 6 m.loop [] → exec (.vectorMax cell) s = goesOn r) ∧
      (max = false → Steps s w cell f m 2 7 m.loop [] → exec (.vectorMin cell) s = goesOn r)) ∧
    (Steps s w cell f m 2 8 m.loop [] → exec (.vectorCvt cell) s = goesOn (u.vecOut cell m xs)) ∧
    (Steps s w cell f m 2 9 m.loop [] → exec (.vectorSfu cell) s = goesOn (u.vecOut cell m (xs.map (fun x =>
      decodeNum fFp32 (sfuOf (bits m 72 4) (fp32 x)))))) ∧
    (Steps s w cell f m 2 10 m.loop [] →
      let rest (d : CellSt) (x : Nat) : CellSt := d.setLanes m.dst (x :: (List.range 31).map (fun i => u.freeLane m.fmtOut (i + 1)))
      (reduceOf (bits m 72 4) m.fmtA xs = none →
        exec (.vectorReduce cell) s = goesOn (u.drawn.setCell cell (rest c (u.openLane m.fmtOut 0)))) ∧
      ∀ x, reduceOf (bits m 72 4) m.fmtA xs = some x →
        let r := c.convert cell m.fmtOut m.sat m.sr [x]
        exec (.vectorReduce cell) s = goesOn ((u.drawn.setCell cell (rest r.1 ((r.2.map (·.bits)).headD 0))).dropsOf cell r.2)) ∧
    (Steps s w cell f m 2 11 m.loop [] →
      let k := bits m 64 8 % 128
      let v := Sparse.look (fpNegInf, 0) c.rowstat k
      let r := rowstat v.1 v.2 (c.lane m.src1 0) (c.lane m.src1 1)
      exec (.vectorRowstat cell) s = goesOn (u.setCell cell (CellSt.setLanes { c with rowstat := Sparse.put (fpNegInf, 0) c.rowstat k r.1 }
        m.dst (r.2.1 :: r.2.2 :: List.replicate 30 0)))) ∧
    (Steps s w cell f m 2 13 m.loop [] →
      exec (.vectorCmp cell) s = goesOn (u.drawn.setCell cell (c.setLanes m.dst ((List.range 32).map (u.freeLane fInt32)))))

/-- One repetition of LOAD, STORE, LDC, QUANT_MX, SEND and RECV. With a pocket that the microword can read and write: LOAD
takes 128 bytes of the pocket at OPB into the 32 lanes of DST; STORE puts the lanes of SRC1 there; LDC takes 128 bytes of the
cell constants, zeros beyond their end; QUANT_MX puts a block of 32 elements and its scale byte, or the zero block with scale
0xFF, counted, where an input is not finite (into a target that is no MX format, free bytes); SEND gives pocket bytes at OPA
to the outgoing port as flits, RECV puts the flits of the incoming port at OPB. Then the generators named step once and the
microword goes on. Bytes of a pocket write are read back, all other bytes of all pockets stay -/
def Obligations.VectorAndStreamMoves : Prop :=
  (∀ (s : State) (cell : Fin 2368) (f : Fin 17) (m : Micro) (w : State), let pc := (s.cell cell).pc; let rep := (s.cell cell).rep; let u := w.taken cell m
    let a := u.opdAddr cell m.opB rep
    (Steps s w cell f m 2 0 m.loop [m.opB] → ∀ t bs, u.readPocket cell a 128 = .ok (t, bs) →
      exec (.vectorLoad cell) s = .next ((((t.setCell cell ((t.cell cell).setLanes m.dst ((List.range 32).map (fun i => Bytes.num bs (i * 4) 4)))).stepGens
        cell [m.opB]).given cell m none).afterRep cell f m rep m.loop (pc + 1))) ∧
    (Steps s w cell f m 2 1 m.loop [m.opB] → ∀ t, u.writePocket cell a (((u.cell cell).lanes m.src1).flatMap (leBytes 4)) = .ok t →
      exec (.vectorStore cell) s = .next (((t.stepGens cell [m.opB]).given cell m none).afterRep cell f m rep m.loop (pc + 1))) ∧
    (Steps s w cell f m 2 2 m.loop [] → s.storeBad cell (0x3E00 + bits m 32 16) 128 = none →
      exec (.vectorLdc cell) s = .next (((u.setCell cell ((u.cell cell).setLanes m.dst ((List.range 32).map (fun i =>
        if 0x3E00 + bits m 32 16 + i * 4 + 4 ≤ 0x4000 then s.stitchNum cell (0x3E00 + bits m 32 16 + i * 4) 4 else 0)))).given cell m none).afterRep
          cell f m rep m.loop (pc + 1))) ∧
    (Steps s w cell f m 2 12 m.loop [m.opB] → mxFmt m.fmtOut = true →
      let so := u.scaleAddr cell m.opB (u.opdSteps cell m.opB rep) 0
      (∀ t v, quantBlock m.fmtOut ((u.cell cell).nums m.src1 fFp32) = none →
        ((u.setCell cell (u.cell cell)).noteDrops f 1).writePocket cell a (packElems m.fmtOut (List.replicate 32 0)) = .ok t →
        t.writePocket cell so [0xFF] = .ok v →
        exec (.vectorQuantMx cell) s = .next (((v.stepGens cell [m.opB]).given cell m none).afterRep cell f m rep m.loop (pc + 1))) ∧
      (∀ vs sc t v, quantBlock m.fmtOut ((u.cell cell).nums m.src1 fFp32) = some (vs, sc) →
        let k := (u.cell cell).convert cell m.fmtOut true m.sr vs
        (u.setCell cell k.1).writePocket cell a (packElems m.fmtOut (k.2.map Conv.bits)) = .ok t →
        t.writePocket cell so [BitVec.ofNat 8 sc] = .ok v →
        exec (.vectorQuantMx cell) s = .next (((v.stepGens cell [m.opB]).given cell m none).afterRep cell f m rep m.loop (pc + 1)))) ∧
    (Steps s w cell f m 2 12 m.loop [m.opB] → mxFmt m.fmtOut = false → ∀ t v,
      u.writePocket cell a ((List.range (packedBytes m.fmtOut 32)).map (Config.undefinedByte u.freeCount)) = .ok t →
      t.writePocket cell (u.scaleAddr cell m.opB (u.opdSteps cell m.opB rep) 0) [Config.undefinedByte u.freeCount 200] = .ok v →
      exec (.vectorQuantMx cell) s = .next (((v.drawn.stepGens cell [m.opB]).given cell m none).afterRep cell f m rep m.loop (pc + 1))) ∧
    (Steps s w cell f m 3 0 m.loop [m.opA] → ∀ t bs, u.readPocket cell (u.opdAddr cell m.opA rep) (m.outFlits * 32) = .ok (t, bs) →
      exec (.streamSend cell) s = .next (((t.stepGens cell [m.opA]).given cell m (some (flitsOf bs m.outFlits))).afterRep cell f m rep m.loop (pc + 1))) ∧
    (Steps s w cell f m 3 1 m.loop [m.opB] → u.partBad cell a ((w.flitsIn cell m).length * 32) = none →
      exec (.streamRecv cell) s = .next (((((u.fixPart cell a ((w.flitsIn cell m).length * 32)).storeFlits cell a (w.flitsIn cell m)).stepGens cell [m.opB]).given cell m none).afterRep cell f m rep m.loop (pc + 1)))) ∧
  ∀ (s t : State) (cell o : Nat) (bs : Bytes), s.writePocket cell o bs = .ok t → bs.length ≤ 0x20000 →
    t.pocketBytes cell o bs.length = bs ∧ t.cells = s.cells ∧
    (∀ F i j, F.spot < 2 ^ 18 → F.spot ≠ PLAIN_FLD_ERR.CE_COUNT.spot → t.rd F i j = s.rd F i j) ∧
    ∀ k, (∀ i < bs.length, k ≠ pocketKey cell (o + i)) → Sparse.look 0 t.mem.pocket k = Sparse.look 0 s.mem.pocket k

/-- Cell-mover transfers, their events, and the stream router. START puts its transfer in progress: a side that names the
Valley with the page that its tag resolves to and, where a page table entry is not cached, waiting for it.
PAGE_TABLE_MISS_FILL completes in every state: it reads the first entry waited for into the cache of the cell's cluster, and
has no effect where the transfer waits for none or the cell has no field. MOVER_HALF_EVENT and MOVER_FULL_EVENT complete in
every state: the half event of a transfer that moves follows its first half, the full event its last piece, which ends the
transfer and is a progress event; a fault on the way ends them with the pieces moved; without a transfer that can move (or
with half of it moved already) there is no effect. STREAM_FLIT completes in every state: a flit at the head of an entry whose
destinations have room and whose addend is there leaves it, is delivered to the local port and forwarded, added to its
addend, over a link that the field's fence leaves open; one routed onto a fenced link is dropped with fault FENCE; wrong
parity in the route entry is a fault; otherwise the flit waits. STREAM_CREDIT completes in every state: a returned credit
frees its channel -/
def Obligations.MoversAndRouters : Prop :=
  (∀ (s : State) (cell : Fin 2368) (f : Fin 17) (m : Micro) (w : State), let pc := (s.cell cell).pc; let u := w.taken cell m
    let n := bits m 64 4
    let x := bits m 68 3
    Steps s w cell f m 4 0 1 [] → ((s.cell cell).xfer x).active = false → (u.frt f).faultDrain = false → u.storeBad cell (0x3540 + n * 64) 64 = none →
    u.liveField cell = some f →
    let p := u.prog cell n
    let j := u.jobOf (u.cell cell).job
    ∀ v a miss z b more, u.sidePage f cell j p p.src false = .ok (v, a, miss) → v.sidePage f cell j p p.dst true = .ok (z, b, more) →
      exec (.moverStart cell) s = .next (((z.setCell cell ((z.cell cell).setXfer x ⟨true, n, 0, p.pieces, (z.cell cell).job, a, b, (miss ++ more).eraseDups⟩)).given
        cell m none).afterRep cell f m (s.cell cell).rep 1 (pc + 1))) ∧
  (∀ (s : State) (f cell : Nat) (j : Option Job) (p : Prog) (x : Side) (wr : Bool),
    (s.valleySide f x = false → s.sidePage f cell j p x wr = .ok (s, none, [])) ∧
    (s.valleySide f x = true → ∀ u b, s.readPocket cell (x.off % 2 ^ 17) 32 = .ok (u, b) → ∀ k a q n, j = some k →
      u.resolveTag f k p x wr (tagOf b) = some (a, q, n) → s.sidePage f cell j p x wr = .ok (u, some a,
        if u.vly.ptCache.any (fun e => e.field == f && e.cluster == cell / 16 && e.seq == q && e.block == n) then [] else [(q, n)]))) ∧
  (∀ (s : State) (cell : Fin 2368) (x : Fin 8),
    (∀ q b rest f, ((s.cell cell).xfer x).miss = (q, b) :: rest → s.fieldOfCell cell = some f →
      exec (.pageTableMissFill cell x) s = .next
        ((s.setCell cell ((s.cell cell).setXfer x { (s.cell cell).xfer x with miss := rest })).cacheEntry f (cell.val / 16) q b)) ∧
    (((s.cell cell).xfer x).miss = [] ∨ s.fieldOfCell cell = none → exec (.pageTableMissFill cell x) s = .next s)) ∧
  (∀ (s : State) (cell : Fin 2368) (x : Fin 8), let t := (s.cell cell).xfer x
    (s.liveField cell = none ∨ t.active = false ∨ t.miss ≠ [] →
      exec (.moverHalfEvent cell x) s = .next s ∧ exec (.moverFullEvent cell x) s = .next s) ∧
    ∀ (f : Fin 17), s.liveField cell = some f → t.active = true → t.miss = [] →
      (t.moved < (t.total + 1) / 2 → let u := s.movePieces f cell t t.moved ((t.total + 1) / 2)
        (((u.cell cell).xfer x).active = true → exec (.moverHalfEvent cell x) s = .next (u.setCell cell
          { (u.cell cell).setXfer x { t with moved := (t.total + 1) / 2 } with half := setBit (u.cell cell).half x })) ∧
        (((u.cell cell).xfer x).active = false → exec (.moverHalfEvent cell x) s = .next u)) ∧
      ((t.total + 1) / 2 ≤ t.moved → exec (.moverHalfEvent cell x) s = .next s) ∧
      let u := s.movePieces f cell t t.moved t.total
      (((u.cell cell).xfer x).active = true →
        exec (.moverFullEvent cell x) s = .next ((u.setCell cell { (u.cell cell).setXfer x { t with active := false, moved := t.total } with
          half := setBit (u.cell cell).half x, full := setBit (u.cell cell).full x }).progress f)) ∧
      (((u.cell cell).xfer x).active = false → exec (.moverFullEvent cell x) s = .next u)) ∧
  (∀ (s : State) (cell : Fin 2368) (e : Fin 40),
    (s.liveField cell = none ∨ (s.cell cell).held e = [] → exec (.streamFlit cell e) s = .next s) ∧
    ∀ (f : Fin 17) (x : Flit) (rest : List Flit), s.liveField cell = some f → (s.cell cell).held e = x :: rest →
    (∀ w, s.storeBad cell (0x3000 + e.val * 16) 16 = some w → exec (.streamFlit cell e) s = .next (s.raise f cell (.parity w))) ∧
    (s.storeBad cell (0x3000 + e.val * 16) 16 = none →
      let r := s.route cell e
      let u := s.popFlit cell e
      let full : Bool := decide ((Sparse.look [] (s.cell cell).port r.port).length ≥ portRoom)
      let addend := ((s.cell cell).held (32 + r.addPort)).head?
      let v := if r.kind = 3 then u.deliverFlit cell r.port x else u
      let z := if r.add then v.popFlit cell (32 + r.addPort) else v
      let y := if r.add then x.plus (addend.getD x) else x
      (r.kind = 2 → e.val < 32 → full = false → exec (.streamFlit cell e) s = .next (u.deliverFlit cell r.port x)) ∧
      (r.kind = 1 ∨ (r.kind = 3 ∧ e.val < 32 ∧ full = false) → (r.add = true → addend.isSome = true) →
        (∀ n, neighbour cell (r.out / 8) = some n → s.linkOpen f cell n = true → Sparse.look 0 (s.cell cell).used r.out < 4 →
          exec (.streamFlit cell e) s = .next (z.forwardFlit cell r.out y n)) ∧
        ((∀ n, neighbour cell (r.out / 8) = some n → s.linkOpen f cell n = false) →
          exec (.streamFlit cell e) s = .next (z.fldFault f errFence cell 0))) ∧
      (r.kind = 0 ∨ (32 ≤ e.val ∧ r.kind ≠ 1) ∨ ((r.kind = 2 ∨ r.kind = 3) ∧ e.val < 32 ∧ full = true) ∨
          ((r.kind = 1 ∨ r.kind = 3) ∧ r.add = true ∧ addend = none) ∨
          ((r.kind = 1 ∨ r.kind = 3) ∧ ∃ n, neighbour cell (r.out / 8) = some n ∧ s.linkOpen f cell n = true ∧ 4 ≤ Sparse.look 0 (s.cell cell).used r.out) →
        exec (.streamFlit cell e) s = .next s))) ∧
  ∀ (s : State) (cell : Fin 2368) (e : Fin 32),
    (∀ n, neighbour cell (e.val / 8) = some n → ((s.cell n).held ((e.val / 8 + 2) % 4 * 8 + e.val % 8)).length < Sparse.look 0 (s.cell cell).used e →
      exec (.streamCredit cell e) s = .next (s.setCell cell { s.cell cell with
        used := Sparse.put 0 (s.cell cell).used e (Sparse.look 0 (s.cell cell).used e - 1) })) ∧
    ((∀ n, neighbour cell (e.val / 8) = some n → Sparse.look 0 (s.cell cell).used e ≤ ((s.cell n).held ((e.val / 8 + 2) % 4 * 8 + e.val % 8)).length) →
      exec (.streamCredit cell e) s = .next s)

/-- HBM holds each byte once and reads back what was written. No two addresses of the usable HBM are stored in one place,
whatever the region table says. A byte written to an address of the usable HBM whose selector holds a key reads back as
written, and every byte of HBM stored in another line reads as before; one written elsewhere changes nothing, and such an
address reads zero. No register and no other memory changes. A store outside register space and the doorbell pages goes to
memory: firmware's outside the SRAM windows, and a VEF's inside its regions; a VEF's outside them is counted in
VEF_VIOL.REGION and nothing else changes. That the row REGISTER_WRITE carries such a store is the model's own choice (log
entry 19) -/
def Obligations.HbmBytes : Prop :=
  (∀ (s : State) (a b : Nat), s.inHbm a = true → s.inHbm b = true → s.place a = s.place b → a = b) ∧
    (∀ (s : State) (a : Nat) (x : Byte), s.inHbm a = true → s.keyAt a ≠ 0 → (s.putByte a x).byteAt a = x ∧
      ∀ b, s.place b / 64 ≠ s.place a / 64 → (s.putByte a x).byteAt b = s.byteAt b) ∧
    (∀ (s : State) (a : Nat) (x : Byte), (s.inHbm a = false ∨ s.keyAt a = 0) → s.putByte a x = s ∧ s.byteAt a = 0) ∧
    (∀ (s : State) (a : Nat) (x : Byte), (s.putByte a x).regs = s.regs ∧ (s.putByte a x).mem.pocket = s.mem.pocket ∧
      (s.putByte a x).mem.sram = s.mem.sram ∧ (s.putByte a x).mem.stitch = s.mem.stitch ∧ (s.putByte a x).mem.keys = s.mem.keys ∧
      (s.putByte a x).mem.marks = s.mem.marks) ∧
    ∀ (s : State) (src : Source) (a b v : Nat), inRegSpace a = false → inPages a = false →
      (s.who src = .firmware → sramPlace a = none →
        exec (.registerWrite src a b v) s = .next (s.memWrite a (leBytes b v))) ∧
      ∀ k, s.who src = .vef k →
        (s.regionOk k a = true → s.regionOk k (a + b - 1) = true →
          exec (.registerWrite src a b v) s = .next (s.memWrite a (leBytes b v))) ∧
        ((s.regionOk k a = false ∨ s.regionOk k (a + b - 1) = false) →
          exec (.registerWrite src a b v) s = .next (s.inc VEF_VIOL.REGION k))

/-- A system-DMA command from its assignment to its result. COPY, FILL and CHECKSUM complete in every state: the command at
the head of the DMA engine's queues is assigned to an idle channel of the engine (it leaves the queue, is in flight on that
channel, and the channel's BUSY, VEF and BYTES say so); with no such command or no idle channel nothing changes.
DMA_CHANNEL_START completes in every state: an engine that moves nothing starts its next channel, INTERACTIVE before BATCH
and then the oldest, and one that moves data, or has none to start, does nothing. DMA_CHANNEL_DONE completes in every state:
the bytes of the channel's command have been moved, DMA_CH_CRC holds the CRC-32C of the bytes issued and DMA_CH_BYTES their
number, and the command has ended with that CRC, tainted where bytes were read poisoned; a channel that moves nothing ignores
it. DMA_CHANNEL_DISABLE completes in every state: firmware or the hypervisor stops the channel at once, and its command
returns to the head of its queue; a disabled channel stays so, and anyone else is refused -/
def Obligations.DmaChannels : Prop :=
  (∀ (e : Fin 4) (s : State),
    (∀ (c : Cmd) (k : Nat), s.dmaHead e [0, 1, 2, 3] = some c → s.idleChannel e = some k →
      let u := s.dequeue c.serial
      let t := { u with flight := u.flight ++ [{ c.job (.dma e) u.localNs with chan := k }] }
      let r := .next (((t.wr DMA_CH_CTL.BUSY 1 k).wr DMA_CH_CTL.VEF c.vef k).wr DMA_CH_BYTES.BYTES 0 k)
      (c.opcode = 0x10 → exec (.copy e) s = r) ∧ (c.opcode = 0x11 → exec (.fill e) s = r) ∧ (c.opcode = 0x12 → exec (.checksum e) s = r)) ∧
    (s.idleChannel e = none → exec (.copy e) s = .next s ∧ exec (.fill e) s = .next s ∧ exec (.checksum e) s = .next s) ∧
    ((∀ c, s.dmaHead e [0, 1, 2, 3] = some c → c.opcode ≠ 0x10) → exec (.copy e) s = .next s) ∧
    ((∀ c, s.dmaHead e [0, 1, 2, 3] = some c → c.opcode ≠ 0x11) → exec (.fill e) s = .next s) ∧
    ((∀ c, s.dmaHead e [0, 1, 2, 3] = some c → c.opcode ≠ 0x12) → exec (.checksum e) s = .next s)) ∧
  (∀ (e : Fin 4) (s : State),
    (∀ j, (∀ i ∈ s.jobsOn (.dma e), i.started = true → i.outcome ≠ .running) → s.nextJob e = some j →
      exec (.dmaChannelStart e) s = .next (s.changeJob j.cmd.serial (fun j => { j with started := true }))) ∧
    (s.nextJob e = none ∨ (∃ i ∈ s.jobsOn (.dma e), i.started = true ∧ i.outcome = .running) → exec (.dmaChannelStart e) s = .next s)) ∧
  (∀ (chan : Fin 32) (remote : FabricData) (s : State),
    let find := s.flight.find? (fun j => j.chan == chan.val && j.started && decide (j.outcome = .running) && j.res == .dma ⟨chan.val / 8, by omega⟩)
    (find = none → exec (.dmaChannelDone chan remote) s = .next s) ∧
    ∀ (j : Job), find = some j →
    let r := s.dmaMove j.cmd remote.bytes remote.bad
    ∃ t, exec (.dmaChannelDone chan remote) s = .next t ∧ t.mem = r.1.mem ∧
      t.rd DMA_CH_CRC.CRC chan = crc32c r.2.1 % 2 ^ 32 ∧ t.rd DMA_CH_BYTES.BYTES chan = j.cmd.length % 2 ^ DMA_CH_BYTES.BYTES.w ∧
      t.queue = r.1.queue ∧
      ∀ i ∈ t.flight, i.cmd.serial = j.cmd.serial → i.outcome = .ended 0 0 (crc32c r.2.1) ∧ i.tainted = !r.2.2.isEmpty ∧ i.crc = crc32c r.2.1) ∧
  ∀ (src : Source) (chan : Fin 32) (s : State),
    ((s.who src).fwHyp = true → s.flag DMA_CH_CTL.DISABLE chan = false →
      exec (.dmaChannelDisable src chan) s = .next ((s.wr DMA_CH_CTL.DISABLE 1 chan).haltChannel chan true)) ∧
    ((s.who src).fwHyp = true → s.flag DMA_CH_CTL.DISABLE chan = true → exec (.dmaChannelDisable src chan) s = .next s) ∧
    ((s.who src).fwHyp = false → exec (.dmaChannelDisable src chan) s = .next (s.denied (s.who src) (RegName.dmaChCtl.addr chan))) ∧
    (s.flight.find? (fun j => j.chan == chan.val && j.res == .dma ⟨chan.val / 8, by omega⟩) = none → s.haltChannel chan true = s) ∧
    ∀ j, s.flight.find? (fun j => j.chan == chan.val && j.res == .dma ⟨chan.val / 8, by omega⟩) = some j →
      let t := s.haltChannel chan true
      (∃ e, t.queue.head? = some (.dma e, j.cmd.again)) ∧ t.rd DMA_CH_CTL.BUSY chan = 0 ∧ ∀ i ∈ t.flight, i.cmd.serial ≠ j.cmd.serial

/-- Key commands, Valley pools and the scrubs. KEY_GENERATE and KEY_ZEROISE complete in every state: firmware starts a key
command where none is in progress and no valid region selects the slot, else MEM_STAT.KEY_REFUSED counts it; anyone else is
denied. KEY_CMD_DONE completes in every state: a generated slot holds a key never used before, a zeroised slot none, a VEF
that waited for its key is ACTIVE, and a waiting command follows; with no command in progress nothing changes. PATROL_SCRUB
completes in every state: it corrects and counts a single-bit error of a word in service, reporting 0x30, counts a double-bit
error with its pseudo-channel, and leaves a word without one, or out of service, as it is. STITCH_SCRUB completes in every
state: a stitch-store word found with wrong parity is a fault of the cell's field, where it has one; otherwise only the words
found are marked. POOL_VALID, POOL_READY and POOL_INVALIDATE complete in every state: the hypervisor makes a pool valid under
a new nonzero generation, or is refused; firmware readies it empty, or adopted; the hypervisor invalidates an unbound pool; a
pool that is already so, or bound, stays, and anyone else is denied. POCKET_WINDOW_WRITE completes in every state: each byte
of a write by the management cores through the SRAM windows reaches the memories of clusters whose field does not run and
changes no other byte there; any other write is ignored -/
def Obligations.KeysPoolsAndScrubs : Prop :=
  (∀ (src : Source) (k : Fin 128) (s : State), s.who src = .firmware →
    ((s.mem.keyCmd.isSome = true ∨ s.slotInUse k = true) → exec (.keyGenerate src k) s = .next (s.inc MEM_STAT.KEY_REFUSED) ∧
      exec (.keyZeroise src k) s = .next (s.inc MEM_STAT.KEY_REFUSED)) ∧
    (s.mem.keyCmd = none → s.slotInUse k = false →
      exec (.keyGenerate src k) s = .next { s.wr MEM_STAT.KEY_BUSY 1 with mem := { s.mem with keyCmd := some ⟨k, true, false⟩ } } ∧
      exec (.keyZeroise src k) s = .next { s.wr MEM_STAT.KEY_BUSY 1 with mem := { s.mem with keyCmd := some ⟨k, false, false⟩ } })) ∧
  (∀ (src : Source) (k : Fin 128) (s : State), s.who src ≠ .firmware →
    exec (.keyGenerate src k) s = .next (s.denied (s.who src) RegName.memKeyCmd.addr) ∧
    exec (.keyZeroise src k) s = .next (s.denied (s.who src) RegName.memKeyCmd.addr)) ∧
  (∀ s : State, s.mem.keyCmd = none → exec .keyCmdDone s = .next s) ∧
  (∀ (s : State) (k : KeyCmd), s.mem.keyCmd = some k →
    ∃ t, exec .keyCmdDone s = .next t ∧ Sparse.look 0 t.mem.keys k.slot = (if k.generate then s.mem.keySerial + 1 else 0) ∧
      t.mem.keySerial = (if k.generate then s.mem.keySerial + 1 else s.mem.keySerial) ∧
      (∀ n, n ≠ k.slot → Sparse.look 0 t.mem.keys n = Sparse.look 0 s.mem.keys n) ∧ t.mem.hbm = s.mem.hbm ∧ t.mem.tags = s.mem.tags ∧
      t.mem.keyCmd = s.mem.keyWait.head? ∧ t.mem.keyWait = s.mem.keyWait.tail ∧
      (s.mem.keyWait = [] → t.rd MEM_STAT.KEY_BUSY = 0) ∧ (k.forVef = true → k.generate = true → t.rd VEF_CTL.STATE k.slot = vActive)) ∧
  (∀ (w : Nat) (found : Fin 3) (s : State), w * 8 / pcBytes ∈ s.pcs →
    let e := if found.val = 0 then Sparse.look 0 s.mem.hbmErr w else max found.val (Sparse.look 0 s.mem.hbmErr w)
    (e = 0 → exec (.patrolScrub w found) s = .next s) ∧
    (e = 1 → ∃ t, exec (.patrolScrub w found) s = .next t ∧ Sparse.look 0 t.mem.hbmErr w = 0 ∧ t.rd MEM_ECC.CE = min (s.rd MEM_ECC.CE + 1) (2 ^ MEM_ECC.CE.w - 1) ∧
        t.saf.reports = s.saf.reports ++ [⟨0x30, none, s.vehicleNs⟩]) ∧
    (2 ≤ e → ∃ t, exec (.patrolScrub w found) s = .next t ∧ t.rd MEM_ECC.LAST_PC = w * 8 / pcBytes % 2 ^ MEM_ECC.LAST_PC.w ∧ t.saf = s.saf)) ∧
  (∀ (w : Nat) (found : Fin 3) (s : State), w * 8 / pcBytes ∉ s.pcs → exec (.patrolScrub w found) s = .next s) ∧
  (∀ (cell : Fin 2368) (bad : List Nat) (s : State),
    let marks := (bad.filter (· < 0x1000)).foldl (fun t w => Sparse.put false t (cell.val * 0x1000 + w) true) s.mem.stitchBad
    let u := { s with mem := { s.mem with stitchBad := marks } }
    (s.fieldOfCell cell = none ∨ (∀ w < 0x1000, Sparse.look false marks (cell.val * 0x1000 + w) = false) → exec (.stitchScrub cell bad) s = .next u) ∧
    ∀ (f : Fin 17) w, s.fieldOfCell cell = some f.val → (List.range 0x1000).find? (fun w => Sparse.look false marks (cell.val * 0x1000 + w)) = some w →
      exec (.stitchScrub cell bad) s = .next ((u.setF f { u.frt f with needReinit := true }).fldFault f errStitch cell w)) ∧
  (∀ (src : Source) (p : Fin 16) (s : State), s.who src ≠ .hypervisor →
    exec (.poolValid src p) s = .next (s.denied (s.who src) (RegName.vlyPool.addr p)) ∧
    exec (.poolInvalidate src p) s = .next (s.denied (s.who src) (RegName.vlyPool.addr p))) ∧
  (∀ (src : Source) (p : Fin 16) (s : State), s.who src = .hypervisor →
    (s.flag VLY_POOL.VALID p = true → exec (.poolValid src p) s = .next s) ∧
    (s.flag VLY_POOL.VALID p = false ∨ s.flag VLY_POOL.BOUND p = true → exec (.poolInvalidate src p) s = .next s) ∧
    (s.flag VLY_POOL.VALID p = false → s.poolRefused p = true → exec (.poolValid src p) s = .next (s.inc VLY_STAT.CFG_REFUSED)) ∧
    (s.flag VLY_POOL.VALID p = false → s.poolRefused p = false → exec (.poolValid src p) s = .next ((s.wr VLY_POOL.VALID 1 p).wr VLY_POOL.GENERATION
      (if s.rd VLY_POOL.GENERATION p ≥ 0xFFFF then 1 else s.rd VLY_POOL.GENERATION p + 1) p)) ∧
    (s.flag VLY_POOL.VALID p = true → s.flag VLY_POOL.BOUND p = false →
      ∃ t, exec (.poolInvalidate src p) s = .next t ∧ t.flag VLY_POOL.VALID p = false ∧ t.flag VLY_POOL.READY p = false ∧
        t.rd VLY_POOL.FREE_GROUPS p = 0)) ∧
  (∀ (p : Fin 16) (s : State), s.flag VLY_POOL.VALID p = false ∨ s.flag VLY_POOL.READY p = true → exec (.poolReady p) s = .next s) ∧
  (∀ (p : Fin 16) (s : State), s.flag VLY_POOL.VALID p = true → s.flag VLY_POOL.READY p = false →
    (s.flag VLY_POOL.ADOPT p = false → exec (.poolReady p) s = .next ((s.setPool p PoolSt.empty).wr VLY_POOL.READY 1 p)) ∧
    (∀ x, s.flag VLY_POOL.ADOPT p = true → s.poolAdopt p = some x → exec (.poolReady p) s = .next ((s.setPool p x).wr VLY_POOL.READY 1 p)) ∧
    (s.flag VLY_POOL.ADOPT p = true → s.poolAdopt p = none →
      exec (.poolReady p) s = .next (((s.inc VLY_STAT.CFG_REFUSED).setPool p PoolSt.empty).wr VLY_POOL.READY 1 p))) ∧
  (∀ (src : Source) (a : Nat) (data : Bytes) (s : State),
    (src = .mgmt → exec (.pocketWindowWrite src a data) s = .next (data.zipIdx.foldl (fun s b =>
      s.sramPut (a + b.2) b.1 (decide (a ≤ (a + b.2) / 8 * 8) && decide ((a + b.2) / 8 * 8 + 8 ≤ a + data.length))) s)) ∧
    (src ≠ .mgmt → exec (.pocketWindowWrite src a data) s = .next s)) ∧
  ∀ (a : Nat) (b : Byte) (whole : Bool) (s : State),
    (sramPlace a = none → s.sramPut a b whole = s) ∧
    ∀ pk k o, sramPlace a = some (pk, k, o) →
      (s.sramOpen k = false → s.sramPut a b whole = s) ∧
      (s.sramOpen k = true → (whole = true ∨ Sparse.look 0 (if pk then s.mem.pocketErr else s.mem.sramErr) (o / 8) = 0) →
        let t := s.sramPut a b whole
        Sparse.look 0 (if pk then t.mem.pocket else t.mem.sram) o = b ∧ t.regs = s.regs ∧ t.cells = s.cells ∧
        ∀ n, (pk = false ∨ n ≠ o → Sparse.look 0 t.mem.pocket n = Sparse.look 0 s.mem.pocket n) ∧
          (pk = true ∨ n ≠ o → Sparse.look 0 t.mem.sram n = Sparse.look 0 s.mem.sram n))

/-- A field load fails, attaches or is placed. FIELD_LOAD and DIGEST_WAIT_RESOLVE complete in every state. The loader takes
the first FIELD_LOAD by class; with none to take, or its firmware component out, nothing changes. A FIELD operand that R48 or
R49 refuses completes NO_FIELD with its cause; an image that fails a check completes IMAGE_MISMATCH with the first failing
check's cause; a new placement of an image that a field of the same class and domain holds attaches to that field, loads
nothing and completes DONE with the field's handle; one of an image that is still loading waits for that load; every other is
placed and enters LOADING, or fails with cause 0x10 where there is no place, or with POOL where its pool is refused; a
replacement, and an image that keeps its weights, are placed without the test of R48. DIGEST_WAIT_RESOLVE decides a waiting
load again once its twin has ended, and otherwise does nothing -/
def Obligations.FieldLoading : Prop :=
  (∀ (s : State), (s.fwOut 3 = true ∨ s.loadHead = none → exec .fieldLoad s = .next s) ∧
    (s.fwOut 3 = true ∨ s.loads.find? (fun l => l.phase == .digestWait && !s.loadTwin l.image.vef (l.cls == 0) l.image.digest l.serial) = none →
      exec .digestWaitResolve s = .next s) ∧
    ∀ l, s.fwOut 3 = false → l.cmd = none →
      s.loads.find? (fun l => l.phase == .digestWait && !s.loadTwin l.image.vef (l.cls == 0) l.image.digest l.serial) = some l →
      exec .digestWaitResolve s = .next (s.dropLoad l.serial)) ∧
  (∀ (s : State) (c : Cmd), s.fwOut 3 = false → s.loadHead = some c →
    (∀ cause, s.loadWant c = .error cause → exec .fieldLoad s = .next (s.loadFail c 0x21 cause)) ∧
    ∀ want, s.loadWant c = .ok want →
      let t := s.ctxTouch c.imgAt.ctx c.imgAt.addr 256
      (s.imgCause c.imgAt (c.cls == 0) (c.op 0x20 8) (c.op 0x28 8) ≠ 0 →
        exec .fieldLoad s = .next (t.loadFail c 0x22 (s.imgCause c.imgAt (c.cls == 0) (c.op 0x20 8) (c.op 0x28 8)))) ∧
      (s.imgCause c.imgAt (c.cls == 0) (c.op 0x20 8) (c.op 0x28 8) = 0 → want ≠ .fresh ∨ t.persistW c.imgAt = true →
        exec .fieldLoad s = .next (t.placeLoad c c.imgAt want)) ∧
      (s.imgCause c.imgAt (c.cls == 0) (c.op 0x20 8) (c.op 0x28 8) = 0 → want = .fresh → t.persistW c.imgAt = false →
        (∀ f, t.attachTo c.vef (c.cls == 0) (t.imgHdr c.imgAt).digest = some f →
          exec .fieldLoad s = .next (((t.dropLoad c.serial).attachField f c.vef).endQueued c 0 0 (t.handle f))) ∧
        (t.attachTo c.vef (c.cls == 0) (t.imgHdr c.imgAt).digest = none →
          (t.loadTwin c.vef (c.cls == 0) (t.imgHdr c.imgAt).digest c.serial = true →
            ∃ u, exec .fieldLoad s = .next u ∧ u.queue = t.queue.filter (fun q => q.2.serial != c.serial) ∧ u.regs = t.regs ∧
              ∃ l, u.loads = t.loads.filter (fun l => l.serial != c.serial) ++ [l] ∧ l.phase = .digestWait ∧ l.cmd = some c) ∧
          (t.loadTwin c.vef (c.cls == 0) (t.imgHdr c.imgAt).digest c.serial = false → t.poolBad c (t.imgHdr c.imgAt).pageSize = true →
            exec .fieldLoad s = .next ((t.dropLoad c.serial).loadFail c 0x40 4)) ∧
          (t.loadTwin c.vef (c.cls == 0) (t.imgHdr c.imgAt).digest c.serial = false → t.poolBad c (t.imgHdr c.imgAt).pageSize = false →
            (t.placement (t.imgHdr c.imgAt).fits .fresh = none → exec .fieldLoad s = .next ((t.dropLoad c.serial).loadFail c 0x21 0x10)) ∧
            ∀ (p : Placement) (h : p.field < 17), t.placement (t.imgHdr c.imgAt).fits .fresh = some p →
              exec .fieldLoad s = .next (((t.dequeue c.serial).dropLoad c.serial).startLoad ⟨p.field, h⟩ (t.mkLoad c c.imgAt p)))))) ∧
  ∀ (s : State) (l : Load) (c : Cmd), s.fwOut 3 = false → l.cmd = some c →
    s.loads.find? (fun l => l.phase == .digestWait && !s.loadTwin l.image.vef (l.cls == 0) l.image.digest l.serial) = some l →
    exec .digestWaitResolve s = .next (s.freshLoad c c.imgAt)

/-- The phases of a load. A placed load whose half-quadrants have power puts its field in LOADING with the fence set.
STITCH_PHASE_START completes in every state: the phase in progress ends (its load starts its preloads, or is killed) and the
engine streams the stitch entries of the next load, class by class, where there is one. FIELD_LOAD_DONE completes in every
state: once its moves have ended, a load to be killed is killed, one with no failing check ends as endLoad says, one with a
failing check fails with that cause; a field without such a load is left alone. FIELD_REINIT completes in every state: it is
firmware's for a general field and the Cantle's for a SAFETY field or field 16, at most REINIT_MAX times in 10 s for
field-class faults: the field enters LOADING with its own image and its GENERATION unchanged; anyone else, and a field that
may not be re-initialised, changes nothing. FIELD_REINIT_DONE completes in every state: it makes the field IDLE and tells the
VEFs, after a field-class fault the field waits for a golden frame, a failing check ends it as a failed load, and without
such a load nothing changes -/
def Obligations.LoadPhases : Prop :=
  (∀ (s : State) (f : Fin 17) (l : Load), l.field = f.val → (l.clusters.any (fun k => s.flag PWR_DOM.FAIL (clusterDomain k))) = false →
    (s.startLoad f l).loads = s.loads ++ [l] ∧ (s.startLoad f l).fState f = stLoading ∧ ((s.startLoad f l).frt f).fenced = true ∧
      ((s.startLoad f l).frt f).image = some l.image) ∧
  (∀ s : State, (s.fwOut 3 = true → exec .stitchPhaseStart s = .next s) ∧
    (s.fwOut 3 = false →
      let u := match s.loads.find? (fun l => l.phase == .stitch) with
        | some l => s.endStitch l
        | none => s
      (u.nextStitch = none → exec .stitchPhaseStart s = .next u) ∧
      ∀ l, u.nextStitch = some l →
        exec .stitchPhaseStart s = .next ((u.stitchAll l.field l).1.changeLoad l.serial (fun m => { m with phase := .stitch, cause := (u.stitchAll l.field l).2 })))) ∧
  (∀ (s : State) (f : Fin 17), (s.fwOut 3 = true ∨ s.loadedOf f false = none → exec (.fieldLoadDone f) s = .next s) ∧
    ∀ l, s.fwOut 3 = false → s.loadedOf f false = some l →
      (l.kill ≠ 0 → exec (.fieldLoadDone f) s = .next (s.cancelLoad f l (l.kill == 1))) ∧
      (l.kill = 0 → s.lateCause l = 0 → exec (.fieldLoadDone f) s = .next (s.endLoad f l)) ∧
      (l.kill = 0 → s.lateCause l ≠ 0 → exec (.fieldLoadDone f) s = .next (s.failLoad f l (s.lateCause l)))) ∧
  (∀ (src : Source) (s : State) (f : Fin 17), s.fwOut 3 = true ∨ s.mayReinit f = false ∨ (s.isSafety f = false ∧ s.who src ≠ .firmware) ∨
      (s.isSafety f = true ∧ s.who src ≠ .cantle) ∨
      (s.isSafety f = true ∧ s.saf.unresolved.contains f.val = true ∧ s.rd SAF_ESC.REINIT_MAX ≤ s.recentReinits f) →
    exec (.fieldReinit src f) s = .next s) ∧
  (∀ (src : Source) (s : State) (f : Fin 17), s.fwOut 3 = false → s.mayReinit f = true → s.isSafety f = true → s.who src = .cantle →
    s.saf.unresolved.contains f.val = true → s.recentReinits f < s.rd SAF_ESC.REINIT_MAX →
    exec (.fieldReinit src f) s = .next (({ s with saf := { s.saf with reinits := (f.val, s.vehicleNs) :: s.saf.reinits } } : State).startReinit f)) ∧
  (∀ (src : Source) (s : State) (f : Fin 17) (i : FieldImage), s.fwOut 3 = false → (s.frt f).image = some i → s.mayReinit f = true →
    ((s.isSafety f = false ∧ s.who src = .firmware) ∨ (s.isSafety f = true ∧ s.who src = .cantle ∧ s.saf.unresolved.contains f.val = false)) →
    ∃ t, exec (.fieldReinit src f) s = .next t ∧ t.fState f = stLoading ∧ t.rd PLAIN_FLD_STATE.GENERATION f = s.rd PLAIN_FLD_STATE.GENERATION f ∧
      t.mem = s.mem ∧ ∃ l, t.loads = s.loads ++ [l] ∧ l.reinit = true ∧ l.image = i ∧ l.field = f.val ∧ l.phase = .waitStitch) ∧
  (∀ (s : State) (f : Fin 17), s.fwOut 3 = true ∨ s.loadedOf f true = none → exec (.fieldReinitDone f) s = .next s) ∧
  ∀ (s : State) (f : Fin 17) (l : Load), s.fwOut 3 = false → s.loadedOf f true = some l →
    (s.lateCause l ≠ 0 → exec (.fieldReinitDone f) s = .next (s.failLoad f l (s.lateCause l))) ∧
    (s.lateCause l = 0 →
      let d := s.dropLoad l.serial
      let u := d.setF f { d.frt f with needReinit := false, hold := (s.frt f).hold && s.flag SAF_CTL.SAFE_STATE && s.isSafety f, resetAsked := false }
      let v := (u.setState f stIdle).restartTests f
      let w := if v.saf.unresolved.contains f.val then { v with saf := { v.saf with needGolden := v.saf.needGolden.filter (· != f.val) ++ [f.val] } } else v
      exec (.fieldReinitDone f) s = .next (w.events (w.frt f).attached 0x02 (w.handle f) 0)) ∧
    (s.lateCause l = 0 → s.saf.unresolved.contains f.val = false → (s.frt f).attached = [] →
      ∃ t, exec (.fieldReinitDone f) s = .next t ∧ t.fState f = stIdle ∧ (t.frt f).needReinit = false ∧
        (t.frt f).hold = ((s.frt f).hold && s.flag SAF_CTL.SAFE_STATE && s.isSafety f) ∧
        t.mem = s.mem ∧ t.loads = s.loads.filter (fun m => m.serial != l.serial))

/-- CLEARING, kills, contained faults, the watchdog and the cluster movers. CLEARING_DONE completes in every state: it zeroes
the pocket memories and the cluster SRAM of every cluster of a CLEARING field that is in service and makes the field FREE, or
starts the load that replaces it; any other field is left alone. KILL_DONE completes in every state: a kill that has
completed returns the commands to their queues and the field to IDLE, or clears or re-initialises it where that was asked
for; with no kill in progress nothing changes. STALL_WATCHDOG_EXPIRY completes in every state: a watchdog that has counted
its period of local monotonic time on a RUNNING field sets FLD_ERR.WDOG and stops the field with WATCHDOG; before that
nothing happens. CONTAINED_FAULT_DRAIN_DONE completes in every state: a contained fault that has drained completes the
commands in flight, and the field is IDLE or re-initialised; without one nothing changes. CLUSTER_MOVER_TRANSFER_DONE
completes in every state: the oldest transfer ends with its record, a bad state tensor is not stored and is a contained
fault, and nothing ends while a record is held. CMQ_RECORD_APPEND completes in every state: a record held while the queue is
full is written once there is room -/
def Obligations.ClearingAndKills : Prop :=
  (∀ (s : State) (f : Fin 17), s.fState f = stClearing → s.loads.find? (fun l => l.field == f.val && l.phase == .clearing) = none →
    ∃ t, exec (.clearingDone f) s = .next t ∧ t.fState f = stFree ∧ (t.frt f).fenced = false ∧ t.loads = s.loads ∧ t.mem.hbm = s.mem.hbm ∧
      ∀ k ∈ s.clustersOf f, s.rd BIST_UNIT.STATE k ≠ 1 →
        (∀ n < 16 * 0x20000, Sparse.look 0 t.mem.pocket (k * 16 * 0x20000 + n) = 0) ∧ ∀ n < 0x80000, Sparse.look 0 t.mem.sram (k * 0x80000 + n) = 0) ∧
  (∀ (s : State) (f : Fin 17), (s.fState f ≠ stClearing → exec (.clearingDone f) s = .next s) ∧
    ∀ l, s.fState f = stClearing → s.loads.find? (fun l => l.field == f.val && l.phase == .clearing) = some l →
      let u := ((s.clustersOf f).filter (fun k => s.rd BIST_UNIT.STATE k != 1)).foldl (fun s k => s.zeroCluster k) s
      exec (.clearingDone f) s = .next ((u.dropLoad l.serial).startLoad f { l with phase := .waitStitch })) ∧
  (∀ (s : State) (f : Fin 17), exec (.killDone (.field f)) s = .next (if s.fState f = stDraining then s.fieldKilled f else s)) ∧
  (∀ (s : State) (r : Res), (∀ f, r ≠ .field f) → (∀ i, killIndex r = some i → Sparse.look none s.engKill i = none) → exec (.killDone r) s = .next s) ∧
  (∀ (s : State) (f : Fin 17), s.fState f = stDraining → (s.jobsOn (.field f)).any (fun j => j.golden) = false → (s.frt f).resetAsked = false → (s.frt f).emptied = none →
    ∃ t, exec (.killDone (.field f)) s = .next t ∧ t.fState f = stIdle ∧ (t.frt f).killSince = none ∧ t.mem = s.mem ∧
      t.queue = (s.jobsOn (.field f)).map (fun j => (.field f, j.cmd.again)) ++ s.queue ∧ t.jobsOn (.field f) = []) ∧
  (∀ (s : State) (r : Res) (i n : Nat), killIndex r = some i → Sparse.look none s.engKill i = some n →
    ∃ t, exec (.killDone r) s = .next t ∧ Sparse.look none t.engKill i = none ∧ t.regs = s.regs ∧ t.mem = s.mem ∧
      t.queue = (s.jobsOn r).map (fun j => (r, j.cmd.again)) ++ s.queue ∧ t.jobsOn r = []) ∧
  (∀ (s : State) (f : Fin 17),
    (s.fState f ≠ stRunning ∨ s.wdogCount f < (s.frt f).wdogPeriod * 1000 → exec (.stallWatchdogExpiry f) s = .next s) ∧
    (s.fState f = stRunning → (s.frt f).wdogPeriod * 1000 ≤ s.wdogCount f →
      let u := s.setF f { s.frt f with lastProgress := s.localNs, wdogHeld := 0 }
      exec (.stallWatchdogExpiry f) s =
        .next (((u.fldError f errWdog (((s.cellsOf f).find? (fun c => (s.cell c).waiting)).getD 0xFFF) 0).reportField 0x20 f).stopField f 0x41))) ∧
  (∀ (s : State) (f : Fin 17), ((s.frt f).faultDrain = false → exec (.containedFaultDrainDone f) s = .next s) ∧
    ((s.frt f).faultDrain = true →
      let t := (s.jobsOn (.field f)).foldl (fun s j => match j.outcome with
        | .ended st cause r => s.endJob j st cause r
        | .running => s) s
      let u := (t.setF f { t.frt f with faultDrain := false }).settle f
      exec (.containedFaultDrainDone f) s = .next (if (u.frt f).resetAsked then u.startReinit f else u))) ∧
  (∀ (s : State) (f : Fin 17), (s.frt f).faultDrain = true → s.jobsOn (.field f) = [] → (s.frt f).resetAsked = false → (s.frt f).emptied = none → s.fState f = stRunning →
    ∃ t, exec (.containedFaultDrainDone f) s = .next t ∧ t.fState f = stIdle ∧ (t.frt f).faultDrain = false ∧ t.mem = s.mem ∧ t.queue = s.queue) ∧
  (∀ (s : State) (f : Fin 17), (s.frt f).moves = [] ∨ (s.frt f).heldRecs ≠ [] → exec (.clusterMoverTransferDone f) s = .next s) ∧
  (∀ (s : State) (f : Fin 17) (m : ClMove) (rest : List ClMove), (s.frt f).moves = m :: rest → (s.frt f).heldRecs = [] →
    let u := s.setF f { s.frt f with moves := rest }
    let v := if m.toWin then u.tensorFix f m else u
    let r := v.doMove f m
    let t := (r.1.cmqAppend f r.2).progress f
    ((m.toWin = true → u.tensorBad m = none) →
      exec (.clusterMoverTransferDone f) s = .next (if r.2.status = 0x30 ∧ m.toWin = true then t.contained f 0x10 none else t)) ∧
    (∀ e w, m.toWin = true → u.tensorBad m = some (e, w) → exec (.clusterMoverTransferDone f) s =
      .next (((u.cmqAppend f ⟨m.tag, m.kind, 0x30, 0, 0⟩).fldFault f e (if m.inPocket then m.place else m.place * 16) w).progress f))) ∧
  (∀ (s : State) (f : Fin 17), (s.frt f).heldRecs = [] → exec (.cmqRecordAppend f) s = .next s) ∧
  ∀ (s : State) (f : Fin 17) (r : CmqRec) (rest : List CmqRec), (s.frt f).heldRecs = r :: rest →
    (s.cmqFull f = true → exec (.cmqRecordAppend f) s = .next s) ∧
    (s.cmqFull f = false → exec (.cmqRecordAppend f) s = .next ((s.setF f { s.frt f with heldRecs := rest }).cmqWrite f r))

/-- Doorbells, ring enables and ring configuration. DOORBELL, RING_ENABLE, SQ_DISABLE and RING_CONFIG_WRITE complete in every
state. A doorbell of a requester that may reach the page stores the tail of an enabled ring where it is below 2^SIZE_LOG2,
and changes nothing else; on a disabled ring, or beyond the ring, it leaves the tail, sets BAD_DB and raises event 0x05.
Enabling a ring that is not enabled sets its indices to 0 and its phase to 1, and opens the first accounting window at that
moment of vehicle time; on a ring that is enabled the command changes nothing. Disabling an enabled submission ring clears
ENABLE and ends each of its queued commands SQUASHED, and where none waits clears ENABLE and the hold of a FENCE alone; on a
ring that is disabled it changes nothing. A requester that may not reach the page or the accounting ring is refused and
counted; ring set 128 is reached by the Cantle alone, on its two submission rings and its completion ring, and a doorbell on
it is followed by the Cantle's reading of its completion records (log entry 117, the model's choice). A 4-byte or 8-byte
write to a ring register reaches that register for the requesters of the page or of the RING block, is refused and counted
for every other, and changes nothing at an address of no ring register or unaligned; an 8-byte write that passes the
register's end is the write of its low word followed by that of its high word -/
def Obligations.RingsAndDoorbells : Prop :=
  (∀ (src : Source) (v : Fin 129) (r : Fin 8) (x : BitVec 32) (s : State), v.val ≠ cantleSet → pageOk (s.pageWho src v) v = true →
    (s.flag SQ_CFG.ENABLE v r = true → x.toNat % 65536 < 2 ^ s.rd SQ_CFG.SIZE_LOG2 v r →
      ∃ t, exec (.doorbell src v r x) s = .next t ∧ t.rd DB_SQ_TAIL.TAIL v r = x.toNat % 65536 ∧ t = s.wr DB_SQ_TAIL.TAIL (x.toNat % 65536) v r) ∧
    (s.flag SQ_CFG.ENABLE v r = false ∨ 2 ^ s.rd SQ_CFG.SIZE_LOG2 v r ≤ x.toNat % 65536 →
      exec (.doorbell src v r x) s = .next ((s.wr DB_STAT.BAD_DB 1 v).event v 0x05 r (x.toNat % 65536)))) ∧
  (∀ (src : Source) (v : Fin 129) (r : Fin 8) (x : BitVec 32) (s : State),
    (v.val ≠ cantleSet → pageOk (s.pageWho src v) v = false →
      exec (.doorbell src v r x) s = .next (s.denied (s.pageWho src v) (0xF100000000 + v.val * 0x1000 + r.val * 4)) ∧
      exec (.ringEnable src v (.sq r)) s = .next (s.denied (s.pageWho src v) (0xF100000000 + v.val * 0x1000 + (0x100 + r.val * 0x20))) ∧
      exec (.ringEnable src v .cq) s = .next (s.denied (s.pageWho src v) (0xF100000000 + v.val * 0x1000 + 0x200)) ∧
      exec (.ringEnable src v .eq) s = .next (s.denied (s.pageWho src v) (0xF100000000 + v.val * 0x1000 + 0x220)) ∧
      exec (.sqDisable src v r) s = .next (s.denied (s.pageWho src v) (0xF100000100 + v.val * 0x1000 + r.val * 0x20))) ∧
    (v.val ≠ cantleSet → (s.who src).fwHyp = false → exec (.ringEnable src v .aq) s = .next (s.denied (s.who src) (0xF000901000 + v.val * 0x80 + 0x30))) ∧
    (v.val = cantleSet → ¬(s.who src = .cantle ∧ r.val < 2) → exec (.doorbell src v r x) s = .next s ∧ exec (.ringEnable src v (.sq r)) s = .next s ∧
      exec (.sqDisable src v r) s = .next s) ∧
    (v.val = cantleSet → exec (.ringEnable src v .eq) s = .next s ∧ exec (.ringEnable src v .aq) s = .next s ∧
      (s.who src ≠ .cantle → exec (.ringEnable src v .cq) s = .next s)) ∧
    (v.val = cantleSet → s.who src = .cantle → r.val < 2 →
      exec (.doorbell src v r x) s = .next (s.doorbell v r x.toNat).cantleReads)) ∧
  (∀ (src : Source) (v : Fin 129) (s : State), (v.val = cantleSet ∧ s.who src = .cantle) ∨ (v.val ≠ cantleSet ∧ pageOk (s.pageWho src v) v = true) →
    (∀ r : Fin 8, (v.val = cantleSet → r.val < 2) → s.flag SQ_CFG.ENABLE v r = false →
      ∃ t, exec (.ringEnable src v (.sq r)) s = .next t ∧ t.flag SQ_CFG.ENABLE v r = true ∧ t.rd SQ_CFG.HEAD v r = 0 ∧ t.rd DB_SQ_TAIL.TAIL v r = 0 ∧
        t.mem = s.mem ∧ t.queue = s.queue) ∧
    (s.flag CQ_CFG.ENABLE v = false →
      ∃ t, exec (.ringEnable src v .cq) s = .next t ∧ t.flag CQ_CFG.ENABLE v = true ∧ t.rd CQ_CFG.TAIL v = 0 ∧ t.rd DB_CQ_HEAD.HEAD v = 0 ∧
        (t.vrt v).cqPhase = true ∧ t.mem = s.mem) ∧
    (v.val ≠ cantleSet → s.flag EQ_CFG.ENABLE v = false →
      ∃ t, exec (.ringEnable src v .eq) s = .next t ∧ t.flag EQ_CFG.ENABLE v = true ∧ t.rd EQ_CFG.TAIL v = 0 ∧ t.rd DB_EQ_HEAD.HEAD v = 0 ∧
        (t.vrt v).eqPhase = true ∧ t.mem = s.mem) ∧
    (∀ r : Fin 8, (v.val = cantleSet → r.val < 2) →
      (s.flag SQ_CFG.ENABLE v r = true → exec (.ringEnable src v (.sq r)) s = .next s) ∧
      (s.flag SQ_CFG.ENABLE v r = false → exec (.sqDisable src v r) s = .next s) ∧
      (s.flag SQ_CFG.ENABLE v r = true →
        exec (.sqDisable src v r) s = .next (let u := s.wr SQ_CFG.ENABLE 0 v r
          let w := (s.queue.filter (fun q => q.2.vef == v.val && q.2.ring == r.val)).foldl (fun s q => s.endQueued q.2 0x50 0 0) u
          w.setRing v r { w.ringRt v r with fence := none }))) ∧
    (s.flag CQ_CFG.ENABLE v = true → exec (.ringEnable src v .cq) s = .next s) ∧
    (v.val ≠ cantleSet → s.flag EQ_CFG.ENABLE v = true → exec (.ringEnable src v .eq) s = .next s) ∧
    (∀ r : Fin 8, (v.val = cantleSet → r.val < 2) → s.flag SQ_CFG.ENABLE v r = true → s.queue.any (fun q => q.2.vef == v.val && q.2.ring == r.val) = false →
      ∃ t, exec (.sqDisable src v r) s = .next t ∧ t.regs = (s.wr SQ_CFG.ENABLE 0 v r).regs ∧ t.queue = s.queue ∧ t.flight = s.flight ∧ t.mem = s.mem)) ∧
  (∀ (src : Source) (v : Fin 129) (s : State), v.val ≠ cantleSet → (s.who src).fwHyp = true → s.flag RING_VEF_AQ_CTL.ENABLE v = true → exec (.ringEnable src v .aq) s = .next s) ∧
  (∀ (src : Source) (v : Fin 129) (s : State), v.val ≠ cantleSet → (s.who src).fwHyp = true → s.flag RING_VEF_AQ_CTL.ENABLE v = false →
    ∃ t, exec (.ringEnable src v .aq) s = .next t ∧ t.flag RING_VEF_AQ_CTL.ENABLE v = true ∧ t.rd RING_VEF_AQ_CTL.TAIL v = 0 ∧
      t.rd RING_VEF_AQ_HEAD.HEAD v = 0 ∧ (t.vrt v).aqPhase = true ∧ (t.vrt v).acctOpen = true ∧ (t.vrt v).acct = Acct.opened s.vehicleNs) ∧
  (∀ (src : Source) (a b x : Nat) (s : State) (h : Hit), (b = 4 ∨ b = 8 ∧ h.off + 8 ≤ h.reg.place.bytes) → a % b = 0 → findReg a = some h →
    (h.reg.onPage = true →
      (pageOk (s.pageWho src h.i) h.i = true → exec (.ringConfigWrite src a b x) s = .next (s.ringRegWrite h b x)) ∧
      (pageOk (s.pageWho src h.i) h.i = false → exec (.ringConfigWrite src a b x) s = .next (s.denied (s.pageWho src h.i) a))) ∧
    (h.reg.onPage = false → h.reg.inRing = true →
      ((s.who src).fwHyp = true → exec (.ringConfigWrite src a b x) s = .next (s.ringRegWrite h b x)) ∧
      ((s.who src).fwHyp = false → exec (.ringConfigWrite src a b x) s = .next (s.denied (s.who src) a))) ∧
    (h.reg.onPage = false → h.reg.inRing = false → exec (.ringConfigWrite src a b x) s = .next s)) ∧
  ∀ (src : Source) (a b x : Nat) (s : State),
    (¬((b = 4 ∨ b = 8) ∧ a % b = 0) ∨ findReg a = none → exec (.ringConfigWrite src a b x) s = .next s) ∧
    (∀ h, findReg a = some h → a % 8 = 0 → h.reg.place.bytes < h.off + 8 → ∃ t, exec (.ringConfigWrite src a 4 (x % 2 ^ 32)) s = .next t ∧
      exec (.ringConfigWrite src a 8 x) s = exec (.ringConfigWrite src (a + 4) 4 (x / 2 ^ 32)) t)

/-- Descriptor fetch, NOP and FENCE. DESCRIPTOR_FETCH, NOP, FENCE and FENCE_RELEASE complete in every state. Nothing is
fetched unless the VEF may fetch, the completion ring has room and some ring holds a descriptor and is not held by a FENCE. A
fetched descriptor whose VEF, ASID or STREAM_ID is not the ring's own, their reserved bits apart, or that freezes or thaws a
VEF on a ring without PRIV, is discarded and counted: the head moves on by one, no slot is reserved and nothing joins a
queue. Any other is checked and completes with its FORMAT_ERROR cause or joins its queue. A NOP at the head of its queue that
WAIT does not hold completes DONE; a FENCE at the head completes where nothing that it selects is uncompleted, and holds its
ring else, until FENCE_RELEASE finds the commands gone. Where the queue's head is no such command, or no FENCE holds the
ring, the state stays as it is, but that a hold whose FENCE is in no queue is lifted -/
def Obligations.FetchNopAndFence : Prop :=
  (∀ (v : Fin 129) (s : State), (s.fetchOpen v = false ∨ s.cqRoom v = false ∨ s.nextRing v = none) → exec (.descriptorFetch v) s = .next s) ∧
  (∀ (v : Fin 129) (r : Nat) (s : State), s.fetchOpen v = true → s.cqRoom v = true → s.nextRing v = some r →
    let n := 2 ^ s.rd SQ_CFG.SIZE_LOG2 v r
    let a := s.rd SQ_CFG.BASE v r / 4096 * 4096 + s.rd SQ_CFG.HEAD v r * 64
    let c : Cmd := ⟨v, r, s.ringClass v r, s.rd SQ_CFG.ENGINE v r, s.rd SQ_CFG.HEAD v r, s.ringRead (s.flag SQ_CFG.LOC v r) (s.sqCtx v r) a 64, 0, s.fetched, []⟩
    let u := (s.ringTouch (s.flag SQ_CFG.LOC v r) (s.sqCtx v r) a 64).wr SQ_CFG.HEAD ((s.rd SQ_CFG.HEAD v r + 1) % n) v r
    let w : State := { u.setV v { u.vrt v with lastRing := r } with fetched := u.fetched + 1 }
    let y := w.setV v { w.vrt v with reserved := (w.vrt v).reserved + 1 }
    (v.val ≠ cantleSet → (c.op 2 1 % 128 ≠ v.val ∨ c.asid ≠ w.rd RING_VEF_ASID.ASID v r ∨ c.stream ≠ w.rd RING_VEF_CFG.STREAM_ID v ∨
        ((c.opcode = 0x70 ∨ c.opcode = 0x71) ∧ w.flag RING_VEF_CFG.PRIV v = false)) →
      ∃ t, exec (.descriptorFetch v) s = .next t ∧ t.rd SQ_CFG.HEAD v r = (s.rd SQ_CFG.HEAD v r + 1) % n % 65536 ∧ t.queue = u.queue ∧
        t.rd RING_VEF_DISC.DISCARD v = min (u.rd RING_VEF_DISC.DISCARD v + 1) (2 ^ RING_VEF_DISC.DISCARD.w - 1) ∧ (t.vrt v).reserved = (u.vrt v).reserved) ∧
    ((v.val = cantleSet ∨ (c.op 2 1 % 128 = v.val ∧ c.asid = w.rd RING_VEF_ASID.ASID v r ∧ c.stream = w.rd RING_VEF_CFG.STREAM_ID v ∧
        ((c.opcode ≠ 0x70 ∧ c.opcode ≠ 0x71) ∨ w.flag RING_VEF_CFG.PRIV v = true))) →
      exec (.descriptorFetch v) s = .next (if c.formCause ≠ 0 then y.complete c 0x40 c.formCause 0 else y.joinQueue c))) ∧
  (∀ (r : Res) (cls : Fin 4) (c : Cmd) (s : State), s.headIs r cls 1 = some c →
    exec (.nop r cls) s = .next (if s.waits c then s else s.endQueued c 0 0 0)) ∧
  (∀ (r : Res) (cls : Fin 4) (s : State), (s.headIs r cls 1 = none → exec (.nop r cls) s = .next s) ∧ (s.headIs r cls 2 = none → exec (.fence r cls) s = .next s)) ∧
  (∀ (v : Fin 129) (r : Fin 8) (s : State), ((s.ringRt v r).fence = none → exec (.fenceRelease v r) s = .next s) ∧
    ∀ k : Nat, (s.ringRt v r).fence = some k → s.queue.find? (fun q => q.2.serial == k) = none →
      exec (.fenceRelease v r) s = .next (s.setRing v r { s.ringRt v r with fence := none })) ∧
  (∀ (r : Res) (cls : Fin 4) (c : Cmd) (s : State), s.headIs r cls 2 = some c →
    ((s.fenceWaits c = true ∨ s.waits c = true) →
      exec (.fence r cls) s = .next (s.setRing c.vef c.ring { s.ringRt c.vef c.ring with fence := some c.serial })) ∧
    (s.fenceWaits c = false → s.waits c = false →
      exec (.fence r cls) s = .next ((s.setRing c.vef c.ring { s.ringRt c.vef c.ring with fence := none }).endQueued c 0 0 0))) ∧
  ∀ (v : Fin 129) (r : Fin 8) (k : Nat) (q : Res × Cmd) (s : State), (s.ringRt v r).fence = some k → s.queue.find? (fun q => q.2.serial == k) = some q →
    ((s.fenceWaits q.2 = true ∨ s.waits q.2 = true) → exec (.fenceRelease v r) s = .next s) ∧
    (s.fenceWaits q.2 = false → s.waits q.2 = false →
      exec (.fenceRelease v r) s = .next ((s.setRing q.2.vef q.2.ring { s.ringRt q.2.vef q.2.ring with fence := none }).endQueued q.2 0 0 0))

/-- Admission, pre-emption and the field commands. COMMAND_ADMIT, PREEMPT_KILL, INFER, FRAME, FIELD_CHECKPOINT, FIELD_RELEASE
and FIELD_DETACH complete in every state. A field that takes commands admits the first head, in order of class, that its gate
lets through: the command leaves its queue and is in flight, and the field is RUNNING; a head that cannot run completes
without running. A system-DMA engine assigns its first head to an idle channel; the render engine and the projector take up
their first head where no kill of them is in progress. Firmware out of service, a resource that takes nothing or a queue
without such a head leave the state, but for the instants given to FRAMEs at the heads. Pre-emption kills a RUNNING field
whose oldest command is INTERACTIVE or BATCH while a REALTIME head is ready (the field is DRAINING), unless its watchdog is
due or it drains a fault, and starts the kill of the render engine or the projector at that moment, unless one is in
progress. An admitted INFER or FRAME begins on its field's cells with the windows of its buffer list, or ends with the cause
that the list gives. A FIELD_CHECKPOINT begins its copies. A FIELD_RELEASE at the head of its queue leaves it and begins to
detach its VEF, or completes NO_FIELD where its handle has gone, and the VEF detaches once nothing of it is in flight. Where
there is no such command, it waits or its VEF is not ACTIVE, nothing changes -/
def Obligations.AdmissionAndPreemption : Prop :=
  (∀ (s : State) (r : Res), (s.fwOut 2 = true → exec (.commandAdmit r) s = .next s ∧ exec (.preemptKill r) s = .next s) ∧
    exec (.commandAdmit .loader) s = .next s) ∧
  (∀ (s : State) (f : Fin 17), s.fwOut 2 = false →
    ((s.resolveHeads f).fieldOpen f = false ∨ (s.resolveHeads f).pick (.field f) [0, 1, 2, 3] = none →
      exec (.commandAdmit (.field f)) s = .next (s.resolveHeads f)) ∧
    ∀ c : Cmd, (s.resolveHeads f).fieldOpen f = true →
    (∀ st cause, (s.resolveHeads f).pick (.field f) [0, 1, 2, 3] = some (c, .finish st cause) →
      exec (.commandAdmit (.field f)) s = .next ((s.resolveHeads f).endQueued c st cause 0)) ∧
    ((s.resolveHeads f).pick (.field f) [0, 1, 2, 3] = some (c, .takeUp) →
      ∃ t, exec (.commandAdmit (.field f)) s = .next t ∧ t.fState f = stRunning ∧
        t.flight = (s.resolveHeads f).flight ++ [c.job (.field f) (s.resolveHeads f).localNs] ∧
        t.queue = (s.resolveHeads f).queue.filter (fun q => q.2.serial != c.serial))) ∧
  (∀ (s : State) (e : Fin 4), s.fwOut 2 = false →
    (s.dmaHead e [0, 1, 2, 3] = none ∨ s.idleChannel e = none → exec (.commandAdmit (.dma e)) s = .next s) ∧
    ∀ (c : Cmd) (k : Nat), s.dmaHead e [0, 1, 2, 3] = some c → s.idleChannel e = some k →
    ∃ t, exec (.commandAdmit (.dma e)) s = .next t ∧ t.flag DMA_CH_CTL.BUSY k = true ∧ t.rd DMA_CH_BYTES.BYTES k = 0 ∧
      t.flight = s.flight ++ [{ c.job (.dma e) s.localNs with chan := k }] ∧ t.queue = s.queue.filter (fun q => q.2.serial != c.serial)) ∧
  (∀ (s : State) (r : Res) (i : Nat), s.fwOut 2 = false → killIndex r = some i →
    ((Sparse.look none s.engKill i).isSome = true ∨ s.pick r [0, 1, 2, 3] = none → exec (.commandAdmit r) s = .next s) ∧
    ∀ c : Cmd, Sparse.look none s.engKill i = none →
      (s.pick r [0, 1, 2, 3] = some (c, .takeUp) → ∃ t, exec (.commandAdmit r) s = .next t ∧ t.queue = s.queue.filter (fun q => q.2.serial != c.serial) ∧
        (r = .render → t.flight = s.flight ++ [c.job r s.localNs]) ∧ (r = .projector → t.flight = s.flight ++ [((s.dequeue c.serial).withCal c).job r s.localNs])) ∧
      ∀ st cause, s.pick r [0, 1, 2, 3] = some (c, .finish st cause) → exec (.commandAdmit r) s = .next (s.endQueued c st cause 0)) ∧
  (∀ (s : State) (r : Res), s.fwOut 2 = false →
    (s.preempts r = false → exec (.preemptKill r) s = .next s) ∧
    (s.preempts r = true →
      (∀ f : Fin 17, r = .field f →
        (s.fState f = stRunning → (s.frt f).faultDrain = false → s.wdogDue f = false →
          ∃ t, exec (.preemptKill r) s = .next t ∧ t = s.killField f ∧
            ((s.jobsOn (.field f)).any (fun j => tableOp j.cmd.opcode) = false → t.fState f = stDraining)) ∧
        (s.fState f ≠ stRunning ∨ (s.frt f).faultDrain = true ∨ s.wdogDue f = true → exec (.preemptKill r) s = .next s)) ∧
      (∀ i, killIndex r = some i →
        (Sparse.look none s.engKill i = none → exec (.preemptKill r) s = .next { s with engKill := Sparse.put none s.engKill i (some s.localNs) }) ∧
        ((Sparse.look none s.engKill i).isSome = true → exec (.preemptKill r) s = .next s)) ∧
      ((∀ f, r ≠ .field f) → killIndex r = none → exec (.preemptKill r) s = .next s))) ∧
  (∀ (s : State) (f : Fin 17),
    (s.unstarted (.field f) 0x30 = none → exec (.infer f) s = .next s) ∧ (s.unstarted (.field f) 0x31 = none → exec (.frame f) s = .next s) ∧
    (s.unstarted (.field f) 0x22 = none → exec (.fieldCheckpoint f) s = .next s) ∧
    ∀ j : Job,
    (s.unstarted (.field f) 0x30 = some j → exec (.infer f) s = .next (s.startWindows f j)) ∧
    (s.unstarted (.field f) 0x31 = some j → exec (.frame f) s = .next (s.startWindows f j)) ∧
    ((s.unstarted (.field f) 0x30 = some j ∨ s.unstarted (.field f) 0x31 = some j) →
      let t := s.bufTouch j.cmd j.cmd.bufOp.1 j.cmd.bufOp.2
      (∀ e, s.bufList j.cmd j.cmd.bufOp.1 j.cmd.bufOp.2 = .error e → s.startWindows f j = t.refuseJob j.cmd.serial e) ∧
      ∀ ws, s.bufList j.cmd j.cmd.bufOp.1 j.cmd.bufOp.2 = .ok ws →
        s.startWindows f j = (t.changeJob j.cmd.serial (fun j => { j with started := true, wins := ws })).startCells f j.cmd.serial) ∧
    (s.unstarted (.field f) 0x22 = some j → exec (.fieldCheckpoint f) s =
      .next ((s.startCopies f).changeJob j.cmd.serial (fun j => { j with started := true, copying := true, outcome := .ended 0 0 0 })))) ∧
  (∀ (s : State) (f : Fin 17),
    ((List.range 4).findSome? (fun cls => s.headIs (.field f) cls 0x21) = none → exec (.fieldRelease f) s = .next s) ∧
    ∀ c : Cmd, (List.range 4).findSome? (fun cls => s.headIs (.field f) cls 0x21) = some c →
    (s.waits c = true ∨ s.vefRuns c.vef = false → exec (.fieldRelease f) s = .next s) ∧
    (s.waits c = false → s.vefRuns c.vef = true →
      (c.op 0x30 4 / 65536 ≠ s.rd PLAIN_FLD_STATE.GENERATION f → exec (.fieldRelease f) s = .next (s.endQueued c 0x21 0 0)) ∧
      (c.op 0x30 4 / 65536 = s.rd PLAIN_FLD_STATE.GENERATION f →
        exec (.fieldRelease f) s = .next ((s.dequeue c.serial).setF f { s.frt f with releases := (s.frt f).releases ++ [c] })))) ∧
  ∀ (s : State) (f : Fin 17) (v : Fin 129),
    ((s.frt f).releases.any (fun c => c.vef == v.val) = false ∨ (s.jobsOn (.field f)).any (fun j => j.cmd.vef == v.val && !j.golden) = true ∨
      s.fState f = stLoading ∨ s.fState f = stDraining ∨ (s.frt f).faultDrain = true ∨ s.sliceIn f = true → exec (.fieldDetach f v) s = .next s) ∧
    ((s.frt f).releases.any (fun c => c.vef == v.val) = true → (s.jobsOn (.field f)).any (fun j => j.cmd.vef == v.val && !j.golden) = false →
      s.fState f ≠ stLoading → s.fState f ≠ stDraining → (s.frt f).faultDrain = false → s.sliceIn f = false →
      exec (.fieldDetach f v) s = .next ((s.dropReleases f (fun c => c.vef == v.val) 0).detach f v false []))

/-- Commands commit in order of admission on a field, and with their own status. COMMAND_COMMIT completes in every state. On
a RUNNING field that drains no fault, the oldest command in flight commits first and only when it has finished: with DONE,
its effects and its PUBLISH words, where it ended well and met no poison; with OUTPUT_INVALID where it met poison; with its
own status and no effect where it ended badly. A FRAME that asks for a checkpoint starts its copies first and commits when
they are made. While the command has not finished, on a field in another state and on a resource with none in flight nothing
commits. On another engine a command that has ended well publishes and completes DONE, without PUBLISH for a SAFETY command
behind the closed gate and OUTPUT_INVALID where it met poison -/
def Obligations.CommitOrder : Prop :=
  (∀ (s : State) (f : Fin 17), s.jobsOn (.field f) = [] → exec (.commandCommit (.field f)) s = .next s) ∧
  (∀ (s : State) (f : Fin 17) (j : Job) (rest : List Job), s.jobsOn (.field f) = j :: rest →
    (s.commitReady j = false ∨ s.fState f ≠ stRunning ∨ (s.frt f).faultDrain = true → exec (.commandCommit (.field f)) s = .next s) ∧
    (s.fState f = stRunning → (s.frt f).faultDrain = false → s.commitReady j = true →
      let ck := j.cmd.opcode = 0x31 ∧ j.cmd.ckpt = true ∧ j.golden = false ∧ j.copying = false ∧ j.outcome = .running
      let copies := j.copying = true ∧ (s.frt f).moves.any (fun m => m.kind == 0x02) = true
      (ck → exec (.commandCommit (.field f)) s = .next ((s.startCopies f).changeJob j.cmd.serial (fun j => { j with copying := true }))) ∧
      (¬ck → copies → exec (.commandCommit (.field f)) s = .next s) ∧
      (¬ck → ¬copies →
        ((j.outcome = .running ∨ ∃ cause r, j.outcome = .ended 0 cause r) →
          (j.tainted = false → exec (.commandCommit (.field f)) s = .next (s.commitField f j)) ∧
          (j.tainted = true → exec (.commandCommit (.field f)) s = .next (((s.reportPoison j).endJob j 0x30 0 0).settle f))) ∧
        ∀ st cause r, j.outcome = .ended (st + 1) cause r → exec (.commandCommit (.field f)) s = .next ((s.endJob j (st + 1) cause r).settle f)))) ∧
  ∀ (s : State) (r : Res), (∀ f, r ≠ .field f) →
    ((s.jobsOn r).find? (fun j => s.commitReady j) = none → exec (.commandCommit r) s = .next s) ∧
    ∀ j : Job, (s.jobsOn r).find? (fun j => s.commitReady j) = some j →
    (∀ res0 cause, j.outcome = .ended 0 cause res0 →
      (j.tainted = false → (s.saf.gate && j.cmd.cls == 0) = false →
        exec (.commandCommit r) s = .next (((s.freeEngine j).publish j.cmd j.wins).endJob j 0 0 res0)) ∧
      (j.tainted = false → (s.saf.gate && j.cmd.cls == 0) = true → exec (.commandCommit r) s = .next ((s.freeEngine j).endJob j 0 0 res0)) ∧
      (j.tainted = true → exec (.commandCommit r) s = .next (((s.freeEngine j).reportPoison j).endJob j 0x30 0 res0))) ∧
    ∀ st cause res0, j.outcome = .ended (st + 1) cause res0 → exec (.commandCommit r) s = .next ((s.freeEngine j).endJob j (st + 1) cause res0)

/-- The sequence and prefix commands. SEQ_ADMIT, SEQ_RETIRE, PREFIX_PIN, PREFIX_UNPIN and SEQ_STEP complete in every state.
On a field with a pool, SEQ_ADMIT, SEQ_RETIRE, PREFIX_PIN and PREFIX_UNPIN are carried out on the pool and commit in one step
with the status, cause and result that the tables give; a SEQ_ADMIT of no tokens, of a length beyond 262,144 or of a sequence
that exists, and a SEQ_RETIRE of a sequence that the command does not own, change nothing and complete FORMAT_ERROR, cause
0x04. A SEQ_STEP whose entries are well formed starts on the field's cells with its manifest, and ends with the cause found
else. With no pool a table command completes FORMAT_ERROR, cause 0x04; with no such command in flight nothing changes -/
def Obligations.SequenceTables : Prop :=
  (∀ (s : State) (f : Fin 17), (s.fwOut 2 = true ∨ s.unstarted (.field f) 0x40 = none → exec (.seqAdmit f) s = .next s) ∧
    (s.fwOut 2 = true ∨ s.unstarted (.field f) 0x42 = none → exec (.seqRetire f) s = .next s) ∧
    (s.fwOut 2 = true ∨ s.unstarted (.field f) 0x43 = none → exec (.prefixPin f) s = .next s) ∧
    (s.fwOut 2 = true ∨ s.unstarted (.field f) 0x44 = none → exec (.prefixUnpin f) s = .next s) ∧
    (s.unstarted (.field f) 0x41 = none ∨ s.poolOf f = none → exec (.seqStep f) s = .next s)) ∧
  (∀ (s : State) (f : Fin 17) (j : Job), s.fwOut 2 = false → s.poolOf f = none →
    (s.unstarted (.field f) 0x40 = some j → exec (.seqAdmit f) s = .next ((s.endJob j 0x40 4 0).afterTable f)) ∧
    (s.unstarted (.field f) 0x42 = some j → exec (.seqRetire f) s = .next ((s.endJob j 0x40 4 0).afterTable f)) ∧
    (s.unstarted (.field f) 0x43 = some j → exec (.prefixPin f) s = .next ((s.endJob j 0x40 4 0).afterTable f)) ∧
    (s.unstarted (.field f) 0x44 = some j → exec (.prefixUnpin f) s = .next ((s.endJob j 0x40 4 0).afterTable f))) ∧
  (∀ (s : State) (f : Fin 17) (p : Nat) (j : Job), s.fwOut 2 = false → s.poolOf f = some p →
    (s.unstarted (.field f) 0x40 = some j →
      exec (.seqAdmit f) s = .next (((s.seqAdmit f p j.cmd).1.endJob j (s.seqAdmit f p j.cmd).2.status (s.seqAdmit f p j.cmd).2.cause
        (s.seqAdmit f p j.cmd).2.result).afterTable f) ∧
      ((j.cmd.op 0x20 4 = 0 ∨ j.cmd.op 0x24 4 = 0 ∨ 262144 < j.cmd.op 0x20 4 + j.cmd.op 0x24 4 ∨ ((s.pool p).seq (j.cmd.op 0x28 4)).isSome) →
        exec (.seqAdmit f) s = .next ((s.endJob j 0x40 4 0).afterTable f))) ∧
    (s.unstarted (.field f) 0x42 = some j →
      (∀ q, s.ownSeq p j.cmd (j.cmd.op 0x28 4) = some q →
        exec (.seqRetire f) s = .next (((s.retireSeq p (j.cmd.op 0x28 4)).endJob j 0 0 0).afterTable f)) ∧
      (s.ownSeq p j.cmd (j.cmd.op 0x28 4) = none → exec (.seqRetire f) s = .next ((s.endJob j 0x40 4 0).afterTable f))) ∧
    (s.unstarted (.field f) 0x43 = some j →
      exec (.prefixPin f) s = .next (((s.prefixPin f p j.cmd).1.endJob j 0 0 (s.prefixPin f p j.cmd).2.result).afterTable f)) ∧
    (s.unstarted (.field f) 0x44 = some j →
      exec (.prefixUnpin f) s = .next (((s.prefixUnpin f p j.cmd).1.endJob j 0 0 (s.prefixUnpin f p j.cmd).2.result).afterTable f))) ∧
  ∀ (s : State) (f : Fin 17) (p : Nat) (j : Job), s.unstarted (.field f) 0x41 = some j → s.poolOf f = some p →
    let t := (s.bufTouch j.cmd j.cmd.bufOp.1 j.cmd.bufOp.2).ctxTouch j.cmd.ctx (j.cmd.op 0x28 8) (j.cmd.op 0x34 4 * 64)
    (∀ e, s.bufList j.cmd j.cmd.bufOp.1 j.cmd.bufOp.2 = .error e → exec (.seqStep f) s = .next (t.refuseJob j.cmd.serial e)) ∧
    ∀ ws, s.bufList j.cmd j.cmd.bufOp.1 j.cmd.bufOp.2 = .ok ws →
      (∀ e, s.buildSteps p j.cmd ws = .error e → exec (.seqStep f) s = .next (t.refuseJob j.cmd.serial e)) ∧
      ∀ rs, s.buildSteps p j.cmd ws = .ok rs →
        exec (.seqStep f) s = .next ((t.changeJob j.cmd.serial (fun j =>
          { j with started := true, wins := ws, steps := rs, manifest := s.stepManifest p rs })).startCells f j.cmd.serial)

/-- Accounting windows, deferred records and calibration. ACCOUNTING_WINDOW_END, ACCOUNTING_RECORD_DEFERRED and
ENERGY_RECALIBRATION complete in every state. Once a 100 ms window of vehicle time has ended, and not before, the open window
is the one that holds the present time and no record is left due. Where one window has ended, its record is written where the
ring has room and none is pending, and the ring's tail moves on by one; with no room the tail stays and the record is kept to
be merged with the next, MERGED where it covers another window already. A pending record is written once there is room,
before any other. A calibration stores its coefficients, at most once every 10 ms of local monotonic time, unless its
firmware is out of service -/
def Obligations.Accounting : Prop :=
  (∀ (v : Fin 128) (s : State), (s.flag RING_VEF_AQ_CTL.ENABLE v = false → exec (.accountingWindowEnd v) s = .next s) ∧
    (s.flag RING_VEF_AQ_CTL.ENABLE v = true →
      ((s.vrt v).acctOpen = false ∨ s.vehicleNs < ((s.vrt v).acct.start / windowNs + 1) * windowNs →
        ((s.vrt v).acctDue = [] → exec (.accountingWindowEnd v) s = .next s) ∧
        ((s.vrt v).acctDue ≠ [] → exec (.accountingWindowEnd v) s = .next (s.postDue v))) ∧
      ((s.vrt v).acctOpen = true → ((s.vrt v).acct.start / windowNs + 1) * windowNs ≤ s.vehicleNs →
        (∃ t, exec (.accountingWindowEnd v) s = .next t ∧ (t.vrt v).acct = Acct.opened (s.vehicleNs / windowNs * windowNs) ∧ (t.vrt v).acctDue = []) ∧
        ((s.vrt v).acctDue = [] → s.vehicleNs / windowNs = (s.vrt v).acct.start / windowNs + 1 →
          (s.aqRoom v = true → (s.vrt v).acctPending = [] → ∃ t, exec (.accountingWindowEnd v) s = .next t ∧
            t.rd RING_VEF_AQ_CTL.TAIL v = (s.rd RING_VEF_AQ_CTL.TAIL v + 1) % 2 ^ s.rd RING_VEF_AQ_CTL.SIZE_LOG2 v % 65536 ∧ (t.vrt v).acctBack = none) ∧
          (s.aqRoom v = false → ∃ t r, exec (.accountingWindowEnd v) s = .next t ∧ t.rd RING_VEF_AQ_CTL.TAIL v = s.rd RING_VEF_AQ_CTL.TAIL v ∧
            (t.vrt v).acctBack = some r ∧ r.endNs = s.vehicleNs / windowNs * windowNs ∧ ((s.vrt v).acctBack.isSome = true → r.acct.merged = true)))))) ∧
  (∀ (v : Fin 128) (s : State), ((s.vrt v).acctPending = [] ∨ s.flag RING_VEF_AQ_CTL.ENABLE v = false ∨ s.aqRoom v = false → exec (.accountingRecordDeferred v) s = .next s) ∧
    ∀ (r : AcctRec) (rest : List AcctRec), (s.vrt v).acctPending = r :: rest → s.flag RING_VEF_AQ_CTL.ENABLE v = true → s.aqRoom v = true →
      ∃ t, exec (.accountingRecordDeferred v) s = .next t ∧ (t.vrt v).acctPending = rest ∧ t.regs = (s.acctWrite v r).regs ∧
        t.mem = (s.acctWrite v r).mem ∧ t.rd RING_VEF_AQ_CTL.TAIL v = (s.rd RING_VEF_AQ_CTL.TAIL v + 1) % 2 ^ s.rd RING_VEF_AQ_CTL.SIZE_LOG2 v % 65536) ∧
  ∀ (a b c : Nat) (d : List Nat) (s : State), (s.fwOut 6 = true → exec (.energyRecalibration a b c d) s = .next s) ∧
    (s.fwOut 6 = false →
    (s.power.calAt = 0 ∨ s.power.calAt + 10000000 ≤ s.localNs →
      exec (.energyRecalibration a b c d) s =
        .next { s with power := { s.power with coefCell := a, coefEngine := b, coefByte := c, coefStatic := d, calAt := s.localNs } }) ∧
    (s.power.calAt ≠ 0 → s.localNs < s.power.calAt + 10000000 → exec (.energyRecalibration a b c d) s = .next s))

/-- Cameras, lidars and IMUs. CAMERA_PACKET, FRAME_SYNC_START, FRAME_SYNC_END, LIDAR_PACKET, IMU_DRDY, IMU_TRANSACTION_DONE
and SAMPLE_COMPLETE complete in every state. A packet of a source that is off changes nothing; a retransmission counts on its
link and then acts as a packet with an error; one with a wrong virtual channel, and a frame start with an error, counts as a
drop; an error in an open frame discards the frame and frees its slot. A frame start discards a frame still open and takes a
free slot, or is dropped with an event; a frame end with every line waits for its completion, with any other number of lines
discards the frame. Frame sync goes high once for each instant at its lead and low 10 us later. A lidar frame reaches, with
its stamp of reception, the source that its VLAN and port name, and no other changes anything. An IMU edge is stamped and
starts one SPI transaction, whose data become the record of the oldest edge. A sample becomes complete in the order received,
after the instants whose limit has passed are released; with none waiting nothing changes -/
def Obligations.SensorIngress : Prop :=
  (∀ (i : Fin 16) (vc : Fin 32) (p : CamPacket) (e : PacketError) (s : State), e ≠ .retransmission →
    (s.srcOn i = false → exec (.cameraPacket i vc p e) s = .next s) ∧
    (s.srcOn i = true →
      ((e = .header ∨ e = .payloadCrc) → (s.srt i).open_.isSome = true →
        ∃ t, exec (.cameraPacket i vc p e) s = .next t ∧ (t.srt i).open_ = none ∧
          t.rd FUS_SRC_STAT.DROP i = min (s.rd FUS_SRC_STAT.DROP i + 1) (2 ^ FUS_SRC_STAT.DROP.w - 1) ∧ t.mem = s.mem) ∧
      ((e = .header ∨ e = .payloadCrc) → (s.srt i).open_ = none → p = .frameStart →
        exec (.cameraPacket i vc p e) s = .next (s.inc FUS_SRC_STAT.DROP i)) ∧
      ((e = .header ∨ e = .payloadCrc) → (s.srt i).open_ = none → p ≠ .frameStart → exec (.cameraPacket i vc p e) s = .next s) ∧
      ((e = .clean ∨ e = .headerBit) → vc.val ≠ s.rd ING_SRC.VC i → exec (.cameraPacket i vc p e) s = .next (s.inc FUS_SRC_STAT.DROP i)) ∧
      ((e = .clean ∨ e = .headerBit) → vc.val = s.rd ING_SRC.VC i →
        (p = .frameStart → (s.srt i).open_ = none →
          (s.freeSlot i = none → exec (.cameraPacket i vc p e) s = .next (s.dropFull i)) ∧
          ∀ k, s.freeSlot i = some k → ∃ t f, exec (.cameraPacket i vc p e) s = .next t ∧ (t.srt i).open_ = some f ∧ f.slot = k ∧ f.count = 0 ∧
            f.dt = none ∧ t.regs = s.regs ∧ t.mem = s.mem) ∧
        (p = .frameStart → (s.srt i).open_.isSome = true → exec (.cameraPacket i vc p e) s = .next ((s.discardFrame i).camStart i)) ∧
        (p = .frameEnd → (s.srt i).open_ = none → exec (.cameraPacket i vc p e) s = .next s) ∧
        (p = .lineStart → ((s.srt i).open_ = none → exec (.cameraPacket i vc p e) s = .next s) ∧
          ∀ f, (s.srt i).open_ = some f →
            exec (.cameraPacket i vc p e) s = .next (s.setSrc i { s.srt i with open_ := some { f with line := some ((s.sensorNs : Int) - s.rd ING_SRC.LAT i) } })) ∧
        (∀ f, p = .frameEnd → (s.srt i).open_ = some f →
          (f.count ≠ s.camHeight i → ∃ t, exec (.cameraPacket i vc p e) s = .next t ∧ (t.srt i).open_ = none ∧ (t.srt i).received = (s.srt i).received) ∧
          (f.count = s.camHeight i → ∃ t, exec (.cameraPacket i vc p e) s = .next t ∧ (t.srt i).open_ = none ∧
            (t.srt i).received = (s.srt i).received ++ [f] ∧ t.regs = s.regs ∧ t.mem = s.mem)) ∧
        ∀ dt px, p = .line dt px → exec (.cameraPacket i vc p e) s = .next (s.camLine i dt px)))) ∧
  (∀ (i : Fin 16) (vc : Fin 32) (p : CamPacket) (s : State), exec (.cameraPacket i vc p .retransmission) s =
    exec (.cameraPacket i vc p .header) (if i.val < 12 then s.inc APHY_LINK.RETX i else s)) ∧
  (∀ (i : Fin 16) (s : State),
    (s.srcOn i = false ∨ (s.srt i).high.isSome = true ∨ s.syncInstant i = none ∨ (∃ k, s.syncInstant i = some k ∧ (s.srt i).pulsed = some k) →
      exec (.frameSyncStart i) s = .next s) ∧
    ((s.srt i).high = none → exec (.frameSyncEnd i) s = .next s) ∧
    (∀ k, s.srcOn i = true → (s.srt i).high = none → s.syncInstant i = some k → (s.srt i).pulsed ≠ some k →
      ∃ t, exec (.frameSyncStart i) s = .next t ∧ (t.srt i).high = some s.sensorNs ∧ (t.srt i).pulsed = some k ∧
        t.out = .frameSync i true :: s.out ∧ t.regs = s.regs ∧ t.mem = s.mem) ∧
    (∀ n, (s.srt i).high = some n →
      (s.sensorNs < n + 10000 → exec (.frameSyncEnd i) s = .next s) ∧
      (n + 10000 ≤ s.sensorNs → ∃ t, exec (.frameSyncEnd i) s = .next t ∧ (t.srt i).high = none ∧ t.out = .frameSync i false :: s.out ∧
        t.regs = s.regs ∧ t.mem = s.mem))) ∧
  (∀ (fr : Bytes) (s : State),
    ((ethView fr).bind s.steer = none → exec (.lidarPacket fr) s = .next s) ∧
    ∀ i pay, (ethView fr).bind s.steer = some (i, pay) → exec (.lidarPacket fr) s = .next (s.lidarPayload i (s.sensorNs - s.rd GW_PORT.RX_LAT 8) pay)) ∧
  (∀ (n : Fin 2) (data : Bytes) (s : State),
    (s.srcOn (30 + n.val) = true →
      ∃ t, exec (.imuDrdy n) s = .next t ∧ (t.srt (30 + n.val)).edges = (s.srt (30 + n.val)).edges ++ [s.rowTime (30 + n.val)] ∧
        t.out = .spi n (s.imuCmd (30 + n.val)) (s.dataLen (30 + n.val)) :: s.out ∧ t.regs = s.regs) ∧
    (s.srcOn (30 + n.val) = false → exec (.imuDrdy n) s = .next s) ∧
    ((s.srt (30 + n.val)).edges = [] → exec (.imuTransactionDone n data) s = .next s) ∧
    (∀ e rest, (s.srt (30 + n.val)).edges = e :: rest → exec (.imuTransactionDone n data) s =
      .next ((s.drawn.setSrc (30 + n.val) { s.srt (30 + n.val) with edges := rest }).putRecord (30 + n.val) e 0 0
        ((data ++ s.freeBytes (s.dataLen (30 + n.val) - data.length)).take (s.dataLen (30 + n.val))))) ∧
    ∀ e rest, (s.srt (30 + n.val)).edges = e :: rest → data.length = s.dataLen (30 + n.val) →
      exec (.imuTransactionDone n data) s =
        .next ((s.drawn.setSrc (30 + n.val) { s.srt (30 + n.val) with edges := rest }).putRecord (30 + n.val) e 0 0 data)) ∧
  (∀ (i : Fin 32) (s : State), (s.srcOn i = false ∨ (i.val < 24 ∧ (s.srt i).received = []) ∨ (24 ≤ i.val ∧ (s.srt i).written ≤ (s.srt i).complete) →
      exec (.sampleComplete i) s = .next s) ∧
    ∀ f rest, s.srcOn i = true → i.val < 24 → (s.srt i).received = f :: rest →
      let u := s.releaseOverdue 64
      let g : OpenFrame := if i.val < 16 then { f with seq := (u.srt i).done + 1 } else f
      exec (.sampleComplete i) s = .next (((u.setSrc i { u.srt i with received := rest, done := (u.srt i).done + 1 }).slotHeader i g).placeSample i g)) ∧
  ∀ (i : Fin 32) (s : State), s.srcOn i = true → 24 ≤ i.val → (s.srt i).complete < (s.srt i).written →
    ∃ t, exec (.sampleComplete i) s = .next t ∧ (t.srt i).complete = (s.srt i).complete + 1 ∧ (t.srt i).written = (s.srt i).written ∧
      t.regs = s.regs ∧ t.mem = s.mem

/-- Instants, resynchronisation, sources and RUN. INSTANT_RELEASE, INSTANT_WAIT_LIMIT, RESYNC_REQUEST, SOURCE_ENABLE,
SOURCE_DISABLE, FUS_RUN_START and FUS_RUN_STOP complete in every state. The next instant is released, with cause 1, at the
present time or its wait limit, whichever is earlier, once its centre has passed, the last release is not ahead, and every
waited source has its sample; at its wait limit it is released with what there is; before neither happens, nor while RUN is
0. A source in TIME_LOST raises event 0x11 on entry and every 1 s of local time, and none else does. Firmware alone enables
and disables sources and starts and stops RUN: an enable with a configuration that R225 refuses counts CFG_REFUSED and
changes nothing else, one that RUN or ENABLE already holds changes nothing. RUN 0 to 1 starts the aligner at instant 0 -/
def Obligations.InstantsAndSources : Prop :=
  (∀ s : State, s.flag FUS_CTL.RUN = true →
    (s.tK s.fus.nextK ≤ s.sensorNs → s.fus.lastR.getD 0 ≤ s.sensorNs → s.allIn s.fus.nextK = true →
      exec .instantRelease s = .next (s.release s.fus.nextK (min s.sensorNs (s.limitR s.fus.nextK)) 1)) ∧
    ((s.sensorNs < s.tK s.fus.nextK ∨ s.sensorNs < s.fus.lastR.getD 0 ∨ s.allIn s.fus.nextK = false) → exec .instantRelease s = .next s) ∧
    (s.limitR s.fus.nextK ≤ s.sensorNs →
      exec .instantWaitLimit s = .next (s.release s.fus.nextK (s.limitR s.fus.nextK) (if s.allIn s.fus.nextK then 1 else 2))) ∧
    (s.sensorNs < s.limitR s.fus.nextK → exec .instantWaitLimit s = .next s)) ∧
  (∀ s : State, s.flag FUS_CTL.RUN = false → exec .instantRelease s = .next s ∧ exec .instantWaitLimit s = .next s) ∧
  (∀ (i : Fin 8) (s : State), ((s.srt (16 + i.val)).est = none ∨ s.rd FUS_SRC_STAT.STATE (16 + i.val) ≠ srcTimeLost) → exec (.resyncRequest i) s = .next s) ∧
  (∀ (i : Fin 8) (s : State) (e : Int × Int × Nat), (s.srt (16 + i.val)).est = some e → s.rd FUS_SRC_STAT.STATE (16 + i.val) = srcTimeLost →
    (((s.srt (16 + i.val)).resync = none ∨ ∃ t, (s.srt (16 + i.val)).resync = some t ∧ t + 10 ^ 9 ≤ s.localNs) →
      exec (.resyncRequest i) s = .next ((s.setSrc (16 + i.val) { s.srt (16 + i.val) with resync := some s.localNs }).fusEvent 0x11 (16 + i.val)
        (unsigned 64 (s.corr16 (16 + i.val) e.1 / 2 ^ 16)))) ∧
    (∀ t, (s.srt (16 + i.val)).resync = some t → s.localNs < t + 10 ^ 9 → exec (.resyncRequest i) s = .next s)) ∧
  (∀ (src : Source) (i : Fin 32) (s : State), s.who src = .firmware →
    (s.flag ING_SRC.ENABLE i = true → exec (.sourceEnable src i) s = .next s) ∧
    (s.flag ING_SRC.ENABLE i = false → s.srcConfigOk i = false → exec (.sourceEnable src i) s = .next (s.inc FUS_STAT.CFG_REFUSED)) ∧
    (s.flag ING_SRC.ENABLE i = false → s.srcConfigOk i = true → exec (.sourceEnable src i) s = .next (s.sourceEnable i)) ∧
    (s.flag ING_SRC.ENABLE i = false → exec (.sourceDisable src i) s = .next s) ∧
    (s.flag ING_SRC.ENABLE i = true → exec (.sourceDisable src i) s = .next (s.sourceDisable i)) ∧
    (s.flag FUS_CTL.RUN = true → exec (.fusRunStart src) s = .next s) ∧
    (s.flag FUS_CTL.RUN = false → ∃ t, exec (.fusRunStart src) s = .next t ∧ t.flag FUS_CTL.RUN = true ∧ t.fus.nextK = 0 ∧
      t.rd FUS_STAT.RELEASED = 0xFFFFFFFF) ∧
    (s.flag FUS_CTL.RUN = false → exec (.fusRunStop src) s = .next s) ∧
    (s.flag FUS_CTL.RUN = true → exec (.fusRunStop src) s = .next s.runStop)) ∧
  ∀ (src : Source) (i : Fin 32) (s : State), s.who src ≠ .firmware →
    exec (.sourceEnable src i) s = .next (s.denied (s.who src) (RegName.ingSrc.addr i)) ∧
    exec (.sourceDisable src i) s = .next (s.denied (s.who src) (RegName.ingSrc.addr i)) ∧
    exec (.fusRunStart src) s = .next (s.denied (s.who src) RegName.fusCtl.addr) ∧
    exec (.fusRunStop src) s = .next (s.denied (s.who src) RegName.fusCtl.addr)

/-- PROJECT and RENDER. PROJECT and RENDER complete in every state. An admitted PROJECT or RENDER whose buffer list is
refused ends with the list's cause. A RENDER with no raster core on ends with FORMAT_ERROR, cause 0x02, one whose frame
header breaks a rule with cause 0x04, and any other renders its frame; a PROJECT whose buffers, points or calibration block,
as read at its first admission, break a rule ends with cause 0x04, and any other projects its points. Nothing begins while
the engine's kill is in progress, or with no such command in flight that has not begun -/
def Obligations.ProjectorAndRender : Prop :=
  (∀ s : State, (Sparse.look none s.engKill 1).isSome = true ∨ s.unstarted .projector 0x60 = none → exec .project s = .next s) ∧
  (∀ (s : State) (j : Job), Sparse.look none s.engKill 1 = none → s.unstarted .projector 0x60 = some j →
    let u := s.bufTouch j.cmd j.cmd.bufOp.1 j.cmd.bufOp.2
    let cal := j.cmd.copy
    (∀ e, s.bufList j.cmd j.cmd.bufOp.1 j.cmd.bufOp.2 = .error e → exec .project s = .next (u.refuseJob j.cmd.serial e)) ∧
    (∀ ws, s.bufList j.cmd j.cmd.bufOp.1 j.cmd.bufOp.2 = .ok ws → ws.length ≠ 3 → exec .project s = .next (u.refuseJob j.cmd.serial 4)) ∧
    ∀ p d i, s.bufList j.cmd j.cmd.bufOp.1 j.cmd.bufOp.2 = .ok [p, d, i] →
      let count := leNat (s.targetRead (s.target j.cmd.ctx p.fabric (p.base + 8)) 4 [])
      let outside := ((List.range (min (Bytes.num cal 0 1) 16)).map (calCam cal)).any (fun x => camOutside x (Bytes.num cal 3 1) d.len i.len)
      ((p.rd = false ∨ d.wr = false ∨ i.wr = false ∨ p.len < 64 ∨ p.len < count * 16 + 64 ∨ calBad cal = true ∨ outside = true) →
        exec .project s = .next (u.refuseJob j.cmd.serial 4)) ∧
      (p.rd = true → d.wr = true → i.wr = true → 64 ≤ p.len → count * 16 + 64 ≤ p.len → calBad cal = false →
        outside = false → exec .project s = .next (u.runProject j [p, d, i] cal))) ∧
  (∀ (prims : List DrawPrim) (s : State), (Sparse.look none s.engKill 0).isSome = true ∨ s.unstarted .render 0x50 = none → exec (.render prims) s = .next s) ∧
  ∀ (prims : List DrawPrim) (s : State) (j : Job), Sparse.look none s.engKill 0 = none → s.unstarted .render 0x50 = some j →
    let u := s.bufTouch j.cmd j.cmd.bufOp.1 j.cmd.bufOp.2
    (∀ e, s.bufList j.cmd j.cmd.bufOp.1 j.cmd.bufOp.2 = .error e → exec (.render prims) s = .next (u.refuseJob j.cmd.serial e)) ∧
    ∀ ws, s.bufList j.cmd j.cmd.bufOp.1 j.cmd.bufOp.2 = .ok ws →
      let hdr := s.rndRead j.cmd ws (j.cmd.op 0x18 8) 256 .read
      ((∀ c < 8, s.coreOn c = false) → exec (.render prims) s = .next (u.refuseJob j.cmd.serial 2)) ∧
      (∀ c < 8, s.coreOn c = true →
        ((s.frame9 j.cmd ws hdr).bad hdr = true → exec (.render prims) s = .next (u.refuseJob j.cmd.serial 4)) ∧
        ((s.frame9 j.cmd ws hdr).bad hdr = false → exec (.render prims) s = .next (u.runRender j (s.frame9 j.cmd ws hdr) prims)))

/-- PRESENT, the latch and the frame start. PRESENT, PRESENT_LATCH and FRAME_START complete in every state. A PRESENT at the
head of its queue, that does not wait and whose VEF runs, reads its descriptor once: poisoned, it completes OUTPUT_INVALID;
one that its head cannot show completes FORMAT_ERROR, cause 0x04; any other joins the pending list of its head, and with four
there already the oldest completes SKIPPED. From 2.0 ms before a frame, once, the head latches the newest eligible image; at
its start the frame is scanned out once; a head that is off, or that resumes with a later frame, does neither -/
def Obligations.DisplayHeads : Prop :=
  (∀ (cls : Fin 4) (s : State), (s.headIs .render cls 0x51 = none → exec (.present cls) s = .next s) ∧
    ∀ c : Cmd, s.headIs .render cls 0x51 = some c → (s.waits c = true ∨ s.vefRuns c.vef = false) → exec (.present cls) s = .next s) ∧
  (∀ (cls : Fin 4) (s : State) (c : Cmd), s.headIs .render cls 0x51 = some c → s.waits c = false → s.vefRuns c.vef = true →
    let t := s.ctxTouch c.ctx (c.op 0x18 8) 64
    let d := s.ctxRead c.ctx (c.op 0x18 8) 64
    (s.ctxBad c.ctx (c.op 0x18 8) 64 ≠ [] → exec (.present cls) s = .next (t.endQueued c 0x30 0 0)) ∧
    (s.ctxBad c.ctx (c.op 0x18 8) 64 = [] → s.presentBad (c.op 0x20 1) (imgOfBytes d) = true → exec (.present cls) s = .next (t.endQueued c 0x40 4 0)) ∧
    (s.ctxBad c.ctx (c.op 0x18 8) 64 = [] → s.presentBad (c.op 0x20 1) (imgOfBytes d) = false →
      (((t.dequeue c.serial).pendOf (c.op 0x20 1)).length < 4 →
        ∃ u, exec (.present cls) s = .next u ∧ u.disp.pend = t.disp.pend ++ [⟨c.op 0x20 1, c, d⟩] ∧ u.regs = t.regs ∧ u.mem = t.mem ∧
          u.queue = t.queue.filter (fun q => q.2.serial != c.serial)) ∧
      ∀ p rest, (t.dequeue c.serial).pendOf (c.op 0x20 1) = p :: rest → 3 ≤ rest.length →
        ∃ u, exec (.present cls) s = .next u ∧
          u.disp.pend = ((t.dequeue c.serial).endPresent p none false).disp.pend ++ [⟨c.op 0x20 1, c, d⟩] ∧
          u.regs = ((t.dequeue c.serial).endPresent p none false).regs)) ∧
  (∀ (h : Fin 6) (s : State),
    let n := s.frameNext h s.vehicleNs
    let idle := s.headOn h = false ∨ (∃ r, (s.head h).resume = some r ∧ n < r) ∨ (∃ m, (s.head h).latched = some m ∧ n ≤ m) ∨
      s.vehicleNs + 2000000 < s.frameAt h n
    (idle → exec (.presentLatch h) s = .next s) ∧ (¬idle → exec (.presentLatch h) s = .next (s.latch h n))) ∧
  ∀ (h : Fin 6) (late : List (Nat × Nat)) (s : State),
    let n := s.frameNext h s.vehicleNs
    let idle := s.headOn h = false ∨ (∃ r, (s.head h).resume = some r ∧ n - 1 < r) ∨ (∃ m, (s.head h).started = some m ∧ n - 1 ≤ m) ∨ n = 0
    (idle → exec (.frameStart h late) s = .next s) ∧ (¬idle → exec (.frameStart h late) s = .next (s.scanFrame h (n - 1) late))

/-- Fault reports, their classes and the watchdog. FAULT_REPORT, HEARTBEAT_TIMEOUT, FIRMWARE_SILENT, KICK, STATUS_WRITE and
WATCHDOG_WINDOW_EXPIRY complete in every state. A pending report is taken up once and processed by its class: a correctable
one is counted and changes nothing else, a contained one of no field is counted and recorded, and a device-fatal one in the
safe state only counts FATAL_EXTRA. A report of a physical mechanism comes from outside; one of source 0x16 that nothing has
reported is a mismatch found by the projector, which ends a command in flight with DUP = 1 OUTPUT_INVALID and, of a SAFETY
command, is a contained fault; of any other source that nothing reports, nothing happens. A lost heartbeat and silent
firmware are reported while the device is awake. With WD_EN and no move from DEPOT into PARK a kick before 0.5 ms have passed
or 1 ms or more after the last, and none within 1 ms or within 50 ms of the release, are device-fatal reports 0x0A; without
it, or during that move, a kick changes nothing. SAF_CTL.STATUS takes the Cantle's value, OPERATIONAL releases FAULT_N, and
0x6 and every write in the safe state change nothing. Other requesters' writes are refused and counted -/
def Obligations.FaultsAndReactions : Prop :=
  (∀ (source : Fin 256) (field : Option (Fin 17)) (s : State),
    (∀ r, s.saf.reports.find? (fun r => r.source == source.val && decide (r.field = field.map (·.val))) = some r →
      let u : State := { s with saf := { s.saf with reports := s.saf.reports.erase r } }
      exec (.faultReport source field) s = .next (u.processFault r) ∧
      (faultClass source = 4 → ∃ t, exec (.faultReport source field) s = .next t ∧ t = u.inc SAF_FAULT_CNT.CORRECTABLE) ∧
      (faultClass source = 1 → field = none →
        exec (.faultReport source field) s = .next (((u.inc SAF_FAULT_CNT.CONTAINED).countFault).recordFault r)) ∧
      (faultClass source = 3 → s.flag SAF_CTL.SAFE_STATE = true → (source.val ≠ 1 ∨ s.flag SAF_CTL.SPLIT = false) →
        exec (.faultReport source field) s = .next (u.inc SAF_FAULT_CNT.FATAL_EXTRA)) ∧
      (faultClass source = 3 → s.flag SAF_CTL.SAFE_STATE = false → (source.val ≠ 1 ∨ s.flag SAF_CTL.SPLIT = false) →
        exec (.faultReport source field) s = .next (u.enterSafe r))) ∧
    (s.saf.reports.find? (fun r => r.source == source.val && decide (r.field = field.map (·.val))) = none →
      (physicalSource source = true → exec (.faultReport source field) s = .next (s.processFault ⟨source, field.map (·.val), s.vehicleNs⟩)) ∧
      (source.val = 0x16 → (s.dupJob = none → exec (.faultReport source field) s = .next s) ∧
        ∀ j, s.dupJob = some j → let u := s.changeJob j.cmd.serial (fun j => { j with started := true, outcome := .ended 0x30 0 0 })
          (j.cmd.cls = 0 → exec (.faultReport source field) s = .next (u.processFault ⟨0x16, none, s.vehicleNs⟩)) ∧
          (j.cmd.cls ≠ 0 → exec (.faultReport source field) s = .next u)) ∧
      (physicalSource source = false → source.val ≠ 0x16 → exec (.faultReport source field) s = .next s))) ∧
  (∀ s : State, (s.awake = true → exec .heartbeatTimeout s = .next (s.report 0x05 none) ∧ exec .firmwareSilent s = .next (s.report 0x09 none)) ∧
    (s.awake = false → exec .heartbeatTimeout s = .next s ∧ exec .firmwareSilent s = .next s)) ∧
  (∀ (src : Source) (s : State),
    (s.who src = .cantle →
      let good := (∀ k, s.saf.kick = some k → (s.saf.kickFree = true ∨ k + 500000 ≤ s.vehicleNs) ∧ s.vehicleNs < k + 1000000) ∧
        (s.saf.kick = none → ∀ r, s.saf.released = some r → s.localNs < r + 50000000)
      (s.flag SAF_WDOG.WD_EN = false ∨ s.watchSuspended = true → exec (.kick src) s = .next s) ∧
      (s.flag SAF_WDOG.WD_EN = true → s.watchSuspended = false →
        (good → exec (.kick src) s = .next { s with saf := { s.saf with kick := some s.vehicleNs, kickFree := false, released := none } }) ∧
        (¬good → ∃ t, exec (.kick src) s = .next t ∧ t.saf.reports = s.saf.reports ++ [⟨0x0A, none, s.vehicleNs⟩] ∧
          t.saf.kick = some s.vehicleNs ∧ t.regs = s.regs))) ∧
    (s.who src = .cantle → s.flag SAF_CTL.SAFE_STATE = false →
      (∀ v : Fin 16, v.val ≠ 6 → v.val ≠ 2 → exec (.statusWrite src v) s = .next (s.wr SAF_CTL.STATUS v)) ∧
      (s.flag SAF_CTL.FAULT_N_LOW = false → exec (.statusWrite src 2) s = .next (s.wr SAF_CTL.STATUS 2)) ∧
      (s.flag SAF_CTL.FAULT_N_LOW = true → ∃ t, exec (.statusWrite src 2) s = .next t ∧ t.rd SAF_CTL.STATUS = 2 ∧ t.flag SAF_CTL.FAULT_N_LOW = false ∧
        t.out = .faultN true :: s.out) ∧
      exec (.statusWrite src 6) s = .next s) ∧
    (∀ v : Fin 16, s.who src = .cantle → s.flag SAF_CTL.SAFE_STATE = true → exec (.statusWrite src v) s = .next s) ∧
    (∀ v : Fin 16, (s.who src).isCantle = false →
      exec (.statusWrite src v) s = .next (s.denied (s.who src) (RegName.addr .safCtl)) ∧ exec (.kick src) s = .next (s.denied (s.who src) (RegName.addr .safWdog)))) ∧
  (∀ s : State, (s.flag SAF_WDOG.WD_EN = false ∨ s.saf.kick = none ∧ (∀ r, s.saf.released = some r → s.localNs < r + 50000000) →
    exec .watchdogWindowExpiry s = .next s)) ∧
  ∀ s : State, s.flag SAF_WDOG.WD_EN = true →
    (∀ k, s.saf.kick = some k →
      (s.vehicleNs < k + 1000000 → exec .watchdogWindowExpiry s = .next s) ∧
      (k + 1000000 ≤ s.vehicleNs → exec .watchdogWindowExpiry s =
        .next ({ s with saf := { s.saf with kick := none, released := none } }.report 0x0A none))) ∧
    (∀ r, s.saf.kick = none → s.saf.released = some r → r + 50000000 ≤ s.localNs →
      exec .watchdogWindowExpiry s = .next ({ s with saf := { s.saf with kick := none, released := none } }.report 0x0A none))

/-- Status frames, deadlines, the sleep permission and the fall-back list. SAFE_STATE_FRAME, STATUS_FRAME,
PRIMARY_DEADLINE_CHECK, SHADOW_DEADLINE_CHECK, SLEEP_PERMISSION_FRAME, SLEEP_PERMISSION_EXPIRY and FALLBACK_DATAGRAM complete
in every state. In the safe state the sequencer sends a frame with STATUS 6 when it is due; outside it the Cantle sends one
at each multiple of 10 ms and for a change in the next 1 ms cycle and the four after it; in PARK, or held, none; the counter
moves on with each, but in the boot in PARK, which sends none. The primary's deadline check of an instant, made once, sets
PERCEPTION_LATE and reports 0x32 unless a FRAME of that instant or the one before has committed or the primary is not loaded;
the Shadow's check says whether it is live. A sleep permission frame with the identifier, length, CRC, a new counter and the
code 0x5A is recorded; a wrong CRC is counted; any other frame changes nothing, and the permission ends 1 s of vehicle time
later. The oldest committed Shadow list leaves the queue and is sent unless the gate is closed, the Cantle is held or its
port of the switch is not ON. A command before its time, or with nothing to do, changes nothing -/
def Obligations.StatusFramesAndSleep : Prop :=
  (∀ s : State,
    let due := s.saf.nextFrame ≤ s.vehicleNs ∨ ∃ b, s.saf.frameBy = some b ∧ b ≤ s.localNs
    (s.flag SAF_CTL.SAFE_STATE = true → due →
      ∃ t, exec .safeStateFrame s = .next t ∧ t.saf.nextFrame = s.vehicleNs + 10000000 ∧ t.regs = s.regs ∧
        t.saf.counter = if s.parkBoot then s.saf.counter else (s.saf.counter + 1) % 16) ∧
    (s.flag SAF_CTL.SAFE_STATE = false ∨ ¬due → exec .safeStateFrame s = .next s) ∧
    ((s.awake = false ∨ s.flag SAF_CTL.SAFE_STATE = true ∨ s.saf.held = true) → exec .statusFrame s = .next s.endStarting) ∧
    (s.awake = true → s.flag SAF_CTL.SAFE_STATE = false → s.saf.held = false →
      let v : FrameView := ⟨s.endStarting.statusCode, s.endStarting.statusFlags⟩
      let changed := s.saf.cycle < s.vehicleNs / 1000000 ∧ (s.saf.view ≠ some v ∨ s.saf.repeats ≠ 0)
      (due → ∃ t, exec .statusFrame s = .next t ∧ t.saf.nextFrame = (s.vehicleNs / 10000000 + 1) * 10000000 ∧ t.saf.view = some v ∧ t.regs = s.regs ∧
        t.saf.counter = if s.parkBoot then s.saf.counter else (s.saf.counter + 1) % 16) ∧
      (¬due → changed → ∃ t, exec .statusFrame s = .next t ∧ t.saf.nextFrame = s.saf.nextFrame ∧ t.saf.view = some v ∧ t.regs = s.regs ∧
        t.saf.repeats = (if s.saf.view ≠ some v then 4 else s.saf.repeats - 1) ∧
        t.saf.counter = if s.parkBoot then s.saf.counter else (s.saf.counter + 1) % 16) ∧
      (¬due → ¬changed → exec .statusFrame s = .next s.endStarting))) ∧
  (∀ s : State, s.flag FUS_CTL.RUN = false → exec .primaryDeadlineCheck s = .next s ∧ exec .shadowDeadlineCheck s = .next s) ∧
  (∀ s : State, s.flag FUS_CTL.RUN = true →
    let p := s.rd FUS_CFG.PRIMARY
    let loaded := p < 17 ∧ (s.frt p).image.isSome = true ∧ s.fState p ≠ stFree ∧ s.fState p ≠ stLoading ∧ s.fState p ≠ stClearing
    let met := s.saf.primaryOld = false ∧ ∃ n, s.saf.primaryK = some n ∧ s.saf.primaryNext ≤ n + 1
    (s.sensorNs < s.tK s.saf.primaryNext + s.deadlineNs → exec .primaryDeadlineCheck s = .next s) ∧
    (s.tK s.saf.primaryNext + s.deadlineNs ≤ s.sensorNs →
      (¬loaded ∨ met → exec .primaryDeadlineCheck s = .next { s with saf := { s.saf with primaryNext := s.saf.primaryNext + 1 } }) ∧
      (loaded → ¬met →
        ∃ t, exec .primaryDeadlineCheck s = .next t ∧ t.saf.late = true ∧ t.saf.primaryNext = s.saf.primaryNext + 1 ∧ t.regs = s.regs ∧
          ∃ r, t.saf.reports = s.saf.reports ++ [r] ∧ r.source = 0x32 ∧ r.field = some p)) ∧
    (s.sensorNs < s.tK s.saf.shadowNext → exec .shadowDeadlineCheck s = .next s) ∧
    (s.tK s.saf.shadowNext ≤ s.sensorNs → exec .shadowDeadlineCheck s =
      .next ({ s with saf := { s.saf with
        shadowNext := s.saf.shadowNext + 1, shadowLive := !s.saf.shadowOld && (s.saf.shadowK).any (fun n => decide (s.saf.shadowNext ≤ n + 2)) } } : State).endStarting)) ∧
  (∀ (port : Fin 2) (id : Nat) (ext : Bool) (data : Bytes) (s : State),
    let ours := s.saf.held = false ∧ s.awake = true ∧ id = Bytes.num s.fw.record 0xDC 4 % 2 ^ 29 ∧ ext = (Bytes.num s.fw.record 0xDC 4).testBit 29 ∧ data.length = 8
    (¬ours → exec (.sleepPermissionFrame port id ext data) s = .next s) ∧
    (ours →
    ((data.getD 0 0).toNat ≠ e2eP22 (Bytes.sub s.fw.record 0xF4 16) data →
      exec (.sleepPermissionFrame port id ext data) s = .next (s.inc SAF_FAULT_CNT.E2E_FAIL)) ∧
    ((data.getD 0 0).toNat = e2eP22 (Bytes.sub s.fw.record 0xF4 16) data →
      ((s.saf.sleepCtr = some ((data.getD 1 0).toNat % 16) ∨ (data.getD 2 0).toNat ≠ 0x5A) → exec (.sleepPermissionFrame port id ext data) s = .next s) ∧
      (s.saf.sleepCtr ≠ some ((data.getD 1 0).toNat % 16) → (data.getD 2 0).toNat = 0x5A →
        exec (.sleepPermissionFrame port id ext data) s =
          .next { s with saf := { s.saf with sleepCtr := some ((data.getD 1 0).toNat % 16), sleepAt := some s.vehicleNs } })))) ∧
  (∀ s : State, (s.saf.sleepAt = none → exec .sleepPermissionExpiry s = .next s) ∧
    ∀ t : Nat, s.saf.sleepAt = some t →
    (s.vehicleNs < t + 1000000000 → exec .sleepPermissionExpiry s = .next s) ∧
    (t + 1000000000 ≤ s.vehicleNs → exec .sleepPermissionExpiry s = .next { s with saf := { s.saf with sleepAt := none } })) ∧
  ∀ s : State, (s.saf.fallback = [] → exec .fallbackDatagram s = .next s) ∧
    ∀ (k a : Nat) (rest : List (Nat × Nat)), s.saf.fallback = (k, a) :: rest →
    ((s.saf.gate = true ∨ s.saf.held = true) → exec .fallbackDatagram s = .next { s with saf := { s.saf with fallback := rest } }) ∧
    (s.saf.gate = false → s.saf.held = false → ∃ t, exec .fallbackDatagram s = .next t ∧ t.saf.fallback = rest ∧ t.regs = s.regs ∧ t.mem = s.mem ∧
      (s.rd GW_PORT.STATE 9 = 2 → s.out.length < t.out.length) ∧ (s.rd GW_PORT.STATE 9 ≠ 2 → t.out = s.out))

/-- Golden frames. GOLDEN_SLOT_OPEN, GOLDEN_FORCED_KILL, GOLDEN_SKIP, GOLDEN_DEADLINE and GOLDEN_COMPARE_DONE complete in
every state. Goldens run only in DRIVE. When a field's slot is open and a ring of the Cantle that may be fetched holds its
descriptor, the golden fetched is admitted; the fetch of another command admits none; while no slot is open, or no ring can
be fetched, nothing happens. A field whose two last goldens were skipped is killed at T_(k+1) − BUDGET_US − 50 µs of its due
instant where it runs, and one that is IDLE, DRAINING or in a fault drain only keeps its next place for the golden; no other
field is. A golden whose three instants have passed is skipped and counted, unless it is forced. One not complete by T_(j+1)
of its instant fails once. A golden that completed DONE with every output in its range ends what the field waited for;
another completed one fails; each counts as a run; one that failed and is no longer in flight is dropped -/
def Obligations.GoldenFrames : Prop :=
  (∀ (field : Fin 17) (ring : Fin 2) (s : State), s.cur ≠ mDrive →
    exec (.goldenSlotOpen field ring) s = .next s ∧ exec (.goldenForcedKill field) s = .next s ∧ exec (.goldenSkip field) s = .next s) ∧
  (∀ (field : Fin 17) (ring : Fin 2) (s : State),
    (s.slotOpen field = false → exec (.goldenSlotOpen field ring) s = .next s) ∧
    (s.slotOpen field = true → s.flag SQ_CFG.ENABLE cantleSet ring = true → s.ringHolds cantleSet ring ≠ 0 → s.cqRoom cantleSet = true →
      (s.ringRt cantleSet ring).fence = none → ∀ (q : Res × Cmd) (j : Nat), s.curInstant = some j →
      (s.fetch cantleSet ring).queue.find? (goldenCmd field s.fetched) = some q →
      exec (.goldenSlotOpen field ring) s = .next ((s.fetch cantleSet ring).admitGolden field q.2 j)) ∧
    (s.slotOpen field = true → s.flag SQ_CFG.ENABLE cantleSet ring = true → s.ringHolds cantleSet ring ≠ 0 → s.cqRoom cantleSet = true →
      (s.ringRt cantleSet ring).fence = none → (s.fetch cantleSet ring).queue.find? (goldenCmd field s.fetched) = none →
      exec (.goldenSlotOpen field ring) s = .next (s.fetch cantleSet ring)) ∧
    ((s.flag SQ_CFG.ENABLE cantleSet ring = false ∨ s.ringHolds cantleSet ring = 0 ∨ s.cqRoom cantleSet = false ∨
      (s.ringRt cantleSet ring).fence ≠ none) → exec (.goldenSlotOpen field ring) s = .next s)) ∧
  (∀ (field : Fin 17) (s : State),
    ((s.goldensRun = false ∨ s.flag SAF_GOLD.ENABLE field = false ∨ s.saf.forced.contains field.val = true ∨ s.rd SAF_GOLD.SKIPS field < 2 ∨
      s.curInstant ≠ some (s.dueInstant field) ∨ s.goldenRun field ≠ none ∨
      s.sensorNs + s.goldenNs field < s.tK (s.dueInstant field + 1)) → exec (.goldenForcedKill field) s = .next s) ∧
    (s.goldensRun = true → s.flag SAF_GOLD.ENABLE field = true → s.saf.forced.contains field.val = false →
      2 ≤ s.rd SAF_GOLD.SKIPS field → s.curInstant = some (s.dueInstant field) → s.goldenRun field = none →
      s.tK (s.dueInstant field + 1) ≤ s.sensorNs + s.goldenNs field →
      (s.fState field = stRunning → (s.frt field).faultDrain = false → exec (.goldenForcedKill field) s =
        .next { s.killField field with saf := { (s.killField field).saf with forced := (s.killField field).saf.forced ++ [field.val] } }) ∧
      (((s.fState field = stRunning ∧ (s.frt field).faultDrain = true) ∨ s.fState field = stIdle ∨ s.fState field = stDraining) →
        exec (.goldenForcedKill field) s = .next { s with saf := { s.saf with forced := s.saf.forced ++ [field.val] } }) ∧
      (s.fState field ≠ stRunning → s.fState field ≠ stIdle → s.fState field ≠ stDraining → exec (.goldenForcedKill field) s = .next s)) ∧
    ((s.goldensRun = false ∨ s.flag SAF_GOLD.ENABLE field = false ∨ s.saf.forced.contains field.val = true ∨ s.curInstant = none) →
      exec (.goldenSkip field) s = .next s) ∧
    (∀ j, s.curInstant = some j →
      (j ≤ s.dueInstant field + 2 → exec (.goldenSkip field) s = .next s) ∧
      (s.goldensRun = true → s.flag SAF_GOLD.ENABLE field = true → s.saf.forced.contains field.val = false →
        s.dueInstant field + 2 < j → ∃ t, exec (.goldenSkip field) s = .next t ∧
        t.saf.settled = Sparse.put 0 s.saf.settled field (s.dueInstant field + 1) ∧
        t.rd SAF_GOLD.SKIPS field = min (s.rd SAF_GOLD.SKIPS field + 1) 2 ∧ t.flds = s.flds ∧ t.mem = s.mem))) ∧
  ∀ (field : Fin 17) (s : State),
    (s.goldenRun field = none → exec (.goldenDeadline field) s = .next s ∧ exec (.goldenCompareDone field) s = .next s) ∧
    (∀ g, s.goldenRun field = some g →
      (g.failed = true → exec (.goldenDeadline field) s = .next s) ∧
      (g.status = none →
        (g.failed = false ∨ s.flight.any (fun j => j.cmd.serial == g.serial) = true → exec (.goldenCompareDone field) s = .next s) ∧
        (g.failed = true → s.flight.any (fun j => j.cmd.serial == g.serial) = false →
          exec (.goldenCompareDone field) s = .next (s.dropGolden field))) ∧
      (g.status = none → g.failed = false →
        (s.sensorNs < s.tK (g.instant + 1) → exec (.goldenDeadline field) s = .next s) ∧
        (s.tK (g.instant + 1) ≤ s.sensorNs → exec (.goldenDeadline field) s = .next (({ s with saf := { s.saf with
          goldens := s.saf.goldens.map (fun (x : GoldenRun) => if x.field = g.field then { x with failed := true } else x) } } : State).goldenFail field))) ∧
      (∀ st, g.status = some st →
        let u := ((s.dropGolden field).inc SAF_GOLD.RUNS field).wr SAF_GOLD.SKIPS 0 field
        exec (.goldenDeadline field) s = .next s ∧
        (g.failed = true → exec (.goldenCompareDone field) s = .next u) ∧
        (g.failed = false → st = 0 → s.goldenPass g = true → exec (.goldenCompareDone field) s = .next ({ u with saf := { u.saf with
          unresolved := u.saf.unresolved.filter (· != field.val),
          needGolden := u.saf.needGolden.filter (· != field.val) } } : State).endStarting) ∧
        (g.failed = false → (st ≠ 0 ∨ s.goldenPass g = false) → exec (.goldenCompareDone field) s = .next (u.goldenFail field))))

/-- Slices, intervals, coverage and re-admission. READMIT, BIST_SLICE_START, BIST_SLICE_DONE, BIST_INTERVAL_DUE and
COVERAGE_LAPSE complete in every state. A slice asked for, with BIST_CFG.ENABLE and none in progress, starts where R287
allows it, and is otherwise deferred and counted: always when it and its 50 µs do not end by the next release, and in the
safe state. The end of a slice closes it, starts its block's interval again from the slice's start and clears its coverage
fault; a slice of no field that finds nothing and tests no cluster only passes; a unit whose own slice fails goes out of
service. When an interval is due, a block of no field is tested and one of a safety field is left alone; a general field is
held, its block tested when it is STOPPED or free, after a checkpoint of its own where the block needs one. A block not
tested in time counts in COVERAGE once, and is a contained fault 0x14 where it is one of a safety field or of field 16.
Firmware and the hypervisor re-admit an OUT_OF_SERVICE unit whose OOS_COUNT is below 3 to TESTING -/
def Obligations.SelfTest : Prop :=
  (∀ (src : Source) (unit : Fin 192) (s : State),
    ((s.who src).fwHyp = true →
      (s.rd BIST_UNIT.STATE unit = 1 → s.rd BIST_UNIT.OOS_COUNT unit < 3 → ∃ t, exec (.readmit src unit) s = .next t ∧
        t.rd BIST_UNIT.STATE unit = 2 ∧ t.bist.passed = s.bist.passed.filter (fun p => p / 8 != unit.val) ∧ t.mem = s.mem ∧ t.flds = s.flds) ∧
      ((s.rd BIST_UNIT.STATE unit ≠ 1 ∨ 3 ≤ s.rd BIST_UNIT.OOS_COUNT unit) → exec (.readmit src unit) s = .next s)) ∧
    ((s.who src).fwHyp = false → exec (.readmit src unit) s = .next (s.denied (s.who src) (RegName.addr .bistUnit unit)))) ∧
  (∀ (kind : SliceKind) (unit : Fin 192) (s : State),
    ((s.fwOut 5 = true ∨ s.flag BIST_CFG.ENABLE = false ∨ s.bist.slice ≠ none ∨ s.sliceUnit (kindCode kind) unit = false) →
      exec (.bistSliceStart kind unit) s = .next s) ∧
    (s.fwOut 5 = false → s.flag BIST_CFG.ENABLE = true → s.bist.slice = none → s.sliceUnit (kindCode kind) unit = true →
      (s.sliceMay (kindCode kind) unit = true → exec (.bistSliceStart kind unit) s =
        .next { s with bist := { s.bist with slice := some ⟨kindCode kind, unit, s.sliceField (kindCode kind) unit, s.vehicleNs⟩ } }) ∧
      (s.sliceMay (kindCode kind) unit = false → exec (.bistSliceStart kind unit) s = .next (s.inc BIST_STAT.DEFERRED)) ∧
      ((s.rd BIST_GATE.NEXT_REL < s.vehicleNs + kindNs (kindCode kind) + 50000 ∨ s.flag SAF_CTL.SAFE_STATE = true) →
        exec (.bistSliceStart kind unit) s = .next (s.inc BIST_STAT.DEFERRED)))) ∧
  (∀ (fails : List BistFail) (s : State),
    ((s.fwOut 5 = true ∨ s.bist.slice = none) → exec (.bistSliceDone fails) s = .next s) ∧
    (∀ x, s.fwOut 5 = false → s.bist.slice = some x →
      (fails = [] → x.field = none → x.kind ≠ 1 → x.kind ≠ 2 →
        exec (.bistSliceDone fails) s = .next ((s.passSlice x.kind x.unit).endSlice x)) ∧
      ∃ t, exec (.bistSliceDone fails) s = .next t ∧ t.bist.slice = none ∧
      Sparse.look 0 t.bist.began (blockKey x.kind x.unit) = x.since ∧ t.bist.lapsed.contains (blockKey x.kind x.unit) = false ∧
      t.saf.coverage.contains (blockKey x.kind x.unit) = false ∧
      (x.kind = 5 → 156 ≤ x.unit → fails ≠ [] → t.rd BIST_UNIT.STATE x.unit = 1))) ∧
  (∀ (kind : SliceKind) (unit : Fin 192) (s : State),
    ((s.fwOut 5 = true ∨ s.flag BIST_CFG.ENABLE = false ∨ s.sliceUnit (kindCode kind) unit = false) →
      exec (.bistIntervalDue kind unit) s = .next s) ∧
    (s.fwOut 5 = false → s.flag BIST_CFG.ENABLE = true → s.sliceUnit (kindCode kind) unit = true →
      (∀ f, s.sliceField (kindCode kind) unit = some f → (s.isSafety f = true ∨ 17 ≤ f) → exec (.bistIntervalDue kind unit) s = .next s) ∧
      (∀ f : Fin 17, s.sliceField (kindCode kind) unit = some f.val → s.isSafety f = false →
        let u := s.setF f { s.frt f with hold := true }
        (s.fState f = stStopped → exec (.bistIntervalDue kind unit) s = .next (u.startSlice (kindCode kind) unit)) ∧
        (s.fState f ≠ stStopped → ((s.jobsOn (.field f)).isEmpty = false ∨ s.fState f ≠ stIdle) → exec (.bistIntervalDue kind unit) s = .next u) ∧
        (s.fState f = stIdle → (s.jobsOn (.field f)).isEmpty = true →
          ((s.frt f).bistCk = false → s.needsCheckpoint f (kindCode kind) unit = false →
            exec (.bistIntervalDue kind unit) s = .next (u.startSlice (kindCode kind) unit)) ∧
          ((s.frt f).bistCk = false → s.needsCheckpoint f (kindCode kind) unit = true →
            exec (.bistIntervalDue kind unit) s = .next ((u.startCopies f).setF f { (u.startCopies f).frt f with bistCk := true })) ∧
          ((s.frt f).bistCk = true → (s.frt f).moves.any (fun m => m.kind == 2) = true → exec (.bistIntervalDue kind unit) s = .next u) ∧
          ((s.frt f).bistCk = true → (s.frt f).moves.any (fun m => m.kind == 2) = false → exec (.bistIntervalDue kind unit) s =
            .next (((u.ckFlip f).setF f { u.frt f with bistCk := false, ckptLast := true }).startSlice (kindCode kind) unit)))) ∧
      (s.sliceField (kindCode kind) unit = none → kindCode kind ≠ 3 → exec (.bistIntervalDue kind unit) s = .next (s.startSlice (kindCode kind) unit)) ∧
      (s.sliceField (kindCode kind) unit = none → kindCode kind = 3 →
        let u := { s with bist := { s.bist with stop := true } }
        exec (.bistIntervalDue kind unit) s = .next (if (s.jobsOn .render).isEmpty then u.startSlice (kindCode kind) unit else u)))) ∧
  ∀ (kind : SliceKind) (unit : Fin 192) (s : State),
    ((s.fwOut 4 = true ∨ s.flag BIST_CFG.ENABLE = false ∨ s.sliceUnit (kindCode kind) unit = false ∨
      s.bist.lapsed.contains (blockKey (kindCode kind) unit) = true ∨ (∃ x, s.bist.slice = some x ∧ x.kind = kindCode kind ∧ x.unit = unit.val)) →
      exec (.coverageLapse kind unit) s = .next s) ∧
    (s.fwOut 4 = false → s.flag BIST_CFG.ENABLE = true → s.sliceUnit (kindCode kind) unit = true →
      (∀ x, s.bist.slice = some x → x.kind ≠ kindCode kind ∨ x.unit ≠ unit.val) →
      s.bist.lapsed.contains (blockKey (kindCode kind) unit) = false →
      let t := { s.inc BIST_STAT.COVERAGE with bist := { s.bist with lapsed := blockKey (kindCode kind) unit :: s.bist.lapsed } }
      let stop := s.intervalStart (kindCode kind) unit + s.testInterval (kindCode kind) unit
      (s.safeBlock (kindCode kind) unit = none → s.vehicleNs < stop → exec (.coverageLapse kind unit) s = .next s) ∧
      (s.safeBlock (kindCode kind) unit = none → stop ≤ s.vehicleNs → exec (.coverageLapse kind unit) s = .next t) ∧
      (∀ f, s.safeBlock (kindCode kind) unit = some f →
        (s.vehicleNs < stop - kindNs (kindCode kind) → exec (.coverageLapse kind unit) s = .next s) ∧
        (stop - kindNs (kindCode kind) ≤ s.vehicleNs → exec (.coverageLapse kind unit) s =
          .next ({ t with saf := { t.saf with coverage := blockKey (kindCode kind) unit :: t.saf.coverage } }.report 0x14 (some f)))))

/-- Enabling, disabling and resetting a VEF. VEF_ENABLE, VEF_DISABLE, VEF_RESET, FUNCTION_LEVEL_RESET and VEF_RESET_DONE
complete in every state. ENABLE written 1 to a DISABLED VEF sets it, counts KEY_EPOCH and starts the generation of key slot
v, or has it wait for a key command in progress, the VEF still DISABLED; in another state it changes nothing. ENABLE written
0 while a valid region selects the key slot, or a valid pool is owned, or in a state that may not be disabled, only counts
CFG_REFUSED; accepted, it resets the VEF. RESET of an ACTIVE, FREEZING or FROZEN VEF, and in endpoint mode a function-level
reset of a VEF from 1 up whose function is there (VF Enable set, and NumVFs not below it), begin its reset; of a DISABLED or
RESETTING VEF, and of a function that is not there, nothing happens. Once everything of the VEF has ended it is ACTIVE with
RESET_DONE, or its key slot is zeroised and it is DISABLED. The registers are the firmware's and the hypervisor's -/
def Obligations.VefLifecycle : Prop :=
  (∀ (src : Source) (vef : Fin 128) (s : State),
    ((s.who src).fwHyp = false →
      exec (.vefEnable src vef) s = .next (s.denied (s.who src) (RegName.vefCtl.addr vef)) ∧
      exec (.vefDisable src vef) s = .next (s.denied (s.who src) (RegName.vefCtl.addr vef)) ∧
      exec (.vefReset src vef) s = .next (s.denied (s.who src) (RegName.vefCtl.addr vef))) ∧
    ((s.who src).fwHyp = true →
      (s.rd VEF_CTL.STATE vef ≠ vDisabled → exec (.vefEnable src vef) s = .next s) ∧
      (s.flag VEF_CTL.ENABLE vef = true → exec (.vefEnable src vef) s = .next s) ∧
      (s.rd VEF_CTL.STATE vef = vDisabled → s.flag VEF_CTL.ENABLE vef = false →
        ∃ t, exec (.vefEnable src vef) s = .next t ∧ t.flag VEF_CTL.ENABLE vef = true ∧ t.rd VEF_CTL.STATE vef = vDisabled ∧
          t.rd VEF_STAT.KEY_EPOCH vef = (s.rd VEF_STAT.KEY_EPOCH vef + 1) % 2 ^ 16 ∧
          (s.mem.keyCmd = none → t.mem.keyCmd = some ⟨vef.val, true, true⟩) ∧
          (s.mem.keyCmd ≠ none → t.mem.keyCmd = s.mem.keyCmd ∧ t.mem.keyWait = s.mem.keyWait ++ [⟨vef.val, true, true⟩])) ∧
      (s.flag VEF_CTL.ENABLE vef = false → exec (.vefDisable src vef) s = .next s) ∧
      (s.flag VEF_CTL.ENABLE vef = true →
        ((s.slotInUse vef = true ∨ ∃ p, p < 16 ∧ s.flag VLY_POOL.VALID p = true ∧ s.rd VLY_POOL.OWNER p = vef.val) →
          exec (.vefDisable src vef) s = .next (s.inc VEF_GLB.CFG_REFUSED)) ∧
        (s.mayDisable vef = false → exec (.vefDisable src vef) s = .next (s.inc VEF_GLB.CFG_REFUSED)) ∧
        (s.mayDisable vef = true →
          let u := s.wr VEF_CTL.ENABLE 0 vef
          exec (.vefDisable src vef) s = .next ((u.setV vef { u.vrt vef with disabling := true }).resetVef vef))) ∧
      (s.rd VEF_CTL.STATE vef ≠ vActive → s.rd VEF_CTL.STATE vef ≠ vFreezing → s.rd VEF_CTL.STATE vef ≠ vFrozen →
        exec (.vefReset src vef) s = .next s) ∧
      ((s.rd VEF_CTL.STATE vef = vActive ∨ s.rd VEF_CTL.STATE vef = vFreezing ∨ s.rd VEF_CTL.STATE vef = vFrozen) →
        ∃ t, exec (.vefReset src vef) s = .next t ∧ t = s.resetVef vef ∧ (t.vrt vef).reserved = 0))) ∧
  ∀ (vef : Fin 128) (s : State),
    ((s.flag SYS_STRAP.PCIE_MODE = false ∨ vef.val = 0 ∨ s.gw.vfEnable = false ∨ s.gw.numVfs < vef.val) →
      exec (.functionLevelReset vef) s = .next s) ∧
    (s.flag SYS_STRAP.PCIE_MODE = true → vef.val ≠ 0 → s.gw.vfEnable = true → vef.val ≤ s.gw.numVfs → exec (.functionLevelReset vef) s = .next (s.resetVef vef)) ∧
    ((s.rd VEF_CTL.STATE vef ≠ vResetting ∨ s.resetQuiet vef = false) → exec (.vefResetDone vef) s = .next s.modeProgress) ∧
    (s.rd VEF_CTL.STATE vef = vResetting → s.resetQuiet vef = true →
      let u := s.wr VEF_CTL.RESET 0 vef
      ((s.vrt vef).disabling = false → ∃ t : State, exec (.vefResetDone vef) s = .next t.modeProgress ∧ t = (u.wr VEF_CTL.STATE vActive vef).wr VEF_STAT.RESET_DONE 1 vef ∧
        t.rd VEF_CTL.STATE vef = vActive ∧ t.rd VEF_CTL.RESET vef = 0 ∧ t.rd VEF_STAT.RESET_DONE vef = 1) ∧
      ((s.vrt vef).disabling = true → ∃ t : State, exec (.vefResetDone vef) s = .next (State.modeProgress t) ∧ t.rd VEF_CTL.STATE vef = vDisabled ∧
        (s.mem.keyCmd = none → t.mem.keyCmd = some ⟨vef.val, false, true⟩)))

/-- Freeze and thaw. VEF_FREEZE, FREEZE_KILL_EXPIRY, FREEZE_COMPLETE and VEF_THAW complete in every state. A VEF_FREEZE of
its own VEF, or of one DISABLED or RESETTING, completes with FORMAT_ERROR cause 4; of an ACTIVE one it starts the freeze, to
be killed FREEZE_KILL_MS later; of a FREEZING one it waits; of a FROZEN one it is answered from what the device holds. At
that time what has not committed is killed and kept, and not before; a drain that is complete ends the freeze and one that is
not leaves it. A VEF_THAW of a FROZEN VEF resumes what the device holds, one at a time for an engine; one of a save area that
fails a check records the cause and completes with FORMAT_ERROR cause 4, and one that passes every check begins with the
attachments of the area; a second thaw of one VEF waits. All of these wait while the component of firmware that carries them
out is out -/
def Obligations.FreezeAndThaw : Prop :=
  (∀ (engine : Fin 4) (s : State) (c : Cmd), s.fwOut 2 = false → s.firmwareHead engine 0x70 = some c →
    ((c.op 0x28 1 = c.vef ∨ s.rd VEF_CTL.STATE (c.op 0x28 1) = vDisabled ∨ s.rd VEF_CTL.STATE (c.op 0x28 1) = vResetting) →
      exec (.vefFreeze engine) s = .next (s.endQueued c 0x40 4 0)) ∧
    (c.op 0x28 1 ≠ c.vef → s.rd VEF_CTL.STATE (c.op 0x28 1) = vFreezing → exec (.vefFreeze engine) s = .next s) ∧
    (c.op 0x28 1 ≠ c.vef → s.rd VEF_CTL.STATE (c.op 0x28 1) = vFrozen → (s.vrt (c.op 0x28 1)).held = none → exec (.vefFreeze engine) s = .next s) ∧
    (c.op 0x28 1 ≠ c.vef → s.rd VEF_CTL.STATE (c.op 0x28 1) ≠ vDisabled → s.rd VEF_CTL.STATE (c.op 0x28 1) ≠ vResetting →
      s.rd VEF_CTL.STATE (c.op 0x28 1) ≠ vFreezing → s.rd VEF_CTL.STATE (c.op 0x28 1) ≠ vFrozen → exec (.vefFreeze engine) s =
      .next ((s.dequeue c.serial).beginFreeze (c.op 0x28 1) (some c) (s.localNs + s.rd VEF_GLB.FREEZE_KILL_MS * 1000000) false)) ∧
    (∀ h, c.op 0x28 1 ≠ c.vef → s.rd VEF_CTL.STATE (c.op 0x28 1) = vFrozen → (s.vrt (c.op 0x28 1)).held = some h →
      exec (.vefFreeze engine) s = .next ((s.dequeue c.serial).answerFreeze c (c.op 0x28 1) h))) ∧
  (∀ (engine : Fin 4) (s : State), s.firmwareHead engine 0x70 = none → exec (.vefFreeze engine) s = .next s) ∧
  (∀ (vef : Fin 128) (engine : Fin 4) (s : State), s.fwOut 2 = true →
    exec (.vefFreeze engine) s = .next s ∧ exec (.freezeKillExpiry vef) s = .next s ∧ exec (.freezeComplete vef) s = .next s ∧ exec (.vefThaw engine) s = .next s) ∧
  (∀ (vef : Fin 128) (s : State), s.fwOut 2 = false →
    ((s.vrt vef).freeze = none → exec (.freezeKillExpiry vef) s = .next s ∧ exec (.freezeComplete vef) s = .next s.modeProgress) ∧
    (∀ f, (s.vrt vef).freeze = some f →
      (s.localNs < f.killAt → exec (.freezeKillExpiry vef) s = .next s) ∧
      (f.killAt ≤ s.localNs → exec (.freezeKillExpiry vef) s = .next (s.freezeKill vef)) ∧
      ((s.rd VEF_CTL.STATE vef ≠ vFreezing ∨ s.drained vef = false) → exec (.freezeComplete vef) s = .next s.modeProgress) ∧
      (s.rd VEF_CTL.STATE vef = vFreezing → s.drained vef = true → exec (.freezeComplete vef) s = .next (s.endFreeze vef f).modeProgress))) ∧
  (∀ (s : State) (v : Nat) (cmd : Option Cmd) (at_ : Nat) (wake : Bool), s.loads = [] → v < 128 →
    let t := s.beginFreeze v cmd at_ wake
    t.rd VEF_CTL.STATE v = vFreezing ∧ (t.vrt v).freeze = some ⟨cmd, s.localNs, at_, wake⟩ ∧ t.queue = s.queue ∧ t.flight = s.flight) ∧
  ∀ (engine : Fin 4) (s : State), s.fwOut 2 = false →
    (∀ t, s.thaws.find? (fun t => t.engine == engine.val) = some t → exec (.vefThaw engine) s = .next (s.thawRun t (2 * t.todo.length + 3))) ∧
    (s.thaws.find? (fun t => t.engine == engine.val) = none →
      (s.firmwareHead engine 0x71 = none → exec (.vefThaw engine) s = .next s) ∧
      (∀ c, s.firmwareHead engine 0x71 = some c →
        let v := c.op 0x28 1
        (s.thaws.any (fun t => t.vef == v) = true → exec (.vefThaw engine) s = .next s) ∧
        (s.thaws.any (fun t => t.vef == v) = false →
          (∀ h, v < 128 → s.rd VEF_CTL.STATE v = vFrozen → (s.vrt v).held = some h →
            let t : Thaw := ⟨c, engine, v, false, [], h, h.attach, [], none, [], []⟩
            exec (.vefThaw engine) s = .next (({ s.dequeue c.serial with thaws := s.thaws ++ [t] } : State).thawRun t (2 * h.attach.length + 2))) ∧
          ((128 ≤ v ∨ s.rd VEF_CTL.STATE v ≠ vFrozen ∨ (s.vrt v).held = none) →
            let u := s.ctxTouch c.ctx (c.op 0x18 8) (c.op 0x20 8)
            (s.thawCause c ≠ 0 → exec (.vefThaw engine) s = .next ((u.wr VEF_STAT.THAW_CAUSE (s.thawCause c) v).endQueued c 0x40 4 0)) ∧
            (s.thawCause c = 0 →
              let h := savedHeld (u.savedArea c) v u.fetched
              let w := { u.dequeue c.serial with fetched := u.fetched + h.kept.length }
              let x := w.setAsids v (savedAsids (u.savedArea c))
              let t : Thaw := ⟨c, engine, v, true, u.savedArea c, h, h.attach, [], none, w.asidsOf v, []⟩
              exec (.vefThaw engine) s = .next (({ x with thaws := x.thaws ++ [t] } : State).thawRun t (2 * h.attach.length + 2)))))))

/-- The depot authorisation and attestation reports. DEPOT_AUTHORISATION, DEPOT_AUTH_EXPIRY, ATTESTATION_GO,
ATTESTATION_REPORT_DONE and ATTESTATION_REQUEST complete in every state. A depot authorisation received outside PARK while
the identity service runs and that fails a check changes nothing but AUTH_REJECT; one accepted raises the counter and sets
DEPOT_AUTH and COOLANT, or clears both where it carries REVOKE. The authorisation ends when vehicle time leaves its window
and not before. ATTESTATION.GO for a VEF that is DISABLED or RESETTING sets ERR; else it sets BUSY, and while BUSY it is
ignored; the report is written at BUF + 0x40 and BUSY falls. A device-scope request is answered, at most one in 100 ms, and
another is dropped and counted; a datagram that is no such request changes nothing -/
def Obligations.DepotAndAttestation : Prop :=
  (∀ (d : Bytes) (s : State),
    ((s.fwDown 8 = true ∨ s.outsidePark = false) → exec (.depotAuthorisation d) s = .next s ∧ exec (.attestationRequest d) s = .next s) ∧
    (s.fwDown 8 = false → s.outsidePark = true →
      (s.authOk d = false → exec (.depotAuthorisation d) s = .next (s.inc VEF_GLB.AUTH_REJECT)) ∧
      (s.authOk d = true → ∃ t, exec (.depotAuthorisation d) s = .next t ∧
        ((s.cur ≠ mDepot ∨ (Bytes.num d 6 2).testBit 1 = false ∧ (Bytes.num d 6 2).testBit 0 = true) →
          t.mode.authCounter = Bytes.num d 8 8 + 1 ∧
          t.flag SYS_MODE.DEPOT_AUTH = !(Bytes.num d 6 2).testBit 1 ∧
          t.flag SYS_MODE.COOLANT = (!(Bytes.num d 6 2).testBit 1 && (Bytes.num d 6 2).testBit 0) ∧
          t.mode.auth = if (Bytes.num d 6 2).testBit 1 then none
            else some ⟨Bytes.num d 0x10 8, Bytes.num d 0x10 8 + Bytes.num d 0x18 4 * 1000000⟩)) ∧
      ((d.length ≠ 56 ∨ Bytes.num d 0 4 ≠ 0x41545251 ∨ Bytes.num d 4 2 ≠ 1) → exec (.attestationRequest d) s = .next s) ∧
      (d.length = 56 → Bytes.num d 0 4 = 0x41545251 → Bytes.num d 4 2 = 1 →
        (∀ k, s.fw.attested = some k → s.localNs < k + 100000000 → exec (.attestationRequest d) s = .next (s.inc FW_STAT.ATT_DROP)) ∧
        ((∀ k, s.fw.attested = some k → k + 100000000 ≤ s.localNs) → ∃ t, exec (.attestationRequest d) s = .next t ∧
          t.out = .attestation (s.attestReport none (d.drop 8)) :: s.out ∧ t.fw.attested = some s.localNs ∧ t.regs = s.regs ∧ t.mem = s.mem)))) ∧
  (∀ s : State,
    (s.mode.auth = none → exec .depotAuthExpiry s = .next s) ∧
    (∀ a, s.mode.auth = some a →
      (a.issue ≤ s.vehicleNs → s.vehicleNs < a.until_ → exec .depotAuthExpiry s = .next s) ∧
      ((a.until_ ≤ s.vehicleNs ∨ s.vehicleNs < a.issue) → s.cur ≠ mDepot → ∃ t, exec .depotAuthExpiry s = .next t ∧
        t.mode.auth = none ∧ t.flag SYS_MODE.DEPOT_AUTH = false ∧ t.flag SYS_MODE.COOLANT = false ∧ t.mem = s.mem) ∧
      ((a.until_ ≤ s.vehicleNs ∨ s.vehicleNs < a.issue) → exec .depotAuthExpiry s = .next (s.setAuth none false)))) ∧
  (∀ (src : Source) (s : State),
    ((s.who src).fwHyp = false → exec (.attestationGo src) s = .next (s.denied (s.who src) RegName.vefAtt.addr)) ∧
    ((s.who src).fwHyp = true →
      (s.flag VEF_ATT.BUSY = true → exec (.attestationGo src) s = .next s) ∧
      (s.flag VEF_ATT.BUSY = false →
        ((s.rd VEF_CTL.STATE (s.rd VEF_ATT.VEF) = vDisabled ∨ s.rd VEF_CTL.STATE (s.rd VEF_ATT.VEF) = vResetting) →
          exec (.attestationGo src) s = .next (s.wr VEF_ATT.ERR 1)) ∧
        (s.rd VEF_CTL.STATE (s.rd VEF_ATT.VEF) ≠ vDisabled → s.rd VEF_CTL.STATE (s.rd VEF_ATT.VEF) ≠ vResetting →
          ∃ t, exec (.attestationGo src) s = .next t ∧ t.flag VEF_ATT.BUSY = true ∧ t.rd VEF_ATT.ERR = 0 ∧
            t.fw.attest = some (s.rd VEF_ATT.BUF / 4096 * 4096, s.rd VEF_ATT.VEF))))) ∧
  ∀ s : State,
    (s.fw.attest = none → exec .attestationReportDone s = .next s) ∧
    (∀ a v, s.fw.attest = some (a, v) →
      (s.fwDown 8 = true → exec .attestationReportDone s = .next s) ∧
      (s.fwDown 8 = false → ∃ t, exec .attestationReportDone s = .next t ∧ t.flag VEF_ATT.BUSY = false ∧ t.fw.attest = none ∧
        t.mem = (s.memWrite (a + 0x40) (s.attestReport (some v) (s.memRead a 48))).mem))

/-- Flits, retraining and the states of a link. PASS_FLIT, PASS_RETRAIN_DONE, LINK_TRAINING_DONE, SIGNAL_LOCK_LOSS,
HELLO_SEND, HELLO and HELLO_TIMEOUT complete in every state. While a link is DOWN, in TRAINING or retraining a flit does
nothing. One that fails its CRC is counted and a replay is awaited; each failing replay counts and is reported 0x31, and the
eighth in a row starts a retrain. One that passes is accepted in sequence only. A retrain that fails, or the third within 1
s, takes the port DOWN and out of service. Training with both halves of the lanes gives HELLO, with one half HELLO at 4
lanes, with neither DOWN. Loss of signal lock, and 10 ms without a hello on a link that is UP, take it DOWN. A hello is sent
every 1 ms outside DOWN and TRAINING. A valid hello of this fabric makes a link in HELLO UP, one of another fabric FOREIGN;
on a link that is UP or FOREIGN it refreshes what is known of the peer, and a peer that shows another fabric number than
before takes a FOREIGN link back to HELLO. A link that goes to HELLO, UP, FOREIGN or DOWN makes an announcement due -/
def Obligations.PassLinks : Prop :=
  (∀ (port : Fin 4) (flit : Bytes) (s : State),
    ((s.link port = lkDown ∨ s.link port = lkTraining ∨ (s.port port).retraining = true) → exec (.passFlit port flit) s = .next s) ∧
    (s.link port ≠ lkDown → s.link port ≠ lkTraining → (s.port port).retraining = false →
      (flitOk flit = false →
        let t := s.inc PASS_LINK_STAT.CRC_ERR port
        ((s.port port).failed = none → exec (.passFlit port flit) s = .next (t.setPort port { s.port port with failed := some 0 })) ∧
        (∀ n, (s.port port).failed = some n →
          let u := (t.setPort port { s.port port with failed := some (n + 1) }).inc PASS_LINK_STAT.REPLAYS port |>.report 0x31 none
          exec (.passFlit port flit) s = .next (if n + 1 ≥ 8 then u.startRetrain port else u))) ∧
      (flitOk flit = true →
        (∀ n, (s.port port).next = some n → n ≠ leNat (flit.take 2) % 4096 → exec (.passFlit port flit) s = .next s) ∧
        (((s.port port).next = none ∨ (s.port port).next = some (leNat (flit.take 2) % 4096)) → ∃ t, exec (.passFlit port flit) s = .next t ∧
          (t.port port).next = some ((leNat (flit.take 2) % 4096 + 1) % 4096) ∧ (t.port port).failed = none)))) ∧
  (∀ (port : Fin 4) (ok : Bool) (s : State),
    ((s.port port).retraining = false → exec (.passRetrainDone port ok) s = .next s) ∧
    ((s.port port).retraining = true → (s.port port).retrains = [] →
      let t := s.setPort port { s.port port with retraining := false }
      exec (.passRetrainDone port ok) s = .next (if ok then t else (t.linkDown port).unitOut (156 + port.val))) ∧
    (∀ a r, (s.port port).retraining = true → (s.port port).retrains = a :: r →
      let t := s.setPort port { s.port port with retraining := false }
      (ok = true → (r.filter (fun u => decide (a ≤ u + 1000000000))).length < 2 → exec (.passRetrainDone port ok) s = .next t) ∧
      ((ok = false ∨ 2 ≤ (r.filter (fun u => decide (a ≤ u + 1000000000))).length) →
        exec (.passRetrainDone port ok) s = .next ((t.linkDown port).unitOut (156 + port.val))))) ∧
  (∀ (port : Fin 4) (lanes : Fin 256) (s : State),
    ((s.unitState (.pass port) ≠ uOn ∨ s.unitUsable (156 + port.val) = false ∨ (s.link port ≠ lkDown ∧ s.link port ≠ lkTraining)) →
      exec (.linkTrainingDone port lanes) s = .next s) ∧
    (s.unitState (.pass port) = uOn → s.unitUsable (156 + port.val) = true → (s.link port = lkDown ∨ s.link port = lkTraining) →
      (lanes.val % 16 ≠ 15 → lanes.val / 16 ≠ 15 → exec (.linkTrainingDone port lanes) s = .next (s.linkDown port)) ∧
      ((lanes.val % 16 = 15 ∨ lanes.val / 16 = 15) → ∃ t, exec (.linkTrainingDone port lanes) s = .next t ∧ t.link port = lkHello ∧
        t.flag PASS_LINK_STAT.WIDTH4 port = !(lanes.val == 255) ∧ (t.port port).peer = none ∧ t.pass.lsaDue = true))) ∧
  (∀ (port : Fin 4) (s : State),
    exec (.signalLockLoss port) s = .next (s.linkDown port).passView ∧
    (s.link port ≠ lkUp → exec (.helloTimeout port) s = .next s) ∧
    (s.link port = lkUp →
      (∀ k, (s.port port).heard = some k → s.localNs < k + 10000000 → exec (.helloTimeout port) s = .next s) ∧
      ((∀ k, (s.port port).heard = some k → k + 10000000 ≤ s.localNs) → exec (.helloTimeout port) s = .next (s.linkDown port).passView)) ∧
    (s.link port ≠ lkHello → s.link port ≠ lkUp → s.link port ≠ lkForeign → exec (.helloSend port) s = .next s) ∧
    ((s.link port = lkHello ∨ s.link port = lkUp ∨ s.link port = lkForeign) →
      (∀ k, (s.port port).sent = some k → s.localNs < k + 1000000 → exec (.helloSend port) s = .next s) ∧
      ((∀ k, (s.port port).sent = some k → k + 1000000 ≤ s.localNs) → ∃ t, exec (.helloSend port) s = .next t ∧
        t.out = .hello port ⟨s.idNum, s.rd PASS_DEV.ID, port, s.flag PASS_DEV.ASSIGNED, s.flag PASS_DEV.STATIC, s.rd PASS_DEV.GEN,
          leNat (s.regBytes .sysId 0 0 4)⟩ :: s.out ∧ (t.port port).sent = some s.localNs ∧ t.regs = s.regs))) ∧
  ∀ (port : Fin 4) (hello : PassHello) (s : State),
    (s.link port ≠ lkHello → s.link port ≠ lkUp → s.link port ≠ lkForeign → exec (.passHello port hello) s = .next s) ∧
    (let t := (s.wr PASS_LINK_STAT.PEER_ID hello.id port).wr PASS_LINK_STAT.PEER_PORT hello.port port
     let t := t.setPort port { t.port port with heard := some s.localNs, peer := some hello.hash }
     let u := t.setLink port lkUp
     (s.link port = lkUp → exec (.passHello port hello) s = .next t) ∧
     (s.link port = lkForeign → hello.id / 256 = s.rd PASS_LINK_STAT.PEER_ID port / 256 → exec (.passHello port hello) s = .next t) ∧
     (s.link port = lkForeign → hello.id / 256 ≠ s.rd PASS_LINK_STAT.PEER_ID port / 256 →
       exec (.passHello port hello) s = .next (t.setLink port lkHello)) ∧
     (s.link port = lkHello → hello.assigned = true → hello.id / 256 ≠ s.rd PASS_CFG.FABRIC →
       exec (.passHello port hello) s = .next (t.linkForeign port).passView) ∧
     (s.link port = lkHello → (hello.assigned = false ∨ hello.id / 256 = s.rd PASS_CFG.FABRIC) →
       exec (.passHello port hello) s = .next ({ u with pass := { u.pass with routesDue := true } } : State).passView))

/-- Announcements and the installation of routes. LSA_SEND, LSA, LSA_AGE_OUT, ROUTE_COMPUTE, ROUTES, ROUTES_ACK and COMMIT
complete in every state. With the link manager running, an announcement is sent when one is due or 10 ms after the last, not
before, and a received one of another device on a link that is UP is kept as the newest; one not renewed within 30 ms is
dropped. Routes received go into the shadow table, replacing what it held, and are acknowledged. COMMIT of the shadow table's
generation installs it and is passed on; of another generation it changes nothing. The authority commits when every member it
has routed has acknowledged the generation it sent; acknowledgements of another generation, or of no member, change nothing.
Routes are computed only when they are due, and only by the authority; one alone in its fabric commits them at once -/
def Obligations.FabricRoutes : Prop :=
  (∀ s : State,
    (s.fwDown 7 = true → exec .lsaSend s = .next s ∧ exec .routeCompute s = .next s) ∧
    (s.fwDown 7 = false →
      (s.pass.lsaDue = false → s.localNs < s.pass.lsaAt + 10000000 → exec .lsaSend s = .next s) ∧
      ((s.pass.lsaDue = true ∨ s.pass.lsaAt + 10000000 ≤ s.localNs) → ∃ t, exec .lsaSend s = .next t ∧ t.pass.lsaDue = false ∧ t.pass.lsaAt = s.localNs) ∧
      (s.pass.routesDue = false → exec .routeCompute s = .next s) ∧
      (s.pass.routesDue = true → s.passView.flag PASS_DEV.AUTHORITY = false →
        exec .routeCompute s = .next { s.passView with pass := { s.passView.pass with routesDue := false } }) ∧
      (s.pass.routesDue = true → s.passView.flag PASS_DEV.AUTHORITY = true →
        (assignMembers s.passView.fabric).filter (fun x => x.1 != s.passView.idNum) ≠ [] → ∃ t, exec .routeCompute s = .next t ∧
          t.pass.routesDue = false ∧ t.pass.members = (assignMembers s.passView.fabric).map (·.2) ∧
          ∃ g es, t.pass.shadow = some (g, es) ∧ t.pass.acks = some (g, []) ∧
            g = ((match s.passView.pass.acks with | some (n, _) => n | none => s.passView.rd PASS_DEV.GEN) + 1) % 65536) ∧
      (s.pass.routesDue = true → s.passView.flag PASS_DEV.AUTHORITY = true →
        (assignMembers s.passView.fabric).filter (fun x => x.1 != s.passView.idNum) = [] → ∃ t, exec .routeCompute s = .next t ∧
          t.pass.acks = none))) ∧
  (∀ (port : Fin 4) (lsa : PassLsa) (s : State),
    ((s.link port ≠ lkUp ∨ s.fwDown 7 = true ∨ lsa.hash = s.idNum) → exec (.passLsa port lsa) s = .next s) ∧
    (s.link port = lkUp → s.fwDown 7 = false → lsa.hash ≠ s.idNum →
      let t := { s with pass := { s.pass with
        lsas := ⟨lsa, s.localNs⟩ :: s.pass.lsas.filter (fun (k : KeptLsa) => k.lsa.hash != lsa.hash),
        routesDue := s.pass.routesDue || !((s.pass.lsas.find? (fun (k : KeptLsa) => k.lsa.hash == lsa.hash)).any (fun (k : KeptLsa) => k.lsa == lsa)) } }
      (s.pass.lsas.find? (fun (k : KeptLsa) => k.lsa.hash == lsa.hash) = none → exec (.passLsa port lsa) s = .next (t.floodLsa lsa port).passView) ∧
      (∀ k, s.pass.lsas.find? (fun (k : KeptLsa) => k.lsa.hash == lsa.hash) = some k → k.lsa = lsa →
        (s.localNs < k.at_ + 5000000 → exec (.passLsa port lsa) s = .next t.passView) ∧
        (k.at_ + 5000000 ≤ s.localNs → exec (.passLsa port lsa) s = .next (t.floodLsa lsa port).passView)) ∧
      (∀ k, s.pass.lsas.find? (fun (k : KeptLsa) => k.lsa.hash == lsa.hash) = some k → k.lsa ≠ lsa →
        exec (.passLsa port lsa) s = .next (t.floodLsa lsa port).passView))) ∧
  (∀ (hash : Nat) (s : State),
    ((∀ k ∈ s.pass.lsas, k.lsa.hash = hash → s.localNs < k.at_ + 30000000) → exec (.lsaAgeOut hash) s = .next s) ∧
    (∀ k ∈ s.pass.lsas, k.lsa.hash = hash → k.at_ + 30000000 ≤ s.localNs → exec (.lsaAgeOut hash) s = .next
      ({ s with pass := { s.pass with lsas := s.pass.lsas.filter (fun (k : KeptLsa) => k.lsa.hash != hash), routesDue := true } } : State).passView)) ∧
  (∀ (gen : Fin 65536) (entries : List PassRoute) (s : State),
    (s.fwDown 7 = true → exec (.passRoutes gen entries) s = .next s) ∧
    (s.fwDown 7 = false → exec (.passRoutes gen entries) s =
      .next { s with pass := { s.pass with shadow := some (gen.val, entries) }, out := .routesAck gen :: s.out })) ∧
  ∀ (gen : Fin 65536) (s : State),
    (s.pass.shadow = none → exec (.routesCommit gen) s = .next s) ∧
    (∀ g es, s.pass.shadow = some (g, es) →
      (g ≠ gen.val → exec (.routesCommit gen) s = .next s) ∧
      (g = gen.val → exec (.routesCommit gen) s = .next ((s.installRoutes gen es).emit (.routesCommit gen)))) ∧
    (∀ (member : Fin 256),
      (s.pass.acks = none → exec (.routesAck member gen) s = .next s) ∧
      (∀ g got, s.pass.acks = some (g, got) →
        ((s.fwDown 7 = true ∨ g ≠ gen.val ∨ s.pass.members.contains member.val = false) → exec (.routesAck member gen) s = .next s) ∧
        (s.fwDown 7 = false → g = gen.val → s.pass.members.contains member.val = true →
          let all := if got.contains member.val then got else member.val :: got
          (s.pass.members.all (fun m => m == s.rd PASS_DEV.ID % 256 || all.contains m) = false →
            exec (.routesAck member gen) s = .next { s with pass := { s.pass with acks := some (g, all) } }) ∧
          (s.pass.members.all (fun m => m == s.rd PASS_DEV.ID % 256 || all.contains m) = true →
            exec (.routesAck member gen) s =
              .next (({ s with pass := { s.pass with acks := none }, out := .routesCommit gen :: s.out } : State).commitRoutes gen)))))

/-- Packets at a port, the tunnel and the side band. WRITE, WRITE_ACK, READ, READ_DATA, LOCK, LOCK_GRANT, UNLOCK, SB_POLL,
SB_DATA, TUNNEL_DATAGRAM, POLL_TIMER, POLL_MISS and SBO_SET complete in every state. A packet of each of the nine types that
arrives on a link that is not UP does nothing; with a reserved bit set it is counted MALFORMED; while this device is
unassigned it does nothing; for another device it is sent on by the routes; for this one it is delivered. A firmware WRITE to
HBM on a line nobody holds stores its bytes and is acknowledged; a READ is answered with the bytes; a WRITE, and where no
transfer of this device holds the port's slot a READ and a LOCK, of a line that another holds waits for it; a response goes
to the request that it answers, and is only charged where there is none; an UNLOCK releases its own lock; an SB_POLL from the
word's PEER takes PEND and STATUS and clears PEND, from another it reads zeros. A tunnel datagram with a wrong CRC or a
reserved bit set is counted MALFORMED, another is delivered or sent on. An enabled entry polls when its time has come; a poll
unanswered for 100 µs is missed, and the third miss in a row sets LOST, once. PASS_SBO.SET ORs bits into PEND -/
def Obligations.PassPackets : Prop :=
  (∀ (port : Fin 4) (p : PassPacket) (s : State) (i : Instr) (type : Nat),
    (i, type) ∈ ([(.passWrite port p, ptWrite), (.passWriteAck port p, ptWriteAck), (.passRead port p, ptRead), (.passReadData port p, ptReadData),
      (.passLock port p, ptLock), (.passLockGrant port p, ptLockGrant), (.passUnlock port p, ptUnlock), (.sbPoll port p, ptSbPoll),
      (.sbData port p, ptSbData)] : List (Instr × Nat)) →
    (s.link port ≠ lkUp → exec i s = .next s) ∧
    (s.link port = lkUp → p.reserved = true → exec i s = .next (s.inc PASS_STAT.MALFORMED)) ∧
    (s.link port = lkUp → p.reserved = false →
      (s.flag PASS_DEV.ASSIGNED = false → exec i s = .next s) ∧
      (s.flag PASS_DEV.ASSIGNED = true →
        (p.dst ≠ s.rd PASS_DEV.ID → exec i s = .next (s.routePacket type p)) ∧
        (p.dst = s.rd PASS_DEV.ID → exec i s = .next (s.deliver (some port.val) type p))))) ∧
  (∀ (port : Fin 4) (p : PassPacket) (s : State), s.link port = lkUp → p.reserved = false → s.flag PASS_DEV.ASSIGNED = true → p.dst = s.rd PASS_DEV.ID →
    (p.fw = true → s.lineHeld p = false → s.pass.expired.contains (p.src, p.tag) = false → p.poison = false →
      s.inHbm p.addr = true → s.inHbm (p.addr + p.payload.length - 1) = true →
      exec (.passWrite port p) s = .next ((s.memWrite p.addr p.payload).respond ptWriteAck p [] false)) ∧
    (p.fw = true → s.lineHeld p = false → s.pass.reqs = [] → s.inHbm p.addr = true → s.inHbm (p.addr + p.len - 1) = true →
      exec (.passRead port p) s =
        .next ((s.readErrs p.addr p.len).respond ptReadData p (s.memRead p.addr p.len) (decide (s.hbmWorst p.addr p.len = 2)))) ∧
    (p.fw = true → s.lineHeld p = false → s.pass.reqs = [] → exec (.passLock port p) s = .next (s.serveLock p)) ∧
    (exec (.passWrite port p) s = .next (if s.lineHeld p then { s with pass := { s.pass with lineWait := s.pass.lineWait ++ [(ptWrite, p, s.localNs)] } }
      else s.serveWrite p)) ∧
    (s.slotHeld port = false →
      exec (.passRead port p) s = .next (if s.lineHeld p then { s with pass := { s.pass with lineWait := s.pass.lineWait ++ [(ptRead, p, s.localNs)] } }
        else s.serveRead p) ∧
      exec (.passLock port p) s = .next (if s.lineHeld p then { s with pass := { s.pass with lineWait := s.pass.lineWait ++ [(ptLock, p, s.localNs)] } }
        else s.serveLock p)) ∧
    (let t := s.chargePass p
     (t.reqFor p ptWrite = none → exec (.passWriteAck port p) s = .next t) ∧
     (∀ r, t.reqFor p ptWrite = some r → exec (.passWriteAck port p) s = .next (t.writeAcked r p.poison)) ∧
     (t.reqFor p ptRead = none → exec (.passReadData port p) s = .next t) ∧
     (∀ r, t.reqFor p ptRead = some r → exec (.passReadData port p) s = .next (t.readArrived r p.payload p.poison)) ∧
     (t.reqFor p ptLock = none → exec (.passLockGrant port p) s = .next t) ∧
     (∀ r, t.reqFor p ptLock = some r → exec (.passLockGrant port p) s = .next (t.lockGranted r (!p.poison)))) ∧
    (s.pass.lineWait = [] → exec (.passUnlock port p) s = .next { s with pass := { s.pass with
      locks := s.pass.locks.filter (fun l => !(l.src == p.src && l.tag == p.tag)), expired := s.pass.expired.filter (· != (p.src, p.tag)) } }) ∧
    (s.rd PASS_SBO.PEER (p.addr % 16) = p.src → exec (.sbPoll port p) s = .next ((s.wr PASS_SBO.PEND 0 (p.addr % 16)).respond ptSbData p
      (leBytes 4 (s.rd PASS_SBO.PEND (p.addr % 16)) ++ leBytes 4 (s.rd PASS_SBO.STATUS (p.addr % 16))) false)) ∧
    (s.rd PASS_SBO.PEER (p.addr % 16) ≠ p.src → exec (.sbPoll port p) s = .next (s.respond ptSbData p (List.replicate 8 0) false)) ∧
    (s.pass.reqs = [] → exec (.passWriteAck port p) s = .next (s.chargePass p) ∧ exec (.passReadData port p) s = .next (s.chargePass p) ∧
      exec (.passLockGrant port p) s = .next (s.chargePass p)) ∧
    (s.pass.polls = [] → exec (.sbData port p) s = .next s)) ∧
  (∀ (d : Bytes) (s : State),
    (s.flag PASS_TUN.ENABLE = false → exec (.tunnelDatagram d) s = .next s) ∧
    (s.flag PASS_TUN.ENABLE = true →
      ((d.length < 28 ∨ leNat (d.drop (d.length - 4)) ≠ crc32c (d.take (d.length - 4))) → exec (.tunnelDatagram d) s = .next (s.inc PASS_STAT.MALFORMED)) ∧
      (28 ≤ d.length → leNat (d.drop (d.length - 4)) = crc32c (d.take (d.length - 4)) →
        let x := packetOf (d.take (d.length - 4))
        (x.2.reserved = true → exec (.tunnelDatagram d) s = .next (s.inc PASS_STAT.MALFORMED)) ∧
        (x.2.reserved = false → s.flag PASS_DEV.ASSIGNED = false → exec (.tunnelDatagram d) s = .next s) ∧
        (x.2.reserved = false → s.flag PASS_DEV.ASSIGNED = true →
          (x.2.dst = s.rd PASS_DEV.ID → exec (.tunnelDatagram d) s = .next (s.deliver none x.1 x.2)) ∧
          (x.2.dst ≠ s.rd PASS_DEV.ID → exec (.tunnelDatagram d) s = .next (s.routePacket x.1 x.2)))))) ∧
  (∀ (entry : Fin 16) (s : State),
    ((s.flag PASS_POLL.EN entry = false ∨ s.flag PASS_DEV.ASSIGNED = false) → exec (.pollTimer entry) s = .next s) ∧
    (s.flag PASS_POLL.EN entry = true → s.flag PASS_DEV.ASSIGNED = true →
      (∀ k, Sparse.look none s.pass.polled entry = some k → s.localNs < k + s.rd PASS_CFG.POLL_US * 1000 → exec (.pollTimer entry) s = .next s) ∧
      ((∀ k, Sparse.look none s.pass.polled entry = some k → k + s.rd PASS_CFG.POLL_US * 1000 ≤ s.localNs) →
        ∃ t u, exec (.pollTimer entry) s = .next (State.sendPacket t ptSbPoll u) ∧ u.dst = s.rd PASS_POLL.TARGET entry ∧ u.addr = s.rd PASS_POLL.WORD entry ∧ u.tag = s.pass.tag ∧ u.cls = 1 ∧
          t.pass.polls = s.pass.polls ++ [⟨entry, s.pass.tag, s.localNs, false⟩] ∧ t.regs = s.regs)) ∧
    ((∀ x ∈ s.pass.polls, x.entry = entry.val → x.missed = false → s.localNs < x.since + 100000) → exec (.pollMiss entry) s = .next s) ∧
    (∀ x, s.pass.polls.find? (fun x => x.entry == entry.val && !x.missed && decide (x.since + 100000 ≤ s.localNs)) = some x →
      let n := Sparse.look 0 s.pass.misses entry + 1
      let t := { s with pass := { s.pass with polls := s.pass.polls.map (fun y => if y = x then { y with missed := true } else y), misses := Sparse.put 0 s.pass.misses entry n } }
      ((n < 3 ∨ s.flag PASS_POLL.LOST entry = true) → exec (.pollMiss entry) s = .next t) ∧
      (3 ≤ n → s.flag PASS_POLL.LOST entry = false → exec (.pollMiss entry) s = .next ((t.wr PASS_POLL.LOST 1 entry).passCause PASS_IRQ_CAUSE.POLL_LOST)))) ∧
  ∀ (src : Source) (word : Fin 16) (set : Nat) (s : State),
    ((s.who src).fwHyp = true → exec (.sboSet src word set) s = .next (s.wr PASS_SBO.PEND (s.rd PASS_SBO.PEND word ||| set % 2 ^ 32) word)) ∧
    ((s.who src).fwHyp = false → exec (.sboSet src word set) s = .next (s.denied (s.who src) (RegName.passSbo.addr word)))

/-- Bursts, locked sequences and the time-outs of the bridge. BRIDGE_BURST, FABRIC_LR, FABRIC_SC, FABRIC_AMO,
REQUEST_TIMEOUT, LOCK_HOLD_EXPIRY, LOCK_WAIT_TIMEOUT and DELAYED_READ_EXPIRY complete in every state. A burst to this
device's own fabric address is a local access: of registers, doorbells and the SRAM windows where the address is theirs, of
memory elsewhere. A requester without an identity, or a VEF without FABRIC_OUT, has a write acknowledged and discarded and
reads zeros, its VEF's violation counted. Every other burst is cut into requests, none of more than 256 bytes or across 4
KiB, that together carry all of it, a read while the port discards being delayed; one that fits is one request. An LR and an
AMO begin with a LOCK request; all at the class of their source; an SC without a matching LR fails and is counted, one with
it writes under the lock's tag. A request times out only when its time has passed. A lock held for 2 µs is released and its
sequence remembered; a LOCK not granted in 2 µs is answered with failure; read data not collected in READ_TIMER_US is
discarded and counted -/
def Obligations.FabricBridge : Prop :=
  (∀ (src : Source) (cls : Fin 4) (addr : Nat) (s : State),
    (addr / 2 ^ 48 = s.rd PASS_DEV.ID → ∀ (d : Bytes) (n : Nat),
      exec (.bridgeBurst src cls addr (some d) n) s = .next ((s.ownWrite src (addr % 2 ^ 48) d).emit (.fabricAck src addr false)) ∧
      (let r := s.ownRead src (addr % 2 ^ 48) n
       exec (.bridgeBurst src cls addr none n) s = .next (r.1.emit (.fabricData src addr r.2.1 r.2.2)))) ∧
    (addr / 2 ^ 48 = s.rd PASS_DEV.ID → placedAt (addr % 2 ^ 48) = false → ∀ (d : Bytes) (n : Nat),
      exec (.bridgeBurst src cls addr (some d) n) s = .next ((s.ctxWrite (s.localCtx src) (addr % 2 ^ 48) d).emit (.fabricAck src addr false)) ∧
      exec (.bridgeBurst src cls addr none n) s = .next ((s.ctxTouch (s.localCtx src) (addr % 2 ^ 48) n).emit
        (.fabricData src addr (s.ctxRead (s.localCtx src) (addr % 2 ^ 48) n) (decide (s.ctxWorst (s.localCtx src) (addr % 2 ^ 48) n = 2))))) ∧
    (addr / 2 ^ 48 ≠ s.rd PASS_DEV.ID → s.fabricBars (s.fabricAs src) = true → ∀ (d : Bytes) (n : Nat),
      exec (.bridgeBurst src cls addr (some d) n) s = .next ((s.fabricRefused (s.fabricAs src)).emit (.fabricAck src addr false)) ∧
      exec (.bridgeBurst src cls addr none n) s = .next ((s.fabricRefused (s.fabricAs src)).emit (.fabricData src addr (List.replicate n 0) false))) ∧
    (addr / 2 ^ 48 ≠ s.rd PASS_DEV.ID → ∀ w, s.fabricAs src = some w → s.fabricBars (some w) = false →
      (∀ (d : Bytes) (n : Nat), exec (.bridgeBurst src cls addr (some d) n) s =
        .next ((cutBurst (d.length / 256 + d.length / 4096 + 3) addr d.length).foldl (fun s x =>
          s.request .write src (fabricPacket w cls x.1 x.2 (Bytes.sub d (x.1 - addr) x.2))) s)) ∧
      (∀ n, exec (.bridgeBurst src cls addr none n) s = .next ((cutBurst (n / 256 + n / 4096 + 3) addr n).foldl (fun s x =>
        if s.discards (s.slotOf (fabricPacket w cls x.1 x.2 [])) ((fabricPacket w cls x.1 x.2 []).dst % 256) then
          s.delayedRead src (fabricPacket w cls x.1 x.2 [])
        else s.request .read src (fabricPacket w cls x.1 x.2 [])) s)) ∧
      (∀ (d : Bytes) (n : Nat), 0 < d.length → d.length ≤ 256 → addr % 4096 + d.length ≤ 4096 → exec (.bridgeBurst src cls addr (some d) n) s =
        .next (s.request .write src (fabricPacket w cls addr d.length d))) ∧
      (∀ n, 0 < n → n ≤ 256 → addr % 4096 + n ≤ 4096 →
        s.discards (s.slotOf (fabricPacket w cls addr n [])) ((fabricPacket w cls addr n []).dst % 256) = false →
        exec (.bridgeBurst src cls addr none n) s = .next (s.request .read src (fabricPacket w cls addr n []))))) ∧
  (∀ a n : Nat, (∀ x ∈ cutBurst (n / 256 + n / 4096 + 3) a n, 0 < x.2 ∧ x.2 ≤ 256 ∧ x.1 % 4096 + x.2 ≤ 4096) ∧
    ((cutBurst (n / 256 + n / 4096 + 3) a n).map (·.2)).sum = n) ∧
  (∀ (src : Source) (addr : Nat) (s : State),
    (s.fabricBars (s.fabricAs src) = true →
      exec (.fabricLr src addr) s = .next ((s.fabricRefused (s.fabricAs src)).emit (.fabricData src addr (List.replicate 64 0) false)) ∧
      ∀ op wide v, exec (.fabricAmo src addr op wide v) s = .next ((s.fabricRefused (s.fabricAs src)).emit (.fabricAmo src 0))) ∧
    (∀ w, s.fabricAs src = some w → s.fabricBars (some w) = false →
      exec (.fabricLr src addr) s = .next (s.request .lr src (fabricPacket w (sourceClass src) addr 0 [])) ∧
      ∀ op wide v, exec (.fabricAmo src addr op wide v) s = .next (s.request (.amo op wide v 0 none) src (fabricPacket w (sourceClass src) addr 0 []))) ∧
    (let held := (hartOf src).bind (fun h => s.pass.reserved.find? (fun x => x.1 == h && x.2.1 == addr / 2 ^ 48 && x.2.2.1 == addr % 2 ^ 48 / 64))
     (held = none → ∀ d, exec (.fabricSc src addr d) s = .next ((s.inc PASS_STAT.LOCK_FAIL).emit (.fabricSc src false))) ∧
     (∀ x, held = some x → ∀ d : Bytes,
       let t : State := { s with pass := { s.pass with reserved := s.pass.reserved.erase x } }
       (s.fabricBars (s.fabricAs src) = true → exec (.fabricSc src addr d) s = .next ((t.fabricRefused (s.fabricAs src)).emit (.fabricSc src false))) ∧
       (∀ w, s.fabricAs src = some w → s.fabricBars (some w) = false → ∃ u p, exec (.fabricSc src addr d) s = .next (State.sendPacket u ptWrite p) ∧
         u.pass.reserved = s.pass.reserved.erase x ∧ u.regs = s.regs ∧ u.mem = s.mem ∧ p.tag = x.2.2.2 ∧ p.payload = d ∧ p.addr = addr % 2 ^ 48 ∧
         p.dst = addr / 2 ^ 48 % 2 ^ 16 ∧ p.cls = sourceClass src)))) ∧
  (∀ (tag : Fin 65536) (s : State),
    let due (r : PassReq) : Bool := r.packet.tag == tag.val && decide (r.since + s.rd PASS_CFG.TIMEOUT_US * 1000 ≤ s.localNs)
    ((∀ r ∈ s.pass.reqs, r.packet.tag = tag.val → s.localNs < r.since + s.rd PASS_CFG.TIMEOUT_US * 1000) → exec (.requestTimeout tag) s = .next s) ∧
    (s.pass.reqs.find? due = none → exec (.requestTimeout tag) s = .next s) ∧
    (∀ r, s.pass.reqs.find? due = some r → exec (.requestTimeout tag) s = .next (s.reqTimeout r))) ∧
  (∀ s : State,
    let old (l : LineLock) : Bool := decide (l.since + 2000 ≤ s.localNs)
    let late (w : Nat × PassPacket × Nat) : Bool := w.1 == ptLock && decide (w.2.2 + 2000 ≤ s.localNs)
    ((∀ l ∈ s.pass.locks, s.localNs < l.since + 2000) → exec .lockHoldExpiry s = .next s) ∧
    (s.pass.locks.filter old ≠ [] → exec .lockHoldExpiry s = .next ({ s with pass := { s.pass with
      locks := s.pass.locks.filter (fun l => !old l),
      expired := (s.pass.locks.filter old).map (fun l => (l.src, l.tag)) ++ s.pass.expired } } : State).wakeLines) ∧
    ((∀ w ∈ s.pass.lineWait, w.1 = ptLock → s.localNs < w.2.2 + 2000) → exec .lockWaitTimeout s = .next s) ∧
    exec .lockWaitTimeout s = .next ((s.pass.lineWait.filter late).foldl (fun s w => s.respond ptLockGrant w.2.1 [] true)
      { s with pass := { s.pass with lineWait := s.pass.lineWait.filter (fun w => !late w) } })) ∧
  ∀ (port : Fin 4) (s : State), ∃ t, exec (.delayedReadExpiry port) s = .next t ∧
    t.pass.parked = s.pass.parked.filter (fun x => !(x.port == port.val && decide (x.since + s.rd PASS_LINK_CFG.READ_TIMER_US port * 1000 ≤ s.localNs))) ∧
    t.rd PASS_LINK_STAT.DISCARDED port = min (s.rd PASS_LINK_STAT.DISCARDED port +
      (s.pass.parked.filter (fun x => x.port == port.val && decide (x.since + s.rd PASS_LINK_CFG.READ_TIMER_US port * 1000 ≤ s.localNs))).length) 0xFF

/-- Ethernet frames in and out of the switch. ETH_FRAME_RECEIVE, ETH_TRANSMIT, ETH_PORT_LINK_CHANGE and SWITCH_RUN complete
in every state. A frame at a port that is not ON, or shorter than 64 bytes with its FCS, does nothing. Longer than 2,048
bytes with its FCS it is counted in RX_DROP. While RUN = 0 a frame outside the safety VLAN is counted in RX_DROP. Otherwise
its source is learned and it goes to the ports of its destination; a frame of the safety VLAN is forwarded by its static
entry without being learned, whatever RUN says. A gPTP frame that is not dropped so goes to the gPTP service, and with no
message in it does nothing. A host transmit ring that is disabled, empty, or whose port is not ON does nothing; else its next
descriptor is taken and TX_HEAD moves on, a descriptor for a port outside the switch, or of a length that is not 64 to 2,048,
or outside the safety VLAN while RUN = 0, is dropped, a good one goes to egress at its port, in the class of its PCP, and one
that names no port is forwarded by the tables as received on port 8, a stamp that it asks for being ignored and counted. A
loss of link sets LINK = 0 and drops every frame that waits at the port, with a stamp marked DROPPED for each that asked for
one; a gain of link sets LINK = 1. RUN is set by firmware or the hypervisor. Which ports a destination has and the layout of
frames are open or of cited standards (log entries 55, 98); what counts in RX_DROP is log entry 97 -/
def Obligations.EthernetFrames : Prop :=
  (∀ (port : Fin 10) (f : Bytes) (g : Option GptpInfo) (s : State),
    ((s.rd GW_PORT.STATE port ≠ 2 ∨ f.length < 60) → exec (.ethFrameReceive port f g) s = .next s) ∧
    (s.rd GW_PORT.STATE port = 2 → 2044 < f.length → exec (.ethFrameReceive port f g) s = .next (s.inc GW_PORT.RX_DROP port)) ∧
    (s.rd GW_PORT.STATE port = 2 → 60 ≤ f.length → f.length ≤ 2044 → ethView f = none → exec (.ethFrameReceive port f g) s = .next s) ∧
    (∀ e, s.rd GW_PORT.STATE port = 2 → 60 ≤ f.length → f.length ≤ 2044 → ethView f = some e →
      let x (p : Nat) : Egress := ⟨p, e.tci.getD 0 / 2 ^ 13, f, none, port, s.vehicleNs - s.rd GW_PORT.RX_LAT port, s.sensorNs - s.rd GW_PORT.RX_LAT port⟩
      (s.safetyFrame e = false → s.flag GW_SW.RUN = false → exec (.ethFrameReceive port f g) s = .next (s.inc GW_PORT.RX_DROP port)) ∧
      ((s.safetyFrame e = true ∨ s.flag GW_SW.RUN = true) →
        (∀ i, e.etype = 0x88F7 → g = some i → exec (.ethFrameReceive port f g) s = .next (s.gptpMessage port i)) ∧
        (e.etype = 0x88F7 → g = none → exec (.ethFrameReceive port f g) s = .next s) ∧
        (e.etype ≠ 0x88F7 → exec (.ethFrameReceive port f g) s =
          .next (s.forward port (s.vehicleNs - s.rd GW_PORT.RX_LAT port) (s.sensorNs - s.rd GW_PORT.RX_LAT port) f)) ∧
        (e.etype ≠ 0x88F7 → s.streamTables = false →
          (s.safetyFrame e = false → exec (.ethFrameReceive port f g) s =
            .next (((s.learn e port).portsFor e port).foldl (fun t p => t.egress (x p)) (s.learn e port))) ∧
          (s.safetyFrame e = true → exec (.ethFrameReceive port f g) s =
            .next ((s.portsFor e port).foldl (fun t p => t.egress (x p)) s)))))) ∧
  (∀ (ring : Fin 8) (s : State),
    ((s.flag GW_HPQ.TX_ENABLE ring = false ∨ s.rd GW_PORT.STATE 8 ≠ 2 ∨
      s.rd GW_HPQ.TX_HEAD ring % 2 ^ s.rd GW_HPQ.TX_SIZE_LOG2 ring = s.rd GW_HPQ.TX_TAIL ring % 2 ^ s.rd GW_HPQ.TX_SIZE_LOG2 ring) →
      exec (.ethTransmit ring) s = .next s) ∧
    ∀ a h d u, a = s.rd GW_HPQ.TX_BASE ring / 4096 * 4096 + s.rd GW_HPQ.TX_HEAD ring % 2 ^ s.rd GW_HPQ.TX_SIZE_LOG2 ring * 16 →
      h = (s.rd GW_HPQ.TX_HEAD ring + 1) % 2 ^ s.rd GW_HPQ.TX_SIZE_LOG2 ring → d = s.ctxRead gwCtx a 16 →
      u = (((s.ctxTouch gwCtx a 16).ctxTouch gwCtx (Bytes.num d 0 8) (Bytes.num d 8 2)).wr GW_HPQ.TX_HEAD h ring) →
      s.flag GW_HPQ.TX_ENABLE ring = true → s.rd GW_PORT.STATE 8 = 2 →
      s.rd GW_HPQ.TX_HEAD ring % 2 ^ s.rd GW_HPQ.TX_SIZE_LOG2 ring ≠ s.rd GW_HPQ.TX_TAIL ring % 2 ^ s.rd GW_HPQ.TX_SIZE_LOG2 ring →
      (10 ≤ Bytes.num d 0xA 1 → Bytes.num d 0xA 1 ≠ 0xFF → exec (.ethTransmit ring) s = .next u) ∧
      ∀ f, f = (s.ctxTouch gwCtx a 16).ctxRead gwCtx (Bytes.num d 0 8) (Bytes.num d 8 2) →
      (Bytes.num d 0xA 1 = 0xFF →
        let v := if (Bytes.num d 0xB 1).testBit 0 then u.inc GW_PORT.TS_IGNORED 8 else u
        ((Bytes.num d 8 2 < 64 ∨ 2044 < Bytes.num d 8 2) → exec (.ethTransmit ring) s = .next v) ∧
        (64 ≤ Bytes.num d 8 2 → Bytes.num d 8 2 ≤ 2044 → exec (.ethTransmit ring) s =
          .next (v.forward 8 (v.vehicleNs - u.rd GW_PORT.RX_LAT 8) (v.sensorNs - u.rd GW_PORT.RX_LAT 8) f))) ∧
      (Bytes.num d 0xA 1 < 10 →
        let cls := ((ethView f).map (fun e => e.tci.getD 0 / 2 ^ 13)).getD 0
        let x : Egress := ⟨Bytes.num d 0xA 1, cls, f, if (Bytes.num d 0xB 1).testBit 0 then some (Bytes.num d 0xC 2, Bytes.num d 0xB 1 / 2 % 4) else none, 8,
          u.vehicleNs - u.rd GW_PORT.RX_LAT 8, u.sensorNs - u.rd GW_PORT.RX_LAT 8⟩
        ((Bytes.num d 8 2 < 64 ∨ 2044 < Bytes.num d 8 2 ∨ (u.flag GW_SW.RUN = false ∧ (ethView f).any u.safetyFrame = false)) →
          exec (.ethTransmit ring) s = .next (u.dropStamp x)) ∧
        (64 ≤ Bytes.num d 8 2 → Bytes.num d 8 2 ≤ 2044 → (u.flag GW_SW.RUN = true ∨ (ethView f).any u.safetyFrame = true) →
          exec (.ethTransmit ring) s = .next (u.egress x)))) ∧
  (∀ (port : Fin 10) (s : State),
    exec (.ethPortLinkChange port true) s = .next (s.wr GW_PORT.LINK 1 port) ∧
    ∃ t, exec (.ethPortLinkChange port false) s = .next t ∧ t.flag GW_PORT.LINK port = false ∧
      t.gw.egress = s.gw.egress.filter (fun e => e.port != port.val) ∧
      t.gw.leaving = s.gw.leaving ++ (s.gw.egress.filter (fun e => e.port == port.val)).filterMap
        (fun e => e.stamp.map (fun x => ⟨e.port, x.1, x.2, true, 0⟩))) ∧
  ∀ (src : Source) (s : State),
    ((s.who src).fwHyp = true → exec (.switchRun src) s = .next (s.wr GW_SW.RUN 1)) ∧
    ((s.who src).fwHyp = false → exec (.switchRun src) s = .next (s.denied (s.who src) RegName.gwSw.addr))

/-- Transmit timestamps and the gates of a port. TX_TIMESTAMP, POP and GATE_INTERVAL complete in every state. The oldest
stamp taken at a port enters its queue while that holds fewer than 32, and is else lost, with OVF set and LOST counted. POP
by firmware or the hypervisor removes the oldest entry of the port's queue; another is denied. Before the end of a gate
interval nothing happens. At its end a pending list that is due takes effect, the gates are set, and the frames that may
leave do so in order. Without GateEnabled every gate is open and no interval runs. In a schedule whose base time has come,
the gates take the states of the one entry whose interval holds the offset into the cycle, and the interval ends with that
entry or the cycle. The words of the tables are the model's layout (log entry 96) -/
def Obligations.StampsAndGates : Prop :=
  (∀ (port : Fin 10) (x : TxStamp) (s : State),
    ((∀ y ∈ s.gw.leaving, y.port ≠ port.val) → exec (.txTimestamp port) s = .next s) ∧
    (s.gw.leaving.find? (fun y => y.port == port.val) = some x →
      let t : State := { s with gw := { s.gw with leaving := s.gw.leaving.erase x } }
      (32 ≤ (s.gw.stamps.filter (fun y => y.port == port.val)).length →
        exec (.txTimestamp port) s = .next ((t.wr GW_TXTS_STAT.OVF 1 port).inc GW_TXTS_STAT.LOST port)) ∧
      ((s.gw.stamps.filter (fun y => y.port == port.val)).length < 32 →
        exec (.txTimestamp port) s = .next (({ t with gw := { t.gw with stamps := t.gw.stamps ++ [x] } } : State).showStamps port)))) ∧
  (∀ (src : Source) (port : Fin 10) (x : TxStamp) (s : State),
    ((s.who src).fwHyp = false → exec (.txtsPop src port) s = .next (s.denied (s.who src) (RegName.gwTxtsStat.addr port))) ∧
    ((s.who src).fwHyp = true →
      ((∀ y ∈ s.gw.stamps, y.port ≠ port.val) → exec (.txtsPop src port) s = .next s) ∧
      (s.gw.stamps.find? (fun y => y.port == port.val) = some x → ∃ t, exec (.txtsPop src port) s = .next t ∧ t.gw.stamps = s.gw.stamps.erase x ∧
        t.rd GW_TXTS_STAT.COUNT port = ((s.gw.stamps.erase x).filter (fun y => y.port == port.val)).length % 2 ^ GW_TXTS_STAT.COUNT.w))) ∧
  (∀ (port : Fin 10) (s : State),
    (∀ e, Sparse.look none s.gw.gateEnd port.val = some e → s.vehicleNs < e → exec (.gateInterval port) s = .next s) ∧
    ((∀ e, Sparse.look none s.gw.gateEnd port.val = some e → e ≤ s.vehicleNs) →
      exec (.gateInterval port) s = .next (((s.swapGates port).setGates port).drainPort port)) ∧
    (s.gateWord port 2065 = 0 → s.swapGates port = s)) ∧
  ∀ (port : Fin 10) (s : State),
    (s.gateWord port 0 = 0 → Sparse.look 0xFF (s.setGates port).gw.gates port.val = 0xFF ∧ Sparse.look none (s.setGates port).gw.gateEnd port.val = none) ∧
    (s.gateWord port 0 ≠ 0 → s.gateTime port 2055 ≠ 0 → s.gateWord port 4 ≠ 0 → s.gateTime port 2063 ≤ s.vehicleNs →
      ∀ st e, gateAt (s.gateList port) ((s.vehicleNs - s.gateTime port 2063) % s.gateTime port 2055) 0 = some (st, e) →
        (∃ k n, (s.gateList port)[k]? = some (st, n) ∧
          (((s.gateList port).take k).map (·.2)).sum ≤ (s.vehicleNs - s.gateTime port 2063) % s.gateTime port 2055 ∧
          (s.vehicleNs - s.gateTime port 2063) % s.gateTime port 2055 < e ∧ e = (((s.gateList port).take k).map (·.2)).sum + n) ∧
        Sparse.look 0xFF (s.setGates port).gw.gates port.val = st ∧ Sparse.look none (s.setGates port).gw.gateEnd port.val =
          some (s.gateTime port 2063 + (s.vehicleNs - s.gateTime port 2063) / s.gateTime port 2055 * s.gateTime port 2055 + min e (s.gateTime port 2055)))

/-- CAN controllers and the signal gateway. CAN_FRAME_RECEIVE, CAN_TRANSMIT, BUS_OFF, BUS_OFF_RECOVERY, CONTAINER_SEND,
CONTAINER_VALID and ROUTE_VALID complete in every state. A controller that is not ON, or bus-off, receives and sends nothing,
nor does it receive a format that it does not permit. A frame received by controllers 0 to 13 goes to ingress, where the
filters pass it (open, log entry 98) to the receive ring, and to the containers that name its identifier; a full ring counts
RX_DROP, another takes the entry and RX_TAIL moves on. In DEPOT a wake identifier wakes the device by cause 3. The next entry
of a transmit ring is taken, TX_HEAD moves on, and a frame of a permitted format is sent with its identifier, format and
bytes. BUS_OFF is set; for the safety controllers the Cantle sends the status frame, unless it is held or in the safe state.
It clears only with AUTO_RECOVER = 1. What TEC and REC read then is the model's choice (log entry 100). The oldest image of a
VALID and open transmit container that was due before a newer value came is sent first, alone; else one that is due is sent,
and its next due time is MIN_GAP_US after the time it was due. A container or a route that the rules refuse counts
CFG_REFUSED, another becomes VALID, a container with its image at zero; only firmware and the hypervisor may -/
def Obligations.SignalGateway : Prop :=
  (∀ (ctl : Fin 16) (f : CanFrame) (s : State),
    ((s.rd GW_CAN.STATE ctl ≠ 2 ∨ s.flag GW_CAN.BUS_OFF ctl = true ∨ s.canFormat ctl f.fd f.xl = false) → exec (.canFrameReceive ctl f) s = .next s) ∧
    (s.rd GW_CAN.STATE ctl = 2 → s.flag GW_CAN.BUS_OFF ctl = false → s.canFormat ctl f.fd f.xl = true →
      (14 ≤ ctl.val → (s.cur ≠ mDepot ∨ s.wakeFrame f = false) → exec (.canFrameReceive ctl f) s = .next s) ∧
      (14 ≤ ctl.val → s.cur = mDepot → s.wakeFrame f = true → exec (.canFrameReceive ctl f) s = .next (s.wake 3)) ∧
      (∀ t u w, ctl.val < 14 → t = s.canIngest ctl f.id (b2n f.xl * 2 + b2n f.fd * 4 + b2n f.ext * 8) f.data →
        u = (if Config.canAccept ctl f.id f.ext then t.canRing ctl f else t) →
        w = u.toContainers (fun i => !s.flag GW_CONT.KIND i && s.rd GW_CONT.CTRL i == ctl.val &&
          s.rd GW_CONT.ID i == f.id && s.flag GW_CONT.EXT i == f.ext && s.flag GW_CONT.FD i == f.fd && s.flag GW_CONT.XL i == f.xl) f.data s.vehicleNs →
        ((s.cur ≠ mDepot ∨ s.wakeFrame f = false) → exec (.canFrameReceive ctl f) s = .next w) ∧
        (s.cur = mDepot → s.wakeFrame f = true → exec (.canFrameReceive ctl f) s = .next (w.wake 3))))) ∧
  (∀ (c : Nat) (f : CanFrame) (s : State),
    ((s.rd GW_CAN.RX_TAIL c + 1) % 2 ^ s.rd GW_CAN.RX_SIZE_LOG2 c = s.rd GW_CAN.RX_HEAD c % 2 ^ s.rd GW_CAN.RX_SIZE_LOG2 c →
      s.canRing c f = s.inc GW_CAN.RX_DROP c) ∧
    ((s.rd GW_CAN.RX_TAIL c + 1) % 2 ^ s.rd GW_CAN.RX_SIZE_LOG2 c ≠ s.rd GW_CAN.RX_HEAD c % 2 ^ s.rd GW_CAN.RX_SIZE_LOG2 c →
      (s.canRing c f).rd GW_CAN.RX_TAIL c = (s.rd GW_CAN.RX_TAIL c + 1) % 2 ^ s.rd GW_CAN.RX_SIZE_LOG2 c % 2 ^ GW_CAN.RX_TAIL.w)) ∧
  (∀ (ctl : Fin 14) (s : State),
    ((s.rd GW_CAN.STATE ctl ≠ 2 ∨ s.flag GW_CAN.BUS_OFF ctl = true ∨
      s.rd GW_CAN.TX_HEAD ctl % 2 ^ s.rd GW_CAN.TX_SIZE_LOG2 ctl = s.rd GW_CAN.TX_TAIL ctl % 2 ^ s.rd GW_CAN.TX_SIZE_LOG2 ctl) →
      exec (.canTransmit ctl) s = .next s) ∧
    ∀ a e t, a = s.rd GW_CAN.TX_BASE ctl / 4096 * 4096 + s.rd GW_CAN.TX_HEAD ctl % 2 ^ s.rd GW_CAN.TX_SIZE_LOG2 ctl * s.canEntry ctl →
      e = s.ctxRead gwCtx a (s.canEntry ctl) →
      t = (s.ctxTouch gwCtx a (s.canEntry ctl)).wr GW_CAN.TX_HEAD ((s.rd GW_CAN.TX_HEAD ctl + 1) % 2 ^ s.rd GW_CAN.TX_SIZE_LOG2 ctl) ctl →
      s.rd GW_CAN.STATE ctl = 2 → s.flag GW_CAN.BUS_OFF ctl = false →
      s.rd GW_CAN.TX_HEAD ctl % 2 ^ s.rd GW_CAN.TX_SIZE_LOG2 ctl ≠ s.rd GW_CAN.TX_TAIL ctl % 2 ^ s.rd GW_CAN.TX_SIZE_LOG2 ctl →
      (s.canFormat ctl ((Bytes.num e 12 2).testBit 1) ((Bytes.num e 12 2).testBit 0) = false → exec (.canTransmit ctl) s = .next t) ∧
      (s.canFormat ctl ((Bytes.num e 12 2).testBit 1) ((Bytes.num e 12 2).testBit 0) = true → exec (.canTransmit ctl) s =
        .next (t.emit (.can ctl (Bytes.num e 8 4 % 2 ^ 29) ((Bytes.num e 12 2).testBit 2) (Bytes.sub e 16 (min (Bytes.num e 14 2)
          (min (if (Bytes.num e 12 2).testBit 0 then 2048 else if (Bytes.num e 12 2).testBit 1 then 64 else 8) (s.canEntry ctl - 16)))))))) ∧
  (∀ (ctl : Fin 16) (s : State),
    ((s.rd GW_CAN.STATE ctl ≠ 2 ∨ s.flag GW_CAN.BUS_OFF ctl = true) → exec (.busOff ctl) s = .next s) ∧
    (s.rd GW_CAN.STATE ctl = 2 → s.flag GW_CAN.BUS_OFF ctl = false →
      let t := (s.wr GW_CAN.BUS_OFF 1 ctl).wr GW_CAN.TEC 0xFF ctl
      ((ctl.val < 14 ∨ s.saf.held = true ∨ s.flag SAF_CTL.SAFE_STATE = true) → exec (.busOff ctl) s = .next t) ∧
      (14 ≤ ctl.val → s.saf.held = false → s.flag SAF_CTL.SAFE_STATE = false → exec (.busOff ctl) s = .next (t.sendStatus t.statusCode))) ∧
    ((s.flag GW_CAN.BUS_OFF ctl = false ∨ s.flag GW_CAN.AUTO_RECOVER ctl = false) → exec (.busOffRecovery ctl) s = .next s) ∧
    (s.flag GW_CAN.BUS_OFF ctl = true → s.flag GW_CAN.AUTO_RECOVER ctl = true →
      exec (.busOffRecovery ctl) s = .next (((s.wr GW_CAN.BUS_OFF 0 ctl).wr GW_CAN.TEC 0 ctl).wr GW_CAN.REC 0 ctl))) ∧
  (∀ (i : Fin 1024) (s : State),
    ((s.flag GW_CONT.VALID i = false ∨ s.contOpen i = false) → exec (.containerSend i) s = .next s) ∧
    (s.flag GW_CONT.VALID i = true → s.contOpen i = true →
      (∀ img rest, (s.cont i).due = img :: rest →
        exec (.containerSend i) s = .next ((s.sendCont i img).setCont i { s.cont i with due := rest })) ∧
      ((s.cont i).due = [] → (s.cont i).oldest = none → exec (.containerSend i) s = .next s) ∧
      (∀ a, (s.cont i).due = [] → (s.cont i).oldest = some a →
        (s.vehicleNs < max (s.cont i).nextDue a → exec (.containerSend i) s = .next s) ∧
        (max (s.cont i).nextDue a ≤ s.vehicleNs → ∃ t, exec (.containerSend i) s = .next t ∧
          t.cont i = { s.cont i with unsent := [], oldest := none, nextDue := max (s.cont i).nextDue a + s.rd GW_CONT.MIN_GAP_US i * 1000 } ∧
          (s.flag GW_CONT.KIND i = false → t.out = .can (s.rd GW_CONT.CTRL i) (s.rd GW_CONT.ID i % 2 ^ 29) (s.flag GW_CONT.EXT i)
            (Bytes.pad (s.cont i).image (s.rd GW_CONT.LEN i)) :: s.out) ∧
          (s.flag GW_CONT.KIND i = true → t.out = .udp (s.rd GW_ADDR.ADDR (s.rd GW_CONT.ADDR i)) (s.rd GW_CONT.VLAN i) (s.rd GW_CONT.UDP_PORT i)
            (beBytes 4 (s.rd GW_CONT.ID i) ++ beBytes 4 (s.rd GW_CONT.LEN i) ++ Bytes.pad (s.cont i).image (s.rd GW_CONT.LEN i)) :: s.out))))) ∧
  (∀ (src : Source) (i : Fin 1024) (s : State),
    ((s.who src).fwHyp = false → exec (.containerValid src i) s = .next (s.denied (s.who src) (RegName.gwCont.addr i))) ∧
    ((s.who src).fwHyp = true →
      let len := s.rd GW_CONT.LEN i
      let cap := if s.flag GW_CONT.KIND i then 2000 else if s.flag GW_CONT.FD i || s.flag GW_CONT.XL i then 64 else 8
      ((14 ≤ s.rd GW_CONT.CTRL i ∨ (s.flag GW_CONT.DIR i = true ∧ (len = 0 ∨ cap < len)) ∨
        (s.flag GW_CONT.DIR i = true ∧ s.flag GW_CONT.KIND i = true ∧ s.rd GW_ADDR.ADDR (s.rd GW_CONT.ADDR i) = 0)) →
        exec (.containerValid src i) s = .next (s.inc GW_SG_STAT.CFG_REFUSED)) ∧
      (s.rd GW_CONT.CTRL i < 14 → (s.flag GW_CONT.DIR i = false ∨ (0 < len ∧ len ≤ cap ∧
        (s.flag GW_CONT.KIND i = false ∨ s.rd GW_ADDR.ADDR (s.rd GW_CONT.ADDR i) ≠ 0))) →
        ∃ t, exec (.containerValid src i) s = .next t ∧ t.flag GW_CONT.VALID i = true ∧ t.cont i = ContRt.rest))) ∧
  ∀ (src : Source) (r : Fin 4096) (s : State),
    ((s.who src).fwHyp = false → exec (.routeValid src r) s = .next (s.denied (s.who src) (RegName.gwRoute.addr r))) ∧
    ((s.who src).fwHyp = true →
      (s.routeBad r = true → exec (.routeValid src r) s = .next (s.inc GW_SG_STAT.CFG_REFUSED)) ∧
      (s.routeBad r = false → exec (.routeValid src r) s = .next (s.wr GW_ROUTE.VALID 1 r)) ∧
      ((s.rd GW_ROUTE.MODE r = 3 ∨ s.flag GW_CONT.DIR (s.rd GW_ROUTE.SRC r) = true ∨ s.flag GW_CONT.DIR (s.rd GW_ROUTE.DST r) = false ∨ s.rd GW_ROUTE.LEN r = 0 ∨
        (s.rd GW_ROUTE.MODE r = 0 ∧ s.rd GW_ROUTE.SRC_BIT r % 8 ≠ 0)) → exec (.routeValid src r) s = .next (s.inc GW_SG_STAT.CFG_REFUSED)) ∧
      ((s.rd GW_ROUTE.MODE r = 1 ∨ s.rd GW_ROUTE.MODE r = 2) → s.flag GW_CONT.DIR (s.rd GW_ROUTE.SRC r) = false → s.flag GW_CONT.DIR (s.rd GW_ROUTE.DST r) = true →
        0 < s.rd GW_ROUTE.LEN r → s.rd GW_ROUTE.SRC_BIT r + s.rd GW_ROUTE.LEN r ≤ 512 → s.rd GW_ROUTE.DST_BIT r + s.rd GW_ROUTE.LEN r ≤ 512 →
        exec (.routeValid src r) s = .next (s.wr GW_ROUTE.VALID 1 r)))

/-- Recovery over Ethernet and package updates. ANNOUNCE, DATA, END, RECOVERY_SILENCE_TIMEOUT, PACKAGE_UPDATE and
PACKAGE_UPDATE_DONE complete in every state. ROM announces itself only in recovery on Ethernet, once a second, until a
transfer starts. The first DATA fixes the sender, and datagrams from another change nothing. A DATA of at most 1,024 bytes
puts every byte at its offset, keeps the others and is acknowledged with the lowest offset missing. An END before all bytes
are there is acknowledged; after it the first TOTAL bytes are taken as the package. Silence of 10 s abandons the transfer.
FW_PKG.GO by the hypervisor does nothing while BUSY, nor where neither firmware runs nor ROM hears PCIe, nor in recovery
during a transfer; it sets BUSY, clears RESULT and takes LEN_4K times 4 KiB at ADDR, of HBM in operation and of host memory
in recovery. At the end of an update in operation a package whose header is wrong has RESULT 3 and writes nothing, one that
fails a signature the code of the check, one that still mismatches RESULT 4, a good one is written part by part and has
RESULT 1, and BUSY falls; while the identity or the log service is down the end waits. In recovery the result is also sent to
the sender of the transfer, the transfer ends, and a written package resets the device. What a failing write leaves is free
(log entry 33) -/
def Obligations.RecoveryAndPackages : Prop :=
  (∀ s : State,
    ((s.hearsEth = false ∨ s.ethTransfer.isSome = true ∨ s.flag FW_PKG.BUSY = true) → exec .recoveryAnnounce s = .next s) ∧
    (∀ a, s.fw.recovery = some ⟨none, a⟩ → s.hearsEth = true → s.flag FW_PKG.BUSY = false →
      (∀ k, a = some k → s.localNs < k + 1000000000 → exec .recoveryAnnounce s = .next s) ∧
      ((∀ k, a = some k → k + 1000000000 ≤ s.localNs) → ∃ t, exec .recoveryAnnounce s = .next t ∧ t.fw.recovery = some ⟨none, some s.localNs⟩ ∧
        t.out = .recovery (recoveryDatagram 1 (leBytes 1 (s.rd FW_STAT.REASON) ++ leBytes 3 0 ++ s.regBytes .sysId 0 0 4 ++ s.idHash)) :: s.out))) ∧
  (∀ (sender off : Nat) (d : Bytes) (s : State),
    ((s.hearsEth = false ∨ s.flag FW_PKG.BUSY = true ∨ d = [] ∨ 1024 < d.length ∨ ∃ t, s.ethTransfer = some t ∧ t.sender ≠ sender) →
      exec (.recoveryData sender off d) s = .next s) ∧
    (∀ t, s.hearsEth = true → s.flag FW_PKG.BUSY = false → 0 < d.length → d.length ≤ 1024 → t = s.ethTransfer.getD ⟨sender, [], 0⟩ → t.sender = sender →
      ∃ u bytes, exec (.recoveryData sender off d) s = .next u ∧ u.fw.recovery = s.fw.recovery.map (fun r => { r with transfer := some ⟨sender, bytes, s.localNs⟩ }) ∧
        u.out = .recovery (recoveryDatagram 3 (leBytes 4 (nextGap 0 bytes))) :: s.out ∧
        ∀ n, Sparse.look none bytes n = if off ≤ n ∧ n < off + d.length then d[n - off]? else Sparse.look none t.bytes n)) ∧
  (∀ (sender total : Nat) (s : State),
    ((s.ethTransfer = none ∨ s.flag FW_PKG.BUSY = true ∨ ∃ t, s.ethTransfer = some t ∧ t.sender ≠ sender) → exec (.recoveryEnd sender total) s = .next s) ∧
    (∀ t, s.ethTransfer = some t → t.sender = sender → s.flag FW_PKG.BUSY = false →
      (nextGap 0 t.bytes < total → ∃ u, exec (.recoveryEnd sender total) s = .next u ∧ u.out = .recovery (recoveryDatagram 3 (leBytes 4 (nextGap 0 t.bytes))) :: s.out ∧ u.regs = s.regs) ∧
      (total ≤ nextGap 0 t.bytes → ∃ u, exec (.recoveryEnd sender total) s = .next u ∧ u.fw.package = some ((t.bytes.take total).map (fun x => x.2.getD 0)) ∧
        u.rd FW_PKG.BUSY = 1 ∧ u.rd FW_PKG.RESULT = 0))) ∧
  (∀ s : State,
    ((s.ethTransfer = none ∨ s.flag FW_PKG.BUSY = true ∨ ∃ t, s.ethTransfer = some t ∧ s.localNs < t.last + 10000000000) → exec .recoverySilenceTimeout s = .next s) ∧
    (∀ t, s.ethTransfer = some t → s.flag FW_PKG.BUSY = false → t.last + 10000000000 ≤ s.localNs → exec .recoverySilenceTimeout s = .next (s.setTransfer none))) ∧
  (∀ (src : Source) (s : State),
    ((s.who src).hyp = false → exec (.packageUpdate src) s = .next (s.denied (s.who src) RegName.fwPkg.addr)) ∧
    ((s.who src).hyp = true →
      (s.flag FW_PKG.BUSY = true → exec (.packageUpdate src) s = .next s) ∧
      (s.flag FW_PKG.BUSY = false → s.hearsPcie = false → s.fw.running = false → exec (.packageUpdate src) s = .next s) ∧
      (s.hearsPcie = true → s.ethTransfer ≠ none → exec (.packageUpdate src) s = .next s) ∧
      (s.flag FW_PKG.BUSY = false → s.fw.running = true → s.hearsPcie = false → ∃ t, exec (.packageUpdate src) s = .next t ∧
        t.fw.package = some (s.memRead (s.rd FW_PKG.ADDR / 4096 * 4096) (s.rd FW_PKG.LEN_4K * 4096)) ∧ t.rd FW_PKG.BUSY = 1 ∧ t.rd FW_PKG.RESULT = 0) ∧
      (s.flag FW_PKG.BUSY = false → s.hearsPcie = true → s.ethTransfer = none → ∃ t, exec (.packageUpdate src) s = .next t ∧
        t.fw.package = some (Sparse.bytes 0 s.hostMem (s.rd FW_PKG.ADDR / 4096 * 4096) (s.rd FW_PKG.LEN_4K * 4096)) ∧ t.rd FW_PKG.BUSY = 1 ∧ t.rd FW_PKG.RESULT = 0))) ∧
  ∀ (bad : Bool) (s : State),
    (s.fw.package = none → exec (.packageUpdateDone bad) s = .next s) ∧
    (∀ b, s.fw.package = some b → s.fw.recovery = none → s.fwDown 8 = false → s.fwDown 9 = false →
      (s.packageForm b = false → exec (.packageUpdateDone bad) s = .next (s.endUpdate 3)) ∧
      exec (.packageUpdateDone bad) s = .next ((if s.packageCheck b ≠ 0 then s else if bad = true then s.failWrite b else s.writeParts b 3).endUpdate
        (if s.packageCheck b ≠ 0 then s.packageCheck b else if bad = true then 4 else 1))) ∧
    (s.fw.recovery = none → (s.fwDown 8 = true ∨ s.fwDown 9 = true) → exec (.packageUpdateDone bad) s = .next s) ∧
    (∀ b q, s.fw.package = some b → s.fw.recovery = some q →
      let result := if s.packageCheck b ≠ 0 then s.packageCheck b else if bad = true then 4 else 1
      let t := (if s.packageCheck b ≠ 0 then s else if bad = true then s.failWrite b else s.writeParts b 3).endUpdate result
      let u := if q.transfer.isSome then t.emit (.recovery (recoveryDatagram 5 (leBytes 1 result))) else t
      let v := { u with fw := { u.fw with recovery := some { q with transfer := none } } }
      exec (.packageUpdateDone bad) s = .next (if result = 1 then v.warmReset 4 else v)) ∧
    ∀ r, (s.endUpdate r).rd FW_PKG.BUSY = 0 ∧ (s.endUpdate r).rd FW_PKG.RESULT = r % 2 ^ FW_PKG.RESULT.w

/-- Component faults, restarts, the log's save and trace points. COMPONENT_FAULT, COMPONENT_RESTART_DONE, SCHEDULER_FAULT,
SAVE and TRACE_POINT complete in every state. A fault of a component other than the scheduler restarts that component alone
and counts in RESTARTS; one that is already down, or a code that is none, does nothing. A fault of the accounting, link
manager, liaison or BIST manager changes nothing else. The end of a restart takes the component off the list, and for the
scheduler all of them, unless firmware has halted; what the log service held is then written, the saves it held when it or
all of firmware restarts. A scheduler fault restarts all of firmware, reports source 0x13 and re-runs the table commands that
have not committed, with their re-run count incremented; the third within 60 s halts firmware. SAVE by the hypervisor writes
a slot of the save area while the log service runs, is held while it restarts, and does nothing while firmware does not run.
A trace point of a field that is enabled writes its entry at most every 10 ms, or leaves it to the log service that restarts;
the bank conflicts that it counts are free (log entry 37). That a whole restart is not counted in RESTARTS is log entry 36,
the layout of trace entries log entry 37 -/
def Obligations.FirmwareComponents : Prop :=
  (∀ (comp : Fin 16) (s : State),
    ((comp.val < 3 ∨ 9 < comp.val ∨ s.fwDown comp = true) → exec (.componentFault comp) s = .next s) ∧
    (3 ≤ comp.val → comp.val ≤ 9 → s.fwDown comp = false → exec (.componentFault comp) s =
      .next (({ s with fw := { s.fw with restarting := comp.val :: s.fw.restarting } } : State).componentEffect comp |>.inc FW_STAT.RESTARTS)) ∧
    (4 ≤ comp.val → comp.val ≤ 7 → s.fwDown comp = false → ∃ t, exec (.componentFault comp) s = .next t ∧
      t.rd FW_STAT.RESTARTS = min (s.rd FW_STAT.RESTARTS + 1) (2 ^ FW_STAT.RESTARTS.w - 1) ∧ t.fw.restarting = comp.val :: s.fw.restarting ∧
      t.fwDown comp = true ∧ t.loads = s.loads ∧ t.flight = s.flight ∧ t.mem = s.mem ∧ t.fw.package = s.fw.package ∧ t.out = s.out)) ∧
  (∀ (comp : Fin 16) (s : State),
    ((comp.val ∉ s.fw.restarting ∨ s.fw.halted = true) → exec (.componentRestartDone comp) s = .next s) ∧
    (comp.val ∈ s.fw.restarting → s.fw.halted = false → comp.val ≠ 9 → comp.val ≠ 2 → exec (.componentRestartDone comp) s =
      .next ({ s with fw := { s.fw with restarting := s.fw.restarting.filter (· != comp.val) } } : State).flushLog) ∧
    (comp.val ∈ s.fw.restarting → s.fw.halted = false → (comp.val = 9 ∨ comp.val = 2) →
      let t := ({ s with fw := { s.fw with restarting := if comp.val = 2 then [] else s.fw.restarting.filter (· != comp.val) } } : State).flushLog
      exec (.componentRestartDone comp) s = .next ((List.range t.fw.heldSaves).foldl (fun s _ => s.saveLog) { t with fw := { t.fw with heldSaves := 0 } })) ∧
    (2 ∈ s.fw.restarting → s.fw.halted = false → s.fw.heldLog = [] → s.fw.lostLog = 0 → s.fw.heldSaves = 0 →
      ∃ t, exec (.componentRestartDone 2) s = .next t ∧ t.fw.restarting = [] ∧ t.regs = s.regs ∧ t.mem = s.mem)) ∧
  (∀ s : State,
    (s.fwDown 2 = true → exec .schedulerFault s = .next s) ∧
    (∀ a b u past, a = s.saveLog.rerunLoads →
      b = ({ a with flight := a.flight.map (fun (j : Job) => if (tableOp j.cmd.opcode && j.outcome == Outcome6.running) = true then { j with cmd := { j.cmd with rerun := min (j.cmd.rerun + 1) 15 } } else j) } : State).report 0x13 none →
      u = (b.componentEffect 8).componentEffect 9 → past = s.fw.wholes.filter (fun k => decide (s.localNs < k + 60000000000)) → s.fwDown 2 = false →
      exec .schedulerFault s = .next { u with fw := { u.fw with wholes := u.localNs :: past, restarting := [2], halted := decide (2 ≤ past.length) } })) ∧
  (∀ (src : Source) (s : State),
    ((s.who src).hyp = false → exec (.logSave src) s = .next (s.denied (s.who src) RegName.fwLog.addr)) ∧
    ((s.who src).hyp = true →
      (s.fw.running = false → exec (.logSave src) s = .next s) ∧
      (s.fw.running = true → s.fwDown 9 = true → exec (.logSave src) s = .next { s with fw := { s.fw with heldSaves := s.fw.heldSaves + 1 } }) ∧
      (s.fwDown 9 = false → exec (.logSave src) s = .next s.saveLog))) ∧
  (∀ s : State,
    (s.flag FW_PKG.BUSY = true → s.saveLog = { s with fw := { s.fw with heldSaves := s.fw.heldSaves + 1 } }) ∧
    (s.flag FW_PKG.BUSY = false → s.saveLog.fw.slot = (s.fw.slot + 1) % 4 ∧ s.saveLog.regs = s.regs ∧ s.saveLog.mem = s.mem)) ∧
  ∀ (field : Fin 17) (s : State),
    ((s.fw.running = false ∨ (s.rd FW_TRACE.MASK ((0x40 + field.val) / 32)).testBit ((0x40 + field.val) % 32) = false ∨
      ∃ k, Sparse.look none s.fw.traced field = some k ∧ s.localNs < k + 10000000) → exec (.tracePoint field) s = .next s) ∧
    (s.fw.running = true → (s.rd FW_TRACE.MASK ((0x40 + field.val) / 32)).testBit ((0x40 + field.val) % 32) = true →
      (∀ k, Sparse.look none s.fw.traced field = some k → k + 10000000 ≤ s.localNs) → ∃ t, exec (.tracePoint field) s = .next t ∧
        Sparse.look none t.fw.traced field = some s.localNs ∧
        (t.frt field).conflicts = ((s.frt field).conflicts + (Config.freeWord s.freeCount 0).toNat) % 2 ^ 32 ∧
        (s.fwDown 9 = false → t.rd FW_LOG.NEXT_SEQ = (s.rd FW_LOG.NEXT_SEQ + 1) % 2 ^ FW_LOG.NEXT_SEQ.w))

/-- Host timers, the A-PHY back channel and the PCIe function. A hart's timer interrupt becomes pending once when the local
monotonic base has reached its compare value, not before. GO of an I2C transaction by firmware or the hypervisor does nothing
while BUSY; with the link down it ends at once with RESULT 4; else BUSY is set and the bytes to write go out. Its end clears
BUSY and stores the result and the bytes read; 10 ms after GO it ends with RESULT 5, and a loss of the link ends it with
RESULT 4, the bytes read being free. A lock sets UP and the gear, sends the held GPIO levels, and counts in RETRAINS where it
is not the first since reset (log entry 101); a loss clears UP and the gear. PCIE_STAT shows the link. PERST low forgets the
VFs. A configuration request is not answered outside endpoint mode or in PARK, is retried until firmware runs in a mode after
boot, and is not answered by a VF that is not enabled; NumVFs and VF Enable are taken by the physical function (log entry
102), which reads TotalVFs and InitialVFs as 127, First VF Offset and VF Stride as 1, and BAR0, BAR2 and VF BAR0 of 256 MiB,
512 KiB and 4 KiB. MTIMECMP_MATCH, I2C_GO, I2C_DONE, I2C_TIMEOUT, APHY_LINK_LOCK, APHY_LINK_LOSS, PCIE_LINK_CHANGE,
PCIE_PERST_CHANGE and PCIE_CONFIG_REQUEST complete in every state -/
def Obligations.OuterInterfaces : Prop :=
  (∀ (hart : Fin 16) (s : State),
    ((s.localNs < s.rd HOSTC_MTIMECMP.CMP hart ∨ hart.val ∈ s.gw.mtip) → exec (.mtimecmpMatch hart) s = .next s) ∧
    (s.rd HOSTC_MTIMECMP.CMP hart ≤ s.localNs → hart.val ∉ s.gw.mtip → exec (.mtimecmpMatch hart) s =
      .next { s with out := .mtip hart :: s.out, gw := { s.gw with mtip := hart.val :: s.gw.mtip } })) ∧
  (∀ (src : Source) (r : Fin 12) (s : State),
    ((s.who src).fwHyp = false → exec (.i2cGo src r) s = .next (s.denied (s.who src) (RegName.aphyI2c.addr r))) ∧
    ((s.who src).fwHyp = true →
      (s.flag APHY_I2C.BUSY r = true → exec (.i2cGo src r) s = .next s) ∧
      (s.flag APHY_I2C.BUSY r = false → s.flag APHY_LINK.UP r = false → exec (.i2cGo src r) s = .next (s.wr APHY_I2C.RESULT 4 r)) ∧
      (s.flag APHY_I2C.BUSY r = false → s.flag APHY_LINK.UP r = true → ∃ t, exec (.i2cGo src r) s = .next t ∧ t.flag APHY_I2C.BUSY r = true ∧
        Sparse.look none t.gw.i2c r = some s.localNs ∧
        t.out = .i2c r (s.rd APHY_I2C.ADDR r) (s.rd APHY_I2C.RLEN r) (leBytes (s.rd APHY_I2C.WLEN r) (s.rd APHY_I2C.WDATA r)) :: s.out))) ∧
  (∀ (r : Fin 12) (res : Fin 8) (d : Bytes) (s : State),
    ((s.flag APHY_I2C.BUSY r = false ∨ res = 0 ∨ 3 < res.val) → exec (.i2cDone r res d) s = .next s) ∧
    (s.flag APHY_I2C.BUSY r = true → 1 ≤ res.val → res.val ≤ 3 → ∃ t, exec (.i2cDone r res d) s = .next t ∧ t.flag APHY_I2C.BUSY r = false ∧
      t.rd APHY_I2C.RESULT r = res.val ∧ t.rd APHY_I2C.RDATA r = leNat (d.take (s.rd APHY_I2C.RLEN r)) % 2 ^ APHY_I2C.RDATA.w ∧ Sparse.look none t.gw.i2c r = none)) ∧
  (∀ (r : Fin 12) (s : State),
    ((∀ k, Sparse.look none s.gw.i2c r = some k → s.localNs < k + 10000000) → exec (.i2cTimeout r) s = .next s) ∧
    (∀ k, Sparse.look none s.gw.i2c r = some k → k + 10000000 ≤ s.localNs → ∃ t, exec (.i2cTimeout r) s = .next t ∧
      t.flag APHY_I2C.BUSY r = false ∧ t.rd APHY_I2C.RESULT r = 5 ∧ Sparse.look none t.gw.i2c r = none)) ∧
  (∀ (r : Fin 12) (gear : Fin 8) (s : State),
    ((gear = 0 ∨ 5 < gear.val) → exec (.aphyLinkLock r gear) s = .next s) ∧
    (1 ≤ gear.val → gear.val ≤ 5 → ∃ t, exec (.aphyLinkLock r gear) s = .next t ∧ t.flag APHY_LINK.UP r = true ∧ t.rd APHY_LINK.GEAR r = gear.val ∧
      t.out = .gpio r (s.rd APHY_LINK.GPIO_OUT r) :: s.out ∧
      (r.val ∈ s.gw.aphyLocked → t.rd APHY_LINK.RETRAINS r = min (s.rd APHY_LINK.RETRAINS r + 1) (2 ^ APHY_LINK.RETRAINS.w - 1)) ∧
      (r.val ∉ s.gw.aphyLocked → t.rd APHY_LINK.RETRAINS r = s.rd APHY_LINK.RETRAINS r ∧ t.gw.aphyLocked = r.val :: s.gw.aphyLocked)) ∧
    (s.flag APHY_I2C.BUSY r = false → exec (.aphyLinkLoss r) s = .next ((s.wr APHY_LINK.UP 0 r).wr APHY_LINK.GEAR 0 r)) ∧
    (s.flag APHY_I2C.BUSY r = true → ∃ t, exec (.aphyLinkLoss r) s = .next t ∧ t.flag APHY_I2C.BUSY r = false ∧ t.rd APHY_I2C.RESULT r = 4)) ∧
  (∀ (sp : Fin 8) (w : Fin 16) (s : State),
    exec (.pcieLinkChange true sp w) s = .next (((s.wr PCIE_STAT.LINK_UP 1).wr PCIE_STAT.SPEED sp).wr PCIE_STAT.WIDTH w) ∧
    exec (.pcieLinkChange false sp w) s = .next (((s.wr PCIE_STAT.LINK_UP 0).wr PCIE_STAT.SPEED 0).wr PCIE_STAT.WIDTH 0)) ∧
  (∀ s : State,
    (s.flag SYS_STRAP.PCIE_MODE = false → (∀ h, exec (.pciePerstChange h) s = .next s) ∧ ∀ q, exec (.pcieConfigRequest q) s = .next (s.emit (.pcieAnswer none))) ∧
    (s.flag SYS_STRAP.PCIE_MODE = true →
      (exec (.pciePerstChange false) s = .next { s with gw := { s.gw with numVfs := 0, vfEnable := false }, mode := { s.mode with perstHigh := false } }) ∧
      (s.mode.perstHigh = true → exec (.pciePerstChange true) s = .next s) ∧
      (s.mode.perstHigh = false → exec (.pciePerstChange true) s = .next { s with mode := { s.mode with perstHigh := true, perstAt := s.localNs } }))) ∧
  ∀ s : State, s.flag SYS_STRAP.PCIE_MODE = true →
    (∀ q, (s.mode.perstHigh = false ∨ s.outsidePark = false) → exec (.pcieConfigRequest q) s = .next (s.emit (.pcieAnswer none))) ∧
    (s.mode.perstHigh = true → s.outsidePark = true →
      (∀ q, (s.fw.running = false ∨ s.cur = mBoot) → exec (.pcieConfigRequest q) s = .next (s.emit .pcieRetry)) ∧
      (s.fw.running = true → s.cur ≠ mBoot →
        (∀ f : Fin 128, 0 < f.val → (s.gw.vfEnable = false ∨ s.gw.numVfs < f.val) → (∀ item, exec (.pcieConfigRequest (.read f item)) s = .next (s.emit (.pcieAnswer none))) ∧
          exec (.pcieConfigRequest (.reset f)) s = .next (s.emit (.pcieAnswer none))) ∧
        (∀ (f : Fin 128) item, (f = 0 ∨ (s.gw.vfEnable = true ∧ f.val ≤ s.gw.numVfs)) →
          exec (.pcieConfigRequest (.read f item)) s = .next (s.emit (.pcieAnswer (some (s.pcieItem f item))))) ∧
        (s.pcieItem 0 .totalVfs = 127 ∧ s.pcieItem 0 .initialVfs = 127 ∧ s.pcieItem 0 .numVfs = s.gw.numVfs ∧ s.pcieItem 0 .firstVfOffset = 1 ∧
          s.pcieItem 0 .vfStride = 1 ∧ s.pcieItem 0 (.barSize 0) = 2 ^ 28 ∧ s.pcieItem 0 (.barSize 2) = 2 ^ 19 ∧ s.pcieItem 0 (.vfBarSize 0) = 2 ^ 12) ∧
        (∀ n e, s.gw.vfEnable = false → exec (.pcieConfigRequest (.setVfs n e)) s =
          .next { s with gw := { s.gw with numVfs := n, vfEnable := e }, out := .pcieAnswer (some 0) :: s.out }) ∧
        (∀ n e, s.gw.vfEnable = true → exec (.pcieConfigRequest (.setVfs n e)) s =
          .next { s with gw := { s.gw with vfEnable := e }, out := .pcieAnswer (some 0) :: s.out }) ∧
        exec (.pcieConfigRequest (.reset 0)) s = .next { s with gw := { s.gw with numVfs := 0, vfEnable := false }, out := .pcieAnswer (some 0) :: s.out } ∧
        (∀ f : Fin 128, 0 < f.val → s.gw.vfEnable = true → f.val ≤ s.gw.numVfs → exec (.pcieConfigRequest (.reset f)) s =
          .next ((s.resetVef f).emit (.pcieAnswer (some 0))))))

/-- What a write to an address does, and the stall watchdog's period. REGISTER_WRITE completes in every state; outside
register space and the doorbell pages it is a store to memory. In register space and the doorbell pages, a write that is not
of 4 or 8 aligned bytes changes nothing and counts once, in NARROW with its slot, or in VEF_VIOL.REG for a VEF. An aligned
word that is a hole, or that its requester may not write, counts once, in HOLE or DENIED with its slot, or in VEF_VIOL.REG
for a VEF; a permitted word of a register is written by that register's rule. Eight bytes over two words of one register are
one write of both, two words that fall under different reasons count each reason once, and a permitted word beside a hole is
carried out. A write of PLAIN_FLD_WDOG[n] at its address stores 50 below 50, 100,000 above 100,000 and the value between
them; the running watchdog keeps its period until the field's next progress event, which takes the new one -/
def Obligations.RegisterWrites : Prop :=
  (∀ (s : State) (src : Source) (a b v : Nat), (exec (.registerWrite src a b v) s = .next (s.writeAt src a b v)) ∧
      (inRegSpace a = false → inPages a = false → exec (.registerWrite src a b v) s = .next (s.memStore src a b v))) ∧
    (∀ (s : State) (src : Source) (a b v : Nat), (inRegSpace a = true ∨ inPages a = true) → ¬ ((b = 4 ∨ b = 8) ∧ a % b = 0) →
      (∀ k, s.whoAt src a = .vef k → exec (.registerWrite src a b v) s = .next (s.inc VEF_VIOL.REG k)) ∧
      (s.whoAt src a = .nobody → exec (.registerWrite src a b v) s = .next s) ∧
      ((s.whoAt src a).anyButVef = true →
        exec (.registerWrite src a b v) s = .next ((s.inc SYS_ACC.NARROW).wr SYS_ACC.LAST_SLOT (bits a 20 8)))) ∧
    (∀ (s : State) (src : Source) (a v : Nat), (inRegSpace a = true ∨ inPages a = true) → a % 4 = 0 →
      (s.wordHit (s.whoAt src a) a = .hole →
        (∀ k, s.whoAt src a = .vef k → exec (.registerWrite src a 4 v) s = .next (s.inc VEF_VIOL.REG k)) ∧
        ((s.whoAt src a).anyButVef = true →
          exec (.registerWrite src a 4 v) s = .next ((s.inc SYS_ACC.HOLE).wr SYS_ACC.LAST_SLOT (bits a 20 8)))) ∧
      (s.wordHit (s.whoAt src a) a = .denied →
        (∀ k, s.whoAt src a = .vef k → exec (.registerWrite src a 4 v) s = .next (s.inc VEF_VIOL.REG k)) ∧
        ((s.whoAt src a).anyButVef = true →
          exec (.registerWrite src a 4 v) s = .next ((s.inc SYS_ACC.DENIED).wr SYS_ACC.LAST_SLOT (bits a 20 8)))) ∧
      ∀ h, s.wordHit (s.whoAt src a) a = .reg h →
        exec (.registerWrite src a 4 v) s = .next (s.regWrite src (s.whoAt src a) h 4 (v % 2 ^ 32))) ∧
    (∀ (s : State) (src : Source) (a v : Nat), (inRegSpace a = true ∨ inPages a = true) → a % 8 = 0 →
      (∀ h k, s.wordHit (s.whoAt src a) a = .reg h → s.wordHit (s.whoAt src a) (a + 4) = .reg k → h.reg = k.reg → h.i = k.i →
        h.j = k.j → exec (.registerWrite src a 8 v) s = .next (s.regWrite src (s.whoAt src a) h 8 (v % 2 ^ 64))) ∧
      (s.wordHit (s.whoAt src a) a = .denied → s.wordHit (s.whoAt src a) (a + 4) = .hole →
        (∀ k, s.whoAt src a = .vef k → exec (.registerWrite src a 8 v) s = .next (s.inc VEF_VIOL.REG k)) ∧
        ((s.whoAt src a).anyButVef = true →
          exec (.registerWrite src a 8 v) s =
            .next (((s.inc SYS_ACC.HOLE).inc SYS_ACC.DENIED).wr SYS_ACC.LAST_SLOT (bits a 20 8)))) ∧
      ∀ h, s.wordHit (s.whoAt src a) a = .reg h → s.wordHit (s.whoAt src a) (a + 4) = .hole → (s.whoAt src a).anyButVef = true →
        exec (.registerWrite src a 8 v) s =
          .next (((s.inc SYS_ACC.HOLE).wr SYS_ACC.LAST_SLOT (bits a 20 8)).regWrite src (s.whoAt src a) h 4 (v % 2 ^ 32))) ∧
    (∀ (s : State) (n b v : Nat), n < 17 → b = 4 ∨ b = 8 → ∃ t,
      exec (.registerWrite .mgmt (0xF000B00108 + n * 0x20) b v) s = .next t ∧
      t.rd PLAIN_FLD_WDOG.PERIOD_US n = (if v % 2 ^ 17 < 50 then 50 else if v % 2 ^ 17 > 100000 then 100000 else v % 2 ^ 17) ∧
      (b = 4 → t = s.wr PLAIN_FLD_WDOG.PERIOD_US (t.rd PLAIN_FLD_WDOG.PERIOD_US n) n) ∧
      (t.frt n).wdogPeriod = (s.frt n).wdogPeriod ∧
      ((t.progress n).frt n).wdogPeriod = t.rd PLAIN_FLD_WDOG.PERIOD_US n)
end

