-- ==== Sys2Proof/Laws/Sparse.lean ====
section
/-! SUPPORT. Laws of the sparse stores: a read after a write, and the canonical form that every write keeps. -/

namespace Sys2Proof.Machine

set_option Elab.async false

variable {α : Type}

@[simp] theorem Sparse.look_nil (d : α) (n : Nat) : Sparse.look d [] n = d := rfl

/-- A key entered reads as the value entered. -/
theorem Sparse.look_enter_same (d : α) (l : Sparse α) (n : Nat) (x : α) : Sparse.look d (Sparse.enter l n x) n = x := by
  induction l with
  | nil => simp [Sparse.enter, Sparse.look]
  | cons e r ih =>
    obtain ⟨k, v⟩ := e
    by_cases h : n = k
    · simp [Sparse.enter, Sparse.look, h]
    · by_cases h2 : n < k
      · simp [Sparse.enter, Sparse.look, h, h2]
      · simp [Sparse.enter, Sparse.look, h, h2, ih]

/-- Entering one key leaves what every other key reads as. -/
theorem Sparse.look_enter_ne (d : α) (l : Sparse α) (n m : Nat) (x : α) (hm : m ≠ n) :
    Sparse.look d (Sparse.enter l n x) m = Sparse.look d l m := by
  induction l with
  | nil => simp [Sparse.enter, Sparse.look, hm]
  | cons e r ih =>
    obtain ⟨k, v⟩ := e
    by_cases h : n = k
    · subst h; simp [Sparse.enter, Sparse.look, hm]
    · by_cases h2 : n < k
      · simp [Sparse.enter, Sparse.look, h, h2, hm]
      · simp [Sparse.enter, Sparse.look, h, h2, ih]

/-- A key that a store does not list reads as the default. -/
theorem Sparse.look_filter_same (d : α) (l : Sparse α) (n : Nat) :
    Sparse.look d (l.filter (fun e => e.1 != n)) n = d := by
  induction l with
  | nil => rfl
  | cons e r ih =>
    obtain ⟨k, v⟩ := e
    by_cases h : k = n
    · simpa [List.filter_cons, h] using ih
    · simpa [List.filter_cons, h, Sparse.look, Ne.symm h] using ih

/-- Removing one key leaves what every other key reads as. -/
theorem Sparse.look_filter_ne (d : α) (l : Sparse α) (n m : Nat) (hm : m ≠ n) :
    Sparse.look d (l.filter (fun e => e.1 != n)) m = Sparse.look d l m := by
  induction l with
  | nil => rfl
  | cons e r ih =>
    obtain ⟨k, v⟩ := e
    by_cases h : k = n
    · subst h; simpa [List.filter_cons, Sparse.look, hm] using ih
    · by_cases h2 : m = k
      · simp [h, h2, Sparse.look]
      · simpa [List.filter_cons, h, h2, Sparse.look] using ih

variable [DecidableEq α]

/-- A read after a write to the same key gives the value written. -/
@[simp] theorem Sparse.look_put_same (d : α) (l : Sparse α) (n : Nat) (x : α) : Sparse.look d (Sparse.put d l n x) n = x := by
  unfold Sparse.put
  split
  · next h => rw [Sparse.look_filter_same, h]
  · exact Sparse.look_enter_same d l n x

/-- A write leaves what every other key reads as, whatever default the reader names. -/
theorem Sparse.look_put_ne (d e : α) (l : Sparse α) (n m : Nat) (x : α) (hm : m ≠ n) :
    Sparse.look e (Sparse.put d l n x) m = Sparse.look e l m := by
  unfold Sparse.put
  split
  · exact Sparse.look_filter_ne e l n m hm
  · exact Sparse.look_enter_ne e l n m x hm

theorem Sparse.look_put (d : α) (l : Sparse α) (n m : Nat) (x : α) :
    Sparse.look d (Sparse.put d l n x) m = if m = n then x else Sparse.look d l m := by
  by_cases h : m = n
  · subst h; simp
  · simp [h, Sparse.look_put_ne d d l n m x h]

/-! ## The canonical form -/

/-- Above a lower bound there is room for a higher one. -/
theorem Sparse.okFrom_weaken (d : α) (l : Sparse α) (a b : Nat) (h : a ≤ b) (hl : Sparse.okFrom d (some b) l = true) :
    Sparse.okFrom d (some a) l = true := by
  cases l with
  | nil => rfl
  | cons e r =>
    obtain ⟨k, v⟩ := e
    simp only [Sparse.okFrom, Bool.and_eq_true, decide_eq_true_eq] at hl ⊢
    exact ⟨⟨by omega, hl.1.2⟩, hl.2⟩

theorem Sparse.okFrom_none (d : α) (l : Sparse α) (a : Nat) (hl : Sparse.okFrom d (some a) l = true) :
    Sparse.okFrom d none l = true := by
  cases l with
  | nil => rfl
  | cons e r =>
    obtain ⟨k, v⟩ := e
    simp only [Sparse.okFrom, Bool.and_eq_true, decide_eq_true_eq, true_and] at hl ⊢
    exact ⟨hl.1.2, hl.2⟩

/-- Entering a value that is not the default keeps the canonical form. -/
theorem Sparse.okFrom_enter (d : α) (l : Sparse α) (lo : Option Nat) (n : Nat) (x : α) (hx : x ≠ d)
    (hlo : ∀ b, lo = some b → b < n) (hl : Sparse.okFrom d lo l = true) :
    Sparse.okFrom d lo (Sparse.enter l n x) = true := by
  induction l generalizing lo with
  | nil =>
    cases lo with
    | none => simp [Sparse.enter, Sparse.okFrom, hx]
    | some b => simp [Sparse.enter, Sparse.okFrom, hx, hlo b rfl]
  | cons e r ih =>
    obtain ⟨k, v⟩ := e
    by_cases h : n = k
    · subst h
      simp only [Sparse.okFrom, Bool.and_eq_true] at hl
      simp only [Sparse.enter, if_pos, Sparse.okFrom, Bool.and_eq_true]
      exact ⟨⟨hl.1.1, by simpa using hx⟩, hl.2⟩
    · by_cases h2 : n < k
      · simp only [Sparse.okFrom, Bool.and_eq_true, decide_eq_true_eq] at hl
        simp only [Sparse.enter, if_neg h, if_pos h2, Sparse.okFrom, Bool.and_eq_true, decide_eq_true_eq]
        refine ⟨⟨?_, hx⟩, ⟨h2, hl.1.2⟩, hl.2⟩
        cases lo with
        | none => rfl
        | some b => simpa using hlo b rfl
      · simp only [Sparse.okFrom, Bool.and_eq_true] at hl
        simp only [Sparse.enter, if_neg h, if_neg h2, Sparse.okFrom, Bool.and_eq_true]
        exact ⟨hl.1, ih (some k) (by rintro b ⟨⟩; omega) hl.2⟩

/-- A part of a canonical store is canonical. -/
theorem Sparse.okFrom_filter (d : α) (l : Sparse α) (lo : Option Nat) (p : Nat × α → Bool)
    (hl : Sparse.okFrom d lo l = true) : Sparse.okFrom d lo (l.filter p) = true := by
  induction l generalizing lo with
  | nil => rfl
  | cons e r ih =>
    obtain ⟨k, v⟩ := e
    simp only [Sparse.okFrom, Bool.and_eq_true] at hl
    have hr := ih (some k) hl.2
    by_cases h : p (k, v) = true
    · simp only [List.filter, h, Sparse.okFrom, Bool.and_eq_true]
      exact ⟨hl.1, hr⟩
    · simp only [List.filter, h]
      cases lo with
      | none => exact Sparse.okFrom_none d _ k hr
      | some b =>
        have : b < k := by simpa using hl.1.1
        exact Sparse.okFrom_weaken d _ b k (by omega) hr

/-- Every write keeps the canonical form. -/
theorem Sparse.ok_put (d : α) (l : Sparse α) (n : Nat) (x : α) (hl : Sparse.ok d l = true) :
    Sparse.ok d (Sparse.put d l n x) = true := by
  unfold Sparse.ok Sparse.put at *
  split
  · exact Sparse.okFrom_filter d l none _ hl
  · next h => exact Sparse.okFrom_enter d l none n x h (by rintro b ⟨⟩) hl

theorem Sparse.ok_filter (d : α) (l : Sparse α) (p : Nat × α → Bool) (hl : Sparse.ok d l = true) :
    Sparse.ok d (l.filter p) = true := Sparse.okFrom_filter d l none p hl

/-- Every write of a byte string keeps the canonical form. -/
theorem Sparse.ok_putBytes (d : Byte) (l : Sparse Byte) (a : Nat) (bs : Bytes) (hl : Sparse.ok d l = true) :
    Sparse.ok d (Sparse.putBytes d l a bs) = true := by
  induction bs generalizing l a with
  | nil => exact hl
  | cons b r ih => exact ih _ _ (Sparse.ok_put d l a b hl)

/-- What a write adds to a store is the entry written. -/
theorem Sparse.mem_put (d : α) (l : Sparse α) (n : Nat) (x : α) (e : Nat × α) (he : e ∈ Sparse.put d l n x) :
    e ∈ l ∨ e = (n, x) := by
  unfold Sparse.put at he
  split at he
  · exact .inl (List.mem_filter.1 he).1
  · induction l with
    | nil => simpa [Sparse.enter] using he
    | cons c r ih =>
      obtain ⟨k, v⟩ := c
      by_cases h : n = k
      · simp only [Sparse.enter, if_pos h, List.mem_cons] at he ⊢
        rcases he with he | he
        · exact .inr he
        · exact .inl (.inr he)
      · by_cases h2 : n < k
        · simp only [Sparse.enter, if_neg h, if_pos h2, List.mem_cons] at he ⊢
          rcases he with he | he | he
          · exact .inr he
          · exact .inl (.inl he)
          · exact .inl (.inr he)
        · simp only [Sparse.enter, if_neg h, if_neg h2, List.mem_cons] at he ⊢
          rcases he with he | he
          · exact .inl (.inl he)
          · rcases ih he with h3 | h3
            · exact .inl (.inr h3)
            · exact .inr h3

/-- Two canonical stores that read the same everywhere are the same data. -/
theorem Sparse.ok_ext (d : α) (l r : Sparse α) (hl : Sparse.ok d l = true) (hr : Sparse.ok d r = true)
    (h : ∀ n, Sparse.look d l n = Sparse.look d r n) : l = r := by
  have low : ∀ (l : Sparse α) (b n : Nat), Sparse.okFrom d (some b) l = true → n ≤ b → Sparse.look d l n = d := by
    intro l
    induction l with
    | nil => intros; rfl
    | cons e r ih =>
      obtain ⟨k, v⟩ := e
      intro b n ho hn
      simp only [Sparse.okFrom, Bool.and_eq_true, decide_eq_true_eq] at ho
      have : n ≠ k := by omega
      simp only [Sparse.look, if_neg this]
      exact ih k n ho.2 (by omega)
  have main : ∀ (l r : Sparse α) (lo lo' : Option Nat), Sparse.okFrom d lo l = true → Sparse.okFrom d lo' r = true →
      (∀ n, Sparse.look d l n = Sparse.look d r n) → l = r := by
    intro l
    induction l with
    | nil =>
      intro r lo lo' _ ho h
      cases r with
      | nil => rfl
      | cons e r =>
        obtain ⟨k, v⟩ := e
        simp only [Sparse.okFrom, Bool.and_eq_true, decide_eq_true_eq] at ho
        have := h k
        simp [Sparse.look] at this
        exact absurd this.symm ho.1.2
    | cons e l ih =>
      obtain ⟨k, v⟩ := e
      intro r lo lo' ho ho' h
      simp only [Sparse.okFrom, Bool.and_eq_true, decide_eq_true_eq] at ho
      cases r with
      | nil =>
        have := h k
        simp [Sparse.look] at this
        exact absurd this ho.1.2
      | cons e r =>
        obtain ⟨k', v'⟩ := e
        simp only [Sparse.okFrom, Bool.and_eq_true, decide_eq_true_eq] at ho'
        have hk : k = k' := by
          rcases Nat.lt_trichotomy k k' with hlt | heq | hgt
          · have := h k
            have hne : k ≠ k' := by omega
            simp only [Sparse.look, if_neg hne, if_true] at this
            rw [low r k' k ho'.2 (by omega)] at this
            exact absurd this ho.1.2
          · exact heq
          · have := h k'
            have hne : k' ≠ k := by omega
            simp only [Sparse.look, if_neg hne, if_true] at this
            rw [low l k k' ho.2 (by omega)] at this
            exact absurd this.symm ho'.1.2
        subst hk
        have hv : v = v' := by
          have := h k
          simpa [Sparse.look] using this
        subst hv
        have : l = r := by
          refine ih r (some k) (some k) ho.2 ho'.2 (fun n => ?_)
          by_cases hn : n = k
          · subst hn; rw [low l n n ho.2 (by omega), low r n n ho'.2 (by omega)]
          · have := h n
            simpa only [Sparse.look, if_neg hn] using this
        rw [this]
  exact main l r none none hl hr h

end Sys2Proof.Machine
end

