-- ==== Sys2Proof/Laws/State.lean ====
section
/-! SUPPORT. What each plain update of the state leaves alone: every other field of the state, by definition. -/

namespace Sys2Proof.Machine

@[simp] theorem State.setHead_frame (s : State) (h : Nat) (x : HeadRt) :
    (s.setHead h x).regs = s.regs ∧ (s.setHead h x).time = s.time ∧ (s.setHead h x).mem = s.mem ∧
    (s.setHead h x).vefs = s.vefs ∧ (s.setHead h x).rings = s.rings ∧ (s.setHead h x).queue = s.queue ∧
    (s.setHead h x).flight = s.flight ∧ (s.setHead h x).mode = s.mode ∧ (s.setHead h x).power = s.power ∧
    (s.setHead h x).vly = s.vly ∧ (s.setHead h x).saf = s.saf ∧ (s.setHead h x).fus = s.fus ∧
    (s.setHead h x).bist = s.bist ∧ (s.setHead h x).fw = s.fw ∧ (s.setHead h x).pass = s.pass ∧
    (s.setHead h x).gw = s.gw ∧ (s.setHead h x).engKill = s.engKill ∧ (s.setHead h x).fetched = s.fetched ∧
    (s.setHead h x).flds = s.flds ∧ (s.setHead h x).loads = s.loads ∧ (s.setHead h x).thaws = s.thaws ∧
    (s.setHead h x).cells = s.cells ∧ (s.setHead h x).freeCount = s.freeCount ∧ (s.setHead h x).std = s.std ∧
    (s.setHead h x).imsic = s.imsic ∧ (s.setHead h x).hostMem = s.hostMem ∧ (s.setHead h x).remoteMem = s.remoteMem ∧
    (s.setHead h x).remoteErr = s.remoteErr ∧ (s.setHead h x).out = s.out ∧ (s.setHead h x).pending = s.pending :=
  ⟨rfl, rfl, rfl, rfl, rfl, rfl, rfl, rfl, rfl, rfl, rfl, rfl, rfl, rfl, rfl, rfl, rfl, rfl, rfl, rfl, rfl, rfl, rfl,
  rfl, rfl, rfl, rfl, rfl, rfl, rfl⟩

@[simp] theorem State.report_frame (s : State) (source : Nat) (field : Option Nat) :
    (s.report source field).regs = s.regs ∧ (s.report source field).time = s.time ∧
    (s.report source field).mem = s.mem ∧ (s.report source field).vefs = s.vefs ∧
    (s.report source field).rings = s.rings ∧ (s.report source field).queue = s.queue ∧
    (s.report source field).flight = s.flight ∧ (s.report source field).mode = s.mode ∧
    (s.report source field).power = s.power ∧ (s.report source field).vly = s.vly ∧
    (s.report source field).fus = s.fus ∧ (s.report source field).disp = s.disp ∧
    (s.report source field).bist = s.bist ∧ (s.report source field).fw = s.fw ∧
    (s.report source field).pass = s.pass ∧ (s.report source field).gw = s.gw ∧
    (s.report source field).engKill = s.engKill ∧ (s.report source field).fetched = s.fetched ∧
    (s.report source field).flds = s.flds ∧ (s.report source field).loads = s.loads ∧
    (s.report source field).thaws = s.thaws ∧ (s.report source field).cells = s.cells ∧
    (s.report source field).freeCount = s.freeCount ∧ (s.report source field).std = s.std ∧
    (s.report source field).imsic = s.imsic ∧ (s.report source field).hostMem = s.hostMem ∧
    (s.report source field).remoteMem = s.remoteMem ∧ (s.report source field).remoteErr = s.remoteErr ∧
    (s.report source field).out = s.out ∧ (s.report source field).pending = s.pending :=
  ⟨rfl, rfl, rfl, rfl, rfl, rfl, rfl, rfl, rfl, rfl, rfl, rfl, rfl, rfl, rfl, rfl, rfl, rfl, rfl, rfl, rfl, rfl, rfl,
  rfl, rfl, rfl, rfl, rfl, rfl, rfl⟩

@[simp] theorem State.endFlight_frame (s : State) (f : Fin 17) (bad : Option Nat) :
    (s.endFlight f bad).regs = s.regs ∧ (s.endFlight f bad).time = s.time ∧ (s.endFlight f bad).mem = s.mem ∧
    (s.endFlight f bad).vefs = s.vefs ∧ (s.endFlight f bad).rings = s.rings ∧ (s.endFlight f bad).queue = s.queue ∧
    (s.endFlight f bad).mode = s.mode ∧ (s.endFlight f bad).power = s.power ∧ (s.endFlight f bad).vly = s.vly ∧
    (s.endFlight f bad).saf = s.saf ∧ (s.endFlight f bad).fus = s.fus ∧ (s.endFlight f bad).disp = s.disp ∧
    (s.endFlight f bad).bist = s.bist ∧ (s.endFlight f bad).fw = s.fw ∧ (s.endFlight f bad).pass = s.pass ∧
    (s.endFlight f bad).gw = s.gw ∧ (s.endFlight f bad).engKill = s.engKill ∧
    (s.endFlight f bad).fetched = s.fetched ∧ (s.endFlight f bad).flds = s.flds ∧
    (s.endFlight f bad).loads = s.loads ∧ (s.endFlight f bad).thaws = s.thaws ∧ (s.endFlight f bad).cells = s.cells ∧
    (s.endFlight f bad).freeCount = s.freeCount ∧ (s.endFlight f bad).std = s.std ∧
    (s.endFlight f bad).imsic = s.imsic ∧ (s.endFlight f bad).hostMem = s.hostMem ∧
    (s.endFlight f bad).remoteMem = s.remoteMem ∧ (s.endFlight f bad).remoteErr = s.remoteErr ∧
    (s.endFlight f bad).out = s.out ∧ (s.endFlight f bad).pending = s.pending :=
  ⟨rfl, rfl, rfl, rfl, rfl, rfl, rfl, rfl, rfl, rfl, rfl, rfl, rfl, rfl, rfl, rfl, rfl, rfl, rfl, rfl, rfl, rfl, rfl,
  rfl, rfl, rfl, rfl, rfl, rfl, rfl⟩

@[simp] theorem State.setTransfer_frame (s : State) (t : Option Transfer) :
    (s.setTransfer t).regs = s.regs ∧ (s.setTransfer t).time = s.time ∧ (s.setTransfer t).mem = s.mem ∧
    (s.setTransfer t).vefs = s.vefs ∧ (s.setTransfer t).rings = s.rings ∧ (s.setTransfer t).queue = s.queue ∧
    (s.setTransfer t).flight = s.flight ∧ (s.setTransfer t).mode = s.mode ∧ (s.setTransfer t).power = s.power ∧
    (s.setTransfer t).vly = s.vly ∧ (s.setTransfer t).saf = s.saf ∧ (s.setTransfer t).fus = s.fus ∧
    (s.setTransfer t).disp = s.disp ∧ (s.setTransfer t).bist = s.bist ∧ (s.setTransfer t).pass = s.pass ∧
    (s.setTransfer t).gw = s.gw ∧ (s.setTransfer t).engKill = s.engKill ∧ (s.setTransfer t).fetched = s.fetched ∧
    (s.setTransfer t).flds = s.flds ∧ (s.setTransfer t).loads = s.loads ∧ (s.setTransfer t).thaws = s.thaws ∧
    (s.setTransfer t).cells = s.cells ∧ (s.setTransfer t).freeCount = s.freeCount ∧ (s.setTransfer t).std = s.std ∧
    (s.setTransfer t).imsic = s.imsic ∧ (s.setTransfer t).hostMem = s.hostMem ∧
    (s.setTransfer t).remoteMem = s.remoteMem ∧ (s.setTransfer t).remoteErr = s.remoteErr ∧
    (s.setTransfer t).out = s.out ∧ (s.setTransfer t).pending = s.pending :=
  ⟨rfl, rfl, rfl, rfl, rfl, rfl, rfl, rfl, rfl, rfl, rfl, rfl, rfl, rfl, rfl, rfl, rfl, rfl, rfl, rfl, rfl, rfl, rfl,
  rfl, rfl, rfl, rfl, rfl, rfl, rfl⟩

@[simp] theorem State.flashWrite_frame (s : State) (o : Nat) (bs : Bytes) :
    (s.flashWrite o bs).regs = s.regs ∧ (s.flashWrite o bs).time = s.time ∧ (s.flashWrite o bs).mem = s.mem ∧
    (s.flashWrite o bs).vefs = s.vefs ∧ (s.flashWrite o bs).rings = s.rings ∧ (s.flashWrite o bs).queue = s.queue ∧
    (s.flashWrite o bs).flight = s.flight ∧ (s.flashWrite o bs).mode = s.mode ∧ (s.flashWrite o bs).power = s.power ∧
    (s.flashWrite o bs).vly = s.vly ∧ (s.flashWrite o bs).saf = s.saf ∧ (s.flashWrite o bs).fus = s.fus ∧
    (s.flashWrite o bs).disp = s.disp ∧ (s.flashWrite o bs).bist = s.bist ∧ (s.flashWrite o bs).pass = s.pass ∧
    (s.flashWrite o bs).gw = s.gw ∧ (s.flashWrite o bs).engKill = s.engKill ∧
    (s.flashWrite o bs).fetched = s.fetched ∧ (s.flashWrite o bs).flds = s.flds ∧
    (s.flashWrite o bs).loads = s.loads ∧ (s.flashWrite o bs).thaws = s.thaws ∧ (s.flashWrite o bs).cells = s.cells ∧
    (s.flashWrite o bs).freeCount = s.freeCount ∧ (s.flashWrite o bs).std = s.std ∧
    (s.flashWrite o bs).imsic = s.imsic ∧ (s.flashWrite o bs).hostMem = s.hostMem ∧
    (s.flashWrite o bs).remoteMem = s.remoteMem ∧ (s.flashWrite o bs).remoteErr = s.remoteErr ∧
    (s.flashWrite o bs).out = s.out ∧ (s.flashWrite o bs).pending = s.pending :=
  ⟨rfl, rfl, rfl, rfl, rfl, rfl, rfl, rfl, rfl, rfl, rfl, rfl, rfl, rfl, rfl, rfl, rfl, rfl, rfl, rfl, rfl, rfl, rfl,
  rfl, rfl, rfl, rfl, rfl, rfl, rfl⟩

@[simp] theorem State.freshMerge_frame (s : State) :
    (s.freshMerge).regs = s.regs ∧ (s.freshMerge).time = s.time ∧ (s.freshMerge).mem = s.mem ∧
    (s.freshMerge).vefs = s.vefs ∧ (s.freshMerge).rings = s.rings ∧ (s.freshMerge).queue = s.queue ∧
    (s.freshMerge).flight = s.flight ∧ (s.freshMerge).mode = s.mode ∧ (s.freshMerge).power = s.power ∧
    (s.freshMerge).vly = s.vly ∧ (s.freshMerge).fus = s.fus ∧ (s.freshMerge).disp = s.disp ∧
    (s.freshMerge).bist = s.bist ∧ (s.freshMerge).fw = s.fw ∧ (s.freshMerge).pass = s.pass ∧
    (s.freshMerge).gw = s.gw ∧ (s.freshMerge).engKill = s.engKill ∧ (s.freshMerge).fetched = s.fetched ∧
    (s.freshMerge).flds = s.flds ∧ (s.freshMerge).loads = s.loads ∧ (s.freshMerge).thaws = s.thaws ∧
    (s.freshMerge).cells = s.cells ∧ (s.freshMerge).freeCount = s.freeCount ∧ (s.freshMerge).std = s.std ∧
    (s.freshMerge).imsic = s.imsic ∧ (s.freshMerge).hostMem = s.hostMem ∧ (s.freshMerge).remoteMem = s.remoteMem ∧
    (s.freshMerge).remoteErr = s.remoteErr ∧ (s.freshMerge).out = s.out ∧ (s.freshMerge).pending = s.pending :=
  ⟨rfl, rfl, rfl, rfl, rfl, rfl, rfl, rfl, rfl, rfl, rfl, rfl, rfl, rfl, rfl, rfl, rfl, rfl, rfl, rfl, rfl, rfl, rfl,
  rfl, rfl, rfl, rfl, rfl, rfl, rfl⟩

@[simp] theorem State.setSrc_frame (s : State) (i : Nat) (x : SrcRt) :
    (s.setSrc i x).regs = s.regs ∧ (s.setSrc i x).time = s.time ∧ (s.setSrc i x).mem = s.mem ∧
    (s.setSrc i x).vefs = s.vefs ∧ (s.setSrc i x).rings = s.rings ∧ (s.setSrc i x).queue = s.queue ∧
    (s.setSrc i x).flight = s.flight ∧ (s.setSrc i x).mode = s.mode ∧ (s.setSrc i x).power = s.power ∧
    (s.setSrc i x).vly = s.vly ∧ (s.setSrc i x).saf = s.saf ∧ (s.setSrc i x).disp = s.disp ∧
    (s.setSrc i x).bist = s.bist ∧ (s.setSrc i x).fw = s.fw ∧ (s.setSrc i x).pass = s.pass ∧
    (s.setSrc i x).gw = s.gw ∧ (s.setSrc i x).engKill = s.engKill ∧ (s.setSrc i x).fetched = s.fetched ∧
    (s.setSrc i x).flds = s.flds ∧ (s.setSrc i x).loads = s.loads ∧ (s.setSrc i x).thaws = s.thaws ∧
    (s.setSrc i x).cells = s.cells ∧ (s.setSrc i x).freeCount = s.freeCount ∧ (s.setSrc i x).std = s.std ∧
    (s.setSrc i x).imsic = s.imsic ∧ (s.setSrc i x).hostMem = s.hostMem ∧ (s.setSrc i x).remoteMem = s.remoteMem ∧
    (s.setSrc i x).remoteErr = s.remoteErr ∧ (s.setSrc i x).out = s.out ∧ (s.setSrc i x).pending = s.pending :=
  ⟨rfl, rfl, rfl, rfl, rfl, rfl, rfl, rfl, rfl, rfl, rfl, rfl, rfl, rfl, rfl, rfl, rfl, rfl, rfl, rfl, rfl, rfl, rfl,
  rfl, rfl, rfl, rfl, rfl, rfl, rfl⟩

@[simp] theorem State.setGateWord_frame (s : State) (p w v : Nat) :
    (s.setGateWord p w v).regs = s.regs ∧ (s.setGateWord p w v).time = s.time ∧ (s.setGateWord p w v).mem = s.mem ∧
    (s.setGateWord p w v).vefs = s.vefs ∧ (s.setGateWord p w v).rings = s.rings ∧
    (s.setGateWord p w v).queue = s.queue ∧ (s.setGateWord p w v).flight = s.flight ∧
    (s.setGateWord p w v).mode = s.mode ∧ (s.setGateWord p w v).power = s.power ∧ (s.setGateWord p w v).vly = s.vly ∧
    (s.setGateWord p w v).saf = s.saf ∧ (s.setGateWord p w v).fus = s.fus ∧ (s.setGateWord p w v).disp = s.disp ∧
    (s.setGateWord p w v).bist = s.bist ∧ (s.setGateWord p w v).fw = s.fw ∧ (s.setGateWord p w v).pass = s.pass ∧
    (s.setGateWord p w v).gw = s.gw ∧ (s.setGateWord p w v).engKill = s.engKill ∧
    (s.setGateWord p w v).fetched = s.fetched ∧ (s.setGateWord p w v).flds = s.flds ∧
    (s.setGateWord p w v).loads = s.loads ∧ (s.setGateWord p w v).thaws = s.thaws ∧
    (s.setGateWord p w v).cells = s.cells ∧ (s.setGateWord p w v).freeCount = s.freeCount ∧
    (s.setGateWord p w v).imsic = s.imsic ∧ (s.setGateWord p w v).hostMem = s.hostMem ∧
    (s.setGateWord p w v).remoteMem = s.remoteMem ∧ (s.setGateWord p w v).remoteErr = s.remoteErr ∧
    (s.setGateWord p w v).out = s.out ∧ (s.setGateWord p w v).pending = s.pending :=
  ⟨rfl, rfl, rfl, rfl, rfl, rfl, rfl, rfl, rfl, rfl, rfl, rfl, rfl, rfl, rfl, rfl, rfl, rfl, rfl, rfl, rfl, rfl, rfl,
  rfl, rfl, rfl, rfl, rfl, rfl, rfl⟩

@[simp] theorem State.dropLoad_frame (s : State) (serial : Nat) :
    (s.dropLoad serial).regs = s.regs ∧ (s.dropLoad serial).time = s.time ∧ (s.dropLoad serial).mem = s.mem ∧
    (s.dropLoad serial).vefs = s.vefs ∧ (s.dropLoad serial).rings = s.rings ∧ (s.dropLoad serial).queue = s.queue ∧
    (s.dropLoad serial).flight = s.flight ∧ (s.dropLoad serial).mode = s.mode ∧ (s.dropLoad serial).power = s.power ∧
    (s.dropLoad serial).vly = s.vly ∧ (s.dropLoad serial).saf = s.saf ∧ (s.dropLoad serial).fus = s.fus ∧
    (s.dropLoad serial).disp = s.disp ∧ (s.dropLoad serial).bist = s.bist ∧ (s.dropLoad serial).fw = s.fw ∧
    (s.dropLoad serial).pass = s.pass ∧ (s.dropLoad serial).gw = s.gw ∧ (s.dropLoad serial).engKill = s.engKill ∧
    (s.dropLoad serial).fetched = s.fetched ∧ (s.dropLoad serial).flds = s.flds ∧
    (s.dropLoad serial).thaws = s.thaws ∧ (s.dropLoad serial).cells = s.cells ∧
    (s.dropLoad serial).freeCount = s.freeCount ∧ (s.dropLoad serial).std = s.std ∧
    (s.dropLoad serial).imsic = s.imsic ∧ (s.dropLoad serial).hostMem = s.hostMem ∧
    (s.dropLoad serial).remoteMem = s.remoteMem ∧ (s.dropLoad serial).remoteErr = s.remoteErr ∧
    (s.dropLoad serial).out = s.out ∧ (s.dropLoad serial).pending = s.pending :=
  ⟨rfl, rfl, rfl, rfl, rfl, rfl, rfl, rfl, rfl, rfl, rfl, rfl, rfl, rfl, rfl, rfl, rfl, rfl, rfl, rfl, rfl, rfl, rfl,
  rfl, rfl, rfl, rfl, rfl, rfl, rfl⟩

@[simp] theorem State.changeLoad_frame (s : State) (serial : Nat) (g : Load → Load) :
    (s.changeLoad serial g).regs = s.regs ∧ (s.changeLoad serial g).time = s.time ∧
    (s.changeLoad serial g).mem = s.mem ∧ (s.changeLoad serial g).vefs = s.vefs ∧
    (s.changeLoad serial g).rings = s.rings ∧ (s.changeLoad serial g).queue = s.queue ∧
    (s.changeLoad serial g).flight = s.flight ∧ (s.changeLoad serial g).mode = s.mode ∧
    (s.changeLoad serial g).power = s.power ∧ (s.changeLoad serial g).vly = s.vly ∧
    (s.changeLoad serial g).saf = s.saf ∧ (s.changeLoad serial g).fus = s.fus ∧
    (s.changeLoad serial g).disp = s.disp ∧ (s.changeLoad serial g).bist = s.bist ∧
    (s.changeLoad serial g).fw = s.fw ∧ (s.changeLoad serial g).pass = s.pass ∧ (s.changeLoad serial g).gw = s.gw ∧
    (s.changeLoad serial g).engKill = s.engKill ∧ (s.changeLoad serial g).fetched = s.fetched ∧
    (s.changeLoad serial g).flds = s.flds ∧ (s.changeLoad serial g).thaws = s.thaws ∧
    (s.changeLoad serial g).cells = s.cells ∧ (s.changeLoad serial g).freeCount = s.freeCount ∧
    (s.changeLoad serial g).std = s.std ∧ (s.changeLoad serial g).imsic = s.imsic ∧
    (s.changeLoad serial g).hostMem = s.hostMem ∧ (s.changeLoad serial g).remoteMem = s.remoteMem ∧
    (s.changeLoad serial g).remoteErr = s.remoteErr ∧ (s.changeLoad serial g).out = s.out ∧
    (s.changeLoad serial g).pending = s.pending :=
  ⟨rfl, rfl, rfl, rfl, rfl, rfl, rfl, rfl, rfl, rfl, rfl, rfl, rfl, rfl, rfl, rfl, rfl, rfl, rfl, rfl, rfl, rfl, rfl,
  rfl, rfl, rfl, rfl, rfl, rfl, rfl⟩

@[simp] theorem State.pocketPoison_frame (s : State) (cell o : Nat) (bad : List Nat) :
    (s.pocketPoison cell o bad).regs = s.regs ∧ (s.pocketPoison cell o bad).time = s.time ∧
    (s.pocketPoison cell o bad).vefs = s.vefs ∧ (s.pocketPoison cell o bad).rings = s.rings ∧
    (s.pocketPoison cell o bad).queue = s.queue ∧ (s.pocketPoison cell o bad).flight = s.flight ∧
    (s.pocketPoison cell o bad).mode = s.mode ∧ (s.pocketPoison cell o bad).power = s.power ∧
    (s.pocketPoison cell o bad).vly = s.vly ∧ (s.pocketPoison cell o bad).saf = s.saf ∧
    (s.pocketPoison cell o bad).fus = s.fus ∧ (s.pocketPoison cell o bad).disp = s.disp ∧
    (s.pocketPoison cell o bad).bist = s.bist ∧ (s.pocketPoison cell o bad).fw = s.fw ∧
    (s.pocketPoison cell o bad).pass = s.pass ∧ (s.pocketPoison cell o bad).gw = s.gw ∧
    (s.pocketPoison cell o bad).engKill = s.engKill ∧ (s.pocketPoison cell o bad).fetched = s.fetched ∧
    (s.pocketPoison cell o bad).flds = s.flds ∧ (s.pocketPoison cell o bad).loads = s.loads ∧
    (s.pocketPoison cell o bad).thaws = s.thaws ∧ (s.pocketPoison cell o bad).cells = s.cells ∧
    (s.pocketPoison cell o bad).freeCount = s.freeCount ∧ (s.pocketPoison cell o bad).std = s.std ∧
    (s.pocketPoison cell o bad).imsic = s.imsic ∧ (s.pocketPoison cell o bad).hostMem = s.hostMem ∧
    (s.pocketPoison cell o bad).remoteMem = s.remoteMem ∧ (s.pocketPoison cell o bad).remoteErr = s.remoteErr ∧
    (s.pocketPoison cell o bad).out = s.out ∧ (s.pocketPoison cell o bad).pending = s.pending :=
  ⟨rfl, rfl, rfl, rfl, rfl, rfl, rfl, rfl, rfl, rfl, rfl, rfl, rfl, rfl, rfl, rfl, rfl, rfl, rfl, rfl, rfl, rfl, rfl,
  rfl, rfl, rfl, rfl, rfl, rfl, rfl⟩

@[simp] theorem State.setV_frame (s : State) (v : Nat) (x : VefRt) :
    (s.setV v x).regs = s.regs ∧ (s.setV v x).time = s.time ∧ (s.setV v x).mem = s.mem ∧
    (s.setV v x).rings = s.rings ∧ (s.setV v x).queue = s.queue ∧ (s.setV v x).flight = s.flight ∧
    (s.setV v x).mode = s.mode ∧ (s.setV v x).power = s.power ∧ (s.setV v x).vly = s.vly ∧ (s.setV v x).saf = s.saf ∧
    (s.setV v x).fus = s.fus ∧ (s.setV v x).disp = s.disp ∧ (s.setV v x).bist = s.bist ∧ (s.setV v x).fw = s.fw ∧
    (s.setV v x).pass = s.pass ∧ (s.setV v x).gw = s.gw ∧ (s.setV v x).engKill = s.engKill ∧
    (s.setV v x).fetched = s.fetched ∧ (s.setV v x).flds = s.flds ∧ (s.setV v x).loads = s.loads ∧
    (s.setV v x).thaws = s.thaws ∧ (s.setV v x).cells = s.cells ∧ (s.setV v x).freeCount = s.freeCount ∧
    (s.setV v x).std = s.std ∧ (s.setV v x).imsic = s.imsic ∧ (s.setV v x).hostMem = s.hostMem ∧
    (s.setV v x).remoteMem = s.remoteMem ∧ (s.setV v x).remoteErr = s.remoteErr ∧ (s.setV v x).out = s.out ∧
    (s.setV v x).pending = s.pending :=
  ⟨rfl, rfl, rfl, rfl, rfl, rfl, rfl, rfl, rfl, rfl, rfl, rfl, rfl, rfl, rfl, rfl, rfl, rfl, rfl, rfl, rfl, rfl, rfl,
  rfl, rfl, rfl, rfl, rfl, rfl, rfl⟩

@[simp] theorem State.wr_frame (s : State) (f : Fld) (v : Nat) (i : Nat) (j : Nat) :
    (s.wr f v i j).time = s.time ∧ (s.wr f v i j).mem = s.mem ∧ (s.wr f v i j).vefs = s.vefs ∧
    (s.wr f v i j).rings = s.rings ∧ (s.wr f v i j).queue = s.queue ∧ (s.wr f v i j).flight = s.flight ∧
    (s.wr f v i j).mode = s.mode ∧ (s.wr f v i j).power = s.power ∧ (s.wr f v i j).vly = s.vly ∧
    (s.wr f v i j).saf = s.saf ∧ (s.wr f v i j).fus = s.fus ∧ (s.wr f v i j).disp = s.disp ∧
    (s.wr f v i j).bist = s.bist ∧ (s.wr f v i j).fw = s.fw ∧ (s.wr f v i j).pass = s.pass ∧
    (s.wr f v i j).gw = s.gw ∧ (s.wr f v i j).engKill = s.engKill ∧ (s.wr f v i j).fetched = s.fetched ∧
    (s.wr f v i j).flds = s.flds ∧ (s.wr f v i j).loads = s.loads ∧ (s.wr f v i j).thaws = s.thaws ∧
    (s.wr f v i j).cells = s.cells ∧ (s.wr f v i j).freeCount = s.freeCount ∧ (s.wr f v i j).std = s.std ∧
    (s.wr f v i j).imsic = s.imsic ∧ (s.wr f v i j).hostMem = s.hostMem ∧ (s.wr f v i j).remoteMem = s.remoteMem ∧
    (s.wr f v i j).remoteErr = s.remoteErr ∧ (s.wr f v i j).out = s.out ∧ (s.wr f v i j).pending = s.pending :=
  ⟨rfl, rfl, rfl, rfl, rfl, rfl, rfl, rfl, rfl, rfl, rfl, rfl, rfl, rfl, rfl, rfl, rfl, rfl, rfl, rfl, rfl, rfl, rfl,
  rfl, rfl, rfl, rfl, rfl, rfl, rfl⟩

@[simp] theorem State.drawn_frame (s : State) :
    (s.drawn).regs = s.regs ∧ (s.drawn).time = s.time ∧ (s.drawn).mem = s.mem ∧ (s.drawn).vefs = s.vefs ∧
    (s.drawn).rings = s.rings ∧ (s.drawn).queue = s.queue ∧ (s.drawn).flight = s.flight ∧ (s.drawn).mode = s.mode ∧
    (s.drawn).power = s.power ∧ (s.drawn).vly = s.vly ∧ (s.drawn).saf = s.saf ∧ (s.drawn).fus = s.fus ∧
    (s.drawn).disp = s.disp ∧ (s.drawn).bist = s.bist ∧ (s.drawn).fw = s.fw ∧ (s.drawn).pass = s.pass ∧
    (s.drawn).gw = s.gw ∧ (s.drawn).engKill = s.engKill ∧ (s.drawn).fetched = s.fetched ∧ (s.drawn).flds = s.flds ∧
    (s.drawn).loads = s.loads ∧ (s.drawn).thaws = s.thaws ∧ (s.drawn).cells = s.cells ∧ (s.drawn).std = s.std ∧
    (s.drawn).imsic = s.imsic ∧ (s.drawn).hostMem = s.hostMem ∧ (s.drawn).remoteMem = s.remoteMem ∧
    (s.drawn).remoteErr = s.remoteErr ∧ (s.drawn).out = s.out ∧ (s.drawn).pending = s.pending :=
  ⟨rfl, rfl, rfl, rfl, rfl, rfl, rfl, rfl, rfl, rfl, rfl, rfl, rfl, rfl, rfl, rfl, rfl, rfl, rfl, rfl, rfl, rfl, rfl,
  rfl, rfl, rfl, rfl, rfl, rfl, rfl⟩

@[simp] theorem State.emit_frame (s : State) (o : Out) :
    (s.emit o).regs = s.regs ∧ (s.emit o).time = s.time ∧ (s.emit o).mem = s.mem ∧ (s.emit o).vefs = s.vefs ∧
    (s.emit o).rings = s.rings ∧ (s.emit o).queue = s.queue ∧ (s.emit o).flight = s.flight ∧
    (s.emit o).mode = s.mode ∧ (s.emit o).power = s.power ∧ (s.emit o).vly = s.vly ∧ (s.emit o).saf = s.saf ∧
    (s.emit o).fus = s.fus ∧ (s.emit o).disp = s.disp ∧ (s.emit o).bist = s.bist ∧ (s.emit o).fw = s.fw ∧
    (s.emit o).pass = s.pass ∧ (s.emit o).gw = s.gw ∧ (s.emit o).engKill = s.engKill ∧
    (s.emit o).fetched = s.fetched ∧ (s.emit o).flds = s.flds ∧ (s.emit o).loads = s.loads ∧
    (s.emit o).thaws = s.thaws ∧ (s.emit o).cells = s.cells ∧ (s.emit o).freeCount = s.freeCount ∧
    (s.emit o).std = s.std ∧ (s.emit o).imsic = s.imsic ∧ (s.emit o).hostMem = s.hostMem ∧
    (s.emit o).remoteMem = s.remoteMem ∧ (s.emit o).remoteErr = s.remoteErr ∧ (s.emit o).pending = s.pending :=
  ⟨rfl, rfl, rfl, rfl, rfl, rfl, rfl, rfl, rfl, rfl, rfl, rfl, rfl, rfl, rfl, rfl, rfl, rfl, rfl, rfl, rfl, rfl, rfl,
  rfl, rfl, rfl, rfl, rfl, rfl, rfl⟩

@[simp] theorem State.markUndefined_frame (s : State) (lo hi : Nat) :
    (s.markUndefined lo hi).regs = s.regs ∧ (s.markUndefined lo hi).time = s.time ∧
    (s.markUndefined lo hi).vefs = s.vefs ∧ (s.markUndefined lo hi).rings = s.rings ∧
    (s.markUndefined lo hi).queue = s.queue ∧ (s.markUndefined lo hi).flight = s.flight ∧
    (s.markUndefined lo hi).mode = s.mode ∧ (s.markUndefined lo hi).power = s.power ∧
    (s.markUndefined lo hi).vly = s.vly ∧ (s.markUndefined lo hi).saf = s.saf ∧ (s.markUndefined lo hi).fus = s.fus ∧
    (s.markUndefined lo hi).disp = s.disp ∧ (s.markUndefined lo hi).bist = s.bist ∧
    (s.markUndefined lo hi).fw = s.fw ∧ (s.markUndefined lo hi).pass = s.pass ∧ (s.markUndefined lo hi).gw = s.gw ∧
    (s.markUndefined lo hi).engKill = s.engKill ∧ (s.markUndefined lo hi).fetched = s.fetched ∧
    (s.markUndefined lo hi).flds = s.flds ∧ (s.markUndefined lo hi).loads = s.loads ∧
    (s.markUndefined lo hi).thaws = s.thaws ∧ (s.markUndefined lo hi).cells = s.cells ∧
    (s.markUndefined lo hi).freeCount = s.freeCount ∧ (s.markUndefined lo hi).std = s.std ∧
    (s.markUndefined lo hi).imsic = s.imsic ∧ (s.markUndefined lo hi).hostMem = s.hostMem ∧
    (s.markUndefined lo hi).remoteMem = s.remoteMem ∧ (s.markUndefined lo hi).remoteErr = s.remoteErr ∧
    (s.markUndefined lo hi).out = s.out ∧ (s.markUndefined lo hi).pending = s.pending :=
  ⟨rfl, rfl, rfl, rfl, rfl, rfl, rfl, rfl, rfl, rfl, rfl, rfl, rfl, rfl, rfl, rfl, rfl, rfl, rfl, rfl, rfl, rfl, rfl,
  rfl, rfl, rfl, rfl, rfl, rfl, rfl⟩

@[simp] theorem State.noVfs_frame (s : State) :
    (s.noVfs).regs = s.regs ∧ (s.noVfs).time = s.time ∧ (s.noVfs).mem = s.mem ∧ (s.noVfs).vefs = s.vefs ∧
    (s.noVfs).rings = s.rings ∧ (s.noVfs).queue = s.queue ∧ (s.noVfs).flight = s.flight ∧ (s.noVfs).mode = s.mode ∧
    (s.noVfs).power = s.power ∧ (s.noVfs).vly = s.vly ∧ (s.noVfs).saf = s.saf ∧ (s.noVfs).fus = s.fus ∧
    (s.noVfs).disp = s.disp ∧ (s.noVfs).bist = s.bist ∧ (s.noVfs).fw = s.fw ∧ (s.noVfs).pass = s.pass ∧
    (s.noVfs).engKill = s.engKill ∧ (s.noVfs).fetched = s.fetched ∧ (s.noVfs).flds = s.flds ∧
    (s.noVfs).loads = s.loads ∧ (s.noVfs).thaws = s.thaws ∧ (s.noVfs).cells = s.cells ∧
    (s.noVfs).freeCount = s.freeCount ∧ (s.noVfs).std = s.std ∧ (s.noVfs).imsic = s.imsic ∧
    (s.noVfs).hostMem = s.hostMem ∧ (s.noVfs).remoteMem = s.remoteMem ∧ (s.noVfs).remoteErr = s.remoteErr ∧
    (s.noVfs).out = s.out ∧ (s.noVfs).pending = s.pending :=
  ⟨rfl, rfl, rfl, rfl, rfl, rfl, rfl, rfl, rfl, rfl, rfl, rfl, rfl, rfl, rfl, rfl, rfl, rfl, rfl, rfl, rfl, rfl, rfl,
  rfl, rfl, rfl, rfl, rfl, rfl, rfl⟩

@[simp] theorem State.setPort_frame (s : State) (p : Nat) (x : PortRt) :
    (s.setPort p x).regs = s.regs ∧ (s.setPort p x).time = s.time ∧ (s.setPort p x).mem = s.mem ∧
    (s.setPort p x).vefs = s.vefs ∧ (s.setPort p x).rings = s.rings ∧ (s.setPort p x).queue = s.queue ∧
    (s.setPort p x).flight = s.flight ∧ (s.setPort p x).mode = s.mode ∧ (s.setPort p x).power = s.power ∧
    (s.setPort p x).vly = s.vly ∧ (s.setPort p x).saf = s.saf ∧ (s.setPort p x).fus = s.fus ∧
    (s.setPort p x).disp = s.disp ∧ (s.setPort p x).bist = s.bist ∧ (s.setPort p x).fw = s.fw ∧
    (s.setPort p x).gw = s.gw ∧ (s.setPort p x).engKill = s.engKill ∧ (s.setPort p x).fetched = s.fetched ∧
    (s.setPort p x).flds = s.flds ∧ (s.setPort p x).loads = s.loads ∧ (s.setPort p x).thaws = s.thaws ∧
    (s.setPort p x).cells = s.cells ∧ (s.setPort p x).freeCount = s.freeCount ∧ (s.setPort p x).std = s.std ∧
    (s.setPort p x).imsic = s.imsic ∧ (s.setPort p x).hostMem = s.hostMem ∧ (s.setPort p x).remoteMem = s.remoteMem ∧
    (s.setPort p x).remoteErr = s.remoteErr ∧ (s.setPort p x).out = s.out ∧ (s.setPort p x).pending = s.pending :=
  ⟨rfl, rfl, rfl, rfl, rfl, rfl, rfl, rfl, rfl, rfl, rfl, rfl, rfl, rfl, rfl, rfl, rfl, rfl, rfl, rfl, rfl, rfl, rfl,
  rfl, rfl, rfl, rfl, rfl, rfl, rfl⟩

@[simp] theorem State.squashFabric_frame (s : State) (v : Nat) :
    (s.squashFabric v).regs = s.regs ∧ (s.squashFabric v).time = s.time ∧ (s.squashFabric v).mem = s.mem ∧
    (s.squashFabric v).vefs = s.vefs ∧ (s.squashFabric v).rings = s.rings ∧ (s.squashFabric v).queue = s.queue ∧
    (s.squashFabric v).flight = s.flight ∧ (s.squashFabric v).mode = s.mode ∧ (s.squashFabric v).power = s.power ∧
    (s.squashFabric v).vly = s.vly ∧ (s.squashFabric v).saf = s.saf ∧ (s.squashFabric v).fus = s.fus ∧
    (s.squashFabric v).disp = s.disp ∧ (s.squashFabric v).bist = s.bist ∧ (s.squashFabric v).fw = s.fw ∧
    (s.squashFabric v).gw = s.gw ∧ (s.squashFabric v).engKill = s.engKill ∧ (s.squashFabric v).fetched = s.fetched ∧
    (s.squashFabric v).flds = s.flds ∧ (s.squashFabric v).loads = s.loads ∧ (s.squashFabric v).thaws = s.thaws ∧
    (s.squashFabric v).cells = s.cells ∧ (s.squashFabric v).freeCount = s.freeCount ∧
    (s.squashFabric v).std = s.std ∧ (s.squashFabric v).imsic = s.imsic ∧ (s.squashFabric v).hostMem = s.hostMem ∧
    (s.squashFabric v).remoteMem = s.remoteMem ∧ (s.squashFabric v).remoteErr = s.remoteErr ∧
    (s.squashFabric v).out = s.out ∧ (s.squashFabric v).pending = s.pending :=
  ⟨rfl, rfl, rfl, rfl, rfl, rfl, rfl, rfl, rfl, rfl, rfl, rfl, rfl, rfl, rfl, rfl, rfl, rfl, rfl, rfl, rfl, rfl, rfl,
  rfl, rfl, rfl, rfl, rfl, rfl, rfl⟩

@[simp] theorem State.setReq_frame (s : State) (tag : Nat) (f : PassReq → PassReq) :
    (s.setReq tag f).regs = s.regs ∧ (s.setReq tag f).time = s.time ∧ (s.setReq tag f).mem = s.mem ∧
    (s.setReq tag f).vefs = s.vefs ∧ (s.setReq tag f).rings = s.rings ∧ (s.setReq tag f).queue = s.queue ∧
    (s.setReq tag f).flight = s.flight ∧ (s.setReq tag f).mode = s.mode ∧ (s.setReq tag f).power = s.power ∧
    (s.setReq tag f).vly = s.vly ∧ (s.setReq tag f).saf = s.saf ∧ (s.setReq tag f).fus = s.fus ∧
    (s.setReq tag f).disp = s.disp ∧ (s.setReq tag f).bist = s.bist ∧ (s.setReq tag f).fw = s.fw ∧
    (s.setReq tag f).gw = s.gw ∧ (s.setReq tag f).engKill = s.engKill ∧ (s.setReq tag f).fetched = s.fetched ∧
    (s.setReq tag f).flds = s.flds ∧ (s.setReq tag f).loads = s.loads ∧ (s.setReq tag f).thaws = s.thaws ∧
    (s.setReq tag f).cells = s.cells ∧ (s.setReq tag f).freeCount = s.freeCount ∧ (s.setReq tag f).std = s.std ∧
    (s.setReq tag f).imsic = s.imsic ∧ (s.setReq tag f).hostMem = s.hostMem ∧
    (s.setReq tag f).remoteMem = s.remoteMem ∧ (s.setReq tag f).remoteErr = s.remoteErr ∧
    (s.setReq tag f).out = s.out ∧ (s.setReq tag f).pending = s.pending :=
  ⟨rfl, rfl, rfl, rfl, rfl, rfl, rfl, rfl, rfl, rfl, rfl, rfl, rfl, rfl, rfl, rfl, rfl, rfl, rfl, rfl, rfl, rfl, rfl,
  rfl, rfl, rfl, rfl, rfl, rfl, rfl⟩

@[simp] theorem State.dropReq_frame (s : State) (tag : Nat) :
    (s.dropReq tag).regs = s.regs ∧ (s.dropReq tag).time = s.time ∧ (s.dropReq tag).mem = s.mem ∧
    (s.dropReq tag).vefs = s.vefs ∧ (s.dropReq tag).rings = s.rings ∧ (s.dropReq tag).queue = s.queue ∧
    (s.dropReq tag).flight = s.flight ∧ (s.dropReq tag).mode = s.mode ∧ (s.dropReq tag).power = s.power ∧
    (s.dropReq tag).vly = s.vly ∧ (s.dropReq tag).saf = s.saf ∧ (s.dropReq tag).fus = s.fus ∧
    (s.dropReq tag).disp = s.disp ∧ (s.dropReq tag).bist = s.bist ∧ (s.dropReq tag).fw = s.fw ∧
    (s.dropReq tag).gw = s.gw ∧ (s.dropReq tag).engKill = s.engKill ∧ (s.dropReq tag).fetched = s.fetched ∧
    (s.dropReq tag).flds = s.flds ∧ (s.dropReq tag).loads = s.loads ∧ (s.dropReq tag).thaws = s.thaws ∧
    (s.dropReq tag).cells = s.cells ∧ (s.dropReq tag).freeCount = s.freeCount ∧ (s.dropReq tag).std = s.std ∧
    (s.dropReq tag).imsic = s.imsic ∧ (s.dropReq tag).hostMem = s.hostMem ∧ (s.dropReq tag).remoteMem = s.remoteMem ∧
    (s.dropReq tag).remoteErr = s.remoteErr ∧ (s.dropReq tag).out = s.out ∧ (s.dropReq tag).pending = s.pending :=
  ⟨rfl, rfl, rfl, rfl, rfl, rfl, rfl, rfl, rfl, rfl, rfl, rfl, rfl, rfl, rfl, rfl, rfl, rfl, rfl, rfl, rfl, rfl, rfl,
  rfl, rfl, rfl, rfl, rfl, rfl, rfl⟩

@[simp] theorem State.stdWrite_frame (s : State) (a value : Nat) :
    (s.stdWrite a value).regs = s.regs ∧ (s.stdWrite a value).time = s.time ∧ (s.stdWrite a value).mem = s.mem ∧
    (s.stdWrite a value).vefs = s.vefs ∧ (s.stdWrite a value).rings = s.rings ∧
    (s.stdWrite a value).queue = s.queue ∧ (s.stdWrite a value).flight = s.flight ∧
    (s.stdWrite a value).mode = s.mode ∧ (s.stdWrite a value).power = s.power ∧ (s.stdWrite a value).vly = s.vly ∧
    (s.stdWrite a value).saf = s.saf ∧ (s.stdWrite a value).fus = s.fus ∧ (s.stdWrite a value).disp = s.disp ∧
    (s.stdWrite a value).bist = s.bist ∧ (s.stdWrite a value).fw = s.fw ∧ (s.stdWrite a value).pass = s.pass ∧
    (s.stdWrite a value).gw = s.gw ∧ (s.stdWrite a value).engKill = s.engKill ∧
    (s.stdWrite a value).fetched = s.fetched ∧ (s.stdWrite a value).flds = s.flds ∧
    (s.stdWrite a value).loads = s.loads ∧ (s.stdWrite a value).thaws = s.thaws ∧
    (s.stdWrite a value).cells = s.cells ∧ (s.stdWrite a value).freeCount = s.freeCount ∧
    (s.stdWrite a value).imsic = s.imsic ∧ (s.stdWrite a value).hostMem = s.hostMem ∧
    (s.stdWrite a value).remoteMem = s.remoteMem ∧ (s.stdWrite a value).remoteErr = s.remoteErr ∧
    (s.stdWrite a value).out = s.out ∧ (s.stdWrite a value).pending = s.pending :=
  ⟨rfl, rfl, rfl, rfl, rfl, rfl, rfl, rfl, rfl, rfl, rfl, rfl, rfl, rfl, rfl, rfl, rfl, rfl, rfl, rfl, rfl, rfl, rfl,
  rfl, rfl, rfl, rfl, rfl, rfl, rfl⟩

@[simp] theorem State.setRing_frame (s : State) (v r : Nat) (x : RingRt) :
    (s.setRing v r x).regs = s.regs ∧ (s.setRing v r x).time = s.time ∧ (s.setRing v r x).mem = s.mem ∧
    (s.setRing v r x).vefs = s.vefs ∧ (s.setRing v r x).queue = s.queue ∧ (s.setRing v r x).flight = s.flight ∧
    (s.setRing v r x).mode = s.mode ∧ (s.setRing v r x).power = s.power ∧ (s.setRing v r x).vly = s.vly ∧
    (s.setRing v r x).saf = s.saf ∧ (s.setRing v r x).fus = s.fus ∧ (s.setRing v r x).disp = s.disp ∧
    (s.setRing v r x).bist = s.bist ∧ (s.setRing v r x).fw = s.fw ∧ (s.setRing v r x).pass = s.pass ∧
    (s.setRing v r x).gw = s.gw ∧ (s.setRing v r x).engKill = s.engKill ∧ (s.setRing v r x).fetched = s.fetched ∧
    (s.setRing v r x).flds = s.flds ∧ (s.setRing v r x).loads = s.loads ∧ (s.setRing v r x).thaws = s.thaws ∧
    (s.setRing v r x).cells = s.cells ∧ (s.setRing v r x).freeCount = s.freeCount ∧ (s.setRing v r x).std = s.std ∧
    (s.setRing v r x).imsic = s.imsic ∧ (s.setRing v r x).hostMem = s.hostMem ∧
    (s.setRing v r x).remoteMem = s.remoteMem ∧ (s.setRing v r x).remoteErr = s.remoteErr ∧
    (s.setRing v r x).out = s.out ∧ (s.setRing v r x).pending = s.pending :=
  ⟨rfl, rfl, rfl, rfl, rfl, rfl, rfl, rfl, rfl, rfl, rfl, rfl, rfl, rfl, rfl, rfl, rfl, rfl, rfl, rfl, rfl, rfl, rfl,
  rfl, rfl, rfl, rfl, rfl, rfl, rfl⟩

@[simp] theorem State.setF_frame (s : State) (f : Nat) (x : FldRt) :
    (s.setF f x).regs = s.regs ∧ (s.setF f x).time = s.time ∧ (s.setF f x).mem = s.mem ∧ (s.setF f x).vefs = s.vefs ∧
    (s.setF f x).rings = s.rings ∧ (s.setF f x).queue = s.queue ∧ (s.setF f x).flight = s.flight ∧
    (s.setF f x).mode = s.mode ∧ (s.setF f x).power = s.power ∧ (s.setF f x).vly = s.vly ∧ (s.setF f x).saf = s.saf ∧
    (s.setF f x).fus = s.fus ∧ (s.setF f x).disp = s.disp ∧ (s.setF f x).bist = s.bist ∧ (s.setF f x).fw = s.fw ∧
    (s.setF f x).pass = s.pass ∧ (s.setF f x).gw = s.gw ∧ (s.setF f x).engKill = s.engKill ∧
    (s.setF f x).fetched = s.fetched ∧ (s.setF f x).loads = s.loads ∧ (s.setF f x).thaws = s.thaws ∧
    (s.setF f x).cells = s.cells ∧ (s.setF f x).freeCount = s.freeCount ∧ (s.setF f x).std = s.std ∧
    (s.setF f x).imsic = s.imsic ∧ (s.setF f x).hostMem = s.hostMem ∧ (s.setF f x).remoteMem = s.remoteMem ∧
    (s.setF f x).remoteErr = s.remoteErr ∧ (s.setF f x).out = s.out ∧ (s.setF f x).pending = s.pending :=
  ⟨rfl, rfl, rfl, rfl, rfl, rfl, rfl, rfl, rfl, rfl, rfl, rfl, rfl, rfl, rfl, rfl, rfl, rfl, rfl, rfl, rfl, rfl, rfl,
  rfl, rfl, rfl, rfl, rfl, rfl, rfl⟩

@[simp] theorem State.setCell_frame (s : State) (c : Nat) (x : CellSt) :
    (s.setCell c x).regs = s.regs ∧ (s.setCell c x).time = s.time ∧ (s.setCell c x).mem = s.mem ∧
    (s.setCell c x).vefs = s.vefs ∧ (s.setCell c x).rings = s.rings ∧ (s.setCell c x).queue = s.queue ∧
    (s.setCell c x).flight = s.flight ∧ (s.setCell c x).mode = s.mode ∧ (s.setCell c x).power = s.power ∧
    (s.setCell c x).vly = s.vly ∧ (s.setCell c x).saf = s.saf ∧ (s.setCell c x).fus = s.fus ∧
    (s.setCell c x).disp = s.disp ∧ (s.setCell c x).bist = s.bist ∧ (s.setCell c x).fw = s.fw ∧
    (s.setCell c x).pass = s.pass ∧ (s.setCell c x).gw = s.gw ∧ (s.setCell c x).engKill = s.engKill ∧
    (s.setCell c x).fetched = s.fetched ∧ (s.setCell c x).flds = s.flds ∧ (s.setCell c x).loads = s.loads ∧
    (s.setCell c x).thaws = s.thaws ∧ (s.setCell c x).freeCount = s.freeCount ∧ (s.setCell c x).std = s.std ∧
    (s.setCell c x).imsic = s.imsic ∧ (s.setCell c x).hostMem = s.hostMem ∧ (s.setCell c x).remoteMem = s.remoteMem ∧
    (s.setCell c x).remoteErr = s.remoteErr ∧ (s.setCell c x).out = s.out ∧ (s.setCell c x).pending = s.pending :=
  ⟨rfl, rfl, rfl, rfl, rfl, rfl, rfl, rfl, rfl, rfl, rfl, rfl, rfl, rfl, rfl, rfl, rfl, rfl, rfl, rfl, rfl, rfl, rfl,
  rfl, rfl, rfl, rfl, rfl, rfl, rfl⟩

@[simp] theorem State.noteGolden_frame (s : State) (serial status : Nat) :
    (s.noteGolden serial status).regs = s.regs ∧ (s.noteGolden serial status).time = s.time ∧
    (s.noteGolden serial status).mem = s.mem ∧ (s.noteGolden serial status).vefs = s.vefs ∧
    (s.noteGolden serial status).rings = s.rings ∧ (s.noteGolden serial status).queue = s.queue ∧
    (s.noteGolden serial status).flight = s.flight ∧ (s.noteGolden serial status).mode = s.mode ∧
    (s.noteGolden serial status).power = s.power ∧ (s.noteGolden serial status).vly = s.vly ∧
    (s.noteGolden serial status).fus = s.fus ∧ (s.noteGolden serial status).disp = s.disp ∧
    (s.noteGolden serial status).bist = s.bist ∧ (s.noteGolden serial status).fw = s.fw ∧
    (s.noteGolden serial status).pass = s.pass ∧ (s.noteGolden serial status).gw = s.gw ∧
    (s.noteGolden serial status).engKill = s.engKill ∧ (s.noteGolden serial status).fetched = s.fetched ∧
    (s.noteGolden serial status).flds = s.flds ∧ (s.noteGolden serial status).loads = s.loads ∧
    (s.noteGolden serial status).thaws = s.thaws ∧ (s.noteGolden serial status).cells = s.cells ∧
    (s.noteGolden serial status).freeCount = s.freeCount ∧ (s.noteGolden serial status).std = s.std ∧
    (s.noteGolden serial status).imsic = s.imsic ∧ (s.noteGolden serial status).hostMem = s.hostMem ∧
    (s.noteGolden serial status).remoteMem = s.remoteMem ∧ (s.noteGolden serial status).remoteErr = s.remoteErr ∧
    (s.noteGolden serial status).out = s.out ∧ (s.noteGolden serial status).pending = s.pending :=
  ⟨rfl, rfl, rfl, rfl, rfl, rfl, rfl, rfl, rfl, rfl, rfl, rfl, rfl, rfl, rfl, rfl, rfl, rfl, rfl, rfl, rfl, rfl, rfl,
  rfl, rfl, rfl, rfl, rfl, rfl, rfl⟩

@[simp] theorem State.dequeue_frame (s : State) (serial : Nat) :
    (s.dequeue serial).regs = s.regs ∧ (s.dequeue serial).time = s.time ∧ (s.dequeue serial).mem = s.mem ∧
    (s.dequeue serial).vefs = s.vefs ∧ (s.dequeue serial).rings = s.rings ∧ (s.dequeue serial).flight = s.flight ∧
    (s.dequeue serial).mode = s.mode ∧ (s.dequeue serial).power = s.power ∧ (s.dequeue serial).vly = s.vly ∧
    (s.dequeue serial).saf = s.saf ∧ (s.dequeue serial).fus = s.fus ∧ (s.dequeue serial).disp = s.disp ∧
    (s.dequeue serial).bist = s.bist ∧ (s.dequeue serial).fw = s.fw ∧ (s.dequeue serial).pass = s.pass ∧
    (s.dequeue serial).gw = s.gw ∧ (s.dequeue serial).engKill = s.engKill ∧ (s.dequeue serial).fetched = s.fetched ∧
    (s.dequeue serial).flds = s.flds ∧ (s.dequeue serial).loads = s.loads ∧ (s.dequeue serial).thaws = s.thaws ∧
    (s.dequeue serial).cells = s.cells ∧ (s.dequeue serial).freeCount = s.freeCount ∧
    (s.dequeue serial).std = s.std ∧ (s.dequeue serial).imsic = s.imsic ∧ (s.dequeue serial).hostMem = s.hostMem ∧
    (s.dequeue serial).remoteMem = s.remoteMem ∧ (s.dequeue serial).remoteErr = s.remoteErr ∧
    (s.dequeue serial).out = s.out ∧ (s.dequeue serial).pending = s.pending :=
  ⟨rfl, rfl, rfl, rfl, rfl, rfl, rfl, rfl, rfl, rfl, rfl, rfl, rfl, rfl, rfl, rfl, rfl, rfl, rfl, rfl, rfl, rfl, rfl,
  rfl, rfl, rfl, rfl, rfl, rfl, rfl⟩

@[simp] theorem State.dropJob_frame (s : State) (serial : Nat) :
    (s.dropJob serial).regs = s.regs ∧ (s.dropJob serial).time = s.time ∧ (s.dropJob serial).mem = s.mem ∧
    (s.dropJob serial).vefs = s.vefs ∧ (s.dropJob serial).rings = s.rings ∧ (s.dropJob serial).queue = s.queue ∧
    (s.dropJob serial).mode = s.mode ∧ (s.dropJob serial).power = s.power ∧ (s.dropJob serial).vly = s.vly ∧
    (s.dropJob serial).saf = s.saf ∧ (s.dropJob serial).fus = s.fus ∧ (s.dropJob serial).disp = s.disp ∧
    (s.dropJob serial).bist = s.bist ∧ (s.dropJob serial).fw = s.fw ∧ (s.dropJob serial).pass = s.pass ∧
    (s.dropJob serial).gw = s.gw ∧ (s.dropJob serial).engKill = s.engKill ∧ (s.dropJob serial).fetched = s.fetched ∧
    (s.dropJob serial).flds = s.flds ∧ (s.dropJob serial).loads = s.loads ∧ (s.dropJob serial).thaws = s.thaws ∧
    (s.dropJob serial).cells = s.cells ∧ (s.dropJob serial).freeCount = s.freeCount ∧
    (s.dropJob serial).std = s.std ∧ (s.dropJob serial).imsic = s.imsic ∧ (s.dropJob serial).hostMem = s.hostMem ∧
    (s.dropJob serial).remoteMem = s.remoteMem ∧ (s.dropJob serial).remoteErr = s.remoteErr ∧
    (s.dropJob serial).out = s.out ∧ (s.dropJob serial).pending = s.pending :=
  ⟨rfl, rfl, rfl, rfl, rfl, rfl, rfl, rfl, rfl, rfl, rfl, rfl, rfl, rfl, rfl, rfl, rfl, rfl, rfl, rfl, rfl, rfl, rfl,
  rfl, rfl, rfl, rfl, rfl, rfl, rfl⟩

@[simp] theorem State.changeJob_frame (s : State) (serial : Nat) (f : Job → Job) :
    (s.changeJob serial f).regs = s.regs ∧ (s.changeJob serial f).time = s.time ∧
    (s.changeJob serial f).mem = s.mem ∧ (s.changeJob serial f).vefs = s.vefs ∧
    (s.changeJob serial f).rings = s.rings ∧ (s.changeJob serial f).queue = s.queue ∧
    (s.changeJob serial f).mode = s.mode ∧ (s.changeJob serial f).power = s.power ∧
    (s.changeJob serial f).vly = s.vly ∧ (s.changeJob serial f).saf = s.saf ∧ (s.changeJob serial f).fus = s.fus ∧
    (s.changeJob serial f).disp = s.disp ∧ (s.changeJob serial f).bist = s.bist ∧ (s.changeJob serial f).fw = s.fw ∧
    (s.changeJob serial f).pass = s.pass ∧ (s.changeJob serial f).gw = s.gw ∧
    (s.changeJob serial f).engKill = s.engKill ∧ (s.changeJob serial f).fetched = s.fetched ∧
    (s.changeJob serial f).flds = s.flds ∧ (s.changeJob serial f).loads = s.loads ∧
    (s.changeJob serial f).thaws = s.thaws ∧ (s.changeJob serial f).cells = s.cells ∧
    (s.changeJob serial f).freeCount = s.freeCount ∧ (s.changeJob serial f).std = s.std ∧
    (s.changeJob serial f).imsic = s.imsic ∧ (s.changeJob serial f).hostMem = s.hostMem ∧
    (s.changeJob serial f).remoteMem = s.remoteMem ∧ (s.changeJob serial f).remoteErr = s.remoteErr ∧
    (s.changeJob serial f).out = s.out ∧ (s.changeJob serial f).pending = s.pending :=
  ⟨rfl, rfl, rfl, rfl, rfl, rfl, rfl, rfl, rfl, rfl, rfl, rfl, rfl, rfl, rfl, rfl, rfl, rfl, rfl, rfl, rfl, rfl, rfl,
  rfl, rfl, rfl, rfl, rfl, rfl, rfl⟩

@[simp] theorem State.dropGolden_frame (s : State) (f : Nat) :
    (s.dropGolden f).regs = s.regs ∧ (s.dropGolden f).time = s.time ∧ (s.dropGolden f).mem = s.mem ∧
    (s.dropGolden f).vefs = s.vefs ∧ (s.dropGolden f).rings = s.rings ∧ (s.dropGolden f).queue = s.queue ∧
    (s.dropGolden f).flight = s.flight ∧ (s.dropGolden f).mode = s.mode ∧ (s.dropGolden f).power = s.power ∧
    (s.dropGolden f).vly = s.vly ∧ (s.dropGolden f).fus = s.fus ∧ (s.dropGolden f).disp = s.disp ∧
    (s.dropGolden f).bist = s.bist ∧ (s.dropGolden f).fw = s.fw ∧ (s.dropGolden f).pass = s.pass ∧
    (s.dropGolden f).gw = s.gw ∧ (s.dropGolden f).engKill = s.engKill ∧ (s.dropGolden f).fetched = s.fetched ∧
    (s.dropGolden f).flds = s.flds ∧ (s.dropGolden f).loads = s.loads ∧ (s.dropGolden f).thaws = s.thaws ∧
    (s.dropGolden f).cells = s.cells ∧ (s.dropGolden f).freeCount = s.freeCount ∧ (s.dropGolden f).std = s.std ∧
    (s.dropGolden f).imsic = s.imsic ∧ (s.dropGolden f).hostMem = s.hostMem ∧
    (s.dropGolden f).remoteMem = s.remoteMem ∧ (s.dropGolden f).remoteErr = s.remoteErr ∧
    (s.dropGolden f).out = s.out ∧ (s.dropGolden f).pending = s.pending :=
  ⟨rfl, rfl, rfl, rfl, rfl, rfl, rfl, rfl, rfl, rfl, rfl, rfl, rfl, rfl, rfl, rfl, rfl, rfl, rfl, rfl, rfl, rfl, rfl,
  rfl, rfl, rfl, rfl, rfl, rfl, rfl⟩

@[simp] theorem State.countFault_frame (s : State) :
    (s.countFault).regs = s.regs ∧ (s.countFault).time = s.time ∧ (s.countFault).mem = s.mem ∧
    (s.countFault).vefs = s.vefs ∧ (s.countFault).rings = s.rings ∧ (s.countFault).queue = s.queue ∧
    (s.countFault).flight = s.flight ∧ (s.countFault).mode = s.mode ∧ (s.countFault).power = s.power ∧
    (s.countFault).vly = s.vly ∧ (s.countFault).fus = s.fus ∧ (s.countFault).disp = s.disp ∧
    (s.countFault).bist = s.bist ∧ (s.countFault).fw = s.fw ∧ (s.countFault).pass = s.pass ∧
    (s.countFault).gw = s.gw ∧ (s.countFault).engKill = s.engKill ∧ (s.countFault).fetched = s.fetched ∧
    (s.countFault).flds = s.flds ∧ (s.countFault).loads = s.loads ∧ (s.countFault).thaws = s.thaws ∧
    (s.countFault).cells = s.cells ∧ (s.countFault).freeCount = s.freeCount ∧ (s.countFault).std = s.std ∧
    (s.countFault).imsic = s.imsic ∧ (s.countFault).hostMem = s.hostMem ∧ (s.countFault).remoteMem = s.remoteMem ∧
    (s.countFault).remoteErr = s.remoteErr ∧ (s.countFault).out = s.out ∧ (s.countFault).pending = s.pending :=
  ⟨rfl, rfl, rfl, rfl, rfl, rfl, rfl, rfl, rfl, rfl, rfl, rfl, rfl, rfl, rfl, rfl, rfl, rfl, rfl, rfl, rfl, rfl, rfl,
  rfl, rfl, rfl, rfl, rfl, rfl, rfl⟩

@[simp] theorem State.setCont_frame (s : State) (i : Nat) (x : ContRt) :
    (s.setCont i x).regs = s.regs ∧ (s.setCont i x).time = s.time ∧ (s.setCont i x).mem = s.mem ∧
    (s.setCont i x).vefs = s.vefs ∧ (s.setCont i x).rings = s.rings ∧ (s.setCont i x).queue = s.queue ∧
    (s.setCont i x).flight = s.flight ∧ (s.setCont i x).mode = s.mode ∧ (s.setCont i x).power = s.power ∧
    (s.setCont i x).vly = s.vly ∧ (s.setCont i x).saf = s.saf ∧ (s.setCont i x).fus = s.fus ∧
    (s.setCont i x).disp = s.disp ∧ (s.setCont i x).bist = s.bist ∧ (s.setCont i x).fw = s.fw ∧
    (s.setCont i x).pass = s.pass ∧ (s.setCont i x).engKill = s.engKill ∧ (s.setCont i x).fetched = s.fetched ∧
    (s.setCont i x).flds = s.flds ∧ (s.setCont i x).loads = s.loads ∧ (s.setCont i x).thaws = s.thaws ∧
    (s.setCont i x).cells = s.cells ∧ (s.setCont i x).freeCount = s.freeCount ∧ (s.setCont i x).std = s.std ∧
    (s.setCont i x).imsic = s.imsic ∧ (s.setCont i x).hostMem = s.hostMem ∧ (s.setCont i x).remoteMem = s.remoteMem ∧
    (s.setCont i x).remoteErr = s.remoteErr ∧ (s.setCont i x).out = s.out ∧ (s.setCont i x).pending = s.pending :=
  ⟨rfl, rfl, rfl, rfl, rfl, rfl, rfl, rfl, rfl, rfl, rfl, rfl, rfl, rfl, rfl, rfl, rfl, rfl, rfl, rfl, rfl, rfl, rfl,
  rfl, rfl, rfl, rfl, rfl, rfl, rfl⟩

@[simp] theorem State.setThaw_frame (s : State) (t : Thaw) :
    (s.setThaw t).regs = s.regs ∧ (s.setThaw t).time = s.time ∧ (s.setThaw t).mem = s.mem ∧
    (s.setThaw t).vefs = s.vefs ∧ (s.setThaw t).rings = s.rings ∧ (s.setThaw t).queue = s.queue ∧
    (s.setThaw t).flight = s.flight ∧ (s.setThaw t).mode = s.mode ∧ (s.setThaw t).power = s.power ∧
    (s.setThaw t).vly = s.vly ∧ (s.setThaw t).saf = s.saf ∧ (s.setThaw t).fus = s.fus ∧ (s.setThaw t).disp = s.disp ∧
    (s.setThaw t).bist = s.bist ∧ (s.setThaw t).fw = s.fw ∧ (s.setThaw t).pass = s.pass ∧ (s.setThaw t).gw = s.gw ∧
    (s.setThaw t).engKill = s.engKill ∧ (s.setThaw t).fetched = s.fetched ∧ (s.setThaw t).flds = s.flds ∧
    (s.setThaw t).loads = s.loads ∧ (s.setThaw t).cells = s.cells ∧ (s.setThaw t).freeCount = s.freeCount ∧
    (s.setThaw t).std = s.std ∧ (s.setThaw t).imsic = s.imsic ∧ (s.setThaw t).hostMem = s.hostMem ∧
    (s.setThaw t).remoteMem = s.remoteMem ∧ (s.setThaw t).remoteErr = s.remoteErr ∧ (s.setThaw t).out = s.out ∧
    (s.setThaw t).pending = s.pending :=
  ⟨rfl, rfl, rfl, rfl, rfl, rfl, rfl, rfl, rfl, rfl, rfl, rfl, rfl, rfl, rfl, rfl, rfl, rfl, rfl, rfl, rfl, rfl, rfl,
  rfl, rfl, rfl, rfl, rfl, rfl, rfl⟩

@[simp] theorem State.dropThaw_frame (s : State) (t : Thaw) :
    (s.dropThaw t).regs = s.regs ∧ (s.dropThaw t).time = s.time ∧ (s.dropThaw t).mem = s.mem ∧
    (s.dropThaw t).vefs = s.vefs ∧ (s.dropThaw t).rings = s.rings ∧ (s.dropThaw t).queue = s.queue ∧
    (s.dropThaw t).flight = s.flight ∧ (s.dropThaw t).mode = s.mode ∧ (s.dropThaw t).power = s.power ∧
    (s.dropThaw t).vly = s.vly ∧ (s.dropThaw t).saf = s.saf ∧ (s.dropThaw t).fus = s.fus ∧
    (s.dropThaw t).disp = s.disp ∧ (s.dropThaw t).bist = s.bist ∧ (s.dropThaw t).fw = s.fw ∧
    (s.dropThaw t).pass = s.pass ∧ (s.dropThaw t).gw = s.gw ∧ (s.dropThaw t).engKill = s.engKill ∧
    (s.dropThaw t).fetched = s.fetched ∧ (s.dropThaw t).flds = s.flds ∧ (s.dropThaw t).loads = s.loads ∧
    (s.dropThaw t).cells = s.cells ∧ (s.dropThaw t).freeCount = s.freeCount ∧ (s.dropThaw t).std = s.std ∧
    (s.dropThaw t).imsic = s.imsic ∧ (s.dropThaw t).hostMem = s.hostMem ∧ (s.dropThaw t).remoteMem = s.remoteMem ∧
    (s.dropThaw t).remoteErr = s.remoteErr ∧ (s.dropThaw t).out = s.out ∧ (s.dropThaw t).pending = s.pending :=
  ⟨rfl, rfl, rfl, rfl, rfl, rfl, rfl, rfl, rfl, rfl, rfl, rfl, rfl, rfl, rfl, rfl, rfl, rfl, rfl, rfl, rfl, rfl, rfl,
  rfl, rfl, rfl, rfl, rfl, rfl, rfl⟩

@[simp] theorem State.setBase_frame (s : State) (n a : Nat) :
    (s.setBase n a).regs = s.regs ∧ (s.setBase n a).mem = s.mem ∧ (s.setBase n a).vefs = s.vefs ∧
    (s.setBase n a).rings = s.rings ∧ (s.setBase n a).queue = s.queue ∧ (s.setBase n a).flight = s.flight ∧
    (s.setBase n a).mode = s.mode ∧ (s.setBase n a).power = s.power ∧ (s.setBase n a).vly = s.vly ∧
    (s.setBase n a).saf = s.saf ∧ (s.setBase n a).fus = s.fus ∧ (s.setBase n a).disp = s.disp ∧
    (s.setBase n a).bist = s.bist ∧ (s.setBase n a).fw = s.fw ∧ (s.setBase n a).pass = s.pass ∧
    (s.setBase n a).gw = s.gw ∧ (s.setBase n a).engKill = s.engKill ∧ (s.setBase n a).fetched = s.fetched ∧
    (s.setBase n a).flds = s.flds ∧ (s.setBase n a).loads = s.loads ∧ (s.setBase n a).thaws = s.thaws ∧
    (s.setBase n a).cells = s.cells ∧ (s.setBase n a).freeCount = s.freeCount ∧ (s.setBase n a).std = s.std ∧
    (s.setBase n a).imsic = s.imsic ∧ (s.setBase n a).hostMem = s.hostMem ∧ (s.setBase n a).remoteMem = s.remoteMem ∧
    (s.setBase n a).remoteErr = s.remoteErr ∧ (s.setBase n a).out = s.out ∧ (s.setBase n a).pending = s.pending :=
  ⟨rfl, rfl, rfl, rfl, rfl, rfl, rfl, rfl, rfl, rfl, rfl, rfl, rfl, rfl, rfl, rfl, rfl, rfl, rfl, rfl, rfl, rfl, rfl,
  rfl, rfl, rfl, rfl, rfl, rfl, rfl⟩

@[simp] theorem State.joinDomains_frame (s : State) :
    (s.joinDomains).regs = s.regs ∧ (s.joinDomains).time = s.time ∧ (s.joinDomains).mem = s.mem ∧
    (s.joinDomains).vefs = s.vefs ∧ (s.joinDomains).rings = s.rings ∧ (s.joinDomains).queue = s.queue ∧
    (s.joinDomains).flight = s.flight ∧ (s.joinDomains).mode = s.mode ∧ (s.joinDomains).vly = s.vly ∧
    (s.joinDomains).saf = s.saf ∧ (s.joinDomains).fus = s.fus ∧ (s.joinDomains).disp = s.disp ∧
    (s.joinDomains).bist = s.bist ∧ (s.joinDomains).fw = s.fw ∧ (s.joinDomains).pass = s.pass ∧
    (s.joinDomains).gw = s.gw ∧ (s.joinDomains).engKill = s.engKill ∧ (s.joinDomains).fetched = s.fetched ∧
    (s.joinDomains).flds = s.flds ∧ (s.joinDomains).loads = s.loads ∧ (s.joinDomains).thaws = s.thaws ∧
    (s.joinDomains).cells = s.cells ∧ (s.joinDomains).freeCount = s.freeCount ∧ (s.joinDomains).std = s.std ∧
    (s.joinDomains).imsic = s.imsic ∧ (s.joinDomains).hostMem = s.hostMem ∧ (s.joinDomains).remoteMem = s.remoteMem ∧
    (s.joinDomains).remoteErr = s.remoteErr ∧ (s.joinDomains).out = s.out ∧ (s.joinDomains).pending = s.pending :=
  ⟨rfl, rfl, rfl, rfl, rfl, rfl, rfl, rfl, rfl, rfl, rfl, rfl, rfl, rfl, rfl, rfl, rfl, rfl, rfl, rfl, rfl, rfl, rfl,
  rfl, rfl, rfl, rfl, rfl, rfl, rfl⟩

@[simp] theorem State.stopPlls_frame (s : State) :
    (s.stopPlls).regs = s.regs ∧ (s.stopPlls).time = s.time ∧ (s.stopPlls).mem = s.mem ∧ (s.stopPlls).vefs = s.vefs ∧
    (s.stopPlls).rings = s.rings ∧ (s.stopPlls).queue = s.queue ∧ (s.stopPlls).flight = s.flight ∧
    (s.stopPlls).mode = s.mode ∧ (s.stopPlls).vly = s.vly ∧ (s.stopPlls).saf = s.saf ∧ (s.stopPlls).fus = s.fus ∧
    (s.stopPlls).disp = s.disp ∧ (s.stopPlls).bist = s.bist ∧ (s.stopPlls).fw = s.fw ∧ (s.stopPlls).pass = s.pass ∧
    (s.stopPlls).gw = s.gw ∧ (s.stopPlls).engKill = s.engKill ∧ (s.stopPlls).fetched = s.fetched ∧
    (s.stopPlls).flds = s.flds ∧ (s.stopPlls).loads = s.loads ∧ (s.stopPlls).thaws = s.thaws ∧
    (s.stopPlls).cells = s.cells ∧ (s.stopPlls).freeCount = s.freeCount ∧ (s.stopPlls).std = s.std ∧
    (s.stopPlls).imsic = s.imsic ∧ (s.stopPlls).hostMem = s.hostMem ∧ (s.stopPlls).remoteMem = s.remoteMem ∧
    (s.stopPlls).remoteErr = s.remoteErr ∧ (s.stopPlls).out = s.out ∧ (s.stopPlls).pending = s.pending :=
  ⟨rfl, rfl, rfl, rfl, rfl, rfl, rfl, rfl, rfl, rfl, rfl, rfl, rfl, rfl, rfl, rfl, rfl, rfl, rfl, rfl, rfl, rfl, rfl,
  rfl, rfl, rfl, rfl, rfl, rfl, rfl⟩

end Sys2Proof.Machine
end

