-- ==== Sys2Proof/Laws/Registers.lean ====
section
/-! SUPPORT. Laws of the registers and of the numbered units: a read after a write of the same field gives the value cut to
its width, and a write of one field leaves every other field alone. -/

namespace Sys2Proof.Machine

set_option Elab.async false

/-- A field's place fits below its indices. -/
def Fld.placed (f : Fld) : Bool := decide (f.spot < 262144)

theorem Fld.code_mod (f : Fld) (i j : Nat) (h : f.placed = true) : f.code i j % 262144 = f.spot := by
  have : f.spot < 262144 := by simpa [Fld.placed] using h
  unfold Fld.code
  omega

/-- Fields of different places never share a key, whatever their indices. -/
theorem Fld.code_ne (f g : Fld) (i j i' j' : Nat) (hf : f.placed = true) (hg : g.placed = true) (h : f.spot ≠ g.spot) :
    f.code i j ≠ g.code i' j' := by
  intro e
  apply h
  rw [← Fld.code_mod f i j hf, e, Fld.code_mod g i' j' hg]

/-- The same field at other indices has another key. -/
theorem Fld.code_index_ne (f : Fld) (i j i' j' : Nat) (hj : j < 16) (hj' : j' < 16) (h : i ≠ i' ∨ j ≠ j') :
    f.code i j ≠ f.code i' j' := by
  unfold Fld.code
  omega

/-- A field read after it was written holds the value, cut to its width. -/
@[simp] theorem State.rd_wr_same (s : State) (f : Fld) (v i j : Nat) : (s.wr f v i j).rd f i j = v % 2 ^ f.w := by
  simp [State.rd, State.wr]

/-- A write of a field leaves a field of another place alone. -/
theorem State.rd_wr_ne (s : State) (f g : Fld) (v i j i' j' : Nat) (hf : f.placed = true) (hg : g.placed = true)
    (h : g.spot ≠ f.spot) : (s.wr f v i j).rd g i' j' = s.rd g i' j' := by
  simp only [State.rd, State.wr]
  exact Sparse.look_put_ne _ _ _ _ _ _ (Fld.code_ne g f i' j' i j hg hf h)

/-- A write of a field leaves the same field of another register of its array alone. -/
theorem State.rd_wr_index (s : State) (f : Fld) (v i j i' j' : Nat) (hj : j < 16) (hj' : j' < 16) (h : i' ≠ i ∨ j' ≠ j) :
    (s.wr f v i j).rd f i' j' = s.rd f i' j' := by
  simp only [State.rd, State.wr]
  exact Sparse.look_put_ne _ _ _ _ _ _ (Fld.code_index_ne f i' j' i j hj' hj h)

/-- A read of a register field depends on the register store alone. -/
theorem State.rd_congr (s t : State) (h : s.regs = t.regs) (f : Fld) (i j : Nat) : s.rd f i j = t.rd f i j := by
  simp only [State.rd, h]

theorem State.flag_congr (s t : State) (h : s.regs = t.regs) (f : Fld) (i j : Nat) : s.flag f i j = t.flag f i j := by
  simp only [State.flag, State.rd_congr s t h]

@[simp] theorem State.rd_drawn (s : State) (f : Fld) (i j : Nat) : s.drawn.rd f i j = s.rd f i j := rfl
@[simp] theorem State.rd_emit (s : State) (o : Out) (f : Fld) (i j : Nat) : (s.emit o).rd f i j = s.rd f i j := rfl
@[simp] theorem State.rd_setV (s : State) (v : Nat) (x : VefRt) (f : Fld) (i j : Nat) : (s.setV v x).rd f i j = s.rd f i j := rfl
@[simp] theorem State.rd_setF (s : State) (n : Nat) (x : FldRt) (f : Fld) (i j : Nat) : (s.setF n x).rd f i j = s.rd f i j := rfl
@[simp] theorem State.rd_setCell (s : State) (n : Nat) (x : CellSt) (f : Fld) (i j : Nat) :
    (s.setCell n x).rd f i j = s.rd f i j := rfl

/-- A counter counted up stays at its greatest value once it is there. -/
theorem State.rd_add_same (s : State) (f : Fld) (n i j : Nat) : (s.add f n i j).rd f i j = min (s.rd f i j + n) (2 ^ f.w - 1) := by
  have hw : 0 < 2 ^ f.w := Nat.two_pow_pos _
  simp only [State.add, State.rd_wr_same]
  exact Nat.mod_eq_of_lt (by omega)

theorem State.rd_add_ne (s : State) (f g : Fld) (n i j i' j' : Nat) (hf : f.placed = true) (hg : g.placed = true)
    (h : g.spot ≠ f.spot) : (s.add f n i j).rd g i' j' = s.rd g i' j' := State.rd_wr_ne s f g _ i j i' j' hf hg h

theorem State.rd_inc_same (s : State) (f : Fld) (i j : Nat) : (s.inc f i j).rd f i j = min (s.rd f i j + 1) (2 ^ f.w - 1) :=
  State.rd_add_same s f 1 i j

theorem State.rd_inc_ne (s : State) (f g : Fld) (i j i' j' : Nat) (hf : f.placed = true) (hg : g.placed = true)
    (h : g.spot ≠ f.spot) : (s.inc f i j).rd g i' j' = s.rd g i' j' := State.rd_wr_ne s f g _ i j i' j' hf hg h

/-- A field read after its return to the Cold value. -/
theorem State.rd_toCold_same (s : State) (f : Fld) (i j : Nat) : (s.toCold f i j).rd f i j = f.coldVal i % 2 ^ f.w :=
  State.rd_wr_same s f _ i j

/-! ## Units held by number -/

@[simp] theorem State.frt_setF (s : State) (f : Nat) (x : FldRt) : (s.setF f x).frt f = x := by
  simp [State.frt, State.setF]

@[simp] theorem State.vrt_setV (s : State) (v : Nat) (x : VefRt) : (s.setV v x).vrt v = x := by
  simp [State.vrt, State.setV]

@[simp] theorem State.cell_setCell (s : State) (c : Nat) (x : CellSt) : (s.setCell c x).cell c = x := by
  simp [State.cell, State.setCell]

theorem State.frt_setF_ne (s : State) (f g : Nat) (x : FldRt) (h : g ≠ f) : (s.setF f x).frt g = s.frt g := by
  simp only [State.frt, State.setF]; exact Sparse.look_put_ne _ _ _ _ _ _ h

theorem State.vrt_setV_ne (s : State) (v u : Nat) (x : VefRt) (h : u ≠ v) : (s.setV v x).vrt u = s.vrt u := by
  simp only [State.vrt, State.setV]; exact Sparse.look_put_ne _ _ _ _ _ _ h

theorem State.cell_setCell_ne (s : State) (c d : Nat) (x : CellSt) (h : d ≠ c) : (s.setCell c x).cell d = s.cell d := by
  simp only [State.cell, State.setCell]; exact Sparse.look_put_ne _ _ _ _ _ _ h

/-- The identity of a requester depends on registers and the PCIe functions alone. -/
theorem State.who_congr (s t : State) (src : Source) (hr : s.regs = t.regs) (hg : s.gw = t.gw) : s.who src = t.who src := by
  cases src <;> simp only [State.who, State.requester, State.flag, State.rd, hr, hg] <;> rfl

/-- A command of a requester that the predicate names is carried out. -/
theorem State.asWho_pos (s : State) (src : Source) (a : Nat) (ok : Requester → Bool) (f : State → State)
    (h : ok (s.who src) = true) : s.asWho src a ok f = f s := by
  simp [State.asWho, h]

theorem State.asWho_neg (s : State) (src : Source) (a : Nat) (ok : Requester → Bool) (f : State → State)
    (h : ok (s.who src) = false) : s.asWho src a ok f = s.denied (s.who src) a := by
  simp [State.asWho, h]

/-! ## Moments -/

theorem within_true {t gap now : Nat} : within t gap now = true ↔ now < t + gap := by
  unfold within
  exact decide_eq_true_iff

theorem within_false {t gap now : Nat} : within t gap now = false ↔ t + gap ≤ now := by
  unfold within
  rw [decide_eq_false_iff_not]
  exact Nat.not_lt

/-- A base reads the same in states whose time is the same. -/
theorem State.ns_congr {s t : State} (h : s.time = t.time) (n : Nat) : s.ns n = t.ns n := by
  unfold State.ns
  rw [h]

theorem State.baseValue_congr {s t : State} (h : s.time = t.time) (n : Nat) : s.baseValue n = t.baseValue n := by
  unfold State.baseValue
  rw [h]

/-! ## Fields over the register store alone -/

/-- A field read in a register store. -/
def regGet (g : Sparse Nat) (f : Fld) (i j : Nat) : Nat := Sparse.look (f.coldVal i) g (f.code i j)

/-- A field written in a register store. -/
def regSet (g : Sparse Nat) (f : Fld) (v i j : Nat) : Sparse Nat := Sparse.put (f.coldVal i) g (f.code i j) (v % 2 ^ f.w)

theorem State.rd_get (s : State) (f : Fld) (i j : Nat) : s.rd f i j = regGet s.regs f i j := rfl
theorem State.regs_wr (s : State) (f : Fld) (v i j : Nat) : (s.wr f v i j).regs = regSet s.regs f v i j := rfl

theorem regGet_set_same (g : Sparse Nat) (f : Fld) (v i j : Nat) : regGet (regSet g f v i j) f i j = v % 2 ^ f.w :=
  Sparse.look_put_same _ _ _ _

/-- Fields in different places, at any indices. -/
theorem regGet_set_ne (g : Sparse Nat) (f h : Fld) (v i j i' j' : Nat)
    (hne : (h.placed && f.placed && (h.spot != f.spot)) = true) : regGet (regSet g f v i j) h i' j' = regGet g h i' j' := by
  simp only [Bool.and_eq_true, bne_iff_ne, ne_eq] at hne
  exact Sparse.look_put_ne _ _ _ _ _ _ (Fld.code_ne h f i' j' i j hne.1.1 hne.1.2 hne.2)

end Sys2Proof.Machine
end

