-- ==== Sys2Proof/Laws/Keeps.lean ====
section
/-! SUPPORT. What no command does: the relation between a state and any state that operations of the device make of it. It
says that the queue of commands is left alone, that the memories keep their canonical form and ranged fields their ranges,
and, where no reset is among the operations, that set LOCK bits and the fields behind them stand and that local monotonic
time does not change. Every operation has one lemma that carries the relation over it. -/

namespace Sys2Proof.Machine

set_option Elab.async false

/-- Places of the fields that the relation watches. -/
def watched : List Nat :=
  rangedFields.map (fun p => p.1.spot) ++ lockTable.flatMap (fun p => p.1.spot :: p.2.map Fld.spot)

/-- A field that the relation does not watch. -/
def Fld.plain (f : Fld) : Bool := f.placed && !watched.contains f.spot

/-- Ranged fields of one register store are in range where those of another are. -/
def RangesFrom (a b : Sparse Nat) : Prop :=
  (∀ p ∈ rangedFields, ∀ i j, p.2.1 ≤ Sparse.look (p.1.coldVal i) a (p.1.code i j) ∧
      Sparse.look (p.1.coldVal i) a (p.1.code i j) ≤ p.2.2) →
    ∀ p ∈ rangedFields, ∀ i j, p.2.1 ≤ Sparse.look (p.1.coldVal i) b (p.1.code i j) ∧
      Sparse.look (p.1.coldVal i) b (p.1.code i j) ≤ p.2.2

/-- Set locks of one register store stand in another, with the fields behind them. -/
def LocksFrom (a b : Sparse Nat) : Prop :=
  ∀ p ∈ lockTable, Sparse.look (p.1.coldVal 0) a (p.1.code 0 0) ≠ 0 → Sparse.look (p.1.coldVal 0) b (p.1.code 0 0) ≠ 0 ∧
    ∀ f ∈ p.2, ∀ i j, Sparse.look (f.coldVal i) b (f.code i j) = Sparse.look (f.coldVal i) a (f.code i j)

/-- The relation over the parts of two states that it speaks of. -/
structure KeepsParts (b : Bool) (q q' : List Instr) (hbm hbm' pocket pocket' sram sram' stitch stitch' : List Host.Cell)
    (n n' c c' : Nat) (g g' acc acc' : Sparse Nat) : Prop where
  pending : q' = q
  hbm : Sparse.ok 0 hbm = true → Sparse.ok 0 hbm' = true
  pocket : Sparse.ok 0 pocket = true → Sparse.ok 0 pocket' = true
  sram : Sparse.ok 0 sram = true → Sparse.ok 0 sram' = true
  stitch : Sparse.ok 0 stitch = true → Sparse.ok 0 stitch' = true
  faults : n ≤ 0xFFFF → n' ≤ 0xFFFF
  counter : c < 16 → c' < 16
  ranges : RangesFrom g g'
  locks : b = true → LocksFrom g g'
  time : b = true → Sparse.look 0 acc' 3 = Sparse.look 0 acc 3

/-- What operations on the device keep from `r` to `s`; `b` says that no reset is among them. -/
def Keeps (b : Bool) (r s : State) : Prop :=
  KeepsParts b r.pending s.pending r.mem.hbm s.mem.hbm r.mem.pocket s.mem.pocket r.mem.sram s.mem.sram r.mem.stitch s.mem.stitch
    r.saf.faults s.saf.faults r.saf.counter s.saf.counter r.regs s.regs r.time.acc s.time.acc

/-- An answer is a next state, and what it keeps. -/
@[irreducible] def AnsKeeps (b : Bool) (r : State) (a : Ans) : Prop :=
  match a with
  | .next t => Keeps b r t
  | _ => False

namespace Keeps

variable {b : Bool} {r s : State}

theorem refl (b : Bool) (s : State) : Keeps b s s :=
  ⟨rfl, id, id, id, id, id, id, id, fun _ _ _ h => ⟨h, fun _ _ _ _ => rfl⟩, fun _ => rfl⟩

/-- Locks that stand from one state to the next stand over both. -/
theorem locksFrom_trans {x y z : Sparse Nat} (h : LocksFrom x y) (k : LocksFrom y z) : LocksFrom x z := by
  intro p hp hx
  obtain ⟨hy, hf⟩ := h p hp hx
  obtain ⟨hz, kf⟩ := k p hp hy
  exact ⟨hz, fun f hfm i j => (kf f hfm i j).trans (hf f hfm i j)⟩

/-- A change of the register store alone. -/
theorem regs_change (h : Keeps b r s) (g : Sparse Nat) (hr : RangesFrom s.regs g) (hl : b = true → LocksFrom s.regs g) :
    Keeps b r { s with regs := g } :=
  ⟨h.pending, h.hbm, h.pocket, h.sram, h.stitch, h.faults, h.counter, fun k => hr (h.ranges k),
    fun hb => locksFrom_trans (h.locks hb) (hl hb), h.time⟩

/-- A change of anything but the register store and the queue that leaves the parts the relation speaks of. -/
theorem upd {time mem vefs rings queue flight mode power vly saf fus disp bist fw pass gw engKill fetched flds
    loads thaws cells freeCount std imsic hostMem remoteMem remoteErr out} (ht : time.acc = s.time.acc) (h1 : mem.hbm = s.mem.hbm)
    (h2 : mem.pocket = s.mem.pocket) (h3 : mem.sram = s.mem.sram) (h4 : mem.stitch = s.mem.stitch)
    (h5 : saf.faults = s.saf.faults) (h6 : saf.counter = s.saf.counter) :
    Keeps b r (State.mk s.regs time mem vefs rings queue flight mode power vly saf fus disp bist fw pass gw engKill fetched flds
      loads thaws cells freeCount std imsic hostMem remoteMem remoteErr out s.pending) ↔ Keeps b r s := by
  unfold Keeps
  simp only [ht, h1, h2, h3, h4, h5, h6]

/-- The same change of a state that a register write has made. -/
theorem upd_wr {u : State} {f : Fld} {v i j : Nat} {q time mem vefs rings queue flight mode power vly saf fus disp bist fw pass gw
    engKill fetched flds loads thaws cells freeCount std imsic hostMem remoteMem remoteErr
    out} (hq : q = u.pending) (ht : time.acc = u.time.acc)
    (h1 : mem.hbm = u.mem.hbm) (h2 : mem.pocket = u.mem.pocket) (h3 : mem.sram = u.mem.sram) (h4 : mem.stitch = u.mem.stitch)
    (h5 : saf.faults = u.saf.faults) (h6 : saf.counter = u.saf.counter) :
    Keeps b r (State.mk (u.wr f v i j).regs time mem vefs rings queue flight mode power vly saf fus disp bist fw pass gw engKill fetched
      flds loads thaws cells freeCount std imsic hostMem remoteMem remoteErr out q) ↔ Keeps b r (u.wr f v i j) := by
  unfold Keeps
  simp only [hq, ht, h1, h2, h3, h4, h5, h6, State.wr_frame]

/-- A change of the safety island that keeps its counters within their widths. -/
theorem saf_change (h : Keeps b r s) (x : SafSt) (h1 : s.saf.faults ≤ 0xFFFF → x.faults ≤ 0xFFFF)
    (h2 : s.saf.counter < 16 → x.counter < 16) : Keeps b r { s with saf := x } :=
  ⟨h.pending, h.hbm, h.pocket, h.sram, h.stitch, fun k => h1 (h.faults k), fun k => h2 (h.counter k), h.ranges, h.locks, h.time⟩

/-- A change of the memories that keeps their canonical forms. -/
theorem mem_change (h : Keeps b r s) (m : MemState) (h1 : Sparse.ok 0 s.mem.hbm = true → Sparse.ok 0 m.hbm = true)
    (h2 : Sparse.ok 0 s.mem.pocket = true → Sparse.ok 0 m.pocket = true)
    (h3 : Sparse.ok 0 s.mem.sram = true → Sparse.ok 0 m.sram = true)
    (h4 : Sparse.ok 0 s.mem.stitch = true → Sparse.ok 0 m.stitch = true) : Keeps b r { s with mem := m } :=
  ⟨h.pending, fun k => h1 (h.hbm k), fun k => h2 (h.pocket k), fun k => h3 (h.sram k), fun k => h4 (h.stitch k), h.faults,
    h.counter, h.ranges, h.locks, h.time⟩

theorem ite {c : Prop} [Decidable c] {t u : State} (h : Keeps b r t) (k : Keeps b r u) : Keeps b r (if c then t else u) := by
  split
  · exact h
  · exact k

theorem dite {c : Prop} [Decidable c] {t : c → State} {u : ¬c → State} (h : ∀ x, Keeps b r (t x)) (k : ∀ x, Keeps b r (u x)) :
    Keeps b r (if x : c then t x else u x) := by
  split
  · exact h _
  · exact k _

theorem foldl {α : Type} {l : List α} {f : State → α → State} (hf : ∀ t x, Keeps b r t → Keeps b r (f t x)) (h : Keeps b r s) :
    Keeps b r (l.foldl f s) := by
  induction l generalizing s with
  | nil => exact h
  | cons x l ih => exact ih (hf _ _ h)

/-- A fold whose operation keeps the relation for the members of its list. -/
theorem foldl_mem {α : Type} {l : List α} {f : State → α → State} (hf : ∀ t, ∀ x ∈ l, Keeps b r t → Keeps b r (f t x))
    (h : Keeps b r s) : Keeps b r (l.foldl f s) := by
  induction l generalizing s with
  | nil => exact h
  | cons x l ih => exact ih (fun t y hy => hf t y (List.mem_cons_of_mem _ hy)) (hf _ _ List.mem_cons_self h)

theorem each {n : Nat} {f : Nat → State → State} (hf : ∀ i t, Keeps b r t → Keeps b r (f i t)) (h : Keeps b r s) :
    Keeps b r (s.each n f) := foldl (fun t i => hf i t) h

/-- The state in a pair that a choice or a fold makes. -/
theorem ite_fst {α : Type} {c : Prop} [Decidable c] {t u : State × α} (h : Keeps b r t.1) (k : Keeps b r u.1) :
    Keeps b r (if c then t else u).1 := by
  split
  · exact h
  · exact k

theorem foldl_fst {α β : Type} {l : List α} {f : State × β → α → State × β} {a : State × β}
    (hf : ∀ t x, Keeps b r t.1 → Keeps b r (f t x).1) (h : Keeps b r a.1) : Keeps b r (l.foldl f a).1 := by
  induction l generalizing a with
  | nil => exact h
  | cons x l ih => exact ih (hf _ _ h)

/-- The first part of a pair that an operation answers. -/
theorem of_pair {α : Type} {p : State × α} {t : State} {x : α} (e : p = (t, x)) (h : Keeps b r p.1) : Keeps b r t := by
  cases e; exact h

theorem next {t : State} (h : Keeps b r t) : AnsKeeps b r (.next t) := by
  unfold AnsKeeps
  exact h

/-- An answer that the relation holds of is a next state. -/
theorem ans_next {a : Ans} (h : AnsKeeps b r a) : ∃ t, a = .next t ∧ Keeps b r t := by
  unfold AnsKeeps at h
  cases a with
  | next t => exact ⟨t, rfl, h⟩
  | fault x => exact h.elim
  | refused x => exact h.elim

theorem ans_ite {c : Prop} [Decidable c] {t u : Ans} (h : AnsKeeps b r t) (k : AnsKeeps b r u) :
    AnsKeeps b r (if c then t else u) := by
  split
  · exact h
  · exact k

theorem ans_dite {c : Prop} [Decidable c] {t : c → Ans} {u : ¬c → Ans} (h : ∀ x, AnsKeeps b r (t x)) (k : ∀ x, AnsKeeps b r (u x)) :
    AnsKeeps b r (if x : c then t x else u x) := by
  split
  · exact h _
  · exact k _

/-! ## Register fields -/

/-- A plain field shares its place with no watched one. -/
theorem plain_ne {f : Fld} (hf : f.plain = true) : f.placed = true ∧ (∀ p ∈ rangedFields, p.1.spot ≠ f.spot) ∧
    ∀ p ∈ lockTable, p.1.spot ≠ f.spot ∧ ∀ g ∈ p.2, g.spot ≠ f.spot := by
  simp only [Fld.plain, Bool.and_eq_true, Bool.not_eq_true', List.contains_eq_mem, decide_eq_false_iff_not] at hf
  obtain ⟨h1, h2⟩ := hf
  refine ⟨h1, fun p hp e => h2 ?_, fun p hp => ⟨fun e => h2 ?_, fun g hg e => h2 ?_⟩⟩
  · exact List.mem_append.2 (.inl (List.mem_map.2 ⟨p, hp, e⟩))
  · exact List.mem_append.2 (.inr (List.mem_flatMap.2 ⟨p, hp, by simp [e]⟩))
  · exact List.mem_append.2 (.inr (List.mem_flatMap.2 ⟨p, hp, List.mem_cons.2 (.inr (List.mem_map.2 ⟨g, hg, e⟩))⟩))

/-- Every watched field lies in its place. -/
theorem watched_placed : (∀ p ∈ rangedFields, p.1.placed = true) ∧
    ∀ p ∈ lockTable, p.1.placed = true ∧ ∀ g ∈ p.2, g.placed = true := by decide

/-- A store under a key of another place reads the same at a watched field. -/
theorem look_other {f g : Fld} (hf : f.placed = true) (hg : g.placed = true) (hne : g.spot ≠ f.spot) (l : Sparse Nat)
    (d e x i j i' j' : Nat) : Sparse.look e (Sparse.put d l (f.code i j) x) (g.code i' j') = Sparse.look e l (g.code i' j') :=
  Sparse.look_put_ne d e l _ _ x (Fld.code_ne g f i' j' i j hg hf hne)

/-- A write of a plain field. -/
theorem wr {f : Fld} {v i j : Nat} (h : Keeps b r s) (hf : f.plain = true) : Keeps b r (s.wr f v i j) := by
  obtain ⟨h0, h1, h2⟩ := plain_ne hf
  refine regs_change h _ (fun k p hp i' j' => ?_) (fun _ p hp hx => ?_)
  · rw [look_other h0 (watched_placed.1 p hp) (h1 p hp)]
    exact k p hp i' j'
  · obtain ⟨w1, w2⟩ := watched_placed.2 p hp
    obtain ⟨n1, n2⟩ := h2 p hp
    refine ⟨by rw [look_other h0 w1 n1]; exact hx, fun g hg i' j' => look_other h0 (w2 g hg) (n2 g hg) _ _ _ _ _ _ _ _⟩

theorem add {f : Fld} {n i j : Nat} (h : Keeps b r s) (hf : f.plain = true) : Keeps b r (s.add f n i j) := wr h hf
theorem inc {f : Fld} {i j : Nat} (h : Keeps b r s) (hf : f.plain = true) : Keeps b r (s.inc f i j) := wr h hf
theorem incWrap {f : Fld} {i j : Nat} (h : Keeps b r s) (hf : f.plain = true) : Keeps b r (s.incWrap f i j) := wr h hf
theorem toCold {f : Fld} {i j : Nat} (h : Keeps b r s) (hf : f.plain = true) : Keeps b r (s.toCold f i j) := wr h hf

theorem regToCold {g : RegName} {i j : Nat} (h : Keeps b r s) (hf : g.flds.all Fld.plain = true) : Keeps b r (s.regToCold g i j) := by
  unfold State.regToCold
  have : ∀ l : List Fld, l.all Fld.plain = true → ∀ t, Keeps b r t → Keeps b r (l.foldl (fun s f => s.toCold f i j) t) := by
    intro l
    induction l with
    | nil => intro _ t ht; exact ht
    | cons f l ih =>
      intro hl t ht
      simp only [List.all_cons, Bool.and_eq_true] at hl
      exact ih hl.2 _ (toCold ht hl.1)
  exact this _ hf s h

/-- A write of a watched field at a value within its range, which no lock that is set guards. -/
theorem wr_ranged {f : Fld} {v i j : Nat} (h : Keeps b r s) (hf : f.placed = true)
    (hr : ∀ p ∈ rangedFields, p.1.spot = f.spot → p.2.1 ≤ v % 2 ^ f.w ∧ v % 2 ^ f.w ≤ p.2.2)
    (hl : ∀ p ∈ lockTable, p.1.spot ≠ f.spot ∧ ((∀ g ∈ p.2, g.spot ≠ f.spot) ∨ s.flag p.1 = false)) :
    Keeps b r (s.wr f v i j) := by
  refine regs_change h _ (fun k p hp i' j' => ?_) (fun _ p hp hx => ?_)
  · by_cases e : p.1.spot = f.spot
    · by_cases e2 : p.1.code i' j' = f.code i j
      · rw [e2]
        have : Sparse.look (p.1.coldVal i') (Sparse.put (f.coldVal i) s.regs (f.code i j) (v % 2 ^ f.w)) (f.code i j) =
            v % 2 ^ f.w ∨ Sparse.look (p.1.coldVal i') (Sparse.put (f.coldVal i) s.regs (f.code i j) (v % 2 ^ f.w)) (f.code i j) =
            p.1.coldVal i' := by
          unfold Sparse.put
          split
          · exact .inr (Sparse.look_filter_same _ _ _)
          · exact .inl (Sparse.look_enter_same _ _ _ _)
        rcases this with this | this
        · rw [this]; exact hr p hp e
        · rw [this]
          have cold : ∀ p ∈ rangedFields, (match p.1.cold with | .const n => decide (p.2.1 ≤ n ∧ n ≤ p.2.2) | _ => false) = true := by
            decide
          have := cold p hp
          unfold Fld.coldVal
          split at this <;> simp_all
      · rw [Sparse.look_put_ne _ _ _ _ _ _ e2]; exact k p hp i' j'
    · rw [look_other hf (watched_placed.1 p hp) e]; exact k p hp i' j'
  · obtain ⟨w1, w2⟩ := watched_placed.2 p hp
    obtain ⟨n1, n2⟩ := hl p hp
    rcases n2 with n2 | n2
    · exact ⟨by rw [look_other hf w1 n1]; exact hx, fun g hg i' j' => look_other hf (w2 g hg) (n2 g hg) _ _ _ _ _ _ _ _⟩
    · exfalso
      simp only [State.flag, State.rd, bne_eq_false_iff_eq] at n2
      exact hx n2

/-- A LOCK bit of the lock table. -/
def lockBit (f : Fld) : Bool :=
  f.placed && f.w == 1 && f.cold == .const 0 && rangedFields.all (fun p => p.1.spot != f.spot) &&
    lockTable.all (fun p => (p.1 == f || p.1.spot != f.spot) && p.2.all (fun g => g.spot != f.spot))

/-- A LOCK bit set. -/
theorem wr_lock {f : Fld} {i j : Nat} (h : Keeps b r s) (hf : lockBit f = true) : Keeps b r (s.wr f 1 i j) := by
  simp only [lockBit, Bool.and_eq_true, List.all_eq_true, bne_iff_ne, ne_eq, beq_iff_eq, Bool.or_eq_true] at hf
  obtain ⟨⟨⟨⟨hp, hw⟩, hc⟩, hr⟩, hl⟩ := hf
  refine regs_change h _ (fun k p hm i' j' => ?_) (fun _ p hm hx => ?_)
  · rw [look_other hp (watched_placed.1 p hm) (hr p hm)]; exact k p hm i' j'
  · obtain ⟨w1, w2⟩ := watched_placed.2 p hm
    obtain ⟨n1, n2⟩ := hl p hm
    refine ⟨?_, fun g hg i' j' => look_other hp (w2 g hg) (n2 g hg) _ _ _ _ _ _ _ _⟩
    rcases n1 with n1 | n1
    · subst n1
      by_cases e : p.1.code 0 0 = p.1.code i j
      · have hv : ∀ n, p.1.coldVal n = 0 := fun n => by simp only [Fld.coldVal, hc]
        rw [hv, hv, e, Sparse.look_put_same, hw]
        decide
      · rw [Sparse.look_put_ne _ _ _ _ _ _ e]; exact hx
    · rw [look_other hp w1 n1]; exact hx

/-- A value within its limits, in the one ranged field that takes it and that no lock guards. -/
theorem wr_within {f : Fld} {v i j : Nat} (lo hi : Nat) (h : Keeps b r s)
    (hf : (f.placed && rangedFields.all (fun p => p.1.spot != f.spot || (p.2.1 == lo && p.2.2 == hi)) &&
      lockTable.all (fun p => p.1.spot != f.spot && p.2.all (fun g => g.spot != f.spot))) = true)
    (hv : lo ≤ v ∧ v ≤ hi) (hw : hi < 2 ^ f.w) : Keeps b r (s.wr f v i j) := by
  simp only [Bool.and_eq_true, List.all_eq_true, bne_iff_ne, ne_eq, Bool.or_eq_true, beq_iff_eq] at hf
  refine wr_ranged h hf.1.1 (fun p hp e => ?_) (fun p hp => ⟨(hf.2 p hp).1, .inl (hf.2 p hp).2⟩)
  rw [Nat.mod_eq_of_lt (by omega)]
  rcases hf.1.2 p hp with k | k
  · exact absurd e k
  · rw [k.1, k.2]; exact hv

/-! ## Resets -/

/-- The value at which a ranged field reads from an empty store is in its range. -/
theorem cold_range : ∀ p ∈ rangedFields, ∀ i, p.2.1 ≤ p.1.coldVal i ∧ p.1.coldVal i ≤ p.2.2 := by
  intro p hp i
  have cold : ∀ p ∈ rangedFields, (match p.1.cold with | .const n => decide (p.2.1 ≤ n ∧ n ≤ p.2.2) | _ => false) = true := by
    decide
  have := cold p hp
  unfold Fld.coldVal
  split at this <;> simp_all

/-- Entries dropped by their place leave ranged fields in range: those dropped read their Cold values. -/
theorem ranges_filter (l : Sparse Nat) (p : Nat → Bool) : RangesFrom l (l.filter (fun e => p e.1)) := by
  intro h q hq i j
  have : ∀ l : Sparse Nat, Sparse.look (q.1.coldVal i) (l.filter (fun e => p e.1)) (q.1.code i j) =
      Sparse.look (q.1.coldVal i) l (q.1.code i j) ∨
      Sparse.look (q.1.coldVal i) (l.filter (fun e => p e.1)) (q.1.code i j) = q.1.coldVal i := by
    intro l
    by_cases hp : p (q.1.code i j) = true
    · left
      induction l with
      | nil => rfl
      | cons e l ih =>
        obtain ⟨k, x⟩ := e
        by_cases hk : p k = true
        · simp only [List.filter_cons, hk, if_true, Sparse.look, ih]
        · have hne : q.1.code i j ≠ k := by
            rintro rfl
            exact hk hp
          simp only [List.filter_cons, hk, Sparse.look, hne, ih, Bool.false_eq_true, if_false]
    · right
      induction l with
      | nil => rfl
      | cons e l ih =>
        obtain ⟨k, x⟩ := e
        by_cases hk : p k = true
        · have hne : q.1.code i j ≠ k := by
            rintro rfl
            exact hp hk
          simp only [List.filter_cons, hk, if_true, Sparse.look, hne, ih, Bool.false_eq_true, if_false]
        · simp only [List.filter_cons, hk, ih, Bool.false_eq_true, if_false]
  rcases this l with e | e
  · rw [e]; exact h q hq i j
  · rw [e]; exact cold_range q hq i

/-- The store of a cold state is in range. -/
theorem ranges_cold (l : Sparse Nat) (c : Nat) : RangesFrom l [(SYS_RST.LAST_CAUSE.code 0 0, c)] := by
  intro _ q hq i j
  have : Sparse.look (q.1.coldVal i) [(SYS_RST.LAST_CAUSE.code 0 0, c)] (q.1.code i j) = q.1.coldVal i := by
    have hne : q.1.code i j ≠ SYS_RST.LAST_CAUSE.code 0 0 := by
      refine (Fld.code_ne q.1 SYS_RST.LAST_CAUSE i j 0 0 (watched_placed.1 q hq) (by decide) ?_)
      have : ∀ q ∈ rangedFields, q.1.spot ≠ SYS_RST.LAST_CAUSE.spot := by decide
      exact this q hq
    simp only [Sparse.look, hne, if_false]
  rw [this]
  exact cold_range q hq i

/-- A reset: the queue stands, the memories are in canonical form, and ranged fields and counters within their limits. -/
theorem reset_change {u : State} (h : Keeps false r s) (hp : u.pending = s.pending)
    (h1 : Sparse.ok 0 s.mem.hbm = true → Sparse.ok 0 u.mem.hbm = true)
    (h2 : Sparse.ok 0 u.mem.pocket = true) (h3 : Sparse.ok 0 u.mem.sram = true) (h4 : Sparse.ok 0 u.mem.stitch = true)
    (h5 : s.saf.faults ≤ 0xFFFF → u.saf.faults ≤ 0xFFFF) (h6 : u.saf.counter < 16) (hr : RangesFrom s.regs u.regs) :
    Keeps false r u :=
  ⟨hp.trans h.pending, fun k => h1 (h.hbm k), fun _ => h2, fun _ => h3, fun _ => h4, fun k => h5 (h.faults k), fun _ => h6,
    fun k => hr (h.ranges k), fun e => (Bool.false_ne_true e).elim, fun e => (Bool.false_ne_true e).elim⟩

end Keeps

end Sys2Proof.Machine
end

