-- ==== Sys2Proof/Laws/KeepsOps.lean ====
section
/-! SUPPORT. What the operations of Machine/Ops.lean keep. -/

namespace Sys2Proof.Machine

namespace Keeps

set_option Elab.async false
set_option linter.unusedSimpArgs false
set_option linter.unusedVariables false

theorem setV {kb : Bool} {k0 s : State} {v : Nat} {x : VefRt} (hk : Keeps kb k0 s) :
    Keeps kb k0 (State.setV s v x) := by
  unfold State.setV
  repeat' first
    | with_reducible assumption
    | dsimp only
    | simp only [Keeps.upd]
    | decide +kernel

theorem charge {kb : Bool} {k0 s : State} {v : Nat} {u : Usage} (hk : Keeps kb k0 s) :
    Keeps kb k0 (State.charge s v u) := by
  unfold State.charge
  repeat' first
    | with_reducible assumption
    | with_reducible apply Keeps.setV
    | with_reducible apply Keeps.ite
    | dsimp only
    | simp only [Keeps.upd]
    | decide +kernel

theorem denied {kb : Bool} {k0 s : State} {who : Requester} {addr : Nat} (hk : Keeps kb k0 s) :
    Keeps kb k0 (State.denied s who addr) := by
  unfold State.denied
  repeat' first
    | with_reducible assumption
    | with_reducible apply Keeps.inc
    | with_reducible apply Keeps.wr
    | split
    | dsimp only
    | decide +kernel

theorem drawn {kb : Bool} {k0 s : State} (hk : Keeps kb k0 s) :
    Keeps kb k0 (State.drawn s) := by
  unfold State.drawn
  repeat' first
    | with_reducible assumption
    | dsimp only
    | simp only [Keeps.upd]
    | decide +kernel

theorem emit {kb : Bool} {k0 s : State} {o : Out} (hk : Keeps kb k0 s) :
    Keeps kb k0 (State.emit s o) := by
  unfold State.emit
  repeat' first
    | with_reducible assumption
    | dsimp only
    | simp only [Keeps.upd]
    | decide +kernel

theorem irq {kb : Bool} {k0 s : State} {addr : Nat} {data : Nat} (hk : Keeps kb k0 s) :
    Keeps kb k0 (State.irq s addr data) := by
  unfold State.irq
  repeat' first
    | with_reducible assumption
    | with_reducible apply Keeps.emit
    | with_reducible apply Keeps.ite
    | dsimp only
    | simp only [Keeps.upd]
    | decide +kernel

theorem rekeyLine {kb : Bool} {k0 s : State} {a : Nat} (hk : Keeps kb k0 s) : Keeps kb k0 (s.rekeyLine a) := by
  unfold State.rekeyLine
  refine ite hk (mem_change hk _ (fun k => Sparse.ok_putBytes _ _ _ _ k) id id id)

theorem putByte {kb : Bool} {k0 s : State} {a : Nat} {x : Byte} (hk : Keeps kb k0 s) : Keeps kb k0 (s.putByte a x) := by
  unfold State.putByte
  refine ite (mem_change (rekeyLine hk) _ (fun k => Sparse.ok_put _ _ _ _ k) id id id) hk

theorem putBytes {kb : Bool} {k0 s : State} {a : Nat} {bs : Bytes} (hk : Keeps kb k0 s) : Keeps kb k0 (s.putBytes a bs) := by
  induction bs generalizing s a with
  | nil => exact hk
  | cons x r ih => exact ih (putByte hk)

theorem healWords {kb : Bool} {k0 s : State} {a : Nat} {n : Nat} (hk : Keeps kb k0 s) :
    Keeps kb k0 (State.healWords s a n) := by
  unfold State.healWords
  repeat' first
    | with_reducible assumption
    | intro _
    | with_reducible apply Keeps.foldl
    | with_reducible apply Keeps.ite
    | dsimp only
    | simp only [Keeps.upd]
    | decide +kernel

theorem noteOut {kb : Bool} {k0 s : State} {a : Nat} {n : Nat} (hk : Keeps kb k0 s) :
    Keeps kb k0 (State.noteOut s a n) := by
  unfold State.noteOut
  repeat' first
    | with_reducible assumption
    | with_reducible apply Keeps.inc
    | with_reducible apply Keeps.ite
    | dsimp only
    | decide +kernel

theorem memWrite {kb : Bool} {k0 s : State} {a : Nat} {bs : Bytes} (hk : Keeps kb k0 s) :
    Keeps kb k0 (State.memWrite s a bs) := by
  unfold State.memWrite
  repeat' first
    | with_reducible assumption
    | with_reducible apply Keeps.healWords
    | with_reducible apply Keeps.noteOut
    | with_reducible apply Keeps.putBytes
    | dsimp only
    | decide +kernel

theorem zeroHbm {kb : Bool} {k0 s : State} {a : Nat} {n : Nat} (hk : Keeps kb k0 s) :
    Keeps kb k0 (State.zeroHbm s a n) := by
  unfold State.zeroHbm
  repeat' first
    | with_reducible assumption
    | intro _
    | with_reducible apply Keeps.ite_fst
    | with_reducible apply Keeps.foldl_fst
    | exact mem_change hk _ (Sparse.ok_filter _ _ _) id id id
    | dsimp only
    | simp only [Keeps.upd]
    | decide +kernel

theorem markUndefined {kb : Bool} {k0 s : State} {lo : Nat} {hi : Nat} (hk : Keeps kb k0 s) :
    Keeps kb k0 (State.markUndefined s lo hi) := by
  unfold State.markUndefined
  repeat' first
    | with_reducible assumption
    | dsimp only
    | simp only [Keeps.upd]
    | decide +kernel

theorem readWordErr {kb : Bool} {k0 s : State} {w : Nat} (hk : Keeps kb k0 s) :
    Keeps kb k0 (State.readWordErr s w) := by
  unfold State.readWordErr
  repeat' first
    | with_reducible assumption
    | with_reducible apply Keeps.inc
    | with_reducible apply Keeps.wr
    | split
    | dsimp only
    | simp only [Keeps.upd]
    | simp only [State.inc, State.add, State.wr_frame, Keeps.upd_wr]
    | decide +kernel

theorem readErrs {kb : Bool} {k0 s : State} {a : Nat} {n : Nat} (hk : Keeps kb k0 s) :
    Keeps kb k0 (State.readErrs s a n) := by
  unfold State.readErrs
  repeat' first
    | with_reducible assumption
    | intro _
    | with_reducible apply Keeps.readWordErr
    | with_reducible apply Keeps.foldl
    | with_reducible apply Keeps.ite
    | dsimp only
    | decide +kernel

theorem poisonAt {kb : Bool} {k0 s : State} {as : List Nat} (hk : Keeps kb k0 s) :
    Keeps kb k0 (State.poisonAt s as) := by
  unfold State.poisonAt
  repeat' first
    | with_reducible assumption
    | intro _
    | with_reducible apply Keeps.foldl
    | with_reducible apply Keeps.ite
    | dsimp only
    | simp only [Keeps.upd]
    | decide +kernel

theorem iommuFault {kb : Bool} {k0 s : State} {dev : Nat} {pid : Option Nat} {iova : Nat} {write : Bool} (hk : Keeps kb k0 s) :
    Keeps kb k0 (State.iommuFault s dev pid iova write) := by
  unfold State.iommuFault
  repeat' first
    | with_reducible assumption
    | with_reducible apply Keeps.memWrite
    | with_reducible apply Keeps.ite
    | split
    | dsimp only
    | simp only [Keeps.upd]
    | decide +kernel

theorem noteDeny {kb : Bool} {k0 s : State} {c : Ctx} {a : Nat} {w : Bool} {d : Option Deny} (hk : Keeps kb k0 s) :
    Keeps kb k0 (s.noteDeny c a w d) := by
  unfold State.noteDeny
  split
  · exact hk
  · split
    · exact hk
    · exact iommuFault hk
    · exact iommuFault (inc hk (by decide +kernel))
    · exact inc hk (by decide +kernel)


theorem noteAccess {kb : Bool} {k0 s : State} {c : Ctx} {a : Nat} {n : Nat} {write : Bool} (hk : Keeps kb k0 s) :
    Keeps kb k0 (State.noteAccess s c a n write) := by
  unfold State.noteAccess
  repeat' first
    | with_reducible assumption
    | intro _
    | with_reducible apply Keeps.inc
    | with_reducible apply Keeps.charge
    | with_reducible apply Keeps.noteDeny
    | with_reducible apply Keeps.noteOut
    | with_reducible apply Keeps.ite
    | split
    | dsimp only
    | decide +kernel

theorem ctxPut {kb : Bool} {k0 s : State} {c : Ctx} {a : Nat} {bs : Bytes} (hk : Keeps kb k0 s) : Keeps kb k0 (s.ctxPut c a bs) := by
  induction bs generalizing s a with
  | nil => exact hk
  | cons x r ih =>
    refine ih ?_
    split
    · exact putByte hk
    · exact hk

theorem ctxTouch {kb : Bool} {k0 s : State} {c : Ctx} {a n : Nat} (hk : Keeps kb k0 s) : Keeps kb k0 (s.ctxTouch c a n) := by
  unfold State.ctxTouch
  refine foldl (fun t k ht => ?_) ?_
  · repeat' first
      | exact ht
      | with_reducible apply readWordErr
      | with_reducible apply ite
      | split
  · exact noteAccess hk

theorem ctxWrite {kb : Bool} {k0 s : State} {c : Ctx} {a : Nat} {bs : Bytes} (hk : Keeps kb k0 s) :
    Keeps kb k0 (State.ctxWrite s c a bs) := by
  unfold State.ctxWrite
  repeat' first
    | with_reducible assumption
    | intro _
    | with_reducible apply Keeps.ctxPut
    | with_reducible apply Keeps.noteAccess
    | with_reducible apply Keeps.foldl
    | with_reducible apply Keeps.ite
    | split
    | dsimp only
    | simp only [Keeps.upd]
    | decide +kernel

end Keeps

end Sys2Proof.Machine
end

