-- ==== Sys2Proof/Laws/KeepsRingOps.lean ====
section
/-! SUPPORT. What the operations of Machine/RingOps.lean keep. -/

namespace Sys2Proof.Machine

namespace Keeps

set_option Elab.async false
set_option linter.unusedSimpArgs false
set_option linter.unusedVariables false

theorem setRing {kb : Bool} {k0 s : State} {v : Nat} {r : Nat} {x : RingRt} (hk : Keeps kb k0 s) :
    Keeps kb k0 (State.setRing s v r x) := by
  unfold State.setRing
  repeat' first
    | with_reducible assumption
    | dsimp only
    | simp only [Keeps.upd]
    | decide +kernel

theorem setF {kb : Bool} {k0 s : State} {f : Nat} {x : FldRt} (hk : Keeps kb k0 s) :
    Keeps kb k0 (State.setF s f x) := by
  unfold State.setF
  repeat' first
    | with_reducible assumption
    | dsimp only
    | simp only [Keeps.upd]
    | decide +kernel

theorem setCell {kb : Bool} {k0 s : State} {c : Nat} {x : CellSt} (hk : Keeps kb k0 s) :
    Keeps kb k0 (State.setCell s c x) := by
  unfold State.setCell
  repeat' first
    | with_reducible assumption
    | dsimp only
    | simp only [Keeps.upd]
    | decide +kernel

theorem chargePcie {kb : Bool} {k0 s : State} {c : Ctx} {n : Nat} (hk : Keeps kb k0 s) :
    Keeps kb k0 (State.chargePcie s c n) := by
  unfold State.chargePcie
  repeat' first
    | with_reducible assumption
    | with_reducible apply Keeps.charge
    | split
    | dsimp only
    | simp only [Keeps.upd]
    | decide +kernel

theorem ringWrite {kb : Bool} {k0 s : State} {host : Bool} {c : Ctx} {a : Nat} {bs : Bytes} (hk : Keeps kb k0 s) :
    Keeps kb k0 (State.ringWrite s host c a bs) := by
  unfold State.ringWrite
  repeat' first
    | with_reducible assumption
    | with_reducible apply Keeps.chargePcie
    | with_reducible apply Keeps.ctxWrite
    | with_reducible apply Keeps.emit
    | with_reducible apply Keeps.hostWrite
    | with_reducible apply Keeps.putBytes
    | with_reducible apply Keeps.ite
    | dsimp only
    | simp only [Keeps.upd]
    | decide +kernel

theorem ringTouch {kb : Bool} {k0 s : State} {host : Bool} {c : Ctx} {a : Nat} {n : Nat} (hk : Keeps kb k0 s) :
    Keeps kb k0 (State.ringTouch s host c a n) := by
  unfold State.ringTouch
  repeat' first
    | with_reducible assumption
    | with_reducible apply Keeps.chargePcie
    | with_reducible apply Keeps.ctxTouch
    | with_reducible apply Keeps.ite
    | dsimp only
    | decide +kernel

theorem ringRecord {kb : Bool} {k0 s : State} {host : Bool} {c : Ctx} {a : Nat} {bs : Bytes} {w : Nat} (hk : Keeps kb k0 s) :
    Keeps kb k0 (State.ringRecord s host c a bs w) := by
  unfold State.ringRecord
  repeat' first
    | with_reducible assumption
    | intro _
    | with_reducible apply Keeps.ringWrite
    | with_reducible apply Keeps.foldl
    | dsimp only
    | decide +kernel

theorem refreshIdle {kb : Bool} {k0 s : State} {v : Nat} {r : Nat} (hk : Keeps kb k0 s) :
    Keeps kb k0 (State.refreshIdle s v r) := by
  unfold State.refreshIdle
  repeat' first
    | with_reducible assumption
    | intro _
    | with_reducible apply Keeps.wr
    | dsimp only
    | decide +kernel

theorem releaseSlot {kb : Bool} {k0 s : State} {v : Nat} (hk : Keeps kb k0 s) :
    Keeps kb k0 (State.releaseSlot s v) := by
  unfold State.releaseSlot
  repeat' first
    | with_reducible assumption
    | with_reducible apply Keeps.setV
    | dsimp only
    | simp only [Keeps.upd]
    | decide +kernel

theorem complete {kb : Bool} {k0 s : State} {c : Cmd} {status : Nat} {cause : Nat} {result : Nat} (hk : Keeps kb k0 s) :
    Keeps kb k0 (State.complete s c status cause result) := by
  unfold State.complete
  repeat' first
    | with_reducible assumption
    | with_reducible apply Keeps.wr
    | with_reducible apply Keeps.irq
    | with_reducible apply Keeps.refreshIdle
    | with_reducible apply Keeps.ringRecord
    | with_reducible apply Keeps.setV
    | with_reducible apply Keeps.ite
    | dsimp only
    | simp only [Keeps.upd]
    | simp only [State.inc, State.add, State.wr_frame, Keeps.upd_wr]
    | decide +kernel

theorem event {kb : Bool} {k0 s : State} {v : Nat} {type : Nat} {subject : Nat} {detail : Nat} (hk : Keeps kb k0 s) :
    Keeps kb k0 (State.event s v type subject detail) := by
  unfold State.event
  repeat' first
    | with_reducible assumption
    | with_reducible apply Keeps.wr
    | with_reducible apply Keeps.irq
    | with_reducible apply Keeps.ringRecord
    | with_reducible apply Keeps.setV
    | with_reducible apply Keeps.ite
    | dsimp only
    | simp only [Keeps.upd]
    | simp only [State.inc, State.add, State.wr_frame, Keeps.upd_wr]
    | decide +kernel

theorem events {kb : Bool} {k0 s : State} {vs : List Nat} {type : Nat} {subject : Nat} {detail : Nat} (hk : Keeps kb k0 s) :
    Keeps kb k0 (State.events s vs type subject detail) := by
  unfold State.events
  repeat' first
    | with_reducible assumption
    | intro _
    | with_reducible apply Keeps.event
    | with_reducible apply Keeps.foldl
    | dsimp only
    | decide +kernel

theorem acctWrite {kb : Bool} {k0 s : State} {v : Nat} {r : AcctRec} (hk : Keeps kb k0 s) :
    Keeps kb k0 (State.acctWrite s v r) := by
  unfold State.acctWrite
  repeat' first
    | with_reducible assumption
    | with_reducible apply Keeps.wr
    | with_reducible apply Keeps.irq
    | with_reducible apply Keeps.ringRecord
    | with_reducible apply Keeps.setV
    | with_reducible apply Keeps.ite
    | dsimp only
    | simp only [Keeps.upd]
    | simp only [State.inc, State.add, State.wr_frame, Keeps.upd_wr]
    | decide +kernel

theorem flushUse {kb : Bool} {k0 s : State} {v : Nat} (hk : Keeps kb k0 s) :
    Keeps kb k0 (State.flushUse s v) := by
  unfold State.flushUse
  repeat' first
    | with_reducible assumption
    | intro _
    | with_reducible apply Keeps.charge
    | with_reducible apply Keeps.foldl
    | with_reducible apply Keeps.ite
    | dsimp only
    | simp only [Keeps.upd]
    | decide +kernel

theorem refund {kb : Bool} {k0 s : State} {j : Job} (hk : Keeps kb k0 s) :
    Keeps kb k0 (State.refund s j) := by
  unfold State.refund
  repeat' first
    | with_reducible assumption
    | with_reducible apply Keeps.setV
    | with_reducible apply Keeps.ite
    | dsimp only
    | simp only [Keeps.upd]
    | decide +kernel

theorem closeWindow {kb : Bool} {k0 s : State} {v : Nat} {t : Nat} {next : Nat} {stepped : Bool} {final : Bool} (hk : Keeps kb k0 s) :
    Keeps kb k0 (State.closeWindow s v t next stepped final) := by
  unfold State.closeWindow
  repeat' first
    | with_reducible assumption
    | with_reducible apply Keeps.flushUse
    | with_reducible apply Keeps.setV
    | dsimp only
    | simp only [Keeps.upd]
    | decide +kernel

theorem acctDrain {kb : Bool} {k0 s : State} {v : Nat} (hk : Keeps kb k0 s) :
    Keeps kb k0 (State.acctDrain s v) := by
  unfold State.acctDrain
  repeat' first
    | with_reducible assumption
    | intro _
    | with_reducible apply Keeps.acctWrite
    | with_reducible apply Keeps.drop
    | with_reducible apply Keeps.setV
    | with_reducible apply Keeps.foldl
    | with_reducible apply Keeps.ite
    | dsimp only
    | simp only [Keeps.upd]
    | decide +kernel

theorem postRecord {kb : Bool} {k0 s : State} {v : Nat} {r : AcctRec} (hk : Keeps kb k0 s) :
    Keeps kb k0 (State.postRecord s v r) := by
  unfold State.postRecord
  repeat' first
    | with_reducible assumption
    | with_reducible apply Keeps.acctDrain
    | with_reducible apply Keeps.acctWrite
    | with_reducible apply Keeps.setV
    | with_reducible apply Keeps.ite
    | split
    | dsimp only
    | simp only [Keeps.upd]
    | decide +kernel

theorem postDue {kb : Bool} {k0 s : State} {v : Nat} (hk : Keeps kb k0 s) :
    Keeps kb k0 (State.postDue s v) := by
  unfold State.postDue
  repeat' first
    | with_reducible assumption
    | intro _
    | with_reducible apply Keeps.postRecord
    | with_reducible apply Keeps.setV
    | with_reducible apply Keeps.foldl
    | dsimp only
    | simp only [Keeps.upd]
    | decide +kernel

theorem closeEnded {kb : Bool} {k0 s : State} {v : Nat} {now : Nat} (hk : Keeps kb k0 s) :
    Keeps kb k0 (State.closeEnded s v now) := by
  unfold State.closeEnded
  repeat' first
    | with_reducible assumption
    | intro _
    | with_reducible apply Keeps.closeWindow
    | with_reducible apply Keeps.foldl
    | with_reducible apply Keeps.ite
    | dsimp only
    | decide +kernel

theorem endStarting {kb : Bool} {k0 s : State} (hk : Keeps kb k0 s) :
    Keeps kb k0 (State.endStarting s) := by
  unfold State.endStarting
  repeat' first
    | with_reducible assumption
    | with_reducible apply Keeps.ite
    | dsimp only
    | simp only [Keeps.upd]
    | decide +kernel

theorem noteFrame {kb : Bool} {k0 s : State} {c : Cmd} {field : Nat} {status : Nat} (hk : Keeps kb k0 s) :
    Keeps kb k0 (State.noteFrame s c field status) := by
  unfold State.noteFrame
  repeat' first
    | with_reducible assumption
    | with_reducible apply Keeps.endStarting
    | with_reducible apply Keeps.ite
    | split
    | dsimp only
    | simp only [Keeps.upd]
    | decide +kernel

theorem noteGolden {kb : Bool} {k0 s : State} {serial : Nat} {status : Nat} (hk : Keeps kb k0 s) :
    Keeps kb k0 (State.noteGolden s serial status) := by
  unfold State.noteGolden
  repeat' first
    | with_reducible assumption
    | intro _
    | with_reducible apply Keeps.ite
    | dsimp only
    | simp only [Keeps.upd]
    | decide +kernel

theorem noteEnd {kb : Bool} {k0 s : State} {j : Job} {status : Nat} (hk : Keeps kb k0 s) :
    Keeps kb k0 (State.noteEnd s j status) := by
  unfold State.noteEnd
  repeat' first
    | with_reducible assumption
    | with_reducible apply Keeps.noteFrame
    | with_reducible apply Keeps.noteGolden
    | with_reducible apply Keeps.ite
    | split
    | dsimp only
    | decide +kernel

theorem dequeue {kb : Bool} {k0 s : State} {serial : Nat} (hk : Keeps kb k0 s) :
    Keeps kb k0 (State.dequeue s serial) := by
  unfold State.dequeue
  repeat' first
    | with_reducible assumption
    | intro _
    | dsimp only
    | simp only [Keeps.upd]
    | decide +kernel

theorem dropJob {kb : Bool} {k0 s : State} {serial : Nat} (hk : Keeps kb k0 s) :
    Keeps kb k0 (State.dropJob s serial) := by
  unfold State.dropJob
  repeat' first
    | with_reducible assumption
    | intro _
    | dsimp only
    | simp only [Keeps.upd]
    | decide +kernel

theorem changeJob {kb : Bool} {k0 s : State} {serial : Nat} {f : Job → Job} (hk : Keeps kb k0 s) :
    Keeps kb k0 (State.changeJob s serial f) := by
  unfold State.changeJob
  repeat' first
    | with_reducible assumption
    | intro _
    | with_reducible apply Keeps.ite
    | dsimp only
    | simp only [Keeps.upd]
    | decide +kernel

theorem onBehalf {kb : Bool} {k0 s : State} {c : Cmd} {op : State → State} (hk : Keeps kb k0 s) (hop : ∀ t, Keeps kb k0 t → Keeps kb k0 (op t)) :
    Keeps kb k0 (State.onBehalf s c op) := by
  unfold State.onBehalf
  repeat' first
    | with_reducible assumption
    | intro _
    | with_reducible apply Keeps.changeJob
    | with_reducible apply Keeps.setV
    | apply hop
    | dsimp only
    | simp only [Keeps.upd]
    | decide +kernel

theorem requeue {kb : Bool} {k0 s : State} {r : Res} (hk : Keeps kb k0 s) :
    Keeps kb k0 (State.requeue s r) := by
  unfold State.requeue
  repeat' first
    | with_reducible assumption
    | intro _
    | with_reducible apply Keeps.refund
    | with_reducible apply Keeps.foldl
    | dsimp only
    | simp only [Keeps.upd]
    | decide +kernel

theorem noteUnrun {kb : Bool} {k0 s : State} {c : Cmd} {status : Nat} (hk : Keeps kb k0 s) :
    Keeps kb k0 (State.noteUnrun s c status) := by
  unfold State.noteUnrun
  repeat' first
    | with_reducible assumption
    | intro _
    | with_reducible apply Keeps.noteFrame
    | with_reducible apply Keeps.ite
    | split
    | dsimp only
    | decide +kernel

theorem endQueued {kb : Bool} {k0 s : State} {c : Cmd} {status : Nat} {cause : Nat} {result : Nat} (hk : Keeps kb k0 s) :
    Keeps kb k0 (State.endQueued s c status cause result) := by
  unfold State.endQueued
  repeat' first
    | with_reducible assumption
    | with_reducible apply Keeps.complete
    | with_reducible apply Keeps.dequeue
    | with_reducible apply Keeps.noteUnrun
    | dsimp only
    | decide +kernel

theorem endJob {kb : Bool} {k0 s : State} {j : Job} {status : Nat} {cause : Nat} {result : Nat} (hk : Keeps kb k0 s) :
    Keeps kb k0 (State.endJob s j status cause result) := by
  unfold State.endJob
  repeat' first
    | with_reducible assumption
    | with_reducible apply Keeps.charge
    | with_reducible apply Keeps.complete
    | with_reducible apply Keeps.dropJob
    | with_reducible apply Keeps.noteEnd
    | with_reducible apply Keeps.ite
    | dsimp only
    | decide +kernel

end Keeps

end Sys2Proof.Machine
end

