-- ==== Sys2Proof/Laws/KeepsValleyOps.lean ====
section
/-! SUPPORT. What the operations of Machine/ValleyOps.lean keep. -/

namespace Sys2Proof.Machine

namespace Keeps

set_option Elab.async false
set_option linter.unusedSimpArgs false
set_option linter.unusedVariables false

theorem setPool {kb : Bool} {k0 s : State} {p : Nat} {x : PoolSt} (hk : Keeps kb k0 s) :
    Keeps kb k0 (State.setPool s p x) := by
  unfold State.setPool
  repeat' first
    | with_reducible assumption
    | with_reducible apply Keeps.wr
    | with_reducible apply Keeps.ctxWrite
    | dsimp only
    | simp only [Keeps.upd]
    | simp only [State.inc, State.add, State.wr_frame, Keeps.upd_wr]
    | decide +kernel

theorem setPfx {kb : Bool} {k0 s : State} {i : Nat} {e : PfxEntry} (hk : Keeps kb k0 s) :
    Keeps kb k0 (State.setPfx s i e) := by
  unfold State.setPfx
  repeat' first
    | with_reducible assumption
    | with_reducible apply Keeps.memWrite
    | dsimp only
    | simp only [Keeps.upd]
    | decide +kernel

theorem pfxInsert {kb : Bool} {k0 s : State} {p : Nat} {dom : Nat} {key : Nat} {group : Nat} {parent : Nat} {tokens : Bytes} (hk : Keeps kb k0 s) :
    Keeps kb k0 (State.pfxInsert s p dom key group parent tokens).1 := by
  unfold State.pfxInsert
  repeat' first
    | with_reducible assumption
    | intro _
    | with_reducible apply Keeps.inc
    | with_reducible apply Keeps.setPfx
    | with_reducible apply Keeps.ite_fst
    | with_reducible apply Keeps.foldl_fst
    | with_reducible apply Keeps.ite
    | split
    | dsimp only
    | simp only [Keeps.upd]
    | simp only [State.inc, State.add, State.wr_frame, Keeps.upd_wr]
    | decide +kernel

theorem reclaim {kb : Bool} {k0 s : State} {p n : Nat} {chain : List Nat} (hk : Keeps kb k0 s) : Keeps kb k0 (s.reclaim p chain n) := by
  induction n generalizing s with
  | zero => exact hk
  | succ n ih =>
    unfold State.reclaim
    split
    · exact hk
    · exact ih (inc (setPool (ite (setPfx (setPfx hk)) (setPfx hk))) (by decide +kernel))

theorem pfxRefs {kb : Bool} {k0 s : State} {i : Nat} {f : Nat → Nat} (hk : Keeps kb k0 s) :
    Keeps kb k0 (State.pfxRefs s i f) := by
  unfold State.pfxRefs
  repeat' first
    | with_reducible assumption
    | with_reducible apply Keeps.setPfx
    | dsimp only
    | simp only [Keeps.upd]
    | decide +kernel

theorem pfxPins {kb : Bool} {k0 s : State} {i : Nat} {f : Nat → Nat} (hk : Keeps kb k0 s) :
    Keeps kb k0 (State.pfxPins s i f) := by
  unfold State.pfxPins
  repeat' first
    | with_reducible assumption
    | with_reducible apply Keeps.setPfx
    | dsimp only
    | simp only [Keeps.upd]
    | decide +kernel

theorem pfxClear {kb : Bool} {k0 s : State} {i : Nat} (hk : Keeps kb k0 s) :
    Keeps kb k0 (State.pfxClear s i) := by
  unfold State.pfxClear
  repeat' first
    | with_reducible assumption
    | with_reducible apply Keeps.setPfx
    | with_reducible apply Keeps.ite
    | dsimp only
    | simp only [Keeps.upd]
    | decide +kernel

theorem retireSeq {kb : Bool} {k0 s : State} {p : Nat} {i : Nat} (hk : Keeps kb k0 s) :
    Keeps kb k0 (State.retireSeq s p i) := by
  unfold State.retireSeq
  repeat' first
    | with_reducible assumption
    | intro _
    | with_reducible apply Keeps.pfxClear
    | with_reducible apply Keeps.pfxRefs
    | with_reducible apply Keeps.setPool
    | with_reducible apply Keeps.ite_fst
    | with_reducible apply Keeps.foldl_fst
    | with_reducible apply Keeps.foldl
    | with_reducible apply Keeps.ite
    | split
    | dsimp only
    | simp only [Keeps.upd]
    | decide +kernel

theorem retireVef {kb : Bool} {k0 s : State} {f : Nat} {v : Nat} (hk : Keeps kb k0 s) :
    Keeps kb k0 (State.retireVef s f v) := by
  unfold State.retireVef
  repeat' first
    | with_reducible assumption
    | intro _
    | with_reducible apply Keeps.retireSeq
    | with_reducible apply Keeps.ite_fst
    | with_reducible apply Keeps.foldl_fst
    | with_reducible apply Keeps.foldl
    | split
    | dsimp only
    | decide +kernel

theorem unbindPool {kb : Bool} {k0 s : State} {f : Nat} (hk : Keeps kb k0 s) :
    Keeps kb k0 (State.unbindPool s f) := by
  unfold State.unbindPool
  repeat' first
    | with_reducible assumption
    | intro _
    | with_reducible apply Keeps.wr
    | with_reducible apply Keeps.retireSeq
    | with_reducible apply Keeps.ite_fst
    | with_reducible apply Keeps.foldl_fst
    | with_reducible apply Keeps.foldl
    | split
    | dsimp only
    | simp only [Keeps.upd]
    | simp only [State.inc, State.add, State.wr_frame, Keeps.upd_wr]
    | decide +kernel

theorem dropPins {kb : Bool} {k0 s : State} {p : Nat} (hk : Keeps kb k0 s) :
    Keeps kb k0 (State.dropPins s p) := by
  unfold State.dropPins
  repeat' first
    | with_reducible assumption
    | intro _
    | with_reducible apply Keeps.setV
    | with_reducible apply Keeps.each
    | dsimp only
    | simp only [Keeps.upd]
    | decide +kernel

theorem releasePins {kb : Bool} {k0 s : State} {v : Nat} (hk : Keeps kb k0 s) :
    Keeps kb k0 (State.releasePins s v) := by
  unfold State.releasePins
  repeat' first
    | with_reducible assumption
    | intro _
    | with_reducible apply Keeps.pfxPins
    | with_reducible apply Keeps.setV
    | with_reducible apply Keeps.foldl
    | split
    | dsimp only
    | simp only [Keeps.upd]
    | decide +kernel

end Keeps

end Sys2Proof.Machine
end

