-- ==== Sys2Proof/Laws/KeepsFieldOps.lean ====
section
/-! SUPPORT. What the operations of Machine/FieldOps.lean keep. -/

namespace Sys2Proof.Machine

namespace Keeps

set_option Elab.async false
set_option linter.unusedSimpArgs false
set_option linter.unusedVariables false

theorem fldErrFlags_plain (n : Nat) : (fldErrFlags.getD n PLAIN_FLD_ERR.WDOG).plain = true := by
  by_cases h : n < 8
  · have : ∀ m < 8, (fldErrFlags.getD m PLAIN_FLD_ERR.WDOG).plain = true := by decide +kernel
    exact this n h
  · have e : fldErrFlags[n]? = none := List.getElem?_eq_none (by simp only [fldErrFlags, List.length_cons, List.length_nil]; omega)
    simp only [List.getD, e]
    decide +kernel

theorem refreshGold {kb : Bool} {k0 s : State} {f : Nat} (hk : Keeps kb k0 s) :
    Keeps kb k0 (State.refreshGold s f) := by
  unfold State.refreshGold
  repeat' first
    | with_reducible assumption
    | with_reducible apply Keeps.wr
    | with_reducible apply Keeps.ite
    | split
    | dsimp only
    | simp only [Keeps.upd]
    | simp only [State.inc, State.add, State.wr_frame, Keeps.upd_wr]
    | decide +kernel

theorem clearNum {kb : Bool} {k0 s : State} {f : Nat} (hk : Keeps kb k0 s) :
    Keeps kb k0 (State.clearNum s f) := by
  unfold State.clearNum
  repeat' first
    | with_reducible assumption
    | simp only [List.foldl_cons, List.foldl_nil]
    | intro _
    | with_reducible apply Keeps.wr
    | with_reducible apply Keeps.foldl
    | dsimp only
    | decide +kernel

theorem wdogTurn {kb : Bool} {k0 s : State} {f : Nat} {st : Nat} (hk : Keeps kb k0 s) :
    Keeps kb k0 (State.wdogTurn s f st) := by
  unfold State.wdogTurn
  repeat' first
    | with_reducible assumption
    | with_reducible apply Keeps.setF
    | with_reducible apply Keeps.ite
    | dsimp only
    | simp only [Keeps.upd]
    | decide +kernel

theorem setState {kb : Bool} {k0 s : State} {f : Nat} {st : Nat} (hk : Keeps kb k0 s) :
    Keeps kb k0 (State.setState s f st) := by
  unfold State.setState
  repeat' first
    | with_reducible assumption
    | with_reducible apply Keeps.wr
    | with_reducible apply Keeps.clearNum
    | with_reducible apply Keeps.refreshGold
    | with_reducible apply Keeps.wdogTurn
    | with_reducible apply Keeps.ite
    | dsimp only
    | decide +kernel

theorem countFlight {kb : Bool} {k0 s : State} {f : Fin 17} (hk : Keeps kb k0 s) :
    Keeps kb k0 (State.countFlight s f) := by
  unfold State.countFlight
  repeat' first
    | with_reducible assumption
    | with_reducible apply Keeps.wr
    | dsimp only
    | decide +kernel

theorem fldError {kb : Bool} {k0 s : State} {f : Nat} {n : Nat} {cell : Nat} {word : Nat} (hk : Keeps kb k0 s) :
    Keeps kb k0 (State.fldError s f n cell word) := by
  unfold State.fldError
  repeat' first
    | with_reducible assumption
    | with_reducible exact fldErrFlags_plain _
    | intro _
    | with_reducible apply Keeps.wr
    | with_reducible apply Keeps.ite
    | dsimp only
    | decide +kernel

theorem refreshLoc {kb : Bool} {k0 s : State} {f : Nat} (hk : Keeps kb k0 s) :
    Keeps kb k0 (State.refreshLoc s f) := by
  unfold State.refreshLoc
  repeat' first
    | with_reducible assumption
    | intro _
    | with_reducible apply Keeps.toCold
    | with_reducible apply Keeps.ite
    | dsimp only
    | decide +kernel

theorem progress {kb : Bool} {k0 s : State} {f : Nat} (hk : Keeps kb k0 s) :
    Keeps kb k0 (State.progress s f) := by
  unfold State.progress
  repeat' first
    | with_reducible assumption
    | with_reducible apply Keeps.setF
    | dsimp only
    | simp only [Keeps.upd]
    | decide +kernel

theorem report {kb : Bool} {k0 s : State} {source : Nat} {field : Option Nat} (hk : Keeps kb k0 s) :
    Keeps kb k0 (State.report s source field) := by
  unfold State.report
  repeat' first
    | with_reducible assumption
    | dsimp only
    | simp only [Keeps.upd]
    | decide +kernel

theorem reportField {kb : Bool} {k0 s : State} {source : Nat} {f : Nat} (hk : Keeps kb k0 s) :
    Keeps kb k0 (State.reportField s source f) := by
  unfold State.reportField
  repeat' first
    | with_reducible assumption
    | with_reducible apply Keeps.report
    | with_reducible apply Keeps.ite
    | dsimp only
    | decide +kernel

theorem onCells {kb : Bool} {k0 s : State} {f : Nat} {g : CellSt → CellSt} (hk : Keeps kb k0 s) :
    Keeps kb k0 (State.onCells s f g) := by
  unfold State.onCells
  repeat' first
    | with_reducible assumption
    | intro _
    | with_reducible apply Keeps.setCell
    | with_reducible apply Keeps.foldl
    | dsimp only
    | decide +kernel

theorem cmqWrite {kb : Bool} {k0 s : State} {f : Nat} {r : CmqRec} (hk : Keeps kb k0 s) :
    Keeps kb k0 (State.cmqWrite s f r) := by
  unfold State.cmqWrite
  repeat' first
    | with_reducible assumption
    | with_reducible apply Keeps.wr
    | with_reducible apply Keeps.memWrite
    | dsimp only
    | decide +kernel

theorem cmqAppend {kb : Bool} {k0 s : State} {f : Nat} {r : CmqRec} (hk : Keeps kb k0 s) :
    Keeps kb k0 (State.cmqAppend s f r) := by
  unfold State.cmqAppend
  repeat' first
    | with_reducible assumption
    | with_reducible apply Keeps.cmqWrite
    | with_reducible apply Keeps.setF
    | with_reducible apply Keeps.ite
    | dsimp only
    | simp only [Keeps.upd]
    | decide +kernel

theorem squashMoves {kb : Bool} {k0 s : State} {f : Nat} {p : ClMove → Bool} (hk : Keeps kb k0 s) :
    Keeps kb k0 (State.squashMoves s f p) := by
  unfold State.squashMoves
  repeat' first
    | with_reducible assumption
    | intro _
    | with_reducible apply Keeps.cmqAppend
    | with_reducible apply Keeps.setF
    | with_reducible apply Keeps.foldl
    | dsimp only
    | simp only [Keeps.upd]
    | decide +kernel

theorem dropReleases {kb : Bool} {k0 s : State} {f : Nat} {p : Cmd → Bool} {status : Nat} (hk : Keeps kb k0 s) :
    Keeps kb k0 (State.dropReleases s f p status) := by
  unfold State.dropReleases
  repeat' first
    | with_reducible assumption
    | intro _
    | with_reducible apply Keeps.complete
    | with_reducible apply Keeps.setF
    | with_reducible apply Keeps.foldl
    | dsimp only
    | simp only [Keeps.upd]
    | decide +kernel

theorem zeroCluster {kb : Bool} {k0 s : State} {k : Nat} (hk : Keeps kb k0 s) :
    Keeps kb k0 (State.zeroCluster s k) := by
  unfold State.zeroCluster
  repeat' first
    | with_reducible assumption
    | intro _
    | with_reducible apply Keeps.setCell
    | with_reducible apply Keeps.foldl
    | exact mem_change hk _ id (Sparse.ok_filter _ _ _) (Sparse.ok_filter _ _ _) id
    | dsimp only
    | simp only [Keeps.upd]
    | decide +kernel

theorem enterClearing {kb : Bool} {k0 s : State} {f : Fin 17} {gone : List Nat} (hk : Keeps kb k0 s) :
    Keeps kb k0 (State.enterClearing s f gone) := by
  unfold State.enterClearing
  repeat' first
    | with_reducible assumption
    | intro _
    | with_reducible apply Keeps.dropReleases
    | with_reducible apply Keeps.events
    | with_reducible apply Keeps.onCells
    | with_reducible apply Keeps.setF
    | with_reducible apply Keeps.setState
    | with_reducible apply Keeps.squashMoves
    | with_reducible apply Keeps.unbindPool
    | dsimp only
    | simp only [Keeps.upd]
    | decide +kernel

theorem clearEmptied {kb : Bool} {k0 s : State} {f : Fin 17} (hk : Keeps kb k0 s) :
    Keeps kb k0 (State.clearEmptied s f) := by
  unfold State.clearEmptied
  repeat' first
    | with_reducible assumption
    | with_reducible apply Keeps.enterClearing
    | with_reducible apply Keeps.ite
    | split
    | dsimp only
    | decide +kernel

theorem settle {kb : Bool} {k0 s : State} {f : Fin 17} (hk : Keeps kb k0 s) :
    Keeps kb k0 (State.settle s f) := by
  unfold State.settle
  repeat' first
    | with_reducible assumption
    | with_reducible apply Keeps.clearEmptied
    | with_reducible apply Keeps.countFlight
    | with_reducible apply Keeps.setState
    | with_reducible apply Keeps.ite
    | dsimp only
    | decide +kernel

theorem endFlight {kb : Bool} {k0 s : State} {f : Fin 17} {bad : Option Nat} (hk : Keeps kb k0 s) :
    Keeps kb k0 (State.endFlight s f bad) := by
  unfold State.endFlight
  repeat' first
    | with_reducible assumption
    | intro _
    | with_reducible apply Keeps.ite
    | dsimp only
    | simp only [Keeps.upd]
    | decide +kernel

theorem contained {kb : Bool} {k0 s : State} {f : Fin 17} {source : Nat} {bad : Option Nat} (hk : Keeps kb k0 s) :
    Keeps kb k0 (State.contained s f source bad) := by
  unfold State.contained
  repeat' first
    | with_reducible assumption
    | intro _
    | with_reducible apply Keeps.endFlight
    | with_reducible apply Keeps.onCells
    | with_reducible apply Keeps.reportField
    | with_reducible apply Keeps.setF
    | with_reducible apply Keeps.squashMoves
    | with_reducible apply Keeps.ite
    | dsimp only
    | simp only [Keeps.upd]
    | decide +kernel

theorem fldFault {kb : Bool} {k0 s : State} {f : Fin 17} {n : Nat} {cell : Nat} {word : Nat} (hk : Keeps kb k0 s) :
    Keeps kb k0 (State.fldFault s f n cell word) := by
  unfold State.fldFault
  repeat' first
    | with_reducible assumption
    | with_reducible exact fldErrFlags_plain _
    | with_reducible apply Keeps.contained
    | with_reducible apply Keeps.fldError
    | dsimp only
    | decide +kernel

theorem stopField {kb : Bool} {k0 s : State} {f : Fin 17} {status : Nat} (hk : Keeps kb k0 s) :
    Keeps kb k0 (State.stopField s f status) := by
  unfold State.stopField
  repeat' first
    | with_reducible assumption
    | intro _
    | with_reducible apply Keeps.clearEmptied
    | with_reducible apply Keeps.countFlight
    | with_reducible apply Keeps.endJob
    | with_reducible apply Keeps.events
    | with_reducible apply Keeps.onCells
    | with_reducible apply Keeps.setF
    | with_reducible apply Keeps.setState
    | with_reducible apply Keeps.squashMoves
    | with_reducible apply Keeps.foldl
    | with_reducible apply Keeps.ite
    | split
    | dsimp only
    | simp only [Keeps.upd]
    | decide +kernel

theorem killField {kb : Bool} {k0 s : State} {f : Fin 17} (hk : Keeps kb k0 s) :
    Keeps kb k0 (State.killField s f) := by
  unfold State.killField
  repeat' first
    | with_reducible assumption
    | intro _
    | with_reducible apply Keeps.onCells
    | with_reducible apply Keeps.setF
    | with_reducible apply Keeps.setState
    | with_reducible apply Keeps.squashMoves
    | with_reducible apply Keeps.ite
    | dsimp only
    | simp only [Keeps.upd]
    | decide +kernel

theorem startReinit {kb : Bool} {k0 s : State} {f : Fin 17} (hk : Keeps kb k0 s) :
    Keeps kb k0 (State.startReinit s f) := by
  unfold State.startReinit
  repeat' first
    | with_reducible assumption
    | with_reducible apply Keeps.setState
    | with_reducible apply Keeps.ite
    | split
    | dsimp only
    | simp only [Keeps.upd]
    | decide +kernel

theorem endQueuedOf {kb : Bool} {k0 s : State} {f : Fin 17} {v : Nat} (hk : Keeps kb k0 s) :
    Keeps kb k0 (State.endQueuedOf s f v) := by
  unfold State.endQueuedOf
  repeat' first
    | with_reducible assumption
    | intro _
    | with_reducible apply Keeps.endQueued
    | with_reducible apply Keeps.ite_fst
    | with_reducible apply Keeps.foldl_fst
    | with_reducible apply Keeps.foldl
    | dsimp only
    | decide +kernel

theorem detach {kb : Bool} {k0 s : State} {f : Fin 17} {v : Nat} {frozen : Bool} {gone : List Nat} (hk : Keeps kb k0 s) :
    Keeps kb k0 (State.detach s f v frozen gone) := by
  unfold State.detach
  repeat' first
    | with_reducible assumption
    | intro _
    | with_reducible apply Keeps.endQueuedOf
    | with_reducible apply Keeps.enterClearing
    | with_reducible apply Keeps.retireVef
    | with_reducible apply Keeps.setF
    | with_reducible apply Keeps.ite
    | dsimp only
    | simp only [Keeps.upd]
    | decide +kernel

end Keeps

end Sys2Proof.Machine
end

