-- ==== Sys2Proof/Laws/KeepsMerge.lean ====
section
/-! SUPPORT. What the operations of Machine/Merge.lean keep. -/

namespace Sys2Proof.Machine

namespace Keeps

set_option Elab.async false
set_option linter.unusedSimpArgs false
set_option linter.unusedVariables false

theorem store {kb : Bool} {k0 s : State} {f : Fld} {o v x i j : Nat} (hk : Keeps kb k0 s) (hf : f.plain = true) :
    Keeps kb k0 (s.store f o v x i j) := by
  unfold State.store
  exact ite (wr hk hf) hk

theorem asWho {kb : Bool} {k0 s : State} {src : Source} {addr : Nat} {ok : Requester → Bool} {f : State → State} (hk : Keeps kb k0 s) (hf : ∀ t, Keeps kb k0 t → Keeps kb k0 (f t)) :
    Keeps kb k0 (State.asWho s src addr ok f) := by
  unfold State.asWho
  repeat' first
    | with_reducible assumption
    | with_reducible apply Keeps.denied
    | with_reducible apply Keeps.ite
    | apply hf
    | dsimp only
    | decide +kernel

end Keeps

end Sys2Proof.Machine
end

