-- ==== Sys2Proof/Laws/KeepsRings.lean ====
section
/-! SUPPORT. What the operations of Machine/Rings.lean keep. -/

namespace Sys2Proof.Machine

namespace Keeps

set_option Elab.async false
set_option linter.unusedSimpArgs false
set_option linter.unusedVariables false

theorem doorbell {kb : Bool} {k0 s : State} {v : Nat} {r : Nat} {value : Nat} (hk : Keeps kb k0 s) :
    Keeps kb k0 (State.doorbell s v r value) := by
  unfold State.doorbell
  repeat' first
    | with_reducible assumption
    | with_reducible apply Keeps.wr
    | with_reducible apply Keeps.event
    | with_reducible apply Keeps.ite
    | dsimp only
    | decide +kernel

theorem cantleReads {kb : Bool} {k0 s : State} (hk : Keeps kb k0 s) :
    Keeps kb k0 (State.cantleReads s) := by
  unfold State.cantleReads
  repeat' first
    | with_reducible assumption
    | with_reducible apply Keeps.wr
    | dsimp only
    | decide +kernel

theorem onCantleRing {kb : Bool} {k0 s : State} {src : Source} {ring : Nat} {op : State → State} (hk : Keeps kb k0 s) (hop : ∀ t, Keeps kb k0 t → Keeps kb k0 (op t)) :
    Keeps kb k0 (State.onCantleRing s src ring op) := by
  unfold State.onCantleRing
  repeat' first
    | with_reducible assumption
    | with_reducible apply Keeps.ite
    | apply hop
    | dsimp only
    | decide +kernel

theorem execDoorbell {kb : Bool} {k0 s : State} {src : Source} {vef : Fin 129} {ring : Fin 8} {value : BitVec 32} (hk : Keeps kb k0 s) :
    AnsKeeps kb k0 (Sys2Proof.Machine.execDoorbell src vef ring value s) := by
  unfold Sys2Proof.Machine.execDoorbell
  repeat' first
    | with_reducible assumption
    | intro _
    | with_reducible apply Keeps.cantleReads
    | with_reducible apply Keeps.denied
    | with_reducible apply Keeps.doorbell
    | with_reducible apply Keeps.onCantleRing
    | with_reducible apply Keeps.next
    | with_reducible apply Keeps.ite
    | with_reducible apply Keeps.ans_ite
    | dsimp only
    | decide +kernel

theorem sqEnable {kb : Bool} {k0 s : State} {v : Nat} {r : Nat} (hk : Keeps kb k0 s) :
    Keeps kb k0 (State.sqEnable s v r) := by
  unfold State.sqEnable
  repeat' first
    | with_reducible assumption
    | with_reducible apply Keeps.wr
    | with_reducible apply Keeps.setRing
    | dsimp only
    | decide +kernel

theorem cqEnable {kb : Bool} {k0 s : State} {v : Nat} (hk : Keeps kb k0 s) :
    Keeps kb k0 (State.cqEnable s v) := by
  unfold State.cqEnable
  repeat' first
    | with_reducible assumption
    | with_reducible apply Keeps.wr
    | with_reducible apply Keeps.setV
    | dsimp only
    | simp only [Keeps.upd]
    | simp only [State.inc, State.add, State.wr_frame, Keeps.upd_wr]
    | decide +kernel

theorem eqEnable {kb : Bool} {k0 s : State} {v : Nat} (hk : Keeps kb k0 s) :
    Keeps kb k0 (State.eqEnable s v) := by
  unfold State.eqEnable
  repeat' first
    | with_reducible assumption
    | with_reducible apply Keeps.wr
    | with_reducible apply Keeps.setV
    | dsimp only
    | simp only [Keeps.upd]
    | simp only [State.inc, State.add, State.wr_frame, Keeps.upd_wr]
    | decide +kernel

theorem aqEnable {kb : Bool} {k0 s : State} {v : Nat} (hk : Keeps kb k0 s) :
    Keeps kb k0 (State.aqEnable s v) := by
  unfold State.aqEnable
  repeat' first
    | with_reducible assumption
    | with_reducible apply Keeps.wr
    | with_reducible apply Keeps.setV
    | dsimp only
    | simp only [Keeps.upd]
    | simp only [State.inc, State.add, State.wr_frame, Keeps.upd_wr]
    | decide +kernel

theorem aqDisable {kb : Bool} {k0 s : State} {v : Nat} (hk : Keeps kb k0 s) :
    Keeps kb k0 (State.aqDisable s v) := by
  unfold State.aqDisable
  repeat' first
    | with_reducible assumption
    | with_reducible apply Keeps.wr
    | with_reducible apply Keeps.closeEnded
    | with_reducible apply Keeps.postDue
    | with_reducible apply Keeps.setV
    | dsimp only
    | simp only [Keeps.upd]
    | simp only [State.inc, State.add, State.wr_frame, Keeps.upd_wr]
    | decide +kernel

theorem sqDisable {kb : Bool} {k0 s : State} {v : Nat} {r : Nat} (hk : Keeps kb k0 s) :
    Keeps kb k0 (State.sqDisable s v r) := by
  unfold State.sqDisable
  repeat' first
    | with_reducible assumption
    | intro _
    | with_reducible apply Keeps.wr
    | with_reducible apply Keeps.endQueued
    | with_reducible apply Keeps.setRing
    | with_reducible apply Keeps.foldl
    | dsimp only
    | simp only [Keeps.upd]
    | simp only [State.inc, State.add, State.wr_frame, Keeps.upd_wr]
    | decide +kernel

theorem cqDisable {kb : Bool} {k0 s : State} {v : Nat} (hk : Keeps kb k0 s) :
    Keeps kb k0 (State.cqDisable s v) := by
  unfold State.cqDisable
  repeat' first
    | with_reducible assumption
    | intro _
    | with_reducible apply Keeps.wr
    | with_reducible apply Keeps.ite
    | dsimp only
    | decide +kernel

theorem ringStore {kb : Bool} {k0 s : State} {f : Fld} {rule : Nat → Nat} {o : Nat} {b : Nat} {value : Nat} {v : Nat} {r : Nat} (hk : Keeps kb k0 s) (hf : f.plain = true) :
    Keeps kb k0 (State.ringStore s f rule o b value v r) := by
  unfold State.ringStore
  repeat' first
    | with_reducible assumption
    | with_reducible apply Keeps.wr
    | with_reducible apply Keeps.ite
    | dsimp only
    | decide +kernel

theorem sqCfgWrite {kb : Bool} {k0 s : State} {v : Nat} {r : Nat} {o : Nat} {b : Nat} {value : Nat} (hk : Keeps kb k0 s) :
    Keeps kb k0 (State.sqCfgWrite s v r o b value) := by
  unfold State.sqCfgWrite
  repeat' first
    | with_reducible assumption
    | with_reducible apply Keeps.wr
    | with_reducible apply Keeps.ringStore
    | with_reducible apply Keeps.sqDisable
    | with_reducible apply Keeps.sqEnable
    | with_reducible apply Keeps.store
    | with_reducible apply Keeps.ite
    | dsimp only
    | decide +kernel

theorem cqCfgWrite {kb : Bool} {k0 s : State} {v : Nat} {o : Nat} {b : Nat} {value : Nat} (hk : Keeps kb k0 s) :
    Keeps kb k0 (State.cqCfgWrite s v o b value) := by
  unfold State.cqCfgWrite
  repeat' first
    | with_reducible assumption
    | with_reducible apply Keeps.wr
    | with_reducible apply Keeps.cqDisable
    | with_reducible apply Keeps.cqEnable
    | with_reducible apply Keeps.ringStore
    | with_reducible apply Keeps.store
    | with_reducible apply Keeps.ite
    | dsimp only
    | decide +kernel

theorem eqCfgWrite {kb : Bool} {k0 s : State} {v : Nat} {o : Nat} {b : Nat} {value : Nat} (hk : Keeps kb k0 s) :
    Keeps kb k0 (State.eqCfgWrite s v o b value) := by
  unfold State.eqCfgWrite
  repeat' first
    | with_reducible assumption
    | with_reducible apply Keeps.wr
    | with_reducible apply Keeps.eqEnable
    | with_reducible apply Keeps.ringStore
    | with_reducible apply Keeps.store
    | with_reducible apply Keeps.ite
    | dsimp only
    | decide +kernel

theorem aqWrite {kb : Bool} {k0 s : State} {reg : RegName} {v : Nat} {o : Nat} {b : Nat} {value : Nat} (hk : Keeps kb k0 s) :
    Keeps kb k0 (State.aqWrite s reg v o b value) := by
  unfold State.aqWrite
  repeat' first
    | with_reducible assumption
    | with_reducible apply Keeps.wr
    | with_reducible apply Keeps.aqDisable
    | with_reducible apply Keeps.aqEnable
    | with_reducible apply Keeps.given
    | with_reducible apply Keeps.store
    | with_reducible apply Keeps.ite
    | split
    | dsimp only
    | decide +kernel

theorem vefCfgWrite {kb : Bool} {k0 s : State} {v : Nat} {o : Nat} {b : Nat} {value : Nat} (hk : Keeps kb k0 s) :
    Keeps kb k0 (State.vefCfgWrite s v o b value) := by
  unfold State.vefCfgWrite
  repeat' first
    | with_reducible assumption
    | with_reducible apply Keeps.wr
    | with_reducible apply Keeps.store
    | with_reducible apply Keeps.ite
    | dsimp only
    | decide +kernel

theorem ringRegWrite {kb : Bool} {k0 s : State} {h : Hit} {b : Nat} {value : Nat} (hk : Keeps kb k0 s) :
    Keeps kb k0 (State.ringRegWrite s h b value) := by
  unfold State.ringRegWrite
  repeat' first
    | with_reducible assumption
    | with_reducible apply Keeps.wr
    | with_reducible apply Keeps.aqWrite
    | with_reducible apply Keeps.cqCfgWrite
    | with_reducible apply Keeps.eqCfgWrite
    | with_reducible apply Keeps.given
    | with_reducible apply Keeps.sqCfgWrite
    | with_reducible apply Keeps.store
    | with_reducible apply Keeps.vefCfgWrite
    | with_reducible apply Keeps.ite
    | split
    | dsimp only
    | decide +kernel

theorem ringCfgWrite {kb : Bool} {k0 s : State} {src : Source} {addr : Nat} {b : Nat} {value : Nat} (hk : Keeps kb k0 s) :
    Keeps kb k0 (State.ringCfgWrite s src addr b value) := by
  unfold State.ringCfgWrite
  repeat' first
    | with_reducible assumption
    | with_reducible apply Keeps.denied
    | with_reducible apply Keeps.ringRegWrite
    | with_reducible apply Keeps.ite
    | split
    | dsimp only
    | decide +kernel

theorem ringCfgAccess {kb : Bool} {k0 s : State} {src : Source} {addr : Nat} {b : Nat} {value : Nat} (hk : Keeps kb k0 s) :
    Keeps kb k0 (State.ringCfgAccess s src addr b value) := by
  unfold State.ringCfgAccess
  repeat' first
    | with_reducible assumption
    | with_reducible apply Keeps.ringCfgWrite
    | with_reducible apply Keeps.ite
    | split
    | dsimp only
    | decide +kernel

theorem execRingConfigWrite {kb : Bool} {k0 s : State} {src : Source} {addr : Nat} {bytes : Nat} {value : Nat} (hk : Keeps kb k0 s) :
    AnsKeeps kb k0 (Sys2Proof.Machine.execRingConfigWrite src addr bytes value s) := by
  unfold Sys2Proof.Machine.execRingConfigWrite
  repeat' first
    | with_reducible assumption
    | with_reducible apply Keeps.ringCfgAccess
    | with_reducible apply Keeps.next
    | with_reducible apply Keeps.ite
    | with_reducible apply Keeps.ans_ite
    | dsimp only
    | decide +kernel

theorem cantleRings {kb : Bool} {k0 s : State} (hk : Keeps kb k0 s) :
    Keeps kb k0 (State.cantleRings s) := by
  unfold State.cantleRings
  repeat' first
    | with_reducible assumption
    | with_reducible apply Keeps.wr
    | with_reducible apply Keeps.cqEnable
    | with_reducible apply Keeps.sqEnable
    | with_reducible apply Keeps.ite
    | dsimp only
    | decide +kernel

theorem execRingEnable {kb : Bool} {k0 s : State} {src : Source} {vef : Fin 129} {ring : RingSel} (hk : Keeps kb k0 s) :
    AnsKeeps kb k0 (Sys2Proof.Machine.execRingEnable src vef ring s) := by
  unfold Sys2Proof.Machine.execRingEnable
  repeat' first
    | with_reducible assumption
    | intro _
    | with_reducible apply Keeps.aqEnable
    | with_reducible apply Keeps.cqEnable
    | with_reducible apply Keeps.denied
    | with_reducible apply Keeps.eqEnable
    | with_reducible apply Keeps.onCantleRing
    | with_reducible apply Keeps.sqEnable
    | with_reducible apply Keeps.next
    | with_reducible apply Keeps.ite
    | with_reducible apply Keeps.ans_ite
    | split
    | dsimp only
    | decide +kernel

theorem execSqDisable {kb : Bool} {k0 s : State} {src : Source} {vef : Fin 129} {ring : Fin 8} (hk : Keeps kb k0 s) :
    AnsKeeps kb k0 (Sys2Proof.Machine.execSqDisable src vef ring s) := by
  unfold Sys2Proof.Machine.execSqDisable
  repeat' first
    | with_reducible assumption
    | intro _
    | with_reducible apply Keeps.denied
    | with_reducible apply Keeps.onCantleRing
    | with_reducible apply Keeps.sqDisable
    | with_reducible apply Keeps.next
    | with_reducible apply Keeps.ite
    | with_reducible apply Keeps.ans_ite
    | dsimp only
    | decide +kernel

theorem joinQueue {kb : Bool} {k0 s : State} {c : Cmd} (hk : Keeps kb k0 s) :
    Keeps kb k0 (State.joinQueue s c) := by
  unfold State.joinQueue
  repeat' first
    | with_reducible assumption
    | with_reducible apply Keeps.complete
    | with_reducible apply Keeps.refreshIdle
    | with_reducible apply Keeps.setRing
    | with_reducible apply Keeps.ite
    | split
    | dsimp only
    | simp only [Keeps.upd]
    | decide +kernel

theorem fetch {kb : Bool} {k0 s : State} {v : Nat} {r : Nat} (hk : Keeps kb k0 s) :
    Keeps kb k0 (State.fetch s v r) := by
  unfold State.fetch
  repeat' first
    | with_reducible assumption
    | with_reducible apply Keeps.inc
    | with_reducible apply Keeps.wr
    | with_reducible apply Keeps.complete
    | with_reducible apply Keeps.joinQueue
    | with_reducible apply Keeps.ringTouch
    | with_reducible apply Keeps.setV
    | with_reducible apply Keeps.ite
    | dsimp only
    | simp only [Keeps.upd]
    | simp only [State.inc, State.add, State.wr_frame, Keeps.upd_wr]
    | decide +kernel

theorem execDescriptorFetch {kb : Bool} {k0 s : State} {vef : Fin 129} (hk : Keeps kb k0 s) :
    AnsKeeps kb k0 (Sys2Proof.Machine.execDescriptorFetch vef s) := by
  unfold Sys2Proof.Machine.execDescriptorFetch
  repeat' first
    | with_reducible assumption
    | with_reducible apply Keeps.fetch
    | with_reducible apply Keeps.next
    | with_reducible apply Keeps.ite
    | with_reducible apply Keeps.ans_ite
    | split
    | dsimp only
    | decide +kernel

theorem execNop {kb : Bool} {k0 s : State} {res : Res} {cls : Fin 4} (hk : Keeps kb k0 s) :
    AnsKeeps kb k0 (Sys2Proof.Machine.execNop res cls s) := by
  unfold Sys2Proof.Machine.execNop
  repeat' first
    | with_reducible assumption
    | with_reducible apply Keeps.endQueued
    | with_reducible apply Keeps.next
    | with_reducible apply Keeps.ite
    | with_reducible apply Keeps.ans_ite
    | split
    | dsimp only
    | decide +kernel

theorem fenceDone {kb : Bool} {k0 s : State} {c : Cmd} (hk : Keeps kb k0 s) :
    Keeps kb k0 (State.fenceDone s c) := by
  unfold State.fenceDone
  repeat' first
    | with_reducible assumption
    | with_reducible apply Keeps.endQueued
    | with_reducible apply Keeps.setRing
    | dsimp only
    | simp only [Keeps.upd]
    | decide +kernel

theorem execFence {kb : Bool} {k0 s : State} {res : Res} {cls : Fin 4} (hk : Keeps kb k0 s) :
    AnsKeeps kb k0 (Sys2Proof.Machine.execFence res cls s) := by
  unfold Sys2Proof.Machine.execFence
  repeat' first
    | with_reducible assumption
    | with_reducible apply Keeps.fenceDone
    | with_reducible apply Keeps.setRing
    | with_reducible apply Keeps.next
    | with_reducible apply Keeps.ite
    | with_reducible apply Keeps.ans_ite
    | split
    | dsimp only
    | simp only [Keeps.upd]
    | decide +kernel

theorem execFenceRelease {kb : Bool} {k0 s : State} {vef : Fin 129} {ring : Fin 8} (hk : Keeps kb k0 s) :
    AnsKeeps kb k0 (Sys2Proof.Machine.execFenceRelease vef ring s) := by
  unfold Sys2Proof.Machine.execFenceRelease
  repeat' first
    | with_reducible assumption
    | intro _
    | with_reducible apply Keeps.fenceDone
    | with_reducible apply Keeps.setRing
    | with_reducible apply Keeps.next
    | with_reducible apply Keeps.ite
    | with_reducible apply Keeps.ans_ite
    | split
    | dsimp only
    | simp only [Keeps.upd]
    | decide +kernel

theorem execAccountingWindowEnd {kb : Bool} {k0 s : State} {vef : Fin 128} (hk : Keeps kb k0 s) :
    AnsKeeps kb k0 (Sys2Proof.Machine.execAccountingWindowEnd vef s) := by
  unfold Sys2Proof.Machine.execAccountingWindowEnd
  repeat' first
    | with_reducible assumption
    | with_reducible apply Keeps.closeEnded
    | with_reducible apply Keeps.postDue
    | with_reducible apply Keeps.next
    | with_reducible apply Keeps.ite
    | with_reducible apply Keeps.ans_ite
    | dsimp only
    | decide +kernel

theorem execAccountingRecordDeferred {kb : Bool} {k0 s : State} {vef : Fin 128} (hk : Keeps kb k0 s) :
    AnsKeeps kb k0 (Sys2Proof.Machine.execAccountingRecordDeferred vef s) := by
  unfold Sys2Proof.Machine.execAccountingRecordDeferred
  repeat' first
    | with_reducible assumption
    | with_reducible apply Keeps.acctWrite
    | with_reducible apply Keeps.setV
    | with_reducible apply Keeps.next
    | with_reducible apply Keeps.ite
    | with_reducible apply Keeps.ans_ite
    | split
    | dsimp only
    | simp only [Keeps.upd]
    | decide +kernel

theorem execEnergyRecalibration {kb : Bool} {k0 s : State} {cell : Nat} {engine : Nat} {byte : Nat} {static : List Nat} (hk : Keeps kb k0 s) :
    AnsKeeps kb k0 (Sys2Proof.Machine.execEnergyRecalibration cell engine byte static s) := by
  unfold Sys2Proof.Machine.execEnergyRecalibration
  repeat' first
    | with_reducible assumption
    | with_reducible apply Keeps.next
    | with_reducible apply Keeps.ite
    | with_reducible apply Keeps.ans_ite
    | dsimp only
    | simp only [Keeps.upd]
    | decide +kernel

end Keeps

end Sys2Proof.Machine
end

