-- ==== Sys2Proof/Laws/KeepsFusionOps.lean ====
section
/-! SUPPORT. What the operations of Machine/FusionOps.lean keep. -/

namespace Sys2Proof.Machine

namespace Keeps

set_option Elab.async false
set_option linter.unusedSimpArgs false
set_option linter.unusedVariables false

theorem setSrc {kb : Bool} {k0 s : State} {i : Nat} {x : SrcRt} (hk : Keeps kb k0 s) :
    Keeps kb k0 (State.setSrc s i x) := by
  unfold State.setSrc
  repeat' first
    | with_reducible assumption
    | dsimp only
    | simp only [Keeps.upd]
    | decide +kernel

theorem fusEvent {kb : Bool} {k0 s : State} {type : Nat} {source : Nat} {detail : Nat} (hk : Keeps kb k0 s) :
    Keeps kb k0 (State.fusEvent s type source detail) := by
  unfold State.fusEvent
  repeat' first
    | with_reducible assumption
    | with_reducible apply Keeps.event
    | dsimp only
    | decide +kernel

theorem drop {kb : Bool} {k0 s : State} {i : Nat} (hk : Keeps kb k0 s) :
    Keeps kb k0 (State.drop s i) := by
  unfold State.drop
  repeat' first
    | with_reducible assumption
    | with_reducible apply Keeps.inc
    | dsimp only
    | decide +kernel

theorem dropFull {kb : Bool} {k0 s : State} {i : Nat} (hk : Keeps kb k0 s) :
    Keeps kb k0 (State.dropFull s i) := by
  unfold State.dropFull
  repeat' first
    | with_reducible assumption
    | with_reducible apply Keeps.drop
    | with_reducible apply Keeps.fusEvent
    | dsimp only
    | decide +kernel

theorem takeSlot {kb : Bool} {k0 s : State} {i : Nat} {slot : Nat} {f : OpenFrame} (hk : Keeps kb k0 s) :
    Keeps kb k0 (State.takeSlot s i slot f) := by
  unfold State.takeSlot
  repeat' first
    | with_reducible assumption
    | intro _
    | with_reducible apply Keeps.setSrc
    | dsimp only
    | simp only [Keeps.upd]
    | decide +kernel

theorem pend {kb : Bool} {k0 s : State} {i : Nat} {st : Nat} (hk : Keeps kb k0 s) :
    Keeps kb k0 (State.pend s i st) := by
  unfold State.pend
  repeat' first
    | with_reducible assumption
    | with_reducible apply Keeps.setSrc
    | dsimp only
    | simp only [Keeps.upd]
    | decide +kernel

theorem estUpdate {kb : Bool} {k0 s : State} {i : Nat} {a : Nat} {t : Nat} (hk : Keeps kb k0 s) :
    Keeps kb k0 (State.estUpdate s i a t) := by
  unfold State.estUpdate
  repeat' first
    | with_reducible assumption
    | intro _
    | with_reducible apply Keeps.wr
    | with_reducible apply Keeps.keep
    | with_reducible apply Keeps.pend
    | with_reducible apply Keeps.setSrc
    | with_reducible apply Keeps.ite_fst
    | with_reducible apply Keeps.foldl_fst
    | with_reducible apply Keeps.ite
    | dsimp only
    | simp only [Keeps.upd]
    | simp only [State.inc, State.add, State.wr_frame, Keeps.upd_wr]
    | decide +kernel

theorem oosAdd {kb : Bool} {k0 s : State} {i : Nat} {p : Sample} (hk : Keeps kb k0 s) :
    Keeps kb k0 (State.oosAdd s i p) := by
  unfold State.oosAdd
  repeat' first
    | with_reducible assumption
    | with_reducible apply Keeps.inc
    | with_reducible apply Keeps.setSrc
    | with_reducible apply Keeps.ite
    | dsimp only
    | simp only [Keeps.upd]
    | simp only [State.inc, State.add, State.wr_frame, Keeps.upd_wr]
    | decide +kernel

theorem lateHistory {kb : Bool} {k0 s : State} {i : Nat} {k : Nat} (hk : Keeps kb k0 s) :
    Keeps kb k0 (State.lateHistory s i k) := by
  unfold State.lateHistory
  repeat' first
    | with_reducible assumption
    | intro _
    | with_reducible apply Keeps.inc
    | with_reducible apply Keeps.pend
    | with_reducible apply Keeps.setSrc
    | with_reducible apply Keeps.foldl
    | with_reducible apply Keeps.ite
    | dsimp only
    | simp only [Keeps.upd]
    | simp only [State.inc, State.add, State.wr_frame, Keeps.upd_wr]
    | decide +kernel

theorem placeSample {kb : Bool} {k0 s : State} {i : Nat} {f : OpenFrame} (hk : Keeps kb k0 s) :
    Keeps kb k0 (State.placeSample s i f) := by
  unfold State.placeSample
  repeat' first
    | with_reducible assumption
    | with_reducible apply Keeps.inc
    | with_reducible apply Keeps.drop
    | with_reducible apply Keeps.lateHistory
    | with_reducible apply Keeps.oosAdd
    | with_reducible apply Keeps.setSrc
    | with_reducible apply Keeps.ite
    | split
    | dsimp only
    | simp only [Keeps.upd]
    | simp only [State.inc, State.add, State.wr_frame, Keeps.upd_wr]
    | decide +kernel

theorem slotHeader {kb : Bool} {k0 s : State} {i : Nat} {f : OpenFrame} (hk : Keeps kb k0 s) :
    Keeps kb k0 (State.slotHeader s i f) := by
  unfold State.slotHeader
  repeat' first
    | with_reducible assumption
    | with_reducible apply Keeps.memWrite
    | with_reducible apply Keeps.ite
    | dsimp only
    | decide +kernel

theorem putRecord {kb : Bool} {k0 s : State} {i : Nat} {stamp : Int} {flags : Nat} {id : Nat} {data : Bytes} (hk : Keeps kb k0 s) :
    Keeps kb k0 (State.putRecord s i stamp flags id data) := by
  unfold State.putRecord
  repeat' first
    | with_reducible assumption
    | with_reducible apply Keeps.dropFull
    | with_reducible apply Keeps.memWrite
    | with_reducible apply Keeps.setSrc
    | with_reducible apply Keeps.ite
    | dsimp only
    | simp only [Keeps.upd]
    | decide +kernel

theorem canIngest {kb : Bool} {k0 s : State} {port : Nat} {id : Nat} {flags : Nat} {data : Bytes} (hk : Keeps kb k0 s) :
    Keeps kb k0 (State.canIngest s port id flags data) := by
  unfold State.canIngest
  repeat' first
    | with_reducible assumption
    | intro _
    | with_reducible apply Keeps.putRecord
    | with_reducible apply Keeps.foldl
    | with_reducible apply Keeps.ite
    | dsimp only
    | decide +kernel

theorem srcState {kb : Bool} {k0 s : State} {i : Nat} {new : Nat} {k : Nat} (hk : Keeps kb k0 s) :
    Keeps kb k0 (State.srcState s i new k) := by
  unfold State.srcState
  repeat' first
    | with_reducible assumption
    | with_reducible apply Keeps.wr
    | with_reducible apply Keeps.fusEvent
    | with_reducible apply Keeps.ite
    | dsimp only
    | decide +kernel

theorem applyState {kb : Bool} {k0 s : State} {k : Nat} {i : Nat} (hk : Keeps kb k0 s) :
    Keeps kb k0 (State.applyState s k i) := by
  unfold State.applyState
  repeat' first
    | with_reducible assumption
    | with_reducible apply Keeps.pend
    | with_reducible apply Keeps.setSrc
    | with_reducible apply Keeps.srcState
    | with_reducible apply Keeps.ite
    | split
    | dsimp only
    | simp only [Keeps.upd]
    | decide +kernel

theorem afterRelease {kb : Bool} {k0 s : State} {k : Nat} {i : Nat} {l : Listing} (hk : Keeps kb k0 s) :
    Keeps kb k0 (State.afterRelease s k i l) := by
  unfold State.afterRelease
  repeat' first
    | with_reducible assumption
    | with_reducible apply Keeps.inc
    | with_reducible apply Keeps.setSrc
    | with_reducible apply Keeps.ite
    | dsimp only
    | simp only [Keeps.upd]
    | simp only [State.inc, State.add, State.wr_frame, Keeps.upd_wr]
    | decide +kernel

theorem expire {kb : Bool} {k0 s : State} {k : Nat} (hk : Keeps kb k0 s) :
    Keeps kb k0 (State.expire s k) := by
  unfold State.expire
  repeat' first
    | with_reducible assumption
    | intro _
    | with_reducible apply Keeps.inc
    | with_reducible apply Keeps.contained
    | with_reducible apply Keeps.foldl
    | with_reducible apply Keeps.ite
    | dsimp only
    | decide +kernel

theorem submitShadow {kb : Bool} {k0 s : State} (hk : Keeps kb k0 s) :
    Keeps kb k0 (State.submitShadow s) := by
  unfold State.submitShadow
  repeat' first
    | with_reducible assumption
    | with_reducible apply Keeps.wr
    | with_reducible apply Keeps.cantleReads
    | with_reducible apply Keeps.memWrite
    | with_reducible apply Keeps.ite
    | dsimp only
    | decide +kernel

theorem release {kb : Bool} {k0 s : State} {k : Nat} {r : Nat} {cause : Nat} (hk : Keeps kb k0 s) :
    Keeps kb k0 (State.release s k r cause) := by
  unfold State.release
  repeat' first
    | with_reducible assumption
    | intro _
    | with_reducible apply Keeps.wr
    | with_reducible apply Keeps.afterRelease
    | with_reducible apply Keeps.applyState
    | with_reducible apply Keeps.expire
    | with_reducible apply Keeps.memWrite
    | with_reducible apply Keeps.submitShadow
    | with_reducible apply Keeps.ite_fst
    | with_reducible apply Keeps.foldl_fst
    | with_reducible apply Keeps.foldl
    | with_reducible apply Keeps.ite
    | dsimp only
    | simp only [Keeps.upd]
    | simp only [State.inc, State.add, State.wr_frame, Keeps.upd_wr]
    | decide +kernel

theorem releaseLimit {kb : Bool} {k0 s : State} {k : Nat} (hk : Keeps kb k0 s) :
    Keeps kb k0 (State.releaseLimit s k) := by
  unfold State.releaseLimit
  repeat' first
    | with_reducible assumption
    | with_reducible apply Keeps.release
    | with_reducible apply Keeps.ite
    | dsimp only
    | decide +kernel

theorem releaseOverdue {kb : Bool} {k0 s : State} {n : Nat} (hk : Keeps kb k0 s) : Keeps kb k0 (s.releaseOverdue n) := by
  induction n generalizing s with
  | zero => exact hk
  | succ n ih => exact ite (ih (releaseLimit hk)) hk
end Keeps

end Sys2Proof.Machine
end

