-- ==== Sys2Proof/Laws/KeepsWindows.lean ====
section
/-! SUPPORT. What the operations of Machine/Windows.lean keep. -/

namespace Sys2Proof.Machine

namespace Keeps

set_option Elab.async false
set_option linter.unusedSimpArgs false
set_option linter.unusedVariables false

theorem noteFabric {kb : Bool} {k0 s : State} {c : Ctx} (hk : Keeps kb k0 s) :
    Keeps kb k0 (State.noteFabric s c) := by
  unfold State.noteFabric
  repeat' first
    | with_reducible assumption
    | with_reducible apply Keeps.inc
    | split
    | dsimp only
    | decide +kernel

theorem chargeFabric {kb : Bool} {k0 s : State} {c : Ctx} {n : Nat} (hk : Keeps kb k0 s) :
    Keeps kb k0 (State.chargeFabric s c n) := by
  unfold State.chargeFabric
  repeat' first
    | with_reducible assumption
    | with_reducible apply Keeps.charge
    | split
    | dsimp only
    | simp only [Keeps.upd]
    | decide +kernel

theorem targetTouch {kb : Bool} {k0 s : State} {c : Ctx} {t : Target} {n : Nat} (hk : Keeps kb k0 s) :
    Keeps kb k0 (State.targetTouch s c t n) := by
  unfold State.targetTouch
  repeat' first
    | with_reducible assumption
    | with_reducible apply Keeps.chargeFabric
    | with_reducible apply Keeps.ctxTouch
    | with_reducible apply Keeps.noteFabric
    | split
    | dsimp only
    | decide +kernel

theorem targetWrite {kb : Bool} {k0 s : State} {c : Ctx} {t : Target} {bs : Bytes} (hk : Keeps kb k0 s) :
    Keeps kb k0 (State.targetWrite s c t bs) := by
  unfold State.targetWrite
  repeat' first
    | with_reducible assumption
    | (simp only [Keeps.upd, State.emit_frame]; with_reducible apply Keeps.emit)
    | intro _
    | with_reducible apply Keeps.chargeFabric
    | with_reducible apply Keeps.ctxWrite
    | with_reducible apply Keeps.emit
    | with_reducible apply Keeps.noteFabric
    | with_reducible apply Keeps.putBytes
    | with_reducible apply Keeps.foldl
    | with_reducible apply Keeps.ite
    | split
    | (simp only [Keeps.upd]; exact emit (chargeFabric hk))
    | exact (Keeps.upd rfl rfl rfl rfl rfl rfl rfl).2 (emit (chargeFabric hk))
    | dsimp only
    | decide +kernel

theorem targetPoison {kb : Bool} {k0 s : State} {t : Target} {bad : List Nat} (hk : Keeps kb k0 s) :
    Keeps kb k0 (State.targetPoison s t bad) := by
  unfold State.targetPoison
  repeat' first
    | with_reducible assumption
    | intro _
    | with_reducible apply Keeps.poisonAt
    | with_reducible apply Keeps.foldl
    | split
    | dsimp only
    | simp only [Keeps.upd]
    | decide +kernel

theorem bufTouch {kb : Bool} {k0 s : State} {c : Cmd} {list : Nat} {count : Nat} (hk : Keeps kb k0 s) :
    Keeps kb k0 (State.bufTouch s c list count) := by
  unfold State.bufTouch
  repeat' first
    | with_reducible assumption
    | with_reducible apply Keeps.ctxTouch
    | dsimp only
    | decide +kernel

theorem publish {kb : Bool} {k0 s : State} {c : Cmd} {ws : List Win} (hk : Keeps kb k0 s) :
    Keeps kb k0 (State.publish s c ws) := by
  unfold State.publish
  repeat' first
    | with_reducible assumption
    | intro _
    | with_reducible apply Keeps.targetWrite
    | with_reducible apply Keeps.foldl
    | with_reducible apply Keeps.ite
    | dsimp only
    | decide +kernel

theorem winTouch {kb : Bool} {k0 s : State} {w : WinView} {off : Nat} {n : Nat} (hk : Keeps kb k0 s) :
    Keeps kb k0 (State.winTouch s w off n) := by
  unfold State.winTouch
  repeat' first
    | with_reducible assumption
    | with_reducible apply Keeps.targetTouch
    | with_reducible apply Keeps.ite
    | dsimp only
    | decide +kernel

theorem winWrite {kb : Bool} {k0 s : State} {w : WinView} {off : Nat} {bs : Bytes} (hk : Keeps kb k0 s) :
    Keeps kb k0 (State.winWrite s w off bs) := by
  unfold State.winWrite
  repeat' first
    | with_reducible assumption
    | with_reducible apply Keeps.targetWrite
    | dsimp only
    | decide +kernel

theorem tensorWrite {kb : Bool} {k0 s : State} {e : StateEntry} {bs : Bytes} (hk : Keeps kb k0 s) :
    Keeps kb k0 (State.tensorWrite s e bs) := by
  unfold State.tensorWrite
  repeat' first
    | with_reducible assumption
    | with_reducible apply Keeps.putBytes
    | with_reducible apply Keeps.ite
    | (refine mem_change hk _ ?_ ?_ ?_ ?_ <;> split <;> first | exact id | exact Sparse.ok_putBytes _ _ _ _)
    | dsimp only
    | simp only [Keeps.upd]
    | decide +kernel

theorem ckFlip {kb : Bool} {k0 s : State} {f : Nat} (hk : Keeps kb k0 s) :
    Keeps kb k0 (State.ckFlip s f) := by
  unfold State.ckFlip
  repeat' first
    | with_reducible assumption
    | with_reducible apply Keeps.wr
    | dsimp only
    | decide +kernel

theorem startCopies {kb : Bool} {k0 s : State} {f : Nat} (hk : Keeps kb k0 s) :
    Keeps kb k0 (State.startCopies s f) := by
  unfold State.startCopies
  repeat' first
    | with_reducible assumption
    | intro _
    | with_reducible apply Keeps.setF
    | split
    | dsimp only
    | simp only [Keeps.upd]
    | decide +kernel

theorem startRestore {kb : Bool} {k0 s : State} {f : Nat} {kind : Nat} {p : StateEntry → Bool} (hk : Keeps kb k0 s) :
    Keeps kb k0 (State.startRestore s f kind p) := by
  unfold State.startRestore
  repeat' first
    | with_reducible assumption
    | intro _
    | with_reducible apply Keeps.setF
    | split
    | dsimp only
    | simp only [Keeps.upd]
    | decide +kernel

theorem startPreload {kb : Bool} {k0 s : State} {f : Nat} {kind : Nat} {p : Preload → Bool} (hk : Keeps kb k0 s) :
    Keeps kb k0 (State.startPreload s f kind p) := by
  unfold State.startPreload
  repeat' first
    | with_reducible assumption
    | intro _
    | with_reducible apply Keeps.setF
    | with_reducible apply Keeps.ite_fst
    | with_reducible apply Keeps.foldl_fst
    | split
    | dsimp only
    | simp only [Keeps.upd]
    | decide +kernel

theorem tensorPoison {kb : Bool} {k0 s : State} {e : StateEntry} {bad : List Nat} (hk : Keeps kb k0 s) :
    Keeps kb k0 (State.tensorPoison s e bad) := by
  unfold State.tensorPoison
  repeat' first
    | with_reducible assumption
    | intro _
    | with_reducible apply Keeps.foldl
    | with_reducible apply Keeps.ite
    | (refine mem_change (by assumption) _ ?_ ?_ ?_ ?_ <;> split <;> exact id)
    | dsimp only
    | simp only [Keeps.upd]
    | decide +kernel

theorem doMove {kb : Bool} {k0 s : State} {f : Nat} {m : ClMove} (hk : Keeps kb k0 s) :
    Keeps kb k0 (State.doMove s f m).1 := by
  unfold State.doMove
  repeat' first
    | with_reducible assumption
    | with_reducible apply Keeps.fldError
    | with_reducible apply Keeps.tensorPoison
    | with_reducible apply Keeps.tensorWrite
    | with_reducible apply Keeps.winTouch
    | with_reducible apply Keeps.winWrite
    | with_reducible apply Keeps.ite_fst
    | with_reducible apply Keeps.foldl_fst
    | with_reducible apply Keeps.ite
    | split
    | dsimp only
    | decide +kernel

end Keeps

end Sys2Proof.Machine
end

