-- ==== Sys2Proof/Laws/KeepsSeqOps.lean ====
section
/-! SUPPORT. What the operations of Machine/SeqOps.lean keep. -/

namespace Sys2Proof.Machine

namespace Keeps

set_option Elab.async false
set_option linter.unusedSimpArgs false
set_option linter.unusedVariables false

theorem insertBlocks {kb : Bool} {k0 s : State} {p dom shared n i key parent : Nat} {toks : Bytes} {groups : List Nat}
    {acc : List (Nat × Nat)} (hk : Keeps kb k0 s) : Keeps kb k0 (s.insertBlocks p dom toks groups shared n i key parent acc).1 := by
  induction n generalizing s i key parent acc with
  | zero => exact hk
  | succ n ih =>
    unfold State.insertBlocks
    dsimp only
    split
    · exact ih (pfxInsert hk)
    · exact ih (pfxInsert hk)

theorem copyTokens {kb : Bool} {k0 s : State} {p : Nat} {toks : Bytes} {groups : List Nat} {shared : Nat} (hk : Keeps kb k0 s) :
    Keeps kb k0 (State.copyTokens s p toks groups shared) := by
  unfold State.copyTokens
  repeat' first
    | with_reducible assumption
    | intro _
    | with_reducible apply Keeps.ctxWrite
    | with_reducible apply Keeps.ite_fst
    | with_reducible apply Keeps.foldl_fst
    | with_reducible apply Keeps.foldl
    | with_reducible apply Keeps.ite
    | dsimp only
    | decide +kernel

theorem seqAdmit {kb : Bool} {k0 s : State} {f : Nat} {p : Nat} {c : Cmd} (hk : Keeps kb k0 s) :
    Keeps kb k0 (State.seqAdmit s f p c).1 := by
  unfold State.seqAdmit
  repeat' first
    | with_reducible assumption
    | intro _
    | with_reducible apply Keeps.inc
    | with_reducible apply Keeps.add
    | with_reducible apply Keeps.copyTokens
    | with_reducible apply Keeps.ctxTouch
    | with_reducible apply Keeps.insertBlocks
    | with_reducible apply Keeps.pfxRefs
    | with_reducible apply Keeps.reclaim
    | with_reducible apply Keeps.setPool
    | with_reducible apply Keeps.ite_fst
    | with_reducible apply Keeps.foldl_fst
    | with_reducible apply Keeps.foldl
    | with_reducible apply Keeps.ite
    | (refine Keeps.of_pair (by assumption) ?_)
    | split
    | dsimp only
    | decide +kernel

theorem seqRetire {kb : Bool} {k0 s : State} {p : Nat} {c : Cmd} (hk : Keeps kb k0 s) :
    Keeps kb k0 (State.seqRetire s p c).1 := by
  unfold State.seqRetire
  repeat' first
    | with_reducible assumption
    | with_reducible apply Keeps.retireSeq
    | with_reducible apply Keeps.ite_fst
    | with_reducible apply Keeps.foldl_fst
    | split
    | dsimp only
    | decide +kernel

theorem prefixPin {kb : Bool} {k0 s : State} {f : Nat} {p : Nat} {c : Cmd} (hk : Keeps kb k0 s) :
    Keeps kb k0 (State.prefixPin s f p c).1 := by
  unfold State.prefixPin
  repeat' first
    | with_reducible assumption
    | intro _
    | with_reducible apply Keeps.add
    | with_reducible apply Keeps.ctxTouch
    | with_reducible apply Keeps.pfxPins
    | with_reducible apply Keeps.setV
    | with_reducible apply Keeps.ite_fst
    | with_reducible apply Keeps.foldl_fst
    | with_reducible apply Keeps.foldl
    | with_reducible apply Keeps.ite
    | split
    | dsimp only
    | simp only [Keeps.upd]
    | simp only [State.inc, State.add, State.wr_frame, Keeps.upd_wr]
    | decide +kernel

theorem prefixUnpin {kb : Bool} {k0 s : State} {f : Nat} {p : Nat} {c : Cmd} (hk : Keeps kb k0 s) :
    Keeps kb k0 (State.prefixUnpin s f p c).1 := by
  unfold State.prefixUnpin
  repeat' first
    | with_reducible assumption
    | intro _
    | with_reducible apply Keeps.add
    | with_reducible apply Keeps.ctxTouch
    | with_reducible apply Keeps.pfxPins
    | with_reducible apply Keeps.setV
    | with_reducible apply Keeps.ite_fst
    | with_reducible apply Keeps.foldl_fst
    | with_reducible apply Keeps.foldl
    | with_reducible apply Keeps.ite
    | split
    | dsimp only
    | simp only [Keeps.upd]
    | simp only [State.inc, State.add, State.wr_frame, Keeps.upd_wr]
    | decide +kernel

theorem validate {kb : Bool} {k0 s : State} {p : Nat} {i : Nat} (hk : Keeps kb k0 s) :
    Keeps kb k0 (State.validate s p i) := by
  unfold State.validate
  repeat' first
    | with_reducible assumption
    | intro _
    | with_reducible apply Keeps.setPfx
    | with_reducible apply Keeps.setPool
    | with_reducible apply Keeps.ite_fst
    | with_reducible apply Keeps.foldl_fst
    | with_reducible apply Keeps.foldl
    | with_reducible apply Keeps.ite
    | split
    | dsimp only
    | simp only [Keeps.upd]
    | decide +kernel

theorem putToken {kb : Bool} {k0 s : State} {p : Nat} {q : SeqSt} {pos : Nat} {tok : Nat} (hk : Keeps kb k0 s) :
    Keeps kb k0 (State.putToken s p q pos tok) := by
  unfold State.putToken
  repeat' first
    | with_reducible assumption
    | with_reducible apply Keeps.ctxWrite
    | dsimp only
    | decide +kernel

theorem commitEntry {kb : Bool} {k0 s : State} {p : Nat} {j : Job} {e : Nat} {r : StepRun} (hk : Keeps kb k0 s) :
    Keeps kb k0 (State.commitEntry s p j e r) := by
  unfold State.commitEntry
  repeat' first
    | with_reducible assumption
    | intro _
    | with_reducible apply Keeps.putToken
    | with_reducible apply Keeps.setPool
    | with_reducible apply Keeps.targetWrite
    | with_reducible apply Keeps.validate
    | with_reducible apply Keeps.ite_fst
    | with_reducible apply Keeps.foldl_fst
    | with_reducible apply Keeps.foldl
    | with_reducible apply Keeps.ite
    | split
    | dsimp only
    | simp only [Keeps.upd]
    | decide +kernel

theorem commitSteps {kb : Bool} {k0 s : State} {f : Nat} {j : Job} (hk : Keeps kb k0 s) :
    Keeps kb k0 (State.commitSteps s f j).1 := by
  unfold State.commitSteps
  repeat' first
    | with_reducible assumption
    | intro _
    | with_reducible apply Keeps.commitEntry
    | with_reducible apply Keeps.ite_fst
    | with_reducible apply Keeps.foldl_fst
    | with_reducible apply Keeps.foldl
    | split
    | dsimp only
    | decide +kernel

end Keeps

end Sys2Proof.Machine
end

