-- ==== Sys2Proof/Laws/KeepsSchedule.lean ====
section
/-! SUPPORT. What the operations of Machine/Schedule.lean keep. -/

namespace Sys2Proof.Machine

namespace Keeps

set_option Elab.async false
set_option linter.unusedSimpArgs false
set_option linter.unusedVariables false

theorem resolveFrame {kb : Bool} {k0 s : State} {f : Nat} {c : Cmd} (hk : Keeps kb k0 s) :
    Keeps kb k0 (State.resolveFrame s f c) := by
  unfold State.resolveFrame
  repeat' first
    | with_reducible assumption
    | with_reducible apply Keeps.ite
    | split
    | dsimp only
    | simp only [Keeps.upd]
    | decide +kernel

theorem seedField {kb : Bool} {k0 s : State} {f : Fin 17} (hk : Keeps kb k0 s) :
    Keeps kb k0 (State.seedField s f) := by
  unfold State.seedField
  repeat' first
    | with_reducible assumption
    | intro _
    | with_reducible apply Keeps.drawn
    | with_reducible apply Keeps.onCells
    | dsimp only
    | simp only [Keeps.upd]
    | decide +kernel

theorem admitField {kb : Bool} {k0 s : State} {f : Fin 17} {j : Job} (hk : Keeps kb k0 s) :
    Keeps kb k0 (State.admitField s f j) := by
  unfold State.admitField
  repeat' first
    | with_reducible assumption
    | with_reducible apply Keeps.countFlight
    | with_reducible apply Keeps.seedField
    | with_reducible apply Keeps.setState
    | with_reducible apply Keeps.ite
    | dsimp only
    | simp only [Keeps.upd]
    | decide +kernel

theorem takeCores {kb : Bool} {k0 s : State} (hk : Keeps kb k0 s) :
    Keeps kb k0 (State.takeCores s) := by
  unfold State.takeCores
  repeat' first
    | with_reducible assumption
    | intro _
    | with_reducible apply Keeps.wr
    | with_reducible apply Keeps.each
    | with_reducible apply Keeps.ite
    | dsimp only
    | decide +kernel

theorem takeUp {kb : Bool} {k0 s : State} {r : Res} {c : Cmd} (hk : Keeps kb k0 s) :
    Keeps kb k0 (State.takeUp s r c) := by
  unfold State.takeUp
  repeat' first
    | with_reducible assumption
    | with_reducible apply Keeps.admitField
    | with_reducible apply Keeps.ctxTouch
    | with_reducible apply Keeps.dequeue
    | with_reducible apply Keeps.takeCores
    | with_reducible apply Keeps.ite
    | split
    | dsimp only
    | simp only [Keeps.upd]
    | decide +kernel

theorem assign {kb : Bool} {k0 s : State} {e : Fin 4} {c : Cmd} (hk : Keeps kb k0 s) :
    Keeps kb k0 (State.assign s e c) := by
  unfold State.assign
  repeat' first
    | with_reducible assumption
    | with_reducible apply Keeps.wr
    | with_reducible apply Keeps.dequeue
    | split
    | dsimp only
    | simp only [Keeps.upd]
    | simp only [State.inc, State.add, State.wr_frame, Keeps.upd_wr]
    | decide +kernel

theorem resolveHeads {kb : Bool} {k0 s : State} {f : Fin 17} (hk : Keeps kb k0 s) :
    Keeps kb k0 (State.resolveHeads s f) := by
  unfold State.resolveHeads
  repeat' first
    | with_reducible assumption
    | intro _
    | with_reducible apply Keeps.resolveFrame
    | with_reducible apply Keeps.foldl
    | split
    | dsimp only
    | decide +kernel

theorem admitNext {kb : Bool} {k0 s : State} {r : Res} (hk : Keeps kb k0 s) :
    Keeps kb k0 (State.admitNext s r) := by
  unfold State.admitNext
  repeat' first
    | with_reducible assumption
    | with_reducible apply Keeps.endQueued
    | with_reducible apply Keeps.takeUp
    | split
    | dsimp only
    | decide +kernel

theorem execCommandAdmit {kb : Bool} {k0 s : State} {res : Res} (hk : Keeps kb k0 s) :
    AnsKeeps kb k0 (Sys2Proof.Machine.execCommandAdmit res s) := by
  unfold Sys2Proof.Machine.execCommandAdmit
  repeat' first
    | with_reducible assumption
    | with_reducible apply Keeps.admitNext
    | with_reducible apply Keeps.assign
    | with_reducible apply Keeps.resolveHeads
    | with_reducible apply Keeps.next
    | with_reducible apply Keeps.ite
    | with_reducible apply Keeps.ans_ite
    | split
    | dsimp only
    | decide +kernel

theorem execPreemptKill {kb : Bool} {k0 s : State} {res : Res} (hk : Keeps kb k0 s) :
    AnsKeeps kb k0 (Sys2Proof.Machine.execPreemptKill res s) := by
  unfold Sys2Proof.Machine.execPreemptKill
  repeat' first
    | with_reducible assumption
    | with_reducible apply Keeps.killField
    | with_reducible apply Keeps.next
    | with_reducible apply Keeps.ite
    | with_reducible apply Keeps.ans_ite
    | split
    | dsimp only
    | simp only [Keeps.upd]
    | decide +kernel

theorem dropGoldens {kb : Bool} {k0 s : State} {f : Fin 17} (hk : Keeps kb k0 s) :
    Keeps kb k0 (State.dropGoldens s f) := by
  unfold State.dropGoldens
  repeat' first
    | with_reducible assumption
    | intro _
    | with_reducible apply Keeps.dropJob
    | with_reducible apply Keeps.releaseSlot
    | with_reducible apply Keeps.foldl
    | with_reducible apply Keeps.ite
    | dsimp only
    | decide +kernel

theorem fieldKilled {kb : Bool} {k0 s : State} {f : Fin 17} (hk : Keeps kb k0 s) :
    Keeps kb k0 (State.fieldKilled s f) := by
  unfold State.fieldKilled
  repeat' first
    | with_reducible assumption
    | with_reducible apply Keeps.clearEmptied
    | with_reducible apply Keeps.countFlight
    | with_reducible apply Keeps.dropGoldens
    | with_reducible apply Keeps.requeue
    | with_reducible apply Keeps.setF
    | with_reducible apply Keeps.setState
    | with_reducible apply Keeps.startReinit
    | with_reducible apply Keeps.ite
    | dsimp only
    | simp only [Keeps.upd]
    | decide +kernel

theorem execKillDone {kb : Bool} {k0 s : State} {res : Res} (hk : Keeps kb k0 s) :
    AnsKeeps kb k0 (Sys2Proof.Machine.execKillDone res s) := by
  unfold Sys2Proof.Machine.execKillDone
  repeat' first
    | with_reducible assumption
    | with_reducible apply Keeps.fieldKilled
    | with_reducible apply Keeps.requeue
    | with_reducible apply Keeps.next
    | with_reducible apply Keeps.ite
    | with_reducible apply Keeps.ans_ite
    | split
    | dsimp only
    | simp only [Keeps.upd]
    | decide +kernel

theorem startCells {kb : Bool} {k0 s : State} {f : Fin 17} {serial : Nat} (hk : Keeps kb k0 s) :
    Keeps kb k0 (State.startCells s f serial) := by
  unfold State.startCells
  repeat' first
    | with_reducible assumption
    | intro _
    | with_reducible apply Keeps.setCell
    | with_reducible apply Keeps.foldl
    | with_reducible apply Keeps.ite
    | split
    | dsimp only
    | simp only [Keeps.upd]
    | decide +kernel

theorem refuseJob {kb : Bool} {k0 s : State} {serial : Nat} {cause : Nat} (hk : Keeps kb k0 s) :
    Keeps kb k0 (State.refuseJob s serial cause) := by
  unfold State.refuseJob
  repeat' first
    | with_reducible assumption
    | intro _
    | with_reducible apply Keeps.changeJob
    | dsimp only
    | simp only [Keeps.upd]
    | decide +kernel

theorem startWindows {kb : Bool} {k0 s : State} {f : Fin 17} {j : Job} (hk : Keeps kb k0 s) :
    Keeps kb k0 (State.startWindows s f j) := by
  unfold State.startWindows
  repeat' first
    | with_reducible assumption
    | intro _
    | with_reducible apply Keeps.bufTouch
    | with_reducible apply Keeps.changeJob
    | with_reducible apply Keeps.refuseJob
    | with_reducible apply Keeps.startCells
    | with_reducible apply Keeps.ite_fst
    | with_reducible apply Keeps.foldl_fst
    | split
    | dsimp only
    | simp only [Keeps.upd]
    | decide +kernel

theorem execInfer {kb : Bool} {k0 s : State} {field : Fin 17} (hk : Keeps kb k0 s) :
    AnsKeeps kb k0 (Sys2Proof.Machine.execInfer field s) := by
  unfold Sys2Proof.Machine.execInfer
  repeat' first
    | with_reducible assumption
    | with_reducible apply Keeps.startWindows
    | with_reducible apply Keeps.next
    | split
    | dsimp only
    | decide +kernel

theorem execFrame {kb : Bool} {k0 s : State} {field : Fin 17} (hk : Keeps kb k0 s) :
    AnsKeeps kb k0 (Sys2Proof.Machine.execFrame field s) := by
  unfold Sys2Proof.Machine.execFrame
  repeat' first
    | with_reducible assumption
    | with_reducible apply Keeps.startWindows
    | with_reducible apply Keeps.next
    | split
    | dsimp only
    | decide +kernel

theorem execSeqStep {kb : Bool} {k0 s : State} {field : Fin 17} (hk : Keeps kb k0 s) :
    AnsKeeps kb k0 (Sys2Proof.Machine.execSeqStep field s) := by
  unfold Sys2Proof.Machine.execSeqStep
  repeat' first
    | with_reducible assumption
    | intro _
    | with_reducible apply Keeps.bufTouch
    | with_reducible apply Keeps.changeJob
    | with_reducible apply Keeps.ctxTouch
    | with_reducible apply Keeps.refuseJob
    | with_reducible apply Keeps.startCells
    | with_reducible apply Keeps.ite_fst
    | with_reducible apply Keeps.foldl_fst
    | with_reducible apply Keeps.next
    | split
    | dsimp only
    | simp only [Keeps.upd]
    | decide +kernel

theorem execFieldCheckpoint {kb : Bool} {k0 s : State} {field : Fin 17} (hk : Keeps kb k0 s) :
    AnsKeeps kb k0 (Sys2Proof.Machine.execFieldCheckpoint field s) := by
  unfold Sys2Proof.Machine.execFieldCheckpoint
  repeat' first
    | with_reducible assumption
    | intro _
    | with_reducible apply Keeps.changeJob
    | with_reducible apply Keeps.startCopies
    | with_reducible apply Keeps.next
    | split
    | dsimp only
    | simp only [Keeps.upd]
    | decide +kernel

theorem afterTable {kb : Bool} {k0 s : State} {f : Fin 17} (hk : Keeps kb k0 s) :
    Keeps kb k0 (State.afterTable s f) := by
  unfold State.afterTable
  repeat' first
    | with_reducible assumption
    | with_reducible apply Keeps.setF
    | with_reducible apply Keeps.settle
    | with_reducible apply Keeps.startReinit
    | with_reducible apply Keeps.ite
    | dsimp only
    | simp only [Keeps.upd]
    | decide +kernel

theorem tableCommand {kb : Bool} {k0 s : State} {f : Fin 17} {op : Nat} {g : State → Nat → Cmd → State × Reply} (hk : Keeps kb k0 s) (hg : ∀ t p c, Keeps kb k0 t → Keeps kb k0 (g t p c).1) :
    Keeps kb k0 (State.tableCommand s f op g) := by
  unfold State.tableCommand
  repeat' first
    | with_reducible assumption
    | with_reducible apply Keeps.afterTable
    | with_reducible apply Keeps.endJob
    | with_reducible apply Keeps.ite_fst
    | with_reducible apply Keeps.foldl_fst
    | with_reducible apply Keeps.ite
    | apply hg
    | split
    | dsimp only
    | decide +kernel

theorem commitTable {kb : Bool} {k0 s : State} {f : Fin 17} (hk : Keeps kb k0 s) :
    Keeps kb k0 (State.commitTable s f) := by
  unfold State.commitTable
  repeat' first
    | with_reducible assumption
    | intro _
    | with_reducible apply Keeps.prefixPin
    | with_reducible apply Keeps.prefixUnpin
    | with_reducible apply Keeps.seqAdmit
    | with_reducible apply Keeps.seqRetire
    | with_reducible apply Keeps.tableCommand
    | (refine Keeps.of_pair (by assumption) ?_)
    | dsimp only
    | decide +kernel

theorem execSeqAdmit {kb : Bool} {k0 s : State} {field : Fin 17} (hk : Keeps kb k0 s) :
    AnsKeeps kb k0 (Sys2Proof.Machine.execSeqAdmit field s) := by
  unfold Sys2Proof.Machine.execSeqAdmit
  repeat' first
    | with_reducible assumption
    | intro _
    | with_reducible apply Keeps.seqAdmit
    | with_reducible apply Keeps.tableCommand
    | with_reducible apply Keeps.next
    | (refine Keeps.of_pair (by assumption) ?_)
    | dsimp only
    | decide +kernel

theorem execSeqRetire {kb : Bool} {k0 s : State} {field : Fin 17} (hk : Keeps kb k0 s) :
    AnsKeeps kb k0 (Sys2Proof.Machine.execSeqRetire field s) := by
  unfold Sys2Proof.Machine.execSeqRetire
  repeat' first
    | with_reducible assumption
    | intro _
    | with_reducible apply Keeps.seqRetire
    | with_reducible apply Keeps.tableCommand
    | with_reducible apply Keeps.next
    | (refine Keeps.of_pair (by assumption) ?_)
    | dsimp only
    | decide +kernel

theorem execPrefixPin {kb : Bool} {k0 s : State} {field : Fin 17} (hk : Keeps kb k0 s) :
    AnsKeeps kb k0 (Sys2Proof.Machine.execPrefixPin field s) := by
  unfold Sys2Proof.Machine.execPrefixPin
  repeat' first
    | with_reducible assumption
    | intro _
    | with_reducible apply Keeps.prefixPin
    | with_reducible apply Keeps.tableCommand
    | with_reducible apply Keeps.next
    | (refine Keeps.of_pair (by assumption) ?_)
    | dsimp only
    | decide +kernel

theorem execPrefixUnpin {kb : Bool} {k0 s : State} {field : Fin 17} (hk : Keeps kb k0 s) :
    AnsKeeps kb k0 (Sys2Proof.Machine.execPrefixUnpin field s) := by
  unfold Sys2Proof.Machine.execPrefixUnpin
  repeat' first
    | with_reducible assumption
    | intro _
    | with_reducible apply Keeps.prefixUnpin
    | with_reducible apply Keeps.tableCommand
    | with_reducible apply Keeps.next
    | (refine Keeps.of_pair (by assumption) ?_)
    | dsimp only
    | decide +kernel

theorem execFieldRelease {kb : Bool} {k0 s : State} {field : Fin 17} (hk : Keeps kb k0 s) :
    AnsKeeps kb k0 (Sys2Proof.Machine.execFieldRelease field s) := by
  unfold Sys2Proof.Machine.execFieldRelease
  repeat' first
    | with_reducible assumption
    | intro _
    | with_reducible apply Keeps.dequeue
    | with_reducible apply Keeps.endQueued
    | with_reducible apply Keeps.setF
    | with_reducible apply Keeps.next
    | with_reducible apply Keeps.ite
    | with_reducible apply Keeps.ans_ite
    | split
    | dsimp only
    | simp only [Keeps.upd]
    | decide +kernel

theorem execFieldDetach {kb : Bool} {k0 s : State} {field : Fin 17} {vef : Fin 129} (hk : Keeps kb k0 s) :
    AnsKeeps kb k0 (Sys2Proof.Machine.execFieldDetach field vef s) := by
  unfold Sys2Proof.Machine.execFieldDetach
  repeat' first
    | with_reducible assumption
    | intro _
    | with_reducible apply Keeps.detach
    | with_reducible apply Keeps.dropReleases
    | with_reducible apply Keeps.next
    | with_reducible apply Keeps.ite
    | with_reducible apply Keeps.ans_ite
    | dsimp only
    | decide +kernel

theorem commitFrame {kb : Bool} {k0 s : State} {f : Fin 17} {j : Job} (hk : Keeps kb k0 s) :
    Keeps kb k0 (State.commitFrame s f j) := by
  unfold State.commitFrame
  repeat' first
    | with_reducible assumption
    | intro _
    | with_reducible apply Keeps.wr
    | with_reducible apply Keeps.ckFlip
    | with_reducible apply Keeps.memWrite
    | with_reducible apply Keeps.targetWrite
    | with_reducible apply Keeps.foldl
    | with_reducible apply Keeps.ite
    | split
    | dsimp only
    | decide +kernel

theorem commitField {kb : Bool} {k0 s : State} {f : Fin 17} {j : Job} (hk : Keeps kb k0 s) :
    Keeps kb k0 (State.commitField s f j) := by
  unfold State.commitField
  repeat' first
    | with_reducible assumption
    | with_reducible apply Keeps.ckFlip
    | with_reducible apply Keeps.commitFrame
    | with_reducible apply Keeps.commitSteps
    | with_reducible apply Keeps.endJob
    | with_reducible apply Keeps.publish
    | with_reducible apply Keeps.setF
    | with_reducible apply Keeps.settle
    | with_reducible apply Keeps.ite_fst
    | with_reducible apply Keeps.foldl_fst
    | with_reducible apply Keeps.ite
    | (refine Keeps.of_pair (by assumption) ?_)
    | dsimp only
    | simp only [Keeps.upd]
    | decide +kernel

theorem reportPoison {kb : Bool} {k0 s : State} {j : Job} (hk : Keeps kb k0 s) :
    Keeps kb k0 (State.reportPoison s j) := by
  unfold State.reportPoison
  repeat' first
    | with_reducible assumption
    | with_reducible apply Keeps.report
    | with_reducible apply Keeps.ite
    | split
    | dsimp only
    | decide +kernel

theorem freeEngine {kb : Bool} {k0 s : State} {j : Job} (hk : Keeps kb k0 s) :
    Keeps kb k0 (State.freeEngine s j) := by
  unfold State.freeEngine
  repeat' first
    | with_reducible assumption
    | with_reducible apply Keeps.wr
    | split
    | dsimp only
    | decide +kernel

theorem execCommandCommit {kb : Bool} {k0 s : State} {res : Res} (hk : Keeps kb k0 s) :
    AnsKeeps kb k0 (Sys2Proof.Machine.execCommandCommit res s) := by
  unfold Sys2Proof.Machine.execCommandCommit
  repeat' first
    | with_reducible assumption
    | intro _
    | with_reducible apply Keeps.changeJob
    | with_reducible apply Keeps.commitField
    | with_reducible apply Keeps.endJob
    | with_reducible apply Keeps.freeEngine
    | with_reducible apply Keeps.publish
    | with_reducible apply Keeps.reportPoison
    | with_reducible apply Keeps.settle
    | with_reducible apply Keeps.startCopies
    | with_reducible apply Keeps.next
    | with_reducible apply Keeps.ite
    | with_reducible apply Keeps.ans_ite
    | split
    | dsimp only
    | simp only [Keeps.upd]
    | decide +kernel

end Keeps

end Sys2Proof.Machine
end

