-- ==== Sys2Proof/Laws/KeepsLoadOps.lean ====
section
/-! SUPPORT. What the operations of Machine/LoadOps.lean keep. -/

namespace Sys2Proof.Machine

namespace Keeps

set_option Elab.async false
set_option linter.unusedSimpArgs false
set_option linter.unusedVariables false

theorem configure {kb : Bool} {k0 s : State} {l : Load} (hk : Keeps kb k0 s) :
    Keeps kb k0 (State.configure s l) := by
  unfold State.configure
  repeat' first
    | with_reducible assumption
    | intro _
    | with_reducible apply Keeps.wr
    | with_reducible apply Keeps.ite_fst
    | with_reducible apply Keeps.foldl_fst
    | with_reducible apply Keeps.foldl
    | with_reducible apply Keeps.ite
    | split
    | dsimp only
    | decide +kernel

theorem clearGold {kb : Bool} {k0 s : State} {f : Nat} (hk : Keeps kb k0 s) :
    Keeps kb k0 (State.clearGold s f) := by
  unfold State.clearGold
  repeat' first
    | with_reducible assumption
    | simp only [List.foldl_cons, List.foldl_nil]
    | intro _
    | with_reducible apply Keeps.wr
    | with_reducible apply Keeps.foldl
    | dsimp only
    | decide +kernel

theorem enterLoading {kb : Bool} {k0 s : State} {l : Load} (hk : Keeps kb k0 s) :
    Keeps kb k0 (State.enterLoading s l) := by
  unfold State.enterLoading
  repeat' first
    | with_reducible assumption
    | intro _
    | with_reducible apply Keeps.incWrap
    | with_reducible apply Keeps.wr
    | with_reducible apply Keeps.clearGold
    | with_reducible apply Keeps.configure
    | with_reducible apply Keeps.setF
    | with_reducible apply Keeps.setState
    | with_reducible apply Keeps.foldl
    | with_reducible apply Keeps.ite
    | dsimp only
    | simp only [Keeps.upd]
    | simp only [State.inc, State.add, State.wr_frame, Keeps.upd_wr]
    | decide +kernel

theorem noteLoadFail {kb : Bool} {k0 s : State} {c : Option Cmd} {status : Nat} {cause : Nat} (hk : Keeps kb k0 s) :
    Keeps kb k0 (State.noteLoadFail s c status cause) := by
  unfold State.noteLoadFail
  repeat' first
    | with_reducible assumption
    | intro _
    | with_reducible apply Keeps.inc
    | with_reducible apply Keeps.wr
    | with_reducible apply Keeps.ite
    | split
    | dsimp only
    | decide +kernel

theorem loadFail {kb : Bool} {k0 s : State} {c : Cmd} {status : Nat} {cause : Nat} (hk : Keeps kb k0 s) :
    Keeps kb k0 (State.loadFail s c status cause) := by
  unfold State.loadFail
  repeat' first
    | with_reducible assumption
    | with_reducible apply Keeps.endQueued
    | with_reducible apply Keeps.noteLoadFail
    | with_reducible apply Keeps.ite
    | dsimp only
    | decide +kernel

theorem endQueue {kb : Bool} {k0 s : State} {f : Fin 17} (hk : Keeps kb k0 s) :
    Keeps kb k0 (State.endQueue s f) := by
  unfold State.endQueue
  repeat' first
    | with_reducible assumption
    | intro _
    | with_reducible apply Keeps.endQueued
    | with_reducible apply Keeps.ite_fst
    | with_reducible apply Keeps.foldl_fst
    | with_reducible apply Keeps.foldl
    | dsimp only
    | decide +kernel

theorem dropLoad {kb : Bool} {k0 s : State} {serial : Nat} (hk : Keeps kb k0 s) :
    Keeps kb k0 (State.dropLoad s serial) := by
  unfold State.dropLoad
  repeat' first
    | with_reducible assumption
    | intro _
    | dsimp only
    | simp only [Keeps.upd]
    | decide +kernel

theorem failLoad {kb : Bool} {k0 s : State} {f : Fin 17} {l : Load} {cause : Nat} (hk : Keeps kb k0 s) :
    Keeps kb k0 (State.failLoad s f l cause) := by
  unfold State.failLoad
  repeat' first
    | with_reducible assumption
    | with_reducible apply Keeps.complete
    | with_reducible apply Keeps.dropLoad
    | with_reducible apply Keeps.endQueue
    | with_reducible apply Keeps.enterClearing
    | with_reducible apply Keeps.noteLoadFail
    | split
    | dsimp only
    | decide +kernel

theorem cancelLoad {kb : Bool} {k0 s : State} {f : Fin 17} {l : Load} {keep : Bool} (hk : Keeps kb k0 s) :
    Keeps kb k0 (State.cancelLoad s f l keep) := by
  unfold State.cancelLoad
  repeat' first
    | with_reducible assumption
    | with_reducible apply Keeps.dropLoad
    | with_reducible apply Keeps.enterClearing
    | with_reducible apply Keeps.keep
    | with_reducible apply Keeps.releaseSlot
    | with_reducible apply Keeps.ite
    | split
    | dsimp only
    | simp only [Keeps.upd]
    | decide +kernel

theorem killLoad {kb : Bool} {k0 s : State} {l : Load} {keep : Bool} (hk : Keeps kb k0 s) :
    Keeps kb k0 (State.killLoad s l keep) := by
  unfold State.killLoad
  repeat' first
    | with_reducible assumption
    | intro _
    | with_reducible apply Keeps.cancelLoad
    | with_reducible apply Keeps.keep
    | with_reducible apply Keeps.ite
    | with_reducible apply Keeps.dite
    | dsimp only
    | simp only [Keeps.upd]
    | decide +kernel

theorem stitchCell {kb : Bool} {k0 s : State} {cell : Nat} {store : Bytes} {ovf : Bytes} (hk : Keeps kb k0 s) :
    Keeps kb k0 (State.stitchCell s cell store ovf) := by
  unfold State.stitchCell
  repeat' first
    | with_reducible assumption
    | with_reducible apply Keeps.putBytes
    | with_reducible apply Keeps.store
    | exact mem_change hk _ id (Sparse.ok_putBytes _ _ _ _) id (fun k => Sparse.ok_putBytes _ _ _ _ (Sparse.ok_filter _ _ _ k))
    | dsimp only
    | simp only [Keeps.upd]
    | decide +kernel

theorem blankCell {kb : Bool} {k0 s : State} {cell : Nat} (hk : Keeps kb k0 s) :
    Keeps kb k0 (State.blankCell s cell) := by
  unfold State.blankCell
  repeat' first
    | with_reducible assumption
    | exact mem_change hk _ id id id (Sparse.ok_filter _ _ _)
    | dsimp only
    | simp only [Keeps.upd]
    | decide +kernel

theorem stitchAll {kb : Bool} {k0 s : State} {f : Nat} {l : Load} (hk : Keeps kb k0 s) :
    Keeps kb k0 (State.stitchAll s f l).1 := by
  unfold State.stitchAll
  repeat' first
    | with_reducible assumption
    | intro _
    | with_reducible apply Keeps.blankCell
    | with_reducible apply Keeps.setCell
    | with_reducible apply Keeps.stitchCell
    | with_reducible apply Keeps.ite_fst
    | with_reducible apply Keeps.foldl_fst
    | with_reducible apply Keeps.foldl
    | with_reducible apply Keeps.ite
    | split
    | dsimp only
    | decide +kernel

theorem changeLoad {kb : Bool} {k0 s : State} {serial : Nat} {g : Load → Load} (hk : Keeps kb k0 s) :
    Keeps kb k0 (State.changeLoad s serial g) := by
  unfold State.changeLoad
  repeat' first
    | with_reducible assumption
    | intro _
    | with_reducible apply Keeps.ite
    | dsimp only
    | simp only [Keeps.upd]
    | decide +kernel

end Keeps

end Sys2Proof.Machine
end

