-- ==== Sys2Proof/Laws/KeepsFields.lean ====
section
/-! SUPPORT. What the operations of Machine/Fields.lean keep. -/

namespace Sys2Proof.Machine

namespace Keeps

set_option Elab.async false
set_option linter.unusedSimpArgs false
set_option linter.unusedVariables false

theorem attachField {kb : Bool} {k0 s : State} {f : Fin 17} {v : Nat} (hk : Keeps kb k0 s) :
    Keeps kb k0 (State.attachField s f v) := by
  unfold State.attachField
  repeat' first
    | with_reducible assumption
    | with_reducible apply Keeps.setF
    | with_reducible apply Keeps.ite
    | dsimp only
    | simp only [Keeps.upd]
    | decide +kernel

theorem startLoad {kb : Bool} {k0 s : State} {f : Fin 17} {l : Load} (hk : Keeps kb k0 s) :
    Keeps kb k0 (State.startLoad s f l) := by
  unfold State.startLoad
  repeat' first
    | with_reducible assumption
    | intro _
    | with_reducible apply Keeps.enterLoading
    | with_reducible apply Keeps.failLoad
    | with_reducible apply Keeps.ite
    | dsimp only
    | decide +kernel

theorem placeLoad {kb : Bool} {k0 s : State} {c : Cmd} {x : ImgAt} {want : LoadWant} (hk : Keeps kb k0 s) :
    Keeps kb k0 (State.placeLoad s c x want) := by
  unfold State.placeLoad
  repeat' first
    | with_reducible assumption
    | intro _
    | with_reducible apply Keeps.dequeue
    | with_reducible apply Keeps.dropLoad
    | with_reducible apply Keeps.endQueue
    | with_reducible apply Keeps.enterClearing
    | with_reducible apply Keeps.loadFail
    | with_reducible apply Keeps.startLoad
    | with_reducible apply Keeps.ite
    | with_reducible apply Keeps.dite
    | split
    | dsimp only
    | simp only [Keeps.upd]
    | decide +kernel

theorem attachLoad {kb : Bool} {k0 s : State} {c : Cmd} {f : Fin 17} (hk : Keeps kb k0 s) :
    Keeps kb k0 (State.attachLoad s c f) := by
  unfold State.attachLoad
  repeat' first
    | with_reducible assumption
    | with_reducible apply Keeps.attachField
    | with_reducible apply Keeps.dropLoad
    | with_reducible apply Keeps.endQueued
    | dsimp only
    | decide +kernel

theorem freshLoad {kb : Bool} {k0 s : State} {c : Cmd} {x : ImgAt} (hk : Keeps kb k0 s) :
    Keeps kb k0 (State.freshLoad s c x) := by
  unfold State.freshLoad
  repeat' first
    | with_reducible assumption
    | with_reducible apply Keeps.attachLoad
    | with_reducible apply Keeps.dequeue
    | with_reducible apply Keeps.dropLoad
    | with_reducible apply Keeps.placeLoad
    | with_reducible apply Keeps.ite
    | split
    | dsimp only
    | simp only [Keeps.upd]
    | decide +kernel

theorem execFieldLoad {kb : Bool} {k0 s : State} (hk : Keeps kb k0 s) :
    AnsKeeps kb k0 (Sys2Proof.Machine.execFieldLoad s) := by
  unfold Sys2Proof.Machine.execFieldLoad
  repeat' first
    | with_reducible assumption
    | with_reducible apply Keeps.ctxTouch
    | with_reducible apply Keeps.freshLoad
    | with_reducible apply Keeps.loadFail
    | with_reducible apply Keeps.placeLoad
    | with_reducible apply Keeps.next
    | with_reducible apply Keeps.ite
    | with_reducible apply Keeps.ans_ite
    | split
    | dsimp only
    | decide +kernel

theorem execDigestWaitResolve {kb : Bool} {k0 s : State} (hk : Keeps kb k0 s) :
    AnsKeeps kb k0 (Sys2Proof.Machine.execDigestWaitResolve s) := by
  unfold Sys2Proof.Machine.execDigestWaitResolve
  repeat' first
    | with_reducible assumption
    | intro _
    | with_reducible apply Keeps.dropLoad
    | with_reducible apply Keeps.freshLoad
    | with_reducible apply Keeps.next
    | with_reducible apply Keeps.ite
    | with_reducible apply Keeps.ans_ite
    | split
    | dsimp only
    | decide +kernel

theorem endStitch {kb : Bool} {k0 s : State} {l : Load} (hk : Keeps kb k0 s) :
    Keeps kb k0 (State.endStitch s l) := by
  unfold State.endStitch
  repeat' first
    | with_reducible assumption
    | intro _
    | with_reducible apply Keeps.cancelLoad
    | with_reducible apply Keeps.changeLoad
    | with_reducible apply Keeps.startPreload
    | with_reducible apply Keeps.startRestore
    | with_reducible apply Keeps.ite
    | with_reducible apply Keeps.dite
    | dsimp only
    | simp only [Keeps.upd]
    | decide +kernel

theorem execStitchPhaseStart {kb : Bool} {k0 s : State} (hk : Keeps kb k0 s) :
    AnsKeeps kb k0 (Sys2Proof.Machine.execStitchPhaseStart s) := by
  unfold Sys2Proof.Machine.execStitchPhaseStart
  repeat' first
    | with_reducible assumption
    | intro _
    | with_reducible apply Keeps.changeLoad
    | with_reducible apply Keeps.endStitch
    | with_reducible apply Keeps.stitchAll
    | with_reducible apply Keeps.ite_fst
    | with_reducible apply Keeps.foldl_fst
    | with_reducible apply Keeps.next
    | with_reducible apply Keeps.ite
    | with_reducible apply Keeps.ans_ite
    | (refine Keeps.of_pair (by assumption) ?_)
    | split
    | dsimp only
    | simp only [Keeps.upd]
    | decide +kernel

theorem restartTests {kb : Bool} {k0 s : State} {f : Fin 17} (hk : Keeps kb k0 s) :
    Keeps kb k0 (State.restartTests s f) := by
  unfold State.restartTests
  repeat' first
    | with_reducible assumption
    | intro _
    | with_reducible apply Keeps.foldl
    | dsimp only
    | simp only [Keeps.upd]
    | decide +kernel

theorem endLoad {kb : Bool} {k0 s : State} {f : Fin 17} {l : Load} (hk : Keeps kb k0 s) :
    Keeps kb k0 (State.endLoad s f l) := by
  unfold State.endLoad
  repeat' first
    | with_reducible assumption
    | intro _
    | with_reducible apply Keeps.wr
    | with_reducible apply Keeps.attachField
    | with_reducible apply Keeps.complete
    | with_reducible apply Keeps.dropLoad
    | with_reducible apply Keeps.restartTests
    | with_reducible apply Keeps.setState
    | with_reducible apply Keeps.foldl
    | split
    | dsimp only
    | decide +kernel

theorem execFieldLoadDone {kb : Bool} {k0 s : State} {field : Fin 17} (hk : Keeps kb k0 s) :
    AnsKeeps kb k0 (Sys2Proof.Machine.execFieldLoadDone field s) := by
  unfold Sys2Proof.Machine.execFieldLoadDone
  repeat' first
    | with_reducible assumption
    | with_reducible apply Keeps.cancelLoad
    | with_reducible apply Keeps.endLoad
    | with_reducible apply Keeps.failLoad
    | with_reducible apply Keeps.next
    | with_reducible apply Keeps.ite
    | with_reducible apply Keeps.ans_ite
    | split
    | dsimp only
    | decide +kernel

theorem execFieldReinit {kb : Bool} {k0 s : State} {src : Source} {field : Fin 17} (hk : Keeps kb k0 s) :
    AnsKeeps kb k0 (Sys2Proof.Machine.execFieldReinit src field s) := by
  unfold Sys2Proof.Machine.execFieldReinit
  repeat' first
    | with_reducible assumption
    | with_reducible apply Keeps.startReinit
    | with_reducible apply Keeps.next
    | with_reducible apply Keeps.ite
    | with_reducible apply Keeps.ans_ite
    | dsimp only
    | simp only [Keeps.upd]
    | decide +kernel

theorem execFieldReinitDone {kb : Bool} {k0 s : State} {field : Fin 17} (hk : Keeps kb k0 s) :
    AnsKeeps kb k0 (Sys2Proof.Machine.execFieldReinitDone field s) := by
  unfold Sys2Proof.Machine.execFieldReinitDone
  repeat' first
    | with_reducible assumption
    | with_reducible apply Keeps.dropLoad
    | with_reducible apply Keeps.events
    | with_reducible apply Keeps.failLoad
    | with_reducible apply Keeps.restartTests
    | with_reducible apply Keeps.setF
    | with_reducible apply Keeps.setState
    | with_reducible apply Keeps.next
    | with_reducible apply Keeps.ite
    | with_reducible apply Keeps.ans_ite
    | split
    | dsimp only
    | simp only [Keeps.upd]
    | decide +kernel

theorem execClearingDone {kb : Bool} {k0 s : State} {field : Fin 17} (hk : Keeps kb k0 s) :
    AnsKeeps kb k0 (Sys2Proof.Machine.execClearingDone field s) := by
  unfold Sys2Proof.Machine.execClearingDone
  repeat' first
    | with_reducible assumption
    | intro _
    | with_reducible apply Keeps.contained
    | with_reducible apply Keeps.dropLoad
    | with_reducible apply Keeps.setF
    | with_reducible apply Keeps.setState
    | with_reducible apply Keeps.startLoad
    | with_reducible apply Keeps.zeroCluster
    | with_reducible apply Keeps.foldl
    | with_reducible apply Keeps.next
    | with_reducible apply Keeps.ite
    | with_reducible apply Keeps.ans_ite
    | split
    | dsimp only
    | simp only [Keeps.upd]
    | decide +kernel

theorem execStallWatchdogExpiry {kb : Bool} {k0 s : State} {field : Fin 17} (hk : Keeps kb k0 s) :
    AnsKeeps kb k0 (Sys2Proof.Machine.execStallWatchdogExpiry field s) := by
  unfold Sys2Proof.Machine.execStallWatchdogExpiry
  repeat' first
    | with_reducible assumption
    | intro _
    | with_reducible apply Keeps.fldError
    | with_reducible apply Keeps.reportField
    | with_reducible apply Keeps.setF
    | with_reducible apply Keeps.stopField
    | with_reducible apply Keeps.next
    | with_reducible apply Keeps.ite
    | with_reducible apply Keeps.ans_ite
    | dsimp only
    | simp only [Keeps.upd]
    | decide +kernel

theorem execContainedFaultDrainDone {kb : Bool} {k0 s : State} {field : Fin 17} (hk : Keeps kb k0 s) :
    AnsKeeps kb k0 (Sys2Proof.Machine.execContainedFaultDrainDone field s) := by
  unfold Sys2Proof.Machine.execContainedFaultDrainDone
  repeat' first
    | with_reducible assumption
    | intro _
    | with_reducible apply Keeps.endJob
    | with_reducible apply Keeps.setF
    | with_reducible apply Keeps.settle
    | with_reducible apply Keeps.startReinit
    | with_reducible apply Keeps.foldl
    | with_reducible apply Keeps.next
    | with_reducible apply Keeps.ite
    | with_reducible apply Keeps.ans_ite
    | split
    | dsimp only
    | simp only [Keeps.upd]
    | decide +kernel

theorem tensorFix {kb : Bool} {k0 s : State} {f : Nat} {m : ClMove} (hk : Keeps kb k0 s) :
    Keeps kb k0 (State.tensorFix s f m) := by
  unfold State.tensorFix
  repeat' first
    | with_reducible assumption
    | intro _
    | (refine Keeps.mem_change (inc (by assumption) (by decide +kernel)) _ ?_ ?_ ?_ ?_ <;> first | exact id | (split <;> exact id))
    | intro _
    | with_reducible apply Keeps.inc
    | with_reducible apply Keeps.ite_fst
    | with_reducible apply Keeps.foldl_fst
    | with_reducible apply Keeps.foldl
    | with_reducible apply Keeps.ite
    | dsimp only
    | simp only [Keeps.upd]
    | simp only [State.inc, State.add, State.wr_frame, Keeps.upd_wr]
    | decide +kernel

theorem execClusterMoverTransferDone {kb : Bool} {k0 s : State} {field : Fin 17} (hk : Keeps kb k0 s) :
    AnsKeeps kb k0 (Sys2Proof.Machine.execClusterMoverTransferDone field s) := by
  unfold Sys2Proof.Machine.execClusterMoverTransferDone
  repeat' first
    | with_reducible assumption
    | with_reducible apply Keeps.cmqAppend
    | with_reducible apply Keeps.contained
    | with_reducible apply Keeps.doMove
    | with_reducible apply Keeps.fldFault
    | with_reducible apply Keeps.progress
    | with_reducible apply Keeps.setF
    | with_reducible apply Keeps.tensorFix
    | with_reducible apply Keeps.ite_fst
    | with_reducible apply Keeps.foldl_fst
    | with_reducible apply Keeps.next
    | with_reducible apply Keeps.ite
    | with_reducible apply Keeps.ans_ite
    | (refine Keeps.of_pair (by assumption) ?_)
    | split
    | dsimp only
    | simp only [Keeps.upd]
    | decide +kernel

theorem execCmqRecordAppend {kb : Bool} {k0 s : State} {field : Fin 17} (hk : Keeps kb k0 s) :
    AnsKeeps kb k0 (Sys2Proof.Machine.execCmqRecordAppend field s) := by
  unfold Sys2Proof.Machine.execCmqRecordAppend
  repeat' first
    | with_reducible assumption
    | with_reducible apply Keeps.cmqWrite
    | with_reducible apply Keeps.setF
    | with_reducible apply Keeps.store
    | with_reducible apply Keeps.next
    | with_reducible apply Keeps.ite
    | with_reducible apply Keeps.ans_ite
    | split
    | dsimp only
    | simp only [Keeps.upd]
    | decide +kernel

theorem parityError {kb : Bool} {k0 s : State} {f : Fin 17} {cell : Nat} {word : Nat} (hk : Keeps kb k0 s) :
    Keeps kb k0 (State.parityError s f cell word) := by
  unfold State.parityError
  repeat' first
    | with_reducible assumption
    | with_reducible apply Keeps.fldFault
    | with_reducible apply Keeps.setF
    | dsimp only
    | simp only [Keeps.upd]
    | decide +kernel

theorem execStitchScrub {kb : Bool} {k0 s : State} {cell : Fin 2368} {bad : List Nat} (hk : Keeps kb k0 s) :
    AnsKeeps kb k0 (Sys2Proof.Machine.execStitchScrub cell bad s) := by
  unfold Sys2Proof.Machine.execStitchScrub
  repeat' first
    | with_reducible assumption
    | intro _
    | with_reducible apply Keeps.parityError
    | with_reducible apply Keeps.foldl
    | with_reducible apply Keeps.next
    | with_reducible apply Keeps.ite
    | with_reducible apply Keeps.ans_ite
    | with_reducible apply Keeps.dite
    | with_reducible apply Keeps.ans_dite
    | split
    | dsimp only
    | simp only [Keeps.upd]
    | decide +kernel

theorem rmwWord {kb : Bool} {k0 s : State} {inPocket : Bool} {w : Nat} {cell : Nat} {word : Nat} {field : Option Nat} (hk : Keeps kb k0 s) :
    Keeps kb k0 (State.rmwWord s inPocket w cell word field) := by
  unfold State.rmwWord
  repeat' first
    | with_reducible assumption
    | intro _
    | (refine Keeps.mem_change (inc (by assumption) (by decide +kernel)) _ ?_ ?_ ?_ ?_ <;> first | exact id | (split <;> exact id))
    | (refine Keeps.mem_change (by assumption) _ ?_ ?_ ?_ ?_ <;> first | exact id | (split <;> exact id))
    | intro _
    | with_reducible apply Keeps.inc
    | with_reducible apply Keeps.fldFault
    | with_reducible apply Keeps.ite
    | with_reducible apply Keeps.dite
    | split
    | dsimp only
    | simp only [Keeps.upd]
    | simp only [State.inc, State.add, State.wr_frame, Keeps.upd_wr]
    | decide +kernel

theorem sramPut {kb : Bool} {k0 s : State} {a : Nat} {b : Byte} {whole : Bool} (hk : Keeps kb k0 s) :
    Keeps kb k0 (State.sramPut s a b whole) := by
  unfold State.sramPut
  split
  · exact hk
  · next p k o _ =>
    refine ite hk ?_
    dsimp only
    refine mem_change (ite hk (rmwWord hk)) _ ?_ ?_ ?_ ?_
    all_goals
      cases p
      all_goals first | exact id | exact Sparse.ok_put (0 : Byte) _ _ _


theorem sramWrite {kb : Bool} {k0 s : State} {addr : Nat} {data : Bytes} (hk : Keeps kb k0 s) :
    Keeps kb k0 (State.sramWrite s addr data) := by
  unfold State.sramWrite
  repeat' first
    | with_reducible assumption
    | intro _
    | with_reducible apply Keeps.sramPut
    | with_reducible apply Keeps.ite_fst
    | with_reducible apply Keeps.foldl_fst
    | with_reducible apply Keeps.foldl
    | dsimp only
    | decide +kernel

theorem execPocketWindowWrite {kb : Bool} {k0 s : State} {src : Source} {addr : Nat} {data : Bytes} (hk : Keeps kb k0 s) :
    AnsKeeps kb k0 (Sys2Proof.Machine.execPocketWindowWrite src addr data s) := by
  unfold Sys2Proof.Machine.execPocketWindowWrite
  repeat' first
    | with_reducible assumption
    | with_reducible apply Keeps.sramWrite
    | with_reducible apply Keeps.next
    | split
    | dsimp only
    | decide +kernel

end Keeps

end Sys2Proof.Machine
end

