-- ==== Sys2Proof/Laws/KeepsOperands.lean ====
section
/-! SUPPORT. What the operations of Machine/Operands.lean keep. -/

namespace Sys2Proof.Machine

namespace Keeps

set_option Elab.async false
set_option linter.unusedSimpArgs false
set_option linter.unusedVariables false

/-- Single puts in a row keep the canonical form. -/
theorem ok_puts {α : Type} (l : List α) (d : Byte) (k : α → Nat) (x : α → Byte) (m : Sparse Byte) (hm : Sparse.ok d m = true) :
    Sparse.ok d (l.foldl (fun p a => Sparse.put d p (k a) (x a)) m) = true := by
  induction l generalizing m with
  | nil => exact hm
  | cons a l ih => exact ih _ (Sparse.ok_put d m _ _ hm)

theorem stepGens {kb : Bool} {k0 s : State} {cell : Nat} {os : List Opd} (hk : Keeps kb k0 s) :
    Keeps kb k0 (State.stepGens s cell os) := by
  unfold State.stepGens
  repeat' first
    | with_reducible assumption
    | intro _
    | with_reducible apply Keeps.setCell
    | with_reducible apply Keeps.foldl
    | dsimp only
    | simp only [Keeps.upd]
    | decide +kernel

theorem pocketFix {kb : Bool} {k0 s : State} {f : Nat} {cell : Nat} {o : Nat} {n : Nat} (hk : Keeps kb k0 s) :
    Keeps kb k0 (State.pocketFix s f cell o n) := by
  unfold State.pocketFix
  repeat' first
    | with_reducible assumption
    | intro _
    | with_reducible apply Keeps.inc
    | with_reducible apply Keeps.foldl
    | with_reducible apply Keeps.ite
    | dsimp only
    | simp only [Keeps.upd]
    | simp only [State.inc, State.add, State.wr_frame, Keeps.upd_wr]
    | decide +kernel

theorem fixPocket {kb : Bool} {k0 s : State} {cell : Nat} {o : Nat} {n : Nat} (hk : Keeps kb k0 s) :
    Keeps kb k0 (State.fixPocket s cell o n) := by
  unfold State.fixPocket
  repeat' first
    | with_reducible assumption
    | with_reducible apply Keeps.pocketFix
    | split
    | dsimp only
    | decide +kernel

theorem pocketPoison {kb : Bool} {k0 s : State} {cell : Nat} {o : Nat} {bad : List Nat} (hk : Keeps kb k0 s) :
    Keeps kb k0 (State.pocketPoison s cell o bad) := by
  unfold State.pocketPoison
  repeat' first
    | with_reducible assumption
    | intro _
    | with_reducible apply Keeps.foldl
    | dsimp only
    | simp only [Keeps.upd]
    | decide +kernel

theorem pocketPut {kb : Bool} {k0 s : State} {cell : Nat} {o : Nat} {bs : Bytes} {poison : Bool} (hk : Keeps kb k0 s) :
    Keeps kb k0 (State.pocketPut s cell o bs poison) := by
  unfold State.pocketPut
  repeat' first
    | with_reducible assumption
    | intro _
    | with_reducible apply Keeps.ite_fst
    | with_reducible apply Keeps.foldl_fst
    | with_reducible apply Keeps.foldl
    | with_reducible apply Keeps.ite
    | exact mem_change hk _ id (ok_puts _ _ _ _ _) id id
    | dsimp only
    | simp only [Keeps.upd]
    | decide +kernel

theorem fixPart {kb : Bool} {k0 s : State} {cell : Nat} {o : Nat} {n : Nat} (hk : Keeps kb k0 s) :
    Keeps kb k0 (State.fixPart s cell o n) := by
  unfold State.fixPart
  repeat' first
    | with_reducible assumption
    | with_reducible apply Keeps.fixPocket
    | with_reducible apply Keeps.ite
    | dsimp only
    | decide +kernel

theorem sramFix {kb : Bool} {k0 s : State} {f : Nat} {k : Nat} {o : Nat} {n : Nat} (hk : Keeps kb k0 s) :
    Keeps kb k0 (State.sramFix s f k o n) := by
  unfold State.sramFix
  repeat' first
    | with_reducible assumption
    | intro _
    | (refine Keeps.mem_change (inc (by assumption) (by decide +kernel)) _ ?_ ?_ ?_ ?_ <;> first | exact id | (split <;> exact id))
    | intro _
    | with_reducible apply Keeps.inc
    | with_reducible apply Keeps.foldl
    | with_reducible apply Keeps.ite
    | dsimp only
    | simp only [Keeps.upd]
    | simp only [State.inc, State.add, State.wr_frame, Keeps.upd_wr]
    | decide +kernel

theorem sramStore {kb : Bool} {k0 s : State} {k : Nat} {o : Nat} {bs : Bytes} {bad : List Nat} (hk : Keeps kb k0 s) :
    Keeps kb k0 (State.sramStore s k o bs bad) := by
  unfold State.sramStore
  repeat' first
    | with_reducible assumption
    | intro _
    | with_reducible apply Keeps.putBytes
    | with_reducible apply Keeps.foldl
    | with_reducible apply Keeps.ite
    | exact mem_change (by assumption) _ id id (Sparse.ok_putBytes _ _ _ _) id
    | dsimp only
    | simp only [Keeps.upd]
    | decide +kernel

end Keeps

end Sys2Proof.Machine
end

