-- ==== Sys2Proof/Laws/KeepsFlags.lean ====
section
/-! SUPPORT. What the operations of Machine/Flags.lean keep. -/

namespace Sys2Proof.Machine

namespace Keeps

set_option Elab.async false
set_option linter.unusedSimpArgs false
set_option linter.unusedVariables false

theorem noteDrops {kb : Bool} {k0 s : State} {f : Nat} {n : Nat} (hk : Keeps kb k0 s) :
    Keeps kb k0 (State.noteDrops s f n) := by
  unfold State.noteDrops
  repeat' first
    | with_reducible assumption
    | with_reducible apply Keeps.add
    | dsimp only
    | decide +kernel

theorem noteRange {kb : Bool} {k0 s : State} {f : Nat} {n : Nat} (hk : Keeps kb k0 s) :
    Keeps kb k0 (State.noteRange s f n) := by
  unfold State.noteRange
  repeat' first
    | with_reducible assumption
    | with_reducible apply Keeps.add
    | dsimp only
    | decide +kernel

theorem noteSkips {kb : Bool} {k0 s : State} {f : Nat} {n : Nat} (hk : Keeps kb k0 s) :
    Keeps kb k0 (State.noteSkips s f n) := by
  unfold State.noteSkips
  repeat' first
    | with_reducible assumption
    | with_reducible apply Keeps.add
    | dsimp only
    | decide +kernel

theorem microError {kb : Bool} {k0 s : State} {f : Fin 17} {job : Nat} (hk : Keeps kb k0 s) :
    Keeps kb k0 (State.microError s f job) := by
  unfold State.microError
  repeat' first
    | with_reducible assumption
    | with_reducible apply Keeps.inc
    | with_reducible apply Keeps.contained
    | dsimp only
    | decide +kernel

end Keeps

end Sys2Proof.Machine
end

