-- ==== Sys2Proof/Laws/KeepsFlash.lean ====
section
/-! SUPPORT. What the operations of Machine/Flash.lean keep. -/

namespace Sys2Proof.Machine

namespace Keeps

set_option Elab.async false
set_option linter.unusedSimpArgs false
set_option linter.unusedVariables false

theorem flashWrite {kb : Bool} {k0 s : State} {o : Nat} {bs : Bytes} (hk : Keeps kb k0 s) :
    Keeps kb k0 (State.flashWrite s o bs) := by
  unfold State.flashWrite
  repeat' first
    | with_reducible assumption
    | with_reducible apply Keeps.putBytes
    | dsimp only
    | simp only [Keeps.upd]
    | decide +kernel

theorem flushRepairs {kb : Bool} {k0 s : State} (hk : Keeps kb k0 s) :
    Keeps kb k0 (State.flushRepairs s) := by
  unfold State.flushRepairs
  repeat' first
    | with_reducible assumption
    | intro _
    | with_reducible apply Keeps.drop
    | with_reducible apply Keeps.flashWrite
    | with_reducible apply Keeps.log
    | with_reducible apply Keeps.ite_fst
    | with_reducible apply Keeps.foldl_fst
    | with_reducible apply Keeps.foldl
    | dsimp only
    | simp only [Keeps.upd]
    | decide +kernel

theorem logRepair {kb : Bool} {k0 s : State} {m : Nat} {kind : Nat} {source : Nat} {index : Nat} (hk : Keeps kb k0 s) :
    Keeps kb k0 (State.logRepair s m kind source index) := by
  unfold State.logRepair
  repeat' first
    | with_reducible assumption
    | with_reducible apply Keeps.wr
    | with_reducible apply Keeps.flushRepairs
    | with_reducible apply Keeps.log
    | with_reducible apply Keeps.ite
    | dsimp only
    | simp only [Keeps.upd]
    | simp only [State.inc, State.add, State.wr_frame, Keeps.upd_wr]
    | decide +kernel

end Keeps

end Sys2Proof.Machine
end

