-- ==== Sys2Proof/Laws/KeepsBist.lean ====
section
/-! SUPPORT. What the operations of Machine/Bist.lean keep. -/

namespace Sys2Proof.Machine

namespace Keeps

set_option Elab.async false
set_option linter.unusedSimpArgs false
set_option linter.unusedVariables false

theorem evictField {kb : Bool} {k0 s : State} {f : Fin 17} (hk : Keeps kb k0 s) :
    Keeps kb k0 (State.evictField s f) := by
  unfold State.evictField
  repeat' first
    | with_reducible assumption
    | intro _
    | with_reducible apply Keeps.detach
    | with_reducible apply Keeps.enterClearing
    | with_reducible apply Keeps.foldl
    | with_reducible apply Keeps.ite
    | dsimp only
    | simp only [Keeps.upd]
    | decide +kernel

theorem unitOut {kb : Bool} {k0 s : State} {u : Nat} (hk : Keeps kb k0 s) :
    Keeps kb k0 (State.unitOut s u) := by
  unfold State.unitOut
  repeat' first
    | with_reducible assumption
    | intro _
    | with_reducible apply Keeps.inc
    | with_reducible apply Keeps.wr
    | with_reducible apply Keeps.evictField
    | with_reducible apply Keeps.ite
    | with_reducible apply Keeps.dite
    | split
    | dsimp only
    | decide +kernel

theorem takeUnit {kb : Bool} {k0 s : State} {u : Nat} (hk : Keeps kb k0 s) :
    Keeps kb k0 (State.takeUnit s u) := by
  unfold State.takeUnit
  repeat' first
    | with_reducible assumption
    | with_reducible apply Keeps.wr
    | with_reducible apply Keeps.ite
    | dsimp only
    | decide +kernel

theorem readmit {kb : Bool} {k0 s : State} {u : Nat} (hk : Keeps kb k0 s) :
    Keeps kb k0 (State.readmit s u) := by
  unfold State.readmit
  repeat' first
    | with_reducible assumption
    | intro _
    | with_reducible apply Keeps.wr
    | with_reducible apply Keeps.ite
    | dsimp only
    | simp only [Keeps.upd]
    | simp only [State.inc, State.add, State.wr_frame, Keeps.upd_wr]
    | decide +kernel

theorem execReadmit {kb : Bool} {k0 s : State} {src : Source} {unit : Fin 192} (hk : Keeps kb k0 s) :
    AnsKeeps kb k0 (Sys2Proof.Machine.execReadmit src unit s) := by
  unfold Sys2Proof.Machine.execReadmit
  repeat' first
    | with_reducible assumption
    | intro _
    | with_reducible apply Keeps.asWho
    | with_reducible apply Keeps.readmit
    | with_reducible apply Keeps.next
    | dsimp only
    | decide +kernel

theorem startSlice {kb : Bool} {k0 s : State} {k : Nat} {u : Nat} (hk : Keeps kb k0 s) :
    Keeps kb k0 (State.startSlice s k u) := by
  unfold State.startSlice
  repeat' first
    | with_reducible assumption
    | with_reducible apply Keeps.inc
    | with_reducible apply Keeps.ite
    | dsimp only
    | simp only [Keeps.upd]
    | simp only [State.inc, State.add, State.wr_frame, Keeps.upd_wr]
    | decide +kernel

theorem execBistSliceStart {kb : Bool} {k0 s : State} {kind : SliceKind} {unit : Fin 192} (hk : Keeps kb k0 s) :
    AnsKeeps kb k0 (Sys2Proof.Machine.execBistSliceStart kind unit s) := by
  unfold Sys2Proof.Machine.execBistSliceStart
  repeat' first
    | with_reducible assumption
    | with_reducible apply Keeps.startSlice
    | with_reducible apply Keeps.next
    | with_reducible apply Keeps.ite
    | with_reducible apply Keeps.ans_ite
    | dsimp only
    | decide +kernel

theorem wreckCells {kb : Bool} {k0 s : State} {k : Nat} (hk : Keeps kb k0 s) : Keeps kb k0 (s.wreckCells k) := by
  unfold State.wreckCells
  refine foldl (fun t i ht => setCell ht) ?_
  exact mem_change (drawn hk) { s.mem with
      pocket := Sparse.putBytes 0 s.mem.pocket (k * 16 * 0x20000) (openBytes s.freeCount (16 * 0x20000)),
      pocketErr := Sparse.forget s.mem.pocketErr (k * 16 * 0x4000) ((k * 16 + 16) * 0x4000) }
    id (fun h => Sparse.ok_putBytes _ _ _ _ h) id id

theorem wreckSram {kb : Bool} {k0 s : State} {k : Nat} (hk : Keeps kb k0 s) : Keeps kb k0 (s.wreckSram k) := by
  unfold State.wreckSram
  exact mem_change (drawn hk) { s.mem with
      sram := Sparse.putBytes 0 s.mem.sram (k * 0x80000) (openBytes s.freeCount 0x80000),
      sramErr := Sparse.forget s.mem.sramErr (k * 0x10000) ((k + 1) * 0x10000) }
    id id (fun h => Sparse.ok_putBytes _ _ _ _ h) id

theorem restitch {kb : Bool} {k0 s : State} {f : Nat} {i : FieldImage} {u : Nat} (hk : Keeps kb k0 s) :
    Keeps kb k0 (State.restitch s f i u) := by
  unfold State.restitch
  repeat' first
    | with_reducible assumption
    | intro _
    | with_reducible apply Keeps.blankCell
    | with_reducible apply Keeps.stitchCell
    | with_reducible apply Keeps.ite_fst
    | with_reducible apply Keeps.foldl_fst
    | with_reducible apply Keeps.foldl
    | with_reducible apply Keeps.ite
    | dsimp only
    | decide +kernel

theorem runMoves {kb : Bool} {k0 s : State} {f : Nat} {tag : Nat} {ms : List ClMove} (hk : Keeps kb k0 s) :
    Keeps kb k0 (State.runMoves s f tag ms) := by
  unfold State.runMoves
  repeat' first
    | with_reducible assumption
    | intro _
    | with_reducible apply Keeps.cmqAppend
    | with_reducible apply Keeps.doMove
    | with_reducible apply Keeps.setF
    | with_reducible apply Keeps.ite_fst
    | with_reducible apply Keeps.foldl_fst
    | with_reducible apply Keeps.foldl
    | with_reducible apply Keeps.ite
    | (refine Keeps.of_pair (by assumption) ?_)
    | dsimp only
    | simp only [Keeps.upd]
    | decide +kernel

theorem reinitBlock {kb : Bool} {k0 s : State} {f : Nat} {k : Nat} {u : Nat} (hk : Keeps kb k0 s) :
    Keeps kb k0 (State.reinitBlock s f k u) := by
  unfold State.reinitBlock
  repeat' first
    | with_reducible assumption
    | intro _
    | with_reducible apply Keeps.restitch
    | with_reducible apply Keeps.runMoves
    | with_reducible apply Keeps.ite
    | split
    | dsimp only
    | decide +kernel

theorem takeSpare {kb : Bool} {k0 s : State} {key : Nat} {source : Nat} {column : Bool} {index : Nat} (hk : Keeps kb k0 s) :
    Keeps kb k0 (State.takeSpare s key source column index) := by
  unfold State.takeSpare
  repeat' first
    | with_reducible assumption
    | with_reducible apply Keeps.logRepair
    | with_reducible apply Keeps.ite
    | dsimp only
    | simp only [Keeps.upd]
    | decide +kernel

theorem repair {kb : Bool} {k0 s : State} {k : Nat} {u : Nat} {x : BistFail} {rows : Nat} (hk : Keeps kb k0 s) :
    Keeps kb k0 (State.repair s k u x rows).1 := by
  unfold State.repair
  repeat' first
    | with_reducible assumption
    | with_reducible apply Keeps.inc
    | with_reducible apply Keeps.wr
    | with_reducible apply Keeps.takeSpare
    | with_reducible apply Keeps.ite_fst
    | with_reducible apply Keeps.foldl_fst
    | split
    | dsimp only
    | decide +kernel

theorem repairs {kb : Bool} {k0 s : State} {k : Nat} {u : Nat} {fails : List BistFail} (hk : Keeps kb k0 s) :
    Keeps kb k0 (State.repairs s k u fails).1 := by
  unfold State.repairs
  repeat' first
    | with_reducible assumption
    | intro _
    | with_reducible apply Keeps.repair
    | with_reducible apply Keeps.ite_fst
    | with_reducible apply Keeps.foldl_fst
    | with_reducible apply Keeps.foldl
    | (refine Keeps.of_pair (by assumption) ?_)
    | split
    | dsimp only
    | decide +kernel

theorem passSlice {kb : Bool} {k0 s : State} {k : Nat} {u : Nat} (hk : Keeps kb k0 s) :
    Keeps kb k0 (State.passSlice s k u) := by
  unfold State.passSlice
  repeat' first
    | with_reducible assumption
    | intro _
    | with_reducible apply Keeps.wr
    | with_reducible apply Keeps.logRepair
    | with_reducible apply Keeps.ite
    | dsimp only
    | simp only [Keeps.upd]
    | simp only [State.inc, State.add, State.wr_frame, Keeps.upd_wr]
    | decide +kernel

theorem failSlice {kb : Bool} {k0 s : State} {k : Nat} {u : Nat} (hk : Keeps kb k0 s) :
    Keeps kb k0 (State.failSlice s k u) := by
  unfold State.failSlice
  repeat' first
    | with_reducible assumption
    | with_reducible apply Keeps.inc
    | with_reducible apply Keeps.logRepair
    | with_reducible apply Keeps.unitOut
    | with_reducible apply Keeps.ite
    | dsimp only
    | simp only [Keeps.upd]
    | simp only [State.inc, State.add, State.wr_frame, Keeps.upd_wr]
    | decide +kernel

theorem endSlice {kb : Bool} {k0 s : State} {x : Slice} (hk : Keeps kb k0 s) :
    Keeps kb k0 (State.endSlice s x) := by
  unfold State.endSlice
  repeat' first
    | with_reducible assumption
    | with_reducible apply Keeps.incWrap
    | with_reducible apply Keeps.setF
    | with_reducible apply Keeps.ite
    | split
    | dsimp only
    | simp only [Keeps.upd]
    | decide +kernel

theorem execBistSliceDone {kb : Bool} {k0 s : State} {fails : List BistFail} (hk : Keeps kb k0 s) :
    AnsKeeps kb k0 (Sys2Proof.Machine.execBistSliceDone fails s) := by
  unfold Sys2Proof.Machine.execBistSliceDone
  repeat' first
    | with_reducible assumption
    | with_reducible apply Keeps.endSlice
    | with_reducible apply Keeps.failSlice
    | with_reducible apply Keeps.passSlice
    | with_reducible apply Keeps.reinitBlock
    | with_reducible apply Keeps.repairs
    | with_reducible apply Keeps.wreckCells
    | with_reducible apply Keeps.wreckSram
    | with_reducible apply Keeps.ite_fst
    | with_reducible apply Keeps.foldl_fst
    | with_reducible apply Keeps.next
    | with_reducible apply Keeps.ite
    | with_reducible apply Keeps.ans_ite
    | (refine Keeps.of_pair (by assumption) ?_)
    | split
    | dsimp only
    | decide +kernel

theorem execBistIntervalDue {kb : Bool} {k0 s : State} {kind : SliceKind} {unit : Fin 192} (hk : Keeps kb k0 s) :
    AnsKeeps kb k0 (Sys2Proof.Machine.execBistIntervalDue kind unit s) := by
  unfold Sys2Proof.Machine.execBistIntervalDue
  repeat' first
    | with_reducible assumption
    | intro _
    | with_reducible apply Keeps.ckFlip
    | with_reducible apply Keeps.setF
    | with_reducible apply Keeps.startCopies
    | with_reducible apply Keeps.startSlice
    | with_reducible apply Keeps.next
    | with_reducible apply Keeps.ite
    | with_reducible apply Keeps.ans_ite
    | with_reducible apply Keeps.dite
    | with_reducible apply Keeps.ans_dite
    | split
    | dsimp only
    | simp only [Keeps.upd]
    | decide +kernel

theorem execCoverageLapse {kb : Bool} {k0 s : State} {kind : SliceKind} {unit : Fin 192} (hk : Keeps kb k0 s) :
    AnsKeeps kb k0 (Sys2Proof.Machine.execCoverageLapse kind unit s) := by
  unfold Sys2Proof.Machine.execCoverageLapse
  repeat' first
    | with_reducible assumption
    | with_reducible apply Keeps.inc
    | with_reducible apply Keeps.report
    | with_reducible apply Keeps.next
    | with_reducible apply Keeps.ite
    | with_reducible apply Keeps.ans_ite
    | split
    | dsimp only
    | simp only [Keeps.upd]
    | simp only [State.inc, State.add, State.wr_frame, Keeps.upd_wr]
    | decide +kernel

end Keeps

end Sys2Proof.Machine
end

