-- ==== Sys2Proof/Laws/KeepsLogOps.lean ====
section
/-! SUPPORT. What the operations of Machine/LogOps.lean keep. -/

namespace Sys2Proof.Machine

namespace Keeps

set_option Elab.async false
set_option linter.unusedSimpArgs false
set_option linter.unusedVariables false

theorem writeLog {kb : Bool} {k0 s : State} {e : LogEntry} (hk : Keeps kb k0 s) :
    Keeps kb k0 (State.writeLog s e) := by
  unfold State.writeLog
  repeat' first
    | with_reducible assumption
    | with_reducible apply Keeps.wr
    | with_reducible apply Keeps.memWrite
    | dsimp only
    | decide +kernel

theorem log {kb : Bool} {k0 s : State} {comp : Nat} {level : Nat} {code : Nat} {args : Bytes} (hk : Keeps kb k0 s) :
    Keeps kb k0 (State.log s comp level code args) := by
  unfold State.log
  repeat' first
    | with_reducible assumption
    | intro _
    | with_reducible apply Keeps.writeLog
    | with_reducible apply Keeps.ite
    | dsimp only
    | simp only [Keeps.upd]
    | decide +kernel

theorem logEvent {kb : Bool} {k0 s : State} {comp : Nat} {level : Nat} (hk : Keeps kb k0 s) :
    Keeps kb k0 (State.logEvent s comp level) := by
  unfold State.logEvent
  repeat' first
    | with_reducible assumption
    | with_reducible apply Keeps.drawn
    | with_reducible apply Keeps.log
    | dsimp only
    | decide +kernel

theorem flushLog {kb : Bool} {k0 s : State} (hk : Keeps kb k0 s) :
    Keeps kb k0 (State.flushLog s) := by
  unfold State.flushLog
  repeat' first
    | with_reducible assumption
    | intro _
    | with_reducible apply Keeps.writeLog
    | with_reducible apply Keeps.foldl
    | with_reducible apply Keeps.ite
    | dsimp only
    | simp only [Keeps.upd]
    | decide +kernel

theorem saveLog {kb : Bool} {k0 s : State} (hk : Keeps kb k0 s) :
    Keeps kb k0 (State.saveLog s) := by
  unfold State.saveLog
  repeat' first
    | with_reducible assumption
    | intro _
    | with_reducible apply Keeps.flashWrite
    | with_reducible apply Keeps.ite_fst
    | with_reducible apply Keeps.foldl_fst
    | with_reducible apply Keeps.ite
    | dsimp only
    | simp only [Keeps.upd]
    | decide +kernel

end Keeps

end Sys2Proof.Machine
end

