-- ==== Sys2Proof/Laws/KeepsProjector.lean ====
section
/-! SUPPORT. What the operations of Machine/Projector.lean keep. -/

namespace Sys2Proof.Machine

namespace Keeps

set_option Elab.async false
set_option linter.unusedSimpArgs false
set_option linter.unusedVariables false

theorem runProject {kb : Bool} {k0 s : State} {j : Job} {ws : List Win} {cal : Bytes} (hk : Keeps kb k0 s) :
    Keeps kb k0 (State.runProject s j ws cal) := by
  unfold State.runProject
  repeat' first
    | with_reducible assumption
    | intro _
    | with_reducible apply Keeps.changeJob
    | with_reducible apply Keeps.targetTouch
    | with_reducible apply Keeps.targetWrite
    | with_reducible apply Keeps.ite_fst
    | with_reducible apply Keeps.foldl_fst
    | with_reducible apply Keeps.foldl
    | dsimp only
    | simp only [Keeps.upd]
    | decide +kernel

theorem dupMismatch {kb : Bool} {k0 s : State} {j : Job} (hk : Keeps kb k0 s) :
    Keeps kb k0 (State.dupMismatch s j) := by
  unfold State.dupMismatch
  repeat' first
    | with_reducible assumption
    | intro _
    | with_reducible apply Keeps.changeJob
    | dsimp only
    | simp only [Keeps.upd]
    | decide +kernel

theorem execProject {kb : Bool} {k0 s : State} (hk : Keeps kb k0 s) :
    AnsKeeps kb k0 (Sys2Proof.Machine.execProject s) := by
  unfold Sys2Proof.Machine.execProject
  repeat' first
    | with_reducible assumption
    | intro _
    | with_reducible apply Keeps.wr
    | with_reducible apply Keeps.bufTouch
    | with_reducible apply Keeps.refuseJob
    | with_reducible apply Keeps.runProject
    | with_reducible apply Keeps.ite_fst
    | with_reducible apply Keeps.foldl_fst
    | with_reducible apply Keeps.next
    | with_reducible apply Keeps.ite
    | with_reducible apply Keeps.ans_ite
    | split
    | dsimp only
    | decide +kernel

end Keeps

end Sys2Proof.Machine
end

