-- ==== Sys2Proof/Laws/KeepsFusion.lean ====
section
/-! SUPPORT. What the operations of Machine/Fusion.lean keep. -/

namespace Sys2Proof.Machine

namespace Keeps

set_option Elab.async false
set_option linter.unusedSimpArgs false
set_option linter.unusedVariables false

theorem discardFrame {kb : Bool} {k0 s : State} {i : Nat} (hk : Keeps kb k0 s) :
    Keeps kb k0 (State.discardFrame s i) := by
  unfold State.discardFrame
  repeat' first
    | with_reducible assumption
    | with_reducible apply Keeps.drop
    | with_reducible apply Keeps.setSrc
    | dsimp only
    | simp only [Keeps.upd]
    | decide +kernel

theorem camStart {kb : Bool} {k0 s : State} {i : Nat} (hk : Keeps kb k0 s) :
    Keeps kb k0 (State.camStart s i) := by
  unfold State.camStart
  repeat' first
    | with_reducible assumption
    | with_reducible apply Keeps.discardFrame
    | with_reducible apply Keeps.drawn
    | with_reducible apply Keeps.dropFull
    | with_reducible apply Keeps.takeSlot
    | with_reducible apply Keeps.ite
    | split
    | dsimp only
    | decide +kernel

theorem camLine {kb : Bool} {k0 s : State} {i : Nat} {dt : Nat} {pixels : List Nat} (hk : Keeps kb k0 s) :
    Keeps kb k0 (State.camLine s i dt pixels) := by
  unfold State.camLine
  repeat' first
    | with_reducible assumption
    | intro _
    | with_reducible apply Keeps.discardFrame
    | with_reducible apply Keeps.drop
    | with_reducible apply Keeps.memWrite
    | with_reducible apply Keeps.setSrc
    | with_reducible apply Keeps.ite
    | split
    | dsimp only
    | simp only [Keeps.upd]
    | decide +kernel

theorem camEnd {kb : Bool} {k0 s : State} {i : Nat} (hk : Keeps kb k0 s) :
    Keeps kb k0 (State.camEnd s i) := by
  unfold State.camEnd
  repeat' first
    | with_reducible assumption
    | with_reducible apply Keeps.discardFrame
    | with_reducible apply Keeps.setSrc
    | with_reducible apply Keeps.ite
    | split
    | dsimp only
    | simp only [Keeps.upd]
    | decide +kernel

theorem execCameraPacket {kb : Bool} {k0 s : State} {source : Fin 16} {vc : Fin 32} {packet : CamPacket} {err : PacketError} (hk : Keeps kb k0 s) :
    AnsKeeps kb k0 (Sys2Proof.Machine.execCameraPacket source vc packet err s) := by
  unfold Sys2Proof.Machine.execCameraPacket
  repeat' first
    | with_reducible assumption
    | with_reducible apply Keeps.inc
    | with_reducible apply Keeps.camEnd
    | with_reducible apply Keeps.camLine
    | with_reducible apply Keeps.camStart
    | with_reducible apply Keeps.discardFrame
    | with_reducible apply Keeps.drop
    | with_reducible apply Keeps.setSrc
    | with_reducible apply Keeps.next
    | with_reducible apply Keeps.ite
    | with_reducible apply Keeps.ans_ite
    | split
    | dsimp only
    | simp only [Keeps.upd]
    | simp only [State.inc, State.add, State.wr_frame, Keeps.upd_wr]
    | decide +kernel

theorem closeSweep {kb : Bool} {k0 s : State} {i : Nat} (hk : Keeps kb k0 s) :
    Keeps kb k0 (State.closeSweep s i) := by
  unfold State.closeSweep
  repeat' first
    | with_reducible assumption
    | with_reducible apply Keeps.setSrc
    | split
    | dsimp only
    | simp only [Keeps.upd]
    | decide +kernel

theorem openSweep {kb : Bool} {k0 s : State} {i : Nat} {fc : Nat} (hk : Keeps kb k0 s) :
    Keeps kb k0 (State.openSweep s i fc) := by
  unfold State.openSweep
  repeat' first
    | with_reducible assumption
    | with_reducible apply Keeps.dropFull
    | with_reducible apply Keeps.setSrc
    | with_reducible apply Keeps.takeSlot
    | split
    | dsimp only
    | simp only [Keeps.upd]
    | decide +kernel

theorem sweepPacket {kb : Bool} {k0 s : State} {i : Nat} {a : Nat} {t : Nat} {pay : Bytes} (hk : Keeps kb k0 s) :
    Keeps kb k0 (State.sweepPacket s i a t pay) := by
  unfold State.sweepPacket
  repeat' first
    | with_reducible assumption
    | with_reducible apply Keeps.drop
    | with_reducible apply Keeps.memWrite
    | with_reducible apply Keeps.setSrc
    | with_reducible apply Keeps.ite_fst
    | with_reducible apply Keeps.foldl_fst
    | with_reducible apply Keeps.ite
    | split
    | dsimp only
    | simp only [Keeps.upd]
    | decide +kernel

theorem lidarPayload {kb : Bool} {k0 s : State} {i : Nat} {a : Nat} {pay : Bytes} (hk : Keeps kb k0 s) :
    Keeps kb k0 (State.lidarPayload s i a pay) := by
  unfold State.lidarPayload
  repeat' first
    | with_reducible assumption
    | with_reducible apply Keeps.closeSweep
    | with_reducible apply Keeps.drawn
    | with_reducible apply Keeps.estUpdate
    | with_reducible apply Keeps.openSweep
    | with_reducible apply Keeps.sweepPacket
    | with_reducible apply Keeps.ite_fst
    | with_reducible apply Keeps.foldl_fst
    | with_reducible apply Keeps.ite
    | split
    | dsimp only
    | decide +kernel

theorem execLidarPacket {kb : Bool} {k0 s : State} {frame : Bytes} (hk : Keeps kb k0 s) :
    AnsKeeps kb k0 (Sys2Proof.Machine.execLidarPacket frame s) := by
  unfold Sys2Proof.Machine.execLidarPacket
  repeat' first
    | with_reducible assumption
    | with_reducible apply Keeps.lidarPayload
    | with_reducible apply Keeps.next
    | split
    | dsimp only
    | decide +kernel

theorem execImuDrdy {kb : Bool} {k0 s : State} {port : Fin 2} (hk : Keeps kb k0 s) :
    AnsKeeps kb k0 (Sys2Proof.Machine.execImuDrdy port s) := by
  unfold Sys2Proof.Machine.execImuDrdy
  repeat' first
    | with_reducible assumption
    | with_reducible apply Keeps.emit
    | with_reducible apply Keeps.setSrc
    | with_reducible apply Keeps.next
    | with_reducible apply Keeps.ite
    | with_reducible apply Keeps.ans_ite
    | dsimp only
    | simp only [Keeps.upd]
    | decide +kernel

theorem execImuTransactionDone {kb : Bool} {k0 s : State} {port : Fin 2} {data : Bytes} (hk : Keeps kb k0 s) :
    AnsKeeps kb k0 (Sys2Proof.Machine.execImuTransactionDone port data s) := by
  unfold Sys2Proof.Machine.execImuTransactionDone
  repeat' first
    | with_reducible assumption
    | with_reducible apply Keeps.drawn
    | with_reducible apply Keeps.events
    | with_reducible apply Keeps.putRecord
    | with_reducible apply Keeps.release
    | with_reducible apply Keeps.setSrc
    | with_reducible apply Keeps.next
    | split
    | dsimp only
    | simp only [Keeps.upd]
    | decide +kernel

theorem execSampleComplete {kb : Bool} {k0 s : State} {source : Fin 32} (hk : Keeps kb k0 s) :
    AnsKeeps kb k0 (Sys2Proof.Machine.execSampleComplete source s) := by
  unfold Sys2Proof.Machine.execSampleComplete
  repeat' first
    | with_reducible assumption
    | with_reducible apply Keeps.complete
    | with_reducible apply Keeps.placeSample
    | with_reducible apply Keeps.releaseOverdue
    | with_reducible apply Keeps.setSrc
    | with_reducible apply Keeps.slotHeader
    | with_reducible apply Keeps.next
    | with_reducible apply Keeps.ite
    | with_reducible apply Keeps.ans_ite
    | split
    | dsimp only
    | simp only [Keeps.upd]
    | decide +kernel

theorem execFrameSyncStart {kb : Bool} {k0 s : State} {source : Fin 16} (hk : Keeps kb k0 s) :
    AnsKeeps kb k0 (Sys2Proof.Machine.execFrameSyncStart source s) := by
  unfold Sys2Proof.Machine.execFrameSyncStart
  repeat' first
    | with_reducible assumption
    | with_reducible apply Keeps.emit
    | with_reducible apply Keeps.setSrc
    | with_reducible apply Keeps.next
    | with_reducible apply Keeps.ite
    | with_reducible apply Keeps.ans_ite
    | split
    | dsimp only
    | simp only [Keeps.upd]
    | decide +kernel

theorem execFrameSyncEnd {kb : Bool} {k0 s : State} {source : Fin 16} (hk : Keeps kb k0 s) :
    AnsKeeps kb k0 (Sys2Proof.Machine.execFrameSyncEnd source s) := by
  unfold Sys2Proof.Machine.execFrameSyncEnd
  repeat' first
    | with_reducible assumption
    | with_reducible apply Keeps.emit
    | with_reducible apply Keeps.setSrc
    | with_reducible apply Keeps.next
    | with_reducible apply Keeps.ite
    | with_reducible apply Keeps.ans_ite
    | split
    | dsimp only
    | simp only [Keeps.upd]
    | decide +kernel

theorem execInstantRelease {kb : Bool} {k0 s : State} (hk : Keeps kb k0 s) :
    AnsKeeps kb k0 (Sys2Proof.Machine.execInstantRelease s) := by
  unfold Sys2Proof.Machine.execInstantRelease
  repeat' first
    | with_reducible assumption
    | with_reducible apply Keeps.release
    | with_reducible apply Keeps.next
    | with_reducible apply Keeps.ite
    | with_reducible apply Keeps.ans_ite
    | dsimp only
    | decide +kernel

theorem execInstantWaitLimit {kb : Bool} {k0 s : State} (hk : Keeps kb k0 s) :
    AnsKeeps kb k0 (Sys2Proof.Machine.execInstantWaitLimit s) := by
  unfold Sys2Proof.Machine.execInstantWaitLimit
  repeat' first
    | with_reducible assumption
    | with_reducible apply Keeps.releaseLimit
    | with_reducible apply Keeps.next
    | with_reducible apply Keeps.ite
    | with_reducible apply Keeps.ans_ite
    | dsimp only
    | decide +kernel

theorem execResyncRequest {kb : Bool} {k0 s : State} {source : Fin 8} (hk : Keeps kb k0 s) :
    AnsKeeps kb k0 (Sys2Proof.Machine.execResyncRequest source s) := by
  unfold Sys2Proof.Machine.execResyncRequest
  repeat' first
    | with_reducible assumption
    | with_reducible apply Keeps.fusEvent
    | with_reducible apply Keeps.setSrc
    | with_reducible apply Keeps.ite_fst
    | with_reducible apply Keeps.foldl_fst
    | with_reducible apply Keeps.next
    | with_reducible apply Keeps.ite
    | with_reducible apply Keeps.ans_ite
    | split
    | dsimp only
    | simp only [Keeps.upd]
    | decide +kernel

theorem sourceEnable {kb : Bool} {k0 s : State} {i : Nat} (hk : Keeps kb k0 s) :
    Keeps kb k0 (State.sourceEnable s i) := by
  unfold State.sourceEnable
  repeat' first
    | with_reducible assumption
    | with_reducible apply Keeps.toCold
    | with_reducible apply Keeps.inc
    | with_reducible apply Keeps.wr
    | with_reducible apply Keeps.complete
    | with_reducible apply Keeps.setSrc
    | with_reducible apply Keeps.srcState
    | with_reducible apply Keeps.ite
    | dsimp only
    | simp only [Keeps.upd]
    | simp only [State.inc, State.add, State.wr_frame, Keeps.upd_wr]
    | decide +kernel

theorem sourceDisable {kb : Bool} {k0 s : State} {i : Nat} (hk : Keeps kb k0 s) :
    Keeps kb k0 (State.sourceDisable s i) := by
  unfold State.sourceDisable
  repeat' first
    | with_reducible assumption
    | with_reducible apply Keeps.wr
    | with_reducible apply Keeps.complete
    | with_reducible apply Keeps.emit
    | with_reducible apply Keeps.setSrc
    | with_reducible apply Keeps.srcState
    | with_reducible apply Keeps.ite
    | dsimp only
    | simp only [Keeps.upd]
    | simp only [State.inc, State.add, State.wr_frame, Keeps.upd_wr]
    | decide +kernel

theorem freshAligner {kb : Bool} {k0 s : State} (hk : Keeps kb k0 s) :
    Keeps kb k0 (State.freshAligner s) := by
  unfold State.freshAligner
  repeat' first
    | with_reducible assumption
    | intro _
    | with_reducible apply Keeps.complete
    | with_reducible apply Keeps.setSrc
    | with_reducible apply Keeps.foldl
    | dsimp only
    | simp only [Keeps.upd]
    | decide +kernel

theorem clearPoses {kb : Bool} {k0 s : State} (hk : Keeps kb k0 s) :
    Keeps kb k0 (State.clearPoses s) := by
  unfold State.clearPoses
  repeat' first
    | with_reducible assumption
    | intro _
    | with_reducible apply Keeps.memWrite
    | with_reducible apply Keeps.foldl
    | dsimp only
    | decide +kernel

theorem freshMerge {kb : Bool} {k0 s : State} (hk : Keeps kb k0 s) :
    Keeps kb k0 (State.freshMerge s) := by
  unfold State.freshMerge
  repeat' first
    | with_reducible assumption
    | dsimp only
    | simp only [Keeps.upd]
    | decide +kernel

theorem runStart {kb : Bool} {k0 s : State} (hk : Keeps kb k0 s) :
    Keeps kb k0 (State.runStart s) := by
  unfold State.runStart
  repeat' first
    | with_reducible assumption
    | with_reducible apply Keeps.toCold
    | with_reducible apply Keeps.wr
    | with_reducible apply Keeps.clearPoses
    | with_reducible apply Keeps.freshAligner
    | with_reducible apply Keeps.freshMerge
    | with_reducible apply Keeps.ite
    | dsimp only
    | decide +kernel

theorem endFrames {kb : Bool} {k0 s : State} (hk : Keeps kb k0 s) :
    Keeps kb k0 (State.endFrames s) := by
  unfold State.endFrames
  repeat' first
    | with_reducible assumption
    | intro _
    | with_reducible apply Keeps.endQueued
    | with_reducible apply Keeps.foldl
    | dsimp only
    | decide +kernel

theorem runStop {kb : Bool} {k0 s : State} (hk : Keeps kb k0 s) :
    Keeps kb k0 (State.runStop s) := by
  unfold State.runStop
  repeat' first
    | with_reducible assumption
    | intro _
    | with_reducible apply Keeps.wr
    | with_reducible apply Keeps.complete
    | with_reducible apply Keeps.emit
    | with_reducible apply Keeps.endFrames
    | with_reducible apply Keeps.setSrc
    | with_reducible apply Keeps.foldl
    | with_reducible apply Keeps.ite
    | dsimp only
    | simp only [Keeps.upd]
    | simp only [State.inc, State.add, State.wr_frame, Keeps.upd_wr]
    | decide +kernel

theorem byFirmware {kb : Bool} {k0 s : State} {src : Source} {addr : Nat} {f : State → State} (hk : Keeps kb k0 s) (hf : ∀ t, Keeps kb k0 t → Keeps kb k0 (f t)) :
    Keeps kb k0 (State.byFirmware s src addr f) := by
  unfold State.byFirmware
  repeat' first
    | with_reducible assumption
    | with_reducible apply Keeps.denied
    | with_reducible apply Keeps.ite
    | apply hf
    | dsimp only
    | decide +kernel

theorem execSourceEnable {kb : Bool} {k0 s : State} {src : Source} {source : Fin 32} (hk : Keeps kb k0 s) :
    AnsKeeps kb k0 (Sys2Proof.Machine.execSourceEnable src source s) := by
  unfold Sys2Proof.Machine.execSourceEnable
  repeat' first
    | with_reducible assumption
    | intro _
    | with_reducible apply Keeps.byFirmware
    | with_reducible apply Keeps.sourceEnable
    | with_reducible apply Keeps.next
    | dsimp only
    | decide +kernel

theorem execSourceDisable {kb : Bool} {k0 s : State} {src : Source} {source : Fin 32} (hk : Keeps kb k0 s) :
    AnsKeeps kb k0 (Sys2Proof.Machine.execSourceDisable src source s) := by
  unfold Sys2Proof.Machine.execSourceDisable
  repeat' first
    | with_reducible assumption
    | intro _
    | with_reducible apply Keeps.byFirmware
    | with_reducible apply Keeps.sourceDisable
    | with_reducible apply Keeps.next
    | dsimp only
    | decide +kernel

theorem execFusRunStart {kb : Bool} {k0 s : State} {src : Source} (hk : Keeps kb k0 s) :
    AnsKeeps kb k0 (Sys2Proof.Machine.execFusRunStart src s) := by
  unfold Sys2Proof.Machine.execFusRunStart
  repeat' first
    | with_reducible assumption
    | with_reducible apply Keeps.byFirmware
    | with_reducible apply Keeps.runStart
    | with_reducible apply Keeps.next
    | dsimp only
    | decide +kernel

theorem execFusRunStop {kb : Bool} {k0 s : State} {src : Source} (hk : Keeps kb k0 s) :
    AnsKeeps kb k0 (Sys2Proof.Machine.execFusRunStop src s) := by
  unfold Sys2Proof.Machine.execFusRunStop
  repeat' first
    | with_reducible assumption
    | with_reducible apply Keeps.byFirmware
    | with_reducible apply Keeps.runStop
    | with_reducible apply Keeps.next
    | dsimp only
    | decide +kernel

end Keeps

end Sys2Proof.Machine
end

