-- ==== Sys2Proof/Laws/KeepsRender.lean ====
section
/-! SUPPORT. What the operations of Machine/Render.lean keep. -/

namespace Sys2Proof.Machine

namespace Keeps

set_option Elab.async false
set_option linter.unusedSimpArgs false
set_option linter.unusedVariables false

theorem draw_fold {α : Type} {kb : Bool} {k0 : State} {l : List α} {f : Draw → α → Draw} {d : Draw}
    (hf : ∀ e x, Keeps kb k0 e.s → Keeps kb k0 (f e x).s) (hk : Keeps kb k0 d.s) : Keeps kb k0 (l.foldl f d).s := by
  induction l generalizing d with
  | nil => exact hk
  | cons x l ih => exact ih (hf _ _ hk)

theorem draw_ite {kb : Bool} {k0 : State} {c : Prop} [Decidable c] {d e : Draw} (h : Keeps kb k0 d.s) (k : Keeps kb k0 e.s) :
    Keeps kb k0 (if c then d else e).s := by
  split
  · exact h
  · exact k

theorem Draw_touch {kb : Bool} {k0 : State} {d : Draw} {c : Cmd} {ws : List Win} {a n : Nat} {r : Reach} (hk : Keeps kb k0 d.s) : Keeps kb k0 (d.touch c ws a n r).s := by
  unfold Draw.touch
  repeat' first
    | with_reducible assumption
    | intro _
    | with_reducible apply Keeps.targetTouch
    | dsimp only
    | split

theorem Draw_write {kb : Bool} {k0 : State} {d : Draw} {c : Cmd} {ws : List Win} {a : Nat} {bs : Bytes} (hk : Keeps kb k0 d.s) : Keeps kb k0 (d.write c ws a bs).s := by
  unfold Draw.write
  repeat' first
    | with_reducible assumption
    | intro _
    | with_reducible apply Keeps.targetWrite
    | dsimp only
    | split

theorem Draw_paint {kb : Bool} {k0 : State} {d : Draw} {c : Cmd} {ws : List Win} {a n : Nat} (hk : Keeps kb k0 d.s) : Keeps kb k0 (d.paint c ws a n).s := by
  unfold Draw.paint
  repeat' first
    | with_reducible assumption
    | intro _
    | with_reducible apply Keeps.Draw_write
    | with_reducible apply Keeps.drawn
    | with_reducible apply Keeps.draw_ite
    | dsimp only
    | split

theorem Draw_setFlag {kb : Bool} {k0 : State} {d : Draw} {f : Frame9} {i : Img} {k v : Nat} (hk : Keeps kb k0 d.s) : Keeps kb k0 (d.setFlag f i k v).s := by
  unfold Draw.setFlag
  repeat' first
    | with_reducible assumption
    | intro _
    | with_reducible apply Keeps.draw_ite
    | with_reducible apply Keeps.Draw_write
    | with_reducible apply Keeps.Draw_touch
    | dsimp only
    | split

theorem Draw_storeTile {kb : Bool} {k0 : State} {d : Draw} {f : Frame9} {a : Att} {t : Nat} {bs : Bytes} (hk : Keeps kb k0 d.s) : Keeps kb k0 (d.storeTile f a t bs).s := by
  unfold Draw.storeTile
  repeat' first
    | with_reducible assumption
    | intro _
    | with_reducible apply Keeps.Draw_setFlag
    | with_reducible apply Keeps.Draw_write
    | dsimp only
    | split

theorem Draw_loadTile {kb : Bool} {k0 : State} {d : Draw} {f : Frame9} {fl : Bool} {t : Nat} (hk : Keeps kb k0 d.s) : Keeps kb k0 (d.loadTile f fl t).s := by
  unfold Draw.loadTile
  repeat' first
    | with_reducible assumption
    | intro _
    | with_reducible apply Keeps.draw_fold
    | with_reducible apply Keeps.draw_ite
    | with_reducible apply Keeps.Draw_touch
    | with_reducible apply Keeps.drawn
    | dsimp only
    | split

theorem Draw_flushTile {kb : Bool} {k0 : State} {d : Draw} {f : Frame9} {fl : Bool} {t : Nat} {ps : List Nat} (hk : Keeps kb k0 d.s) : Keeps kb k0 (d.flushTile f fl t ps).s := by
  unfold Draw.flushTile
  repeat' first
    | with_reducible assumption
    | intro _
    | with_reducible apply Keeps.draw_fold
    | with_reducible apply Keeps.draw_ite
    | with_reducible apply Keeps.Draw_storeTile
    | with_reducible apply Keeps.Draw_write
    | with_reducible apply Keeps.Draw_loadTile
    | dsimp only
    | split

theorem Draw_poolData {kb : Bool} {k0 : State} {d : Draw} {f : Frame9} {b u : Nat} (hk : Keeps kb k0 d.s) : Keeps kb k0 (d.poolData f b u).s := by
  unfold Draw.poolData
  repeat' first
    | with_reducible assumption
    | intro _
    | with_reducible apply Keeps.Draw_paint
    | dsimp only
    | split

theorem Draw_emptyTile {kb : Bool} {k0 : State} {d : Draw} {f : Frame9} {t : Nat} (hk : Keeps kb k0 d.s) : Keeps kb k0 (d.emptyTile f t).s := by
  unfold Draw.emptyTile
  repeat' first
    | with_reducible assumption
    | intro _
    | with_reducible apply Keeps.draw_fold
    | with_reducible apply Keeps.draw_ite
    | with_reducible apply Keeps.Draw_setFlag
    | with_reducible apply Keeps.Draw_paint
    | with_reducible apply Keeps.Draw_touch
    | with_reducible apply Keeps.Draw_write
    | with_reducible apply Keeps.Draw_storeTile
    | dsimp only
    | split

theorem bin_fold {α : Type} {kb : Bool} {k0 : State} {l : List α} {f : Machine.Bin → α → Machine.Bin} {d : Machine.Bin}
    (hf : ∀ e x, Keeps kb k0 e.d.s → Keeps kb k0 (f e x).d.s) (hk : Keeps kb k0 d.d.s) : Keeps kb k0 (l.foldl f d).d.s := by
  induction l generalizing d with
  | nil => exact hk
  | cons x l ih => exact ih (hf _ _ hk)

theorem bin_ite {kb : Bool} {k0 : State} {c : Prop} [Decidable c] {d e : Machine.Bin} (h : Keeps kb k0 d.d.s) (k : Keeps kb k0 e.d.s) :
    Keeps kb k0 (if c then d else e).d.s := by
  split
  · exact h
  · exact k

theorem Bin_overflow {kb : Bool} {k0 : State} {d : Bin} {f : Frame9} (hk : Keeps kb k0 d.d.s) : Keeps kb k0 (d.overflow f).d.s := by
  unfold Bin.overflow
  repeat' first
    | with_reducible assumption
    | intro _
    | with_reducible apply Keeps.draw_fold
    | with_reducible apply Keeps.draw_ite
    | with_reducible apply Keeps.bin_ite
    | with_reducible apply Keeps.Draw_flushTile
    | with_reducible apply Keeps.Draw_loadTile
    | with_reducible apply Keeps.Draw_storeTile
    | with_reducible apply Keeps.Draw_emptyTile
    | with_reducible apply Keeps.Draw_poolData
    | with_reducible apply Keeps.Draw_write
    | with_reducible apply Keeps.inc
    | decide +kernel
    | dsimp only
    | split

theorem Bin_prim {kb : Bool} {k0 : State} {d : Bin} {f : Frame9} {l m n : Nat} {p : DrawPrim} (hk : Keeps kb k0 d.d.s) : Keeps kb k0 (d.prim f l m n p).d.s := by
  unfold Bin.prim
  repeat' first
    | with_reducible assumption
    | intro _
    | with_reducible apply Keeps.draw_fold
    | with_reducible apply Keeps.draw_ite
    | with_reducible apply Keeps.bin_ite
    | with_reducible apply Keeps.Draw_flushTile
    | with_reducible apply Keeps.Draw_loadTile
    | with_reducible apply Keeps.Draw_storeTile
    | with_reducible apply Keeps.Draw_emptyTile
    | with_reducible apply Keeps.Draw_poolData
    | with_reducible apply Keeps.Draw_write
    | with_reducible apply Keeps.Bin_overflow
    | dsimp only
    | split

theorem Bin_final {kb : Bool} {k0 : State} {d : Bin} {f : Frame9} {t : Nat} (hk : Keeps kb k0 d.d.s) : Keeps kb k0 (d.final f t).d.s := by
  unfold Bin.final
  repeat' first
    | with_reducible assumption
    | intro _
    | with_reducible apply Keeps.draw_fold
    | with_reducible apply Keeps.draw_ite
    | with_reducible apply Keeps.bin_ite
    | with_reducible apply Keeps.Draw_flushTile
    | with_reducible apply Keeps.Draw_loadTile
    | with_reducible apply Keeps.Draw_storeTile
    | with_reducible apply Keeps.Draw_emptyTile
    | with_reducible apply Keeps.Draw_poolData
    | with_reducible apply Keeps.Draw_write
    | dsimp only
    | split

theorem endRender {kb : Bool} {k0 s : State} {j : Job} {ws : List Win} {status : Nat} {result : Nat} {bad : Bool} (hk : Keeps kb k0 s) :
    Keeps kb k0 (State.endRender s j ws status result bad) := by
  unfold State.endRender
  repeat' first
    | with_reducible assumption
    | intro _
    | with_reducible apply Keeps.changeJob
    | dsimp only
    | simp only [Keeps.upd]
    | decide +kernel

theorem runRender {kb : Bool} {k0 s : State} {j : Job} {f : Frame9} {prims : List DrawPrim} (hk : Keeps kb k0 s) :
    Keeps kb k0 (State.runRender s j f prims) := by
  unfold State.runRender
  repeat' first
    | with_reducible assumption
    | with_reducible apply Keeps.bin_fold
    | with_reducible apply Keeps.Bin_prim
    | with_reducible apply Keeps.Bin_final
    | with_reducible apply Keeps.Draw_touch
    | with_reducible apply Keeps.Draw_poolData
    | with_reducible apply Keeps.drawn
    | intro _
    | with_reducible apply Keeps.inc
    | with_reducible apply Keeps.drawn
    | with_reducible apply Keeps.endRender
    | with_reducible apply Keeps.ite_fst
    | with_reducible apply Keeps.foldl_fst
    | with_reducible apply Keeps.foldl
    | with_reducible apply Keeps.ite
    | simp only [apply_ite Bin.d, apply_ite Draw.s]
    | dsimp only
    | simp only [Keeps.upd]
    | simp only [State.inc, State.add, State.wr_frame, Keeps.upd_wr]
    | decide +kernel

theorem execRender {kb : Bool} {k0 s : State} {prims : List DrawPrim} (hk : Keeps kb k0 s) :
    AnsKeeps kb k0 (Sys2Proof.Machine.execRender prims s) := by
  unfold Sys2Proof.Machine.execRender
  repeat' first
    | with_reducible assumption
    | with_reducible apply Keeps.bufTouch
    | with_reducible apply Keeps.refuseJob
    | with_reducible apply Keeps.runRender
    | with_reducible apply Keeps.ite_fst
    | with_reducible apply Keeps.foldl_fst
    | with_reducible apply Keeps.next
    | with_reducible apply Keeps.ite
    | with_reducible apply Keeps.ans_ite
    | split
    | dsimp only
    | decide +kernel

end Keeps

end Sys2Proof.Machine
end

