-- ==== Sys2Proof/Laws/KeepsCockpit.lean ====
section
/-! SUPPORT. What the operations of Machine/Cockpit.lean keep. -/

namespace Sys2Proof.Machine

namespace Keeps

set_option Elab.async false
set_option linter.unusedSimpArgs false
set_option linter.unusedVariables false

theorem setHead {kb : Bool} {k0 s : State} {h : Nat} {x : HeadRt} (hk : Keeps kb k0 s) :
    Keeps kb k0 (State.setHead s h x) := by
  unfold State.setHead
  repeat' first
    | with_reducible assumption
    | dsimp only
    | simp only [Keeps.upd]
    | decide +kernel

theorem headStep {kb : Bool} {k0 s : State} {h : Nat} (hk : Keeps kb k0 s) :
    Keeps kb k0 (State.headStep s h) := by
  unfold State.headStep
  repeat' first
    | with_reducible assumption
    | with_reducible apply Keeps.setHead
    | with_reducible apply Keeps.ite_fst
    | with_reducible apply Keeps.foldl_fst
    | with_reducible apply Keeps.ite
    | dsimp only
    | simp only [Keeps.upd]
    | decide +kernel

theorem dispEvent {kb : Bool} {k0 s : State} {type : Nat} {head : Nat} {detail : Nat} (hk : Keeps kb k0 s) :
    Keeps kb k0 (State.dispEvent s type head detail) := by
  unfold State.dispEvent
  repeat' first
    | with_reducible assumption
    | with_reducible apply Keeps.event
    | dsimp only
    | decide +kernel

theorem endPresent {kb : Bool} {k0 s : State} {p : Present} {n : Option Nat} {warped : Bool} (hk : Keeps kb k0 s) :
    Keeps kb k0 (State.endPresent s p n warped) := by
  unfold State.endPresent
  repeat' first
    | with_reducible assumption
    | intro _
    | with_reducible apply Keeps.complete
    | with_reducible apply Keeps.drawn
    | with_reducible apply Keeps.pend
    | split
    | dsimp only
    | simp only [Keeps.upd]
    | decide +kernel

theorem execPresent {kb : Bool} {k0 s : State} {cls : Fin 4} (hk : Keeps kb k0 s) :
    AnsKeeps kb k0 (Sys2Proof.Machine.execPresent cls s) := by
  unfold Sys2Proof.Machine.execPresent
  repeat' first
    | with_reducible assumption
    | with_reducible apply Keeps.ctxTouch
    | with_reducible apply Keeps.dequeue
    | with_reducible apply Keeps.endPresent
    | with_reducible apply Keeps.endQueued
    | with_reducible apply Keeps.pend
    | with_reducible apply Keeps.next
    | with_reducible apply Keeps.ite
    | with_reducible apply Keeps.ans_ite
    | split
    | dsimp only
    | simp only [Keeps.upd]
    | decide +kernel

theorem decideWarp {kb : Bool} {k0 s : State} {h : Nat} {n : Nat} {p : Present} (hk : Keeps kb k0 s) :
    Keeps kb k0 (State.decideWarp s h n p).1 := by
  unfold State.decideWarp
  repeat' first
    | with_reducible assumption
    | with_reducible apply Keeps.inc
    | with_reducible apply Keeps.ctxTouch
    | with_reducible apply Keeps.dispEvent
    | with_reducible apply Keeps.latch
    | with_reducible apply Keeps.ite_fst
    | with_reducible apply Keeps.foldl_fst
    | with_reducible apply Keeps.ite
    | split
    | dsimp only
    | decide +kernel

theorem latch {kb : Bool} {k0 s : State} {h : Nat} {n : Nat} (hk : Keeps kb k0 s) :
    Keeps kb k0 (State.latch s h n) := by
  unfold State.latch
  repeat' first
    | with_reducible assumption
    | intro _
    | with_reducible apply Keeps.inc
    | with_reducible apply Keeps.decideWarp
    | with_reducible apply Keeps.endPresent
    | with_reducible apply Keeps.setHead
    | with_reducible apply Keeps.ite_fst
    | with_reducible apply Keeps.foldl_fst
    | with_reducible apply Keeps.foldl
    | (refine Keeps.of_pair (by assumption) ?_)
    | split
    | dsimp only
    | simp only [Keeps.upd]
    | simp only [State.inc, State.add, State.wr_frame, Keeps.upd_wr]
    | decide +kernel

theorem execPresentLatch {kb : Bool} {k0 s : State} {head : Fin 6} (hk : Keeps kb k0 s) :
    AnsKeeps kb k0 (Sys2Proof.Machine.execPresentLatch head s) := by
  unfold Sys2Proof.Machine.execPresentLatch
  repeat' first
    | with_reducible assumption
    | with_reducible apply Keeps.latch
    | with_reducible apply Keeps.next
    | with_reducible apply Keeps.ite
    | with_reducible apply Keeps.ans_ite
    | split
    | dsimp only
    | decide +kernel

theorem checkTelltales {kb : Bool} {k0 s : State} {h : Nat} {n : Nat} {w : Option Warp} {late : List (Nat × Nat)} (hk : Keeps kb k0 s) :
    Keeps kb k0 (State.checkTelltales s h n w late) := by
  unfold State.checkTelltales
  repeat' first
    | with_reducible assumption
    | intro _
    | with_reducible apply Keeps.add
    | with_reducible apply Keeps.wr
    | with_reducible apply Keeps.dispEvent
    | with_reducible apply Keeps.report
    | with_reducible apply Keeps.ite_fst
    | with_reducible apply Keeps.foldl_fst
    | with_reducible apply Keeps.foldl
    | with_reducible apply Keeps.ite
    | dsimp only
    | simp only [Keeps.upd]
    | simp only [State.inc, State.add, State.wr_frame, Keeps.upd_wr]
    | decide +kernel

theorem scanFrame {kb : Bool} {k0 s : State} {h : Nat} {n : Nat} {late : List (Nat × Nat)} (hk : Keeps kb k0 s) :
    Keeps kb k0 (State.scanFrame s h n late) := by
  unfold State.scanFrame
  repeat' first
    | with_reducible assumption
    | intro _
    | with_reducible apply Keeps.inc
    | with_reducible apply Keeps.add
    | with_reducible apply Keeps.checkTelltales
    | with_reducible apply Keeps.ctxTouch
    | with_reducible apply Keeps.dispEvent
    | with_reducible apply Keeps.emit
    | with_reducible apply Keeps.setHead
    | with_reducible apply Keeps.ite_fst
    | with_reducible apply Keeps.foldl_fst
    | with_reducible apply Keeps.ite
    | split
    | dsimp only
    | simp only [Keeps.upd]
    | simp only [State.inc, State.add, State.wr_frame, Keeps.upd_wr]
    | decide +kernel

theorem execFrameStart {kb : Bool} {k0 s : State} {head : Fin 6} {late : List (Nat × Nat)} (hk : Keeps kb k0 s) :
    AnsKeeps kb k0 (Sys2Proof.Machine.execFrameStart head late s) := by
  unfold Sys2Proof.Machine.execFrameStart
  repeat' first
    | with_reducible assumption
    | with_reducible apply Keeps.scanFrame
    | with_reducible apply Keeps.next
    | with_reducible apply Keeps.ite
    | with_reducible apply Keeps.ans_ite
    | split
    | dsimp only
    | decide +kernel

end Keeps

end Sys2Proof.Machine
end

