-- ==== Sys2Proof/Laws/KeepsUnitOps.lean ====
section
/-! SUPPORT. What the operations of Machine/UnitOps.lean keep. -/

namespace Sys2Proof.Machine

namespace Keeps

set_option Elab.async false
set_option linter.unusedSimpArgs false
set_option linter.unusedVariables false

theorem joinDomains {kb : Bool} {k0 s : State} (hk : Keeps kb k0 s) :
    Keeps kb k0 (State.joinDomains s) := by
  unfold State.joinDomains
  repeat' first
    | with_reducible assumption
    | dsimp only
    | simp only [Keeps.upd]
    | decide +kernel

theorem domainUp {kb : Bool} {k0 s : State} {d : Nat} (hk : Keeps kb k0 s) :
    Keeps kb k0 (State.domainUp s d) := by
  unfold State.domainUp
  repeat' first
    | with_reducible assumption
    | with_reducible apply Keeps.inc
    | with_reducible apply Keeps.wr
    | with_reducible apply Keeps.ite
    | dsimp only
    | decide +kernel

theorem stopPlls {kb : Bool} {k0 s : State} (hk : Keeps kb k0 s) :
    Keeps kb k0 (State.stopPlls s) := by
  unfold State.stopPlls
  repeat' first
    | with_reducible assumption
    | dsimp only
    | simp only [Keeps.upd]
    | decide +kernel

theorem setUnit {kb : Bool} {k0 s : State} {u : UnitSel} {st : Nat} (hk : Keeps kb k0 s) :
    Keeps kb k0 (State.setUnit s u st) := by
  unfold State.setUnit
  repeat' first
    | with_reducible assumption
    | with_reducible apply Keeps.wr
    | split
    | dsimp only
    | simp only [Keeps.upd]
    | simp only [State.inc, State.add, State.wr_frame, Keeps.upd_wr]
    | decide +kernel

theorem setEnable {kb : Bool} {k0 s : State} {u : UnitSel} {v : Nat} (hk : Keeps kb k0 s) :
    Keeps kb k0 (State.setEnable s u v) := by
  unfold State.setEnable
  repeat' first
    | with_reducible assumption
    | with_reducible apply Keeps.wr
    | with_reducible apply Keeps.ite
    | split
    | dsimp only
    | simp only [Keeps.upd]
    | simp only [State.inc, State.add, State.wr_frame, Keeps.upd_wr]
    | decide +kernel

theorem setPending {kb : Bool} {k0 s : State} {u : UnitSel} {p : Bool} (hk : Keeps kb k0 s) :
    Keeps kb k0 (State.setPending s u p) := by
  unfold State.setPending
  repeat' first
    | with_reducible assumption
    | with_reducible apply Keeps.wr
    | with_reducible apply Keeps.ite
    | split
    | dsimp only
    | simp only [Keeps.upd]
    | simp only [State.inc, State.add, State.wr_frame, Keeps.upd_wr]
    | decide +kernel

theorem startUnit {kb : Bool} {k0 s : State} {u : UnitSel} (hk : Keeps kb k0 s) :
    Keeps kb k0 (State.startUnit s u) := by
  unfold State.startUnit
  repeat' first
    | with_reducible assumption
    | with_reducible apply Keeps.setUnit
    | with_reducible apply Keeps.takeUnit
    | with_reducible apply Keeps.ite
    | split
    | dsimp only
    | decide +kernel

theorem unitOnWrite {kb : Bool} {k0 s : State} {u : UnitSel} (hk : Keeps kb k0 s) :
    Keeps kb k0 (State.unitOnWrite s u) := by
  unfold State.unitOnWrite
  repeat' first
    | with_reducible assumption
    | with_reducible apply Keeps.setEnable
    | with_reducible apply Keeps.setPending
    | with_reducible apply Keeps.startUnit
    | with_reducible apply Keeps.ite
    | dsimp only
    | decide +kernel

theorem unitOffWrite {kb : Bool} {k0 s : State} {u : UnitSel} (hk : Keeps kb k0 s) :
    Keeps kb k0 (State.unitOffWrite s u) := by
  unfold State.unitOffWrite
  repeat' first
    | with_reducible assumption
    | with_reducible apply Keeps.setEnable
    | with_reducible apply Keeps.setPending
    | with_reducible apply Keeps.setUnit
    | with_reducible apply Keeps.ite
    | dsimp only
    | decide +kernel

theorem unitOff {kb : Bool} {k0 s : State} {u : UnitSel} (hk : Keeps kb k0 s) :
    Keeps kb k0 (State.unitOff s u) := by
  unfold State.unitOff
  repeat' first
    | with_reducible assumption
    | with_reducible apply Keeps.setPending
    | with_reducible apply Keeps.setUnit
    | dsimp only
    | decide +kernel

theorem restartUnit {kb : Bool} {k0 s : State} {u : UnitSel} (hk : Keeps kb k0 s) :
    Keeps kb k0 (State.restartUnit s u) := by
  unfold State.restartUnit
  repeat' first
    | with_reducible assumption
    | with_reducible apply Keeps.startUnit
    | with_reducible apply Keeps.ite
    | dsimp only
    | decide +kernel

theorem headEnable {kb : Bool} {k0 s : State} {h : Fin 6} (hk : Keeps kb k0 s) : Keeps kb k0 (s.headEnable h) := by
  unfold State.headEnable
  have plain : headCounters.all Fld.plain = true := by decide +kernel
  repeat' first
    | with_reducible assumption
    | with_reducible apply ite
    | with_reducible apply unitOnWrite
    | with_reducible refine inc ?_ (by decide +kernel)
    | exact foldl_mem (fun t f hm ht => wr ht (List.all_eq_true.1 plain f hm)) hk

end Keeps

end Sys2Proof.Machine
end

