-- ==== Sys2Proof/Laws/KeepsPower.lean ====
section
/-! SUPPORT. What the operations of Machine/Power.lean keep. -/

namespace Sys2Proof.Machine

namespace Keeps

set_option Elab.async false
set_option linter.unusedSimpArgs false
set_option linter.unusedVariables false

theorem throttle_plain {p : Fld × Nat × Nat → Bool} {x : Fld × Nat × Nat} (e : throttles.find? p = some x) : x.1.plain = true :=
  List.all_eq_true.1 (show throttles.all (fun x => x.1.plain) = true by decide +kernel) x (List.mem_of_find?_eq_some e)

theorem throttle_plain_last {p : Fld × Nat × Nat → Bool} {x : Fld × Nat × Nat} (e : throttles.reverse.find? p = some x) :
    x.1.plain = true :=
  List.all_eq_true.1 (show throttles.all (fun x => x.1.plain) = true by decide +kernel) x
    (List.mem_reverse.1 (List.mem_of_find?_eq_some e))

theorem execRailValid {kb : Bool} {k0 s : State} {rail : Fin 11} (hk : Keeps kb k0 s) :
    AnsKeeps kb k0 (Sys2Proof.Machine.execRailValid rail s) := by
  unfold Sys2Proof.Machine.execRailValid
  repeat' first
    | with_reducible assumption
    | with_reducible apply Keeps.joinDomains
    | with_reducible apply Keeps.next
    | with_reducible apply Keeps.ite
    | with_reducible apply Keeps.ans_ite
    | dsimp only
    | simp only [Keeps.upd]
    | decide +kernel

theorem execRailInvalid {kb : Bool} {k0 s : State} {rail : Fin 11} (hk : Keeps kb k0 s) :
    AnsKeeps kb k0 (Sys2Proof.Machine.execRailInvalid rail s) := by
  unfold Sys2Proof.Machine.execRailInvalid
  repeat' first
    | with_reducible assumption
    | with_reducible apply Keeps.joinDomains
    | with_reducible apply Keeps.report
    | with_reducible apply Keeps.next
    | with_reducible apply Keeps.ite
    | with_reducible apply Keeps.ans_ite
    | dsimp only
    | simp only [Keeps.upd]
    | decide +kernel

theorem execDomainPowerUp {kb : Bool} {k0 s : State} {domain : Fin 24} (hk : Keeps kb k0 s) :
    AnsKeeps kb k0 (Sys2Proof.Machine.execDomainPowerUp domain s) := by
  unfold Sys2Proof.Machine.execDomainPowerUp
  repeat' first
    | with_reducible assumption
    | with_reducible apply Keeps.domainUp
    | with_reducible apply Keeps.next
    | with_reducible apply Keeps.ite
    | with_reducible apply Keeps.ans_ite
    | dsimp only
    | decide +kernel

theorem execDomainPowerDown {kb : Bool} {k0 s : State} {domain : Fin 24} (hk : Keeps kb k0 s) :
    AnsKeeps kb k0 (Sys2Proof.Machine.execDomainPowerDown domain s) := by
  unfold Sys2Proof.Machine.execDomainPowerDown
  repeat' first
    | with_reducible assumption
    | with_reducible apply Keeps.wr
    | with_reducible apply Keeps.stopPlls
    | with_reducible apply Keeps.next
    | with_reducible apply Keeps.ite
    | with_reducible apply Keeps.ans_ite
    | dsimp only
    | decide +kernel

theorem failLoadsIn {kb : Bool} {k0 s : State} {d : Nat} (hk : Keeps kb k0 s) :
    Keeps kb k0 (State.failLoadsIn s d) := by
  unfold State.failLoadsIn
  repeat' first
    | with_reducible assumption
    | intro _
    | with_reducible apply Keeps.failLoad
    | with_reducible apply Keeps.foldl
    | with_reducible apply Keeps.ite
    | with_reducible apply Keeps.dite
    | dsimp only
    | decide +kernel

theorem execDomainPowerFail {kb : Bool} {k0 s : State} {domain : Fin 24} (hk : Keeps kb k0 s) :
    AnsKeeps kb k0 (Sys2Proof.Machine.execDomainPowerFail domain s) := by
  unfold Sys2Proof.Machine.execDomainPowerFail
  repeat' first
    | with_reducible assumption
    | with_reducible apply Keeps.wr
    | with_reducible apply Keeps.failLoadsIn
    | with_reducible apply Keeps.report
    | with_reducible apply Keeps.next
    | with_reducible apply Keeps.ite
    | with_reducible apply Keeps.ans_ite
    | dsimp only
    | decide +kernel

theorem execPllLock {kb : Bool} {k0 s : State} {pll : Fin 24} (hk : Keeps kb k0 s) :
    AnsKeeps kb k0 (Sys2Proof.Machine.execPllLock pll s) := by
  unfold Sys2Proof.Machine.execPllLock
  repeat' first
    | with_reducible assumption
    | with_reducible apply Keeps.next
    | with_reducible apply Keeps.ite
    | with_reducible apply Keeps.ans_ite
    | dsimp only
    | simp only [Keeps.upd]
    | decide +kernel

theorem decideClock {kb : Bool} {k0 s : State} {mhz : Nat} (hk : Keeps kb k0 s) :
    Keeps kb k0 (State.decideClock s mhz) := by
  unfold State.decideClock
  repeat' first
    | with_reducible assumption
    | with_reducible apply Keeps.ite
    | dsimp only
    | simp only [Keeps.upd]
    | decide +kernel

theorem execAvsAck {kb : Bool} {k0 s : State} (hk : Keeps kb k0 s) :
    AnsKeeps kb k0 (Sys2Proof.Machine.execAvsAck s) := by
  unfold Sys2Proof.Machine.execAvsAck
  repeat' first
    | with_reducible assumption
    | with_reducible apply Keeps.next
    | with_reducible apply Keeps.ite
    | with_reducible apply Keeps.ans_ite
    | dsimp only
    | simp only [Keeps.upd]
    | decide +kernel

theorem hostClocks {kb : Bool} {k0 s : State} (hk : Keeps kb k0 s) :
    Keeps kb k0 (State.hostClocks s) := by
  unfold State.hostClocks
  repeat' first
    | with_reducible assumption
    | intro _
    | with_reducible apply Keeps.wr
    | with_reducible apply Keeps.each
    | dsimp only
    | decide +kernel

theorem lowerOne {kb : Bool} {k0 s : State} (hk : Keeps kb k0 s) :
    Keeps kb k0 (State.lowerOne s) := by
  unfold State.lowerOne
  repeat' first
    | with_reducible assumption
    | with_reducible exact throttle_plain (by assumption)
    | with_reducible exact throttle_plain_last (by assumption)
    | intro _
    | with_reducible apply Keeps.wr
    | with_reducible apply Keeps.ite_fst
    | with_reducible apply Keeps.foldl_fst
    | split
    | dsimp only
    | decide +kernel

theorem raiseOne {kb : Bool} {k0 s : State} (hk : Keeps kb k0 s) :
    Keeps kb k0 (State.raiseOne s) := by
  unfold State.raiseOne
  repeat' first
    | with_reducible assumption
    | with_reducible exact throttle_plain (by assumption)
    | with_reducible exact throttle_plain_last (by assumption)
    | intro _
    | with_reducible apply Keeps.wr
    | with_reducible apply Keeps.ite_fst
    | with_reducible apply Keeps.foldl_fst
    | split
    | dsimp only
    | decide +kernel

theorem limiterStep {kb : Bool} {k0 s : State} {p : Nat} {tj : Nat} (hk : Keeps kb k0 s) :
    Keeps kb k0 (State.limiterStep s p tj) := by
  unfold State.limiterStep
  repeat' first
    | with_reducible assumption
    | intro _
    | with_reducible apply Keeps.inc
    | with_reducible apply Keeps.wr
    | with_reducible apply Keeps.hostClocks
    | with_reducible apply Keeps.lowerOne
    | with_reducible apply Keeps.raiseOne
    | with_reducible apply Keeps.report
    | with_reducible apply Keeps.ite_fst
    | with_reducible apply Keeps.foldl_fst
    | with_reducible apply Keeps.ite
    | dsimp only
    | decide +kernel

theorem execLimiterWindow {kb : Bool} {k0 s : State} {watts : Nat} {tj : Nat} (hk : Keeps kb k0 s) :
    AnsKeeps kb k0 (Sys2Proof.Machine.execLimiterWindow watts tj s) := by
  unfold Sys2Proof.Machine.execLimiterWindow
  repeat' first
    | with_reducible assumption
    | with_reducible apply Keeps.limiterStep
    | with_reducible apply Keeps.next
    | with_reducible apply Keeps.ite
    | with_reducible apply Keeps.ans_ite
    | dsimp only
    | simp only [Keeps.upd]
    | decide +kernel

end Keeps

end Sys2Proof.Machine
end

