-- ==== Sys2Proof/Laws/KeepsSafetyOps.lean ====
section
/-! SUPPORT. What the operations of Machine/SafetyOps.lean keep. -/

namespace Sys2Proof.Machine

namespace Keeps

set_option Elab.async false
set_option linter.unusedSimpArgs false
set_option linter.unusedVariables false

theorem recordFault {kb : Bool} {k0 s : State} {r : SafReport} (hk : Keeps kb k0 s) :
    Keeps kb k0 (State.recordFault s r) := by
  unfold State.recordFault
  repeat' first
    | with_reducible assumption
    | with_reducible apply Keeps.wr
    | dsimp only
    | simp only [Keeps.upd]
    | simp only [State.inc, State.add, State.wr_frame, Keeps.upd_wr]
    | decide +kernel

theorem countFault {kb : Bool} {k0 s : State} (hk : Keeps kb k0 s) : Keeps kb k0 s.countFault :=
  saf_change hk _ (fun _ => Nat.min_le_right _ _) id

theorem containedFault {kb : Bool} {k0 s : State} {r : SafReport} (hk : Keeps kb k0 s) :
    Keeps kb k0 (State.containedFault s r) := by
  unfold State.containedFault
  repeat' first
    | with_reducible assumption
    | with_reducible apply Keeps.inc
    | with_reducible apply Keeps.contained
    | with_reducible apply Keeps.countFault
    | with_reducible apply Keeps.recordFault
    | with_reducible apply Keeps.report
    | with_reducible apply Keeps.ite
    | split
    | dsimp only
    | simp only [Keeps.upd]
    | simp only [State.inc, State.add, State.wr_frame, Keeps.upd_wr]
    | decide +kernel

theorem fieldReaction {kb : Bool} {k0 s : State} {f : Fin 17} {source : Nat} (hk : Keeps kb k0 s) :
    Keeps kb k0 (State.fieldReaction s f source) := by
  unfold State.fieldReaction
  repeat' first
    | with_reducible assumption
    | with_reducible apply Keeps.events
    | with_reducible apply Keeps.setF
    | with_reducible apply Keeps.stopField
    | with_reducible apply Keeps.ite
    | dsimp only
    | simp only [Keeps.upd]
    | decide +kernel

theorem fieldFault {kb : Bool} {k0 s : State} {r : SafReport} (hk : Keeps kb k0 s) :
    Keeps kb k0 (State.fieldFault s r) := by
  unfold State.fieldFault
  repeat' first
    | with_reducible assumption
    | intro _
    | with_reducible apply Keeps.inc
    | with_reducible apply Keeps.countFault
    | with_reducible apply Keeps.fieldReaction
    | with_reducible apply Keeps.recordFault
    | with_reducible apply Keeps.ite
    | with_reducible apply Keeps.dite
    | split
    | dsimp only
    | decide +kernel

theorem sendStatus {kb : Bool} {k0 s : State} {st : Nat} (hk : Keeps kb k0 s) : Keeps kb k0 (s.sendStatus st) := by
  unfold State.sendStatus
  refine ite hk (saf_change ?_ _ id (fun _ => Nat.mod_lt _ (by decide)))
  exact ite (emit (ite (emit hk) hk)) (ite (emit hk) hk)


theorem stopSafety {kb : Bool} {k0 s : State} (hk : Keeps kb k0 s) :
    Keeps kb k0 (State.stopSafety s) := by
  unfold State.stopSafety
  repeat' first
    | with_reducible assumption
    | intro _
    | with_reducible apply Keeps.setF
    | with_reducible apply Keeps.stopField
    | with_reducible apply Keeps.foldl
    | with_reducible apply Keeps.ite
    | dsimp only
    | simp only [Keeps.upd]
    | decide +kernel

theorem enterSafe {kb : Bool} {k0 s : State} {r : SafReport} (hk : Keeps kb k0 s) :
    Keeps kb k0 (State.enterSafe s r) := by
  unfold State.enterSafe
  repeat' first
    | with_reducible assumption
    | intro _
    | with_reducible apply Keeps.inc
    | with_reducible apply Keeps.wr
    | with_reducible apply Keeps.emit
    | with_reducible apply Keeps.event
    | with_reducible apply Keeps.recordFault
    | with_reducible apply Keeps.saveLog
    | with_reducible apply Keeps.sendStatus
    | with_reducible apply Keeps.stopSafety
    | with_reducible apply Keeps.foldl
    | with_reducible apply Keeps.ite
    | dsimp only
    | simp only [Keeps.upd]
    | simp only [State.inc, State.add, State.wr_frame, Keeps.upd_wr]
    | decide +kernel

theorem goldenFail {kb : Bool} {k0 s : State} {f : Nat} (hk : Keeps kb k0 s) :
    Keeps kb k0 (State.goldenFail s f) := by
  unfold State.goldenFail
  repeat' first
    | with_reducible assumption
    | with_reducible apply Keeps.inc
    | with_reducible apply Keeps.report
    | dsimp only
    | decide +kernel

end Keeps

end Sys2Proof.Machine
end

