-- ==== Sys2Proof/Laws/KeepsSafety.lean ====
section
/-! SUPPORT. What the operations of Machine/Safety.lean keep. -/

namespace Sys2Proof.Machine

namespace Keeps

set_option Elab.async false
set_option linter.unusedSimpArgs false
set_option linter.unusedVariables false

theorem processFault {kb : Bool} {k0 s : State} {r : SafReport} (hk : Keeps kb k0 s) :
    Keeps kb k0 (State.processFault s r) := by
  unfold State.processFault
  repeat' first
    | with_reducible assumption
    | with_reducible apply Keeps.inc
    | with_reducible apply Keeps.containedFault
    | with_reducible apply Keeps.enterSafe
    | with_reducible apply Keeps.fieldFault
    | with_reducible apply Keeps.ite
    | split
    | dsimp only
    | decide +kernel

theorem projectorFault {kb : Bool} {k0 s : State} (hk : Keeps kb k0 s) :
    Keeps kb k0 (State.projectorFault s) := by
  unfold State.projectorFault
  repeat' first
    | with_reducible assumption
    | with_reducible apply Keeps.dupMismatch
    | with_reducible apply Keeps.processFault
    | with_reducible apply Keeps.ite
    | split
    | dsimp only
    | decide +kernel

theorem execFaultReport {kb : Bool} {k0 s : State} {source : Fin 256} {field : Option (Fin 17)} (hk : Keeps kb k0 s) :
    AnsKeeps kb k0 (Sys2Proof.Machine.execFaultReport source field s) := by
  unfold Sys2Proof.Machine.execFaultReport
  repeat' first
    | with_reducible assumption
    | intro _
    | with_reducible apply Keeps.processFault
    | with_reducible apply Keeps.projectorFault
    | with_reducible apply Keeps.next
    | with_reducible apply Keeps.ite
    | with_reducible apply Keeps.ans_ite
    | split
    | dsimp only
    | simp only [Keeps.upd]
    | decide +kernel

theorem execHeartbeatTimeout {kb : Bool} {k0 s : State} (hk : Keeps kb k0 s) :
    AnsKeeps kb k0 (Sys2Proof.Machine.execHeartbeatTimeout s) := by
  unfold Sys2Proof.Machine.execHeartbeatTimeout
  repeat' first
    | with_reducible assumption
    | with_reducible apply Keeps.report
    | with_reducible apply Keeps.next
    | with_reducible apply Keeps.ite
    | with_reducible apply Keeps.ans_ite
    | dsimp only
    | decide +kernel

theorem execFirmwareSilent {kb : Bool} {k0 s : State} (hk : Keeps kb k0 s) :
    AnsKeeps kb k0 (Sys2Proof.Machine.execFirmwareSilent s) := by
  unfold Sys2Proof.Machine.execFirmwareSilent
  repeat' first
    | with_reducible assumption
    | with_reducible apply Keeps.report
    | with_reducible apply Keeps.next
    | with_reducible apply Keeps.ite
    | with_reducible apply Keeps.ans_ite
    | dsimp only
    | decide +kernel

theorem execSafeStateFrame {kb : Bool} {k0 s : State} (hk : Keeps kb k0 s) :
    AnsKeeps kb k0 (Sys2Proof.Machine.execSafeStateFrame s) := by
  unfold Sys2Proof.Machine.execSafeStateFrame
  repeat' first
    | with_reducible assumption
    | intro _
    | with_reducible apply Keeps.sendStatus
    | with_reducible apply Keeps.next
    | with_reducible apply Keeps.ite
    | with_reducible apply Keeps.ans_ite
    | dsimp only
    | simp only [Keeps.upd]
    | decide +kernel

theorem execStatusFrame {kb : Bool} {k0 s : State} (hk : Keeps kb k0 s) :
    AnsKeeps kb k0 (Sys2Proof.Machine.execStatusFrame s) := by
  unfold Sys2Proof.Machine.execStatusFrame
  repeat' first
    | with_reducible assumption
    | intro _
    | with_reducible apply Keeps.endStarting
    | with_reducible apply Keeps.sendStatus
    | with_reducible apply Keeps.next
    | with_reducible apply Keeps.ite
    | with_reducible apply Keeps.ans_ite
    | dsimp only
    | simp only [Keeps.upd]
    | decide +kernel

theorem execPrimaryDeadlineCheck {kb : Bool} {k0 s : State} (hk : Keeps kb k0 s) :
    AnsKeeps kb k0 (Sys2Proof.Machine.execPrimaryDeadlineCheck s) := by
  unfold Sys2Proof.Machine.execPrimaryDeadlineCheck
  repeat' first
    | with_reducible assumption
    | intro _
    | with_reducible apply Keeps.report
    | with_reducible apply Keeps.next
    | with_reducible apply Keeps.ite
    | with_reducible apply Keeps.ans_ite
    | dsimp only
    | simp only [Keeps.upd]
    | decide +kernel

theorem execShadowDeadlineCheck {kb : Bool} {k0 s : State} (hk : Keeps kb k0 s) :
    AnsKeeps kb k0 (Sys2Proof.Machine.execShadowDeadlineCheck s) := by
  unfold Sys2Proof.Machine.execShadowDeadlineCheck
  repeat' first
    | with_reducible assumption
    | intro _
    | with_reducible apply Keeps.endStarting
    | with_reducible apply Keeps.next
    | with_reducible apply Keeps.ite
    | with_reducible apply Keeps.ans_ite
    | dsimp only
    | simp only [Keeps.upd]
    | decide +kernel

theorem sleepFrame {kb : Bool} {k0 s : State} {id : Nat} {ext : Bool} {data : Bytes} (hk : Keeps kb k0 s) :
    Keeps kb k0 (State.sleepFrame s id ext data) := by
  unfold State.sleepFrame
  repeat' first
    | with_reducible assumption
    | with_reducible apply Keeps.inc
    | with_reducible apply Keeps.ite
    | dsimp only
    | simp only [Keeps.upd]
    | simp only [State.inc, State.add, State.wr_frame, Keeps.upd_wr]
    | decide +kernel

theorem execSleepPermissionFrame {kb : Bool} {k0 s : State} {port : Fin 2} {id : Nat} {ext : Bool} {data : Bytes} (hk : Keeps kb k0 s) :
    AnsKeeps kb k0 (Sys2Proof.Machine.execSleepPermissionFrame port id ext data s) := by
  unfold Sys2Proof.Machine.execSleepPermissionFrame
  repeat' first
    | with_reducible assumption
    | with_reducible apply Keeps.sleepFrame
    | with_reducible apply Keeps.next
    | split
    | dsimp only
    | decide +kernel

theorem execSleepPermissionExpiry {kb : Bool} {k0 s : State} (hk : Keeps kb k0 s) :
    AnsKeeps kb k0 (Sys2Proof.Machine.execSleepPermissionExpiry s) := by
  unfold Sys2Proof.Machine.execSleepPermissionExpiry
  repeat' first
    | with_reducible assumption
    | intro _
    | with_reducible apply Keeps.next
    | with_reducible apply Keeps.ite
    | with_reducible apply Keeps.ans_ite
    | dsimp only
    | simp only [Keeps.upd]
    | decide +kernel

theorem sendFallback {kb : Bool} {k0 s : State} {payload : Bytes} (hk : Keeps kb k0 s) :
    Keeps kb k0 (State.sendFallback s payload) := by
  unfold State.sendFallback
  repeat' first
    | with_reducible assumption
    | with_reducible apply Keeps.emit
    | with_reducible apply Keeps.ite
    | dsimp only
    | decide +kernel

theorem execFallbackDatagram {kb : Bool} {k0 s : State} (hk : Keeps kb k0 s) :
    AnsKeeps kb k0 (Sys2Proof.Machine.execFallbackDatagram s) := by
  unfold Sys2Proof.Machine.execFallbackDatagram
  repeat' first
    | with_reducible assumption
    | intro _
    | with_reducible apply Keeps.sendFallback
    | with_reducible apply Keeps.foldl
    | with_reducible apply Keeps.next
    | with_reducible apply Keeps.ite
    | with_reducible apply Keeps.ans_ite
    | split
    | dsimp only
    | simp only [Keeps.upd]
    | decide +kernel

theorem kickWatchdog {kb : Bool} {k0 s : State} (hk : Keeps kb k0 s) :
    Keeps kb k0 (State.kickWatchdog s) := by
  unfold State.kickWatchdog
  repeat' first
    | with_reducible assumption
    | intro _
    | with_reducible apply Keeps.report
    | with_reducible apply Keeps.ite
    | split
    | dsimp only
    | simp only [Keeps.upd]
    | decide +kernel

theorem execKick {kb : Bool} {k0 s : State} {src : Source} (hk : Keeps kb k0 s) :
    AnsKeeps kb k0 (Sys2Proof.Machine.execKick src s) := by
  unfold Sys2Proof.Machine.execKick
  repeat' first
    | with_reducible assumption
    | with_reducible apply Keeps.asWho
    | with_reducible apply Keeps.kickWatchdog
    | with_reducible apply Keeps.next
    | dsimp only
    | decide +kernel

theorem execWatchdogWindowExpiry {kb : Bool} {k0 s : State} (hk : Keeps kb k0 s) :
    AnsKeeps kb k0 (Sys2Proof.Machine.execWatchdogWindowExpiry s) := by
  unfold Sys2Proof.Machine.execWatchdogWindowExpiry
  repeat' first
    | with_reducible assumption
    | intro _
    | with_reducible apply Keeps.report
    | with_reducible apply Keeps.next
    | with_reducible apply Keeps.ite
    | with_reducible apply Keeps.ans_ite
    | dsimp only
    | simp only [Keeps.upd]
    | decide +kernel

theorem writeStatus {kb : Bool} {k0 s : State} {v : Nat} (hk : Keeps kb k0 s) :
    Keeps kb k0 (State.writeStatus s v) := by
  unfold State.writeStatus
  repeat' first
    | with_reducible assumption
    | with_reducible apply Keeps.wr
    | with_reducible apply Keeps.emit
    | with_reducible apply Keeps.ite
    | dsimp only
    | decide +kernel

theorem execStatusWrite {kb : Bool} {k0 s : State} {src : Source} {value : Fin 16} (hk : Keeps kb k0 s) :
    AnsKeeps kb k0 (Sys2Proof.Machine.execStatusWrite src value s) := by
  unfold Sys2Proof.Machine.execStatusWrite
  repeat' first
    | with_reducible assumption
    | intro _
    | with_reducible apply Keeps.asWho
    | with_reducible apply Keeps.writeStatus
    | with_reducible apply Keeps.next
    | dsimp only
    | decide +kernel

theorem admitGolden {kb : Bool} {k0 s : State} {f : Fin 17} {c : Cmd} {j : Nat} (hk : Keeps kb k0 s) :
    Keeps kb k0 (State.admitGolden s f c j) := by
  unfold State.admitGolden
  repeat' first
    | with_reducible assumption
    | with_reducible apply Keeps.wr
    | with_reducible apply Keeps.admitField
    | with_reducible apply Keeps.dequeue
    | with_reducible apply Keeps.ite_fst
    | with_reducible apply Keeps.foldl_fst
    | with_reducible apply Keeps.ite
    | split
    | dsimp only
    | simp only [Keeps.upd]
    | simp only [State.inc, State.add, State.wr_frame, Keeps.upd_wr]
    | decide +kernel

theorem execGoldenSlotOpen {kb : Bool} {k0 s : State} {field : Fin 17} {ring : Fin 2} (hk : Keeps kb k0 s) :
    AnsKeeps kb k0 (Sys2Proof.Machine.execGoldenSlotOpen field ring s) := by
  unfold Sys2Proof.Machine.execGoldenSlotOpen
  repeat' first
    | with_reducible assumption
    | with_reducible apply Keeps.admitGolden
    | with_reducible apply Keeps.fetch
    | with_reducible apply Keeps.next
    | with_reducible apply Keeps.ite
    | with_reducible apply Keeps.ans_ite
    | split
    | dsimp only
    | decide +kernel

theorem execGoldenForcedKill {kb : Bool} {k0 s : State} {field : Fin 17} (hk : Keeps kb k0 s) :
    AnsKeeps kb k0 (Sys2Proof.Machine.execGoldenForcedKill field s) := by
  unfold Sys2Proof.Machine.execGoldenForcedKill
  repeat' first
    | with_reducible assumption
    | with_reducible apply Keeps.killField
    | with_reducible apply Keeps.next
    | with_reducible apply Keeps.ite
    | with_reducible apply Keeps.ans_ite
    | dsimp only
    | simp only [Keeps.upd]
    | decide +kernel

theorem execGoldenSkip {kb : Bool} {k0 s : State} {field : Fin 17} (hk : Keeps kb k0 s) :
    AnsKeeps kb k0 (Sys2Proof.Machine.execGoldenSkip field s) := by
  unfold Sys2Proof.Machine.execGoldenSkip
  repeat' first
    | with_reducible assumption
    | with_reducible apply Keeps.inc
    | with_reducible apply Keeps.wr
    | with_reducible apply Keeps.next
    | with_reducible apply Keeps.ite
    | with_reducible apply Keeps.ans_ite
    | split
    | dsimp only
    | simp only [Keeps.upd]
    | simp only [State.inc, State.add, State.wr_frame, Keeps.upd_wr]
    | decide +kernel

theorem execGoldenDeadline {kb : Bool} {k0 s : State} {field : Fin 17} (hk : Keeps kb k0 s) :
    AnsKeeps kb k0 (Sys2Proof.Machine.execGoldenDeadline field s) := by
  unfold Sys2Proof.Machine.execGoldenDeadline
  repeat' first
    | with_reducible assumption
    | intro _
    | with_reducible apply Keeps.goldenFail
    | with_reducible apply Keeps.next
    | with_reducible apply Keeps.ite
    | with_reducible apply Keeps.ans_ite
    | split
    | dsimp only
    | simp only [Keeps.upd]
    | decide +kernel

theorem dropGolden {kb : Bool} {k0 s : State} {f : Nat} (hk : Keeps kb k0 s) :
    Keeps kb k0 (State.dropGolden s f) := by
  unfold State.dropGolden
  repeat' first
    | with_reducible assumption
    | intro _
    | dsimp only
    | simp only [Keeps.upd]
    | decide +kernel

theorem execGoldenCompareDone {kb : Bool} {k0 s : State} {field : Fin 17} (hk : Keeps kb k0 s) :
    AnsKeeps kb k0 (Sys2Proof.Machine.execGoldenCompareDone field s) := by
  unfold Sys2Proof.Machine.execGoldenCompareDone
  repeat' first
    | with_reducible assumption
    | intro _
    | with_reducible apply Keeps.inc
    | with_reducible apply Keeps.wr
    | with_reducible apply Keeps.dropGolden
    | with_reducible apply Keeps.endStarting
    | with_reducible apply Keeps.goldenFail
    | with_reducible apply Keeps.next
    | with_reducible apply Keeps.ite
    | with_reducible apply Keeps.ans_ite
    | split
    | dsimp only
    | simp only [Keeps.upd]
    | simp only [State.inc, State.add, State.wr_frame, Keeps.upd_wr]
    | decide +kernel

end Keeps

end Sys2Proof.Machine
end

