-- ==== Sys2Proof/Laws/KeepsDma.lean ====
section
/-! SUPPORT. What the operations of Machine/Dma.lean keep. -/

namespace Sys2Proof.Machine

namespace Keeps

set_option Elab.async false
set_option linter.unusedSimpArgs false
set_option linter.unusedVariables false

theorem assignOp {kb : Bool} {k0 s : State} {e : Fin 4} {op : Nat} (hk : Keeps kb k0 s) :
    Keeps kb k0 (State.assignOp s e op) := by
  unfold State.assignOp
  repeat' first
    | with_reducible assumption
    | with_reducible apply Keeps.assign
    | with_reducible apply Keeps.ite
    | split
    | dsimp only
    | decide +kernel

theorem execCopy {kb : Bool} {k0 s : State} {engine : Fin 4} (hk : Keeps kb k0 s) :
    AnsKeeps kb k0 (Sys2Proof.Machine.execCopy engine s) := by
  unfold Sys2Proof.Machine.execCopy
  repeat' first
    | with_reducible assumption
    | with_reducible apply Keeps.assignOp
    | with_reducible apply Keeps.next
    | dsimp only
    | decide +kernel

theorem execFill {kb : Bool} {k0 s : State} {engine : Fin 4} (hk : Keeps kb k0 s) :
    AnsKeeps kb k0 (Sys2Proof.Machine.execFill engine s) := by
  unfold Sys2Proof.Machine.execFill
  repeat' first
    | with_reducible assumption
    | with_reducible apply Keeps.assignOp
    | with_reducible apply Keeps.next
    | dsimp only
    | decide +kernel

theorem execChecksum {kb : Bool} {k0 s : State} {engine : Fin 4} (hk : Keeps kb k0 s) :
    AnsKeeps kb k0 (Sys2Proof.Machine.execChecksum engine s) := by
  unfold Sys2Proof.Machine.execChecksum
  repeat' first
    | with_reducible assumption
    | with_reducible apply Keeps.assignOp
    | with_reducible apply Keeps.next
    | dsimp only
    | decide +kernel

theorem execDmaChannelStart {kb : Bool} {k0 s : State} {engine : Fin 4} (hk : Keeps kb k0 s) :
    AnsKeeps kb k0 (Sys2Proof.Machine.execDmaChannelStart engine s) := by
  unfold Sys2Proof.Machine.execDmaChannelStart
  repeat' first
    | with_reducible assumption
    | intro _
    | with_reducible apply Keeps.changeJob
    | with_reducible apply Keeps.next
    | with_reducible apply Keeps.ite
    | with_reducible apply Keeps.ans_ite
    | split
    | dsimp only
    | simp only [Keeps.upd]
    | decide +kernel

theorem dmaMove {kb : Bool} {k0 s : State} {c : Cmd} {remote : Bytes} {bad : List Nat} (hk : Keeps kb k0 s) :
    Keeps kb k0 (State.dmaMove s c remote bad).1 := by
  unfold State.dmaMove
  repeat' first
    | with_reducible assumption
    | with_reducible apply Keeps.targetPoison
    | with_reducible apply Keeps.targetTouch
    | with_reducible apply Keeps.targetWrite
    | with_reducible apply Keeps.ite_fst
    | with_reducible apply Keeps.foldl_fst
    | with_reducible apply Keeps.ite
    | split
    | dsimp only
    | decide +kernel

theorem execDmaChannelDone {kb : Bool} {k0 s : State} {chan : Fin 32} {remote : FabricData} (hk : Keeps kb k0 s) :
    AnsKeeps kb k0 (Sys2Proof.Machine.execDmaChannelDone chan remote s) := by
  unfold Sys2Proof.Machine.execDmaChannelDone
  repeat' first
    | with_reducible assumption
    | intro _
    | with_reducible apply Keeps.wr
    | with_reducible apply Keeps.changeJob
    | with_reducible apply Keeps.dmaMove
    | with_reducible apply Keeps.onBehalf
    | with_reducible apply Keeps.ite_fst
    | with_reducible apply Keeps.foldl_fst
    | with_reducible apply Keeps.next
    | (refine Keeps.of_pair (by assumption) ?_)
    | split
    | dsimp only
    | simp only [Keeps.upd]
    | simp only [State.inc, State.add, State.wr_frame, Keeps.upd_wr]
    | decide +kernel

theorem haltChannel {kb : Bool} {k0 s : State} {chan : Fin 32} {keep : Bool} (hk : Keeps kb k0 s) :
    Keeps kb k0 (State.haltChannel s chan keep) := by
  unfold State.haltChannel
  repeat' first
    | with_reducible assumption
    | intro _
    | with_reducible apply Keeps.wr
    | with_reducible apply Keeps.drawn
    | with_reducible apply Keeps.dropJob
    | with_reducible apply Keeps.keep
    | with_reducible apply Keeps.onBehalf
    | with_reducible apply Keeps.refund
    | with_reducible apply Keeps.targetWrite
    | with_reducible apply Keeps.ite
    | split
    | dsimp only
    | simp only [Keeps.upd]
    | simp only [State.inc, State.add, State.wr_frame, Keeps.upd_wr]
    | decide +kernel

theorem stopChannel {kb : Bool} {k0 s : State} {chan : Fin 32} (hk : Keeps kb k0 s) :
    Keeps kb k0 (State.stopChannel s chan) := by
  unfold State.stopChannel
  repeat' first
    | with_reducible assumption
    | with_reducible apply Keeps.wr
    | with_reducible apply Keeps.haltChannel
    | dsimp only
    | decide +kernel

theorem execDmaChannelDisable {kb : Bool} {k0 s : State} {src : Source} {chan : Fin 32} (hk : Keeps kb k0 s) :
    AnsKeeps kb k0 (Sys2Proof.Machine.execDmaChannelDisable src chan s) := by
  unfold Sys2Proof.Machine.execDmaChannelDisable
  repeat' first
    | with_reducible assumption
    | with_reducible apply Keeps.denied
    | with_reducible apply Keeps.stopChannel
    | with_reducible apply Keeps.next
    | with_reducible apply Keeps.ite
    | with_reducible apply Keeps.ans_ite
    | dsimp only
    | decide +kernel

theorem setKey {kb : Bool} {k0 s : State} {slot : Nat} {generate : Bool} (hk : Keeps kb k0 s) :
    Keeps kb k0 (State.setKey s slot generate) := by
  unfold State.setKey
  repeat' first
    | with_reducible assumption
    | with_reducible apply Keeps.ite
    | dsimp only
    | simp only [Keeps.upd]
    | decide +kernel

theorem keyCommand {kb : Bool} {k0 s : State} {slot : Nat} {generate : Bool} (hk : Keeps kb k0 s) :
    Keeps kb k0 (State.keyCommand s slot generate) := by
  unfold State.keyCommand
  repeat' first
    | with_reducible assumption
    | with_reducible apply Keeps.inc
    | with_reducible apply Keeps.wr
    | with_reducible apply Keeps.ite
    | dsimp only
    | simp only [Keeps.upd]
    | simp only [State.inc, State.add, State.wr_frame, Keeps.upd_wr]
    | decide +kernel

theorem execKeyGenerate {kb : Bool} {k0 s : State} {src : Source} {slot : Fin 128} (hk : Keeps kb k0 s) :
    AnsKeeps kb k0 (Sys2Proof.Machine.execKeyGenerate src slot s) := by
  unfold Sys2Proof.Machine.execKeyGenerate
  repeat' first
    | with_reducible assumption
    | intro _
    | with_reducible apply Keeps.byFirmware
    | with_reducible apply Keeps.keyCommand
    | with_reducible apply Keeps.next
    | dsimp only
    | decide +kernel

theorem execKeyZeroise {kb : Bool} {k0 s : State} {src : Source} {slot : Fin 128} (hk : Keeps kb k0 s) :
    AnsKeeps kb k0 (Sys2Proof.Machine.execKeyZeroise src slot s) := by
  unfold Sys2Proof.Machine.execKeyZeroise
  repeat' first
    | with_reducible assumption
    | intro _
    | with_reducible apply Keeps.byFirmware
    | with_reducible apply Keeps.keyCommand
    | with_reducible apply Keeps.next
    | dsimp only
    | decide +kernel

theorem keyForVef {kb : Bool} {k0 s : State} {v : Nat} {generate : Bool} (hk : Keeps kb k0 s) :
    Keeps kb k0 (State.keyForVef s v generate) := by
  unfold State.keyForVef
  repeat' first
    | with_reducible assumption
    | with_reducible apply Keeps.wr
    | with_reducible apply Keeps.ite
    | dsimp only
    | simp only [Keeps.upd]
    | simp only [State.inc, State.add, State.wr_frame, Keeps.upd_wr]
    | decide +kernel

theorem execKeyCmdDone {kb : Bool} {k0 s : State} (hk : Keeps kb k0 s) :
    AnsKeeps kb k0 (Sys2Proof.Machine.execKeyCmdDone s) := by
  unfold Sys2Proof.Machine.execKeyCmdDone
  repeat' first
    | with_reducible assumption
    | with_reducible apply Keeps.wr
    | with_reducible apply Keeps.setKey
    | with_reducible apply Keeps.next
    | with_reducible apply Keeps.ite
    | with_reducible apply Keeps.ans_ite
    | split
    | dsimp only
    | simp only [Keeps.upd]
    | simp only [State.inc, State.add, State.wr_frame, Keeps.upd_wr]
    | decide +kernel

theorem execPatrolScrub {kb : Bool} {k0 s : State} {word : Nat} {found : Fin 3} (hk : Keeps kb k0 s) :
    AnsKeeps kb k0 (Sys2Proof.Machine.execPatrolScrub word found s) := by
  unfold Sys2Proof.Machine.execPatrolScrub
  repeat' first
    | with_reducible assumption
    | with_reducible apply Keeps.readWordErr
    | with_reducible apply Keeps.report
    | with_reducible apply Keeps.next
    | with_reducible apply Keeps.ite
    | with_reducible apply Keeps.ans_ite
    | dsimp only
    | simp only [Keeps.upd]
    | decide +kernel

end Keeps

end Sys2Proof.Machine
end

