-- ==== Sys2Proof/Laws/KeepsPassBase.lean ====
section
/-! SUPPORT. What the operations of Machine/PassBase.lean keep. -/

namespace Sys2Proof.Machine

namespace Keeps

set_option Elab.async false
set_option linter.unusedSimpArgs false
set_option linter.unusedVariables false

theorem setPort {kb : Bool} {k0 s : State} {p : Nat} {x : PortRt} (hk : Keeps kb k0 s) :
    Keeps kb k0 (State.setPort s p x) := by
  unfold State.setPort
  repeat' first
    | with_reducible assumption
    | dsimp only
    | simp only [Keeps.upd]
    | decide +kernel

theorem setLink {kb : Bool} {k0 s : State} {p : Nat} {st : Nat} (hk : Keeps kb k0 s) :
    Keeps kb k0 (State.setLink s p st) := by
  unfold State.setLink
  repeat' first
    | with_reducible assumption
    | with_reducible apply Keeps.wr
    | dsimp only
    | simp only [Keeps.upd]
    | simp only [State.inc, State.add, State.wr_frame, Keeps.upd_wr]
    | decide +kernel

theorem passCause {kb : Bool} {k0 s : State} {f : Fld} (hk : Keeps kb k0 s) (hf : f.plain = true) :
    Keeps kb k0 (State.passCause s f) := by
  unfold State.passCause
  repeat' first
    | with_reducible assumption
    | with_reducible apply Keeps.wr
    | with_reducible apply Keeps.irq
    | with_reducible apply Keeps.ite
    | dsimp only
    | decide +kernel

theorem linkDown {kb : Bool} {k0 s : State} {p : Nat} (hk : Keeps kb k0 s) :
    Keeps kb k0 (State.linkDown s p) := by
  unfold State.linkDown
  repeat' first
    | with_reducible assumption
    | with_reducible apply Keeps.wr
    | with_reducible apply Keeps.passCause
    | with_reducible apply Keeps.setLink
    | with_reducible apply Keeps.setPort
    | with_reducible apply Keeps.ite
    | dsimp only
    | simp only [Keeps.upd]
    | simp only [State.inc, State.add, State.wr_frame, Keeps.upd_wr]
    | decide +kernel

theorem linkForeign {kb : Bool} {k0 s : State} {p : Nat} (hk : Keeps kb k0 s) :
    Keeps kb k0 (State.linkForeign s p) := by
  unfold State.linkForeign
  repeat' first
    | with_reducible assumption
    | with_reducible apply Keeps.passCause
    | with_reducible apply Keeps.setLink
    | with_reducible apply Keeps.ite
    | dsimp only
    | simp only [Keeps.upd]
    | decide +kernel

theorem portOn {kb : Bool} {k0 s : State} {p : Nat} (hk : Keeps kb k0 s) :
    Keeps kb k0 (State.portOn s p) := by
  unfold State.portOn
  repeat' first
    | with_reducible assumption
    | simp only [List.foldl_cons, List.foldl_nil]
    | intro _
    | with_reducible apply Keeps.wr
    | with_reducible apply Keeps.setLink
    | with_reducible apply Keeps.setPort
    | with_reducible apply Keeps.foldl
    | dsimp only
    | decide +kernel

theorem squashFabric {kb : Bool} {k0 s : State} {v : Nat} (hk : Keeps kb k0 s) :
    Keeps kb k0 (State.squashFabric s v) := by
  unfold State.squashFabric
  repeat' first
    | with_reducible assumption
    | intro _
    | dsimp only
    | simp only [Keeps.upd]
    | decide +kernel

end Keeps

end Sys2Proof.Machine
end

