-- ==== Sys2Proof/Laws/KeepsValley.lean ====
section
/-! SUPPORT. What the operations of Machine/Valley.lean keep. -/

namespace Sys2Proof.Machine

namespace Keeps

set_option Elab.async false
set_option linter.unusedSimpArgs false
set_option linter.unusedVariables false

theorem poolValid {kb : Bool} {k0 s : State} {p : Nat} (hk : Keeps kb k0 s) :
    Keeps kb k0 (State.poolValid s p) := by
  unfold State.poolValid
  repeat' first
    | with_reducible assumption
    | with_reducible apply Keeps.inc
    | with_reducible apply Keeps.wr
    | with_reducible apply Keeps.ite
    | dsimp only
    | decide +kernel

theorem poolReady {kb : Bool} {k0 s : State} {p : Nat} (hk : Keeps kb k0 s) :
    Keeps kb k0 (State.poolReady s p) := by
  unfold State.poolReady
  repeat' first
    | with_reducible assumption
    | with_reducible apply Keeps.inc
    | with_reducible apply Keeps.wr
    | with_reducible apply Keeps.setPool
    | with_reducible apply Keeps.ite
    | split
    | dsimp only
    | decide +kernel

theorem poolInvalid {kb : Bool} {k0 s : State} {p : Nat} (hk : Keeps kb k0 s) :
    Keeps kb k0 (State.poolInvalid s p) := by
  unfold State.poolInvalid
  repeat' first
    | with_reducible assumption
    | intro _
    | with_reducible apply Keeps.wr
    | with_reducible apply Keeps.dropPins
    | with_reducible apply Keeps.setPfx
    | with_reducible apply Keeps.ite_fst
    | with_reducible apply Keeps.foldl_fst
    | with_reducible apply Keeps.foldl
    | with_reducible apply Keeps.ite
    | dsimp only
    | simp only [Keeps.upd]
    | simp only [State.inc, State.add, State.wr_frame, Keeps.upd_wr]
    | decide +kernel

theorem execPoolValid {kb : Bool} {k0 s : State} {src : Source} {pool : Fin 16} (hk : Keeps kb k0 s) :
    AnsKeeps kb k0 (Sys2Proof.Machine.execPoolValid src pool s) := by
  unfold Sys2Proof.Machine.execPoolValid
  repeat' first
    | with_reducible assumption
    | intro _
    | with_reducible apply Keeps.asWho
    | with_reducible apply Keeps.poolValid
    | with_reducible apply Keeps.next
    | dsimp only
    | decide +kernel

theorem execPoolReady {kb : Bool} {k0 s : State} {pool : Fin 16} (hk : Keeps kb k0 s) :
    AnsKeeps kb k0 (Sys2Proof.Machine.execPoolReady pool s) := by
  unfold Sys2Proof.Machine.execPoolReady
  repeat' first
    | with_reducible assumption
    | with_reducible apply Keeps.poolReady
    | with_reducible apply Keeps.next
    | dsimp only
    | decide +kernel

theorem execPoolInvalidate {kb : Bool} {k0 s : State} {src : Source} {pool : Fin 16} (hk : Keeps kb k0 s) :
    AnsKeeps kb k0 (Sys2Proof.Machine.execPoolInvalidate src pool s) := by
  unfold Sys2Proof.Machine.execPoolInvalidate
  repeat' first
    | with_reducible assumption
    | intro _
    | with_reducible apply Keeps.asWho
    | with_reducible apply Keeps.poolInvalid
    | with_reducible apply Keeps.next
    | dsimp only
    | decide +kernel

end Keeps

end Sys2Proof.Machine
end

