-- ==== Sys2Proof/Laws/KeepsTenancyOps.lean ====
section
/-! SUPPORT. What the operations of Machine/TenancyOps.lean keep. -/

namespace Sys2Proof.Machine

namespace Keeps

set_option Elab.async false
set_option linter.unusedSimpArgs false
set_option linter.unusedVariables false

theorem retireAll {kb : Bool} {k0 s : State} {v : Nat} (hk : Keeps kb k0 s) :
    Keeps kb k0 (State.retireAll s v) := by
  unfold State.retireAll
  repeat' first
    | with_reducible assumption
    | intro _
    | with_reducible apply Keeps.retireSeq
    | with_reducible apply Keeps.ite_fst
    | with_reducible apply Keeps.foldl_fst
    | with_reducible apply Keeps.each
    | with_reducible apply Keeps.foldl
    | dsimp only
    | decide +kernel

theorem killFor {kb : Bool} {k0 s : State} {f : Fin 17} (hk : Keeps kb k0 s) :
    Keeps kb k0 (State.killFor s f) := by
  unfold State.killFor
  repeat' first
    | with_reducible assumption
    | with_reducible apply Keeps.killField
    | with_reducible apply Keeps.ite
    | dsimp only
    | decide +kernel

theorem killJobs {kb : Bool} {k0 s : State} {v : Nat} {keep : Bool} (hk : Keeps kb k0 s) :
    Keeps kb k0 (State.killJobs s v keep) := by
  unfold State.killJobs
  repeat' first
    | with_reducible assumption
    | intro _
    | with_reducible apply Keeps.haltChannel
    | with_reducible apply Keeps.keep
    | with_reducible apply Keeps.killFor
    | with_reducible apply Keeps.foldl
    | with_reducible apply Keeps.ite
    | with_reducible apply Keeps.dite
    | split
    | dsimp only
    | simp only [Keeps.upd]
    | decide +kernel

theorem keepReleases {kb : Bool} {k0 s : State} {v : Nat} (hk : Keeps kb k0 s) :
    Keeps kb k0 (State.keepReleases s v) := by
  unfold State.keepReleases
  repeat' first
    | with_reducible assumption
    | intro _
    | with_reducible apply Keeps.setF
    | with_reducible apply Keeps.foldl
    | dsimp only
    | simp only [Keeps.upd]
    | decide +kernel

theorem endTables {kb : Bool} {k0 s : State} {v : Nat} (hk : Keeps kb k0 s) :
    Keeps kb k0 (State.endTables s v) := by
  unfold State.endTables
  repeat' first
    | with_reducible assumption
    | intro _
    | with_reducible apply Keeps.commitTable
    | with_reducible apply Keeps.foldl
    | with_reducible apply Keeps.ite
    | dsimp only
    | decide +kernel

theorem dropPresents {kb : Bool} {k0 s : State} {v : Nat} {keep : Bool} (hk : Keeps kb k0 s) :
    Keeps kb k0 (State.dropPresents s v keep) := by
  unfold State.dropPresents
  repeat' first
    | with_reducible assumption
    | intro _
    | with_reducible apply Keeps.keep
    | with_reducible apply Keeps.pend
    | with_reducible apply Keeps.ite
    | dsimp only
    | simp only [Keeps.upd]
    | decide +kernel

theorem killLoads {kb : Bool} {k0 s : State} {v : Nat} {keep : Bool} (hk : Keeps kb k0 s) :
    Keeps kb k0 (State.killLoads s v keep) := by
  unfold State.killLoads
  repeat' first
    | with_reducible assumption
    | intro _
    | with_reducible apply Keeps.dropLoad
    | with_reducible apply Keeps.keep
    | with_reducible apply Keeps.killLoad
    | with_reducible apply Keeps.foldl
    | with_reducible apply Keeps.ite
    | split
    | dsimp only
    | simp only [Keeps.upd]
    | decide +kernel

theorem finalRecord {kb : Bool} {k0 s : State} {v : Nat} (hk : Keeps kb k0 s) :
    Keeps kb k0 (State.finalRecord s v) := by
  unfold State.finalRecord
  repeat' first
    | with_reducible assumption
    | with_reducible apply Keeps.closeEnded
    | with_reducible apply Keeps.closeWindow
    | with_reducible apply Keeps.postDue
    | with_reducible apply Keeps.ite
    | dsimp only
    | decide +kernel

theorem coldPage {kb : Bool} {k0 s : State} {v : Nat} (hk : Keeps kb k0 s) :
    Keeps kb k0 (State.coldPage s v) := by
  unfold State.coldPage
  repeat' first
    | with_reducible assumption
    | simp only [List.foldl_cons, List.foldl_nil]
    | intro _
    | with_reducible apply Keeps.regToCold
    | with_reducible apply Keeps.setRing
    | with_reducible apply Keeps.each
    | with_reducible apply Keeps.foldl
    | dsimp only
    | decide +kernel

theorem endFreezes {kb : Bool} {k0 s : State} {v : Nat} (hk : Keeps kb k0 s) :
    Keeps kb k0 (State.endFreezes s v) := by
  unfold State.endFreezes
  repeat' first
    | with_reducible assumption
    | intro _
    | with_reducible apply Keeps.complete
    | with_reducible apply Keeps.freeze
    | with_reducible apply Keeps.killLoad
    | with_reducible apply Keeps.setV
    | with_reducible apply Keeps.each
    | with_reducible apply Keeps.foldl
    | with_reducible apply Keeps.ite
    | split
    | dsimp only
    | simp only [Keeps.upd]
    | decide +kernel

theorem resetVef {kb : Bool} {k0 s : State} {v : Nat} (hk : Keeps kb k0 s) :
    Keeps kb k0 (State.resetVef s v) := by
  unfold State.resetVef
  repeat' first
    | with_reducible assumption
    | intro _
    | with_reducible apply Keeps.wr
    | with_reducible apply Keeps.coldPage
    | with_reducible apply Keeps.detach
    | with_reducible apply Keeps.dropPresents
    | with_reducible apply Keeps.endFreezes
    | with_reducible apply Keeps.endTables
    | with_reducible apply Keeps.finalRecord
    | with_reducible apply Keeps.killJobs
    | with_reducible apply Keeps.killLoads
    | with_reducible apply Keeps.refund
    | with_reducible apply Keeps.releasePins
    | with_reducible apply Keeps.retireAll
    | with_reducible apply Keeps.setF
    | with_reducible apply Keeps.setV
    | with_reducible apply Keeps.squashFabric
    | with_reducible apply Keeps.each
    | with_reducible apply Keeps.foldl
    | with_reducible apply Keeps.ite
    | dsimp only
    | simp only [Keeps.upd]
    | simp only [State.inc, State.add, State.wr_frame, Keeps.upd_wr]
    | decide +kernel

theorem setRegBytes {kb : Bool} {k0 s : State} {g : RegName} {i j : Nat} {bs : Bytes} (hk : Keeps kb k0 s)
    (hf : g.flds.all Fld.plain = true) : Keeps kb k0 (s.setRegBytes g i j bs) :=
  foldl_mem (fun _ f hm ht => wr ht (List.all_eq_true.1 hf f hm)) hk

theorem writeSave {kb : Bool} {k0 s : State} {c : Ctx} {a : Nat} {len : Nat} {v : Nat} {h : Held} (hk : Keeps kb k0 s) :
    Keeps kb k0 (State.writeSave s c a len v h).1 := by
  unfold State.writeSave
  repeat' first
    | with_reducible assumption
    | with_reducible apply Keeps.ctxWrite
    | with_reducible apply Keeps.ite_fst
    | with_reducible apply Keeps.foldl_fst
    | with_reducible apply Keeps.ite
    | split
    | dsimp only
    | decide +kernel

theorem answerFreeze {kb : Bool} {k0 s : State} {c : Cmd} {v : Nat} {h : Held} (hk : Keeps kb k0 s) :
    Keeps kb k0 (State.answerFreeze s c v h) := by
  unfold State.answerFreeze
  repeat' first
    | with_reducible assumption
    | with_reducible apply Keeps.complete
    | with_reducible apply Keeps.writeSave
    | with_reducible apply Keeps.ite_fst
    | with_reducible apply Keeps.foldl_fst
    | with_reducible apply Keeps.ite
    | (refine Keeps.of_pair (by assumption) ?_)
    | dsimp only
    | decide +kernel

theorem beginFreeze {kb : Bool} {k0 s : State} {v : Nat} {cmd : Option Cmd} {killAt : Nat} {wake : Bool} (hk : Keeps kb k0 s) :
    Keeps kb k0 (State.beginFreeze s v cmd killAt wake) := by
  unfold State.beginFreeze
  repeat' first
    | with_reducible assumption
    | with_reducible apply Keeps.wr
    | with_reducible apply Keeps.freeze
    | with_reducible apply Keeps.killLoads
    | with_reducible apply Keeps.setV
    | with_reducible apply Keeps.wake
    | dsimp only
    | simp only [Keeps.upd]
    | simp only [State.inc, State.add, State.wr_frame, Keeps.upd_wr]
    | decide +kernel

theorem freezeKill {kb : Bool} {k0 s : State} {v : Nat} (hk : Keeps kb k0 s) :
    Keeps kb k0 (State.freezeKill s v) := by
  unfold State.freezeKill
  repeat' first
    | with_reducible assumption
    | with_reducible apply Keeps.dropPresents
    | with_reducible apply Keeps.keepReleases
    | with_reducible apply Keeps.killJobs
    | dsimp only
    | decide +kernel

theorem endFreeze {kb : Bool} {k0 s : State} {v : Nat} {fz : Freeze} (hk : Keeps kb k0 s) :
    Keeps kb k0 (State.endFreeze s v fz) := by
  unfold State.endFreeze
  repeat' first
    | with_reducible assumption
    | intro _
    | with_reducible apply Keeps.wr
    | with_reducible apply Keeps.answerFreeze
    | with_reducible apply Keeps.detach
    | with_reducible apply Keeps.finalRecord
    | with_reducible apply Keeps.freeze
    | with_reducible apply Keeps.setV
    | with_reducible apply Keeps.wake
    | with_reducible apply Keeps.writeSave
    | with_reducible apply Keeps.ite_fst
    | with_reducible apply Keeps.foldl_fst
    | with_reducible apply Keeps.foldl
    | with_reducible apply Keeps.ite
    | (refine Keeps.of_pair (by assumption) ?_)
    | split
    | dsimp only
    | simp only [Keeps.upd]
    | simp only [State.inc, State.add, State.wr_frame, Keeps.upd_wr]
    | decide +kernel

end Keeps

end Sys2Proof.Machine
end

