-- ==== Sys2Proof/Laws/KeepsThawOps.lean ====
section
/-! SUPPORT. What the operations of Machine/ThawOps.lean keep. -/

namespace Sys2Proof.Machine

namespace Keeps

set_option Elab.async false
set_option linter.unusedSimpArgs false
set_option linter.unusedVariables false

theorem rebuildSeq {kb : Bool} {k0 s : State} {p key parent : Nat} {l : List PageEntry} (hk : Keeps kb k0 s) :
    Keeps kb k0 (s.rebuildSeq p l key parent) := by
  induction l generalizing s key parent with
  | nil => exact hk
  | cons e rest ih =>
    unfold State.rebuildSeq
    refine ite hk ?_
    dsimp only
    split
    · exact ih (pfxRefs hk)
    · split
      · exact ih (setPfx (pfxInsert hk))
      · exact ih (pfxInsert hk)

theorem rebuildPrefix {kb : Bool} {k0 s : State} {p : Nat} {digest : Bytes} (hk : Keeps kb k0 s) :
    Keeps kb k0 (State.rebuildPrefix s p digest) := by
  unfold State.rebuildPrefix
  repeat' first
    | with_reducible assumption
    | intro _
    | with_reducible apply Keeps.rebuildSeq
    | with_reducible apply Keeps.setPool
    | with_reducible apply Keeps.ite_fst
    | with_reducible apply Keeps.foldl_fst
    | with_reducible apply Keeps.foldl
    | split
    | dsimp only
    | simp only [Keeps.upd]
    | decide +kernel

theorem adoptPool {kb : Bool} {k0 s : State} {t : Thaw} {p : Nat} {digest : Bytes} (hk : Keeps kb k0 s) :
    Keeps kb k0 (State.adoptPool s t p digest) := by
  unfold State.adoptPool
  repeat' first
    | with_reducible assumption
    | with_reducible apply Keeps.rebuildPrefix
    | with_reducible apply Keeps.setPool
    | with_reducible apply Keeps.ite
    | dsimp only
    | decide +kernel

theorem setThaw {kb : Bool} {k0 s : State} {t : Thaw} (hk : Keeps kb k0 s) :
    Keeps kb k0 (State.setThaw s t) := by
  unfold State.setThaw
  repeat' first
    | with_reducible assumption
    | intro _
    | with_reducible apply Keeps.ite
    | dsimp only
    | simp only [Keeps.upd]
    | decide +kernel

theorem dropThaw {kb : Bool} {k0 s : State} {t : Thaw} (hk : Keeps kb k0 s) :
    Keeps kb k0 (State.dropThaw s t) := by
  unfold State.dropThaw
  repeat' first
    | with_reducible assumption
    | intro _
    | dsimp only
    | simp only [Keeps.upd]
    | decide +kernel

theorem setAsids {kb : Bool} {k0 s : State} {v : Nat} {l : List Nat} (hk : Keeps kb k0 s) :
    Keeps kb k0 (State.setAsids s v l) := by
  unfold State.setAsids
  repeat' first
    | with_reducible assumption
    | intro _
    | with_reducible apply Keeps.wr
    | with_reducible apply Keeps.ite_fst
    | with_reducible apply Keeps.foldl_fst
    | with_reducible apply Keeps.foldl
    | dsimp only
    | decide +kernel

theorem thawFail {kb : Bool} {k0 s : State} {t : Thaw} (hk : Keeps kb k0 s) :
    Keeps kb k0 (State.thawFail s t) := by
  unfold State.thawFail
  repeat' first
    | with_reducible assumption
    | intro _
    | with_reducible apply Keeps.wr
    | with_reducible apply Keeps.complete
    | with_reducible apply Keeps.detach
    | with_reducible apply Keeps.dropThaw
    | with_reducible apply Keeps.setAsids
    | with_reducible apply Keeps.foldl
    | with_reducible apply Keeps.ite
    | with_reducible apply Keeps.dite
    | dsimp only
    | decide +kernel

theorem restoreRings {kb : Bool} {k0 s : State} {a : Bytes} {v : Nat} (hk : Keeps kb k0 s) :
    Keeps kb k0 (State.restoreRings s a v) := by
  unfold State.restoreRings
  repeat' first
    | with_reducible assumption
    | intro _
    | with_reducible apply Keeps.wr
    | with_reducible apply Keeps.setRegBytes
    | with_reducible apply Keeps.setV
    | with_reducible apply Keeps.each
    | dsimp only
    | decide +kernel

theorem restorePins {kb : Bool} {k0 s : State} {t : Thaw} (hk : Keeps kb k0 s) :
    Keeps kb k0 (State.restorePins s t) := by
  unfold State.restorePins
  repeat' first
    | with_reducible assumption
    | intro _
    | with_reducible apply Keeps.pfxPins
    | with_reducible apply Keeps.setV
    | with_reducible apply Keeps.ite_fst
    | with_reducible apply Keeps.foldl_fst
    | with_reducible apply Keeps.foldl
    | split
    | dsimp only
    | simp only [Keeps.upd]
    | decide +kernel

theorem requeueKept {kb : Bool} {k0 s : State} {cs : List Cmd} (hk : Keeps kb k0 s) :
    Keeps kb k0 (State.requeueKept s cs) := by
  unfold State.requeueKept
  repeat' first
    | with_reducible assumption
    | intro _
    | with_reducible apply Keeps.complete
    | with_reducible apply Keeps.setRing
    | with_reducible apply Keeps.ite_fst
    | with_reducible apply Keeps.foldl_fst
    | with_reducible apply Keeps.foldl
    | with_reducible apply Keeps.ite
    | split
    | dsimp only
    | simp only [Keeps.upd]
    | decide +kernel

theorem thawFinish {kb : Bool} {k0 s : State} {t : Thaw} (hk : Keeps kb k0 s) :
    Keeps kb k0 (State.thawFinish s t) := by
  unfold State.thawFinish
  repeat' first
    | with_reducible assumption
    | intro _
    | with_reducible apply Keeps.wr
    | with_reducible apply Keeps.adoptPool
    | with_reducible apply Keeps.complete
    | with_reducible apply Keeps.dropThaw
    | with_reducible apply Keeps.event
    | with_reducible apply Keeps.pend
    | with_reducible apply Keeps.refreshIdle
    | with_reducible apply Keeps.requeueKept
    | with_reducible apply Keeps.restorePins
    | with_reducible apply Keeps.restoreRings
    | with_reducible apply Keeps.setV
    | with_reducible apply Keeps.ite_fst
    | with_reducible apply Keeps.foldl_fst
    | with_reducible apply Keeps.each
    | with_reducible apply Keeps.foldl
    | with_reducible apply Keeps.ite
    | dsimp only
    | simp only [Keeps.upd]
    | simp only [State.inc, State.add, State.wr_frame, Keeps.upd_wr]
    | decide +kernel

/-- The state that one attachment's restoration answers, where it answers one. -/
def RestoreKeeps (kb : Bool) (k0 : State) (x : Restore) : Prop :=
  match x with
  | .done t _ => Keeps kb k0 t
  | .loading t _ _ => Keeps kb k0 t
  | .wait => True
  | .fail t => Keeps kb k0 t

theorem restore_done {kb : Bool} {k0 t : State} {n : Nat} (h : Keeps kb k0 t) : RestoreKeeps kb k0 (.done t n) := h
theorem restore_loading {kb : Bool} {k0 t : State} {n m : Nat} (h : Keeps kb k0 t) : RestoreKeeps kb k0 (.loading t n m) := h
theorem restore_wait {kb : Bool} {k0 : State} : RestoreKeeps kb k0 .wait := trivial
theorem restore_fail {kb : Bool} {k0 t : State} (h : Keeps kb k0 t) : RestoreKeeps kb k0 (.fail t) := h

theorem restore_ite {kb : Bool} {k0 : State} {c : Prop} [Decidable c] {x y : Restore} (h : RestoreKeeps kb k0 x) (k : RestoreKeeps kb k0 y) :
    RestoreKeeps kb k0 (if c then x else y) := by
  split
  · exact h
  · exact k
theorem restore_dite {kb : Bool} {k0 : State} {c : Prop} [Decidable c] {x : c → Restore} {y : ¬c → Restore}
    (h : ∀ e, RestoreKeeps kb k0 (x e)) (k : ∀ e, RestoreKeeps kb k0 (y e)) : RestoreKeeps kb k0 (if e : c then x e else y e) := by
  split
  · exact h _
  · exact k _

theorem restoreOne {kb : Bool} {k0 s : State} {t : Thaw} {a : Attach} (hk : Keeps kb k0 s) : RestoreKeeps kb k0 (s.restoreOne t a) := by
  unfold State.restoreOne
  dsimp only
  split
  · exact restore_done (attachField hk)
  · split
    · exact restore_fail hk
    · refine restore_ite (restore_fail (noteLoadFail hk)) ?_
      split
      · exact restore_done (attachField hk)
      · refine restore_ite restore_wait (restore_ite (restore_fail hk) ?_)
        split
        · exact restore_fail (noteLoadFail hk)
        · refine restore_dite (fun _ => restore_loading (startLoad ?_)) (fun _ => restore_fail hk)
          simp only [Keeps.upd]
          exact hk

theorem thawRun {kb : Bool} {k0 s : State} {t : Thaw} {n : Nat} (hk : Keeps kb k0 s) : Keeps kb k0 (s.thawRun t n) := by
  induction n generalizing s t with
  | zero => exact setThaw hk
  | succ n ih =>
    unfold State.thawRun
    split
    · exact ite (setThaw hk) (ite (ih hk) (thawFail hk))
    · split
      · exact thawFinish hk
      · next a rest e =>
        have h := restoreOne (t := t) (a := a) hk
        split
        · next x f e2 => rw [e2] at h; exact ih h
        · next x g f e2 => rw [e2] at h; exact setThaw h
        · exact setThaw hk
        · next x e2 => rw [e2] at h; exact thawFail h


theorem thawBegin {kb : Bool} {k0 s : State} {c : Cmd} {e : Nat} (hk : Keeps kb k0 s) :
    Keeps kb k0 (State.thawBegin s c e) := by
  unfold State.thawBegin
  repeat' first
    | with_reducible assumption
    | with_reducible apply Keeps.wr
    | with_reducible apply Keeps.ctxTouch
    | with_reducible apply Keeps.dequeue
    | with_reducible apply Keeps.endQueued
    | with_reducible apply Keeps.setAsids
    | with_reducible apply Keeps.thawRun
    | with_reducible apply Keeps.ite
    | split
    | dsimp only
    | simp only [Keeps.upd]
    | simp only [State.inc, State.add, State.wr_frame, Keeps.upd_wr]
    | decide +kernel

end Keeps

end Sys2Proof.Machine
end

