-- ==== Sys2Proof/Laws/KeepsTenancy.lean ====
section
/-! SUPPORT. What the operations of Machine/Tenancy.lean keep. -/

namespace Sys2Proof.Machine

namespace Keeps

set_option Elab.async false
set_option linter.unusedSimpArgs false
set_option linter.unusedVariables false

theorem vefEnable {kb : Bool} {k0 s : State} {v : Nat} (hk : Keeps kb k0 s) :
    Keeps kb k0 (State.vefEnable s v) := by
  unfold State.vefEnable
  repeat' first
    | with_reducible assumption
    | simp only [List.foldl_cons, List.foldl_nil]
    | intro _
    | with_reducible apply Keeps.incWrap
    | with_reducible apply Keeps.wr
    | with_reducible apply Keeps.keyForVef
    | with_reducible apply Keeps.foldl
    | with_reducible apply Keeps.ite
    | dsimp only
    | decide +kernel

theorem vefDisable {kb : Bool} {k0 s : State} {v : Nat} (hk : Keeps kb k0 s) :
    Keeps kb k0 (State.vefDisable s v) := by
  unfold State.vefDisable
  repeat' first
    | with_reducible assumption
    | with_reducible apply Keeps.inc
    | with_reducible apply Keeps.wr
    | with_reducible apply Keeps.resetVef
    | with_reducible apply Keeps.setV
    | with_reducible apply Keeps.ite
    | dsimp only
    | simp only [Keeps.upd]
    | simp only [State.inc, State.add, State.wr_frame, Keeps.upd_wr]
    | decide +kernel

theorem execVefEnable {kb : Bool} {k0 s : State} {src : Source} {vef : Fin 128} (hk : Keeps kb k0 s) :
    AnsKeeps kb k0 (Sys2Proof.Machine.execVefEnable src vef s) := by
  unfold Sys2Proof.Machine.execVefEnable
  repeat' first
    | with_reducible assumption
    | intro _
    | with_reducible apply Keeps.asWho
    | with_reducible apply Keeps.vefEnable
    | with_reducible apply Keeps.next
    | dsimp only
    | decide +kernel

theorem execVefDisable {kb : Bool} {k0 s : State} {src : Source} {vef : Fin 128} (hk : Keeps kb k0 s) :
    AnsKeeps kb k0 (Sys2Proof.Machine.execVefDisable src vef s) := by
  unfold Sys2Proof.Machine.execVefDisable
  repeat' first
    | with_reducible assumption
    | intro _
    | with_reducible apply Keeps.asWho
    | with_reducible apply Keeps.vefDisable
    | with_reducible apply Keeps.next
    | dsimp only
    | decide +kernel

theorem execVefReset {kb : Bool} {k0 s : State} {src : Source} {vef : Fin 128} (hk : Keeps kb k0 s) :
    AnsKeeps kb k0 (Sys2Proof.Machine.execVefReset src vef s) := by
  unfold Sys2Proof.Machine.execVefReset
  repeat' first
    | with_reducible assumption
    | intro _
    | with_reducible apply Keeps.asWho
    | with_reducible apply Keeps.resetVef
    | with_reducible apply Keeps.next
    | dsimp only
    | decide +kernel

theorem resetDone {kb : Bool} {k0 s : State} {v : Nat} (hk : Keeps kb k0 s) :
    Keeps kb k0 (State.resetDone s v) := by
  unfold State.resetDone
  repeat' first
    | with_reducible assumption
    | with_reducible apply Keeps.wr
    | with_reducible apply Keeps.keyForVef
    | with_reducible apply Keeps.setV
    | with_reducible apply Keeps.ite
    | dsimp only
    | simp only [Keeps.upd]
    | simp only [State.inc, State.add, State.wr_frame, Keeps.upd_wr]
    | decide +kernel

theorem execFunctionLevelReset {kb : Bool} {k0 s : State} {vef : Fin 128} (hk : Keeps kb k0 s) :
    AnsKeeps kb k0 (Sys2Proof.Machine.execFunctionLevelReset vef s) := by
  unfold Sys2Proof.Machine.execFunctionLevelReset
  repeat' first
    | with_reducible assumption
    | intro _
    | with_reducible apply Keeps.resetVef
    | with_reducible apply Keeps.next
    | with_reducible apply Keeps.ite
    | with_reducible apply Keeps.ans_ite
    | dsimp only
    | decide +kernel

theorem freeze {kb : Bool} {k0 s : State} {c : Cmd} (hk : Keeps kb k0 s) :
    Keeps kb k0 (State.freeze s c) := by
  unfold State.freeze
  repeat' first
    | with_reducible assumption
    | with_reducible apply Keeps.answerFreeze
    | with_reducible apply Keeps.beginFreeze
    | with_reducible apply Keeps.dequeue
    | with_reducible apply Keeps.endQueued
    | with_reducible apply Keeps.ite
    | split
    | dsimp only
    | decide +kernel

theorem execVefFreeze {kb : Bool} {k0 s : State} {engine : Fin 4} (hk : Keeps kb k0 s) :
    AnsKeeps kb k0 (Sys2Proof.Machine.execVefFreeze engine s) := by
  unfold Sys2Proof.Machine.execVefFreeze
  repeat' first
    | with_reducible assumption
    | with_reducible apply Keeps.freeze
    | with_reducible apply Keeps.next
    | with_reducible apply Keeps.ite
    | with_reducible apply Keeps.ans_ite
    | split
    | dsimp only
    | decide +kernel

theorem execFreezeKillExpiry {kb : Bool} {k0 s : State} {vef : Fin 128} (hk : Keeps kb k0 s) :
    AnsKeeps kb k0 (Sys2Proof.Machine.execFreezeKillExpiry vef s) := by
  unfold Sys2Proof.Machine.execFreezeKillExpiry
  repeat' first
    | with_reducible assumption
    | with_reducible apply Keeps.freeze
    | with_reducible apply Keeps.freezeKill
    | with_reducible apply Keeps.next
    | with_reducible apply Keeps.ite
    | with_reducible apply Keeps.ans_ite
    | split
    | dsimp only
    | decide +kernel

theorem freezeDone {kb : Bool} {k0 s : State} {v : Nat} (hk : Keeps kb k0 s) :
    Keeps kb k0 (State.freezeDone s v) := by
  unfold State.freezeDone
  repeat' first
    | with_reducible assumption
    | with_reducible apply Keeps.endFreeze
    | with_reducible apply Keeps.freeze
    | with_reducible apply Keeps.ite
    | split
    | dsimp only
    | decide +kernel

theorem execVefThaw {kb : Bool} {k0 s : State} {engine : Fin 4} (hk : Keeps kb k0 s) :
    AnsKeeps kb k0 (Sys2Proof.Machine.execVefThaw engine s) := by
  unfold Sys2Proof.Machine.execVefThaw
  repeat' first
    | with_reducible assumption
    | intro _
    | with_reducible apply Keeps.thawBegin
    | with_reducible apply Keeps.thawRun
    | with_reducible apply Keeps.next
    | with_reducible apply Keeps.ite
    | with_reducible apply Keeps.ans_ite
    | split
    | dsimp only
    | decide +kernel

end Keeps

end Sys2Proof.Machine
end

