-- ==== Sys2Proof/Laws/KeepsUnits.lean ====
section
/-! SUPPORT. What the operations of Machine/Units.lean keep. -/

namespace Sys2Proof.Machine

namespace Keeps

set_option Elab.async false
set_option linter.unusedSimpArgs false
set_option linter.unusedVariables false

theorem canEnable {kb : Bool} {k0 s : State} {c : Fin 16} (hk : Keeps kb k0 s) :
    Keeps kb k0 (State.canEnable s c) := by
  unfold State.canEnable
  repeat' first
    | with_reducible assumption
    | simp only [List.foldl_cons, List.foldl_nil]
    | intro _
    | with_reducible apply Keeps.wr
    | with_reducible apply Keeps.foldl
    | with_reducible apply Keeps.ite
    | dsimp only
    | simp only [Keeps.upd]
    | simp only [State.inc, State.add, State.wr_frame, Keeps.upd_wr]
    | decide +kernel

theorem enableUnit {kb : Bool} {k0 s : State} {u : UnitSel} (hk : Keeps kb k0 s) :
    Keeps kb k0 (State.enableUnit s u) := by
  unfold State.enableUnit
  repeat' first
    | with_reducible assumption
    | with_reducible apply Keeps.canEnable
    | with_reducible apply Keeps.headEnable
    | with_reducible apply Keeps.unitOnWrite
    | split
    | dsimp only
    | decide +kernel

theorem execUnitEnable {kb : Bool} {k0 s : State} {src : Source} {unit : UnitSel} (hk : Keeps kb k0 s) :
    AnsKeeps kb k0 (Sys2Proof.Machine.execUnitEnable src unit s) := by
  unfold Sys2Proof.Machine.execUnitEnable
  repeat' first
    | with_reducible assumption
    | intro _
    | with_reducible apply Keeps.asWho
    | with_reducible apply Keeps.enableUnit
    | with_reducible apply Keeps.next
    | dsimp only
    | decide +kernel

theorem execUnitDisable {kb : Bool} {k0 s : State} {src : Source} {unit : UnitSel} (hk : Keeps kb k0 s) :
    AnsKeeps kb k0 (Sys2Proof.Machine.execUnitDisable src unit s) := by
  unfold Sys2Proof.Machine.execUnitDisable
  repeat' first
    | with_reducible assumption
    | intro _
    | with_reducible apply Keeps.asWho
    | with_reducible apply Keeps.unitOffWrite
    | with_reducible apply Keeps.next
    | dsimp only
    | decide +kernel

theorem unitUp {kb : Bool} {k0 s : State} {u : UnitSel} (hk : Keeps kb k0 s) :
    Keeps kb k0 (State.unitUp s u) := by
  unfold State.unitUp
  repeat' first
    | with_reducible assumption
    | with_reducible apply Keeps.portOn
    | with_reducible apply Keeps.setHead
    | split
    | dsimp only
    | simp only [Keeps.upd]
    | decide +kernel

theorem dropStamp {kb : Bool} {k0 s : State} {e : Egress} (hk : Keeps kb k0 s) :
    Keeps kb k0 (State.dropStamp s e) := by
  unfold State.dropStamp
  repeat' first
    | with_reducible assumption
    | split
    | dsimp only
    | simp only [Keeps.upd]
    | decide +kernel

theorem dropEgress {kb : Bool} {k0 s : State} {p : Nat} (hk : Keeps kb k0 s) :
    Keeps kb k0 (State.dropEgress s p) := by
  unfold State.dropEgress
  repeat' first
    | with_reducible assumption
    | intro _
    | with_reducible apply Keeps.dropStamp
    | with_reducible apply Keeps.egress
    | with_reducible apply Keeps.foldl
    | dsimp only
    | simp only [Keeps.upd]
    | decide +kernel

theorem unitDown {kb : Bool} {k0 s : State} {u : UnitSel} (hk : Keeps kb k0 s) :
    Keeps kb k0 (State.unitDown s u) := by
  unfold State.unitDown
  repeat' first
    | with_reducible assumption
    | with_reducible apply Keeps.wr
    | with_reducible apply Keeps.dropEgress
    | with_reducible apply Keeps.linkDown
    | with_reducible apply Keeps.stopPlls
    | split
    | dsimp only
    | decide +kernel

theorem execUnitStartingDone {kb : Bool} {k0 s : State} {unit : UnitSel} (hk : Keeps kb k0 s) :
    AnsKeeps kb k0 (Sys2Proof.Machine.execUnitStartingDone unit s) := by
  unfold Sys2Proof.Machine.execUnitStartingDone
  repeat' first
    | with_reducible assumption
    | with_reducible apply Keeps.setPending
    | with_reducible apply Keeps.setUnit
    | with_reducible apply Keeps.unitUp
    | with_reducible apply Keeps.next
    | with_reducible apply Keeps.ite
    | with_reducible apply Keeps.ans_ite
    | dsimp only
    | decide +kernel

theorem execUnitStoppingDone {kb : Bool} {k0 s : State} {unit : UnitSel} (hk : Keeps kb k0 s) :
    AnsKeeps kb k0 (Sys2Proof.Machine.execUnitStoppingDone unit s) := by
  unfold Sys2Proof.Machine.execUnitStoppingDone
  repeat' first
    | with_reducible assumption
    | with_reducible apply Keeps.setPending
    | with_reducible apply Keeps.setUnit
    | with_reducible apply Keeps.startUnit
    | with_reducible apply Keeps.unitDown
    | with_reducible apply Keeps.next
    | with_reducible apply Keeps.ite
    | with_reducible apply Keeps.ans_ite
    | dsimp only
    | decide +kernel

theorem execUnitStartTimeout {kb : Bool} {k0 s : State} {unit : UnitSel} (hk : Keeps kb k0 s) :
    AnsKeeps kb k0 (Sys2Proof.Machine.execUnitStartTimeout unit s) := by
  unfold Sys2Proof.Machine.execUnitStartTimeout
  repeat' first
    | with_reducible assumption
    | with_reducible apply Keeps.unitOut
    | with_reducible apply Keeps.next
    | with_reducible apply Keeps.ite
    | with_reducible apply Keeps.ans_ite
    | dsimp only
    | decide +kernel

end Keeps

end Sys2Proof.Machine
end

