-- ==== Sys2Proof/Laws/KeepsModeOps.lean ====
section
/-! SUPPORT. What the operations of Machine/ModeOps.lean keep. -/

namespace Sys2Proof.Machine

namespace Keeps

set_option Elab.async false
set_option linter.unusedSimpArgs false
set_option linter.unusedVariables false

theorem setTrans {kb : Bool} {k0 s : State} {t : Option Trans} (hk : Keeps kb k0 s) :
    Keeps kb k0 (State.setTrans s t) := by
  unfold State.setTrans
  repeat' first
    | with_reducible assumption
    | with_reducible apply Keeps.wr
    | dsimp only
    | simp only [Keeps.upd]
    | simp only [State.inc, State.add, State.wr_frame, Keeps.upd_wr]
    | decide +kernel

theorem enterMode {kb : Bool} {k0 s : State} {m : Nat} (hk : Keeps kb k0 s) (hm : m ≤ 4) : Keeps kb k0 (s.enterMode m) :=
  setTrans (wr_within 0 4 hk (by decide +kernel) ⟨Nat.zero_le _, hm⟩ (by decide))

theorem resetNow {kb : Bool} {k0 s : State} {v : Nat} (hk : Keeps kb k0 s) :
    Keeps kb k0 (State.resetNow s v) := by
  unfold State.resetNow
  repeat' first
    | with_reducible assumption
    | intro _
    | with_reducible apply Keeps.wr
    | with_reducible apply Keeps.cancelLoad
    | with_reducible apply Keeps.resetVef
    | with_reducible apply Keeps.setKey
    | with_reducible apply Keeps.setV
    | with_reducible apply Keeps.foldl
    | with_reducible apply Keeps.ite
    | with_reducible apply Keeps.dite
    | dsimp only
    | simp only [Keeps.upd]
    | simp only [State.inc, State.add, State.wr_frame, Keeps.upd_wr]
    | decide +kernel

theorem freeField {kb : Bool} {k0 s : State} {f : Fin 17} (hk : Keeps kb k0 s) :
    Keeps kb k0 (State.freeField s f) := by
  unfold State.freeField
  repeat' first
    | with_reducible assumption
    | intro _
    | with_reducible apply Keeps.dropGoldens
    | with_reducible apply Keeps.endQueue
    | with_reducible apply Keeps.enterClearing
    | with_reducible apply Keeps.setF
    | with_reducible apply Keeps.setState
    | with_reducible apply Keeps.zeroCluster
    | with_reducible apply Keeps.foldl
    | with_reducible apply Keeps.ite
    | dsimp only
    | simp only [Keeps.upd]
    | decide +kernel

theorem reloadOne {kb : Bool} {k0 s : State} {r : Resident} (hk : Keeps kb k0 s) :
    Keeps kb k0 (State.reloadOne s r) := by
  unfold State.reloadOne
  repeat' first
    | with_reducible assumption
    | intro _
    | with_reducible apply Keeps.noteLoadFail
    | with_reducible apply Keeps.startLoad
    | with_reducible apply Keeps.ite
    | with_reducible apply Keeps.dite
    | dsimp only
    | simp only [Keeps.upd]
    | decide +kernel

theorem reloadAll {kb : Bool} {k0 s : State} (hk : Keeps kb k0 s) :
    Keeps kb k0 (State.reloadAll s) := by
  unfold State.reloadAll
  repeat' first
    | with_reducible assumption
    | intro _
    | with_reducible apply Keeps.reloadOne
    | with_reducible apply Keeps.foldl
    | dsimp only
    | simp only [Keeps.upd]
    | decide +kernel

theorem unitStop {kb : Bool} {k0 s : State} {u : UnitSel} (hk : Keeps kb k0 s) :
    Keeps kb k0 (State.unitStop s u) := by
  unfold State.unitStop
  repeat' first
    | with_reducible assumption
    | with_reducible apply Keeps.unitDown
    | with_reducible apply Keeps.unitOff
    | dsimp only
    | decide +kernel

theorem coldFrom {k0 s : State} {cause : Nat} (hk : Keeps false k0 s) : Keeps false k0 (s.coldFrom cause) :=
  reset_change hk rfl (fun _ => rfl) rfl rfl rfl (fun _ => Nat.zero_le _) (Nat.zero_lt_succ 15) (ranges_cold _ _)

theorem parkCold {k0 s : State} (hk : Keeps false k0 s) : Keeps false k0 s.parkCold := by
  unfold State.parkCold
  dsimp only
  refine (Keeps.upd rfl rfl rfl rfl rfl rfl rfl).2 ?_
  refine wr (wr (wr (wr_within 0 4 ?_ (by decide +kernel) (by decide) (by decide)) (by decide +kernel)) (by decide +kernel))
    (by decide +kernel)
  refine joinDomains ?_
  exact reset_change hk rfl (fun _ => rfl) rfl rfl rfl (fun _ => Nat.zero_le _) (Nat.zero_lt_succ 15) (ranges_filter _ _)

theorem dropWork {kb : Bool} {k0 s : State} (hk : Keeps kb k0 s) :
    Keeps kb k0 (State.dropWork s) := by
  unfold State.dropWork
  repeat' first
    | with_reducible assumption
    | with_reducible apply Keeps.egress
    | with_reducible apply Keeps.pend
    | with_reducible apply Keeps.setV
    | dsimp only
    | simp only [Keeps.upd]
    | decide +kernel

theorem faultLow {kb : Bool} {k0 s : State} (hk : Keeps kb k0 s) :
    Keeps kb k0 (State.faultLow s) := by
  unfold State.faultLow
  repeat' first
    | with_reducible assumption
    | with_reducible apply Keeps.emit
    | with_reducible apply Keeps.ite
    | dsimp only
    | decide +kernel

theorem parkDown {kb : Bool} {k0 s : State} {reload : List Resident} (hk : Keeps kb k0 s) :
    Keeps kb k0 (State.parkDown s reload) := by
  unfold State.parkDown
  repeat' first
    | with_reducible assumption
    | intro _
    | with_reducible apply Keeps.wr
    | with_reducible apply Keeps.dropWork
    | with_reducible apply Keeps.enterMode
    | with_reducible apply Keeps.faultLow
    | with_reducible apply Keeps.freeField
    | with_reducible apply Keeps.joinDomains
    | with_reducible apply Keeps.runStop
    | with_reducible apply Keeps.unitStop
    | with_reducible apply Keeps.each
    | with_reducible apply Keeps.foldl
    | with_reducible apply Keeps.ite
    | dsimp only
    | simp only [Keeps.upd]
    | simp only [State.inc, State.add, State.wr_frame, Keeps.upd_wr]
    | decide +kernel

theorem parkWarm {kb : Bool} {k0 s : State} {reload : List Resident} (hk : Keeps kb k0 s) :
    Keeps kb k0 (State.parkWarm s reload) := by
  unfold State.parkWarm
  repeat' first
    | with_reducible assumption
    | with_reducible apply Keeps.parkDown
    | with_reducible apply Keeps.sendStatus
    | with_reducible apply Keeps.ite
    | dsimp only
    | decide +kernel

theorem resetAll {kb : Bool} {k0 s : State} (hk : Keeps kb k0 s) :
    Keeps kb k0 (State.resetAll s) := by
  unfold State.resetAll
  repeat' first
    | with_reducible assumption
    | intro _
    | with_reducible apply Keeps.resetNow
    | with_reducible apply Keeps.each
    | with_reducible apply Keeps.ite
    | dsimp only
    | decide +kernel

theorem parkNow {k0 s : State} {cold : Bool} (hk : Keeps false k0 s) :
    Keeps false k0 (State.parkNow s cold) := by
  unfold State.parkNow
  repeat' first
    | with_reducible assumption
    | intro _
    | with_reducible apply Keeps.parkCold
    | with_reducible apply Keeps.parkWarm
    | with_reducible apply Keeps.resetAll
    | with_reducible apply Keeps.ite
    | dsimp only
    | decide +kernel

theorem freezeTenants {kb : Bool} {k0 s : State} (hk : Keeps kb k0 s) :
    Keeps kb k0 (State.freezeTenants s) := by
  unfold State.freezeTenants
  repeat' first
    | with_reducible assumption
    | intro _
    | with_reducible apply Keeps.beginFreeze
    | with_reducible apply Keeps.freeze
    | with_reducible apply Keeps.setV
    | with_reducible apply Keeps.each
    | with_reducible apply Keeps.ite
    | split
    | dsimp only
    | simp only [Keeps.upd]
    | decide +kernel

theorem leaveDepot {k0 s : State} (hk : Keeps false k0 s) :
    Keeps false k0 (State.leaveDepot s) := by
  unfold State.leaveDepot
  repeat' first
    | with_reducible assumption
    | intro _
    | with_reducible apply Keeps.depotPark
    | with_reducible apply Keeps.enterMode
    | with_reducible apply Keeps.freeField
    | with_reducible apply Keeps.parkCold
    | with_reducible apply Keeps.parkWarm
    | with_reducible apply Keeps.reloadAll
    | with_reducible apply Keeps.resetAll
    | with_reducible apply Keeps.restartUnit
    | with_reducible apply Keeps.foldl
    | with_reducible apply Keeps.ite
    | split
    | dsimp only
    | simp only [Keeps.upd]
    | decide +kernel

theorem modeProgress {k0 s : State} (hk : Keeps false k0 s) :
    Keeps false k0 (State.modeProgress s) := by
  unfold State.modeProgress
  repeat' first
    | with_reducible assumption
    | with_reducible apply Keeps.leaveDepot
    | with_reducible apply Keeps.ite
    | dsimp only
    | decide +kernel

theorem depotPark {k0 s : State} {cold : Bool} (hk : Keeps false k0 s) :
    Keeps false k0 (State.depotPark s cold) := by
  unfold State.depotPark
  repeat' first
    | with_reducible assumption
    | with_reducible apply Keeps.decideClock
    | with_reducible apply Keeps.freezeTenants
    | with_reducible apply Keeps.modeProgress
    | with_reducible apply Keeps.setTrans
    | dsimp only
    | simp only [Keeps.upd]
    | decide +kernel

theorem depotIn {k0 s : State} (hk : Keeps false k0 s) :
    Keeps false k0 (State.depotIn s) := by
  unfold State.depotIn
  repeat' first
    | with_reducible assumption
    | with_reducible apply Keeps.wr
    | with_reducible apply Keeps.depotPark
    | with_reducible apply Keeps.enterMode
    | with_reducible apply Keeps.ite
    | dsimp only
    | decide +kernel

theorem depotEnter {k0 s : State} (hk : Keeps false k0 s) :
    Keeps false k0 (State.depotEnter s) := by
  unfold State.depotEnter
  repeat' first
    | with_reducible assumption
    | intro _
    | with_reducible apply Keeps.decideClock
    | with_reducible apply Keeps.depotIn
    | with_reducible apply Keeps.freeField
    | with_reducible apply Keeps.requeue
    | with_reducible apply Keeps.resetNow
    | with_reducible apply Keeps.setF
    | with_reducible apply Keeps.setTrans
    | with_reducible apply Keeps.unitStop
    | with_reducible apply Keeps.each
    | with_reducible apply Keeps.foldl
    | with_reducible apply Keeps.ite
    | dsimp only
    | simp only [Keeps.upd]
    | decide +kernel

theorem refuseMode {kb : Bool} {k0 s : State} (hk : Keeps kb k0 s) :
    Keeps kb k0 (State.refuseMode s) := by
  unfold State.refuseMode
  repeat' first
    | with_reducible assumption
    | with_reducible apply Keeps.inc
    | dsimp only
    | decide +kernel

theorem requestMode {k0 s : State} {m : Nat} (hk : Keeps false k0 s) :
    Keeps false k0 (State.requestMode s m) := by
  unfold State.requestMode
  repeat' first
    | with_reducible assumption
    | with_reducible apply Keeps.wr
    | with_reducible apply Keeps.depotEnter
    | with_reducible apply Keeps.depotPark
    | with_reducible apply Keeps.parkNow
    | with_reducible apply Keeps.refuseMode
    | with_reducible apply Keeps.ite
    | dsimp only
    | decide +kernel

theorem depotWake {k0 s : State} (hk : Keeps false k0 s) :
    Keeps false k0 (State.depotWake s) := by
  unfold State.depotWake
  repeat' first
    | with_reducible assumption
    | intro _
    | with_reducible apply Keeps.decideClock
    | with_reducible apply Keeps.events
    | with_reducible apply Keeps.freezeTenants
    | with_reducible apply Keeps.modeProgress
    | with_reducible apply Keeps.setTrans
    | dsimp only
    | simp only [Keeps.upd]
    | decide +kernel

theorem warmWake {kb : Bool} {k0 s : State} (hk : Keeps kb k0 s) :
    Keeps kb k0 (State.warmWake s) := by
  unfold State.warmWake
  repeat' first
    | with_reducible assumption
    | intro _
    | with_reducible apply Keeps.wr
    | with_reducible apply Keeps.cantleRings
    | with_reducible apply Keeps.domainUp
    | with_reducible apply Keeps.enterMode
    | with_reducible apply Keeps.joinDomains
    | with_reducible apply Keeps.reloadAll
    | with_reducible apply Keeps.restartUnit
    | with_reducible apply Keeps.runStart
    | with_reducible apply Keeps.each
    | with_reducible apply Keeps.foldl
    | with_reducible apply Keeps.ite
    | dsimp only
    | simp only [Keeps.upd]
    | simp only [State.inc, State.add, State.wr_frame, Keeps.upd_wr]
    | decide +kernel

theorem coldWake {kb : Bool} {k0 s : State} {park : Bool} (hk : Keeps kb k0 s) :
    Keeps kb k0 (State.coldWake s park) := by
  unfold State.coldWake
  repeat' first
    | with_reducible assumption
    | with_reducible refine Keeps.wr_within 0 4 ?_ (by decide +kernel) (by decide) (by decide)
    | with_reducible apply Keeps.wr
    | with_reducible apply Keeps.setTrans
    | dsimp only
    | simp only [Keeps.upd]
    | simp only [State.inc, State.add, State.wr_frame, Keeps.upd_wr]
    | decide +kernel

theorem wake {k0 s : State} {src : Nat} (hk : Keeps false k0 s) :
    Keeps false k0 (State.wake s src) := by
  unfold State.wake
  repeat' first
    | with_reducible assumption
    | with_reducible apply Keeps.wr
    | with_reducible apply Keeps.coldWake
    | with_reducible apply Keeps.depotWake
    | with_reducible apply Keeps.warmWake
    | with_reducible apply Keeps.ite
    | split
    | dsimp only
    | simp only [Keeps.upd]
    | simp only [State.inc, State.add, State.wr_frame, Keeps.upd_wr]
    | decide +kernel

end Keeps

end Sys2Proof.Machine
end

