-- ==== Sys2Proof/Laws/KeepsFwOps.lean ====
section
/-! SUPPORT. What the operations of Machine/FwOps.lean keep. -/

namespace Sys2Proof.Machine

namespace Keeps

set_option Elab.async false
set_option linter.unusedSimpArgs false
set_option linter.unusedVariables false

theorem setAuth {k0 s : State} {a : Option Auth} {coolant : Bool} (hk : Keeps false k0 s) :
    Keeps false k0 (State.setAuth s a coolant) := by
  unfold State.setAuth
  repeat' first
    | with_reducible assumption
    | with_reducible apply Keeps.wr
    | with_reducible apply Keeps.depotPark
    | with_reducible apply Keeps.ite
    | dsimp only
    | simp only [Keeps.upd]
    | simp only [State.inc, State.add, State.wr_frame, Keeps.upd_wr]
    | decide +kernel

theorem authorise {k0 s : State} {d : Bytes} (hk : Keeps false k0 s) :
    Keeps false k0 (State.authorise s d) := by
  unfold State.authorise
  repeat' first
    | with_reducible assumption
    | with_reducible apply Keeps.inc
    | with_reducible apply Keeps.setAuth
    | with_reducible apply Keeps.ite
    | dsimp only
    | simp only [Keeps.upd]
    | simp only [State.inc, State.add, State.wr_frame, Keeps.upd_wr]
    | decide +kernel

end Keeps

end Sys2Proof.Machine
end

