-- ==== Sys2Proof/Laws/KeepsBoot.lean ====
section
/-! SUPPORT. What the operations of Machine/Boot.lean keep. -/

namespace Sys2Proof.Machine

namespace Keeps

set_option Elab.async false
set_option linter.unusedSimpArgs false
set_option linter.unusedVariables false

theorem setIdentity {kb : Bool} {k0 s : State} {seed : Nat} (hk : Keeps kb k0 s) :
    Keeps kb k0 (State.setIdentity s seed) := by
  unfold State.setIdentity
  repeat' first
    | with_reducible assumption
    | with_reducible apply Keeps.wr
    | dsimp only
    | simp only [Keeps.upd]
    | simp only [State.inc, State.add, State.wr_frame, Keeps.upd_wr]
    | decide +kernel

theorem enrol {kb : Bool} {k0 s : State} (hk : Keeps kb k0 s) :
    Keeps kb k0 (State.enrol s) := by
  unfold State.enrol
  repeat' first
    | with_reducible assumption
    | with_reducible apply Keeps.drawn
    | with_reducible apply Keeps.flashWrite
    | with_reducible apply Keeps.setIdentity
    | with_reducible apply Keeps.ite_fst
    | with_reducible apply Keeps.foldl_fst
    | dsimp only
    | decide +kernel

theorem deriveKey {kb : Bool} {k0 s : State} (hk : Keeps kb k0 s) :
    Keeps kb k0 (State.deriveKey s) := by
  unfold State.deriveKey
  repeat' first
    | with_reducible assumption
    | with_reducible apply Keeps.wr
    | with_reducible apply Keeps.drop
    | with_reducible apply Keeps.enrol
    | with_reducible apply Keeps.log
    | with_reducible apply Keeps.repair
    | with_reducible apply Keeps.setIdentity
    | with_reducible apply Keeps.ite_fst
    | with_reducible apply Keeps.foldl_fst
    | with_reducible apply Keeps.ite
    | (refine Keeps.of_pair (by assumption) ?_)
    | dsimp only
    | decide +kernel

theorem readRepairs {kb : Bool} {k0 s : State} (hk : Keeps kb k0 s) :
    Keeps kb k0 (State.readRepairs s) := by
  unfold State.readRepairs
  repeat' first
    | with_reducible assumption
    | intro _
    | with_reducible apply Keeps.wr
    | with_reducible apply Keeps.log
    | with_reducible apply Keeps.logEvent
    | with_reducible apply Keeps.foldl
    | with_reducible apply Keeps.ite
    | dsimp only
    | simp only [Keeps.upd]
    | simp only [State.inc, State.add, State.wr_frame, Keeps.upd_wr]
    | decide +kernel

theorem bootLoss {kb : Bool} {k0 s : State} {x : BootFail} (hk : Keeps kb k0 s) :
    Keeps kb k0 (State.bootLoss s x).1 := by
  unfold State.bootLoss
  repeat' first
    | with_reducible assumption
    | with_reducible apply Keeps.wr
    | with_reducible apply Keeps.ite_fst
    | with_reducible apply Keeps.foldl_fst
    | with_reducible apply Keeps.ite
    | split
    | dsimp only
    | simp only [Keeps.upd]
    | simp only [State.inc, State.add, State.wr_frame, Keeps.upd_wr]
    | decide +kernel

theorem bootFail {kb : Bool} {k0 s : State} {x : BootFail} {rows : Nat} (hk : Keeps kb k0 s) :
    Keeps kb k0 (State.bootFail s x rows).1 := by
  unfold State.bootFail
  repeat' first
    | with_reducible assumption
    | with_reducible apply Keeps.bootLoss
    | with_reducible apply Keeps.takeSpare
    | with_reducible apply Keeps.ite_fst
    | with_reducible apply Keeps.foldl_fst
    | (refine Keeps.of_pair (by assumption) ?_)
    | split
    | dsimp only
    | decide +kernel

theorem bootBist {kb : Bool} {k0 s : State} {fails : List BootFail} (hk : Keeps kb k0 s) :
    Keeps kb k0 (State.bootBist s fails).1 := by
  unfold State.bootBist
  repeat' first
    | with_reducible assumption
    | intro _
    | with_reducible apply Keeps.bootFail
    | with_reducible apply Keeps.ite_fst
    | with_reducible apply Keeps.foldl_fst
    | with_reducible apply Keeps.foldl
    | (refine Keeps.of_pair (by assumption) ?_)
    | split
    | dsimp only
    | decide +kernel

theorem rasterService {kb : Bool} {k0 s : State} (hk : Keeps kb k0 s) :
    Keeps kb k0 (State.rasterService s) := by
  unfold State.rasterService
  repeat' first
    | with_reducible assumption
    | intro _
    | with_reducible apply Keeps.wr
    | with_reducible apply Keeps.foldl
    | with_reducible apply Keeps.ite
    | dsimp only
    | decide +kernel

theorem pcsFromLog {kb : Bool} {k0 s : State} (hk : Keeps kb k0 s) :
    Keeps kb k0 (State.pcsFromLog s) := by
  unfold State.pcsFromLog
  repeat' first
    | with_reducible assumption
    | with_reducible apply Keeps.wr
    | with_reducible apply Keeps.log
    | dsimp only
    | decide +kernel

theorem trainHbm {kb : Bool} {k0 s : State} {channels : List (Fin 64)} (hk : Keeps kb k0 s) :
    Keeps kb k0 (State.trainHbm s channels) := by
  unfold State.trainHbm
  repeat' first
    | with_reducible assumption
    | intro _
    | with_reducible apply Keeps.wr
    | with_reducible apply Keeps.logEvent
    | with_reducible apply Keeps.foldl
    | with_reducible apply Keeps.ite
    | dsimp only
    | simp only [Keeps.upd]
    | simp only [State.inc, State.add, State.wr_frame, Keeps.upd_wr]
    | decide +kernel

theorem enterRecovery {kb : Bool} {k0 s : State} {reason : Nat} (hk : Keeps kb k0 s) :
    Keeps kb k0 (State.enterRecovery s reason) := by
  unfold State.enterRecovery
  repeat' first
    | with_reducible assumption
    | with_reducible apply Keeps.wr
    | dsimp only
    | simp only [Keeps.upd]
    | simp only [State.inc, State.add, State.wr_frame, Keeps.upd_wr]
    | decide +kernel

theorem romPath {kb : Bool} {k0 s : State} {bist : State → State × Bool} {train : State → State} (hk : Keeps kb k0 s) (hbist : ∀ t, Keeps kb k0 t → Keeps kb k0 (bist t).1) (htrain : ∀ t, Keeps kb k0 t → Keeps kb k0 (train t)) :
    Keeps kb k0 (State.romPath s bist train) := by
  unfold State.romPath
  repeat' first
    | with_reducible assumption
    | with_reducible apply Keeps.wr
    | with_reducible apply Keeps.enterRecovery
    | with_reducible apply Keeps.ite_fst
    | with_reducible apply Keeps.foldl_fst
    | with_reducible apply Keeps.ite
    | apply hbist
    | apply htrain
    | dsimp only
    | simp only [Keeps.upd]
    | simp only [State.inc, State.add, State.wr_frame, Keeps.upd_wr]
    | decide +kernel

theorem bootDomains {kb : Bool} {k0 s : State} (hk : Keeps kb k0 s) :
    Keeps kb k0 (State.bootDomains s) := by
  unfold State.bootDomains
  repeat' first
    | with_reducible assumption
    | intro _
    | with_reducible apply Keeps.domainUp
    | with_reducible apply Keeps.each
    | with_reducible apply Keeps.ite
    | dsimp only
    | decide +kernel

theorem coldBoot {kb : Bool} {k0 s : State} {straps : Nat} {fails : List BootFail} {channels : List (Fin 64)} (hk : Keeps kb k0 s) :
    Keeps kb k0 (State.coldBoot s straps fails channels) := by
  unfold State.coldBoot
  repeat' first
    | with_reducible assumption
    | intro _
    | with_reducible apply Keeps.wr
    | with_reducible apply Keeps.bootBist
    | with_reducible apply Keeps.bootDomains
    | with_reducible apply Keeps.deriveKey
    | with_reducible apply Keeps.joinDomains
    | with_reducible apply Keeps.pcsFromLog
    | with_reducible apply Keeps.rasterService
    | with_reducible apply Keeps.readRepairs
    | with_reducible apply Keeps.romPath
    | with_reducible apply Keeps.setKey
    | with_reducible apply Keeps.trainHbm
    | with_reducible apply Keeps.ite_fst
    | with_reducible apply Keeps.foldl_fst
    | with_reducible apply Keeps.ite
    | (refine Keeps.of_pair (by assumption) ?_)
    | dsimp only
    | simp only [Keeps.upd]
    | simp only [State.inc, State.add, State.wr_frame, Keeps.upd_wr]
    | decide +kernel

theorem execColdBoot {kb : Bool} {k0 s : State} {straps : Fin 16} {fails : List BootFail} {channels : List (Fin 64)} (hk : Keeps kb k0 s) :
    AnsKeeps kb k0 (Sys2Proof.Machine.execColdBoot straps fails channels s) := by
  unfold Sys2Proof.Machine.execColdBoot
  repeat' first
    | with_reducible assumption
    | with_reducible apply Keeps.coldBoot
    | with_reducible apply Keeps.next
    | with_reducible apply Keeps.ite
    | with_reducible apply Keeps.ans_ite
    | split
    | dsimp only
    | decide +kernel

end Keeps

end Sys2Proof.Machine
end

