-- ==== Sys2Proof/Laws/KeepsIdentity.lean ====
section
/-! SUPPORT. What the operations of Machine/Identity.lean keep. -/

namespace Sys2Proof.Machine

namespace Keeps

set_option Elab.async false
set_option linter.unusedSimpArgs false
set_option linter.unusedVariables false

theorem depotDatagram {k0 s : State} {d : Bytes} (hk : Keeps false k0 s) :
    Keeps false k0 (State.depotDatagram s d) := by
  unfold State.depotDatagram
  repeat' first
    | with_reducible assumption
    | with_reducible apply Keeps.authorise
    | with_reducible apply Keeps.ite
    | dsimp only
    | decide +kernel

theorem execDepotAuthorisation {k0 s : State} {datagram : Bytes} (hk : Keeps false k0 s) :
    AnsKeeps false k0 (Sys2Proof.Machine.execDepotAuthorisation datagram s) := by
  unfold Sys2Proof.Machine.execDepotAuthorisation
  repeat' first
    | with_reducible assumption
    | with_reducible apply Keeps.depotDatagram
    | with_reducible apply Keeps.next
    | dsimp only
    | decide +kernel

theorem execDepotAuthExpiry {k0 s : State} (hk : Keeps false k0 s) :
    AnsKeeps false k0 (Sys2Proof.Machine.execDepotAuthExpiry s) := by
  unfold Sys2Proof.Machine.execDepotAuthExpiry
  repeat' first
    | with_reducible assumption
    | with_reducible apply Keeps.setAuth
    | with_reducible apply Keeps.next
    | with_reducible apply Keeps.ite
    | with_reducible apply Keeps.ans_ite
    | split
    | dsimp only
    | decide +kernel

theorem attestGo {kb : Bool} {k0 s : State} (hk : Keeps kb k0 s) :
    Keeps kb k0 (State.attestGo s) := by
  unfold State.attestGo
  repeat' first
    | with_reducible assumption
    | with_reducible apply Keeps.wr
    | with_reducible apply Keeps.ite
    | dsimp only
    | simp only [Keeps.upd]
    | simp only [State.inc, State.add, State.wr_frame, Keeps.upd_wr]
    | decide +kernel

theorem execAttestationGo {kb : Bool} {k0 s : State} {src : Source} (hk : Keeps kb k0 s) :
    AnsKeeps kb k0 (Sys2Proof.Machine.execAttestationGo src s) := by
  unfold Sys2Proof.Machine.execAttestationGo
  repeat' first
    | with_reducible assumption
    | with_reducible apply Keeps.asWho
    | with_reducible apply Keeps.attestGo
    | with_reducible apply Keeps.next
    | dsimp only
    | decide +kernel

theorem execAttestationReportDone {kb : Bool} {k0 s : State} (hk : Keeps kb k0 s) :
    AnsKeeps kb k0 (Sys2Proof.Machine.execAttestationReportDone s) := by
  unfold Sys2Proof.Machine.execAttestationReportDone
  repeat' first
    | with_reducible assumption
    | with_reducible apply Keeps.wr
    | with_reducible apply Keeps.drawn
    | with_reducible apply Keeps.memWrite
    | with_reducible apply Keeps.next
    | with_reducible apply Keeps.ite
    | with_reducible apply Keeps.ans_ite
    | split
    | dsimp only
    | simp only [Keeps.upd]
    | simp only [State.inc, State.add, State.wr_frame, Keeps.upd_wr]
    | decide +kernel

theorem attestDatagram {kb : Bool} {k0 s : State} {d : Bytes} (hk : Keeps kb k0 s) :
    Keeps kb k0 (State.attestDatagram s d) := by
  unfold State.attestDatagram
  repeat' first
    | with_reducible assumption
    | intro _
    | with_reducible apply Keeps.inc
    | with_reducible apply Keeps.drawn
    | with_reducible apply Keeps.drop
    | with_reducible apply Keeps.emit
    | with_reducible apply Keeps.ite
    | dsimp only
    | simp only [Keeps.upd]
    | simp only [State.inc, State.add, State.wr_frame, Keeps.upd_wr]
    | decide +kernel

theorem execAttestationRequest {kb : Bool} {k0 s : State} {datagram : Bytes} (hk : Keeps kb k0 s) :
    AnsKeeps kb k0 (Sys2Proof.Machine.execAttestationRequest datagram s) := by
  unfold Sys2Proof.Machine.execAttestationRequest
  repeat' first
    | with_reducible assumption
    | with_reducible apply Keeps.attestDatagram
    | with_reducible apply Keeps.next
    | dsimp only
    | decide +kernel

end Keeps

end Sys2Proof.Machine
end

