-- ==== Sys2Proof/Laws/KeepsReset.lean ====
section
/-! SUPPORT. What the operations of Machine/Reset.lean keep. -/

namespace Sys2Proof.Machine

namespace Keeps

set_option Elab.async false
set_option linter.unusedSimpArgs false
set_option linter.unusedVariables false

theorem execColdReset {k0 s : State} {byMonitor : Bool} (hk : Keeps false k0 s) :
    AnsKeeps false k0 (Sys2Proof.Machine.execColdReset byMonitor s) := by
  unfold Sys2Proof.Machine.execColdReset
  repeat' first
    | with_reducible assumption
    | with_reducible apply Keeps.coldFrom
    | with_reducible apply Keeps.faultLow
    | with_reducible apply Keeps.next
    | with_reducible apply Keeps.ite
    | with_reducible apply Keeps.ans_ite
    | dsimp only
    | decide +kernel

theorem takePcs {kb : Bool} {k0 s : State} (hk : Keeps kb k0 s) :
    Keeps kb k0 (State.takePcs s) := by
  unfold State.takePcs
  repeat' first
    | with_reducible assumption
    | with_reducible apply Keeps.wr
    | with_reducible apply Keeps.logEvent
    | with_reducible apply Keeps.ite
    | dsimp only
    | decide +kernel

theorem warmReset {k0 s : State} {cause : Nat} (hk : Keeps false k0 s) : Keeps false k0 (s.warmReset cause) := by
  unfold State.warmReset
  repeat' first
    | with_reducible assumption
    | intro _
    | with_reducible apply romPath
    | with_reducible apply takePcs
    | with_reducible apply rasterService
    | with_reducible apply flushRepairs
    | with_reducible apply bootDomains
    | with_reducible apply joinDomains
    | with_reducible apply wr
    | with_reducible apply each
    | with_reducible apply ite
    | dsimp only
    | decide +kernel
    | simp only [id]
    | exact reset_change hk (faultLow (refl false s)).pending id rfl rfl rfl id (Nat.zero_lt_succ 15) (ranges_filter _ _)

theorem execWarmNPulse {k0 s : State} (hk : Keeps false k0 s) :
    AnsKeeps false k0 (Sys2Proof.Machine.execWarmNPulse s) := by
  unfold Sys2Proof.Machine.execWarmNPulse
  repeat' first
    | with_reducible assumption
    | with_reducible apply Keeps.warmReset
    | with_reducible apply Keeps.next
    | with_reducible apply Keeps.ite
    | with_reducible apply Keeps.ans_ite
    | dsimp only
    | decide +kernel

theorem warmBy {k0 s : State} {src : Source} {key : Nat} (hk : Keeps false k0 s) :
    Keeps false k0 (State.warmBy s src key) := by
  unfold State.warmBy
  repeat' first
    | with_reducible assumption
    | intro _
    | with_reducible apply Keeps.asWho
    | with_reducible apply Keeps.warmReset
    | with_reducible apply Keeps.ite
    | dsimp only
    | decide +kernel

theorem execWarmReset {k0 s : State} {src : Source} {key : Fin 256} (hk : Keeps false k0 s) :
    AnsKeeps false k0 (Sys2Proof.Machine.execWarmReset src key s) := by
  unfold Sys2Proof.Machine.execWarmReset
  repeat' first
    | with_reducible assumption
    | with_reducible apply Keeps.warmBy
    | with_reducible apply Keeps.next
    | dsimp only
    | decide +kernel

theorem fieldGo {kb : Bool} {k0 s : State} {n : Nat} {byCantle : Bool} (hk : Keeps kb k0 s) :
    Keeps kb k0 (State.fieldGo s n byCantle) := by
  unfold State.fieldGo
  repeat' first
    | with_reducible assumption
    | intro _
    | with_reducible apply Keeps.inc
    | with_reducible apply Keeps.killField
    | with_reducible apply Keeps.setF
    | with_reducible apply Keeps.startReinit
    | with_reducible apply Keeps.ite
    | with_reducible apply Keeps.dite
    | dsimp only
    | simp only [Keeps.upd]
    | simp only [State.inc, State.add, State.wr_frame, Keeps.upd_wr]
    | decide +kernel

theorem execFieldReset {kb : Bool} {k0 s : State} {src : Source} {field : Fin 32} (hk : Keeps kb k0 s) :
    AnsKeeps kb k0 (Sys2Proof.Machine.execFieldReset src field s) := by
  unfold Sys2Proof.Machine.execFieldReset
  repeat' first
    | with_reducible assumption
    | intro _
    | with_reducible apply Keeps.wr
    | with_reducible apply Keeps.asWho
    | with_reducible apply Keeps.fieldGo
    | with_reducible apply Keeps.next
    | dsimp only
    | decide +kernel

end Keeps

end Sys2Proof.Machine
end

