-- ==== Sys2Proof/Laws/KeepsFirmware.lean ====
section
/-! SUPPORT. What the operations of Machine/Firmware.lean keep. -/

namespace Sys2Proof.Machine

namespace Keeps

set_option Elab.async false
set_option linter.unusedSimpArgs false
set_option linter.unusedVariables false

theorem writeParts {kb : Bool} {k0 s : State} {b : Bytes} {k : Nat} (hk : Keeps kb k0 s) :
    Keeps kb k0 (State.writeParts s b k) := by
  unfold State.writeParts
  repeat' first
    | with_reducible assumption
    | intro _
    | with_reducible apply Keeps.flashWrite
    | with_reducible apply Keeps.ite_fst
    | with_reducible apply Keeps.foldl_fst
    | with_reducible apply Keeps.foldl
    | dsimp only
    | decide +kernel

theorem failWrite {kb : Bool} {k0 s : State} {b : Bytes} (hk : Keeps kb k0 s) :
    Keeps kb k0 (State.failWrite s b) := by
  unfold State.failWrite
  repeat' first
    | with_reducible assumption
    | intro _
    | with_reducible apply Keeps.drawn
    | with_reducible apply Keeps.flashWrite
    | with_reducible apply Keeps.writeParts
    | with_reducible apply Keeps.ite_fst
    | with_reducible apply Keeps.foldl_fst
    | split
    | dsimp only
    | decide +kernel

theorem endUpdate {kb : Bool} {k0 s : State} {result : Nat} (hk : Keeps kb k0 s) :
    Keeps kb k0 (State.endUpdate s result) := by
  unfold State.endUpdate
  repeat' first
    | with_reducible assumption
    | intro _
    | with_reducible apply Keeps.wr
    | with_reducible apply Keeps.flushRepairs
    | with_reducible apply Keeps.saveLog
    | with_reducible apply Keeps.foldl
    | dsimp only
    | simp only [Keeps.upd]
    | simp only [State.inc, State.add, State.wr_frame, Keeps.upd_wr]
    | decide +kernel

theorem packageGo {kb : Bool} {k0 s : State} (hk : Keeps kb k0 s) :
    Keeps kb k0 (State.packageGo s) := by
  unfold State.packageGo
  repeat' first
    | with_reducible assumption
    | with_reducible apply Keeps.wr
    | with_reducible apply Keeps.ite
    | dsimp only
    | simp only [Keeps.upd]
    | simp only [State.inc, State.add, State.wr_frame, Keeps.upd_wr]
    | decide +kernel

theorem execPackageUpdate {kb : Bool} {k0 s : State} {src : Source} (hk : Keeps kb k0 s) :
    AnsKeeps kb k0 (Sys2Proof.Machine.execPackageUpdate src s) := by
  unfold Sys2Proof.Machine.execPackageUpdate
  repeat' first
    | with_reducible assumption
    | with_reducible apply Keeps.asWho
    | with_reducible apply Keeps.packageGo
    | with_reducible apply Keeps.next
    | dsimp only
    | decide +kernel

theorem execPackageUpdateDone {k0 s : State} {mismatch : Bool} (hk : Keeps false k0 s) :
    AnsKeeps false k0 (Sys2Proof.Machine.execPackageUpdateDone mismatch s) := by
  unfold Sys2Proof.Machine.execPackageUpdateDone
  repeat' first
    | with_reducible assumption
    | with_reducible apply Keeps.emit
    | with_reducible apply Keeps.endUpdate
    | with_reducible apply Keeps.failWrite
    | with_reducible apply Keeps.warmReset
    | with_reducible apply Keeps.writeParts
    | with_reducible apply Keeps.next
    | with_reducible apply Keeps.ite
    | with_reducible apply Keeps.ans_ite
    | split
    | dsimp only
    | simp only [Keeps.upd]
    | decide +kernel

theorem execRecoveryAnnounce {kb : Bool} {k0 s : State} (hk : Keeps kb k0 s) :
    AnsKeeps kb k0 (Sys2Proof.Machine.execRecoveryAnnounce s) := by
  unfold Sys2Proof.Machine.execRecoveryAnnounce
  repeat' first
    | with_reducible assumption
    | intro _
    | with_reducible apply Keeps.emit
    | with_reducible apply Keeps.next
    | with_reducible apply Keeps.ite
    | with_reducible apply Keeps.ans_ite
    | split
    | dsimp only
    | simp only [Keeps.upd]
    | decide +kernel

theorem ackTransfer {kb : Bool} {k0 s : State} {t : Transfer} (hk : Keeps kb k0 s) :
    Keeps kb k0 (State.ackTransfer s t) := by
  unfold State.ackTransfer
  repeat' first
    | with_reducible assumption
    | with_reducible apply Keeps.emit
    | dsimp only
    | decide +kernel

theorem setTransfer {kb : Bool} {k0 s : State} {t : Option Transfer} (hk : Keeps kb k0 s) :
    Keeps kb k0 (State.setTransfer s t) := by
  unfold State.setTransfer
  repeat' first
    | with_reducible assumption
    | intro _
    | dsimp only
    | simp only [Keeps.upd]
    | decide +kernel

theorem execRecoveryData {kb : Bool} {k0 s : State} {sender : Nat} {offset : Nat} {payload : Bytes} (hk : Keeps kb k0 s) :
    AnsKeeps kb k0 (Sys2Proof.Machine.execRecoveryData sender offset payload s) := by
  unfold Sys2Proof.Machine.execRecoveryData
  repeat' first
    | with_reducible assumption
    | intro _
    | with_reducible apply Keeps.ackTransfer
    | with_reducible apply Keeps.setTransfer
    | with_reducible apply Keeps.ite_fst
    | with_reducible apply Keeps.foldl_fst
    | with_reducible apply Keeps.foldl
    | with_reducible apply Keeps.next
    | with_reducible apply Keeps.ite
    | with_reducible apply Keeps.ans_ite
    | dsimp only
    | decide +kernel

theorem execRecoveryEnd {kb : Bool} {k0 s : State} {sender : Nat} {total : Nat} (hk : Keeps kb k0 s) :
    AnsKeeps kb k0 (Sys2Proof.Machine.execRecoveryEnd sender total s) := by
  unfold Sys2Proof.Machine.execRecoveryEnd
  repeat' first
    | with_reducible assumption
    | intro _
    | with_reducible apply Keeps.wr
    | with_reducible apply Keeps.ackTransfer
    | with_reducible apply Keeps.setTransfer
    | with_reducible apply Keeps.next
    | with_reducible apply Keeps.ite
    | with_reducible apply Keeps.ans_ite
    | split
    | dsimp only
    | simp only [Keeps.upd]
    | simp only [State.inc, State.add, State.wr_frame, Keeps.upd_wr]
    | decide +kernel

theorem execRecoverySilenceTimeout {kb : Bool} {k0 s : State} (hk : Keeps kb k0 s) :
    AnsKeeps kb k0 (Sys2Proof.Machine.execRecoverySilenceTimeout s) := by
  unfold Sys2Proof.Machine.execRecoverySilenceTimeout
  repeat' first
    | with_reducible assumption
    | with_reducible apply Keeps.setTransfer
    | with_reducible apply Keeps.next
    | with_reducible apply Keeps.ite
    | with_reducible apply Keeps.ans_ite
    | split
    | dsimp only
    | decide +kernel

theorem rerunLoads {kb : Bool} {k0 s : State} (hk : Keeps kb k0 s) :
    Keeps kb k0 (State.rerunLoads s) := by
  unfold State.rerunLoads
  repeat' first
    | with_reducible assumption
    | intro _
    | with_reducible apply Keeps.killLoad
    | with_reducible apply Keeps.foldl
    | with_reducible apply Keeps.ite
    | dsimp only
    | simp only [Keeps.upd]
    | decide +kernel

theorem componentEffect {kb : Bool} {k0 s : State} {comp : Nat} (hk : Keeps kb k0 s) :
    Keeps kb k0 (State.componentEffect s comp) := by
  unfold State.componentEffect
  repeat' first
    | with_reducible assumption
    | with_reducible apply Keeps.wr
    | with_reducible apply Keeps.endUpdate
    | with_reducible apply Keeps.rerunLoads
    | with_reducible apply Keeps.ite
    | dsimp only
    | simp only [Keeps.upd]
    | simp only [State.inc, State.add, State.wr_frame, Keeps.upd_wr]
    | decide +kernel

theorem execComponentFault {kb : Bool} {k0 s : State} {comp : Fin 16} (hk : Keeps kb k0 s) :
    AnsKeeps kb k0 (Sys2Proof.Machine.execComponentFault comp s) := by
  unfold Sys2Proof.Machine.execComponentFault
  repeat' first
    | with_reducible assumption
    | with_reducible apply Keeps.inc
    | with_reducible apply Keeps.componentEffect
    | with_reducible apply Keeps.next
    | with_reducible apply Keeps.ite
    | with_reducible apply Keeps.ans_ite
    | dsimp only
    | simp only [Keeps.upd]
    | simp only [State.inc, State.add, State.wr_frame, Keeps.upd_wr]
    | decide +kernel

theorem execComponentRestartDone {kb : Bool} {k0 s : State} {comp : Fin 16} (hk : Keeps kb k0 s) :
    AnsKeeps kb k0 (Sys2Proof.Machine.execComponentRestartDone comp s) := by
  unfold Sys2Proof.Machine.execComponentRestartDone
  repeat' first
    | with_reducible assumption
    | intro _
    | with_reducible apply Keeps.flushLog
    | with_reducible apply Keeps.saveLog
    | with_reducible apply Keeps.foldl
    | with_reducible apply Keeps.next
    | with_reducible apply Keeps.ite
    | with_reducible apply Keeps.ans_ite
    | dsimp only
    | simp only [Keeps.upd]
    | decide +kernel

theorem execSchedulerFault {kb : Bool} {k0 s : State} (hk : Keeps kb k0 s) :
    AnsKeeps kb k0 (Sys2Proof.Machine.execSchedulerFault s) := by
  unfold Sys2Proof.Machine.execSchedulerFault
  repeat' first
    | with_reducible assumption
    | intro _
    | with_reducible apply Keeps.componentEffect
    | with_reducible apply Keeps.report
    | with_reducible apply Keeps.rerunLoads
    | with_reducible apply Keeps.saveLog
    | with_reducible apply Keeps.foldl
    | with_reducible apply Keeps.next
    | with_reducible apply Keeps.ite
    | with_reducible apply Keeps.ans_ite
    | dsimp only
    | simp only [Keeps.upd]
    | decide +kernel

theorem saveGo {kb : Bool} {k0 s : State} (hk : Keeps kb k0 s) :
    Keeps kb k0 (State.saveGo s) := by
  unfold State.saveGo
  repeat' first
    | with_reducible assumption
    | with_reducible apply Keeps.saveLog
    | with_reducible apply Keeps.ite
    | dsimp only
    | simp only [Keeps.upd]
    | decide +kernel

theorem execLogSave {kb : Bool} {k0 s : State} {src : Source} (hk : Keeps kb k0 s) :
    AnsKeeps kb k0 (Sys2Proof.Machine.execLogSave src s) := by
  unfold Sys2Proof.Machine.execLogSave
  repeat' first
    | with_reducible assumption
    | with_reducible apply Keeps.asWho
    | with_reducible apply Keeps.saveGo
    | with_reducible apply Keeps.next
    | dsimp only
    | decide +kernel

theorem execTracePoint {kb : Bool} {k0 s : State} {field : Fin 17} (hk : Keeps kb k0 s) :
    AnsKeeps kb k0 (Sys2Proof.Machine.execTracePoint field s) := by
  unfold Sys2Proof.Machine.execTracePoint
  repeat' first
    | with_reducible assumption
    | intro _
    | with_reducible apply Keeps.drawn
    | with_reducible apply Keeps.log
    | with_reducible apply Keeps.setF
    | with_reducible apply Keeps.next
    | with_reducible apply Keeps.ite
    | with_reducible apply Keeps.ans_ite
    | dsimp only
    | simp only [Keeps.upd]
    | decide +kernel

end Keeps

end Sys2Proof.Machine
end

