-- ==== Sys2Proof/Laws/KeepsPassLink.lean ====
section
/-! SUPPORT. What the operations of Machine/PassLink.lean keep. -/

namespace Sys2Proof.Machine

namespace Keeps

set_option Elab.async false
set_option linter.unusedSimpArgs false
set_option linter.unusedVariables false

theorem startRetrain {kb : Bool} {k0 s : State} {p : Nat} (hk : Keeps kb k0 s) :
    Keeps kb k0 (State.startRetrain s p) := by
  unfold State.startRetrain
  repeat' first
    | with_reducible assumption
    | intro _
    | with_reducible apply Keeps.inc
    | with_reducible apply Keeps.setPort
    | dsimp only
    | simp only [Keeps.upd]
    | simp only [State.inc, State.add, State.wr_frame, Keeps.upd_wr]
    | decide +kernel

theorem badFlit {kb : Bool} {k0 s : State} {p : Nat} (hk : Keeps kb k0 s) :
    Keeps kb k0 (State.badFlit s p) := by
  unfold State.badFlit
  repeat' first
    | with_reducible assumption
    | with_reducible apply Keeps.inc
    | with_reducible apply Keeps.report
    | with_reducible apply Keeps.setPort
    | with_reducible apply Keeps.startRetrain
    | with_reducible apply Keeps.ite
    | split
    | dsimp only
    | simp only [Keeps.upd]
    | simp only [State.inc, State.add, State.wr_frame, Keeps.upd_wr]
    | decide +kernel

theorem goodFlit {kb : Bool} {k0 s : State} {p : Nat} {b : Bytes} (hk : Keeps kb k0 s) :
    Keeps kb k0 (State.goodFlit s p b) := by
  unfold State.goodFlit
  repeat' first
    | with_reducible assumption
    | with_reducible apply Keeps.inc
    | with_reducible apply Keeps.emit
    | with_reducible apply Keeps.report
    | with_reducible apply Keeps.setPort
    | with_reducible apply Keeps.ite
    | split
    | dsimp only
    | simp only [Keeps.upd]
    | simp only [State.inc, State.add, State.wr_frame, Keeps.upd_wr]
    | decide +kernel

theorem execPassFlit {kb : Bool} {k0 s : State} {port : Fin 4} {flit : Bytes} (hk : Keeps kb k0 s) :
    AnsKeeps kb k0 (Sys2Proof.Machine.execPassFlit port flit s) := by
  unfold Sys2Proof.Machine.execPassFlit
  repeat' first
    | with_reducible assumption
    | with_reducible apply Keeps.badFlit
    | with_reducible apply Keeps.goodFlit
    | with_reducible apply Keeps.next
    | with_reducible apply Keeps.ite
    | with_reducible apply Keeps.ans_ite
    | dsimp only
    | decide +kernel

theorem execPassRetrainDone {kb : Bool} {k0 s : State} {port : Fin 4} {ok : Bool} (hk : Keeps kb k0 s) :
    AnsKeeps kb k0 (Sys2Proof.Machine.execPassRetrainDone port ok s) := by
  unfold Sys2Proof.Machine.execPassRetrainDone
  repeat' first
    | with_reducible assumption
    | intro _
    | with_reducible apply Keeps.linkDown
    | with_reducible apply Keeps.setPort
    | with_reducible apply Keeps.unitOut
    | with_reducible apply Keeps.next
    | with_reducible apply Keeps.ite
    | with_reducible apply Keeps.ans_ite
    | split
    | dsimp only
    | simp only [Keeps.upd]
    | decide +kernel

theorem setId {kb : Bool} {k0 s : State} {id : Nat} {static : Bool} (hk : Keeps kb k0 s) :
    Keeps kb k0 (State.setId s id static) := by
  unfold State.setId
  repeat' first
    | with_reducible assumption
    | with_reducible apply Keeps.wr
    | with_reducible apply Keeps.passCause
    | with_reducible apply Keeps.ite
    | dsimp only
    | simp only [Keeps.upd]
    | simp only [State.inc, State.add, State.wr_frame, Keeps.upd_wr]
    | decide +kernel

theorem claimIds {kb : Bool} {k0 s : State} (hk : Keeps kb k0 s) :
    Keeps kb k0 (State.claimIds s) := by
  unfold State.claimIds
  repeat' first
    | with_reducible assumption
    | intro _
    | with_reducible apply Keeps.inc
    | with_reducible apply Keeps.wr
    | with_reducible apply Keeps.setId
    | with_reducible apply Keeps.ite
    | split
    | dsimp only
    | simp only [Keeps.upd]
    | simp only [State.inc, State.add, State.wr_frame, Keeps.upd_wr]
    | decide +kernel

theorem showAuthority {kb : Bool} {k0 s : State} (hk : Keeps kb k0 s) :
    Keeps kb k0 (State.showAuthority s) := by
  unfold State.showAuthority
  repeat' first
    | with_reducible assumption
    | intro _
    | with_reducible apply Keeps.wr
    | with_reducible apply Keeps.ite
    | split
    | dsimp only
    | decide +kernel

theorem passView {kb : Bool} {k0 s : State} (hk : Keeps kb k0 s) :
    Keeps kb k0 (State.passView s) := by
  unfold State.passView
  repeat' first
    | with_reducible assumption
    | with_reducible apply Keeps.claimIds
    | with_reducible apply Keeps.showAuthority
    | dsimp only
    | decide +kernel

theorem execLinkTrainingDone {kb : Bool} {k0 s : State} {port : Fin 4} {lanes : Fin 256} (hk : Keeps kb k0 s) :
    AnsKeeps kb k0 (Sys2Proof.Machine.execLinkTrainingDone port lanes s) := by
  unfold Sys2Proof.Machine.execLinkTrainingDone
  repeat' first
    | with_reducible assumption
    | with_reducible apply Keeps.wr
    | with_reducible apply Keeps.linkDown
    | with_reducible apply Keeps.setLink
    | with_reducible apply Keeps.setPort
    | with_reducible apply Keeps.next
    | with_reducible apply Keeps.ite
    | with_reducible apply Keeps.ans_ite
    | dsimp only
    | simp only [Keeps.upd]
    | simp only [State.inc, State.add, State.wr_frame, Keeps.upd_wr]
    | decide +kernel

theorem execSignalLockLoss {kb : Bool} {k0 s : State} {port : Fin 4} (hk : Keeps kb k0 s) :
    AnsKeeps kb k0 (Sys2Proof.Machine.execSignalLockLoss port s) := by
  unfold Sys2Proof.Machine.execSignalLockLoss
  repeat' first
    | with_reducible assumption
    | with_reducible apply Keeps.linkDown
    | with_reducible apply Keeps.passView
    | with_reducible apply Keeps.next
    | dsimp only
    | decide +kernel

theorem execHelloTimeout {kb : Bool} {k0 s : State} {port : Fin 4} (hk : Keeps kb k0 s) :
    AnsKeeps kb k0 (Sys2Proof.Machine.execHelloTimeout port s) := by
  unfold Sys2Proof.Machine.execHelloTimeout
  repeat' first
    | with_reducible assumption
    | intro _
    | with_reducible apply Keeps.linkDown
    | with_reducible apply Keeps.passView
    | with_reducible apply Keeps.next
    | with_reducible apply Keeps.ite
    | with_reducible apply Keeps.ans_ite
    | dsimp only
    | decide +kernel

theorem execHelloSend {kb : Bool} {k0 s : State} {port : Fin 4} (hk : Keeps kb k0 s) :
    AnsKeeps kb k0 (Sys2Proof.Machine.execHelloSend port s) := by
  unfold Sys2Proof.Machine.execHelloSend
  repeat' first
    | with_reducible assumption
    | intro _
    | with_reducible apply Keeps.emit
    | with_reducible apply Keeps.setPort
    | with_reducible apply Keeps.next
    | with_reducible apply Keeps.ite
    | with_reducible apply Keeps.ans_ite
    | dsimp only
    | simp only [Keeps.upd]
    | decide +kernel

theorem execPassHello {kb : Bool} {k0 s : State} {port : Fin 4} {hello : PassHello} (hk : Keeps kb k0 s) :
    AnsKeeps kb k0 (Sys2Proof.Machine.execPassHello port hello s) := by
  unfold Sys2Proof.Machine.execPassHello
  repeat' first
    | with_reducible assumption
    | with_reducible apply Keeps.wr
    | with_reducible apply Keeps.linkForeign
    | with_reducible apply Keeps.passView
    | with_reducible apply Keeps.setLink
    | with_reducible apply Keeps.setPort
    | with_reducible apply Keeps.next
    | with_reducible apply Keeps.ite
    | with_reducible apply Keeps.ans_ite
    | dsimp only
    | simp only [Keeps.upd]
    | simp only [State.inc, State.add, State.wr_frame, Keeps.upd_wr]
    | decide +kernel

theorem floodLsa {kb : Bool} {k0 s : State} {l : PassLsa} {except_ : Nat} (hk : Keeps kb k0 s) :
    Keeps kb k0 (State.floodLsa s l except_) := by
  unfold State.floodLsa
  repeat' first
    | with_reducible assumption
    | intro _
    | with_reducible apply Keeps.emit
    | with_reducible apply Keeps.each
    | with_reducible apply Keeps.ite
    | dsimp only
    | decide +kernel

theorem execLsaSend {kb : Bool} {k0 s : State} (hk : Keeps kb k0 s) :
    AnsKeeps kb k0 (Sys2Proof.Machine.execLsaSend s) := by
  unfold Sys2Proof.Machine.execLsaSend
  repeat' first
    | with_reducible assumption
    | with_reducible apply Keeps.floodLsa
    | with_reducible apply Keeps.passView
    | with_reducible apply Keeps.next
    | with_reducible apply Keeps.ite
    | with_reducible apply Keeps.ans_ite
    | dsimp only
    | simp only [Keeps.upd]
    | decide +kernel

theorem execPassLsa {kb : Bool} {k0 s : State} {port : Fin 4} {lsa : PassLsa} (hk : Keeps kb k0 s) :
    AnsKeeps kb k0 (Sys2Proof.Machine.execPassLsa port lsa s) := by
  unfold Sys2Proof.Machine.execPassLsa
  repeat' first
    | with_reducible assumption
    | intro _
    | with_reducible apply Keeps.floodLsa
    | with_reducible apply Keeps.passView
    | with_reducible apply Keeps.next
    | with_reducible apply Keeps.ite
    | with_reducible apply Keeps.ans_ite
    | dsimp only
    | simp only [Keeps.upd]
    | decide +kernel

theorem execLsaAgeOut {kb : Bool} {k0 s : State} {hash : Nat} (hk : Keeps kb k0 s) :
    AnsKeeps kb k0 (Sys2Proof.Machine.execLsaAgeOut hash s) := by
  unfold Sys2Proof.Machine.execLsaAgeOut
  repeat' first
    | with_reducible assumption
    | intro _
    | with_reducible apply Keeps.passView
    | with_reducible apply Keeps.next
    | with_reducible apply Keeps.ite
    | with_reducible apply Keeps.ans_ite
    | dsimp only
    | simp only [Keeps.upd]
    | decide +kernel

theorem showDiscard {kb : Bool} {k0 s : State} (hk : Keeps kb k0 s) :
    Keeps kb k0 (State.showDiscard s) := by
  unfold State.showDiscard
  repeat' first
    | with_reducible assumption
    | intro _
    | with_reducible apply Keeps.wr
    | with_reducible apply Keeps.each
    | dsimp only
    | decide +kernel

theorem lostDevice {kb : Bool} {k0 s : State} {m : Nat} (hk : Keeps kb k0 s) :
    Keeps kb k0 (State.lostDevice s m) := by
  unfold State.lostDevice
  repeat' first
    | with_reducible assumption
    | with_reducible apply Keeps.inc
    | with_reducible apply Keeps.wr
    | with_reducible apply Keeps.passCause
    | dsimp only
    | decide +kernel

theorem installRoutes {kb : Bool} {k0 s : State} {gen : Nat} {es : List PassRoute} (hk : Keeps kb k0 s) :
    Keeps kb k0 (State.installRoutes s gen es) := by
  unfold State.installRoutes
  repeat' first
    | with_reducible assumption
    | intro _
    | with_reducible apply Keeps.wr
    | with_reducible apply Keeps.lostDevice
    | with_reducible apply Keeps.passCause
    | with_reducible apply Keeps.setId
    | with_reducible apply Keeps.showAuthority
    | with_reducible apply Keeps.showDiscard
    | with_reducible apply Keeps.takeUnit
    | with_reducible apply Keeps.each
    | with_reducible apply Keeps.foldl
    | with_reducible apply Keeps.ite
    | split
    | dsimp only
    | simp only [Keeps.upd]
    | simp only [State.inc, State.add, State.wr_frame, Keeps.upd_wr]
    | decide +kernel

theorem commitRoutes {kb : Bool} {k0 s : State} {gen : Nat} (hk : Keeps kb k0 s) :
    Keeps kb k0 (State.commitRoutes s gen) := by
  unfold State.commitRoutes
  repeat' first
    | with_reducible assumption
    | with_reducible apply Keeps.installRoutes
    | with_reducible apply Keeps.ite
    | split
    | dsimp only
    | decide +kernel

theorem execRoutesCommit {kb : Bool} {k0 s : State} {gen : Fin 65536} (hk : Keeps kb k0 s) :
    AnsKeeps kb k0 (Sys2Proof.Machine.execRoutesCommit gen s) := by
  unfold Sys2Proof.Machine.execRoutesCommit
  repeat' first
    | with_reducible assumption
    | with_reducible apply Keeps.commitRoutes
    | with_reducible apply Keeps.emit
    | with_reducible apply Keeps.next
    | with_reducible apply Keeps.ite
    | with_reducible apply Keeps.ans_ite
    | split
    | dsimp only
    | decide +kernel

theorem execRouteCompute {kb : Bool} {k0 s : State} (hk : Keeps kb k0 s) :
    AnsKeeps kb k0 (Sys2Proof.Machine.execRouteCompute s) := by
  unfold Sys2Proof.Machine.execRouteCompute
  repeat' first
    | with_reducible assumption
    | intro _
    | with_reducible apply Keeps.commitRoutes
    | with_reducible apply Keeps.emit
    | with_reducible apply Keeps.passView
    | with_reducible apply Keeps.ite_fst
    | with_reducible apply Keeps.foldl_fst
    | with_reducible apply Keeps.foldl
    | with_reducible apply Keeps.next
    | with_reducible apply Keeps.ite
    | with_reducible apply Keeps.ans_ite
    | split
    | dsimp only
    | simp only [Keeps.upd]
    | decide +kernel

theorem execPassRoutes {kb : Bool} {k0 s : State} {gen : Fin 65536} {entries : List PassRoute} (hk : Keeps kb k0 s) :
    AnsKeeps kb k0 (Sys2Proof.Machine.execPassRoutes gen entries s) := by
  unfold Sys2Proof.Machine.execPassRoutes
  repeat' first
    | with_reducible assumption
    | with_reducible apply Keeps.emit
    | with_reducible apply Keeps.next
    | with_reducible apply Keeps.ite
    | with_reducible apply Keeps.ans_ite
    | dsimp only
    | simp only [Keeps.upd]
    | decide +kernel

theorem execRoutesAck {kb : Bool} {k0 s : State} {member : Fin 256} {gen : Fin 65536} (hk : Keeps kb k0 s) :
    AnsKeeps kb k0 (Sys2Proof.Machine.execRoutesAck member gen s) := by
  unfold Sys2Proof.Machine.execRoutesAck
  repeat' first
    | with_reducible assumption
    | intro _
    | with_reducible apply Keeps.commitRoutes
    | with_reducible apply Keeps.emit
    | with_reducible apply Keeps.next
    | with_reducible apply Keeps.ite
    | with_reducible apply Keeps.ans_ite
    | split
    | dsimp only
    | simp only [Keeps.upd]
    | decide +kernel

end Keeps

end Sys2Proof.Machine
end

