-- ==== Sys2Proof/Laws/KeepsPassOps.lean ====
section
/-! SUPPORT. What the operations of Machine/PassOps.lean keep. -/

namespace Sys2Proof.Machine

namespace Keeps

set_option Elab.async false
set_option linter.unusedSimpArgs false
set_option linter.unusedVariables false

theorem chargePass {kb : Bool} {k0 s : State} {p : PassPacket} (hk : Keeps kb k0 s) :
    Keeps kb k0 (State.chargePass s p) := by
  unfold State.chargePass
  repeat' first
    | with_reducible assumption
    | with_reducible apply Keeps.charge
    | with_reducible apply Keeps.ite
    | dsimp only
    | simp only [Keeps.upd]
    | decide +kernel

theorem chargeLines {kb : Bool} {k0 s : State} {p : PassPacket} {a : Nat} {n : Nat} {write : Bool} (hk : Keeps kb k0 s) :
    Keeps kb k0 (State.chargeLines s p a n write) := by
  unfold State.chargeLines
  repeat' first
    | with_reducible assumption
    | with_reducible apply Keeps.charge
    | with_reducible apply Keeps.ite
    | dsimp only
    | decide +kernel

theorem routePacket {kb : Bool} {k0 s : State} {type : Nat} {p : PassPacket} (hk : Keeps kb k0 s) :
    Keeps kb k0 (State.routePacket s type p) := by
  unfold State.routePacket
  repeat' first
    | with_reducible assumption
    | with_reducible apply Keeps.inc
    | with_reducible apply Keeps.emit
    | with_reducible apply Keeps.ite
    | split
    | dsimp only
    | decide +kernel

theorem sendPacket {kb : Bool} {k0 s : State} {type : Nat} {p : PassPacket} (hk : Keeps kb k0 s) :
    Keeps kb k0 (State.sendPacket s type p) := by
  unfold State.sendPacket
  repeat' first
    | with_reducible assumption
    | with_reducible apply Keeps.chargePass
    | with_reducible apply Keeps.routePacket
    | with_reducible apply Keeps.ite
    | dsimp only
    | simp only [Keeps.upd]
    | decide +kernel

theorem respond {kb : Bool} {k0 s : State} {type : Nat} {p : PassPacket} {payload : Bytes} {poison : Bool} (hk : Keeps kb k0 s) :
    Keeps kb k0 (State.respond s type p payload poison) := by
  unfold State.respond
  repeat' first
    | with_reducible assumption
    | with_reducible apply Keeps.sendPacket
    | dsimp only
    | decide +kernel

theorem inbound {kb : Bool} {k0 s : State} {p : PassPacket} {n : Nat} {write : Bool} (hk : Keeps kb k0 s) :
    Keeps kb k0 (State.inbound s p n write).1 := by
  unfold State.inbound
  repeat' first
    | with_reducible assumption
    | with_reducible apply Keeps.inc
    | with_reducible apply Keeps.noteDeny
    | with_reducible apply Keeps.ite_fst
    | with_reducible apply Keeps.foldl_fst
    | with_reducible apply Keeps.ite
    | split
    | dsimp only
    | decide +kernel

theorem serveWrite {kb : Bool} {k0 s : State} {p : PassPacket} (hk : Keeps kb k0 s) :
    Keeps kb k0 (State.serveWrite s p) := by
  unfold State.serveWrite
  repeat' first
    | with_reducible assumption
    | intro _
    | with_reducible apply Keeps.chargeLines
    | with_reducible apply Keeps.chargePass
    | with_reducible apply Keeps.inbound
    | with_reducible apply Keeps.memWrite
    | with_reducible apply Keeps.poisonAt
    | with_reducible apply Keeps.respond
    | with_reducible apply Keeps.ite_fst
    | with_reducible apply Keeps.foldl_fst
    | with_reducible apply Keeps.ite
    | (refine Keeps.of_pair (by assumption) ?_)
    | split
    | dsimp only
    | decide +kernel

theorem serveRead {kb : Bool} {k0 s : State} {p : PassPacket} (hk : Keeps kb k0 s) :
    Keeps kb k0 (State.serveRead s p) := by
  unfold State.serveRead
  repeat' first
    | with_reducible assumption
    | with_reducible apply Keeps.chargeLines
    | with_reducible apply Keeps.chargePass
    | with_reducible apply Keeps.inbound
    | with_reducible apply Keeps.readErrs
    | with_reducible apply Keeps.respond
    | with_reducible apply Keeps.ite_fst
    | with_reducible apply Keeps.foldl_fst
    | (refine Keeps.of_pair (by assumption) ?_)
    | split
    | dsimp only
    | decide +kernel

theorem serveLock {kb : Bool} {k0 s : State} {p : PassPacket} (hk : Keeps kb k0 s) :
    Keeps kb k0 (State.serveLock s p) := by
  unfold State.serveLock
  repeat' first
    | with_reducible assumption
    | with_reducible apply Keeps.chargePass
    | with_reducible apply Keeps.respond
    | dsimp only
    | simp only [Keeps.upd]
    | decide +kernel

theorem serveLine {kb : Bool} {k0 s : State} {type : Nat} {p : PassPacket} (hk : Keeps kb k0 s) :
    Keeps kb k0 (State.serveLine s type p) := by
  unfold State.serveLine
  repeat' first
    | with_reducible assumption
    | with_reducible apply Keeps.serveLock
    | with_reducible apply Keeps.serveRead
    | with_reducible apply Keeps.serveWrite
    | with_reducible apply Keeps.ite
    | dsimp only
    | simp only [Keeps.upd]
    | decide +kernel

theorem wakeLines {kb : Bool} {k0 s : State} (hk : Keeps kb k0 s) :
    Keeps kb k0 (State.wakeLines s) := by
  unfold State.wakeLines
  repeat' first
    | with_reducible assumption
    | intro _
    | with_reducible apply Keeps.serveLine
    | with_reducible apply Keeps.ite_fst
    | with_reducible apply Keeps.foldl_fst
    | with_reducible apply Keeps.foldl
    | with_reducible apply Keeps.ite
    | dsimp only
    | simp only [Keeps.upd]
    | decide +kernel

theorem serveUnlock {kb : Bool} {k0 s : State} {p : PassPacket} (hk : Keeps kb k0 s) :
    Keeps kb k0 (State.serveUnlock s p) := by
  unfold State.serveUnlock
  repeat' first
    | with_reducible assumption
    | intro _
    | with_reducible apply Keeps.wakeLines
    | dsimp only
    | simp only [Keeps.upd]
    | decide +kernel

theorem servePoll {kb : Bool} {k0 s : State} {p : PassPacket} (hk : Keeps kb k0 s) :
    Keeps kb k0 (State.servePoll s p) := by
  unfold State.servePoll
  repeat' first
    | with_reducible assumption
    | with_reducible apply Keeps.wr
    | with_reducible apply Keeps.respond
    | with_reducible apply Keeps.ite
    | dsimp only
    | decide +kernel

theorem setReq {kb : Bool} {k0 s : State} {tag : Nat} {f : PassReq → PassReq} (hk : Keeps kb k0 s) :
    Keeps kb k0 (State.setReq s tag f) := by
  unfold State.setReq
  repeat' first
    | with_reducible assumption
    | intro _
    | with_reducible apply Keeps.ite
    | dsimp only
    | simp only [Keeps.upd]
    | decide +kernel

theorem dropReq {kb : Bool} {k0 s : State} {tag : Nat} (hk : Keeps kb k0 s) :
    Keeps kb k0 (State.dropReq s tag) := by
  unfold State.dropReq
  repeat' first
    | with_reducible assumption
    | intro _
    | dsimp only
    | simp only [Keeps.upd]
    | decide +kernel

theorem sendReq {kb : Bool} {k0 s : State} {r : PassReq} {type : Nat} {p : PassPacket} {holds : Bool} (hk : Keeps kb k0 s) :
    Keeps kb k0 (State.sendReq s r type p holds) := by
  unfold State.sendReq
  repeat' first
    | with_reducible assumption
    | intro _
    | with_reducible apply Keeps.sendPacket
    | with_reducible apply Keeps.setReq
    | dsimp only
    | simp only [Keeps.upd]
    | decide +kernel

theorem nextOut {kb : Bool} {k0 s : State} {port : Nat} (hk : Keeps kb k0 s) :
    Keeps kb k0 (State.nextOut s port) := by
  unfold State.nextOut
  repeat' first
    | with_reducible assumption
    | intro _
    | with_reducible apply Keeps.sendReq
    | with_reducible apply Keeps.ite
    | split
    | dsimp only
    | decide +kernel

theorem serveSlot {kb : Bool} {k0 s : State} {type : Nat} {p : PassPacket} (hk : Keeps kb k0 s) :
    Keeps kb k0 (State.serveSlot s type p) := by
  unfold State.serveSlot
  repeat' first
    | with_reducible assumption
    | with_reducible apply Keeps.serveLine
    | dsimp only
    | decide +kernel

theorem slotFree {kb : Bool} {k0 s : State} {port : Nat} (hk : Keeps kb k0 s) :
    Keeps kb k0 (State.slotFree s port) := by
  unfold State.slotFree
  repeat' first
    | with_reducible assumption
    | intro _
    | with_reducible apply Keeps.nextOut
    | with_reducible apply Keeps.serveSlot
    | with_reducible apply Keeps.ite_fst
    | with_reducible apply Keeps.foldl_fst
    | with_reducible apply Keeps.foldl
    | with_reducible apply Keeps.ite
    | dsimp only
    | simp only [Keeps.upd]
    | decide +kernel

theorem slotIn {kb : Bool} {k0 s : State} {port : Nat} {type : Nat} {p : PassPacket} (hk : Keeps kb k0 s) :
    Keeps kb k0 (State.slotIn s port type p) := by
  unfold State.slotIn
  repeat' first
    | with_reducible assumption
    | intro _
    | with_reducible apply Keeps.inc
    | with_reducible apply Keeps.serveSlot
    | with_reducible apply Keeps.setReq
    | with_reducible apply Keeps.slotFree
    | with_reducible apply Keeps.ite
    | split
    | dsimp only
    | simp only [Keeps.upd]
    | simp only [State.inc, State.add, State.wr_frame, Keeps.upd_wr]
    | decide +kernel

theorem request {kb : Bool} {k0 s : State} {kind : ReqKind} {src : Source} {p : PassPacket} (hk : Keeps kb k0 s) :
    Keeps kb k0 (State.request s kind src p) := by
  unfold State.request
  repeat' first
    | with_reducible assumption
    | with_reducible apply Keeps.sendPacket
    | with_reducible apply Keeps.ite
    | split
    | dsimp only
    | simp only [Keeps.upd]
    | decide +kernel

theorem endReq {kb : Bool} {k0 s : State} {r : PassReq} (hk : Keeps kb k0 s) :
    Keeps kb k0 (State.endReq s r) := by
  unfold State.endReq
  repeat' first
    | with_reducible assumption
    | with_reducible apply Keeps.dropReq
    | with_reducible apply Keeps.slotFree
    | with_reducible apply Keeps.ite
    | dsimp only
    | decide +kernel

theorem lockFailed {kb : Bool} {k0 s : State} {r : PassReq} (hk : Keeps kb k0 s) :
    Keeps kb k0 (State.lockFailed s r) := by
  unfold State.lockFailed
  repeat' first
    | with_reducible assumption
    | intro _
    | with_reducible apply Keeps.inc
    | with_reducible apply Keeps.emit
    | with_reducible apply Keeps.endReq
    | with_reducible apply Keeps.sendReq
    | with_reducible apply Keeps.setReq
    | with_reducible apply Keeps.ite
    | split
    | dsimp only
    | simp only [Keeps.upd]
    | simp only [State.inc, State.add, State.wr_frame, Keeps.upd_wr]
    | decide +kernel

theorem lockGranted {kb : Bool} {k0 s : State} {r : PassReq} {ok : Bool} (hk : Keeps kb k0 s) :
    Keeps kb k0 (State.lockGranted s r ok) := by
  unfold State.lockGranted
  repeat' first
    | with_reducible assumption
    | with_reducible apply Keeps.lockFailed
    | with_reducible apply Keeps.sendReq
    | with_reducible apply Keeps.ite
    | split
    | dsimp only
    | simp only [Keeps.upd]
    | decide +kernel

theorem readArrived {kb : Bool} {k0 s : State} {r : PassReq} {data : Bytes} {poison : Bool} (hk : Keeps kb k0 s) :
    Keeps kb k0 (State.readArrived s r data poison) := by
  unfold State.readArrived
  repeat' first
    | with_reducible assumption
    | intro _
    | with_reducible apply Keeps.emit
    | with_reducible apply Keeps.endReq
    | with_reducible apply Keeps.lockFailed
    | with_reducible apply Keeps.sendReq
    | with_reducible apply Keeps.setReq
    | with_reducible apply Keeps.ite_fst
    | with_reducible apply Keeps.foldl_fst
    | with_reducible apply Keeps.ite
    | split
    | dsimp only
    | simp only [Keeps.upd]
    | decide +kernel

theorem sendUnlock {kb : Bool} {k0 s : State} {r : PassReq} (hk : Keeps kb k0 s) :
    Keeps kb k0 (State.sendUnlock s r) := by
  unfold State.sendUnlock
  repeat' first
    | with_reducible assumption
    | with_reducible apply Keeps.sendPacket
    | dsimp only
    | simp only [Keeps.upd]
    | decide +kernel

theorem writeAcked {kb : Bool} {k0 s : State} {r : PassReq} {poison : Bool} (hk : Keeps kb k0 s) :
    Keeps kb k0 (State.writeAcked s r poison) := by
  unfold State.writeAcked
  repeat' first
    | with_reducible assumption
    | with_reducible apply Keeps.emit
    | with_reducible apply Keeps.endReq
    | with_reducible apply Keeps.lockFailed
    | with_reducible apply Keeps.sendUnlock
    | with_reducible apply Keeps.ite
    | split
    | dsimp only
    | decide +kernel

theorem reqTimeout {kb : Bool} {k0 s : State} {r : PassReq} (hk : Keeps kb k0 s) :
    Keeps kb k0 (State.reqTimeout s r) := by
  unfold State.reqTimeout
  repeat' first
    | with_reducible assumption
    | with_reducible apply Keeps.inc
    | with_reducible apply Keeps.lockFailed
    | with_reducible apply Keeps.readArrived
    | with_reducible apply Keeps.writeAcked
    | split
    | dsimp only
    | decide +kernel

theorem deliver {kb : Bool} {k0 s : State} {port : Option Nat} {type : Nat} {p : PassPacket} (hk : Keeps kb k0 s) :
    Keeps kb k0 (State.deliver s port type p) := by
  unfold State.deliver
  repeat' first
    | with_reducible assumption
    | intro _
    | with_reducible apply Keeps.wr
    | with_reducible apply Keeps.chargePass
    | with_reducible apply Keeps.irq
    | with_reducible apply Keeps.lockGranted
    | with_reducible apply Keeps.readArrived
    | with_reducible apply Keeps.serveLine
    | with_reducible apply Keeps.servePoll
    | with_reducible apply Keeps.serveUnlock
    | with_reducible apply Keeps.slotIn
    | with_reducible apply Keeps.writeAcked
    | with_reducible apply Keeps.ite
    | split
    | dsimp only
    | simp only [Keeps.upd]
    | simp only [State.inc, State.add, State.wr_frame, Keeps.upd_wr]
    | decide +kernel

theorem passReceive {kb : Bool} {k0 s : State} {port : Nat} {type : Nat} {p : PassPacket} (hk : Keeps kb k0 s) :
    Keeps kb k0 (State.passReceive s port type p) := by
  unfold State.passReceive
  repeat' first
    | with_reducible assumption
    | with_reducible apply Keeps.inc
    | with_reducible apply Keeps.deliver
    | with_reducible apply Keeps.routePacket
    | with_reducible apply Keeps.ite
    | dsimp only
    | decide +kernel

end Keeps

end Sys2Proof.Machine
end

