-- ==== Sys2Proof/Laws/KeepsPass.lean ====
section
/-! SUPPORT. What the operations of Machine/Pass.lean keep. -/

namespace Sys2Proof.Machine

namespace Keeps

set_option Elab.async false
set_option linter.unusedSimpArgs false
set_option linter.unusedVariables false

theorem execPassWrite {kb : Bool} {k0 s : State} {port : Fin 4} {packet : PassPacket} (hk : Keeps kb k0 s) :
    AnsKeeps kb k0 (Sys2Proof.Machine.execPassWrite port packet s) := by
  unfold Sys2Proof.Machine.execPassWrite
  repeat' first
    | with_reducible assumption
    | with_reducible apply Keeps.passReceive
    | with_reducible apply Keeps.next
    | dsimp only
    | decide +kernel

theorem execPassWriteAck {kb : Bool} {k0 s : State} {port : Fin 4} {packet : PassPacket} (hk : Keeps kb k0 s) :
    AnsKeeps kb k0 (Sys2Proof.Machine.execPassWriteAck port packet s) := by
  unfold Sys2Proof.Machine.execPassWriteAck
  repeat' first
    | with_reducible assumption
    | with_reducible apply Keeps.passReceive
    | with_reducible apply Keeps.next
    | dsimp only
    | decide +kernel

theorem execPassRead {kb : Bool} {k0 s : State} {port : Fin 4} {packet : PassPacket} (hk : Keeps kb k0 s) :
    AnsKeeps kb k0 (Sys2Proof.Machine.execPassRead port packet s) := by
  unfold Sys2Proof.Machine.execPassRead
  repeat' first
    | with_reducible assumption
    | with_reducible apply Keeps.passReceive
    | with_reducible apply Keeps.next
    | dsimp only
    | decide +kernel

theorem execPassReadData {kb : Bool} {k0 s : State} {port : Fin 4} {packet : PassPacket} (hk : Keeps kb k0 s) :
    AnsKeeps kb k0 (Sys2Proof.Machine.execPassReadData port packet s) := by
  unfold Sys2Proof.Machine.execPassReadData
  repeat' first
    | with_reducible assumption
    | with_reducible apply Keeps.passReceive
    | with_reducible apply Keeps.next
    | dsimp only
    | decide +kernel

theorem execPassLock {kb : Bool} {k0 s : State} {port : Fin 4} {packet : PassPacket} (hk : Keeps kb k0 s) :
    AnsKeeps kb k0 (Sys2Proof.Machine.execPassLock port packet s) := by
  unfold Sys2Proof.Machine.execPassLock
  repeat' first
    | with_reducible assumption
    | with_reducible apply Keeps.passReceive
    | with_reducible apply Keeps.next
    | dsimp only
    | decide +kernel

theorem execPassLockGrant {kb : Bool} {k0 s : State} {port : Fin 4} {packet : PassPacket} (hk : Keeps kb k0 s) :
    AnsKeeps kb k0 (Sys2Proof.Machine.execPassLockGrant port packet s) := by
  unfold Sys2Proof.Machine.execPassLockGrant
  repeat' first
    | with_reducible assumption
    | with_reducible apply Keeps.passReceive
    | with_reducible apply Keeps.next
    | dsimp only
    | decide +kernel

theorem execPassUnlock {kb : Bool} {k0 s : State} {port : Fin 4} {packet : PassPacket} (hk : Keeps kb k0 s) :
    AnsKeeps kb k0 (Sys2Proof.Machine.execPassUnlock port packet s) := by
  unfold Sys2Proof.Machine.execPassUnlock
  repeat' first
    | with_reducible assumption
    | with_reducible apply Keeps.passReceive
    | with_reducible apply Keeps.next
    | dsimp only
    | decide +kernel

theorem execSbPoll {kb : Bool} {k0 s : State} {port : Fin 4} {packet : PassPacket} (hk : Keeps kb k0 s) :
    AnsKeeps kb k0 (Sys2Proof.Machine.execSbPoll port packet s) := by
  unfold Sys2Proof.Machine.execSbPoll
  repeat' first
    | with_reducible assumption
    | with_reducible apply Keeps.passReceive
    | with_reducible apply Keeps.next
    | dsimp only
    | decide +kernel

theorem execSbData {kb : Bool} {k0 s : State} {port : Fin 4} {packet : PassPacket} (hk : Keeps kb k0 s) :
    AnsKeeps kb k0 (Sys2Proof.Machine.execSbData port packet s) := by
  unfold Sys2Proof.Machine.execSbData
  repeat' first
    | with_reducible assumption
    | with_reducible apply Keeps.passReceive
    | with_reducible apply Keeps.next
    | dsimp only
    | decide +kernel

theorem tunnelIn {kb : Bool} {k0 s : State} {payload : Bytes} (hk : Keeps kb k0 s) :
    Keeps kb k0 (State.tunnelIn s payload) := by
  unfold State.tunnelIn
  repeat' first
    | with_reducible assumption
    | with_reducible apply Keeps.inc
    | with_reducible apply Keeps.deliver
    | with_reducible apply Keeps.drop
    | with_reducible apply Keeps.routePacket
    | with_reducible apply Keeps.ite_fst
    | with_reducible apply Keeps.foldl_fst
    | with_reducible apply Keeps.ite
    | dsimp only
    | decide +kernel

theorem execTunnelDatagram {kb : Bool} {k0 s : State} {payload : Bytes} (hk : Keeps kb k0 s) :
    AnsKeeps kb k0 (Sys2Proof.Machine.execTunnelDatagram payload s) := by
  unfold Sys2Proof.Machine.execTunnelDatagram
  repeat' first
    | with_reducible assumption
    | with_reducible apply Keeps.tunnelIn
    | with_reducible apply Keeps.next
    | dsimp only
    | decide +kernel

theorem execPollTimer {kb : Bool} {k0 s : State} {entry : Fin 16} (hk : Keeps kb k0 s) :
    AnsKeeps kb k0 (Sys2Proof.Machine.execPollTimer entry s) := by
  unfold Sys2Proof.Machine.execPollTimer
  repeat' first
    | with_reducible assumption
    | with_reducible apply Keeps.sendPacket
    | with_reducible apply Keeps.next
    | with_reducible apply Keeps.ite
    | with_reducible apply Keeps.ans_ite
    | split
    | dsimp only
    | simp only [Keeps.upd]
    | decide +kernel

theorem execPollMiss {kb : Bool} {k0 s : State} {entry : Fin 16} (hk : Keeps kb k0 s) :
    AnsKeeps kb k0 (Sys2Proof.Machine.execPollMiss entry s) := by
  unfold Sys2Proof.Machine.execPollMiss
  repeat' first
    | with_reducible assumption
    | intro _
    | with_reducible apply Keeps.wr
    | with_reducible apply Keeps.passCause
    | with_reducible apply Keeps.next
    | with_reducible apply Keeps.ite
    | with_reducible apply Keeps.ans_ite
    | split
    | dsimp only
    | simp only [Keeps.upd]
    | simp only [State.inc, State.add, State.wr_frame, Keeps.upd_wr]
    | decide +kernel

theorem execSboSet {kb : Bool} {k0 s : State} {src : Source} {word : Fin 16} {set : Nat} (hk : Keeps kb k0 s) :
    AnsKeeps kb k0 (Sys2Proof.Machine.execSboSet src word set s) := by
  unfold Sys2Proof.Machine.execSboSet
  repeat' first
    | with_reducible assumption
    | intro _
    | with_reducible apply Keeps.wr
    | with_reducible apply Keeps.asWho
    | with_reducible apply Keeps.next
    | dsimp only
    | decide +kernel

theorem fabricRefused {kb : Bool} {k0 s : State} {who : Option (Bool × Nat × Nat)} (hk : Keeps kb k0 s) :
    Keeps kb k0 (State.fabricRefused s who) := by
  unfold State.fabricRefused
  repeat' first
    | with_reducible assumption
    | with_reducible apply Keeps.inc
    | split
    | dsimp only
    | decide +kernel

theorem delayedRead {kb : Bool} {k0 s : State} {src : Source} {p : PassPacket} (hk : Keeps kb k0 s) :
    Keeps kb k0 (State.delayedRead s src p) := by
  unfold State.delayedRead
  repeat' first
    | with_reducible assumption
    | intro _
    | with_reducible apply Keeps.emit
    | with_reducible apply Keeps.request
    | with_reducible apply Keeps.ite
    | split
    | dsimp only
    | simp only [Keeps.upd]
    | decide +kernel

theorem execFabricLr {kb : Bool} {k0 s : State} {src : Source} {addr : Nat} (hk : Keeps kb k0 s) :
    AnsKeeps kb k0 (Sys2Proof.Machine.execFabricLr src addr s) := by
  unfold Sys2Proof.Machine.execFabricLr
  repeat' first
    | with_reducible assumption
    | with_reducible apply Keeps.emit
    | with_reducible apply Keeps.fabricRefused
    | with_reducible apply Keeps.request
    | with_reducible apply Keeps.next
    | with_reducible apply Keeps.ite
    | with_reducible apply Keeps.ans_ite
    | dsimp only
    | decide +kernel

theorem execFabricSc {kb : Bool} {k0 s : State} {src : Source} {addr : Nat} {data : Bytes} (hk : Keeps kb k0 s) :
    AnsKeeps kb k0 (Sys2Proof.Machine.execFabricSc src addr data s) := by
  unfold Sys2Proof.Machine.execFabricSc
  repeat' first
    | with_reducible assumption
    | intro _
    | with_reducible apply Keeps.inc
    | with_reducible apply Keeps.emit
    | with_reducible apply Keeps.fabricRefused
    | with_reducible apply Keeps.sendPacket
    | with_reducible apply Keeps.ite_fst
    | with_reducible apply Keeps.foldl_fst
    | with_reducible apply Keeps.next
    | with_reducible apply Keeps.ite
    | with_reducible apply Keeps.ans_ite
    | split
    | dsimp only
    | simp only [Keeps.upd]
    | simp only [State.inc, State.add, State.wr_frame, Keeps.upd_wr]
    | decide +kernel

theorem execFabricAmo {kb : Bool} {k0 s : State} {src : Source} {addr : Nat} {op : AmoOp} {wide : Bool} {value : Nat} (hk : Keeps kb k0 s) :
    AnsKeeps kb k0 (Sys2Proof.Machine.execFabricAmo src addr op wide value s) := by
  unfold Sys2Proof.Machine.execFabricAmo
  repeat' first
    | with_reducible assumption
    | with_reducible apply Keeps.emit
    | with_reducible apply Keeps.fabricRefused
    | with_reducible apply Keeps.request
    | with_reducible apply Keeps.next
    | with_reducible apply Keeps.ite
    | with_reducible apply Keeps.ans_ite
    | dsimp only
    | decide +kernel

theorem execRequestTimeout {kb : Bool} {k0 s : State} {tag : Fin 65536} (hk : Keeps kb k0 s) :
    AnsKeeps kb k0 (Sys2Proof.Machine.execRequestTimeout tag s) := by
  unfold Sys2Proof.Machine.execRequestTimeout
  repeat' first
    | with_reducible assumption
    | intro _
    | with_reducible apply Keeps.reqTimeout
    | with_reducible apply Keeps.next
    | split
    | dsimp only
    | decide +kernel

theorem execLockHoldExpiry {kb : Bool} {k0 s : State} (hk : Keeps kb k0 s) :
    AnsKeeps kb k0 (Sys2Proof.Machine.execLockHoldExpiry s) := by
  unfold Sys2Proof.Machine.execLockHoldExpiry
  repeat' first
    | with_reducible assumption
    | intro _
    | with_reducible apply Keeps.wakeLines
    | with_reducible apply Keeps.next
    | with_reducible apply Keeps.ite
    | with_reducible apply Keeps.ans_ite
    | dsimp only
    | simp only [Keeps.upd]
    | decide +kernel

theorem execLockWaitTimeout {kb : Bool} {k0 s : State} (hk : Keeps kb k0 s) :
    AnsKeeps kb k0 (Sys2Proof.Machine.execLockWaitTimeout s) := by
  unfold Sys2Proof.Machine.execLockWaitTimeout
  repeat' first
    | with_reducible assumption
    | intro _
    | with_reducible apply Keeps.respond
    | with_reducible apply Keeps.ite_fst
    | with_reducible apply Keeps.foldl_fst
    | with_reducible apply Keeps.foldl
    | with_reducible apply Keeps.next
    | dsimp only
    | simp only [Keeps.upd]
    | decide +kernel

theorem execDelayedReadExpiry {kb : Bool} {k0 s : State} {port : Fin 4} (hk : Keeps kb k0 s) :
    AnsKeeps kb k0 (Sys2Proof.Machine.execDelayedReadExpiry port s) := by
  unfold Sys2Proof.Machine.execDelayedReadExpiry
  repeat' first
    | with_reducible assumption
    | intro _
    | with_reducible apply Keeps.add
    | with_reducible apply Keeps.next
    | dsimp only
    | simp only [Keeps.upd]
    | simp only [State.inc, State.add, State.wr_frame, Keeps.upd_wr]
    | decide +kernel

end Keeps

end Sys2Proof.Machine
end

