-- ==== Sys2Proof/Laws/KeepsTime.lean ====
section
/-! SUPPORT. What the operations of Machine/Time.lean keep. -/

namespace Sys2Proof.Machine

namespace Keeps

set_option Elab.async false
set_option linter.unusedSimpArgs false
set_option linter.unusedVariables false

theorem snap {kb : Bool} {k0 s : State} (hk : Keeps kb k0 s) :
    Keeps kb k0 (State.snap s) := by
  unfold State.snap
  repeat' first
    | with_reducible assumption
    | intro _
    | with_reducible apply Keeps.wr
    | with_reducible apply Keeps.each
    | dsimp only
    | decide +kernel

theorem execSnap {kb : Bool} {k0 s : State} {src : Source} (hk : Keeps kb k0 s) :
    AnsKeeps kb k0 (Sys2Proof.Machine.execSnap src s) := by
  unfold Sys2Proof.Machine.execSnap
  repeat' first
    | with_reducible assumption
    | with_reducible apply Keeps.asWho
    | with_reducible apply Keeps.snap
    | with_reducible apply Keeps.next
    | dsimp only
    | decide +kernel

theorem setInc {kb : Bool} {k0 s : State} {n v : Nat} (hk : Keeps kb k0 s) : Keeps kb k0 (s.setInc n v) := by
  unfold State.setInc
  refine ite hk ?_
  split
  · exact wr (wr_within incLow incHigh hk (by decide +kernel) (by decide) (by decide)) (by decide +kernel)
  · split
    · exact wr (wr_within incLow incHigh hk (by decide +kernel) (by decide) (by decide)) (by decide +kernel)
    · exact wr_within incLow incHigh hk (by decide +kernel) (by omega) (by decide)

theorem execTbIncWrite {kb : Bool} {k0 s : State} {src : Source} {base : Fin 4} {value : Nat} (hk : Keeps kb k0 s) :
    AnsKeeps kb k0 (Sys2Proof.Machine.execTbIncWrite src base value s) := by
  unfold Sys2Proof.Machine.execTbIncWrite
  repeat' first
    | with_reducible assumption
    | intro _
    | with_reducible apply Keeps.asWho
    | with_reducible apply Keeps.setInc
    | with_reducible apply Keeps.next
    | dsimp only
    | decide +kernel

theorem holdLow {kb : Bool} {k0 s : State} {n : Nat} {low : Nat} (hk : Keeps kb k0 s) :
    Keeps kb k0 (State.holdLow s n low) := by
  unfold State.holdLow
  repeat' first
    | with_reducible assumption
    | with_reducible apply Keeps.ite
    | dsimp only
    | simp only [Keeps.upd]
    | decide +kernel

theorem execTbOfsLowWrite {kb : Bool} {k0 s : State} {src : Source} {base : Fin 4} {low : Nat} (hk : Keeps kb k0 s) :
    AnsKeeps kb k0 (Sys2Proof.Machine.execTbOfsLowWrite src base low s) := by
  unfold Sys2Proof.Machine.execTbOfsLowWrite
  repeat' first
    | with_reducible assumption
    | intro _
    | with_reducible apply Keeps.asWho
    | with_reducible apply Keeps.holdLow
    | with_reducible apply Keeps.next
    | dsimp only
    | decide +kernel

theorem formStep {kb : Bool} {k0 s : State} {n : Nat} {ofs : Int} (hk : Keeps kb k0 s) :
    Keeps kb k0 (State.formStep s n ofs) := by
  unfold State.formStep
  repeat' first
    | with_reducible assumption
    | with_reducible apply Keeps.ite
    | dsimp only
    | simp only [Keeps.upd]
    | decide +kernel

theorem writeOfs {kb : Bool} {k0 s : State} {n : Nat} {high : Nat} {low : Option Nat} (hk : Keeps kb k0 s) :
    Keeps kb k0 (State.writeOfs s n high low) := by
  unfold State.writeOfs
  repeat' first
    | with_reducible assumption
    | with_reducible apply Keeps.formStep
    | dsimp only
    | decide +kernel

theorem execTimeStep {kb : Bool} {k0 s : State} {src : Source} {base : Fin 4} {high : Nat} {low : Option Nat} (hk : Keeps kb k0 s) :
    AnsKeeps kb k0 (Sys2Proof.Machine.execTimeStep src base high low s) := by
  unfold Sys2Proof.Machine.execTimeStep
  repeat' first
    | with_reducible assumption
    | intro _
    | with_reducible apply Keeps.asWho
    | with_reducible apply Keeps.writeOfs
    | with_reducible apply Keeps.next
    | dsimp only
    | decide +kernel

theorem gptpMessage {kb : Bool} {k0 s : State} {port : Nat} {i : GptpInfo} (hk : Keeps kb k0 s) :
    Keeps kb k0 (State.gptpMessage s port i) := by
  unfold State.gptpMessage
  repeat' first
    | with_reducible assumption
    | with_reducible apply Keeps.formStep
    | with_reducible apply Keeps.setInc
    | with_reducible apply Keeps.ite
    | split
    | dsimp only
    | simp only [Keeps.upd]
    | decide +kernel

theorem execGptpSyncSend {kb : Bool} {k0 s : State} {domain : Fin 3} (hk : Keeps kb k0 s) :
    AnsKeeps kb k0 (Sys2Proof.Machine.execGptpSyncSend domain s) := by
  unfold Sys2Proof.Machine.execGptpSyncSend
  repeat' first
    | with_reducible assumption
    | intro _
    | with_reducible apply Keeps.emit
    | with_reducible apply Keeps.each
    | with_reducible apply Keeps.next
    | with_reducible apply Keeps.ite
    | with_reducible apply Keeps.ans_ite
    | dsimp only
    | simp only [Keeps.upd]
    | decide +kernel

theorem execPdelaySend {kb : Bool} {k0 s : State} {port : Fin 10} (hk : Keeps kb k0 s) :
    AnsKeeps kb k0 (Sys2Proof.Machine.execPdelaySend port s) := by
  unfold Sys2Proof.Machine.execPdelaySend
  repeat' first
    | with_reducible assumption
    | intro _
    | with_reducible apply Keeps.emit
    | with_reducible apply Keeps.next
    | with_reducible apply Keeps.ite
    | with_reducible apply Keeps.ans_ite
    | dsimp only
    | simp only [Keeps.upd]
    | decide +kernel

theorem execGrandmasterLoss {kb : Bool} {k0 s : State} {domain : Fin 3} (hk : Keeps kb k0 s) :
    AnsKeeps kb k0 (Sys2Proof.Machine.execGrandmasterLoss domain s) := by
  unfold Sys2Proof.Machine.execGrandmasterLoss
  repeat' first
    | with_reducible assumption
    | with_reducible apply Keeps.next
    | dsimp only
    | simp only [Keeps.upd]
    | decide +kernel

end Keeps

end Sys2Proof.Machine
end

