-- ==== Sys2Proof/Laws/KeepsSwitchOps.lean ====
section
/-! SUPPORT. What the operations of Machine/SwitchOps.lean keep. -/

namespace Sys2Proof.Machine

namespace Keeps

set_option Elab.async false
set_option linter.unusedSimpArgs false
set_option linter.unusedVariables false

theorem setCont {kb : Bool} {k0 s : State} {i : Nat} {x : ContRt} (hk : Keeps kb k0 s) :
    Keeps kb k0 (State.setCont s i x) := by
  unfold State.setCont
  repeat' first
    | with_reducible assumption
    | dsimp only
    | simp only [Keeps.upd]
    | decide +kernel

theorem contFlush {kb : Bool} {k0 s : State} {i : Nat} {a : Nat} (hk : Keeps kb k0 s) :
    Keeps kb k0 (State.contFlush s i a) := by
  unfold State.contFlush
  repeat' first
    | with_reducible assumption
    | with_reducible apply Keeps.setCont
    | with_reducible apply Keeps.ite
    | split
    | dsimp only
    | simp only [Keeps.upd]
    | decide +kernel

theorem applyRoute {kb : Bool} {k0 s : State} {r : Nat} {payload : Bytes} {a : Nat} (hk : Keeps kb k0 s) :
    Keeps kb k0 (State.applyRoute s r payload a) := by
  unfold State.applyRoute
  repeat' first
    | with_reducible assumption
    | intro _
    | with_reducible apply Keeps.inc
    | with_reducible apply Keeps.contFlush
    | with_reducible apply Keeps.setCont
    | with_reducible apply Keeps.ite_fst
    | with_reducible apply Keeps.foldl_fst
    | with_reducible apply Keeps.ite
    | dsimp only
    | simp only [Keeps.upd]
    | simp only [State.inc, State.add, State.wr_frame, Keeps.upd_wr]
    | decide +kernel

theorem contReceive {kb : Bool} {k0 s : State} {i : Nat} {payload : Bytes} {a : Nat} (hk : Keeps kb k0 s) :
    Keeps kb k0 (State.contReceive s i payload a) := by
  unfold State.contReceive
  repeat' first
    | with_reducible assumption
    | intro _
    | with_reducible apply Keeps.applyRoute
    | with_reducible apply Keeps.each
    | with_reducible apply Keeps.ite
    | dsimp only
    | decide +kernel

theorem toContainers {kb : Bool} {k0 s : State} {p : Nat → Bool} {payload : Bytes} {a : Nat} (hk : Keeps kb k0 s) :
    Keeps kb k0 (State.toContainers s p payload a) := by
  unfold State.toContainers
  repeat' first
    | with_reducible assumption
    | intro _
    | with_reducible apply Keeps.contReceive
    | with_reducible apply Keeps.each
    | with_reducible apply Keeps.ite
    | dsimp only
    | decide +kernel

theorem showStamps {kb : Bool} {k0 s : State} {p : Nat} (hk : Keeps kb k0 s) :
    Keeps kb k0 (State.showStamps s p) := by
  unfold State.showStamps
  repeat' first
    | with_reducible assumption
    | intro _
    | with_reducible apply Keeps.wr
    | dsimp only
    | decide +kernel

theorem leaveStamp {kb : Bool} {k0 s : State} {e : Egress} (hk : Keeps kb k0 s) :
    Keeps kb k0 (State.leaveStamp s e) := by
  unfold State.leaveStamp
  repeat' first
    | with_reducible assumption
    | with_reducible apply Keeps.drawn
    | with_reducible apply Keeps.ite
    | split
    | dsimp only
    | simp only [Keeps.upd]
    | decide +kernel

theorem hostRx {kb : Bool} {k0 s : State} {q : Nat} {ingress : Nat} {vid : Nat} {base : Nat} {stamp : Nat} {f : Bytes} (hk : Keeps kb k0 s) :
    Keeps kb k0 (State.hostRx s q ingress vid base stamp f) := by
  unfold State.hostRx
  repeat' first
    | with_reducible assumption
    | with_reducible apply Keeps.inc
    | with_reducible apply Keeps.wr
    | with_reducible apply Keeps.ctxWrite
    | with_reducible apply Keeps.ite
    | dsimp only
    | simp only [Keeps.upd]
    | simp only [State.inc, State.add, State.wr_frame, Keeps.upd_wr]
    | decide +kernel

theorem takeDatagram {k0 s : State} {vid : Nat} {u : UdpView} {kw : State} (hk : Keeps false k0 s)
    (e : State.takeDatagram s vid u = some kw) : Keeps false k0 kw := by
  unfold State.takeDatagram at e
  dsimp only at e
  split at e
  · cases e
    exact foldl (fun t x ht => toContainers ht) hk
  · split at e
    · cases e; exact tunnelIn hk
    · split at e
      · cases e; exact ite (attestDatagram hk) (depotDatagram hk)
      · cases e

theorem hostPort {k0 s : State} {ingress : Nat} {rx : Nat} {rs : Nat} {f : Bytes} (hk : Keeps false k0 s) :
    Keeps false k0 (State.hostPort s ingress rx rs f) := by
  unfold State.hostPort
  split
  · exact hk
  · split
    · exact lidarPayload hk
    · split
      · next e =>
        obtain ⟨_, _, ht⟩ := Option.bind_eq_some_iff.1 e
        exact takeDatagram hk ht
      · exact hostRx hk

theorem leave {k0 s : State} {e : Egress} (hk : Keeps false k0 s) :
    Keeps false k0 (State.leave s e) := by
  unfold State.leave
  repeat' first
    | with_reducible assumption
    | with_reducible apply Keeps.emit
    | with_reducible apply Keeps.hostPort
    | with_reducible apply Keeps.leaveStamp
    | with_reducible apply Keeps.ite
    | dsimp only
    | decide +kernel

theorem egress {k0 s : State} {e : Egress} (hk : Keeps false k0 s) :
    Keeps false k0 (State.egress s e) := by
  unfold State.egress
  repeat' first
    | with_reducible assumption
    | intro _
    | with_reducible apply Keeps.inc
    | with_reducible apply Keeps.dropStamp
    | with_reducible apply Keeps.leave
    | with_reducible apply Keeps.ite
    | dsimp only
    | simp only [Keeps.upd]
    | simp only [State.inc, State.add, State.wr_frame, Keeps.upd_wr]
    | decide +kernel

theorem drainPort {k0 s : State} {p : Nat} (hk : Keeps false k0 s) :
    Keeps false k0 (State.drainPort s p) := by
  unfold State.drainPort
  repeat' first
    | with_reducible assumption
    | intro _
    | with_reducible apply Keeps.egress
    | with_reducible apply Keeps.leave
    | with_reducible apply Keeps.foldl
    | with_reducible apply Keeps.ite
    | dsimp only
    | simp only [Keeps.upd]
    | decide +kernel

theorem learn {kb : Bool} {k0 s : State} {e : EthView} {port : Nat} (hk : Keeps kb k0 s) :
    Keeps kb k0 (State.learn s e port) := by
  unfold State.learn
  repeat' first
    | with_reducible assumption
    | intro _
    | with_reducible apply Keeps.ite_fst
    | with_reducible apply Keeps.foldl_fst
    | with_reducible apply Keeps.ite
    | dsimp only
    | simp only [Keeps.upd]
    | decide +kernel

theorem forward {k0 s : State} {from_ : Nat} {rx : Nat} {rxSensor : Nat} {f : Bytes} (hk : Keeps false k0 s) :
    Keeps false k0 (State.forward s from_ rx rxSensor f) := by
  unfold State.forward
  repeat' first
    | with_reducible assumption
    | intro _
    | with_reducible apply Keeps.inc
    | with_reducible apply Keeps.drawn
    | with_reducible apply Keeps.egress
    | with_reducible apply Keeps.learn
    | with_reducible apply Keeps.foldl
    | with_reducible apply Keeps.ite
    | split
    | dsimp only
    | decide +kernel

end Keeps

end Sys2Proof.Machine
end

