-- ==== Sys2Proof/Laws/KeepsGateway.lean ====
section
/-! SUPPORT. What the operations of Machine/Gateway.lean keep. -/

namespace Sys2Proof.Machine

namespace Keeps

set_option Elab.async false
set_option linter.unusedSimpArgs false
set_option linter.unusedVariables false

theorem execEthFrameReceive {k0 s : State} {port : Fin 10} {frame : Bytes} {gptp : Option GptpInfo} (hk : Keeps false k0 s) :
    AnsKeeps false k0 (Sys2Proof.Machine.execEthFrameReceive port frame gptp s) := by
  unfold Sys2Proof.Machine.execEthFrameReceive
  repeat' first
    | with_reducible assumption
    | with_reducible apply Keeps.inc
    | with_reducible apply Keeps.forward
    | with_reducible apply Keeps.gptpMessage
    | with_reducible apply Keeps.next
    | with_reducible apply Keeps.ite
    | with_reducible apply Keeps.ans_ite
    | split
    | dsimp only
    | decide +kernel

theorem hostTx {k0 s : State} {d : Bytes} {f : Bytes} (hk : Keeps false k0 s) :
    Keeps false k0 (State.hostTx s d f) := by
  unfold State.hostTx
  repeat' first
    | with_reducible assumption
    | with_reducible apply Keeps.inc
    | with_reducible apply Keeps.dropStamp
    | with_reducible apply Keeps.egress
    | with_reducible apply Keeps.forward
    | with_reducible apply Keeps.ite
    | split
    | dsimp only
    | decide +kernel

theorem execEthTransmit {k0 s : State} {ring : Fin 8} (hk : Keeps false k0 s) :
    AnsKeeps false k0 (Sys2Proof.Machine.execEthTransmit ring s) := by
  unfold Sys2Proof.Machine.execEthTransmit
  repeat' first
    | with_reducible assumption
    | with_reducible apply Keeps.wr
    | with_reducible apply Keeps.ctxTouch
    | with_reducible apply Keeps.hostTx
    | with_reducible apply Keeps.next
    | with_reducible apply Keeps.ite
    | with_reducible apply Keeps.ans_ite
    | dsimp only
    | decide +kernel

theorem execTxTimestamp {kb : Bool} {k0 s : State} {port : Fin 10} (hk : Keeps kb k0 s) :
    AnsKeeps kb k0 (Sys2Proof.Machine.execTxTimestamp port s) := by
  unfold Sys2Proof.Machine.execTxTimestamp
  repeat' first
    | with_reducible assumption
    | intro _
    | with_reducible apply Keeps.inc
    | with_reducible apply Keeps.wr
    | with_reducible apply Keeps.showStamps
    | with_reducible apply Keeps.next
    | with_reducible apply Keeps.ite
    | with_reducible apply Keeps.ans_ite
    | split
    | dsimp only
    | simp only [Keeps.upd]
    | simp only [State.inc, State.add, State.wr_frame, Keeps.upd_wr]
    | decide +kernel

theorem popStamp {kb : Bool} {k0 s : State} {p : Nat} (hk : Keeps kb k0 s) :
    Keeps kb k0 (State.popStamp s p) := by
  unfold State.popStamp
  repeat' first
    | with_reducible assumption
    | intro _
    | with_reducible apply Keeps.showStamps
    | split
    | dsimp only
    | simp only [Keeps.upd]
    | decide +kernel

theorem execTxtsPop {kb : Bool} {k0 s : State} {src : Source} {port : Fin 10} (hk : Keeps kb k0 s) :
    AnsKeeps kb k0 (Sys2Proof.Machine.execTxtsPop src port s) := by
  unfold Sys2Proof.Machine.execTxtsPop
  repeat' first
    | with_reducible assumption
    | intro _
    | with_reducible apply Keeps.asWho
    | with_reducible apply Keeps.popStamp
    | with_reducible apply Keeps.next
    | dsimp only
    | decide +kernel

theorem setGateWord {kb : Bool} {k0 s : State} {p : Nat} {w : Nat} {v : Nat} (hk : Keeps kb k0 s) :
    Keeps kb k0 (State.setGateWord s p w v) := by
  unfold State.setGateWord
  repeat' first
    | with_reducible assumption
    | dsimp only
    | simp only [Keeps.upd]
    | decide +kernel

theorem swapGates {kb : Bool} {k0 s : State} {p : Nat} (hk : Keeps kb k0 s) :
    Keeps kb k0 (State.swapGates s p) := by
  unfold State.swapGates
  repeat' first
    | with_reducible assumption
    | intro _
    | with_reducible apply Keeps.setGateWord
    | with_reducible apply Keeps.each
    | with_reducible apply Keeps.ite
    | dsimp only
    | decide +kernel

theorem setGates {kb : Bool} {k0 s : State} {p : Nat} (hk : Keeps kb k0 s) :
    Keeps kb k0 (State.setGates s p) := by
  unfold State.setGates
  repeat' first
    | with_reducible assumption
    | with_reducible apply Keeps.ite_fst
    | with_reducible apply Keeps.foldl_fst
    | with_reducible apply Keeps.ite
    | split
    | dsimp only
    | simp only [Keeps.upd]
    | decide +kernel

theorem execGateInterval {k0 s : State} {port : Fin 10} (hk : Keeps false k0 s) :
    AnsKeeps false k0 (Sys2Proof.Machine.execGateInterval port s) := by
  unfold Sys2Proof.Machine.execGateInterval
  repeat' first
    | with_reducible assumption
    | with_reducible apply Keeps.drainPort
    | with_reducible apply Keeps.setGates
    | with_reducible apply Keeps.swapGates
    | with_reducible apply Keeps.next
    | with_reducible apply Keeps.ite
    | with_reducible apply Keeps.ans_ite
    | split
    | dsimp only
    | decide +kernel

theorem execEthPortLinkChange {kb : Bool} {k0 s : State} {port : Fin 10} {up : Bool} (hk : Keeps kb k0 s) :
    AnsKeeps kb k0 (Sys2Proof.Machine.execEthPortLinkChange port up s) := by
  unfold Sys2Proof.Machine.execEthPortLinkChange
  repeat' first
    | with_reducible assumption
    | with_reducible apply Keeps.wr
    | with_reducible apply Keeps.dropEgress
    | with_reducible apply Keeps.next
    | with_reducible apply Keeps.ite
    | with_reducible apply Keeps.ans_ite
    | dsimp only
    | decide +kernel

theorem execSwitchRun {kb : Bool} {k0 s : State} {src : Source} (hk : Keeps kb k0 s) :
    AnsKeeps kb k0 (Sys2Proof.Machine.execSwitchRun src s) := by
  unfold Sys2Proof.Machine.execSwitchRun
  repeat' first
    | with_reducible assumption
    | intro _
    | with_reducible apply Keeps.wr
    | with_reducible apply Keeps.asWho
    | with_reducible apply Keeps.next
    | dsimp only
    | decide +kernel

theorem canRing {kb : Bool} {k0 s : State} {c : Nat} {f : CanFrame} (hk : Keeps kb k0 s) :
    Keeps kb k0 (State.canRing s c f) := by
  unfold State.canRing
  repeat' first
    | with_reducible assumption
    | with_reducible apply Keeps.inc
    | with_reducible apply Keeps.wr
    | with_reducible apply Keeps.ctxWrite
    | with_reducible apply Keeps.ite
    | dsimp only
    | simp only [Keeps.upd]
    | simp only [State.inc, State.add, State.wr_frame, Keeps.upd_wr]
    | decide +kernel

theorem execCanFrameReceive {k0 s : State} {ctl : Fin 16} {frame : CanFrame} (hk : Keeps false k0 s) :
    AnsKeeps false k0 (Sys2Proof.Machine.execCanFrameReceive ctl frame s) := by
  unfold Sys2Proof.Machine.execCanFrameReceive
  repeat' first
    | with_reducible assumption
    | intro _
    | with_reducible apply Keeps.canIngest
    | with_reducible apply Keeps.canRing
    | with_reducible apply Keeps.toContainers
    | with_reducible apply Keeps.wake
    | with_reducible apply Keeps.next
    | with_reducible apply Keeps.ite
    | with_reducible apply Keeps.ans_ite
    | dsimp only
    | decide +kernel

theorem execCanTransmit {kb : Bool} {k0 s : State} {ctl : Fin 14} (hk : Keeps kb k0 s) :
    AnsKeeps kb k0 (Sys2Proof.Machine.execCanTransmit ctl s) := by
  unfold Sys2Proof.Machine.execCanTransmit
  repeat' first
    | with_reducible assumption
    | with_reducible apply Keeps.wr
    | with_reducible apply Keeps.ctxTouch
    | with_reducible apply Keeps.emit
    | with_reducible apply Keeps.next
    | with_reducible apply Keeps.ite
    | with_reducible apply Keeps.ans_ite
    | dsimp only
    | decide +kernel

theorem execBusOff {kb : Bool} {k0 s : State} {ctl : Fin 16} (hk : Keeps kb k0 s) :
    AnsKeeps kb k0 (Sys2Proof.Machine.execBusOff ctl s) := by
  unfold Sys2Proof.Machine.execBusOff
  repeat' first
    | with_reducible assumption
    | with_reducible apply Keeps.wr
    | with_reducible apply Keeps.sendStatus
    | with_reducible apply Keeps.next
    | with_reducible apply Keeps.ite
    | with_reducible apply Keeps.ans_ite
    | dsimp only
    | decide +kernel

theorem execBusOffRecovery {kb : Bool} {k0 s : State} {ctl : Fin 16} (hk : Keeps kb k0 s) :
    AnsKeeps kb k0 (Sys2Proof.Machine.execBusOffRecovery ctl s) := by
  unfold Sys2Proof.Machine.execBusOffRecovery
  repeat' first
    | with_reducible assumption
    | with_reducible apply Keeps.wr
    | with_reducible apply Keeps.next
    | with_reducible apply Keeps.ite
    | with_reducible apply Keeps.ans_ite
    | dsimp only
    | decide +kernel

theorem sendCont {kb : Bool} {k0 s : State} {i : Nat} {image : Bytes} (hk : Keeps kb k0 s) :
    Keeps kb k0 (State.sendCont s i image) := by
  unfold State.sendCont
  repeat' first
    | with_reducible assumption
    | with_reducible apply Keeps.emit
    | with_reducible apply Keeps.ite
    | dsimp only
    | decide +kernel

theorem execContainerSend {kb : Bool} {k0 s : State} {container : Fin 1024} (hk : Keeps kb k0 s) :
    AnsKeeps kb k0 (Sys2Proof.Machine.execContainerSend container s) := by
  unfold Sys2Proof.Machine.execContainerSend
  repeat' first
    | with_reducible assumption
    | with_reducible apply Keeps.sendCont
    | with_reducible apply Keeps.setCont
    | with_reducible apply Keeps.next
    | with_reducible apply Keeps.ite
    | with_reducible apply Keeps.ans_ite
    | split
    | dsimp only
    | simp only [Keeps.upd]
    | decide +kernel

theorem contValid {kb : Bool} {k0 s : State} {i : Nat} (hk : Keeps kb k0 s) :
    Keeps kb k0 (State.contValid s i) := by
  unfold State.contValid
  repeat' first
    | with_reducible assumption
    | with_reducible apply Keeps.inc
    | with_reducible apply Keeps.wr
    | with_reducible apply Keeps.setCont
    | with_reducible apply Keeps.ite
    | dsimp only
    | decide +kernel

theorem execContainerValid {kb : Bool} {k0 s : State} {src : Source} {container : Fin 1024} (hk : Keeps kb k0 s) :
    AnsKeeps kb k0 (Sys2Proof.Machine.execContainerValid src container s) := by
  unfold Sys2Proof.Machine.execContainerValid
  repeat' first
    | with_reducible assumption
    | intro _
    | with_reducible apply Keeps.asWho
    | with_reducible apply Keeps.contValid
    | with_reducible apply Keeps.next
    | dsimp only
    | decide +kernel

theorem routeValid {kb : Bool} {k0 s : State} {r : Nat} (hk : Keeps kb k0 s) :
    Keeps kb k0 (State.routeValid s r) := by
  unfold State.routeValid
  repeat' first
    | with_reducible assumption
    | with_reducible apply Keeps.inc
    | with_reducible apply Keeps.wr
    | with_reducible apply Keeps.ite
    | dsimp only
    | decide +kernel

theorem execRouteValid {kb : Bool} {k0 s : State} {src : Source} {route : Fin 4096} (hk : Keeps kb k0 s) :
    AnsKeeps kb k0 (Sys2Proof.Machine.execRouteValid src route s) := by
  unfold Sys2Proof.Machine.execRouteValid
  repeat' first
    | with_reducible assumption
    | intro _
    | with_reducible apply Keeps.asWho
    | with_reducible apply Keeps.routeValid
    | with_reducible apply Keeps.next
    | dsimp only
    | decide +kernel

end Keeps

end Sys2Proof.Machine
end

