-- ==== Sys2Proof/Laws/KeepsOuter.lean ====
section
/-! SUPPORT. What the operations of Machine/Outer.lean keep. -/

namespace Sys2Proof.Machine

namespace Keeps

set_option Elab.async false
set_option linter.unusedSimpArgs false
set_option linter.unusedVariables false

theorem execMtimecmpMatch {kb : Bool} {k0 s : State} {hart : Fin 16} (hk : Keeps kb k0 s) :
    AnsKeeps kb k0 (Sys2Proof.Machine.execMtimecmpMatch hart s) := by
  unfold Sys2Proof.Machine.execMtimecmpMatch
  repeat' first
    | with_reducible assumption
    | with_reducible apply Keeps.emit
    | with_reducible apply Keeps.next
    | with_reducible apply Keeps.ite
    | with_reducible apply Keeps.ans_ite
    | dsimp only
    | simp only [Keeps.upd]
    | decide +kernel

theorem i2cGo {kb : Bool} {k0 s : State} {r : Nat} (hk : Keeps kb k0 s) :
    Keeps kb k0 (State.i2cGo s r) := by
  unfold State.i2cGo
  repeat' first
    | with_reducible assumption
    | with_reducible apply Keeps.wr
    | with_reducible apply Keeps.emit
    | with_reducible apply Keeps.ite
    | dsimp only
    | simp only [Keeps.upd]
    | simp only [State.inc, State.add, State.wr_frame, Keeps.upd_wr]
    | decide +kernel

theorem execI2cGo {kb : Bool} {k0 s : State} {src : Source} {receiver : Fin 12} (hk : Keeps kb k0 s) :
    AnsKeeps kb k0 (Sys2Proof.Machine.execI2cGo src receiver s) := by
  unfold Sys2Proof.Machine.execI2cGo
  repeat' first
    | with_reducible assumption
    | intro _
    | with_reducible apply Keeps.asWho
    | with_reducible apply Keeps.i2cGo
    | with_reducible apply Keeps.next
    | dsimp only
    | decide +kernel

theorem i2cEnd {kb : Bool} {k0 s : State} {r : Nat} {result : Nat} {data : Bytes} (hk : Keeps kb k0 s) :
    Keeps kb k0 (State.i2cEnd s r result data) := by
  unfold State.i2cEnd
  repeat' first
    | with_reducible assumption
    | with_reducible apply Keeps.wr
    | dsimp only
    | simp only [Keeps.upd]
    | simp only [State.inc, State.add, State.wr_frame, Keeps.upd_wr]
    | decide +kernel

theorem i2cCut {kb : Bool} {k0 s : State} {r : Nat} {result : Nat} (hk : Keeps kb k0 s) :
    Keeps kb k0 (State.i2cCut s r result) := by
  unfold State.i2cCut
  repeat' first
    | with_reducible assumption
    | with_reducible apply Keeps.drawn
    | with_reducible apply Keeps.i2cEnd
    | dsimp only
    | decide +kernel

theorem execI2cDone {kb : Bool} {k0 s : State} {receiver : Fin 12} {result : Fin 8} {data : Bytes} (hk : Keeps kb k0 s) :
    AnsKeeps kb k0 (Sys2Proof.Machine.execI2cDone receiver result data s) := by
  unfold Sys2Proof.Machine.execI2cDone
  repeat' first
    | with_reducible assumption
    | with_reducible apply Keeps.i2cEnd
    | with_reducible apply Keeps.next
    | with_reducible apply Keeps.ite
    | with_reducible apply Keeps.ans_ite
    | dsimp only
    | decide +kernel

theorem execI2cTimeout {kb : Bool} {k0 s : State} {receiver : Fin 12} (hk : Keeps kb k0 s) :
    AnsKeeps kb k0 (Sys2Proof.Machine.execI2cTimeout receiver s) := by
  unfold Sys2Proof.Machine.execI2cTimeout
  repeat' first
    | with_reducible assumption
    | intro _
    | with_reducible apply Keeps.i2cCut
    | with_reducible apply Keeps.next
    | with_reducible apply Keeps.ite
    | with_reducible apply Keeps.ans_ite
    | dsimp only
    | decide +kernel

theorem execAphyLinkLock {kb : Bool} {k0 s : State} {receiver : Fin 12} {gear : Fin 8} (hk : Keeps kb k0 s) :
    AnsKeeps kb k0 (Sys2Proof.Machine.execAphyLinkLock receiver gear s) := by
  unfold Sys2Proof.Machine.execAphyLinkLock
  repeat' first
    | with_reducible assumption
    | with_reducible apply Keeps.inc
    | with_reducible apply Keeps.wr
    | with_reducible apply Keeps.emit
    | with_reducible apply Keeps.next
    | with_reducible apply Keeps.ite
    | with_reducible apply Keeps.ans_ite
    | dsimp only
    | simp only [Keeps.upd]
    | simp only [State.inc, State.add, State.wr_frame, Keeps.upd_wr]
    | decide +kernel

theorem execAphyLinkLoss {kb : Bool} {k0 s : State} {receiver : Fin 12} (hk : Keeps kb k0 s) :
    AnsKeeps kb k0 (Sys2Proof.Machine.execAphyLinkLoss receiver s) := by
  unfold Sys2Proof.Machine.execAphyLinkLoss
  repeat' first
    | with_reducible assumption
    | with_reducible apply Keeps.wr
    | with_reducible apply Keeps.i2cCut
    | with_reducible apply Keeps.next
    | with_reducible apply Keeps.ite
    | with_reducible apply Keeps.ans_ite
    | dsimp only
    | decide +kernel

theorem execPcieLinkChange {kb : Bool} {k0 s : State} {up : Bool} {speed : Fin 8} {width : Fin 16} (hk : Keeps kb k0 s) :
    AnsKeeps kb k0 (Sys2Proof.Machine.execPcieLinkChange up speed width s) := by
  unfold Sys2Proof.Machine.execPcieLinkChange
  repeat' first
    | with_reducible assumption
    | with_reducible apply Keeps.wr
    | with_reducible apply Keeps.next
    | with_reducible apply Keeps.ite
    | with_reducible apply Keeps.ans_ite
    | dsimp only
    | decide +kernel

theorem noVfs {kb : Bool} {k0 s : State} (hk : Keeps kb k0 s) :
    Keeps kb k0 (State.noVfs s) := by
  unfold State.noVfs
  repeat' first
    | with_reducible assumption
    | dsimp only
    | simp only [Keeps.upd]
    | decide +kernel

theorem execPciePerstChange {kb : Bool} {k0 s : State} {high : Bool} (hk : Keeps kb k0 s) :
    AnsKeeps kb k0 (Sys2Proof.Machine.execPciePerstChange high s) := by
  unfold Sys2Proof.Machine.execPciePerstChange
  repeat' first
    | with_reducible assumption
    | with_reducible apply Keeps.noVfs
    | with_reducible apply Keeps.next
    | with_reducible apply Keeps.ite
    | with_reducible apply Keeps.ans_ite
    | dsimp only
    | simp only [Keeps.upd]
    | decide +kernel

theorem execPcieConfigRequest {kb : Bool} {k0 s : State} {request : PcieRequest} (hk : Keeps kb k0 s) :
    AnsKeeps kb k0 (Sys2Proof.Machine.execPcieConfigRequest request s) := by
  unfold Sys2Proof.Machine.execPcieConfigRequest
  repeat' first
    | with_reducible assumption
    | intro _
    | with_reducible apply Keeps.emit
    | with_reducible apply Keeps.noVfs
    | with_reducible apply Keeps.request
    | with_reducible apply Keeps.resetVef
    | with_reducible apply Keeps.next
    | with_reducible apply Keeps.ite
    | with_reducible apply Keeps.ans_ite
    | split
    | dsimp only
    | simp only [Keeps.upd]
    | decide +kernel

end Keeps

end Sys2Proof.Machine
end

