-- ==== Sys2Proof/Laws/KeepsRegRules.lean ====
section
/-! SUPPORT. What the operations of Machine/RegRules.lean keep. -/

namespace Sys2Proof.Machine

namespace Keeps

set_option Elab.async false
set_option linter.unusedSimpArgs false
set_option linter.unusedVariables false

/-- A field that no lock guards and that is no lock. -/
def unlocked (f : Fld) : Bool :=
  f.placed && lockTable.all (fun p => p.1.spot != f.spot && p.2.all (fun g => g.spot != f.spot))

/-- A field that no other lock than `lock` guards. -/
def under (lock f : Fld) : Bool :=
  f.placed && f.spot != lock.spot && lock.placed &&
    lockTable.all (fun p => p.1.spot != f.spot && (p.1 == lock || p.2.all (fun g => g.spot != f.spot)))

/-- What a store rule leaves in a field is in the field's range, where it has one. -/
def RuleOk (f : Fld) (rule : Nat → Nat) : Prop :=
  ∀ p ∈ rangedFields, p.1.spot = f.spot → ∀ x < 2 ^ f.w, p.2.1 ≤ rule x % 2 ^ f.w ∧ rule x % 2 ^ f.w ≤ p.2.2

theorem ruleOk_free {f : Fld} {rule : Nat → Nat} (h : rangedFields.all (fun p => p.1.spot != f.spot) = true) : RuleOk f rule := by
  intro p hp e
  have := List.all_eq_true.1 h p hp
  simp [e] at this

theorem ruleOk_of {f : Fld} {rule : Nat → Nat} (lo hi : Nat)
    (h : rangedFields.all (fun p => p.1.spot != f.spot || (p.2.1 == lo && p.2.2 == hi)) = true)
    (hx : ∀ x < 2 ^ f.w, lo ≤ rule x % 2 ^ f.w ∧ rule x % 2 ^ f.w ≤ hi) : RuleOk f rule := by
  intro p hp e x hxw
  have := List.all_eq_true.1 h p hp
  simp only [e, bne_self_eq_false, Bool.false_or, Bool.and_eq_true, beq_iff_eq] at this
  rw [this.1, this.2]
  exact hx x hxw

/-- The value that a write gives a field is within the field's width. -/
theorem newVal_lt (s : State) (f : Fld) (h : Hit) (b v : Nat) : s.newVal f h b v < 2 ^ f.w :=
  Nat.mod_lt _ (Nat.two_pow_pos _)

/-- Values up to a number that the field's width holds. -/
theorem ruleOk_upto {f : Fld} {n : Nat}
    (h : (rangedFields.all (fun p => p.1.spot != f.spot || (p.2.1 == 0 && p.2.2 == n)) && decide (n < 2 ^ f.w)) = true) :
    RuleOk f (atMost n) := by
  simp only [Bool.and_eq_true, decide_eq_true_eq] at h
  refine ruleOk_of 0 n h.1 (fun x _ => ⟨Nat.zero_le _, ?_⟩)
  unfold atMost
  rw [Nat.mod_eq_of_lt (by omega)]
  omega

/-- Values of a field raised to a least number: what a write gives a field is within its width. -/
theorem ruleOk_atLeast {f : Fld} {n : Nat}
    (h : (rangedFields.all (fun p => p.1.spot != f.spot || (p.2.1 == n && p.2.2 == 2 ^ f.w - 1)) && decide (n < 2 ^ f.w)) = true) :
    RuleOk f (atLeast n) := by
  simp only [Bool.and_eq_true, decide_eq_true_eq] at h
  refine ruleOk_of n (2 ^ f.w - 1) h.1 (fun x hx => ?_)
  unfold atLeast
  rw [Nat.mod_eq_of_lt (by omega)]
  omega

/-- Values of a field where others store a given one. -/
theorem ruleOk_orElse {f : Fld} {lo hi d : Nat}
    (h : (rangedFields.all (fun p => p.1.spot != f.spot || (p.2.1 == lo && p.2.2 == hi)) && decide (hi < 2 ^ f.w) &&
      decide (lo ≤ d ∧ d ≤ hi)) = true) : RuleOk f (orElse lo hi d) := by
  simp only [Bool.and_eq_true, decide_eq_true_eq] at h
  refine ruleOk_of lo hi h.1.1 (fun x _ => ?_)
  unfold orElse
  split
  · rw [Nat.mod_eq_of_lt (by omega)]; assumption
  · rw [Nat.mod_eq_of_lt (by omega)]; exact h.2

theorem ruleOk_clamp {f : Fld} {lo hi : Nat}
    (h : (rangedFields.all (fun p => p.1.spot != f.spot || (p.2.1 == lo && p.2.2 == hi)) && decide (hi < 2 ^ f.w) &&
      decide (lo ≤ hi)) = true) : RuleOk f (fun x => min hi (max lo x)) := by
  simp only [Bool.and_eq_true, decide_eq_true_eq] at h
  refine ruleOk_of lo hi h.1.1 (fun x _ => ?_)
  rw [Nat.mod_eq_of_lt (by omega)]
  omega

/-- What `keepLocked` asks of a list of fields and rules. -/
theorem ruleOks_nil : ∀ x ∈ ([] : List (Fld × (Nat → Nat))), RuleOk x.1 x.2 := fun _ h => absurd h List.not_mem_nil

theorem ruleOks_cons {f : Fld} {rule : Nat → Nat} {l : List (Fld × (Nat → Nat))} (h : RuleOk f rule)
    (k : ∀ x ∈ l, RuleOk x.1 x.2) : ∀ x ∈ (f, rule) :: l, RuleOk x.1 x.2 := by
  intro x hx
  rcases List.mem_cons.1 hx with rfl | hx
  · exact h
  · exact k x hx

theorem keep {kb : Bool} {k0 s : State} {f : Fld} {rule : Nat → Nat} {h : Hit} {n v : Nat} (hk : Keeps kb k0 s)
    (hu : unlocked f = true) (hr : RuleOk f rule) : Keeps kb k0 (s.keep f rule h n v) := by
  simp only [unlocked, Bool.and_eq_true, List.all_eq_true, bne_iff_ne, ne_eq] at hu
  unfold State.keep
  exact ite (wr_ranged hk hu.1 (fun p hp e => hr p hp e _ (newVal_lt _ _ _ _ _)) (fun p hp => ⟨(hu.2 p hp).1, .inl (hu.2 p hp).2⟩)) hk

theorem keep_plain {kb : Bool} {k0 s : State} {f : Fld} {rule : Nat → Nat} {h : Hit} {n v : Nat} (hk : Keeps kb k0 s)
    (hf : f.plain = true) : Keeps kb k0 (s.keep f rule h n v) := by
  unfold State.keep
  exact ite (wr hk hf) hk

theorem keepAll {kb : Bool} {k0 s : State} {fs : List Fld} {h : Hit} {n v : Nat} (hk : Keeps kb k0 s)
    (hf : fs.all Fld.plain = true) : Keeps kb k0 (s.keepAll fs h n v) :=
  foldl_mem (fun _ f hm ht => keep_plain ht (List.all_eq_true.1 hf f hm)) hk

theorem clearOnes {kb : Bool} {k0 s : State} {fs : List Fld} {h : Hit} {n v : Nat} (hk : Keeps kb k0 s)
    (hf : fs.all Fld.plain = true) : Keeps kb k0 (s.clearOnes fs h n v) :=
  foldl_mem (fun _ f hm ht => wr ht (List.all_eq_true.1 hf f hm)) hk

theorem setOnly {kb : Bool} {k0 s : State} {f : Fld} {h : Hit} {n v : Nat} (hk : Keeps kb k0 s) (hf : f.plain = true) :
    Keeps kb k0 (s.setOnly f h n v) := by
  unfold State.setOnly
  exact ite (wr hk hf) hk

theorem setOnly_lock {kb : Bool} {k0 s : State} {f : Fld} {h : Hit} {n v : Nat} (hk : Keeps kb k0 s) (hf : lockBit f = true) :
    Keeps kb k0 (s.setOnly f h n v) := by
  unfold State.setOnly
  exact ite (wr_lock hk hf) hk

theorem keepLocked {kb : Bool} {k0 s : State} {lock : Fld} {fs : List (Fld × (Nat → Nat))} {h : Hit} {n v : Nat}
    (hk : Keeps kb k0 s) (hu : (fs.map Prod.fst).all (under lock) = true) (hr : ∀ x ∈ fs, RuleOk x.1 x.2) :
    Keeps kb k0 (s.keepLocked lock fs h n v) := by
  unfold State.keepLocked
  split
  · exact hk
  · next hl0 =>
    have hl : s.flag lock = false := by simpa using hl0
    clear hl0
    induction fs generalizing s with
    | nil => exact hk
    | cons x fs ih =>
      simp only [List.map_cons, List.all_cons, Bool.and_eq_true] at hu
      have hx := hu.1
      simp only [under, Bool.and_eq_true, List.all_eq_true, bne_iff_ne, ne_eq, Bool.or_eq_true, beq_iff_eq] at hx
      obtain ⟨⟨⟨hp, hn⟩, hlp⟩, ht⟩ := hx
      have step : Keeps kb k0 (s.keep x.1 x.2 h n v) ∧ (s.keep x.1 x.2 h n v).flag lock = false := by
        unfold State.keep
        split
        · refine ⟨wr_ranged hk hp (fun p hp e => hr x List.mem_cons_self p hp e _ (newVal_lt _ _ _ _ _)) (fun p hp => ⟨(ht p hp).1, ?_⟩), ?_⟩
          · rcases (ht p hp).2 with e | e
            · right; rw [e]; exact hl
            · exact .inl e
          · simp only [State.flag] at hl ⊢
            rw [State.rd_wr_ne _ _ _ _ _ _ _ _ hp hlp (Ne.symm hn)]
            exact hl
        · exact ⟨hk, hl⟩
      exact ih step.1 hu.2 (fun y hy => hr y (List.mem_cons_of_mem _ hy)) step.2






theorem onOff {kb : Bool} {k0 s : State} {f : Fld} {h : Hit} {b : Nat} {value : Nat} {on : State → State} {off : State → State} (hk : Keeps kb k0 s) (hf : f.plain = true) (hon : ∀ t, Keeps kb k0 t → Keeps kb k0 (on t)) (hoff : ∀ t, Keeps kb k0 t → Keeps kb k0 (off t)) :
    Keeps kb k0 (State.onOff s f h b value on off) := by
  unfold State.onOff
  repeat' first
    | with_reducible assumption
    | with_reducible refine Keeps.keep_plain ?_ (by decide +kernel)
    | with_reducible refine Keeps.keepAll ?_ (by decide +kernel)
    | with_reducible refine Keeps.clearOnes ?_ (by decide +kernel)
    | with_reducible refine Keeps.setOnly ?_ (by decide +kernel)
    | with_reducible refine Keeps.setOnly_lock ?_ (by decide +kernel)
    | with_reducible refine Keeps.keep ?_ (by decide +kernel) ?_
    | with_reducible refine Keeps.keepLocked ?_ (by decide +kernel) ?_
    | with_reducible exact ruleOk_free (by decide +kernel)
    | with_reducible exact ruleOk_upto (by decide +kernel)
    | with_reducible exact ruleOk_atLeast (by decide +kernel)
    | with_reducible exact ruleOk_orElse (by decide +kernel)
    | with_reducible exact ruleOk_clamp (by decide +kernel)
    | simp only [List.map_cons, List.map_nil]
    | with_reducible apply ruleOks_cons
    | with_reducible exact ruleOks_nil
    | with_reducible apply Keeps.ite
    | apply hon
    | apply hoff
    | dsimp only
    | decide +kernel

theorem rstWrite {k0 s : State} {src : Source} {h : Hit} {b : Nat} {value : Nat} (hk : Keeps false k0 s) :
    Keeps false k0 (State.rstWrite s src h b value) := by
  unfold State.rstWrite
  repeat' first
    | with_reducible assumption
    | with_reducible refine Keeps.keep_plain ?_ (by decide +kernel)
    | with_reducible refine Keeps.keepAll ?_ (by decide +kernel)
    | with_reducible refine Keeps.clearOnes ?_ (by decide +kernel)
    | with_reducible refine Keeps.setOnly ?_ (by decide +kernel)
    | with_reducible refine Keeps.setOnly_lock ?_ (by decide +kernel)
    | with_reducible refine Keeps.keep ?_ (by decide +kernel) ?_
    | with_reducible refine Keeps.keepLocked ?_ (by decide +kernel) ?_
    | with_reducible exact ruleOk_free (by decide +kernel)
    | with_reducible exact ruleOk_upto (by decide +kernel)
    | with_reducible exact ruleOk_atLeast (by decide +kernel)
    | with_reducible exact ruleOk_orElse (by decide +kernel)
    | with_reducible exact ruleOk_clamp (by decide +kernel)
    | simp only [List.map_cons, List.map_nil]
    | with_reducible apply ruleOks_cons
    | with_reducible exact ruleOks_nil
    | with_reducible apply Keeps.fieldGo
    | with_reducible apply Keeps.given
    | with_reducible apply Keeps.keepAll
    | with_reducible apply Keeps.warmBy
    | with_reducible apply Keeps.ite
    | dsimp only
    | decide +kernel

theorem ofsWrite {kb : Bool} {k0 s : State} {h : Hit} {b : Nat} {value : Nat} (hk : Keeps kb k0 s) :
    Keeps kb k0 (State.ofsWrite s h b value) := by
  unfold State.ofsWrite
  repeat' first
    | with_reducible assumption
    | with_reducible refine Keeps.keep_plain ?_ (by decide +kernel)
    | with_reducible refine Keeps.keepAll ?_ (by decide +kernel)
    | with_reducible refine Keeps.clearOnes ?_ (by decide +kernel)
    | with_reducible refine Keeps.setOnly ?_ (by decide +kernel)
    | with_reducible refine Keeps.setOnly_lock ?_ (by decide +kernel)
    | with_reducible refine Keeps.keep ?_ (by decide +kernel) ?_
    | with_reducible refine Keeps.keepLocked ?_ (by decide +kernel) ?_
    | with_reducible exact ruleOk_free (by decide +kernel)
    | with_reducible exact ruleOk_upto (by decide +kernel)
    | with_reducible exact ruleOk_atLeast (by decide +kernel)
    | with_reducible exact ruleOk_orElse (by decide +kernel)
    | with_reducible exact ruleOk_clamp (by decide +kernel)
    | simp only [List.map_cons, List.map_nil]
    | with_reducible apply ruleOks_cons
    | with_reducible exact ruleOks_nil
    | with_reducible apply Keeps.holdLow
    | with_reducible apply Keeps.writeOfs
    | with_reducible apply Keeps.ite
    | dsimp only
    | decide +kernel

/-- A register whose writes may reset the device or park it. -/
def Quiet (kb : Bool) (g : RegName) : Prop := kb = true → g ≠ .sysMode ∧ g ≠ .sysRst

theorem sysWrite {kb : Bool} {k0 s : State} {src : Source} {who : Requester} {h : Hit} {b : Nat} {value : Nat} (hk : Keeps kb k0 s)
    (hq : Quiet kb h.reg) : Keeps kb k0 (State.sysWrite s src who h b value) := by
  unfold State.sysWrite
  split
  · next e =>
    cases kb with
    | true => exact absurd e (hq rfl).1
    | false => exact ite (requestMode (clearOnes hk (by decide +kernel))) (clearOnes hk (by decide +kernel))
  · next e =>
    cases kb with
    | true => exact absurd e (hq rfl).2
    | false => exact rstWrite hk
  all_goals
    repeat' first
      | with_reducible assumption
      | with_reducible refine Keeps.keep_plain ?_ (by decide +kernel)
      | with_reducible refine Keeps.keepAll ?_ (by decide +kernel)
      | with_reducible refine Keeps.clearOnes ?_ (by decide +kernel)
      | with_reducible refine Keeps.setOnly ?_ (by decide +kernel)
      | with_reducible refine Keeps.setOnly_lock ?_ (by decide +kernel)
      | with_reducible refine Keeps.keep ?_ (by decide +kernel) ?_
      | with_reducible refine Keeps.keepLocked ?_ (by decide +kernel) ?_
      | with_reducible exact ruleOk_free (by decide +kernel)
      | with_reducible exact ruleOk_upto (by decide +kernel)
      | with_reducible exact ruleOk_atLeast (by decide +kernel)
      | with_reducible exact ruleOk_orElse (by decide +kernel)
      | with_reducible exact ruleOk_clamp (by decide +kernel)
      | simp only [List.map_cons, List.map_nil]
      | with_reducible apply ruleOks_cons
      | with_reducible exact ruleOks_nil
      | intro _
      | with_reducible apply Keeps.setInc
      | with_reducible apply Keeps.ofsWrite
      | with_reducible apply Keeps.snap
      | with_reducible apply Keeps.packageGo
      | with_reducible apply Keeps.saveGo
      | with_reducible apply Keeps.ite
      | dsimp only
      | decide +kernel

theorem safCtlWrite {kb : Bool} {k0 s : State} {h : Hit} {b : Nat} {value : Nat} (hk : Keeps kb k0 s) :
    Keeps kb k0 (State.safCtlWrite s h b value) := by
  unfold State.safCtlWrite
  repeat' first
    | with_reducible assumption
    | with_reducible refine Keeps.keep_plain ?_ (by decide +kernel)
    | with_reducible refine Keeps.keepAll ?_ (by decide +kernel)
    | with_reducible refine Keeps.clearOnes ?_ (by decide +kernel)
    | with_reducible refine Keeps.setOnly ?_ (by decide +kernel)
    | with_reducible refine Keeps.setOnly_lock ?_ (by decide +kernel)
    | with_reducible refine Keeps.keep ?_ (by decide +kernel) ?_
    | with_reducible refine Keeps.keepLocked ?_ (by decide +kernel) ?_
    | with_reducible exact ruleOk_free (by decide +kernel)
    | with_reducible exact ruleOk_upto (by decide +kernel)
    | with_reducible exact ruleOk_atLeast (by decide +kernel)
    | with_reducible exact ruleOk_orElse (by decide +kernel)
    | with_reducible exact ruleOk_clamp (by decide +kernel)
    | simp only [List.map_cons, List.map_nil]
    | with_reducible apply ruleOks_cons
    | with_reducible exact ruleOks_nil
    | with_reducible apply Keeps.keepLocked
    | with_reducible apply Keeps.setOnly
    | with_reducible apply Keeps.writeStatus
    | with_reducible apply Keeps.ite
    | dsimp only
    | decide +kernel

theorem safWrite {kb : Bool} {k0 s : State} {h : Hit} {b : Nat} {value : Nat} (hk : Keeps kb k0 s) :
    Keeps kb k0 (State.safWrite s h b value) := by
  unfold State.safWrite
  repeat' first
    | with_reducible assumption
    | with_reducible refine Keeps.keep_plain ?_ (by decide +kernel)
    | with_reducible refine Keeps.keepAll ?_ (by decide +kernel)
    | with_reducible refine Keeps.clearOnes ?_ (by decide +kernel)
    | with_reducible refine Keeps.setOnly ?_ (by decide +kernel)
    | with_reducible refine Keeps.setOnly_lock ?_ (by decide +kernel)
    | with_reducible refine Keeps.keep ?_ (by decide +kernel) ?_
    | with_reducible refine Keeps.keepLocked ?_ (by decide +kernel) ?_
    | with_reducible exact ruleOk_free (by decide +kernel)
    | with_reducible exact ruleOk_upto (by decide +kernel)
    | with_reducible exact ruleOk_atLeast (by decide +kernel)
    | with_reducible exact ruleOk_orElse (by decide +kernel)
    | with_reducible exact ruleOk_clamp (by decide +kernel)
    | simp only [List.map_cons, List.map_nil]
    | with_reducible apply ruleOks_cons
    | with_reducible exact ruleOks_nil
    | with_reducible apply Keeps.given
    | with_reducible apply Keeps.keepAll
    | with_reducible apply Keeps.keepLocked
    | with_reducible apply Keeps.kickWatchdog
    | with_reducible apply Keeps.readmit
    | with_reducible apply Keeps.refreshGold
    | with_reducible apply Keeps.safCtlWrite
    | with_reducible apply Keeps.setOnly
    | with_reducible apply Keeps.ite
    | split
    | dsimp only
    | decide +kernel

theorem disableWrite {kb : Bool} {k0 s : State} {h : Hit} {b : Nat} {value : Nat} (hk : Keeps kb k0 s) :
    Keeps kb k0 (State.disableWrite s h b value) := by
  unfold State.disableWrite
  repeat' first
    | with_reducible assumption
    | with_reducible refine Keeps.keep_plain ?_ (by decide +kernel)
    | with_reducible refine Keeps.keepAll ?_ (by decide +kernel)
    | with_reducible refine Keeps.clearOnes ?_ (by decide +kernel)
    | with_reducible refine Keeps.setOnly ?_ (by decide +kernel)
    | with_reducible refine Keeps.setOnly_lock ?_ (by decide +kernel)
    | with_reducible refine Keeps.keep ?_ (by decide +kernel) ?_
    | with_reducible refine Keeps.keepLocked ?_ (by decide +kernel) ?_
    | with_reducible exact ruleOk_free (by decide +kernel)
    | with_reducible exact ruleOk_upto (by decide +kernel)
    | with_reducible exact ruleOk_atLeast (by decide +kernel)
    | with_reducible exact ruleOk_orElse (by decide +kernel)
    | with_reducible exact ruleOk_clamp (by decide +kernel)
    | simp only [List.map_cons, List.map_nil]
    | with_reducible apply ruleOks_cons
    | with_reducible exact ruleOks_nil
    | intro _
    | with_reducible apply Keeps.wr
    | with_reducible apply Keeps.onOff
    | with_reducible apply Keeps.stopChannel
    | with_reducible apply Keeps.ite
    | with_reducible apply Keeps.dite
    | dsimp only
    | decide +kernel

theorem tolWrite {kb : Bool} {k0 s : State} {h : Hit} {b : Nat} {value : Nat} (hk : Keeps kb k0 s) :
    Keeps kb k0 (State.tolWrite s h b value) := by
  unfold State.tolWrite
  repeat' first
    | with_reducible assumption
    | with_reducible refine Keeps.keep_plain ?_ (by decide +kernel)
    | with_reducible refine Keeps.keepAll ?_ (by decide +kernel)
    | with_reducible refine Keeps.clearOnes ?_ (by decide +kernel)
    | with_reducible refine Keeps.setOnly ?_ (by decide +kernel)
    | with_reducible refine Keeps.setOnly_lock ?_ (by decide +kernel)
    | with_reducible refine Keeps.keep ?_ (by decide +kernel) ?_
    | with_reducible refine Keeps.keepLocked ?_ (by decide +kernel) ?_
    | with_reducible exact ruleOk_free (by decide +kernel)
    | with_reducible exact ruleOk_upto (by decide +kernel)
    | with_reducible exact ruleOk_atLeast (by decide +kernel)
    | with_reducible exact ruleOk_orElse (by decide +kernel)
    | with_reducible exact ruleOk_clamp (by decide +kernel)
    | simp only [List.map_cons, List.map_nil]
    | with_reducible apply ruleOks_cons
    | with_reducible exact ruleOks_nil
    | with_reducible apply Keeps.keep
    | with_reducible apply Keeps.keepAll
    | with_reducible apply Keeps.ite
    | dsimp only
    | decide +kernel

theorem poolWrite {kb : Bool} {k0 s : State} {h : Hit} {b : Nat} {value : Nat} (hk : Keeps kb k0 s) :
    Keeps kb k0 (State.poolWrite s h b value) := by
  unfold State.poolWrite
  repeat' first
    | with_reducible assumption
    | with_reducible refine Keeps.keep_plain ?_ (by decide +kernel)
    | with_reducible refine Keeps.keepAll ?_ (by decide +kernel)
    | with_reducible refine Keeps.clearOnes ?_ (by decide +kernel)
    | with_reducible refine Keeps.setOnly ?_ (by decide +kernel)
    | with_reducible refine Keeps.setOnly_lock ?_ (by decide +kernel)
    | with_reducible refine Keeps.keep ?_ (by decide +kernel) ?_
    | with_reducible refine Keeps.keepLocked ?_ (by decide +kernel) ?_
    | with_reducible exact ruleOk_free (by decide +kernel)
    | with_reducible exact ruleOk_upto (by decide +kernel)
    | with_reducible exact ruleOk_atLeast (by decide +kernel)
    | with_reducible exact ruleOk_orElse (by decide +kernel)
    | with_reducible exact ruleOk_clamp (by decide +kernel)
    | simp only [List.map_cons, List.map_nil]
    | with_reducible apply ruleOks_cons
    | with_reducible exact ruleOks_nil
    | intro _
    | with_reducible apply Keeps.inc
    | with_reducible apply Keeps.keep
    | with_reducible apply Keeps.keepAll
    | with_reducible apply Keeps.onOff
    | with_reducible apply Keeps.poolInvalid
    | with_reducible apply Keeps.poolValid
    | with_reducible apply Keeps.ite
    | dsimp only
    | decide +kernel

theorem keyWrite {kb : Bool} {k0 s : State} {h : Hit} {b : Nat} {value : Nat} (hk : Keeps kb k0 s) :
    Keeps kb k0 (State.keyWrite s h b value) := by
  unfold State.keyWrite
  repeat' first
    | with_reducible assumption
    | with_reducible apply Keeps.inc
    | with_reducible apply Keeps.given
    | with_reducible apply Keeps.keyCommand
    | split
    | dsimp only
    | decide +kernel

theorem regionWrite {kb : Bool} {k0 s : State} {h : Hit} {b : Nat} {value : Nat} (hk : Keeps kb k0 s) :
    Keeps kb k0 (State.regionWrite s h b value) := by
  unfold State.regionWrite
  repeat' first
    | with_reducible assumption
    | with_reducible apply Keeps.keepAll
    | with_reducible apply Keeps.markUndefined
    | with_reducible apply Keeps.ite
    | dsimp only
    | decide +kernel

theorem fieldCfgWrite {kb : Bool} {k0 s : State} {h : Hit} {b : Nat} {value : Nat} (hk : Keeps kb k0 s) :
    Keeps kb k0 (State.fieldCfgWrite s h b value) := by
  unfold State.fieldCfgWrite
  repeat' first
    | with_reducible assumption
    | with_reducible refine Keeps.keep_plain ?_ (by decide +kernel)
    | with_reducible refine Keeps.keepAll ?_ (by decide +kernel)
    | with_reducible refine Keeps.clearOnes ?_ (by decide +kernel)
    | with_reducible refine Keeps.setOnly ?_ (by decide +kernel)
    | with_reducible refine Keeps.setOnly_lock ?_ (by decide +kernel)
    | with_reducible refine Keeps.keep ?_ (by decide +kernel) ?_
    | with_reducible refine Keeps.keepLocked ?_ (by decide +kernel) ?_
    | with_reducible exact ruleOk_free (by decide +kernel)
    | with_reducible exact ruleOk_upto (by decide +kernel)
    | with_reducible exact ruleOk_atLeast (by decide +kernel)
    | with_reducible exact ruleOk_orElse (by decide +kernel)
    | with_reducible exact ruleOk_clamp (by decide +kernel)
    | simp only [List.map_cons, List.map_nil]
    | with_reducible apply ruleOks_cons
    | with_reducible exact ruleOks_nil
    | with_reducible apply Keeps.keep
    | with_reducible apply Keeps.keepAll
    | with_reducible apply Keeps.ite
    | dsimp only
    | decide +kernel

theorem memBlockWrite {kb : Bool} {k0 s : State} {h : Hit} {b : Nat} {value : Nat} (hk : Keeps kb k0 s) :
    Keeps kb k0 (State.memBlockWrite s h b value) := by
  unfold State.memBlockWrite
  repeat' first
    | with_reducible assumption
    | with_reducible refine Keeps.keep_plain ?_ (by decide +kernel)
    | with_reducible refine Keeps.keepAll ?_ (by decide +kernel)
    | with_reducible refine Keeps.clearOnes ?_ (by decide +kernel)
    | with_reducible refine Keeps.setOnly ?_ (by decide +kernel)
    | with_reducible refine Keeps.setOnly_lock ?_ (by decide +kernel)
    | with_reducible refine Keeps.keep ?_ (by decide +kernel) ?_
    | with_reducible refine Keeps.keepLocked ?_ (by decide +kernel) ?_
    | with_reducible exact ruleOk_free (by decide +kernel)
    | with_reducible exact ruleOk_upto (by decide +kernel)
    | with_reducible exact ruleOk_atLeast (by decide +kernel)
    | with_reducible exact ruleOk_orElse (by decide +kernel)
    | with_reducible exact ruleOk_clamp (by decide +kernel)
    | simp only [List.map_cons, List.map_nil]
    | with_reducible apply ruleOks_cons
    | with_reducible exact ruleOks_nil
    | intro _
    | with_reducible apply Keeps.clearOnes
    | with_reducible apply Keeps.disableWrite
    | with_reducible apply Keeps.fieldCfgWrite
    | with_reducible apply Keeps.keep
    | with_reducible apply Keeps.keepAll
    | with_reducible apply Keeps.keyWrite
    | with_reducible apply Keeps.poolWrite
    | with_reducible apply Keeps.refreshLoc
    | with_reducible apply Keeps.regionWrite
    | with_reducible apply Keeps.tolWrite
    | with_reducible apply Keeps.ite
    | split
    | dsimp only
    | decide +kernel

theorem vefCtlWrite {kb : Bool} {k0 s : State} {h : Hit} {b : Nat} {value : Nat} (hk : Keeps kb k0 s) :
    Keeps kb k0 (State.vefCtlWrite s h b value) := by
  unfold State.vefCtlWrite
  repeat' first
    | with_reducible assumption
    | with_reducible refine Keeps.keep_plain ?_ (by decide +kernel)
    | with_reducible refine Keeps.keepAll ?_ (by decide +kernel)
    | with_reducible refine Keeps.clearOnes ?_ (by decide +kernel)
    | with_reducible refine Keeps.setOnly ?_ (by decide +kernel)
    | with_reducible refine Keeps.setOnly_lock ?_ (by decide +kernel)
    | with_reducible refine Keeps.keep ?_ (by decide +kernel) ?_
    | with_reducible refine Keeps.keepLocked ?_ (by decide +kernel) ?_
    | with_reducible exact ruleOk_free (by decide +kernel)
    | with_reducible exact ruleOk_upto (by decide +kernel)
    | with_reducible exact ruleOk_atLeast (by decide +kernel)
    | with_reducible exact ruleOk_orElse (by decide +kernel)
    | with_reducible exact ruleOk_clamp (by decide +kernel)
    | simp only [List.map_cons, List.map_nil]
    | with_reducible apply ruleOks_cons
    | with_reducible exact ruleOks_nil
    | intro _
    | with_reducible apply Keeps.keepAll
    | with_reducible apply Keeps.onOff
    | with_reducible apply Keeps.resetVef
    | with_reducible apply Keeps.vefDisable
    | with_reducible apply Keeps.vefEnable
    | with_reducible apply Keeps.ite
    | dsimp only
    | decide +kernel

theorem vefWrite {kb : Bool} {k0 s : State} {h : Hit} {b : Nat} {value : Nat} (hk : Keeps kb k0 s) :
    Keeps kb k0 (State.vefWrite s h b value) := by
  unfold State.vefWrite
  repeat' first
    | with_reducible assumption
    | with_reducible refine Keeps.keep_plain ?_ (by decide +kernel)
    | with_reducible refine Keeps.keepAll ?_ (by decide +kernel)
    | with_reducible refine Keeps.clearOnes ?_ (by decide +kernel)
    | with_reducible refine Keeps.setOnly ?_ (by decide +kernel)
    | with_reducible refine Keeps.setOnly_lock ?_ (by decide +kernel)
    | with_reducible refine Keeps.keep ?_ (by decide +kernel) ?_
    | with_reducible refine Keeps.keepLocked ?_ (by decide +kernel) ?_
    | with_reducible exact ruleOk_free (by decide +kernel)
    | with_reducible exact ruleOk_upto (by decide +kernel)
    | with_reducible exact ruleOk_atLeast (by decide +kernel)
    | with_reducible exact ruleOk_orElse (by decide +kernel)
    | with_reducible exact ruleOk_clamp (by decide +kernel)
    | simp only [List.map_cons, List.map_nil]
    | with_reducible apply ruleOks_cons
    | with_reducible exact ruleOks_nil
    | with_reducible apply Keeps.attestGo
    | with_reducible apply Keeps.clearOnes
    | with_reducible apply Keeps.keep
    | with_reducible apply Keeps.keepAll
    | with_reducible apply Keeps.vefCtlWrite
    | with_reducible apply Keeps.ite
    | split
    | dsimp only
    | decide +kernel

theorem sourceWrite {kb : Bool} {k0 s : State} {h : Hit} {b : Nat} {value : Nat} (hk : Keeps kb k0 s) :
    Keeps kb k0 (State.sourceWrite s h b value) := by
  unfold State.sourceWrite
  repeat' first
    | with_reducible assumption
    | with_reducible refine Keeps.keep_plain ?_ (by decide +kernel)
    | with_reducible refine Keeps.keepAll ?_ (by decide +kernel)
    | with_reducible refine Keeps.clearOnes ?_ (by decide +kernel)
    | with_reducible refine Keeps.setOnly ?_ (by decide +kernel)
    | with_reducible refine Keeps.setOnly_lock ?_ (by decide +kernel)
    | with_reducible refine Keeps.keep ?_ (by decide +kernel) ?_
    | with_reducible refine Keeps.keepLocked ?_ (by decide +kernel) ?_
    | with_reducible exact ruleOk_free (by decide +kernel)
    | with_reducible exact ruleOk_upto (by decide +kernel)
    | with_reducible exact ruleOk_atLeast (by decide +kernel)
    | with_reducible exact ruleOk_orElse (by decide +kernel)
    | with_reducible exact ruleOk_clamp (by decide +kernel)
    | simp only [List.map_cons, List.map_nil]
    | with_reducible apply ruleOks_cons
    | with_reducible exact ruleOks_nil
    | intro _
    | with_reducible apply Keeps.keep
    | with_reducible apply Keeps.keepAll
    | with_reducible apply Keeps.onOff
    | with_reducible apply Keeps.sourceDisable
    | with_reducible apply Keeps.sourceEnable
    | with_reducible apply Keeps.ite
    | dsimp only
    | decide +kernel

theorem fusCtlWrite {kb : Bool} {k0 s : State} {h : Hit} {b : Nat} {value : Nat} (hk : Keeps kb k0 s) :
    Keeps kb k0 (State.fusCtlWrite s h b value) := by
  unfold State.fusCtlWrite
  repeat' first
    | with_reducible assumption
    | with_reducible refine Keeps.keep_plain ?_ (by decide +kernel)
    | with_reducible refine Keeps.keepAll ?_ (by decide +kernel)
    | with_reducible refine Keeps.clearOnes ?_ (by decide +kernel)
    | with_reducible refine Keeps.setOnly ?_ (by decide +kernel)
    | with_reducible refine Keeps.setOnly_lock ?_ (by decide +kernel)
    | with_reducible refine Keeps.keep ?_ (by decide +kernel) ?_
    | with_reducible refine Keeps.keepLocked ?_ (by decide +kernel) ?_
    | with_reducible exact ruleOk_free (by decide +kernel)
    | with_reducible exact ruleOk_upto (by decide +kernel)
    | with_reducible exact ruleOk_atLeast (by decide +kernel)
    | with_reducible exact ruleOk_orElse (by decide +kernel)
    | with_reducible exact ruleOk_clamp (by decide +kernel)
    | simp only [List.map_cons, List.map_nil]
    | with_reducible apply ruleOks_cons
    | with_reducible exact ruleOks_nil
    | intro _
    | with_reducible apply Keeps.keep
    | with_reducible apply Keeps.onOff
    | with_reducible apply Keeps.runStart
    | with_reducible apply Keeps.runStop
    | with_reducible apply Keeps.setOnly
    | with_reducible apply Keeps.ite
    | dsimp only
    | decide +kernel

theorem fusWrite {kb : Bool} {k0 s : State} {h : Hit} {b : Nat} {value : Nat} (hk : Keeps kb k0 s) :
    Keeps kb k0 (State.fusWrite s h b value) := by
  unfold State.fusWrite
  repeat' first
    | with_reducible assumption
    | with_reducible refine Keeps.keep_plain ?_ (by decide +kernel)
    | with_reducible refine Keeps.keepAll ?_ (by decide +kernel)
    | with_reducible refine Keeps.clearOnes ?_ (by decide +kernel)
    | with_reducible refine Keeps.setOnly ?_ (by decide +kernel)
    | with_reducible refine Keeps.setOnly_lock ?_ (by decide +kernel)
    | with_reducible refine Keeps.keep ?_ (by decide +kernel) ?_
    | with_reducible refine Keeps.keepLocked ?_ (by decide +kernel) ?_
    | with_reducible exact ruleOk_free (by decide +kernel)
    | with_reducible exact ruleOk_upto (by decide +kernel)
    | with_reducible exact ruleOk_atLeast (by decide +kernel)
    | with_reducible exact ruleOk_orElse (by decide +kernel)
    | with_reducible exact ruleOk_clamp (by decide +kernel)
    | simp only [List.map_cons, List.map_nil]
    | with_reducible apply ruleOks_cons
    | with_reducible exact ruleOks_nil
    | intro _
    | with_reducible apply Keeps.fusCtlWrite
    | with_reducible apply Keeps.keep
    | with_reducible apply Keeps.keepAll
    | with_reducible apply Keeps.keepLocked
    | with_reducible apply Keeps.sourceWrite
    | with_reducible apply Keeps.ite
    | split
    | dsimp only
    | decide +kernel

theorem headWrite {kb : Bool} {k0 s : State} {h : Hit} {b : Nat} {value : Nat} (hk : Keeps kb k0 s) :
    Keeps kb k0 (State.headWrite s h b value) := by
  unfold State.headWrite
  repeat' first
    | with_reducible assumption
    | with_reducible refine Keeps.keep_plain ?_ (by decide +kernel)
    | with_reducible refine Keeps.keepAll ?_ (by decide +kernel)
    | with_reducible refine Keeps.clearOnes ?_ (by decide +kernel)
    | with_reducible refine Keeps.setOnly ?_ (by decide +kernel)
    | with_reducible refine Keeps.setOnly_lock ?_ (by decide +kernel)
    | with_reducible refine Keeps.keep ?_ (by decide +kernel) ?_
    | with_reducible refine Keeps.keepLocked ?_ (by decide +kernel) ?_
    | with_reducible exact ruleOk_free (by decide +kernel)
    | with_reducible exact ruleOk_upto (by decide +kernel)
    | with_reducible exact ruleOk_atLeast (by decide +kernel)
    | with_reducible exact ruleOk_orElse (by decide +kernel)
    | with_reducible exact ruleOk_clamp (by decide +kernel)
    | simp only [List.map_cons, List.map_nil]
    | with_reducible apply ruleOks_cons
    | with_reducible exact ruleOks_nil
    | intro _
    | with_reducible apply Keeps.headEnable
    | with_reducible apply Keeps.keep
    | with_reducible apply Keeps.keepAll
    | with_reducible apply Keeps.onOff
    | with_reducible apply Keeps.unitOffWrite
    | with_reducible apply Keeps.ite
    | with_reducible apply Keeps.dite
    | dsimp only
    | decide +kernel

theorem ttWrite {kb : Bool} {k0 s : State} {h : Hit} {b : Nat} {value : Nat} (hk : Keeps kb k0 s) :
    Keeps kb k0 (State.ttWrite s h b value) := by
  unfold State.ttWrite
  repeat' first
    | with_reducible assumption
    | with_reducible refine Keeps.keep_plain ?_ (by decide +kernel)
    | with_reducible refine Keeps.keepAll ?_ (by decide +kernel)
    | with_reducible refine Keeps.clearOnes ?_ (by decide +kernel)
    | with_reducible refine Keeps.setOnly ?_ (by decide +kernel)
    | with_reducible refine Keeps.setOnly_lock ?_ (by decide +kernel)
    | with_reducible refine Keeps.keep ?_ (by decide +kernel) ?_
    | with_reducible refine Keeps.keepLocked ?_ (by decide +kernel) ?_
    | with_reducible exact ruleOk_free (by decide +kernel)
    | with_reducible exact ruleOk_upto (by decide +kernel)
    | with_reducible exact ruleOk_atLeast (by decide +kernel)
    | with_reducible exact ruleOk_orElse (by decide +kernel)
    | with_reducible exact ruleOk_clamp (by decide +kernel)
    | simp only [List.map_cons, List.map_nil]
    | with_reducible apply ruleOks_cons
    | with_reducible exact ruleOks_nil
    | with_reducible apply Keeps.keepAll
    | with_reducible apply Keeps.ite
    | dsimp only
    | decide +kernel

theorem displayWrite {kb : Bool} {k0 s : State} {h : Hit} {b : Nat} {value : Nat} (hk : Keeps kb k0 s) :
    Keeps kb k0 (State.displayWrite s h b value) := by
  unfold State.displayWrite
  repeat' first
    | with_reducible assumption
    | with_reducible refine Keeps.keep_plain ?_ (by decide +kernel)
    | with_reducible refine Keeps.keepAll ?_ (by decide +kernel)
    | with_reducible refine Keeps.clearOnes ?_ (by decide +kernel)
    | with_reducible refine Keeps.setOnly ?_ (by decide +kernel)
    | with_reducible refine Keeps.setOnly_lock ?_ (by decide +kernel)
    | with_reducible refine Keeps.keep ?_ (by decide +kernel) ?_
    | with_reducible refine Keeps.keepLocked ?_ (by decide +kernel) ?_
    | with_reducible exact ruleOk_free (by decide +kernel)
    | with_reducible exact ruleOk_upto (by decide +kernel)
    | with_reducible exact ruleOk_atLeast (by decide +kernel)
    | with_reducible exact ruleOk_orElse (by decide +kernel)
    | with_reducible exact ruleOk_clamp (by decide +kernel)
    | simp only [List.map_cons, List.map_nil]
    | with_reducible apply ruleOks_cons
    | with_reducible exact ruleOks_nil
    | with_reducible apply Keeps.clearOnes
    | with_reducible apply Keeps.headWrite
    | with_reducible apply Keeps.keepAll
    | with_reducible apply Keeps.ttWrite
    | split
    | dsimp only
    | decide +kernel

theorem passCfgWrite {kb : Bool} {k0 s : State} {who : Requester} {h : Hit} {b : Nat} {value : Nat} (hk : Keeps kb k0 s) :
    Keeps kb k0 (State.passCfgWrite s who h b value) := by
  unfold State.passCfgWrite
  repeat' first
    | with_reducible assumption
    | with_reducible refine Keeps.keep_plain ?_ (by decide +kernel)
    | with_reducible refine Keeps.keepAll ?_ (by decide +kernel)
    | with_reducible refine Keeps.clearOnes ?_ (by decide +kernel)
    | with_reducible refine Keeps.setOnly ?_ (by decide +kernel)
    | with_reducible refine Keeps.setOnly_lock ?_ (by decide +kernel)
    | with_reducible refine Keeps.keep ?_ (by decide +kernel) ?_
    | with_reducible refine Keeps.keepLocked ?_ (by decide +kernel) ?_
    | with_reducible exact ruleOk_free (by decide +kernel)
    | with_reducible exact ruleOk_upto (by decide +kernel)
    | with_reducible exact ruleOk_atLeast (by decide +kernel)
    | with_reducible exact ruleOk_orElse (by decide +kernel)
    | with_reducible exact ruleOk_clamp (by decide +kernel)
    | simp only [List.map_cons, List.map_nil]
    | with_reducible apply ruleOks_cons
    | with_reducible exact ruleOks_nil
    | intro _
    | with_reducible apply Keeps.keep
    | with_reducible apply Keeps.keepLocked
    | with_reducible apply Keeps.setLink
    | with_reducible apply Keeps.setOnly
    | with_reducible apply Keeps.each
    | with_reducible apply Keeps.ite
    | dsimp only
    | decide +kernel

theorem passBlockWrite {kb : Bool} {k0 s : State} {who : Requester} {h : Hit} {b : Nat} {value : Nat} (hk : Keeps kb k0 s) :
    Keeps kb k0 (State.passBlockWrite s who h b value) := by
  unfold State.passBlockWrite
  repeat' first
    | with_reducible assumption
    | with_reducible refine Keeps.keep_plain ?_ (by decide +kernel)
    | with_reducible refine Keeps.keepAll ?_ (by decide +kernel)
    | with_reducible refine Keeps.clearOnes ?_ (by decide +kernel)
    | with_reducible refine Keeps.setOnly ?_ (by decide +kernel)
    | with_reducible refine Keeps.setOnly_lock ?_ (by decide +kernel)
    | with_reducible refine Keeps.keep ?_ (by decide +kernel) ?_
    | with_reducible refine Keeps.keepLocked ?_ (by decide +kernel) ?_
    | with_reducible exact ruleOk_free (by decide +kernel)
    | with_reducible exact ruleOk_upto (by decide +kernel)
    | with_reducible exact ruleOk_atLeast (by decide +kernel)
    | with_reducible exact ruleOk_orElse (by decide +kernel)
    | with_reducible exact ruleOk_clamp (by decide +kernel)
    | simp only [List.map_cons, List.map_nil]
    | with_reducible apply ruleOks_cons
    | with_reducible exact ruleOks_nil
    | intro _
    | with_reducible apply Keeps.wr
    | with_reducible apply Keeps.clearOnes
    | with_reducible apply Keeps.given
    | with_reducible apply Keeps.keep
    | with_reducible apply Keeps.keepAll
    | with_reducible apply Keeps.keepLocked
    | with_reducible apply Keeps.passCfgWrite
    | with_reducible apply Keeps.showDiscard
    | with_reducible apply Keeps.ite
    | split
    | dsimp only
    | decide +kernel

theorem hostRing {kb : Bool} {k0 s : State} {en : Fld} {head : Fld} {tail : Fld} {q : Nat} {rx : Bool} (hk : Keeps kb k0 s) (hen : en.plain = true) (hhead : head.plain = true) (htail : tail.plain = true) :
    Keeps kb k0 (State.hostRing s en head tail q rx) := by
  unfold State.hostRing
  repeat' first
    | with_reducible assumption
    | with_reducible apply Keeps.wr
    | with_reducible apply Keeps.ite
    | dsimp only
    | simp only [Keeps.upd]
    | simp only [State.inc, State.add, State.wr_frame, Keeps.upd_wr]
    | decide +kernel

theorem hpqWrite {kb : Bool} {k0 s : State} {h : Hit} {b : Nat} {value : Nat} (hk : Keeps kb k0 s) :
    Keeps kb k0 (State.hpqWrite s h b value) := by
  unfold State.hpqWrite
  repeat' first
    | with_reducible assumption
    | with_reducible refine Keeps.keep_plain ?_ (by decide +kernel)
    | with_reducible refine Keeps.keepAll ?_ (by decide +kernel)
    | with_reducible refine Keeps.clearOnes ?_ (by decide +kernel)
    | with_reducible refine Keeps.setOnly ?_ (by decide +kernel)
    | with_reducible refine Keeps.setOnly_lock ?_ (by decide +kernel)
    | with_reducible refine Keeps.keep ?_ (by decide +kernel) ?_
    | with_reducible refine Keeps.keepLocked ?_ (by decide +kernel) ?_
    | with_reducible exact ruleOk_free (by decide +kernel)
    | with_reducible exact ruleOk_upto (by decide +kernel)
    | with_reducible exact ruleOk_atLeast (by decide +kernel)
    | with_reducible exact ruleOk_orElse (by decide +kernel)
    | with_reducible exact ruleOk_clamp (by decide +kernel)
    | simp only [List.map_cons, List.map_nil]
    | with_reducible apply ruleOks_cons
    | with_reducible exact ruleOks_nil
    | intro _
    | with_reducible apply Keeps.wr
    | with_reducible apply Keeps.hostRing
    | with_reducible apply Keeps.keep
    | with_reducible apply Keeps.keepAll
    | with_reducible apply Keeps.onOff
    | with_reducible apply Keeps.ite
    | dsimp only
    | decide +kernel

theorem canWrite {kb : Bool} {k0 s : State} {h : Hit} {b : Nat} {value : Nat} (hk : Keeps kb k0 s) :
    Keeps kb k0 (State.canWrite s h b value) := by
  unfold State.canWrite
  repeat' first
    | with_reducible assumption
    | with_reducible refine Keeps.keep_plain ?_ (by decide +kernel)
    | with_reducible refine Keeps.keepAll ?_ (by decide +kernel)
    | with_reducible refine Keeps.clearOnes ?_ (by decide +kernel)
    | with_reducible refine Keeps.setOnly ?_ (by decide +kernel)
    | with_reducible refine Keeps.setOnly_lock ?_ (by decide +kernel)
    | with_reducible refine Keeps.keep ?_ (by decide +kernel) ?_
    | with_reducible refine Keeps.keepLocked ?_ (by decide +kernel) ?_
    | with_reducible exact ruleOk_free (by decide +kernel)
    | with_reducible exact ruleOk_upto (by decide +kernel)
    | with_reducible exact ruleOk_atLeast (by decide +kernel)
    | with_reducible exact ruleOk_orElse (by decide +kernel)
    | with_reducible exact ruleOk_clamp (by decide +kernel)
    | simp only [List.map_cons, List.map_nil]
    | with_reducible apply ruleOks_cons
    | with_reducible exact ruleOks_nil
    | intro _
    | with_reducible apply Keeps.enableUnit
    | with_reducible apply Keeps.keep
    | with_reducible apply Keeps.keepAll
    | with_reducible apply Keeps.onOff
    | with_reducible apply Keeps.unitOffWrite
    | with_reducible apply Keeps.ite
    | with_reducible apply Keeps.dite
    | dsimp only
    | decide +kernel

theorem contWrite {kb : Bool} {k0 s : State} {h : Hit} {b : Nat} {value : Nat} (hk : Keeps kb k0 s) :
    Keeps kb k0 (State.contWrite s h b value) := by
  unfold State.contWrite
  repeat' first
    | with_reducible assumption
    | with_reducible refine Keeps.keep_plain ?_ (by decide +kernel)
    | with_reducible refine Keeps.keepAll ?_ (by decide +kernel)
    | with_reducible refine Keeps.clearOnes ?_ (by decide +kernel)
    | with_reducible refine Keeps.setOnly ?_ (by decide +kernel)
    | with_reducible refine Keeps.setOnly_lock ?_ (by decide +kernel)
    | with_reducible refine Keeps.keep ?_ (by decide +kernel) ?_
    | with_reducible refine Keeps.keepLocked ?_ (by decide +kernel) ?_
    | with_reducible exact ruleOk_free (by decide +kernel)
    | with_reducible exact ruleOk_upto (by decide +kernel)
    | with_reducible exact ruleOk_atLeast (by decide +kernel)
    | with_reducible exact ruleOk_orElse (by decide +kernel)
    | with_reducible exact ruleOk_clamp (by decide +kernel)
    | simp only [List.map_cons, List.map_nil]
    | with_reducible apply ruleOks_cons
    | with_reducible exact ruleOks_nil
    | intro _
    | with_reducible apply Keeps.wr
    | with_reducible apply Keeps.contValid
    | with_reducible apply Keeps.keepAll
    | with_reducible apply Keeps.onOff
    | with_reducible apply Keeps.setCont
    | with_reducible apply Keeps.ite
    | dsimp only
    | simp only [Keeps.upd]
    | simp only [State.inc, State.add, State.wr_frame, Keeps.upd_wr]
    | decide +kernel

theorem routeWrite {kb : Bool} {k0 s : State} {h : Hit} {b : Nat} {value : Nat} (hk : Keeps kb k0 s) :
    Keeps kb k0 (State.routeWrite s h b value) := by
  unfold State.routeWrite
  repeat' first
    | with_reducible assumption
    | with_reducible refine Keeps.keep_plain ?_ (by decide +kernel)
    | with_reducible refine Keeps.keepAll ?_ (by decide +kernel)
    | with_reducible refine Keeps.clearOnes ?_ (by decide +kernel)
    | with_reducible refine Keeps.setOnly ?_ (by decide +kernel)
    | with_reducible refine Keeps.setOnly_lock ?_ (by decide +kernel)
    | with_reducible refine Keeps.keep ?_ (by decide +kernel) ?_
    | with_reducible refine Keeps.keepLocked ?_ (by decide +kernel) ?_
    | with_reducible exact ruleOk_free (by decide +kernel)
    | with_reducible exact ruleOk_upto (by decide +kernel)
    | with_reducible exact ruleOk_atLeast (by decide +kernel)
    | with_reducible exact ruleOk_orElse (by decide +kernel)
    | with_reducible exact ruleOk_clamp (by decide +kernel)
    | simp only [List.map_cons, List.map_nil]
    | with_reducible apply ruleOks_cons
    | with_reducible exact ruleOks_nil
    | intro _
    | with_reducible apply Keeps.wr
    | with_reducible apply Keeps.keepAll
    | with_reducible apply Keeps.onOff
    | with_reducible apply Keeps.routeValid
    | with_reducible apply Keeps.ite
    | dsimp only
    | decide +kernel

theorem gwWrite {kb : Bool} {k0 s : State} {who : Requester} {h : Hit} {b : Nat} {value : Nat} (hk : Keeps kb k0 s) :
    Keeps kb k0 (State.gwWrite s who h b value) := by
  unfold State.gwWrite
  repeat' first
    | with_reducible assumption
    | with_reducible refine Keeps.keep_plain ?_ (by decide +kernel)
    | with_reducible refine Keeps.keepAll ?_ (by decide +kernel)
    | with_reducible refine Keeps.clearOnes ?_ (by decide +kernel)
    | with_reducible refine Keeps.setOnly ?_ (by decide +kernel)
    | with_reducible refine Keeps.setOnly_lock ?_ (by decide +kernel)
    | with_reducible refine Keeps.keep ?_ (by decide +kernel) ?_
    | with_reducible refine Keeps.keepLocked ?_ (by decide +kernel) ?_
    | with_reducible exact ruleOk_free (by decide +kernel)
    | with_reducible exact ruleOk_upto (by decide +kernel)
    | with_reducible exact ruleOk_atLeast (by decide +kernel)
    | with_reducible exact ruleOk_orElse (by decide +kernel)
    | with_reducible exact ruleOk_clamp (by decide +kernel)
    | simp only [List.map_cons, List.map_nil]
    | with_reducible apply ruleOks_cons
    | with_reducible exact ruleOks_nil
    | intro _
    | with_reducible apply Keeps.canWrite
    | with_reducible apply Keeps.clearOnes
    | with_reducible apply Keeps.contWrite
    | with_reducible apply Keeps.enableUnit
    | with_reducible apply Keeps.hpqWrite
    | with_reducible apply Keeps.keepAll
    | with_reducible apply Keeps.keepLocked
    | with_reducible apply Keeps.onOff
    | with_reducible apply Keeps.popStamp
    | with_reducible apply Keeps.routeWrite
    | with_reducible apply Keeps.setOnly
    | with_reducible apply Keeps.unitOffWrite
    | with_reducible apply Keeps.ite
    | with_reducible apply Keeps.dite
    | split
    | dsimp only
    | decide +kernel

theorem hostWrite {kb : Bool} {k0 s : State} {h : Hit} {b : Nat} {value : Nat} (hk : Keeps kb k0 s) :
    Keeps kb k0 (State.hostWrite s h b value) := by
  unfold State.hostWrite
  repeat' first
    | with_reducible assumption
    | with_reducible refine Keeps.keep_plain ?_ (by decide +kernel)
    | with_reducible refine Keeps.keepAll ?_ (by decide +kernel)
    | with_reducible refine Keeps.clearOnes ?_ (by decide +kernel)
    | with_reducible refine Keeps.setOnly ?_ (by decide +kernel)
    | with_reducible refine Keeps.setOnly_lock ?_ (by decide +kernel)
    | with_reducible refine Keeps.keep ?_ (by decide +kernel) ?_
    | with_reducible refine Keeps.keepLocked ?_ (by decide +kernel) ?_
    | with_reducible exact ruleOk_free (by decide +kernel)
    | with_reducible exact ruleOk_upto (by decide +kernel)
    | with_reducible exact ruleOk_atLeast (by decide +kernel)
    | with_reducible exact ruleOk_orElse (by decide +kernel)
    | with_reducible exact ruleOk_clamp (by decide +kernel)
    | simp only [List.map_cons, List.map_nil]
    | with_reducible apply ruleOks_cons
    | with_reducible exact ruleOks_nil
    | intro _
    | with_reducible apply Keeps.emit
    | with_reducible apply Keeps.hostClocks
    | with_reducible apply Keeps.i2cGo
    | with_reducible apply Keeps.keep
    | with_reducible apply Keeps.keepAll
    | with_reducible apply Keeps.ite
    | split
    | dsimp only
    | simp only [Keeps.upd]
    | decide +kernel

end Keeps

end Sys2Proof.Machine
end

