-- ==== Sys2Proof/Laws/KeepsRegWrite.lean ====
section
/-! SUPPORT. What the operations of Machine/RegWrite.lean keep. -/

namespace Sys2Proof.Machine

namespace Keeps

set_option Elab.async false
set_option linter.unusedSimpArgs false
set_option linter.unusedVariables false

theorem regWrite {kb : Bool} {k0 s : State} {src : Source} {who : Requester} {h : Hit} {b : Nat} {value : Nat} (hk : Keeps kb k0 s)
    (hq : Quiet kb h.reg) : Keeps kb k0 (State.regWrite s src who h b value) := by
  unfold State.regWrite
  split
  all_goals first
    | with_reducible exact sysWrite hk hq
    | with_reducible exact safWrite hk
    | with_reducible exact memBlockWrite hk
    | with_reducible exact vefWrite hk
    | with_reducible exact fusWrite hk
    | with_reducible exact displayWrite hk
    | with_reducible exact passBlockWrite hk
    | with_reducible exact gwWrite hk
    | with_reducible exact hostWrite hk
    | with_reducible exact doorbell hk
    | with_reducible exact ringRegWrite hk

theorem stdWrite {kb : Bool} {k0 s : State} {a : Nat} {value : Nat} (hk : Keeps kb k0 s) :
    Keeps kb k0 (State.stdWrite s a value) := by
  unfold State.stdWrite
  repeat' first
    | with_reducible assumption
    | dsimp only
    | simp only [Keeps.upd]
    | decide +kernel

theorem imsicWrite {kb : Bool} {k0 s : State} {a : Nat} {value : Nat} (hk : Keeps kb k0 s) :
    Keeps kb k0 (State.imsicWrite s a value) := by
  unfold State.imsicWrite
  repeat' first
    | with_reducible assumption
    | with_reducible apply Keeps.ite
    | dsimp only
    | simp only [Keeps.upd]
    | decide +kernel

theorem wordWrite {kb : Bool} {k0 s : State} {src : Source} {who : Requester} {x : WordHit} {a : Nat} {value : Nat} (hk : Keeps kb k0 s)
    (hq : ∀ h, x = .reg h → Quiet kb h.reg) : Keeps kb k0 (State.wordWrite s src who x a value) := by
  unfold State.wordWrite
  split
  · exact regWrite hk (hq _ rfl)
  · exact imsicWrite hk
  · exact stdWrite hk
  · exact ite hk (stdWrite hk)
  · exact emit hk
  · exact hk
  · exact hk

theorem countAccess {kb : Bool} {k0 s : State} {who : Requester} {a : Nat} {xs : List WordHit} (hk : Keeps kb k0 s) :
    Keeps kb k0 (State.countAccess s who a xs) := by
  unfold State.countAccess
  repeat' first
    | with_reducible assumption
    | with_reducible apply Keeps.inc
    | with_reducible apply Keeps.wr
    | with_reducible apply Keeps.denied
    | with_reducible apply Keeps.ite
    | split
    | dsimp only
    | decide +kernel

theorem countNarrow {kb : Bool} {k0 s : State} {who : Requester} {a : Nat} (hk : Keeps kb k0 s) :
    Keeps kb k0 (State.countNarrow s who a) := by
  unfold State.countNarrow
  repeat' first
    | with_reducible assumption
    | with_reducible apply Keeps.inc
    | with_reducible apply Keeps.wr
    | split
    | dsimp only
    | decide +kernel

/-- No word of an access meets a register whose writes may reset the device. -/
def QuietAt (kb : Bool) (a b : Nat) : Prop :=
  kb = true → quietAddr a = true ∧ (b ≠ 4 → quietAddr (a + 4) = true)

theorem wordHit_reg {s : State} {who : Requester} {a : Nat} {h : Hit} (e : s.wordHit who a = .reg h) : findReg a = some h := by
  unfold State.wordHit at e
  repeat' (first | split at e | cases e)
  assumption

theorem quiet_reg {kb : Bool} {s : State} {who : Requester} {a : Nat} {h : Hit} (hq : kb = true → quietAddr a = true)
    (e : s.wordHit who a = .reg h) : Quiet kb h.reg := by
  intro hb
  have := hq hb
  unfold quietAddr at this
  rw [wordHit_reg e] at this
  simpa using this

theorem spaceWrite {kb : Bool} {k0 s : State} {src : Source} {a : Nat} {b : Nat} {value : Nat} (hk : Keeps kb k0 s)
    (hq : QuietAt kb a b) : Keeps kb k0 (State.spaceWrite s src a b value) := by
  unfold State.spaceWrite
  dsimp only
  have h1 : ∀ h, s.wordHit (s.whoAt src a) a = .reg h → Quiet kb h.reg := fun h e => quiet_reg (fun hb => (hq hb).1) e
  split
  · exact wordWrite (countAccess hk) h1
  · next hb4 =>
    have h2 : ∀ h, s.wordHit (s.whoAt src a) (a + 4) = .reg h → Quiet kb h.reg := fun h e => quiet_reg (fun hb => (hq hb).2 hb4) e
    split
    · next e1 e2 =>
      split
      · exact regWrite (countAccess hk) (h1 _ e1)
      · exact regWrite (regWrite (countAccess hk) (h1 _ e1)) (h2 _ e2)
    · exact wordWrite (wordWrite (countAccess hk) h1) h2

theorem memStore {kb : Bool} {k0 s : State} {src : Source} {a : Nat} {b : Nat} {value : Nat} (hk : Keeps kb k0 s) :
    Keeps kb k0 (State.memStore s src a b value) := by
  unfold State.memStore
  repeat' first
    | with_reducible assumption
    | with_reducible apply Keeps.inc
    | with_reducible apply Keeps.memWrite
    | with_reducible apply Keeps.sramWrite
    | with_reducible apply Keeps.ite
    | split
    | dsimp only
    | decide +kernel

theorem writeAt {kb : Bool} {k0 s : State} {src : Source} {a : Nat} {b : Nat} {value : Nat} (hk : Keeps kb k0 s)
    (hq : QuietAt kb a b) : Keeps kb k0 (State.writeAt s src a b value) := by
  unfold State.writeAt
  exact ite (memStore hk) (ite (spaceWrite hk hq) (countNarrow hk))

theorem quietAt_false {a b : Nat} : QuietAt false a b := fun h => absurd h Bool.false_ne_true

theorem execRegisterWrite {kb : Bool} {k0 s : State} {src : Source} {addr : Nat} {bytes : Nat} {value : Nat} (hk : Keeps kb k0 s)
    (hq : QuietAt kb addr bytes) : AnsKeeps kb k0 (Sys2Proof.Machine.execRegisterWrite src addr bytes value s) :=
  next (writeAt hk hq)

end Keeps

end Sys2Proof.Machine
end

