-- ==== Sys2Proof/Laws/KeepsBootFw.lean ====
section
/-! SUPPORT. What the operations of Machine/BootFw.lean keep. -/

namespace Sys2Proof.Machine

namespace Keeps

set_option Elab.async false
set_option linter.unusedSimpArgs false
set_option linter.unusedVariables false

theorem applyConfig {kb : Bool} {k0 s : State} (hk : Keeps kb k0 s) :
    Keeps kb k0 (State.applyConfig s) := by
  unfold State.applyConfig
  repeat' first
    | with_reducible assumption
    | intro _
    | with_reducible apply Keeps.wr
    | with_reducible apply Keeps.logEvent
    | with_reducible apply Keeps.each
    | with_reducible apply Keeps.ite
    | dsimp only
    | decide +kernel

theorem setRegion {kb : Bool} {k0 s : State} {r : Nat} {base : Nat} {limit : Nat} (hk : Keeps kb k0 s) :
    Keeps kb k0 (State.setRegion s r base limit) := by
  unfold State.setRegion
  repeat' first
    | with_reducible assumption
    | with_reducible apply Keeps.wr
    | dsimp only
    | decide +kernel

theorem placeRegions {kb : Bool} {k0 s : State} (hk : Keeps kb k0 s) :
    Keeps kb k0 (State.placeRegions s) := by
  unfold State.placeRegions
  repeat' first
    | with_reducible assumption
    | with_reducible apply Keeps.logEvent
    | with_reducible apply Keeps.setRegion
    | with_reducible apply Keeps.ite
    | dsimp only
    | decide +kernel

theorem applySetup {k0 s : State} {e : Bytes} (hk : Keeps false k0 s) :
    Keeps false k0 (State.applySetup s e) := by
  unfold State.applySetup
  repeat' first
    | with_reducible assumption
    | with_reducible refine Keeps.writeAt ?_ quietAt_false
    | with_reducible apply Keeps.logEvent
    | with_reducible apply Keeps.writeAt
    | with_reducible apply Keeps.ite
    | split
    | dsimp only
    | decide +kernel

theorem applySetups {k0 s : State} (hk : Keeps false k0 s) :
    Keeps false k0 (State.applySetups s) := by
  unfold State.applySetups
  repeat' first
    | with_reducible assumption
    | with_reducible refine Keeps.wr_lock ?_ (by decide +kernel)
    | intro _
    | with_reducible apply Keeps.wr
    | with_reducible apply Keeps.applySetup
    | with_reducible apply Keeps.each
    | dsimp only
    | decide +kernel

theorem placeImage {kb : Bool} {k0 s : State} {c : Comp} (hk : Keeps kb k0 s) :
    Keeps kb k0 (State.placeImage s c) := by
  unfold State.placeImage
  repeat' first
    | with_reducible assumption
    | with_reducible apply Keeps.wr
    | with_reducible apply Keeps.logEvent
    | with_reducible apply Keeps.memWrite
    | with_reducible apply Keeps.ite
    | dsimp only
    | simp only [Keeps.upd]
    | simp only [State.inc, State.add, State.wr_frame, Keeps.upd_wr]
    | decide +kernel

theorem placeImages {kb : Bool} {k0 s : State} (hk : Keeps kb k0 s) :
    Keeps kb k0 (State.placeImages s) := by
  unfold State.placeImages
  repeat' first
    | with_reducible assumption
    | intro _
    | with_reducible apply Keeps.log
    | with_reducible apply Keeps.placeImage
    | with_reducible apply Keeps.foldl
    | dsimp only
    | simp only [Keeps.upd]
    | decide +kernel

theorem placeLog {kb : Bool} {k0 s : State} (hk : Keeps kb k0 s) :
    Keeps kb k0 (State.placeLog s) := by
  unfold State.placeLog
  repeat' first
    | with_reducible assumption
    | with_reducible apply Keeps.wr
    | with_reducible apply Keeps.memWrite
    | with_reducible apply Keeps.ite_fst
    | with_reducible apply Keeps.foldl_fst
    | with_reducible apply Keeps.ite
    | dsimp only
    | decide +kernel

theorem safetyTiming {kb : Bool} {k0 s : State} (hk : Keeps kb k0 s) :
    Keeps kb k0 (State.safetyTiming s) := by
  unfold State.safetyTiming
  repeat' first
    | with_reducible assumption
    | simp only [List.foldl_cons, List.foldl_nil]
    | intro _
    | with_reducible apply Keeps.wr
    | with_reducible apply Keeps.foldl
    | dsimp only
    | decide +kernel

theorem zeroPrefix {kb : Bool} {k0 s : State} (hk : Keeps kb k0 s) :
    Keeps kb k0 (State.zeroPrefix s) := by
  unfold State.zeroPrefix
  repeat' first
    | with_reducible assumption
    | with_reducible apply Keeps.zeroHbm
    | dsimp only
    | decide +kernel

theorem firmwareBoot {k0 s : State} (hk : Keeps false k0 s) :
    Keeps false k0 (State.firmwareBoot s) := by
  unfold State.firmwareBoot
  repeat' first
    | with_reducible assumption
    | with_reducible refine Keeps.wr_lock ?_ (by decide +kernel)
    | with_reducible apply Keeps.applyConfig
    | with_reducible apply Keeps.applySetups
    | with_reducible apply Keeps.cantleRings
    | with_reducible apply Keeps.flushLog
    | with_reducible apply Keeps.placeImages
    | with_reducible apply Keeps.placeLog
    | with_reducible apply Keeps.placeRegions
    | with_reducible apply Keeps.safetyTiming
    | with_reducible apply Keeps.zeroPrefix
    | dsimp only
    | decide +kernel

theorem execBootComplete {k0 s : State} (hk : Keeps false k0 s) :
    AnsKeeps false k0 (Sys2Proof.Machine.execBootComplete s) := by
  unfold Sys2Proof.Machine.execBootComplete
  repeat' first
    | with_reducible assumption
    | with_reducible apply Keeps.enterMode
    | with_reducible apply Keeps.firmwareBoot
    | with_reducible apply Keeps.parkDown
    | with_reducible apply Keeps.next
    | with_reducible apply Keeps.ite
    | with_reducible apply Keeps.ans_ite
    | split
    | dsimp only
    | decide +kernel

end Keeps

end Sys2Proof.Machine
end

