-- ==== Sys2Proof/Laws/KeepsBridge.lean ====
section
/-! SUPPORT. What the operations of Machine/Bridge.lean keep. -/

namespace Sys2Proof.Machine

namespace Keeps

set_option Elab.async false
set_option linter.unusedSimpArgs false
set_option linter.unusedVariables false

theorem spaceRead {kb : Bool} {k0 s : State} {src : Source} {a : Nat} {n : Nat} (hk : Keeps kb k0 s) :
    Keeps kb k0 (State.spaceRead s src a n).1 := by
  unfold State.spaceRead
  repeat' first
    | with_reducible assumption
    | with_reducible apply Keeps.countAccess
    | with_reducible apply Keeps.countNarrow
    | with_reducible apply Keeps.ite_fst
    | with_reducible apply Keeps.foldl_fst
    | with_reducible apply Keeps.ite
    | split
    | dsimp only
    | decide +kernel

theorem ownWrite {kb : Bool} {k0 s : State} {src : Source} {a : Nat} {d : Bytes} (hk : Keeps kb k0 s)
    (hq : ∀ x ∈ cutWords (d.length / 8 + 1) a d.length, QuietAt kb x.1 x.2) : Keeps kb k0 (State.ownWrite s src a d) := by
  unfold State.ownWrite
  exact ite (foldl_mem (fun t x hx ht => writeAt ht (hq x hx)) hk) (ctxWrite hk)


theorem ownRead {kb : Bool} {k0 s : State} {src : Source} {a : Nat} {n : Nat} (hk : Keeps kb k0 s) :
    Keeps kb k0 (State.ownRead s src a n).1 := by
  unfold State.ownRead
  repeat' first
    | with_reducible assumption
    | intro _
    | with_reducible apply Keeps.ctxTouch
    | with_reducible apply Keeps.spaceRead
    | with_reducible apply Keeps.ite_fst
    | with_reducible apply Keeps.foldl_fst
    | with_reducible apply Keeps.foldl
    | with_reducible apply Keeps.ite
    | (refine Keeps.of_pair (by assumption) ?_)
    | split
    | dsimp only
    | decide +kernel

theorem execBridgeBurst {kb : Bool} {k0 s : State} {src : Source} {cls : Fin 4} {addr : Nat} {data : Option Bytes} {len : Nat}
    (hk : Keeps kb k0 s)
    (hq : ∀ d, data = some d → ∀ x ∈ cutWords (d.length / 8 + 1) (addr % 2 ^ 48) d.length, QuietAt kb x.1 x.2) :
    AnsKeeps kb k0 (Sys2Proof.Machine.execBridgeBurst src cls addr data len s) := by
  unfold Sys2Proof.Machine.execBridgeBurst
  repeat' first
    | with_reducible assumption
    | with_reducible exact hq _ rfl
    | intro _
    | with_reducible apply Keeps.delayedRead
    | with_reducible apply Keeps.emit
    | with_reducible apply Keeps.fabricRefused
    | with_reducible apply Keeps.ownRead
    | with_reducible apply Keeps.ownWrite
    | with_reducible apply Keeps.request
    | with_reducible apply Keeps.foldl
    | with_reducible apply Keeps.next
    | with_reducible apply Keeps.ite
    | with_reducible apply Keeps.ans_ite
    | dsimp only
    | split


end Keeps

end Sys2Proof.Machine
end

