-- ==== Sys2Proof/Laws/KeepsCellOps.lean ====
section
/-! SUPPORT. What the operations of Machine/CellOps.lean keep. -/

namespace Sys2Proof.Machine

namespace Keeps

set_option Elab.async false
set_option linter.unusedSimpArgs false
set_option linter.unusedVariables false

/-- The state that an error found late carries is one that the relation holds of. -/
def BadKeeps (kb : Bool) (k0 : State) : Bad → Prop
  | .late _ _ t => Keeps kb k0 t
  | _ => True

theorem raise {kb : Bool} {k0 s : State} {f : Fin 17} {cell : Nat} {x : Bad} (hk : Keeps kb k0 s) (hx : BadKeeps kb k0 x) :
    Keeps kb k0 (s.raise f cell x) := by
  unfold State.raise
  split
  · exact fldFault hk
  · exact fldFault (setF hk)
  · exact fldFault hx

/-- Whatever an operation that may fail answers has a property, and an error found late a state that the relation holds of. -/
def OkAll {α : Type} (kb : Bool) (k0 : State) (P : α → Prop) (e : Except Bad α) : Prop :=
  match e with
  | .ok x => P x
  | .error x => BadKeeps kb k0 x

variable {kb : Bool} {k0 : State}

theorem okAll_ok {α : Type} {P : α → Prop} {x : α} (h : P x) : OkAll kb k0 P (.ok x) := h

theorem okAll_flag {α : Type} {P : α → Prop} {n w : Nat} : OkAll kb k0 P (.error (.flag n w)) := trivial

theorem okAll_bind_flag {α β : Type} {P : β → Prop} {n w : Nat} {f : α → Except Bad β} :
    OkAll kb k0 P (Except.error (.flag n w) >>= f) := trivial

theorem okAll_parity {α : Type} {P : α → Prop} {w : Nat} : OkAll kb k0 P (.error (.parity w)) := trivial

theorem okAll_late {α : Type} {P : α → Prop} {n w : Nat} {t : State} (h : Keeps kb k0 t) :
    OkAll kb k0 P (.error (.late n w t)) := h

theorem okAll_pair {α : Type} {t : State} {x : α} (h : Keeps kb k0 t) :
    OkAll kb k0 (fun y : State × α => Keeps kb k0 y.1) (.ok (t, x)) := h

theorem okAll_bind {α β : Type} {Q : α → Prop} {P : β → Prop} {e : Except Bad α} {f : α → Except Bad β} (h : OkAll kb k0 Q e)
    (k : ∀ x, Q x → OkAll kb k0 P (f x)) : OkAll kb k0 P (e >>= f) := by
  cases e with
  | error x => exact h
  | ok x => exact k x h

theorem okAll_bind_pair {α β : Type} {P : β → Prop} {e : Except Bad (State × α)}
    {f : State × α → Except Bad β} (h : OkAll kb k0 (fun y => Keeps kb k0 y.1) e)
    (k : ∀ t y, Keeps kb k0 t → OkAll kb k0 P (f (t, y))) : OkAll kb k0 P (e >>= f) :=
  okAll_bind h (fun x hx => k x.1 x.2 hx)

theorem okAll_bind_state {β : Type} {P : β → Prop} {e : Except Bad State}
    {f : State → Except Bad β} (h : OkAll kb k0 (Keeps kb k0) e) (k : ∀ t, Keeps kb k0 t → OkAll kb k0 P (f t)) :
    OkAll kb k0 P (e >>= f) :=
  okAll_bind h k

theorem okAll_ite {α : Type} {P : α → Prop} {c : Prop} [Decidable c] {x y : Except Bad α} (h : OkAll kb k0 P x)
    (k : OkAll kb k0 P y) : OkAll kb k0 P (if c then x else y) := by
  split
  · exact h
  · exact k

/-- An operation that answers an error, where another operation did. -/
theorem okAll_error {α β : Type} {Q : α → Prop} {P : β → Prop} {e : Except Bad α} {x : Bad} (h : e = .error x)
    (hq : OkAll kb k0 Q e) : OkAll kb k0 P (.error x) := by
  cases h; exact hq

/-- An operation that answers a state. -/
theorem okAll_state {α : Type} {e : Except Bad (State × α)} {t : State} {x : α} (h : e = .ok (t, x))
    (hq : OkAll kb k0 (fun y => Keeps kb k0 y.1) e) : Keeps kb k0 t := by
  cases h; exact hq

/-- What every body of a microword keeps. -/
def BodyKeeps (kb : Bool) (k0 : State) (body : Body) : Prop :=
  ∀ t m rep fs, Keeps kb k0 t → OkAll kb k0 (fun x => Keeps kb k0 x.1) (body t m rep fs)

theorem bodyKeeps_intro {kb : Bool} {k0 : State} {body : Body}
    (h : ∀ t m rep fs, Keeps kb k0 t → OkAll kb k0 (fun x => Keeps kb k0 x.1) (body t m rep fs)) : BodyKeeps kb k0 body := h

theorem fetchFix {kb : Bool} {k0 s : State} {f : Nat} {cell : Nat} {pc : Nat} (hk : Keeps kb k0 s) :
    Keeps kb k0 (State.fetchFix s f cell pc) := by
  unfold State.fetchFix
  repeat' first
    | with_reducible assumption
    | with_reducible apply Keeps.pocketFix
    | with_reducible apply Keeps.ite
    | dsimp only
    | decide +kernel

theorem taken {kb : Bool} {k0 s : State} {cell : Nat} {m : Micro} (hk : Keeps kb k0 s) : Keeps kb k0 (s.taken cell m) := by
  unfold State.taken
  split
  · exact setCell hk
  · exact hk


theorem given {kb : Bool} {k0 s : State} {cell : Nat} {m : Micro} {fs : Option (List Flit)} (hk : Keeps kb k0 s) :
    Keeps kb k0 (s.given cell m fs) := by
  unfold State.given
  split
  · split
    · exact setCell hk
    · exact setCell (drawn hk)
  · exact hk


theorem oneRep {kb : Bool} {k0 s : State} {cell rep : Nat} {m : Micro} {os : List Opd} {body : Body} (hb : BodyKeeps kb k0 body)
    (hk : Keeps kb k0 s) : OkAll kb k0 (Keeps kb k0) (s.oneRep cell m os body rep) := by
  unfold State.oneRep
  have h := hb _ m rep (s.flitsIn cell m) (taken (cell := cell) (m := m) hk)
  split
  · next e =>
    rw [e] at h
    exact h
  · next t fs e =>
    rw [e] at h
    have h : Keeps kb k0 t := h
    exact given (stepGens h)

/-- What repetitions of a microword keep, also those before one that stops. -/
theorem reps {kb : Bool} {k0 s : State} {cell rep n : Nat} {m : Micro} {os : List Opd} {body : Body} (hb : BodyKeeps kb k0 body)
    (hk : Keeps kb k0 s) : match s.reps cell m os body rep n with
      | .ok t => Keeps kb k0 t
      | .error e => BadKeeps kb k0 e.1 ∧ Keeps kb k0 e.2 := by
  induction n generalizing s rep with
  | zero => exact hk
  | succ n ih =>
    unfold State.reps
    have h := oneRep (cell := cell) (rep := rep) (m := m) (os := os) hb hk
    cases e : s.oneRep cell m os body rep with
    | error x =>
      rw [e] at h
      exact ⟨h, hk⟩
    | ok t =>
      rw [e] at h
      exact ih h


theorem microAt_bad {kb : Bool} {k0 s : State} {cell pc : Nat} {x : Bad} (e : s.microAt cell pc = .error x) : BadKeeps kb k0 x := by
  unfold State.microAt at e
  dsimp only at e
  repeat' split at e
  all_goals cases e
  all_goals trivial

theorem runWord {kb : Bool} {k0 s : State} {cell cls op : Nat} {total : Micro → Nat} {os : Micro → List Opd}
    {nx : CellSt → Micro → Nat} {body : Body} (hk : Keeps kb k0 s) (hb : BodyKeeps kb k0 body) :
    Keeps kb k0 (s.runWord cell cls op total os nx body) := by
  unfold State.runWord
  split
  · exact hk
  · next f e =>
    dsimp only
    refine ite hk ?_
    split
    · next e2 => exact raise hk (microAt_bad e2)
    · next m e2 =>
      have hk := fetchFix (f := f) (cell := cell) (pc := (s.cell cell).pc) hk
      refine ite (microError hk) (ite hk (ite (microError hk) (ite hk (ite (setCell hk) ?_))))
      split
      · exact raise hk trivial
      · have h := reps (cell := cell) (rep := (s.cell cell).rep) (n := (s.cell cell).ready m (total m - (s.cell cell).rep)) (m := m)
          (os := os m) hb hk
        split
        · next e3 =>
          rw [e3] at h
          exact raise h.2 h.1
        · next t e3 =>
          rw [e3] at h
          exact ite (setCell h) (ite (setCell h) (progress (setCell h)))


theorem readPocket {kb : Bool} {k0 s : State} {cell o n : Nat} (hk : Keeps kb k0 s) :
    OkAll kb k0 (fun x => Keeps kb k0 x.1) (s.readPocket cell o n) := by
  unfold State.readPocket
  split
  · trivial
  · exact fixPocket hk


theorem writePocket {kb : Bool} {k0 s : State} {cell o : Nat} {bs : Bytes} (hk : Keeps kb k0 s) :
    OkAll kb k0 (Keeps kb k0) (s.writePocket cell o bs) := by
  unfold State.writePocket
  split
  · trivial
  · exact pocketPut (fixPart hk)


theorem dropsOf {kb : Bool} {k0 s : State} {cell : Nat} {cs : List Conv} (hk : Keeps kb k0 s) :
    Keeps kb k0 (State.dropsOf s cell cs) := by
  unfold State.dropsOf
  repeat' first
    | with_reducible assumption
    | with_reducible apply Keeps.drop
    | with_reducible apply Keeps.noteDrops
    | with_reducible apply Keeps.ite
    | split
    | dsimp only
    | decide +kernel

end Keeps

end Sys2Proof.Machine
end

