-- ==== Sys2Proof/Laws/KeepsCells.lean ====
section
/-! SUPPORT. What the operations of Machine/Cells.lean keep. -/

namespace Sys2Proof.Machine

namespace Keeps

set_option Elab.async false
set_option linter.unusedSimpArgs false
set_option linter.unusedVariables false

theorem idleBody {kb : Bool} {k0 : State} : BodyKeeps kb k0 Sys2Proof.Machine.idleBody := fun _ _ _ _ h => h


theorem execControlNop {kb : Bool} {k0 s : State} {cell : Fin 2368} (hk : Keeps kb k0 s) :
    AnsKeeps kb k0 (Sys2Proof.Machine.execControlNop cell s) := by
  unfold Sys2Proof.Machine.execControlNop
  repeat' first
    | with_reducible assumption
    | exact Keeps.idleBody
    | exact Keeps.mmaBody
    | exact Keeps.lanes2
    | exact Keeps.extremum
    | intro _
    | with_reducible apply Keeps.runWord
    | with_reducible apply Keeps.bodyKeeps_intro
    | with_reducible apply Keeps.okAll_bind_flag
    | with_reducible apply Keeps.okAll_bind_pair
    | with_reducible apply Keeps.okAll_bind_state
    | with_reducible apply Keeps.readPocket
    | with_reducible apply Keeps.writePocket
    | with_reducible apply Keeps.readStep
    | with_reducible apply Keeps.okAll_pair
    | with_reducible apply Keeps.okAll_flag
    | with_reducible apply Keeps.okAll_parity
    | with_reducible apply Keeps.okAll_late
    | with_reducible apply Keeps.okAll_ite
    | with_reducible apply Keeps.runWord
    | with_reducible apply Keeps.next
    | dsimp only
    | decide +kernel
    | split

theorem execControlJump {kb : Bool} {k0 s : State} {cell : Fin 2368} (hk : Keeps kb k0 s) :
    AnsKeeps kb k0 (Sys2Proof.Machine.execControlJump cell s) := by
  unfold Sys2Proof.Machine.execControlJump
  repeat' first
    | with_reducible assumption
    | exact Keeps.idleBody
    | exact Keeps.mmaBody
    | exact Keeps.lanes2
    | exact Keeps.extremum
    | intro _
    | with_reducible apply Keeps.runWord
    | with_reducible apply Keeps.bodyKeeps_intro
    | with_reducible apply Keeps.okAll_bind_flag
    | with_reducible apply Keeps.okAll_bind_pair
    | with_reducible apply Keeps.okAll_bind_state
    | with_reducible apply Keeps.readPocket
    | with_reducible apply Keeps.writePocket
    | with_reducible apply Keeps.readStep
    | with_reducible apply Keeps.okAll_pair
    | with_reducible apply Keeps.okAll_flag
    | with_reducible apply Keeps.okAll_parity
    | with_reducible apply Keeps.okAll_late
    | with_reducible apply Keeps.okAll_ite
    | with_reducible apply Keeps.runWord
    | with_reducible apply Keeps.next
    | dsimp only
    | decide +kernel
    | split

theorem execControlLoopset {kb : Bool} {k0 s : State} {cell : Fin 2368} (hk : Keeps kb k0 s) :
    AnsKeeps kb k0 (Sys2Proof.Machine.execControlLoopset cell s) := by
  unfold Sys2Proof.Machine.execControlLoopset Sys2Proof.Machine.controlLoopsetBody
  repeat' first
    | with_reducible assumption
    | intro _
    | with_reducible apply Keeps.runWord
    | with_reducible apply Keeps.bodyKeeps_intro
    | with_reducible apply Keeps.okAll_bind_flag
    | with_reducible apply Keeps.okAll_bind_pair
    | with_reducible apply Keeps.okAll_bind_state
    | with_reducible apply Keeps.readPocket
    | with_reducible apply Keeps.writePocket
    | with_reducible apply Keeps.readStep
    | with_reducible apply Keeps.okAll_pair
    | with_reducible apply Keeps.okAll_flag
    | with_reducible apply Keeps.okAll_parity
    | with_reducible apply Keeps.okAll_late
    | with_reducible apply Keeps.okAll_ite
    | with_reducible apply Keeps.runWord
    | with_reducible apply Keeps.setCell
    | with_reducible apply Keeps.next
    | split
    | dsimp only
    | simp only [Keeps.upd]
    | decide +kernel
    | split

theorem execControlLoop {kb : Bool} {k0 s : State} {cell : Fin 2368} (hk : Keeps kb k0 s) :
    AnsKeeps kb k0 (Sys2Proof.Machine.execControlLoop cell s) := by
  unfold Sys2Proof.Machine.execControlLoop Sys2Proof.Machine.controlLoopBody
  repeat' first
    | with_reducible assumption
    | intro _
    | with_reducible apply Keeps.runWord
    | with_reducible apply Keeps.bodyKeeps_intro
    | with_reducible apply Keeps.okAll_bind_flag
    | with_reducible apply Keeps.okAll_bind_pair
    | with_reducible apply Keeps.okAll_bind_state
    | with_reducible apply Keeps.readPocket
    | with_reducible apply Keeps.writePocket
    | with_reducible apply Keeps.readStep
    | with_reducible apply Keeps.okAll_pair
    | with_reducible apply Keeps.okAll_flag
    | with_reducible apply Keeps.okAll_parity
    | with_reducible apply Keeps.okAll_late
    | with_reducible apply Keeps.okAll_ite
    | with_reducible apply Keeps.runWord
    | with_reducible apply Keeps.setCell
    | with_reducible apply Keeps.next
    | with_reducible apply Keeps.ite
    | with_reducible apply Keeps.ans_ite
    | dsimp only
    | simp only [Keeps.upd]
    | decide +kernel
    | split

theorem afterEnd {kb : Bool} {k0 t : State} {s : State} {cell : Nat} (hk : Keeps kb k0 t) :
    Keeps kb k0 (State.afterEnd t s cell) := by
  unfold State.afterEnd
  repeat' first
    | with_reducible assumption
    | with_reducible apply Keeps.endJob
    | with_reducible apply Keeps.setCell
    | with_reducible apply Keeps.ite
    | dsimp only
    | decide +kernel

theorem execControlEnd {kb : Bool} {k0 s : State} {cell : Fin 2368} (hk : Keeps kb k0 s) :
    AnsKeeps kb k0 (Sys2Proof.Machine.execControlEnd cell s) := by
  unfold Sys2Proof.Machine.execControlEnd Sys2Proof.Machine.controlEndBody
  repeat' first
    | with_reducible assumption
    | intro _
    | with_reducible apply Keeps.runWord
    | with_reducible apply Keeps.bodyKeeps_intro
    | with_reducible apply Keeps.okAll_bind_flag
    | with_reducible apply Keeps.okAll_bind_pair
    | with_reducible apply Keeps.okAll_bind_state
    | with_reducible apply Keeps.readPocket
    | with_reducible apply Keeps.writePocket
    | with_reducible apply Keeps.readStep
    | with_reducible apply Keeps.okAll_pair
    | with_reducible apply Keeps.okAll_flag
    | with_reducible apply Keeps.okAll_parity
    | with_reducible apply Keeps.okAll_late
    | with_reducible apply Keeps.okAll_ite
    | with_reducible apply Keeps.afterEnd
    | with_reducible apply Keeps.changeJob
    | with_reducible apply Keeps.runWord
    | with_reducible apply Keeps.next
    | dsimp only
    | simp only [Keeps.upd]
    | decide +kernel
    | split

theorem readScales {kb : Bool} {k0 s : State} {cell : Nat} {o : Opd} {rep : Nat} (hk : Keeps kb k0 s) :
    OkAll kb k0 (fun x => Keeps kb k0 x.1) (s.readScales cell o rep) := by
  unfold State.readScales
  dsimp only
  split
  · trivial
  · refine okAll_pair ?_
    exact foldl (fun t a ht => fixPocket ht) hk


theorem readStep {kb : Bool} {k0 s : State} {cell rep : Nat} {m : Micro} (hk : Keeps kb k0 s) :
    OkAll kb k0 (fun x => Keeps kb k0 x.1) (s.readStep cell m rep) := by
  unfold State.readStep
  refine okAll_bind_pair (readPocket hk) (fun t x ht => okAll_bind_pair (readPocket ht) (fun u y hu => ?_))
  repeat' first
    | with_reducible assumption
    | intro _
    | with_reducible apply okAll_bind_pair
    | with_reducible apply readScales
    | with_reducible apply okAll_pair
    | with_reducible apply okAll_ite
    | dsimp only


theorem mmaBody {kb : Bool} {k0 : State} {cell : Nat} {new : Bool} : BodyKeeps kb k0 (Sys2Proof.Machine.mmaBody cell new) := by
  unfold Sys2Proof.Machine.mmaBody
  repeat' first
    | with_reducible assumption
    | intro _
    | with_reducible apply Keeps.bodyKeeps_intro
    | with_reducible apply Keeps.okAll_bind_pair
    | with_reducible apply Keeps.readStep
    | with_reducible apply Keeps.okAll_pair
    | with_reducible apply Keeps.okAll_flag
    | with_reducible apply Keeps.okAll_late
    | with_reducible apply Keeps.okAll_ite
    | with_reducible apply Keeps.ite
    | with_reducible apply Keeps.noteRange
    | with_reducible apply Keeps.setCell
    | with_reducible apply Keeps.drawn
    | with_reducible apply Keeps.vecOut
    | dsimp only
    | split


theorem execMatrixMma {kb : Bool} {k0 s : State} {cell : Fin 2368} (hk : Keeps kb k0 s) :
    AnsKeeps kb k0 (Sys2Proof.Machine.execMatrixMma cell s) := by
  unfold Sys2Proof.Machine.execMatrixMma
  repeat' first
    | with_reducible assumption
    | exact Keeps.idleBody
    | exact Keeps.mmaBody
    | exact Keeps.lanes2
    | exact Keeps.extremum
    | intro _
    | with_reducible apply Keeps.runWord
    | with_reducible apply Keeps.bodyKeeps_intro
    | with_reducible apply Keeps.okAll_bind_flag
    | with_reducible apply Keeps.okAll_bind_pair
    | with_reducible apply Keeps.okAll_bind_state
    | with_reducible apply Keeps.readPocket
    | with_reducible apply Keeps.writePocket
    | with_reducible apply Keeps.readStep
    | with_reducible apply Keeps.okAll_pair
    | with_reducible apply Keeps.okAll_flag
    | with_reducible apply Keeps.okAll_parity
    | with_reducible apply Keeps.okAll_late
    | with_reducible apply Keeps.okAll_ite
    | with_reducible apply Keeps.runWord
    | with_reducible apply Keeps.next
    | dsimp only
    | decide +kernel
    | split

theorem execMatrixMmaNew {kb : Bool} {k0 s : State} {cell : Fin 2368} (hk : Keeps kb k0 s) :
    AnsKeeps kb k0 (Sys2Proof.Machine.execMatrixMmaNew cell s) := by
  unfold Sys2Proof.Machine.execMatrixMmaNew
  repeat' first
    | with_reducible assumption
    | exact Keeps.idleBody
    | exact Keeps.mmaBody
    | exact Keeps.lanes2
    | exact Keeps.extremum
    | intro _
    | with_reducible apply Keeps.runWord
    | with_reducible apply Keeps.bodyKeeps_intro
    | with_reducible apply Keeps.okAll_bind_flag
    | with_reducible apply Keeps.okAll_bind_pair
    | with_reducible apply Keeps.okAll_bind_state
    | with_reducible apply Keeps.readPocket
    | with_reducible apply Keeps.writePocket
    | with_reducible apply Keeps.readStep
    | with_reducible apply Keeps.okAll_pair
    | with_reducible apply Keeps.okAll_flag
    | with_reducible apply Keeps.okAll_parity
    | with_reducible apply Keeps.okAll_late
    | with_reducible apply Keeps.okAll_ite
    | with_reducible apply Keeps.runWord
    | with_reducible apply Keeps.next
    | dsimp only
    | decide +kernel
    | split

theorem execMatrixDrain {kb : Bool} {k0 s : State} {cell : Fin 2368} (hk : Keeps kb k0 s) :
    AnsKeeps kb k0 (Sys2Proof.Machine.execMatrixDrain cell s) := by
  unfold Sys2Proof.Machine.execMatrixDrain Sys2Proof.Machine.matrixDrainBody
  repeat' first
    | with_reducible assumption
    | intro _
    | with_reducible apply Keeps.runWord
    | with_reducible apply Keeps.bodyKeeps_intro
    | with_reducible apply Keeps.okAll_bind_flag
    | with_reducible apply Keeps.okAll_bind_pair
    | with_reducible apply Keeps.okAll_bind_state
    | with_reducible apply Keeps.readPocket
    | with_reducible apply Keeps.writePocket
    | with_reducible apply Keeps.readStep
    | with_reducible apply Keeps.okAll_pair
    | with_reducible apply Keeps.okAll_flag
    | with_reducible apply Keeps.okAll_parity
    | with_reducible apply Keeps.okAll_late
    | with_reducible apply Keeps.okAll_ite
    | with_reducible apply Keeps.drop
    | with_reducible apply Keeps.dropsOf
    | with_reducible apply Keeps.runWord
    | with_reducible apply Keeps.setCell
    | with_reducible apply Keeps.next
    | with_reducible apply Keeps.ite
    | with_reducible apply Keeps.ans_ite
    | dsimp only
    | decide +kernel
    | split

theorem execMatrixChkcmp {kb : Bool} {k0 s : State} {cell : Fin 2368} (hk : Keeps kb k0 s) :
    AnsKeeps kb k0 (Sys2Proof.Machine.execMatrixChkcmp cell s) := by
  unfold Sys2Proof.Machine.execMatrixChkcmp Sys2Proof.Machine.matrixChkcmpBody
  repeat' first
    | with_reducible assumption
    | intro _
    | with_reducible apply Keeps.runWord
    | with_reducible apply Keeps.bodyKeeps_intro
    | with_reducible apply Keeps.okAll_bind_flag
    | with_reducible apply Keeps.okAll_bind_pair
    | with_reducible apply Keeps.okAll_bind_state
    | with_reducible apply Keeps.readPocket
    | with_reducible apply Keeps.writePocket
    | with_reducible apply Keeps.readStep
    | with_reducible apply Keeps.okAll_pair
    | with_reducible apply Keeps.okAll_flag
    | with_reducible apply Keeps.okAll_parity
    | with_reducible apply Keeps.okAll_late
    | with_reducible apply Keeps.okAll_ite
    | with_reducible apply Keeps.noteSkips
    | with_reducible apply Keeps.runWord
    | with_reducible apply Keeps.setCell
    | with_reducible apply Keeps.next
    | with_reducible apply Keeps.ite
    | with_reducible apply Keeps.ans_ite
    | split
    | dsimp only
    | simp only [Keeps.upd]
    | decide +kernel
    | split

theorem execStreamSend {kb : Bool} {k0 s : State} {cell : Fin 2368} (hk : Keeps kb k0 s) :
    AnsKeeps kb k0 (Sys2Proof.Machine.execStreamSend cell s) := by
  unfold Sys2Proof.Machine.execStreamSend Sys2Proof.Machine.streamSendBody
  repeat' first
    | with_reducible assumption
    | intro _
    | with_reducible apply Keeps.runWord
    | with_reducible apply Keeps.bodyKeeps_intro
    | with_reducible apply Keeps.okAll_bind_flag
    | with_reducible apply Keeps.okAll_bind_pair
    | with_reducible apply Keeps.okAll_bind_state
    | with_reducible apply Keeps.readPocket
    | with_reducible apply Keeps.writePocket
    | with_reducible apply Keeps.readStep
    | with_reducible apply Keeps.okAll_pair
    | with_reducible apply Keeps.okAll_flag
    | with_reducible apply Keeps.okAll_parity
    | with_reducible apply Keeps.okAll_late
    | with_reducible apply Keeps.okAll_ite
    | with_reducible apply Keeps.runWord
    | with_reducible apply Keeps.next
    | split
    | dsimp only
    | decide +kernel
    | split

theorem storeFlits {kb : Bool} {k0 s : State} {cell : Nat} {o : Nat} {fs : List Flit} (hk : Keeps kb k0 s) :
    Keeps kb k0 (State.storeFlits s cell o fs) := by
  unfold State.storeFlits
  repeat' first
    | with_reducible assumption
    | intro _
    | with_reducible apply Keeps.pocketPut
    | with_reducible apply Keeps.ite_fst
    | with_reducible apply Keeps.foldl_fst
    | with_reducible apply Keeps.foldl
    | dsimp only
    | decide +kernel

theorem execStreamRecv {kb : Bool} {k0 s : State} {cell : Fin 2368} (hk : Keeps kb k0 s) :
    AnsKeeps kb k0 (Sys2Proof.Machine.execStreamRecv cell s) := by
  unfold Sys2Proof.Machine.execStreamRecv Sys2Proof.Machine.streamRecvBody
  repeat' first
    | with_reducible assumption
    | intro _
    | with_reducible apply Keeps.runWord
    | with_reducible apply Keeps.bodyKeeps_intro
    | with_reducible apply Keeps.okAll_bind_flag
    | with_reducible apply Keeps.okAll_bind_pair
    | with_reducible apply Keeps.okAll_bind_state
    | with_reducible apply Keeps.readPocket
    | with_reducible apply Keeps.writePocket
    | with_reducible apply Keeps.readStep
    | with_reducible apply Keeps.okAll_pair
    | with_reducible apply Keeps.okAll_flag
    | with_reducible apply Keeps.okAll_parity
    | with_reducible apply Keeps.okAll_late
    | with_reducible apply Keeps.okAll_ite
    | with_reducible apply Keeps.fixPart
    | with_reducible apply Keeps.runWord
    | with_reducible apply Keeps.storeFlits
    | with_reducible apply Keeps.next
    | split
    | dsimp only
    | decide +kernel
    | split

theorem execSignalToken {kb : Bool} {k0 s : State} {cell : Fin 2368} (hk : Keeps kb k0 s) :
    AnsKeeps kb k0 (Sys2Proof.Machine.execSignalToken cell s) := by
  unfold Sys2Proof.Machine.execSignalToken Sys2Proof.Machine.signalTokenBody
  repeat' first
    | with_reducible assumption
    | intro _
    | with_reducible apply Keeps.runWord
    | with_reducible apply Keeps.bodyKeeps_intro
    | with_reducible apply Keeps.okAll_bind_flag
    | with_reducible apply Keeps.okAll_bind_pair
    | with_reducible apply Keeps.okAll_bind_state
    | with_reducible apply Keeps.readPocket
    | with_reducible apply Keeps.writePocket
    | with_reducible apply Keeps.readStep
    | with_reducible apply Keeps.okAll_pair
    | with_reducible apply Keeps.okAll_flag
    | with_reducible apply Keeps.okAll_parity
    | with_reducible apply Keeps.okAll_late
    | with_reducible apply Keeps.okAll_ite
    | with_reducible apply Keeps.runWord
    | with_reducible apply Keeps.setCell
    | with_reducible apply Keeps.next
    | with_reducible apply Keeps.ite
    | with_reducible apply Keeps.ans_ite
    | split
    | dsimp only
    | simp only [Keeps.upd]
    | decide +kernel
    | split

theorem execSignalWaittok {kb : Bool} {k0 s : State} {cell : Fin 2368} (hk : Keeps kb k0 s) :
    AnsKeeps kb k0 (Sys2Proof.Machine.execSignalWaittok cell s) := by
  unfold Sys2Proof.Machine.execSignalWaittok Sys2Proof.Machine.signalWaittokBody
  repeat' first
    | with_reducible assumption
    | intro _
    | with_reducible apply Keeps.runWord
    | with_reducible apply Keeps.bodyKeeps_intro
    | with_reducible apply Keeps.okAll_bind_flag
    | with_reducible apply Keeps.okAll_bind_pair
    | with_reducible apply Keeps.okAll_bind_state
    | with_reducible apply Keeps.readPocket
    | with_reducible apply Keeps.writePocket
    | with_reducible apply Keeps.readStep
    | with_reducible apply Keeps.okAll_pair
    | with_reducible apply Keeps.okAll_flag
    | with_reducible apply Keeps.okAll_parity
    | with_reducible apply Keeps.okAll_late
    | with_reducible apply Keeps.okAll_ite
    | with_reducible apply Keeps.runWord
    | with_reducible apply Keeps.setCell
    | with_reducible apply Keeps.next
    | with_reducible apply Keeps.ite
    | with_reducible apply Keeps.ans_ite
    | dsimp only
    | simp only [Keeps.upd]
    | decide +kernel
    | split

theorem tokenArrives {kb : Bool} {k0 s : State} {f : Nat} {cell : Nat} {n : Nat} (hk : Keeps kb k0 s) :
    Keeps kb k0 (State.tokenArrives s f cell n) := by
  unfold State.tokenArrives
  repeat' first
    | with_reducible assumption
    | intro _
    | with_reducible apply Keeps.setCell
    | split
    | dsimp only
    | simp only [Keeps.upd]
    | decide +kernel

theorem execControlPacket {kb : Bool} {k0 s : State} {cell : Fin 2368} {kind : PacketKind} (hk : Keeps kb k0 s) :
    AnsKeeps kb k0 (Sys2Proof.Machine.execControlPacket cell kind s) := by
  unfold Sys2Proof.Machine.execControlPacket
  repeat' first
    | with_reducible assumption
    | with_reducible apply Keeps.progress
    | with_reducible apply Keeps.setCell
    | with_reducible apply Keeps.tokenArrives
    | with_reducible apply Keeps.next
    | with_reducible apply Keeps.ite
    | with_reducible apply Keeps.ans_ite
    | split
    | dsimp only
    | simp only [Keeps.upd]
    | decide +kernel

end Keeps

end Sys2Proof.Machine
end

