-- ==== Sys2Proof/Laws/KeepsModes.lean ====
section
/-! SUPPORT. What the operations of Machine/Modes.lean keep. -/

namespace Sys2Proof.Machine

namespace Keeps

set_option Elab.async false
set_option linter.unusedSimpArgs false
set_option linter.unusedVariables false

theorem requestBy {k0 s : State} {src : Source} {m : Nat} (hk : Keeps false k0 s) :
    Keeps false k0 (State.requestBy s src m) := by
  unfold State.requestBy
  repeat' first
    | with_reducible assumption
    | intro _
    | with_reducible apply Keeps.asWho
    | with_reducible apply Keeps.requestMode
    | dsimp only
    | decide +kernel

theorem execModeRequestParkWarm {k0 s : State} {src : Source} (hk : Keeps false k0 s) :
    AnsKeeps false k0 (Sys2Proof.Machine.execModeRequestParkWarm src s) := by
  unfold Sys2Proof.Machine.execModeRequestParkWarm
  repeat' first
    | with_reducible assumption
    | with_reducible apply Keeps.requestBy
    | with_reducible apply Keeps.next
    | dsimp only
    | decide +kernel

theorem execModeRequestParkCold {k0 s : State} {src : Source} (hk : Keeps false k0 s) :
    AnsKeeps false k0 (Sys2Proof.Machine.execModeRequestParkCold src s) := by
  unfold Sys2Proof.Machine.execModeRequestParkCold
  repeat' first
    | with_reducible assumption
    | with_reducible apply Keeps.requestBy
    | with_reducible apply Keeps.next
    | dsimp only
    | decide +kernel

theorem execModeRequestDepot {k0 s : State} {src : Source} (hk : Keeps false k0 s) :
    AnsKeeps false k0 (Sys2Proof.Machine.execModeRequestDepot src s) := by
  unfold Sys2Proof.Machine.execModeRequestDepot
  repeat' first
    | with_reducible assumption
    | with_reducible apply Keeps.requestBy
    | with_reducible apply Keeps.next
    | dsimp only
    | decide +kernel

theorem execClockChangeDone {k0 s : State} (hk : Keeps false k0 s) :
    AnsKeeps false k0 (Sys2Proof.Machine.execClockChangeDone s) := by
  unfold Sys2Proof.Machine.execClockChangeDone
  repeat' first
    | with_reducible assumption
    | with_reducible apply Keeps.depotIn
    | with_reducible apply Keeps.next
    | with_reducible apply Keeps.ite
    | with_reducible apply Keeps.ans_ite
    | split
    | dsimp only
    | simp only [Keeps.upd]
    | decide +kernel

theorem execParkWarmTimerExpiry {k0 s : State} (hk : Keeps false k0 s) :
    AnsKeeps false k0 (Sys2Proof.Machine.execParkWarmTimerExpiry s) := by
  unfold Sys2Proof.Machine.execParkWarmTimerExpiry
  repeat' first
    | with_reducible assumption
    | intro _
    | with_reducible apply Keeps.parkCold
    | with_reducible apply Keeps.next
    | with_reducible apply Keeps.ite
    | with_reducible apply Keeps.ans_ite
    | dsimp only
    | decide +kernel

theorem execAlwaysOnTimerExpiry {kb : Bool} {k0 s : State} (hk : Keeps kb k0 s) :
    AnsKeeps kb k0 (Sys2Proof.Machine.execAlwaysOnTimerExpiry s) := by
  unfold Sys2Proof.Machine.execAlwaysOnTimerExpiry
  repeat' first
    | with_reducible assumption
    | intro _
    | with_reducible apply Keeps.coldWake
    | with_reducible apply Keeps.next
    | with_reducible apply Keeps.ite
    | with_reducible apply Keeps.ans_ite
    | dsimp only
    | decide +kernel

theorem execCanWake {k0 s : State} (hk : Keeps false k0 s) :
    AnsKeeps false k0 (Sys2Proof.Machine.execCanWake s) := by
  unfold Sys2Proof.Machine.execCanWake
  repeat' first
    | with_reducible assumption
    | with_reducible apply Keeps.wake
    | with_reducible apply Keeps.next
    | dsimp only
    | decide +kernel

theorem execEthWake {k0 s : State} (hk : Keeps false k0 s) :
    AnsKeeps false k0 (Sys2Proof.Machine.execEthWake s) := by
  unfold Sys2Proof.Machine.execEthWake
  repeat' first
    | with_reducible assumption
    | with_reducible apply Keeps.wake
    | with_reducible apply Keeps.next
    | dsimp only
    | decide +kernel

theorem execTenantFreezeKillDeadline {kb : Bool} {k0 s : State} (hk : Keeps kb k0 s) :
    AnsKeeps kb k0 (Sys2Proof.Machine.execTenantFreezeKillDeadline s) := by
  unfold Sys2Proof.Machine.execTenantFreezeKillDeadline
  repeat' first
    | with_reducible assumption
    | intro _
    | with_reducible apply Keeps.freezeKill
    | with_reducible apply Keeps.each
    | with_reducible apply Keeps.next
    | with_reducible apply Keeps.ite
    | with_reducible apply Keeps.ans_ite
    | dsimp only
    | decide +kernel

theorem execBackstop {kb : Bool} {k0 s : State} (hk : Keeps kb k0 s) :
    AnsKeeps kb k0 (Sys2Proof.Machine.execBackstop s) := by
  unfold Sys2Proof.Machine.execBackstop
  repeat' first
    | with_reducible assumption
    | intro _
    | with_reducible apply Keeps.wr
    | with_reducible apply Keeps.resetVef
    | with_reducible apply Keeps.each
    | with_reducible apply Keeps.next
    | with_reducible apply Keeps.ite
    | with_reducible apply Keeps.ans_ite
    | dsimp only
    | decide +kernel

theorem execFreezeComplete {k0 s : State} {vef : Fin 128} (hk : Keeps false k0 s) :
    AnsKeeps false k0 (Sys2Proof.Machine.execFreezeComplete vef s) := by
  unfold Sys2Proof.Machine.execFreezeComplete
  repeat' first
    | with_reducible assumption
    | with_reducible apply Keeps.freezeDone
    | with_reducible apply Keeps.modeProgress
    | with_reducible apply Keeps.next
    | with_reducible apply Keeps.ite
    | with_reducible apply Keeps.ans_ite
    | dsimp only
    | decide +kernel

theorem execVefResetDone {k0 s : State} {vef : Fin 128} (hk : Keeps false k0 s) :
    AnsKeeps false k0 (Sys2Proof.Machine.execVefResetDone vef s) := by
  unfold Sys2Proof.Machine.execVefResetDone
  repeat' first
    | with_reducible assumption
    | with_reducible apply Keeps.modeProgress
    | with_reducible apply Keeps.resetDone
    | with_reducible apply Keeps.next
    | dsimp only
    | decide +kernel

end Keeps

end Sys2Proof.Machine
end

