-- ==== Sys2Proof/Laws/KeepsMovers.lean ====
section
/-! SUPPORT. What the operations of Machine/Movers.lean keep. -/

namespace Sys2Proof.Machine

namespace Keeps

set_option Elab.async false
set_option linter.unusedSimpArgs false
set_option linter.unusedVariables false

theorem pieceTouch {kb : Bool} {k0 s : State} {f cell : Nat} {x : Place} (hk : Keeps kb k0 s) : Keeps kb k0 (s.pieceTouch f cell x) := by
  unfold State.pieceTouch
  split
  · exact pocketFix hk
  · exact sramFix hk
  · exact winTouch hk
  · exact ctxTouch hk
  · exact hk

theorem pieceWrite {kb : Bool} {k0 s : State} {f : Fin 17} {cell : Nat} {bs : Bytes} {q : List Nat} {x : Place} (hk : Keeps kb k0 s) :
    Keeps kb k0 (s.pieceWrite f cell bs q x) := by
  unfold State.pieceWrite
  split
  · split
    · exact fldFault hk
    · exact pocketPoison (pocketPut (fixPart hk))
  · split
    · exact fldFault hk
    · exact sramStore (ite hk (sramFix hk))
  · exact ite (winWrite hk) (targetPoison (winWrite hk))
  · exact ite (ctxWrite hk) (targetPoison (ctxWrite hk))
  · exact hk


theorem movePiece {kb : Bool} {k0 s : State} {f : Fin 17} {cell : Nat} {x : Xfer} {n : Nat} (hk : Keeps kb k0 s) :
    Keeps kb k0 (State.movePiece s f cell x n) := by
  unfold State.movePiece
  repeat' first
    | with_reducible assumption
    | intro _
    | with_reducible apply Keeps.changeJob
    | with_reducible apply Keeps.fldFault
    | with_reducible apply Keeps.pieceTouch
    | with_reducible apply Keeps.pieceWrite
    | with_reducible apply Keeps.ite_fst
    | with_reducible apply Keeps.foldl_fst
    | with_reducible apply Keeps.ite
    | split
    | dsimp only
    | simp only [Keeps.upd]
    | decide +kernel

theorem movePieces {kb : Bool} {k0 s : State} {f : Fin 17} {cell : Nat} {x : Xfer} {from_ : Nat} {to_ : Nat} (hk : Keeps kb k0 s) :
    Keeps kb k0 (State.movePieces s f cell x from_ to_) := by
  unfold State.movePieces
  repeat' first
    | with_reducible assumption
    | intro _
    | with_reducible apply Keeps.movePiece
    | with_reducible apply Keeps.foldl
    | with_reducible apply Keeps.ite
    | dsimp only
    | decide +kernel

theorem finishXfer {kb : Bool} {k0 s : State} {f : Fin 17} {cell : Nat} {x : Fin 8} {t : Xfer} (hk : Keeps kb k0 s) :
    Keeps kb k0 (State.finishXfer s f cell x t) := by
  unfold State.finishXfer
  repeat' first
    | with_reducible assumption
    | with_reducible apply Keeps.movePieces
    | with_reducible apply Keeps.progress
    | with_reducible apply Keeps.setCell
    | with_reducible apply Keeps.ite
    | dsimp only
    | simp only [Keeps.upd]
    | decide +kernel

theorem sidePage {kb : Bool} {k0 s : State} {f cell : Nat} {j : Option Job} {p : Prog} {side : Side} {w : Bool} (hk : Keeps kb k0 s) :
    OkAll kb k0 (fun x => Keeps kb k0 x.1) (s.sidePage f cell j p side w) := by
  unfold State.sidePage
  refine okAll_ite ?_ hk
  have h := readPocket (cell := cell) (o := side.off % 2 ^ 17) (n := 32) hk
  split
  · next e =>
    rw [e] at h
    exact h
  · next u b e =>
    rw [e] at h
    split
    · exact h
    · exact h


theorem execMoverStart {kb : Bool} {k0 s : State} {cell : Fin 2368} (hk : Keeps kb k0 s) :
    AnsKeeps kb k0 (Sys2Proof.Machine.execMoverStart cell s) := by
  unfold Sys2Proof.Machine.execMoverStart Sys2Proof.Machine.moverStartBody
  repeat' first
    | with_reducible assumption
    | intro _
    | with_reducible apply Keeps.runWord
    | with_reducible apply Keeps.bodyKeeps_intro
    | with_reducible apply Keeps.okAll_bind_flag
    | with_reducible apply Keeps.okAll_bind_pair
    | with_reducible apply Keeps.okAll_bind_state
    | with_reducible apply Keeps.readPocket
    | with_reducible apply Keeps.writePocket
    | with_reducible apply Keeps.readStep
    | with_reducible apply Keeps.okAll_pair
    | with_reducible apply Keeps.okAll_flag
    | with_reducible apply Keeps.okAll_parity
    | with_reducible apply Keeps.okAll_late
    | with_reducible apply Keeps.okAll_ite
    | (refine Keeps.okAll_error (by assumption) (Keeps.sidePage ?_))
    | (refine Keeps.okAll_state (by assumption) (Keeps.sidePage ?_))
    | with_reducible apply Keeps.finishXfer
    | with_reducible apply Keeps.runWord
    | with_reducible apply Keeps.setCell
    | with_reducible apply Keeps.next
    | with_reducible apply Keeps.ite
    | with_reducible apply Keeps.ans_ite
    | split
    | dsimp only
    | simp only [Keeps.upd]
    | decide +kernel
    | split

theorem cacheEntry {kb : Bool} {k0 s : State} {f : Nat} {k : Nat} {q : Nat} {b : Nat} (hk : Keeps kb k0 s) :
    Keeps kb k0 (State.cacheEntry s f k q b) := by
  unfold State.cacheEntry
  repeat' first
    | with_reducible assumption
    | intro _
    | with_reducible apply Keeps.drawn
    | with_reducible apply Keeps.sramStore
    | split
    | dsimp only
    | simp only [Keeps.upd]
    | decide +kernel

theorem execPageTableMissFill {kb : Bool} {k0 s : State} {cell : Fin 2368} {x : Fin 8} (hk : Keeps kb k0 s) :
    AnsKeeps kb k0 (Sys2Proof.Machine.execPageTableMissFill cell x s) := by
  unfold Sys2Proof.Machine.execPageTableMissFill
  repeat' first
    | with_reducible assumption
    | with_reducible apply Keeps.cacheEntry
    | with_reducible apply Keeps.setCell
    | with_reducible apply Keeps.next
    | split
    | dsimp only
    | simp only [Keeps.upd]
    | decide +kernel

theorem execMoverHalfEvent {kb : Bool} {k0 s : State} {cell : Fin 2368} {x : Fin 8} (hk : Keeps kb k0 s) :
    AnsKeeps kb k0 (Sys2Proof.Machine.execMoverHalfEvent cell x s) := by
  unfold Sys2Proof.Machine.execMoverHalfEvent
  repeat' first
    | with_reducible assumption
    | with_reducible apply Keeps.movePieces
    | with_reducible apply Keeps.setCell
    | with_reducible apply Keeps.next
    | with_reducible apply Keeps.ite
    | with_reducible apply Keeps.ans_ite
    | split
    | dsimp only
    | simp only [Keeps.upd]
    | decide +kernel

theorem execMoverFullEvent {kb : Bool} {k0 s : State} {cell : Fin 2368} {x : Fin 8} (hk : Keeps kb k0 s) :
    AnsKeeps kb k0 (Sys2Proof.Machine.execMoverFullEvent cell x s) := by
  unfold Sys2Proof.Machine.execMoverFullEvent
  repeat' first
    | with_reducible assumption
    | with_reducible apply Keeps.finishXfer
    | with_reducible apply Keeps.next
    | split
    | dsimp only
    | decide +kernel

theorem forwardFlit {kb : Bool} {k0 s : State} {cell : Nat} {out : Nat} {x : Flit} {nb : Nat} (hk : Keeps kb k0 s) :
    Keeps kb k0 (State.forwardFlit s cell out x nb) := by
  unfold State.forwardFlit
  repeat' first
    | with_reducible assumption
    | with_reducible apply Keeps.setCell
    | dsimp only
    | simp only [Keeps.upd]
    | decide +kernel

theorem deliverFlit {kb : Bool} {k0 s : State} {cell : Nat} {port : Nat} {x : Flit} (hk : Keeps kb k0 s) :
    Keeps kb k0 (State.deliverFlit s cell port x) := by
  unfold State.deliverFlit
  repeat' first
    | with_reducible assumption
    | with_reducible apply Keeps.setCell
    | dsimp only
    | simp only [Keeps.upd]
    | decide +kernel

theorem popFlit {kb : Bool} {k0 s : State} {cell : Nat} {e : Nat} (hk : Keeps kb k0 s) :
    Keeps kb k0 (State.popFlit s cell e) := by
  unfold State.popFlit
  repeat' first
    | with_reducible assumption
    | with_reducible apply Keeps.drop
    | with_reducible apply Keeps.setCell
    | dsimp only
    | decide +kernel

theorem execStreamFlit {kb : Bool} {k0 s : State} {cell : Fin 2368} {entry : Fin 40} (hk : Keeps kb k0 s) :
    AnsKeeps kb k0 (Sys2Proof.Machine.execStreamFlit cell entry s) := by
  unfold Sys2Proof.Machine.execStreamFlit
  repeat' first
    | with_reducible assumption
    | exact (trivial : BadKeeps _ _ (.parity _))
    | exact (trivial : BadKeeps _ _ (.flag _ _))
    | with_reducible apply Keeps.add
    | with_reducible apply Keeps.deliverFlit
    | with_reducible apply Keeps.fldFault
    | with_reducible apply Keeps.forwardFlit
    | with_reducible apply Keeps.popFlit
    | with_reducible apply Keeps.raise
    | with_reducible apply Keeps.next
    | with_reducible apply Keeps.ite
    | with_reducible apply Keeps.ans_ite
    | split
    | dsimp only
    | decide +kernel

theorem execStreamCredit {kb : Bool} {k0 s : State} {cell : Fin 2368} {entry : Fin 32} (hk : Keeps kb k0 s) :
    AnsKeeps kb k0 (Sys2Proof.Machine.execStreamCredit cell entry s) := by
  unfold Sys2Proof.Machine.execStreamCredit
  repeat' first
    | with_reducible assumption
    | with_reducible apply Keeps.setCell
    | with_reducible apply Keeps.next
    | with_reducible apply Keeps.ite
    | with_reducible apply Keeps.ans_ite
    | split
    | dsimp only
    | simp only [Keeps.upd]
    | decide +kernel

end Keeps

end Sys2Proof.Machine
end

