-- ==== Sys2Proof/Laws/KeepsTick.lean ====
section
/-! SUPPORT. What the operations of Machine/Tick.lean keep. -/

namespace Sys2Proof.Machine

namespace Keeps

set_option Elab.async false
set_option linter.unusedSimpArgs false
set_option linter.unusedVariables false

theorem tickField {kb : Bool} {k0 s : State} {f : Nat} (hk : Keeps kb k0 s) :
    Keeps kb k0 (State.tickField s f) := by
  unfold State.tickField
  repeat' first
    | with_reducible assumption
    | with_reducible apply Keeps.setF
    | with_reducible apply Keeps.ite
    | split
    | dsimp only
    | simp only [Keeps.upd]
    | decide +kernel

theorem tickUse {kb : Bool} {k0 s : State} (hk : Keeps kb k0 s) :
    Keeps kb k0 (State.tickUse s) := by
  unfold State.tickUse
  repeat' first
    | with_reducible assumption
    | intro _
    | with_reducible apply Keeps.tickField
    | with_reducible apply Keeps.each
    | dsimp only
    | simp only [Keeps.upd]
    | decide +kernel

theorem setBase {kb : Bool} {k0 s : State} {n a : Nat} (hk : Keeps kb k0 s) (hn : kb = true → n ≠ 3) :
    Keeps kb k0 (s.setBase n a) :=
  ⟨hk.pending, hk.hbm, hk.pocket, hk.sram, hk.stitch, hk.faults, hk.counter, hk.ranges, hk.locks, fun h => by
    refine Eq.trans ?_ (hk.time h)
    unfold State.setBase
    exact Sparse.look_put_ne _ _ _ _ _ _ (Ne.symm (hn h))⟩

theorem stepCounter_plain (n : Nat) : (stepCounter n).plain = true := by
  unfold stepCounter
  repeat' split
  all_goals decide +kernel

theorem stepAccounts {kb : Bool} {k0 s : State} {pre : Nat} {post : Nat} (hk : Keeps kb k0 s) :
    Keeps kb k0 (State.stepAccounts s pre post) := by
  unfold State.stepAccounts
  repeat' first
    | with_reducible assumption
    | intro _
    | with_reducible apply Keeps.closeEnded
    | with_reducible apply Keeps.closeWindow
    | with_reducible apply Keeps.each
    | with_reducible apply Keeps.ite
    | dsimp only
    | decide +kernel

theorem stepGates {kb : Bool} {k0 s : State} {p : Nat} (hk : Keeps kb k0 s) :
    Keeps kb k0 (State.stepGates s p) := by
  unfold State.stepGates
  repeat' first
    | with_reducible assumption
    | with_reducible apply Keeps.ite_fst
    | with_reducible apply Keeps.foldl_fst
    | with_reducible apply Keeps.ite
    | dsimp only
    | simp only [Keeps.upd]
    | decide +kernel

theorem stepSafety {kb : Bool} {k0 s : State} (hk : Keeps kb k0 s) :
    Keeps kb k0 (State.stepSafety s) := by
  unfold State.stepSafety
  repeat' first
    | with_reducible assumption
    | with_reducible apply Keeps.ite
    | dsimp only
    | simp only [Keeps.upd]
    | decide +kernel

theorem stepVehicle {kb : Bool} {k0 s : State} {pre : Nat} (hk : Keeps kb k0 s) :
    Keeps kb k0 (State.stepVehicle s pre) := by
  unfold State.stepVehicle
  repeat' first
    | with_reducible assumption
    | intro _
    | with_reducible apply Keeps.headStep
    | with_reducible apply Keeps.stepAccounts
    | with_reducible apply Keeps.stepGates
    | with_reducible apply Keeps.stepSafety
    | with_reducible apply Keeps.each
    | dsimp only
    | decide +kernel

theorem tickBase {kb : Bool} {k0 s : State} {n : Nat} (hk : Keeps kb k0 s) (hn : n ≠ 3) : Keeps kb k0 (s.tickBase n) := by
  unfold State.tickBase
  repeat' first
    | with_reducible assumption
    | with_reducible refine inc ?_ (stepCounter_plain _)
    | with_reducible refine wr ?_ (by decide +kernel)
    | with_reducible refine setBase ?_ (fun _ => hn)
    | with_reducible apply Keeps.stepVehicle
    | with_reducible apply Keeps.ite
    | split
    | dsimp only
    | simp only [Keeps.upd]

theorem tickAccounts {kb : Bool} {k0 s : State} (hk : Keeps kb k0 s) :
    Keeps kb k0 (State.tickAccounts s) := by
  unfold State.tickAccounts
  repeat' first
    | with_reducible assumption
    | intro _
    | with_reducible apply Keeps.closeEnded
    | with_reducible apply Keeps.ite_fst
    | with_reducible apply Keeps.foldl_fst
    | with_reducible apply Keeps.foldl
    | dsimp only
    | decide +kernel

theorem tickSlots {kb : Bool} {k0 s : State} (hk : Keeps kb k0 s) :
    Keeps kb k0 (State.tickSlots s) := by
  unfold State.tickSlots
  repeat' first
    | with_reducible assumption
    | intro _
    | with_reducible apply Keeps.slotFree
    | with_reducible apply Keeps.each
    | dsimp only
    | decide +kernel

theorem tickLinks {kb : Bool} {k0 s : State} (hk : Keeps kb k0 s) :
    Keeps kb k0 (State.tickLinks s) := by
  unfold State.tickLinks
  repeat' first
    | with_reducible assumption
    | intro _
    | with_reducible apply Keeps.setLink
    | with_reducible apply Keeps.foldl
    | with_reducible apply Keeps.ite
    | dsimp only
    | decide +kernel

theorem tickLocal {k0 s : State} (hk : Keeps false k0 s) : Keeps false k0 s.tickLocal :=
  setBase hk (fun h => absurd h Bool.false_ne_true)

theorem tick {k0 s : State} (hk : Keeps false k0 s) :
    Keeps false k0 (State.tick s) := by
  unfold State.tick
  repeat' first
    | with_reducible assumption
    | with_reducible refine Keeps.tickBase ?_ (by decide)
    | with_reducible apply Keeps.tickAccounts
    | with_reducible apply Keeps.tickBase
    | with_reducible apply Keeps.tickLinks
    | with_reducible apply Keeps.tickLocal
    | with_reducible apply Keeps.tickSlots
    | with_reducible apply Keeps.tickUse
    | dsimp only
    | decide +kernel

/-- What comes after the local base's advance. -/
theorem tick_rest (s : State) : Keeps true s.tickLocal s.tick :=
  tickLinks (tickSlots (tickBase (tickBase (tickAccounts (tickBase (tickUse (refl _ _)) (by decide))) (by decide)) (by decide)))

end Keeps

end Sys2Proof.Machine
end

