-- ==== Sys2Proof/Laws/KeepsVector.lean ====
section
/-! SUPPORT. What the operations of Machine/Vector.lean keep. -/

namespace Sys2Proof.Machine

namespace Keeps

set_option Elab.async false
set_option linter.unusedSimpArgs false
set_option linter.unusedVariables false

theorem vecOut {kb : Bool} {k0 s : State} {cell : Nat} {m : Micro} {xs : List Num} (hk : Keeps kb k0 s) :
    Keeps kb k0 (State.vecOut s cell m xs) := by
  unfold State.vecOut
  repeat' first
    | with_reducible assumption
    | with_reducible apply Keeps.dropsOf
    | with_reducible apply Keeps.setCell
    | with_reducible apply Keeps.ite_fst
    | with_reducible apply Keeps.foldl_fst
    | dsimp only
    | decide +kernel

theorem execVectorLoad {kb : Bool} {k0 s : State} {cell : Fin 2368} (hk : Keeps kb k0 s) :
    AnsKeeps kb k0 (Sys2Proof.Machine.execVectorLoad cell s) := by
  unfold Sys2Proof.Machine.execVectorLoad Sys2Proof.Machine.vectorLoadBody
  repeat' first
    | with_reducible assumption
    | intro _
    | with_reducible apply Keeps.runWord
    | with_reducible apply Keeps.bodyKeeps_intro
    | with_reducible apply Keeps.okAll_bind_flag
    | with_reducible apply Keeps.okAll_bind_pair
    | with_reducible apply Keeps.okAll_bind_state
    | with_reducible apply Keeps.readPocket
    | with_reducible apply Keeps.writePocket
    | with_reducible apply Keeps.readStep
    | with_reducible apply Keeps.okAll_pair
    | with_reducible apply Keeps.okAll_flag
    | with_reducible apply Keeps.okAll_parity
    | with_reducible apply Keeps.okAll_late
    | with_reducible apply Keeps.okAll_ite
    | with_reducible apply Keeps.runWord
    | with_reducible apply Keeps.setCell
    | with_reducible apply Keeps.next
    | split
    | dsimp only
    | decide +kernel
    | split

theorem execVectorStore {kb : Bool} {k0 s : State} {cell : Fin 2368} (hk : Keeps kb k0 s) :
    AnsKeeps kb k0 (Sys2Proof.Machine.execVectorStore cell s) := by
  unfold Sys2Proof.Machine.execVectorStore Sys2Proof.Machine.vectorStoreBody
  repeat' first
    | with_reducible assumption
    | intro _
    | with_reducible apply Keeps.runWord
    | with_reducible apply Keeps.bodyKeeps_intro
    | with_reducible apply Keeps.okAll_bind_flag
    | with_reducible apply Keeps.okAll_bind_pair
    | with_reducible apply Keeps.okAll_bind_state
    | with_reducible apply Keeps.readPocket
    | with_reducible apply Keeps.writePocket
    | with_reducible apply Keeps.readStep
    | with_reducible apply Keeps.okAll_pair
    | with_reducible apply Keeps.okAll_flag
    | with_reducible apply Keeps.okAll_parity
    | with_reducible apply Keeps.okAll_late
    | with_reducible apply Keeps.okAll_ite
    | with_reducible apply Keeps.runWord
    | with_reducible apply Keeps.next
    | dsimp only
    | decide +kernel
    | split

theorem execVectorLdc {kb : Bool} {k0 s : State} {cell : Fin 2368} (hk : Keeps kb k0 s) :
    AnsKeeps kb k0 (Sys2Proof.Machine.execVectorLdc cell s) := by
  unfold Sys2Proof.Machine.execVectorLdc Sys2Proof.Machine.vectorLdcBody
  repeat' first
    | with_reducible assumption
    | intro _
    | with_reducible apply Keeps.runWord
    | with_reducible apply Keeps.bodyKeeps_intro
    | with_reducible apply Keeps.okAll_bind_flag
    | with_reducible apply Keeps.okAll_bind_pair
    | with_reducible apply Keeps.okAll_bind_state
    | with_reducible apply Keeps.readPocket
    | with_reducible apply Keeps.writePocket
    | with_reducible apply Keeps.readStep
    | with_reducible apply Keeps.okAll_pair
    | with_reducible apply Keeps.okAll_flag
    | with_reducible apply Keeps.okAll_parity
    | with_reducible apply Keeps.okAll_late
    | with_reducible apply Keeps.okAll_ite
    | with_reducible apply Keeps.runWord
    | with_reducible apply Keeps.setCell
    | with_reducible apply Keeps.next
    | with_reducible apply Keeps.ite
    | with_reducible apply Keeps.ans_ite
    | split
    | dsimp only
    | decide +kernel
    | split

theorem lanes2 {kb : Bool} {k0 : State} {cell : Nat} {g : Num → Num → Num} : BodyKeeps kb k0 (Sys2Proof.Machine.lanes2 cell g) := by
  unfold Sys2Proof.Machine.lanes2
  repeat' first
    | with_reducible assumption
    | intro _
    | with_reducible apply Keeps.bodyKeeps_intro
    | with_reducible apply Keeps.okAll_bind_pair
    | with_reducible apply Keeps.readStep
    | with_reducible apply Keeps.okAll_pair
    | with_reducible apply Keeps.okAll_flag
    | with_reducible apply Keeps.okAll_late
    | with_reducible apply Keeps.okAll_ite
    | with_reducible apply Keeps.ite
    | with_reducible apply Keeps.noteRange
    | with_reducible apply Keeps.setCell
    | with_reducible apply Keeps.drawn
    | with_reducible apply Keeps.vecOut
    | dsimp only
    | split


theorem execVectorAdd {kb : Bool} {k0 s : State} {cell : Fin 2368} (hk : Keeps kb k0 s) :
    AnsKeeps kb k0 (Sys2Proof.Machine.execVectorAdd cell s) := by
  unfold Sys2Proof.Machine.execVectorAdd
  repeat' first
    | with_reducible assumption
    | exact Keeps.idleBody
    | exact Keeps.mmaBody
    | exact Keeps.lanes2
    | exact Keeps.extremum
    | intro _
    | with_reducible apply Keeps.runWord
    | with_reducible apply Keeps.bodyKeeps_intro
    | with_reducible apply Keeps.okAll_bind_flag
    | with_reducible apply Keeps.okAll_bind_pair
    | with_reducible apply Keeps.okAll_bind_state
    | with_reducible apply Keeps.readPocket
    | with_reducible apply Keeps.writePocket
    | with_reducible apply Keeps.readStep
    | with_reducible apply Keeps.okAll_pair
    | with_reducible apply Keeps.okAll_flag
    | with_reducible apply Keeps.okAll_parity
    | with_reducible apply Keeps.okAll_late
    | with_reducible apply Keeps.okAll_ite
    | with_reducible apply Keeps.add
    | with_reducible apply Keeps.runWord
    | with_reducible apply Keeps.next
    | dsimp only
    | decide +kernel
    | split

theorem execVectorMul {kb : Bool} {k0 s : State} {cell : Fin 2368} (hk : Keeps kb k0 s) :
    AnsKeeps kb k0 (Sys2Proof.Machine.execVectorMul cell s) := by
  unfold Sys2Proof.Machine.execVectorMul
  repeat' first
    | with_reducible assumption
    | exact Keeps.idleBody
    | exact Keeps.mmaBody
    | exact Keeps.lanes2
    | exact Keeps.extremum
    | intro _
    | with_reducible apply Keeps.runWord
    | with_reducible apply Keeps.bodyKeeps_intro
    | with_reducible apply Keeps.okAll_bind_flag
    | with_reducible apply Keeps.okAll_bind_pair
    | with_reducible apply Keeps.okAll_bind_state
    | with_reducible apply Keeps.readPocket
    | with_reducible apply Keeps.writePocket
    | with_reducible apply Keeps.readStep
    | with_reducible apply Keeps.okAll_pair
    | with_reducible apply Keeps.okAll_flag
    | with_reducible apply Keeps.okAll_parity
    | with_reducible apply Keeps.okAll_late
    | with_reducible apply Keeps.okAll_ite
    | with_reducible apply Keeps.runWord
    | with_reducible apply Keeps.next
    | dsimp only
    | decide +kernel
    | split

theorem execVectorFma {kb : Bool} {k0 s : State} {cell : Fin 2368} (hk : Keeps kb k0 s) :
    AnsKeeps kb k0 (Sys2Proof.Machine.execVectorFma cell s) := by
  unfold Sys2Proof.Machine.execVectorFma Sys2Proof.Machine.vectorFmaBody
  repeat' first
    | with_reducible assumption
    | intro _
    | with_reducible apply Keeps.runWord
    | with_reducible apply Keeps.bodyKeeps_intro
    | with_reducible apply Keeps.okAll_bind_flag
    | with_reducible apply Keeps.okAll_bind_pair
    | with_reducible apply Keeps.okAll_bind_state
    | with_reducible apply Keeps.readPocket
    | with_reducible apply Keeps.writePocket
    | with_reducible apply Keeps.readStep
    | with_reducible apply Keeps.okAll_pair
    | with_reducible apply Keeps.okAll_flag
    | with_reducible apply Keeps.okAll_parity
    | with_reducible apply Keeps.okAll_late
    | with_reducible apply Keeps.okAll_ite
    | with_reducible apply Keeps.add
    | with_reducible apply Keeps.runWord
    | with_reducible apply Keeps.vecOut
    | with_reducible apply Keeps.next
    | dsimp only
    | decide +kernel
    | split

theorem extremum {kb : Bool} {k0 : State} {cell : Nat} {g : Num → Num → Num} : BodyKeeps kb k0 (Sys2Proof.Machine.extremum cell g) := by
  unfold Sys2Proof.Machine.extremum
  repeat' first
    | with_reducible assumption
    | intro _
    | with_reducible apply Keeps.bodyKeeps_intro
    | with_reducible apply Keeps.okAll_bind_pair
    | with_reducible apply Keeps.readStep
    | with_reducible apply Keeps.okAll_pair
    | with_reducible apply Keeps.okAll_flag
    | with_reducible apply Keeps.okAll_late
    | with_reducible apply Keeps.okAll_ite
    | with_reducible apply Keeps.ite
    | with_reducible apply Keeps.noteRange
    | with_reducible apply Keeps.setCell
    | with_reducible apply Keeps.drawn
    | with_reducible apply Keeps.vecOut
    | dsimp only
    | split


theorem execVectorMax {kb : Bool} {k0 s : State} {cell : Fin 2368} (hk : Keeps kb k0 s) :
    AnsKeeps kb k0 (Sys2Proof.Machine.execVectorMax cell s) := by
  unfold Sys2Proof.Machine.execVectorMax
  repeat' first
    | with_reducible assumption
    | exact Keeps.idleBody
    | exact Keeps.mmaBody
    | exact Keeps.lanes2
    | exact Keeps.extremum
    | intro _
    | with_reducible apply Keeps.runWord
    | with_reducible apply Keeps.bodyKeeps_intro
    | with_reducible apply Keeps.okAll_bind_flag
    | with_reducible apply Keeps.okAll_bind_pair
    | with_reducible apply Keeps.okAll_bind_state
    | with_reducible apply Keeps.readPocket
    | with_reducible apply Keeps.writePocket
    | with_reducible apply Keeps.readStep
    | with_reducible apply Keeps.okAll_pair
    | with_reducible apply Keeps.okAll_flag
    | with_reducible apply Keeps.okAll_parity
    | with_reducible apply Keeps.okAll_late
    | with_reducible apply Keeps.okAll_ite
    | with_reducible apply Keeps.runWord
    | with_reducible apply Keeps.next
    | dsimp only
    | decide +kernel
    | split

theorem execVectorMin {kb : Bool} {k0 s : State} {cell : Fin 2368} (hk : Keeps kb k0 s) :
    AnsKeeps kb k0 (Sys2Proof.Machine.execVectorMin cell s) := by
  unfold Sys2Proof.Machine.execVectorMin
  repeat' first
    | with_reducible assumption
    | exact Keeps.idleBody
    | exact Keeps.mmaBody
    | exact Keeps.lanes2
    | exact Keeps.extremum
    | intro _
    | with_reducible apply Keeps.runWord
    | with_reducible apply Keeps.bodyKeeps_intro
    | with_reducible apply Keeps.okAll_bind_flag
    | with_reducible apply Keeps.okAll_bind_pair
    | with_reducible apply Keeps.okAll_bind_state
    | with_reducible apply Keeps.readPocket
    | with_reducible apply Keeps.writePocket
    | with_reducible apply Keeps.readStep
    | with_reducible apply Keeps.okAll_pair
    | with_reducible apply Keeps.okAll_flag
    | with_reducible apply Keeps.okAll_parity
    | with_reducible apply Keeps.okAll_late
    | with_reducible apply Keeps.okAll_ite
    | with_reducible apply Keeps.runWord
    | with_reducible apply Keeps.next
    | dsimp only
    | decide +kernel
    | split

theorem execVectorCvt {kb : Bool} {k0 s : State} {cell : Fin 2368} (hk : Keeps kb k0 s) :
    AnsKeeps kb k0 (Sys2Proof.Machine.execVectorCvt cell s) := by
  unfold Sys2Proof.Machine.execVectorCvt Sys2Proof.Machine.vectorCvtBody
  repeat' first
    | with_reducible assumption
    | intro _
    | with_reducible apply Keeps.runWord
    | with_reducible apply Keeps.bodyKeeps_intro
    | with_reducible apply Keeps.okAll_bind_flag
    | with_reducible apply Keeps.okAll_bind_pair
    | with_reducible apply Keeps.okAll_bind_state
    | with_reducible apply Keeps.readPocket
    | with_reducible apply Keeps.writePocket
    | with_reducible apply Keeps.readStep
    | with_reducible apply Keeps.okAll_pair
    | with_reducible apply Keeps.okAll_flag
    | with_reducible apply Keeps.okAll_parity
    | with_reducible apply Keeps.okAll_late
    | with_reducible apply Keeps.okAll_ite
    | with_reducible apply Keeps.runWord
    | with_reducible apply Keeps.vecOut
    | with_reducible apply Keeps.next
    | dsimp only
    | decide +kernel
    | split

theorem execVectorSfu {kb : Bool} {k0 s : State} {cell : Fin 2368} (hk : Keeps kb k0 s) :
    AnsKeeps kb k0 (Sys2Proof.Machine.execVectorSfu cell s) := by
  unfold Sys2Proof.Machine.execVectorSfu Sys2Proof.Machine.vectorSfuBody
  repeat' first
    | with_reducible assumption
    | intro _
    | with_reducible apply Keeps.runWord
    | with_reducible apply Keeps.bodyKeeps_intro
    | with_reducible apply Keeps.okAll_bind_flag
    | with_reducible apply Keeps.okAll_bind_pair
    | with_reducible apply Keeps.okAll_bind_state
    | with_reducible apply Keeps.readPocket
    | with_reducible apply Keeps.writePocket
    | with_reducible apply Keeps.readStep
    | with_reducible apply Keeps.okAll_pair
    | with_reducible apply Keeps.okAll_flag
    | with_reducible apply Keeps.okAll_parity
    | with_reducible apply Keeps.okAll_late
    | with_reducible apply Keeps.okAll_ite
    | with_reducible apply Keeps.runWord
    | with_reducible apply Keeps.vecOut
    | with_reducible apply Keeps.next
    | dsimp only
    | decide +kernel
    | split

theorem execVectorReduce {kb : Bool} {k0 s : State} {cell : Fin 2368} (hk : Keeps kb k0 s) :
    AnsKeeps kb k0 (Sys2Proof.Machine.execVectorReduce cell s) := by
  unfold Sys2Proof.Machine.execVectorReduce Sys2Proof.Machine.vectorReduceBody
  repeat' first
    | with_reducible assumption
    | intro _
    | with_reducible apply Keeps.runWord
    | with_reducible apply Keeps.bodyKeeps_intro
    | with_reducible apply Keeps.okAll_bind_flag
    | with_reducible apply Keeps.okAll_bind_pair
    | with_reducible apply Keeps.okAll_bind_state
    | with_reducible apply Keeps.readPocket
    | with_reducible apply Keeps.writePocket
    | with_reducible apply Keeps.readStep
    | with_reducible apply Keeps.okAll_pair
    | with_reducible apply Keeps.okAll_flag
    | with_reducible apply Keeps.okAll_parity
    | with_reducible apply Keeps.okAll_late
    | with_reducible apply Keeps.okAll_ite
    | with_reducible apply Keeps.drawn
    | with_reducible apply Keeps.dropsOf
    | with_reducible apply Keeps.runWord
    | with_reducible apply Keeps.setCell
    | with_reducible apply Keeps.ite_fst
    | with_reducible apply Keeps.foldl_fst
    | with_reducible apply Keeps.next
    | split
    | dsimp only
    | decide +kernel
    | split

theorem execVectorRowstat {kb : Bool} {k0 s : State} {cell : Fin 2368} (hk : Keeps kb k0 s) :
    AnsKeeps kb k0 (Sys2Proof.Machine.execVectorRowstat cell s) := by
  unfold Sys2Proof.Machine.execVectorRowstat Sys2Proof.Machine.vectorRowstatBody
  repeat' first
    | with_reducible assumption
    | intro _
    | with_reducible apply Keeps.runWord
    | with_reducible apply Keeps.bodyKeeps_intro
    | with_reducible apply Keeps.okAll_bind_flag
    | with_reducible apply Keeps.okAll_bind_pair
    | with_reducible apply Keeps.okAll_bind_state
    | with_reducible apply Keeps.readPocket
    | with_reducible apply Keeps.writePocket
    | with_reducible apply Keeps.readStep
    | with_reducible apply Keeps.okAll_pair
    | with_reducible apply Keeps.okAll_flag
    | with_reducible apply Keeps.okAll_parity
    | with_reducible apply Keeps.okAll_late
    | with_reducible apply Keeps.okAll_ite
    | with_reducible apply Keeps.runWord
    | with_reducible apply Keeps.setCell
    | with_reducible apply Keeps.ite_fst
    | with_reducible apply Keeps.foldl_fst
    | with_reducible apply Keeps.next
    | dsimp only
    | simp only [Keeps.upd]
    | decide +kernel
    | split

theorem execVectorQuantMx {kb : Bool} {k0 s : State} {cell : Fin 2368} (hk : Keeps kb k0 s) :
    AnsKeeps kb k0 (Sys2Proof.Machine.execVectorQuantMx cell s) := by
  unfold Sys2Proof.Machine.execVectorQuantMx Sys2Proof.Machine.vectorQuantMxBody
  repeat' first
    | with_reducible assumption
    | intro _
    | with_reducible apply Keeps.runWord
    | with_reducible apply Keeps.bodyKeeps_intro
    | with_reducible apply Keeps.okAll_bind_flag
    | with_reducible apply Keeps.okAll_bind_pair
    | with_reducible apply Keeps.okAll_bind_state
    | with_reducible apply Keeps.readPocket
    | with_reducible apply Keeps.writePocket
    | with_reducible apply Keeps.readStep
    | with_reducible apply Keeps.okAll_pair
    | with_reducible apply Keeps.okAll_flag
    | with_reducible apply Keeps.okAll_parity
    | with_reducible apply Keeps.okAll_late
    | with_reducible apply Keeps.okAll_ite
    | with_reducible apply Keeps.drawn
    | with_reducible apply Keeps.noteDrops
    | with_reducible apply Keeps.runWord
    | with_reducible apply Keeps.setCell
    | with_reducible apply Keeps.ite_fst
    | with_reducible apply Keeps.foldl_fst
    | with_reducible apply Keeps.next
    | with_reducible apply Keeps.ite
    | with_reducible apply Keeps.ans_ite
    | split
    | dsimp only
    | decide +kernel
    | split

theorem execVectorCmp {kb : Bool} {k0 s : State} {cell : Fin 2368} (hk : Keeps kb k0 s) :
    AnsKeeps kb k0 (Sys2Proof.Machine.execVectorCmp cell s) := by
  unfold Sys2Proof.Machine.execVectorCmp Sys2Proof.Machine.vectorCmpBody
  repeat' first
    | with_reducible assumption
    | intro _
    | with_reducible apply Keeps.runWord
    | with_reducible apply Keeps.bodyKeeps_intro
    | with_reducible apply Keeps.okAll_bind_flag
    | with_reducible apply Keeps.okAll_bind_pair
    | with_reducible apply Keeps.okAll_bind_state
    | with_reducible apply Keeps.readPocket
    | with_reducible apply Keeps.writePocket
    | with_reducible apply Keeps.readStep
    | with_reducible apply Keeps.okAll_pair
    | with_reducible apply Keeps.okAll_flag
    | with_reducible apply Keeps.okAll_parity
    | with_reducible apply Keeps.okAll_late
    | with_reducible apply Keeps.okAll_ite
    | with_reducible apply Keeps.drawn
    | with_reducible apply Keeps.runWord
    | with_reducible apply Keeps.setCell
    | with_reducible apply Keeps.next
    | dsimp only
    | decide +kernel
    | split

end Keeps

end Sys2Proof.Machine
end

