-- ==== Sys2Proof/Laws/KeepsExec.lean ====
section
/-! SUPPORT. What every command keeps: each ends in a next state, and leaves the queue, the canonical forms, the ranges
and the widths; a command that resets nothing also holds the locks and does not turn local monotonic time back. -/

namespace Sys2Proof.Machine

set_option Elab.async false

theorem exec_keeps (c : Instr) (s : State) : AnsKeeps false s (exec c s) := by
  cases c
  · exact Keeps.execModeRequestParkWarm (Keeps.refl _ _)
  · exact Keeps.execModeRequestParkCold (Keeps.refl _ _)
  · exact Keeps.execModeRequestDepot (Keeps.refl _ _)
  · exact Keeps.execBootComplete (Keeps.refl _ _)
  · exact Keeps.execParkWarmTimerExpiry (Keeps.refl _ _)
  · exact Keeps.execAlwaysOnTimerExpiry (Keeps.refl _ _)
  · exact Keeps.execCanWake (Keeps.refl _ _)
  · exact Keeps.execEthWake (Keeps.refl _ _)
  · exact Keeps.execTenantFreezeKillDeadline (Keeps.refl _ _)
  · exact Keeps.execBackstop (Keeps.refl _ _)
  · exact Keeps.execPocketWindowWrite (Keeps.refl _ _)
  · unfold exec
    exact Keeps.execStitchScrub (Keeps.refl _ _)
  · exact Keeps.execControlNop (Keeps.refl _ _)
  · exact Keeps.execControlJump (Keeps.refl _ _)
  · exact Keeps.execControlLoopset (Keeps.refl _ _)
  · exact Keeps.execControlLoop (Keeps.refl _ _)
  · exact Keeps.execControlEnd (Keeps.refl _ _)
  · exact Keeps.execMatrixMma (Keeps.refl _ _)
  · exact Keeps.execMatrixMmaNew (Keeps.refl _ _)
  · exact Keeps.execMatrixDrain (Keeps.refl _ _)
  · exact Keeps.execMatrixChkcmp (Keeps.refl _ _)
  · exact Keeps.execVectorLoad (Keeps.refl _ _)
  · exact Keeps.execVectorStore (Keeps.refl _ _)
  · exact Keeps.execVectorLdc (Keeps.refl _ _)
  · exact Keeps.execVectorAdd (Keeps.refl _ _)
  · exact Keeps.execVectorMul (Keeps.refl _ _)
  · exact Keeps.execVectorFma (Keeps.refl _ _)
  · exact Keeps.execVectorMax (Keeps.refl _ _)
  · exact Keeps.execVectorMin (Keeps.refl _ _)
  · exact Keeps.execVectorCvt (Keeps.refl _ _)
  · exact Keeps.execVectorSfu (Keeps.refl _ _)
  · exact Keeps.execVectorReduce (Keeps.refl _ _)
  · exact Keeps.execVectorRowstat (Keeps.refl _ _)
  · exact Keeps.execVectorQuantMx (Keeps.refl _ _)
  · exact Keeps.execVectorCmp (Keeps.refl _ _)
  · exact Keeps.execStreamSend (Keeps.refl _ _)
  · exact Keeps.execStreamRecv (Keeps.refl _ _)
  · exact Keeps.execMoverStart (Keeps.refl _ _)
  · exact Keeps.execSignalToken (Keeps.refl _ _)
  · exact Keeps.execSignalWaittok (Keeps.refl _ _)
  · exact Keeps.execStreamFlit (Keeps.refl _ _)
  · exact Keeps.execStreamCredit (Keeps.refl _ _)
  · exact Keeps.execControlPacket (Keeps.refl _ _)
  · exact Keeps.execMoverHalfEvent (Keeps.refl _ _)
  · exact Keeps.execMoverFullEvent (Keeps.refl _ _)
  · exact Keeps.execPageTableMissFill (Keeps.refl _ _)
  · exact Keeps.execClusterMoverTransferDone (Keeps.refl _ _)
  · exact Keeps.execCmqRecordAppend (Keeps.refl _ _)
  · exact Keeps.execStallWatchdogExpiry (Keeps.refl _ _)
  · exact Keeps.execContainedFaultDrainDone (Keeps.refl _ _)
  · exact Keeps.execClearingDone (Keeps.refl _ _)
  · exact Keeps.execKillDone (Keeps.refl _ _)
  · exact Keeps.execFieldReinit (Keeps.refl _ _)
  · exact Keeps.execFieldReinitDone (Keeps.refl _ _)
  · exact Keeps.execFieldLoad (Keeps.refl _ _)
  · exact Keeps.execStitchPhaseStart (Keeps.refl _ _)
  · exact Keeps.execDigestWaitResolve (Keeps.refl _ _)
  · exact Keeps.execFieldLoadDone (Keeps.refl _ _)
  · exact Keeps.execPatrolScrub (Keeps.refl _ _)
  · exact Keeps.execKeyGenerate (Keeps.refl _ _)
  · exact Keeps.execKeyZeroise (Keeps.refl _ _)
  · exact Keeps.execKeyCmdDone (Keeps.refl _ _)
  · exact Keeps.execCopy (Keeps.refl _ _)
  · exact Keeps.execFill (Keeps.refl _ _)
  · exact Keeps.execChecksum (Keeps.refl _ _)
  · exact Keeps.execDmaChannelStart (Keeps.refl _ _)
  · exact Keeps.execDmaChannelDone (Keeps.refl _ _)
  · exact Keeps.execDmaChannelDisable (Keeps.refl _ _)
  · exact Keeps.execDoorbell (Keeps.refl _ _)
  · exact Keeps.execDescriptorFetch (Keeps.refl _ _)
  · exact Keeps.execRingEnable (Keeps.refl _ _)
  · exact Keeps.execSqDisable (Keeps.refl _ _)
  · exact Keeps.execRingConfigWrite (Keeps.refl _ _)
  · exact Keeps.execNop (Keeps.refl _ _)
  · exact Keeps.execFence (Keeps.refl _ _)
  · exact Keeps.execFenceRelease (Keeps.refl _ _)
  · exact Keeps.execInfer (Keeps.refl _ _)
  · exact Keeps.execCommandAdmit (Keeps.refl _ _)
  · exact Keeps.execPreemptKill (Keeps.refl _ _)
  · exact Keeps.execCommandCommit (Keeps.refl _ _)
  · exact Keeps.execFieldRelease (Keeps.refl _ _)
  · exact Keeps.execFieldDetach (Keeps.refl _ _)
  · exact Keeps.execFieldCheckpoint (Keeps.refl _ _)
  · exact Keeps.execAccountingWindowEnd (Keeps.refl _ _)
  · exact Keeps.execAccountingRecordDeferred (Keeps.refl _ _)
  · exact Keeps.execEnergyRecalibration (Keeps.refl _ _)
  · exact Keeps.execSeqAdmit (Keeps.refl _ _)
  · exact Keeps.execSeqStep (Keeps.refl _ _)
  · exact Keeps.execSeqRetire (Keeps.refl _ _)
  · exact Keeps.execPrefixPin (Keeps.refl _ _)
  · exact Keeps.execPrefixUnpin (Keeps.refl _ _)
  · exact Keeps.execPoolValid (Keeps.refl _ _)
  · exact Keeps.execPoolReady (Keeps.refl _ _)
  · exact Keeps.execPoolInvalidate (Keeps.refl _ _)
  · exact Keeps.execCameraPacket (Keeps.refl _ _)
  · exact Keeps.execLidarPacket (Keeps.refl _ _)
  · exact Keeps.execImuDrdy (Keeps.refl _ _)
  · exact Keeps.execImuTransactionDone (Keeps.refl _ _)
  · exact Keeps.execSampleComplete (Keeps.refl _ _)
  · exact Keeps.execFrameSyncStart (Keeps.refl _ _)
  · exact Keeps.execFrameSyncEnd (Keeps.refl _ _)
  · exact Keeps.execInstantRelease (Keeps.refl _ _)
  · exact Keeps.execInstantWaitLimit (Keeps.refl _ _)
  · exact Keeps.execResyncRequest (Keeps.refl _ _)
  · exact Keeps.execSourceEnable (Keeps.refl _ _)
  · exact Keeps.execSourceDisable (Keeps.refl _ _)
  · exact Keeps.execFusRunStart (Keeps.refl _ _)
  · exact Keeps.execFusRunStop (Keeps.refl _ _)
  · exact Keeps.execFrame (Keeps.refl _ _)
  · exact Keeps.execProject (Keeps.refl _ _)
  · exact Keeps.execRender (Keeps.refl _ _)
  · exact Keeps.execPresent (Keeps.refl _ _)
  · exact Keeps.execPresentLatch (Keeps.refl _ _)
  · exact Keeps.execFrameStart (Keeps.refl _ _)
  · exact Keeps.execFaultReport (Keeps.refl _ _)
  · exact Keeps.execHeartbeatTimeout (Keeps.refl _ _)
  · exact Keeps.execFirmwareSilent (Keeps.refl _ _)
  · exact Keeps.execSafeStateFrame (Keeps.refl _ _)
  · exact Keeps.execPrimaryDeadlineCheck (Keeps.refl _ _)
  · exact Keeps.execStatusFrame (Keeps.refl _ _)
  · exact Keeps.execSleepPermissionFrame (Keeps.refl _ _)
  · exact Keeps.execSleepPermissionExpiry (Keeps.refl _ _)
  · exact Keeps.execFallbackDatagram (Keeps.refl _ _)
  · exact Keeps.execKick (Keeps.refl _ _)
  · exact Keeps.execWatchdogWindowExpiry (Keeps.refl _ _)
  · exact Keeps.execStatusWrite (Keeps.refl _ _)
  · exact Keeps.execGoldenSlotOpen (Keeps.refl _ _)
  · exact Keeps.execGoldenForcedKill (Keeps.refl _ _)
  · exact Keeps.execGoldenSkip (Keeps.refl _ _)
  · exact Keeps.execGoldenDeadline (Keeps.refl _ _)
  · exact Keeps.execGoldenCompareDone (Keeps.refl _ _)
  · exact Keeps.execBistSliceStart (Keeps.refl _ _)
  · exact Keeps.execBistSliceDone (Keeps.refl _ _)
  · exact Keeps.execBistIntervalDue (Keeps.refl _ _)
  · exact Keeps.execCoverageLapse (Keeps.refl _ _)
  · exact Keeps.execReadmit (Keeps.refl _ _)
  · exact Keeps.execVefEnable (Keeps.refl _ _)
  · exact Keeps.execVefDisable (Keeps.refl _ _)
  · exact Keeps.execVefReset (Keeps.refl _ _)
  · exact Keeps.execVefResetDone (Keeps.refl _ _)
  · exact Keeps.execFunctionLevelReset (Keeps.refl _ _)
  · exact Keeps.execVefFreeze (Keeps.refl _ _)
  · exact Keeps.execFreezeKillExpiry (Keeps.refl _ _)
  · exact Keeps.execFreezeComplete (Keeps.refl _ _)
  · exact Keeps.execVefThaw (Keeps.refl _ _)
  · exact Keeps.execDepotAuthorisation (Keeps.refl _ _)
  · exact Keeps.execDepotAuthExpiry (Keeps.refl _ _)
  · exact Keeps.execAttestationGo (Keeps.refl _ _)
  · exact Keeps.execAttestationReportDone (Keeps.refl _ _)
  · exact Keeps.execAttestationRequest (Keeps.refl _ _)
  · exact Keeps.execPassFlit (Keeps.refl _ _)
  · exact Keeps.execPassRetrainDone (Keeps.refl _ _)
  · exact Keeps.execLinkTrainingDone (Keeps.refl _ _)
  · exact Keeps.execSignalLockLoss (Keeps.refl _ _)
  · exact Keeps.execHelloTimeout (Keeps.refl _ _)
  · exact Keeps.execHelloSend (Keeps.refl _ _)
  · exact Keeps.execPassHello (Keeps.refl _ _)
  · exact Keeps.execLsaSend (Keeps.refl _ _)
  · exact Keeps.execPassLsa (Keeps.refl _ _)
  · exact Keeps.execLsaAgeOut (Keeps.refl _ _)
  · exact Keeps.execRouteCompute (Keeps.refl _ _)
  · exact Keeps.execPassRoutes (Keeps.refl _ _)
  · exact Keeps.execRoutesAck (Keeps.refl _ _)
  · exact Keeps.execRoutesCommit (Keeps.refl _ _)
  · exact Keeps.execPassWrite (Keeps.refl _ _)
  · exact Keeps.execPassWriteAck (Keeps.refl _ _)
  · exact Keeps.execPassRead (Keeps.refl _ _)
  · exact Keeps.execPassReadData (Keeps.refl _ _)
  · exact Keeps.execPassLock (Keeps.refl _ _)
  · exact Keeps.execPassLockGrant (Keeps.refl _ _)
  · exact Keeps.execPassUnlock (Keeps.refl _ _)
  · exact Keeps.execSbPoll (Keeps.refl _ _)
  · exact Keeps.execSbData (Keeps.refl _ _)
  · exact Keeps.execPollTimer (Keeps.refl _ _)
  · exact Keeps.execPollMiss (Keeps.refl _ _)
  · exact Keeps.execSboSet (Keeps.refl _ _)
  · exact Keeps.execRequestTimeout (Keeps.refl _ _)
  · exact Keeps.execTunnelDatagram (Keeps.refl _ _)
  · exact Keeps.execBridgeBurst (Keeps.refl _ _) (fun _ _ _ _ => Keeps.quietAt_false)
  · exact Keeps.execFabricLr (Keeps.refl _ _)
  · exact Keeps.execFabricSc (Keeps.refl _ _)
  · exact Keeps.execFabricAmo (Keeps.refl _ _)
  · exact Keeps.execLockHoldExpiry (Keeps.refl _ _)
  · exact Keeps.execLockWaitTimeout (Keeps.refl _ _)
  · exact Keeps.execDelayedReadExpiry (Keeps.refl _ _)
  · exact Keeps.execSnap (Keeps.refl _ _)
  · exact Keeps.execTbIncWrite (Keeps.refl _ _)
  · exact Keeps.execTbOfsLowWrite (Keeps.refl _ _)
  · exact Keeps.execTimeStep (Keeps.refl _ _)
  · exact Keeps.execGptpSyncSend (Keeps.refl _ _)
  · exact Keeps.execPdelaySend (Keeps.refl _ _)
  · exact Keeps.execEthFrameReceive (Keeps.refl _ _)
  · exact Keeps.execEthTransmit (Keeps.refl _ _)
  · exact Keeps.execTxTimestamp (Keeps.refl _ _)
  · exact Keeps.execTxtsPop (Keeps.refl _ _)
  · exact Keeps.execGateInterval (Keeps.refl _ _)
  · exact Keeps.execCanFrameReceive (Keeps.refl _ _)
  · exact Keeps.execContainerSend (Keeps.refl _ _)
  · exact Keeps.execCanTransmit (Keeps.refl _ _)
  · exact Keeps.execBusOff (Keeps.refl _ _)
  · exact Keeps.execBusOffRecovery (Keeps.refl _ _)
  · exact Keeps.execContainerValid (Keeps.refl _ _)
  · exact Keeps.execRouteValid (Keeps.refl _ _)
  · exact Keeps.execSwitchRun (Keeps.refl _ _)
  · exact Keeps.execUnitEnable (Keeps.refl _ _)
  · exact Keeps.execUnitDisable (Keeps.refl _ _)
  · exact Keeps.execUnitStartingDone (Keeps.refl _ _)
  · exact Keeps.execUnitStoppingDone (Keeps.refl _ _)
  · exact Keeps.execUnitStartTimeout (Keeps.refl _ _)
  · exact Keeps.execColdReset (Keeps.refl _ _)
  · exact Keeps.execColdBoot (Keeps.refl _ _)
  · exact Keeps.execWarmNPulse (Keeps.refl _ _)
  · exact Keeps.execWarmReset (Keeps.refl _ _)
  · exact Keeps.execFieldReset (Keeps.refl _ _)
  · exact Keeps.execRecoveryAnnounce (Keeps.refl _ _)
  · exact Keeps.execRecoveryData (Keeps.refl _ _)
  · exact Keeps.execRecoveryEnd (Keeps.refl _ _)
  · exact Keeps.execRecoverySilenceTimeout (Keeps.refl _ _)
  · exact Keeps.execPackageUpdate (Keeps.refl _ _)
  · exact Keeps.execPackageUpdateDone (Keeps.refl _ _)
  · exact Keeps.execComponentFault (Keeps.refl _ _)
  · exact Keeps.execComponentRestartDone (Keeps.refl _ _)
  · exact Keeps.execSchedulerFault (Keeps.refl _ _)
  · exact Keeps.execLogSave (Keeps.refl _ _)
  · exact Keeps.execTracePoint (Keeps.refl _ _)
  · exact Keeps.execRailValid (Keeps.refl _ _)
  · exact Keeps.execRailInvalid (Keeps.refl _ _)
  · exact Keeps.execDomainPowerUp (Keeps.refl _ _)
  · exact Keeps.execDomainPowerDown (Keeps.refl _ _)
  · exact Keeps.execDomainPowerFail (Keeps.refl _ _)
  · exact Keeps.execPllLock (Keeps.refl _ _)
  · exact Keeps.execClockChangeDone (Keeps.refl _ _)
  · exact Keeps.execAvsAck (Keeps.refl _ _)
  · exact Keeps.execLimiterWindow (Keeps.refl _ _)
  · exact Keeps.execMtimecmpMatch (Keeps.refl _ _)
  · exact Keeps.execI2cGo (Keeps.refl _ _)
  · exact Keeps.execI2cDone (Keeps.refl _ _)
  · exact Keeps.execI2cTimeout (Keeps.refl _ _)
  · exact Keeps.execAphyLinkLock (Keeps.refl _ _)
  · exact Keeps.execAphyLinkLoss (Keeps.refl _ _)
  · exact Keeps.execRegisterWrite (Keeps.refl _ _) Keeps.quietAt_false
  · exact Keeps.execShadowDeadlineCheck (Keeps.refl _ _)
  · exact Keeps.execPcieLinkChange (Keeps.refl _ _)
  · exact Keeps.execPciePerstChange (Keeps.refl _ _)
  · exact Keeps.execPcieConfigRequest (Keeps.refl _ _)
  · exact Keeps.execEthPortLinkChange (Keeps.refl _ _)
  · exact Keeps.execGrandmasterLoss (Keeps.refl _ _)

theorem exec_holds (c : Instr) (s : State) (h : mayReset c = false) : AnsKeeps true s (exec c s) := by
  cases c
  · exact absurd h (by simp [mayReset])
  · exact absurd h (by simp [mayReset])
  · exact absurd h (by simp [mayReset])
  · exact absurd h (by simp [mayReset])
  · exact absurd h (by simp [mayReset])
  · exact Keeps.execAlwaysOnTimerExpiry (Keeps.refl _ _)
  · exact absurd h (by simp [mayReset])
  · exact absurd h (by simp [mayReset])
  · exact Keeps.execTenantFreezeKillDeadline (Keeps.refl _ _)
  · exact Keeps.execBackstop (Keeps.refl _ _)
  · exact Keeps.execPocketWindowWrite (Keeps.refl _ _)
  · unfold exec
    exact Keeps.execStitchScrub (Keeps.refl _ _)
  · exact Keeps.execControlNop (Keeps.refl _ _)
  · exact Keeps.execControlJump (Keeps.refl _ _)
  · exact Keeps.execControlLoopset (Keeps.refl _ _)
  · exact Keeps.execControlLoop (Keeps.refl _ _)
  · exact Keeps.execControlEnd (Keeps.refl _ _)
  · exact Keeps.execMatrixMma (Keeps.refl _ _)
  · exact Keeps.execMatrixMmaNew (Keeps.refl _ _)
  · exact Keeps.execMatrixDrain (Keeps.refl _ _)
  · exact Keeps.execMatrixChkcmp (Keeps.refl _ _)
  · exact Keeps.execVectorLoad (Keeps.refl _ _)
  · exact Keeps.execVectorStore (Keeps.refl _ _)
  · exact Keeps.execVectorLdc (Keeps.refl _ _)
  · exact Keeps.execVectorAdd (Keeps.refl _ _)
  · exact Keeps.execVectorMul (Keeps.refl _ _)
  · exact Keeps.execVectorFma (Keeps.refl _ _)
  · exact Keeps.execVectorMax (Keeps.refl _ _)
  · exact Keeps.execVectorMin (Keeps.refl _ _)
  · exact Keeps.execVectorCvt (Keeps.refl _ _)
  · exact Keeps.execVectorSfu (Keeps.refl _ _)
  · exact Keeps.execVectorReduce (Keeps.refl _ _)
  · exact Keeps.execVectorRowstat (Keeps.refl _ _)
  · exact Keeps.execVectorQuantMx (Keeps.refl _ _)
  · exact Keeps.execVectorCmp (Keeps.refl _ _)
  · exact Keeps.execStreamSend (Keeps.refl _ _)
  · exact Keeps.execStreamRecv (Keeps.refl _ _)
  · exact Keeps.execMoverStart (Keeps.refl _ _)
  · exact Keeps.execSignalToken (Keeps.refl _ _)
  · exact Keeps.execSignalWaittok (Keeps.refl _ _)
  · exact Keeps.execStreamFlit (Keeps.refl _ _)
  · exact Keeps.execStreamCredit (Keeps.refl _ _)
  · exact Keeps.execControlPacket (Keeps.refl _ _)
  · exact Keeps.execMoverHalfEvent (Keeps.refl _ _)
  · exact Keeps.execMoverFullEvent (Keeps.refl _ _)
  · exact Keeps.execPageTableMissFill (Keeps.refl _ _)
  · exact Keeps.execClusterMoverTransferDone (Keeps.refl _ _)
  · exact Keeps.execCmqRecordAppend (Keeps.refl _ _)
  · exact Keeps.execStallWatchdogExpiry (Keeps.refl _ _)
  · exact Keeps.execContainedFaultDrainDone (Keeps.refl _ _)
  · exact Keeps.execClearingDone (Keeps.refl _ _)
  · exact Keeps.execKillDone (Keeps.refl _ _)
  · exact Keeps.execFieldReinit (Keeps.refl _ _)
  · exact Keeps.execFieldReinitDone (Keeps.refl _ _)
  · exact Keeps.execFieldLoad (Keeps.refl _ _)
  · exact Keeps.execStitchPhaseStart (Keeps.refl _ _)
  · exact Keeps.execDigestWaitResolve (Keeps.refl _ _)
  · exact Keeps.execFieldLoadDone (Keeps.refl _ _)
  · exact Keeps.execPatrolScrub (Keeps.refl _ _)
  · exact Keeps.execKeyGenerate (Keeps.refl _ _)
  · exact Keeps.execKeyZeroise (Keeps.refl _ _)
  · exact Keeps.execKeyCmdDone (Keeps.refl _ _)
  · exact Keeps.execCopy (Keeps.refl _ _)
  · exact Keeps.execFill (Keeps.refl _ _)
  · exact Keeps.execChecksum (Keeps.refl _ _)
  · exact Keeps.execDmaChannelStart (Keeps.refl _ _)
  · exact Keeps.execDmaChannelDone (Keeps.refl _ _)
  · exact Keeps.execDmaChannelDisable (Keeps.refl _ _)
  · exact Keeps.execDoorbell (Keeps.refl _ _)
  · exact Keeps.execDescriptorFetch (Keeps.refl _ _)
  · exact Keeps.execRingEnable (Keeps.refl _ _)
  · exact Keeps.execSqDisable (Keeps.refl _ _)
  · exact Keeps.execRingConfigWrite (Keeps.refl _ _)
  · exact Keeps.execNop (Keeps.refl _ _)
  · exact Keeps.execFence (Keeps.refl _ _)
  · exact Keeps.execFenceRelease (Keeps.refl _ _)
  · exact Keeps.execInfer (Keeps.refl _ _)
  · exact Keeps.execCommandAdmit (Keeps.refl _ _)
  · exact Keeps.execPreemptKill (Keeps.refl _ _)
  · exact Keeps.execCommandCommit (Keeps.refl _ _)
  · exact Keeps.execFieldRelease (Keeps.refl _ _)
  · exact Keeps.execFieldDetach (Keeps.refl _ _)
  · exact Keeps.execFieldCheckpoint (Keeps.refl _ _)
  · exact Keeps.execAccountingWindowEnd (Keeps.refl _ _)
  · exact Keeps.execAccountingRecordDeferred (Keeps.refl _ _)
  · exact Keeps.execEnergyRecalibration (Keeps.refl _ _)
  · exact Keeps.execSeqAdmit (Keeps.refl _ _)
  · exact Keeps.execSeqStep (Keeps.refl _ _)
  · exact Keeps.execSeqRetire (Keeps.refl _ _)
  · exact Keeps.execPrefixPin (Keeps.refl _ _)
  · exact Keeps.execPrefixUnpin (Keeps.refl _ _)
  · exact Keeps.execPoolValid (Keeps.refl _ _)
  · exact Keeps.execPoolReady (Keeps.refl _ _)
  · exact Keeps.execPoolInvalidate (Keeps.refl _ _)
  · exact Keeps.execCameraPacket (Keeps.refl _ _)
  · exact Keeps.execLidarPacket (Keeps.refl _ _)
  · exact Keeps.execImuDrdy (Keeps.refl _ _)
  · exact Keeps.execImuTransactionDone (Keeps.refl _ _)
  · exact Keeps.execSampleComplete (Keeps.refl _ _)
  · exact Keeps.execFrameSyncStart (Keeps.refl _ _)
  · exact Keeps.execFrameSyncEnd (Keeps.refl _ _)
  · exact Keeps.execInstantRelease (Keeps.refl _ _)
  · exact Keeps.execInstantWaitLimit (Keeps.refl _ _)
  · exact Keeps.execResyncRequest (Keeps.refl _ _)
  · exact Keeps.execSourceEnable (Keeps.refl _ _)
  · exact Keeps.execSourceDisable (Keeps.refl _ _)
  · exact Keeps.execFusRunStart (Keeps.refl _ _)
  · exact Keeps.execFusRunStop (Keeps.refl _ _)
  · exact Keeps.execFrame (Keeps.refl _ _)
  · exact Keeps.execProject (Keeps.refl _ _)
  · exact Keeps.execRender (Keeps.refl _ _)
  · exact Keeps.execPresent (Keeps.refl _ _)
  · exact Keeps.execPresentLatch (Keeps.refl _ _)
  · exact Keeps.execFrameStart (Keeps.refl _ _)
  · exact Keeps.execFaultReport (Keeps.refl _ _)
  · exact Keeps.execHeartbeatTimeout (Keeps.refl _ _)
  · exact Keeps.execFirmwareSilent (Keeps.refl _ _)
  · exact Keeps.execSafeStateFrame (Keeps.refl _ _)
  · exact Keeps.execPrimaryDeadlineCheck (Keeps.refl _ _)
  · exact Keeps.execStatusFrame (Keeps.refl _ _)
  · exact Keeps.execSleepPermissionFrame (Keeps.refl _ _)
  · exact Keeps.execSleepPermissionExpiry (Keeps.refl _ _)
  · exact Keeps.execFallbackDatagram (Keeps.refl _ _)
  · exact Keeps.execKick (Keeps.refl _ _)
  · exact Keeps.execWatchdogWindowExpiry (Keeps.refl _ _)
  · exact Keeps.execStatusWrite (Keeps.refl _ _)
  · exact Keeps.execGoldenSlotOpen (Keeps.refl _ _)
  · exact Keeps.execGoldenForcedKill (Keeps.refl _ _)
  · exact Keeps.execGoldenSkip (Keeps.refl _ _)
  · exact Keeps.execGoldenDeadline (Keeps.refl _ _)
  · exact Keeps.execGoldenCompareDone (Keeps.refl _ _)
  · exact Keeps.execBistSliceStart (Keeps.refl _ _)
  · exact Keeps.execBistSliceDone (Keeps.refl _ _)
  · exact Keeps.execBistIntervalDue (Keeps.refl _ _)
  · exact Keeps.execCoverageLapse (Keeps.refl _ _)
  · exact Keeps.execReadmit (Keeps.refl _ _)
  · exact Keeps.execVefEnable (Keeps.refl _ _)
  · exact Keeps.execVefDisable (Keeps.refl _ _)
  · exact Keeps.execVefReset (Keeps.refl _ _)
  · exact absurd h (by simp [mayReset])
  · exact Keeps.execFunctionLevelReset (Keeps.refl _ _)
  · exact Keeps.execVefFreeze (Keeps.refl _ _)
  · exact Keeps.execFreezeKillExpiry (Keeps.refl _ _)
  · exact absurd h (by simp [mayReset])
  · exact Keeps.execVefThaw (Keeps.refl _ _)
  · exact absurd h (by simp [mayReset])
  · exact absurd h (by simp [mayReset])
  · exact Keeps.execAttestationGo (Keeps.refl _ _)
  · exact Keeps.execAttestationReportDone (Keeps.refl _ _)
  · exact Keeps.execAttestationRequest (Keeps.refl _ _)
  · exact Keeps.execPassFlit (Keeps.refl _ _)
  · exact Keeps.execPassRetrainDone (Keeps.refl _ _)
  · exact Keeps.execLinkTrainingDone (Keeps.refl _ _)
  · exact Keeps.execSignalLockLoss (Keeps.refl _ _)
  · exact Keeps.execHelloTimeout (Keeps.refl _ _)
  · exact Keeps.execHelloSend (Keeps.refl _ _)
  · exact Keeps.execPassHello (Keeps.refl _ _)
  · exact Keeps.execLsaSend (Keeps.refl _ _)
  · exact Keeps.execPassLsa (Keeps.refl _ _)
  · exact Keeps.execLsaAgeOut (Keeps.refl _ _)
  · exact Keeps.execRouteCompute (Keeps.refl _ _)
  · exact Keeps.execPassRoutes (Keeps.refl _ _)
  · exact Keeps.execRoutesAck (Keeps.refl _ _)
  · exact Keeps.execRoutesCommit (Keeps.refl _ _)
  · exact Keeps.execPassWrite (Keeps.refl _ _)
  · exact Keeps.execPassWriteAck (Keeps.refl _ _)
  · exact Keeps.execPassRead (Keeps.refl _ _)
  · exact Keeps.execPassReadData (Keeps.refl _ _)
  · exact Keeps.execPassLock (Keeps.refl _ _)
  · exact Keeps.execPassLockGrant (Keeps.refl _ _)
  · exact Keeps.execPassUnlock (Keeps.refl _ _)
  · exact Keeps.execSbPoll (Keeps.refl _ _)
  · exact Keeps.execSbData (Keeps.refl _ _)
  · exact Keeps.execPollTimer (Keeps.refl _ _)
  · exact Keeps.execPollMiss (Keeps.refl _ _)
  · exact Keeps.execSboSet (Keeps.refl _ _)
  · exact Keeps.execRequestTimeout (Keeps.refl _ _)
  · exact Keeps.execTunnelDatagram (Keeps.refl _ _)
  · next src cls a data len =>
    refine Keeps.execBridgeBurst (Keeps.refl _ _) (fun d e x hx _ => ?_)
    subst e
    simp only [mayReset, Bool.not_eq_false', List.all_eq_true, Bool.and_eq_true, Bool.or_eq_true, beq_iff_eq] at h
    exact ⟨(h x hx).1, fun hb => (h x hx).2.resolve_left hb⟩
  · exact Keeps.execFabricLr (Keeps.refl _ _)
  · exact Keeps.execFabricSc (Keeps.refl _ _)
  · exact Keeps.execFabricAmo (Keeps.refl _ _)
  · exact Keeps.execLockHoldExpiry (Keeps.refl _ _)
  · exact Keeps.execLockWaitTimeout (Keeps.refl _ _)
  · exact Keeps.execDelayedReadExpiry (Keeps.refl _ _)
  · exact Keeps.execSnap (Keeps.refl _ _)
  · exact Keeps.execTbIncWrite (Keeps.refl _ _)
  · exact Keeps.execTbOfsLowWrite (Keeps.refl _ _)
  · exact Keeps.execTimeStep (Keeps.refl _ _)
  · exact Keeps.execGptpSyncSend (Keeps.refl _ _)
  · exact Keeps.execPdelaySend (Keeps.refl _ _)
  · exact absurd h (by simp [mayReset])
  · exact absurd h (by simp [mayReset])
  · exact Keeps.execTxTimestamp (Keeps.refl _ _)
  · exact Keeps.execTxtsPop (Keeps.refl _ _)
  · exact absurd h (by simp [mayReset])
  · exact absurd h (by simp [mayReset])
  · exact Keeps.execContainerSend (Keeps.refl _ _)
  · exact Keeps.execCanTransmit (Keeps.refl _ _)
  · exact Keeps.execBusOff (Keeps.refl _ _)
  · exact Keeps.execBusOffRecovery (Keeps.refl _ _)
  · exact Keeps.execContainerValid (Keeps.refl _ _)
  · exact Keeps.execRouteValid (Keeps.refl _ _)
  · exact Keeps.execSwitchRun (Keeps.refl _ _)
  · exact Keeps.execUnitEnable (Keeps.refl _ _)
  · exact Keeps.execUnitDisable (Keeps.refl _ _)
  · exact Keeps.execUnitStartingDone (Keeps.refl _ _)
  · exact Keeps.execUnitStoppingDone (Keeps.refl _ _)
  · exact Keeps.execUnitStartTimeout (Keeps.refl _ _)
  · exact absurd h (by simp [mayReset])
  · exact Keeps.execColdBoot (Keeps.refl _ _)
  · exact absurd h (by simp [mayReset])
  · exact absurd h (by simp [mayReset])
  · exact Keeps.execFieldReset (Keeps.refl _ _)
  · exact Keeps.execRecoveryAnnounce (Keeps.refl _ _)
  · exact Keeps.execRecoveryData (Keeps.refl _ _)
  · exact Keeps.execRecoveryEnd (Keeps.refl _ _)
  · exact Keeps.execRecoverySilenceTimeout (Keeps.refl _ _)
  · exact Keeps.execPackageUpdate (Keeps.refl _ _)
  · exact absurd h (by simp [mayReset])
  · exact Keeps.execComponentFault (Keeps.refl _ _)
  · exact Keeps.execComponentRestartDone (Keeps.refl _ _)
  · exact Keeps.execSchedulerFault (Keeps.refl _ _)
  · exact Keeps.execLogSave (Keeps.refl _ _)
  · exact Keeps.execTracePoint (Keeps.refl _ _)
  · exact Keeps.execRailValid (Keeps.refl _ _)
  · exact Keeps.execRailInvalid (Keeps.refl _ _)
  · exact Keeps.execDomainPowerUp (Keeps.refl _ _)
  · exact Keeps.execDomainPowerDown (Keeps.refl _ _)
  · exact Keeps.execDomainPowerFail (Keeps.refl _ _)
  · exact Keeps.execPllLock (Keeps.refl _ _)
  · exact absurd h (by simp [mayReset])
  · exact Keeps.execAvsAck (Keeps.refl _ _)
  · exact Keeps.execLimiterWindow (Keeps.refl _ _)
  · exact Keeps.execMtimecmpMatch (Keeps.refl _ _)
  · exact Keeps.execI2cGo (Keeps.refl _ _)
  · exact Keeps.execI2cDone (Keeps.refl _ _)
  · exact Keeps.execI2cTimeout (Keeps.refl _ _)
  · exact Keeps.execAphyLinkLock (Keeps.refl _ _)
  · exact Keeps.execAphyLinkLoss (Keeps.refl _ _)
  · next a b v =>
    refine Keeps.execRegisterWrite (Keeps.refl _ _) (fun _ => ?_)
    simp only [mayReset, Bool.not_eq_false', Bool.and_eq_true, Bool.or_eq_true, beq_iff_eq] at h
    exact ⟨h.1, fun hb => h.2.resolve_left hb⟩
  · exact Keeps.execShadowDeadlineCheck (Keeps.refl _ _)
  · exact Keeps.execPcieLinkChange (Keeps.refl _ _)
  · exact Keeps.execPciePerstChange (Keeps.refl _ _)
  · exact Keeps.execPcieConfigRequest (Keeps.refl _ _)
  · exact Keeps.execEthPortLinkChange (Keeps.refl _ _)
  · exact Keeps.execGrandmasterLoss (Keeps.refl _ _)

/-- A command's next state. -/
theorem exec_total (c : Instr) (s : State) : ∃ t, exec c s = .next t ∧ Keeps false s t := Keeps.ans_next (exec_keeps c s)

/-- No command touches the queue of commands. -/
theorem exec_pending {c : Instr} {s t : State} (h : exec c s = .next t) : t.pending = s.pending := by
  obtain ⟨u, hu, k⟩ := exec_total c s
  rw [hu] at h
  cases h
  exact k.pending

/-- A state that a sound one is carried to is sound. -/
theorem Keeps.sound {b : Bool} {s t : State} (k : Keeps b s t) (h : s.Sound) : t.Sound := by
  obtain ⟨hm, hr, hf, hc⟩ := h
  simp only [Memory.wf, Bool.and_eq_true] at hm
  refine ⟨?_, k.ranges hr, k.faults hf, k.counter hc⟩
  simp only [Memory.wf, Bool.and_eq_true]
  exact ⟨⟨⟨k.hbm hm.1.1.1, k.pocket hm.1.1.2⟩, k.sram hm.1.2⟩, k.stitch hm.2⟩

/-- What a state that locks are carried to holds. -/
theorem Keeps.held {s t : State} (k : Keeps true s t) : LocksHeld s t := by
  intro p hp hf
  have := k.locks rfl p hp (by simpa [State.flag, State.rd] using hf)
  exact ⟨by simpa [State.flag, State.rd] using this.1, this.2⟩

/-- What a tick leaves: locks stand, and local monotonic time has advanced. -/
theorem tick_holds (s : State) : LocksHeld s s.tick ∧ Sparse.look 0 s.tick.time.acc 3 = Sparse.look 0 s.time.acc 3 + s.tickInc 3 := by
  have k := Keeps.tick_rest s
  exact ⟨k.held, (k.time rfl).trans (Sparse.look_put_same _ _ _ _)⟩

/-- What a step does where no command waits, and where one does. -/
theorem step_idle {s : State} (h : s.pending = []) : step s = .next s.tick := by
  unfold step
  rw [h]

theorem step_front {s : State} {c : Instr} {rest : List Instr} (h : s.pending = c :: rest) :
    step s = exec c { s with pending := rest } := by
  unfold step
  rw [h]

end Sys2Proof.Machine
end

