-- ==== Sys2Proof/Machine/Balls.lean ====
section
/-! DEFINITION. The package: which net each ball carries (18 R433–R436), and the state each signal ball takes (18 R437). -/

namespace Sys2Proof.Machine

/-! ## The ball map (R433–R436) -/

/-- Signal groups, in the order of R436. -/
inductive BallGroup where
  | pass
  | pcie
  | eth
  | aphy
  | csi
  | display
  | system
  | can
  | spi
  deriving DecidableEq, Repr

/-- Supply names. -/
inductive Supply where
  | serdes075
  | serdes12
  | soc
  | sram
  | plain
  | aon
  | io18Aon
  | io18
  | io33
  | hbmVdd
  | hbmVddq
  | hbmPhy
  | hbmVpp
  deriving DecidableEq, Repr

/-- What a ball carries: ground, a signal by its place in its group's order, a supply, or nothing. -/
inductive Net where
  | vss
  | signal (g : BallGroup) (k : Nat)
  | supply (n : Supply)
  | rsvd
  deriving DecidableEq, Repr

/-- A run of names in a region: the signals of a group, or balls of one name. -/
inductive BallRun where
  | signals (g : BallGroup) (n : Nat)
  | balls (n : Net) (count : Nat)
  deriving DecidableEq, Repr

/-- Balls of a run. -/
def ballCount : BallRun → Nat
  | .signals _ n => n
  | .balls _ n => n

/-- A region: rows and columns, first and last, and its runs in order. -/
structure BallRegion where
  row : Nat
  rowEnd : Nat
  col : Nat
  colEnd : Nat
  runs : List BallRun
  deriving DecidableEq, Repr

/-- A region of one supply. -/
def BallRegion.of (row rowEnd col colEnd : Nat) (n : Supply) : BallRegion := ⟨row, rowEnd, col, colEnd, [.balls (.supply n) 4356]⟩

/-- The regions of R434. -/
def ballRegions : List BallRegion :=
  List.flatten [
  [⟨1, 8, 1, 40, [.signals .pass 130, .balls (.supply .serdes075) 30]⟩,
   ⟨1, 8, 41, 50, [.signals .pcie 36, .balls (.supply .serdes075) 4]⟩,
   ⟨1, 8, 51, 66, [.signals .eth 36, .balls (.supply .serdes075) 28]⟩,
   ⟨59, 66, 1, 66, [.signals .aphy 24, .signals .csi 44, .signals .display 64, .balls .rsvd 16, .balls (.supply .soc) 60,
     .balls (.supply .serdes075) 40, .balls (.supply .sram) 16]⟩],
  [.of 9 12 1 8 .serdes075, .of 9 12 59 66 .serdes075, .of 13 14 1 8 .serdes12, .of 13 14 59 66 .serdes12],
  [.of 15 24 1 8 .hbmVdd, .of 15 24 59 66 .hbmVdd, .of 25 34 1 8 .hbmVddq, .of 25 34 59 66 .hbmVddq],
  [.of 35 44 1 8 .hbmPhy, .of 35 44 59 66 .hbmPhy, .of 45 46 1 8 .hbmVpp, .of 45 46 59 66 .hbmVpp],
  [⟨47, 58, 1, 8, [.signals .system 30, .balls (.supply .aon) 2, .balls (.supply .io18Aon) 2, .balls (.supply .io18) 8,
     .balls (.supply .io33) 6]⟩,
   ⟨47, 58, 59, 66, [.signals .can 32, .signals .spi 10, .balls (.supply .io18) 4, .balls (.supply .io33) 2]⟩],
  [.of 9 44 9 58 .plain, .of 45 54 9 58 .soc, .of 55 58 9 58 .sram]]

/-- Even balls of a row of a region, left of a column. -/
def BallRegion.before (r : BallRegion) (i j : Nat) : Nat :=
  ((List.range (j - r.col)).filter (fun d => (i + r.col + d) % 2 == 0)).length

/-- Number of an even ball in its region, from 0. -/
def BallRegion.index (r : BallRegion) (i j : Nat) : Nat := (i - r.row) * ((r.colEnd - r.col + 1) / 2) + r.before i j

/-- The net of the `k`-th ball of a list of runs. -/
def runNet : List BallRun → Nat → Net
  | [], _ => .vss
  | x :: r, k =>
    if k < ballCount x then
      match x with
      | .signals g _ => .signal g k
      | .balls n _ => n
    else runNet r (k - ballCount x)

/-- The region that holds a ball. -/
def ballRegion (i j : Nat) : Option BallRegion :=
  ballRegions.find? (fun r => decide (r.row ≤ i ∧ i ≤ r.rowEnd ∧ r.col ≤ j ∧ j ≤ r.colEnd))

/-- The net of ball (i, j), with rows and columns 1 to 66. -/
def ballNet (i j : Nat) : Net :=
  if (i + j) % 2 = 1 then .vss
  else match ballRegion i j with
    | some r => runNet r.runs (r.index i j)
    | none => .vss

/-- Letters of the rows. -/
def rowLetters : List Char := ['A', 'B', 'C', 'D', 'E', 'F', 'G', 'H', 'J', 'K', 'L', 'M', 'N', 'P', 'T', 'U', 'V', 'W', 'Y']

/-- The name of row `i`, 1 to 66. -/
def rowName (i : Nat) : List Char :=
  let c := rowLetters.getD ((i - 1) % 19) 'A'
  if i ≤ 19 then [c] else [rowLetters.getD ((i - 1) / 19 - 1) 'A', c]

/-- The ball of a signal: its row and column. -/
def ballOf (g : BallGroup) (k : Nat) : Option (Nat × Nat) :=
  (List.range 4356).findSome? (fun n => if ballNet (n / 66 + 1) (n % 66 + 1) = .signal g k then some (n / 66 + 1, n % 66 + 1) else none)

/-! ## Signal order (R436) -/

/-- The two legs of a pair. -/
def pair (s : String) : List String := [s ++ "_P", s ++ "_N"]

/-- The names of a group's signals in order. -/
def signalNames : BallGroup → List String
  | .pass => pair "PASS_REFCLK" ++ (List.range 4).flatMap (fun p => (List.range 8).flatMap (fun l =>
      pair ("PASS" ++ toString p ++ "_TX" ++ toString l) ++ pair ("PASS" ++ toString p ++ "_RX" ++ toString l)))
  | .pcie => pair "PCIE_REFCLK" ++ (List.range 8).flatMap (fun l => pair ("PCIE_TX" ++ toString l) ++ pair ("PCIE_RX" ++ toString l)) ++
      ["PCIE_PERST_N", "PCIE_CLKREQ_N"]
  | .eth => (List.range 8).flatMap (fun p => pair ("ETH" ++ toString p ++ "_TX") ++ pair ("ETH" ++ toString p ++ "_RX")) ++
      ["ETH_MDC", "ETH_MDIO", "ETH_PHY_RST_N", "ETH_PHY_INT_N"]
  | .aphy => (List.range 12).flatMap (fun n => pair ("APHY" ++ toString n))
  | .csi => (List.range 4).flatMap (fun p => pair ("CSI" ++ toString p ++ "_CLK") ++
      (List.range 4).flatMap (fun k => pair ("CSI" ++ toString p ++ "_D" ++ toString k))) ++
      (List.range 4).map (fun k => "CSI_FSYNC[" ++ toString k ++ "]")
  | .display => (List.range 4).flatMap (fun h => (List.range 4).flatMap (fun k => pair ("DP" ++ toString h ++ "_ML" ++ toString k)) ++
      pair ("DP" ++ toString h ++ "_AUX") ++ ["DP" ++ toString h ++ "_HPD"]) ++
      [4, 5].flatMap (fun h => pair ("DSI" ++ toString h ++ "_CLK") ++
        (List.range 4).flatMap (fun k => pair ("DSI" ++ toString h ++ "_D" ++ toString k)))
  | .system => ["POR_N", "WARM_N", "CAN_WAKE", "ETH_WAKE", "PMIC_EN", "MAIN_EN", "FAULT_N", "BOOT_SRC[0]", "BOOT_SRC[1]", "PCIE_MODE",
      "TEST_EN", "XT32_IN", "XT32_OUT", "XT25_IN", "XT25_OUT", "XSPI_CLK", "XSPI_CS_N", "XSPI_DQS"] ++
      (List.range 8).map (fun k => "XSPI_DQ[" ++ toString k ++ "]") ++ ["XSPI_RESET_N", "AVS_CLK", "AVS_MDATA", "AVS_SDATA"]
  | .can => (List.range 16).flatMap (fun c => ["CAN" ++ toString c ++ "_TXD", "CAN" ++ toString c ++ "_RXD"])
  | .spi => (List.range 2).flatMap (fun p => ["SPI" ++ toString p ++ "_SCLK", "SPI" ++ toString p ++ "_MOSI", "SPI" ++ toString p ++ "_MISO",
      "SPI" ++ toString p ++ "_CS_N", "IMU_DRDY[" ++ toString p ++ "]"])

/-! ## Ball states (R437) -/

/-- Kinds of signal balls, with the unit that owns them. -/
inductive BallKind where
  | porN
  | warmN
  | wakeIn
  | pmicEn
  | mainEn
  | faultN
  | strap
  | xt32
  | xt25
  | xspiClk
  | xspiCsN
  | xspiResetN
  | xspiData
  | avsClk
  | avsMdata
  | avsSdata
  | canTxd (c : Fin 16)
  | canRxd (c : Fin 16)
  | spiOut (csN : Bool)
  | spiIn
  | pcieLanes
  | pciePerstN
  | pcieClkreqN
  | passLanes (p : Fin 4)
  | ethLanes (p : Fin 8)
  | ethMdc
  | ethMdio
  | ethPhyRstN
  | ethPhyIntN
  | aphy (r : Fin 12)
  | csi
  | csiFsync
  | dpMain (h : Fin 4)
  | dpAux (h : Fin 4)
  | dpHpd (h : Fin 4)
  | dsi (h : Fin 2)
  deriving DecidableEq, Repr

/-- States of a ball. `inUse` is the state that its interface gives it while its unit is ON. -/
inductive BallState where
  | high
  | low
  | input
  | inputUp
  | inputDown
  | wakeInput
  | ignored
  | latched
  | highZ
  | unpowered
  | idle
  | released
  | running
  | stopped
  | lp00
  | inUse
  deriving DecidableEq, Repr

/-- The state of a ball of the always-on domain, in reset or not. -/
def State.aonBall (s : State) (inReset : Bool) (k : BallKind) : BallState :=
  let warm := !inReset && s.cur == mWarm
  let cold := !inReset && s.cur == mCold
  let parked := warm || cold
  match k with
  | .porN => .input
  | .warmN => if parked then .ignored else .inputUp
  | .wakeIn => if parked then .wakeInput else .inputDown
  | .pmicEn => if cold then .low else .high
  | .mainEn => if parked then .low else .high
  | .faultN => if inReset || parked || s.flag SAF_CTL.FAULT_N_LOW then .low else .released
  | .strap => if inReset then .latched else .ignored
  | .xt25 => if parked then .stopped else .running
  | _ => .running

/-- A unit is ON or on its way: its lanes are its own. -/
def State.unitBusy (s : State) (u : UnitSel) : Bool := s.unitState u == uOn

/-- The state of a ball outside the always-on domain, while its rail is on. -/
def State.mainBall (s : State) (inReset : Bool) (k : BallKind) : BallState :=
  let own (u : UnitSel) (off : BallState) : BallState := if !inReset && s.unitBusy u then .inUse else off
  match k with
  | .xspiClk => if inReset then .low else .inUse
  | .xspiCsN => if inReset then .high else .inUse
  | .xspiResetN => if inReset then .low else .high
  | .xspiData => if inReset then .inputDown else .inUse
  | .avsClk => if inReset then .low else .inUse
  | .avsMdata => if inReset then .high else .inUse
  | .avsSdata => .input
  | .canTxd c => own (.can c) .high
  | .canRxd _ => .inputUp
  | .spiOut csN => if !inReset && s.flag FUS_CTL.RUN then .inUse else if csN then .high else .low
  | .spiIn => .input
  | .pcieLanes => if !inReset && s.flag PCIE_STAT.LINK_UP then .inUse else .idle
  | .pciePerstN => if s.flag SYS_STRAP.PCIE_MODE then .input else if inReset || s.cur == mBoot then .low else .high
  | .pcieClkreqN => if inReset then .released else .low
  | .passLanes p => own (.pass p) .idle
  | .ethLanes p => own (.eth ⟨p.val, by omega⟩) .idle
  | .ethMdc => .low
  | .ethMdio => .input
  | .ethPhyRstN => if !inReset && s.flag GW_SW.RUN then .high else .low
  | .ethPhyIntN => .inputUp
  | .aphy r => if !inReset && (List.range 12).any (fun i => s.flag ING_SRC.ENABLE i && s.rd ING_SRC.PORT i == r.val) then .inUse else .highZ
  | .csi => if !inReset && (List.range 16).any (fun i => s.flag ING_SRC.ENABLE i && decide (12 ≤ s.rd ING_SRC.PORT i)) then .inUse else .highZ
  | .csiFsync => .low
  | .dpMain h => own (.head ⟨h.val, by omega⟩) .idle
  | .dpAux h => own (.head ⟨h.val, by omega⟩) .highZ
  | .dpHpd _ => .input
  | .dsi h => own (.head ⟨4 + h.val, by omega⟩) (if inReset then .highZ else .lp00)
  | _ => .inUse

/-- Balls of the always-on domain. -/
def aonKind : BallKind → Bool
  | .porN | .warmN | .wakeIn | .pmicEn | .mainEn | .faultN | .strap | .xt32 | .xt25 => true
  | _ => false

/-- The state of a ball; outside the always-on domain it is unpowered in PARK. -/
def State.ball (s : State) (inReset : Bool) (k : BallKind) : BallState :=
  if aonKind k then s.aonBall inReset k
  else if !inReset && !s.outsidePark then .unpowered
  else s.mainBall inReset k

end Sys2Proof.Machine
end

