-- ==== Sys2Proof/WellFormed.lean ====
section
/-! DEFINITION. Well-formed commands: the ranges of operands that the manual gives and that a constructor's types do not
already hold. Each check refuses what no wire, bus or register of the device can carry. -/

namespace Sys2Proof

/-- An access to a memory-mapped location (12 R295, 17 R415): 1, 2, 4 or 8 bytes, a 48-bit address, a value of that width. -/
def accessOk (addr bytes value : Nat) : Bool :=
  [1, 2, 4, 8].contains bytes && decide (addr < 2 ^ 48) && decide (value < 2 ^ (8 * bytes))

/-- A Pass packet's fields fit their places (13 R317). -/
def PassPacket.wellFormed (p : PassPacket) : Bool :=
  decide (p.cls < 4) && decide (p.dst < 2 ^ 16) && decide (p.src < 2 ^ 16) && decide (p.vef < 128)
    && decide (p.domain < 256) && decide (p.addr < 2 ^ 48) && decide (p.tag < 2 ^ 16) && decide (p.len < 2 ^ 16)
    && decide (p.gen < 2 ^ 16) && decide (p.payload.length ≤ 256)

/-- A HELLO's fields fit their places (13 R320). -/
def PassHello.wellFormed (h : PassHello) : Bool :=
  decide (h.hash < 2 ^ 64) && decide (h.id < 2 ^ 16) && decide (h.port < 4) && decide (h.gen < 2 ^ 16)

/-- A link-state announcement's fields fit their places, and it lists each port at most once (13 R320). -/
def PassLsa.wellFormed (l : PassLsa) : Bool :=
  decide (l.hash < 2 ^ 64) && decide (l.id < 2 ^ 16) && decide (l.links.length ≤ 4)
    && l.links.all (fun k => decide (k.port < 4) && decide (k.peer < 2 ^ 64) && decide (k.peerPort < 4))

/-- A route entry names a member number and a port (13 R322, R334). -/
def PassRoute.wellFormed (r : PassRoute) : Bool := decide (r.member < 256) && decide (r.port < 4)

/-- A CAN frame as CAN 2.0, CAN FD and CAN XL carry it (14 R356): an 11-bit or 29-bit identifier, at most 8, 64 or
2,048 bytes. -/
def CanFrame.wellFormed (f : CanFrame) : Bool :=
  decide (f.id < if f.ext then 2 ^ 29 else 2 ^ 11)
    && decide (f.data.length ≤ if f.xl then 2048 else if f.fd then 64 else 8)

/-- A pixel line of a camera packet: a 6-bit CSI-2 data type, pixels of at most 20 bits (08 R194, R195). -/
def CamPacket.wellFormed : CamPacket → Bool
  | .line dt px => decide (dt < 64) && px.all (fun p => decide (p < 2 ^ 20))
  | _ => true

/-- A frame on a port of the switch: an Ethernet frame of at least 60 bytes and at most 16 KiB, without its FCS (14). -/
def ethFrameOk (b : Bytes) : Bool := decide (14 ≤ b.length) && decide (b.length < 2 ^ 14)

/-- The command's operands are what the device can be given. -/
def Instr.wellFormed : Instr → Bool
  | .pocketWindowWrite _ addr data => [1, 2, 4, 8].contains data.length && decide (addr < 2 ^ 48)
  | .stitchScrub _ bad => bad.all (fun w => decide (w < 0x1000))
  | .controlPacket _ (.start job) => decide (job < 2 ^ 64)
  | .patrolScrub word _ => decide (word < 64 * 768 * 2 ^ 20 / 8)
  | .ringConfigWrite _ addr bytes value => accessOk addr bytes value
  | .registerWrite _ addr bytes value => accessOk addr bytes value
  | .cameraPacket _ _ packet _ => packet.wellFormed
  | .lidarPacket f => ethFrameOk f
  | .ethFrameReceive _ f _ => ethFrameOk f
  | .frameStart _ late => late.all (fun x => decide (x.1 < 16))
  | .render prims => prims.all (fun p => match p.box with
      | none => true
      | some b => decide (b.1 < b.2.2.1) && decide (b.2.1 < b.2.2.2))
  | .sleepPermissionFrame _ id ext data => CanFrame.wellFormed ⟨id, ext, true, false, data⟩
  | .canFrameReceive _ f => f.wellFormed
  | .bistSliceDone fails => fails.all (fun f => decide (f.row < 2 ^ 16) && decide (f.col < 2 ^ 16) && decide (f.word < 2 ^ 16))
  | .coldBoot _ fails _ => fails.all (fun f => decide (f.row < 2 ^ 16) && decide (f.col < 2 ^ 16))
  | .passFlit _ flit => decide (flit.length = 128)
  | .passHello _ hello => hello.wellFormed
  | .passLsa _ lsa => lsa.wellFormed
  | .lsaAgeOut hash => decide (hash < 2 ^ 64)
  | .passRoutes _ entries => entries.all PassRoute.wellFormed
  | .passWrite _ p | .passWriteAck _ p | .passRead _ p | .passReadData _ p | .passLock _ p | .passLockGrant _ p
  | .passUnlock _ p | .sbPoll _ p | .sbData _ p => p.wellFormed
  | .sboSet _ _ set => decide (set < 2 ^ 32)
  | .tunnelDatagram payload => decide (payload.length < 2 ^ 14)
  | .bridgeBurst _ _ addr data len => decide (addr < 2 ^ 64) && decide (len < 2 ^ 16) && (match data with
      | some d => decide (d.length < 2 ^ 16)
      | none => true)
  | .fabricLr _ addr => decide (addr < 2 ^ 64)
  | .fabricSc _ addr data => decide (addr < 2 ^ 64) && [4, 8].contains data.length
  | .fabricAmo _ addr _ wide value => decide (addr < 2 ^ 64) && decide (value < if wide then 2 ^ 64 else 2 ^ 32)
  | .tbIncWrite _ _ value => decide (value < 2 ^ 40)
  | .tbOfsLowWrite _ _ low => decide (low < 2 ^ 32)
  | .timeStep _ _ high low => decide (high < 2 ^ 32) && (match low with
      | some l => decide (l < 2 ^ 32)
      | none => true)
  | .recoveryData _ offset payload => decide (offset < 2 ^ 32) && decide (payload.length < 2 ^ 14)
  | .recoveryEnd _ total => decide (total < 2 ^ 32)
  | .i2cDone _ _ data => decide (data.length ≤ 8)
  | .imuTransactionDone _ data => decide (data.length < 2 ^ 6)
  | .limiterWindow _ tj => decide (tj < 2 ^ 8)
  | _ => true

end Sys2Proof
end

