-- ==== Sys2Proof/Tests/Slice0.lean ====
section
/-! SUPPORT. Tests: ill-formed terms that WellFormed refuses, concrete states that meet the premises of the statements, and
single steps whose results are worked out by hand from the manual. -/

namespace Sys2Proof.Tests

set_option Elab.async false

open Sys2Proof.Machine

/-- The reset state with register fields set: field, value, indices. -/
def at0 (l : List (Fld × Nat × Nat × Nat)) : State := l.foldl (fun s e => s.wr e.1 e.2.1 e.2.2.1 e.2.2.2) State.reset


/-- A command of VEF 0 with an opcode and operands of zero, of class 1, serial 1. -/
def cmd (op : Nat) : Cmd := ⟨0, 0, 1, 0, 0, leBytes 128 op, 0, 1, []⟩

/-- VEF 0 ACTIVE with a command at the head of a resource's queue. -/
def queued (s : State) (r : Res) (c : Cmd) : State := { s.wr VEF_CTL.STATE vActive with queue := [(r, c)] }

/-- VEF 0 ACTIVE with a command in flight on a resource. -/
def flying (s : State) (r : Res) (c : Cmd) (started : Bool) : State :=
  { s.wr VEF_CTL.STATE vActive with flight := [{ c.job r 0 with started := started }] }

/-- A state with one pseudo-channel in service, a device key and one region over it all, and bytes of HBM. -/
def withBytes (s : State) (l : List Host.Cell) : State :=
  { (((s.wr MEM_PC_IN_SVC.IN_SVC 1).wr MEM_RGN.VALID 1).wr MEM_RGN.LIMIT_RU 12288).wr MEM_RGN.KEY 0x80 with mem := { s.mem with keys := [(0x80, 1)], hbm := l } }

/-- An image of one cluster and no stitch entry at address 0: segments STITCH, ROUTE, CHK and PLAN. -/
def image0 : List Host.Cell :=
  [(0, 0x48), (1, 0x43), (2, 0x54), (3, 0x53), (5, 1), (7, 1), (0x0A, 1), (0x0B, 4), (0x14, 1), (0x20, 0x80), (0x21, 2)] ++
  [(0x32, 0xFF), (0x33, 0xFF), (0x34, 0xFF), (0x35, 0xFF), (0x37, 1), (0x38, 2), (0x39, 0xFF), (0x3A, 0xFF), (0x3B, 0xFF)] ++
  [(0x100, 1), (0x108, 0x80), (0x109, 1), (0x120, 2), (0x128, 0x80), (0x129, 1), (0x140, 3), (0x148, 0x80), (0x149, 1)] ++
  [(0x160, 5), (0x168, 0x80), (0x169, 1), (0x171, 1)]

/-! ### Terms that WellFormed refuses, one for each of its checks -/

theorem test_wf_accesses : (Instr.pocketWindowWrite .mgmt 0xE000000000 [1, 2, 3]).wellFormed = false ∧
    (Instr.pocketWindowWrite .mgmt (2 ^ 48) [1]).wellFormed = false ∧ (Instr.registerWrite .mgmt 0xF000000000 3 0).wellFormed = false ∧
    (Instr.registerWrite .mgmt (2 ^ 48) 4 0).wellFormed = false ∧ (Instr.ringConfigWrite .mgmt 0xF100000000 4 (2 ^ 32)).wellFormed = false ∧
    (Instr.registerWrite .mgmt 0xF000000040 4 3).wellFormed = true := by decide +kernel

theorem test_wf_cells : (Instr.stitchScrub 0 [0x1000]).wellFormed = false ∧ (Instr.controlPacket 0 (.start (2 ^ 64))).wellFormed = false ∧
    (Instr.patrolScrub (64 * 768 * 2 ^ 20 / 8) 0).wellFormed = false := by decide +kernel

theorem test_wf_sensors : (Instr.cameraPacket 0 0 (.line 64 []) .clean).wellFormed = false ∧
    (Instr.cameraPacket 0 0 (.line 0x2B [2 ^ 20]) .clean).wellFormed = false ∧ (Instr.lidarPacket []).wellFormed = false ∧
    (Instr.imuTransactionDone 0 (List.replicate 64 0)).wellFormed = false := by decide +kernel

theorem test_wf_display : (Instr.frameStart 0 [(16, 0)]).wellFormed = false ∧
    (Instr.render [⟨false, 0, some (4, 0, 4, 1), false⟩]).wellFormed = false ∧
    (Instr.render [⟨false, 0, some (0, 1, 4, 1), false⟩]).wellFormed = false := by decide +kernel

theorem test_wf_buses : (Instr.sleepPermissionFrame 0 (2 ^ 11) false []).wellFormed = false ∧
    (Instr.canFrameReceive 0 ⟨0, false, false, false, List.replicate 9 0⟩).wellFormed = false ∧
    (Instr.canFrameReceive 0 ⟨2 ^ 29, true, false, false, []⟩).wellFormed = false ∧
    (Instr.canFrameReceive 0 ⟨0x7FF, false, true, false, List.replicate 64 0⟩).wellFormed = true ∧
    (Instr.ethFrameReceive 0 (List.replicate 13 0) none).wellFormed = false ∧ (Instr.i2cDone 0 0 (List.replicate 9 0)).wellFormed = false := by
  decide +kernel

theorem test_wf_bist : (Instr.bistSliceDone [⟨0, false, 2 ^ 16, 0, 0, 0⟩]).wellFormed = false ∧ (Instr.bistSliceDone [⟨0, false, 0, 2 ^ 16, 0, 0⟩]).wellFormed = false ∧
    (Instr.bistSliceDone [⟨0, false, 0, 0, 2 ^ 16, 0⟩]).wellFormed = false ∧
    (Instr.coldBoot 0 [⟨0, 0, 0, false, 2 ^ 16, 0⟩] []).wellFormed = false ∧ (Instr.coldBoot 0 [⟨0, 0, 0, false, 0, 2 ^ 16⟩] []).wellFormed = false := by decide +kernel

theorem test_wf_pass : (Instr.passFlit 0 []).wellFormed = false ∧ (Instr.passHello 0 ⟨2 ^ 64, 0, 0, false, false, 0, 0⟩).wellFormed = false ∧
    (Instr.passLsa 0 ⟨0, 2 ^ 16, false, false, []⟩).wellFormed = false ∧ (Instr.passLsa 0 ⟨0, 0, false, false, [⟨4, 0, 0⟩]⟩).wellFormed = false ∧
    (Instr.lsaAgeOut (2 ^ 64)).wellFormed = false ∧ (Instr.passRoutes 0 [⟨256, true, false, 0, false, 1⟩]).wellFormed = false ∧
    (Instr.passWrite 0 ⟨false, 4, false, 0, 0, 0, 0, 0, 0, 0, 0, [], false⟩).wellFormed = false ∧
    (Instr.sboSet .mgmt 0 (2 ^ 32)).wellFormed = false := by decide +kernel

theorem test_wf_fabric : (Instr.bridgeBurst .mgmt 0 (2 ^ 64) none 0).wellFormed = false ∧ (Instr.bridgeBurst .mgmt 0 0 none (2 ^ 16)).wellFormed = false ∧
    (Instr.fabricLr .mgmt (2 ^ 64)).wellFormed = false ∧ (Instr.fabricSc .mgmt 0 [1]).wellFormed = false ∧
    (Instr.fabricAmo .mgmt 0 .add false (2 ^ 32)).wellFormed = false ∧ (Instr.fabricAmo .mgmt 0 .add true (2 ^ 32)).wellFormed = true := by
  decide +kernel

theorem test_wf_time : (Instr.tbIncWrite .mgmt 0 (2 ^ 40)).wellFormed = false ∧ (Instr.tbOfsLowWrite .mgmt 0 (2 ^ 32)).wellFormed = false ∧
    (Instr.timeStep .mgmt 0 (2 ^ 32) none).wellFormed = false ∧ (Instr.timeStep .mgmt 0 0 (some (2 ^ 32))).wellFormed = false := by
  decide +kernel

theorem test_wf_firmware : (Instr.recoveryData 0 (2 ^ 32) []).wellFormed = false ∧ (Instr.recoveryEnd 0 (2 ^ 32)).wellFormed = false ∧
    (Instr.limiterWindow 0 256).wellFormed = false := by decide +kernel

/-- No row of the table has bits, so no word spells a command and a state with a word placed is the state itself. -/
theorem test_no_words (s : State) (n w : Nat) : decodeTableWord n w = none ∧ s.withFetchWord n w = s := ⟨rfl, rfl⟩

/-- The worked examples of chapter 18: PASS2_RX3_N is ball E3, TEST_EN ball BL5, FAULT_N ball BK6. -/
theorem test_balls : (match ballNet 5 3 with | .signal g k => (signalNames g).getD k "" == "PASS2_RX3_N" | _ => false) = true ∧
    (match ballNet 49 5 with | .signal g k => (signalNames g).getD k "" == "TEST_EN" | _ => false) = true ∧
    (match ballNet 48 6 with | .signal g k => (signalNames g).getD k "" == "FAULT_N" | _ => false) = true ∧
    rowName 5 = ['E'] ∧ rowName 49 = ['B', 'L'] ∧ rowName 48 = ['B', 'K'] := by decide +kernel

/-! ### IdleStepIsTick -/

theorem witness_idle : State.reset.pending = [] := rfl

/-! ### LocksStand -/

/-- A state with a LOCK bit set meets LocksStand's premise for a register write that locks reach. -/
theorem witness_locks : mayReset (.registerWrite .mgmt (RegName.pwrLim.addr 0) 4 7) = false ∧
    (at0 [(PWR_CTL.LOCK, 1, 0, 0)]).flag PWR_CTL.LOCK = true := by decide +kernel

/-! ### ModeRequestsRefused -/

/-- DRIVE without a sleep permission, firmware asking. -/
theorem witness_refused : let s := at0 [(SYS_MODE.CURRENT, 1, 0, 0)]
    (s.who .mgmt).fwHyp = true ∧ s.outsidePark = true ∧ s.cur = mDrive ∧ s.maySleep = false := by decide +kernel
theorem witness_refused_vef : (State.reset.who (.host 0 true)).fwHyp = false := by decide +kernel

/-! ### ParkRequestsAccepted -/

/-- DRIVE with a sleep permission received at time zero. -/
theorem witness_park : let s := { at0 [(SYS_MODE.CURRENT, 1, 0, 0)] with saf := { SafSt.cold with sleepAt := some 0 }, mode := { ModeSt.cold with trans := none } }
    (s.who .mgmt).fwHyp = true ∧ s.cur = mDrive ∧ s.mode.trans = none ∧ s.maySleep = true := by decide +kernel

/-! ### ParkTimersAndWakes -/

/-- A parked device whose timers have run out. -/
theorem witness_parkTimers :
    (let s := { at0 [(SYS_MODE.CURRENT, 2, 0, 0)] with mode := { ModeSt.cold with trans := none, warmTimer := some 0 } }
     s.cur = mWarm ∧ s.mode.trans = none ∧ 0 ≤ s.localNs) ∧
    (let s := { at0 [(SYS_MODE.CURRENT, 3, 0, 0)] with mode := { ModeSt.cold with trans := none, coldTimer := some 0 } }
     s.cur = mCold ∧ s.mode.trans = none ∧ 0 ≤ s.localNs) := by decide +kernel
theorem witness_bootWake : State.reset.mode.trans = some (.boot false) ∧ (at0 [(SYS_MODE.WAKE_SRC, 1, 0, 0)]).rd SYS_MODE.WAKE_SRC ≠ 0 := by decide +kernel

/-! ### BootAndBackstop -/

theorem witness_boot : State.reset.mode.trans = some (.boot false) ∧ State.reset.fw.running = false ∧
    ({ State.reset with fw := { FwSt.cold [] with running := true } } : State).fw.running = true := by decide +kernel
/-- A move out of DEPOT that is 600 ms old, with a tenant still ACTIVE. -/
theorem witness_backstop :
    let s := { at0 [(VEF_CTL.TENANT, 1, 3, 0), (VEF_CTL.STATE, 1, 3, 0)] with
      mode := { ModeSt.cold with trans := some .depotDrive, since := 0 }, time := ⟨[(3, 600000000 * 2 ^ 39)], [], []⟩ }
    s.flag VEF_CTL.TENANT 3 = true ∧ s.rd VEF_CTL.STATE 3 = vActive ∧ s.leavingFor 500000000 = true ∧ s.leavingFor 450000000 = true ∧
      s.fwOut 2 = false ∧ State.reset.leavingFor 500000000 = false := by decide +kernel

/-! ### ResetCommands -/

/-- A warm reset by firmware outside PARK, and a RUNNING general field. -/
theorem witness_resets : State.reset.outsidePark = true ∧ (State.reset.who .mgmt).fwHyp = true ∧ State.reset.who .cantle = .cantle ∧
    State.reset.mode.trans = some (.boot false) ∧ State.reset.fw.romRan = false ∧
    (let s := at0 [(PLAIN_FLD_STATE.STATE, stRunning, 3, 0)]
     s.isSafety 3 = false ∧ (s.frt 3).resetAsked = false ∧ (s.frt 3).faultDrain = false ∧ s.fState 3 = stRunning ∧
       Requester.resetsFields (s.who .mgmt) = true) ∧ State.reset.fState 16 = stFree := by decide +kernel

/-! ### RailsAndDomains -/

/-- Rails, domain 9 (HBM) and PLL 0 in a device outside PARK_COLD. -/
theorem witness_rails : 3 ∉ State.reset.power.rails ∧ State.reset.domNeeded 9 = true ∧ State.reset.flag PWR_DOM.FAIL 9 = false ∧
    State.reset.rd PWR_DOM.STATE 9 ≠ domOn ∧ State.reset.pllNeeded 0 = true ∧ 0 ∉ State.reset.power.locked ∧
    (let s := { at0 [(PWR_DOM.STATE, 2, 0, 0)] with power := { PowerSt.cold with rails := List.range 11 } }
     3 ∈ s.power.rails ∧ s.railsGood 9 = true ∧ s.domNeeded 0 = false ∧ s.rd PWR_DOM.STATE 0 ≠ 0) := by decide +kernel

/-! ### UnitMachine -/

/-- An Ethernet port that starts, one that stops, one that is too late; and one that is held back. -/
theorem witness_units :
    (let s := { at0 [(GW_PORT.STATE, 1, 2, 0), (PWR_DOM.STATE, 2, unitDomain (.eth 2), 0)] with time := ⟨[(3, 20000000 * 2 ^ 39)], [], []⟩ }
     s.unitState (.eth 2) = uStarting ∧ s.rd PWR_DOM.STATE (unitDomain (.eth 2)) = domOn ∧ unitBy (.eth 2) (s.who .mgmt) = true ∧
       s.rd BIST_UNIT.STATE (unitBist (.eth 2)) = 0 ∧ Sparse.look 0 s.power.unitSince (unitBist (.eth 2)) + unitBound (.eth 2) ≤ s.localNs) ∧
    (at0 [(GW_PORT.STATE, 3, 2, 0)]).unitState (.eth 2) = uStopping ∧ State.reset.unitHeld (.eth 2) = false ∧
    (at0 [(PWR_DOM.HELD, 1, 19, 0)]).unitHeld (.pass 1) = true := by decide +kernel

/-! ### PowerLimiter -/

/-- A window that has ended, and classes at their floors and tops. -/
theorem witness_limiter :
    (let s := { State.reset with time := ⟨[(3, 2000000 * 2 ^ 39)], [], []⟩ }
     s.outsidePark = true ∧ s.power.window / 1000000 < s.localNs / 1000000) ∧
    (let s := at0 (throttles.map (fun x => (x.1, x.2.1, 0, 0)))
     ∀ x ∈ throttles, s.rd x.1 ≤ x.2.1) ∧
    (let s := at0 (throttles.map (fun x => (x.1, x.2.2, 0, 0)))
     ∀ x ∈ throttles, x.2.2 ≤ s.rd x.1) ∧ 0 < State.reset.rd PWR_STAT.BATCH ∧ (at0 [(PWR_STAT.RT, 9, 0, 0)]).rd PWR_STAT.RT < 15 := by
  decide +kernel

/-! ### RateWrites -/

theorem witness_rates : State.reset.who .mgmt = .firmware ∧ State.reset.flag TB_STAT.PARK_CLK = false := by decide

/-! ### TimeBaseCommands -/

theorem witness_timeBase : State.reset.who .mgmt = .firmware := by decide
/-- The service outside PARK with firmware running, port 1 in domain 0. -/
theorem witness_gptp :
    let s := { at0 [(GW_PORT.STATE, 2, 1, 0)] with fw := { FwSt.cold [] with running := true, record := List.replicate 0x130 0 ++ [2, 0] } }
    s.fwDown 7 = false ∧ s.outsidePark = true ∧ s.rd GW_PORT.STATE 1 = 2 ∧ (s.gptpPorts 0).testBit 1 = true ∧
      Sparse.look none s.gw.slave 0 ≠ some 1 ∧ Sparse.look none s.gw.delayed 1 = none ∧ Sparse.look none s.gw.synced 0 = none := by
  decide +kernel

/-! ### MicrowordsComplete -/

/-- Cell 2304, of the Shadow field, running, with a microword in its stitch store. -/
def atWord (m : Nat) : State :=
  let s := at0 [(PLAIN_FLD_STATE.STATE, stRunning, 16, 0)]
  let s := { s with mem := { s.mem with stitch := Sparse.putBytes 0 s.mem.stitch (2304 * 0x4000) (leBytes 16 m) } }
  s.setCell 2304 { CellSt.rest with running := true }
/-- A microword of a class and operation with other bits. -/
def word (cls op rest : Nat) : Micro := cls * 2 ^ 124 + op * 2 ^ 120 + rest
/-- The fetch, as an option. -/
theorem fetched_of {s : State} {m : Micro} (h : (s.microAt 2304 (s.cell 2304).pc).toOption = some m) :
    s.microAt 2304 (s.cell 2304).pc = .ok m := by
  revert h
  cases s.microAt 2304 (s.cell 2304).pc <;> intro h
  · cases h
  · exact congrArg Except.ok (Option.some.inj h)
/-- The state after the fetch of the cell's microword. -/
def after (s : State) : State := s.fetchFix 16 2304 (s.cell 2304).pc
/-- The premises of a microword at its cell, one by one. -/
theorem steps_of {s : State} {m : Micro} {cls op total : Nat} {os : List Opd}
    (h : s.liveField 2304 = some 16 ∧ (s.cell 2304).running = true ∧ (s.microAt 2304 (s.cell 2304).pc).toOption = some m ∧
      m.cls = cls ∧ m.op = op ∧ m.formatError = false ∧ (s.cell 2304).eventOk m = true ∧
      (s.cell 2304).ready m (total - (s.cell 2304).rep) = 1 ∧ (after s).gensBad 2304 m os = none) :
    Steps s (after s) 2304 16 m cls op total os :=
  ⟨⟨h.1, h.2.1, fetched_of h.2.2.1, rfl, h.2.2.2.1, h.2.2.2.2.1, h.2.2.2.2.2.1, h.2.2.2.2.2.2.1⟩, h.2.2.2.2.2.2.2.1, h.2.2.2.2.2.2.2.2⟩
theorem witness_steps : Steps (atWord (word 0 3 0)) (after (atWord (word 0 3 0))) 2304 16 (word 0 3 0) 0 3 1 [] := steps_of (by decide +kernel)
theorem witness_executes : Executes (atWord (word 0 3 0)) (after (atWord (word 0 3 0))) 2304 16 (word 0 3 0) 0 3 := witness_steps.toExecutes
/-- NOP that names an incoming port with no flit: it stalls. -/
theorem witness_stalls : ((atWord (word 0 0 (2 ^ 119))).cell 2304).ready (word 0 0 (2 ^ 119)) 1 = 0 := by decide +kernel
theorem witness_reservedWord : Micro.reserved (word 15 0 0) = true ∧ Micro.formatError (word 1 0 0) = true := by decide +kernel
theorem witness_noField : State.reset.liveField 0 = none ∧ (State.reset.cell 0).running = false := by decide +kernel

/-! ### ControlAndSignalWords -/

theorem witness_control : Steps (atWord (word 0 0 0)) (after (atWord (word 0 0 0))) 2304 16 (word 0 0 0) 0 0 (word 0 0 0).loop [] ∧
    Steps (atWord (word 0 1 0)) (after (atWord (word 0 1 0))) 2304 16 (word 0 1 0) 0 1 1 [] ∧ Steps (atWord (word 0 2 0)) (after (atWord (word 0 2 0))) 2304 16 (word 0 2 0) 0 2 1 [] ∧
    Steps (atWord (word 5 0 0)) (after (atWord (word 5 0 0))) 2304 16 (word 5 0 0) 5 0 1 [] ∧ Steps (atWord (word 0 4 0)) (after (atWord (word 0 4 0))) 2304 16 (word 0 4 0) 0 4 1 [] :=
  ⟨steps_of (by decide +kernel), steps_of (by decide +kernel), steps_of (by decide +kernel), steps_of (by decide +kernel),
    steps_of (by decide +kernel)⟩
theorem witness_token : (atWord 0).storeBad 2304 0x3400 4 = none ∧ (atWord 0).cellAt 16 0 0 = some 2304 ∧ (atWord 0).cellAt 16 63 0 = none ∧ (atWord 0).pathOpen 16 2304 96 2304 = true := by
  decide +kernel
theorem witness_waittok : (let s := atWord (word 5 1 0)
    let s := s.setCell 2304 { s.cell 2304 with tokens := 1 }
    Steps s (after s) 2304 16 (word 5 1 0) 5 1 1 [] ∧ (s.cell 2304).tokens.testBit 0 = true) := ⟨steps_of (by decide +kernel), by decide +kernel⟩
theorem witness_end : let s := flying (atWord (word 0 4 0)) (.field 16) (cmd 0x20) true
    let s := s.setCell 2304 { s.cell 2304 with job := 1 }
    (∃ j ∈ s.flight, j.cmd.serial = (s.cell 2304).job) ∧ ∀ j ∈ s.flight, j.cmd.serial = (s.cell 2304).job → 2304 ∉ j.endedCells := by decide +kernel
theorem witness_packets : (let s := (at0 [(PLAIN_FLD_STATE.STATE, stRunning, 16, 0)]).setCell 2304 { CellSt.rest with sent := [(2304, 3)], todo := [7] }
    s.fieldOfCell 2304 = some 16 ∧ (s.cellsOf 16).find? (fun k => (s.cell k).sent.contains (2304, 3)) = some 2304 ∧
      (s.cell 2304).running = false) ∧
    ((State.reset.setF 16 { FldRt.rest with faultDrain := true }).frt 16).faultDrain = true ∧
    (at0 [(PLAIN_FLD_STATE.STATE, stDraining, 16, 0)]).fState 16 = stDraining ∧
    (at0 [(PLAIN_FLD_STATE.STATE, stRunning, 16, 0)]).fState 16 = stRunning := by decide +kernel

/-! ### MatrixWords -/

/-- MMA in FP16 with operands at offset 0 of the pocket: every format selector 1. -/
theorem witness_matrix : (let m := word 1 0 0x111; Steps (atWord m) (after (atWord m)) 2304 16 m 1 0 m.loop [m.opA, m.opB]) ∧
    (let m := word 1 1 0x111; Steps (atWord m) (after (atWord m)) 2304 16 m 1 1 m.loop [m.opA, m.opB]) ∧
    (let m := word 1 2 0x111; Steps (atWord m) (after (atWord m)) 2304 16 m 1 2 m.loop [m.opB]) ∧
    (let m := word 1 3 0; Steps (atWord m) (after (atWord m)) 2304 16 m 1 3 1 []) :=
  ⟨steps_of (by decide +kernel), steps_of (by decide +kernel), steps_of (by decide +kernel), steps_of (by decide +kernel)⟩
/-- An answer that is no error, from a computation. -/
theorem ok_of {α : Type} {e : Except Bad α} (h : e.toOption.isSome = true) : ∃ x, e = .ok x := by
  cases e with
  | error x => cases h
  | ok x => exact ⟨x, rfl⟩
theorem witness_readStep : (∃ x, (atWord (word 1 0 0x111)).readStep 2304 (word 1 0 0x111) 0 = .ok x) ∧ halfFmt 1 = true ∧
    (atWord (word 1 3 0)).storeBad 2304 0x3C00 2 = none := ⟨ok_of (by decide +kernel), by decide +kernel, by decide +kernel⟩
theorem witness_drain : (∃ t, (atWord (word 1 2 0x111)).writePocket 2304 0 (List.replicate 512 0) = .ok t) ∧
    ((atWord (word 1 2 (0x111 + 2 ^ 115 + 2 ^ 104))).cell 2304).ready (word 1 2 (0x111 + 2 ^ 115 + 2 ^ 104)) 1 = 1 :=
  ⟨ok_of (by decide +kernel), by decide +kernel⟩

/-! ### VectorArithmetic -/

/-- Every arithmetic microword of the vector unit, with every format selector 1, is executed by its cell. -/
theorem witness_vector : ∀ op ∈ [3, 4, 5, 6, 7, 8, 9, 10, 11, 13], Steps (atWord (word 2 op 0x111)) (after (atWord (word 2 op 0x111))) 2304 16 (word 2 op 0x111) 2 op (word 2 op 0x111).loop [] := by
  intro op h
  simp only [List.mem_cons, List.not_mem_nil, or_false] at h
  rcases h with rfl | rfl | rfl | rfl | rfl | rfl | rfl | rfl | rfl | rfl <;> exact steps_of (by decide +kernel)
/-- A reduction by maximum of numbers has a result, one with a NaN has none. -/
theorem witness_reduce : (reduceOf 1 fFp32 [.fin false 1 0]).isSome = true ∧ reduceOf 1 fFp32 [.nan] = none := by decide +kernel

/-! ### VectorAndStreamMoves -/

theorem witness_moves : (∀ op ∈ [0, 1, 12], let m := word 2 op 0x733; Steps (atWord m) (after (atWord m)) 2304 16 m 2 op m.loop [m.opB]) ∧
    (let m := word 2 2 0x733; Steps (atWord m) (after (atWord m)) 2304 16 m 2 2 m.loop []) := by
  refine ⟨fun op h => ?_, steps_of (by decide +kernel)⟩
  simp only [List.mem_cons, List.not_mem_nil, or_false] at h
  rcases h with rfl | rfl | rfl <;> exact steps_of (by decide +kernel)
/-- An MX target, one that is none, a block of zeros and a block with a NaN; a pocket without errors reads and writes. -/
theorem witness_quant : (word 2 12 0x333).fmtOut = 3 ∧ mxFmt 3 = true ∧ mxFmt 1 = false ∧
    (quantBlock 3 (List.replicate 32 (.fin false 0 0))).isSome = true ∧ quantBlock 3 [.nan] = none := by decide +kernel
theorem witness_pocket : (∃ x, (atWord 0).readPocket 2304 0 128 = .ok x) ∧ (∃ t, (atWord 0).writePocket 2304 0 [1, 2, 3] = .ok t) ∧
    (atWord 0).partBad 2304 0 32 = none ∧ (atWord 0).storeBad 2304 0x3E00 128 = none :=
  ⟨ok_of (by decide +kernel), ok_of (by decide +kernel), by decide +kernel, by decide +kernel⟩
theorem witness_streams : (let m := word 3 0 (2 ^ 115 + 2 ^ 104); Steps (atWord m) (after (atWord m)) 2304 16 m 3 0 m.loop [m.opA]) ∧
    (let m := word 3 1 (2 ^ 119 + 2 ^ 108)
     let s := (atWord m).setCell 2304 { CellSt.rest with running := true, port := [(0, [⟨7, false⟩])] }
     Steps s (after s) 2304 16 m 3 1 m.loop [m.opB]) := ⟨steps_of (by decide +kernel), steps_of (by decide +kernel)⟩

/-! ### MoversAndRouters -/

theorem witness_mover : (let m := word 4 0 0
    let s := atWord m
    Steps s (after s) 2304 16 m 4 0 1 [] ∧ ((s.cell 2304).xfer 0).active = false ∧ (s.frt 16).faultDrain = false ∧ s.storeBad 2304 0x3540 64 = none ∧
      s.liveField 2304 = some 16 ∧ s.valleySide 16 (s.prog 2304 0).src = false ∧ s.valleySide 16 (s.prog 2304 0).dst = false) :=
  ⟨steps_of (by decide +kernel), by decide +kernel⟩
theorem witness_transfer : let s := (atWord 0).setCell 2304 { CellSt.rest with running := true, xfers := [(0, ⟨true, 0, 0, 2, 0, none, none, []⟩)] }
    s.liveField 2304 = some 16 ∧ ((s.cell 2304).xfer 0).active = true ∧ ((s.cell 2304).xfer 0).miss = [] ∧
      ((s.cell 2304).xfer 0).moved < (((s.cell 2304).xfer 0).total + 1) / 2 := by decide +kernel
theorem witness_miss : let s := (atWord 0).setCell 2304 { CellSt.rest with xfers := [(0, ⟨true, 0, 0, 0, 0, some 0, none, [(1, 2)]⟩)] }
    ((s.cell 2304).xfer 0).miss = [(1, 2)] ∧ s.fieldOfCell 2304 = some 16 := by decide +kernel
/-- Entry 0 with a flit: a route entry that delivers (kind 2), that forwards east (kind 1, endpoint 8), and one that forwards north, where the mesh ends. -/
theorem witness_flits : let s (r : Nat) : State :=
      let t := (atWord 0).setCell 2304 { CellSt.rest with running := true, inBuf := [(0, [⟨7, false⟩])] }
      { t with mem := { t.mem with stitch := Sparse.putBytes 0 [] (2304 * 0x4000 + 0x3000) (leBytes 4 r) } }
    (s 2).liveField 2304 = some 16 ∧ ((s 2).cell 2304).held 0 = [⟨7, false⟩] ∧ (s 2).storeBad 2304 0x3000 16 = none ∧
      ((s 2).route 2304 0).kind = 2 ∧ ((s 33).route 2304 0) = ⟨1, 8, 0, false, 0⟩ ∧ ((s 1).route 2304 0) = ⟨1, 0, 0, false, 0⟩ ∧
      neighbour 2304 1 = some 2305 ∧ neighbour 2304 0 = none ∧ ((s 0).route 2304 0).kind = 0 := by decide +kernel
theorem witness_credit : let s := State.reset.setCell 2304 { CellSt.rest with used := [(8, 1)] }
    neighbour 2304 1 = some 2305 ∧ ((s.cell 2305).held (3 * 8)).length < Sparse.look 0 (s.cell 2304).used 8 := by decide +kernel

/-! ### HbmBytes -/

/-- One pseudo-channel in service and a device key: address 0 holds bytes, an address beyond the capacity does not. -/
theorem witness_hbm : let s := at0 [(MEM_PC_IN_SVC.IN_SVC, 1, 0, 0)]
    let s := { s with mem := { s.mem with keys := [(0x80, 1)] } }
    s.inHbm 0 = true ∧ s.keyAt 0 ≠ 0 ∧ s.place 64 / 64 ≠ s.place 0 / 64 ∧ s.inHbm (768 * 2 ^ 20) = false := by decide +kernel
theorem witness_stores : inRegSpace 0 = false ∧ inPages 0 = false ∧ sramPlace 0 = none ∧ State.reset.who .mgmt = .firmware ∧
    (at0 [(VEF_HART.VALID, 1, 0, 0)]).who (.host 0 true) = .vef 0 ∧ (at0 [(VEF_HART.VALID, 1, 0, 0)]).regionOk 0 0 = false ∧
    (withBytes (at0 [(VEF_HART.VALID, 1, 0, 0)]) []).regionOk 0 0x1000 = true ∧
    (withBytes (at0 [(VEF_HART.VALID, 1, 0, 0)]) []).regionOk 0 (0x1000 + 4 - 1) = true := by decide +kernel

/-! ### DmaChannels -/

theorem witness_assign : (∀ op ∈ [0x10, 0x11, 0x12], (queued State.reset (.dma 0) (cmd op)).dmaHead 0 [0, 1, 2, 3] = some (cmd op) ∧
      (cmd op).opcode = op) ∧ (queued State.reset (.dma 0) (cmd 0x10)).idleChannel 0 = some 0 := by decide +kernel
theorem witness_dma : ((flying State.reset (.dma 0) (cmd 0x10) false).nextJob 0).isSome = true ∧
    (∀ i ∈ (flying State.reset (.dma 0) (cmd 0x10) false).jobsOn (.dma 0), i.started = true → i.outcome ≠ .running) ∧
    ((flying State.reset (.dma 0) (cmd 0x10) true).flight.find? (fun j => j.chan == 0 && j.started && decide (j.outcome = .running) &&
      j.res == .dma 0)).isSome = true := by decide +kernel
theorem witness_disable : (State.reset.who .mgmt).fwHyp = true ∧ State.reset.flag DMA_CH_CTL.DISABLE 5 = false := by decide +kernel

/-! ### KeysPoolsAndScrubs -/

theorem witness_pools : (let s := at0 [(VLY_POOL.PAGE_64K, 1, 0, 0), (VLY_POOL.BASE, 2 ^ 30, 0, 0)]
    State.reset.poolRefused 0 = true ∧ State.reset.flag VLY_POOL.VALID 0 = false ∧ s.poolRefused 0 = false) ∧
    (let s := at0 [(VLY_POOL.VALID, 1, 0, 0), (VLY_POOL.ADOPT, 1, 1, 0), (VLY_POOL.VALID, 1, 1, 0)]
     s.flag VLY_POOL.VALID 0 = true ∧ s.flag VLY_POOL.BOUND 0 = false ∧ s.flag VLY_POOL.READY 0 = false ∧ s.flag VLY_POOL.ADOPT 0 = false ∧
       s.flag VLY_POOL.ADOPT 1 = true ∧ s.poolAdopt 1 = none) := by decide +kernel
theorem witness_sram : sramPlace 0xE000000005 = some (true, 0, 5) ∧ sramPlace 0xE100000005 = some (false, 0, 5) ∧ sramPlace 0 = none ∧ Sparse.look 0 State.reset.mem.pocketErr 0 = 0 ∧ State.reset.sramOpen 0 = true ∧
    (0 * 8 / pcBytes) ∈ (at0 [(MEM_PC_IN_SVC.IN_SVC, 1, 0, 0)]).pcs ∧ Sparse.look 0 State.reset.mem.hbmErr 0 = 0 := by decide +kernel
theorem witness_keys : State.reset.who .mgmt = .firmware ∧ State.reset.mem.keyCmd = none ∧ State.reset.slotInUse 3 = false ∧
    State.reset.who .cantle ≠ .firmware ∧ State.reset.who .mgmt ≠ .hypervisor ∧ (8 * 8 / pcBytes) ∉ State.reset.pcs := by decide +kernel

/-! ### FieldLoading -/

/-- A FIELD_LOAD of the Cantle's ring set for a new placement of the image at address 0. -/
def load0 : Cmd := ⟨cantleSet, 0, 1, 0, 0, leBytes 128 (0x20 + 0xFFFFFFFF * 2 ^ (8 * 0x30)), 0, 1, []⟩
def loading0 : State := { withBytes State.reset image0 with queue := [(.loader, load0)] }
theorem witness_load : loading0.fwOut 3 = false ∧ loading0.loadHead = some load0 ∧ (loading0.loadWant load0).toOption = some .fresh ∧
    loading0.imgCause load0.imgAt (load0.cls == 0) (load0.op 0x20 8) (load0.op 0x28 8) = 0 := by decide +kernel
theorem witness_load_new : (let t := loading0.ctxTouch load0.imgAt.ctx load0.imgAt.addr 256
    t.persistW load0.imgAt = false ∧ t.attachTo load0.vef (load0.cls == 0) (t.imgHdr load0.imgAt).digest = none ∧
      t.loadTwin load0.vef (load0.cls == 0) (t.imgHdr load0.imgAt).digest load0.serial = false ∧
      t.poolBad load0 (t.imgHdr load0.imgAt).pageSize = false ∧
      t.placement (t.imgHdr load0.imgAt).fits .fresh = some ⟨1, 0, 0, 0⟩) := by decide +kernel
/-- The load of that command, and a device that holds it. -/
def ld0 : Load := loading0.mkLoad load0 load0.imgAt ⟨1, 0, 0, 0⟩
def holding (st : Nat) (l : Load) (x : FldRt) : State :=
  { (loading0.wr PLAIN_FLD_STATE.STATE st 1).setF 1 x with loads := [l] }
theorem witness_attach : (let s := holding stIdle { ld0 with field := 2, phase := .digestWait } { FldRt.rest with image := some ld0.image, attached := [cantleSet] }
    let t := s.ctxTouch load0.imgAt.ctx load0.imgAt.addr 256
    s.loadHead = some load0 ∧ t.attachTo load0.vef (load0.cls == 0) (t.imgHdr load0.imgAt).digest = some 1 ∧
      s.loads.find? (fun l => l.phase == .digestWait && !s.loadTwin l.image.vef (l.cls == 0) l.image.digest l.serial) = s.loads.head?) := by decide +kernel
theorem witness_load_bad : (let c : Cmd := ⟨cantleSet, 0, 1, 0, 0, leBytes 128 0x20, 0, 1, []⟩
    let s : State := { State.reset with queue := [(.loader, c)] }
    s.loadHead = some c ∧ (match s.loadWant c with | .error 0x12 => true | _ => false) = true) ∧
    (let s : State := { State.reset with queue := [(.loader, load0)] }
     s.loadHead = some load0 ∧ (s.loadWant load0).toOption = some .fresh ∧ s.imgCause load0.imgAt (load0.cls == 0) (load0.op 0x20 8) (load0.op 0x28 8) ≠ 0) := by
  decide +kernel

/-! ### LoadPhases -/

theorem witness_stitch : (let s := { (loading0.wr PWR_DOM.STATE domOn 0).wr BIST_UNIT.STATE 0 0 with loads := [{ ld0 with phase := .waitStitch, rect := (0, 0, 1, 1) }] }
    let u := { s with loads := [{ ld0 with phase := .stitch }] }
    s.fwOut 3 = false ∧ s.loads.find? (fun l => l.phase == .stitch) = none ∧ s.nextStitch.isSome = true ∧
      (u.loads.find? (fun l => l.phase == .stitch)).isSome = true ∧ (u.endStitch { ld0 with phase := .stitch }).nextStitch = none) := by decide +kernel
theorem witness_loaded : (let l := { ld0 with phase := .preload, cause := 0x0C }
    (holding stLoading l FldRt.rest).loadedOf 1 false = some l ∧ l.kill = 0 ∧ (holding stLoading l FldRt.rest).lateCause l ≠ 0) ∧
    (let l := { ld0 with phase := .preload, reinit := true }
     (holding stLoading l FldRt.rest).loadedOf 1 true = some l ∧ (holding stLoading l FldRt.rest).lateCause l = 0) := by decide +kernel
theorem witness_loaded_well : (let l := { ld0 with phase := .preload, image := { ld0.image with digest := loading0.imgDigest (loading0.imgOf ld0.image) } }
    (holding stLoading l FldRt.rest).loadedOf 1 false = some l ∧ (holding stLoading l FldRt.rest).lateCause l = 0) := by decide +kernel
theorem witness_reinit_fault : let s := (State.reset.setF 16 { FldRt.rest with image := some ld0.image }).wr PLAIN_FLD_STATE.STATE stStopped 16
    let s := { s.wr SAF_ESC.REINIT_MAX 3 with saf := { s.saf with unresolved := [16] } }
    s.fwOut 3 = false ∧ s.mayReinit 16 = true ∧ s.isSafety 16 = true ∧ s.who .cantle = .cantle ∧ s.saf.unresolved.contains 16 = true ∧
      s.recentReinits 16 < s.rd SAF_ESC.REINIT_MAX ∧ (s.wr SAF_ESC.REINIT_MAX 0).rd SAF_ESC.REINIT_MAX ≤ (s.wr SAF_ESC.REINIT_MAX 0).recentReinits 16 := by
  decide +kernel
theorem witness_reinit : (let s := holding stStopped ld0 { FldRt.rest with image := some ld0.image }
    s.mayReinit 1 = true ∧ s.fState (1 : Fin 17) = stStopped ∧ s.isSafety 1 = false ∧ s.who .mgmt = .firmware) ∧
    (let s := (State.reset.setF 16 { FldRt.rest with image := some ld0.image }).wr PLAIN_FLD_STATE.STATE stStopped 16
     s.fState (16 : Fin 17) = stStopped ∧ s.isSafety 16 = true ∧ s.who .cantle = .cantle ∧ s.saf.unresolved.contains 16 = false) := by decide +kernel

/-! ### ClearingAndKills -/

theorem witness_clearing : (let s := at0 [(PLAIN_FLD_STATE.STATE, stClearing, 3, 0)]
    s.fState (3 : Fin 17) = stClearing ∧ s.loads = [] ∧ 0 ∈ s.clustersOf 3 ∧ s.rd BIST_UNIT.STATE 0 ≠ 1) ∧
    (let s := at0 [(PLAIN_FLD_STATE.STATE, stDraining, 3, 0)]
     s.fState (3 : Fin 17) = stDraining ∧ (s.jobsOn (.field 3)).any (fun j => j.golden) = false ∧ (s.frt 3).resetAsked = false) ∧
    killIndex .render = some 0 ∧ killIndex .projector = some 1 := by decide +kernel
theorem witness_watchdog : (let s := (at0 [(PLAIN_FLD_STATE.STATE, stRunning, 3, 0)]).setF 3 { FldRt.rest with faultDrain := true, wdogPeriod := 50 }
    s.fState (3 : Fin 17) = stRunning ∧ s.localNs < (s.frt 3).lastProgress + (s.frt 3).wdogPeriod * 1000 ∧ s.jobsOn (.field 3) = []) ∧
    (let s := (at0 [(PLAIN_FLD_STATE.STATE, stRunning, 3, 0)]).setF 3 { FldRt.rest with wdogPeriod := 0 }
     (s.frt 3).lastProgress + (s.frt 3).wdogPeriod * 1000 ≤ s.localNs) := by decide +kernel
theorem witness_cluster_mover : (let m : ClMove := ⟨0, 0x02, 0, false, 0, 0, 0, 0, 0, true⟩
    let s := State.reset.setF 3 { FldRt.rest with moves := [m] }
    (s.frt 3).heldRecs = [] ∧ s.tensorBad m = none) ∧
    (let s := State.reset.setF 3 { FldRt.rest with heldRecs := [⟨0, 0, 0, 0, 0⟩] }
     s.cmqFull 3 = false ∧ ((s.wr MOV_CMQ.TAIL (2 ^ s.rd MOV_CMQ.ENTRIES_LOG2 3) 3).cmqFull 3 = true)) := by decide +kernel
theorem witness_field_drain : (let s := ({ State.reset with flight := [{ (cmd 0x40).job (.field 3) 0 with outcome := .ended 0x30 0 0 }] } : State).setF 3 { FldRt.rest with faultDrain := true }
    (match s.jobsOn (.field 3) with | [j] => decide (j.outcome = .ended 0x30 0 0) && !((s.endJob j 0x30 0 0).frt 3).resetAsked | _ => false) = true) := by decide +kernel

/-! ### RingsAndDoorbells -/

theorem witness_doorbell : (let s := at0 [(SQ_CFG.ENABLE, 1, 0, 0), (SQ_CFG.SIZE_LOG2, 6, 0, 0)]
    pageOk (s.pageWho .pciePF (0 : Fin 129)) (0 : Fin 129) = true ∧ s.flag SQ_CFG.ENABLE 0 0 = true ∧ 63 < 2 ^ s.rd SQ_CFG.SIZE_LOG2 0 0 ∧
      2 ^ s.rd SQ_CFG.SIZE_LOG2 0 0 ≤ 64 ∧ s.queue = []) ∧ (State.reset.who .mgmt).fwHyp = true ∧
    pageOk (State.reset.pageWho .mgmt (3 : Fin 129)) (3 : Fin 129) = true ∧ State.reset.flag SQ_CFG.ENABLE 3 0 = false ∧
    State.reset.flag CQ_CFG.ENABLE 3 = false ∧ State.reset.flag EQ_CFG.ENABLE 3 = false ∧ State.reset.flag RING_VEF_AQ_CTL.ENABLE 3 = false := by decide +kernel
/-- The last tail of a ring is stored, the first beyond it is not. -/
theorem test_doorbell_edges : (let s := at0 [(SQ_CFG.ENABLE, 1, 0, 0), (SQ_CFG.SIZE_LOG2, 6, 0, 0)]
    (match exec (.doorbell .pciePF 0 0 63) s with | .next t => t.rd DB_SQ_TAIL.TAIL 0 0 == 63 && !t.flag DB_STAT.BAD_DB 0 | _ => false) &&
    (match exec (.doorbell .pciePF 0 0 64) s with | .next t => t.rd DB_SQ_TAIL.TAIL 0 0 == 0 && t.flag DB_STAT.BAD_DB 0 | _ => false)) = true := by decide +kernel
theorem witness_ring_registers : (findReg 0xF100003100).map (fun h => (h.reg, h.i)) = some (.sqCfg, 3) ∧ pageOk (State.reset.pageWho .cantle 3) 3 = false ∧
    (findReg 0xF000901000).map (fun h => (h.reg.onPage, h.reg.inRing)) = some (false, true) ∧ (State.reset.who (.host 0 true)).fwHyp = false := by decide +kernel

/-! ### FetchNopAndFence -/

/-- VEF 1's ring 0 enabled with one descriptor, its completion ring too. -/
def ringed (id : Nat) : State := (withBytes (at0 [(SQ_CFG.ENABLE, 1, 1, 0), (DB_SQ_TAIL.TAIL, 1, 1, 0), (CQ_CFG.ENABLE, 1, 1, 0), (CQ_CFG.SIZE_LOG2, 6, 1, 0),
  (SQ_CFG.SIZE_LOG2, 6, 1, 0), (VEF_CTL.STATE, vActive, 1, 0)]) []) |> fun s => { s with hostMem := Sparse.putBytes 0 [] 0 [1, 0, BitVec.ofNat 8 id] } |>.wr SQ_CFG.LOC 1 1 0
theorem witness_fetch : (let s := ringed 1
    s.fetchOpen (1 : Fin 129) = true ∧ s.cqRoom (1 : Fin 129) = true ∧ s.nextRing (1 : Fin 129) = some 0) ∧
    State.reset.fetchOpen (1 : Fin 129) = false := by decide +kernel
/-- A NOP of VEF 1 is fetched and, on a ring of class FIELD with no field named, completes at once; one that names VEF 2 is discarded. -/
theorem test_fetch : ((match exec (.descriptorFetch 1) (ringed 1) with | .next t => t.rd SQ_CFG.HEAD 1 0 == 1 && t.rd RING_VEF_DISC.DISCARD 1 == 0 | _ => false) &&
    (match exec (.descriptorFetch 1) (ringed 2) with | .next t => t.rd SQ_CFG.HEAD 1 0 == 1 && t.rd RING_VEF_DISC.DISCARD 1 == 1 | _ => false)) = true := by decide +kernel
theorem witness_fence : (let s := queued State.reset (.field 0) (cmd 2)
    s.headIs (.field 0) 1 2 = some (cmd 2) ∧ s.fenceWaits (cmd 2) = false ∧ s.waits (cmd 2) = false) ∧
    (let s := queued State.reset (.field 0) (cmd 1)
     s.headIs (.field 0) 1 1 = some (cmd 1)) ∧
    (let c : Cmd := ⟨0, 0, 1, 0, 0, leBytes 128 (2 + 2 ^ (8 * 0x18)), 0, 2, []⟩
     let s := { (queued State.reset (.field 0) c) with queue := [(.field 0, c), (.render, cmd 0x50)] }
     let u := s.setRing 0 0 { s.ringRt 0 0 with fence := some 2 }
     s.headIs (.field 0) 1 2 = some c ∧ s.fenceWaits c = true ∧ (u.ringRt (0 : Fin 129) (0 : Fin 8)).fence = some 2 ∧
       u.queue.find? (fun q => q.2.serial == 2) = some (.field 0, c)) := by decide +kernel

/-! ### AdmissionAndPreemption -/

/-- A field that takes commands, and an INFER of VEF 0 for it. -/
def inferring (st : Nat) : State := (queued (at0 [(PLAIN_FLD_STATE.STATE, st, 3, 0)]) (.field 3) (cmd 0x30))
theorem witness_admit : (let s := inferring stIdle
    s.fwOut 2 = false ∧ (s.resolveHeads 3).fieldOpen 3 = true ∧ (s.resolveHeads 3).pick (.field 3) [0, 1, 2, 3] = some (cmd 0x30, .takeUp) ∧ (cmd 0x30).opcode = 0x30) ∧
    (let s := (inferring stIdle).wr PLAIN_FLD_STATE.GENERATION 1 3
     (s.resolveHeads 3).fieldOpen 3 = true ∧ (s.resolveHeads 3).pick (.field 3) [0, 1, 2, 3] = some (cmd 0x30, .finish 0x21 0)) ∧
    (let s := queued State.reset (.dma 1) (cmd 0x10)
     s.dmaHead 1 [0, 1, 2, 3] = some (cmd 0x10) ∧ s.idleChannel (1 : Fin 4) = some 8) := by decide +kernel
theorem witness_preempt : (let s := { inferring stRunning with flight := [({ cmd 0x30 with cls := 3, serial := 0 } : Cmd).job (.field 3) 0] }
    s.preempts (.field 3) = true ∧ s.fState (3 : Fin 17) = stRunning ∧ (s.frt 3).faultDrain = false ∧ s.wdogDue 3 = false ∧
       (s.jobsOn (.field 3)).any (fun j => tableOp j.cmd.opcode) = false) ∧
    (let s := queued State.reset .render (cmd 0x50)
     s.fwOut 2 = false ∧ s.pick .render [0, 1, 2, 3] = some (cmd 0x50, .takeUp)) ∧
    (let s := { queued State.reset .render (cmd 0x50) with flight := [({ cmd 0x50 with cls := 3, serial := 0 } : Cmd).job .render 0] }
     s.preempts .render = true ∧ Sparse.look none s.engKill 0 = none) := by decide +kernel
theorem witness_release : (let s := queued State.reset (.field 3) (cmd 0x21)
    (List.range 4).findSome? (fun cls => s.headIs (.field 3) cls 0x21) = some (cmd 0x21) ∧ s.waits (cmd 0x21) = false ∧
      s.vefRuns 0 = true ∧ (cmd 0x21).op 0x30 4 / 65536 = s.rd PLAIN_FLD_STATE.GENERATION 3 ∧
      (cmd 0x21).op 0x30 4 / 65536 ≠ (s.wr PLAIN_FLD_STATE.GENERATION 1 3).rd PLAIN_FLD_STATE.GENERATION 3) ∧
    (let s := (at0 [(PLAIN_FLD_STATE.STATE, stIdle, 3, 0)]).setF 3 { FldRt.rest with releases := [{ cmd 0x21 with vef := 5 }] }
     (s.frt 3).releases.any (fun c => c.vef == 5) = true ∧ (s.jobsOn (.field 3)).any (fun j => j.cmd.vef == 5 && !j.golden) = false ∧ s.sliceIn 3 = false ∧
       s.fState (3 : Fin 17) ≠ stLoading ∧ s.fState (3 : Fin 17) ≠ stDraining ∧ (s.frt 3).faultDrain = false) ∧
    (let s := flying State.reset (.field 3) (cmd 0x30) false
     s.unstarted (.field 3) 0x30 = some ((cmd 0x30).job (.field 3) 0)) ∧
    (flying State.reset (.field 3) (cmd 0x31) false).unstarted (.field 3) 0x31 = some ((cmd 0x31).job (.field 3) 0) ∧
    (flying State.reset (.field 3) (cmd 0x22) false).unstarted (.field 3) 0x22 = some ((cmd 0x22).job (.field 3) 0) := by decide +kernel

/-! ### CommitOrder -/

theorem witness_commit : (let c := cmd 0x30
    let j : Job := { c.job (.field 3) 0 with outcome := .ended 0x40 4 0 }
    let s := { at0 [(PLAIN_FLD_STATE.STATE, stRunning, 3, 0)] with flight := [j] }
    s.jobsOn (.field 3) = [j] ∧ s.commitReady j = true ∧ s.fState (3 : Fin 17) = stRunning ∧ (s.frt 3).faultDrain = false ∧ j.copying = false ∧
      s.commitReady { j with outcome := .running } = false) ∧
    (let j : Job := { (cmd 0x30).job (.field 3) 0 with started := true }
     let s := ({ at0 [(PLAIN_FLD_STATE.STATE, stRunning, 3, 0)] with flight := [j] } : State).setF 3 { FldRt.rest with image := some (load0.imgAt |> fun a => { (loading0.mkLoad load0 a ⟨1, 0, 0, 0⟩).image with cells := [] }) }
     s.commitReady j = true ∧ j.outcome = .running ∧ j.tainted = false ∧ s.commitReady { j with tainted := true } = true ∧ j.cmd.opcode ≠ 0x31) ∧
    (cmd 0x31).ckpt = false ∧ ({ cmd 0x31 with desc := leBytes 128 (0x31 + 2 ^ (8 * 0x28 + 58)) } : Cmd).ckpt = true ∧
    (let j : Job := { (cmd 0x50).job .render 0 with outcome := .ended 0 0 0 }
     let s : State := { State.reset with flight := [j, { j with res := .projector, outcome := .ended 0x40 0 0 }] }
     (s.jobsOn .render).find? (fun j => s.commitReady j) = some j ∧ s.saf.gate = false ∧
       ((s.jobsOn .projector).find? (fun j => s.commitReady j)).isSome = true) := by decide +kernel

/-! ### SequenceTables -/

/-- VEF 0's command in flight on field 3, whose pool is pool 0. -/
def pooled (c : Cmd) : State := ((flying State.reset (.field 3) c false).wr VLY_POOL.BOUND 1 0).wr VLY_POOL.BOUND_FIELD 3 0
theorem witness_tables : (let s := (pooled (cmd 0x40)).wr VLY_POOL.VALID 1
    s.fwOut 2 = false ∧ s.poolOf 3 = some 0 ∧ s.unstarted (.field 3) 0x40 = some ((cmd 0x40).job (.field 3) 0) ∧ (cmd 0x40).op 0x20 4 = 0 ∧
      (pooled (cmd 0x42)).ownSeq 0 (cmd 0x42) 0 = none ∧ (pooled (cmd 0x43)).unstarted (.field 3) 0x43 = some ((cmd 0x43).job (.field 3) 0) ∧
      (pooled (cmd 0x44)).unstarted (.field 3) 0x44 = some ((cmd 0x44).job (.field 3) 0) ∧ (pooled (cmd 0x41)).unstarted (.field 3) 0x41 = some ((cmd 0x41).job (.field 3) 0) ∧
      (pooled (cmd 0x42)).unstarted (.field 3) 0x42 = some ((cmd 0x42).job (.field 3) 0)) := by decide +kernel

/-! ### Accounting -/

theorem witness_accounting : (let s := ({ at0 [(RING_VEF_AQ_CTL.ENABLE, 1, 3, 0), (RING_VEF_AQ_CTL.SIZE_LOG2, 6, 3, 0)] with
      time := { State.reset.time with acc := [(0, 150000000 * nsUnit)] } } : State).setV 3 { VefRt.rest with acctOpen := true, acct := Acct.opened 0 }
    s.flag RING_VEF_AQ_CTL.ENABLE 3 = true ∧ (s.vrt 3).acctOpen = true ∧ ((s.vrt 3).acct.start / 100000000 + 1) * 100000000 ≤ s.vehicleNs ∧
      s.aqRoom 3 = true ∧ (s.vrt 3).acctPending = [] ∧ (s.vrt 3).acctDue = [] ∧ s.vehicleNs / windowNs = (s.vrt 3).acct.start / windowNs + 1) ∧
    (let s := at0 [(RING_VEF_AQ_CTL.SIZE_LOG2, 6, 3, 0), (RING_VEF_AQ_CTL.TAIL, 63, 3, 0)]
     s.aqRoom 3 = false) ∧
    State.reset.fwOut 6 = false ∧ State.reset.power.calAt = 0 := by decide +kernel

/-! ### SensorIngress -/

/-- RUN and a source enabled. -/
def sensing (i : Nat) (x : SrcRt) : State := (at0 [(FUS_CTL.RUN, 1, 0, 0), (ING_SRC.ENABLE, 1, i, 0), (ING_SRC.SLOTS, 6, i, 0), (ING_SRC.KIND_A, 1, i, 0)]).setSrc i x
theorem witness_camera : (let s := sensing 2 SrcRt.rest
    s.srcOn (2 : Fin 16) = true ∧ s.rd ING_SRC.VC (2 : Fin 16) = 0 ∧ s.freeSlot (2 : Fin 16) = some 0 ∧ (s.srt 2).open_ = none ∧ (1 : Nat) ≠ s.rd ING_SRC.VC (2 : Fin 16) ∧
      (s.wr ING_SRC.SLOTS 0 2).freeSlot (2 : Fin 16) = none ∧ s.syncInstant 2 = some 0 ∧ (s.srt 2).high = none ∧ (s.srt 2).pulsed ≠ some 0) ∧
    (let s := sensing 2 { SrcRt.rest with open_ := some ⟨0, none, 0, none, 0, 0, 0, false, 0⟩ }
     (s.srt 2).open_.isSome = true ∧ s.camHeight 2 = 0 ∧ 0 ≠ (s.wr ING_SRC.KIND_C (1 * 65536) 2).camHeight 2) ∧ State.reset.srcOn (2 : Fin 16) = false := by decide +kernel
theorem witness_imu : (let s := sensing 30 { SrcRt.rest with edges := [5], written := 1 }
    s.srcOn (30 + (0 : Fin 2).val) = true ∧ (s.srt 30).edges = [5] ∧ (s.srt (30 : Fin 32)).complete < (s.srt (30 : Fin 32)).written) ∧
    (ethView []).bind State.reset.steer = none := by decide +kernel

/-! ### InstantsAndSources -/

theorem witness_instants : (let s := at0 [(FUS_CTL.RUN, 1, 0, 0)]
    s.tK s.fus.nextK ≤ s.sensorNs ∧ s.fus.lastR.getD 0 ≤ s.sensorNs ∧ s.allIn s.fus.nextK = true ∧ s.sensorNs < s.limitR s.fus.nextK) ∧
    (let s := ({ at0 [(FUS_CTL.RUN, 1, 0, 0)] with time := { State.reset.time with acc := [(1, 10 ^ 9 * nsUnit)] } } : State)
     s.limitR s.fus.nextK ≤ s.sensorNs) ∧ (at0 [(FUS_CTL.RUN, 1, 0, 0), (FUS_EPOCH.EPOCH, 5, 0, 0)]).sensorNs < (at0 [(FUS_CTL.RUN, 1, 0, 0), (FUS_EPOCH.EPOCH, 5, 0, 0)]).tK 0 ∧
    (let s := (at0 [(FUS_SRC_STAT.STATE, srcTimeLost, 16, 0)]).setSrc 16 { SrcRt.rest with est := some (0, 0, 0) }
     (s.srt 16).est = some (0, 0, 0) ∧ s.rd FUS_SRC_STAT.STATE 16 = srcTimeLost ∧ (s.srt 16).resync = none) ∧
    State.reset.srcConfigOk 3 = false ∧ (at0 [(ING_REGION.LENGTH_2M, 100, 0, 0), (ING_SRC.SLOTS, 6, 16, 0), (ING_SRC.SLOT_4K, 1, 16, 0), (ING_SRC.OFFSET, 64 * 4096, 16, 0)]).srcConfigOk 16 = true := by decide +kernel

/-! ### ProjectorAndRender -/

theorem witness_project : (let s := flying State.reset .projector (cmd 0x60) false
    Sparse.look none s.engKill 1 = none ∧ s.unstarted .projector 0x60 = some ((cmd 0x60).job .projector 0)) ∧
    (let s := flying State.reset .render (cmd 0x50) false
     Sparse.look none s.engKill 0 = none ∧ s.unstarted .render 0x50 = some ((cmd 0x50).job .render 0) ∧
       (s.bufList (cmd 0x50) (cmd 0x50).bufOp.1 (cmd 0x50).bufOp.2).toOption = some [] ∧ (∀ c < 8, s.coreOn c = false) ∧
       (let u := ((s.wr RND_CFG.CORES_EN 8).wr RND_CFG.IN_SVC 255).wr PWR_DOM.STATE domOn 15
        u.coreOn 0 = true ∧ (u.frame9 (cmd 0x50) [] (u.rndRead (cmd 0x50) [] 0 256 .read)).bad (u.rndRead (cmd 0x50) [] 0 256 .read) = true)) := by decide +kernel

/-! ### DisplayHeads -/

theorem witness_present : (let s := queued State.reset .render (cmd 0x51)
    s.headIs .render 1 0x51 = some (cmd 0x51) ∧ s.waits (cmd 0x51) = false ∧ s.vefRuns 0 = true ∧ s.ctxBad (cmd 0x51).ctx 0 64 = [] ∧
      s.presentBad 0 (imgOfBytes (s.ctxRead (cmd 0x51).ctx 0 64)) = true) ∧ State.reset.headOn (0 : Fin 6) = false ∧
    (let s := at0 [(DSP_HEAD.STATE, 2, 0, 0), (DSP_HEAD.EPOCH, 5, 0, 0)]
     s.headOn (0 : Fin 6) = true ∧ (s.head 0).resume = none ∧ (s.head 0).latched = none ∧ s.frameNext 0 s.vehicleNs = 0 ∧
       s.frameAt 0 0 ≤ s.vehicleNs + 2000000 ∧ ¬ (s.vehicleNs + 2000000 < s.frameAt 0 0) ∧ (s.wr DSP_HEAD.EPOCH 3000000).vehicleNs + 2000000 < (s.wr DSP_HEAD.EPOCH 3000000).frameAt 0 0) ∧
    (let s := at0 [(DSP_HEAD.STATE, 2, 0, 0)]
     0 < s.frameNext (0 : Fin 6) s.vehicleNs ∧ (s.head 0).started = none) := by decide +kernel

/-! ### FaultsAndReactions -/

theorem witness_faults : (let s := State.reset.report 0x33 none
    let r : SafReport := ⟨0x33, none, 0⟩
    s.saf.reports.find? (fun r => r.source == (0x33 : Fin 256).val && decide (r.field = (none : Option (Fin 17)).map (·.val))) = some r) ∧
    faultClass 0x32 = 4 ∧ faultClass 0x12 = 1 ∧ faultClass 1 = 3 ∧ physicalSource 7 = true ∧ physicalSource 0x32 = false ∧
    State.reset.saf.reports = [] ∧ State.reset.awake = true ∧ State.reset.flag SAF_CTL.SAFE_STATE = false ∧ State.reset.flag SAF_CTL.FAULT_N_LOW = true ∧
    State.reset.flag SAF_CTL.SPLIT = false ∧ State.reset.who .cantle = .cantle ∧ (State.reset.who .mgmt).isCantle = false := by decide +kernel
theorem witness_kick : (let s := { at0 [(SAF_WDOG.WD_EN, 1, 0, 0)] with saf := { State.reset.saf with kick := some 0, kickFree := false } }
    s.flag SAF_WDOG.WD_EN = true ∧ s.vehicleNs < 0 + 500000 ∧ s.who .cantle = .cantle ∧ s.watchSuspended = false ∧ s.saf.released = none) ∧
    (let s := { at0 [(SAF_WDOG.WD_EN, 1, 0, 0)] with time := { State.reset.time with acc := [(0, 1000000 * nsUnit), (3, 50000000 * nsUnit)] } }
     0 + 1000000 ≤ s.vehicleNs ∧ 0 + 50000000 ≤ s.localNs) := by decide +kernel
/-- OPERATIONAL releases FAULT_N. -/
theorem test_status_operational : (match exec (.statusWrite .cantle 2) State.reset with
    | .next t => !t.flag SAF_CTL.FAULT_N_LOW && t.rd SAF_CTL.STATUS == 2 | _ => false) = true := by decide +kernel

/-! ### StatusFramesAndSleep -/

theorem witness_frames : (let s := at0 [(SAF_CTL.SAFE_STATE, 1, 0, 0)]
    s.flag SAF_CTL.SAFE_STATE = true ∧ s.saf.nextFrame ≤ s.vehicleNs) ∧ State.reset.awake = true ∧ State.reset.flag SAF_CTL.SAFE_STATE = false ∧
    (let s := { State.reset with saf := { State.reset.saf with held := false } }
     s.saf.held = false ∧ s.saf.nextFrame ≤ s.vehicleNs) := by decide +kernel
theorem witness_deadlines : (let s := ({ at0 [(FUS_CTL.RUN, 1, 0, 0), (PLAIN_FLD_STATE.STATE, stIdle, 0, 0)] with time := { State.reset.time with acc := [(1, 10 ^ 9 * nsUnit)] } } : State).setF 0 { FldRt.rest with image := some (loading0.mkLoad load0 load0.imgAt ⟨1, 0, 0, 0⟩).image }
    s.tK s.saf.primaryNext + s.deadlineNs ≤ s.sensorNs ∧ s.saf.primaryK = none ∧ (s.frt (s.rd FUS_CFG.PRIMARY)).image.isSome = true ∧
      s.fState (s.rd FUS_CFG.PRIMARY) = stIdle ∧ s.rd FUS_CFG.PRIMARY < 17 ∧ s.tK s.saf.shadowNext ≤ s.sensorNs) ∧
    (let s := at0 [(FUS_CTL.RUN, 1, 0, 0), (FUS_EPOCH.EPOCH, 5, 0, 0)]
     s.sensorNs < s.tK s.saf.primaryNext + s.deadlineNs ∧ s.sensorNs < s.tK s.saf.shadowNext) := by decide +kernel
/-- The identifier of a record of zeros is 0; the CRC of the model's frame is its own profile's (log). -/
theorem witness_sleep : (let d : Bytes := [0, 1, 0x5A, 0, 0, 0, 0, 0]
    let f := BitVec.ofNat 8 (e2eP22 (Bytes.sub State.reset.fw.record 0xF4 16) d) :: d.drop 1
    (0 : Nat) = Bytes.num State.reset.fw.record 0xDC 4 % 2 ^ 29 ∧ false = (Bytes.num State.reset.fw.record 0xDC 4).testBit 29 ∧ f.length = 8 ∧
      (f.getD 0 0).toNat = e2eP22 (Bytes.sub State.reset.fw.record 0xF4 16) f ∧ State.reset.saf.sleepCtr ≠ some ((f.getD 1 0).toNat % 16) ∧
      (BitVec.ofNat 8 ((f.getD 0 0).toNat + 1)).toNat ≠ e2eP22 (Bytes.sub State.reset.fw.record 0xF4 16) (BitVec.ofNat 8 ((f.getD 0 0).toNat + 1) :: d.drop 1)) := by decide +kernel

/-! ### GoldenFrames -/

/-- The Cantle's ring 0 holds one FRAME for field 3, a SAFETY-class field in DRIVE that waits for a golden. -/
def goldenReady : State :=
  let s := withBytes (at0 [(SQ_CFG.ENABLE, 1, 128, 0), (DB_SQ_TAIL.TAIL, 1, 128, 0), (CQ_CFG.ENABLE, 1, 128, 0), (CQ_CFG.SIZE_LOG2, 6, 128, 0),
    (SQ_CFG.SIZE_LOG2, 6, 128, 0), (SQ_CFG.LOC, 1, 128, 0), (SYS_MODE.CURRENT, mDrive, 0, 0), (FUS_CTL.RUN, 1, 0, 0), (PLAIN_FLD_STATE.STATE, stIdle, 3, 0),
    (PLAIN_FLD_CFG.CLASS, 1, 3, 0)]) []
  ({ s with hostMem := Sparse.putBytes 0 [] 0 (leBytes 64 (0x31 + 3 * 2 ^ (8 * 0x30))),
            saf := { s.saf with held := false, gate := false, needGolden := [3] } } : State).setF 3
    { FldRt.rest with image := some { (loading0.mkLoad load0 load0.imgAt ⟨1, 0, 0, 0⟩).image with goldens := [⟨0, 0, 0, 0, 0, 1, 0⟩] } }
def goldenRunning (st : Option Nat) (failed : Bool) : State :=
  { goldenReady with saf := { goldenReady.saf with goldens := [⟨3, 0, 0, 0, st, 0, failed⟩] } }
theorem witness_golden_slot : (let s := goldenReady
    s.slotOpen 3 = true ∧ s.flag SQ_CFG.ENABLE cantleSet (0 : Fin 2) = true ∧ s.ringHolds cantleSet (0 : Fin 2) ≠ 0 ∧ s.cqRoom cantleSet = true ∧
      (s.ringRt cantleSet (0 : Fin 2)).fence = none ∧ s.curInstant = some 0 ∧
      ((s.fetch cantleSet (0 : Fin 2)).queue.find? (goldenCmd 3 s.fetched)).isSome = true) ∧
    State.reset.slotOpen 3 = false ∧ State.reset.cur ≠ mDrive := by decide +kernel
theorem witness_golden_kill : (let s := ((goldenReady.wr SAF_GOLD.ENABLE 1 3).wr SAF_GOLD.SKIPS 2 3).wr PLAIN_FLD_STATE.STATE stRunning 3
    s.goldensRun = true ∧ s.flag SAF_GOLD.ENABLE (3 : Fin 17) = true ∧ s.saf.forced.contains 3 = false ∧ 2 ≤ s.rd SAF_GOLD.SKIPS (3 : Fin 17) ∧
      s.curInstant = some (s.dueInstant (3 : Fin 17)) ∧ s.goldenRun (3 : Fin 17) = none ∧ s.fState (3 : Fin 17) = stRunning ∧ (s.frt (3 : Fin 17)).faultDrain = false ∧
      s.sensorNs + s.goldenNs (3 : Fin 17) < s.tK (s.dueInstant (3 : Fin 17) + 1) ∧
      (let t := { s with time := { s.time with acc := [(1, 40000000 * nsUnit)] } }
       let u := s.wr SAF_GOLD.BUDGET_US 40000 3
       t.curInstant = some 1 ∧ u.tK (u.dueInstant (3 : Fin 17) + 1) ≤ u.sensorNs + u.goldenNs (3 : Fin 17))) := by decide +kernel
theorem witness_golden_skip : (let s := { goldenReady.wr SAF_GOLD.ENABLE 1 3 with time := { State.reset.time with acc := [(1, 110000000 * nsUnit)] } }
    s.goldensRun = true ∧ s.flag SAF_GOLD.ENABLE (3 : Fin 17) = true ∧ s.saf.forced.contains 3 = false ∧ s.curInstant = some 3 ∧ s.dueInstant (3 : Fin 17) + 2 < 3) := by
  decide +kernel
theorem witness_golden_judged : (let s := goldenRunning none false
    s.goldenRun (3 : Fin 17) = some ⟨3, 0, 0, 0, none, 0, false⟩ ∧ s.sensorNs < s.tK 1 ∧
      (let t := { s with time := { s.time with acc := [(1, 40000000 * nsUnit)] } }
       t.tK 1 ≤ t.sensorNs)) ∧
    (let s := goldenRunning (some 0) false
     s.goldenRun (3 : Fin 17) = some ⟨3, 0, 0, 0, some 0, 0, false⟩ ∧ s.goldenPass ⟨3, 0, 0, 0, some 0, 0, false⟩ = true ∧
       s.goldenPass ⟨3, 1, 0, 0, some 0, 0, false⟩ = false) ∧ goldenReady.goldenRun (4 : Fin 17) = none := by decide +kernel

/-! ### SelfTest -/

theorem witness_readmit : (let s := at0 [(BIST_UNIT.STATE, 1, 160, 0)]
    s.rd BIST_UNIT.STATE (160 : Fin 192) = 1 ∧ s.rd BIST_UNIT.OOS_COUNT (160 : Fin 192) < 3 ∧ (s.who .mgmt).fwHyp = true) ∧
    3 ≤ (at0 [(BIST_UNIT.OOS_COUNT, 3, 160, 0)]).rd BIST_UNIT.OOS_COUNT (160 : Fin 192) ∧ (State.reset.who (.host 0 true)).fwHyp = false := by decide +kernel
theorem witness_slice : (let s := at0 [(BIST_CFG.ENABLE, 1, 0, 0), (BIST_GATE.NEXT_REL, 10 ^ 9, 0, 0)]
    s.fwOut 5 = false ∧ s.flag BIST_CFG.ENABLE = true ∧ s.bist.slice = none ∧ s.sliceUnit (kindCode .cluster) (7 : Fin 192) = true ∧
      s.sliceMay (kindCode .cluster) (7 : Fin 192) = true ∧ s.sliceField (kindCode .cluster) (7 : Fin 192) = none ∧
      s.sliceUnit (kindCode .raster) (150 : Fin 192) = true ∧ s.sliceField (kindCode .raster) (150 : Fin 192) = none ∧
      (s.wr BIST_GATE.NEXT_REL 199999).rd BIST_GATE.NEXT_REL < s.vehicleNs + kindNs (kindCode .cluster) + 50000) ∧
    State.reset.flag BIST_CFG.ENABLE = false ∧
    (let s := { State.reset with bist := { State.reset.bist with slice := some ⟨5, 160, none, 3⟩ } }
     s.bist.slice = some ⟨5, 160, none, 3⟩ ∧ 156 ≤ (160 : Nat)) := by decide +kernel
theorem witness_safety_block : (let s := at0 [(BIST_CFG.ENABLE, 1, 0, 0), (BIST_CFG.SAFE_MS, 1, 0, 0), (PLAIN_FLD_STATE.STATE, stIdle, 16, 0)]
    s.flag BIST_CFG.ENABLE = true ∧ s.sliceUnit (kindCode .cluster) (144 : Fin 192) = true ∧ s.sliceField (kindCode .cluster) (144 : Fin 192) = some 16 ∧
      s.isSafety 16 = true ∧ s.fwOut 4 = false ∧ s.bist.lapsed.contains (blockKey (kindCode .cluster) (144 : Fin 192)) = false ∧
      (let t := { s with time := { s.time with acc := [(0, 850000 * nsUnit)] } }
       t.intervalStart 1 144 + t.testInterval 1 144 - kindNs 1 ≤ t.vehicleNs)) ∧
    (let s := at0 [(BIST_CFG.ENABLE, 1, 0, 0), (BIST_CFG.OTHER_MS, 0, 0, 0)]
     s.intervalStart 3 150 + s.testInterval 3 150 ≤ s.vehicleNs) ∧
    (let s := at0 [(BIST_CFG.OTHER_MS, 1, 0, 0)]
     s.vehicleNs < s.intervalStart 3 150 + s.testInterval 3 150) := by decide +kernel
theorem witness_interval_field : (let s := at0 [(BIST_CFG.ENABLE, 1, 0, 0), (PLAIN_FLD_STATE.STATE, stIdle, 1, 0), (PLAIN_FLD_CFG.WIDTH_M1, 0, 1, 0), (PLAIN_FLD_CFG.HEIGHT_M1, 0, 1, 0)]
    s.flag BIST_CFG.ENABLE = true ∧ s.sliceUnit (kindCode .cluster) (0 : Fin 192) = true ∧ s.sliceField (kindCode .cluster) (0 : Fin 192) = some 1 ∧
      s.isSafety 1 = false ∧ s.fState 1 = stIdle ∧ (s.jobsOn (.field 1)).isEmpty = true ∧ (s.frt 1).bistCk = false ∧
      s.needsCheckpoint 1 (kindCode .cluster) (0 : Fin 192) = false ∧
      (let u := s.setF 1 { s.frt 1 with image := some { (loading0.mkLoad load0 load0.imgAt ⟨1, 0, 0, 0⟩).image with states := [⟨0, 0, true, 0, 0, 32, 0, 0⟩] } }
       u.needsCheckpoint 1 (kindCode .cluster) (0 : Fin 192) = true) ∧
      (let v := s.setF 1 { s.frt 1 with bistCk := true }
       (v.frt 1).bistCk = true ∧ (v.frt 1).moves.any (fun m => m.kind == 2) = false) ∧
      (s.wr PLAIN_FLD_STATE.STATE stStopped 1).fState 1 = stStopped) := by decide +kernel
theorem witness_slice_defer : (let s := at0 [(BIST_CFG.ENABLE, 1, 0, 0)]
    s.sliceMay (kindCode .cluster) (7 : Fin 192) = false ∧ s.safeBlock (kindCode .raster) (150 : Fin 192) = none ∧
      s.safeBlock (kindCode .cluster) (144 : Fin 192) = some 16) := by decide +kernel
theorem witness_golden_idle : (let u := (((goldenReady.wr SAF_GOLD.ENABLE 1 3).wr SAF_GOLD.SKIPS 2 3).wr SAF_GOLD.BUDGET_US 40000 3)
    u.fState (3 : Fin 17) = stIdle ∧ u.goldensRun = true ∧ u.saf.forced.contains 3 = false ∧ 2 ≤ u.rd SAF_GOLD.SKIPS (3 : Fin 17) ∧
      u.goldenRun (3 : Fin 17) = none ∧ u.curInstant = some (u.dueInstant (3 : Fin 17)) ∧
      u.tK (u.dueInstant (3 : Fin 17) + 1) ≤ u.sensorNs + u.goldenNs (3 : Fin 17)) ∧
    (let s := goldenRunning none true
     s.goldenRun (3 : Fin 17) = some ⟨3, 0, 0, 0, none, 0, true⟩ ∧ s.flight.any (fun j => j.cmd.serial == 0) = false) := by decide +kernel

/-! ### VefLifecycle -/

theorem witness_vef : (State.reset.who .mgmt).fwHyp = true ∧ (State.reset.who (.host 0 true)).fwHyp = false ∧ State.reset.rd VEF_CTL.STATE (3 : Fin 128) = vDisabled ∧
    State.reset.flag VEF_CTL.ENABLE (3 : Fin 128) = false ∧ State.reset.mem.keyCmd = none ∧ State.reset.flag SYS_STRAP.PCIE_MODE = false ∧
    (let s := at0 [(VEF_CTL.STATE, vActive, 3, 0), (VEF_CTL.ENABLE, 1, 3, 0), (SYS_STRAP.PCIE_MODE, 1, 0, 0)]
     s.rd VEF_CTL.STATE (3 : Fin 128) = vActive ∧ s.rd VEF_CTL.STATE (3 : Fin 128) ≠ vDisabled ∧ s.flag VEF_CTL.ENABLE (3 : Fin 128) = true ∧ s.mayDisable (3 : Fin 128) = true ∧
       s.flag SYS_STRAP.PCIE_MODE = true ∧
       (let t := (s.wr VLY_POOL.VALID 1 0).wr VLY_POOL.OWNER 3 0
        t.flag VLY_POOL.VALID 0 = true ∧ t.rd VLY_POOL.OWNER 0 = (3 : Fin 128).val)) := by decide +kernel
theorem witness_vef_reset : (let s := at0 [(VEF_CTL.STATE, vResetting, 3, 0)]
    s.rd VEF_CTL.STATE (3 : Fin 128) = vResetting ∧ s.resetQuiet (3 : Fin 128) = true ∧ (s.vrt (3 : Fin 128)).disabling = false ∧
      ((s.setV 3 { VefRt.rest with disabling := true }).vrt (3 : Fin 128)).disabling = true) := by decide +kernel
/-- A region that selects a key slot keeps its VEF enabled; the other slots' VEFs are not held by it. -/
theorem test_vef_disable : (let s := at0 [(VEF_CTL.STATE, vActive, 3, 0), (VEF_CTL.ENABLE, 1, 3, 0), (MEM_RGN.VALID, 1, 0, 0), (MEM_RGN.KEY, 3, 0, 0), (MEM_RGN.LIMIT_RU, 1, 0, 0)]
    (match exec (.vefDisable .mgmt 3) s with | .next t => t.rd VEF_GLB.CFG_REFUSED == 1 && t.flag VEF_CTL.ENABLE 3 && t.rd VEF_CTL.STATE 3 == vActive | _ => false) &&
    (match exec (.vefDisable .mgmt 3) (s.wr MEM_RGN.KEY 4 0) with | .next t => t.rd VEF_GLB.CFG_REFUSED == 0 && !t.flag VEF_CTL.ENABLE 3 && t.rd VEF_CTL.STATE 3 == vResetting | _ => false)) = true := by
  decide +kernel

/-! ### FreezeAndThaw -/

/-- A command of VEF 0 at the head of DMA engine 2's queue, whose TARGET is VEF 3, in a state of its own. -/
def targeting (op st : Nat) : State :=
  queued (at0 [(VEF_CTL.STATE, st, 3, 0), (VEF_GLB.FREEZE_KILL_MS, 16, 0, 0)]) (.dma 2) ⟨0, 0, 1, 0, 0, leBytes 128 (op + 3 * 2 ^ (8 * 0x28)), 0, 1, []⟩
theorem witness_freeze : (let c : Cmd := ⟨0, 0, 1, 0, 0, leBytes 128 (0x70 + 3 * 2 ^ (8 * 0x28)), 0, 1, []⟩
    (targeting 0x70 vActive).fwOut 2 = false ∧ (targeting 0x70 vActive).firmwareHead 2 0x70 = some c ∧ c.op 0x28 1 ≠ c.vef ∧
      (targeting 0x70 vActive).rd VEF_CTL.STATE (c.op 0x28 1) = vActive ∧ (targeting 0x70 vFreezing).rd VEF_CTL.STATE (c.op 0x28 1) = vFreezing ∧
      (targeting 0x70 vDisabled).rd VEF_CTL.STATE (c.op 0x28 1) = vDisabled ∧ (targeting 0x70 vFrozen).firmwareHead 2 0x70 = some c ∧
      (targeting 0x70 vFrozen).rd VEF_CTL.STATE (c.op 0x28 1) = vFrozen ∧ State.reset.firmwareHead 2 0x70 = none ∧ State.reset.loads = []) := by decide +kernel
theorem witness_freezing : (let s := (at0 [(VEF_CTL.STATE, vFreezing, 3, 0)]).setV 3 { VefRt.rest with freeze := some ⟨none, 0, 5, false⟩ }
    let u := (at0 [(VEF_CTL.STATE, vFrozen, 3, 0)]).setV 3 { VefRt.rest with held := some ⟨[], [], [], 0, true⟩ }
    (s.vrt (3 : Fin 128)).freeze = some ⟨none, 0, 5, false⟩ ∧ s.localNs < 5 ∧ s.drained (3 : Fin 128) = true ∧ s.rd VEF_CTL.STATE (3 : Fin 128) = vFreezing ∧
      (u.vrt 3).held = some ⟨[], [], [], 0, true⟩ ∧ (({ s with flight := [({ cmd 0x30 with vef := 3 } : Cmd).job (.field 1) 0] } : State).drained (3 : Fin 128)) = false ∧
      ({ s with fw := { s.fw with halted := true } } : State).fwOut 2 = true) := by decide +kernel
theorem witness_thaw : (let c : Cmd := ⟨0, 0, 1, 0, 0, leBytes 128 (0x71 + 3 * 2 ^ (8 * 0x28)), 0, 1, []⟩
    (targeting 0x71 vFrozen).firmwareHead 2 0x71 = some c ∧ (targeting 0x71 vFrozen).thaws = [] ∧ c.op 0x28 1 < 128 ∧
      (targeting 0x71 vDisabled).firmwareHead 2 0x71 = some c ∧ (targeting 0x71 vDisabled).thawCause c = 1) := by decide +kernel
/-- A save area of 256 bytes: magic, version, the reset device's SYS_ID, bound elsewhere too, and its hash. -/
def saveArea : Bytes :=
  let a := leBytes 64 (0x56454653 + 2 ^ 32) |>.set 0x19 1 |>.set 0x0D 2
  let a := a.take 8 ++ State.reset.regBytes .sysId 0 0 4 ++ a.drop 12
  a ++ sha384 a ++ List.replicate 144 0
theorem witness_thaw_area : (let c : Cmd := ⟨cantleSet, 0, 1, 0, 0, leBytes 128 (0x71 + 3 * 2 ^ (8 * 0x28) + 256 * 2 ^ (8 * 0x20)), 0, 1, []⟩
    let u := queued (withBytes (at0 [(VEF_CTL.STATE, vActive, 3, 0)]) ((saveArea.zipIdx.map (fun x => (x.2, x.1))).filter (fun x => x.2 != 0))) (.dma 2) c
    u.fwOut 2 = false ∧ u.firmwareHead 2 0x71 = some c ∧ u.thaws.find? (fun t => t.engine == 2) = none ∧ u.thaws.any (fun t => t.vef == c.op 0x28 1) = false ∧
      u.rd VEF_CTL.STATE (c.op 0x28 1) ≠ vFrozen ∧ u.thawCause c = 0) := by decide +kernel
theorem witness_function_on : (let s := { at0 [(SYS_STRAP.PCIE_MODE, 1, 0, 0)] with gw := { State.reset.gw with vfEnable := true, numVfs := 4 } }
    s.flag SYS_STRAP.PCIE_MODE = true ∧ s.gw.vfEnable = true ∧ (3 : Fin 128).val ≤ s.gw.numVfs ∧ State.reset.gw.vfEnable = false) ∧
    (at0 [(VEF_CTL.STATE, vResetting, 3, 0), (VEF_CTL.ENABLE, 1, 3, 0)]).mayDisable 3 = false ∧
    ({ State.reset with mem := { State.reset.mem with keyCmd := some ⟨1, true, true⟩ } } : State).mem.keyCmd ≠ none := by decide +kernel

/-! ### DepotAndAttestation -/

theorem witness_identity : (let s := { State.reset with fw := { State.reset.fw with running := true } }
    s.fwDown 8 = false ∧ s.outsidePark = true ∧ s.authOk [] = false ∧ State.reset.fwDown 8 = true ∧ s.cur ≠ mDepot ∧
      s.fw.attested = none ∧ (leBytes 56 (0x41545251 + 2 ^ 32)).length = 56 ∧ Bytes.num (leBytes 56 (0x41545251 + 2 ^ 32)) 0 4 = 0x41545251 ∧
      Bytes.num (leBytes 56 (0x41545251 + 2 ^ 32)) 4 2 = 1) := by decide +kernel
theorem witness_window : (let s := { State.reset with mode := { State.reset.mode with auth := some ⟨0, 10⟩ } }
    s.mode.auth = some ⟨0, 10⟩ ∧ s.vehicleNs < 10 ∧ State.reset.mode.auth = none ∧
      (let t := { s with time := { s.time with acc := [(0, 10 * nsUnit)] } }
       10 ≤ t.vehicleNs ∧ t.cur ≠ mDepot)) := by decide +kernel
theorem witness_attest : State.reset.flag VEF_ATT.BUSY = false ∧ State.reset.rd VEF_CTL.STATE (State.reset.rd VEF_ATT.VEF) = vDisabled ∧
    (let s := at0 [(VEF_CTL.STATE, vActive, 0, 0)]
     s.rd VEF_CTL.STATE (s.rd VEF_ATT.VEF) ≠ vDisabled ∧ s.rd VEF_CTL.STATE (s.rd VEF_ATT.VEF) ≠ vResetting) ∧
    (at0 [(VEF_ATT.BUSY, 1, 0, 0)]).flag VEF_ATT.BUSY = true ∧ (State.reset.who .mgmt).fwHyp = true := by decide +kernel
/-- An authorisation signed outside the model with the key 12345·G and the nonce 6789: COUNTER 1, COOLANT, ISSUE 0, 1,000 ms. -/
def depotKey : Bytes := beBytes 48 0xe86b995e350e4d312a95a6b7d5d8cdcdb4682f588800a1cd6c972e1dcb2a5ac38d90046951b03ccb3b179a89fda88b1b ++
  beBytes 48 0x485b9f2c1f44b0dd41ce6e3c3a690bbfaabec1e1ff4aefb2461fdda6629becbd43cf74c13d8c1a1625612243f0046148
def depotRecord : Bytes := leBytes 0x80 6277101735386680763835789423207666416102373891489588640239444 ++
  beBytes 48 0xc614086ba911ee9f9516c1ef00f832b58e9e8e33adf1629219744fcd34aa66dc68c5ef9a8184bbec8de8495bc8f7494e ++
  beBytes 48 0x810fb301ff06687bea02daf1edb841c8baaf5b8b6b37e9fd9253b4feb27548936928e620143e4f42b4f244e30a739716 ++ List.replicate 32 0
theorem witness_depot_authorisation : (let s := { State.reset with fw := { State.reset.fw with running := true, record := List.replicate 0x48 0 ++ depotKey } }
    s.fwDown 8 = false ∧ s.outsidePark = true ∧ s.authOk depotRecord = true ∧ s.authOk (depotRecord.set 8 2) = false ∧ s.cur ≠ mDepot) := by decide +kernel

/-! ### PassLinks -/

/-- Port 1 with its link in a state. -/
def linked (st : Nat) : State := at0 [(PASS_LINK_STAT.STATE, st, 1, 0)]
/-- Retrains of a list at most 1 s before another. -/
def nearRetrains (a : Nat) (r : List Nat) : Nat := (r.filter (fun u => decide (a ≤ u + 1000000000))).length
/-- A flit of zeros has a CRC of zero; one with sequence number 1 has not. -/
theorem witness_pass_flits : flitOk (List.replicate 128 0) = true ∧ flitOk (leBytes 128 1) = false ∧ (linked lkUp).link (1 : Fin 4) ≠ lkDown ∧
    (linked lkUp).link (1 : Fin 4) ≠ lkTraining ∧ ((linked lkUp).port (1 : Fin 4)).retraining = false ∧ ((linked lkUp).port (1 : Fin 4)).failed = none ∧
    ((linked lkUp).port (1 : Fin 4)).next = none ∧ ((State.reset.setPort 1 { PortRt.rest with failed := some 7, next := some 5 }).port (1 : Fin 4)).failed = some 7 ∧
    5 ≠ leNat ((List.replicate 128 (0 : Byte)).take 2) % 4096 ∧
    ((State.reset.setPort 1 { PortRt.rest with retraining := true, retrains := [3, 2, 1] }).port (1 : Fin 4)).retraining = true := by decide +kernel
theorem witness_pass_near : nearRetrains 2000000000 [1900000000, 1000000000] = 2 ∧ nearRetrains 2000000000 [1900000000, 999999999] = 1 := by
  simp [nearRetrains]
theorem witness_pass_training : (let s := { linked lkTraining with power := { State.reset.power with passUnit := [(1, uOn)] } }
    s.unitState (.pass 1) = uOn ∧ s.unitUsable (156 + (1 : Fin 4).val) = true ∧ s.link (1 : Fin 4) = lkTraining ∧ (255 : Fin 256).val % 16 = 15 ∧ (0xEF : Fin 256).val % 16 = 15 ∧
      (0xEE : Fin 256).val % 16 ≠ 15 ∧ (0xEE : Fin 256).val / 16 ≠ 15) := by decide +kernel
theorem witness_pass_hellos : (let s := (linked lkUp).setPort 1 { PortRt.rest with heard := some 0, sent := some 0 }
    let u := { s with time := { s.time with acc := [(3, 10000000 * nsUnit)] } }
    (s.port (1 : Fin 4)).heard = some 0 ∧ s.localNs < 0 + 10000000 ∧ (s.port (1 : Fin 4)).sent = some 0 ∧ s.localNs < 0 + 1000000 ∧ 0 + 10000000 ≤ u.localNs ∧ 0 + 1000000 ≤ u.localNs ∧
      u.link (1 : Fin 4) = lkUp ∧ (linked lkHello).link (1 : Fin 4) = lkHello ∧ (linked lkForeign).link (1 : Fin 4) = lkForeign) ∧
    0x0100 / 256 ≠ State.reset.rd PASS_CFG.FABRIC := by decide +kernel
theorem witness_pass_foreign : (let s := (linked lkForeign).wr PASS_LINK_STAT.PEER_ID 0x0200 1
    s.link (1 : Fin 4) = lkForeign ∧ 0x0205 / 256 = s.rd PASS_LINK_STAT.PEER_ID (1 : Fin 4) / 256 ∧ 0x0105 / 256 ≠ s.rd PASS_LINK_STAT.PEER_ID (1 : Fin 4) / 256) ∧
    ((State.reset.setPort 1 { PortRt.rest with retraining := true }).port (1 : Fin 4)).retrains = [] := by decide +kernel

/-! ### FabricRoutes -/

/-- The link manager runs; another device's announcement came at 0. -/
def managed : State := { (linked lkUp).wr PASS_DEV.ID 0 with fw := { State.reset.fw with running := true }, pass := { State.reset.pass with
  lsas := [⟨⟨5, 0, false, false, []⟩, 0⟩], shadow := some (3, []), acks := some (3, [1]), members := [0, 1, 2] } }
theorem witness_managed : managed.fwDown 7 = false ∧ State.reset.fwDown 7 = true ∧ managed.link (1 : Fin 4) = lkUp ∧ managed.pass.lsaDue = false ∧ managed.idNum = 0 ∧
    managed.localNs < managed.pass.lsaAt + 10000000 ∧ managed.pass.lsas.find? (fun (k : KeptLsa) => k.lsa.hash == 5) = some ⟨⟨5, 0, false, false, []⟩, 0⟩ ∧ managed.localNs < 0 + 5000000 ∧
    managed.localNs < 0 + 30000000 ∧ managed.pass.routesDue = false ∧ managed.pass.acks = some (3, [1]) ∧ managed.pass.members.contains (2 : Fin 256).val = true ∧
    managed.pass.members.all (fun m => m == managed.rd PASS_DEV.ID % 256 || [2, 1].contains m) = true ∧
    managed.pass.members.all (fun m => m == managed.rd PASS_DEV.ID % 256 || [0, 1].contains m) = false ∧
    managed.pass.members.contains (7 : Fin 256).val = false ∧ managed.pass.shadow = some (3, []) := by decide +kernel
theorem witness_managed_later : (let s := { managed with time := { managed.time with acc := [(3, 30000000 * nsUnit)] } }
    s.pass.lsaAt + 10000000 ≤ s.localNs ∧ 0 + 5000000 ≤ s.localNs ∧ 0 + 30000000 ≤ s.localNs) := by decide +kernel
/-- Two devices that announce one link: this device, of the lower hash, is the authority and has another to send routes to. -/
theorem witness_authority : (let s := { (managed.wr PASS_LINK_STAT.PEER_PORT 2 1).setPort 1 { PortRt.rest with peer := some 5 } with
      pass := { (managed.setPort 1 { PortRt.rest with peer := some 5 }).pass with routesDue := true, lsas := [⟨⟨5, 0xFFFF, false, false, [⟨2, 0, 1⟩]⟩, 0⟩] } }
    s.pass.routesDue = true ∧ s.passView.flag PASS_DEV.AUTHORITY = true ∧ (assignMembers s.passView.fabric).filter (fun x => x.1 != s.passView.idNum) ≠ [] ∧
      (let u := { s with pass := { s.pass with lsas := [⟨⟨5, 0xFFFF, false, false, [⟨2, 0, 1⟩]⟩, 0⟩] } }.wr ID_HASH.HASH (2 ^ 384 - 1)
       u.passView.flag PASS_DEV.AUTHORITY = false)) := by decide +kernel
theorem witness_alone : (let s := { managed with pass := { managed.pass with routesDue := true, lsas := [] } }
    s.fwDown 7 = false ∧ s.pass.routesDue = true ∧ s.passView.flag PASS_DEV.AUTHORITY = true ∧
      (assignMembers s.passView.fabric).filter (fun x => x.1 != s.passView.idNum) = []) ∧
    managed.pass.lsas.find? (fun (k : KeptLsa) => k.lsa.hash == 5) = some ⟨⟨5, 0, false, false, []⟩, 0⟩ ∧
    (⟨5, 0, false, false, []⟩ : PassLsa) ≠ ⟨5, 1, true, false, []⟩ := by decide +kernel

/-! ### PassPackets -/

/-- A device of ID 0x0001 with port 1 UP, and a packet for it from device 0x0002. -/
def fabricDev : State := withBytes (at0 [(PASS_LINK_STAT.STATE, lkUp, 1, 0), (PASS_DEV.ID, 1, 0, 0), (PASS_DEV.ASSIGNED, 1, 0, 0)]) []
def packet0 : PassPacket := { poison := false, cls := 2, fw := true, dst := 1, src := 2, vef := 0, domain := 0, addr := 64, tag := 9, len := 8, gen := 0, payload := [7], reserved := false }
theorem witness_pass_packets : fabricDev.link (1 : Fin 4) = lkUp ∧ fabricDev.flag PASS_DEV.ASSIGNED = true ∧ packet0.dst = fabricDev.rd PASS_DEV.ID ∧ packet0.reserved = false ∧
    fabricDev.lineHeld packet0 = false ∧ fabricDev.pass.expired.contains (packet0.src, packet0.tag) = false ∧ fabricDev.inHbm packet0.addr = true ∧
    fabricDev.inHbm (packet0.addr + packet0.payload.length - 1) = true ∧ fabricDev.inHbm (packet0.addr + packet0.len - 1) = true ∧ fabricDev.pass.reqs = [] ∧ fabricDev.pass.lineWait = [] ∧
    fabricDev.rd PASS_SBO.PEER (packet0.addr % 16) ≠ packet0.src ∧ (fabricDev.wr PASS_SBO.PEER 2 0).rd PASS_SBO.PEER (packet0.addr % 16) = packet0.src ∧ fabricDev.pass.polls = [] ∧
    State.reset.link (1 : Fin 4) ≠ lkUp ∧ State.reset.flag PASS_DEV.ASSIGNED = false := by decide +kernel
/-- A WRITE stores its byte. -/
theorem test_pass_write : (match exec (.passWrite 1 packet0) fabricDev with | .next t => t.memRead 64 1 == [7] && t.out.length == fabricDev.out.length | _ => false) = true := by decide +kernel
theorem witness_pass_tunnel : (let b := packetBytes ptSbPoll { packet0 with payload := [], len := 0 }
    let d := b ++ leBytes 4 (crc32c b)
    28 ≤ d.length ∧ leNat (d.drop (d.length - 4)) = crc32c (d.take (d.length - 4)) ∧ (packetOf (d.take (d.length - 4))).2.reserved = false ∧
      (packetOf (d.take (d.length - 4))).2.dst = fabricDev.rd PASS_DEV.ID) ∧ State.reset.flag PASS_TUN.ENABLE = false ∧
    (fabricDev.wr PASS_TUN.ENABLE 1).flag PASS_TUN.ENABLE = true := by decide +kernel
theorem witness_pass_polls : (let s := (fabricDev.wr PASS_POLL.EN 1 3).wr PASS_CFG.POLL_US 10
    s.flag PASS_POLL.EN (3 : Fin 16) = true ∧ s.flag PASS_DEV.ASSIGNED = true ∧ Sparse.look none s.pass.polled (3 : Fin 16) = none ∧
      (let t : State := { s with pass := { s.pass with polled := [(3, some 0)], misses := [(3, 2)], polls := [⟨3, 0, 0, false⟩] } }
       let u := { t with time := { t.time with acc := [(3, 100000 * nsUnit)] } }
       Sparse.look none t.pass.polled (3 : Fin 16) = some 0 ∧ t.localNs < 0 + t.rd PASS_CFG.POLL_US * 1000 ∧ 0 + u.rd PASS_CFG.POLL_US * 1000 ≤ u.localNs ∧
         (u.pass.polls.find? (fun x => x.entry == (3 : Fin 16).val && !x.missed && decide (x.since + 100000 ≤ u.localNs))) = some ⟨3, 0, 0, false⟩ ∧
         3 ≤ Sparse.look 0 u.pass.misses (3 : Fin 16) + 1 ∧ u.flag PASS_POLL.LOST (3 : Fin 16) = false ∧ Sparse.look 0 s.pass.misses (3 : Fin 16) + 1 < 3)) ∧
    (State.reset.who .mgmt).fwHyp = true ∧ (State.reset.who (.host 0 true)).fwHyp = false := by decide +kernel
/-- The check values of the standards' CRCs over the nine digits. -/
theorem test_crcs : (let d := (List.range 9).map (fun i => BitVec.ofNat 8 (0x31 + i))
    crc32c d = 0xE3069283 ∧ crc64 d = 0x995DC9BBDF1939FA ∧ crc8h2f d = 0xDF ∧ crcMsb 64 0x42F0E1EBA9EA3693 0 d = 0x6C40DF5F0B497347) := by decide +kernel
theorem witness_pass_waits : fabricDev.slotHeld (1 : Fin 4) = false ∧ fabricDev.lineHeld packet0 = false ∧
    (({ fabricDev with pass := { fabricDev.pass with locks := [⟨1, 3, 9, 0⟩] } } : State).lineHeld packet0) = true ∧
    ((fabricDev.chargePass packet0).reqFor packet0 ptRead = none) ∧
    (let s := { fabricDev with pass := { fabricDev.pass with reqs := [⟨.read, ptRead, { packet0 with dst := 2 }, 1, .mgmt, 0, false⟩] } }
     ((s.chargePass packet0).reqFor packet0 ptRead).isSome = true) := by decide +kernel
theorem witness_tunnel_others : (let b := packetBytes ptSbPoll { packet0 with payload := [], len := 0, dst := 7 }
    let d := b ++ leBytes 4 (crc32c b)
    28 ≤ d.length ∧ leNat (d.drop (d.length - 4)) = crc32c (d.take (d.length - 4)) ∧ (packetOf (d.take (d.length - 4))).2.reserved = false ∧
      (packetOf (d.take (d.length - 4))).2.dst ≠ fabricDev.rd PASS_DEV.ID) ∧
    (let b := packetBytes 0 { packet0 with payload := [], len := 0 }
     let d := b ++ leBytes 4 (crc32c b)
     28 ≤ d.length ∧ leNat (d.drop (d.length - 4)) = crc32c (d.take (d.length - 4)) ∧ (packetOf (d.take (d.length - 4))).2.reserved = true) := by decide +kernel

/-! ### FabricBridge -/

theorem witness_burst : (let s := (fabricDev.wr VEF_CTL.FABRIC_OUT 1 0)
    s.fabricAs .mgmt = some (true, 0, 0) ∧ s.fabricBars (some (true, 0, 0)) = false ∧ (2 * 2 ^ 48 + 8) / 2 ^ 48 ≠ s.rd PASS_DEV.ID ∧ (2 ^ 48 + 8) / 2 ^ 48 = s.rd PASS_DEV.ID ∧
      s.fabricBars none = true ∧ s.fabricBars (some (false, 1, 0)) = true ∧ State.reset.fabricBars (State.reset.fabricAs (.host 0 true)) = true ∧
      s.discards (s.slotOf (fabricPacket (true, 0, 0) 1 (2 * 2 ^ 48 + 8) 8 [])) ((fabricPacket (true, 0, 0) 1 (2 * 2 ^ 48 + 8) 8 []).dst % 256) = false ∧ s.pass.reserved = []) := by decide +kernel
theorem witness_sc : (let s : State := { (fabricDev.wr VEF_CTL.FABRIC_OUT 1 0) with pass := { State.reset.pass with reserved := [(0, 2, 0, 9)] } }
    hartOf (.host 0 false) = some 0 ∧ s.pass.reserved = [(0, (2 * 2 ^ 48 + 8) / 2 ^ 48, (2 * 2 ^ 48 + 8) % 2 ^ 48 / 64, 9)] ∧ (s.fabricAs (.host 0 false)).isSome = true ∧
      s.fabricBars (s.fabricAs (.host 0 false)) = false) := by decide +kernel
theorem witness_bridge_times : (let s : State := { (fabricDev.wr PASS_CFG.TIMEOUT_US 2) with pass := { State.reset.pass with reqs := [⟨.read, ptRead, packet0, 1, .mgmt, 0, false⟩], locks := [⟨1, 2, 9, 0⟩] }, time := { State.reset.time with acc := [(3, 2000 * nsUnit)] } }
    packet0.tag = (9 : Fin 65536).val ∧ 0 + s.rd PASS_CFG.TIMEOUT_US * 1000 ≤ s.localNs ∧ 0 + 2000 ≤ s.localNs ∧ s.pass.lineWait = [] ∧
      (s.wr PASS_CFG.TIMEOUT_US 3).localNs < 0 + (s.wr PASS_CFG.TIMEOUT_US 3).rd PASS_CFG.TIMEOUT_US * 1000) := by decide +kernel
/-- A burst across a page boundary is cut there. -/
theorem test_cut : cutBurst 4 4090 300 = [(4090, 6), (4096, 256), (4352, 38)] := by decide +kernel
theorem witness_bridge_more : placedAt 8 = false ∧ (hartOf .mgmt).isSome = false ∧
    (let s : State := { fabricDev with pass := { State.reset.pass with locks := [⟨1, 2, 9, 0⟩] }, time := { State.reset.time with acc := [(3, 2000 * nsUnit)] } }
     s.pass.locks.filter (fun l => decide (l.since + 2000 ≤ s.localNs)) ≠ []) := by decide +kernel

/-! ### EthernetFrames -/

theorem witness_eth_receive : (let s := at0 [(GW_PORT.STATE, 2, 3, 0)]
    let f : Bytes := List.replicate 12 (1 : Byte) ++ [8, 0] ++ List.replicate 46 (0 : Byte)
    let g : Bytes := List.replicate 12 (1 : Byte) ++ [0x81, 0, 0x20, 0, 8, 0] ++ List.replicate 46 (0 : Byte)
    let p : Bytes := List.replicate 12 (1 : Byte) ++ [0x88, 0xF7] ++ List.replicate 46 (0 : Byte)
    s.rd GW_PORT.STATE 3 = 2 ∧ f.length = 60 ∧ s.streamTables = false ∧ s.flag GW_SW.RUN = false ∧ (s.wr GW_SW.RUN 1).flag GW_SW.RUN = true ∧
      (ethView f).map (fun e => (e.etype, s.safetyFrame e)) = some (0x0800, false) ∧ (ethView g).map (fun e => (e.etype, s.safetyFrame e)) = some (0x0800, true) ∧
      (ethView p).map (·.etype) = some 0x88F7) := by decide +kernel
/-- A port ON, a ring of one descriptor at address 0, and the IOMMU in bare mode. -/
def txReady (cells : List Host.Cell) : State :=
  { (withBytes ((((State.reset.wr GW_HPQ.TX_ENABLE 1).wr GW_HPQ.TX_SIZE_LOG2 6).wr GW_HPQ.TX_TAIL 1).wr GW_PORT.STATE 2 8) cells).wr GW_SW.RUN 1 with std := [((iommuBase + 0x10) / 4, 1)] }
/-- What decides about the ring's next descriptor. -/
def txView (c : List Host.Cell) : List Nat :=
  let s := txReady c
  let d := s.ctxRead gwCtx 0 16
  [s.rd GW_HPQ.TX_ENABLE 0, s.rd GW_PORT.STATE 8, s.rd GW_HPQ.TX_BASE 0, s.rd GW_HPQ.TX_HEAD 0 % 64, s.rd GW_HPQ.TX_TAIL 0 % 64, s.rd GW_HPQ.TX_SIZE_LOG2 0,
    Bytes.num d 0xA 1, Bytes.num d 8 2, ((s.ctxTouch gwCtx 0 16).ctxRead gwCtx (Bytes.num d 0 8) (Bytes.num d 8 2)).length, s.rd GW_SW.RUN]
theorem witness_eth_transmit : txView [(8, 64), (0xA, 12)] = [1, 2, 0, 0, 1, 6, 12, 64, 64, 1] ∧
    txView [(8, 20), (0xA, 3)] = [1, 2, 0, 0, 1, 6, 3, 20, 20, 1] ∧ txView [(8, 64), (0xA, 3), (0xB, 1)] = [1, 2, 0, 0, 1, 6, 3, 64, 64, 1] := by decide +kernel
theorem witness_switch_run : (State.reset.who .mgmt).fwHyp = true ∧ (State.reset.who .cantle).fwHyp = false := by decide +kernel
theorem witness_eth_more : (let s := at0 [(GW_PORT.STATE, 2, 3, 0), (GW_SW.RUN, 1, 0, 0)]
    s.rd GW_PORT.STATE 3 = 2 ∧ s.flag GW_SW.RUN = true ∧ s.streamTables = false) ∧
    ethView (List.replicate 12 (1 : Byte) ++ [0x81, 0]) = none ∧
    txView [(8, 64), (0xA, 0xFF), (0xB, 1)] = [1, 2, 0, 0, 1, 6, 0xFF, 64, 64, 1] := by decide +kernel

/-! ### StampsAndGates -/

theorem witness_stamps : (let x : TxStamp := ⟨3, 7, 0, false, 5⟩
    let s : State := { State.reset with gw := { GwSt.cold with leaving := [x], stamps := [x] } }
    let u : State := { State.reset with gw := { GwSt.cold with leaving := [x], stamps := List.replicate 32 x } }
    s.gw.leaving.find? (fun y => y.port == (3 : Fin 10).val) = some x ∧ s.gw.stamps.find? (fun y => y.port == (3 : Fin 10).val) = some x ∧
      (s.gw.stamps.filter (fun y => y.port == (3 : Fin 10).val)).length = 1 ∧ (u.gw.stamps.filter (fun y => y.port == (3 : Fin 10).val)).length = 32) := by decide +kernel
/-- A schedule of two entries on port 0: gates 0x0F for 1,000 ns, gates 0xF0 for 500 ns, in a cycle of 1,500 ns from 0; the
time is 2,600 ns. -/
def gated : State :=
  { State.reset with std := [(0xF001240000 / 4, 1), (0xF001240000 / 4 + 4, 2), (0xF001240000 / 4 + 1030, 0x0F), (0xF001240000 / 4 + 1031, 1000),
      (0xF001240000 / 4 + 1034, 0xF0), (0xF001240000 / 4 + 1035, 500), (0xF001240000 / 4 + 2055, 1500)], time := { State.reset.time with acc := [(0, 2600 * nsUnit)] } }
theorem witness_gates : gated.gateWord 0 0 ≠ 0 ∧ gated.gateTime 0 2055 = 1500 ∧ gated.gateWord 0 4 = 2 ∧ gated.gateTime 0 2063 ≤ gated.vehicleNs ∧ gated.vehicleNs = 2600 ∧
    gateAt (gated.gateList 0) ((gated.vehicleNs - gated.gateTime 0 2063) % gated.gateTime 0 2055) 0 = some (0xF0, 1500) ∧ State.reset.gateWord 0 0 = 0 := by decide +kernel
theorem witness_gate_wait : Sparse.look none ({ State.reset with gw := { GwSt.cold with gateEnd := [(0, some 5)] } } : State).gw.gateEnd 0 = some 5 ∧ State.reset.vehicleNs < 5 := by decide +kernel

/-! ### SignalGateway -/

theorem witness_can_receive : (let s := at0 [(GW_CAN.STATE, 2, 3, 0), (GW_CAN.STATE, 2, 14, 0), (GW_CAN.RX_SIZE_LOG2, 6, 3, 0)]
    let f : CanFrame := ⟨0x123, false, false, false, [1, 2]⟩
    let d : State := { (s.wr SYS_MODE.CURRENT mDepot) with fw := { s.fw with record := List.replicate 0x110 0 ++ [0x23, 1, 0, 0x40] } }
    s.rd GW_CAN.STATE 3 = 2 ∧ s.rd GW_CAN.STATE 14 = 2 ∧ s.flag GW_CAN.BUS_OFF 3 = false ∧ s.flag GW_CAN.BUS_OFF 14 = false ∧ s.cur ≠ mDepot ∧ d.rd GW_CAN.STATE 14 = 2 ∧ d.cur = mDepot ∧
      d.wakeFrame f = true ∧ (s.rd GW_CAN.RX_TAIL 3 + 1) % 2 ^ s.rd GW_CAN.RX_SIZE_LOG2 3 ≠ s.rd GW_CAN.RX_HEAD 3 % 2 ^ s.rd GW_CAN.RX_SIZE_LOG2 3 ∧
      ((s.wr GW_CAN.RX_HEAD 1 3).rd GW_CAN.RX_TAIL 3 + 1) % 64 = (s.wr GW_CAN.RX_HEAD 1 3).rd GW_CAN.RX_HEAD 3 % 64 ∧ s.saf.held = true ∧
      (s.wr GW_CAN.BUS_OFF 1 3).flag GW_CAN.BUS_OFF 3 = true ∧ (s.wr GW_CAN.AUTO_RECOVER 1 3).flag GW_CAN.AUTO_RECOVER 3 = true ∧
      ({ s with saf := { s.saf with held := false } } : State).saf.held = false ∧ s.flag SAF_CTL.SAFE_STATE = false) := by decide +kernel
/-- Controller 3 ON with a transmit ring of one entry at address 0. -/
def canReady (cells : List Host.Cell) : State :=
  { withBytes (((State.reset.wr GW_CAN.STATE 2 3).wr GW_CAN.TX_SIZE_LOG2 6 3).wr GW_CAN.TX_TAIL 1 3) cells with std := [((iommuBase + 0x10) / 4, 1)] }
theorem witness_can_transmit : (let f (c : List Host.Cell) : List Nat :=
      let s := canReady c
      let e := s.ctxRead gwCtx 0 (s.canEntry 3)
      [s.rd GW_CAN.STATE 3, s.rd GW_CAN.BUS_OFF 3, s.rd GW_CAN.TX_BASE 3, s.rd GW_CAN.TX_HEAD 3 % 64, s.rd GW_CAN.TX_TAIL 3 % 64, s.rd GW_CAN.TX_SIZE_LOG2 3,
        b2n (s.canFormat 3 ((Bytes.num e 12 2).testBit 1) ((Bytes.num e 12 2).testBit 0)), Bytes.num e 14 2]
    f [(8, 5), (14, 2)] = [2, 0, 0, 0, 1, 6, 1, 2] ∧ f [(8, 5), (12, 2), (14, 2)] = [2, 0, 0, 0, 1, 6, 0, 2]) := by decide +kernel
theorem witness_container : (let x : ContRt := { ContRt.rest with image := [7], oldest := some 0 }
    let s := ((at0 [(GW_CONT.VALID, 1, 5, 0), (GW_CONT.CTRL, 3, 5, 0), (GW_CONT.LEN, 2, 5, 0), (GW_CAN.STATE, 2, 3, 0), (GW_CONT.DIR, 1, 5, 0)])).setCont 5 x
    let u := ((s.wr GW_CONT.KIND 1 5).wr GW_PORT.STATE 2 8)
    (s.cont 5).oldest = some 0 ∧ s.flag GW_CONT.VALID 5 = true ∧ max (s.cont 5).nextDue 0 ≤ s.vehicleNs ∧ s.contOpen 5 = true ∧ s.flag GW_CONT.KIND 5 = false ∧
      u.contOpen 5 = true ∧ u.flag GW_CONT.KIND 5 = true ∧ (s.wr GW_CONT.VALID 0 5).flag GW_CONT.VALID 5 = false ∧ (s.who .mgmt).fwHyp = true ∧ (s.who .cantle).fwHyp = false ∧
      s.rd GW_CONT.CTRL 5 < 14 ∧ s.flag GW_CONT.DIR 5 = true ∧ s.flag GW_CONT.FD 5 = false ∧ s.flag GW_CONT.XL 5 = false ∧ s.rd GW_CONT.LEN 5 = 2 ∧
      (s.wr GW_CONT.LEN 9 5).rd GW_CONT.LEN 5 = 9 ∧ (s.wr GW_CONT.CTRL 14 5).rd GW_CONT.CTRL 5 = 14) := by decide +kernel
theorem witness_route : (let s := at0 [(GW_CONT.DIR, 1, 6, 0), (GW_ROUTE.SRC, 5, 9, 0), (GW_ROUTE.DST, 6, 9, 0), (GW_ROUTE.LEN, 12, 9, 0), (GW_ROUTE.MODE, 1, 9, 0)]
    s.rd GW_ROUTE.MODE 9 = 1 ∧ s.flag GW_CONT.DIR (s.rd GW_ROUTE.SRC 9) = false ∧ s.flag GW_CONT.DIR (s.rd GW_ROUTE.DST 9) = true ∧ s.rd GW_ROUTE.LEN 9 = 12 ∧
      s.rd GW_ROUTE.SRC_BIT 9 + 12 ≤ 512 ∧ s.rd GW_ROUTE.DST_BIT 9 + 12 ≤ 512 ∧ (s.wr GW_ROUTE.MODE 3 9).rd GW_ROUTE.MODE 9 = 3) := by decide +kernel
/-- Twelve bits moved from bit 4 to bit 8. -/
theorem test_blend : blend false [0xFF] [0xA5, 0x3C] 8 4 12 = [0xFF, 0xCA, 0x03] := by decide +kernel
theorem witness_gateway_more : (let s := at0 [(GW_CAN.STATE, 2, 14, 0), (GW_CAN.STATE, 2, 3, 0), (GW_CONT.VALID, 1, 5, 0), (GW_CONT.CTRL, 3, 5, 0)]
    let u := s.setCont 5 { ContRt.rest with due := [[7]] }
    s.canFormat 3 true false = false ∧ s.canFormat 3 false false = true ∧ u.contOpen 5 = true ∧ (u.cont 5).due = [[7]] ∧ (s.cont 5).oldest = none ∧
      s.routeBad 9 = true ∧ s.flag GW_CONT.DIR 5 = false) := by decide +kernel

/-! ### RecoveryAndPackages -/

/-- ROM in recovery, hearing Ethernet and, by the strap, PCIe. -/
def recovering (t : Option Transfer) (a : Option Nat) : State :=
  { State.reset.wr SYS_STRAP.PCIE_MODE 1 with fw := { State.reset.fw with recovery := some ⟨t, a⟩ } }
theorem witness_recovery : (let s := recovering none none
    let u := recovering (some ⟨7, [(0, some 5), (1, some 6)], 0⟩) none
    s.hearsEth = true ∧ s.hearsPcie = true ∧ s.flag FW_PKG.BUSY = false ∧ s.ethTransfer = none ∧ State.reset.hearsEth = false ∧ u.ethTransfer = some ⟨7, [(0, some 5), (1, some 6)], 0⟩ ∧
      nextGap 0 [(0, some (5 : Byte)), (1, some 6)] = 2 ∧ (recovering none (some 0)).localNs < 0 + 1000000000 ∧ u.localNs < 0 + 10000000000 ∧
      ({ u with time := { u.time with acc := [(3, 10000000000 * nsUnit)] } } : State).localNs = 10000000000 ∧ (s.wr FW_PKG.BUSY 1).flag FW_PKG.BUSY = true ∧
      ([1, 2] : Bytes).length ≤ 1024) := by decide +kernel
theorem witness_update : (let s : State := { State.reset with fw := { State.reset.fw with running := true, package := some [1] } }
    s.fw.recovery = none ∧ s.flag FW_PKG.BUSY = false ∧ s.fwDown 8 = false ∧ s.fwDown 9 = false ∧ s.packageForm [1] = false ∧ (s.who (.host 0 false)).hyp = true ∧
      (s.who .mgmt).hyp = false) := by decide +kernel
theorem witness_recovery_update : (let u := recovering (some ⟨7, [(0, some 5), (1, some 6)], 0⟩) none
    let s := { u with fw := { u.fw with package := some [1] } }
    s.fw.package = some [1] ∧ s.fw.recovery = some ⟨some ⟨7, [(0, some 5), (1, some 6)], 0⟩, none⟩ ∧ s.hearsPcie = true ∧ s.ethTransfer ≠ none ∧
      State.reset.hearsPcie = false ∧ State.reset.fw.running = false ∧ State.reset.flag FW_PKG.BUSY = false ∧ State.reset.fwDown 8 = true) := by decide +kernel

/-! ### FirmwareComponents -/

theorem witness_components : (let s : State := { State.reset with fw := { State.reset.fw with running := true } }
    let u : State := { s with fw := { s.fw with restarting := [2] } }
    let v : State := { s with fw := { s.fw with restarting := [5] } }
    let w : State := { s with fw := { s.fw with restarting := [9] } }
    s.fwDown 5 = false ∧ s.fwDown 2 = false ∧ s.fwDown 9 = false ∧ 2 ∈ u.fw.restarting ∧ u.fw.halted = false ∧ u.fw.heldLog = [] ∧ u.fw.lostLog = 0 ∧ u.fw.heldSaves = 0 ∧
      (5 : Fin 16).val ∈ v.fw.restarting ∧ u.fwDown 5 = true ∧ w.fw.running = true ∧ w.fwDown 9 = true ∧ u.fwDown 2 = true ∧ State.reset.fw.running = false ∧ (s.who (.host 0 false)).hyp = true ∧
      s.flag FW_PKG.BUSY = false) := by decide +kernel
theorem witness_trace : (let s : State := { (State.reset.wr FW_TRACE.MASK 8 2) with fw := { State.reset.fw with running := true } }
    s.fw.running = true ∧ (s.rd FW_TRACE.MASK ((0x40 + 3) / 32)).testBit ((0x40 + 3) % 32) = true ∧ s.fwDown 9 = false ∧ Sparse.look none s.fw.traced 3 = none ∧
      Sparse.look none ({ s with fw := { s.fw with traced := [(3, some 0)] } } : State).fw.traced 3 = some 0 ∧ s.localNs < 0 + 10000000) := by decide +kernel

/-! ### OuterInterfaces -/

theorem witness_mtimecmp : (let s := (State.reset.wr HOSTC_MTIMECMP.CMP 5 2)
    s.localNs < s.rd HOSTC_MTIMECMP.CMP 2 ∧ (State.reset.wr HOSTC_MTIMECMP.CMP 0 2).rd HOSTC_MTIMECMP.CMP 2 ≤ State.reset.localNs ∧ 2 ∉ State.reset.gw.mtip) := by decide +kernel
theorem witness_i2c : (let s := at0 [(APHY_LINK.UP, 1, 4, 0)]
    let b := s.wr APHY_I2C.BUSY 1 4
    let k : State := { s with gw := { s.gw with i2c := [(4, some 0)] } }
    s.flag APHY_I2C.BUSY 4 = false ∧ s.flag APHY_LINK.UP 4 = true ∧ s.flag APHY_LINK.UP 5 = false ∧ b.flag APHY_I2C.BUSY 4 = true ∧ (s.who .mgmt).fwHyp = true ∧ (s.who .cantle).fwHyp = false ∧
      Sparse.look none k.gw.i2c 4 = some 0 ∧ k.localNs < 0 + 10000000 ∧ 0 + 10000000 ≤ ({ k with time := { k.time with acc := [(3, 10000000 * nsUnit)] } } : State).localNs ∧
      4 ∉ s.gw.aphyLocked) := by decide +kernel
theorem witness_pcie : (let s : State := { ((State.reset.wr SYS_STRAP.PCIE_MODE 1).wr SYS_MODE.CURRENT mDrive) with fw := { State.reset.fw with running := true } }
    let v : State := { s with gw := { s.gw with numVfs := 2, vfEnable := true } }
    s.flag SYS_STRAP.PCIE_MODE = true ∧ State.reset.flag SYS_STRAP.PCIE_MODE = false ∧ s.mode.perstHigh = true ∧ s.outsidePark = true ∧ s.fw.running = true ∧ s.cur ≠ mBoot ∧
      s.gw.vfEnable = false ∧ v.gw.vfEnable = true ∧ (2 : Fin 128).val ≤ v.gw.numVfs ∧ v.gw.numVfs < (3 : Fin 128).val ∧ (s.wr SYS_MODE.CURRENT mWarm).outsidePark = false ∧
      (s.wr SYS_MODE.CURRENT mBoot).cur = mBoot) := by decide +kernel

/-! ### RegisterWrites -/

theorem witness_narrow : inRegSpace 0xF000B00109 = true ∧ State.reset.whoAt .mgmt 0xF000B00109 = .firmware ∧
    State.reset.whoAt (.pcieVF 1) 0xF000B00109 = .nobody ∧ (at0 [(VEF_HART.VALID, 1, 0, 0)]).whoAt (.host 0 true) 0xF000B00109 = .vef 0 := by
  decide +kernel
theorem witness_words : (let s := at0 [(VEF_HART.VALID, 1, 0, 0)]
    s.wordHit .firmware 0xF0013FFFF8 = .hole ∧ s.whoAt .mgmt 0xF0013FFFF8 = .firmware ∧ s.whoAt (.host 0 true) 0xF0013FFFF8 = .vef 0 ∧
      s.wordHit (.vef 0) 0xF0013FFFF8 = .hole ∧ s.wordHit .cantle 0xF000B00108 = .denied ∧ s.whoAt .cantle 0xF000B00108 = .cantle ∧
      s.wordHit (.vef 0) 0xF000B00108 = .denied ∧ s.wordHit .firmware 0xF000B00108 = .reg ⟨.plainFldWdog, 0, 0, 0⟩ ∧
      inRegSpace 0xF0013FFFF8 = true) := by decide +kernel
/-- Two words of one register; a refused word beside a hole (the same word is permitted to firmware). -/
theorem witness_pairs : (let s := at0 [(VEF_HART.VALID, 1, 0, 0)]
    let a := RegName.passTunt.addr 0
    let z := RegName.sysId.addr
    s.wordHit .firmware a = .reg ⟨.passTunt, 0, 0, 0⟩ ∧ s.wordHit .firmware (a + 4) = .reg ⟨.passTunt, 0, 0, 4⟩ ∧ a % 8 = 0 ∧
      inRegSpace a = true ∧ z % 8 = 0 ∧ s.wordHit .firmware z = .reg ⟨.sysId, 0, 0, 0⟩ ∧ s.wordHit .firmware (z + 4) = .hole ∧
      s.wordHit .cantle z = .denied ∧ s.wordHit .cantle (z + 4) = .hole ∧ s.wordHit (.vef 0) z = .denied ∧ s.wordHit (.vef 0) (z + 4) = .hole) := by
  decide +kernel

end Sys2Proof.Tests
end

section
/-! What a command that asks for no reset keeps, read off its answer, and the LOCK bits (00 R10, 17 R425). -/

namespace Sys2Proof.Machine

/-- The relation of the laws holds between a state and the answer of a command that asks for no reset. -/
theorem keeps_of_exec_next {c : Instr} {s t : State} (hc : mayReset c = false) (h : exec c s = .next t) : Keeps true s t := by
  obtain ⟨u, hu, k⟩ := Keeps.ans_next (exec_holds c s hc)
  exact Host.Outcome.next.inj (hu.symm.trans h) ▸ k

/-- The answer of a step on an empty queue is the state after one tick. -/
theorem eq_tick_of_step_idle {s t : State} (hs : s.pending = []) (h : step s = .next t) : t = s.tick :=
  (Host.Outcome.next.inj ((step_idle hs).symm.trans h)).symm

/-- Settles O8: the relation that every operation carries keeps set LOCK bits and the fields behind them, over a command that
asks for no reset and over a tick. -/
theorem locksStand : Obligations.LocksStand := by
  unfold Obligations.LocksStand
  refine ⟨fun c s t hc h => ?command, fun s t hs h => ?tick⟩
  case command => exact (keeps_of_exec_next hc h).held
  case tick =>
    rw [eq_tick_of_step_idle hs h]
    exact (tick_holds s).1

end Sys2Proof.Machine
end

section
/-! Soundness over one step and over a run (01 R14, 10 R267): it holds after reset, every command and every tick keeps it, and so
every run reaches sound states only. -/

namespace Sys2Proof.Machine

/-- Soundness speaks of memories, registers and the safety island's counters, not of the commands that wait. -/
theorem State.Sound.withPending {s : State} (h : s.Sound) (q : List Instr) : State.Sound { s with pending := q } :=
  ⟨h.memory, h.ranges, h.faults, h.counter⟩

theorem State.Sound.tick {s : State} (h : s.Sound) : s.tick.Sound := (Keeps.tick (Keeps.refl false s)).sound h

theorem State.Sound.exec {s : State} (h : s.Sound) (c : Instr) : ∃ t, Machine.exec c s = .next t ∧ t.Sound := by
  obtain ⟨t, ht, k⟩ := exec_total c s
  exact ⟨t, ht, k.sound h⟩

/-- Whatever the cause of the cold reset and whatever the flash holds: an empty register store reads every ranged field at its
Cold value, which lies in its range. -/
theorem State.sound_cold (cause : Nat) (flash : List Host.Cell) : (State.cold cause flash).Sound where
  memory := rfl
  ranges := Keeps.ranges_cold [] cause (fun p hp i _ => Keeps.cold_range p hp i)
  faults := Nat.zero_le _
  counter := Nat.zero_lt_succ 15

/-- Settles O5: the reset state is a cold state. -/
theorem resetIsSound : Obligations.ResetIsSound := State.sound_cold 1 []

/-- Settles O6: a step is a tick or the front command on the state with the queue's rest, and both keep soundness. -/
theorem stepKeepsSound : Obligations.StepKeepsSound := by
  unfold Obligations.StepKeepsSound
  intro s hs
  cases hq : s.pending with
  | nil => exact ⟨s.tick, step_idle hq, hs.tick⟩
  | cons c rest =>
    rw [step_front hq]
    exact (hs.withPending rest).exec c

/-- A run whose first step answers a next state goes on from there. -/
theorem core_run_succ {s t : State} (h : step s = .next t) (k : Nat) : core.run (k + 1) s = core.run k t := by
  have first : core.step s = .next t := h
  exact (Host.Core.run.eq_2 core s k).trans (by rw [first])

/-- Settles O7, by induction on the number of steps. -/
theorem soundRunsAreSafe : Obligations.SoundRunsAreSafe := by
  unfold Obligations.SoundRunsAreSafe
  intro s hs k
  induction k generalizing s with
  | zero => exact ⟨s, rfl, hs⟩
  | succ k ih =>
    obtain ⟨t, hstep, ht⟩ := stepKeepsSound s hs
    rw [core_run_succ hstep]
    exact ih t ht

end Sys2Proof.Machine
end

section
/-! Laws of the mode machine's operations (01 R15 to R24, 16 R402, R404, R410 to R412): what each leaves in SYS_MODE and in the mode
machine's state, and which of them a request, a timer, a wake or the end of a clock change takes. -/

namespace Sys2Proof.Machine

/-! ### Mode entered, transition set -/

theorem State.cur_get (s : State) : s.cur = regGet s.regs SYS_MODE.CURRENT 0 0 := rfl

theorem State.regs_setTrans (s : State) (t : Option Trans) :
    (s.setTrans t).regs = regSet s.regs SYS_MODE.IN_TRANSITION (b2n t.isSome) 0 0 := rfl

theorem State.regs_enterMode (s : State) (m : Nat) :
    (s.enterMode m).regs = regSet (regSet s.regs SYS_MODE.CURRENT m 0 0) SYS_MODE.IN_TRANSITION 0 0 0 := rfl

theorem State.trans_setTrans (s : State) (t : Option Trans) : (s.setTrans t).mode.trans = t := rfl

theorem State.trans_enterMode (s : State) (m : Nat) : (s.enterMode m).mode.trans = none := rfl

theorem State.cur_enterMode (s : State) {m : Nat} (hm : m ≤ 4) : (s.enterMode m).cur = m := by
  simp (disch := decide) only [State.cur_get, State.regs_enterMode, regGet_set_ne, regGet_set_same]
  exact Nat.mod_eq_of_lt (Nat.lt_of_le_of_lt hm (by decide))

theorem State.settled_enterMode (s : State) (m : Nat) : (s.enterMode m).rd SYS_MODE.IN_TRANSITION = 0 := by
  rw [State.rd_get, State.regs_enterMode, regGet_set_same]
  rfl

theorem State.flag_enterMode (s : State) (m : Nat) (f : Fld) (i j : Nat)
    (h : (f.placed && (f.spot != SYS_MODE.CURRENT.spot) && (f.spot != SYS_MODE.IN_TRANSITION.spot)) = true) :
    (s.enterMode m).flag f i j = s.flag f i j := by
  simp only [Bool.and_eq_true, bne_iff_ne] at h
  simp only [State.flag, State.rd_get, State.regs_enterMode]
  rw [regGet_set_ne _ _ _ _ _ _ _ _ (by simp [h, show SYS_MODE.IN_TRANSITION.placed = true by decide]),
    regGet_set_ne _ _ _ _ _ _ _ _ (by simp [h, show SYS_MODE.CURRENT.placed = true by decide])]

/-! ### PARK entered -/

/-- What PARK_WARM is, as far as SYS_MODE, the clocks and the pins show it (01 R17, 16 R410). -/
structure State.InParkWarm (t : State) : Prop where
  mode : t.cur = mWarm
  settled : t.rd SYS_MODE.IN_TRANSITION = 0
  noTrans : t.mode.trans = none
  wakeSrc : t.rd SYS_MODE.WAKE_SRC = 0
  parkClk : t.rd TB_STAT.PARK_CLK = 1
  faultLow : t.rd SAF_CTL.FAULT_N_LOW = 1
  selfRefresh : t.mode.selfRefresh = true
  mainEn : t.mode.mainEn = false
  stopped : t.fw.running = false

/-- What PARK_COLD is (01 R17, 16 R404): memory and keys lost, every rail but the always-on ones down. -/
structure State.InParkCold (t : State) : Prop where
  mode : t.cur = mCold
  settled : t.rd SYS_MODE.IN_TRANSITION = 0
  parkClk : t.rd TB_STAT.PARK_CLK = 1
  memory : t.mem = MemState.cold
  pmicEn : t.mode.pmicEn = false
  mainEn : t.mode.mainEn = false

/-- Driving FAULT_N low writes no register and no state of the mode machine. -/
theorem State.faultLow_regs (s : State) : s.faultLow.regs = s.regs := by
  unfold State.faultLow
  split <;> rfl

theorem State.faultLow_mode (s : State) : s.faultLow.mode = s.mode := by
  unfold State.faultLow
  split <;> rfl

/-- The park sequence writes these last, so nothing that it does to fields, units and domains before bears on them. -/
theorem State.parkDown_inParkWarm (s : State) (rs : List Resident) : (s.parkDown rs).InParkWarm := by
  unfold State.parkDown
  generalize (List.finRange 17).foldl (fun s f => s.freeField f) s = s1
  dsimp only
  generalize State.each _ 24 _ = s2
  constructor <;>
    simp (disch := decide) only [State.cur_get, State.rd_get, State.joinDomains_frame, State.regs_wr, State.regs_enterMode,
      State.faultLow_regs, regGet_set_same, regGet_set_ne, State.faultLow_mode, State.wr_frame, State.trans_enterMode]
  all_goals rfl

theorem State.parkCold_inParkCold (s : State) : s.parkCold.InParkCold := by
  unfold State.parkCold
  constructor <;>
    simp (disch := decide) only [State.cur_get, State.rd_get, State.joinDomains_frame, State.regs_wr, regGet_set_same, regGet_set_ne,
      State.wr_frame]
  all_goals rfl

/-- PARK_COLD keeps the flash, which stands outside the device, and the time that has elapsed. -/
theorem State.parkCold_keeps (s : State) : s.parkCold.fw.flash = s.fw.flash ∧ s.parkCold.time.acc = s.time.acc := ⟨rfl, rfl⟩

/-! ### Requests (01 R15, R23) -/

/-- A sleep permission is the safety island's, and no register holds it. -/
theorem State.maySleep_wr (s : State) (f : Fld) (v i j : Nat) : (s.wr f v i j).maySleep = s.maySleep := by
  unfold State.maySleep State.vehicleNs
  rw [State.ns_congr (State.wr_frame s f v i j).1]
  rfl

theorem State.cur_wr (s : State) (f : Fld) (v i j : Nat) (h : (f.placed && (SYS_MODE.CURRENT.spot != f.spot)) = true) :
    (s.wr f v i j).cur = s.cur := by
  simp only [Bool.and_eq_true, bne_iff_ne] at h
  exact State.rd_wr_ne s f SYS_MODE.CURRENT v i j 0 0 h.1 (by decide) h.2

theorem State.flag_wr_ne (s : State) (f g : Fld) (v i j i' j' : Nat)
    (h : (f.placed && g.placed && (g.spot != f.spot)) = true) : (s.wr f v i j).flag g i' j' = s.flag g i' j' := by
  simp only [Bool.and_eq_true, bne_iff_ne] at h
  simp only [State.flag, State.rd_wr_ne s f g v i j i' j' h.1.1 h.1.2 h.2]

/-- Outside PARK a request is recorded; the mode, the transition, the safe state and the permissions that decide it are those
before it. -/
theorem State.requestMode_outsidePark {s : State} {m : Nat} (hp : s.outsidePark = true) (hm : m ≠ 0) :
    s.requestMode m =
      if s.mode.trans.isSome || s.flag SAF_CTL.SAFE_STATE then (s.wr SYS_MODE.REQUEST m).refuseMode
      else if s.cur = mDrive ∧ (m = mWarm ∨ m = mCold) then
        if s.maySleep then (s.wr SYS_MODE.REQUEST m).parkNow (m == mCold) else (s.wr SYS_MODE.REQUEST m).refuseMode
      else if s.cur = mDrive ∧ m = mDepot then
        if s.maySleep && s.flag SYS_CFG.DEPOT_EN && s.flag SYS_MODE.DEPOT_AUTH && s.flag SYS_MODE.COOLANT then
          (s.wr SYS_MODE.REQUEST m).depotEnter
        else (s.wr SYS_MODE.REQUEST m).refuseMode
      else if s.cur = mDepot ∧ (m = mWarm ∨ m = mCold) then (s.wr SYS_MODE.REQUEST m).depotPark (m == mCold)
      else (s.wr SYS_MODE.REQUEST m).refuseMode := by
  unfold State.requestMode
  simp (disch := decide) only [hp, hm, Bool.not_true, Bool.false_eq_true, if_false, State.wr_frame, State.cur_wr,
    State.maySleep_wr, State.flag_wr_ne]

theorem State.requestMode_inPark {s : State} (m : Nat) (hp : s.outsidePark = false) : s.requestMode m = s := by
  simp only [State.requestMode, hp, Bool.not_false, if_true]

theorem State.requestBy_of_fwHyp {s : State} {src : Source} (m : Nat) (h : (s.who src).fwHyp = true) :
    s.requestBy src m = s.requestMode m := State.asWho_pos s src _ _ _ h

theorem State.requestBy_of_not_fwHyp {s : State} {src : Source} (m : Nat) (h : (s.who src).fwHyp = false) :
    s.requestBy src m = s.denied (s.who src) RegName.sysMode.addr := State.asWho_neg s src _ _ _ h

theorem outsidePark_of_cur {s : State} {m : Nat} (h : s.cur = m) (hm : (m != mWarm && m != mCold) = true) :
    s.outsidePark = true := by
  rw [State.outsidePark, h, hm]

/-- A request refused outside PARK, whatever keeps it from a move. -/
theorem State.requestMode_refused {s : State} {m : Nat} (hp : s.outsidePark = true) (hm : m ≠ 0)
    (h : s.mode.trans.isSome = true ∨ s.flag SAF_CTL.SAFE_STATE = true ∨ (s.cur ≠ mDrive ∧ s.cur ≠ mDepot) ∨
      (s.cur = mDrive ∧ s.maySleep = false)) :
    s.requestMode m = (s.wr SYS_MODE.REQUEST m).inc SYS_MODE.REFUSED := by
  rw [State.requestMode_outsidePark hp hm]
  rcases h with h | h | ⟨h, h'⟩ | ⟨h, h'⟩
  · simp [h, State.refuseMode]
  · simp [h, State.refuseMode]
  · simp [h, h', State.refuseMode]
  · simp [h, h', State.refuseMode, mDrive, mDepot]

/-- DEPOT refused in DEPOT, and in DRIVE without its permissions. -/
theorem State.requestMode_depot_refused {s : State}
    (h : s.cur = mDepot ∨ (s.cur = mDrive ∧
      (s.flag SYS_CFG.DEPOT_EN && s.flag SYS_MODE.DEPOT_AUTH && s.flag SYS_MODE.COOLANT) = false)) :
    s.requestMode 4 = (s.wr SYS_MODE.REQUEST 4).inc SYS_MODE.REFUSED := by
  rcases h with h | ⟨h, hperm⟩
  · rw [State.requestMode_outsidePark (outsidePark_of_cur h rfl) (by decide)]
    simp [h, State.refuseMode, mDrive, mDepot, mWarm, mCold]
  · rw [State.requestMode_outsidePark (outsidePark_of_cur h rfl) (by decide)]
    rw [Bool.and_assoc] at hperm
    simp [h, Bool.and_assoc, hperm, State.refuseMode, mDrive, mDepot, mWarm, mCold]

theorem State.requestMode_parkNow {s : State} (m : Nat) (hcur : s.cur = mDrive) (ht : s.mode.trans = none)
    (hsafe : s.flag SAF_CTL.SAFE_STATE = false) (hsleep : s.maySleep = true) (hm : m = mWarm ∨ m = mCold) :
    s.requestMode m = (s.wr SYS_MODE.REQUEST m).parkNow (m == mCold) := by
  have hm0 : m ≠ 0 := by rcases hm with rfl | rfl <;> decide
  rw [State.requestMode_outsidePark (outsidePark_of_cur hcur rfl) hm0]
  simp [ht, hsafe, hsleep, hcur, hm]

theorem State.requestMode_depotPark {s : State} (m : Nat) (hcur : s.cur = mDepot) (ht : s.mode.trans = none)
    (hsafe : s.flag SAF_CTL.SAFE_STATE = false) (hm : m = mWarm ∨ m = mCold) :
    s.requestMode m = (s.wr SYS_MODE.REQUEST m).depotPark (m == mCold) := by
  have hm0 : m ≠ 0 := by rcases hm with rfl | rfl <;> decide
  have hne : mDepot ≠ mDrive := by decide
  rw [State.requestMode_outsidePark (outsidePark_of_cur hcur rfl) hm0]
  simp [ht, hsafe, hcur, hm, hne]

theorem State.requestMode_depotEnter {s : State} (hcur : s.cur = mDrive) (ht : s.mode.trans = none)
    (hsafe : s.flag SAF_CTL.SAFE_STATE = false) (hsleep : s.maySleep = true) (hen : s.flag SYS_CFG.DEPOT_EN = true)
    (hauth : s.flag SYS_MODE.DEPOT_AUTH = true) (hcool : s.flag SYS_MODE.COOLANT = true) :
    s.requestMode 4 = (s.wr SYS_MODE.REQUEST 4).depotEnter := by
  rw [State.requestMode_outsidePark (outsidePark_of_cur hcur rfl) (by decide)]
  simp [ht, hsafe, hsleep, hcur, hen, hauth, hcool, mWarm, mCold, mDepot]

/-- What the three request commands come to: 2 asks for PARK_WARM, 3 for PARK_COLD, 4 for DEPOT. -/
theorem exec_modeRequests (s : State) (src : Source) :
    exec (.modeRequestParkWarm src) s = .next (s.requestBy src 2) ∧ exec (.modeRequestParkCold src) s = .next (s.requestBy src 3) ∧
      exec (.modeRequestDepot src) s = .next (s.requestBy src 4) := ⟨rfl, rfl, rfl⟩

theorem State.parkNow_warm (s : State) : (s.parkNow false).InParkWarm := State.parkDown_inParkWarm _ _

theorem State.parkNow_cold (s : State) : (s.parkNow true).InParkCold := State.parkCold_inParkCold _

/-! ### The end of a clock change, and the entry into DEPOT (01 R16, 16 R402) -/

theorem exec_clockChangeDone_idle {s : State} (h : s.mode.clockTo = none ∨ s.mode.avsWait = true) :
    exec .clockChangeDone s = .next s := by
  show execClockChangeDone s = .next s
  unfold execClockChangeDone
  rcases h with h | h
  · rw [h]
  · cases s.mode.clockTo <;> simp [h]

/-- The state once a decided clock is in force. -/
def State.clockInForce (s : State) (mhz : Nat) : State := { s with mode := { s.mode with clockMhz := mhz, clockTo := none } }

/-- A decided clock that waits for no voltage comes into force; it ends the entry into DEPOT where that waits for 1.32 GHz. -/
theorem exec_clockChangeDone {s : State} {mhz : Nat} (hto : s.mode.clockTo = some mhz) (havs : s.mode.avsWait = false) :
    exec .clockChangeDone s = .next (if s.mode.trans = some .depot ∧ mhz = 1320 then (s.clockInForce mhz).depotIn
      else s.clockInForce mhz) := by
  show execClockChangeDone s = _
  simp only [execClockChangeDone, hto, havs, Bool.false_eq_true, if_false, State.clockInForce]

theorem State.depotEntered_facts (s : State) :
    let t := (s.enterMode mDepot).wr SYS_MODE.WAKE_SRC 0
    t.cur = mDepot ∧ t.rd SYS_MODE.IN_TRANSITION = 0 ∧ t.rd SYS_MODE.WAKE_SRC = 0 := by
  refine ⟨?_, ?_, State.rd_wr_same _ _ _ _ _⟩
  · rw [State.cur_wr _ _ _ _ _ (by decide), State.cur_enterMode s (by decide)]
  · rw [State.rd_wr_ne _ _ _ _ _ _ _ _ (by decide) (by decide) (by decide), State.settled_enterMode]

/-- DEPOT entered: the authorisation and the coolant that decide whether it stays are those before the entry. -/
theorem State.depotIn_eq (s : State) :
    s.depotIn = if s.flag SYS_MODE.DEPOT_AUTH && s.flag SYS_MODE.COOLANT then (s.enterMode mDepot).wr SYS_MODE.WAKE_SRC 0
      else ((s.enterMode mDepot).wr SYS_MODE.WAKE_SRC 0).depotPark false := by
  unfold State.depotIn
  simp (disch := decide) only [State.flag_wr_ne, State.flag_enterMode]

theorem State.depotIn_stays (s : State) (hauth : s.flag SYS_MODE.DEPOT_AUTH = true) (hcool : s.flag SYS_MODE.COOLANT = true) :
    s.depotIn = (s.enterMode mDepot).wr SYS_MODE.WAKE_SRC 0 := by
  rw [State.depotIn_eq]
  exact if_pos (by rw [hauth, hcool]; rfl)

theorem State.depotIn_leaves (s : State) (h : (s.flag SYS_MODE.DEPOT_AUTH && s.flag SYS_MODE.COOLANT) = false) :
    s.depotIn = ((s.enterMode mDepot).wr SYS_MODE.WAKE_SRC 0).depotPark false := by
  rw [State.depotIn_eq]
  exact if_neg (by rw [h]; decide)

/-! ### Timers and wakes (01 R24, 16 R411, R412) -/

theorem timer_due_iff {o : Option Nat} {now : Nat} :
    o.any (fun w => decide (w ≤ now)) = true ↔ ∃ w, o = some w ∧ w ≤ now := by
  cases o <;> simp

theorem exec_parkWarmTimerExpiry (s : State) : exec .parkWarmTimerExpiry s =
    .next (if s.cur = mWarm ∧ s.mode.trans = none ∧ ∃ w, s.mode.warmTimer = some w ∧ w ≤ s.localNs then s.parkCold else s) := by
  show execParkWarmTimerExpiry s = _
  simp only [execParkWarmTimerExpiry, timer_due_iff, Option.isNone_iff_eq_none]
  exact (apply_ite Host.Outcome.next _ _ _).symm

theorem exec_alwaysOnTimerExpiry (s : State) : exec .alwaysOnTimerExpiry s =
    .next (if s.cur = mCold ∧ s.mode.trans = none ∧ ∃ w, s.mode.coldTimer = some w ∧ w ≤ s.localNs then s.coldWake true else s) := by
  show execAlwaysOnTimerExpiry s = _
  simp only [execAlwaysOnTimerExpiry, timer_due_iff, Option.isNone_iff_eq_none]
  exact (apply_ite Host.Outcome.next _ _ _).symm

/-- A park timer that has not run out, or that runs in another mode. -/
theorem timer_not_due {s : State} {m : Nat} {timer : Option Nat}
    (h : s.cur ≠ m ∨ s.mode.trans ≠ none ∨ ∀ w, timer = some w → s.localNs < w) :
    ¬(s.cur = m ∧ s.mode.trans = none ∧ ∃ w, timer = some w ∧ w ≤ s.localNs) := by
  rintro ⟨hcur, ht, w, hw, hle⟩
  rcases h with h | h | h
  · exact h hcur
  · exact h ht
  · exact Nat.not_lt.2 hle (h w hw)

/-- What the boot out of PARK_COLD begins with. -/
structure State.InColdBoot (s t : State) (park : Bool) : Prop where
  mode : t.cur = mBoot
  cause : t.rd SYS_RST.LAST_CAUSE = 5
  moving : t.rd SYS_MODE.IN_TRANSITION = 1
  pllClk : t.rd TB_STAT.PARK_CLK = 0
  trans : t.mode.trans = some (.boot park)
  pmicEn : t.mode.pmicEn = true
  mainEn : t.mode.mainEn = true
  wakeSrc : t.rd SYS_MODE.WAKE_SRC = s.rd SYS_MODE.WAKE_SRC

theorem State.coldWake_inColdBoot (s : State) (park : Bool) : State.InColdBoot s (s.coldWake park) park := by
  unfold State.coldWake
  constructor <;>
    simp (disch := decide) only [State.cur_get, State.rd_get, State.regs_setTrans, State.regs_wr, regGet_set_same, regGet_set_ne,
      State.trans_setTrans]
  all_goals rfl

/-- The state once a wake event has recorded its source, where none is recorded yet. -/
def State.wakeRecorded (s : State) (src : Nat) : State :=
  if s.rd SYS_MODE.WAKE_SRC = 0 then s.wr SYS_MODE.WAKE_SRC src else s

theorem State.wakeRecorded_mode (s : State) (src : Nat) : (s.wakeRecorded src).mode = s.mode := by
  unfold State.wakeRecorded
  split <;> rfl

theorem State.cur_wakeRecorded (s : State) (src : Nat) : (s.wakeRecorded src).cur = s.cur := by
  unfold State.wakeRecorded
  split
  · exact State.cur_wr s _ _ _ _ (by decide)
  · rfl

theorem State.rd_wakeRecorded (s : State) {src : Nat} (h : src < 8) :
    (s.wakeRecorded src).rd SYS_MODE.WAKE_SRC = if s.rd SYS_MODE.WAKE_SRC = 0 then src else s.rd SYS_MODE.WAKE_SRC := by
  unfold State.wakeRecorded
  split
  · rw [State.rd_wr_same]
    exact Nat.mod_eq_of_lt h
  · rfl

/-- A wake, once its source is recorded: it turns the end of a boot into DRIVE, changes nothing on the way to DRIVE, begins the
move there from DEPOT or on the way into it or out of it to PARK, and wakes a parked device. -/
theorem State.wake_eq (s : State) (src : Nat) : s.wake src =
    match (s.wakeRecorded src).mode.trans with
    | some (.boot _) => { s.wakeRecorded src with mode := { (s.wakeRecorded src).mode with trans := some (.boot false) } }
    | some .depotDrive => s.wakeRecorded src
    | some _ => (s.wakeRecorded src).depotWake
    | none =>
      if (s.wakeRecorded src).cur = mWarm then (s.wakeRecorded src).warmWake
      else if (s.wakeRecorded src).cur = mCold then (s.wakeRecorded src).coldWake false
      else if (s.wakeRecorded src).cur = mDepot then (s.wakeRecorded src).depotWake
      else s.wakeRecorded src := rfl

theorem State.wake_boot {s : State} {park : Bool} (src : Nat) (ht : s.mode.trans = some (.boot park))
    (hsrc : s.rd SYS_MODE.WAKE_SRC ≠ 0) :
    s.wake src = { s with mode := { s.mode with trans := some (.boot false) } } := by
  have hrec : s.wakeRecorded src = s := if_neg hsrc
  rw [State.wake_eq, hrec, ht]

theorem State.wake_warm {s : State} (src : Nat) (ht : s.mode.trans = none) (hcur : s.cur = mWarm) :
    s.wake src = (s.wakeRecorded src).warmWake := by
  rw [State.wake_eq, State.wakeRecorded_mode, ht, State.cur_wakeRecorded]
  exact if_pos hcur

theorem State.wake_cold {s : State} (src : Nat) (ht : s.mode.trans = none) (hcur : s.cur = mCold) :
    s.wake src = (s.wakeRecorded src).coldWake false := by
  rw [State.wake_eq, State.wakeRecorded_mode, ht, State.cur_wakeRecorded, hcur]
  exact (if_neg (by decide)).trans (if_pos rfl)

theorem State.wake_depot {s : State} (src : Nat)
    (h : (s.mode.trans = none ∧ s.cur = mDepot) ∨ s.mode.trans = some .depot ∨ ∃ c, s.mode.trans = some (.depotPark c)) :
    s.wake src = (s.wakeRecorded src).depotWake := by
  rw [State.wake_eq, State.wakeRecorded_mode, State.cur_wakeRecorded]
  rcases h with ⟨ht, hcur⟩ | ht | ⟨c, ht⟩
  · rw [ht, hcur]
    exact (if_neg (by decide)).trans ((if_neg (by decide)).trans (if_pos rfl))
  · rw [ht]
  · rw [ht]

theorem State.wake_driving {s : State} (src : Nat)
    (h : s.mode.trans = some .depotDrive ∨ (s.mode.trans = none ∧ s.cur = mDrive)) : s.wake src = s.wakeRecorded src := by
  rw [State.wake_eq, State.wakeRecorded_mode, State.cur_wakeRecorded]
  rcases h with ht | ⟨ht, hcur⟩
  · rw [ht]
  · rw [ht, hcur]
    exact (if_neg (by decide)).trans ((if_neg (by decide)).trans (if_neg (by decide)))

/-- What the wake pins' commands come to: source 1 is a CAN transceiver's, 2 a TC10 wake. -/
theorem exec_wakes {s : State} {f : Nat → State} (h : ∀ src, s.wake src = f src) :
    exec .canWake s = .next (f 1) ∧ exec .ethWake s = .next (f 2) :=
  ⟨congrArg Host.Outcome.next (h 1), congrArg Host.Outcome.next (h 2)⟩

/-- A wake in PARK_COLD starts the boot that ends in DRIVE. -/
theorem State.wake_cold_facts {s : State} {src : Nat} (hsrc : src < 8) (ht : s.mode.trans = none) (hcur : s.cur = mCold) :
    (s.wake src).cur = mBoot ∧ (s.wake src).rd SYS_RST.LAST_CAUSE = 5 ∧ (s.wake src).mode.trans = some (.boot false) ∧
      (s.wake src).rd SYS_MODE.WAKE_SRC = if s.rd SYS_MODE.WAKE_SRC = 0 then src else s.rd SYS_MODE.WAKE_SRC := by
  rw [State.wake_cold src ht hcur]
  have b := State.coldWake_inColdBoot (s.wakeRecorded src) false
  exact ⟨b.mode, b.cause, b.trans, b.wakeSrc.trans (State.rd_wakeRecorded s hsrc)⟩

/-! ### The boot's end, and the deadlines of a move out of DEPOT (01 R14, R20, 16 R412) -/

theorem exec_bootComplete {s : State} {park : Bool} (ht : s.mode.trans = some (.boot park)) (hrun : s.fw.running = true) :
    exec .bootComplete s =
      .next (if park then (s.firmwareBoot.enterMode mDrive).parkDown [] else s.firmwareBoot.enterMode mDrive) := by
  show execBootComplete s = _
  simp only [execBootComplete, ht, hrun, Bool.not_true, Bool.false_eq_true, if_false]

theorem exec_bootComplete_idle {s : State} (h : s.fw.running = false ∨ ∀ park, s.mode.trans ≠ some (.boot park)) :
    exec .bootComplete s = .next s := by
  show execBootComplete s = _
  unfold execBootComplete
  split
  next park ht =>
    rcases h with h | h
    · rw [h]
      rfl
    · exact absurd ht (h park)
  next => rfl

/-- A tenant that is neither frozen nor being reset yet. -/
def State.lateTenant (s : State) (v : Nat) : Bool :=
  s.flag VEF_CTL.TENANT v && (s.rd VEF_CTL.STATE v == vActive || s.rd VEF_CTL.STATE v == vFreezing)

theorem exec_backstop (s : State) : exec .backstop s =
    if s.leavingFor 500000000 && (List.range 128).any s.lateTenant then
      .next ((s.each 128 (fun v u => if s.lateTenant v then u.resetVef v else u)).wr SYS_MODE.BACKSTOP 1)
    else .next s := rfl

theorem State.any_lateTenant (s : State) :
    (List.range 128).any s.lateTenant = true ↔ ∃ v, v < 128 ∧ s.lateTenant v = true := by
  simp only [List.any_eq_true, List.mem_range]

end Sys2Proof.Machine
end

section
/-! The statements of chapter 1 about the mode machine, each from the laws above, and devices that meet their premises. -/

namespace Sys2Proof.Machine

/-- Settles O10: firmware's and the hypervisor's requests reach the mode machine, which refuses them in each of these cases; any
other requester's access is denied. -/
theorem modeRequestsRefused : Obligations.ModeRequestsRefused := by
  unfold Obligations.ModeRequestsRefused
  intro src s
  obtain ⟨hwarm, hcold, hdepot⟩ := exec_modeRequests s src
  rw [hwarm, hcold, hdepot]
  refine ⟨fun hw hp h => ?blocked, fun hw h => ?depot, fun hw hp => ?parked, fun hw => ?other⟩
  case blocked =>
    have refused (m : Nat) (hm : m ≠ 0) := (State.requestBy_of_fwHyp m hw).trans (State.requestMode_refused hp hm h)
    rw [refused 2 (by decide), refused 3 (by decide), refused 4 (by decide)]
    exact ⟨rfl, rfl, rfl⟩
  case depot => rw [State.requestBy_of_fwHyp 4 hw, State.requestMode_depot_refused h]
  case parked =>
    have same (m : Nat) := (State.requestBy_of_fwHyp m hw).trans (State.requestMode_inPark m hp)
    rw [same, same, same]
    exact ⟨rfl, rfl, rfl⟩
  case other =>
    have denied (m : Nat) := State.requestBy_of_not_fwHyp m hw
    rw [denied, denied, denied]
    exact ⟨rfl, rfl, rfl⟩

/-- Settles O11: the request is accepted; from DRIVE the park sequence ends in PARK_WARM or goes on to PARK_COLD, from DEPOT the
move out of it begins. -/
theorem parkRequestsAccepted : Obligations.ParkRequestsAccepted := by
  unfold Obligations.ParkRequestsAccepted
  intro src s hw ht hsafe
  obtain ⟨hwarm, hcold, -⟩ := exec_modeRequests s src
  rw [hwarm, hcold, State.requestBy_of_fwHyp 2 hw, State.requestBy_of_fwHyp 3 hw]
  refine ⟨fun hcur hsleep => ⟨?warm, ?cold⟩, fun hcur => ?depot⟩
  case warm =>
    rw [State.requestMode_parkNow 2 hcur ht hsafe hsleep (.inl rfl)]
    have p := State.parkNow_warm (s.wr SYS_MODE.REQUEST 2)
    exact ⟨_, rfl, p.mode, p.settled, p.wakeSrc, p.parkClk, p.faultLow, p.selfRefresh, p.mainEn, p.stopped⟩
  case cold =>
    rw [State.requestMode_parkNow 3 hcur ht hsafe hsleep (.inr rfl)]
    have p := State.parkNow_cold (s.wr SYS_MODE.REQUEST 3)
    exact ⟨_, rfl, p.mode, p.settled, p.parkClk, p.memory, p.pmicEn, p.mainEn⟩
  case depot =>
    rw [State.requestMode_depotPark 2 hcur ht hsafe (.inl rfl), State.requestMode_depotPark 3 hcur ht hsafe (.inr rfl)]
    exact ⟨rfl, rfl⟩

/-- Settles O12: the request passes every condition of R15, and the clock's change decides between the entry, the way out again
(log entry 43: an authorisation or coolant lost during the entry parks the device at its end) and nothing but the clock. -/
theorem depotEntryAndExit : Obligations.DepotEntryAndExit := by
  unfold Obligations.DepotEntryAndExit
  refine ⟨fun src s hw hcur ht hsafe hsleep hen hauth hcool => ?request, fun s hto havs ht hauth hcool => ?entered,
    fun s hto havs ht hlost => ?left, fun s mhz hto havs hother => ?plain, fun s h => exec_clockChangeDone_idle h,
    fun s havs => ?avs⟩
  case request =>
    rw [(exec_modeRequests s src).2.2, State.requestBy_of_fwHyp 4 hw,
      State.requestMode_depotEnter hcur ht hsafe hsleep hen hauth hcool]
  case entered =>
    rw [exec_clockChangeDone hto havs, if_pos ⟨ht, rfl⟩, State.depotIn_stays (s.clockInForce 1320) hauth hcool]
    obtain ⟨mode, settled, wakeSrc⟩ := State.depotEntered_facts (s.clockInForce 1320)
    exact ⟨_, rfl, mode, settled, wakeSrc, rfl, rfl, rfl, rfl⟩
  case left =>
    rw [exec_clockChangeDone hto havs, if_pos ⟨ht, rfl⟩, State.depotIn_leaves (s.clockInForce 1320) hlost]
    rfl
  case plain =>
    have hno : ¬(s.mode.trans = some .depot ∧ mhz = 1320) := fun ⟨ht, hm⟩ => hother.elim (fun h => h ht) (fun h => h hm)
    rw [exec_clockChangeDone hto havs, if_neg hno]
    rfl
  case avs =>
    show execAvsAck s = _
    simp only [execAvsAck, havs, if_true]

/-- Settles O13: a timer's command asks whether the timer has run out in its mode, and a wake first records its source and then
goes by the transition in progress, else by the mode in force. -/
theorem parkTimersAndWakes : Obligations.ParkTimersAndWakes := by
  unfold Obligations.ParkTimersAndWakes
  refine ⟨fun s w hcur ht hw hle => ?warmTimer, fun s w hcur ht hw hle => ?coldTimer, fun s hcur ht => ?coldWake,
    fun s park ht hsrc => ?bootWake, fun s => ⟨fun ht hcur => ?warmWake, fun h => ?depotWake, fun h => ?driving⟩,
    fun s h => ?warmIdle, fun s h => ?coldIdle⟩
  case warmTimer =>
    rw [exec_parkWarmTimerExpiry, if_pos ⟨hcur, ht, w, hw, hle⟩]
    have p := State.parkCold_inParkCold s
    obtain ⟨flash, time⟩ := State.parkCold_keeps s
    exact ⟨_, rfl, p.mode, p.parkClk, p.memory, p.pmicEn, flash, time⟩
  case coldTimer =>
    rw [exec_alwaysOnTimerExpiry, if_pos ⟨hcur, ht, w, hw, hle⟩]
    have b := State.coldWake_inColdBoot s true
    exact ⟨_, rfl, b.mode, b.cause, b.moving, b.pllClk, b.trans, b.pmicEn, b.mainEn, b.wakeSrc⟩
  case coldWake =>
    exact ⟨⟨_, rfl, State.wake_cold_facts (by decide) ht hcur⟩, _, rfl, State.wake_cold_facts (by decide) ht hcur⟩
  case bootWake => exact (exec_wakes (fun src => State.wake_boot src ht hsrc) :)
  case warmWake => exact (exec_wakes (fun src => State.wake_warm src ht hcur) :)
  case depotWake => exact (exec_wakes (fun src => State.wake_depot src h) :)
  case driving => exact (exec_wakes (fun src => State.wake_driving src h) :)
  case warmIdle => rw [exec_parkWarmTimerExpiry, if_neg (timer_not_due h)]
  case coldIdle => rw [exec_alwaysOnTimerExpiry, if_neg (timer_not_due h)]

/-- Settles O14: the boot in PARK passes through DRIVE (log entry 23), and a move out of DEPOT to PARK meets the deadlines of R20
like one to DRIVE (log entry 41). -/
theorem bootAndBackstop : Obligations.BootAndBackstop := by
  unfold Obligations.BootAndBackstop
  refine ⟨fun s park ht hrun => ?booted, fun s h => exec_bootComplete_idle h, fun s => ?killed,
    fun s => ⟨fun hlong hlate => ?reset, fun h => ?early⟩⟩
  case booted =>
    refine ⟨exec_bootComplete ht hrun, ?_⟩
    cases park with
    | true =>
      have p := State.parkDown_inParkWarm (s.firmwareBoot.enterMode mDrive) []
      exact ⟨p.mode, p.settled, p.noTrans, fun _ => ⟨p.selfRefresh, p.mainEn, p.stopped, p.faultLow, p.parkClk⟩⟩
    | false =>
      exact ⟨State.cur_enterMode _ (by decide), State.settled_enterMode _ _, rfl, fun h => absurd h (by decide)⟩
  case killed =>
    show execTenantFreezeKillDeadline s = _
    unfold execTenantFreezeKillDeadline
    cases s.fwOut 2 <;> cases s.leavingFor 450000000 <;> rfl
  case reset =>
    have hany := s.any_lateTenant.2 hlate
    refine ⟨_, ?_, rfl, State.rd_wr_same _ _ _ _ _⟩
    rw [exec_backstop, hlong, hany]
    rfl
  case early =>
    rw [exec_backstop]
    refine if_neg fun hboth => ?_
    obtain ⟨hlong, hany⟩ := Bool.and_eq_true_iff.1 hboth
    obtain ⟨v, hv, hlate⟩ := s.any_lateTenant.1 hany
    rcases h with h | h
    · exact Bool.false_ne_true (h.symm.trans hlong)
    · exact Bool.false_ne_true ((h v hv).symm.trans hlate)

/-! ### Devices that meet the premises -/

/-- A device in a mode, out of transition, with a sleep permission received at time zero, and depot mode enabled, authorised and
cooled. -/
def depotReady (mode : Nat) : State :=
  { ((((State.reset.wr SYS_MODE.CURRENT mode).wr SYS_CFG.DEPOT_EN 1).wr SYS_MODE.DEPOT_AUTH 1).wr SYS_MODE.COOLANT 1) with
    saf := { SafSt.cold with sleepAt := some 0 }, mode := { ModeSt.cold with trans := none } }

/-- The reset state has its boot in progress. -/
theorem witness_refused_transition : exec (.modeRequestDepot .mgmt) State.reset =
    .next ((State.reset.wr SYS_MODE.REQUEST 4).inc SYS_MODE.REFUSED) :=
  ((modeRequestsRefused .mgmt State.reset).1 (by decide +kernel) (by decide +kernel) (by decide +kernel)).2.2

theorem witness_refused_safe : exec (.modeRequestDepot .mgmt) ((depotReady mDrive).wr SAF_CTL.SAFE_STATE 1) =
    .next ((((depotReady mDrive).wr SAF_CTL.SAFE_STATE 1).wr SYS_MODE.REQUEST 4).inc SYS_MODE.REFUSED) :=
  ((modeRequestsRefused .mgmt _).1 (by decide +kernel) (by decide +kernel) (by decide +kernel)).2.2

theorem witness_refused_depot : exec (.modeRequestDepot .mgmt) (depotReady mDepot) =
    .next (((depotReady mDepot).wr SYS_MODE.REQUEST 4).inc SYS_MODE.REFUSED) :=
  (modeRequestsRefused .mgmt _).2.1 (by decide +kernel) (by decide +kernel)

theorem witness_depotPark : exec (.modeRequestParkCold .mgmt) (depotReady mDepot) =
    .next (((depotReady mDepot).wr SYS_MODE.REQUEST 3).depotPark true) :=
  ((parkRequestsAccepted .mgmt _ (by decide +kernel) rfl (by decide +kernel)).2 (by decide +kernel)).2

theorem witness_depotEnter : exec (.modeRequestDepot .mgmt) (depotReady mDrive) =
    .next ((depotReady mDrive).wr SYS_MODE.REQUEST 4).depotEnter :=
  depotEntryAndExit.1 .mgmt _ (by decide +kernel) (by decide +kernel) rfl (by decide +kernel) (by decide +kernel) (by decide +kernel)
    (by decide +kernel) (by decide +kernel)

/-- In a DEPOT entry that waits for 1.32 GHz, the end of the clock change enters DEPOT. -/
theorem witness_depotEntered :
    let s := { depotReady mDrive with mode := { ModeSt.cold with trans := some .depot, clockTo := some 1320 } }
    ∃ t, exec .clockChangeDone s = .next t ∧ t.cur = mDepot := by
  intro s
  obtain ⟨t, ht, hcur, -⟩ := depotEntryAndExit.2.1 s rfl rfl rfl (by decide +kernel) (by decide +kernel)
  exact ⟨t, ht, hcur⟩

end Sys2Proof.Machine
end

section
/-! Where a byte of HBM is stored (05 R113): a region unit keeps its number within every pseudo-channel, so the unit, with it the
region entry that holds it, and then the byte are read back from the place. -/

namespace Sys2Proof.Machine

/-- Quotient and remainder by a positive number say which sum they come from. -/
theorem mul_add_inj {g x y x' y' : Nat} (hy : y < g) (hy' : y' < g) (h : x * g + y = x' * g + y') : x = x' ∧ y = y' := by
  have hx : x = x' := by
    have := congrArg (· / g) h
    simpa [Nat.mul_comm _ g, Nat.mul_add_div (Nat.zero_lt_of_lt hy), Nat.div_eq_of_lt hy, Nat.div_eq_of_lt hy'] using this
  subst hx
  exact ⟨rfl, Nat.add_left_cancel h⟩

/-- A granule divides the 64 KiB that a region unit has in each of `n` pseudo-channels. -/
theorem granule_div_unit {g : Nat} (hg : 0 < g) (hd : g ∣ 65536) (o n : Nat) :
    (o / g / n * g + o % g) / 65536 = o / (n * 65536) := by
  obtain ⟨m, hm⟩ := hd
  have hq : (o / g / n * g + o % g) / g = o / g / n := by
    rw [Nat.mul_comm, Nat.mul_add_div hg, Nat.div_eq_of_lt (Nat.mod_lt o hg), Nat.add_zero]
  rw [hm, ← Nat.div_div_eq_div_mul, hq, Nat.div_div_eq_div_mul, Nat.div_div_eq_div_mul]
  rw [Nat.mul_left_comm]

/-- The first address of the region entry that holds an address, 0 outside every entry. -/
def State.baseOf (s : State) (a : Nat) : Nat :=
  match s.rgnOf a with
  | some r => s.rgnBase r
  | none => 0

/-- The granule that an address is interleaved by. -/
def State.granOf (s : State) (a : Nat) : Nat :=
  match s.rgnOf a with
  | some r => if s.flag MEM_RGN.GRAN r then 4096 else 256
  | none => 256

/-- Where a byte stands within its pseudo-channel. -/
def State.offsetOf (s : State) (a : Nat) : Nat :=
  s.baseOf a / s.pcs.length + ((a - s.baseOf a) / s.granOf a / s.pcs.length * s.granOf a + (a - s.baseOf a) % s.granOf a)

/-- The index of its pseudo-channel among those in service. -/
def State.channelOf (s : State) (a : Nat) : Nat := (a - s.baseOf a) / s.granOf a % s.pcs.length

theorem State.place_eq (s : State) (a : Nat) : s.place a = s.pcs.getD (s.channelOf a) 0 * pcBytes + s.offsetOf a := by
  unfold State.place State.offsetOf State.channelOf State.baseOf State.granOf
  cases s.rgnOf a <;> simp only [Nat.add_assoc]

theorem State.granOf_pos (s : State) (a : Nat) : 0 < s.granOf a := by
  unfold State.granOf
  split
  · split <;> decide
  · decide

theorem State.granOf_dvd (s : State) (a : Nat) : s.granOf a ∣ 65536 := by
  unfold State.granOf
  split
  · split
    · exact ⟨16, rfl⟩
    · exact ⟨256, rfl⟩
  · exact ⟨256, rfl⟩

/-- A region entry that holds an address begins at or below it, at a whole number of region units. -/
theorem State.baseOf_le (s : State) (a : Nat) : s.baseOf a ≤ a ∧ s.ru ∣ s.baseOf a := by
  unfold State.baseOf
  split
  next r hr =>
    have hin := List.find?_some hr
    simp only [Bool.and_eq_true, decide_eq_true_eq] at hin
    exact ⟨hin.1.2, Nat.dvd_mul_left _ _⟩
  next => exact ⟨Nat.zero_le a, Nat.dvd_zero _⟩

/-- Regions begin and end at whole units: addresses of one unit lie in the same entries. -/
theorem State.rgnOf_congr {s : State} {a b : Nat} (hn : 0 < s.pcs.length) (h : a / s.ru = b / s.ru) : s.rgnOf a = s.rgnOf b := by
  have hru : 0 < s.ru := Nat.mul_pos hn (by decide)
  unfold State.rgnOf State.rgnBase State.rgnEnd
  simp only [← Nat.le_div_iff_mul_le hru, ← Nat.div_lt_iff_lt_mul hru, h]

/-- The offset of a byte lies in the 64 KiB of its region unit. -/
theorem State.offsetOf_div (s : State) (a : Nat) (hn : 0 < s.pcs.length) : s.offsetOf a / 65536 = a / s.ru := by
  obtain ⟨hle, u, hu⟩ := s.baseOf_le a
  have hru : 0 < s.ru := Nat.mul_pos hn (by decide)
  have hb : s.baseOf a / s.pcs.length = 65536 * u := by
    rw [hu, State.ru, Nat.mul_assoc, Nat.mul_div_cancel_left _ hn]
  rw [State.offsetOf, hb, Nat.mul_add_div (by decide), granule_div_unit (s.granOf_pos a) (s.granOf_dvd a)]
  calc u + (a - s.baseOf a) / s.ru = (s.ru * u + (a - s.baseOf a)) / s.ru := (Nat.mul_add_div hru _ _).symm
    _ = a / s.ru := by rw [← hu, Nat.add_sub_cancel' hle]

/-- The usable capacity is 12,288 region units, and so is a pseudo-channel in units of 64 KiB. -/
theorem State.offsetOf_lt {s : State} {a : Nat} (h : s.inHbm a = true) : s.offsetOf a < pcBytes := by
  have hcap : a < s.ru * 12288 := by
    have hlt : a < s.pcs.length * pcBytes := of_decide_eq_true h
    rwa [State.ru, Nat.mul_assoc]
  have hn : 0 < s.pcs.length := Nat.pos_of_mul_pos_right (Nat.pos_of_mul_pos_right (Nat.zero_lt_of_lt hcap))
  have hdiv : s.offsetOf a / 65536 < 12288 := by
    rw [s.offsetOf_div a hn]
    exact Nat.div_lt_of_lt_mul hcap
  have hpc : pcBytes = 12288 * 65536 := by decide
  rw [hpc]
  exact (Nat.div_lt_iff_lt_mul (by decide)).1 hdiv

theorem State.pcs_nodup (s : State) : s.pcs.Nodup := List.nodup_range.filter _

/-- No two pseudo-channels in service have one number. -/
theorem State.pcs_getD_inj {s : State} {i j : Nat} (hi : i < s.pcs.length) (hj : j < s.pcs.length)
    (h : s.pcs.getD i 0 = s.pcs.getD j 0) : i = j := by
  simp only [List.getD_eq_getElem?_getD, List.getElem?_eq_getElem hi, List.getElem?_eq_getElem hj, Option.getD_some] at h
  exact (List.getElem_inj s.pcs_nodup).1 h

/-- No two addresses of the usable HBM are stored in one place. -/
theorem State.place_inj {s : State} {a b : Nat} (ha : s.inHbm a = true) (hb : s.inHbm b = true) (h : s.place a = s.place b) :
    a = b := by
  have hn : 0 < s.pcs.length := by
    have hlt : a < s.pcs.length * pcBytes := of_decide_eq_true ha
    exact Nat.pos_of_mul_pos_right (Nat.zero_lt_of_lt hlt)
  rw [s.place_eq, s.place_eq] at h
  obtain ⟨hpc, hoff⟩ := mul_add_inj (State.offsetOf_lt ha) (State.offsetOf_lt hb) h
  have hchan := State.pcs_getD_inj (Nat.mod_lt _ hn) (Nat.mod_lt _ hn) hpc
  have hunit : a / s.ru = b / s.ru := by rw [← s.offsetOf_div a hn, hoff, s.offsetOf_div b hn]
  have hrgn := State.rgnOf_congr hn hunit
  have hbase : s.baseOf b = s.baseOf a := by rw [State.baseOf, State.baseOf, hrgn]
  have hgran : s.granOf b = s.granOf a := by rw [State.granOf, State.granOf, hrgn]
  have hg := s.granOf_pos a
  rw [State.offsetOf, State.offsetOf, hbase, hgran] at hoff
  obtain ⟨hrow, hrest⟩ := mul_add_inj (Nat.mod_lt _ hg) (Nat.mod_lt _ hg) (Nat.add_left_cancel hoff)
  rw [hbase, hgran] at hchan
  have hquot : (a - s.baseOf a) / s.granOf a = (b - s.baseOf a) / s.granOf a := by
    rw [← Nat.div_add_mod ((a - s.baseOf a) / s.granOf a) s.pcs.length, hrow, hchan, Nat.div_add_mod]
  have hsub : a - s.baseOf a = b - s.baseOf a := by
    rw [← Nat.div_add_mod (a - s.baseOf a) (s.granOf a), hquot, hrest, Nat.div_add_mod]
  have hble : s.baseOf a ≤ b := hbase ▸ (s.baseOf_le b).1
  rw [← Nat.sub_add_cancel (s.baseOf_le a).1, hsub, Nat.sub_add_cancel hble]

/-! ### A byte written (05 R117, R118) -/

/-- A read past a write of bytes. -/
theorem Sparse.look_putBytes_ne (d e : Byte) (l : Sparse Byte) (bs : Bytes) (a n : Nat) (h : n < a ∨ a + bs.length ≤ n) :
    Sparse.look e (Sparse.putBytes d l a bs) n = Sparse.look e l n := by
  induction bs generalizing l a with
  | nil => rfl
  | cons b r ih =>
    rw [List.length_cons] at h
    rw [Sparse.putBytes, ih _ _ (by omega), Sparse.look_put_ne _ _ _ _ _ _ (by omega)]

/-- The state with other bytes of HBM and other tags of its lines. -/
def State.withLines (s : State) (hbm : List Host.Cell) (tags : Sparse LineTag) : State :=
  { s with mem := { s.mem with hbm := hbm, tags := tags } }

/-- Neither the bytes nor the tags bear on where a byte is stored and under which key. -/
theorem State.withLines_frame (s : State) (hbm : List Host.Cell) (tags : Sparse LineTag) (a : Nat) :
    (s.withLines hbm tags).inHbm a = s.inHbm a ∧ (s.withLines hbm tags).place a = s.place a ∧
      (s.withLines hbm tags).keyAt a = s.keyAt a ∧ (s.withLines hbm tags).markAt a = s.markAt a := ⟨rfl, rfl, rfl, rfl⟩

theorem State.withLines_mem (s : State) (hbm : List Host.Cell) (tags : Sparse LineTag) :
    (s.withLines hbm tags).mem.hbm = hbm ∧ (s.withLines hbm tags).mem.tags = tags := ⟨rfl, rfl⟩

/-- What a line's re-encryption or a byte written to it makes of the stored bytes and tags: the line of `a` stands under the key
and tweak in force, and every other line is as before. -/
structure State.LineOnly (s : State) (a : Nat) (hbm : List Host.Cell) (tags : Sparse LineTag) : Prop where
  tag : Sparse.look ⟨0, 0⟩ tags (s.place a / 64) = ⟨s.keyAt a, a / 64⟩
  otherTags : ∀ l, l ≠ s.place a / 64 → Sparse.look ⟨0, 0⟩ tags l = Sparse.look ⟨0, 0⟩ s.mem.tags l
  otherBytes : ∀ p, p / 64 ≠ s.place a / 64 → Sparse.look 0 hbm p = Sparse.look 0 s.mem.hbm p

theorem State.rekeyLine_eq (s : State) (a : Nat) :
    ∃ hbm tags, s.rekeyLine a = s.withLines hbm tags ∧ s.LineOnly a hbm tags := by
  by_cases h : (Sparse.look ⟨0, 0⟩ s.mem.tags (s.place a / 64)).key = s.keyAt a ∧
      (Sparse.look ⟨0, 0⟩ s.mem.tags (s.place a / 64)).line = a / 64
  · refine ⟨s.mem.hbm, s.mem.tags, if_pos h, ?_, fun _ _ => rfl, fun _ _ => rfl⟩
    rw [← h.1, ← h.2]
  · refine ⟨_, _, if_neg h, Sparse.look_put_same _ _ _ _, fun l hl => Sparse.look_put_ne _ _ _ _ _ _ hl, fun p hp => ?_⟩
    apply Sparse.look_putBytes_ne
    rw [State.memRead, List.length_map, List.length_range]
    omega

theorem State.putByte_eq {s : State} {a : Nat} (x : Byte) (hin : s.inHbm a = true) (hkey : s.keyAt a ≠ 0) :
    ∃ hbm tags, s.putByte a x = s.withLines hbm tags ∧ Sparse.look 0 hbm (s.place a) = x ∧ s.LineOnly a hbm tags := by
  obtain ⟨hbm, tags, heq, hline⟩ := s.rekeyLine_eq a
  refine ⟨Sparse.put 0 hbm (s.place a) x, tags, ?_, Sparse.look_put_same _ _ _ _, hline.tag, hline.otherTags, fun p hp => ?_⟩
  · have hif : s.putByte a x =
        (s.rekeyLine a).withLines (Sparse.put 0 (s.rekeyLine a).mem.hbm ((s.rekeyLine a).place a) x) (s.rekeyLine a).mem.tags :=
      if_pos (by simp [hin, hkey])
    rw [hif, heq]
    rfl
  · rw [Sparse.look_put_ne _ _ _ _ _ _ (fun he => hp (by rw [he]))]
    exact hline.otherBytes p hp

theorem State.putByte_not_taken {s : State} {a : Nat} (x : Byte) (h : s.inHbm a = false ∨ s.keyAt a = 0) : s.putByte a x = s :=
  if_neg (by rcases h with h | h <;> simp [h])

theorem State.byteAt_not_taken {s : State} {a : Nat} (h : s.inHbm a = false ∨ s.keyAt a = 0) : s.byteAt a = 0 :=
  if_neg (by rcases h with h | h <;> simp [h])

/-- A byte whose line stands under the key and tweak in force reads as stored. -/
theorem State.byteAt_of_tag {s : State} {a : Nat} (hin : s.inHbm a = true) (hkey : s.keyAt a ≠ 0)
    (htag : Sparse.look ⟨0, 0⟩ s.mem.tags (s.place a / 64) = ⟨s.keyAt a, a / 64⟩) :
    s.byteAt a = Sparse.look 0 s.mem.hbm (s.place a) := by
  simp [State.byteAt, hin, hkey, htag]

theorem State.byteAt_putByte_same {s : State} {a : Nat} (x : Byte) (hin : s.inHbm a = true) (hkey : s.keyAt a ≠ 0) :
    (s.putByte a x).byteAt a = x := by
  obtain ⟨hbm, tags, heq, hx, hline⟩ := State.putByte_eq x hin hkey
  rw [heq, State.byteAt_of_tag (s := s.withLines hbm tags) hin hkey hline.tag]
  exact hx

/-- A byte reads by its own line's data and tag, and by what selects its key. -/
theorem State.byteAt_putByte_other {s : State} {a b : Nat} (x : Byte) (hin : s.inHbm a = true) (hkey : s.keyAt a ≠ 0)
    (h : s.place b / 64 ≠ s.place a / 64) : (s.putByte a x).byteAt b = s.byteAt b := by
  obtain ⟨hbm, tags, heq, -, hline⟩ := State.putByte_eq x hin hkey
  simp only [heq, State.byteAt, State.withLines_frame, State.withLines_mem, hline.otherTags _ h, hline.otherBytes _ h]

theorem State.putByte_frame (s : State) (a : Nat) (x : Byte) : (s.putByte a x).regs = s.regs ∧
    (s.putByte a x).mem.pocket = s.mem.pocket ∧ (s.putByte a x).mem.sram = s.mem.sram ∧
    (s.putByte a x).mem.stitch = s.mem.stitch ∧ (s.putByte a x).mem.keys = s.mem.keys ∧
    (s.putByte a x).mem.marks = s.mem.marks := by
  by_cases h : s.inHbm a = false ∨ s.keyAt a = 0
  · rw [State.putByte_not_taken x h]
    exact ⟨rfl, rfl, rfl, rfl, rfl, rfl⟩
  · rw [not_or, Bool.not_eq_false] at h
    obtain ⟨hbm, tags, heq, -⟩ := State.putByte_eq x h.1 h.2
    rw [heq]
    exact ⟨rfl, rfl, rfl, rfl, rfl, rfl⟩

/-! ### A store to memory (17 R418) -/

theorem exec_registerWrite_memory {s : State} {a : Nat} (src : Source) (b v : Nat) (hreg : inRegSpace a = false)
    (hpage : inPages a = false) : exec (.registerWrite src a b v) s = .next (s.memStore src a b v) := by
  show Host.Outcome.next (s.writeAt src a b v) = _
  simp [State.writeAt, hreg, hpage]

theorem State.memStore_firmware {s : State} {src : Source} {a : Nat} (b v : Nat) (hw : s.who src = .firmware)
    (hsram : sramPlace a = none) : s.memStore src a b v = s.memWrite a (leBytes b v) := by
  simp [State.memStore, hw, hsram]

theorem State.memStore_vef {s : State} {src : Source} {k : Nat} (a b v : Nat) (hw : s.who src = .vef k) :
    s.memStore src a b v =
      if s.regionOk k a && s.regionOk k (a + b - 1) then s.memWrite a (leBytes b v) else s.inc VEF_VIOL.REGION k := by
  rw [State.memStore, hw]

/-- Settles O27: places are told apart by pseudo-channel, region unit and granule, and a byte written puts its line, and no other,
under the key and tweak in force. -/
theorem hbmBytes : Obligations.HbmBytes := by
  unfold Obligations.HbmBytes
  refine ⟨fun s a b => State.place_inj, fun s a x hin hkey => ⟨State.byteAt_putByte_same x hin hkey,
    fun b => State.byteAt_putByte_other x hin hkey⟩, fun s a x h => ⟨State.putByte_not_taken x h, State.byteAt_not_taken h⟩,
    State.putByte_frame, fun s src a b v hreg hpage => ?store⟩
  case store =>
    rw [exec_registerWrite_memory src b v hreg hpage]
    refine ⟨fun hw hsram => ?firmware, fun k hw => ⟨fun hlo hhi => ?inside, fun hout => ?outside⟩⟩
    case firmware => rw [State.memStore_firmware b v hw hsram]
    case inside => rw [State.memStore_vef a b v hw, hlo, hhi]; rfl
    case outside =>
      rw [State.memStore_vef a b v hw]
      exact congrArg _ (if_neg (by rcases hout with h | h <;> simp [h]))

end Sys2Proof.Machine
end

section
/-! The system-DMA channels (05 R122–R125). -/

namespace Sys2Proof.Machine

/-! ### Assignment (05 R122) -/

/-- What the three rows of a DMA command come to: each takes the head of the engine's queues where it has the row's opcode. -/
theorem exec_dmaOps (s : State) (e : Fin 4) : exec (.copy e) s = .next (s.assignOp e 0x10) ∧
    exec (.fill e) s = .next (s.assignOp e 0x11) ∧ exec (.checksum e) s = .next (s.assignOp e 0x12) := ⟨rfl, rfl, rfl⟩

theorem State.assignOp_head {s : State} {e : Fin 4} {c : Cmd} (op : Nat) (h : s.dmaHead e [0, 1, 2, 3] = some c) (hop : c.opcode = op) :
    s.assignOp e op = s.assign e c := by
  simp only [State.assignOp, h, hop, if_true]

theorem State.assignOp_other {s : State} {e : Fin 4} {op : Nat} (h : ∀ c, s.dmaHead e [0, 1, 2, 3] = some c → c.opcode ≠ op) :
    s.assignOp e op = s := by
  unfold State.assignOp
  split
  next c hc => exact if_neg (h c hc)
  next => rfl

theorem State.assign_busy {s : State} {e : Fin 4} (c : Cmd) (h : s.idleChannel e = none) : s.assign e c = s := by
  simp only [State.assign, h]

theorem State.assignOp_busy {s : State} {e : Fin 4} (op : Nat) (h : s.idleChannel e = none) : s.assignOp e op = s := by
  unfold State.assignOp
  split
  next c _ =>
    split
    · exact State.assign_busy c h
    · rfl
  next => rfl

/-! ### The start of a channel (05 R123) -/

/-- The engine moves data for a command. -/
def State.engineMoves (s : State) (e : Fin 4) : Bool :=
  (s.jobsOn (.dma e)).any (fun j => j.started && decide (j.outcome = .running))

theorem State.engineMoves_iff (s : State) (e : Fin 4) :
    s.engineMoves e = true ↔ ∃ i ∈ s.jobsOn (.dma e), i.started = true ∧ i.outcome = .running := by
  simp only [State.engineMoves, List.any_eq_true, Bool.and_eq_true, decide_eq_true_eq]

theorem exec_dmaChannelStart_moving {s : State} {e : Fin 4} (h : s.engineMoves e = true) : exec (.dmaChannelStart e) s = .next s :=
  if_pos h

theorem exec_dmaChannelStart_next {s : State} {e : Fin 4} {j : Job} (h : s.engineMoves e = false) (hj : s.nextJob e = some j) :
    exec (.dmaChannelStart e) s = .next (s.changeJob j.cmd.serial (fun j => { j with started := true })) := by
  rw [State.engineMoves] at h
  show execDmaChannelStart e s = _
  simp only [execDmaChannelStart, h, hj, Bool.false_eq_true, if_false]

theorem exec_dmaChannelStart_none {s : State} {e : Fin 4} (h : s.nextJob e = none) : exec (.dmaChannelStart e) s = .next s := by
  show execDmaChannelStart e s = _
  simp only [execDmaChannelStart, h, ite_self]

/-! ### The end of a channel's work (05 R124) -/

/-- The command that moves data on a channel. -/
def State.movingJob (s : State) (chan : Fin 32) : Option Job :=
  s.flight.find? (fun j => j.chan == chan.val && j.started && decide (j.outcome = .running) && j.res == .dma ⟨chan.val / 8, by omega⟩)

/-- What the end of its work makes of a DMA command in flight. -/
def Job.moved (j : Job) (n crc : Nat) (tainted : Bool) : Job :=
  { j with outcome := .ended 0 0 crc, bytes := n, crc := crc, tainted := tainted, use := j.use.plus { Usage.zero with dma := n } }

/-- The bytes of a command moved, and the channel's registers that show it. -/
def State.dmaMoved (s : State) (chan : Fin 32) (c : Cmd) (remote : FabricData) (crc : Nat) : State :=
  ((s.dmaMove c remote.bytes remote.bad).1.wr DMA_CH_CRC.CRC crc chan).wr DMA_CH_BYTES.BYTES c.length chan

theorem exec_dmaChannelDone_idle {s : State} {chan : Fin 32} (remote : FabricData) (h : s.movingJob chan = none) :
    exec (.dmaChannelDone chan remote) s = .next s := by
  show execDmaChannelDone chan remote s = _
  unfold State.movingJob at h
  simp only [execDmaChannelDone, h]

theorem exec_dmaChannelDone_moving {s : State} {chan : Fin 32} {j : Job} (remote : FabricData) (h : s.movingJob chan = some j) :
    exec (.dmaChannelDone chan remote) s =
      let r := s.dmaMove j.cmd remote.bytes remote.bad
      .next ((s.onBehalf j.cmd (fun s => s.dmaMoved chan j.cmd remote (crc32c r.2.1))).changeJob j.cmd.serial
        (fun i => i.moved j.cmd.length (crc32c r.2.1) (!r.2.2.isEmpty))) := by
  show execDmaChannelDone chan remote s = _
  unfold State.movingJob at h
  simp only [execDmaChannelDone, h, State.dmaMoved, Job.moved]

/-- Work done for a command leaves what it does to memory, registers and queues as it is. -/
theorem State.onBehalf_frame (s : State) (c : Cmd) (op : State → State) : (s.onBehalf c op).mem = (op s).mem ∧
    (s.onBehalf c op).regs = (op s).regs ∧ (s.onBehalf c op).queue = (op s).queue := ⟨rfl, rfl, rfl⟩

/-- A job that has a serial after the jobs of that serial were changed is one of those. -/
theorem State.mem_flight_changeJob {s : State} {serial : Nat} {f : Job → Job} {i : Job}
    (hi : i ∈ (s.changeJob serial f).flight) (hs : i.cmd.serial = serial) : ∃ j ∈ s.flight, i = f j := by
  obtain ⟨j, hj, hji⟩ := List.mem_map.1 hi
  by_cases h : j.cmd.serial = serial
  · exact ⟨j, hj, by rw [← hji, if_pos h]⟩
  · rw [if_neg h] at hji
    exact absurd (hji ▸ hs) h

theorem State.rd_dmaMoved (s : State) (chan : Fin 32) (c : Cmd) (remote : FabricData) (crc : Nat) :
    (s.dmaMoved chan c remote crc).rd DMA_CH_CRC.CRC chan = crc % 2 ^ 32 ∧
      (s.dmaMoved chan c remote crc).rd DMA_CH_BYTES.BYTES chan = c.length % 2 ^ DMA_CH_BYTES.BYTES.w := by
  refine ⟨?_, State.rd_wr_same _ _ _ _ _⟩
  rw [State.dmaMoved, State.rd_wr_ne _ _ _ _ _ _ _ _ (by decide) (by decide) (by decide), State.rd_wr_same]
  rfl

/-! ### A channel stopped (05 R125) -/

theorem exec_dmaChannelDisable (s : State) (src : Source) (chan : Fin 32) : exec (.dmaChannelDisable src chan) s =
    if (s.who src).fwHyp = true then
      if s.flag DMA_CH_CTL.DISABLE chan = true then .next s else .next ((s.wr DMA_CH_CTL.DISABLE 1 chan).haltChannel chan true)
    else .next (s.denied (s.who src) (RegName.dmaChCtl.addr chan)) := by
  show execDmaChannelDisable src chan s = _
  simp only [execDmaChannelDisable, State.stopChannel]
  cases (s.who src).fwHyp <;> rfl

/-- The command assigned to a channel, whether its work has begun or not. -/
def State.heldJob (s : State) (chan : Fin 32) : Option Job :=
  s.flight.find? (fun j => j.chan == chan.val && j.res == .dma ⟨chan.val / 8, by omega⟩)

theorem State.haltChannel_idle {s : State} {chan : Fin 32} (keep : Bool) (h : s.heldJob chan = none) : s.haltChannel chan keep = s := by
  unfold State.heldJob at h
  simp only [State.haltChannel, h]

/-- Whatever stopping a channel has left of its destination and its bytes, BUSY is cleared, the command leaves the flight list and
is put at the head of a queue. -/
theorem State.haltChannel_held {s : State} {chan : Fin 32} {j : Job} (h : s.heldJob chan = some j) : ∃ (u : State) (e : Fin 4),
    s.haltChannel chan true = { (u.wr DMA_CH_CTL.BUSY 0 chan).dropJob j.cmd.serial with queue := (.dma e, j.cmd.again) :: u.queue } := by
  unfold State.heldJob at h
  simp only [State.haltChannel, h]
  exact ⟨_, _, rfl⟩

theorem State.mem_flight_dropJob {s : State} {serial : Nat} {i : Job} (h : i ∈ (s.dropJob serial).flight) : i.cmd.serial ≠ serial := by
  simpa using (List.mem_filter.1 h).2

/-- Settles O28: each row is read off its equation; the data of a command move as a whole in DMA_CHANNEL_DONE, the model's own
choice (log entry 87). -/
theorem dmaChannels : Obligations.DmaChannels := by
  unfold Obligations.DmaChannels
  refine ⟨fun e s => ?assign, fun e s => ?start, fun chan remote s => ?done, fun src chan s => ?disable⟩
  case assign =>
    obtain ⟨hcopy, hfill, hsum⟩ := exec_dmaOps s e
    rw [hcopy, hfill, hsum]
    refine ⟨fun c k hc hk => ?taken, fun h => ?busy, fun h => ?copy, fun h => ?fill, fun h => ?checksum⟩
    case taken =>
      have htaken (op : Nat) (hop : c.opcode = op) : (.next (s.assignOp e op) : Ans) = _ := congrArg _ (State.assignOp_head op hc hop)
      simp only [State.assign, hk] at htaken
      exact ⟨htaken 0x10, htaken 0x11, htaken 0x12⟩
    case busy =>
      simp only [State.assignOp_busy _ h, and_self]
    case copy => rw [State.assignOp_other h]
    case fill => rw [State.assignOp_other h]
    case checksum => rw [State.assignOp_other h]
  case start =>
    refine ⟨fun j hidle hj => exec_dmaChannelStart_next ?idle hj, fun h => ?waits⟩
    case idle =>
      rw [← Bool.not_eq_true, State.engineMoves_iff]
      exact fun ⟨i, hi, hs, ho⟩ => hidle i hi hs ho
    case waits =>
      rcases h with hnone | hmoves
      · exact exec_dmaChannelStart_none hnone
      · exact exec_dmaChannelStart_moving ((s.engineMoves_iff e).2 hmoves)
  case done =>
    refine ⟨fun hnone => exec_dmaChannelDone_idle remote hnone, fun j hj => ?moved⟩
    case moved =>
      intro r
      obtain ⟨hmem, hregs, hqueue⟩ := s.onBehalf_frame j.cmd (fun s => s.dmaMoved chan j.cmd remote (crc32c r.2.1))
      obtain ⟨hcrc, hbytes⟩ := s.rd_dmaMoved chan j.cmd remote (crc32c r.2.1)
      refine ⟨_, exec_dmaChannelDone_moving remote hj, hmem, (State.rd_congr _ _ hregs _ _ _).trans hcrc,
        (State.rd_congr _ _ hregs _ _ _).trans hbytes, hqueue, fun i hi hs => ?_⟩
      obtain ⟨i', -, rfl⟩ := State.mem_flight_changeJob hi hs
      exact ⟨rfl, rfl, rfl⟩
  case disable =>
    rw [exec_dmaChannelDisable]
    refine ⟨fun hw hd => ?stops, fun hw hd => ?already, fun hw => ?refused, fun hnone => State.haltChannel_idle true hnone,
      fun j hj => ?held⟩
    case stops => rw [if_pos hw, if_neg (by rw [hd]; decide)]
    case already => rw [if_pos hw, if_pos hd]
    case refused => rw [if_neg (by rw [hw]; decide)]
    case held =>
      obtain ⟨u, e, heq⟩ := State.haltChannel_held (show s.heldJob chan = some j from hj)
      rw [heq]
      exact ⟨⟨e, rfl⟩, State.rd_wr_same u DMA_CH_CTL.BUSY 0 chan 0,
        fun i hi => State.mem_flight_dropJob (s := u.wr DMA_CH_CTL.BUSY 0 chan) hi⟩

end Sys2Proof.Machine
end

section
/-! The bridge to the Pass fabric: bursts, locked sequences and time-outs (13 R318, R326, R327, R330, 12 R302). -/

namespace Sys2Proof.Machine

/-! ### The pieces of a burst (13 R326) -/

/-- No piece of a burst is empty, has more than 256 bytes or crosses 4 KiB. -/
theorem cutBurst_piece {k a n : Nat} {x : Nat × Nat} (hx : x ∈ cutBurst k a n) :
    0 < x.2 ∧ x.2 ≤ 256 ∧ x.1 % 4096 + x.2 ≤ 4096 := by
  induction k generalizing a n with
  | zero => cases hx
  | succ k ih =>
    unfold cutBurst at hx
    split at hx
    · cases hx
    · rcases List.mem_cons.1 hx with rfl | hx
      · dsimp only
        omega
      · exact ih hx

theorem cutBurst_zero (k a : Nat) : cutBurst k a 0 = [] := by
  cases k <;> rfl

theorem cutBurst_succ {k a n : Nat} (h : n ≠ 0) : cutBurst (k + 1) a n =
    (a, min n (min 256 (4096 - a % 4096))) ::
      cutBurst k (a + min n (min 256 (4096 - a % 4096))) (n - min n (min 256 (4096 - a % 4096))) := if_neg h

/-- The pieces carry the whole burst: each but the last has 256 bytes or ends a page of 4 KiB, so the count of those still to come
falls with every piece. -/
theorem sum_cutBurst {k a n : Nat} (h : n / 256 + (a % 4096 + n) / 4096 + 1 ≤ k) : ((cutBurst k a n).map (·.2)).sum = n := by
  induction k generalizing a n with
  | zero => omega
  | succ k ih =>
    by_cases h0 : n = 0
    · rw [h0, cutBurst_zero]
      rfl
    · rw [cutBurst_succ h0, List.map_cons, List.sum_cons]
      by_cases hlast : n ≤ min 256 (4096 - a % 4096)
      · simp only [Nat.min_eq_left hlast, Nat.sub_self, cutBurst_zero, List.map_nil, List.sum_nil, Nat.add_zero]
      · rw [ih (by omega)]
        omega

/-- A burst that fits is one piece. -/
theorem cutBurst_one {k a n : Nat} (h0 : 0 < n) (h : n ≤ 256) (hpage : a % 4096 + n ≤ 4096) : cutBurst (k + 1) a n = [(a, n)] := by
  have hm : min n (min 256 (4096 - a % 4096)) = n := by omega
  rw [cutBurst_succ (Nat.ne_of_gt h0), hm, Nat.sub_self, cutBurst_zero]

/-! ### Bursts -/

/-- A write and a read of a burst at this device's own address. -/
theorem exec_bridgeBurst_own {s : State} {addr : Nat} (src : Source) (cls : Fin 4) (h : addr / 2 ^ 48 = s.rd PASS_DEV.ID) (d : Bytes)
    (n : Nat) :
    exec (.bridgeBurst src cls addr (some d) n) s = .next ((s.ownWrite src (addr % 2 ^ 48) d).emit (.fabricAck src addr false)) ∧
    exec (.bridgeBurst src cls addr none n) s = .next ((s.ownRead src (addr % 2 ^ 48) n).1.emit
      (.fabricData src addr (s.ownRead src (addr % 2 ^ 48) n).2.1 (s.ownRead src (addr % 2 ^ 48) n).2.2)) :=
  ⟨if_pos h, if_pos h⟩

/-- An address that neither registers nor the SRAM windows answer is one of memory. -/
theorem State.ownAccess_memory (s : State) (src : Source) {a : Nat} (h : placedAt a = false) (d : Bytes) (n : Nat) :
    s.ownWrite src a d = s.ctxWrite (s.localCtx src) a d ∧ s.ownRead src a n =
      (s.ctxTouch (s.localCtx src) a n, s.ctxRead (s.localCtx src) a n, decide (s.ctxWorst (s.localCtx src) a n = 2)) := by
  have hsram : (sramPlace a).isSome = false := (Bool.or_eq_false_iff.1 h).2
  simp only [State.ownWrite, State.ownRead, h, hsram, Bool.false_eq_true, if_false, and_self]

theorem exec_bridgeBurst_barred {s : State} {addr : Nat} (src : Source) (cls : Fin 4) (h : addr / 2 ^ 48 ≠ s.rd PASS_DEV.ID)
    (hbar : s.fabricBars (s.fabricAs src) = true) (d : Bytes) (n : Nat) :
    exec (.bridgeBurst src cls addr (some d) n) s = .next ((s.fabricRefused (s.fabricAs src)).emit (.fabricAck src addr false)) ∧
    exec (.bridgeBurst src cls addr none n) s =
      .next ((s.fabricRefused (s.fabricAs src)).emit (.fabricData src addr (List.replicate n 0) false)) :=
  ⟨(if_neg h).trans (if_pos hbar), (if_neg h).trans (if_pos hbar)⟩

/-- One piece of a read: parked under DISCARD, else requested. -/
def State.readPiece (s : State) (src : Source) (p : PassPacket) : State :=
  if s.discards (s.slotOf p) (p.dst % 256) then s.delayedRead src p else s.request .read src p

theorem exec_bridgeBurst_write {s : State} {addr : Nat} (src : Source) (cls : Fin 4) (h : addr / 2 ^ 48 ≠ s.rd PASS_DEV.ID)
    {w : Bool × Nat × Nat} (hw : s.fabricAs src = some w) (hbar : s.fabricBars (some w) = false) (d : Bytes) (n : Nat) :
    exec (.bridgeBurst src cls addr (some d) n) s =
      .next ((cutBurst (d.length / 256 + d.length / 4096 + 3) addr d.length).foldl (fun s x =>
        s.request .write src (fabricPacket w cls x.1 x.2 (Bytes.sub d (x.1 - addr) x.2))) s) := by
  rw [← hw] at hbar
  exact (if_neg h).trans ((if_neg (by rw [hbar]; decide)).trans (by rw [hw]; rfl))

theorem exec_bridgeBurst_read {s : State} {addr : Nat} (src : Source) (cls : Fin 4) (h : addr / 2 ^ 48 ≠ s.rd PASS_DEV.ID)
    {w : Bool × Nat × Nat} (hw : s.fabricAs src = some w) (hbar : s.fabricBars (some w) = false) (n : Nat) :
    exec (.bridgeBurst src cls addr none n) s = .next ((cutBurst (n / 256 + n / 4096 + 3) addr n).foldl (fun s x =>
      s.readPiece src (fabricPacket w cls x.1 x.2 [])) s) := by
  rw [← hw] at hbar
  exact (if_neg h).trans ((if_neg (by rw [hbar]; decide)).trans (by rw [hw]; rfl))

/-! ### Locked sequences (13 R327) -/

theorem exec_fabricLr (s : State) (src : Source) (addr : Nat) : exec (.fabricLr src addr) s =
    if s.fabricBars (s.fabricAs src) then .next ((s.fabricRefused (s.fabricAs src)).emit (.fabricData src addr (List.replicate 64 0) false))
    else .next (s.request .lr src (fabricPacket ((s.fabricAs src).getD (true, 0, 0)) (sourceClass src) addr 0 [])) := rfl

theorem exec_fabricAmo (s : State) (src : Source) (addr : Nat) (op : AmoOp) (wide : Bool) (v : Nat) :
    exec (.fabricAmo src addr op wide v) s =
    if s.fabricBars (s.fabricAs src) then .next ((s.fabricRefused (s.fabricAs src)).emit (.fabricAmo src 0))
    else .next (s.request (.amo op wide v 0 none) src
      (fabricPacket ((s.fabricAs src).getD (true, 0, 0)) (sourceClass src) addr 0 [])) := rfl

/-- The reservation that an SC of a hart meets: the line that its LR has locked, with the tag of that LR. -/
def State.reservation (s : State) (src : Source) (addr : Nat) : Option (Nat × Nat × Nat × Nat) :=
  (hartOf src).bind (fun h => s.pass.reserved.find? (fun x => x.1 == h && x.2.1 == addr / 2 ^ 48 && x.2.2.1 == addr % 2 ^ 48 / 64))

/-- The state with a reservation used up. -/
def State.unreserved (s : State) (x : Nat × Nat × Nat × Nat) : State :=
  { s with pass := { s.pass with reserved := s.pass.reserved.erase x } }

theorem exec_fabricSc_unreserved {s : State} {src : Source} {addr : Nat} (h : s.reservation src addr = none) (d : Bytes) :
    exec (.fabricSc src addr d) s = .next ((s.inc PASS_STAT.LOCK_FAIL).emit (.fabricSc src false)) := by
  show execFabricSc src addr d s = _
  unfold State.reservation at h
  simp only [execFabricSc, h]

theorem exec_fabricSc_barred {s : State} {src : Source} {addr : Nat} {x : Nat × Nat × Nat × Nat} (h : s.reservation src addr = some x)
    (hbar : s.fabricBars (s.fabricAs src) = true) (d : Bytes) :
    exec (.fabricSc src addr d) s = .next (((s.unreserved x).fabricRefused (s.fabricAs src)).emit (.fabricSc src false)) := by
  show execFabricSc src addr d s = _
  unfold State.reservation at h
  simp only [execFabricSc, h, hbar, if_true, State.unreserved]

/-- The state with the request of an SC among those outstanding. -/
def State.scSent (s : State) (src : Source) (p : PassPacket) : State :=
  { s with pass := { s.pass with reqs := s.pass.reqs ++ [⟨.sc, ptWrite, p, s.slotOf p, src, s.localNs, false⟩] } }

/-- The packet of an SC: a write under the tag of its LR (log entry 95). -/
def scPacket (w : Bool × Nat × Nat) (src : Source) (addr : Nat) (d : Bytes) (tag : Nat) : PassPacket :=
  { fabricPacket w (sourceClass src) addr d.length d with tag := tag }

theorem exec_fabricSc_reserved {s : State} {src : Source} {addr : Nat} {x : Nat × Nat × Nat × Nat} (h : s.reservation src addr = some x)
    {w : Bool × Nat × Nat} (hw : s.fabricAs src = some w) (hbar : s.fabricBars (some w) = false) (d : Bytes) :
    exec (.fabricSc src addr d) s =
      .next (((s.unreserved x).scSent src (scPacket w src addr d x.2.2.2)).sendPacket ptWrite (scPacket w src addr d x.2.2.2)) := by
  show execFabricSc src addr d s = _
  unfold State.reservation at h
  simp only [execFabricSc, h, hw, hbar, Bool.false_eq_true, if_false, Option.getD_some, State.unreserved, State.scSent, scPacket]

/-! ### Time-outs (13 R318, R327, R330) -/

/-- A request of a tag has had no response for TIMEOUT_US. -/
def State.reqDue (s : State) (tag : Fin 65536) (r : PassReq) : Bool :=
  r.packet.tag == tag.val && decide (r.since + s.rd PASS_CFG.TIMEOUT_US * 1000 ≤ s.localNs)

theorem exec_requestTimeout_idle {s : State} {tag : Fin 65536} (h : s.pass.reqs.find? (s.reqDue tag) = none) :
    exec (.requestTimeout tag) s = .next s := by
  show execRequestTimeout tag s = _
  unfold State.reqDue at h
  simp only [execRequestTimeout, h]

theorem exec_requestTimeout_due {s : State} {tag : Fin 65536} {r : PassReq} (h : s.pass.reqs.find? (s.reqDue tag) = some r) :
    exec (.requestTimeout tag) s = .next (s.reqTimeout r) := by
  show execRequestTimeout tag s = _
  unfold State.reqDue at h
  simp only [execRequestTimeout, h]

/-- A lock has been held for 2 µs, and a LOCK has waited as long. -/
def State.lockOld (s : State) (l : LineLock) : Bool := decide (l.since + 2000 ≤ s.localNs)
def State.waitOld (s : State) (w : Nat × PassPacket × Nat) : Bool := w.1 == ptLock && decide (w.2.2 + 2000 ≤ s.localNs)

theorem exec_lockHoldExpiry (s : State) : exec .lockHoldExpiry s =
    if (s.pass.locks.filter s.lockOld).isEmpty then .next s
    else .next (State.wakeLines { s with pass := { s.pass with
      locks := s.pass.locks.filter (fun l => !s.lockOld l),
      expired := (s.pass.locks.filter s.lockOld).map (fun l => (l.src, l.tag)) ++ s.pass.expired } }) := rfl

theorem exec_lockWaitTimeout (s : State) : exec .lockWaitTimeout s =
    .next ((s.pass.lineWait.filter s.waitOld).foldl (fun s w => s.respond ptLockGrant w.2.1 [] true)
      { s with pass := { s.pass with lineWait := s.pass.lineWait.filter (fun w => !s.waitOld w) } }) := rfl

/-- No LOCK waits too long: none fails, and all go on waiting. -/
theorem exec_lockWaitTimeout_idle {s : State} (h : ∀ w ∈ s.pass.lineWait, s.waitOld w = false) : exec .lockWaitTimeout s = .next s := by
  have hgone : s.pass.lineWait.filter s.waitOld = [] := List.filter_eq_nil_iff.2 (fun w hw => by simp [h w hw])
  have hkept : s.pass.lineWait.filter (fun w => !s.waitOld w) = s.pass.lineWait :=
    List.filter_eq_self.2 (fun w hw => by simp [h w hw])
  rw [exec_lockWaitTimeout, hgone, hkept]
  rfl

/-- Parked data that its requester has not collected in time. -/
def State.parkedOld (s : State) (port : Fin 4) (x : Parked) : Bool :=
  x.port == port.val && decide (x.since + s.rd PASS_LINK_CFG.READ_TIMER_US port * 1000 ≤ s.localNs)

theorem exec_delayedReadExpiry (s : State) (port : Fin 4) : exec (.delayedReadExpiry port) s =
    .next (State.add { s with pass := { s.pass with parked := s.pass.parked.filter (fun x => !s.parkedOld port x) } }
      PASS_LINK_STAT.DISCARDED (s.pass.parked.filter (s.parkedOld port)).length port) := rfl

/-- Settles O53: each row is read off its equation, and the pieces of a burst are counted down by what is left of it. That an SC
writes under the tag of its LR, a hart's sequence and the cutting of local accesses are the model's readings (log entry 95). -/
theorem fabricBridge : Obligations.FabricBridge := by
  unfold Obligations.FabricBridge
  refine ⟨fun src cls addr s => ⟨fun hown d n => exec_bridgeBurst_own src cls hown d n, fun hown hmem d n => ?memory,
    fun hne hbar d n => exec_bridgeBurst_barred src cls hne hbar d n, fun hne w hw hbar => ?pieces⟩,
    fun a n => ⟨fun x hx => cutBurst_piece hx, sum_cutBurst (by omega)⟩,
    fun src addr s => ⟨fun hbar => ?lockBarred, fun w hw hbar => ?lock, fun hnone d => exec_fabricSc_unreserved hnone d,
      fun x hx d => ⟨fun hbar => exec_fabricSc_barred hx hbar d, fun w hw hbar => ?storeConditional⟩⟩,
    fun tag s => ⟨fun hyoung => ?young, fun hnone => exec_requestTimeout_idle hnone, fun r hr => exec_requestTimeout_due hr⟩,
    fun s => ⟨fun hyoung => ?lockStands, fun hold => ?lockEnds, fun hyoung => ?lockWaits, exec_lockWaitTimeout s⟩,
    fun port s => ?parked⟩
  case memory =>
    obtain ⟨hwrite, hread⟩ := exec_bridgeBurst_own src cls hown d n
    obtain ⟨hd, hn⟩ := s.ownAccess_memory src hmem d n
    rw [hwrite, hread, hd, hn]
    exact ⟨rfl, rfl⟩
  case pieces =>
    have hwrite := exec_bridgeBurst_write src cls hne hw hbar
    have hread := exec_bridgeBurst_read src cls hne hw hbar
    refine ⟨hwrite, hread, fun d n h0 h256 hpage => ?oneWrite, fun n h0 h256 hpage hd => ?oneRead⟩
    case oneWrite =>
      rw [hwrite d n, cutBurst_one h0 h256 hpage]
      simp [Bytes.sub]
    case oneRead =>
      rw [hread n, cutBurst_one h0 h256 hpage]
      simp [State.readPiece, hd]
  case lockBarred =>
    simp only [exec_fabricLr, exec_fabricAmo, hbar, if_true, implies_true, and_self]
  case lock =>
    simp only [exec_fabricLr, exec_fabricAmo, hw, hbar, Bool.false_eq_true, if_false, Option.getD_some, implies_true, and_self]
  case storeConditional =>
    exact ⟨_, _, exec_fabricSc_reserved hx hw hbar d, rfl, rfl, rfl, rfl, rfl, rfl, rfl, rfl⟩
  case young =>
    exact exec_requestTimeout_idle (List.find?_eq_none.2 fun r hr => by simpa [State.reqDue] using hyoung r hr)
  case lockStands =>
    have hgone : s.pass.locks.filter s.lockOld = [] := List.filter_eq_nil_iff.2 (fun l hl => by
      simpa [State.lockOld] using hyoung l hl)
    rw [exec_lockHoldExpiry, hgone]
    rfl
  case lockEnds =>
    rw [exec_lockHoldExpiry]
    exact if_neg (fun h => hold (List.isEmpty_iff.1 h))
  case lockWaits =>
    exact exec_lockWaitTimeout_idle (fun w hw => by simpa [State.waitOld] using hyoung w hw)
  case parked =>
    exact ⟨_, exec_delayedReadExpiry s port, rfl, State.rd_add_same _ _ _ _ _⟩

end Sys2Proof.Machine
end

section
/-! Doorbells, ring enables and ring configuration (06 R136–R141, R156, R159, R162, 10 R258, 17 R420). -/

namespace Sys2Proof.Machine

/-! ### Who reaches a ring set -/

/-- A requester reaches a ring set: the Cantle its own, the requesters of the page any other. -/
def State.reaches (s : State) (src : Source) (v : Fin 129) : Prop :=
  (v.val = cantleSet ∧ s.who src = .cantle) ∨ (v.val ≠ cantleSet ∧ pageOk (s.pageWho src v) v = true)

/-- A ring number that its set has: the Cantle has two submission rings. -/
abbrev ringExists (v : Fin 129) (r : Fin 8) : Prop := v.val = cantleSet → r.val < 2

theorem State.onCantleRing_reached {s : State} {src : Source} {r : Nat} (h : s.who src = .cantle ∧ r < 2)
    (op : State → State) : s.onCantleRing src r op = op s := if_pos h

theorem State.onCantleRing_barred {s : State} {src : Source} {r : Nat} (h : ¬(s.who src = .cantle ∧ r < 2)) (op : State → State) :
    s.onCantleRing src r op = s := if_neg h

/-! ### Doorbells (06 R141) -/

theorem exec_doorbell_page {s : State} {src : Source} {v : Fin 129} (r : Fin 8) (x : BitVec 32) (hv : v.val ≠ cantleSet)
    (hp : pageOk (s.pageWho src v) v = true) : exec (.doorbell src v r x) s = .next (s.doorbell v r x.toNat) :=
  (if_neg hv).trans (if_pos hp)

theorem exec_doorbell_denied {s : State} {src : Source} {v : Fin 129} (r : Fin 8) (x : BitVec 32) (hv : v.val ≠ cantleSet)
    (hp : pageOk (s.pageWho src v) v = false) :
    exec (.doorbell src v r x) s = .next (s.denied (s.pageWho src v) (0xF100000000 + v.val * 0x1000 + r.val * 4)) :=
  (if_neg hv).trans (if_neg (by rw [hp]; decide))

theorem exec_doorbell_cantle {s : State} {src : Source} {v : Fin 129} (r : Fin 8) (x : BitVec 32) (hv : v.val = cantleSet) :
    exec (.doorbell src v r x) s = .next (s.onCantleRing src r (fun s => (s.doorbell v r x.toNat).cantleReads)) := if_pos hv

/-- A tail within an enabled ring is stored. -/
theorem State.doorbell_stored {s : State} {v r x : Nat} (hen : s.flag SQ_CFG.ENABLE v r = true)
    (hlt : x % 65536 < 2 ^ s.rd SQ_CFG.SIZE_LOG2 v r) : s.doorbell v r x = s.wr DB_SQ_TAIL.TAIL (x % 65536) v r :=
  if_neg (by simpa [hen] using hlt)

theorem State.doorbell_bad {s : State} {v r x : Nat}
    (h : s.flag SQ_CFG.ENABLE v r = false ∨ 2 ^ s.rd SQ_CFG.SIZE_LOG2 v r ≤ x % 65536) :
    s.doorbell v r x = (s.wr DB_STAT.BAD_DB 1 v).event v 0x05 r (x % 65536) := if_pos (by simpa using h)

/-! ### Enables (06 R139, R159, R162) -/

/-- What the enable of a ring makes of the registers: ENABLE 1 and both indices 0. -/
def ringEnabled (g : Sparse Nat) (en head tail : Fld) (i j : Nat) : Sparse Nat :=
  regSet (regSet (regSet g en 1 i j) head 0 i j) tail 0 i j

theorem regGet_ringEnabled (g : Sparse Nat) {en head tail : Fld} (i j : Nat)
    (hw : en.w = 1) (hp : (en.placed && head.placed && tail.placed) = true)
    (hne : (en.spot != head.spot && en.spot != tail.spot && head.spot != tail.spot) = true) :
    regGet (ringEnabled g en head tail i j) en i j = 1 ∧ regGet (ringEnabled g en head tail i j) head i j = 0 ∧
      regGet (ringEnabled g en head tail i j) tail i j = 0 := by
  simp only [Bool.and_eq_true] at hp hne
  obtain ⟨⟨hen, hhead⟩, htail⟩ := hp
  obtain ⟨⟨hne1, hne2⟩, hne3⟩ := hne
  have hone : 1 % 2 ^ en.w = 1 := congrArg (fun w => 1 % 2 ^ w) hw
  refine ⟨?_, ?_, regGet_set_same _ _ _ _ _⟩
  · rw [ringEnabled, regGet_set_ne _ _ _ _ _ _ _ _ (by simp [*]), regGet_set_ne _ _ _ _ _ _ _ _ (by simp [*]), regGet_set_same]
    exact hone
  · rw [ringEnabled, regGet_set_ne _ _ _ _ _ _ _ _ (by simp [*]), regGet_set_same, Nat.zero_mod]

theorem State.sqEnable_facts (s : State) (v r : Nat) : (s.sqEnable v r).flag SQ_CFG.ENABLE v r = true ∧
    (s.sqEnable v r).rd SQ_CFG.HEAD v r = 0 ∧ (s.sqEnable v r).rd DB_SQ_TAIL.TAIL v r = 0 ∧
    (s.sqEnable v r).mem = s.mem ∧ (s.sqEnable v r).queue = s.queue := by
  obtain ⟨hen, hhead, htail⟩ : _ ∧ _ ∧ (s.sqEnable v r).rd DB_SQ_TAIL.TAIL v r = 0 :=
    regGet_ringEnabled s.regs (en := SQ_CFG.ENABLE) (head := SQ_CFG.HEAD) v r rfl (by decide) (by decide)
  exact ⟨congrArg (· != 0) hen, hhead, htail, rfl, rfl⟩

theorem State.cqEnable_facts (s : State) (v : Nat) : (s.cqEnable v).flag CQ_CFG.ENABLE v = true ∧
    (s.cqEnable v).rd CQ_CFG.TAIL v = 0 ∧ (s.cqEnable v).rd DB_CQ_HEAD.HEAD v = 0 ∧
    ((s.cqEnable v).vrt v).cqPhase = true ∧ (s.cqEnable v).mem = s.mem := by
  obtain ⟨hen, htail, hhead⟩ : _ ∧ _ ∧ (s.cqEnable v).rd DB_CQ_HEAD.HEAD v = 0 :=
    regGet_ringEnabled s.regs (en := CQ_CFG.ENABLE) (head := CQ_CFG.TAIL) v 0 rfl (by decide) (by decide)
  exact ⟨congrArg (· != 0) hen, htail, hhead, congrArg VefRt.cqPhase (State.vrt_setV _ v _), rfl⟩

theorem State.eqEnable_facts (s : State) (v : Nat) : (s.eqEnable v).flag EQ_CFG.ENABLE v = true ∧
    (s.eqEnable v).rd EQ_CFG.TAIL v = 0 ∧ (s.eqEnable v).rd DB_EQ_HEAD.HEAD v = 0 ∧
    ((s.eqEnable v).vrt v).eqPhase = true ∧ (s.eqEnable v).mem = s.mem := by
  obtain ⟨hen, htail, hhead⟩ : _ ∧ _ ∧ (s.eqEnable v).rd DB_EQ_HEAD.HEAD v = 0 :=
    regGet_ringEnabled s.regs (en := EQ_CFG.ENABLE) (head := EQ_CFG.TAIL) v 0 rfl (by decide) (by decide)
  exact ⟨congrArg (· != 0) hen, htail, hhead, congrArg VefRt.eqPhase (State.vrt_setV _ v _), rfl⟩

theorem State.vehicleNs_congr {s t : State} (h : s.time = t.time) : s.vehicleNs = t.vehicleNs := State.ns_congr h 0

/-- The first window opens at the present vehicle time, which no register write moves. -/
theorem State.aqEnable_facts (s : State) (v : Nat) : (s.aqEnable v).flag RING_VEF_AQ_CTL.ENABLE v = true ∧
    (s.aqEnable v).rd RING_VEF_AQ_CTL.TAIL v = 0 ∧ (s.aqEnable v).rd RING_VEF_AQ_HEAD.HEAD v = 0 ∧
    ((s.aqEnable v).vrt v).aqPhase = true ∧ ((s.aqEnable v).vrt v).acctOpen = true ∧
    ((s.aqEnable v).vrt v).acct = Acct.opened s.vehicleNs := by
  obtain ⟨hen, htail, hhead⟩ : _ ∧ _ ∧ (s.aqEnable v).rd RING_VEF_AQ_HEAD.HEAD v = 0 :=
    regGet_ringEnabled s.regs (en := RING_VEF_AQ_CTL.ENABLE) (head := RING_VEF_AQ_CTL.TAIL) v 0 rfl (by decide) (by decide)
  exact ⟨congrArg (· != 0) hen, htail, hhead, congrArg VefRt.aqPhase (State.vrt_setV _ v _),
    congrArg VefRt.acctOpen (State.vrt_setV _ v _),
    (congrArg VefRt.acct (State.vrt_setV _ v _)).trans (congrArg Acct.opened (State.vehicleNs_congr rfl))⟩

theorem exec_ringEnable_sq {s : State} {src : Source} {v : Fin 129} {r : Fin 8} (h : s.reaches src v) (hr : ringExists v r) :
    exec (.ringEnable src v (.sq r)) s = .next (if s.flag SQ_CFG.ENABLE v r then s else s.sqEnable v r) := by
  rcases h with ⟨hv, hw⟩ | ⟨hv, hp⟩
  · exact (if_pos hv).trans (congrArg _ (State.onCantleRing_reached ⟨hw, hr hv⟩ _))
  · exact (if_neg hv).trans (congrArg _ (if_neg (by rw [hp]; decide)))

theorem exec_ringEnable_cq {s : State} {src : Source} {v : Fin 129} (h : s.reaches src v) :
    exec (.ringEnable src v .cq) s = .next (if s.flag CQ_CFG.ENABLE v then s else s.cqEnable v) := by
  rcases h with ⟨hv, hw⟩ | ⟨hv, hp⟩
  · exact (if_pos hv).trans (congrArg _ (State.onCantleRing_reached ⟨hw, by decide⟩ _))
  · exact (if_neg hv).trans (congrArg _ (if_neg (by rw [hp]; decide)))

theorem exec_ringEnable_eq {s : State} {src : Source} {v : Fin 129} (h : s.reaches src v) (hv : v.val ≠ cantleSet) :
    exec (.ringEnable src v .eq) s = .next (if s.flag EQ_CFG.ENABLE v then s else s.eqEnable v) := by
  rcases h with ⟨hv', -⟩ | ⟨-, hp⟩
  · exact absurd hv' hv
  · exact (if_neg hv).trans (congrArg _ (if_neg (by rw [hp]; decide)))

theorem exec_ringEnable_aq {s : State} {src : Source} {v : Fin 129} (hv : v.val ≠ cantleSet) (hw : (s.who src).fwHyp = true) :
    exec (.ringEnable src v .aq) s = .next (if s.flag RING_VEF_AQ_CTL.ENABLE v then s else s.aqEnable v) :=
  (if_neg hv).trans (congrArg _ (if_neg (by rw [hw]; decide)))

theorem exec_ringEnable_aq_denied {s : State} {src : Source} {v : Fin 129} (hv : v.val ≠ cantleSet)
    (hw : (s.who src).fwHyp = false) :
    exec (.ringEnable src v .aq) s = .next (s.denied (s.who src) (0xF000901000 + v.val * 0x80 + 0x30)) :=
  (if_neg hv).trans (congrArg _ (if_pos (by rw [hw]; rfl)))

/-- A requester that may not reach the page enables none of its rings. -/
theorem exec_ringEnable_denied {s : State} {src : Source} {v : Fin 129} (hv : v.val ≠ cantleSet)
    (hp : pageOk (s.pageWho src v) v = false) (r : Fin 8) :
    exec (.ringEnable src v (.sq r)) s =
      .next (s.denied (s.pageWho src v) (0xF100000000 + v.val * 0x1000 + (0x100 + r.val * 0x20))) ∧
    exec (.ringEnable src v .cq) s = .next (s.denied (s.pageWho src v) (0xF100000000 + v.val * 0x1000 + 0x200)) ∧
    exec (.ringEnable src v .eq) s = .next (s.denied (s.pageWho src v) (0xF100000000 + v.val * 0x1000 + 0x220)) := by
  have hn : (!pageOk (s.pageWho src v) v) = true := by rw [hp]; rfl
  rw [← Nat.add_assoc]
  exact ⟨(if_neg hv).trans (congrArg _ (if_pos hn)), (if_neg hv).trans (congrArg _ (if_pos hn)),
    (if_neg hv).trans (congrArg _ (if_pos hn))⟩

/-- What RING_ENABLE comes to on the Cantle's ring set, which has no event ring and no accounting ring. -/
theorem exec_ringEnable_cantle {s : State} {src : Source} {v : Fin 129} (hv : v.val = cantleSet) (r : Fin 8) :
    exec (.ringEnable src v (.sq r)) s =
      .next (s.onCantleRing src r (fun s => if s.flag SQ_CFG.ENABLE v r then s else s.sqEnable v r)) ∧
    exec (.ringEnable src v .cq) s =
      .next (s.onCantleRing src 0 (fun s => if s.flag CQ_CFG.ENABLE v then s else s.cqEnable v)) ∧
    exec (.ringEnable src v .eq) s = .next s ∧ exec (.ringEnable src v .aq) s = .next s :=
  ⟨if_pos hv, if_pos hv, if_pos hv, if_pos hv⟩

/-! ### SQ_DISABLE (06 R156) -/

theorem exec_sqDisable {s : State} {src : Source} {v : Fin 129} {r : Fin 8} (h : s.reaches src v) (hr : ringExists v r) :
    exec (.sqDisable src v r) s = .next (if s.flag SQ_CFG.ENABLE v r then s.sqDisable v r else s) := by
  rcases h with ⟨hv, hw⟩ | ⟨hv, hp⟩
  · exact (if_pos hv).trans (congrArg _ (State.onCantleRing_reached ⟨hw, hr hv⟩ _))
  · refine (if_neg hv).trans ((if_neg (by rw [hp]; decide)).trans ?_)
    split <;> rfl

theorem exec_sqDisable_denied {s : State} {src : Source} {v : Fin 129} (r : Fin 8) (hv : v.val ≠ cantleSet)
    (hp : pageOk (s.pageWho src v) v = false) :
    exec (.sqDisable src v r) s = .next (s.denied (s.pageWho src v) (0xF100000100 + v.val * 0x1000 + r.val * 0x20)) :=
  (if_neg hv).trans (if_pos (by rw [hp]; rfl))

theorem exec_sqDisable_cantle {s : State} {src : Source} {v : Fin 129} (r : Fin 8) (hv : v.val = cantleSet) :
    exec (.sqDisable src v r) s =
      .next (s.onCantleRing src r (fun s => if s.flag SQ_CFG.ENABLE v r then s.sqDisable v r else s)) := if_pos hv

/-- Where none of a ring's commands waits, disabling it clears ENABLE and the hold of a FENCE. -/
theorem State.sqDisable_noneQueued {s : State} {v r : Nat} (h : s.queue.any (fun q => q.2.vef == v && q.2.ring == r) = false) :
    s.sqDisable v r =
      (s.wr SQ_CFG.ENABLE 0 v r).setRing v r { (s.wr SQ_CFG.ENABLE 0 v r).ringRt v r with fence := none } := by
  have hnone : (s.wr SQ_CFG.ENABLE 0 v r).queue.filter (fun q => q.2.vef == v && q.2.ring == r) = [] :=
    List.filter_eq_nil_iff.2 (List.any_eq_false.1 h)
  simp only [State.sqDisable, hnone, List.foldl_nil]

/-! ### RING_CONFIG_WRITE (06 R139, R140, 17 R420) -/

theorem exec_ringConfigWrite_aligned {a b : Nat} (src : Source) (x : Nat) (s : State) (hb : b = 4 ∨ b = 8) (ha : a % b = 0) :
    exec (.ringConfigWrite src a b x) s = .next (s.ringCfgAccess src a b x) := (if_pos hb).trans (if_pos ha)

/-- A write of another length, an unaligned one, or one to no ring register changes nothing. -/
theorem exec_ringConfigWrite_idle {a b : Nat} (src : Source) (x : Nat) (s : State)
    (h : ¬((b = 4 ∨ b = 8) ∧ a % b = 0) ∨ findReg a = none) : exec (.ringConfigWrite src a b x) s = .next s := by
  by_cases hok : (b = 4 ∨ b = 8) ∧ a % b = 0
  · have hnone := h.resolve_left (not_not_intro hok)
    rw [exec_ringConfigWrite_aligned src x s hok.1 hok.2, State.ringCfgAccess, hnone]
  · show execRingConfigWrite src a b x s = _
    unfold execRingConfigWrite
    split
    next hb => exact if_neg (fun ha => hok ⟨hb, ha⟩)
    next => rfl

/-- A write that stays within one register is one write to it. -/
theorem State.ringCfgAccess_within {a b : Nat} {h : Hit} (src : Source) (x : Nat) (s : State) (hf : findReg a = some h)
    (hin : ¬(b = 8 ∧ h.reg.place.bytes < h.off + 8)) : s.ringCfgAccess src a b x = s.ringCfgWrite src a b x := by
  simp only [State.ringCfgAccess, hf]
  exact if_neg hin

/-- A four-byte access is one write, whatever its address names. -/
theorem State.ringCfgAccess_word (s : State) (src : Source) (a x : Nat) :
    s.ringCfgAccess src a 4 x = s.ringCfgWrite src a 4 x := by
  cases hf : findReg a with
  | none => simp only [State.ringCfgAccess, State.ringCfgWrite, hf]
  | some h => exact State.ringCfgAccess_within src x s hf (fun h8 => absurd h8.1 (by decide))

theorem exec_ringConfigWrite_word {a : Nat} (src : Source) (x : Nat) (s : State) (ha : a % 4 = 0) :
    exec (.ringConfigWrite src a 4 x) s = .next (s.ringCfgWrite src a 4 x) := by
  rw [exec_ringConfigWrite_aligned src x s (.inl rfl) ha, State.ringCfgAccess_word]

/-- An eight-byte write that passes the register's end is the write of its two words. -/
theorem exec_ringConfigWrite_split {a : Nat} {h : Hit} (src : Source) (x : Nat) (s : State) (hf : findReg a = some h)
    (ha : a % 8 = 0) (hpast : h.reg.place.bytes < h.off + 8) :
    exec (.ringConfigWrite src a 8 x) s =
      .next ((s.ringCfgWrite src a 4 (x % 2 ^ 32)).ringCfgWrite src (a + 4) 4 (x / 2 ^ 32)) := by
  rw [exec_ringConfigWrite_aligned src x s (.inr rfl) ha]
  simp only [State.ringCfgAccess, hf]
  exact congrArg _ (if_pos ⟨trivial, hpast⟩)

/-- A register of a doorbell page answers the requesters of the page. -/
theorem State.ringCfgWrite_page {a : Nat} {h : Hit} (src : Source) (b x : Nat) (s : State) (hf : findReg a = some h)
    (hreg : h.reg.onPage = true) : s.ringCfgWrite src a b x =
      if pageOk (s.pageWho src h.i) h.i then s.ringRegWrite h b x else s.denied (s.pageWho src h.i) a := by
  simp only [State.ringCfgWrite, hf, hreg, if_true]

/-- A register of the RING block answers firmware and the hypervisor. -/
theorem State.ringCfgWrite_ring {a : Nat} {h : Hit} (src : Source) (b x : Nat) (s : State) (hf : findReg a = some h)
    (hpage : h.reg.onPage = false) (hreg : h.reg.inRing = true) : s.ringCfgWrite src a b x =
      if (s.who src).fwHyp then s.ringRegWrite h b x else s.denied (s.who src) a := by
  simp only [State.ringCfgWrite, hf, hpage, hreg, Bool.false_eq_true, if_false, if_true]

theorem State.ringCfgWrite_elsewhere {a : Nat} {h : Hit} (src : Source) (b x : Nat) (s : State) (hf : findReg a = some h)
    (hpage : h.reg.onPage = false) (hring : h.reg.inRing = false) : s.ringCfgWrite src a b x = s := by
  simp only [State.ringCfgWrite, hf, hpage, hring, Bool.false_eq_true, if_false]

/-- Settles O33: each row first asks who reaches the ring set, the Cantle its own and the requesters of the page any other, and
then what the ring's ENABLE holds. That the Cantle reads its completion records at each doorbell is the model's choice (log entry
117). -/
theorem ringsAndDoorbells : Obligations.RingsAndDoorbells := by
  unfold Obligations.RingsAndDoorbells
  refine ⟨fun src v r x s hv hp => ⟨fun hen hlt => ?stored, fun hbad => ?bad⟩,
    fun src v r x s => ⟨fun hv hp => ?denied, fun hv hw => exec_ringEnable_aq_denied hv hw, fun hv hout => ?barred,
      fun hv => ?absent, fun hv hw hr => ?cantleDoorbell⟩,
    fun src v s hs => ⟨fun r hr hen => ?sq, fun hen => ?cq, fun hv hen => ?eq,
      fun r hr => ⟨fun hen => ?sqSame, fun hen => ?offSame, fun hen => ?off⟩, fun hen => ?cqSame, fun hv hen => ?eqSame,
      fun r hr hen hnone => ?offIdle⟩,
    fun src v s hv hw hen => ?aqSame, fun src v s hv hw hen => ?aq, fun src a b x s h hb ha hf => ?write,
    fun src a b x s => ⟨fun h => exec_ringConfigWrite_idle src x s h, fun h hf ha hpast => ?split⟩⟩
  case stored =>
    refine ⟨_, exec_doorbell_page r x hv hp, ?_⟩
    rw [State.doorbell_stored hen hlt, State.rd_wr_same]
    exact ⟨Nat.mod_mod _ _, rfl⟩
  case bad => rw [exec_doorbell_page r x hv hp, State.doorbell_bad hbad]
  case denied =>
    obtain ⟨hsq, hcq, heq⟩ := exec_ringEnable_denied hv hp r
    exact ⟨exec_doorbell_denied r x hv hp, hsq, hcq, heq, exec_sqDisable_denied r hv hp⟩
  case barred =>
    rw [exec_doorbell_cantle r x hv, (exec_ringEnable_cantle hv r).1, exec_sqDisable_cantle r hv]
    simp only [State.onCantleRing_barred hout, and_self]
  case absent =>
    obtain ⟨-, hcq, heq, haq⟩ := exec_ringEnable_cantle (s := s) (src := src) hv r
    exact ⟨heq, haq, fun hw => hcq.trans (congrArg _ (State.onCantleRing_barred (fun h => hw h.1) _))⟩
  case cantleDoorbell => rw [exec_doorbell_cantle r x hv, State.onCantleRing_reached ⟨hw, hr⟩]
  case sq =>
    rw [exec_ringEnable_sq hs hr, hen]
    exact ⟨_, rfl, s.sqEnable_facts v r⟩
  case cq =>
    rw [exec_ringEnable_cq hs, hen]
    exact ⟨_, rfl, s.cqEnable_facts v⟩
  case eq =>
    rw [exec_ringEnable_eq hs hv, hen]
    exact ⟨_, rfl, s.eqEnable_facts v⟩
  case sqSame => rw [exec_ringEnable_sq hs hr, if_pos hen]
  case offSame => rw [exec_sqDisable hs hr, hen]; rfl
  case off => rw [exec_sqDisable hs hr, if_pos hen]; rfl
  case cqSame => rw [exec_ringEnable_cq hs, if_pos hen]
  case eqSame => rw [exec_ringEnable_eq hs hv, if_pos hen]
  case offIdle =>
    rw [exec_sqDisable hs hr, if_pos hen, State.sqDisable_noneQueued hnone]
    exact ⟨_, rfl, rfl, rfl, rfl, rfl⟩
  case aqSame => rw [exec_ringEnable_aq hv hw, if_pos hen]
  case aq =>
    rw [exec_ringEnable_aq hv hw, hen]
    exact ⟨_, rfl, s.aqEnable_facts v⟩
  case write =>
    have hwidth : b = 4 ∨ b = 8 := hb.imp id And.left
    have hone : ¬(b = 8 ∧ h.reg.place.bytes < h.off + 8) := by omega
    rw [exec_ringConfigWrite_aligned src x s hwidth ha, State.ringCfgAccess_within src x s hf hone]
    refine ⟨fun hpage => ?page, fun hpage hring => ?ring, fun hpage hring => ?elsewhere⟩
    case page =>
      rw [State.ringCfgWrite_page src b x s hf hpage]
      exact ⟨fun hp => by rw [if_pos hp], fun hp => by rw [hp]; rfl⟩
    case ring =>
      rw [State.ringCfgWrite_ring src b x s hf hpage hring]
      exact ⟨fun hw => by rw [if_pos hw], fun hw => by rw [hw]; rfl⟩
    case elsewhere => rw [State.ringCfgWrite_elsewhere src b x s hf hpage hring]
  case split =>
    refine ⟨_, exec_ringConfigWrite_word src _ s (by omega), ?_⟩
    rw [exec_ringConfigWrite_split src x s hf ha hpast, exec_ringConfigWrite_word src _ _ (by omega)]

/-! ### Premises met -/

/-- An eight-byte write of firmware that begins at the completion ring's head ends in the event ring's. -/
theorem witness_ringWrite_split : ∃ t, exec (.ringConfigWrite .mgmt 0xF100003020 4 5) State.reset = .next t ∧
    exec (.ringConfigWrite .mgmt 0xF100003020 8 0x700000005) State.reset = exec (.ringConfigWrite .mgmt 0xF100003024 4 7) t := by
  obtain ⟨-, -, -, -, -, -, hwords⟩ := ringsAndDoorbells
  exact (hwords .mgmt 0xF100003020 8 0x700000005 State.reset).2 ⟨.dbCqHead, 3, 0, 0⟩ (by decide +kernel) (by decide) (by decide)

/-- The Cantle, and no other, reaches ring set 128. -/
theorem witness_cantleRing : exec (.ringEnable .mgmt 128 (.sq 0)) State.reset = .next State.reset ∧
    ∃ t, exec (.ringEnable .cantle 128 (.sq 0)) State.reset = .next t ∧
      t.flag SQ_CFG.ENABLE (128 : Fin 129) (0 : Fin 8) = true := by
  obtain ⟨-, hbarred, henabled, -⟩ := ringsAndDoorbells
  have hout : ¬(State.reset.who .mgmt = .cantle ∧ (0 : Fin 8).val < 2) := by decide +kernel
  obtain ⟨hsq, -⟩ := henabled .cantle 128 State.reset (by decide +kernel)
  obtain ⟨t, ht, hen, -⟩ := hsq 0 (by decide) (by decide +kernel)
  exact ⟨((hbarred .mgmt 128 0 0 State.reset).2.2.1 rfl hout).2.1, t, ht, hen⟩

end Sys2Proof.Machine
end

section
/-! Descriptor fetch, NOP and FENCE (06 R142, R144, R145, R148, R149). -/

namespace Sys2Proof.Machine

/-! ### DESCRIPTOR_FETCH (06 R142, R144) -/

theorem exec_descriptorFetch_idle {s : State} {v : Fin 129}
    (h : s.fetchOpen v = false ∨ s.cqRoom v = false ∨ s.nextRing v = none) : exec (.descriptorFetch v) s = .next s := by
  show execDescriptorFetch v s = _
  unfold execDescriptorFetch
  rcases h with h | h | h
  · rw [h]; rfl
  · rw [h, Bool.and_false]; rfl
  · rw [h]
    split <;> rfl

theorem exec_descriptorFetch {s : State} {v : Fin 129} {r : Nat} (hopen : s.fetchOpen v = true) (hroom : s.cqRoom v = true)
    (hr : s.nextRing v = some r) : exec (.descriptorFetch v) s = .next (s.fetch v r) := by
  show execDescriptorFetch v s = _
  simp only [execDescriptorFetch, hopen, hroom, hr, Bool.and_self, if_true]

/-- The descriptor at the head of a ring, as the command that it is fetched as. -/
def State.headCmd (s : State) (v r : Nat) : Cmd :=
  ⟨v, r, s.ringClass v r, s.rd SQ_CFG.ENGINE v r, s.rd SQ_CFG.HEAD v r,
    s.ringRead (s.flag SQ_CFG.LOC v r) (s.sqCtx v r) (s.rd SQ_CFG.BASE v r / 4096 * 4096 + s.rd SQ_CFG.HEAD v r * 64) 64,
    0, s.fetched, []⟩

/-- The state once the descriptor has been read and the head has moved past it. -/
def State.headMoved (s : State) (v r : Nat) : State :=
  (s.ringTouch (s.flag SQ_CFG.LOC v r) (s.sqCtx v r) (s.rd SQ_CFG.BASE v r / 4096 * 4096 + s.rd SQ_CFG.HEAD v r * 64) 64).wr
    SQ_CFG.HEAD ((s.rd SQ_CFG.HEAD v r + 1) % 2 ^ s.rd SQ_CFG.SIZE_LOG2 v r) v r

/-- The state with the ring noted as the last and the command counted as fetched. -/
def State.headTaken (s : State) (v r : Nat) : State :=
  { (s.headMoved v r).setV v { (s.headMoved v r).vrt v with lastRing := r } with fetched := (s.headMoved v r).fetched + 1 }

/-- A completion slot of VEF `v` reserved. -/
def State.slotReserved (s : State) (v : Nat) : State := s.setV v { s.vrt v with reserved := (s.vrt v).reserved + 1 }

/-- A command is not the ring's own to give: another VEF, ASID or STREAM_ID, or a freeze or thaw without PRIV (06 R144). -/
def State.foreignCmd (s : State) (v : Nat) (c : Cmd) : Prop :=
  (v ≠ cantleSet ∧ (c.op 2 1 % 128 ≠ v ∨ c.asid ≠ s.rd RING_VEF_ASID.ASID v c.ring ∨
      c.stream ≠ s.rd RING_VEF_CFG.STREAM_ID v)) ∨
    (v ≠ cantleSet ∧ (c.opcode = 0x70 ∨ c.opcode = 0x71) ∧ !s.flag RING_VEF_CFG.PRIV v)

theorem State.fetch_discarded {s : State} {v r : Nat} (h : (s.headTaken v r).foreignCmd v (s.headCmd v r)) :
    s.fetch v r = (s.headTaken v r).inc RING_VEF_DISC.DISCARD v := if_pos h

theorem State.fetch_accepted {s : State} {v r : Nat} (h : ¬(s.headTaken v r).foreignCmd v (s.headCmd v r)) :
    s.fetch v r = if (s.headCmd v r).formCause ≠ 0 then
        ((s.headTaken v r).slotReserved v).complete (s.headCmd v r) 0x40 (s.headCmd v r).formCause 0
      else ((s.headTaken v r).slotReserved v).joinQueue (s.headCmd v r) := if_neg h

/-- A discard moves the head, counts, and touches neither queues nor slots. -/
theorem State.discarded_facts (s : State) (v r : Nat) :
    ((s.headTaken v r).inc RING_VEF_DISC.DISCARD v).rd SQ_CFG.HEAD v r =
        (s.rd SQ_CFG.HEAD v r + 1) % 2 ^ s.rd SQ_CFG.SIZE_LOG2 v r % 65536 ∧
      ((s.headTaken v r).inc RING_VEF_DISC.DISCARD v).queue = (s.headMoved v r).queue ∧
      ((s.headTaken v r).inc RING_VEF_DISC.DISCARD v).rd RING_VEF_DISC.DISCARD v =
        min ((s.headMoved v r).rd RING_VEF_DISC.DISCARD v + 1) (2 ^ RING_VEF_DISC.DISCARD.w - 1) ∧
      (((s.headTaken v r).inc RING_VEF_DISC.DISCARD v).vrt v).reserved = ((s.headMoved v r).vrt v).reserved := by
  have hslot := congrArg VefRt.reserved
    (State.vrt_setV (s.headMoved v r) v { (s.headMoved v r).vrt v with lastRing := r })
  refine ⟨?head, rfl, State.rd_inc_same _ _ _ _, hslot⟩
  case head =>
    rw [State.rd_inc_ne _ _ _ _ _ _ _ (by decide) (by decide) (by decide)]
    exact State.rd_wr_same _ SQ_CFG.HEAD _ v r

/-! ### NOP and FENCE (06 R145, R148, R149) -/

theorem exec_nop {s : State} {res : Res} {cls : Fin 4} {c : Cmd} (h : s.headIs res cls 1 = some c) :
    exec (.nop res cls) s = .next (if s.waits c then s else s.endQueued c 0 0 0) := by
  show execNop res cls s = _
  simp only [execNop, h]
  split <;> rfl

theorem exec_nop_idle {s : State} {res : Res} {cls : Fin 4} (h : s.headIs res cls 1 = none) : exec (.nop res cls) s = .next s := by
  show execNop res cls s = _
  simp only [execNop, h]

theorem exec_fence {s : State} {res : Res} {cls : Fin 4} {c : Cmd} (h : s.headIs res cls 2 = some c) :
    exec (.fence res cls) s = .next (if s.fenceWaits c || s.waits c then
      s.setRing c.vef c.ring { s.ringRt c.vef c.ring with fence := some c.serial } else s.fenceDone c) := by
  show execFence res cls s = _
  simp only [execFence, h]
  split <;> rfl

theorem exec_fence_idle {s : State} {res : Res} {cls : Fin 4} (h : s.headIs res cls 2 = none) :
    exec (.fence res cls) s = .next s := by
  show execFence res cls s = _
  simp only [execFence, h]

theorem exec_fenceRelease_free {s : State} {v : Fin 129} {r : Fin 8} (h : (s.ringRt v r).fence = none) :
    exec (.fenceRelease v r) s = .next s := by
  show execFenceRelease v r s = _
  simp only [execFenceRelease, h]

/-- A hold whose FENCE is in no queue is lifted. -/
theorem exec_fenceRelease_gone {s : State} {v : Fin 129} {r : Fin 8} {k : Nat} (h : (s.ringRt v r).fence = some k)
    (hq : s.queue.find? (fun q => q.2.serial == k) = none) :
    exec (.fenceRelease v r) s = .next (s.setRing v r { s.ringRt v r with fence := none }) := by
  show execFenceRelease v r s = _
  simp only [execFenceRelease, h, hq, Option.map_none]

theorem exec_fenceRelease {s : State} {v : Fin 129} {r : Fin 8} {k : Nat} {q : Res × Cmd} (h : (s.ringRt v r).fence = some k)
    (hq : s.queue.find? (fun q => q.2.serial == k) = some q) :
    exec (.fenceRelease v r) s = .next (if s.fenceWaits q.2 || s.waits q.2 then s else s.fenceDone q.2) := by
  show execFenceRelease v r s = _
  simp only [execFenceRelease, h, hq, Option.map_some]
  split <;> rfl

/-- Settles O34: a fetch discards or goes on by the descriptor that it has read, and a FENCE completes or holds its ring by the
commands that it waits for. -/
theorem fetchNopAndFence : Obligations.FetchNopAndFence := by
  unfold Obligations.FetchNopAndFence
  refine ⟨fun v s h => exec_descriptorFetch_idle h,
    fun v r s hopen hroom hr => ⟨fun hv hwrong => ?discarded, fun hown => ?accepted⟩,
    fun r cls c s h => exec_nop h, fun r cls s => ⟨exec_nop_idle, exec_fence_idle⟩,
    fun v r s => ⟨exec_fenceRelease_free, fun k hk hq => exec_fenceRelease_gone hk hq⟩,
    fun r cls c s h => ⟨fun hw => ?holds, fun hf hw => ?completes⟩,
    fun v r k q s hk hq => ⟨fun hw => ?stillHolds, fun hf hw => ?released⟩⟩
  case discarded =>
    have hd : (s.headTaken v r).foreignCmd v (s.headCmd v r) := by
      rcases hwrong with h | h | h | ⟨h, hpriv⟩
      · exact .inl ⟨hv, .inl h⟩
      · exact .inl ⟨hv, .inr (.inl h)⟩
      · exact .inl ⟨hv, .inr (.inr h)⟩
      · exact .inr ⟨hv, h, (congrArg Bool.not hpriv : (!State.flag _ _ _) = true)⟩
    refine ⟨_, exec_descriptorFetch hopen hroom hr, ?_⟩
    rw [State.fetch_discarded hd]
    exact s.discarded_facts v r
  case accepted =>
    have hk : ¬(s.headTaken v r).foreignCmd v (s.headCmd v r) := by
      rcases hown with hv | ⟨hvef, hasid, hstream, hpriv⟩
      · exact fun hd => hd.elim (fun h => h.1 hv) (fun h => h.1 hv)
      · rintro (⟨-, h | h | h⟩ | ⟨-, hop, hnot⟩)
        · exact h hvef
        · exact h hasid
        · exact h hstream
        · rcases hpriv with ⟨h0, h1⟩ | hpriv
          · exact hop.elim h0 h1
          · have hheld : (s.headTaken v r).flag RING_VEF_CFG.PRIV v = true := hpriv
            rw [hheld] at hnot
            cases hnot
    rw [exec_descriptorFetch hopen hroom hr, State.fetch_accepted hk]
    rfl
  case holds => rw [exec_fence h, if_pos (Bool.or_eq_true_iff.2 hw)]
  case completes =>
    rw [exec_fence h, hf, hw]
    rfl
  case stillHolds => rw [exec_fenceRelease hk hq, if_pos (Bool.or_eq_true_iff.2 hw)]
  case released =>
    rw [exec_fenceRelease hk hq, hf, hw]
    rfl

/-! ### Premises met -/

/-- VEF 1 active, with a completion ring and one descriptor of zeros, which names VEF 0, on its ring 0 in host memory. -/
def misnamedReady : State :=
  (((((((State.reset.wr SQ_CFG.ENABLE 1 1).wr SQ_CFG.SIZE_LOG2 6 1).wr SQ_CFG.LOC 1 1).wr DB_SQ_TAIL.TAIL 1 1).wr
    CQ_CFG.ENABLE 1 1).wr CQ_CFG.SIZE_LOG2 6 1).wr VEF_CTL.STATE vActive 1)

theorem witness_discarded : ∃ t, exec (.descriptorFetch 1) misnamedReady = .next t ∧ t.rd SQ_CFG.HEAD (1 : Fin 129) 0 = 1 := by
  obtain ⟨-, hfetch, -⟩ := fetchNopAndFence
  obtain ⟨t, ht, hhead, -⟩ := (hfetch 1 0 misnamedReady (by decide +kernel) (by decide +kernel) (by decide +kernel)).1
    (by decide) (.inl (by decide +kernel))
  exact ⟨t, ht, hhead.trans (by decide +kernel)⟩

end Sys2Proof.Machine
end

section
/-! Accounting windows, deferred records and calibration (06 R162, R164–R166). -/

namespace Sys2Proof.Machine

/-! ### What a write in the hypervisor's address space leaves of the VEFs (06 R135, 12 R302) -/

/-- A part of the state that no step of a fold changes is as it was before. -/
theorem foldl_part {α β γ : Type} (g : β → γ) {f : β → α → β} (h : ∀ b a, g (f b a) = g b) (l : List α) (b : β) :
    g (l.foldl f b) = g b := by
  induction l generalizing b with
  | nil => rfl
  | cons a l ih => exact (ih (f b a)).trans (h b a)

theorem State.vefs_putByte (s : State) (a : Nat) (x : Byte) : (s.putByte a x).vefs = s.vefs := by
  by_cases h : s.inHbm a = false ∨ s.keyAt a = 0
  · rw [State.putByte_not_taken x h]
  · rw [not_or, Bool.not_eq_false] at h
    obtain ⟨hbm, tags, heq, -⟩ := State.putByte_eq x h.1 h.2
    rw [heq]
    rfl

theorem State.vefs_putBytes (s : State) (a : Nat) (bs : Bytes) : (s.putBytes a bs).vefs = s.vefs := by
  induction bs generalizing s a with
  | nil => rfl
  | cons b r ih => exact (ih _ _).trans (s.vefs_putByte a b)

theorem State.vefs_healWords (s : State) (a n : Nat) : (s.healWords a n).vefs = s.vefs := by
  unfold State.healWords
  refine foldl_part State.vefs (fun t k => ?_) _ s
  dsimp only
  split <;> rfl

theorem State.vefs_noteOut (s : State) (a n : Nat) : (s.noteOut a n).vefs = s.vefs := by
  unfold State.noteOut
  split <;> rfl

theorem State.vefs_memWrite (s : State) (a : Nat) (bs : Bytes) : (s.memWrite a bs).vefs = s.vefs := by
  rw [State.memWrite, State.vefs_healWords, State.vefs_putBytes, State.vefs_noteOut]

theorem State.vefs_iommuFault (s : State) (dev : Nat) (pid : Option Nat) (iova : Nat) (write : Bool) :
    (s.iommuFault dev pid iova write).vefs = s.vefs := by
  unfold State.iommuFault
  dsimp only
  split
  · rfl
  · split
    · rfl
    · simp only [State.vefs_memWrite]

theorem State.vefs_noteAccess_hyp (s : State) (stream : Nat) (asid : Option Nat) (a n : Nat) (write : Bool) :
    (s.noteAccess (.hyp stream asid) a n write).vefs = s.vefs := by
  have hdeny : ∀ d, (s.noteDeny (.hyp stream asid) a write d).vefs = s.vefs := by
    rintro (_ | d)
    · rfl
    · exact s.vefs_iommuFault _ _ _ _
  refine (apply_ite State.vefs _ _ _).trans ?_
  split
  · exact hdeny _
  · exact hdeny _

/-- One byte written in a context; a refused one is discarded. -/
def State.putVia (s : State) (c : Ctx) (a : Nat) (x : Byte) : State :=
  match s.xlate c a true with
  | .ok p => s.putByte p x
  | .error _ => s

theorem State.ctxPut_cons (s : State) (c : Ctx) (a : Nat) (x : Byte) (r : Bytes) :
    s.ctxPut c a (x :: r) = (s.putVia c a x).ctxPut c (a + 1) r := by
  rw [State.ctxPut]
  rfl

theorem State.vefs_putVia (s : State) (c : Ctx) (a : Nat) (x : Byte) : (s.putVia c a x).vefs = s.vefs := by
  unfold State.putVia
  split
  · exact s.vefs_putByte _ x
  · rfl

theorem State.vefs_ctxPut (s : State) (c : Ctx) (a : Nat) (bs : Bytes) : (s.ctxPut c a bs).vefs = s.vefs := by
  induction bs generalizing s a with
  | nil => rfl
  | cons x r ih => rw [State.ctxPut_cons, ih, State.vefs_putVia]

theorem State.vefs_ctxWrite_hyp (s : State) (stream : Nat) (asid : Option Nat) (a : Nat) (bs : Bytes) :
    (s.ctxWrite (.hyp stream asid) a bs).vefs = s.vefs := by
  unfold State.ctxWrite
  refine (foldl_part State.vefs (fun t k => ?_) _ _).trans
    ((State.vefs_ctxPut _ _ _ _).trans (s.vefs_noteAccess_hyp stream asid a _ _))
  dsimp only
  split
  · split
    · split <;> rfl
    · rfl
  · rfl

/-- What moves in the hypervisor's name is charged to no VEF. -/
theorem State.vefs_ringRecord_hyp (s : State) (host : Bool) (a : Nat) (bs : Bytes) (w : Nat) :
    (s.ringRecord host hypCtx a bs w).vefs = s.vefs := by
  have hword : ∀ (t : State) (a : Nat) (bs : Bytes), (t.ringWrite host hypCtx a bs).vefs = t.vefs := by
    intro t a bs
    cases host
    · exact t.vefs_ctxWrite_hyp _ _ a bs
    · rfl
  exact (hword _ _ _).trans (foldl_part State.vefs (fun t k => hword t _ _) _ s)

theorem State.regs_irq (s : State) (a d : Nat) : (s.irq a d).regs = s.regs := by
  unfold State.irq
  dsimp only
  split <;> rfl

theorem State.vefs_irq (s : State) (a d : Nat) : (s.irq a d).vefs = s.vefs := by
  unfold State.irq
  dsimp only
  split <;> rfl

/-! ### One record written (06 R165, R166) -/

theorem State.vrt_congr {s t : State} (h : s.vefs = t.vefs) (v : Nat) : s.vrt v = t.vrt v := by
  unfold State.vrt
  rw [h]

theorem State.aqRoom_congr {s t : State} (h : s.regs = t.regs) (v : Nat) : s.aqRoom v = t.aqRoom v := by
  unfold State.aqRoom
  rw [State.rd_congr s t h, State.rd_congr s t h, State.rd_congr s t h]

/-- The ring's tail moves on by one. -/
theorem State.rd_tail_acctWrite (s : State) (v : Nat) (r : AcctRec) : (s.acctWrite v r).rd RING_VEF_AQ_CTL.TAIL v =
    (s.rd RING_VEF_AQ_CTL.TAIL v + 1) % 2 ^ s.rd RING_VEF_AQ_CTL.SIZE_LOG2 v % 65536 := by
  unfold State.acctWrite
  dsimp only
  split
  · rw [State.rd_congr _ _ (State.regs_irq _ _ _), State.rd_setV]
    exact State.rd_wr_same _ RING_VEF_AQ_CTL.TAIL _ v 0
  · rw [State.rd_setV]
    exact State.rd_wr_same _ RING_VEF_AQ_CTL.TAIL _ v 0

/-- Of the VEF a record changes the ring's PHASE alone. -/
theorem State.vrt_acctWrite (s : State) (v : Nat) (r : AcctRec) :
    ∃ p, (s.acctWrite v r).vrt v = { s.vrt v with aqPhase := p } := by
  unfold State.acctWrite
  dsimp only
  generalize hrec : s.ringRecord _ _ _ _ _ = t
  have hx : ∀ n, ((t.wr RING_VEF_AQ_CTL.TAIL n v).vrt v) = s.vrt v := fun n =>
    State.vrt_congr (by rw [← s.vefs_ringRecord_hyp _ _ _ _, hrec]; rfl) v
  split
  · rw [State.vrt_congr (State.vefs_irq _ _ _), State.vrt_setV, hx]
    exact ⟨_, rfl⟩
  · rw [State.vrt_setV, hx]
    exact ⟨_, rfl⟩

/-! ### Windows that end (06 R162, R164) -/

/-- What commands in flight have used is charged to the open window, and nothing else of the VEF changes. -/
theorem State.vrt_flushUse (s : State) (v : Nat) : ∃ a, (s.flushUse v).vrt v = { s.vrt v with acct := a } := by
  show ∃ a, (s.charge v _).vrt v = _
  unfold State.charge
  split
  · exact ⟨(s.vrt v).acct, rfl⟩
  · exact ⟨_, State.vrt_setV s v _⟩

theorem State.regs_flushUse (s : State) (v : Nat) : (s.flushUse v).regs = s.regs := by
  show (s.charge v _).regs = _
  unfold State.charge
  split <;> rfl

/-- A window that ends leaves its record due, and the next one open. -/
theorem State.vrt_closeWindow (s : State) (v t next : Nat) (stepped final : Bool) :
    ∃ a d, (s.closeWindow v t next stepped final).vrt v =
      { s.vrt v with acct := Acct.opened next, debt := d, acctDue := (s.vrt v).acctDue ++ [⟨a, t, final⟩] } := by
  obtain ⟨a, ha⟩ := s.vrt_flushUse v
  have hx := State.vrt_setV (s.flushUse v) v
  unfold State.closeWindow
  rw [hx, ha]
  exact ⟨_, _, rfl⟩

theorem State.regs_closeWindow (s : State) (v t next : Nat) (stepped final : Bool) :
    (s.closeWindow v t next stepped final).regs = s.regs := s.regs_flushUse v

/-- The end of the window that is number `i` after window `k`. -/
def State.closeNext (s : State) (v k i : Nat) : State :=
  s.closeWindow v ((k + 1 + i) * windowNs) ((k + 1 + i) * windowNs) false false

theorem State.closeEnded_open {s : State} {v : Nat} (now : Nat) (hen : s.flag RING_VEF_AQ_CTL.ENABLE v = true)
    (hopen : (s.vrt v).acctOpen = true) : s.closeEnded v now =
      (List.range (now / windowNs - (s.vrt v).acct.start / windowNs)).foldl
        (fun t i => t.closeNext v ((s.vrt v).acct.start / windowNs) i) s :=
  if_pos (by rw [hen, hopen]; rfl)

/-- Before the open window's end nothing is closed. -/
theorem State.closeEnded_early {s : State} {v now : Nat}
    (h : (s.vrt v).acctOpen = false ∨ now < ((s.vrt v).acct.start / windowNs + 1) * windowNs) : s.closeEnded v now = s := by
  by_cases hon : s.flag RING_VEF_AQ_CTL.ENABLE v = true ∧ (s.vrt v).acctOpen = true
  · have hlt := h.resolve_left (by rw [hon.2]; decide)
    have hle : now / windowNs ≤ (s.vrt v).acct.start / windowNs :=
      Nat.le_of_lt_succ (Nat.div_lt_of_lt_mul (Nat.mul_comm _ _ ▸ hlt))
    rw [State.closeEnded_open now hon.1 hon.2, Nat.sub_eq_zero_of_le hle]
    rfl
  · exact if_neg (fun hboth => hon (Bool.and_eq_true_iff.1 hboth))

/-- The windows that have ended end one after the other, the last of them at the start of the present one. -/
theorem State.closeEnded_late {s : State} {v now : Nat} (hen : s.flag RING_VEF_AQ_CTL.ENABLE v = true)
    (hopen : (s.vrt v).acctOpen = true) (h : ((s.vrt v).acct.start / windowNs + 1) * windowNs ≤ now) :
    ∃ u, s.closeEnded v now = State.closeWindow u v (now / windowNs * windowNs) (now / windowNs * windowNs) false false ∧
      (now / windowNs = (s.vrt v).acct.start / windowNs + 1 → u = s) := by
  have hle : (s.vrt v).acct.start / windowNs + 1 ≤ now / windowNs := (Nat.le_div_iff_mul_le (by decide)).2 h
  obtain ⟨n, hn⟩ := Nat.exists_eq_add_of_le hle
  have hcount : now / windowNs - (s.vrt v).acct.start / windowNs = n + 1 := by omega
  rw [State.closeEnded_open now hen hopen, hcount, List.range_succ, List.foldl_append, hn]
  refine ⟨_, rfl, fun hone => ?_⟩
  have h0 : n = 0 := by omega
  rw [h0]
  rfl

/-! ### Records formed (06 R166) -/

/-- A record together with the windows that wait for it. -/
def State.withBack (s : State) (v : Nat) (r : AcctRec) : AcctRec :=
  match (s.vrt v).acctBack with
  | some b => b.merge r
  | none => r

theorem State.withBack_facts (s : State) (v : Nat) (r : AcctRec) : (s.withBack v r).endNs = r.endNs ∧
    (s.withBack v r).final = r.final ∧ ((s.vrt v).acctBack.isSome = true → (s.withBack v r).acct.merged = true) := by
  unfold State.withBack
  cases (s.vrt v).acctBack with
  | none => exact ⟨rfl, rfl, fun h => nomatch h⟩
  | some b => exact ⟨rfl, rfl, fun _ => rfl⟩

/-- The windows that wait for a record, taken out. -/
def State.backTaken (s : State) (v : Nat) : State := s.setV v { s.vrt v with acctBack := none }

/-- A record kept to be merged with the next. -/
def State.recordKept (s : State) (v : Nat) (r : AcctRec) : State := s.setV v { s.vrt v with acctBack := some r }

/-- What becomes of a record that falls due, once the pending ones have been written as far as there is room. -/
theorem State.postRecord_eq (s : State) (v : Nat) (r : AcctRec) : s.postRecord v r =
    if (s.acctDrain v).aqRoom v && ((s.acctDrain v).vrt v).acctPending.isEmpty then
      ((s.acctDrain v).backTaken v).acctWrite v ((s.acctDrain v).withBack v r)
    else if ((s.acctDrain v).withBack v r).final then
      ((s.acctDrain v).backTaken v).setV v { ((s.acctDrain v).backTaken v).vrt v with
        acctPending := ((s.acctDrain v).vrt v).acctPending ++ [(s.acctDrain v).withBack v r] }
    else ((s.acctDrain v).backTaken v).recordKept v ((s.acctDrain v).withBack v r) := rfl

/-- The open window of a VEF and the windows whose records are due. -/
def State.windows (s : State) (v : Nat) : Acct × List AcctRec := ((s.vrt v).acct, (s.vrt v).acctDue)

theorem State.windows_setV (s : State) (v : Nat) (x : VefRt) : (s.setV v x).windows v = (x.acct, x.acctDue) := by
  rw [State.windows, State.vrt_setV]

theorem State.windows_acctWrite (s : State) (v : Nat) (r : AcctRec) : (s.acctWrite v r).windows v = s.windows v := by
  obtain ⟨p, hp⟩ := s.vrt_acctWrite v r
  rw [State.windows, hp]
  rfl

theorem State.windows_acctDrain (s : State) (v : Nat) : (s.acctDrain v).windows v = s.windows v := by
  refine foldl_part (fun t => t.windows v) (fun t r => ?_) _ s
  dsimp only
  split
  · exact (State.windows_setV _ v _).trans (t.windows_acctWrite v r)
  · rfl

theorem State.windows_postRecord (s : State) (v : Nat) (r : AcctRec) : (s.postRecord v r).windows v = s.windows v := by
  have hback : ((s.acctDrain v).backTaken v).windows v = s.windows v :=
    (State.windows_setV _ v _).trans (s.windows_acctDrain v)
  rw [State.postRecord_eq]
  split
  · exact (State.windows_acctWrite _ v _).trans hback
  · split
    · exact (State.windows_setV _ v _).trans hback
    · exact (State.windows_setV _ v _).trans hback

/-- Once the records are formed none is due, and the open window is as it was. -/
theorem State.windows_postDue (s : State) (v : Nat) : (s.postDue v).windows v = ((s.vrt v).acct, []) :=
  (foldl_part (fun t : State => t.windows v) (fun t r => t.windows_postRecord v r) _ _).trans (State.windows_setV s v _)

theorem State.postDue_one {s : State} {v : Nat} {r : AcctRec} (h : (s.vrt v).acctDue = [r]) :
    s.postDue v = (s.setV v { s.vrt v with acctDue := [] }).postRecord v r := by
  rw [State.postDue, h]
  rfl

/-- With room and none pending a record is written at once. -/
theorem State.postRecord_room {s : State} {v : Nat} (r : AcctRec) (hroom : s.aqRoom v = true) (hnone : (s.vrt v).acctPending = []) :
    s.postRecord v r = (s.backTaken v).acctWrite v (s.withBack v r) := by
  have hdrain : s.acctDrain v = s := by rw [State.acctDrain, hnone]; rfl
  rw [State.postRecord_eq, hdrain, hroom, hnone]
  rfl

/-- With no room every pending record stays pending. -/
theorem State.acctDrain_full {s : State} {v : Nat} (hfull : s.aqRoom v = false) : s.acctDrain v = s := by
  have hstep : ∀ r : AcctRec, (if s.aqRoom v then
      (s.acctWrite v r).setV v { (s.acctWrite v r).vrt v with acctPending := ((s.acctWrite v r).vrt v).acctPending.drop 1 }
    else s) = s := fun r => if_neg (by rw [hfull]; exact Bool.false_ne_true)
  unfold State.acctDrain
  induction (s.vrt v).acctPending with
  | nil => rfl
  | cons r rest ih => exact (congrArg (fun t => List.foldl _ t rest) (hstep r)).trans ih

/-- With no room a record that is not FINAL is kept to be merged with the next. -/
theorem State.postRecord_full {s : State} {v : Nat} {r : AcctRec} (hfull : s.aqRoom v = false) (hr : r.final = false) :
    s.postRecord v r = (s.backTaken v).recordKept v (s.withBack v r) := by
  have hdrain : s.acctDrain v = s := State.acctDrain_full hfull
  have hfinal : (s.withBack v r).final = false := (s.withBack_facts v r).2.1.trans hr
  rw [State.postRecord_eq, hdrain, hfull, hfinal]
  rfl

/-! ### The rows -/

theorem exec_accountingWindowEnd (v : Fin 128) (s : State) : exec (.accountingWindowEnd v) s =
    if s.flag RING_VEF_AQ_CTL.ENABLE v && !((s.closeEnded v s.vehicleNs).vrt v).acctDue.isEmpty then
      .next ((s.closeEnded v s.vehicleNs).postDue v)
    else .next s := rfl

theorem exec_accountingWindowEnd_due {v : Fin 128} {s : State} (hen : s.flag RING_VEF_AQ_CTL.ENABLE v = true)
    (hdue : ((s.closeEnded v s.vehicleNs).vrt v).acctDue ≠ []) :
    exec (.accountingWindowEnd v) s = .next ((s.closeEnded v s.vehicleNs).postDue v) := by
  rw [exec_accountingWindowEnd, hen, List.isEmpty_eq_false_iff.2 hdue]
  rfl

theorem exec_accountingRecordDeferred_idle {v : Fin 128} {s : State}
    (h : (s.vrt v).acctPending = [] ∨ s.flag RING_VEF_AQ_CTL.ENABLE v = false ∨ s.aqRoom v = false) :
    exec (.accountingRecordDeferred v) s = .next s := by
  show execAccountingRecordDeferred v s = _
  unfold execAccountingRecordDeferred
  split
  next r rest hp =>
    refine if_neg (fun hboth => ?_)
    obtain ⟨hroom, hen⟩ := Bool.and_eq_true_iff.1 hboth
    rcases h with h | h | h
    · exact List.cons_ne_nil _ _ (hp.symm.trans h)
    · exact Bool.false_ne_true (h.symm.trans hen)
    · exact Bool.false_ne_true (h.symm.trans hroom)
  next => rfl

theorem exec_accountingRecordDeferred {v : Fin 128} {s : State} {r : AcctRec} {rest : List AcctRec}
    (hp : (s.vrt v).acctPending = r :: rest) (hen : s.flag RING_VEF_AQ_CTL.ENABLE v = true) (hroom : s.aqRoom v = true) :
    exec (.accountingRecordDeferred v) s =
      .next ((s.acctWrite v r).setV v { (s.acctWrite v r).vrt v with acctPending := rest }) := by
  show execAccountingRecordDeferred v s = _
  simp only [execAccountingRecordDeferred, hp, hroom, hen, Bool.and_self, if_true]

theorem exec_energyRecalibration (a b c : Nat) (d : List Nat) (s : State) : exec (.energyRecalibration a b c d) s =
    if s.fwOut 6 then .next s
    else if s.localNs < s.power.calAt + 10000000 && s.power.calAt != 0 then .next s
    else .next { s with power :=
      { s.power with coefCell := a, coefEngine := b, coefByte := c, coefStatic := d, calAt := s.localNs } } := rfl

/-- A window has ended: one is open that holds the present time, and no record is left due. -/
theorem accountingWindowEnd_windows {v : Fin 128} {s : State} (hen : s.flag RING_VEF_AQ_CTL.ENABLE v = true)
    (hopen : (s.vrt v).acctOpen = true) (hend : ((s.vrt v).acct.start / windowNs + 1) * windowNs ≤ s.vehicleNs) :
    ∃ t, exec (.accountingWindowEnd v) s = .next t ∧
      (t.vrt v).acct = Acct.opened (s.vehicleNs / windowNs * windowNs) ∧ (t.vrt v).acctDue = [] := by
  obtain ⟨u, hu, -⟩ := State.closeEnded_late hen hopen hend
  obtain ⟨a, d, hx⟩ := u.vrt_closeWindow v (s.vehicleNs / windowNs * windowNs) (s.vehicleNs / windowNs * windowNs) false false
  rw [← hu] at hx
  have hdue : ((s.closeEnded v s.vehicleNs).vrt v).acctDue ≠ [] := by
    rw [hx]
    exact List.append_ne_nil_of_right_ne_nil _ (List.cons_ne_nil _ _)
  obtain ⟨hacct, hnone⟩ := Prod.mk.inj ((s.closeEnded v s.vehicleNs).windows_postDue v)
  exact ⟨_, exec_accountingWindowEnd_due hen hdue, hacct.trans (congrArg VefRt.acct hx), hnone⟩

/-- One window has ended and no other is due: the state with that window closed and its record alone to be formed. -/
theorem accountingWindowEnd_one {v : Fin 128} {s : State} (hen : s.flag RING_VEF_AQ_CTL.ENABLE v = true)
    (hopen : (s.vrt v).acctOpen = true) (hend : ((s.vrt v).acct.start / windowNs + 1) * windowNs ≤ s.vehicleNs)
    (hdue : (s.vrt v).acctDue = []) (hone : s.vehicleNs / windowNs = (s.vrt v).acct.start / windowNs + 1) :
    ∃ (u : State) (r : AcctRec), exec (.accountingWindowEnd v) s = .next (u.postRecord v r) ∧ u.regs = s.regs ∧
      (u.vrt v).acctPending = (s.vrt v).acctPending ∧ (u.vrt v).acctBack = (s.vrt v).acctBack ∧
      r.endNs = s.vehicleNs / windowNs * windowNs ∧ r.final = false := by
  obtain ⟨u, hu, hs⟩ := State.closeEnded_late hen hopen hend
  obtain rfl := hs hone
  obtain ⟨a, d, hx⟩ := u.vrt_closeWindow v (u.vehicleNs / windowNs * windowNs) (u.vehicleNs / windowNs * windowNs) false false
  rw [← hu, hdue, List.nil_append] at hx
  have hrec := congrArg VefRt.acctDue hx
  have hexec := exec_accountingWindowEnd_due hen (hrec ▸ List.cons_ne_nil _ _)
  refine ⟨_, _, hexec.trans (congrArg _ (State.postDue_one hrec)), ?_, ?_, ?_, rfl, rfl⟩
  · exact (congrArg State.regs hu).trans (u.regs_closeWindow _ _ _ _ _)
  · rw [State.vrt_setV, hx]
  · rw [State.vrt_setV, hx]

/-- Settles O38: the windows that have ended are closed one after the other, and a record due is written or kept by the room that
the ring has, which no window's end changes. -/
theorem accounting : Obligations.Accounting := by
  unfold Obligations.Accounting
  refine ⟨fun v s => ⟨fun hoff => ?off, fun hen => ⟨fun hearly => ?early, fun hopen hend =>
      ⟨accountingWindowEnd_windows hen hopen hend, fun hdue hone => ⟨fun hroom hnone => ?room, fun hfull => ?full⟩⟩⟩⟩,
    fun v s => ⟨exec_accountingRecordDeferred_idle, fun r rest hp hen hroom => ?deferred⟩,
    fun a b c d s => ⟨fun hout => ?out, fun hin => ⟨fun hdue => ?taken, fun hset hsoon => ?soon⟩⟩⟩
  case off =>
    rw [exec_accountingWindowEnd, hoff]
    rfl
  case early =>
    rw [exec_accountingWindowEnd, State.closeEnded_early hearly, hen]
    exact ⟨fun hdue => by rw [hdue]; rfl, fun hdue => by rw [List.isEmpty_eq_false_iff.2 hdue]; rfl⟩
  case room =>
    obtain ⟨u, r, hexec, hregs, hpend, -⟩ := accountingWindowEnd_one hen hopen hend hdue hone
    rw [State.postRecord_room r ((State.aqRoom_congr hregs v).trans hroom) (hpend.trans hnone)] at hexec
    obtain ⟨p, hp⟩ := (u.backTaken v).vrt_acctWrite v (u.withBack v r)
    refine ⟨_, hexec, ?_, ?_⟩
    · have hb : (u.backTaken v).regs = s.regs := hregs
      rw [State.rd_tail_acctWrite, State.rd_congr _ s hb, State.rd_congr _ s hb]
    · rw [hp, State.backTaken, State.vrt_setV]
  case full =>
    obtain ⟨u, r, hexec, hregs, -, hback, hends, hfinal⟩ := accountingWindowEnd_one hen hopen hend hdue hone
    rw [State.postRecord_full ((State.aqRoom_congr hregs v).trans hfull) hfinal] at hexec
    obtain ⟨hend', -, hmerged⟩ := u.withBack_facts v r
    refine ⟨_, u.withBack v r, hexec, ?_, ?_, hend'.trans hends, hback ▸ hmerged⟩
    · exact State.rd_congr _ s hregs _ _ _
    · rw [State.recordKept, State.vrt_setV]
  case deferred =>
    refine ⟨_, exec_accountingRecordDeferred hp hen hroom, ?_, rfl, rfl, ?_⟩
    · rw [State.vrt_setV]
    · rw [State.rd_setV, State.rd_tail_acctWrite]
  case out => rw [exec_energyRecalibration, if_pos hout]
  case taken =>
    rw [exec_energyRecalibration, hin, if_neg (by decide)]
    refine if_neg (fun hboth => ?_)
    obtain ⟨hlt, hne⟩ := Bool.and_eq_true_iff.1 hboth
    rcases hdue with h0 | hle
    · exact bne_iff_ne.1 hne h0
    · exact absurd (of_decide_eq_true hlt) (Nat.not_lt.2 hle)
  case soon =>
    rw [exec_energyRecalibration, hin, if_neg (by decide), if_pos]
    rw [decide_eq_true hsoon, bne_iff_ne.2 hset]
    rfl

/-! ### Premises met -/

/-- VEF 3's accounting ring of 64 entries enabled with its tail at `tail`, at 150 ms of vehicle time, a window open since 0 and a
record waiting for it. -/
def windowEnded (tail : Nat) : State :=
  ({ (((State.reset.wr RING_VEF_AQ_CTL.ENABLE 1 3).wr RING_VEF_AQ_CTL.SIZE_LOG2 6 3).wr RING_VEF_AQ_CTL.TAIL tail 3) with
    time := { State.reset.time with acc := [(0, 150000000 * nsUnit)] } } : State).setV 3
    { VefRt.rest with acctOpen := true, acct := Acct.opened 0, acctBack := some ⟨Acct.opened 0, 0, false⟩ }

theorem witness_record_written : ∃ t, exec (.accountingWindowEnd 3) (windowEnded 5) = .next t ∧
    t.rd RING_VEF_AQ_CTL.TAIL (3 : Fin 128) = 6 := by
  obtain ⟨hrow, -⟩ := accounting
  obtain ⟨t, ht, htail, -⟩ := (((((hrow 3 (windowEnded 5)).2 (by decide +kernel)).2 (by decide +kernel) (by decide +kernel)).2
    (by decide +kernel) (by decide +kernel)).1 (by decide +kernel) (by decide +kernel))
  exact ⟨t, ht, htail.trans (by decide +kernel)⟩

theorem witness_record_kept : ∃ t r, exec (.accountingWindowEnd 3) (windowEnded 63) = .next t ∧
    (t.vrt (3 : Fin 128)).acctBack = some r ∧ r.endNs = 100000000 ∧ r.acct.merged = true := by
  obtain ⟨hrow, -⟩ := accounting
  obtain ⟨t, r, ht, -, hback, hend, hmerged⟩ := (((((hrow 3 (windowEnded 63)).2 (by decide +kernel)).2 (by decide +kernel)
    (by decide +kernel)).2 (by decide +kernel) (by decide +kernel)).2 (by decide +kernel))
  exact ⟨t, r, ht, hback, hend.trans (by decide +kernel), hmerged (by decide +kernel)⟩

end Sys2Proof.Machine
end

section
/-! The table commands and SEQ_STEP (07 R173, R174, R179, R183–R185, R188). -/

namespace Sys2Proof.Machine

/-! ### A table command on its field (07 R173) -/

/-- A table command ends with the reply that carrying it out gave, on the state that it left. -/
def tableEnd (f : Fin 17) (j : Job) (r : State × Reply) : State :=
  (r.1.endJob j r.2.status r.2.cause r.2.result).afterTable f

theorem State.tableCommand_idle {s : State} {f : Fin 17} {op : Nat} (g : State → Nat → Cmd → State × Reply)
    (h : s.fwOut 2 = true ∨ s.unstarted (.field f) op = none) : s.tableCommand f op g = s := by
  have hnone : (if s.fwOut 2 then none else s.unstarted (.field f) op) = none := by
    rcases h with hout | hfree
    · exact if_pos hout
    · rw [hfree, ite_self]
  rw [State.tableCommand, hnone]

theorem State.tableCommand_unbound {s : State} {f : Fin 17} {op : Nat} {j : Job} (g : State → Nat → Cmd → State × Reply)
    (hin : s.fwOut 2 = false) (hpool : s.poolOf f = none) (hj : s.unstarted (.field f) op = some j) :
    s.tableCommand f op g = tableEnd f j (s, .format 4) := by
  rw [State.tableCommand, hin, if_neg Bool.false_ne_true, hj, hpool]
  rfl

theorem State.tableCommand_bound {s : State} {f : Fin 17} {op p : Nat} {j : Job} (g : State → Nat → Cmd → State × Reply)
    (hin : s.fwOut 2 = false) (hpool : s.poolOf f = some p) (hj : s.unstarted (.field f) op = some j) :
    s.tableCommand f op g = tableEnd f j (g s p j.cmd) := by
  rw [State.tableCommand, hin, if_neg Bool.false_ne_true, hj, hpool]
  rfl

/-! ### What the tables answer (07 R174, R188) -/

theorem State.seqAdmit_malformed {s : State} {p : Nat} {c : Cmd} (f : Nat)
    (h : c.op 0x20 4 = 0 ∨ c.op 0x24 4 = 0 ∨ 262144 < c.op 0x20 4 + c.op 0x24 4 ∨ ((s.pool p).seq (c.op 0x28 4)).isSome) :
    s.seqAdmit f p c = (s, .format 4) :=
  if_pos h

theorem State.seqRetire_own {s : State} {p : Nat} {c : Cmd} {q : SeqSt} (h : s.ownSeq p c (c.op 0x28 4) = some q) :
    s.seqRetire p c = (s.retireSeq p (c.op 0x28 4), .done 0) := by
  rw [State.seqRetire, h]

theorem State.seqRetire_foreign {s : State} {p : Nat} {c : Cmd} (h : s.ownSeq p c (c.op 0x28 4) = none) :
    s.seqRetire p c = (s, .format 4) := by
  rw [State.seqRetire, h]

/-! ### SEQ_STEP (07 R183–R185) -/

/-- What reading a SEQ_STEP's buffer list and its step entries leaves. -/
def State.stepRead (s : State) (c : Cmd) : State :=
  (s.bufTouch c c.bufOp.1 c.bufOp.2).ctxTouch c.ctx (c.op 0x28 8) (c.op 0x34 4 * 64)

/-- A SEQ_STEP begins on its field with its windows, its steps and the manifest that they give. -/
def State.stepBegun (s : State) (f : Fin 17) (p : Nat) (j : Job) (ws : List Win) (rs : List StepRun) : State :=
  ((s.stepRead j.cmd).changeJob j.cmd.serial (fun j =>
    { j with started := true, wins := ws, steps := rs, manifest := s.stepManifest p rs })).startCells f j.cmd.serial

theorem exec_seqStep_idle {s : State} {f : Fin 17} (h : s.unstarted (.field f) 0x41 = none ∨ s.poolOf f = none) :
    exec (.seqStep f) s = .next s := by
  show execSeqStep f s = _
  unfold execSeqStep
  split
  next j p hj hp =>
    rcases h with h | h
    · exact nomatch hj.symm.trans h
    · exact nomatch hp.symm.trans h
  next => rfl

section
variable {s : State} {f : Fin 17} {p : Nat} {j : Job} {ws : List Win}
  (hj : s.unstarted (.field f) 0x41 = some j) (hp : s.poolOf f = some p)
include hj hp

theorem exec_seqStep_badList {e : Nat} (hlist : s.bufList j.cmd j.cmd.bufOp.1 j.cmd.bufOp.2 = .error e) :
    exec (.seqStep f) s = .next ((s.stepRead j.cmd).refuseJob j.cmd.serial e) := by
  show execSeqStep f s = _
  simp only [execSeqStep, hj, hp, hlist]
  rfl

theorem exec_seqStep_badEntries {e : Nat} (hlist : s.bufList j.cmd j.cmd.bufOp.1 j.cmd.bufOp.2 = .ok ws)
    (hsteps : s.buildSteps p j.cmd ws = .error e) :
    exec (.seqStep f) s = .next ((s.stepRead j.cmd).refuseJob j.cmd.serial e) := by
  show execSeqStep f s = _
  simp only [execSeqStep, hj, hp, hlist, hsteps]
  rfl

theorem exec_seqStep_built {rs : List StepRun} (hlist : s.bufList j.cmd j.cmd.bufOp.1 j.cmd.bufOp.2 = .ok ws)
    (hsteps : s.buildSteps p j.cmd ws = .ok rs) : exec (.seqStep f) s = .next (s.stepBegun f p j ws rs) := by
  show execSeqStep f s = _
  simp only [execSeqStep, hj, hp, hlist, hsteps]
  rfl

end

/-! ### The rows -/

theorem exec_seqAdmit (f : Fin 17) (s : State) :
    exec (.seqAdmit f) s = .next (s.tableCommand f 0x40 (fun s p c => s.seqAdmit f p c)) := rfl

theorem exec_seqRetire (f : Fin 17) (s : State) :
    exec (.seqRetire f) s = .next (s.tableCommand f 0x42 (fun s p c => s.seqRetire p c)) := rfl

theorem exec_prefixPin (f : Fin 17) (s : State) :
    exec (.prefixPin f) s = .next (s.tableCommand f 0x43 (fun s p c => s.prefixPin f p c)) := rfl

theorem exec_prefixUnpin (f : Fin 17) (s : State) :
    exec (.prefixUnpin f) s = .next (s.tableCommand f 0x44 (fun s p c => s.prefixUnpin f p c)) := rfl

/-- Settles O37: a table command changes nothing where none is in flight or its firmware is out of service, ends FORMAT_ERROR
with no pool, and ends with the reply of its table else; SEQ_STEP goes by its buffer list and then by its entries. -/
theorem sequenceTables : Obligations.SequenceTables := by
  unfold Obligations.SequenceTables
  refine ⟨fun s f => ?idle, fun s f j hin hpool => ?unbound,
    fun s f p j hin hpool => ⟨fun hj => ?admitted, fun hj => ?retire, fun hj => ?pin, fun hj => ?unpin⟩,
    fun s f p j hj hp => ⟨fun e hlist => exec_seqStep_badList hj hp hlist, fun ws hlist =>
      ⟨fun e hsteps => exec_seqStep_badEntries hj hp hlist hsteps, fun rs hsteps => exec_seqStep_built hj hp hlist hsteps⟩⟩⟩
  case idle =>
    rw [exec_seqAdmit, exec_seqRetire, exec_prefixPin, exec_prefixUnpin]
    exact ⟨fun h => congrArg _ (State.tableCommand_idle _ h), fun h => congrArg _ (State.tableCommand_idle _ h),
      fun h => congrArg _ (State.tableCommand_idle _ h), fun h => congrArg _ (State.tableCommand_idle _ h), exec_seqStep_idle⟩
  case unbound =>
    rw [exec_seqAdmit, exec_seqRetire, exec_prefixPin, exec_prefixUnpin]
    exact ⟨fun hj => congrArg _ (State.tableCommand_unbound _ hin hpool hj),
      fun hj => congrArg _ (State.tableCommand_unbound _ hin hpool hj),
      fun hj => congrArg _ (State.tableCommand_unbound _ hin hpool hj),
      fun hj => congrArg _ (State.tableCommand_unbound _ hin hpool hj)⟩
  case admitted =>
    rw [exec_seqAdmit, State.tableCommand_bound _ hin hpool hj]
    refine ⟨rfl, fun hbad => ?_⟩
    rw [State.seqAdmit_malformed f hbad]
    rfl
  case retire =>
    rw [exec_seqRetire, State.tableCommand_bound _ hin hpool hj]
    refine ⟨fun q hown => ?own, fun hforeign => ?foreign⟩
    case own =>
      rw [State.seqRetire_own hown]
      rfl
    case foreign =>
      rw [State.seqRetire_foreign hforeign]
      rfl
  case pin =>
    rw [exec_prefixPin, State.tableCommand_bound _ hin hpool hj]
    rfl
  case unpin =>
    rw [exec_prefixUnpin, State.tableCommand_bound _ hin hpool hj]
    rfl

/-! ### Premises met -/

/-- A command of VEF 0, its descriptor of 128 bytes given. -/
def tableCmd (desc : Bytes) : Cmd := ⟨0, 0, 1, 0, 0, desc, 0, 1, []⟩

/-- VEF 0's command in flight on field 3, whose pool 0 holds its sequence 0 with 256 of 300 prompt tokens committed, and which reads
a buffer list at 0 (one writable buffer of 128 bytes) and a step entry at 0x40 (PREFILL of sequence 0). -/
def sequenceHeld (c : Cmd) : State :=
  { ((((((((State.reset.wr VLY_POOL.BOUND 1 0).wr VLY_POOL.BOUND_FIELD 3 0).wr VEF_CTL.STATE vActive).wr VEF_HART.VALID 1).wr
      MEM_PC_IN_SVC.IN_SVC 1).wr MEM_RGN.VALID 1).wr MEM_RGN.LIMIT_RU 12288).wr MEM_RGN.KEY 0x80) with
    std := [((iommuBase + 0x10) / 4, 1)], flight := [c.job (.field 3) 0],
    mem := { State.reset.mem with keys := [(0x80, 1)], hbm := [(8, 128), (0x10, 2), (0x42, 1)] },
    vly := { State.reset.vly with pools := [(0, { PoolSt.empty with seqs := [(0, ⟨0, 300, 400, 256, 256, [], []⟩)] })] } }

/-- SEQ_STEP with one buffer and one entry, at an address. -/
def stepCmd (entry : Nat) : Cmd := tableCmd (leBytes 0x20 0x41 ++ leBytes 8 1 ++ leBytes 12 entry ++ leBytes 0x4C 1)

/-- SEQ_RETIRE of sequence 0. -/
def retireCmd : Cmd := tableCmd (leBytes 128 0x42)

/-- SEQ_ADMIT of one prompt token and one more, as sequence 1. -/
def admitCmd : Cmd := tableCmd (leBytes 0x20 0x40 ++ leBytes 4 1 ++ leBytes 4 1 ++ leBytes 0x58 1)

/-- The 44 prompt tokens that are left become the step's chunk. -/
theorem witness_step_begun : ∃ t, exec (.seqStep 3) (sequenceHeld (stepCmd 0x40)) = .next t ∧
    t.flight.map (·.steps) = [[⟨0, false, false, false, 44, 256, 0, []⟩]] := by
  obtain ⟨-, -, -, hstep⟩ := sequenceTables
  obtain ⟨-, hlist⟩ := hstep (sequenceHeld (stepCmd 0x40)) 3 0 ((stepCmd 0x40).job (.field 3) 0) (by decide +kernel) (by decide +kernel)
  obtain ⟨-, hbuilt⟩ := hlist [⟨0, 128, false, true, false, 0⟩] (by rfl)
  exact ⟨_, hbuilt [⟨0, false, false, false, 44, 256, 0, []⟩] (by rfl), by decide +kernel⟩

/-- An entry of zeros is neither PREFILL nor DECODE. -/
theorem witness_step_refused : ∃ t, exec (.seqStep 3) (sequenceHeld (stepCmd 0x80)) = .next t ∧
    t.flight.map (·.outcome) = [.ended 0x40 4 0] := by
  obtain ⟨-, -, -, hstep⟩ := sequenceTables
  obtain ⟨-, hlist⟩ := hstep (sequenceHeld (stepCmd 0x80)) 3 0 ((stepCmd 0x80).job (.field 3) 0) (by decide +kernel) (by decide +kernel)
  obtain ⟨hbad, -⟩ := hlist [⟨0, 128, false, true, false, 0⟩] (by rfl)
  exact ⟨_, hbad 4 (by rfl), by decide +kernel⟩

theorem witness_retired : ∃ t, exec (.seqRetire 3) (sequenceHeld retireCmd) = .next t ∧ (t.pool 0).seq 0 = none := by
  obtain ⟨-, -, hbound, -⟩ := sequenceTables
  obtain ⟨-, hretire, -⟩ := hbound (sequenceHeld retireCmd) 3 0 (retireCmd.job (.field 3) 0) (by decide +kernel) (by decide +kernel)
  exact ⟨_, (hretire (by decide +kernel)).1 ⟨0, 300, 400, 256, 256, [], []⟩ (by decide +kernel), by decide +kernel⟩

theorem witness_admitted : ∃ t, exec (.seqAdmit 3) (sequenceHeld admitCmd) = .next t ∧
    ((t.pool 0).seq 1).map (·.promptLen) = some 1 := by
  obtain ⟨-, -, hbound, -⟩ := sequenceTables
  obtain ⟨hadmit, -⟩ := hbound (sequenceHeld admitCmd) 3 0 (admitCmd.job (.field 3) 0) (by decide +kernel) (by decide +kernel)
  exact ⟨_, (hadmit (by decide +kernel)).1, by decide +kernel⟩

end Sys2Proof.Machine
end

section
/-! Sensor ingress: cameras, frame sync, lidars, IMUs and the completion of samples (08 R194–R201). -/

namespace Sys2Proof.Machine

/-! ### The record of a source -/

@[simp] theorem State.srt_setSrc (s : State) (i : Nat) (x : SrcRt) : (s.setSrc i x).srt i = x :=
  Sparse.look_put_same _ _ _ _

@[simp] theorem State.srt_inc (s : State) (f : Fld) (a b i : Nat) : (s.inc f a b).srt i = s.srt i := rfl
@[simp] theorem State.srt_drawn (s : State) (i : Nat) : s.drawn.srt i = s.srt i := rfl
@[simp] theorem State.srt_emit (s : State) (o : Out) (i : Nat) : (s.emit o).srt i = s.srt i := rfl
@[simp] theorem State.srt_drop (s : State) (k i : Nat) : (s.drop k).srt i = s.srt i := rfl

/-! ### Cameras (08 R194–R196, R200, R201) -/

@[simp] theorem State.srt_discardFrame (s : State) (i : Nat) : (s.discardFrame i).srt i = { s.srt i with open_ := none } := by
  simp [State.discardFrame]

/-- A frame discarded counts as one drop. -/
theorem State.rd_drop_discardFrame (s : State) (i : Nat) : (s.discardFrame i).rd FUS_SRC_STAT.DROP i =
    min (s.rd FUS_SRC_STAT.DROP i + 1) (2 ^ FUS_SRC_STAT.DROP.w - 1) :=
  State.rd_inc_same (s.setSrc i { s.srt i with open_ := none }) FUS_SRC_STAT.DROP i 0

/-- A frame start that finds no frame open and no slot free is dropped with its event. -/
theorem State.camStart_full {s : State} {i : Nat} (hopen : (s.srt i).open_ = none) (hfull : s.freeSlot i = none) :
    s.camStart i = s.dropFull i := by
  simp [State.camStart, hopen, hfull]

/-- The stamp of a new frame, free until the line that is stamped has come. -/
def State.freeStamp (s : State) : Int :=
  (Config.freeWord s.freeCount 0).toNat + 2 ^ 32 * (Config.freeWord s.freeCount 1).toNat

/-- A frame start that finds no frame open takes the slot that is free. -/
theorem State.camStart_free {s : State} {i k : Nat} (hopen : (s.srt i).open_ = none) (hfree : s.freeSlot i = some k) :
    s.camStart i = s.drawn.takeSlot i k ⟨k, none, 0, none, s.freeStamp, 0, 0, false, 0⟩ := by
  simp [State.camStart, hopen, hfree, State.freeStamp]

/-- A frame start discards the frame still open and then goes on as one that finds none. -/
theorem State.camStart_discards {s : State} {i : Nat} (hopen : (s.srt i).open_.isSome = true) :
    s.camStart i = (s.discardFrame i).camStart i := by
  simp [State.camStart, hopen]

theorem State.open_takeSlot (s : State) (i k : Nat) (f : OpenFrame) : ((s.takeSlot i k f).srt i).open_ = some f := by
  simp [State.takeSlot]

theorem State.camEnd_none {s : State} {i : Nat} (hopen : (s.srt i).open_ = none) : s.camEnd i = s := by
  simp [State.camEnd, hopen]

theorem State.camEnd_short {s : State} {i : Nat} {f : OpenFrame} (hopen : (s.srt i).open_ = some f)
    (hlines : f.count ≠ s.camHeight i) : s.camEnd i = s.discardFrame i := by
  simp [State.camEnd, hopen, hlines]

theorem State.camEnd_whole {s : State} {i : Nat} {f : OpenFrame} (hopen : (s.srt i).open_ = some f)
    (hlines : f.count = s.camHeight i) : s.camEnd i = s.setSrc i
      { s.srt i with open_ := none, received := (s.srt i).received ++ [f], prevSlot := some f.slot } := by
  simp [State.camEnd, hopen, hlines]

/-- A packet with an error, at a source that takes input. -/
def State.camFaulty (s : State) (i : Nat) (p : CamPacket) : State :=
  if (s.srt i).open_.isSome then s.discardFrame i
  else if p = .frameStart then s.drop i else s

/-- A packet of the source's own virtual channel, at a source that takes input. -/
def State.camPacket (s : State) (i : Nat) : CamPacket → State
  | .frameStart => s.camStart i
  | .frameEnd => s.camEnd i
  | .lineStart => match (s.srt i).open_ with
    | some f => s.setSrc i { s.srt i with open_ := some { f with line := some (s.rowTime i) } }
    | none => s
  | .line dt px => s.camLine i dt px

section
variable {s : State} {i : Fin 16} {vc : Fin 32} {p : CamPacket} {e : PacketError}

theorem exec_cameraPacket_off (he : e ≠ .retransmission) (hoff : s.srcOn i = false) :
    exec (.cameraPacket i vc p e) s = .next s := by
  show execCameraPacket i vc p e s = _
  simp [execCameraPacket, he, hoff]

theorem exec_cameraPacket_faulty (he : e = .header ∨ e = .payloadCrc) (hon : s.srcOn i = true) :
    exec (.cameraPacket i vc p e) s = .next (s.camFaulty i p) := by
  have hif : Host.Outcome.next (s.camFaulty i p) = (if (s.srt i).open_.isSome then .next (s.discardFrame i)
      else if p = .frameStart then .next (s.drop i) else .next s : Ans) := by
    simp only [State.camFaulty, apply_ite Host.Outcome.next]
  rw [hif]
  show execCameraPacket i vc p e s = _
  rcases he with rfl | rfl
  · simp [execCameraPacket, hon]
  · simp [execCameraPacket, hon]

theorem exec_cameraPacket_foreign (he : e = .clean ∨ e = .headerBit) (hon : s.srcOn i = true)
    (hvc : vc.val ≠ s.rd ING_SRC.VC i) : exec (.cameraPacket i vc p e) s = .next (s.drop i) := by
  show execCameraPacket i vc p e s = _
  rcases he with rfl | rfl
  · simp [execCameraPacket, hon, hvc]
  · simp [execCameraPacket, hon, hvc]

theorem exec_cameraPacket_own (he : e = .clean ∨ e = .headerBit) (hon : s.srcOn i = true)
    (hvc : vc.val = s.rd ING_SRC.VC i) : exec (.cameraPacket i vc p e) s = .next (s.camPacket i p) := by
  have hrow : exec (.cameraPacket i vc p .clean) s = .next (s.camPacket i p) := by
    show execCameraPacket i vc p .clean s = _
    cases p with
    | lineStart => cases hopen : (s.srt i).open_ <;> simp [execCameraPacket, hon, hvc, State.camPacket, hopen]
    | frameStart | frameEnd | line dt px => simp [execCameraPacket, hon, hvc, State.camPacket]
  rcases he with rfl | rfl
  · exact hrow
  · exact hrow

/-- A retransmission counts on its link and is then a packet with an error. -/
theorem exec_cameraPacket_retransmission : exec (.cameraPacket i vc p .retransmission) s =
    exec (.cameraPacket i vc p .header) (if i.val < 12 then s.inc APHY_LINK.RETX i else s) := by
  show execCameraPacket i vc p .retransmission s = execCameraPacket i vc p .header _
  simp [execCameraPacket]

end

/-! ### Frame sync (08 R195) -/

theorem exec_frameSyncStart_idle {i : Fin 16} {s : State} (h : s.srcOn i = false ∨ (s.srt i).high.isSome = true ∨
    s.syncInstant i = none ∨ ∃ k, s.syncInstant i = some k ∧ (s.srt i).pulsed = some k) :
    exec (.frameSyncStart i) s = .next s := by
  show execFrameSyncStart i s = _
  rcases h with h | h | h | ⟨k, hk, hp⟩
  · simp [execFrameSyncStart, h]
  · simp [execFrameSyncStart, h]
  · simp [execFrameSyncStart, h]
  · simp [execFrameSyncStart, hk, hp]

theorem exec_frameSyncStart {i : Fin 16} {s : State} {k : Nat} (hon : s.srcOn i = true) (hlow : (s.srt i).high = none)
    (hk : s.syncInstant i = some k) (hp : (s.srt i).pulsed ≠ some k) : exec (.frameSyncStart i) s =
      .next ((s.setSrc i { s.srt i with pulsed := some k, high := some s.sensorNs }).emit (.frameSync i true)) := by
  show execFrameSyncStart i s = _
  simp [execFrameSyncStart, hon, hlow, hk, hp]

theorem exec_frameSyncEnd_low {i : Fin 16} {s : State} (h : (s.srt i).high = none) : exec (.frameSyncEnd i) s = .next s := by
  show execFrameSyncEnd i s = _
  simp [execFrameSyncEnd, h]

theorem exec_frameSyncEnd_high {i : Fin 16} {s : State} {n : Nat} (h : (s.srt i).high = some n) : exec (.frameSyncEnd i) s =
    if n + 10000 ≤ s.sensorNs then .next ((s.setSrc i { s.srt i with high := none }).emit (.frameSync i false)) else .next s := by
  show execFrameSyncEnd i s = _
  simp [execFrameSyncEnd, h]

/-! ### Lidars and IMUs (08 R197, R198) -/

theorem exec_lidarPacket_foreign {fr : Bytes} {s : State} (h : (ethView fr).bind s.steer = none) :
    exec (.lidarPacket fr) s = .next s := by
  show execLidarPacket fr s = _
  simp only [execLidarPacket, h]

theorem exec_lidarPacket_steered {fr : Bytes} {s : State} {i : Nat} {pay : Bytes}
    (h : (ethView fr).bind s.steer = some (i, pay)) :
    exec (.lidarPacket fr) s = .next (s.lidarPayload i (s.sensorNs - s.rd GW_PORT.RX_LAT 8) pay) := by
  show execLidarPacket fr s = _
  simp only [execLidarPacket, h]

theorem exec_imuDrdy_off {n : Fin 2} {s : State} (h : s.srcOn (30 + n.val) = false) : exec (.imuDrdy n) s = .next s := by
  show execImuDrdy n s = _
  simp [execImuDrdy, h]

theorem exec_imuDrdy_on {n : Fin 2} {s : State} (h : s.srcOn (30 + n.val) = true) : exec (.imuDrdy n) s =
    .next ((s.setSrc (30 + n.val) { s.srt (30 + n.val) with
      edges := (s.srt (30 + n.val)).edges ++ [s.rowTime (30 + n.val)] }).emit
        (.spi n (s.imuCmd (30 + n.val)) (s.dataLen (30 + n.val)))) := by
  show execImuDrdy n s = _
  simp [execImuDrdy, h]

theorem exec_imuTransactionDone_idle {n : Fin 2} {data : Bytes} {s : State} (h : (s.srt (30 + n.val)).edges = []) :
    exec (.imuTransactionDone n data) s = .next s := by
  show execImuTransactionDone n data s = _
  simp only [execImuTransactionDone, h]

theorem exec_imuTransactionDone {n : Fin 2} {data : Bytes} {s : State} {e : Int} {rest : List Int}
    (h : (s.srt (30 + n.val)).edges = e :: rest) : exec (.imuTransactionDone n data) s =
      .next ((s.drawn.setSrc (30 + n.val) { s.srt (30 + n.val) with edges := rest }).putRecord (30 + n.val) e 0 0
        ((data ++ s.freeBytes (s.dataLen (30 + n.val) - data.length)).take (s.dataLen (30 + n.val)))) := by
  show execImuTransactionDone n data s = _
  simp only [execImuTransactionDone, h]

/-- Data of the transaction's own length need no free bytes. -/
theorem State.take_append_freeBytes (s : State) {data : Bytes} {n : Nat} (h : data.length = n) :
    (data ++ s.freeBytes (n - data.length)).take n = data := by
  subst h
  exact List.take_left

/-! ### Samples completed (08 R199, R206) -/

theorem exec_sampleComplete_idle {i : Fin 32} {s : State} (h : s.srcOn i = false ∨ (i.val < 24 ∧ (s.srt i).received = []) ∨
    (24 ≤ i.val ∧ (s.srt i).written ≤ (s.srt i).complete)) : exec (.sampleComplete i) s = .next s := by
  show execSampleComplete i s = _
  cases hon : s.srcOn i with
  | false => simp [execSampleComplete, hon]
  | true =>
    rw [hon] at h
    rcases h with h | ⟨hi, hnone⟩ | ⟨hi, hle⟩
    · exact nomatch h
    · simp [execSampleComplete, hon, hi, hnone]
    · simp [execSampleComplete, hon, Nat.not_lt.2 hi, Nat.not_lt.2 hle]

/-- The oldest frame received becomes complete, after the instants whose wait limit has passed are released. -/
theorem exec_sampleComplete_frame {i : Fin 32} {s : State} {f : OpenFrame} {rest : List OpenFrame} (hon : s.srcOn i = true)
    (hi : i.val < 24) (hf : (s.srt i).received = f :: rest) :
    let u := s.releaseOverdue 64
    let g : OpenFrame := if i.val < 16 then { f with seq := (u.srt i).done + 1 } else f
    exec (.sampleComplete i) s =
      .next (((u.setSrc i { u.srt i with received := rest, done := (u.srt i).done + 1 }).slotHeader i g).placeSample i g) := by
  show execSampleComplete i s = _
  simp [execSampleComplete, hon, hi, hf]

theorem exec_sampleComplete_record {i : Fin 32} {s : State} (hon : s.srcOn i = true) (hi : 24 ≤ i.val)
    (hlt : (s.srt i).complete < (s.srt i).written) : exec (.sampleComplete i) s =
      .next (s.setSrc i { s.srt i with complete := (s.srt i).complete + 1, sinceDue := (s.srt i).sinceDue + 1 }) := by
  show execSampleComplete i s = _
  simp [execSampleComplete, hon, Nat.not_lt.2 hi, hlt]

/-- Settles O39: a camera packet is told apart by its error, its channel and the frame that is open, and every other row by what
waits at its source. That a lidar packet is stamped at its own row, less the port's RX_LAT, is the model's choice (log entry 57),
and SEQ counts the frame itself (log entry 56). -/
theorem sensorIngress : Obligations.SensorIngress := by
  unfold Obligations.SensorIngress
  refine ⟨fun i vc p e s he => ⟨exec_cameraPacket_off he, fun hon => ?camera⟩, fun i vc p s => exec_cameraPacket_retransmission,
    fun i s => ⟨exec_frameSyncStart_idle, exec_frameSyncEnd_low, fun k hon hlow hk hp => ?syncStart, fun n hn => ?syncEnd⟩,
    fun fr s => ⟨exec_lidarPacket_foreign, fun i pay => exec_lidarPacket_steered⟩,
    fun n data s => ⟨fun hon => ?edge, exec_imuDrdy_off, exec_imuTransactionDone_idle, fun e rest => exec_imuTransactionDone,
      fun e rest he hlen => ?data⟩,
    fun i s => ⟨exec_sampleComplete_idle, fun f rest => exec_sampleComplete_frame⟩, fun i s hon hi hlt => ?record⟩
  case camera =>
    refine ⟨fun he hopen => ?discard, fun he hopen hp => ?dropped, fun he hopen hp => ?ignored,
      fun he hvc => exec_cameraPacket_foreign he hon hvc, fun he hvc => ?own⟩
    case discard =>
      refine ⟨s.discardFrame i, ?_, by simp, s.rd_drop_discardFrame i, rfl⟩
      rw [exec_cameraPacket_faulty he hon, State.camFaulty, if_pos hopen]
    case dropped =>
      rw [exec_cameraPacket_faulty he hon, State.camFaulty, hopen, if_neg (by decide), if_pos hp]
      rfl
    case ignored => rw [exec_cameraPacket_faulty he hon, State.camFaulty, hopen, if_neg (by decide), if_neg hp]
    case own =>
      rw [exec_cameraPacket_own he hon hvc]
      refine ⟨fun hp hopen => ?start, fun hp hopen => ?restart, fun hp hopen => ?endNone, fun hp => ?lineStart,
        fun f hp hopen => ?frameEnd, fun dt px hp => hp ▸ rfl⟩
      case start =>
        subst hp
        exact ⟨fun hfull => congrArg _ (State.camStart_full hopen hfull), fun k hfree =>
          ⟨_, _, congrArg _ (State.camStart_free hopen hfree), State.open_takeSlot _ _ _ _, rfl, rfl, rfl, rfl, rfl⟩⟩
      case restart =>
        subst hp
        exact congrArg _ (State.camStart_discards hopen)
      case endNone =>
        subst hp
        exact congrArg _ (State.camEnd_none hopen)
      case lineStart =>
        subst hp
        exact ⟨fun hopen => by simp [State.camPacket, hopen], fun f hopen => by simp [State.camPacket, hopen, State.rowTime]⟩
      case frameEnd =>
        subst hp
        exact ⟨fun hlines => ⟨_, congrArg _ (State.camEnd_short hopen hlines), by simp, by simp⟩,
          fun hlines => ⟨_, congrArg _ (State.camEnd_whole hopen hlines), by simp, by simp, rfl, rfl⟩⟩
  case syncStart => exact ⟨_, exec_frameSyncStart hon hlow hk hp, by simp, by simp, rfl, rfl, rfl⟩
  case syncEnd =>
    rw [exec_frameSyncEnd_high hn]
    exact ⟨fun hearly => if_neg (Nat.not_le.2 hearly), fun hdue => ⟨_, if_pos hdue, by simp, rfl, rfl, rfl⟩⟩
  case edge => exact ⟨_, exec_imuDrdy_on hon, by simp, rfl, rfl⟩
  case data => rw [exec_imuTransactionDone he, s.take_append_freeBytes hlen]
  case record => exact ⟨_, exec_sampleComplete_record hon hi hlt, by simp, by simp, rfl, rfl⟩

/-! ### Premises met -/

/-- RUN is 1 and a source with six slots of storage is enabled, its frame sync 1 ns ahead. -/
def sourceRunning (i : Nat) (x : SrcRt) : State :=
  ((((State.reset.wr FUS_CTL.RUN 1).wr ING_SRC.ENABLE 1 i).wr ING_SRC.SLOTS 6 i).wr ING_SRC.KIND_A 1 i).setSrc i x

theorem witness_frame_started : ∃ t f, exec (.cameraPacket 2 0 .frameStart .clean) (sourceRunning 2 SrcRt.rest) = .next t ∧
    (t.srt (2 : Fin 16)).open_ = some f ∧ f.slot = 0 := by
  obtain ⟨hcam, -⟩ := sensorIngress
  obtain ⟨-, -, -, -, hown⟩ := (hcam 2 0 .frameStart .clean (sourceRunning 2 SrcRt.rest) (by decide)).2 (by decide +kernel)
  obtain ⟨hstart, -⟩ := hown (.inl rfl) (by decide +kernel)
  obtain ⟨t, f, ht, hopen, hslot, -⟩ := (hstart rfl (by decide +kernel)).2 0 (by decide +kernel)
  exact ⟨t, f, ht, hopen, hslot⟩

/-- A frame of no lines of a source whose height is 0. -/
def emptyFrame : OpenFrame := ⟨0, none, 0, none, 0, 0, 0, false, 0⟩

theorem witness_frame_ended : ∃ t,
    exec (.cameraPacket 2 0 .frameEnd .headerBit) (sourceRunning 2 { SrcRt.rest with open_ := some emptyFrame }) = .next t ∧
      (t.srt (2 : Fin 16)).received = [emptyFrame] := by
  obtain ⟨hcam, -⟩ := sensorIngress
  obtain ⟨-, -, -, -, hown⟩ := (hcam 2 0 .frameEnd .headerBit (sourceRunning 2 { SrcRt.rest with open_ := some emptyFrame })
    (by decide)).2 (by decide +kernel)
  obtain ⟨-, -, -, -, hend, -⟩ := hown (.inr rfl) (by decide +kernel)
  obtain ⟨t, ht, -, hreceived, -⟩ := (hend emptyFrame rfl (by decide +kernel)).2 (by decide +kernel)
  exact ⟨t, ht, hreceived.trans (by decide +kernel)⟩

theorem witness_frame_discarded : ∃ t,
    exec (.cameraPacket 2 0 .lineStart .header) (sourceRunning 2 { SrcRt.rest with open_ := some emptyFrame }) = .next t ∧
      (t.srt (2 : Fin 16)).open_ = none ∧ t.rd FUS_SRC_STAT.DROP (2 : Fin 16) = 1 := by
  obtain ⟨hcam, -⟩ := sensorIngress
  obtain ⟨herror, -⟩ := (hcam 2 0 .lineStart .header (sourceRunning 2 { SrcRt.rest with open_ := some emptyFrame })
    (by decide)).2 (by decide +kernel)
  obtain ⟨t, ht, hopen, hdrop, -⟩ := herror (.inl rfl) (by decide +kernel)
  exact ⟨t, ht, hopen, hdrop.trans (by decide +kernel)⟩

theorem witness_sync_high : ∃ t, exec (.frameSyncStart 2) (sourceRunning 2 SrcRt.rest) = .next t ∧
    (t.srt (2 : Fin 16)).high = some 0 := by
  obtain ⟨-, -, hsync, -⟩ := sensorIngress
  obtain ⟨-, -, hstart, -⟩ := hsync 2 (sourceRunning 2 SrcRt.rest)
  obtain ⟨t, ht, hhigh, -⟩ := hstart 0 (by decide +kernel) (by decide +kernel) (by decide +kernel) (by decide +kernel)
  exact ⟨t, ht, hhigh.trans (by decide +kernel)⟩

/-- An untagged IPv4 frame with a UDP datagram for port 1: a time of 0 and a sweep of 0. -/
def lidarFrame : Bytes :=
  List.replicate 12 0 ++ [0x08, 0x00, 0x45] ++ List.replicate 8 0 ++ [17] ++ List.replicate 10 0 ++ [0, 0, 0, 1, 0, 16, 0, 0] ++
    List.replicate 8 0

theorem witness_lidar_steered : ∃ t, exec (.lidarPacket lidarFrame) (sourceRunning 16 SrcRt.rest) = .next t ∧
    (t.srt 16).est.isSome = true := by
  obtain ⟨-, -, -, hlidar, -⟩ := sensorIngress
  exact ⟨_, (hlidar lidarFrame (sourceRunning 16 SrcRt.rest)).2 16 (List.replicate 8 0) (by decide +kernel), by decide +kernel⟩

theorem witness_imu_edge : ∃ t, exec (.imuDrdy 0) (sourceRunning 30 SrcRt.rest) = .next t ∧ (t.srt 30).edges = [0] := by
  obtain ⟨-, -, -, -, himu, -⟩ := sensorIngress
  obtain ⟨hedge, -⟩ := himu 0 [] (sourceRunning 30 SrcRt.rest)
  obtain ⟨t, ht, hedges, -⟩ := hedge (by decide +kernel)
  exact ⟨t, ht, hedges.trans (by decide +kernel)⟩

theorem witness_record_complete : ∃ t, exec (.sampleComplete 30) (sourceRunning 30 { SrcRt.rest with written := 1 }) = .next t ∧
    (t.srt (30 : Fin 32)).complete = 1 := by
  obtain ⟨-, -, -, -, -, -, hrecord⟩ := sensorIngress
  obtain ⟨t, ht, hcomplete, -⟩ := hrecord 30 (sourceRunning 30 { SrcRt.rest with written := 1 }) (by decide +kernel)
    (by decide) (by decide +kernel)
  exact ⟨t, ht, hcomplete.trans (by decide +kernel)⟩

end Sys2Proof.Machine
end

section
/-! Instants, resynchronisation, sources and RUN (08 R202–R208, R215, R225–R228). -/

namespace Sys2Proof.Machine

/-! ### What a write to memory leaves (05 R111, R115) -/

section
variable {γ : Type} {g : State → γ} (hg : ∀ s r m, g { s with regs := r, mem := m } = g s)
include hg

theorem State.part_putByte (s : State) (a : Nat) (x : Byte) : g (s.putByte a x) = g s := by
  by_cases h : s.inHbm a = false ∨ s.keyAt a = 0
  · rw [State.putByte_not_taken x h]
  · rw [not_or, Bool.not_eq_false] at h
    obtain ⟨hbm, tags, heq, -⟩ := State.putByte_eq x h.1 h.2
    rw [heq]
    exact hg s s.regs _

theorem State.part_putBytes (s : State) (a : Nat) (bs : Bytes) : g (s.putBytes a bs) = g s := by
  induction bs generalizing s a with
  | nil => rfl
  | cons b r ih => exact (ih _ _).trans (State.part_putByte hg s a b)

/-- A write to memory leaves every part of the state that reads neither the memories nor the registers. -/
theorem State.part_memWrite (s : State) (a : Nat) (bs : Bytes) : g (s.memWrite a bs) = g s := by
  have hout : g (s.noteOut a bs.length) = g s := by
    unfold State.noteOut
    split
    · rfl
    · exact hg s _ s.mem
  have hheal : ∀ t : State, g (t.healWords a bs.length) = g t := by
    refine foldl_part g (fun t k => ?_) _
    dsimp only
    split
    · exact hg t t.regs _
    · rfl
  exact (hheal _).trans ((State.part_putBytes hg _ a bs).trans hout)

end

/-! ### Instants (08 R202–R205) -/

theorem exec_instantRelease (s : State) : exec .instantRelease s =
    if s.flag FUS_CTL.RUN && decide (s.tK s.fus.nextK ≤ s.sensorNs) && decide (s.fus.lastR.getD 0 ≤ s.sensorNs) &&
        s.allIn s.fus.nextK then .next (s.release s.fus.nextK (min s.sensorNs (s.limitR s.fus.nextK)) 1)
    else .next s := rfl

theorem exec_instantWaitLimit (s : State) : exec .instantWaitLimit s =
    if s.flag FUS_CTL.RUN && decide (s.limitR s.fus.nextK ≤ s.sensorNs) then .next (s.releaseLimit s.fus.nextK)
    else .next s := rfl

/-! ### Resynchronisation (08 R208) -/

/-- Event 0x11 of a lidar source with an offset estimate, which the source's record remembers. -/
def State.resyncRaised (s : State) (i : Nat) (o : Int) : State :=
  (s.setSrc i { s.srt i with resync := some s.localNs }).fusEvent 0x11 i (unsigned 64 (s.corr16 i o / 2 ^ 16))

section
variable {i : Fin 8} {s : State}

theorem exec_resyncRequest_idle (h : (s.srt (16 + i.val)).est = none ∨ s.rd FUS_SRC_STAT.STATE (16 + i.val) ≠ srcTimeLost) :
    exec (.resyncRequest i) s = .next s := by
  show execResyncRequest i s = _
  rcases h with h | h
  · simp [execResyncRequest, h]
  · cases he : (s.srt (16 + i.val)).est with
    | none => simp [execResyncRequest, he]
    | some e => simp [execResyncRequest, he, h]

section
variable {e : Int × Int × Nat} (he : (s.srt (16 + i.val)).est = some e)
  (hlost : s.rd FUS_SRC_STAT.STATE (16 + i.val) = srcTimeLost)
include he hlost

theorem exec_resyncRequest_entry (hfirst : (s.srt (16 + i.val)).resync = none) :
    exec (.resyncRequest i) s = .next (s.resyncRaised (16 + i.val) e.1) := by
  show execResyncRequest i s = _
  simp [execResyncRequest, he, hlost, hfirst, State.resyncRaised]

theorem exec_resyncRequest_again {t : Nat} (hlast : (s.srt (16 + i.val)).resync = some t) : exec (.resyncRequest i) s =
    if t + 10 ^ 9 ≤ s.localNs then .next (s.resyncRaised (16 + i.val) e.1) else .next s := by
  show execResyncRequest i s = _
  simp [execResyncRequest, he, hlost, hlast, State.resyncRaised]

end
end

/-! ### Sources and RUN (08 R207, R215, R225, R226, R228) -/

theorem State.byFirmware_firmware {s : State} {src : Source} (a : Nat) (f : State → State) (h : s.who src = .firmware) :
    s.byFirmware src a f = f s := if_pos h

theorem State.byFirmware_other {s : State} {src : Source} (a : Nat) (f : State → State) (h : s.who src ≠ .firmware) :
    s.byFirmware src a f = s.denied (s.who src) a := if_neg h

theorem State.sourceEnable_held {s : State} {i : Nat} (h : s.flag ING_SRC.ENABLE i = true) : s.sourceEnable i = s := if_pos h

theorem State.sourceEnable_refused {s : State} {i : Nat} (h : s.flag ING_SRC.ENABLE i = false) (hbad : s.srcConfigOk i = false) :
    s.sourceEnable i = s.inc FUS_STAT.CFG_REFUSED := by
  simp [State.sourceEnable, h, hbad]

theorem State.sourceDisable_held {s : State} {i : Nat} (h : s.flag ING_SRC.ENABLE i = false) : s.sourceDisable i = s := by
  simp [State.sourceDisable, h]

theorem State.nextK_freshAligner (s : State) : s.freshAligner.fus.nextK = 0 := by
  unfold State.freshAligner
  generalize List.range 32 = l
  refine foldl_part (fun t : State => t.fus.nextK) (fun t i => ?_) l _
  rfl

theorem State.fus_clearPoses (s : State) : s.clearPoses.fus = s.fus := by
  unfold State.clearPoses
  refine foldl_part State.fus (fun t e => ?_) _ s
  exact State.part_memWrite (fun _ _ _ => rfl) t _ _

theorem State.runStart_held {s : State} (h : s.flag FUS_CTL.RUN = true) : s.runStart = s := if_pos h

/-- The aligner starts at instant 0, with none released. -/
theorem State.runStart_facts {s : State} (h : s.flag FUS_CTL.RUN = false) : s.runStart.flag FUS_CTL.RUN = true ∧
    s.runStart.fus.nextK = 0 ∧ s.runStart.rd FUS_STAT.RELEASED = 0xFFFFFFFF := by
  have hstart : s.runStart = (s.freshAligner.clearPoses.freshMerge.wr FUS_CTL.RUN 1).toCold FUS_STAT.RELEASED := by
    simp [State.runStart, h]
  rw [hstart]
  refine ⟨?_, ?_, ?_⟩
  · rw [State.flag, State.toCold, State.rd_wr_ne _ FUS_STAT.RELEASED FUS_CTL.RUN _ _ _ _ _ (by decide) (by decide) (by decide),
      State.rd_wr_same]
    decide
  · simp only [State.toCold, State.wr_frame, State.freshMerge_frame, State.fus_clearPoses, State.nextK_freshAligner]
  · rw [State.rd_toCold_same]
    decide

theorem State.runStop_held {s : State} (h : s.flag FUS_CTL.RUN = false) : s.runStop = s := by
  simp [State.runStop, h]

theorem exec_sourceEnable (src : Source) (i : Fin 32) (s : State) : exec (.sourceEnable src i) s =
    .next (s.byFirmware src (RegName.ingSrc.addr i) (fun s => s.sourceEnable i)) := rfl

theorem exec_sourceDisable (src : Source) (i : Fin 32) (s : State) : exec (.sourceDisable src i) s =
    .next (s.byFirmware src (RegName.ingSrc.addr i) (fun s => s.sourceDisable i)) := rfl

theorem exec_fusRunStart (src : Source) (s : State) : exec (.fusRunStart src) s =
    .next (s.byFirmware src RegName.fusCtl.addr State.runStart) := rfl

theorem exec_fusRunStop (src : Source) (s : State) : exec (.fusRunStop src) s =
    .next (s.byFirmware src RegName.fusCtl.addr State.runStop) := rfl

/-- Settles O40: the instant rows ask for the conditions of R204 at the present time, RESYNC_REQUEST for the time of the last one,
and the enables for the requester first. That an instant is released no earlier than the one before it is log entry 58. -/
theorem instantsAndSources : Obligations.InstantsAndSources := by
  unfold Obligations.InstantsAndSources
  refine ⟨fun s hrun => ⟨fun hcentre hlast hall => ?released, fun hnot => ?waiting, fun hlimit => ?limit, fun hearly => ?early⟩,
    fun s hrun => ⟨?stopped, ?stoppedLimit⟩, fun i s => exec_resyncRequest_idle,
    fun i s e he hlost => ⟨fun hdue => ?due, fun t ht hsoon => ?soon⟩,
    fun src i s hw => ?firmware, fun src i s hw => ?other⟩
  case released => rw [exec_instantRelease, hrun, decide_eq_true hcentre, decide_eq_true hlast, hall]; rfl
  case waiting =>
    rw [exec_instantRelease]
    refine if_neg (fun hboth => ?_)
    simp only [Bool.and_eq_true, decide_eq_true_eq] at hboth
    obtain ⟨⟨⟨-, hcentre⟩, hlast⟩, hall⟩ := hboth
    rcases hnot with h | h | h
    · exact Nat.not_lt.2 hcentre h
    · exact Nat.not_lt.2 hlast h
    · exact Bool.false_ne_true (h.symm.trans hall)
  case limit => rw [exec_instantWaitLimit, hrun, decide_eq_true hlimit]; rfl
  case early => rw [exec_instantWaitLimit, decide_eq_false (Nat.not_le.2 hearly), Bool.and_false]; rfl
  case stopped => rw [exec_instantRelease, hrun]; rfl
  case stoppedLimit => rw [exec_instantWaitLimit, hrun]; rfl
  case due =>
    rcases hdue with hfirst | ⟨t, ht, hle⟩
    · exact exec_resyncRequest_entry he hlost hfirst
    · exact (exec_resyncRequest_again he hlost ht).trans (if_pos hle)
  case soon => exact (exec_resyncRequest_again he hlost ht).trans (if_neg (Nat.not_le.2 hsoon))
  case firmware =>
    rw [exec_sourceEnable, exec_sourceDisable, exec_fusRunStart, exec_fusRunStop]
    rw [State.byFirmware_firmware _ _ hw, State.byFirmware_firmware _ _ hw, State.byFirmware_firmware _ _ hw,
      State.byFirmware_firmware _ _ hw]
    exact ⟨fun hen => congrArg _ (State.sourceEnable_held hen), fun hen hbad => congrArg _ (State.sourceEnable_refused hen hbad),
      fun _ _ => rfl, fun hen => congrArg _ (State.sourceDisable_held hen), fun _ => rfl,
      fun hrun => congrArg _ (State.runStart_held hrun), fun hrun => ⟨_, rfl, State.runStart_facts hrun⟩,
      fun hrun => congrArg _ (State.runStop_held hrun), fun _ => rfl⟩
  case other =>
    rw [exec_sourceEnable, exec_sourceDisable, exec_fusRunStart, exec_fusRunStop]
    simp only [State.byFirmware_other _ _ hw, and_self]

/-! ### Premises met -/

/-- RUN is 1 at a fusion time. -/
def fusionRunning (now : Nat) : State :=
  { State.reset.wr FUS_CTL.RUN 1 with time := { State.reset.time with acc := [(1, now * nsUnit)] } }

theorem witness_instant_released : exec .instantRelease (fusionRunning 0) = .next ((fusionRunning 0).release
    (fusionRunning 0).fus.nextK (min (fusionRunning 0).sensorNs ((fusionRunning 0).limitR (fusionRunning 0).fus.nextK)) 1) ∧
      (fusionRunning 0).fus.nextK = 0 := by
  obtain ⟨hrun, -⟩ := instantsAndSources
  obtain ⟨hrelease, -⟩ := hrun (fusionRunning 0) (by decide +kernel)
  exact ⟨hrelease (by decide +kernel) (by decide +kernel) (by decide +kernel), by decide +kernel⟩

/-- Instant 0 has passed its wait limit 1 s after its centre. -/
theorem witness_instant_limit : ∃ u r cause, exec .instantWaitLimit (fusionRunning (10 ^ 9)) = .next (State.release u 0 r cause) := by
  obtain ⟨hrun, -⟩ := instantsAndSources
  obtain ⟨-, -, hlimit, -⟩ := hrun (fusionRunning (10 ^ 9)) (by decide +kernel)
  have hk : (fusionRunning (10 ^ 9)).fus.nextK = 0 := by decide +kernel
  rw [hk] at hlimit
  exact ⟨_, _, _, hlimit (by decide +kernel)⟩

/-- Lidar source 16 is in TIME_LOST with an offset of 3 ns, and event 0x11 was never raised. -/
def timeLost : State :=
  (State.reset.wr FUS_SRC_STAT.STATE srcTimeLost 16).setSrc 16 { SrcRt.rest with est := some (3 * 2 ^ 16, 0, 0) }

theorem witness_resync : ∃ t, exec (.resyncRequest 0) timeLost = .next t ∧ (t.srt 16).resync = some 0 := by
  obtain ⟨-, -, -, hresync, -⟩ := instantsAndSources
  obtain ⟨hdue, -⟩ := hresync 0 timeLost (3 * 2 ^ 16, 0, 0) (by decide +kernel) (by decide +kernel)
  exact ⟨_, hdue (.inl (by decide +kernel)), by decide +kernel⟩

theorem witness_enable_refused : exec (.sourceEnable .mgmt 3) State.reset = .next (State.reset.inc FUS_STAT.CFG_REFUSED) := by
  obtain ⟨-, -, -, -, hfirmware, -⟩ := instantsAndSources
  obtain ⟨-, hrefused, -⟩ := hfirmware .mgmt 3 State.reset (by decide +kernel)
  exact hrefused (by decide +kernel) (by decide +kernel)

theorem witness_run_started : ∃ t, exec (.fusRunStart .mgmt) State.reset = .next t ∧ t.flag FUS_CTL.RUN = true := by
  obtain ⟨-, -, -, -, hfirmware, -⟩ := instantsAndSources
  obtain ⟨-, -, -, -, -, -, hstart, -⟩ := hfirmware .mgmt 0 State.reset (by decide +kernel)
  obtain ⟨t, ht, hrun, -⟩ := hstart (by decide +kernel)
  exact ⟨t, ht, hrun⟩

end Sys2Proof.Machine
end

section
/-! PROJECT and RENDER (08 R216–R218, 09 R232–R234). -/

namespace Sys2Proof.Machine

/-! ### PROJECT (08 R216–R218) -/

/-- What a PROJECT reads of its buffer list, whatever it is taken for. -/
def State.listRead (s : State) (c : Cmd) : State := s.bufTouch c c.bufOp.1 c.bufOp.2

/-- The points that a point buffer counts. -/
def State.pointCount (s : State) (c : Cmd) (p : Win) : Nat :=
  leNat (s.targetRead (s.target c.ctx p.fabric (p.base + 8)) 4 [])

/-- A camera of a calibration block writes outside the depth or the index buffer. -/
def calOutside (cal : Bytes) (d i : Win) : Bool :=
  ((List.range (min (Bytes.num cal 0 1) 16)).map (calCam cal)).any (fun x => camOutside x (Bytes.num cal 3 1) d.len i.len)

/-- The three buffers and the calibration block break a rule. -/
def State.projectBad (s : State) (c : Cmd) (p d i : Win) : Bool :=
  !p.rd || !d.wr || !i.wr || decide (p.len < 64) || decide (s.pointCount c p * 16 + 64 > p.len) || calBad c.copy ||
    calOutside c.copy d i

theorem State.projectBad_iff {s : State} {c : Cmd} {p d i : Win} : s.projectBad c p d i = true ↔
    p.rd = false ∨ d.wr = false ∨ i.wr = false ∨ p.len < 64 ∨ p.len < s.pointCount c p * 16 + 64 ∨ calBad c.copy = true ∨
      calOutside c.copy d i = true := by
  simp [State.projectBad, or_assoc]

theorem exec_project_idle {s : State} (h : (Sparse.look none s.engKill 1).isSome = true ∨ s.unstarted .projector 0x60 = none) :
    exec .project s = .next s := by
  show execProject s = _
  rcases h with h | h
  · exact if_pos h
  · simp [execProject, State.projectJob, h]

section
variable {s : State} {j : Job} (hkill : Sparse.look none s.engKill 1 = none) (hj : s.unstarted .projector 0x60 = some j)
include hkill hj

theorem exec_project_badList {e : Nat} (hlist : s.bufList j.cmd j.cmd.bufOp.1 j.cmd.bufOp.2 = .error e) :
    exec .project s = .next ((s.listRead j.cmd).refuseJob j.cmd.serial e) := by
  show execProject s = _
  simp only [execProject, State.projectJob, hkill, hj, hlist]
  rfl

theorem exec_project_notThree {ws : List Win} (hlist : s.bufList j.cmd j.cmd.bufOp.1 j.cmd.bufOp.2 = .ok ws)
    (hlen : ws.length ≠ 3) : exec .project s = .next ((s.listRead j.cmd).refuseJob j.cmd.serial 4) := by
  show execProject s = _
  simp only [execProject, State.projectJob, hkill, hj, hlist]
  match ws, hlen with
  | [], _ | [_], _ | [_, _], _ | _ :: _ :: _ :: _ :: _, _ => rfl

theorem exec_project_three {p d i : Win} (hlist : s.bufList j.cmd j.cmd.bufOp.1 j.cmd.bufOp.2 = .ok [p, d, i]) :
    exec .project s = if s.projectBad j.cmd p d i then .next ((s.listRead j.cmd).refuseJob j.cmd.serial 4)
      else .next ((s.listRead j.cmd).runProject j [p, d, i] j.cmd.copy) := by
  show execProject s = _
  simp only [execProject, State.projectJob, hkill, hj, hlist]
  rfl

end

/-! ### RENDER (09 R232–R234) -/

theorem exec_render_idle {prims : List DrawPrim} {s : State}
    (h : (Sparse.look none s.engKill 0).isSome = true ∨ s.unstarted .render 0x50 = none) : exec (.render prims) s = .next s := by
  show execRender prims s = _
  rcases h with h | h
  · exact if_pos h
  · simp [execRender, h]

section
variable {s : State} {j : Job} (prims : List DrawPrim) (hkill : Sparse.look none s.engKill 0 = none)
  (hj : s.unstarted .render 0x50 = some j)
include hkill hj

theorem exec_render_badList {e : Nat} (hlist : s.bufList j.cmd j.cmd.bufOp.1 j.cmd.bufOp.2 = .error e) :
    exec (.render prims) s = .next ((s.listRead j.cmd).refuseJob j.cmd.serial e) := by
  show execRender prims s = _
  simp only [execRender, hkill, hj, hlist]
  rfl

theorem exec_render_listed {ws : List Win} (hlist : s.bufList j.cmd j.cmd.bufOp.1 j.cmd.bufOp.2 = .ok ws) :
    let hdr := s.rndRead j.cmd ws (j.cmd.op 0x18 8) 256 .read
    exec (.render prims) s = if !(List.range 8).any s.coreOn then .next ((s.listRead j.cmd).refuseJob j.cmd.serial 2)
      else if (s.frame9 j.cmd ws hdr).bad hdr then .next ((s.listRead j.cmd).refuseJob j.cmd.serial 4)
      else .next ((s.listRead j.cmd).runRender j (s.frame9 j.cmd ws hdr) prims) := by
  show execRender prims s = _
  simp only [execRender, hkill, hj, hlist]
  rfl

end

/-- Some raster core is on. -/
theorem State.any_coreOn {s : State} {c : Nat} (hc : c < 8) (hon : s.coreOn c = true) : (List.range 8).any s.coreOn = true :=
  List.any_eq_true.2 ⟨c, List.mem_range.2 hc, hon⟩

/-- No raster core is on. -/
theorem State.not_any_coreOn {s : State} (h : ∀ c < 8, s.coreOn c = false) : (List.range 8).any s.coreOn = false :=
  List.any_eq_false.2 (fun c hc => by rw [h c (List.mem_range.1 hc)]; decide)

/-- Settles O41: both rows go by the engine's kill, the command that has not begun and its buffer list, then PROJECT by its
buffers, points and calibration block and RENDER by the raster cores and the frame header. That missing permissions of a
PROJECT's buffers give FORMAT_ERROR, cause 0x04, is log entry 62. -/
theorem projectorAndRender : Obligations.ProjectorAndRender := by
  unfold Obligations.ProjectorAndRender
  refine ⟨fun s => exec_project_idle, fun s j hkill hj => ⟨fun e => exec_project_badList hkill hj,
      fun ws => exec_project_notThree hkill hj, fun p d i hlist => ⟨fun hbad => ?projectBad,
        fun hp hd hi hhead hpoints hcal hout => ?projected⟩⟩,
    fun prims s => exec_render_idle, fun prims s j hkill hj => ⟨fun e => exec_render_badList prims hkill hj,
      fun ws hlist => ⟨fun hoff => ?noCore, fun c hc hon => ⟨fun hbad => ?badHeader, fun hok => ?rendered⟩⟩⟩⟩
  case projectBad => exact (exec_project_three hkill hj hlist).trans (if_pos (State.projectBad_iff.2 hbad))
  case projected =>
    refine (exec_project_three hkill hj hlist).trans (if_neg (fun hbad => ?_))
    rcases State.projectBad_iff.1 hbad with h | h | h | h | h | h | h
    · exact nomatch h.symm.trans hp
    · exact nomatch h.symm.trans hd
    · exact nomatch h.symm.trans hi
    · exact Nat.not_lt.2 hhead h
    · exact Nat.not_lt.2 hpoints h
    · exact nomatch h.symm.trans hcal
    · exact nomatch h.symm.trans hout
  case noCore =>
    refine (exec_render_listed prims hkill hj hlist).trans (if_pos ?_)
    rw [State.not_any_coreOn hoff]
    rfl
  case badHeader =>
    refine (exec_render_listed prims hkill hj hlist).trans ((if_neg ?_).trans (if_pos hbad))
    rw [State.any_coreOn hc hon]
    decide
  case rendered =>
    refine (exec_render_listed prims hkill hj hlist).trans ((if_neg ?_).trans (if_neg (by rw [hok]; decide)))
    rw [State.any_coreOn hc hon]
    decide

/-! ### Premises met -/

/-- A command of the Cantle in flight on an engine, which has not begun, with bytes of HBM. -/
def engineHeld (c : Cmd) (r : Res) (cells : List Host.Cell) : State :=
  { (((State.reset.wr MEM_PC_IN_SVC.IN_SVC 1).wr MEM_RGN.VALID 1).wr MEM_RGN.LIMIT_RU 12288).wr MEM_RGN.KEY 0x80 with
    flight := [c.job r 0], mem := { State.reset.mem with keys := [(0x80, 1)], hbm := cells } }

/-- PROJECT with three buffers, listed at 0, and a calibration block. -/
def projectCmd (cal : Bytes) : Cmd := ⟨cantleSet, 0, 1, 0, 0, leBytes 0x20 0x60 ++ leBytes 0x60 3, 0, 1, cal⟩

/-- One camera of no pixels and one lidar that it does not see. -/
def emptyCal : Bytes := leBytes 0x40 0x0101 ++ leBytes 0x800 1 ++ [16]

/-- A readable buffer of 64 bytes at 0x100 that holds no points, and writable ones of 32 bytes at 0x200 and 0x240. -/
def projectBuffers : List Host.Cell :=
  [(1, 1), (8, 64), (0x10, 1), (0x21, 2), (0x28, 32), (0x30, 2), (0x40, 0x40), (0x41, 2), (0x48, 32), (0x50, 2)]

theorem witness_projected : ∃ t, exec .project (engineHeld (projectCmd emptyCal) .projector projectBuffers) = .next t ∧
    t.flight.map (·.outcome) = [.ended 0 0 0] := by
  obtain ⟨-, hproject, -⟩ := projectorAndRender
  obtain ⟨-, -, hthree⟩ := hproject (engineHeld (projectCmd emptyCal) .projector projectBuffers)
    ((projectCmd emptyCal).job .projector 0) (by decide +kernel) (by decide +kernel)
  obtain ⟨-, hrun⟩ := hthree ⟨0x100, 64, true, false, false, 0⟩ ⟨0x200, 32, false, true, false, 0⟩
    ⟨0x240, 32, false, true, false, 0⟩ (by rfl)
  exact ⟨_, hrun rfl rfl rfl (by decide) (by decide +kernel) (by decide +kernel) (by decide +kernel), by decide +kernel⟩

/-- A calibration block of zeros names no camera. -/
theorem witness_project_refused : ∃ t, exec .project (engineHeld (projectCmd []) .projector projectBuffers) = .next t ∧
    t.flight.map (·.outcome) = [.ended 0x40 4 0] := by
  obtain ⟨-, hproject, -⟩ := projectorAndRender
  obtain ⟨-, -, hthree⟩ := hproject (engineHeld (projectCmd []) .projector projectBuffers)
    ((projectCmd []).job .projector 0) (by decide +kernel) (by decide +kernel)
  obtain ⟨hbad, -⟩ := hthree ⟨0x100, 64, true, false, false, 0⟩ ⟨0x200, 32, false, true, false, 0⟩
    ⟨0x240, 32, false, true, false, 0⟩ (by rfl)
  exact ⟨_, hbad (by decide +kernel), by decide +kernel⟩

/-- RENDER with one buffer, listed at 0, and its header at 0x100. -/
def renderCmd : Cmd := ⟨cantleSet, 0, 1, 0, 0, leBytes 0x18 0x50 ++ leBytes 0x18 0x100 ++ leBytes 0x50 1, 0, 1, []⟩

/-- A buffer of 8 MiB from address 0, and a header of one pixel with one attachment, whose image lies at 0 and whose descriptor
lies at 0x200; the buffer is the tile-list pool too. -/
def renderBuffer : List Host.Cell :=
  [(0x0A, 0x80), (0x10, 3), (0x100, 1), (0x104, 1), (0x106, 1), (0x108, 1), (0x10A, 0xFF), (0x10B, 0xFF), (0x129, 2), (0x200, 1),
    (0x201, 1), (0x204, 1), (0x206, 1)]

/-- The same with the raster cores of the first half on. -/
def coresOn (cells : List Host.Cell) : State :=
  (((engineHeld renderCmd .render cells).wr RND_CFG.CORES_EN 8).wr RND_CFG.IN_SVC 255).wr PWR_DOM.STATE domOn 15

theorem witness_no_core : ∃ t, exec (.render []) (engineHeld renderCmd .render renderBuffer) = .next t ∧
    t.flight.map (·.outcome) = [.ended 0x40 2 0] := by
  obtain ⟨-, -, -, hrender⟩ := projectorAndRender
  obtain ⟨-, hlist⟩ := hrender [] (engineHeld renderCmd .render renderBuffer) (renderCmd.job .render 0) (by decide +kernel)
    (by decide +kernel)
  obtain ⟨hnone, -⟩ := hlist [⟨0, 0x800000, true, true, false, 0⟩] (by rfl)
  exact ⟨_, hnone (by decide +kernel), by decide +kernel⟩

theorem witness_rendered : ∃ u f, exec (.render []) (coresOn renderBuffer) =
    .next (State.runRender u (renderCmd.job .render 0) f []) ∧ f.w = 1 ∧ f.atts.length = 1 := by
  obtain ⟨-, -, -, hrender⟩ := projectorAndRender
  obtain ⟨-, hlist⟩ := hrender [] (coresOn renderBuffer) (renderCmd.job .render 0) (by decide +kernel) (by decide +kernel)
  obtain ⟨-, hcore⟩ := hlist [⟨0, 0x800000, true, true, false, 0⟩] (by rfl)
  obtain ⟨-, hrun⟩ := hcore 0 (by decide) (by decide +kernel)
  exact ⟨_, _, hrun (by decide +kernel), by decide +kernel, by decide +kernel⟩

/-- A header of zeros has no version. -/
theorem witness_header_refused : ∃ t, exec (.render []) (coresOn [(0x0A, 0x80), (0x10, 3)]) = .next t ∧
    t.flight.map (·.outcome) = [.ended 0x40 4 0] := by
  obtain ⟨-, -, -, hrender⟩ := projectorAndRender
  obtain ⟨-, hlist⟩ := hrender [] (coresOn [(0x0A, 0x80), (0x10, 3)]) (renderCmd.job .render 0) (by decide +kernel)
    (by decide +kernel)
  obtain ⟨-, hcore⟩ := hlist [⟨0, 0x800000, true, true, false, 0⟩] (by rfl)
  obtain ⟨hbad, -⟩ := hcore 0 (by decide) (by decide +kernel)
  exact ⟨_, hbad (by decide +kernel), by decide +kernel⟩

end Sys2Proof.Machine
end

section
/-! The display heads: PRESENT, the latch and the frame start (09 R243–R246). -/

namespace Sys2Proof.Machine

-- One theorem after the other: kernel checks that wait in threads of their own would take the memory the check allows.
set_option Elab.async false

/-! ### PRESENT (09 R244) -/

/-- A PRESENT's image at the end of the pending lists. -/
def State.joinPend (s : State) (p : Present) : State := { s with disp := { s.disp with pend := s.disp.pend ++ [p] } }

@[simp] theorem State.joinPend_pend (s : State) (p : Present) : (s.joinPend p).disp.pend = s.disp.pend ++ [p] := rfl
@[simp] theorem State.joinPend_regs (s : State) (p : Present) : (s.joinPend p).regs = s.regs := rfl

/-- A PRESENT that goes from its queue to a pending list leaves the registers and the memory. -/
theorem State.joinPend_dequeue (s : State) (serial : Nat) (p : Present) :
    ((s.dequeue serial).joinPend p).disp.pend = s.disp.pend ++ [p] ∧ ((s.dequeue serial).joinPend p).regs = s.regs ∧
      ((s.dequeue serial).joinPend p).mem = s.mem ∧
      ((s.dequeue serial).joinPend p).queue = s.queue.filter (fun q => q.2.serial != serial) := ⟨rfl, rfl, rfl, rfl⟩

/-- Room for one more pending PRESENT of a head: where four are pending, the oldest completes SKIPPED. -/
def State.roomPend (s : State) (h : Nat) : State :=
  match s.pendOf h with
  | p :: _ => if (s.pendOf h).length ≥ 4 then s.endPresent p none false else s
  | [] => s

theorem State.roomPend_free {s : State} {h : Nat} (hlt : (s.pendOf h).length < 4) : s.roomPend h = s := by
  unfold State.roomPend
  split
  · exact if_neg (Nat.not_le.2 hlt)
  · rfl

theorem State.roomPend_full {s : State} {h : Nat} {p : Present} {rest : List Present} (hp : s.pendOf h = p :: rest)
    (hlen : 3 ≤ rest.length) : s.roomPend h = s.endPresent p none false := by
  simp only [State.roomPend, hp]
  exact if_pos (Nat.succ_le_succ hlen)

theorem exec_present_idle {cls : Fin 4} {s : State} (h : s.headIs .render cls 0x51 = none) :
    exec (.present cls) s = .next s := by
  show execPresent cls s = _
  simp only [execPresent, h]

section
variable {cls : Fin 4} {s : State} {c : Cmd} (h : s.headIs .render cls 0x51 = some c)
include h

theorem exec_present_held (hheld : s.waits c = true ∨ s.vefRuns c.vef = false) : exec (.present cls) s = .next s := by
  show execPresent cls s = _
  simp only [execPresent, h]
  refine if_pos ?_
  rcases hheld with hw | hv
  · rw [hw, Bool.true_or]
  · rw [hv, Bool.not_false, Bool.or_true]

variable (hw : s.waits c = false) (hv : s.vefRuns c.vef = true)
include hw hv

theorem exec_present_poisoned (hpoison : s.ctxBad c.ctx (c.op 0x18 8) 64 ≠ []) :
    exec (.present cls) s = .next ((s.ctxTouch c.ctx (c.op 0x18 8) 64).endQueued c 0x30 0 0) := by
  show execPresent cls s = _
  simp only [execPresent, h, hw, hv, bne_iff_ne.2 hpoison]
  rfl

theorem exec_present_notShown (hclean : s.ctxBad c.ctx (c.op 0x18 8) 64 = [])
    (hbad : s.presentBad (c.op 0x20 1) (imgOfBytes (s.ctxRead c.ctx (c.op 0x18 8) 64)) = true) :
    exec (.present cls) s = .next ((s.ctxTouch c.ctx (c.op 0x18 8) 64).endQueued c 0x40 4 0) := by
  show execPresent cls s = _
  simp only [execPresent, h, hw, hv, hclean, hbad]
  rfl

theorem exec_present_joined (hclean : s.ctxBad c.ctx (c.op 0x18 8) 64 = [])
    (hgood : s.presentBad (c.op 0x20 1) (imgOfBytes (s.ctxRead c.ctx (c.op 0x18 8) 64)) = false) :
    exec (.present cls) s = .next ((((s.ctxTouch c.ctx (c.op 0x18 8) 64).dequeue c.serial).roomPend (c.op 0x20 1)).joinPend
      ⟨c.op 0x20 1, c, s.ctxRead c.ctx (c.op 0x18 8) 64⟩) := by
  show execPresent cls s = _
  simp only [execPresent, h, hw, hv, hclean, hgood]
  rfl

end

/-! ### The latch and the frame start (09 R243, R245, R246) -/

/-- A frame number, where there is one, meets a condition. -/
def frameMeets (p : Nat → Bool) : Option Nat → Bool
  | some m => p m
  | none => false

theorem frameMeets_iff {p : Nat → Bool} {o : Option Nat} : frameMeets p o = true ↔ ∃ m, o = some m ∧ p m = true := by
  cases o <;> simp [frameMeets]

/-- PRESENT_LATCH has nothing to do: the head is off, it resumes with a later frame, the frame is latched, or its latch lies
ahead. -/
def State.latchIdle (s : State) (h : Fin 6) : Bool :=
  !s.headOn h || frameMeets (fun r => decide (s.frameNext h s.vehicleNs < r)) (s.head h).resume ||
    frameMeets (fun m => decide (s.frameNext h s.vehicleNs ≤ m)) (s.head h).latched ||
    decide (s.vehicleNs + 2000000 < s.frameAt h (s.frameNext h s.vehicleNs))

theorem State.latchIdle_iff {s : State} {h : Fin 6} : s.latchIdle h = true ↔
    s.headOn h = false ∨ (∃ r, (s.head h).resume = some r ∧ s.frameNext h s.vehicleNs < r) ∨
      (∃ m, (s.head h).latched = some m ∧ s.frameNext h s.vehicleNs ≤ m) ∨
      s.vehicleNs + 2000000 < s.frameAt h (s.frameNext h s.vehicleNs) := by
  simp [State.latchIdle, frameMeets_iff, or_assoc]

theorem exec_presentLatch (h : Fin 6) (s : State) : exec (.presentLatch h) s =
    if s.latchIdle h then .next s else .next (s.latch h (s.frameNext h s.vehicleNs)) := rfl

/-- FRAME_START has nothing to do: the head is off, it resumes with a later frame, the frame has started, or none has come. -/
def State.startIdle (s : State) (h : Fin 6) : Bool :=
  !s.headOn h || frameMeets (fun r => decide (s.frameNext h s.vehicleNs - 1 < r)) (s.head h).resume ||
    frameMeets (fun m => decide (s.frameNext h s.vehicleNs - 1 ≤ m)) (s.head h).started || s.frameNext h s.vehicleNs == 0

theorem State.startIdle_iff {s : State} {h : Fin 6} : s.startIdle h = true ↔
    s.headOn h = false ∨ (∃ r, (s.head h).resume = some r ∧ s.frameNext h s.vehicleNs - 1 < r) ∨
      (∃ m, (s.head h).started = some m ∧ s.frameNext h s.vehicleNs - 1 ≤ m) ∨ s.frameNext h s.vehicleNs = 0 := by
  simp [State.startIdle, frameMeets_iff, or_assoc]

theorem exec_frameStart (h : Fin 6) (late : List (Nat × Nat)) (s : State) : exec (.frameStart h late) s =
    if s.startIdle h then .next s else .next (s.scanFrame h (s.frameNext h s.vehicleNs - 1) late) := rfl

/-- Settles O42: PRESENT goes by its place in the queue, then by its descriptor and by the room in its head's list; the latch and
the frame start each ask once whether the head has anything to do. That a frame may be latched from 2.0 ms before it until it
starts is log entry 66. -/
theorem displayHeads : Obligations.DisplayHeads := by
  unfold Obligations.DisplayHeads
  refine ⟨fun cls s => ⟨exec_present_idle, fun c hc => exec_present_held hc⟩, fun cls s c hc hw hv => ?taken,
    fun h s => ⟨fun hi => ?noLatch, fun hi => ?latched⟩, fun h late s => ⟨fun hi => ?noStart, fun hi => ?started⟩⟩
  case taken =>
    refine ⟨exec_present_poisoned hc hw hv, exec_present_notShown hc hw hv, fun hclean hgood =>
      ⟨fun hlt => ⟨_, exec_present_joined hc hw hv hclean hgood, ?_⟩,
        fun p rest hp hlen => ⟨_, exec_present_joined hc hw hv hclean hgood, ?_⟩⟩⟩
    · rw [State.roomPend_free hlt]
      exact State.joinPend_dequeue _ _ _
    · rw [State.roomPend_full hp hlen]
      exact ⟨State.joinPend_pend _ _, State.joinPend_regs _ _⟩
  case noLatch => exact (exec_presentLatch h s).trans (if_pos (State.latchIdle_iff.2 hi))
  case latched => exact (exec_presentLatch h s).trans (if_neg (fun hidle => hi (State.latchIdle_iff.1 hidle)))
  case noStart => exact (exec_frameStart h late s).trans (if_pos (State.startIdle_iff.2 hi))
  case started => exact (exec_frameStart h late s).trans (if_neg (fun hidle => hi (State.startIdle_iff.1 hidle)))

/-! ### Premises met -/

/-- A PRESENT of the Cantle for head 0, whose descriptor lies at 0x100. -/
def presentCmd (serial : Nat) : Cmd := ⟨cantleSet, 0, 1, 0, 0, leBytes 0x18 0x51 ++ leBytes 8 0x100, 0, serial, []⟩

/-- A descriptor of an image of one by one pixel, RGBA8 with one sample, at address 0. -/
def pixelImage : List Host.Cell := [(0x100, 1), (0x101, 1), (0x104, 1), (0x106, 1)]

/-- Head 0 is ON with one pixel, the PRESENT `c` waits at the head of its queue, and others are pending. -/
def presentQueued (c : Cmd) (pend : List Present) (cells : List Host.Cell) : State :=
  let s := ((engineHeld c .render cells).wr DSP_HEAD.STATE 2).wr DSP_HEAD.H_ACTIVE 1
  { s.wr DSP_HEAD.V_ACTIVE 1 with flight := [], queue := [(.render, c)], disp := { s.disp with pend := pend } }

theorem witness_present_joined : ∃ t, exec (.present 1) (presentQueued (presentCmd 9) [] pixelImage) = .next t ∧
    t.disp.pend.map (·.cmd.serial) = [9] ∧ t.queue = [] := by
  obtain ⟨-, htaken, -⟩ := displayHeads
  obtain ⟨-, -, hshown⟩ := htaken 1 (presentQueued (presentCmd 9) [] pixelImage) (presentCmd 9) (by decide +kernel)
    (by decide +kernel) (by decide +kernel)
  obtain ⟨t, ht, hpend, -, -, hqueue⟩ := (hshown (by decide +kernel) (by decide +kernel)).1 (by decide +kernel)
  exact ⟨t, ht, hpend ▸ by decide +kernel, hqueue.trans (by decide +kernel)⟩

/-- Four PRESENTs pending on head 0, the oldest with serial 1. -/
def fourPending : List Present := [1, 2, 3, 4].map (fun k => ⟨0, presentCmd k, []⟩)

/-- The fifth ends the oldest. -/
theorem witness_present_skips : ∃ t, exec (.present 1) (presentQueued (presentCmd 9) fourPending pixelImage) = .next t ∧
    t.disp.pend.map (·.cmd.serial) = [2, 3, 4, 9] := by
  obtain ⟨-, htaken, -⟩ := displayHeads
  obtain ⟨-, -, hshown⟩ := htaken 1 (presentQueued (presentCmd 9) fourPending pixelImage) (presentCmd 9) (by decide +kernel)
    (by decide +kernel) (by decide +kernel)
  obtain ⟨t, ht, hpend, -⟩ := (hshown (by decide +kernel) (by decide +kernel)).2 ⟨0, presentCmd 1, []⟩ (fourPending.drop 1)
    (by decide +kernel) (by decide)
  exact ⟨t, ht, hpend ▸ by decide +kernel⟩

/-- The descriptor's first word is poisoned. -/
theorem witness_present_poisoned :
    let s := presentQueued (presentCmd 9) [] pixelImage
    ∃ t, exec (.present 1) { s with mem := { s.mem with hbmErr := [(0x20, 2)] } } = .next t ∧
      t.queue = [] ∧ t.disp.pend = [] := by
  intro s
  obtain ⟨-, htaken, -⟩ := displayHeads
  obtain ⟨hpoisoned, -⟩ := htaken 1 { s with mem := { s.mem with hbmErr := [(0x20, 2)] } } (presentCmd 9) (by decide +kernel)
    (by decide +kernel) (by decide +kernel)
  exact ⟨_, hpoisoned (by decide +kernel), by decide +kernel, by decide +kernel⟩

/-- The moment 15 ms after head 0's epoch, 1.7 ms before its frame 1. -/
def beforeFrame : State :=
  { presentQueued (presentCmd 9) fourPending pixelImage with
    time := { State.reset.time with acc := [(0, 15000000 * nsUnit)] } }

/-- The newest of the four PRESENTs is latched, which leaves none pending. -/
theorem witness_latched : ∃ t, exec (.presentLatch 0) beforeFrame = .next t ∧ (t.head 0).latched = some 1 ∧
    (t.head 0).shown.map (·.cmd.serial) = some 4 ∧ t.disp.pend = [] := by
  obtain ⟨-, -, hlatch, -⟩ := displayHeads
  exact ⟨_, (hlatch 0 beforeFrame).2 (by decide +kernel), by decide +kernel, by decide +kernel, by decide +kernel⟩

theorem witness_scanned : ∃ t, exec (.frameStart 0 []) beforeFrame = .next t ∧ (t.head 0).started = some 0 := by
  obtain ⟨-, -, -, hstart⟩ := displayHeads
  exact ⟨_, (hstart 0 [] beforeFrame).2 (by decide +kernel), by decide +kernel⟩

end Sys2Proof.Machine
end

section
/-! Fault reports and their classes, the window watchdog and STATUS (10 R260–R263, R271, R278). -/

namespace Sys2Proof.Machine

/-! ### A report processed by its class (10 R261–R263) -/

section
variable {s : State} {r : SafReport}

/-- Source 0x01 of a split pair aside, a device-fatal report is the reaction of enterSafe. -/
theorem State.processFault_fatal (hc : faultClass r.source = 3) (hs : r.source ≠ 1 ∨ s.flag SAF_CTL.SPLIT = false) :
    s.processFault r = s.enterSafe r := by
  have hsplit : ¬(r.source = 1 ∧ s.flag SAF_CTL.SPLIT = true) := by
    rintro ⟨h1, h2⟩
    exact hs.elim (· h1) (fun h => Bool.false_ne_true (h.symm.trans h2))
  simp only [State.processFault, if_neg hsplit, hc]

/-- The class of source 0x01, which a split pair makes inert, is device-fatal. -/
theorem source_ne_one_of_class {n : Nat} (h : faultClass n ≠ 3) : n ≠ 1 := fun h1 => h (h1 ▸ rfl)

theorem State.processFault_correctable (hc : faultClass r.source = 4) : s.processFault r = s.inc SAF_FAULT_CNT.CORRECTABLE := by
  have h1 : r.source ≠ 1 := source_ne_one_of_class (by rw [hc]; decide)
  simp only [State.processFault, h1, false_and, if_false, hc]

/-- A contained report of no field is counted and recorded; it stops nothing. -/
theorem State.processFault_contained (hc : faultClass r.source = 1) (hf : r.field = none) :
    s.processFault r = ((s.inc SAF_FAULT_CNT.CONTAINED).countFault).recordFault r := by
  have h1 : r.source ≠ 1 := source_ne_one_of_class (by rw [hc]; decide)
  simp only [State.processFault, h1, false_and, if_false, hc, State.containedFault, hf]

theorem State.enterSafe_again (h : s.flag SAF_CTL.SAFE_STATE = true) : s.enterSafe r = s.inc SAF_FAULT_CNT.FATAL_EXTRA := if_pos h

end

/-! ### FAULT_REPORT (10 R260) -/

/-- A report taken up by the collector. -/
def State.reportTaken (s : State) (r : SafReport) : State := { s with saf := { s.saf with reports := s.saf.reports.erase r } }

/-- The oldest pending report of a source and field. -/
def State.reportOf (s : State) (source : Fin 256) (field : Option (Fin 17)) : Option SafReport :=
  s.saf.reports.find? (fun r => r.source == source.val && decide (r.field = field.map (·.val)))

section
variable {source : Fin 256} {field : Option (Fin 17)} {s : State}

/-- The report found is one of the source and the field asked for. -/
theorem State.reportOf_some {r : SafReport} (h : s.reportOf source field = some r) :
    r.source = source.val ∧ r.field = field.map (·.val) := by
  have hboth := List.find?_some h
  simpa only [Bool.and_eq_true, beq_iff_eq, decide_eq_true_eq] using hboth

theorem exec_faultReport_pending {r : SafReport} (h : s.reportOf source field = some r) :
    exec (.faultReport source field) s = .next ((s.reportTaken r).processFault r) := by
  show execFaultReport source field s = _
  unfold State.reportOf at h
  simp only [execFaultReport, h]
  rfl

/-- What FAULT_REPORT does where no report is pending: a mismatch of the projector, a physical mechanism, or nothing. -/
theorem exec_faultReport_unreported (h : s.reportOf source field = none) : exec (.faultReport source field) s =
    if source.val = 0x16 then .next s.projectorFault
    else if physicalSource source then .next (s.processFault ⟨source, field.map (·.val), s.vehicleNs⟩) else .next s := by
  show execFaultReport source field s = _
  unfold State.reportOf at h
  simp only [execFaultReport, h]

end

theorem State.projectorFault_idle {s : State} (h : s.dupJob = none) : s.projectorFault = s := by
  simp only [State.projectorFault, h]

theorem State.projectorFault_mismatch {s : State} {j : Job} (h : s.dupJob = some j) : s.projectorFault =
    if j.cmd.cls = 0 then (s.dupMismatch j).processFault ⟨0x16, none, s.vehicleNs⟩ else s.dupMismatch j := by
  simp only [State.projectorFault, h]

/-! ### Heartbeats (10 R260) -/

theorem exec_heartbeats (s : State) :
    exec .heartbeatTimeout s = .next (if s.awake then s.report 0x05 none else s) ∧
      exec .firmwareSilent s = .next (if s.awake then s.report 0x09 none else s) := ⟨rfl, rfl⟩

/-! ### The window watchdog (10 R271) -/

theorem Requester.isCantle_of_eq {w : Requester} (h : w = .cantle) : w.isCantle = true := h ▸ rfl

theorem exec_kick {src : Source} {s : State} (h : s.who src = .cantle) : exec (.kick src) s = .next s.kickWatchdog :=
  congrArg _ (State.asWho_pos s src _ _ _ (Requester.isCantle_of_eq h))

section
variable {x : SafSt} {now here early late first : Nat}

/-- A kick at `now` outside its window: less than `early` or `late` or more after the last, or the first one at a local time
`first` or more after the release. The bounds stay variables: a proof must not unfold a large number beside a variable. -/
def SafSt.kickMisses (x : SafSt) (now here early late first : Nat) : Bool :=
  (!x.kickFree && x.kick.any (fun k => decide (now < k + early))) ||
    (match x.kick with
      | some k => decide (k + late ≤ now)
      | none => x.released.any (fun r => decide (r + first ≤ here)))

theorem SafSt.kickMisses_iff : x.kickMisses now here early late first = false ↔
    (∀ k, x.kick = some k → (x.kickFree = true ∨ k + early ≤ now) ∧ now < k + late) ∧
      (x.kick = none → ∀ r, x.released = some r → here < r + first) := by
  cases hk : x.kick with
  | none => cases hr : x.released <;> simp [SafSt.kickMisses, hk, hr]
  | some k => cases hf : x.kickFree <;> simp [SafSt.kickMisses, hk, hf]

/-- The window that runs has passed without a kick: `late` after the last, or `first` after the release. -/
def SafSt.windowPassed (x : SafSt) (now here late first : Nat) : Bool :=
  x.kick.any (fun k => decide (k + late ≤ now)) || (x.kick.isNone && x.released.any (fun r => decide (r + first ≤ here)))

theorem SafSt.windowPassed_kick {k : Nat} (h : x.kick = some k) : x.windowPassed now here late first = true ↔ k + late ≤ now := by
  simp [SafSt.windowPassed, h]

theorem SafSt.windowPassed_noKick (h : x.kick = none) :
    x.windowPassed now here late first = true ↔ ∃ r, x.released = some r ∧ r + first ≤ here := by
  cases hr : x.released <;> simp [SafSt.windowPassed, h, hr]

end

/-- The moment of a kick kept. -/
def State.kicked (s : State) (t : Nat) : State := { s with saf := { s.saf with kick := some t, kickFree := false, released := none } }

theorem State.kickWatchdog_off {s : State} (h : s.flag SAF_WDOG.WD_EN = false ∨ s.watchSuspended = true) : s.kickWatchdog = s := by
  refine if_pos ?_
  rcases h with h | h
  · rw [h]; rfl
  · rw [h, Bool.or_true]

theorem State.kickWatchdog_on {s : State} (hen : s.flag SAF_WDOG.WD_EN = true) (hw : s.watchSuspended = false) :
    s.kickWatchdog = (if s.saf.kickMisses s.vehicleNs s.localNs 500000 1000000 50000000 then s.report 0x0A none else s).kicked s.vehicleNs := by
  unfold State.kickWatchdog
  rw [hen, hw]
  rfl

/-- The window watchdog suspended, its fault reported. -/
def State.windowFault (s : State) : State :=
  ({ s with saf := { s.saf with kick := none, released := none } } : State).report 0x0A none

theorem exec_watchdogWindowExpiry (s : State) : exec .watchdogWindowExpiry s =
    if s.flag SAF_WDOG.WD_EN && s.saf.windowPassed s.vehicleNs s.localNs 1000000 50000000 then .next s.windowFault else .next s := rfl

/-! ### STATUS (10 R263, R278) -/

theorem exec_statusWrite {src : Source} {s : State} (v : Fin 16) (h : s.who src = .cantle) :
    exec (.statusWrite src v) s = .next (s.writeStatus v) :=
  congrArg _ (State.asWho_pos s src _ _ _ (Requester.isCantle_of_eq h))

theorem State.writeStatus_ignored {s : State} {v : Nat} (h : s.flag SAF_CTL.SAFE_STATE = true ∨ v = 6) : s.writeStatus v = s := by
  refine if_pos ?_
  rcases h with h | h
  · rw [h, Bool.true_or]
  · rw [beq_iff_eq.2 h, Bool.or_true]

section
variable {s : State} {v : Nat} (hsafe : s.flag SAF_CTL.SAFE_STATE = false) (h6 : v ≠ 6)
include hsafe h6

/-- A value that releases no pin is stored. -/
theorem State.writeStatus_stored (hv : v ≠ 2 ∨ s.flag SAF_CTL.FAULT_N_LOW = false) : s.writeStatus v = s.wr SAF_CTL.STATUS v := by
  have hlow := State.flag_wr_ne s SAF_CTL.STATUS SAF_CTL.FAULT_N_LOW v 0 0 0 0 (by decide)
  have hkeep : ¬(v = 2 ∧ (s.wr SAF_CTL.STATUS v).flag SAF_CTL.FAULT_N_LOW = true) := by
    rintro ⟨h2, hset⟩
    exact hv.elim (· h2) (fun h => Bool.false_ne_true (h.symm.trans (hlow.symm.trans hset)))
  simp only [State.writeStatus, hsafe, beq_eq_false_iff_ne.2 h6, Bool.or_false, Bool.false_eq_true, if_false, if_neg hkeep]

end

/-- OPERATIONAL releases FAULT_N. -/
theorem State.writeStatus_operational {s : State} (hsafe : s.flag SAF_CTL.SAFE_STATE = false)
    (hset : s.flag SAF_CTL.FAULT_N_LOW = true) :
    s.writeStatus 2 = ((s.wr SAF_CTL.STATUS 2).wr SAF_CTL.FAULT_N_LOW 0).emit (.faultN true) := by
  have hlow := State.flag_wr_ne s SAF_CTL.STATUS SAF_CTL.FAULT_N_LOW 2 0 0 0 0 (by decide)
  simp only [State.writeStatus, hsafe, Bool.false_or, hlow, hset]
  rfl

theorem State.released_facts (s : State) :
    let t := ((s.wr SAF_CTL.STATUS 2).wr SAF_CTL.FAULT_N_LOW 0).emit (.faultN true)
    t.rd SAF_CTL.STATUS = 2 ∧ t.flag SAF_CTL.FAULT_N_LOW = false ∧ t.out = .faultN true :: s.out := by
  refine ⟨?_, ?_, rfl⟩
  · rw [State.rd_emit, State.rd_wr_ne _ _ SAF_CTL.STATUS _ _ _ _ _ (by decide) (by decide) (by decide), State.rd_wr_same]
    rfl
  · simp only [State.flag, State.rd_emit, State.rd_wr_same]
    rfl

/-- Settles O43: a report pending, or one of a physical mechanism, is processed by its class; a kick is judged by the window it
falls in, and a write of STATUS by the safe state. That source 0x16 is the projector's own mismatch is log entry 62, that a
physical mechanism's report is always taken and a kick counts only with WD_EN log entry 70, and the watchdog suspended during
the move from DEPOT into PARK log entry 131. -/
theorem faultsAndReactions : Obligations.FaultsAndReactions := by
  unfold Obligations.FaultsAndReactions
  refine ⟨fun source field s => ⟨fun r hr => ?pending, fun hr => ?unreported⟩, fun s => ⟨fun ha => ?awake, fun ha => ?asleep⟩,
    fun src s => ⟨fun hw => ?kicks, fun hw hsafe => ?status, fun v hw hsafe => ?safe, fun v hw => ?other⟩,
    fun s hrun => ?inTime, fun s hen => ⟨fun k hk => ?kicked, fun r hk hr hle => ?noKick⟩⟩
  case pending =>
    obtain ⟨hsource, hfield⟩ := State.reportOf_some hr
    rw [← hsource]
    have htaken := exec_faultReport_pending hr
    exact ⟨htaken, fun hc => ⟨_, htaken, State.processFault_correctable hc⟩,
      fun hc hnone => htaken.trans (congrArg _ (State.processFault_contained hc (hfield.trans (hnone ▸ rfl)))),
      fun hc hsafe hs => htaken.trans (congrArg _ ((State.processFault_fatal (s := s.reportTaken r) hc hs).trans
        (State.enterSafe_again (s := s.reportTaken r) hsafe))),
      fun hc _ hs => htaken.trans (congrArg _ (State.processFault_fatal (s := s.reportTaken r) hc hs))⟩
  case unreported =>
    rw [exec_faultReport_unreported hr]
    refine ⟨fun hp => ?_, fun h16 => ?_, fun hp h16 => ?_⟩
    · have h16 : source.val ≠ 0x16 := fun h => by rw [h] at hp; exact absurd hp (by decide)
      rw [if_neg h16, if_pos hp]
    · rw [if_pos h16]
      refine ⟨fun hj => congrArg _ (State.projectorFault_idle hj), fun j hj => ?_⟩
      rw [State.projectorFault_mismatch hj]
      exact ⟨fun hcls => congrArg _ (if_pos hcls), fun hcls => congrArg _ (if_neg hcls)⟩
    · rw [if_neg h16, hp]
      rfl
  case awake => rw [(exec_heartbeats s).1, (exec_heartbeats s).2, ha]; exact ⟨rfl, rfl⟩
  case asleep => rw [(exec_heartbeats s).1, (exec_heartbeats s).2, ha]; exact ⟨rfl, rfl⟩
  case kicks =>
    rw [exec_kick hw]
    refine ⟨fun hoff => congrArg _ (State.kickWatchdog_off hoff), fun hen hrun => ?_⟩
    rw [State.kickWatchdog_on hen hrun]
    refine ⟨fun hgood => ?_, fun hbad => ?_⟩
    · rw [SafSt.kickMisses_iff.2 hgood]
      rfl
    · rw [eq_true_of_ne_false (fun h => hbad (SafSt.kickMisses_iff.1 h))]
      exact ⟨_, rfl, rfl, rfl, rfl⟩
  case status =>
    rw [exec_statusWrite 2 hw, exec_statusWrite 6 hw]
    exact ⟨fun v h6 h2 => (exec_statusWrite v hw).trans (congrArg _ (State.writeStatus_stored hsafe h6 (.inl h2))),
      fun hlow => congrArg _ (State.writeStatus_stored hsafe (by decide) (.inr hlow)),
      fun hlow => ⟨_, congrArg _ (State.writeStatus_operational hsafe hlow), State.released_facts s⟩,
      congrArg _ (State.writeStatus_ignored (.inr rfl))⟩
  case safe => exact (exec_statusWrite v hw).trans (congrArg _ (State.writeStatus_ignored (.inl hsafe)))
  case other => exact ⟨congrArg _ (State.asWho_neg s src _ _ _ hw), congrArg _ (State.asWho_neg s src _ _ _ hw)⟩
  case inTime =>
    refine (exec_watchdogWindowExpiry s).trans (if_neg (fun hboth => ?_))
    obtain ⟨hen, hpassed⟩ := Bool.and_eq_true_iff.1 hboth
    rcases hrun with hoff | ⟨hk, hearly⟩
    · exact Bool.false_ne_true (hoff.symm.trans hen)
    · obtain ⟨r, hr, hle⟩ := (SafSt.windowPassed_noKick hk).1 hpassed
      exact Nat.not_le.2 (hearly r hr) hle
  case kicked =>
    rw [exec_watchdogWindowExpiry, hen, Bool.true_and]
    exact ⟨fun hlt => if_neg (fun hpassed => Nat.not_le.2 hlt ((SafSt.windowPassed_kick hk).1 hpassed)),
      fun hle => if_pos ((SafSt.windowPassed_kick hk).2 hle)⟩
  case noKick =>
    rw [exec_watchdogWindowExpiry, hen, (SafSt.windowPassed_noKick hk).2 ⟨r, hr, hle⟩]
    rfl

/-! ### Premises met -/

/-- A report of no field that waits for the collector, in the safe state or outside it. -/
def reportWaiting (source safe : Nat) : State := (State.reset.wr SAF_CTL.SAFE_STATE safe).report source none

/-- Source 0x30 is correctable, 0x12 contained and 0x03 device-fatal. -/
theorem witness_reports_by_class :
    (∃ t, exec (.faultReport 0x30 none) (reportWaiting 0x30 0) = .next t ∧ t.rd SAF_FAULT_CNT.CORRECTABLE = 1 ∧ t.saf.reports = []) ∧
    (∃ t, exec (.faultReport 0x12 none) (reportWaiting 0x12 0) = .next t ∧ t.rd SAF_FAULT_CNT.CONTAINED = 1 ∧ t.saf.faults = 1) ∧
    ∃ t, exec (.faultReport 3 none) (reportWaiting 3 1) = .next t ∧ t.rd SAF_FAULT_CNT.FATAL_EXTRA = 1 := by
  obtain ⟨hreport, -⟩ := faultsAndReactions
  refine ⟨?_, ?_, ?_⟩
  · obtain ⟨-, hcount, -⟩ := (hreport 0x30 none (reportWaiting 0x30 0)).1 ⟨0x30, none, 0⟩ (by decide +kernel)
    obtain ⟨t, ht, heq⟩ := hcount (by decide)
    exact ⟨t, ht, heq ▸ by decide +kernel, heq ▸ by decide +kernel⟩
  · obtain ⟨-, -, hcontained, -⟩ := (hreport 0x12 none (reportWaiting 0x12 0)).1 ⟨0x12, none, 0⟩ (by decide +kernel)
    exact ⟨_, hcontained (by decide) rfl, by decide +kernel, by decide +kernel⟩
  · obtain ⟨-, -, -, hagain, -⟩ := (hreport 3 none (reportWaiting 3 1)).1 ⟨3, none, 0⟩ (by decide +kernel)
    exact ⟨_, hagain (by decide) (by decide +kernel) (.inl (by decide)), by decide +kernel⟩

/-- A PROJECT of class 1 with DUP = 1 in flight. -/
def dupProject : State := engineHeld (projectCmd [0, 0, 1]) .projector []

theorem witness_projector_mismatch : ∃ t, exec (.faultReport 0x16 none) dupProject = .next t ∧
    t.flight.map (·.outcome) = [.ended 0x30 0 0] := by
  obtain ⟨hreport, -⟩ := faultsAndReactions
  obtain ⟨-, hdup, -⟩ := (hreport 0x16 none dupProject).2 (by decide +kernel)
  obtain ⟨-, hother⟩ := (hdup rfl).2 ((projectCmd [0, 0, 1]).job .projector 0) (by decide +kernel)
  exact ⟨_, hother (by decide), by decide +kernel⟩

/-- The window watchdog runs, its last kick at time 0. -/
def watchdogRuns (now : Nat) : State :=
  { State.reset.wr SAF_WDOG.WD_EN 1 with
    saf := { SafSt.cold with kick := some 0 }, time := { State.reset.time with acc := [(0, now * nsUnit)] } }

theorem witness_kick_early : ∃ t, exec (.kick .cantle) (watchdogRuns 499999) = .next t ∧
    t.saf.reports.map (·.source) = [0x0A] := by
  obtain ⟨-, -, hcantle, -⟩ := faultsAndReactions
  obtain ⟨hkick, -⟩ := hcantle .cantle (watchdogRuns 499999)
  obtain ⟨t, ht, hreports, -⟩ := (((hkick rfl).2 (by decide +kernel) (by decide +kernel)).2
    (fun hgood => absurd (hgood.1 0 rfl).1 (by decide +kernel)))
  exact ⟨t, ht, hreports ▸ by decide +kernel⟩

theorem witness_kick_taken : ∃ t, exec (.kick .cantle) (watchdogRuns 500000) = .next t ∧ t.saf.kick = some 500000 ∧
    t.saf.reports = [] := by
  obtain ⟨-, -, hcantle, -⟩ := faultsAndReactions
  obtain ⟨hkick, -⟩ := hcantle .cantle (watchdogRuns 500000)
  obtain ⟨hgood, -⟩ := (hkick rfl).2 (by decide +kernel) (by decide +kernel)
  refine ⟨_, hgood ⟨fun k hk => ?_, fun hnone => absurd hnone (by decide +kernel)⟩, by decide +kernel, by decide +kernel⟩
  rw [show (watchdogRuns 500000).saf.kick = some 0 from rfl, Option.some.injEq] at hk
  exact hk ▸ by decide +kernel

theorem witness_window_passed : ∃ t, exec .watchdogWindowExpiry (watchdogRuns 1000000) = .next t ∧
    t.saf.reports.map (·.source) = [0x0A] ∧ t.saf.kick = none := by
  obtain ⟨-, -, -, -, hpassed⟩ := faultsAndReactions
  obtain ⟨-, hfault⟩ := (hpassed (watchdogRuns 1000000) (by decide +kernel)).1 0 rfl
  exact ⟨_, hfault (by decide +kernel), by decide +kernel, by decide +kernel⟩

theorem witness_fault_n_released : ∃ t, exec (.statusWrite .cantle 2) State.reset = .next t ∧
    t.flag SAF_CTL.FAULT_N_LOW = false := by
  obtain ⟨-, -, hcantle, -⟩ := faultsAndReactions
  obtain ⟨-, hstatus, -⟩ := hcantle .cantle State.reset
  obtain ⟨-, -, hreleased, -⟩ := hstatus rfl (by decide +kernel)
  obtain ⟨t, ht, -, hhigh, -⟩ := hreleased (by decide +kernel)
  exact ⟨t, ht, hhigh⟩

end Sys2Proof.Machine
end

section
/-! Golden frames: their slots, skips, forced kills, deadlines and comparisons (10 R274, R275). -/

namespace Sys2Proof.Machine

/-! ### Where goldens run (10 R274) -/

theorem State.goldensRun_outsideDrive {s : State} (h : s.cur ≠ mDrive) : s.goldensRun = false := by
  simp only [State.goldensRun, beq_eq_false_iff_ne.2 h, Bool.false_and]

theorem State.slotOpen_notRun {s : State} {f : Fin 17} (h : s.goldensRun = false) : s.slotOpen f = false := by
  simp only [State.slotOpen, h, Bool.false_and]

/-! ### GOLDEN_SLOT_OPEN (10 R274) -/

/-- A descriptor can be fetched from a ring of the Cantle. -/
def State.cantleFetches (s : State) (ring : Fin 2) : Bool :=
  s.flag SQ_CFG.ENABLE cantleSet ring && s.ringHolds cantleSet ring != 0 && s.cqRoom cantleSet &&
    (s.ringRt cantleSet ring).fence.isNone

theorem State.cantleFetches_iff {s : State} {ring : Fin 2} : s.cantleFetches ring = true ↔
    s.flag SQ_CFG.ENABLE cantleSet ring = true ∧ s.ringHolds cantleSet ring ≠ 0 ∧ s.cqRoom cantleSet = true ∧
      (s.ringRt cantleSet ring).fence = none := by
  simp only [State.cantleFetches, Bool.and_eq_true, bne_iff_ne, Option.isNone_iff_eq_none, and_assoc]

section
variable {field : Fin 17} {ring : Fin 2} {s : State}

theorem exec_goldenSlotOpen_idle (h : s.slotOpen field = false ∨ s.cantleFetches ring = false) :
    exec (.goldenSlotOpen field ring) s = .next s := by
  refine if_pos ?_
  rcases h with h | h
  · rw [h]; rfl
  · exact Bool.or_eq_true_iff.2 (.inr (congrArg Bool.not h))

variable (hopen : s.slotOpen field = true) (hready : s.cantleFetches ring = true)
include hopen hready

theorem exec_goldenSlotOpen_golden {q : Res × Cmd} {j : Nat} (hj : s.curInstant = some j)
    (hq : (s.fetch cantleSet ring).queue.find? (goldenCmd field s.fetched) = some q) :
    exec (.goldenSlotOpen field ring) s = .next ((s.fetch cantleSet ring).admitGolden field q.2 j) := by
  unfold State.cantleFetches at hready
  show execGoldenSlotOpen field ring s = _
  simp only [execGoldenSlotOpen, hopen, hready, hq, hj]
  rfl

theorem exec_goldenSlotOpen_other (hq : (s.fetch cantleSet ring).queue.find? (goldenCmd field s.fetched) = none) :
    exec (.goldenSlotOpen field ring) s = .next (s.fetch cantleSet ring) := by
  unfold State.cantleFetches at hready
  show execGoldenSlotOpen field ring s = _
  simp only [execGoldenSlotOpen, hopen, hready, hq]
  rfl

end

/-! ### GOLDEN_FORCED_KILL (10 R275) -/

/-- The golden of the field's due instant can be deferred no longer, has not begun and has no more time than it takes. -/
def State.killDue (s : State) (f : Fin 17) : Bool :=
  s.goldensRun && s.flag SAF_GOLD.ENABLE f && decide (s.rd SAF_GOLD.SKIPS f ≥ 2) && s.curInstant == some (s.dueInstant f) &&
    (s.goldenRun f).isNone && !s.saf.forced.contains f.val && decide (s.tK (s.dueInstant f + 1) ≤ s.sensorNs + s.goldenNs f)

theorem State.killDue_iff {s : State} {f : Fin 17} : s.killDue f = true ↔
    s.goldensRun = true ∧ s.flag SAF_GOLD.ENABLE f = true ∧ 2 ≤ s.rd SAF_GOLD.SKIPS f ∧
      s.curInstant = some (s.dueInstant f) ∧ s.goldenRun f = none ∧ s.saf.forced.contains f.val = false ∧
      s.tK (s.dueInstant f + 1) ≤ s.sensorNs + s.goldenNs f := by
  simp only [State.killDue, Bool.and_eq_true, decide_eq_true_eq, ge_iff_le, beq_iff_eq, Option.isNone_iff_eq_none,
    Bool.not_eq_true', and_assoc]

/-- The field runs, is idle or drains. -/
def State.takesGolden (s : State) (f : Fin 17) : Bool :=
  s.fState f == stRunning || s.fState f == stIdle || s.fState f == stDraining

theorem State.takesGolden_iff {s : State} {f : Fin 17} :
    s.takesGolden f = true ↔ s.fState f = stRunning ∨ s.fState f = stIdle ∨ s.fState f = stDraining := by
  simp only [State.takesGolden, Bool.or_eq_true, beq_iff_eq, or_assoc]

/-- The field's next place kept for its golden. -/
def State.keepPlace (s : State) (f : Fin 17) : State := { s with saf := { s.saf with forced := s.saf.forced ++ [f.val] } }

theorem exec_goldenForcedKill (f : Fin 17) (s : State) : exec (.goldenForcedKill f) s =
    if s.killDue f && s.takesGolden f then
      .next ((if s.fState f = stRunning ∧ !(s.frt f).faultDrain then s.killField f else s).keepPlace f)
    else .next s := rfl

section
variable {f : Fin 17} {s : State}

theorem exec_goldenForcedKill_notDue (h : ¬(s.killDue f = true)) : exec (.goldenForcedKill f) s = .next s :=
  (exec_goldenForcedKill f s).trans (if_neg (fun hboth => h (Bool.and_eq_true_iff.1 hboth).1))

theorem exec_goldenForcedKill_notTaken (h : ¬(s.takesGolden f = true)) : exec (.goldenForcedKill f) s = .next s :=
  (exec_goldenForcedKill f s).trans (if_neg (fun hboth => h (Bool.and_eq_true_iff.1 hboth).2))

variable (hdue : s.killDue f = true)
include hdue

theorem exec_goldenForcedKill_kills (hrun : s.fState f = stRunning) (hdrain : (s.frt f).faultDrain = false) :
    exec (.goldenForcedKill f) s = .next ((s.killField f).keepPlace f) := by
  rw [exec_goldenForcedKill, hdue, State.takesGolden_iff.2 (.inl hrun), if_pos (c := _ ∧ _) ⟨hrun, by rw [hdrain]; rfl⟩]
  rfl

theorem exec_goldenForcedKill_waits (h : (s.fState f = stRunning ∧ (s.frt f).faultDrain = true) ∨ s.fState f = stIdle ∨
    s.fState f = stDraining) : exec (.goldenForcedKill f) s = .next (s.keepPlace f) := by
  have htakes : s.takesGolden f = true := State.takesGolden_iff.2 (h.imp_left And.left)
  have hkill : ¬(s.fState f = stRunning ∧ (!(s.frt f).faultDrain) = true) := by
    rintro ⟨hrun, hdrain⟩
    rcases h with ⟨-, h⟩ | h | h
    · rw [h] at hdrain
      exact Bool.false_ne_true hdrain
    · exact absurd (hrun.symm.trans h) (by decide)
    · exact absurd (hrun.symm.trans h) (by decide)
  rw [exec_goldenForcedKill, hdue, htakes, if_neg hkill]
  rfl

end

/-! ### GOLDEN_SKIP (10 R275) -/

/-- The golden of the field's due instant skipped. -/
def State.goldenSkipped (s : State) (f : Fin 17) : State :=
  let t := (s.inc SAF_GOLD.SKIPPED f).wr SAF_GOLD.SKIPS (min (s.rd SAF_GOLD.SKIPS f + 1) 2) f
  { t with saf := { t.saf with settled := Sparse.put 0 t.saf.settled f (s.dueInstant f + 1) } }

theorem State.goldenSkipped_facts (s : State) (f : Fin 17) :
    (s.goldenSkipped f).saf.settled = Sparse.put 0 s.saf.settled f (s.dueInstant f + 1) ∧
      (s.goldenSkipped f).rd SAF_GOLD.SKIPS f = min (s.rd SAF_GOLD.SKIPS f + 1) 2 ∧
      (s.goldenSkipped f).flds = s.flds ∧ (s.goldenSkipped f).mem = s.mem := by
  refine ⟨rfl, (State.rd_wr_same (s.inc SAF_GOLD.SKIPPED f) SAF_GOLD.SKIPS _ f 0).trans (Nat.mod_eq_of_lt ?_), rfl, rfl⟩
  exact Nat.lt_of_le_of_lt (Nat.min_le_right _ _) (by decide)

section
variable {f : Fin 17} {s : State}

theorem exec_goldenSkip_noInstant (h : s.curInstant = none) : exec (.goldenSkip f) s = .next s := by
  show execGoldenSkip f s = _
  simp only [execGoldenSkip, h, Bool.and_false, Bool.false_and]
  rfl

theorem exec_goldenSkip {j : Nat} (h : s.curInstant = some j) : exec (.goldenSkip f) s =
    if s.goldensRun && s.flag SAF_GOLD.ENABLE f && decide (s.dueInstant f + 2 < j) && !s.saf.forced.contains f.val then
      .next (s.goldenSkipped f)
    else .next s := by
  show execGoldenSkip f s = _
  simp only [execGoldenSkip, h]
  rfl

theorem exec_goldenSkip_idle (h : s.goldensRun = false ∨ s.flag SAF_GOLD.ENABLE f = false ∨ s.saf.forced.contains f.val = true ∨
    s.curInstant = none) : exec (.goldenSkip f) s = .next s := by
  cases hj : s.curInstant with
  | none => exact exec_goldenSkip_noInstant hj
  | some j =>
    rw [exec_goldenSkip hj]
    refine if_neg (fun hall => ?_)
    simp only [Bool.and_eq_true, Bool.not_eq_true'] at hall
    obtain ⟨⟨⟨hrun, hen⟩, -⟩, hfree⟩ := hall
    rcases h with h | h | h | h
    · exact Bool.false_ne_true (h.symm.trans hrun)
    · exact Bool.false_ne_true (h.symm.trans hen)
    · exact Bool.false_ne_true (hfree.symm.trans h)
    · exact Option.some_ne_none j (hj.symm.trans h)

end

/-! ### GOLDEN_DEADLINE and GOLDEN_COMPARE_DONE (10 R274, R275) -/

/-- The goldens of a field marked as failed. -/
def State.markFailed (s : State) (f : Nat) : State :=
  { s with saf := { s.saf with
      goldens := s.saf.goldens.map (fun (x : GoldenRun) => if x.field = f then { x with failed := true } else x) } }

/-- A completed golden of a field counted and taken from the list of runs. -/
def State.goldenCounted (s : State) (f : Nat) : State := ((s.dropGolden f).inc SAF_GOLD.RUNS f).wr SAF_GOLD.SKIPS 0 f

/-- A field no longer waits for a golden. -/
def State.goldenResolved (s : State) (f : Nat) : State :=
  { s with saf := { s.saf with
      unresolved := s.saf.unresolved.filter (· != f), needGolden := s.saf.needGolden.filter (· != f) } }

theorem exec_golden_noRun {f : Fin 17} {s : State} (h : s.goldenRun f = none) :
    exec (.goldenDeadline f) s = .next s ∧ exec (.goldenCompareDone f) s = .next s := by
  constructor
  · show execGoldenDeadline f s = _
    simp only [execGoldenDeadline, h]
  · show execGoldenCompareDone f s = _
    simp only [execGoldenCompareDone, h]

section
variable {f : Fin 17} {s : State} {g : GoldenRun} (h : s.goldenRun f = some g)
include h

theorem exec_goldenDeadline : exec (.goldenDeadline f) s =
    if g.status.isNone && !g.failed && decide (s.tK (g.instant + 1) ≤ s.sensorNs) then .next ((s.markFailed g.field).goldenFail f)
    else .next s := by
  show execGoldenDeadline f s = _
  simp only [execGoldenDeadline, h]
  rfl

theorem exec_goldenDeadline_over (hover : g.failed = true ∨ g.status.isSome = true) : exec (.goldenDeadline f) s = .next s := by
  refine (exec_goldenDeadline h).trans (if_neg (fun hall => ?_))
  simp only [Bool.and_eq_true, Bool.not_eq_true'] at hall
  obtain ⟨⟨hnone, hfresh⟩, -⟩ := hall
  rcases hover with hfailed | hsome
  · exact Bool.false_ne_true (hfresh.symm.trans hfailed)
  · rw [Option.isNone_iff_eq_none.1 hnone] at hsome
    exact Bool.false_ne_true hsome

theorem exec_goldenCompareDone_running (hst : g.status = none) : exec (.goldenCompareDone f) s =
    if s.flight.any (fun j => j.cmd.serial == g.serial) || !g.failed then .next s else .next (s.dropGolden f) := by
  show execGoldenCompareDone f s = _
  simp only [execGoldenCompareDone, h, hst]

variable {st : Nat} (hst : g.status = some st)
include hst

theorem exec_goldenCompareDone_failed (hfailed : g.failed = true) :
    exec (.goldenCompareDone f) s = .next (s.goldenCounted f) := by
  show execGoldenCompareDone f s = _
  simp only [execGoldenCompareDone, h, hst, hfailed]
  rfl

theorem exec_goldenCompareDone_judged (hfresh : g.failed = false) : exec (.goldenCompareDone f) s =
    if st = 0 ∧ s.goldenPass g = true then .next ((s.goldenCounted f).goldenResolved f).endStarting
    else .next ((s.goldenCounted f).goldenFail f) := by
  show execGoldenCompareDone f s = _
  simp only [execGoldenCompareDone, h, hst, hfresh]
  rfl

end

/-- Settles O45: each row asks first whether goldens run, then for the slot and the ring, for the conditions of the forced kill
or the skip, or for the run of the field and how far it has come. That a field that is IDLE or drains only keeps its next place
for the golden is log entry 136, that the descriptor is fetched as the slot opens log entry 71. -/
theorem goldenFrames : Obligations.GoldenFrames := by
  unfold Obligations.GoldenFrames
  refine ⟨fun f ring s hmode => ?elsewhere, fun f ring s => ⟨fun hclosed => exec_goldenSlotOpen_idle (.inl hclosed),
      fun hopen hen hholds hroom hfence q j hj hq => ?admitted, fun hopen hen hholds hroom hfence hq => ?fetched,
      fun hbarred => ?barred⟩,
    fun f s => ⟨fun hnot => ?notDue, fun hrun hen hfree hskips hnow hnone htime => ?due, exec_goldenSkip_idle,
      fun j hj => ⟨fun hle => ?early, fun hrun hen hfree hlate => ?skipped⟩⟩,
    fun f s => ⟨exec_golden_noRun, fun g hg => ⟨fun hfailed => exec_goldenDeadline_over hg (.inl hfailed),
      fun hst => ⟨fun hkept => ?kept, fun hfailed hgone => ?dropped⟩,
      fun hst hfresh => ⟨fun hlt => ?inTime, fun hle => ?late⟩, fun st hst => ?completed⟩⟩⟩
  case elsewhere =>
    have hoff := State.goldensRun_outsideDrive hmode
    exact ⟨exec_goldenSlotOpen_idle (.inl (State.slotOpen_notRun hoff)),
      exec_goldenForcedKill_notDue (fun h => Bool.false_ne_true (hoff.symm.trans (State.killDue_iff.1 h).1)),
      exec_goldenSkip_idle (.inl hoff)⟩
  case admitted => exact exec_goldenSlotOpen_golden hopen (State.cantleFetches_iff.2 ⟨hen, hholds, hroom, hfence⟩) hj hq
  case fetched => exact exec_goldenSlotOpen_other hopen (State.cantleFetches_iff.2 ⟨hen, hholds, hroom, hfence⟩) hq
  case barred =>
    refine exec_goldenSlotOpen_idle (.inr (Bool.eq_false_iff.2 (fun hready => ?_)))
    obtain ⟨hen, hholds, hroom, hfence⟩ := State.cantleFetches_iff.1 hready
    rcases hbarred with h | h | h | h
    · exact Bool.false_ne_true (h.symm.trans hen)
    · exact hholds h
    · exact Bool.false_ne_true (h.symm.trans hroom)
    · exact h hfence
  case notDue =>
    refine exec_goldenForcedKill_notDue (fun hdue => ?_)
    obtain ⟨hrun, hen, hskips, hnow, hnone, hfree, htime⟩ := State.killDue_iff.1 hdue
    rcases hnot with h | h | h | h | h | h | h
    · exact Bool.false_ne_true (h.symm.trans hrun)
    · exact Bool.false_ne_true (h.symm.trans hen)
    · exact Bool.false_ne_true (hfree.symm.trans h)
    · exact Nat.not_le.2 h hskips
    · exact h hnow
    · exact h hnone
    · exact Nat.not_le.2 h htime
  case due =>
    have hdue : s.killDue f = true := State.killDue_iff.2 ⟨hrun, hen, hskips, hnow, hnone, hfree, htime⟩
    refine ⟨exec_goldenForcedKill_kills hdue, exec_goldenForcedKill_waits hdue, fun hr hi hd => ?_⟩
    refine exec_goldenForcedKill_notTaken (fun htakes => ?_)
    rcases State.takesGolden_iff.1 htakes with h | h | h
    · exact hr h
    · exact hi h
    · exact hd h
  case early =>
    rw [exec_goldenSkip hj, decide_eq_false (Nat.not_lt.2 hle), Bool.and_false]
    rfl
  case skipped =>
    refine ⟨_, ?_, State.goldenSkipped_facts s f⟩
    rw [exec_goldenSkip hj, hrun, hen, hfree, decide_eq_true hlate]
    rfl
  case kept =>
    rw [exec_goldenCompareDone_running hg hst]
    refine if_pos (Bool.or_eq_true_iff.2 ?_)
    exact hkept.symm.imp_right (congrArg Bool.not)
  case dropped =>
    rw [exec_goldenCompareDone_running hg hst, hgone, hfailed]
    rfl
  case inTime =>
    rw [exec_goldenDeadline hg, decide_eq_false (Nat.not_le.2 hlt), Bool.and_false]
    rfl
  case late =>
    rw [exec_goldenDeadline hg, hst, hfresh, decide_eq_true hle]
    rfl
  case completed =>
    refine ⟨exec_goldenDeadline_over hg (.inr (hst ▸ rfl)), exec_goldenCompareDone_failed hg hst,
      fun hfresh hdone hpass => (exec_goldenCompareDone_judged hg hst hfresh).trans (if_pos ⟨hdone, hpass⟩),
      fun hfresh hbad => (exec_goldenCompareDone_judged hg hst hfresh).trans (if_neg ?_)⟩
    rintro ⟨hdone, hpass⟩
    rcases hbad with h | h
    · exact h hdone
    · exact Bool.false_ne_true (h.symm.trans hpass)

/-! ### Premises met -/

/-- An image with one golden, whose references are empty. -/
def goldenImage : FieldImage :=
  ⟨0, 0, 0, 0, 0, 128, 0, false, [], 0, 0, 0, false, [], [], [⟨0, 0, 0, 0, 0, 0, 0⟩], [], [], []⟩

/-- In DRIVE, with the Cantle released and RUN 1 at a fusion time, field 3 is in a state, its golden armed with BUDGET_US
40,000; ring 0 of the Cantle holds one FRAME of that field, from the first host address. -/
def goldenDrive (st skips now : Nat) (saf : SafSt) : State :=
  let regs : List (Fld × Nat × Nat) := [(SYS_MODE.CURRENT, mDrive, 0), (FUS_CTL.RUN, 1, 0), (PLAIN_FLD_STATE.STATE, st, 3),
    (PLAIN_FLD_CFG.CLASS, 1, 3), (SAF_GOLD.ENABLE, 1, 3), (SAF_GOLD.SKIPS, skips, 3), (SAF_GOLD.BUDGET_US, 40000, 3),
    (CQ_CFG.ENABLE, 1, cantleSet), (CQ_CFG.SIZE_LOG2, 6, cantleSet)]
  let s := regs.foldl (fun (s : State) x => s.wr x.1 x.2.1 x.2.2) State.reset
  let s := ((s.wr SQ_CFG.ENABLE 1 cantleSet 0).wr SQ_CFG.SIZE_LOG2 6 cantleSet 0).wr SQ_CFG.LOC 1 cantleSet 0
  ({ s.wr DB_SQ_TAIL.TAIL 1 cantleSet 0 with
      hostMem := Sparse.putBytes 0 [] 0 (leBytes 0x30 0x31 ++ leBytes 16 3)
      saf := { saf with held := false }
      time := { s.time with acc := [(1, now * nsUnit)] } } : State).setF 3 { FldRt.rest with image := some goldenImage }

/-- A field that needs a golden takes the one that the Cantle has written. -/
theorem witness_golden_admitted : ∃ u c, exec (.goldenSlotOpen 3 0) (goldenDrive stIdle 0 0 { SafSt.cold with needGolden := [3] }) =
    .next (State.admitGolden u 3 c 0) := by
  obtain ⟨-, hslot, -⟩ := goldenFrames
  obtain ⟨-, hadmit, -⟩ := hslot 3 0 (goldenDrive stIdle 0 0 { SafSt.cold with needGolden := [3] })
  obtain ⟨q, hq⟩ := Option.isSome_iff_exists.1 (show (((goldenDrive stIdle 0 0 { SafSt.cold with needGolden := [3] }).fetch
    cantleSet (0 : Fin 2)).queue.find? (goldenCmd 3 State.reset.fetched)).isSome = true by decide +kernel)
  exact ⟨_, _, hadmit (by decide +kernel) (by decide +kernel) (by decide +kernel) (by decide +kernel) (by decide +kernel) q 0
    (by decide +kernel) hq⟩

/-- The golden of instant 0 has been skipped twice, and 40 ms are more than the instant has left. -/
theorem witness_golden_kill : ∃ t, exec (.goldenForcedKill 3) (goldenDrive stRunning 2 0 SafSt.cold) = .next t ∧
    t.fState 3 = stDraining ∧ t.saf.forced = [3] := by
  obtain ⟨-, -, hrows, -⟩ := goldenFrames
  obtain ⟨-, hkill, -⟩ := hrows 3 (goldenDrive stRunning 2 0 SafSt.cold)
  obtain ⟨hrunning, -⟩ := hkill (by decide +kernel) (by decide +kernel) (by decide +kernel) (by decide +kernel)
    (by decide +kernel) (by decide +kernel) (by decide +kernel)
  exact ⟨_, hrunning (by decide +kernel) (by decide +kernel), by decide +kernel, by decide +kernel⟩

/-- Instant 3 is on, three after the one that was due. -/
theorem witness_golden_skip : ∃ t, exec (.goldenSkip 3) (goldenDrive stIdle 1 110000000 SafSt.cold) = .next t ∧
    t.rd SAF_GOLD.SKIPS (3 : Fin 17) = 2 ∧ t.saf.settled = [(3, 1)] := by
  obtain ⟨-, -, hrows, -⟩ := goldenFrames
  obtain ⟨-, -, -, hskip⟩ := hrows 3 (goldenDrive stIdle 1 110000000 SafSt.cold)
  obtain ⟨t, ht, hsettled, hskips, -⟩ := (hskip 3 (by decide +kernel)).2 (by decide +kernel) (by decide +kernel)
    (by decide +kernel) (by decide +kernel)
  exact ⟨t, ht, hskips.trans (by decide +kernel), hsettled.trans (by decide +kernel)⟩

/-- A golden of field 3, admitted in instant 0. -/
def goldenOf3 (status : Option Nat) : GoldenRun := ⟨3, 0, 0, 9, status, 0, false⟩

theorem witness_golden_late : ∃ t,
    exec (.goldenDeadline 3) (goldenDrive stRunning 0 40000000 { SafSt.cold with goldens := [goldenOf3 none] }) = .next t ∧
      t.rd SAF_GOLD.FAILS (3 : Fin 17) = 1 ∧ t.saf.goldens.map (·.failed) = [true] := by
  obtain ⟨-, -, -, hrows⟩ := goldenFrames
  obtain ⟨-, hrun⟩ := hrows 3 (goldenDrive stRunning 0 40000000 { SafSt.cold with goldens := [goldenOf3 none] })
  obtain ⟨-, -, hdeadline, -⟩ := hrun (goldenOf3 none) (by decide +kernel)
  exact ⟨_, (hdeadline rfl rfl).2 (by decide +kernel), by decide +kernel, by decide +kernel⟩

theorem witness_golden_passed : ∃ t, exec (.goldenCompareDone 3)
    (goldenDrive stIdle 0 0 { SafSt.cold with goldens := [goldenOf3 (some 0)], needGolden := [3] }) = .next t ∧
      t.rd SAF_GOLD.RUNS (3 : Fin 17) = 1 ∧ t.saf.needGolden = [] ∧ t.saf.goldens = [] := by
  obtain ⟨-, -, -, hrows⟩ := goldenFrames
  obtain ⟨-, hrun⟩ := hrows 3 (goldenDrive stIdle 0 0 { SafSt.cold with goldens := [goldenOf3 (some 0)], needGolden := [3] })
  obtain ⟨-, -, -, hjudged⟩ := hrun (goldenOf3 (some 0)) (by decide +kernel)
  obtain ⟨-, -, hpassed, -⟩ := hjudged 0 rfl
  exact ⟨_, hpassed rfl rfl (by decide +kernel), by decide +kernel, by decide +kernel, by decide +kernel⟩

end Sys2Proof.Machine
end

section
/-! Status frames, deadlines, the sleep permission and the fall-back list (10 R259, R263, R266–R270). -/

namespace Sys2Proof.Machine

/-! ### A status frame sent (10 R263, R267, R269) -/

/-- A frame sent on a CAN controller, as far as it can transmit. -/
def State.canSend (s : State) (c id : Nat) (fr : Bytes) : State :=
  if s.canOn c then s.emit (.can c (id % 2 ^ 29) (id.testBit 29) fr) else s

theorem State.canSend_frame (s : State) (c id : Nat) (fr : Bytes) :
    (s.canSend c id fr).regs = s.regs ∧ (s.canSend c id fr).saf = s.saf := by
  unfold State.canSend
  split <;> exact ⟨rfl, rfl⟩

/-- A frame counted: its E2E counter and its moment. -/
def State.frameCounted (s : State) : State :=
  { s with saf := { s.saf with counter := (s.saf.counter + 1) % 16, lastFrame := s.localNs, frameBy := none } }

theorem State.sendStatus_parkBoot {s : State} (status : Nat) (h : s.parkBoot = true) : s.sendStatus status = s := if_pos h

theorem State.sendStatus_sent {s : State} (status : Nat) (h : s.parkBoot = false) : s.sendStatus status =
    ((s.canSend 14 (Bytes.num s.fw.record 0xD8 4) (s.statusFrame status)).canSend 15 (Bytes.num s.fw.record 0xD8 4)
      (s.statusFrame status)).frameCounted := by
  unfold State.sendStatus
  rw [h]
  rfl

/-- A frame sent leaves the registers and when the next is due; its counter moves on but in the boot in PARK. -/
theorem State.sendStatus_facts (s : State) (status : Nat) :
    (s.sendStatus status).regs = s.regs ∧ (s.sendStatus status).saf.nextFrame = s.saf.nextFrame ∧
      (s.sendStatus status).saf.repeats = s.saf.repeats ∧
      (s.sendStatus status).saf.counter = if s.parkBoot then s.saf.counter else (s.saf.counter + 1) % 16 := by
  cases h : s.parkBoot with
  | true =>
    rw [State.sendStatus_parkBoot status h]
    exact ⟨rfl, rfl, rfl, rfl⟩
  | false =>
    rw [State.sendStatus_sent status h]
    generalize Bytes.num s.fw.record 0xD8 4 = id
    generalize s.statusFrame status = fr
    obtain ⟨hregs, hsaf⟩ := (s.canSend 14 id fr).canSend_frame 15 id fr
    obtain ⟨hregs', hsaf'⟩ := s.canSend_frame 14 id fr
    refine ⟨hregs.trans hregs', ?_, ?_, ?_⟩
    · exact (congrArg SafSt.nextFrame (hsaf.trans hsaf') :)
    · exact (congrArg SafSt.repeats (hsaf.trans hsaf') :)
    · exact congrArg (fun x : SafSt => (x.counter + 1) % 16) (hsaf.trans hsaf')

/-- A periodic frame is due: by vehicle time, or by local time after a step of the vehicle base. -/
def State.frameDue (s : State) : Bool :=
  decide (s.saf.nextFrame ≤ s.vehicleNs) || (s.saf.frameBy).any (fun b => decide (b ≤ s.localNs))

theorem State.frameDue_iff {s : State} :
    s.frameDue = true ↔ s.saf.nextFrame ≤ s.vehicleNs ∨ ∃ b, s.saf.frameBy = some b ∧ b ≤ s.localNs := by
  rw [State.frameDue, Bool.or_eq_true, decide_eq_true_iff, timer_due_iff]

/-! ### SAFE_STATE_FRAME (10 R263) -/

/-- The sequencer's frame sent, and the next in 10 ms. -/
def State.safeFrameSent (s : State) : State :=
  { s.sendStatus 6 with saf := { (s.sendStatus 6).saf with nextFrame := s.vehicleNs + 10000000 } }

theorem exec_safeStateFrame (s : State) : exec .safeStateFrame s =
    if s.flag SAF_CTL.SAFE_STATE && s.frameDue then .next s.safeFrameSent else .next s := rfl

/-! ### STATUS_FRAME (10 R267, R269) -/

/-- STARTING is all that endStarting may change. -/
theorem State.endStarting_eq (s : State) : ∃ b, s.endStarting = { s with saf := { s.saf with starting := b } } := by
  unfold State.endStarting
  split
  · exact ⟨false, rfl⟩
  · exact ⟨s.saf.starting, rfl⟩

/-- What the next frame shows. -/
def State.frameView (s : State) : FrameView := ⟨s.statusCode, s.statusFlags⟩

/-- A change is to be sent in a new 1 ms cycle, for the first time or again. -/
def State.frameChanged (s : State) : Bool :=
  decide (s.saf.cycle < s.vehicleNs / 1000000) && (decide (s.saf.view ≠ some s.frameView) || s.saf.repeats != 0)

theorem State.frameChanged_iff {s : State} : s.frameChanged = true ↔
    s.saf.cycle < s.vehicleNs / 1000000 ∧ (s.saf.view ≠ some s.frameView ∨ s.saf.repeats ≠ 0) := by
  rw [State.frameChanged, Bool.and_eq_true, Bool.or_eq_true, decide_eq_true_iff, decide_eq_true_iff, bne_iff_ne]

/-- The Cantle sends no frame: in PARK, in the safe state, or held. -/
def State.frameBarred (s : State) : Bool := !s.awake || s.flag SAF_CTL.SAFE_STATE || s.saf.held

theorem State.frameBarred_iff {s : State} :
    s.frameBarred = true ↔ s.awake = false ∨ s.flag SAF_CTL.SAFE_STATE = true ∨ s.saf.held = true := by
  rw [State.frameBarred, Bool.or_eq_true, Bool.or_eq_true, Bool.not_eq_true', or_assoc]

/-- The Cantle's frame sent. -/
def State.frameSent (s : State) : State :=
  let u := s.sendStatus s.frameView.status
  { u with saf := { u.saf with
    view := some s.frameView, cycle := s.vehicleNs / 1000000,
    repeats := if decide (s.saf.view ≠ some s.frameView) then 4 else u.saf.repeats - 1,
    nextFrame := if s.frameDue then (s.vehicleNs / 10000000 + 1) * 10000000 else u.saf.nextFrame } }

theorem State.frameSent_facts (s : State) : s.frameSent.saf.view = some s.frameView ∧ s.frameSent.regs = s.regs ∧
    s.frameSent.saf.nextFrame = (if s.frameDue then (s.vehicleNs / 10000000 + 1) * 10000000 else s.saf.nextFrame) ∧
    s.frameSent.saf.repeats = (if s.saf.view ≠ some s.frameView then 4 else s.saf.repeats - 1) ∧
    s.frameSent.saf.counter = if s.parkBoot then s.saf.counter else (s.saf.counter + 1) % 16 := by
  obtain ⟨hregs, hnext, hrepeats, hcounter⟩ := s.sendStatus_facts s.frameView.status
  refine ⟨rfl, hregs, ?_, ?_, hcounter⟩
  · rw [← hnext]
    rfl
  · rw [← hrepeats]
    simp only [State.frameSent, decide_eq_true_eq]

theorem exec_statusFrame (s : State) : exec .statusFrame s =
    if s.endStarting.frameBarred then .next s.endStarting
    else if s.endStarting.frameDue || s.endStarting.frameChanged then .next s.endStarting.frameSent
    else .next s.endStarting := rfl

theorem State.localNs_congr {s t : State} (h : s.time = t.time) : s.localNs = t.localNs := State.ns_congr h 3

/-- The conditions of STATUS_FRAME do not depend on STARTING, but for what the frame shows. -/
theorem State.frame_endStarting (s : State) : s.endStarting.frameBarred = s.frameBarred ∧ s.endStarting.frameDue = s.frameDue ∧
    s.endStarting.vehicleNs = s.vehicleNs ∧ s.endStarting.regs = s.regs ∧ s.endStarting.parkBoot = s.parkBoot ∧
    s.endStarting.saf.cycle = s.saf.cycle ∧ s.endStarting.saf.view = s.saf.view ∧
    s.endStarting.saf.repeats = s.saf.repeats ∧ s.endStarting.saf.nextFrame = s.saf.nextFrame ∧
    s.endStarting.saf.counter = s.saf.counter := by
  obtain ⟨b, h⟩ := s.endStarting_eq
  rw [h]
  have hvehicle : State.vehicleNs { s with saf := { s.saf with starting := b } } = s.vehicleNs := State.vehicleNs_congr rfl
  have hlocal : State.localNs { s with saf := { s.saf with starting := b } } = s.localNs := State.localNs_congr rfl
  refine ⟨rfl, ?_, hvehicle, rfl, rfl, rfl, rfl, rfl, rfl, rfl⟩
  rw [State.frameDue, State.frameDue, hvehicle, hlocal]

/-! ### Deadline checks (10 R266, R268) -/

/-- The primary field holds a loaded image. -/
def State.primaryLoaded (s : State) : Bool :=
  let p := s.rd FUS_CFG.PRIMARY
  decide (p < 17) && (s.frt p).image.isSome && s.fState p != stFree && s.fState p != stLoading && s.fState p != stClearing

theorem State.primaryLoaded_iff {s : State} : s.primaryLoaded = true ↔
    s.rd FUS_CFG.PRIMARY < 17 ∧ (s.frt (s.rd FUS_CFG.PRIMARY)).image.isSome = true ∧
      s.fState (s.rd FUS_CFG.PRIMARY) ≠ stFree ∧ s.fState (s.rd FUS_CFG.PRIMARY) ≠ stLoading ∧
      s.fState (s.rd FUS_CFG.PRIMARY) ≠ stClearing := by
  simp only [State.primaryLoaded, Bool.and_eq_true, decide_eq_true_eq, bne_iff_ne, and_assoc]

/-- A FRAME of the instant to be tested, or of the one before it or a later one, has committed. -/
def State.primaryMet (s : State) : Bool :=
  !s.saf.primaryOld && (s.saf.primaryK).any (fun n => decide (s.saf.primaryNext ≤ n + 1))

theorem State.primaryMet_iff {s : State} :
    s.primaryMet = true ↔ s.saf.primaryOld = false ∧ ∃ n, s.saf.primaryK = some n ∧ s.saf.primaryNext ≤ n + 1 := by
  simp only [State.primaryMet, Bool.and_eq_true, Bool.not_eq_true', Option.any_eq_true, decide_eq_true_eq]

/-- The primary's check of an instant made. -/
def State.primaryChecked (s : State) : State := { s with saf := { s.saf with primaryNext := s.saf.primaryNext + 1 } }

/-- PERCEPTION_LATE set and reported. -/
def State.perceptionLate (s : State) : State :=
  ({ s with saf := { s.saf with late := true } } : State).report 0x32 (some (s.rd FUS_CFG.PRIMARY))

theorem exec_primaryDeadlineCheck (s : State) : exec .primaryDeadlineCheck s =
    if !s.flag FUS_CTL.RUN || decide (s.sensorNs < s.tK s.saf.primaryNext + s.deadlineNs) then .next s
    else if !s.primaryLoaded || s.primaryMet then .next s.primaryChecked else .next s.primaryChecked.perceptionLate := rfl

theorem exec_shadowDeadlineCheck (s : State) : exec .shadowDeadlineCheck s =
    if !s.flag FUS_CTL.RUN || decide (s.sensorNs < s.tK s.saf.shadowNext) then .next s
    else .next ({ s with saf := { s.saf with
      shadowNext := s.saf.shadowNext + 1
      shadowLive := !s.saf.shadowOld && (s.saf.shadowK).any (fun n => decide (s.saf.shadowNext ≤ n + 2)) } } : State).endStarting := rfl

/-! ### The sleep permission (10 R270) -/

theorem exec_sleepPermissionFrame (port : Fin 2) (id : Nat) (ext : Bool) (data : Bytes) (s : State) :
    exec (.sleepPermissionFrame port id ext data) s = .next (s.sleepFrame id ext data) := by
  show execSleepPermissionFrame port id ext data s = _
  unfold execSleepPermissionFrame
  split <;> rfl

/-- A frame that is not the sleep permission, or that comes while nobody takes it. -/
def State.sleepForeign (s : State) (id : Nat) (ext : Bool) (data : Bytes) : Bool :=
  let want := Bytes.num s.fw.record 0xDC 4
  s.saf.held || !s.awake || decide (id ≠ want % 2 ^ 29) || ext != want.testBit 29 || data.length != 8

section
variable {s : State} {id : Nat} {ext : Bool} {data : Bytes}

theorem State.sleepForeign_iff : s.sleepForeign id ext data = false ↔
    s.saf.held = false ∧ s.awake = true ∧ id = Bytes.num s.fw.record 0xDC 4 % 2 ^ 29 ∧
      ext = (Bytes.num s.fw.record 0xDC 4).testBit 29 ∧ data.length = 8 := by
  unfold State.sleepForeign
  generalize Bytes.num s.fw.record 0xDC 4 = want
  simp only [Bool.or_eq_false_iff, Bool.not_eq_false', decide_eq_false_iff_not, ne_eq, Decidable.not_not, bne_eq_false_iff_eq, and_assoc]

theorem State.sleepFrame_foreign (h : s.sleepForeign id ext data = true) : s.sleepFrame id ext data = s := if_pos h

variable (hours : s.sleepForeign id ext data = false)
include hours

theorem State.sleepFrame_ours : s.sleepFrame id ext data =
    if (data.getD 0 0).toNat ≠ e2eP22 (Bytes.sub s.fw.record 0xF4 16) data then s.inc SAF_FAULT_CNT.E2E_FAIL
    else if s.saf.sleepCtr = some ((data.getD 1 0).toNat % 16) ∨ (data.getD 2 0).toNat ≠ 0x5A then s
    else { s with saf := { s.saf with sleepCtr := some ((data.getD 1 0).toNat % 16), sleepAt := some s.vehicleNs } } :=
  if_neg (fun h => Bool.false_ne_true (hours.symm.trans h))

end

theorem exec_sleepPermissionExpiry_none {s : State} (h : s.saf.sleepAt = none) : exec .sleepPermissionExpiry s = .next s := by
  show execSleepPermissionExpiry s = _
  rw [execSleepPermissionExpiry, h]
  rfl

theorem exec_sleepPermissionExpiry_held {s : State} {t : Nat} (h : s.saf.sleepAt = some t) : exec .sleepPermissionExpiry s =
    if within t 1000000000 s.vehicleNs then .next s else .next { s with saf := { s.saf with sleepAt := none } } := by
  show execSleepPermissionExpiry s = _
  rw [execSleepPermissionExpiry, h, Option.any_some]
  cases within t 1000000000 s.vehicleNs <;> rfl

/-! ### The fall-back list (10 R259) -/

/-- The oldest list taken from the queue. -/
def State.fallbackTaken (s : State) (rest : List (Nat × Nat)) : State := { s with saf := { s.saf with fallback := rest } }

/-- The tracks of an object list. -/
def State.fallbackTracks (s : State) (addr : Nat) : List Bytes :=
  ((List.range 256).map (fun t => s.memRead (addr + 0x80 + t * 64) 64)).filter (fun t => t.getD 3 0 != 0)

/-- The datagrams that a list takes, one for each 16 tracks and never none. -/
def fallbackParts (tracks : List Bytes) : Nat := max 1 ((tracks.length + 15) / 16)

/-- One datagram sent, and the counter of the next. -/
def State.sendPart (k addr : Nat) (tracks : List Bytes) (s : State) (p : Nat) : State :=
  let t := s.sendFallback (s.fallbackPart k addr tracks.length p (fallbackParts tracks) tracks)
  { t with saf := { t.saf with p7Counter := (t.saf.p7Counter + 1) % 2 ^ 32 } }

theorem State.sendFallback_off {s : State} (payload : Bytes) (h : s.rd GW_PORT.STATE 9 ≠ 2) : s.sendFallback payload = s := if_neg h

theorem State.sendFallback_frame (s : State) (payload : Bytes) : (s.sendFallback payload).saf = s.saf ∧
    (s.sendFallback payload).regs = s.regs ∧ (s.sendFallback payload).mem = s.mem := by
  unfold State.sendFallback
  dsimp only
  split <;> exact ⟨rfl, rfl, rfl⟩

theorem State.length_out_sendFallback {s : State} (payload : Bytes) (h : s.rd GW_PORT.STATE 9 = 2) :
    (s.sendFallback payload).out.length = s.out.length + 1 := by
  simp only [State.sendFallback, if_pos h]
  rfl

section
variable (k addr : Nat) (tracks : List Bytes)

theorem State.sendPart_frame (s : State) (p : Nat) : (s.sendPart k addr tracks p).saf.fallback = s.saf.fallback ∧
    (s.sendPart k addr tracks p).regs = s.regs ∧ (s.sendPart k addr tracks p).mem = s.mem := by
  obtain ⟨hsaf, hregs, hmem⟩ := s.sendFallback_frame (s.fallbackPart k addr tracks.length p (fallbackParts tracks) tracks)
  exact ⟨(congrArg SafSt.fallback hsaf :), hregs, hmem⟩

theorem State.rd_sendPart (s : State) (p : Nat) (f : Fld) (i j : Nat) :
    (State.sendPart k addr tracks s p).rd f i j = s.rd f i j :=
  State.rd_congr _ _ (State.sendPart_frame k addr tracks s p).2.1 f i j

/-- The datagrams leave the queue of lists, the registers and the memory. -/
theorem State.sendParts_frame (l : List Nat) (s : State) :
    (l.foldl (State.sendPart k addr tracks) s).saf.fallback = s.saf.fallback ∧
      (l.foldl (State.sendPart k addr tracks) s).regs = s.regs ∧ (l.foldl (State.sendPart k addr tracks) s).mem = s.mem :=
  ⟨foldl_part (fun s : State => s.saf.fallback) (fun s p => (State.sendPart_frame k addr tracks s p).1) l s,
    foldl_part State.regs (fun s p => (State.sendPart_frame k addr tracks s p).2.1) l s,
    foldl_part State.mem (fun s p => (State.sendPart_frame k addr tracks s p).2.2) l s⟩

/-- Each datagram leaves the device where the Cantle's port is ON. -/
theorem State.length_out_sendParts (l : List Nat) {s : State} (h : s.rd GW_PORT.STATE 9 = 2) :
    (l.foldl (State.sendPart k addr tracks) s).out.length = s.out.length + l.length := by
  induction l generalizing s with
  | nil => rfl
  | cons p l ih =>
    have hpart : (State.sendPart k addr tracks s p).out.length = s.out.length + 1 := State.length_out_sendFallback _ h
    rw [List.foldl_cons, ih ((State.rd_sendPart k addr tracks s p _ _ _).trans h), hpart, List.length_cons]
    omega

theorem State.out_sendParts (l : List Nat) {s : State} (h : s.rd GW_PORT.STATE 9 ≠ 2) :
    (l.foldl (State.sendPart k addr tracks) s).out = s.out := by
  induction l generalizing s with
  | nil => rfl
  | cons p l ih =>
    have hpart : (State.sendPart k addr tracks s p).out = s.out := (congrArg State.out (State.sendFallback_off _ h) :)
    rw [List.foldl_cons, ih (fun h2 => h ((State.rd_sendPart k addr tracks s p _ _ _).symm.trans h2)), hpart]

end

theorem exec_fallbackDatagram_none {s : State} (h : s.saf.fallback = []) : exec .fallbackDatagram s = .next s := by
  show execFallbackDatagram s = _
  simp only [execFallbackDatagram, h]

theorem exec_fallbackDatagram {s : State} {k a : Nat} {rest : List (Nat × Nat)} (h : s.saf.fallback = (k, a) :: rest) :
    exec .fallbackDatagram s =
      if s.saf.gate || s.saf.held then .next (s.fallbackTaken rest)
      else .next ((List.range (fallbackParts ((s.fallbackTaken rest).fallbackTracks a))).foldl
        (State.sendPart k a ((s.fallbackTaken rest).fallbackTracks a)) (s.fallbackTaken rest)) := by
  show execFallbackDatagram s = _
  simp only [execFallbackDatagram, h]
  rfl

/-- Settles O44: a frame goes by whether it is due or changed, a deadline check by the instant and what has committed, a sleep
permission by its identity, its CRC and its counter, and the fall-back list by the gate and the port. That a list is lost while
port 9 is not ON is log entry 140, and that a frame without 0x5A leaves the reference counter log entry 70. -/
theorem statusFramesAndSleep : Obligations.StatusFramesAndSleep := by
  unfold Obligations.StatusFramesAndSleep
  refine ⟨fun s => ⟨fun hsafe hdue => ?safeFrame, fun hidle => ?noSafeFrame, fun hbarred => ?barred,
      fun hawake hsafe hheld => ?frame⟩,
    fun s hrun => ?notRunning, fun s hrun => ⟨fun hearly => ?primaryEarly, fun hpast => ?primary, fun hearly => ?shadowEarly,
      fun hpast => ?shadow⟩,
    fun port id ext data s => ⟨fun hforeign => ?foreign, fun hours => ?ours⟩,
    fun s => ⟨exec_sleepPermissionExpiry_none, fun t ht => ?expiry⟩,
    fun s => ⟨exec_fallbackDatagram_none, fun k a rest hlist => ⟨fun hclosed => ?closed, fun hgate hheld => ?sent⟩⟩⟩
  case safeFrame =>
    obtain ⟨hregs, -, -, hcounter⟩ := s.sendStatus_facts 6
    refine ⟨s.safeFrameSent, ?_, rfl, hregs, hcounter⟩
    rw [exec_safeStateFrame, hsafe, State.frameDue_iff.2 hdue]
    rfl
  case noSafeFrame =>
    refine (exec_safeStateFrame s).trans (if_neg (fun hboth => ?_))
    obtain ⟨hsafe, hdue⟩ := Bool.and_eq_true_iff.1 hboth
    rcases hidle with h | h
    · exact Bool.false_ne_true (h.symm.trans hsafe)
    · exact h (State.frameDue_iff.1 hdue)
  case barred =>
    refine (exec_statusFrame s).trans (if_pos ?_)
    rw [s.frame_endStarting.1]
    exact State.frameBarred_iff.2 hbarred
  case frame =>
    obtain ⟨hbar, hdueEq, hvehicle, hregs, hboot, hcycle, hview, hrepeats, hnext, hcounter⟩ := s.frame_endStarting
    have hopen : s.endStarting.frameBarred = false := by
      rw [hbar, Bool.eq_false_iff, ne_eq, State.frameBarred_iff, hawake, hsafe, hheld]
      decide
    obtain ⟨fview, fregs, fnext, frepeats, fcounter⟩ := s.endStarting.frameSent_facts
    rw [hregs] at fregs
    rw [hdueEq, hvehicle, hnext] at fnext
    rw [hview, hrepeats] at frepeats
    rw [hboot, hcounter] at fcounter
    have hexec := exec_statusFrame s
    rw [hopen, hdueEq] at hexec
    refine ⟨fun hdue => ?_, fun hnot hchange => ?_, fun hnot hsame => ?_⟩
    · have hdue := State.frameDue_iff.2 hdue
      rw [hdue] at hexec fnext
      exact ⟨_, hexec, fnext, fview, fregs, fcounter⟩
    · have hnot : s.frameDue = false := Bool.eq_false_iff.2 (fun h => hnot (State.frameDue_iff.1 h))
      have hchange : s.endStarting.frameChanged = true := by
        rw [State.frameChanged_iff, hcycle, hvehicle, hview, hrepeats]
        exact hchange
      rw [hnot, hchange] at hexec
      rw [hnot] at fnext
      exact ⟨_, hexec, fnext, fview, fregs, frepeats, fcounter⟩
    · have hnot : s.frameDue = false := Bool.eq_false_iff.2 (fun h => hnot (State.frameDue_iff.1 h))
      have hsame : s.endStarting.frameChanged = false := by
        rw [Bool.eq_false_iff, ne_eq, State.frameChanged_iff, hcycle, hvehicle, hview, hrepeats]
        exact hsame
      rw [hnot, hsame] at hexec
      exact hexec
  case notRunning =>
    rw [exec_primaryDeadlineCheck, exec_shadowDeadlineCheck, hrun]
    exact ⟨rfl, rfl⟩
  case primaryEarly => rw [exec_primaryDeadlineCheck, decide_eq_true hearly, Bool.or_true]; rfl
  case primary =>
    rw [exec_primaryDeadlineCheck, hrun, decide_eq_false (Nat.not_lt.2 hpast), Bool.not_true, Bool.or_false, if_neg Bool.false_ne_true]
    refine ⟨fun hfine => if_pos (Bool.or_eq_true_iff.2 ?_), fun hloaded hmissed =>
      ⟨s.primaryChecked.perceptionLate, if_neg (fun hfine => ?_), rfl, rfl, rfl, _, rfl, rfl, rfl⟩⟩
    · rcases hfine with h | h
      · exact .inl (congrArg Bool.not (Bool.eq_false_iff.2 (fun hl => h (State.primaryLoaded_iff.1 hl))))
      · exact .inr (State.primaryMet_iff.2 h)
    · rw [State.primaryLoaded_iff.2 hloaded, Bool.not_true, Bool.false_or] at hfine
      exact hmissed (State.primaryMet_iff.1 hfine)
  case shadowEarly => rw [exec_shadowDeadlineCheck, decide_eq_true hearly, Bool.or_true]; rfl
  case shadow =>
    rw [exec_shadowDeadlineCheck, hrun, decide_eq_false (Nat.not_lt.2 hpast)]
    rfl
  case foreign =>
    rw [exec_sleepPermissionFrame]
    exact congrArg _ (State.sleepFrame_foreign (eq_true_of_ne_false (fun h => hforeign (State.sleepForeign_iff.1 h))))
  case ours =>
    rw [exec_sleepPermissionFrame, State.sleepFrame_ours (State.sleepForeign_iff.2 hours)]
    refine ⟨fun hcrc => congrArg _ (if_pos hcrc), fun hcrc => ?_⟩
    rw [if_neg (Decidable.not_not.2 hcrc)]
    exact ⟨fun hold => congrArg _ (if_pos hold), fun hnew hcode => congrArg _ (if_neg (not_or.2 ⟨hnew, Decidable.not_not.2 hcode⟩))⟩
  case expiry =>
    rw [exec_sleepPermissionExpiry_held ht]
    exact ⟨fun hlt => if_pos (within_true.2 hlt), fun hle => by rw [within_false.2 hle]; rfl⟩
  case closed =>
    exact (exec_fallbackDatagram hlist).trans (if_pos (Bool.or_eq_true_iff.2 hclosed))
  case sent =>
    have hexec := exec_fallbackDatagram hlist
    rw [hgate, hheld] at hexec
    generalize (s.fallbackTaken rest).fallbackTracks a = tracks at hexec
    obtain ⟨hfallback, hregs, hmem⟩ := State.sendParts_frame k a tracks (List.range (fallbackParts tracks)) (s.fallbackTaken rest)
    refine ⟨_, hexec, hfallback, hregs, hmem, fun hon => ?_, fun hoff => ?_⟩
    · have hlen := State.length_out_sendParts k a tracks (List.range (fallbackParts tracks)) (s := s.fallbackTaken rest) hon
      have hone : 1 ≤ fallbackParts tracks := Nat.le_max_left _ _
      rw [hlen, List.length_range]
      exact Nat.lt_add_of_pos_right hone
    · exact State.out_sendParts k a tracks _ (s := s.fallbackTaken rest) hoff

/-! ### Premises met -/

/-- The Cantle is released; registers and the times of the bases are set. -/
def safetyAwake (regs : List (Fld × Nat × Nat)) (acc : List (Nat × Nat)) (saf : SafSt) : State :=
  { regs.foldl (fun (s : State) x => s.wr x.1 x.2.1 x.2.2) State.reset with
    saf := { saf with held := false }, time := { State.reset.time with acc := acc.map (fun x => (x.1, x.2 * nsUnit)) } }

theorem witness_safe_frame : ∃ t, exec .safeStateFrame (safetyAwake [(SAF_CTL.SAFE_STATE, 1, 0)] [] SafSt.cold) = .next t ∧
    t.saf.nextFrame = 10000000 ∧ t.saf.counter = 1 := by
  obtain ⟨hframes, -⟩ := statusFramesAndSleep
  obtain ⟨hsafe, -⟩ := hframes (safetyAwake [(SAF_CTL.SAFE_STATE, 1, 0)] [] SafSt.cold)
  obtain ⟨t, ht, hnext, -, hcounter⟩ := hsafe (by decide +kernel) (.inl (by decide +kernel))
  exact ⟨t, ht, hnext.trans (by decide +kernel), hcounter.trans (by decide +kernel)⟩

/-- 3 ms after the last frame, before any frame has shown the present content. -/
def changeWaits : State := safetyAwake [] [(0, 3000000)] { SafSt.cold with nextFrame := 10000000 }

theorem witness_frame_changed : ∃ t, exec .statusFrame changeWaits = .next t ∧ t.saf.repeats = 4 ∧
    t.saf.nextFrame = 10000000 := by
  obtain ⟨hframes, -⟩ := statusFramesAndSleep
  obtain ⟨-, -, -, hsent⟩ := hframes changeWaits
  obtain ⟨-, hchange, -⟩ := hsent (by decide +kernel) (by decide +kernel) (by decide +kernel)
  obtain ⟨t, ht, hnext, -, -, hrepeats, -⟩ := hchange (not_or.2 ⟨by decide +kernel, by rintro ⟨b, hb, -⟩; exact nomatch hb⟩)
    (by decide +kernel)
  exact ⟨t, ht, hrepeats.trans (by decide +kernel), hnext⟩

/-- The primary, field 3, is IDLE with an image, 1 s after the epoch. -/
def primaryWaits : State :=
  (safetyAwake [(FUS_CTL.RUN, 1, 0), (FUS_CFG.PRIMARY, 3, 0), (PLAIN_FLD_STATE.STATE, stIdle, 3)] [(1, 1000000000)]
    SafSt.cold).setF 3 { FldRt.rest with image := some goldenImage }

theorem witness_perception_late : ∃ t, exec .primaryDeadlineCheck primaryWaits = .next t ∧ t.saf.late = true ∧
    t.saf.reports.map (·.source) = [0x32] := by
  obtain ⟨-, -, hchecks, -⟩ := statusFramesAndSleep
  obtain ⟨-, hpast, -⟩ := hchecks primaryWaits (by decide +kernel)
  obtain ⟨-, hmissed⟩ := hpast (by decide +kernel)
  obtain ⟨t, ht, hlate, -, -, r, hreports, hsource, -⟩ := hmissed (by decide +kernel)
    (by rintro ⟨-, n, hn, -⟩; exact nomatch hn)
  refine ⟨t, ht, hlate, ?_⟩
  rw [hreports, show primaryWaits.saf.reports = [] from rfl]
  exact congrArg (fun n => [n]) hsource

/-- A sleep permission for a record of zeros, with its CRC and counter 1. -/
def sleepData : Bytes :=
  let rest : Bytes := [1, 0x5A, 0, 0, 0, 0, 0]
  BitVec.ofNat 8 (e2eP22 (Bytes.sub State.reset.fw.record 0xF4 16) (0 :: rest)) :: rest

theorem witness_sleep_recorded : ∃ t, exec (.sleepPermissionFrame 0 0 false sleepData) (safetyAwake [] [(0, 7)] SafSt.cold) = .next t ∧
    t.saf.sleepAt = some 7 ∧ t.saf.sleepCtr = some 1 := by
  obtain ⟨-, -, -, hsleep, -⟩ := statusFramesAndSleep
  obtain ⟨-, hours⟩ := hsleep 0 0 false sleepData (safetyAwake [] [(0, 7)] SafSt.cold)
  obtain ⟨-, hcrc⟩ := hours (by decide +kernel)
  obtain ⟨-, hrecorded⟩ := hcrc (by decide +kernel)
  exact ⟨_, hrecorded (by decide +kernel) (by decide +kernel), by decide +kernel, by decide +kernel⟩

theorem witness_sleep_expired : ∃ t, exec .sleepPermissionExpiry
    (safetyAwake [] [(0, 1000000000)] { SafSt.cold with sleepAt := some 0 }) = .next t ∧ t.saf.sleepAt = none := by
  obtain ⟨-, -, -, -, hexpiry, -⟩ := statusFramesAndSleep
  obtain ⟨-, hheld⟩ := hexpiry (safetyAwake [] [(0, 1000000000)] { SafSt.cold with sleepAt := some 0 })
  exact ⟨_, (hheld 0 rfl).2 (by decide +kernel), rfl⟩

/-- One committed list waits, and the Cantle's port of the switch is ON. -/
theorem witness_fallback_sent : ∃ t, exec .fallbackDatagram
    (safetyAwake [(GW_PORT.STATE, 2, 9)] [] { SafSt.cold with fallback := [(0, 0)] }) = .next t ∧ t.saf.fallback = [] ∧ t.out ≠ [] := by
  obtain ⟨-, -, -, -, -, hlists⟩ := statusFramesAndSleep
  obtain ⟨-, hlist⟩ := hlists (safetyAwake [(GW_PORT.STATE, 2, 9)] [] { SafSt.cold with fallback := [(0, 0)] })
  obtain ⟨-, hsent⟩ := hlist 0 0 [] rfl
  obtain ⟨t, ht, hfallback, -, -, hon, -⟩ := hsent rfl rfl
  exact ⟨t, ht, hfallback, List.ne_nil_of_length_pos (Nat.zero_lt_of_lt (hon (by decide +kernel)))⟩

end Sys2Proof.Machine
end

section
/-! Self-test: re-admission, slices, intervals and coverage (11 R286–R291). -/

namespace Sys2Proof.Machine

/-! ### Re-admission (11 R291) -/

theorem exec_readmit {src : Source} {s : State} (unit : Fin 192) (h : (s.who src).fwHyp = true) :
    exec (.readmit src unit) s = .next (s.readmit unit) :=
  congrArg Host.Outcome.next (State.asWho_pos _ _ _ _ _ h)

theorem exec_readmit_denied {src : Source} {s : State} (unit : Fin 192) (h : (s.who src).fwHyp = false) :
    exec (.readmit src unit) s = .next (s.denied (s.who src) (RegName.addr .bistUnit unit)) :=
  congrArg Host.Outcome.next (State.asWho_neg _ _ _ _ _ h)

theorem State.readmit_testing {s : State} {u : Nat} (hout : s.rd BIST_UNIT.STATE u = 1) (hcount : s.rd BIST_UNIT.OOS_COUNT u < 3) :
    s.readmit u = { s.wr BIST_UNIT.STATE 2 u with
      bist := { s.bist with passed := s.bist.passed.filter (fun p => p / 8 != u) } } := if_pos ⟨hout, hcount⟩

theorem State.readmit_refused {s : State} {u : Nat} (h : s.rd BIST_UNIT.STATE u ≠ 1 ∨ 3 ≤ s.rd BIST_UNIT.OOS_COUNT u) :
    s.readmit u = s :=
  if_neg (fun hboth => h.elim (· hboth.1) (Nat.not_le.2 hboth.2))

/-! ### A slice asked for (11 R287) -/

theorem exec_bistSliceStart (kind : SliceKind) (unit : Fin 192) (s : State) : exec (.bistSliceStart kind unit) s =
    if s.fwOut 5 then .next s else .next (s.startSlice (kindCode kind) unit) := rfl

section
variable {s : State} {k u : Nat}

theorem State.startSlice_idle (h : s.flag BIST_CFG.ENABLE = false ∨ s.bist.slice ≠ none ∨ s.sliceUnit k u = false) :
    s.startSlice k u = s := by
  refine if_pos ?_
  rcases h with h | h | h
  · rw [h]
    rfl
  · rw [Option.isSome_iff_ne_none.2 h, Bool.or_true, Bool.true_or]
  · rw [h]
    exact Bool.or_true _

/-- A slice that does not end, with its 50 µs, by the next release, or that is asked for in the safe state, may not start. -/
theorem State.sliceMay_barred
    (h : s.rd BIST_GATE.NEXT_REL < s.vehicleNs + kindNs k + 50000 ∨ s.flag SAF_CTL.SAFE_STATE = true) : s.sliceMay k u = false := by
  unfold State.sliceMay
  rcases h with h | h
  · rw [decide_eq_false (Nat.not_le.2 h)]
    rfl
  · rw [h, Bool.not_true, Bool.and_false]
    rfl

variable (hen : s.flag BIST_CFG.ENABLE = true) (hnone : s.bist.slice = none) (hunit : s.sliceUnit k u = true)
include hen hnone hunit

theorem State.startSlice_asked : s.startSlice k u =
    if s.sliceMay k u then { s with bist := { s.bist with slice := some ⟨k, u, s.sliceField k u, s.vehicleNs⟩ } }
    else s.inc BIST_STAT.DEFERRED := by
  refine if_neg ?_
  rw [hen, hnone, hunit]
  decide

theorem State.startSlice_deferred (hmay : s.sliceMay k u = false) : s.startSlice k u = s.inc BIST_STAT.DEFERRED := by
  rw [State.startSlice_asked hen hnone hunit, hmay]
  rfl

end

/-! ### The end of a slice (11 R290, R291) -/

/-- What a slice's test leaves in the block it tests. -/
def State.wrecked (s : State) (x : Slice) : State :=
  match x.kind with
  | 1 => s.wreckCells x.unit
  | 2 => s.wreckSram x.unit
  | _ => s

/-- The repairs of a slice: a unit's own slice has none. -/
def State.mended (s : State) (x : Slice) (fails : List BistFail) : State × Bool :=
  (s.wrecked x).repairs x.kind x.unit (if x.kind = 5 then [] else fails)

/-- A field's block re-initialised after its slice. -/
def State.refilled (s : State) (x : Slice) : State :=
  match x.field with
  | some f => s.reinitBlock f x.kind x.unit
  | none => s

/-- A slice judged by its failures: it passes, or its block or unit is lost. -/
def State.sliceJudged (s : State) (x : Slice) (fails : List BistFail) : State :=
  if (s.mended x fails).2 && (x.kind != 5 || fails.isEmpty) then ((s.mended x fails).1.refilled x).passSlice x.kind x.unit
  else (s.mended x fails).1.failSlice x.kind x.unit

section
variable {s : State} {x : Slice} {fails : List BistFail}

theorem exec_bistSliceDone_idle (h : s.fwOut 5 = true ∨ s.bist.slice = none) : exec (.bistSliceDone fails) s = .next s := by
  show execBistSliceDone fails s = _
  unfold execBistSliceDone
  rcases h with h | h
  · exact if_pos h
  · rw [h]
    exact ite_self _

theorem exec_bistSliceDone (hfw : s.fwOut 5 = false) (hx : s.bist.slice = some x) :
    exec (.bistSliceDone fails) s = .next ((s.sliceJudged x fails).endSlice x) := by
  show execBistSliceDone fails s = _
  rw [State.sliceJudged, apply_ite (fun t : State => t.endSlice x), apply_ite Host.Outcome.next, execBistSliceDone, hfw, hx]
  rfl

/-- A slice of no field that finds nothing, and whose test leaves its block as it was, only passes. -/
theorem State.sliceJudged_clean (hfield : x.field = none) (h1 : x.kind ≠ 1) (h2 : x.kind ≠ 2) :
    s.sliceJudged x [] = s.passSlice x.kind x.unit := by
  have hwreck : s.wrecked x = s := by simp only [State.wrecked]
  have hmended : s.mended x [] = (s, true) := by
    rw [State.mended, hwreck, ite_self]
    rfl
  have hrefilled : s.refilled x = s := by simp only [State.refilled, hfield]
  simp only [State.sliceJudged, hmended, hrefilled, List.isEmpty_nil, Bool.or_true, Bool.and_self, if_true]

/-- A unit's own slice that finds a failure fails. -/
theorem State.sliceJudged_unit (hkind : x.kind = 5) (hfails : fails ≠ []) : s.sliceJudged x fails = s.failSlice 5 x.unit := by
  have hmended : s.mended x fails = (s, true) := by
    simp only [State.mended, State.wrecked, hkind, if_true]
    rfl
  simp only [State.sliceJudged, hmended, hkind, List.isEmpty_eq_false_iff.2 hfails]
  rfl

end

/-- A unit that is neither a cluster nor a raster slice reads OUT_OF_SERVICE once it is taken out. -/
theorem State.rd_unitOut {u : Nat} (hu : 156 ≤ u) (s : State) : (s.unitOut u).rd BIST_UNIT.STATE u = 1 := by
  unfold State.unitOut
  split
  · next hout => exact hout
  · rw [if_neg (by omega), if_neg (by omega), State.rd_inc_ne _ _ _ _ _ _ _ (by decide) (by decide) (by decide),
      State.rd_inc_ne _ _ _ _ _ _ _ (by decide) (by decide) (by decide)]
    exact State.rd_wr_same s BIST_UNIT.STATE 1 u 0

theorem State.rd_failSlice_unit {u : Nat} (hu : 156 ≤ u) (s : State) : (s.failSlice 5 u).rd BIST_UNIT.STATE u = 1 := by
  unfold State.failSlice
  rw [if_neg (by decide)]
  split
  · next hout => exact hout
  · exact State.rd_unitOut hu _

/-- A slice closed, before its field's hold is taken back. -/
def State.sliceClosed (s : State) (x : Slice) : State :=
  ({ s with
    bist := { s.bist with
      slice := none, began := Sparse.put 0 s.bist.began (blockKey x.kind x.unit) x.since
      lapsed := s.bist.lapsed.filter (· != blockKey x.kind x.unit), stop := false }
    saf := { s.saf with coverage := s.saf.coverage.filter (· != blockKey x.kind x.unit) } } : State).incWrap BIST_STAT.SLICES

/-- Beyond closing its slice, the end of a slice writes the hold of a field alone. -/
theorem State.endSlice_eq (s : State) (x : Slice) : ∃ flds, s.endSlice x = { s.sliceClosed x with flds := flds } := by
  cases hfield : x.field with
  | none => exact ⟨s.flds, by simp only [State.endSlice, hfield]; rfl⟩
  | some f =>
    simp only [State.endSlice, hfield]
    split
    · exact ⟨s.flds, rfl⟩
    · exact ⟨_, rfl⟩

theorem contains_filter_bne_self (l : List Nat) (k : Nat) : (l.filter (· != k)).contains k = false := by
  simp

theorem State.endSlice_facts (s : State) (x : Slice) : (s.endSlice x).bist.slice = none ∧
    Sparse.look 0 (s.endSlice x).bist.began (blockKey x.kind x.unit) = x.since ∧
    (s.endSlice x).bist.lapsed.contains (blockKey x.kind x.unit) = false ∧
    (s.endSlice x).saf.coverage.contains (blockKey x.kind x.unit) = false ∧
    (s.endSlice x).rd BIST_UNIT.STATE x.unit = s.rd BIST_UNIT.STATE x.unit := by
  obtain ⟨flds, heq⟩ := s.endSlice_eq x
  rw [heq]
  exact ⟨rfl, Sparse.look_put_same _ _ _ _, contains_filter_bne_self _ _, contains_filter_bne_self _ _,
    State.rd_wr_ne _ BIST_STAT.SLICES BIST_UNIT.STATE _ 0 0 x.unit 0 (by decide) (by decide) (by decide)⟩

/-! ### An interval due (11 R288) -/

/-- A field whose admission is stopped for a slice of its block. -/
def State.heldForTest (s : State) (f : Nat) : State := s.setF f { s.frt f with hold := true }

/-- The copies of a field's checkpoint for a slice begun. -/
def State.testCopies (s : State) (f : Fin 17) : State := (s.startCopies f).setF f { (s.startCopies f).frt f with bistCk := true }

/-- The copies complete: the checkpoint is taken into use. -/
def State.testCopied (s : State) (f : Fin 17) : State := (s.ckFlip f).setF f { s.frt f with bistCk := false, ckptLast := true }

/-- What follows for a field that is held: by its state, its commands and its checkpoint, the block's slice is asked for, is
prepared by a checkpoint, or waits. -/
def State.testField (s : State) (f : Fin 17) (k u : Nat) : State :=
  if s.fState f = stStopped then s.startSlice k u
  else if !(s.jobsOn (.field f)).isEmpty || s.fState f != stIdle then s
  else if s.needsCheckpoint f k u && !(s.frt f).bistCk then s.testCopies f
  else if (s.frt f).bistCk then
    if (s.frt f).moves.any (fun m => m.kind == 2) then s else (s.testCopied f).startSlice k u
  else s.startSlice k u

section
variable {s : State} {f : Fin 17} {k u : Nat}

theorem State.testField_stopped (h : s.fState f = stStopped) : s.testField f k u = s.startSlice k u := if_pos h

theorem State.testField_busy (hrun : s.fState f ≠ stStopped) (h : (s.jobsOn (.field f)).isEmpty = false ∨ s.fState f ≠ stIdle) :
    s.testField f k u = s := by
  refine (if_neg hrun).trans (if_pos ?_)
  rw [Bool.or_eq_true_iff, bne_iff_ne]
  exact h.imp_left (congrArg Bool.not)

variable (hidle : s.fState f = stIdle) (hjobs : (s.jobsOn (.field f)).isEmpty = true)
include hidle hjobs

theorem State.testField_uncopied (hck : (s.frt f).bistCk = false) :
    s.testField f k u = if s.needsCheckpoint f k u then s.testCopies f else s.startSlice k u := by
  rw [State.testField, hidle, hjobs, hck, Bool.not_false, Bool.and_true]
  rfl

theorem State.testField_copied (hck : (s.frt f).bistCk = true) : s.testField f k u =
    if (s.frt f).moves.any (fun m => m.kind == 2) then s else (s.testCopied f).startSlice k u := by
  rw [State.testField, hidle, hjobs, hck, Bool.not_true, Bool.and_false]
  rfl

end

theorem State.frt_heldForTest (s : State) (f : Nat) : (s.heldForTest f).frt f = { s.frt f with hold := true } :=
  State.frt_setF s f _

/-- Whether a block needs a checkpoint does not depend on the hold. -/
theorem State.needsCheckpoint_heldForTest (s : State) (f k u : Nat) :
    (s.heldForTest f).needsCheckpoint f k u = s.needsCheckpoint f k u := by
  simp only [State.needsCheckpoint, State.frt_heldForTest]

section
variable {kind : SliceKind} {unit : Fin 192} {s : State}

theorem exec_bistIntervalDue_idle
    (h : s.fwOut 5 = true ∨ s.flag BIST_CFG.ENABLE = false ∨ s.sliceUnit (kindCode kind) unit = false) :
    exec (.bistIntervalDue kind unit) s = .next s := by
  show execBistIntervalDue kind unit s = _
  unfold execBistIntervalDue
  rcases h with h | h | h
  · exact if_pos h
  · simp only [h, Bool.not_false, Bool.true_or, if_true, ite_self]
  · simp only [h, Bool.not_false, Bool.or_true, if_true, ite_self]

variable (hfw : s.fwOut 5 = false) (hen : s.flag BIST_CFG.ENABLE = true) (hunit : s.sliceUnit (kindCode kind) unit = true)
include hfw hen hunit

theorem exec_bistIntervalDue_safety {f : Nat} (hf : s.sliceField (kindCode kind) unit = some f)
    (h : s.isSafety f = true ∨ 17 ≤ f) : exec (.bistIntervalDue kind unit) s = .next s := by
  show execBistIntervalDue kind unit s = _
  simp only [execBistIntervalDue, hfw, hen, hunit, hf]
  rcases h with h | h
  · simp [h]
  · simp [Nat.not_lt.2 h]

theorem exec_bistIntervalDue_noField (hf : s.sliceField (kindCode kind) unit = none) : exec (.bistIntervalDue kind unit) s =
    if kindCode kind = 3 then
      let u := { s with bist := { s.bist with stop := true } }
      if (s.jobsOn .render).isEmpty then .next (u.startSlice (kindCode kind) unit) else .next u
    else .next (s.startSlice (kindCode kind) unit) := by
  show execBistIntervalDue kind unit s = _
  simp only [execBistIntervalDue, hfw, hen, hunit, hf]
  rfl

theorem exec_bistIntervalDue_general {f : Fin 17} (hf : s.sliceField (kindCode kind) unit = some f.val)
    (hgeneral : s.isSafety f = false) :
    exec (.bistIntervalDue kind unit) s = .next ((s.heldForTest f).testField f (kindCode kind) unit) := by
  show execBistIntervalDue kind unit s = _
  simp only [execBistIntervalDue, hfw, hen, hunit, hf, f.isLt, hgeneral, State.testField, apply_ite Host.Outcome.next]
  rfl

end

/-! ### Coverage (11 R289) -/

/-- The slice in progress tests the block. -/
def State.sliceRuns (s : State) (k u : Nat) : Bool :=
  match s.bist.slice with
  | some x => x.kind == k && x.unit == u
  | none => false

theorem State.sliceRuns_iff {s : State} {k u : Nat} :
    s.sliceRuns k u = true ↔ ∃ x, s.bist.slice = some x ∧ x.kind = k ∧ x.unit = u := by
  unfold State.sliceRuns
  cases s.bist.slice <;> simp

/-- The last moment at which a slice of the block still keeps its interval. -/
def State.lapseEnd (s : State) (k u : Nat) : Nat :=
  s.intervalStart k u + s.testInterval k u - (if (s.safeBlock k u).isSome then kindNs k else 0)

/-- A lapse of the block is not looked at: no test runs, the block's slice is in progress or its lapse is reported already. -/
def State.lapseBarred (s : State) (k u : Nat) : Bool :=
  !s.flag BIST_CFG.ENABLE || !s.sliceUnit k u || s.sliceRuns k u || s.bist.lapsed.contains (blockKey k u)

/-- A lapse counted. -/
def State.lapseCounted (s : State) (k u : Nat) : State :=
  { s.inc BIST_STAT.COVERAGE with bist := { s.bist with lapsed := blockKey k u :: s.bist.lapsed } }

/-- The lapse of a safety block counted, and a contained fault of its field. -/
def State.lapseFault (s : State) (k u f : Nat) : State :=
  let t := s.lapseCounted k u
  ({ t with saf := { t.saf with coverage := blockKey k u :: t.saf.coverage } } : State).report 0x14 (some f)

/-- What a lapse of the block leads to. -/
def State.lapseSeen (s : State) (k u : Nat) : State :=
  match s.safeBlock k u with
  | some f => s.lapseFault k u f
  | none => s.lapseCounted k u

section
variable {s : State} {k u : Nat}

theorem State.lapseEnd_general (h : s.safeBlock k u = none) :
    s.lapseEnd k u = s.intervalStart k u + s.testInterval k u := by
  rw [State.lapseEnd, h]
  rfl

theorem State.lapseEnd_safety {f : Nat} (h : s.safeBlock k u = some f) :
    s.lapseEnd k u = s.intervalStart k u + s.testInterval k u - kindNs k := by
  rw [State.lapseEnd, h]
  rfl

theorem State.lapseSeen_general (h : s.safeBlock k u = none) : s.lapseSeen k u = s.lapseCounted k u := by
  rw [State.lapseSeen, h]

theorem State.lapseSeen_safety {f : Nat} (h : s.safeBlock k u = some f) : s.lapseSeen k u = s.lapseFault k u f := by
  rw [State.lapseSeen, h]

end

theorem exec_coverageLapse (kind : SliceKind) (unit : Fin 192) (s : State) : exec (.coverageLapse kind unit) s =
    if s.fwOut 4 then .next s
    else if s.lapseBarred (kindCode kind) unit || decide (s.vehicleNs < s.lapseEnd (kindCode kind) unit) then .next s
    else .next (s.lapseSeen (kindCode kind) unit) := by
  rw [State.lapseSeen]
  cases hsafe : s.safeBlock (kindCode kind) unit
  all_goals
    show execCoverageLapse kind unit s = _
    simp only [execCoverageLapse, State.lapseEnd, hsafe]
    rfl

section
variable {kind : SliceKind} {unit : Fin 192} {s : State}

theorem exec_coverageLapse_barred (h : s.fwOut 4 = true ∨ s.lapseBarred (kindCode kind) unit = true) :
    exec (.coverageLapse kind unit) s = .next s := by
  rw [exec_coverageLapse]
  rcases h with h | h
  · exact if_pos h
  · rw [h, Bool.true_or, if_pos rfl, ite_self]

variable (hfw : s.fwOut 4 = false) (hopen : s.lapseBarred (kindCode kind) unit = false)
include hfw hopen

theorem exec_coverageLapse_inTime (h : s.vehicleNs < s.lapseEnd (kindCode kind) unit) :
    exec (.coverageLapse kind unit) s = .next s := by
  rw [exec_coverageLapse, hfw, hopen, decide_eq_true h]
  rfl

theorem exec_coverageLapse_late (h : s.lapseEnd (kindCode kind) unit ≤ s.vehicleNs) :
    exec (.coverageLapse kind unit) s = .next (s.lapseSeen (kindCode kind) unit) := by
  rw [exec_coverageLapse, hfw, hopen, decide_eq_false (Nat.not_lt.2 h)]
  rfl

end

/-- Settles O46: READMIT goes by the requester and by the unit's state and count, a slice asked for by the conditions of R287,
and the end of a slice by what it finds; an interval due goes by the field of the block, its state, its commands and its
checkpoint, a lapse by the block's interval. That the row itself brings an interval due, with no condition of time, and that a
lapse of a safety block counts in COVERAGE too is log entry 74. -/
theorem selfTest : Obligations.SelfTest := by
  unfold Obligations.SelfTest
  refine ⟨fun src unit s => ⟨fun hmay => ⟨fun hout hcount => ?readmitted, fun hnot => ?keptOut⟩, exec_readmit_denied unit⟩,
    fun kind unit s => ⟨fun hidle => ?noStart, fun hfw hen hnone hunit => ?asked⟩,
    fun fails s => ⟨exec_bistSliceDone_idle, fun x hfw hx => ⟨fun hfails hfield h1 h2 => ?clean, ?ended⟩⟩,
    fun kind unit s => ⟨exec_bistIntervalDue_idle, fun hfw hen hunit =>
      ⟨fun f hf => exec_bistIntervalDue_safety hfw hen hunit hf, fun f hf hgeneral => ?general, fun hf hkind => ?noField,
        fun hf hkind => ?raster⟩⟩,
    fun kind unit s => ⟨fun hidle => ?noLapse, fun hfw hen hunit hother hfresh => ?lapse⟩⟩
  case readmitted =>
    refine ⟨_, exec_readmit unit hmay, ?_⟩
    rw [State.readmit_testing hout hcount]
    exact ⟨State.rd_wr_same s BIST_UNIT.STATE 2 unit 0, rfl, rfl, rfl⟩
  case keptOut => rw [exec_readmit unit hmay, State.readmit_refused hnot]
  case noStart =>
    rw [exec_bistSliceStart]
    rcases hidle with hout | hidle
    · exact if_pos hout
    · rw [State.startSlice_idle hidle, ite_self]
  case asked =>
    rw [exec_bistSliceStart, hfw]
    exact ⟨fun hmay => congrArg Host.Outcome.next ((State.startSlice_asked hen hnone hunit).trans (if_pos hmay)),
      fun hmay => congrArg Host.Outcome.next (State.startSlice_deferred hen hnone hunit hmay),
      fun hbarred => congrArg Host.Outcome.next (State.startSlice_deferred hen hnone hunit (State.sliceMay_barred hbarred))⟩
  case clean => rw [hfails, exec_bistSliceDone hfw hx, State.sliceJudged_clean hfield h1 h2]
  case ended =>
    obtain ⟨hslice, hbegan, hlapsed, hcoverage, hstate⟩ := (s.sliceJudged x fails).endSlice_facts x
    refine ⟨_, exec_bistSliceDone hfw hx, hslice, hbegan, hlapsed, hcoverage, fun hkind hown hfails => ?_⟩
    rw [hstate, State.sliceJudged_unit hkind hfails]
    exact State.rd_failSlice_unit hown s
  case general =>
    rw [exec_bistIntervalDue_general hfw hen hunit hf hgeneral]
    have hfrt := s.frt_heldForTest f
    refine ⟨fun hstopped => ?_, fun hrun hbusy => ?_, fun hidle hjobs => ⟨fun hck hneeds => ?_, fun hck hneeds => ?_,
      fun hck hmoves => ?_, fun hck hmoves => ?_⟩⟩
    · exact congrArg Host.Outcome.next (State.testField_stopped (s := s.heldForTest f) hstopped)
    · exact congrArg Host.Outcome.next (State.testField_busy (s := s.heldForTest f) hrun hbusy)
    · rw [State.testField_uncopied (s := s.heldForTest f) hidle hjobs (hfrt ▸ hck), State.needsCheckpoint_heldForTest, hneeds]
      rfl
    · rw [State.testField_uncopied (s := s.heldForTest f) hidle hjobs (hfrt ▸ hck), State.needsCheckpoint_heldForTest, hneeds]
      rfl
    · rw [State.testField_copied (s := s.heldForTest f) hidle hjobs (hfrt ▸ hck), hfrt, hmoves]
      rfl
    · rw [State.testField_copied (s := s.heldForTest f) hidle hjobs (hfrt ▸ hck), hfrt, hmoves]
      rfl
  case noField => exact (exec_bistIntervalDue_noField hfw hen hunit hf).trans (if_neg hkind)
  case raster =>
    exact (exec_bistIntervalDue_noField hfw hen hunit hf).trans ((if_pos hkind).trans (apply_ite Host.Outcome.next _ _ _).symm)
  case noLapse =>
    refine exec_coverageLapse_barred (hidle.imp_right (fun h => ?_))
    simp only [State.lapseBarred, Bool.or_eq_true, Bool.not_eq_true', State.sliceRuns_iff]
    rcases h with h | h | h | h
    · exact .inl (.inl (.inl h))
    · exact .inl (.inl (.inr h))
    · exact .inr h
    · exact .inl (.inr h)
  case lapse =>
    have hruns : s.sliceRuns (kindCode kind) unit = false := by
      refine Bool.eq_false_iff.2 (fun hruns => ?_)
      obtain ⟨x, hx, hkind, hunit⟩ := State.sliceRuns_iff.1 hruns
      exact (hother x hx).elim (· hkind) (· hunit)
    have hopen : s.lapseBarred (kindCode kind) unit = false := by
      rw [State.lapseBarred, hen, hunit, hruns, hfresh]
      rfl
    refine ⟨fun hsafe hearly => ?_, fun hsafe hlate => ?_, fun f hsafe => ⟨fun hearly => ?_, fun hlate => ?_⟩⟩
    · exact exec_coverageLapse_inTime hfw hopen (Nat.lt_of_lt_of_eq hearly (State.lapseEnd_general hsafe).symm)
    · rw [exec_coverageLapse_late hfw hopen (Nat.le_trans (Nat.le_of_eq (State.lapseEnd_general hsafe)) hlate),
        State.lapseSeen_general hsafe]
      rfl
    · exact exec_coverageLapse_inTime hfw hopen (Nat.lt_of_lt_of_eq hearly (State.lapseEnd_safety hsafe).symm)
    · rw [exec_coverageLapse_late hfw hopen (Nat.le_trans (Nat.le_of_eq (State.lapseEnd_safety hsafe)) hlate),
        State.lapseSeen_safety hsafe]
      rfl

/-! ### Premises met -/

theorem witness_unit_readmitted : ∃ t, exec (.readmit .mgmt 160) (State.reset.wr BIST_UNIT.STATE 1 160) = .next t ∧
    t.rd BIST_UNIT.STATE (160 : Fin 192) = 2 := by
  obtain ⟨hrows, -⟩ := selfTest
  obtain ⟨hmay, -⟩ := hrows .mgmt 160 (State.reset.wr BIST_UNIT.STATE 1 160)
  obtain ⟨t, ht, hstate, -⟩ := (hmay (by decide +kernel)).1 (by decide +kernel) (by decide +kernel)
  exact ⟨t, ht, hstate⟩

/-- Self-test runs, and the next release comes at a moment. -/
def testsRun (release : Nat) : State := (State.reset.wr BIST_CFG.ENABLE 1).wr BIST_GATE.NEXT_REL release

/-- The slice of a cluster takes 150 µs, and 50 µs more must be left. -/
theorem witness_slice_started : ∃ t, exec (.bistSliceStart .cluster 7) (testsRun 200000) = .next t ∧
    t.bist.slice = some ⟨1, 7, none, 0⟩ := by
  obtain ⟨-, hrows, -⟩ := selfTest
  obtain ⟨-, hasked⟩ := hrows .cluster 7 (testsRun 200000)
  obtain ⟨hstarts, -⟩ := hasked (by decide +kernel) (by decide +kernel) (by decide +kernel) (by decide +kernel)
  exact ⟨_, hstarts (by decide +kernel), by decide +kernel⟩

theorem witness_slice_deferred : ∃ t, exec (.bistSliceStart .cluster 7) (testsRun 199999) = .next t ∧
    t.bist.slice = none ∧ t.rd BIST_STAT.DEFERRED = 1 := by
  obtain ⟨-, hrows, -⟩ := selfTest
  obtain ⟨-, hasked⟩ := hrows .cluster 7 (testsRun 199999)
  obtain ⟨-, -, hlate⟩ := hasked (by decide +kernel) (by decide +kernel) (by decide +kernel) (by decide +kernel)
  exact ⟨_, hlate (.inl (by decide +kernel)), by decide +kernel, by decide +kernel⟩

/-- A slice of no field in progress since 3 ns, of a unit in TESTING whose lapse has been reported. -/
def sliceOf (kind unit : Nat) : State :=
  let s := State.reset.wr BIST_UNIT.STATE 2 unit
  { s with bist := { s.bist with slice := some ⟨kind, unit, none, 3⟩, lapsed := [blockKey kind unit] } }

/-- A raster slice has one kind of slice to pass before it is SPARE. -/
theorem witness_slice_passes : ∃ t, exec (.bistSliceDone []) (sliceOf 3 150) = .next t ∧ t.bist.slice = none ∧
    t.rd BIST_UNIT.STATE 150 = 3 ∧ t.rd BIST_STAT.SLICES = 1 := by
  obtain ⟨-, -, hrows, -⟩ := selfTest
  obtain ⟨-, hends⟩ := hrows [] (sliceOf 3 150)
  obtain ⟨hpasses, -⟩ := hends _ (by decide +kernel) rfl
  exact ⟨_, hpasses rfl rfl (by decide) (by decide), by decide +kernel, by decide +kernel, by decide +kernel⟩

theorem witness_unit_slice_fails : ∃ t, exec (.bistSliceDone [⟨0, false, 0, 0, 0, 0⟩]) (sliceOf 5 160) = .next t ∧
    t.bist.slice = none ∧ t.bist.lapsed.contains (blockKey 5 160) = false ∧ t.rd BIST_UNIT.STATE 160 = 1 := by
  obtain ⟨-, -, hrows, -⟩ := selfTest
  obtain ⟨-, hends⟩ := hrows [⟨0, false, 0, 0, 0, 0⟩] (sliceOf 5 160)
  obtain ⟨-, t, ht, hslice, -, hlapsed, -, hout⟩ := hends _ (by decide +kernel) rfl
  exact ⟨t, ht, hslice, hlapsed, hout rfl (by decide) (List.cons_ne_nil _ _)⟩

/-- Field 1, of cluster 0 alone, is IDLE with a state tensor in the cluster's first pocket. -/
def statefulField (bistCk : Bool) : State :=
  let image : FieldImage := { goldenImage with states := [⟨0, 0, true, 0, 0, 32, 0, 0⟩] }
  ([(PLAIN_FLD_STATE.STATE, stIdle), (PLAIN_FLD_CFG.WIDTH_M1, 0), (PLAIN_FLD_CFG.HEIGHT_M1, 0)].foldl
    (fun (s : State) x => s.wr x.1 x.2 1) (testsRun 200000)).setF 1 { FldRt.rest with image := some image, bistCk := bistCk }

theorem witness_interval_checkpoint : ∃ t, exec (.bistIntervalDue .cluster 0) (statefulField false) = .next t ∧
    (t.frt 1).hold = true ∧ (t.frt 1).bistCk = true ∧ t.bist.slice = none := by
  obtain ⟨-, -, -, hrows, -⟩ := selfTest
  obtain ⟨-, hdue⟩ := hrows .cluster 0 (statefulField false)
  obtain ⟨-, hgeneral, -⟩ := hdue (by decide +kernel) (by decide +kernel) (by decide +kernel)
  obtain ⟨-, -, hfree⟩ := hgeneral 1 (by decide +kernel) (by decide +kernel)
  obtain ⟨-, hcopies, -⟩ := hfree (by decide +kernel) (by decide +kernel)
  exact ⟨_, hcopies (by decide +kernel) (by decide +kernel), by decide +kernel, by decide +kernel, by decide +kernel⟩

theorem witness_interval_tested : ∃ t, exec (.bistIntervalDue .cluster 0) (statefulField true) = .next t ∧
    (t.frt 1).bistCk = false ∧ t.bist.slice = some ⟨1, 0, some 1, 0⟩ := by
  obtain ⟨-, -, -, hrows, -⟩ := selfTest
  obtain ⟨-, hdue⟩ := hrows .cluster 0 (statefulField true)
  obtain ⟨-, hgeneral, -⟩ := hdue (by decide +kernel) (by decide +kernel) (by decide +kernel)
  obtain ⟨-, -, hfree⟩ := hgeneral 1 (by decide +kernel) (by decide +kernel)
  obtain ⟨-, -, -, hcopied⟩ := hfree (by decide +kernel) (by decide +kernel)
  exact ⟨_, hcopied (by decide +kernel) (by decide +kernel), by decide +kernel, by decide +kernel⟩

/-- The safety interval is 1 ms, the slice of a cluster of field 16 takes 150 µs, and 850 µs have passed. -/
def coverageLate : State := safetyAwake [(BIST_CFG.ENABLE, 1, 0), (BIST_CFG.SAFE_MS, 1, 0)] [(0, 850000)] SafSt.cold

theorem witness_coverage_fault : ∃ t, exec (.coverageLapse .cluster 144) coverageLate = .next t ∧
    t.rd BIST_STAT.COVERAGE = 1 ∧ t.saf.reports.map (fun r => (r.source, r.field)) = [(0x14, some 16)] := by
  obtain ⟨-, -, -, -, hrows⟩ := selfTest
  obtain ⟨-, hlapse⟩ := hrows .cluster 144 coverageLate
  obtain ⟨-, -, hsafety⟩ := hlapse (by decide +kernel) (by decide +kernel) (by decide +kernel) (fun x hx => nomatch hx)
    (by decide +kernel)
  obtain ⟨-, hfault⟩ := hsafety 16 (by decide +kernel)
  exact ⟨_, hfault (by decide +kernel), by decide +kernel, by decide +kernel⟩

end Sys2Proof.Machine
end

section
/-! Enabling, disabling and resetting a VEF (12 R296–R298, R303, R304). -/

namespace Sys2Proof.Machine

set_option Elab.async false

/-! ### The rows -/

section
variable {src : Source} {vef : Fin 128} {s : State}

theorem exec_vefControl_denied (h : (s.who src).fwHyp = false) :
    exec (.vefEnable src vef) s = .next (s.denied (s.who src) (RegName.vefCtl.addr vef)) ∧
      exec (.vefDisable src vef) s = .next (s.denied (s.who src) (RegName.vefCtl.addr vef)) ∧
      exec (.vefReset src vef) s = .next (s.denied (s.who src) (RegName.vefCtl.addr vef)) :=
  ⟨congrArg _ (State.asWho_neg s src _ _ _ h), congrArg _ (State.asWho_neg s src _ _ _ h),
    congrArg _ (State.asWho_neg s src _ _ _ h)⟩

theorem exec_vefControl (h : (s.who src).fwHyp = true) :
    exec (.vefEnable src vef) s = .next (s.vefEnable vef) ∧ exec (.vefDisable src vef) s = .next (s.vefDisable vef) ∧
      exec (.vefReset src vef) s = .next (s.resetVef vef) :=
  ⟨congrArg _ (State.asWho_pos s src _ _ _ h), congrArg _ (State.asWho_pos s src _ _ _ h),
    congrArg _ (State.asWho_pos s src _ _ _ h)⟩

end

theorem exec_vefResetDone (vef : Fin 128) (s : State) : exec (.vefResetDone vef) s = .next (s.resetDone vef).modeProgress := rfl

/-! ### A key operation that the device makes for a VEF (12 R297, R298) -/

theorem State.rd_keyForVef (s : State) (v : Nat) (generate : Bool) (f : Fld) (i j : Nat)
    (h : (f.placed && (f.spot != MEM_STAT.KEY_BUSY.spot)) = true) : (s.keyForVef v generate).rd f i j = s.rd f i j := by
  simp only [Bool.and_eq_true, bne_iff_ne] at h
  unfold State.keyForVef
  dsimp only
  split
  · rfl
  · exact State.rd_wr_ne s MEM_STAT.KEY_BUSY f 1 0 0 i j (by decide) h.1 h.2

/-- With the engine free the operation starts. -/
theorem State.keyCmd_keyForVef_free {s : State} (v : Nat) (generate : Bool) (h : s.mem.keyCmd = none) :
    (s.keyForVef v generate).mem.keyCmd = some ⟨v, generate, true⟩ := by
  simp only [State.keyForVef, h, Option.isSome_none, Bool.false_eq_true, if_false]

/-- While another is in progress the operation waits behind those that wait already. -/
theorem State.keyForVef_waits {s : State} (v : Nat) (generate : Bool) (h : s.mem.keyCmd ≠ none) :
    (s.keyForVef v generate).mem.keyCmd = s.mem.keyCmd ∧
      (s.keyForVef v generate).mem.keyWait = s.mem.keyWait ++ [⟨v, generate, true⟩] := by
  have hwait : s.keyForVef v generate = { s with mem := { s.mem with keyWait := s.mem.keyWait ++ [⟨v, generate, true⟩] } } :=
    if_pos (Option.isSome_iff_ne_none.2 h)
  rw [hwait]
  exact ⟨rfl, rfl⟩

/-! ### ENABLE written 1 (12 R297) -/

theorem State.vefEnable_ignored {s : State} {v : Nat} (h : s.rd VEF_CTL.STATE v ≠ vDisabled ∨ s.flag VEF_CTL.ENABLE v = true) :
    s.vefEnable v = s := if_pos h

/-- A VEF about to get its key: ENABLE set, KEY_EPOCH counted, its violation counters clear. -/
def State.vefPrepared (s : State) (v : Nat) : State :=
  [VEF_VIOL.REG, VEF_VIOL.IOMMU, VEF_VIOL.REGION, VEF_VIOL.FABRIC].foldl (fun s f => s.wr f 0 v)
    ((s.wr VEF_CTL.ENABLE 1 v).incWrap VEF_STAT.KEY_EPOCH v)

theorem State.vefEnable_prepares {s : State} {v : Nat} (hst : s.rd VEF_CTL.STATE v = vDisabled)
    (hen : s.flag VEF_CTL.ENABLE v = false) : s.vefEnable v = (s.vefPrepared v).keyForVef v true :=
  if_neg (not_or.2 ⟨not_not_intro hst, Bool.eq_false_iff.1 hen⟩)

theorem State.vefPrepared_facts (s : State) (v : Nat) : (s.vefPrepared v).rd VEF_CTL.ENABLE v = 1 ∧
    (s.vefPrepared v).rd VEF_CTL.STATE v = s.rd VEF_CTL.STATE v ∧
    (s.vefPrepared v).rd VEF_STAT.KEY_EPOCH v = (s.rd VEF_STAT.KEY_EPOCH v + 1) % 2 ^ 16 ∧
    (s.vefPrepared v).mem = s.mem := by
  simp (disch := decide) only [State.vefPrepared, List.foldl_cons, List.foldl_nil, State.incWrap, State.rd_get, State.regs_wr,
    regGet_set_same, regGet_set_ne]
  exact ⟨rfl, trivial, rfl, rfl⟩

theorem State.vefEnable_facts {s : State} {v : Nat} (hst : s.rd VEF_CTL.STATE v = vDisabled)
    (hen : s.flag VEF_CTL.ENABLE v = false) : (s.vefEnable v).flag VEF_CTL.ENABLE v = true ∧
      (s.vefEnable v).rd VEF_CTL.STATE v = vDisabled ∧
      (s.vefEnable v).rd VEF_STAT.KEY_EPOCH v = (s.rd VEF_STAT.KEY_EPOCH v + 1) % 2 ^ 16 ∧
      (s.mem.keyCmd = none → (s.vefEnable v).mem.keyCmd = some ⟨v, true, true⟩) ∧
      (s.mem.keyCmd ≠ none → (s.vefEnable v).mem.keyCmd = s.mem.keyCmd ∧
        (s.vefEnable v).mem.keyWait = s.mem.keyWait ++ [⟨v, true, true⟩]) := by
  obtain ⟨henable, hstate, hepoch, hmem⟩ := s.vefPrepared_facts v
  rw [State.vefEnable_prepares hst hen, State.flag]
  simp (disch := decide) only [State.rd_keyForVef]
  rw [henable, hstate, ← hmem]
  exact ⟨rfl, hst, hepoch, State.keyCmd_keyForVef_free v true, State.keyForVef_waits v true⟩

/-! ### ENABLE written 0 (12 R298) -/

theorem State.vefDisable_ignored {s : State} {v : Nat} (h : s.flag VEF_CTL.ENABLE v = false) : s.vefDisable v = s :=
  if_pos (congrArg Bool.not h)

section
variable {s : State} {v : Nat} (hen : s.flag VEF_CTL.ENABLE v = true)
include hen

theorem State.vefDisable_refused (hmay : s.mayDisable v = false) : s.vefDisable v = s.inc VEF_GLB.CFG_REFUSED := by
  simp only [State.vefDisable, hen, hmay, Bool.not_true, Bool.not_false, Bool.false_eq_true, if_false, if_true]

theorem State.vefDisable_resets (hmay : s.mayDisable v = true) : s.vefDisable v =
    ((s.wr VEF_CTL.ENABLE 0 v).setV v { (s.wr VEF_CTL.ENABLE 0 v).vrt v with disabling := true }).resetVef v := by
  simp only [State.vefDisable, hen, hmay, Bool.not_true, Bool.false_eq_true, if_false]

end

/-- A valid region that selects the key slot and a valid pool that is owned each keep a VEF enabled. -/
theorem State.mayDisable_held {s : State} {v : Nat}
    (h : s.slotInUse v = true ∨ ∃ p, p < 16 ∧ s.flag VLY_POOL.VALID p = true ∧ s.rd VLY_POOL.OWNER p = v) :
    s.mayDisable v = false := by
  unfold State.mayDisable
  rcases h with hslot | ⟨p, hp, hvalid, howner⟩
  · rw [hslot]
    rfl
  · have hpool : (List.range 16).any (fun p => s.flag VLY_POOL.VALID p && s.rd VLY_POOL.OWNER p == v) = true :=
      List.any_eq_true.2 ⟨p, List.mem_range.2 hp, by rw [hvalid, howner, beq_self_eq_true]; rfl⟩
    rw [hpool, Bool.not_true, Bool.and_false, Bool.false_and]

/-! ### A reset begins (12 R303, R304) -/

theorem State.resetVef_ignored {s : State} {v : Nat} (hactive : s.rd VEF_CTL.STATE v ≠ vActive)
    (hfreezing : s.rd VEF_CTL.STATE v ≠ vFreezing) (hfrozen : s.rd VEF_CTL.STATE v ≠ vFrozen) : s.resetVef v = s :=
  if_pos ⟨hactive, hfreezing, hfrozen⟩

/-- The completion entries reserved for a VEF are given back last. -/
theorem State.reserved_resetVef {s : State} {v : Nat}
    (h : s.rd VEF_CTL.STATE v = vActive ∨ s.rd VEF_CTL.STATE v = vFreezing ∨ s.rd VEF_CTL.STATE v = vFrozen) :
    ((s.resetVef v).vrt v).reserved = 0 := by
  have hruns : ¬ (s.rd VEF_CTL.STATE v ≠ vActive ∧ s.rd VEF_CTL.STATE v ≠ vFreezing ∧ s.rd VEF_CTL.STATE v ≠ vFrozen) :=
    fun ⟨hactive, hfreezing, hfrozen⟩ => h.elim hactive (fun h => h.elim hfreezing hfrozen)
  obtain ⟨u, hu⟩ : ∃ u : State, s.resetVef v = u.setV v { u.vrt v with reserved := 0 } := ⟨_, if_neg hruns⟩
  rw [hu, State.vrt_setV]

/-- The virtual function of a VEF from 1 up is there. -/
theorem State.functionOn_virtual {s : State} {f : Nat} (hf : f ≠ 0) :
    s.functionOn f = true ↔ s.gw.vfEnable = true ∧ f ≤ s.gw.numVfs := by
  simp only [State.functionOn, beq_eq_false_iff_ne.2 hf, Bool.false_or, Bool.and_eq_true, decide_eq_true_eq]

theorem exec_functionLevelReset {s : State} {vef : Fin 128} (hmode : s.flag SYS_STRAP.PCIE_MODE = true) (hvef : vef.val ≠ 0)
    (hen : s.gw.vfEnable = true) (hnum : vef.val ≤ s.gw.numVfs) : exec (.functionLevelReset vef) s = .next (s.resetVef vef) :=
  if_pos (by rw [hmode, decide_eq_true hvef, (State.functionOn_virtual hvef).2 ⟨hen, hnum⟩]; rfl)

theorem exec_functionLevelReset_absent {s : State} {vef : Fin 128} (h : s.flag SYS_STRAP.PCIE_MODE = false ∨ vef.val = 0 ∨
    s.gw.vfEnable = false ∨ s.gw.numVfs < vef.val) : exec (.functionLevelReset vef) s = .next s := by
  refine if_neg (fun hall => ?_)
  simp only [Bool.and_eq_true, decide_eq_true_eq] at hall
  obtain ⟨⟨hmode, hvef⟩, hon⟩ := hall
  obtain ⟨hen, hnum⟩ := (State.functionOn_virtual hvef).1 hon
  rcases h with h | h | h | h
  · exact Bool.false_ne_true (h.symm.trans hmode)
  · exact hvef h
  · exact Bool.false_ne_true (h.symm.trans hen)
  · exact Nat.not_lt.2 hnum h

/-! ### A reset ends (12 R304) -/

theorem State.resetDone_waits {s : State} {v : Nat} (h : s.rd VEF_CTL.STATE v ≠ vResetting ∨ s.resetQuiet v = false) :
    s.resetDone v = s := if_pos (h.imp_right (congrArg Bool.not))

/-- A VEF whose reset has ended after ENABLE was written 0. -/
def State.resetCleared (s : State) (v : Nat) : State :=
  (s.wr VEF_CTL.RESET 0 v).setV v { s.vrt v with disabling := false, acctOpen := false }

/-- A VEF whose reset has ended and that stays enabled. -/
def State.resetActive (s : State) (v : Nat) : State :=
  ((s.wr VEF_CTL.RESET 0 v).wr VEF_CTL.STATE vActive v).wr VEF_STAT.RESET_DONE 1 v

theorem State.resetDone_quiet {s : State} {v : Nat} (hst : s.rd VEF_CTL.STATE v = vResetting) (hquiet : s.resetQuiet v = true) :
    s.resetDone v =
      if (s.vrt v).disabling = true then ((s.resetCleared v).keyForVef v false).wr VEF_CTL.STATE vDisabled v
      else s.resetActive v :=
  if_neg (not_or.2 ⟨not_not_intro hst, by rw [hquiet]; decide⟩)

theorem State.resetActive_facts (s : State) (v : Nat) : (s.resetActive v).rd VEF_CTL.STATE v = vActive ∧
    (s.resetActive v).rd VEF_CTL.RESET v = 0 ∧ (s.resetActive v).rd VEF_STAT.RESET_DONE v = 1 := by
  simp (disch := decide) only [State.resetActive, State.rd_get, State.regs_wr, regGet_set_same, regGet_set_ne]
  exact ⟨rfl, rfl, rfl⟩

/-- Settles O47: firmware's and the hypervisor's rows reach the operations of R297, R298 and R303, which go by the VEF's state and
by what keeps it enabled; the end of a reset goes by what the VEF still has in the device. That a function-level reset acts only
on a function that is there is log entry 102. -/
theorem vefLifecycle : Obligations.VefLifecycle := by
  unfold Obligations.VefLifecycle
  refine ⟨fun src vef s => ⟨exec_vefControl_denied, fun hwho => ?control⟩, fun vef s => ⟨exec_functionLevelReset_absent,
    exec_functionLevelReset, fun hwaits => ?waits, fun hst hquiet => ⟨fun hdis => ?active, fun hdis => ?disabled⟩⟩⟩
  case control =>
    obtain ⟨henable, hdisable, hreset⟩ := exec_vefControl (vef := vef) hwho
    rw [henable, hdisable, hreset]
    refine ⟨fun hst => congrArg _ (State.vefEnable_ignored (.inl hst)), fun hen => congrArg _ (State.vefEnable_ignored (.inr hen)),
      fun hst hen => ⟨_, rfl, State.vefEnable_facts hst hen⟩, fun hen => congrArg _ (State.vefDisable_ignored hen),
      fun hen => ⟨fun hheld => ?_, fun hmay => ?_, fun hmay => ?_⟩,
      fun hactive hfreezing hfrozen => congrArg _ (State.resetVef_ignored hactive hfreezing hfrozen),
      fun hst => ⟨_, rfl, rfl, State.reserved_resetVef hst⟩⟩
    · exact congrArg _ (State.vefDisable_refused hen (State.mayDisable_held hheld))
    · exact congrArg _ (State.vefDisable_refused hen hmay)
    · exact congrArg _ (State.vefDisable_resets hen hmay)
  case waits => rw [exec_vefResetDone, State.resetDone_waits hwaits]
  case active =>
    rw [exec_vefResetDone, State.resetDone_quiet hst hquiet, if_neg (Bool.eq_false_iff.1 hdis)]
    exact ⟨_, rfl, rfl, s.resetActive_facts vef⟩
  case disabled =>
    rw [exec_vefResetDone, State.resetDone_quiet hst hquiet, if_pos hdis]
    exact ⟨_, rfl, State.rd_wr_same _ _ _ _ _, State.keyCmd_keyForVef_free (s := s.resetCleared vef) vef false⟩

/-! ### Premises met -/

/-- VEF 3 in a state, with other registers set. -/
def vefIn (st : Nat) (regs : List (Fld × Nat × Nat)) : State :=
  regs.foldl (fun (s : State) x => s.wr x.1 x.2.1 x.2.2) (State.reset.wr VEF_CTL.STATE st 3)

theorem witness_vef_enabled : ∃ t, exec (.vefEnable .mgmt 3) State.reset = .next t ∧
    t.rd VEF_STAT.KEY_EPOCH (3 : Fin 128) = 1 ∧ t.mem.keyCmd = some ⟨3, true, true⟩ := by
  obtain ⟨hrows, -⟩ := vefLifecycle
  obtain ⟨-, hfirmware⟩ := hrows .mgmt 3 State.reset
  obtain ⟨-, -, henable, -⟩ := hfirmware (by decide +kernel)
  obtain ⟨t, ht, -, -, hepoch, hkey, -⟩ := henable (by decide +kernel) (by decide +kernel)
  exact ⟨t, ht, hepoch.trans (by decide +kernel), hkey (by decide +kernel)⟩

/-- VEF 3 owns pool 5. -/
theorem witness_disable_refused :
    exec (.vefDisable .mgmt 3) (vefIn vActive [(VEF_CTL.ENABLE, 1, 3), (VLY_POOL.VALID, 1, 5), (VLY_POOL.OWNER, 3, 5)]) =
      .next ((vefIn vActive [(VEF_CTL.ENABLE, 1, 3), (VLY_POOL.VALID, 1, 5), (VLY_POOL.OWNER, 3, 5)]).inc
        VEF_GLB.CFG_REFUSED) := by
  obtain ⟨hrows, -⟩ := vefLifecycle
  obtain ⟨-, hfirmware⟩ := hrows .mgmt 3 (vefIn vActive [(VEF_CTL.ENABLE, 1, 3), (VLY_POOL.VALID, 1, 5), (VLY_POOL.OWNER, 3, 5)])
  obtain ⟨-, -, -, -, hdisable, -⟩ := hfirmware (by decide +kernel)
  obtain ⟨hheld, -⟩ := hdisable (by decide +kernel)
  exact hheld (.inr ⟨5, by decide, by decide +kernel, by decide +kernel⟩)

theorem witness_vef_disabled : ∃ t, exec (.vefDisable .mgmt 3) (vefIn vActive [(VEF_CTL.ENABLE, 1, 3)]) = .next t ∧
    t.rd VEF_CTL.STATE (3 : Fin 128) = vResetting ∧ (t.vrt (3 : Fin 128)).disabling = true := by
  obtain ⟨hrows, -⟩ := vefLifecycle
  obtain ⟨-, hfirmware⟩ := hrows .mgmt 3 (vefIn vActive [(VEF_CTL.ENABLE, 1, 3)])
  obtain ⟨-, -, -, -, hdisable, -⟩ := hfirmware (by decide +kernel)
  obtain ⟨-, -, hresets⟩ := hdisable (by decide +kernel)
  exact ⟨_, hresets (by decide +kernel), by decide +kernel, by decide +kernel⟩

/-- In endpoint mode, with four virtual functions enabled. -/
def functionsOn (s : State) : State := { s with gw := { s.gw with vfEnable := true, numVfs := 4 } }

theorem witness_function_reset :
    ∃ t, exec (.functionLevelReset 3) (functionsOn (vefIn vFrozen [(SYS_STRAP.PCIE_MODE, 1, 0)])) = .next t ∧
      t.rd VEF_CTL.STATE (3 : Fin 128) = vResetting := by
  obtain ⟨-, hrows⟩ := vefLifecycle
  obtain ⟨-, hreset, -⟩ := hrows 3 (functionsOn (vefIn vFrozen [(SYS_STRAP.PCIE_MODE, 1, 0)]))
  exact ⟨_, hreset (by decide +kernel) (by decide) (by decide +kernel) (by decide +kernel), by decide +kernel⟩

theorem witness_reset_done : ∃ t : State, exec (.vefResetDone 3) (vefIn vResetting []) = .next t.modeProgress ∧
    t.rd VEF_CTL.STATE (3 : Fin 128) = vActive ∧ t.rd VEF_STAT.RESET_DONE (3 : Fin 128) = 1 := by
  obtain ⟨-, hrows⟩ := vefLifecycle
  obtain ⟨-, -, -, hdone⟩ := hrows 3 (vefIn vResetting [])
  obtain ⟨hactive, -⟩ := hdone (by decide +kernel) (by decide +kernel)
  obtain ⟨t, ht, -, hst, -, hend⟩ := hactive (by decide +kernel)
  exact ⟨t, ht, hst, hend⟩

/-- VEF 3 was disabled before its reset. -/
theorem witness_reset_disabled : ∃ t : State,
    exec (.vefResetDone 3) ((vefIn vResetting []).setV 3 { VefRt.rest with disabling := true }) = .next t.modeProgress ∧
      t.rd VEF_CTL.STATE (3 : Fin 128) = vDisabled ∧ t.mem.keyCmd = some ⟨3, false, true⟩ := by
  obtain ⟨-, hrows⟩ := vefLifecycle
  obtain ⟨-, -, -, hdone⟩ := hrows 3 ((vefIn vResetting []).setV 3 { VefRt.rest with disabling := true })
  obtain ⟨-, hdisabled⟩ := hdone (by decide +kernel) (by decide +kernel)
  obtain ⟨t, ht, hst, hkey⟩ := hdisabled (by decide +kernel)
  exact ⟨t, ht, hst, hkey (by decide +kernel)⟩

end Sys2Proof.Machine
end

section
/-! Freeze and thaw of a VEF (12 R305–R309). -/

namespace Sys2Proof.Machine

set_option Elab.async false

/-! ### VEF_FREEZE (12 R305, R306) -/

theorem exec_vefFreeze_out {s : State} (engine : Fin 4) (h : s.fwOut 2 = true) : exec (.vefFreeze engine) s = .next s := if_pos h

theorem exec_vefFreeze_idle {s : State} {engine : Fin 4} (h : s.firmwareHead engine 0x70 = none) :
    exec (.vefFreeze engine) s = .next s := by
  show execVefFreeze engine s = _
  simp only [execVefFreeze, h, ite_self]

theorem exec_vefFreeze_head {s : State} {engine : Fin 4} {c : Cmd} (hfw : s.fwOut 2 = false)
    (hc : s.firmwareHead engine 0x70 = some c) : exec (.vefFreeze engine) s = .next (s.freeze c) := by
  show execVefFreeze engine s = _
  simp only [execVefFreeze, hfw, Bool.false_eq_true, if_false, hc]

section
variable {s : State} {c : Cmd}

theorem State.freeze_refused (h : c.op 0x28 1 = c.vef ∨ s.rd VEF_CTL.STATE (c.op 0x28 1) = vDisabled ∨
    s.rd VEF_CTL.STATE (c.op 0x28 1) = vResetting) : s.freeze c = s.endQueued c 0x40 4 0 := if_pos h

variable (hother : c.op 0x28 1 ≠ c.vef)
include hother

theorem State.freeze_freezing (hst : s.rd VEF_CTL.STATE (c.op 0x28 1) = vFreezing) : s.freeze c = s := by
  simp [State.freeze, hother, hst, vDisabled, vResetting, vFreezing]

section
variable (hst : s.rd VEF_CTL.STATE (c.op 0x28 1) = vFrozen)
include hst

theorem State.freeze_unheld (hheld : (s.vrt (c.op 0x28 1)).held = none) : s.freeze c = s := by
  simp [State.freeze, hother, hst, hheld, vDisabled, vResetting, vFreezing, vFrozen]

theorem State.freeze_answered {h : Held} (hheld : (s.vrt (c.op 0x28 1)).held = some h) :
    s.freeze c = (s.dequeue c.serial).answerFreeze c (c.op 0x28 1) h := by
  simp [State.freeze, hother, hst, hheld, vDisabled, vResetting, vFreezing, vFrozen]

end

theorem State.freeze_begins (hdisabled : s.rd VEF_CTL.STATE (c.op 0x28 1) ≠ vDisabled)
    (hresetting : s.rd VEF_CTL.STATE (c.op 0x28 1) ≠ vResetting) (hfreezing : s.rd VEF_CTL.STATE (c.op 0x28 1) ≠ vFreezing)
    (hfrozen : s.rd VEF_CTL.STATE (c.op 0x28 1) ≠ vFrozen) : s.freeze c = (s.dequeue c.serial).beginFreeze (c.op 0x28 1)
      (some c) (s.localNs + s.rd VEF_GLB.FREEZE_KILL_MS * 1000000) false := by
  simp [State.freeze, hother, hdisabled, hresetting, hfreezing, hfrozen]

end

theorem State.killLoads_idle {s : State} (v : Nat) (keep : Bool) (h : s.loads = []) : s.killLoads v keep = s := by
  rw [State.killLoads, h]
  rfl

/-- With no load under way a freeze changes the VEF's state alone, and leaves what is queued and in flight. -/
theorem State.beginFreeze_facts {s : State} (v : Nat) (cmd : Option Cmd) (killAt : Nat) (wake : Bool) (h : s.loads = []) :
    (s.beginFreeze v cmd killAt wake).rd VEF_CTL.STATE v = vFreezing ∧
      ((s.beginFreeze v cmd killAt wake).vrt v).freeze = some ⟨cmd, s.localNs, killAt, wake⟩ ∧
      (s.beginFreeze v cmd killAt wake).queue = s.queue ∧ (s.beginFreeze v cmd killAt wake).flight = s.flight := by
  have hmarked : s.beginFreeze v cmd killAt wake = (s.wr VEF_CTL.STATE vFreezing v).setV v
      { s.vrt v with freeze := some ⟨cmd, (s.wr VEF_CTL.STATE vFreezing v).localNs, killAt, wake⟩ } :=
    State.killLoads_idle v true h
  have htime : (s.wr VEF_CTL.STATE vFreezing v).localNs = s.localNs := State.localNs_congr rfl
  rw [hmarked, htime, State.vrt_setV]
  exact ⟨State.rd_wr_same s VEF_CTL.STATE vFreezing v 0, rfl, rfl, rfl⟩

/-! ### The kill time and the end of a freeze (12 R305) -/

theorem exec_freezeKillExpiry_out {s : State} (vef : Fin 128) (h : s.fwOut 2 = true) :
    exec (.freezeKillExpiry vef) s = .next s := if_pos h

theorem exec_freezeComplete_out {s : State} (vef : Fin 128) (h : s.fwOut 2 = true) :
    exec (.freezeComplete vef) s = .next s := if_pos h

theorem exec_freezeKillExpiry_idle {s : State} {vef : Fin 128} (h : (s.vrt vef).freeze = none) :
    exec (.freezeKillExpiry vef) s = .next s := by
  show execFreezeKillExpiry vef s = _
  simp only [execFreezeKillExpiry, h, ite_self]

section
variable {s : State} {vef : Fin 128} (hfw : s.fwOut 2 = false)
include hfw

theorem exec_freezeComplete : exec (.freezeComplete vef) s = .next (s.freezeDone vef).modeProgress :=
  if_neg (Bool.eq_false_iff.1 hfw)

theorem exec_freezeKillExpiry {f : Freeze} (h : (s.vrt vef).freeze = some f) : exec (.freezeKillExpiry vef) s =
    if f.killAt ≤ s.localNs then .next (s.freezeKill vef) else .next s := by
  show execFreezeKillExpiry vef s = _
  simp only [execFreezeKillExpiry, hfw, Bool.false_eq_true, if_false, h]

end

section
variable {s : State} {v : Nat}

theorem State.freezeDone_idle (h : (s.vrt v).freeze = none) : s.freezeDone v = s := by
  simp only [State.freezeDone, h]

theorem State.freezeDone_freezing {f : Freeze} (h : (s.vrt v).freeze = some f) : s.freezeDone v =
    if s.rd VEF_CTL.STATE v = vFreezing ∧ s.drained v = true then s.endFreeze v f else s := by
  simp only [State.freezeDone, h]

end

/-! ### VEF_THAW (12 R307, R309) -/

theorem exec_vefThaw_out {s : State} (engine : Fin 4) (h : s.fwOut 2 = true) : exec (.vefThaw engine) s = .next s := if_pos h

section
variable {s : State} {engine : Fin 4} (hfw : s.fwOut 2 = false)
include hfw

/-- A thaw in progress on the engine is carried on, whatever waits at the engine's head. -/
theorem exec_vefThaw_goesOn {t : Thaw} (h : s.thaws.find? (fun t => t.engine == engine.val) = some t) :
    exec (.vefThaw engine) s = .next (s.thawRun t (2 * t.todo.length + 3)) := by
  show execVefThaw engine s = _
  simp only [execVefThaw, hfw, Bool.false_eq_true, if_false, h]

variable (hfree : s.thaws.find? (fun t => t.engine == engine.val) = none)
include hfree

theorem exec_vefThaw_idle (h : s.firmwareHead engine 0x71 = none) : exec (.vefThaw engine) s = .next s := by
  show execVefThaw engine s = _
  simp only [execVefThaw, hfw, Bool.false_eq_true, if_false, hfree, h]

theorem exec_vefThaw_head {c : Cmd} (h : s.firmwareHead engine 0x71 = some c) : exec (.vefThaw engine) s =
    if s.thaws.any (fun t => t.vef == c.op 0x28 1) then .next s else .next (s.thawBegin c engine) := by
  show execVefThaw engine s = _
  simp only [execVefThaw, hfw, Bool.false_eq_true, if_false, hfree, h]

end

/-- A thaw joins those in progress, and its attachments are restored as far as none must be waited for. -/
def State.thawStart (s : State) (t : Thaw) : State :=
  ({ s with thaws := s.thaws ++ [t] } : State).thawRun t (2 * t.todo.length + 2)

/-- A thaw of a save area that passes every check: its command leaves the queue, the kept commands get serial numbers and the VEF
the area's ASIDs, and the attachments are those of the area. -/
def State.thawArea (s : State) (c : Cmd) (e : Nat) : State :=
  let v := c.op 0x28 1
  let h := savedHeld (s.savedArea c) v s.fetched
  let w : State := { s.dequeue c.serial with fetched := s.fetched + h.kept.length }
  (w.setAsids v (savedAsids (s.savedArea c))).thawStart ⟨c, e, v, true, s.savedArea c, h, h.attach, [], none, w.asidsOf v, []⟩

/-- A thaw that begins, by what the device holds of the VEF and by the checks of the save area. -/
theorem State.thawBegin_eq (s : State) (c : Cmd) (e : Nat) : s.thawBegin c e =
    match (if c.op 0x28 1 < 128 ∧ s.rd VEF_CTL.STATE (c.op 0x28 1) = vFrozen then (s.vrt (c.op 0x28 1)).held else none) with
    | some h => (s.dequeue c.serial).thawStart ⟨c, e, c.op 0x28 1, false, [], h, h.attach, [], none, [], []⟩
    | none =>
      if s.thawCause c ≠ 0 then
        ((s.ctxTouch c.ctx (c.op 0x18 8) (c.op 0x20 8)).wr VEF_STAT.THAW_CAUSE (s.thawCause c) (c.op 0x28 1)).endQueued c 0x40 4 0
      else (s.ctxTouch c.ctx (c.op 0x18 8) (c.op 0x20 8)).thawArea c e := rfl

section
variable {s : State} {c : Cmd} (e : Nat)

theorem State.thawBegin_frozen {h : Held} (hv : c.op 0x28 1 < 128) (hst : s.rd VEF_CTL.STATE (c.op 0x28 1) = vFrozen)
    (hheld : (s.vrt (c.op 0x28 1)).held = some h) : s.thawBegin c e =
      (s.dequeue c.serial).thawStart ⟨c, e, c.op 0x28 1, false, [], h, h.attach, [], none, [], []⟩ := by
  rw [State.thawBegin_eq, if_pos ⟨hv, hst⟩, hheld]

/-- The device holds nothing of the VEF: the thaw is one of a save area. -/
theorem State.thawBegin_unheld
    (hnone : 128 ≤ c.op 0x28 1 ∨ s.rd VEF_CTL.STATE (c.op 0x28 1) ≠ vFrozen ∨ (s.vrt (c.op 0x28 1)).held = none) :
    s.thawBegin c e =
      if s.thawCause c ≠ 0 then
        ((s.ctxTouch c.ctx (c.op 0x18 8) (c.op 0x20 8)).wr VEF_STAT.THAW_CAUSE (s.thawCause c) (c.op 0x28 1)).endQueued c 0x40 4 0
      else (s.ctxTouch c.ctx (c.op 0x18 8) (c.op 0x20 8)).thawArea c e := by
  have hheld : (if c.op 0x28 1 < 128 ∧ s.rd VEF_CTL.STATE (c.op 0x28 1) = vFrozen then (s.vrt (c.op 0x28 1)).held else none) =
      none := by
    split
    next hboth => exact (hnone.resolve_left (Nat.not_le.2 hboth.1)).resolve_left (not_not_intro hboth.2)
    next => rfl
  rw [State.thawBegin_eq, hheld]

end

/-- Settles O48: a freeze goes by the state of the VEF that it names, its kill and its end by the time and by what is drained; a
thaw in progress goes on before another begins, and one that begins goes by what the device holds and by the checks of R307. That
a thaw in progress goes on by further VEF_THAW rows is log entry 78. -/
theorem freezeAndThaw : Obligations.FreezeAndThaw := by
  unfold Obligations.FreezeAndThaw
  refine ⟨fun engine s c hfw hc => ?freeze, fun engine s hc => exec_vefFreeze_idle hc, fun vef engine s hout =>
    ⟨exec_vefFreeze_out engine hout, exec_freezeKillExpiry_out vef hout, exec_freezeComplete_out vef hout,
      exec_vefThaw_out engine hout⟩, fun vef s hfw => ⟨fun hnone => ?notFreezing, fun f hf => ?freezing⟩,
    fun s v cmd killAt wake hloads _ => State.beginFreeze_facts v cmd killAt wake hloads,
    fun engine s hfw => ⟨fun t ht => exec_vefThaw_goesOn hfw ht, fun hfree => ⟨exec_vefThaw_idle hfw hfree, fun c hc => ?thaw⟩⟩⟩
  case freeze =>
    rw [exec_vefFreeze_head hfw hc]
    refine ⟨fun hbad => congrArg _ (State.freeze_refused hbad), fun hother hst => congrArg _ (State.freeze_freezing hother hst),
      fun hother hst hheld => congrArg _ (State.freeze_unheld hother hst hheld),
      fun hother hdisabled hresetting hfreezing hfrozen =>
        congrArg _ (State.freeze_begins hother hdisabled hresetting hfreezing hfrozen),
      fun h hother hst hheld => congrArg _ (State.freeze_answered hother hst hheld)⟩
  case notFreezing =>
    rw [exec_freezeComplete hfw, State.freezeDone_idle hnone]
    exact ⟨exec_freezeKillExpiry_idle hnone, rfl⟩
  case freezing =>
    rw [exec_freezeKillExpiry hfw hf, exec_freezeComplete hfw, State.freezeDone_freezing hf]
    refine ⟨fun hlt => if_neg (Nat.not_le.2 hlt), fun hle => if_pos hle, fun hnot => ?_, fun hst hdrained => ?_⟩
    · rw [if_neg (fun hboth => hnot.elim (fun hst => hst hboth.1) (fun hd => Bool.false_ne_true (hd.symm.trans hboth.2)))]
    · rw [if_pos ⟨hst, hdrained⟩]
  case thaw =>
    rw [exec_vefThaw_head hfw hfree hc]
    refine ⟨fun hbusy => if_pos hbusy, fun hfirst => ?_⟩
    rw [if_neg (Bool.eq_false_iff.1 hfirst)]
    refine ⟨fun h hv hst hheld => congrArg _ (State.thawBegin_frozen engine hv hst hheld), fun hnone => ?_⟩
    rw [State.thawBegin_unheld engine hnone]
    refine ⟨fun hcause => congrArg _ (if_pos hcause), fun hcause => ?_⟩
    rw [if_neg (not_not_intro hcause), State.thawArea, State.thawStart]

/-! ### Premises met -/

/-- A command of VEF 0 whose target is VEF 3. -/
def tenancyCmd (op : Nat) : Cmd := ⟨0, 0, 1, 0, 0, leBytes 0x28 op ++ leBytes 0x58 3, 0, 1, []⟩

/-- The command is at the head of DMA engine 2's queue; VEF 3 is in a state of its own. -/
def tenancyQueued (op st : Nat) : State :=
  { (vefIn st [(VEF_CTL.STATE, vActive, 0), (VEF_GLB.FREEZE_KILL_MS, 16, 0)]) with queue := [(.dma 2, tenancyCmd op)] }

theorem witness_freeze_begins : ∃ t, exec (.vefFreeze 2) (tenancyQueued 0x70 vActive) = .next t ∧
    t.rd VEF_CTL.STATE 3 = vFreezing ∧ (t.vrt 3).freeze = some ⟨some (tenancyCmd 0x70), 0, 16000000, false⟩ := by
  obtain ⟨hfreeze, -⟩ := freezeAndThaw
  obtain ⟨-, -, -, hbegins, -⟩ := hfreeze 2 (tenancyQueued 0x70 vActive) (tenancyCmd 0x70) (by decide +kernel) (by decide +kernel)
  exact ⟨_, hbegins (by decide +kernel) (by decide +kernel) (by decide +kernel) (by decide +kernel) (by decide +kernel),
    by decide +kernel, by decide +kernel⟩

theorem witness_freeze_refused : ∃ t, exec (.vefFreeze 2) (tenancyQueued 0x70 vDisabled) = .next t ∧ t.queue = [] ∧
    t.rd VEF_CTL.STATE 3 = vDisabled := by
  obtain ⟨hfreeze, -⟩ := freezeAndThaw
  obtain ⟨hrefused, -⟩ := hfreeze 2 (tenancyQueued 0x70 vDisabled) (tenancyCmd 0x70) (by decide +kernel) (by decide +kernel)
  exact ⟨_, hrefused (.inr (.inl (by decide +kernel))), by decide +kernel, by decide +kernel⟩

/-- VEF 3 is FREEZING, to be killed at `killAt`, with commands in flight. -/
def vefFreezing (killAt : Nat) (flight : List Job) : State :=
  { (vefIn vFreezing []).setV 3 { VefRt.rest with freeze := some ⟨none, 0, killAt, false⟩ } with flight := flight }

/-- VEF 3 renders still when its kill time comes. -/
theorem witness_freeze_killed :
    ∃ t, exec (.freezeKillExpiry 3) (vefFreezing 0 [({ tenancyCmd 0x50 with vef := 3 } : Cmd).job .render 0]) = .next t ∧
      Sparse.look none t.engKill 0 = some 0 := by
  obtain ⟨-, -, -, hrows, -⟩ := freezeAndThaw
  obtain ⟨-, hfreezing⟩ := hrows 3 (vefFreezing 0 [({ tenancyCmd 0x50 with vef := 3 } : Cmd).job .render 0]) (by decide +kernel)
  obtain ⟨-, hkill, -⟩ := hfreezing ⟨none, 0, 0, false⟩ (by decide +kernel)
  exact ⟨_, hkill (by decide +kernel), by decide +kernel⟩

theorem witness_freeze_ends : ∃ t : State, exec (.freezeComplete 3) (vefFreezing 5 []) = .next t.modeProgress ∧
    t.rd VEF_CTL.STATE 3 = vFrozen ∧ (t.vrt 3).freeze = none := by
  obtain ⟨-, -, -, hrows, -⟩ := freezeAndThaw
  obtain ⟨-, hfreezing⟩ := hrows 3 (vefFreezing 5 []) (by decide +kernel)
  obtain ⟨-, -, -, hends⟩ := hfreezing ⟨none, 0, 5, false⟩ (by decide +kernel)
  exact ⟨_, hends (by decide +kernel) (by decide +kernel), by decide +kernel, by decide +kernel⟩

/-- The device holds VEF 3 with no attachment and no command: its thaw ends in the same step. -/
theorem witness_thaw_held : ∃ t, exec (.vefThaw 2)
    ((tenancyQueued 0x71 vFrozen).setV 3 { VefRt.rest with held := some ⟨[], [], [], 0, true⟩ }) = .next t ∧
      t.rd VEF_CTL.STATE 3 = vActive ∧ t.thaws = [] := by
  obtain ⟨-, -, -, -, -, hthaw⟩ := freezeAndThaw
  obtain ⟨-, hfree⟩ := hthaw 2 ((tenancyQueued 0x71 vFrozen).setV 3 { VefRt.rest with held := some ⟨[], [], [], 0, true⟩ })
    (by decide +kernel)
  obtain ⟨-, hhead⟩ := hfree (by decide +kernel)
  obtain ⟨-, hfirst⟩ := hhead (tenancyCmd 0x71) (by decide +kernel)
  obtain ⟨hheld, -⟩ := hfirst (by decide +kernel)
  exact ⟨_, hheld ⟨[], [], [], 0, true⟩ (by decide) (by decide +kernel) (by decide +kernel), by decide +kernel, by decide +kernel⟩

/-- No save area stands at address 0. -/
theorem witness_thaw_refused : ∃ t, exec (.vefThaw 2) (tenancyQueued 0x71 vActive) = .next t ∧
    t.rd VEF_STAT.THAW_CAUSE 3 = 1 ∧ t.queue = [] := by
  obtain ⟨-, -, -, -, -, hthaw⟩ := freezeAndThaw
  obtain ⟨-, hfree⟩ := hthaw 2 (tenancyQueued 0x71 vActive) (by decide +kernel)
  obtain ⟨-, hhead⟩ := hfree (by decide +kernel)
  obtain ⟨-, hfirst⟩ := hhead (tenancyCmd 0x71) (by decide +kernel)
  obtain ⟨-, hnone⟩ := hfirst (by decide +kernel)
  obtain ⟨hrefused, -⟩ := hnone (.inr (.inl (by decide +kernel)))
  exact ⟨_, hrefused (by decide +kernel), by decide +kernel, by decide +kernel⟩

/-- The header of a save area of 256 bytes for the reset device: self-contained, with nothing kept. -/
def emptyAreaHeader : Bytes :=
  leBytes 8 (0x56454653 + 2 ^ 32) ++ State.reset.regBytes .sysId 0 0 4 ++ [0, 2] ++ leBytes 10 0 ++ leBytes 40 256

/-- VEF_THAW of VEF 3 from the 256 bytes at address 0, by the Cantle. -/
def areaCmd : Cmd := ⟨cantleSet, 0, 1, 0, 0, leBytes 0x20 0x71 ++ leBytes 8 256 ++ leBytes 0x58 3, 0, 1, []⟩

/-- VEF 3 is fresh, and the save area stands at address 0. -/
def areaThawed : State :=
  let area := emptyAreaHeader ++ sha384 emptyAreaHeader
  let s := vefIn vActive [(MEM_PC_IN_SVC.IN_SVC, 1, 0), (MEM_RGN.VALID, 1, 0), (MEM_RGN.LIMIT_RU, 12288, 0), (MEM_RGN.KEY, 0x80, 0)]
  { s with
    mem := { s.mem with keys := [(0x80, 1)], hbm := (area.zipIdx.map (fun x => (x.2, x.1))).filter (fun x => x.2 != 0) }
    queue := [(.dma 2, areaCmd)] }

theorem witness_thaw_area : ∃ t, exec (.vefThaw 2) areaThawed = .next t ∧ t.rd VEF_STAT.THAW_CAUSE 3 = 0 ∧ t.queue = [] ∧
    t.thaws = [] := by
  obtain ⟨-, -, -, -, -, hthaw⟩ := freezeAndThaw
  obtain ⟨-, hfree⟩ := hthaw 2 areaThawed (by decide +kernel)
  obtain ⟨-, hhead⟩ := hfree (by decide +kernel)
  obtain ⟨-, hfirst⟩ := hhead areaCmd (by decide +kernel)
  obtain ⟨-, hnone⟩ := hfirst (by decide +kernel)
  obtain ⟨-, hpasses⟩ := hnone (.inr (.inl (by decide +kernel)))
  refine ⟨_, hpasses (by decide +kernel), ?_⟩
  decide +kernel

end Sys2Proof.Machine
end

section
/-! The depot authorisation and attestation reports (12 R300, R311, 15 R391, R392). -/

namespace Sys2Proof.Machine

set_option Elab.async false

/-! ### A datagram at the firmware port (16 R409) -/

/-- A device-scope request: 56 bytes with its magic and version (15 R391). -/
def isAttestRequest (d : Bytes) : Bool := d.length == 56 && Bytes.num d 0 4 == 0x41545251 && Bytes.num d 4 2 == 1

theorem isAttestRequest_iff {d : Bytes} : isAttestRequest d = true ↔
    d.length = 56 ∧ Bytes.num d 0 4 = 0x41545251 ∧ Bytes.num d 4 2 = 1 := by
  simp only [isAttestRequest, Bool.and_eq_true, beq_iff_eq, and_assoc]

/-- The state once a report for the request is sent. -/
def State.attestSent (s : State) (d : Bytes) : State :=
  { (s.emit (.attestation (s.attestReport none (d.drop 8)))).drawn with fw := { s.fw with attested := some s.localNs } }

theorem State.attestDatagram_eq (s : State) (d : Bytes) : s.attestDatagram d =
    if (s.fwDown 8 || !s.outsidePark || !isAttestRequest d) = true then s
    else if (s.fw.attested).any (fun t => within t 100000000 s.localNs) = true then s.inc FW_STAT.ATT_DROP
    else s.attestSent d := by
  unfold State.attestDatagram isAttestRequest
  rw [Bool.not_and, Bool.not_and, ← Bool.or_assoc, ← Bool.or_assoc]
  rfl

theorem exec_firmwarePort_lost {s : State} {d : Bytes} (h : s.fwDown 8 = true ∨ s.outsidePark = false) :
    exec (.depotAuthorisation d) s = .next s ∧ exec (.attestationRequest d) s = .next s := by
  have hlost : (s.fwDown 8 || !s.outsidePark) = true := Bool.or_eq_true_iff.2 (h.imp_right (congrArg Bool.not))
  refine ⟨congrArg _ (if_pos hlost), congrArg _ ((s.attestDatagram_eq d).trans (if_pos ?_))⟩
  rw [hlost]
  rfl

theorem exec_attestationRequest_foreign {s : State} {d : Bytes} (h : isAttestRequest d = false) :
    exec (.attestationRequest d) s = .next s := by
  refine congrArg _ ((s.attestDatagram_eq d).trans (if_pos ?_))
  rw [h, Bool.not_false, Bool.or_true]

section
variable {s : State} {d : Bytes} (hfw : s.fwDown 8 = false) (hpark : s.outsidePark = true)
include hfw hpark

theorem exec_depotAuthorisation : exec (.depotAuthorisation d) s = .next (s.authorise d) :=
  congrArg _ (if_neg (by rw [hfw, hpark]; decide))

theorem exec_attestationRequest (h : isAttestRequest d = true) : exec (.attestationRequest d) s =
    .next (if (s.fw.attested).any (fun t => within t 100000000 s.localNs) = true then s.inc FW_STAT.ATT_DROP
      else s.attestSent d) := by
  refine congrArg _ ((s.attestDatagram_eq d).trans (if_neg ?_))
  rw [hfw, hpark, h]
  decide

end

theorem any_within_iff {o : Option Nat} {gap now : Nat} :
    o.any (fun t => within t gap now) = true ↔ ∃ k, o = some k ∧ now < k + gap := by
  cases o with
  | none => exact ⟨(nomatch ·), fun ⟨_, h, _⟩ => nomatch h⟩
  | some k => exact within_true.trans ⟨fun h => ⟨k, rfl, h⟩, fun ⟨_, hk, h⟩ => Option.some.inj hk ▸ h⟩

/-! ### The depot authorisation (12 R300) -/

theorem State.authorise_rejected {s : State} {d : Bytes} (h : s.authOk d = false) : s.authorise d = s.inc VEF_GLB.AUTH_REJECT :=
  if_pos (congrArg Bool.not h)

/-- The authorisation of a datagram: none where it carries REVOKE. -/
def authOf (d : Bytes) : Option Auth :=
  if (Bytes.num d 6 2).testBit 1 then none
  else some ⟨Bytes.num d 0x10 8, Bytes.num d 0x10 8 + Bytes.num d 0x18 4 * 1000000⟩

theorem authOf_isSome (d : Bytes) : (authOf d).isSome = !(Bytes.num d 6 2).testBit 1 := by
  unfold authOf
  cases (Bytes.num d 6 2).testBit 1 <;> rfl

/-- The state with the authorisation counter raised past a datagram's. -/
def State.authCounted (s : State) (d : Bytes) : State := { s with mode := { s.mode with authCounter := Bytes.num d 8 8 + 1 } }

theorem State.authorise_accepted {s : State} {d : Bytes} (h : s.authOk d = true) :
    s.authorise d = (s.authCounted d).setAuth (authOf d) ((Bytes.num d 6 2).testBit 0) := by
  refine if_neg ?_
  rw [h]
  decide

/-- DEPOT_AUTH, COOLANT and the window, before what their fall in DEPOT starts. -/
def State.authSet (s : State) (a : Option Auth) (coolant : Bool) : State :=
  (State.wr { s with mode := { s.mode with auth := a } } SYS_MODE.DEPOT_AUTH (b2n a.isSome)).wr SYS_MODE.COOLANT
    (b2n (a.isSome && coolant))

theorem State.cur_authSet (s : State) (a : Option Auth) (coolant : Bool) : (s.authSet a coolant).cur = s.cur := by
  rw [State.authSet, State.cur_wr _ _ _ _ _ (by decide), State.cur_wr _ _ _ _ _ (by decide)]
  rfl

/-- Outside DEPOT, and where DEPOT stays authorised and cooled, nothing but the flags and the window changes. -/
theorem State.setAuth_stays {s : State} {a : Option Auth} {coolant : Bool} (h : s.cur ≠ mDepot ∨ (a.isSome && coolant) = true) :
    s.setAuth a coolant = s.authSet a coolant := by
  refine if_neg (fun ⟨hcur, _, hfall⟩ => ?_)
  rcases h with h | h
  · exact h ((s.cur_authSet a coolant).symm.trans hcur)
  · rw [h] at hfall
    exact Bool.false_ne_true hfall

theorem b2n_flag (b : Bool) : (b2n b % 2 ^ 1 != 0) = b := by cases b <;> rfl

theorem State.authSet_facts (s : State) (a : Option Auth) (coolant : Bool) :
    (s.authSet a coolant).flag SYS_MODE.DEPOT_AUTH = a.isSome ∧
      (s.authSet a coolant).flag SYS_MODE.COOLANT = (a.isSome && coolant) ∧
      (s.authSet a coolant).mode = { s.mode with auth := a } ∧ (s.authSet a coolant).mem = s.mem := by
  simp (disch := decide) only [State.authSet, State.flag, State.rd_get, State.regs_wr, regGet_set_same, regGet_set_ne]
  exact ⟨b2n_flag _, b2n_flag _, rfl, rfl⟩

/-! ### The end of its window (12 R300) -/

theorem exec_depotAuthExpiry_none {s : State} (h : s.mode.auth = none) : exec .depotAuthExpiry s = .next s := by
  show execDepotAuthExpiry s = _
  simp only [execDepotAuthExpiry, h]

theorem exec_depotAuthExpiry {s : State} {a : Auth} (h : s.mode.auth = some a) : exec .depotAuthExpiry s =
    if inWindow a.issue s.vehicleNs a.until_ = true then .next s else .next (s.setAuth none false) := by
  show execDepotAuthExpiry s = _
  simp only [execDepotAuthExpiry, h]

theorem inWindow_iff {lo t hi : Nat} : inWindow lo t hi = true ↔ lo ≤ t ∧ t < hi := by
  simp only [inWindow, Bool.and_eq_true, decide_eq_true_eq]

/-! ### A VEF-scope report (15 R391) -/

theorem exec_attestationGo_denied {src : Source} {s : State} (h : (s.who src).fwHyp = false) :
    exec (.attestationGo src) s = .next (s.denied (s.who src) RegName.vefAtt.addr) := congrArg _ (State.asWho_neg s src _ _ _ h)

theorem exec_attestationGo {src : Source} {s : State} (h : (s.who src).fwHyp = true) :
    exec (.attestationGo src) s = .next s.attestGo := congrArg _ (State.asWho_pos s src _ _ _ h)

theorem State.attestGo_busy {s : State} (h : s.flag VEF_ATT.BUSY = true) : s.attestGo = s := if_pos h

/-- BUSY set and ERR clear. -/
def State.attestBusy (s : State) : State := (s.wr VEF_ATT.ERR 0).wr VEF_ATT.BUSY 1

theorem State.attestGo_free {s : State} (h : s.flag VEF_ATT.BUSY = false) : s.attestGo =
    if s.rd VEF_CTL.STATE (s.rd VEF_ATT.VEF) = vDisabled ∨ s.rd VEF_CTL.STATE (s.rd VEF_ATT.VEF) = vResetting then
      s.wr VEF_ATT.ERR 1
    else { s.attestBusy with fw :=
      { s.fw with attest := some (s.attestBusy.rd VEF_ATT.BUF / 4096 * 4096, s.rd VEF_ATT.VEF) } } :=
  if_neg (Bool.eq_false_iff.1 h)

theorem State.attestBusy_facts (s : State) : s.attestBusy.rd VEF_ATT.BUSY = 1 ∧ s.attestBusy.rd VEF_ATT.ERR = 0 ∧
    s.attestBusy.rd VEF_ATT.BUF = s.rd VEF_ATT.BUF := by
  simp (disch := decide) only [State.attestBusy, State.rd_get, State.regs_wr, regGet_set_same, regGet_set_ne]
  exact ⟨rfl, rfl, trivial⟩

theorem exec_attestationReportDone_idle {s : State} (h : s.fw.attest = none) : exec .attestationReportDone s = .next s := by
  show execAttestationReportDone s = _
  simp only [execAttestationReportDone, h]

/-- The state once the report asked for VEF `v` stands behind the nonce at `buf`. -/
def State.attestDone (s : State) (buf v : Nat) : State :=
  let t := ((s.memWrite (buf + 0x40) (s.attestReport (some v) (s.memRead buf 48))).drawn).wr VEF_ATT.BUSY 0
  { t with fw := { t.fw with attest := none } }

theorem exec_attestationReportDone {s : State} {buf v : Nat} (h : s.fw.attest = some (buf, v)) :
    exec .attestationReportDone s = if s.fwDown 8 = true then .next s else .next (s.attestDone buf v) := by
  show execAttestationReportDone s = _
  simp only [execAttestationReportDone, h]
  rfl

theorem State.busy_attestDone (s : State) (buf v : Nat) : (s.attestDone buf v).flag VEF_ATT.BUSY = false :=
  bne_eq_false_iff_eq.2 (State.rd_wr_same _ VEF_ATT.BUSY 0 0 0)

/-- Settles O49: the firmware port loses both datagrams while the identity service is out or the device in PARK, and goes by their
checks else; the expiry goes by the window, and a VEF-scope report by BUSY and the state of its VEF. -/
theorem depotAndAttestation : Obligations.DepotAndAttestation := by
  unfold Obligations.DepotAndAttestation
  refine ⟨fun d s => ⟨exec_firmwarePort_lost, fun hfw hpark => ⟨fun hbad => ?rejected, fun hok => ?accepted,
      fun hforeign => ?foreign, fun hlen hmagic hversion => ?request⟩⟩,
    fun s => ⟨exec_depotAuthExpiry_none, fun a ha => ?expiry⟩,
    fun src s => ⟨exec_attestationGo_denied, fun hwho => ?go⟩,
    fun s => ⟨exec_attestationReportDone_idle, fun buf v hask => ?done⟩⟩
  case rejected => rw [exec_depotAuthorisation hfw hpark, State.authorise_rejected hbad]
  case accepted =>
    rw [exec_depotAuthorisation hfw hpark, State.authorise_accepted hok]
    refine ⟨_, rfl, fun hstays => ?_⟩
    have hstays : (s.authCounted d).cur ≠ mDepot ∨ ((authOf d).isSome && (Bytes.num d 6 2).testBit 0) = true :=
      hstays.imp_right (fun ⟨hkept, hcool⟩ => by rw [authOf_isSome, hkept, hcool]; rfl)
    obtain ⟨hauth, hcoolant, hmode, -⟩ := (s.authCounted d).authSet_facts (authOf d) ((Bytes.num d 6 2).testBit 0)
    rw [State.setAuth_stays hstays, hauth, hcoolant, hmode, authOf_isSome]
    exact ⟨rfl, rfl, rfl, rfl⟩
  case foreign =>
    refine exec_attestationRequest_foreign (Bool.eq_false_iff.2 (fun hours => ?_))
    obtain ⟨hlen, hmagic, hversion⟩ := isAttestRequest_iff.1 hours
    exact hforeign.elim (fun h => h hlen) (fun h => h.elim (fun h => h hmagic) (fun h => h hversion))
  case request =>
    rw [exec_attestationRequest hfw hpark (isAttestRequest_iff.2 ⟨hlen, hmagic, hversion⟩)]
    refine ⟨fun k hk hsoon => congrArg _ (if_pos (any_within_iff.2 ⟨k, hk, hsoon⟩)), fun hlate => ?_⟩
    rw [if_neg (fun hany => by obtain ⟨k, hk, hsoon⟩ := any_within_iff.1 hany; exact Nat.not_lt.2 (hlate k hk) hsoon)]
    exact ⟨_, rfl, rfl, rfl, rfl, rfl⟩
  case expiry =>
    rw [exec_depotAuthExpiry ha]
    have hover : (a.until_ ≤ s.vehicleNs ∨ s.vehicleNs < a.issue) → ¬ inWindow a.issue s.vehicleNs a.until_ = true :=
      fun hleft hin => hleft.elim (fun h => Nat.not_lt.2 h (inWindow_iff.1 hin).2) (fun h => Nat.not_le.2 h (inWindow_iff.1 hin).1)
    refine ⟨fun hissue huntil => if_pos (inWindow_iff.2 ⟨hissue, huntil⟩), fun hleft hcur => ?_, fun hleft => if_neg (hover hleft)⟩
    obtain ⟨hauth, hcoolant, hmode, hmem⟩ := s.authSet_facts none false
    rw [if_neg (hover hleft), State.setAuth_stays (.inl hcur)]
    exact ⟨_, rfl, congrArg ModeSt.auth hmode, hauth, hcoolant, hmem⟩
  case go =>
    rw [exec_attestationGo hwho]
    refine ⟨fun hbusy => congrArg _ (State.attestGo_busy hbusy), fun hfree => ?_⟩
    rw [State.attestGo_free hfree]
    refine ⟨fun hout => congrArg _ (if_pos hout), fun hdisabled hresetting => ?_⟩
    obtain ⟨hbusy, herr, hbuf⟩ := s.attestBusy_facts
    rw [if_neg (not_or.2 ⟨hdisabled, hresetting⟩), hbuf]
    exact ⟨_, rfl, bne_iff_ne.2 (hbusy ▸ Nat.one_ne_zero), herr, rfl⟩
  case done =>
    rw [exec_attestationReportDone hask]
    refine ⟨fun hdown => if_pos hdown, fun hup => ?_⟩
    rw [if_neg (Bool.eq_false_iff.1 hup)]
    exact ⟨_, rfl, s.busy_attestDone buf v, rfl, rfl⟩

/-! ### Premises met -/

/-- Firmware runs, outside PARK, with a record and registers. -/
def identityRuns (record : Bytes) (regs : List (Fld × Nat × Nat)) : State :=
  { regs.foldl (fun (s : State) x => s.wr x.1 x.2.1 x.2.2) State.reset with
    fw := { State.reset.fw with running := true, record := record } }

theorem witness_authorisation_rejected : exec (.depotAuthorisation []) (identityRuns [] []) =
    .next ((identityRuns [] []).inc VEF_GLB.AUTH_REJECT) := by
  obtain ⟨hport, -⟩ := depotAndAttestation
  obtain ⟨-, hlive⟩ := hport [] (identityRuns [] [])
  obtain ⟨hrejected, -⟩ := hlive (by decide +kernel) (by decide +kernel)
  exact hrejected (by decide +kernel)

/-- An authorisation with COOLANT, counter 1 and a window of 1 s from 0 for the reset device, signed outside the model. -/
def coolantAuth : Bytes :=
  leBytes 6 (0x44504F54 + 2 ^ 32) ++ [1, 0] ++ leBytes 8 1 ++ leBytes 8 0 ++ leBytes 104 1000 ++
    beBytes 48 0x17ffa674c94aa9bc08c7b63c0904a0aef58afcdca98ce87eee79551bbad439ef51a2e91ee9bdfa7babd24cbd738c4eb6 ++
    beBytes 48 0x9d83359b51d69b36c385d887afd11a26f0b20372f768a4b8719adfa622a83e5ff3dbc07f87456dbb17a09d8f6283e915 ++ leBytes 32 0

/-- A record with the public key that the authorisation is signed for. -/
def coolantRecord : Bytes :=
  leBytes 0x48 0 ++
    beBytes 48 0x1c1a720938019f67103c2d8073980461b06ba892268943178b08881423934a391bbf2518a91c17581b7d1ba9166a1410 ++
    beBytes 48 0x93560bdcfffb1eb5e0204e92ebb20626186c2b2c721d34f43c9935bb56ada37cf8facef14f0c501954906ba0a7271527

theorem witness_depot_authorised : ∃ t, exec (.depotAuthorisation coolantAuth) (identityRuns coolantRecord []) = .next t ∧
    t.mode.authCounter = 2 ∧ t.flag SYS_MODE.DEPOT_AUTH = true ∧ t.flag SYS_MODE.COOLANT = true ∧
      t.mode.auth = some ⟨0, 1000000000⟩ := by
  obtain ⟨hport, -⟩ := depotAndAttestation
  obtain ⟨-, hlive⟩ := hport coolantAuth (identityRuns coolantRecord [])
  obtain ⟨-, haccepted, -⟩ := hlive (by decide +kernel) (by decide +kernel)
  obtain ⟨t, ht, hfacts⟩ := haccepted (by decide +kernel)
  obtain ⟨hcounter, hauth, hcool, hwindow⟩ := hfacts (.inl (by decide +kernel))
  exact ⟨t, ht, hcounter.trans (by decide +kernel), hauth.trans (by decide +kernel), hcool.trans (by decide +kernel),
    hwindow.trans (by decide +kernel)⟩

/-- An authorisation from 0 to 10 ns, at a vehicle time. -/
def authorisedUntil10 (now : Nat) : State :=
  { State.reset with
    mode := { State.reset.mode with auth := some ⟨0, 10⟩ }, time := { State.reset.time with acc := [(0, now * nsUnit)] } }

theorem witness_authorisation_stands : exec .depotAuthExpiry (authorisedUntil10 9) = .next (authorisedUntil10 9) := by
  obtain ⟨-, hexpiry, -⟩ := depotAndAttestation
  obtain ⟨-, hheld⟩ := hexpiry (authorisedUntil10 9)
  obtain ⟨hstands, -⟩ := hheld ⟨0, 10⟩ rfl
  exact hstands (by decide +kernel) (by decide +kernel)

theorem witness_authorisation_ends : ∃ t, exec .depotAuthExpiry (authorisedUntil10 10) = .next t ∧ t.mode.auth = none := by
  obtain ⟨-, hexpiry, -⟩ := depotAndAttestation
  obtain ⟨-, hheld⟩ := hexpiry (authorisedUntil10 10)
  obtain ⟨-, hends, -⟩ := hheld ⟨0, 10⟩ rfl
  obtain ⟨t, ht, hauth, -⟩ := hends (.inl (by decide +kernel)) (by decide +kernel)
  exact ⟨t, ht, hauth⟩

/-- A device-scope request with a nonce of zeros. -/
def attestRequest : Bytes := leBytes 56 (0x41545251 + 2 ^ 32)

theorem witness_device_report : ∃ t, exec (.attestationRequest attestRequest) (identityRuns [] []) = .next t ∧
    t.out ≠ [] ∧ t.fw.attested = some 0 := by
  obtain ⟨hport, -⟩ := depotAndAttestation
  obtain ⟨-, hlive⟩ := hport attestRequest (identityRuns [] [])
  obtain ⟨-, -, -, hours⟩ := hlive (by decide +kernel) (by decide +kernel)
  obtain ⟨-, hanswered⟩ := hours (by decide +kernel) (by decide +kernel) (by decide +kernel)
  obtain ⟨t, ht, hout, hsent, -⟩ := hanswered (fun k hk => nomatch hk)
  exact ⟨t, ht, hout ▸ List.cons_ne_nil _ _, hsent.trans (by decide +kernel)⟩

/-- VEF 0 is ACTIVE, and a report of it is asked for with its buffer at 0x2000. -/
theorem witness_report_begins :
    ∃ t, exec (.attestationGo .mgmt) (identityRuns [] [(VEF_CTL.STATE, vActive, 0), (VEF_ATT.BUF, 0x2004, 0)]) = .next t ∧
      t.flag VEF_ATT.BUSY = true ∧ t.fw.attest = some (0x2000, 0) := by
  obtain ⟨-, -, hgo, -⟩ := depotAndAttestation
  obtain ⟨-, hwho⟩ := hgo .mgmt (identityRuns [] [(VEF_CTL.STATE, vActive, 0), (VEF_ATT.BUF, 0x2004, 0)])
  obtain ⟨-, hfree⟩ := hwho (by decide +kernel)
  obtain ⟨-, hbegins⟩ := hfree (by decide +kernel)
  obtain ⟨t, ht, hbusy, -, hask⟩ := hbegins (by decide +kernel) (by decide +kernel)
  exact ⟨t, ht, hbusy, hask.trans (by decide +kernel)⟩

/-- A report asked for VEF 0. -/
def reportAsked : State := { (identityRuns [] [(VEF_ATT.BUSY, 1, 0)]) with
  fw := { (identityRuns [] []).fw with attest := some (0x2000, 0) } }

theorem witness_report_done : ∃ t, exec .attestationReportDone reportAsked = .next t ∧ t.flag VEF_ATT.BUSY = false ∧
    t.fw.attest = none := by
  obtain ⟨-, -, -, hdone⟩ := depotAndAttestation
  obtain ⟨-, hasked⟩ := hdone reportAsked
  obtain ⟨-, hends⟩ := hasked 0x2000 0 rfl
  obtain ⟨t, ht, hbusy, hask, -⟩ := hends (by decide +kernel)
  exact ⟨t, ht, hbusy, hask⟩

end Sys2Proof.Machine
end

section
/-! Host timers, the A-PHY back channel and the PCIe function (12 R296, 16 R408, 17 R427, R429–R432). -/

namespace Sys2Proof.Machine

set_option Elab.async false

/-! ### Host timers (17 R427) -/

theorem exec_mtimecmpMatch (hart : Fin 16) (s : State) : exec (.mtimecmpMatch hart) s =
    if s.rd HOSTC_MTIMECMP.CMP hart ≤ s.localNs ∧ (!s.gw.mtip.contains hart.val) = true then
      .next { s with out := .mtip hart :: s.out, gw := { s.gw with mtip := hart.val :: s.gw.mtip } }
    else .next s := rfl

/-! ### GO of an I2C transaction (17 R430, R431) -/

section
variable {src : Source} {r : Fin 12} {s : State}

theorem exec_i2cGo_denied (h : (s.who src).fwHyp = false) :
    exec (.i2cGo src r) s = .next (s.denied (s.who src) (RegName.aphyI2c.addr r)) := congrArg _ (State.asWho_neg s src _ _ _ h)

theorem exec_i2cGo (h : (s.who src).fwHyp = true) : exec (.i2cGo src r) s = .next (s.i2cGo r) :=
  congrArg _ (State.asWho_pos s src _ _ _ h)

end

/-- A transaction sent: BUSY set, its time kept, the bytes to write on their way. -/
def State.i2cSent (s : State) (r : Nat) : State :=
  { (s.wr APHY_I2C.BUSY 1 r) with
    out := .i2c r (s.rd APHY_I2C.ADDR r) (s.rd APHY_I2C.RLEN r) (leBytes (s.rd APHY_I2C.WLEN r) (s.rd APHY_I2C.WDATA r)) :: s.out,
    gw := { s.gw with i2c := Sparse.put none s.gw.i2c r (some s.localNs) } }

theorem State.i2cGo_busy {s : State} {r : Nat} (h : s.flag APHY_I2C.BUSY r = true) : s.i2cGo r = s := if_pos h

theorem State.i2cGo_down {s : State} {r : Nat} (hfree : s.flag APHY_I2C.BUSY r = false) (hdown : s.flag APHY_LINK.UP r = false) :
    s.i2cGo r = s.wr APHY_I2C.RESULT 4 r := by
  simp only [State.i2cGo, hfree, hdown, Bool.not_false, Bool.false_eq_true, if_false, if_true]

theorem State.i2cGo_sent {s : State} {r : Nat} (hfree : s.flag APHY_I2C.BUSY r = false) (hup : s.flag APHY_LINK.UP r = true) :
    s.i2cGo r = s.i2cSent r := by
  simp only [State.i2cGo, hfree, hup, Bool.not_true, Bool.false_eq_true, if_false]
  rfl

theorem State.i2c_i2cSent (s : State) (r : Nat) : Sparse.look none (s.i2cSent r).gw.i2c r = some s.localNs :=
  Sparse.look_put_same none s.gw.i2c r (some s.localNs)

theorem State.busy_i2cSent (s : State) (r : Nat) : (s.i2cSent r).flag APHY_I2C.BUSY r = true := by
  have hbusy : (s.i2cSent r).rd APHY_I2C.BUSY r = 1 := State.rd_wr_same s APHY_I2C.BUSY 1 r 0
  rw [State.flag, hbusy]
  rfl

/-! ### The end of a transaction (17 R431, R432) -/

/-- BUSY falls, the result is stored and the transaction's time forgotten. -/
theorem State.i2cEnd_facts (s : State) (r result : Nat) (data : Bytes) :
    (s.i2cEnd r result data).flag APHY_I2C.BUSY r = false ∧ (s.i2cEnd r result data).rd APHY_I2C.RESULT r = result % 2 ^ 3 ∧
      (s.i2cEnd r result data).rd APHY_I2C.RDATA r = leNat (data.take (s.rd APHY_I2C.RLEN r)) % 2 ^ APHY_I2C.RDATA.w ∧
      Sparse.look none (s.i2cEnd r result data).gw.i2c r = none := by
  simp (disch := decide) only [State.i2cEnd, State.flag, State.rd_get, State.regs_wr, regGet_set_same, regGet_set_ne]
  exact ⟨rfl, rfl, trivial, Sparse.look_put_same _ _ _ _⟩

theorem exec_i2cDone {r : Fin 12} {res : Fin 8} (d : Bytes) {s : State} (hbusy : s.flag APHY_I2C.BUSY r = true)
    (hlow : 1 ≤ res.val) (hhigh : res.val ≤ 3) : exec (.i2cDone r res d) s = .next (s.i2cEnd r res d) :=
  if_pos ⟨hbusy, hlow, hhigh⟩

theorem exec_i2cDone_ignored {r : Fin 12} {res : Fin 8} (d : Bytes) {s : State}
    (h : s.flag APHY_I2C.BUSY r = false ∨ res = 0 ∨ 3 < res.val) : exec (.i2cDone r res d) s = .next s := by
  refine if_neg (fun ⟨hbusy, hlow, hhigh⟩ => ?_)
  rcases h with h | rfl | h
  · exact Bool.false_ne_true (h.symm.trans hbusy)
  · exact Nat.not_succ_le_zero 0 hlow
  · exact Nat.not_lt.2 hhigh h

theorem exec_i2cTimeout (r : Fin 12) (s : State) : exec (.i2cTimeout r) s =
    if (Sparse.look none s.gw.i2c r).any (fun t => !within t 10000000 s.localNs) = true then .next (s.i2cCut r 5)
    else .next s := rfl

/-- The time that has passed since an event that is remembered reaches a gap. -/
theorem any_not_within_iff {o : Option Nat} {gap now : Nat} :
    o.any (fun t => !within t gap now) = true ↔ ∃ k, o = some k ∧ k + gap ≤ now := by
  cases o with
  | none => exact ⟨(nomatch ·), fun ⟨_, h, _⟩ => nomatch h⟩
  | some k =>
    rw [Option.any_some, Bool.not_eq_true', within_false]
    exact ⟨fun h => ⟨k, rfl, h⟩, fun ⟨_, hk, h⟩ => Option.some.inj hk ▸ h⟩

/-! ### The link of a receiver (17 R430, R432) -/

section
variable {r : Fin 12} {s : State}

theorem exec_aphyLinkLock_ignored {gear : Fin 8} (h : gear = 0 ∨ 5 < gear.val) : exec (.aphyLinkLock r gear) s = .next s :=
  if_pos (h.imp_left (congrArg Fin.val))

/-- A locked link, before the lock is counted or remembered. -/
def State.receiverLocked (s : State) (r gear : Nat) : State := (s.wr APHY_LINK.UP 1 r).wr APHY_LINK.GEAR gear r

/-- A lock that is not the first since reset counts as a retrain; the first is remembered. -/
def State.lockCounted (s : State) (r : Nat) : State :=
  if s.gw.aphyLocked.contains r then s.inc APHY_LINK.RETRAINS r
  else { s with gw := { s.gw with aphyLocked := r :: s.gw.aphyLocked } }

theorem exec_aphyLinkLock {gear : Fin 8} (hlow : 1 ≤ gear.val) (hhigh : gear.val ≤ 5) : exec (.aphyLinkLock r gear) s =
    .next (((s.receiverLocked r gear).lockCounted r).emit (.gpio r (s.rd APHY_LINK.GPIO_OUT r))) :=
  if_neg (not_or.2 ⟨Nat.one_le_iff_ne_zero.1 hlow, Nat.not_lt.2 hhigh⟩)

/-- A lost link. -/
def State.receiverLost (s : State) (r : Nat) : State := (s.wr APHY_LINK.UP 0 r).wr APHY_LINK.GEAR 0 r

theorem exec_aphyLinkLoss : exec (.aphyLinkLoss r) s =
    .next (if s.flag APHY_I2C.BUSY r = true then (s.receiverLost r).i2cCut r 4 else s.receiverLost r) := rfl

end

theorem State.receiverLocked_facts (s : State) (r gear : Nat) : (s.receiverLocked r gear).rd APHY_LINK.UP r = 1 ∧
    (s.receiverLocked r gear).rd APHY_LINK.GEAR r = gear % 2 ^ 3 ∧
    (s.receiverLocked r gear).rd APHY_LINK.RETRAINS r = s.rd APHY_LINK.RETRAINS r := by
  simp (disch := decide) only [State.receiverLocked, State.rd_get, State.regs_wr, regGet_set_same, regGet_set_ne]
  exact ⟨rfl, rfl, trivial⟩

section
variable {s : State} {r : Nat}

theorem State.rd_lockCounted (f : Fld) (h : (f.placed && (f.spot != APHY_LINK.RETRAINS.spot)) = true) :
    (s.lockCounted r).rd f r = s.rd f r := by
  simp only [Bool.and_eq_true, bne_iff_ne] at h
  unfold State.lockCounted
  split
  · exact State.rd_inc_ne s APHY_LINK.RETRAINS f r 0 r 0 (by decide) h.1 h.2
  · rfl

theorem State.out_lockCounted : (s.lockCounted r).out = s.out := by
  unfold State.lockCounted
  split <;> rfl

theorem State.lockCounted_again (h : r ∈ s.gw.aphyLocked) : s.lockCounted r = s.inc APHY_LINK.RETRAINS r :=
  if_pos (List.contains_iff_mem.2 h)

theorem State.lockCounted_first (h : r ∉ s.gw.aphyLocked) :
    s.lockCounted r = { s with gw := { s.gw with aphyLocked := r :: s.gw.aphyLocked } } :=
  if_neg (fun hin => h (List.contains_iff_mem.1 hin))

end

/-! ### The PCIe function (12 R296, 16 R408, 17 R429) -/

theorem exec_pcieLinkChange (up : Bool) (sp : Fin 8) (w : Fin 16) (s : State) : exec (.pcieLinkChange up sp w) s =
    .next (((s.wr PCIE_STAT.LINK_UP (b2n up)).wr PCIE_STAT.SPEED (if up then sp else 0)).wr PCIE_STAT.WIDTH
      (if up then w else 0)) := rfl

section
variable {s : State}

theorem exec_pciePerstChange_root (high : Bool) (h : s.flag SYS_STRAP.PCIE_MODE = false) :
    exec (.pciePerstChange high) s = .next s := if_pos (congrArg Bool.not h)

theorem exec_pciePerstChange_low (h : s.flag SYS_STRAP.PCIE_MODE = true) : exec (.pciePerstChange false) s =
    .next { s.noVfs with mode := { s.mode with perstHigh := false } } := if_neg (by rw [h]; decide)

theorem exec_pciePerstChange_high (h : s.flag SYS_STRAP.PCIE_MODE = true) : exec (.pciePerstChange true) s =
    if s.mode.perstHigh = true then .next s else .next { s with mode := { s.mode with perstHigh := true, perstAt := s.localNs } } :=
  if_neg (by rw [h]; decide)

/-- The endpoint answers nothing: outside endpoint mode, in PERST or in PARK. -/
def State.endpointDown (s : State) : Bool := !s.flag SYS_STRAP.PCIE_MODE || !s.mode.perstHigh || !s.outsidePark

theorem State.endpointDown_iff : s.endpointDown = true ↔
    s.flag SYS_STRAP.PCIE_MODE = false ∨ s.mode.perstHigh = false ∨ s.outsidePark = false := by
  simp only [State.endpointDown, Bool.or_eq_true, Bool.not_eq_true', or_assoc]

/-- Firmware does not run in a mode after boot yet. -/
def State.bootGoesOn (s : State) : Bool := !s.fw.running || s.cur == mBoot

theorem State.bootGoesOn_iff : s.bootGoesOn = true ↔ s.fw.running = false ∨ s.cur = mBoot := by
  simp only [State.bootGoesOn, Bool.or_eq_true, Bool.not_eq_true', beq_iff_eq]

theorem exec_pcieConfigRequest_down (q : PcieRequest) (h : s.endpointDown = true) :
    exec (.pcieConfigRequest q) s = .next (s.emit (.pcieAnswer none)) := if_pos h

section
variable (hup : ¬ s.endpointDown = true)
include hup

theorem exec_pcieConfigRequest_retry (q : PcieRequest) (h : s.bootGoesOn = true) :
    exec (.pcieConfigRequest q) s = .next (s.emit .pcieRetry) := (if_neg hup).trans (if_pos h)

variable (hrun : ¬ s.bootGoesOn = true)
include hrun

theorem exec_pcieConfigRequest_read (f : Fin 128) (item : PcieItem) : exec (.pcieConfigRequest (.read f item)) s =
    .next (s.emit (.pcieAnswer (if s.functionOn f = true then some (s.pcieItem f item) else none))) :=
  (if_neg hup).trans (if_neg hrun)

theorem exec_pcieConfigRequest_setVfs (n : Fin 128) (e : Bool) : exec (.pcieConfigRequest (.setVfs n e)) s =
    .next (State.emit { s with gw := { s.gw with numVfs := if s.gw.vfEnable = true then s.gw.numVfs else n, vfEnable := e } }
      (.pcieAnswer (some 0))) :=
  (if_neg hup).trans (if_neg hrun)

theorem exec_pcieConfigRequest_reset (f : Fin 128) : exec (.pcieConfigRequest (.reset f)) s =
    if (!s.functionOn f) = true then .next (s.emit (.pcieAnswer none))
    else if f.val = 0 then .next (s.noVfs.emit (.pcieAnswer (some 0)))
    else .next ((s.resetVef f).emit (.pcieAnswer (some 0))) :=
  (if_neg hup).trans (if_neg hrun)

end

/-- The physical function is there, and so is a virtual one within NumVFs while VF Enable is 1. -/
theorem State.functionOn_present {f : Fin 128} (h : f = 0 ∨ (s.gw.vfEnable = true ∧ f.val ≤ s.gw.numVfs)) :
    s.functionOn f = true := by
  by_cases hf : f.val = 0
  · rw [hf]
    rfl
  · exact (State.functionOn_virtual hf).2 (h.resolve_left (fun h0 => hf (congrArg Fin.val h0)))

/-- A virtual function beyond NumVFs, or with VF Enable clear, is not there. -/
theorem State.functionOn_absent {f : Nat} (hf : 0 < f) (h : s.gw.vfEnable = false ∨ s.gw.numVfs < f) : s.functionOn f = false := by
  refine Bool.eq_false_iff.2 (fun hon => ?_)
  obtain ⟨hen, hnum⟩ := (State.functionOn_virtual (Nat.ne_of_gt hf)).1 hon
  exact h.elim (fun h => Bool.false_ne_true (h.symm.trans hen)) (fun h => Nat.not_lt.2 hnum h)

end

/-- Settles O59: each row goes by the condition that its rule names; the configuration space goes by the mode, PERST and firmware
before it goes by the function. That a first lock is told from a retrain is log entry 101, and that NumVFs and VF Enable are taken
by the physical function log entry 102. -/
theorem outerInterfaces : Obligations.OuterInterfaces := by
  unfold Obligations.OuterInterfaces
  refine ⟨fun hart s => ⟨fun hearly => ?early, fun hdue hfirst => ?due⟩,
    fun src r s => ⟨exec_i2cGo_denied, fun hwho => ?go⟩,
    fun r res d s => ⟨exec_i2cDone_ignored d, fun hbusy hlow hhigh => ?done⟩,
    fun r s => ⟨fun hsoon => ?soon, fun k hk hlate => ?late⟩,
    fun r gear s => ⟨exec_aphyLinkLock_ignored, fun hlow hhigh => ?lock, fun hfree => ?loss, fun hbusy => ?cut⟩,
    fun sp w s => ⟨exec_pcieLinkChange true sp w s, exec_pcieLinkChange false sp w s⟩,
    fun s => ⟨fun hroot => ?root, fun hmode => ?perst⟩, fun s hmode => ⟨fun q hdown => ?down, fun hperst hpark => ?config⟩⟩
  case early =>
    refine (exec_mtimecmpMatch hart s).trans (if_neg (fun ⟨hle, hnew⟩ => ?_))
    rcases hearly with h | h
    · exact Nat.not_lt.2 hle h
    · rw [List.contains_iff_mem.2 h] at hnew
      exact Bool.false_ne_true hnew
  case due =>
    have hnew : s.gw.mtip.contains hart.val = false := Bool.eq_false_iff.2 (fun h => hfirst (List.contains_iff_mem.1 h))
    exact (exec_mtimecmpMatch hart s).trans (if_pos ⟨hdue, congrArg Bool.not hnew⟩)
  case go =>
    rw [exec_i2cGo hwho]
    refine ⟨fun hbusy => congrArg _ (State.i2cGo_busy hbusy), fun hfree hdown => congrArg _ (State.i2cGo_down hfree hdown),
      fun hfree hup => ⟨_, congrArg _ (State.i2cGo_sent hfree hup), s.busy_i2cSent r, s.i2c_i2cSent r, rfl⟩⟩
  case done =>
    obtain ⟨hidle, hresult, hdata, hgone⟩ := s.i2cEnd_facts r res d
    exact ⟨_, exec_i2cDone d hbusy hlow hhigh, hidle, hresult.trans (Nat.mod_eq_of_lt res.isLt), hdata, hgone⟩
  case soon =>
    refine (exec_i2cTimeout r s).trans (if_neg (fun hany => ?_))
    obtain ⟨k, hk, hlate⟩ := any_not_within_iff.1 hany
    exact Nat.not_lt.2 hlate (hsoon k hk)
  case late =>
    obtain ⟨hidle, hresult, -, hgone⟩ := s.drawn.i2cEnd_facts r 5
      ((List.range (s.rd APHY_I2C.RLEN r)).map (Config.undefinedByte s.freeCount))
    exact ⟨_, (exec_i2cTimeout r s).trans (if_pos (any_not_within_iff.2 ⟨k, hk, hlate⟩)), hidle, hresult, hgone⟩
  case lock =>
    obtain ⟨hup, hgear, hretrains⟩ := s.receiverLocked_facts r gear
    rw [exec_aphyLinkLock hlow hhigh]
    refine ⟨_, rfl, ?_, ?_, congrArg _ State.out_lockCounted, fun hagain => ?_, fun hfirst => ?_⟩
    · rw [State.flag, State.rd_emit, State.rd_lockCounted _ (by decide), hup]
      rfl
    · rw [State.rd_emit, State.rd_lockCounted _ (by decide), hgear]
      exact Nat.mod_eq_of_lt gear.isLt
    · rw [State.rd_emit, State.lockCounted_again (s := s.receiverLocked r gear) hagain, State.rd_inc_same, hretrains]
    · rw [State.rd_emit, State.lockCounted_first (s := s.receiverLocked r gear) hfirst]
      exact ⟨hretrains, rfl⟩
  case loss =>
    rw [exec_aphyLinkLoss, if_neg (Bool.eq_false_iff.1 hfree)]
    rfl
  case cut =>
    rw [exec_aphyLinkLoss, if_pos hbusy]
    obtain ⟨hidle, hresult, -⟩ := State.i2cEnd_facts (s.receiverLost r).drawn r 4 _
    exact ⟨_, rfl, hidle, hresult⟩
  case root =>
    exact ⟨fun high => exec_pciePerstChange_root high hroot,
      fun q => exec_pcieConfigRequest_down q (State.endpointDown_iff.2 (.inl hroot))⟩
  case perst =>
    rw [exec_pciePerstChange_low hmode, exec_pciePerstChange_high hmode]
    exact ⟨rfl, fun hhigh => if_pos hhigh, fun hlow => if_neg (Bool.eq_false_iff.1 hlow)⟩
  case down => exact exec_pcieConfigRequest_down q (State.endpointDown_iff.2 (.inr hdown))
  case config =>
    have hup : ¬ s.endpointDown = true := by
      rw [State.endpointDown_iff, hmode, hperst, hpark]
      decide
    refine ⟨fun q hboot => exec_pcieConfigRequest_retry hup q (State.bootGoesOn_iff.2 hboot), fun hfw hcur => ?_⟩
    have hrun : ¬ s.bootGoesOn = true := by
      rw [State.bootGoesOn_iff, hfw]
      exact not_or.2 ⟨by decide, hcur⟩
    simp only [exec_pcieConfigRequest_read hup hrun, exec_pcieConfigRequest_setVfs hup hrun, exec_pcieConfigRequest_reset hup hrun]
    refine ⟨fun f hf habsent => ?_, fun f item hthere => ?_, ⟨rfl, rfl, rfl, rfl, rfl, rfl, rfl, rfl⟩, fun n e hoff => ?_,
      fun n e hon => ?_, rfl, fun f hf hen hnum => ?_⟩
    · rw [State.functionOn_absent hf habsent]
      exact ⟨fun _ => rfl, rfl⟩
    · rw [State.functionOn_present hthere, if_pos rfl]
    · rw [hoff]
      rfl
    · rw [hon]
      rfl
    · rw [State.functionOn_present (.inr ⟨hen, hnum⟩), if_neg (Nat.ne_of_gt hf)]
      rfl

/-! ### Premises met -/

/-- Hart 2's compare value is 5 ns, at a local time. -/
def compareAt5 (now : Nat) : State :=
  { (State.reset.wr HOSTC_MTIMECMP.CMP 5 2) with time := { State.reset.time with acc := [(3, now * nsUnit)] } }

theorem witness_timer_early : exec (.mtimecmpMatch 2) (compareAt5 4) = .next (compareAt5 4) := by
  obtain ⟨htimer, -⟩ := outerInterfaces
  exact (htimer 2 (compareAt5 4)).1 (.inl (by decide +kernel))

theorem witness_timer_pending : ∃ t, exec (.mtimecmpMatch 2) (compareAt5 5) = .next t ∧ t.gw.mtip = [2] := by
  obtain ⟨htimer, -⟩ := outerInterfaces
  exact ⟨_, (htimer 2 (compareAt5 5)).2 (by decide +kernel) (by decide +kernel), by decide +kernel⟩

/-- Receiver 4's link is up, with fields of its registers set. -/
def receiverUp (regs : List (Fld × Nat)) : State :=
  regs.foldl (fun (s : State) x => s.wr x.1 x.2 4) (State.reset.wr APHY_LINK.UP 1 4)

/-- Two bytes are written to address 0x36. -/
theorem witness_i2c_sent :
    ∃ t, exec (.i2cGo .mgmt 4) (receiverUp [(APHY_I2C.ADDR, 0x36), (APHY_I2C.WLEN, 2), (APHY_I2C.WDATA, 0x1234)]) = .next t ∧
      t.flag APHY_I2C.BUSY 4 = true ∧ t.out = [.i2c 4 0x36 0 [0x34, 0x12]] := by
  obtain ⟨-, hgo, -⟩ := outerInterfaces
  obtain ⟨-, hwho⟩ := hgo .mgmt 4 (receiverUp [(APHY_I2C.ADDR, 0x36), (APHY_I2C.WLEN, 2), (APHY_I2C.WDATA, 0x1234)])
  obtain ⟨-, -, hsent⟩ := hwho (by decide +kernel)
  obtain ⟨t, ht, hbusy, -, hout⟩ := hsent (by decide +kernel) (by decide +kernel)
  exact ⟨t, ht, hbusy, hout.trans (by decide +kernel)⟩

/-- One byte of two is kept, for RLEN is 1. -/
theorem witness_i2c_done : ∃ t, exec (.i2cDone 4 1 [7, 8]) (receiverUp [(APHY_I2C.BUSY, 1), (APHY_I2C.RLEN, 1)]) = .next t ∧
    t.rd APHY_I2C.RESULT 4 = 1 ∧ t.rd APHY_I2C.RDATA 4 = 7 := by
  obtain ⟨-, -, hdone, -⟩ := outerInterfaces
  obtain ⟨-, hends⟩ := hdone 4 1 [7, 8] (receiverUp [(APHY_I2C.BUSY, 1), (APHY_I2C.RLEN, 1)])
  obtain ⟨t, ht, -, hresult, hdata, -⟩ := hends (by decide +kernel) (by decide) (by decide)
  exact ⟨t, ht, hresult, hdata.trans (by decide +kernel)⟩

/-- A transaction begun at 0, at a local time. -/
def i2cOpen (now : Nat) : State :=
  { (receiverUp [(APHY_I2C.BUSY, 1)]) with
    gw := { State.reset.gw with i2c := [(4, some 0)] }, time := { State.reset.time with acc := [(3, now * nsUnit)] } }

theorem witness_i2c_timeout : ∃ t, exec (.i2cTimeout 4) (i2cOpen 10000000) = .next t ∧ t.rd APHY_I2C.RESULT 4 = 5 := by
  obtain ⟨-, -, -, htimeout, -⟩ := outerInterfaces
  obtain ⟨-, hends⟩ := htimeout 4 (i2cOpen 10000000)
  obtain ⟨t, ht, -, hresult, -⟩ := hends 0 (by decide +kernel) (by decide +kernel)
  exact ⟨t, ht, hresult⟩

theorem witness_link_lost : ∃ t, exec (.aphyLinkLoss 4) (i2cOpen 0) = .next t ∧ t.rd APHY_I2C.RESULT 4 = 4 := by
  obtain ⟨-, -, -, -, hlink, -⟩ := outerInterfaces
  obtain ⟨-, -, -, hcut⟩ := hlink 4 1 (i2cOpen 0)
  obtain ⟨t, ht, -, hresult⟩ := hcut (by decide +kernel)
  exact ⟨t, ht, hresult⟩

/-- Receiver 4 has locked before. -/
def lockedBefore : State := { State.reset with gw := { State.reset.gw with aphyLocked := [4] } }

theorem witness_retrain : ∃ t, exec (.aphyLinkLock 4 5) lockedBefore = .next t ∧ t.rd APHY_LINK.GEAR 4 = 5 ∧
    t.rd APHY_LINK.RETRAINS 4 = 1 := by
  obtain ⟨-, -, -, -, hlink, -⟩ := outerInterfaces
  obtain ⟨-, hlock, -⟩ := hlink 4 5 lockedBefore
  obtain ⟨t, ht, -, hgear, -, hagain, -⟩ := hlock (by decide) (by decide)
  exact ⟨t, ht, hgear, (hagain (by decide +kernel)).trans (by decide +kernel)⟩

/-- The endpoint in DRIVE with firmware running, and two virtual functions. -/
def endpointDrives (vfEnable : Bool) : State :=
  { ((State.reset.wr SYS_STRAP.PCIE_MODE 1).wr SYS_MODE.CURRENT mDrive) with
    fw := { State.reset.fw with running := true }, gw := { State.reset.gw with numVfs := 2, vfEnable := vfEnable } }

/-- The reset state has its boot in progress. -/
theorem witness_config_retry : exec (.pcieConfigRequest (.read 0 .totalVfs)) (State.reset.wr SYS_STRAP.PCIE_MODE 1) =
    .next ((State.reset.wr SYS_STRAP.PCIE_MODE 1).emit .pcieRetry) := by
  obtain ⟨-, -, -, -, -, -, -, hconfig⟩ := outerInterfaces
  obtain ⟨-, hup⟩ := hconfig (State.reset.wr SYS_STRAP.PCIE_MODE 1) (by decide +kernel)
  obtain ⟨hretry, -⟩ := hup (by decide +kernel) (by decide +kernel)
  exact hretry _ (.inl (by decide +kernel))

theorem witness_config_answers :
    exec (.pcieConfigRequest (.read 0 .totalVfs)) (endpointDrives true) =
      .next ((endpointDrives true).emit (.pcieAnswer (some 127))) ∧
    exec (.pcieConfigRequest (.read 3 .numVfs)) (endpointDrives true) = .next ((endpointDrives true).emit (.pcieAnswer none)) ∧
    exec (.pcieConfigRequest (.reset 2)) (endpointDrives true) =
      .next (((endpointDrives true).resetVef 2).emit (.pcieAnswer (some 0))) := by
  obtain ⟨-, -, -, -, -, -, -, hconfig⟩ := outerInterfaces
  obtain ⟨-, hup⟩ := hconfig (endpointDrives true) (by decide +kernel)
  obtain ⟨-, hready⟩ := hup (by decide +kernel) (by decide +kernel)
  obtain ⟨habsent, hthere, -, -, -, -, hreset⟩ := hready (by decide +kernel) (by decide +kernel)
  exact ⟨hthere 0 .totalVfs (.inl rfl), (habsent 3 (by decide) (.inr (by decide +kernel))).1 .numVfs,
    hreset 2 (by decide) (by decide +kernel) (by decide +kernel)⟩

theorem witness_vfs_enabled : ∃ t, exec (.pcieConfigRequest (.setVfs 5 true)) (endpointDrives false) = .next t ∧
    t.gw.numVfs = 5 ∧ t.gw.vfEnable = true := by
  obtain ⟨-, -, -, -, -, -, -, hconfig⟩ := outerInterfaces
  obtain ⟨-, hup⟩ := hconfig (endpointDrives false) (by decide +kernel)
  obtain ⟨-, hready⟩ := hup (by decide +kernel) (by decide +kernel)
  obtain ⟨-, -, -, hset, -⟩ := hready (by decide +kernel) (by decide +kernel)
  exact ⟨_, hset 5 true (by decide +kernel), rfl, rfl⟩

end Sys2Proof.Machine
end

section
/-! One step of the device, and local monotonic time over it (14 R337, R338). -/

namespace Sys2Proof.Machine

set_option Elab.async false

/-- Settles O1: a step takes the command at the front; that commands wait in a queue is log entry 1. -/
theorem stepRunsFrontCommand : Obligations.StepRunsFrontCommand := by
  unfold Obligations.StepRunsFrontCommand
  intro s c rest
  exact step_front (s := { s with pending := c :: rest }) rfl

/-- Settles O3: the relation that every operation carries holds of the answer, which is a next state (log entry 106), and leaves
the queue alone. -/
theorem everyCommandCompletes : Obligations.EveryCommandCompletes := by
  unfold Obligations.EveryCommandCompletes
  intro c s
  obtain ⟨t, ht, k⟩ := exec_total c s
  exact ⟨t, ht, k.pending⟩

/-- A tick advances local monotonic time by its own increment, and no step reaches it (14 R338, R342). -/
theorem State.localTime_tick (s : State) : Sparse.look 0 s.tick.time.acc 3 = Sparse.look 0 s.time.acc 3 +
    (if s.flag TB_STAT.PARK_CLK then s.rd TB_INC.INC 3 * 1953125 else s.rd TB_INC.INC 3 * 128) := (tick_holds s).2

/-- Settles O2: with nothing in the queue a step is a tick (log entry 2), and a tick takes no command in. -/
theorem idleStepIsTick : Obligations.IdleStepIsTick := by
  unfold Obligations.IdleStepIsTick
  intro s hs
  have hqueue : s.tick.pending = s.pending := (Keeps.tick (Keeps.refl false s)).pending
  exact ⟨s.tick, step_idle hs, hqueue.trans hs, s.localTime_tick⟩

/-- Settles O9: the relation that every operation but a reset carries keeps the local base, and a tick advances it. -/
theorem localTimeOnlyTicks : Obligations.LocalTimeOnlyTicks := by
  unfold Obligations.LocalTimeOnlyTicks
  refine ⟨fun c s t hc h => ?command, fun s t hs h => ?tick⟩
  case command => exact (keeps_of_exec_next hc h).time rfl
  case tick =>
    rw [eq_tick_of_step_idle hs h]
    exact s.localTime_tick

/-! ### Premises met -/

theorem witness_idle_step : ∃ t, step State.reset = .next t ∧ t.pending = [] ∧
    Sparse.look 0 t.time.acc 3 = State.reset.rd TB_INC.INC 3 * 128 := by
  obtain ⟨t, ht, hqueue, htime⟩ := idleStepIsTick State.reset rfl
  exact ⟨t, ht, hqueue, htime.trans (by decide +kernel)⟩

theorem witness_local_time_kept : ∃ t, exec (.snap .mgmt) State.reset = .next t ∧
    Sparse.look 0 t.time.acc 3 = Sparse.look 0 State.reset.time.acc 3 := by
  obtain ⟨t, ht, -⟩ := everyCommandCompletes (.snap .mgmt) State.reset
  obtain ⟨hkept, -⟩ := localTimeOnlyTicks
  exact ⟨t, ht, hkept _ _ _ rfl ht⟩

end Sys2Proof.Machine
end

section
/-! The time bases' commands, steps and the gPTP service (14 R340–R342, R346). -/

namespace Sys2Proof.Machine

set_option Elab.async false

/-! ### SNAP and steps (14 R340, R342) -/

section
variable {s : State} {src : Source}

theorem State.asWho_firmware (a : Nat) (f : State → State) (h : s.who src = .firmware) : s.asWho src a Requester.fw f = f s :=
  State.asWho_pos s src a Requester.fw f (by rw [h]; rfl)

theorem exec_snap (h : s.who src = .firmware) : exec (.snap src) s = .next s.snap := congrArg _ (State.asWho_firmware _ _ h)

theorem exec_tbOfsLowWrite (n : Fin 4) (low : Nat) (h : s.who src = .firmware) :
    exec (.tbOfsLowWrite src n low) s = .next (s.holdLow n low) := congrArg _ (State.asWho_firmware _ _ h)

theorem exec_timeStep (n : Fin 4) (high : Nat) (low : Option Nat) (h : s.who src = .firmware) :
    exec (.timeStep src n high low) s = .next (s.writeOfs n high low) := congrArg _ (State.asWho_firmware _ _ h)

end

/-- A register write leaves the bases as they are. -/
theorem State.baseValue_wr (s : State) (f : Fld) (v i j n : Nat) : (s.wr f v i j).baseValue n = s.baseValue n :=
  State.baseValue_congr (s := s.wr f v i j) (t := s) rfl n

theorem State.snap_eq (s : State) : s.snap = (((s.wr TB_SNAP.VALUE (s.baseValue 0) 0).wr TB_SNAP.VALUE (s.baseValue 1) 1).wr
    TB_SNAP.VALUE (s.baseValue 2) 2).wr TB_SNAP.VALUE (s.baseValue 3) 3 := by
  simp only [State.snap, State.each, List.range, List.range.loop, List.foldl, State.baseValue_wr]

/-- Base 3 by its number and as an operand. -/
theorem ite_base_three {n : Fin 4} {α : Type} (a b : α) : (if n.val = 3 then a else b) = if n = 3 then a else b :=
  if_congr ⟨fun h => Fin.ext h, fun h => congrArg Fin.val h⟩ rfl rfl

/-- A word written is within its 32 bits. -/
theorem State.holdLow_word (s : State) (n : Fin 4) {low : Nat} (h : low < 2 ^ 32) : s.holdLow n low =
    if n = 3 then s else { s with time := { s.time with hold := Sparse.put 0 s.time.hold n low } } := by
  rw [State.holdLow, Nat.mod_eq_of_lt h, ite_base_three]

theorem State.writeOfs_word (s : State) (n : Fin 4) {high : Nat} (low : Option Nat) (h : high < 2 ^ 32) : s.writeOfs n high low =
    if n = 3 then s else { s with time := { s.time with
      step := Sparse.put none s.time.step n (some (signed 64 (high * 2 ^ 32 + low.getD (Sparse.look 0 s.time.hold n) % 2 ^ 32))) } } := by
  rw [State.writeOfs, State.formStep, Nat.mod_eq_of_lt h, ite_base_three]

/-! ### gPTP (14 R346) -/

/-- What firmware sent last is not within the interval that must pass. -/
theorem not_any_within {o : Option Nat} {gap now : Nat} (h : ∀ t ∈ o, within t gap now = false) :
    o.any (fun t => within t gap now) = false := by
  cases o with
  | none => rfl
  | some t => exact h t rfl

/-- A Sync on each master port of a domain that is ON. -/
def State.syncSent (s : State) (d : Nat) : State :=
  s.each 10 (fun p s => if (s.gptpPorts d).testBit p ∧ s.rd GW_PORT.STATE p = 2 ∧ Sparse.look none s.gw.slave d ≠ some p then
    s.emit (.gptpSync d p) else s)

theorem exec_gptpSyncSend {d : Fin 3} {s : State} (hfw : s.fwDown 7 = false) (hpark : s.outsidePark = true)
    (hdue : (Sparse.look none s.gw.synced d).any (fun t => within t 125000000 s.localNs) = false) :
    exec (.gptpSyncSend d) s = .next { s.syncSent d with gw := { (s.syncSent d).gw with
      synced := Sparse.put none (s.syncSent d).gw.synced d (some s.localNs) } } :=
  if_neg (by rw [hfw, hdue, hpark]; decide)

/-- A port that is ON and takes part in a domain. -/
def State.delayPort (s : State) (p : Nat) : Bool :=
  s.rd GW_PORT.STATE p == 2 && (List.range 3).any (fun d => (s.gptpPorts d).testBit p)

theorem State.delayPort_of {s : State} {p : Nat} (hon : s.rd GW_PORT.STATE p = 2) (hpart : ∃ d < 3, (s.gptpPorts d).testBit p = true) :
    s.delayPort p = true := by
  obtain ⟨d, hd, hbit⟩ := hpart
  rw [State.delayPort, hon, List.any_eq_true.2 ⟨d, List.mem_range.2 hd, hbit⟩]
  rfl

theorem exec_pdelaySend {p : Fin 10} {s : State} (hfw : s.fwDown 7 = false) (hpark : s.outsidePark = true)
    (hport : s.delayPort p = true) (hdue : (Sparse.look none s.gw.delayed p).any (fun t => within t 1000000000 s.localNs) = false) :
    exec (.pdelaySend p) s =
      .next { s with out := .pdelay p :: s.out, gw := { s.gw with delayed := Sparse.put none s.gw.delayed p (some s.localNs) } } := by
  rw [State.delayPort, Bool.and_eq_true, beq_iff_eq] at hport
  exact if_neg (by rw [hfw, hdue, hpark, hport.1, hport.2]; decide)

/-- Settles O20: firmware's writes reach the bases as R340 and R342 give it; the service sends what is due, in local time (log
entry 134). -/
theorem timeBaseCommands : Obligations.TimeBaseCommands := by
  unfold Obligations.TimeBaseCommands
  refine ⟨fun src s hwho => ⟨?snap, fun n low hlow => ?low, fun n high low hhigh => ?step⟩, fun d s => rfl,
    fun d s hfw hpark hdue => exec_gptpSyncSend hfw hpark (not_any_within hdue),
    fun p s hfw hpark hon hpart hdue => exec_pdelaySend hfw hpark (State.delayPort_of hon hpart) (not_any_within hdue)⟩
  case snap => rw [exec_snap hwho, State.snap_eq]
  case low => rw [exec_tbOfsLowWrite n low hwho, State.holdLow_word s n hlow]
  case step => rw [exec_timeStep n high low hwho, State.writeOfs_word s n low hhigh]

end Sys2Proof.Machine
end

section
/-! Rails, switched domains, PLLs, the unit state machine and the resets (16 R397, R399–R401, R403–R406, R415). -/

namespace Sys2Proof.Machine

set_option Elab.async false

/-! ### Rails, domains and PLLs (16 R397, R399–R401) -/

/-- A rail that has reached valid, before isolation follows. -/
def State.railUp (s : State) (r : Nat) : State := { s with power := { s.power with rails := r :: s.power.rails } }

/-- A rail that has left valid, before isolation follows. -/
def State.railGone (s : State) (r : Nat) : State := { s with power := { s.power with rails := s.power.rails.filter (· != r) } }

theorem exec_railValid {r : Fin 11} {s : State} (h : r.val ∉ s.power.rails) :
    exec (.railValid r) s = .next (s.railUp r).joinDomains := if_neg (fun hin => h (List.contains_iff_mem.1 hin))

theorem exec_railInvalid {r : Fin 11} {s : State} (h : r.val ∈ s.power.rails) : exec (.railInvalid r) s =
    .next (if s.wantsRail r then (s.railGone r).joinDomains.report 0x07 none else (s.railGone r).joinDomains) :=
  if_neg (by rw [List.contains_iff_mem.2 h]; decide)

/-- The domains that are not isolated are those whose rails are all valid. -/
theorem State.mem_joined (s : State) {d : Nat} (h : d < 25) : d ∈ s.joinDomains.power.joined ↔ s.joinDomains.railsGood d = true :=
  List.mem_filter.trans ⟨And.right, fun hgood => ⟨List.mem_range.2 h, hgood⟩⟩

section
variable {d : Fin 24} {s : State}

theorem exec_domainPowerUp (hneeded : s.domNeeded d = true) (hfail : s.flag PWR_DOM.FAIL d = false) (hrails : s.railsGood d = true) :
    exec (.domainPowerUp d) s = .next (s.domainUp d) := if_pos (by rw [hneeded, hfail, hrails]; decide)

theorem exec_domainPowerDown (hneeded : s.domNeeded d = false) (hst : s.rd PWR_DOM.STATE d ≠ 0) :
    exec (.domainPowerDown d) s = .next (s.wr PWR_DOM.STATE 0 d).stopPlls :=
  if_pos (by rw [hneeded, bne_iff_ne.2 hst]; decide)

theorem exec_domainPowerFail (hneeded : s.domNeeded d = true) (hst : s.rd PWR_DOM.STATE d ≠ domOn)
    (hfail : s.flag PWR_DOM.FAIL d = false) : exec (.domainPowerFail d) s =
      if d.val ≤ 8 then .next ((s.wr PWR_DOM.FAIL 1 d).failLoadsIn d)
      else if 15 ≤ d.val then .next ((s.wr PWR_DOM.FAIL 1 d).report 0x07 none) else .next (s.wr PWR_DOM.FAIL 1 d) :=
  if_neg (by rw [hneeded, beq_eq_false_iff_ne.2 hst, hfail]; decide)

end

theorem exec_pllLock {p : Fin 24} {s : State} (hneeded : s.pllNeeded p = true) (hnew : p.val ∉ s.power.locked) :
    exec (.pllLock p) s = .next { s with power := { s.power with locked := p.val :: s.power.locked } } :=
  if_pos (by rw [hneeded, Bool.eq_false_iff.2 (fun h => hnew (List.contains_iff_mem.1 h))]; decide)

/-- Settles O16: each row goes by what is needed and what is valid. That a failure of the Shadow field's domain ends its loads as
well is log entry 46. -/
theorem railsAndDomains : Obligations.RailsAndDomains := by
  unfold Obligations.RailsAndDomains
  refine ⟨fun r s hnew => ⟨_, exec_railValid hnew, rfl, fun d hd => State.mem_joined _ hd, rfl, rfl⟩,
    fun r s hin => exec_railInvalid hin, fun d s hneeded hfail hrails hst => ?up,
    fun d s hneeded hst => exec_domainPowerDown hneeded hst, fun d s hneeded hst hfail => ?fail,
    fun p s hneeded hnew => exec_pllLock hneeded hnew⟩
  case up => rw [exec_domainPowerUp hneeded hfail hrails, State.domainUp, if_neg hst]
  case fail => rw [exec_domainPowerFail hneeded hst hfail, apply_ite Host.Outcome.next, apply_ite Host.Outcome.next]

/-! ### The unit state machine (16 R403) -/

section
variable {u : UnitSel} {s : State}

theorem exec_unitWrites {src : Source} (h : unitBy u (s.who src) = true) : exec (.unitEnable src u) s = .next (s.enableUnit u) ∧
    exec (.unitDisable src u) s = .next (s.unitOffWrite u) :=
  ⟨congrArg _ (State.asWho_pos s src _ _ _ h), congrArg _ (State.asWho_pos s src _ _ _ h)⟩

theorem exec_unitStartingDone (hst : s.unitState u = uStarting) (hdom : s.rd PWR_DOM.STATE (unitDomain u) = domOn) :
    exec (.unitStartingDone u) s = if s.unitPending u then .next ((s.setPending u false).setUnit u uStopping)
      else .next ((s.setUnit u uOn).unitUp u) := if_neg (not_or.2 ⟨not_not.2 hst, not_not.2 hdom⟩)

theorem exec_unitStoppingDone (hst : s.unitState u = uStopping) : exec (.unitStoppingDone u) s =
    .next (if s.unitPending u then (((s.setPending u false).setUnit u uOff).unitDown u).startUnit u
      else ((s.setPending u false).setUnit u uOff).unitDown u) := if_neg (not_not.2 hst)

theorem exec_unitStartTimeout (hst : s.unitState u = uStarting) (hserves : s.rd BIST_UNIT.STATE (unitBist u) = 0)
    (hlate : Sparse.look 0 s.power.unitSince (unitBist u) + unitBound u ≤ s.localNs) :
    exec (.unitStartTimeout u) s = .next (s.unitOut (unitBist u)) := if_pos ⟨hst, hlate, hserves⟩

end

/-- Settles O17: the writes and the ends of the transitions, by the state that the unit is in. A Pass port has no register for
its ENABLE (log entry 45). -/
theorem unitMachine : Obligations.UnitMachine := by
  unfold Obligations.UnitMachine
  refine ⟨fun src u s hby => exec_unitWrites hby, fun u s hheld => ⟨if_pos hheld, if_pos hheld⟩,
    fun u s hfree => ⟨if_neg (Bool.eq_false_iff.1 hfree), if_neg (Bool.eq_false_iff.1 hfree)⟩, fun u s hst hdom => ?started,
    fun u s hst => exec_unitStoppingDone hst, fun u s hst hserves hlate => exec_unitStartTimeout hst hserves hlate⟩
  case started => rw [exec_unitStartingDone hst hdom, apply_ite Host.Outcome.next]

/-! ### Cold and warm reset (16 R404, R405, R415) -/

theorem State.faultLow_fw (s : State) : s.faultLow.fw = s.fw := by
  unfold State.faultLow
  split <;> rfl

theorem exec_coldBoot_due {straps : Fin 16} {fails : List BootFail} {chans : List (Fin 64)} {s : State} {park : Bool}
    (ht : s.mode.trans = some (.boot park)) (hrom : s.fw.romRan = false) :
    exec (.coldBoot straps fails chans) s = .next (s.coldBoot straps fails chans) := by
  show execColdBoot straps fails chans s = _
  rw [execColdBoot, ht, hrom]
  rfl

theorem exec_coldBoot_idle {straps : Fin 16} {fails : List BootFail} {chans : List (Fin 64)} {s : State}
    (h : s.fw.romRan = true ∨ ∀ park, s.mode.trans ≠ some (.boot park)) : exec (.coldBoot straps fails chans) s = .next s := by
  show execColdBoot straps fails chans s = _
  unfold execColdBoot
  split
  · next park ht => exact if_pos (h.resolve_right (fun hno => hno park ht))
  · rfl

theorem exec_warmNPulse {s : State} (h : s.outsidePark = true) : exec .warmNPulse s = .next (s.warmReset 3) := if_pos h

theorem exec_warmReset_fwHyp {src : Source} {s : State} (key : Fin 256) (hwho : (s.who src).fwHyp = true)
    (hpark : s.outsidePark = true) : exec (.warmReset src key) s = .next (if key.val = 0xA5 then s.warmReset 4 else s) :=
  (congrArg _ (State.asWho_pos s src _ _ _ hwho)).trans (congrArg _ (if_congr (and_iff_left hpark) rfl rfl))

theorem exec_warmReset_cantle {src : Source} {s : State} (key : Fin 256) (hwho : s.who src = .cantle) :
    exec (.warmReset src key) s = .next ((s.inc SYS_ACC.DENIED).wr SYS_ACC.LAST_SLOT (bits RegName.sysRst.addr 20 8)) := by
  have hdenied : exec (.warmReset src key) s = .next (s.denied (s.who src) RegName.sysRst.addr) :=
    congrArg _ (State.asWho_neg s src _ _ _ (by rw [hwho]; rfl))
  rw [hdenied, hwho]
  rfl

/-! ### Field reset (16 R406) -/

/-- The number written to FIELD. -/
def State.fieldNamed (s : State) (n : Nat) : State := s.wr SYS_RST.FIELD n

/-- A reset of a field remembered. -/
def State.resetAsked (s : State) (f : Nat) : State := s.setF f { s.frt f with resetAsked := true }

theorem exec_fieldReset {src : Source} {n : Fin 32} {s : State} (h : Requester.resetsFields (s.who src) = true) :
    exec (.fieldReset src n) s = .next ((s.fieldNamed n).fieldGo n (decide (s.who src = .cantle))) :=
  congrArg _ (State.asWho_pos s src _ _ _ h)

/-- FIELD is no part of what a reset goes by. -/
theorem State.fState_fieldNamed (s : State) (n f : Nat) : (s.fieldNamed n).fState f = s.fState f :=
  State.rd_wr_ne s SYS_RST.FIELD PLAIN_FLD_STATE.STATE n 0 0 f 0 (by decide) (by decide) (by decide)

theorem State.frt_fieldNamed (s : State) (n f : Nat) : (s.fieldNamed n).frt f = s.frt f := rfl

theorem State.isSafety_fieldNamed (s : State) (n f : Nat) : (s.fieldNamed n).isSafety f = s.isSafety f := by
  have hclass : (s.fieldNamed n).rd PLAIN_FLD_CFG.CLASS f = s.rd PLAIN_FLD_CFG.CLASS f :=
    State.rd_wr_ne s SYS_RST.FIELD PLAIN_FLD_CFG.CLASS n 0 0 f 0 (by decide) (by decide) (by decide)
  rw [State.isSafety, State.isSafety, hclass]

/-- The field's reset is the Cantle's alone: a SAFETY field or field 16. -/
def State.cantleField (s : State) (f : Nat) : Bool := s.isSafety f || f == 16

theorem State.cantleField_iff {s : State} {f : Nat} : s.cantleField f = true ↔ s.isSafety f = true ∨ f = 16 := by
  rw [State.cantleField, Bool.or_eq_true, beq_iff_eq]

/-- What FIELD_GO does to a field whose reset its requester may ask for. -/
def State.resetStarted (s : State) (f : Fin 17) : State :=
  if (s.frt f).resetAsked then s
  else if s.fState f = stFree ∨ s.fState f = stLoading ∨ s.fState f = stClearing then s.inc SYS_RST.FIELD_REFUSED
  else if s.fState f = stDraining ∨ (s.frt f).faultDrain then s.resetAsked f
  else if s.fState f = stRunning then (s.resetAsked f).killField f
  else (s.resetAsked f).startReinit f

theorem State.fieldGo_above {s : State} {n : Nat} (c : Bool) (h : 16 < n) : s.fieldGo n c = s.inc SYS_RST.FIELD_REFUSED :=
  dif_neg (Nat.not_lt.2 h)

theorem State.fieldGo_field (s : State) (f : Fin 17) (c : Bool) : s.fieldGo f c =
    if s.cantleField f && !c then s.inc SYS_RST.FIELD_REFUSED else s.resetStarted f := dif_pos f.isLt

/-- A field in one of these states is reset, at once or after its drain. -/
theorem resettable_not_refused {st : Nat} (h : st = stDraining ∨ st = stRunning ∨ st = stIdle ∨ st = stStopped) :
    ¬(st = stFree ∨ st = stLoading ∨ st = stClearing) := by
  rcases h with rfl | rfl | rfl | rfl <;> decide

section
variable {s : State} {f : Fin 17}

theorem State.resetStarted_again (h : (s.frt f).resetAsked = true) : s.resetStarted f = s := if_pos h

variable (hnew : (s.frt f).resetAsked = false)
include hnew

theorem State.resetStarted_refused (hst : s.fState f = stFree ∨ s.fState f = stLoading ∨ s.fState f = stClearing) :
    s.resetStarted f = s.inc SYS_RST.FIELD_REFUSED := (if_neg (Bool.eq_false_iff.1 hnew)).trans (if_pos hst)

theorem State.resetStarted_taken (hst : s.fState f = stDraining ∨ s.fState f = stRunning ∨ s.fState f = stIdle ∨
    s.fState f = stStopped) : s.resetStarted f = if s.fState f = stDraining ∨ (s.frt f).faultDrain then s.resetAsked f
      else if s.fState f = stRunning then (s.resetAsked f).killField f else (s.resetAsked f).startReinit f :=
  (if_neg (Bool.eq_false_iff.1 hnew)).trans (if_neg (resettable_not_refused hst))

theorem State.resetStarted_drains (h : s.fState f = stDraining ∨
    ((s.fState f = stRunning ∨ s.fState f = stIdle ∨ s.fState f = stStopped) ∧ (s.frt f).faultDrain = true)) :
    s.resetStarted f = s.resetAsked f :=
  (State.resetStarted_taken hnew (h.imp_right And.left)).trans (if_pos (h.imp_right And.right))

theorem State.resetStarted_kills (hst : s.fState f = stRunning) (hdrain : (s.frt f).faultDrain = false) :
    s.resetStarted f = (s.resetAsked f).killField f := by
  rw [State.resetStarted_taken hnew (.inr (.inl hst)), hst, hdrain, if_neg (by decide), if_pos rfl]

theorem State.resetStarted_reinits (hst : s.fState f = stIdle ∨ s.fState f = stStopped) (hdrain : (s.frt f).faultDrain = false) :
    s.resetStarted f = (s.resetAsked f).startReinit f := by
  rw [State.resetStarted_taken hnew (.inr (.inr hst)), hdrain]
  rcases hst with hst | hst <;> rw [hst, if_neg (by decide), if_neg (by decide)]

end

/-- Settles O15: the resets by their requester and cause; a field reset by the state of the field. That registers without a plain
Cold value hold 0 until ROM's cold path is log entry 7, that a number above 16 is counted log entry 40, and that a reset is
remembered over a fault drain log entry 108. -/
theorem resetCommands : Obligations.ResetCommands := by
  unfold Obligations.ResetCommands
  refine ⟨fun byMonitor s => ?cold, fun straps fails chans s park ht hrom => exec_coldBoot_due ht hrom,
    fun s hpark => exec_warmNPulse hpark,
    fun src key s hpark => ⟨fun hwho => exec_warmReset_fwHyp key hwho hpark, fun hwho => exec_warmReset_cantle key hwho⟩,
    fun straps fails chans s hidle => exec_coldBoot_idle hidle, fun src n s hby => ⟨fun habove => ?above, fun f hn => ?field⟩⟩
  case cold => exact ⟨_, rfl, rfl, rfl, rfl, (congrArg FwSt.flash s.faultLow_fw : s.faultLow.fw.flash = _), rfl, rfl⟩
  case above =>
    rw [exec_fieldReset hby, State.fieldGo_above _ habove]
    rfl
  case field =>
    dsimp only
    rw [exec_fieldReset hby, hn, State.fieldGo_field, State.cantleField, State.isSafety_fieldNamed, ← State.cantleField]
    refine ⟨fun hother hsafety => ?refused, fun hmay => ?go⟩
    case refused => rw [State.cantleField_iff.2 hsafety, decide_eq_false hother]; rfl
    case go =>
      have hgo : ¬(s.cantleField f && !decide (s.who src = .cantle)) = true := by
        rcases hmay with hc | ⟨hplain, hnot⟩
        · rw [decide_eq_true hc, Bool.not_true, Bool.and_false]; decide
        · rw [State.cantleField, hplain, beq_eq_false_iff_ne.2 hnot]; simp
      rw [if_neg hgo]
      refine ⟨fun hagain => congrArg _ (State.resetStarted_again hagain), fun hnew => ⟨fun hst => ?_, fun hst => ?_, fun hst hdrain => ?_,
        fun hst hdrain => ?_⟩⟩
      · exact congrArg _ (State.resetStarted_refused hnew (by simpa only [State.fState_fieldNamed] using hst))
      · exact congrArg _ (State.resetStarted_drains hnew (by simpa only [State.fState_fieldNamed, State.frt_fieldNamed] using hst))
      · exact congrArg _ (State.resetStarted_kills hnew ((s.fState_fieldNamed _ _).trans hst) hdrain)
      · exact congrArg _ (State.resetStarted_reinits hnew (by simpa only [State.fState_fieldNamed] using hst) hdrain)

end Sys2Proof.Machine
end

section
/-! The links of the Pass: flits, retraining, training, hellos and the states of a link (13 R314–R316, R320). -/

namespace Sys2Proof.Machine

set_option Elab.async false

@[simp] theorem State.port_setPort (s : State) (p : Nat) (x : PortRt) : (s.setPort p x).port p = x :=
  Sparse.look_put_same _ _ _ _

/-! ### Flits (13 R314, R315) -/

section
variable {port : Fin 4} {flit : Bytes} {s : State}

theorem exec_passFlit_closed (h : s.link port = lkDown ∨ s.link port = lkTraining ∨ (s.port port).retraining = true) :
    exec (.passFlit port flit) s = .next s := if_pos h

theorem exec_passFlit_open (hdown : s.link port ≠ lkDown) (htrain : s.link port ≠ lkTraining)
    (hre : (s.port port).retraining = false) : exec (.passFlit port flit) s =
      if flitOk flit then .next (s.goodFlit port flit) else .next (s.badFlit port) :=
  if_neg (not_or.2 ⟨hdown, not_or.2 ⟨htrain, Bool.eq_false_iff.1 hre⟩⟩)

end

section
variable {s : State} {p : Nat}

theorem State.badFlit_first (h : (s.port p).failed = none) :
    s.badFlit p = (s.inc PASS_LINK_STAT.CRC_ERR p).setPort p { s.port p with failed := some 0 } := by
  have hp : (s.inc PASS_LINK_STAT.CRC_ERR p).port p = s.port p := rfl
  simp only [State.badFlit, hp, h]

/-- A flit that fails while a replay is awaited: one more replay has failed. -/
def State.replayFailed (s : State) (p n : Nat) : State :=
  (((s.inc PASS_LINK_STAT.CRC_ERR p).setPort p { s.port p with failed := some (n + 1) }).inc PASS_LINK_STAT.REPLAYS p).report 0x31 none

theorem State.badFlit_again {n : Nat} (h : (s.port p).failed = some n) :
    s.badFlit p = if n + 1 ≥ 8 then (s.replayFailed p n).startRetrain p else s.replayFailed p n := by
  have hp : (s.inc PASS_LINK_STAT.CRC_ERR p).port p = s.port p := rfl
  simp only [State.badFlit, hp, h]
  rfl

/-- The sequence number that a flit carries. -/
def flitSeq (b : Bytes) : Nat := leNat (b.take 2) % 4096

theorem State.goodFlit_other {b : Bytes} {n : Nat} (h : (s.port p).next = some n) (hn : n ≠ flitSeq b) : s.goodFlit p b = s :=
  if_pos (by rw [h]; exact hn)

/-- A replay that was awaited has come. -/
def State.replayCame (s : State) (p : Nat) : State :=
  match (s.port p).failed with
  | some _ => (s.inc PASS_LINK_STAT.REPLAYS p).report 0x31 none
  | none => s

/-- The port's state once it has accepted a flit. -/
def State.flitTaken (s : State) (p : Nat) (b : Bytes) : State :=
  (s.replayCame p).setPort p { (s.replayCame p).port p with next := some ((flitSeq b + 1) % 4096), failed := none }

theorem State.goodFlit_taken {b : Bytes} (h : (s.port p).next = none ∨ (s.port p).next = some (flitSeq b)) : s.goodFlit p b =
    if Config.ackReplay (leNat (b.take 2) / 4096) then (s.flitTaken p b).emit (.replay p) else s.flitTaken p b :=
  if_neg (by rcases h with h | h <;> rw [h] <;> exact not_not.2 rfl)

/-- The flit accepted: the next is expected and no replay is awaited. -/
theorem State.goodFlit_next {b : Bytes} (h : (s.port p).next = none ∨ (s.port p).next = some (flitSeq b)) :
    ((s.goodFlit p b).port p).next = some ((flitSeq b + 1) % 4096) ∧ ((s.goodFlit p b).port p).failed = none := by
  have hport : (s.goodFlit p b).port p = { (s.replayCame p).port p with next := some ((flitSeq b + 1) % 4096), failed := none } := by
    rw [State.goodFlit_taken h, apply_ite (State.port · p)]
    exact (ite_self _).trans (State.port_setPort _ _ _)
  rw [hport]
  exact ⟨rfl, rfl⟩

end

/-! ### The end of a retrain (13 R315) -/

/-- The port no longer retrains. -/
def State.retrainOver (s : State) (p : Nat) : State := s.setPort p { s.port p with retraining := false }

/-- How many retrains, the newest among them, began within 1 s of it. -/
def retrainsNear : List Nat → Nat
  | t :: r => (r.filter (fun u => decide (t ≤ u + 1000000000))).length + 1
  | [] => 0

section
variable {port : Fin 4} {ok : Bool} {s : State}

theorem exec_passRetrainDone_idle (h : (s.port port).retraining = false) : exec (.passRetrainDone port ok) s = .next s :=
  if_pos (congrArg Bool.not h)

theorem exec_passRetrainDone (h : (s.port port).retraining = true) : exec (.passRetrainDone port ok) s =
    if ok && decide (retrainsNear (s.port port).retrains < 3) then .next (s.retrainOver port)
    else .next (((s.retrainOver port).linkDown port).unitOut (156 + port.val)) := if_neg (by rw [h]; decide)

end

/-! ### Training (13 R316) -/

section
variable {port : Fin 4} {lanes : Fin 256} {s : State}

/-- The port's link can end its training. -/
def State.trains (s : State) (port : Fin 4) : Prop :=
  s.unitState (.pass port) = uOn ∧ s.unitUsable (156 + port.val) = true ∧ (s.link port = lkDown ∨ s.link port = lkTraining)

theorem exec_linkTrainingDone_idle (h : ¬s.trains port) : exec (.linkTrainingDone port lanes) s = .next s := by
  refine if_pos ?_
  by_contra hno
  obtain ⟨hon, hno⟩ := not_or.1 hno
  obtain ⟨husable, hlink⟩ := not_or.1 hno
  exact h ⟨not_not.1 hon, by simpa using husable, not_not.1 hlink⟩

/-- A link trained on some of its lanes. -/
def State.linkTrained (s : State) (port : Fin 4) (both : Bool) : State :=
  let t := (s.setLink port lkHello).wr PASS_LINK_STAT.WIDTH4 (b2n (!both)) port
  t.setPort port { t.port port with next := none, failed := none, retraining := false, heard := none, sent := none, peer := none }

theorem exec_linkTrainingDone (h : s.trains port) : exec (.linkTrainingDone port lanes) s =
    if !decide (lanes.val % 16 = 15) && !decide (lanes.val / 16 = 15) then .next (s.linkDown port)
    else .next (s.linkTrained port (decide (lanes.val % 16 = 15) && decide (lanes.val / 16 = 15))) := by
  obtain ⟨hon, husable, hlink⟩ := h
  exact if_neg (not_or.2 ⟨not_not.2 hon, not_or.2 ⟨by rw [husable]; decide, not_not.2 hlink⟩⟩)

theorem State.linkTrained_facts (s : State) (port : Fin 4) (both : Bool) : (s.linkTrained port both).link port = lkHello ∧
    (s.linkTrained port both).flag PASS_LINK_STAT.WIDTH4 port = !both ∧ ((s.linkTrained port both).port port).peer = none ∧
    (s.linkTrained port both).pass.lsaDue = true := by
  refine ⟨?_, ?_, ?_, rfl⟩
  · have hlink : (s.linkTrained port both).link port =
        ((s.wr PASS_LINK_STAT.STATE lkHello port).wr PASS_LINK_STAT.WIDTH4 (b2n (!both)) port).rd PASS_LINK_STAT.STATE port := rfl
    rw [hlink, State.rd_wr_ne _ _ _ _ _ _ _ _ (by decide) (by decide) (by decide), State.rd_wr_same]
    rfl
  · have hwidth : (s.linkTrained port both).rd PASS_LINK_STAT.WIDTH4 port = b2n (!both) % 2 ^ 1 := State.rd_wr_same _ _ _ _ _
    rw [State.flag, hwidth]
    exact b2n_flag (!both)
  · exact congrArg PortRt.peer (State.port_setPort _ _ _)

/-- Both halves of the lanes are all eight. -/
theorem both_halves (lanes : Fin 256) : (decide (lanes.val % 16 = 15) && decide (lanes.val / 16 = 15)) = (lanes.val == 255) := by
  rw [Bool.eq_iff_iff, Bool.and_eq_true, decide_eq_true_iff, decide_eq_true_iff, beq_iff_eq]
  omega

end

/-! ### Hellos (13 R316, R320) -/

section
variable {port : Fin 4} {s : State}

/-- A link on which hellos go. -/
abbrev State.greets (s : State) (port : Fin 4) : Prop := s.link port = lkHello ∨ s.link port = lkUp ∨ s.link port = lkForeign

theorem exec_helloTimeout (port : Fin 4) (s : State) : exec (.helloTimeout port) s =
    if s.link port = lkUp ∧ (s.port port).heard.all (fun t => !within t 10000000 s.localNs) = true then .next (s.linkDown port).passView
    else .next s := rfl

/-- Nothing remembered, or its interval over. -/
theorem all_not_within_iff {o : Option Nat} {gap now : Nat} :
    o.all (fun t => !within t gap now) = true ↔ ∀ k, o = some k → k + gap ≤ now := by
  cases o with
  | none => exact ⟨fun _ _ => nofun, fun _ => rfl⟩
  | some k =>
    rw [Option.all_some, Bool.not_eq_true', within_false]
    exact ⟨fun h _ hk => Option.some.inj hk ▸ h, fun h => h k rfl⟩

theorem exec_helloSend (port : Fin 4) (s : State) : exec (.helloSend port) s =
    if ¬s.greets port ∨ (s.port port).sent.any (fun t => within t 1000000 s.localNs) = true then .next s
    else .next ((s.setPort port { s.port port with sent := some s.localNs }).emit
      (.hello port (s.helloOf port))) := rfl

/-- What a hello tells of the peer, kept. -/
def State.helloTaken (s : State) (port : Fin 4) (hello : PassHello) : State :=
  let t := (s.wr PASS_LINK_STAT.PEER_ID hello.id port).wr PASS_LINK_STAT.PEER_PORT hello.port port
  t.setPort port { t.port port with heard := some s.localNs, peer := some hello.hash }

variable {hello : PassHello}

theorem exec_passHello_closed (h : ¬s.greets port) : exec (.passHello port hello) s = .next s := if_pos h

theorem exec_passHello_up (h : s.link port = lkUp) : exec (.passHello port hello) s = .next (s.helloTaken port hello) :=
  (if_neg (not_not.2 (.inr (.inl h)))).trans (if_pos h)

theorem exec_passHello_foreign (h : s.link port = lkForeign) : exec (.passHello port hello) s =
    if hello.id / 256 ≠ s.rd PASS_LINK_STAT.PEER_ID port / 256 then .next ((s.helloTaken port hello).setLink port lkHello)
    else .next (s.helloTaken port hello) :=
  (if_neg (not_not.2 (.inr (.inr h)))).trans ((if_neg (by rw [h]; decide)).trans (if_pos h))

/-- A link in HELLO comes UP, new routes due. -/
def State.linkUp (s : State) (port : Fin 4) : State :=
  { s.setLink port lkUp with pass := { (s.setLink port lkUp).pass with routesDue := true } }

theorem exec_passHello_hello (h : s.link port = lkHello) : exec (.passHello port hello) s =
    if hello.assigned && decide (hello.id / 256 ≠ s.rd PASS_CFG.FABRIC) then .next ((s.helloTaken port hello).linkForeign port).passView
    else .next ((s.helloTaken port hello).linkUp port).passView :=
  (if_neg (not_not.2 (.inl h))).trans ((if_neg (by rw [h]; decide)).trans (if_neg (by rw [h]; decide)))

end

/-- Settles O50: flits by the port's replay and sequence, retrains by how many began within 1 s, and links by their state. That a
failing replay counts in REPLAYS and is reported is log entry 89; which hellos act on a link, log entry 91. -/
theorem passLinks : Obligations.PassLinks := by
  unfold Obligations.PassLinks
  refine ⟨fun port flit s => ⟨exec_passFlit_closed, fun hdown htrain hre => ?flit⟩, fun port ok s => ?retrain,
    fun port lanes s => ⟨fun hidle => ?untrained, fun hon husable hlink => ?trained⟩, fun port s => ?signal, fun port hello s => ?hello⟩
  case flit =>
    rw [exec_passFlit_open hdown htrain hre]
    refine ⟨fun hbad => ?_, fun hok => ?_⟩
    · rw [hbad]
      exact ⟨fun hfirst => congrArg Host.Outcome.next (State.badFlit_first hfirst), fun n hagain => congrArg Host.Outcome.next (State.badFlit_again hagain)⟩
    · rw [hok]
      exact ⟨fun n hnext hother => congrArg _ (State.goodFlit_other hnext hother), fun hin => ⟨_, rfl, State.goodFlit_next hin⟩⟩
  case retrain =>
    refine ⟨exec_passRetrainDone_idle, fun hre hnone => ?_, fun a r hre hsome => ⟨fun hok hfew => ?_, fun hdown => ?_⟩⟩
    · rw [exec_passRetrainDone hre, hnone]
      cases ok <;> rfl
    · rw [exec_passRetrainDone hre, hsome, hok]
      exact if_pos (decide_eq_true (Nat.succ_lt_succ hfew))
    · rw [exec_passRetrainDone hre, hsome]
      refine if_neg (fun hup => ?_)
      rw [Bool.and_eq_true, decide_eq_true_iff] at hup
      exact hdown.elim (fun hfail => Bool.false_ne_true (hfail.symm.trans hup.1)) (fun hmany => Nat.not_lt.2 hmany (Nat.lt_of_succ_lt_succ hup.2))
  case untrained =>
    refine exec_linkTrainingDone_idle (fun ⟨hon, husable, hlink⟩ => ?_)
    rcases hidle with h | h | ⟨hdown, htrain⟩
    · exact h hon
    · exact Bool.false_ne_true (h.symm.trans husable)
    · exact hlink.elim hdown htrain
  case trained =>
    rw [exec_linkTrainingDone ⟨hon, husable, hlink⟩, both_halves]
    refine ⟨fun hlow hhigh => if_pos (by rw [decide_eq_false hlow, decide_eq_false hhigh]; rfl), fun hhalf => ⟨_, if_neg ?_, ?_⟩⟩
    · rcases hhalf with h | h <;> simp [h]
    · exact s.linkTrained_facts port (lanes.val == 255)
  case signal =>
    refine ⟨rfl, fun hlink => (exec_helloTimeout port s).trans (if_neg (fun h => hlink h.1)), fun hup => ⟨fun k hk hearly => ?_, fun hlate => ?_⟩,
      fun hhello hup hforeign => ?_, fun hgreets => ⟨fun k hk hearly => ?_, fun hdue => ?_⟩⟩
    · refine (exec_helloTimeout port s).trans (if_neg (fun h => ?_))
      exact Nat.not_le.2 hearly (all_not_within_iff.1 h.2 k hk)
    · exact (exec_helloTimeout port s).trans (if_pos ⟨hup, all_not_within_iff.2 hlate⟩)
    · exact (exec_helloSend port s).trans (if_pos (.inl (fun h => h.elim hhello (fun h => h.elim hup hforeign))))
    · exact (exec_helloSend port s).trans (if_pos (.inr (any_within_iff.2 ⟨k, hk, hearly⟩)))
    · refine ⟨_, (exec_helloSend port s).trans (if_neg ?_), rfl, congrArg PortRt.sent (State.port_setPort _ _ _), rfl⟩
      refine not_or.2 ⟨not_not.2 hgreets, fun hearly => ?_⟩
      obtain ⟨k, hk, hlt⟩ := any_within_iff.1 hearly
      exact Nat.not_lt.2 (hdue k hk) hlt
  case hello =>
    refine ⟨fun hhello hup hforeign => exec_passHello_closed (fun h => h.elim hhello (fun h => h.elim hup hforeign)),
      fun hup => exec_passHello_up hup, fun hforeign hsame => ?_, fun hforeign hother => ?_, fun hlink hassigned hother => ?_,
      fun hlink hown => ?_⟩
    · exact (exec_passHello_foreign hforeign).trans (if_neg (not_not.2 hsame))
    · exact (exec_passHello_foreign hforeign).trans (if_pos hother)
    · exact (exec_passHello_hello hlink).trans (if_pos (by rw [hassigned, decide_eq_true hother]; rfl))
    · refine (exec_passHello_hello hlink).trans (if_neg (fun h => ?_))
      rw [Bool.and_eq_true, decide_eq_true_iff] at h
      exact hown.elim (fun hno => Bool.false_ne_true (hno.symm.trans h.1)) h.2

end Sys2Proof.Machine
end

section
/-! Announcements and the installation of routes (13 R320–R322). -/

namespace Sys2Proof.Machine

set_option Elab.async false

/-! ### Announcements (13 R320) -/

/-- An announcement is sent: one is due, or 10 ms have passed since the last. -/
def State.lsaTime (s : State) : Prop := s.pass.lsaDue = true ∨ s.pass.lsaAt + 10000000 ≤ s.localNs

section
variable {s : State}

theorem exec_lsaSend_held (h : s.fwDown 7 = true ∨ ¬s.lsaTime) : exec .lsaSend s = .next s := by
  refine if_pos (Bool.or_eq_true_iff.2 (h.imp_right (fun hno => ?_)))
  obtain ⟨hdue, hearly⟩ := not_or.1 hno
  rw [Bool.eq_false_iff.2 hdue, decide_eq_true (Nat.not_le.1 hearly)]
  rfl

/-- An announcement sent, and its time kept. -/
def State.lsaSent (s : State) : State :=
  let t := s.passView
  let t := t.floodLsa t.ownLsa 4
  { t with pass := { t.pass with lsaDue := false, lsaAt := s.localNs } }

theorem exec_lsaSend (hfw : s.fwDown 7 = false) (h : s.lsaTime) : exec .lsaSend s = .next s.lsaSent := by
  refine if_neg (fun hheld => ?_)
  rw [hfw, Bool.false_or, Bool.and_eq_true, Bool.not_eq_true', decide_eq_true_iff] at hheld
  exact h.elim (fun hdue => Bool.false_ne_true (hheld.1.symm.trans hdue)) (Nat.not_le.2 hheld.2)

variable {port : Fin 4} {lsa : PassLsa}

theorem exec_passLsa_ignored (h : s.link port ≠ lkUp ∨ s.fwDown 7 = true ∨ lsa.hash = s.idNum) :
    exec (.passLsa port lsa) s = .next s := if_pos h

/-- The announcement kept of the device that one comes from. -/
def State.keptLsa (s : State) (lsa : PassLsa) : Option KeptLsa := s.pass.lsas.find? (fun (k : KeptLsa) => k.lsa.hash == lsa.hash)

/-- An announcement kept as the newest of its device. -/
def State.lsaKept (s : State) (lsa : PassLsa) : State := { s with pass := { s.pass with
  lsas := ⟨lsa, s.localNs⟩ :: s.pass.lsas.filter (fun (k : KeptLsa) => k.lsa.hash != lsa.hash),
  routesDue := s.pass.routesDue || !((s.keptLsa lsa).any (fun (k : KeptLsa) => k.lsa == lsa)) } }

/-- An equal announcement came within the last 5 ms. -/
def State.lsaFresh (s : State) (lsa : PassLsa) : Bool :=
  (s.keptLsa lsa).any (fun (k : KeptLsa) => k.lsa == lsa && decide (s.localNs < k.at_ + 5000000))

theorem exec_passLsa (hup : s.link port = lkUp) (hfw : s.fwDown 7 = false) (hother : lsa.hash ≠ s.idNum) :
    exec (.passLsa port lsa) s = .next (if s.lsaFresh lsa then s.lsaKept lsa else (s.lsaKept lsa).floodLsa lsa port).passView :=
  if_neg (not_or.2 ⟨not_not.2 hup, not_or.2 ⟨Bool.eq_false_iff.1 hfw, hother⟩⟩)

theorem State.lsaFresh_none (h : s.keptLsa lsa = none) : s.lsaFresh lsa = false := by
  rw [State.lsaFresh, h]
  rfl

theorem State.lsaFresh_some {k : KeptLsa} (h : s.keptLsa lsa = some k) :
    s.lsaFresh lsa = true ↔ k.lsa = lsa ∧ s.localNs < k.at_ + 5000000 := by
  rw [State.lsaFresh, h, Option.any_some, Bool.and_eq_true, beq_iff_eq, decide_eq_true_iff]

end

/-- An announcement of a device that is 30 ms old. -/
def State.lsaAged (s : State) (hash : Nat) : Bool :=
  s.pass.lsas.any (fun k => k.lsa.hash == hash && decide (k.at_ + 30000000 ≤ s.localNs))

theorem State.lsaAged_iff {s : State} {hash : Nat} : s.lsaAged hash = true ↔
    ∃ k ∈ s.pass.lsas, k.lsa.hash = hash ∧ k.at_ + 30000000 ≤ s.localNs := by
  simp only [State.lsaAged, List.any_eq_true, Bool.and_eq_true, beq_iff_eq, decide_eq_true_iff]

/-- The announcement of a device dropped, new routes due. -/
def State.lsaDropped (s : State) (hash : Nat) : State :=
  { s with pass := { s.pass with lsas := s.pass.lsas.filter (fun (k : KeptLsa) => k.lsa.hash != hash), routesDue := true } }

theorem exec_lsaAgeOut (hash : Nat) (s : State) : exec (.lsaAgeOut hash) s =
    if s.lsaAged hash then .next (s.lsaDropped hash).passView else .next s := rfl

/-! ### Routes (13 R322) -/

section
variable {s : State}

theorem exec_routeCompute_idle (h : s.fwDown 7 = true ∨ s.pass.routesDue = false) : exec .routeCompute s = .next s :=
  if_pos (Bool.or_eq_true_iff.2 (h.imp_right (congrArg Bool.not)))

/-- The generation that follows the one sent last, or the one in force. -/
def State.nextGen (s : State) : Nat := ((match s.pass.acks with
  | some (g, _) => g
  | none => s.rd PASS_DEV.GEN) + 1) % 65536

/-- The members that the authority routes, the links between them, and the others. -/
def State.routeMembers (s : State) : List (Nat × Nat) := assignMembers s.fabric
def State.routeOthers (s : State) : List (Nat × Nat) := s.routeMembers.filter (fun x => x.1 != s.idNum)
def State.routeEdges (s : State) : List Edge := edgesOf (s.fabric.filter (fun l => s.routeMembers.any (fun x => x.1 == l.hash)))

/-- The entries of a device of the fabric. -/
def State.routesOf (s : State) (hash : Nat) : List PassRoute :=
  routeEntries s.routeEdges (bfsDepth s.routeEdges s.routeMembers.length 0 [(s.idNum, 0)]) s.routeMembers hash

/-- The entries of a new generation sent to the other members, the authority's own in its shadow table. -/
def State.routesSent (s : State) : State :=
  let t := s.routeOthers.foldl (fun t x => t.emit (.routes x.1 s.nextGen (s.routesOf x.1))) s
  { t with pass := { t.pass with routesDue := false, shadow := some (s.nextGen, s.routesOf s.idNum), acks := some (s.nextGen, []),
                                 members := s.routeMembers.map (·.2) } }

variable (hfw : s.fwDown 7 = false) (hdue : s.pass.routesDue = true)
include hfw hdue

theorem exec_routeCompute_other (h : s.passView.flag PASS_DEV.AUTHORITY = false) :
    exec .routeCompute s = .next { s.passView with pass := { s.passView.pass with routesDue := false } } :=
  (if_neg (by rw [hfw, hdue]; decide)).trans (if_pos (congrArg Bool.not h))

theorem exec_routeCompute_authority (h : s.passView.flag PASS_DEV.AUTHORITY = true) : exec .routeCompute s =
    if s.passView.routeOthers.isEmpty then .next { s.passView.routesSent.commitRoutes s.passView.nextGen with
      pass := { (s.passView.routesSent.commitRoutes s.passView.nextGen).pass with acks := none } }
    else .next s.passView.routesSent :=
  (if_neg (by rw [hfw, hdue]; decide)).trans (if_neg (by rw [h]; decide))

end

section
variable {s : State} {gen : Fin 65536}

theorem exec_passRoutes (entries : List PassRoute) (s : State) : exec (.passRoutes gen entries) s = if s.fwDown 7 then .next s
    else .next { s with pass := { s.pass with shadow := some (gen.val, entries) }, out := .routesAck gen :: s.out } := rfl

theorem exec_routesCommit_none (h : s.pass.shadow = none) : exec (.routesCommit gen) s = .next s := by
  show execRoutesCommit gen s = _
  rw [execRoutesCommit, h]

theorem exec_routesCommit_some {g : Nat} {es : List PassRoute} (h : s.pass.shadow = some (g, es)) : exec (.routesCommit gen) s =
    if g = gen.val then .next ((s.installRoutes gen es).emit (.routesCommit gen)) else .next s := by
  show execRoutesCommit gen s = _
  rw [execRoutesCommit, h]
  refine ite_congr rfl (fun hg => ?_) (fun _ => rfl)
  rw [State.commitRoutes, h]
  exact congrArg (fun t => Host.Outcome.next (State.emit t _)) (if_pos hg)

variable {member : Fin 256}

theorem exec_routesAck_none (h : s.pass.acks = none) : exec (.routesAck member gen) s = .next s := by
  show execRoutesAck member gen s = _
  rw [execRoutesAck, h]

/-- The members that have acknowledged, with one more. -/
def ackedWith (got : List Nat) (member : Nat) : List Nat := if got.contains member then got else member :: got

variable {g : Nat} {got : List Nat} (h : s.pass.acks = some (g, got))
include h

theorem exec_routesAck_foreign (hno : s.fwDown 7 = true ∨ g ≠ gen.val ∨ s.pass.members.contains member.val = false) :
    exec (.routesAck member gen) s = .next s := by
  show execRoutesAck member gen s = _
  rw [execRoutesAck, h]
  exact if_pos (hno.imp_right (Or.imp_right (congrArg Bool.not)))

theorem exec_routesAck (hfw : s.fwDown 7 = false) (hg : g = gen.val) (hm : s.pass.members.contains member.val = true) :
    exec (.routesAck member gen) s =
      if s.pass.members.all (fun m => m == s.rd PASS_DEV.ID % 256 || (ackedWith got member).contains m) then
        .next (({ s with pass := { s.pass with acks := none }, out := .routesCommit gen :: s.out } : State).commitRoutes gen)
      else .next { s with pass := { s.pass with acks := some (g, ackedWith got member) } } := by
  show execRoutesAck member gen s = _
  rw [execRoutesAck, h]
  exact if_neg (not_or.2 ⟨Bool.eq_false_iff.1 hfw, not_or.2 ⟨not_not.2 hg, by rw [hm]; decide⟩⟩)

end

/-- Settles O51: announcements by their age, routes by the authority's generation and its acknowledgements. The 5 ms before an equal
announcement is passed on and the lone authority are log entry 92, that COMMIT is flooded again log entry 93, and that the rows wait
for the link manager log entry 94. -/
theorem fabricRoutes : Obligations.FabricRoutes := by
  unfold Obligations.FabricRoutes
  refine ⟨fun s => ⟨fun hdown => ⟨exec_lsaSend_held (.inl hdown), exec_routeCompute_idle (.inl hdown)⟩, fun hfw =>
      ⟨fun hdue hearly => exec_lsaSend_held (.inr ?early), fun hdue => ⟨_, exec_lsaSend hfw hdue, rfl, rfl⟩,
        fun hdue => exec_routeCompute_idle (.inr hdue), fun hdue hother => exec_routeCompute_other hfw hdue hother,
        fun hdue hauth hothers => ?send, fun hdue hauth hlone => ?lone⟩⟩,
    fun port lsa s => ⟨exec_passLsa_ignored, fun hup hfw hother => ?lsa⟩, fun hash s => ⟨fun hyoung => ?young, fun k hk hh hold => ?old⟩,
    fun gen entries s => ⟨fun hdown => (exec_passRoutes entries s).trans (if_pos hdown),
      fun hfw => (exec_passRoutes entries s).trans (if_neg (Bool.eq_false_iff.1 hfw))⟩,
    fun gen s => ⟨exec_routesCommit_none, fun g es hsh => ⟨fun hne => (exec_routesCommit_some hsh).trans (if_neg hne),
      fun heq => (exec_routesCommit_some hsh).trans (if_pos heq)⟩, fun member => ⟨exec_routesAck_none, fun g got hacks =>
      ⟨exec_routesAck_foreign hacks, fun hfw hg hm => ?ack⟩⟩⟩⟩
  case early => exact not_or.2 ⟨Bool.eq_false_iff.1 hdue, Nat.not_le.2 hearly⟩
  case send =>
    refine ⟨_, (exec_routeCompute_authority hfw hdue hauth).trans (if_neg (fun he => hothers (List.isEmpty_iff.1 he))), rfl, rfl, _, _, rfl, rfl, ?_⟩
    unfold State.nextGen
    cases s.passView.pass.acks <;> rfl
  case lone => exact ⟨_, (exec_routeCompute_authority hfw hdue hauth).trans (if_pos (List.isEmpty_iff.2 hlone)), rfl⟩
  case lsa =>
    rw [exec_passLsa hup hfw hother]
    refine ⟨fun hnone => ?_, fun k hk hsame => ⟨fun hsoon => ?_, fun hlate => ?_⟩, fun k hk hdiff => ?_⟩
    · rw [State.lsaFresh_none hnone]; rfl
    · rw [(State.lsaFresh_some hk).2 ⟨hsame, hsoon⟩]; rfl
    · rw [if_neg (fun hf => Nat.not_le.2 ((State.lsaFresh_some hk).1 hf).2 hlate)]; rfl
    · rw [if_neg (fun hf => hdiff ((State.lsaFresh_some hk).1 hf).1)]; rfl
  case young =>
    refine (exec_lsaAgeOut hash s).trans (if_neg (fun haged => ?_))
    obtain ⟨k, hk, hh, hold⟩ := State.lsaAged_iff.1 haged
    exact Nat.not_le.2 (hyoung k hk hh) hold
  case old => exact (exec_lsaAgeOut hash s).trans (if_pos (State.lsaAged_iff.2 ⟨k, hk, hh, hold⟩))
  case ack =>
    rw [exec_routesAck hacks hfw hg hm]
    exact ⟨fun hmore => if_neg (Bool.eq_false_iff.1 hmore), fun hlast => if_pos hlast⟩

end Sys2Proof.Machine
end

section
/-! Packets at a port, the tunnel and the side band (13 R317, R319, R323, R324, R327, R329). -/

namespace Sys2Proof.Machine

set_option Elab.async false

/-! ### Packets that arrive (13 R317, R319) -/

/-- The rows of the packets that a port receives, with the type that each carries. -/
def packetRows (port : Fin 4) (p : PassPacket) : List (Instr × Nat) :=
  [(.passWrite port p, ptWrite), (.passWriteAck port p, ptWriteAck), (.passRead port p, ptRead), (.passReadData port p, ptReadData),
    (.passLock port p, ptLock), (.passLockGrant port p, ptLockGrant), (.passUnlock port p, ptUnlock), (.sbPoll port p, ptSbPoll),
    (.sbData port p, ptSbData)]

section
variable {port : Fin 4} {p : PassPacket} {s : State}

theorem exec_packetRow {i : Instr} {type : Nat} (h : (i, type) ∈ packetRows port p) :
    exec i s = .next (s.passReceive port type p) := by
  simp only [packetRows, List.mem_cons, Prod.mk.injEq, List.not_mem_nil, or_false] at h
  rcases h with ⟨rfl, rfl⟩ | ⟨rfl, rfl⟩ | ⟨rfl, rfl⟩ | ⟨rfl, rfl⟩ | ⟨rfl, rfl⟩ | ⟨rfl, rfl⟩ | ⟨rfl, rfl⟩ | ⟨rfl, rfl⟩ | ⟨rfl, rfl⟩ <;> rfl

variable {type : Nat}

theorem State.passReceive_down (h : s.link port ≠ lkUp) : s.passReceive port type p = s := if_pos h

variable (hup : s.link port = lkUp)
include hup

theorem State.passReceive_malformed (h : p.reserved = true) : s.passReceive port type p = s.inc PASS_STAT.MALFORMED :=
  (if_neg (not_not.2 hup)).trans (if_pos h)

variable (hform : p.reserved = false)
include hform

theorem State.passReceive_unassigned (h : s.flag PASS_DEV.ASSIGNED = false) : s.passReceive port type p = s :=
  (if_neg (not_not.2 hup)).trans ((if_neg (Bool.eq_false_iff.1 hform)).trans (if_pos (congrArg Bool.not h)))

variable (hid : s.flag PASS_DEV.ASSIGNED = true)
include hid

theorem State.passReceive_assigned : s.passReceive port type p =
    if p.dst = s.rd PASS_DEV.ID then s.deliver (some port.val) type p else s.routePacket type p :=
  (if_neg (not_not.2 hup)).trans ((if_neg (Bool.eq_false_iff.1 hform)).trans (if_neg (by rw [hid]; decide)))

end

/-! ### Packets delivered, by their type (13 R323, R327, R329) -/

section
variable {port : Option Nat} {p : PassPacket} {s : State}

theorem State.deliver_write : s.deliver port ptWrite p = s.serveLine ptWrite p := if_pos rfl

theorem State.deliver_read (q : Nat) : s.deliver (some q) ptRead p = s.slotIn q ptRead p :=
  (if_neg (by decide)).trans (if_pos (by decide))

theorem State.deliver_lock (q : Nat) : s.deliver (some q) ptLock p = s.slotIn q ptLock p :=
  (if_neg (by decide)).trans (if_pos (by decide))

theorem State.deliver_unlock : s.deliver port ptUnlock p = s.serveUnlock p :=
  (if_neg (by decide)).trans ((if_neg (by decide)).trans (if_pos rfl))

theorem State.deliver_poll : s.deliver port ptSbPoll p = s.servePoll p :=
  (if_neg (by decide)).trans ((if_neg (by decide)).trans ((if_neg (by decide)).trans (if_pos rfl)))

/-- What a response brings to the request that it answers; it is only charged where there is none. -/
def State.answered (s : State) (type : Nat) (p : PassPacket) (f : State → PassReq → State) : State :=
  match (s.chargePass p).reqFor p type with
  | some r => f (s.chargePass p) r
  | none => s.chargePass p

theorem State.deliver_writeAck : s.deliver port ptWriteAck p = s.answered ptWrite p (fun t r => t.writeAcked r p.poison) :=
  (if_neg (by decide)).trans ((if_neg (by decide)).trans ((if_neg (by decide)).trans ((if_neg (by decide)).trans ((if_neg (by decide)).trans
    (if_pos rfl)))))

theorem State.deliver_readData : s.deliver port ptReadData p = s.answered ptRead p (fun t r => t.readArrived r p.payload p.poison) :=
  (if_neg (by decide)).trans ((if_neg (by decide)).trans ((if_neg (by decide)).trans ((if_neg (by decide)).trans ((if_neg (by decide)).trans
    ((if_neg (by decide)).trans (if_pos rfl))))))

theorem State.deliver_lockGrant : s.deliver port ptLockGrant p = s.answered ptLock p (fun t r => t.lockGranted r (!p.poison)) :=
  (if_neg (by decide)).trans ((if_neg (by decide)).trans ((if_neg (by decide)).trans ((if_neg (by decide)).trans ((if_neg (by decide)).trans
    ((if_neg (by decide)).trans (if_neg (by decide)))))))

theorem State.answered_none {type : Nat} {f : State → PassReq → State} (h : (s.chargePass p).reqFor p type = none) :
    s.answered type p f = s.chargePass p := by
  rw [State.answered, h]

theorem State.answered_some {type : Nat} {f : State → PassReq → State} {r : PassReq} (h : (s.chargePass p).reqFor p type = some r) :
    s.answered type p f = f (s.chargePass p) r := by
  rw [State.answered, h]

theorem State.deliver_data_unasked (h : s.pass.polls = []) : s.deliver port ptSbData p = s := by
  have hfind : s.pass.polls.find? (fun x => x.tag == p.tag && s.rd PASS_POLL.TARGET x.entry == p.src) = none := by rw [h]; rfl
  simp only [State.deliver, hfind]
  rfl

/-- With no request outstanding there is none that a response answers. -/
theorem State.reqFor_none {type : Nat} (h : s.pass.reqs = []) : (s.chargePass p).reqFor p type = none := by
  have hpass : (s.chargePass p).pass.reqs = s.pass.reqs := by
    unfold State.chargePass State.charge
    repeat' split
    all_goals rfl
  rw [State.reqFor, hpass, h]
  rfl

/-- Where no transfer of this device holds the port's slot, an inbound request goes to its line. -/
theorem State.slotIn_free {q type : Nat} (h : s.slotHeld q = false) : s.slotIn q type p = s.serveLine type p := by
  have hfind : s.pass.reqs.find? (fun r => r.holds && r.port == q) = none := by
    rw [List.find?_eq_none]
    exact fun r hr hheld => Bool.false_ne_true (h.symm.trans (List.any_eq_true.2 ⟨r, hr, hheld⟩))
  rw [State.slotIn, hfind]
  rfl

theorem State.slotHeld_none {q : Nat} (h : s.pass.reqs = []) : s.slotHeld q = false := by
  rw [State.slotHeld, h]
  rfl

/-- A request that waits for its line. -/
def State.lineWaits (s : State) (type : Nat) (p : PassPacket) : State :=
  { s with pass := { s.pass with lineWait := s.pass.lineWait ++ [(type, p, s.localNs)] } }

theorem State.serveLine_write : s.serveLine ptWrite p = if s.lineHeld p then s.lineWaits ptWrite p else s.serveWrite p := by
  rw [State.serveLine, if_pos rfl, State.lineWaits]

theorem State.serveLine_read : s.serveLine ptRead p = if s.lineHeld p then s.lineWaits ptRead p else s.serveRead p := by
  rw [State.serveLine, if_neg (by decide : ¬ptRead = ptWrite), if_pos rfl, State.lineWaits]

theorem State.serveLine_lock : s.serveLine ptLock p = if s.lineHeld p then s.lineWaits ptLock p else s.serveLock p := by
  rw [State.serveLine, if_neg (by decide : ¬ptLock = ptWrite), if_neg (by decide : ¬ptLock = ptRead), State.lineWaits]

/-- A request of firmware's to HBM leads to its own address. -/
theorem State.inbound_firmware {n : Nat} (write : Bool) (hfw : p.fw = true) (hfirst : s.inHbm p.addr = true)
    (hlast : s.inHbm (p.addr + n - 1) = true) : s.inbound p n write = (s, some p.addr) := by
  rw [State.inbound, if_pos hfw, hfirst, hlast]
  rfl

theorem State.chargePass_firmware (hfw : p.fw = true) : s.chargePass p = s := if_pos hfw

theorem State.chargeLines_firmware {a n : Nat} {write : Bool} (hfw : p.fw = true) : s.chargeLines p a n write = s := if_pos hfw

theorem State.serveWrite_firmware (hfw : p.fw = true) (hlive : s.pass.expired.contains (p.src, p.tag) = false)
    (hclean : p.poison = false) (hfirst : s.inHbm p.addr = true) (hlast : s.inHbm (p.addr + p.payload.length - 1) = true) :
    s.serveWrite p = (s.memWrite p.addr p.payload).respond ptWriteAck p [] false := by
  rw [State.serveWrite, hlive, State.inbound_firmware true hfw hfirst hlast]
  simp only [Bool.false_eq_true, if_false, hclean, State.chargeLines_firmware hfw, State.chargePass_firmware hfw]

theorem State.serveRead_firmware (hfw : p.fw = true) (hfirst : s.inHbm p.addr = true) (hlast : s.inHbm (p.addr + p.len - 1) = true) :
    s.serveRead p = (s.readErrs p.addr p.len).respond ptReadData p (s.memRead p.addr p.len)
      (decide (s.hbmWorst p.addr p.len = 2)) := by
  rw [State.serveRead, State.inbound_firmware false hfw hfirst hlast]
  simp only [State.chargeLines_firmware hfw, State.chargePass_firmware hfw]

theorem State.wakeLines_none (h : s.pass.lineWait = []) : s.wakeLines = s := by
  have hsame : { s.pass with lineWait := [] } = s.pass := by rw [← h]
  rw [State.wakeLines, h, hsame]
  rfl

/-- The locks that a sequence holds, and its mark of an expired one, gone. -/
def State.unlocked (s : State) (p : PassPacket) : State := { s with pass := { s.pass with
  locks := s.pass.locks.filter (fun l => !(l.src == p.src && l.tag == p.tag)), expired := s.pass.expired.filter (· != (p.src, p.tag)) } }

theorem State.serveUnlock_none (h : s.pass.lineWait = []) : s.serveUnlock p = s.unlocked p :=
  State.wakeLines_none (s := s.unlocked p) h

end

/-! ### The tunnel (13 R324) -/

section
variable {d : Bytes} {s : State}

theorem exec_tunnelDatagram_off (h : s.flag PASS_TUN.ENABLE = false) : exec (.tunnelDatagram d) s = .next s :=
  congrArg _ (if_pos (congrArg Bool.not h))

variable (hon : s.flag PASS_TUN.ENABLE = true)
include hon

/-- A datagram that is too short or whose CRC-32C is wrong. -/
theorem exec_tunnelDatagram_broken (h : d.length < 28 ∨ leNat (d.drop (d.length - 4)) ≠ crc32c (d.take (d.length - 4))) :
    exec (.tunnelDatagram d) s = .next (s.inc PASS_STAT.MALFORMED) :=
  congrArg _ ((if_neg (by rw [hon]; decide)).trans (if_pos h))

/-- A whole datagram carries a packet. -/
theorem exec_tunnelDatagram_whole (hlen : 28 ≤ d.length) (hcrc : leNat (d.drop (d.length - 4)) = crc32c (d.take (d.length - 4)))
    {x : Nat × PassPacket} (hx : x = packetOf (d.take (d.length - 4))) : exec (.tunnelDatagram d) s = .next (
      if x.2.reserved then s.inc PASS_STAT.MALFORMED
      else if !s.flag PASS_DEV.ASSIGNED then s
      else if x.2.dst = s.rd PASS_DEV.ID then s.deliver none x.1 x.2
      else s.routePacket x.1 x.2) := by
  subst hx
  exact congrArg _ ((if_neg (by rw [hon]; decide)).trans (if_neg (not_or.2 ⟨Nat.not_lt.2 hlen, not_not.2 hcrc⟩)))

end

/-! ### The side band (13 R329) -/

/-- The time of an entry's next poll has come. -/
def State.pollTime (s : State) (i : Nat) : Bool :=
  match Sparse.look none s.pass.polled i with
  | some t => decide (t + s.rd PASS_CFG.POLL_US * 1000 ≤ s.localNs)
  | none => true

theorem State.pollTime_iff {s : State} {i : Nat} : s.pollTime i = true ↔
    ∀ k, Sparse.look none s.pass.polled i = some k → k + s.rd PASS_CFG.POLL_US * 1000 ≤ s.localNs := by
  unfold State.pollTime
  cases Sparse.look none s.pass.polled i with
  | none => exact ⟨fun _ _ => nofun, fun _ => rfl⟩
  | some t => exact decide_eq_true_iff.trans ⟨fun h _ hk => Option.some.inj hk ▸ h, fun h => h t rfl⟩

/-- A poll of an entry noted, under the next tag. -/
def State.pollNoted (s : State) (i : Nat) : State := { s with pass := { s.pass with
  tag := (s.pass.tag + 1) % 65536, polled := Sparse.put none s.pass.polled i (some s.localNs),
  polls := s.pass.polls ++ [⟨i, s.pass.tag, s.localNs, false⟩] } }

/-- The SB_POLL of an entry. -/
def State.pollPacket (s : State) (i : Nat) : PassPacket :=
  { poison := false, cls := 1, fw := true, dst := s.rd PASS_POLL.TARGET i, src := 0, vef := 0, domain := 0,
    addr := s.rd PASS_POLL.WORD i, tag := s.pass.tag, len := 0, gen := 0, payload := [], reserved := false }

section
variable {entry : Fin 16} {s : State}

theorem exec_pollTimer_idle (h : s.flag PASS_POLL.EN entry = false ∨ s.pollTime entry = false ∨ s.flag PASS_DEV.ASSIGNED = false) :
    exec (.pollTimer entry) s = .next s := by
  refine if_pos ?_
  rw [Bool.or_eq_true, Bool.or_eq_true, or_assoc]
  exact h.imp (congrArg Bool.not) (Or.imp (congrArg Bool.not) (congrArg Bool.not))

theorem exec_pollTimer (hen : s.flag PASS_POLL.EN entry = true) (htime : s.pollTime entry = true)
    (hid : s.flag PASS_DEV.ASSIGNED = true) :
    exec (.pollTimer entry) s = .next ((s.pollNoted entry).sendPacket ptSbPoll (s.pollPacket entry)) := by
  refine if_neg (fun h => ?_)
  rw [Bool.or_eq_true, Bool.or_eq_true, or_assoc] at h
  rcases h with h | h | h
  · rw [hen] at h; exact Bool.false_ne_true h
  · exact Bool.false_ne_true ((congrArg Bool.not htime).symm.trans h)
  · rw [hid] at h; exact Bool.false_ne_true h

/-- A poll of an entry has been unanswered for 100 µs, and has not been counted. -/
def State.pollLate (s : State) (i : Nat) (x : SbPoll) : Bool := x.entry == i && !x.missed && decide (x.since + 100000 ≤ s.localNs)

/-- A poll counted as missed. -/
def State.pollMissed (s : State) (i : Nat) (x : SbPoll) : State := { s with pass := { s.pass with
  polls := s.pass.polls.map (fun y => if y = x then { y with missed := true } else y),
  misses := Sparse.put 0 s.pass.misses i (Sparse.look 0 s.pass.misses i + 1) } }

theorem exec_pollMiss_none (h : s.pass.polls.find? (s.pollLate entry) = none) : exec (.pollMiss entry) s = .next s := by
  show execPollMiss entry s = _
  unfold State.pollLate at h
  simp only [execPollMiss, h]

theorem exec_pollMiss_some {x : SbPoll} (h : s.pass.polls.find? (s.pollLate entry) = some x) : exec (.pollMiss entry) s =
    if Sparse.look 0 s.pass.misses entry + 1 ≥ 3 ∧ (!s.flag PASS_POLL.LOST entry) = true then
      .next (((s.pollMissed entry x).wr PASS_POLL.LOST 1 entry).passCause PASS_IRQ_CAUSE.POLL_LOST)
    else .next (s.pollMissed entry x) := by
  show execPollMiss entry s = _
  unfold State.pollLate at h
  simp only [execPollMiss, h]
  rfl

theorem State.pollLate_none (h : ∀ x ∈ s.pass.polls, x.entry = entry.val → x.missed = false → s.localNs < x.since + 100000) :
    s.pass.polls.find? (s.pollLate entry) = none := by
  refine List.find?_eq_none.2 (fun x hx hlate => ?_)
  simp only [State.pollLate, Bool.and_eq_true, beq_iff_eq, Bool.not_eq_true', decide_eq_true_iff] at hlate
  obtain ⟨⟨hentry, hmissed⟩, hsince⟩ := hlate
  exact Nat.not_le.2 (h x hx hentry hmissed) hsince

end

/-- Settles O52: a packet by its port, form and destination, then by its type; a request by the line and the slot that it needs.
Packets as rows of their own are log entry 90. -/
theorem passPackets : Obligations.PassPackets := by
  unfold Obligations.PassPackets
  refine ⟨fun port p s i type hrow => ?receive, fun port p s hup hform hid hdst => ?deliver, fun d s => ?tunnel,
    fun entry s => ⟨fun hoff => ?off, fun hen hid => ⟨fun k hk hearly => ?early, fun hdue => ?poll⟩,
      fun hyoung => exec_pollMiss_none (State.pollLate_none hyoung), fun x hx => ⟨fun hfew => ?missed, fun hthird hnew => ?lost⟩⟩,
    fun src word set s => ⟨fun hwho => congrArg _ (State.asWho_pos s src _ _ _ hwho), fun hwho => congrArg _ (State.asWho_neg s src _ _ _ hwho)⟩⟩
  case receive =>
    rw [exec_packetRow hrow]
    refine ⟨fun hdown => congrArg _ (State.passReceive_down hdown), fun hup hbad => congrArg _ (State.passReceive_malformed hup hbad),
      fun hup hform => ⟨fun hid => congrArg _ (State.passReceive_unassigned hup hform hid), fun hid => ?_⟩⟩
    rw [State.passReceive_assigned hup hform hid]
    exact ⟨fun hother => congrArg _ (if_neg hother), fun hown => congrArg _ (if_pos hown)⟩
  case deliver =>
    have hrow {i : Instr} {type : Nat} (h : (i, type) ∈ packetRows port p) : exec i s = .next (s.deliver (some port.val) type p) := by
      rw [exec_packetRow h, State.passReceive_assigned hup hform hid, if_pos hdst]
    have hwrite : exec (.passWrite port p) s = .next (if s.lineHeld p then s.lineWaits ptWrite p else s.serveWrite p) :=
      (hrow (type := ptWrite) (by simp [packetRows])).trans (congrArg _ (State.deliver_write.trans State.serveLine_write))
    have hread (hslot : s.slotHeld port = false) :
        exec (.passRead port p) s = .next (if s.lineHeld p then s.lineWaits ptRead p else s.serveRead p) :=
      (hrow (type := ptRead) (by simp [packetRows])).trans
        (congrArg _ ((State.deliver_read _).trans ((State.slotIn_free hslot).trans State.serveLine_read)))
    have hlock (hslot : s.slotHeld port = false) :
        exec (.passLock port p) s = .next (if s.lineHeld p then s.lineWaits ptLock p else s.serveLock p) :=
      (hrow (type := ptLock) (by simp [packetRows])).trans
        (congrArg _ ((State.deliver_lock _).trans ((State.slotIn_free hslot).trans State.serveLine_lock)))
    have hack := hrow (i := .passWriteAck port p) (type := ptWriteAck) (by simp [packetRows])
    have hdata := hrow (i := .passReadData port p) (type := ptReadData) (by simp [packetRows])
    have hgrant := hrow (i := .passLockGrant port p) (type := ptLockGrant) (by simp [packetRows])
    have hpoll : exec (.sbPoll port p) s = .next (s.servePoll p) :=
      (hrow (type := ptSbPoll) (by simp [packetRows])).trans (congrArg _ State.deliver_poll)
    rw [State.deliver_writeAck] at hack
    rw [State.deliver_readData] at hdata
    rw [State.deliver_lockGrant] at hgrant
    refine ⟨fun hfw hfree hlive hclean hfirst hlast => ?_, fun hfw hfree hreqs hfirst hlast => ?_, fun _ hfree hreqs => ?_, hwrite,
      fun hslot => ⟨hread hslot, hlock hslot⟩,
      ⟨fun hnone => ?_, fun r hr => ?_, fun hnone => ?_, fun r hr => ?_, fun hnone => ?_, fun r hr => ?_⟩, fun hwait => ?_,
      fun hpeer => hpoll.trans (congrArg _ (if_pos hpeer)), fun hother => hpoll.trans (congrArg _ (if_neg hother)),
      fun hreqs => ⟨?_, ?_, ?_⟩, fun hpolls => ?_⟩
    · rw [hwrite, hfree, State.serveWrite_firmware hfw hlive hclean hfirst hlast]; rfl
    · rw [hread (State.slotHeld_none hreqs), hfree, State.serveRead_firmware hfw hfirst hlast]; rfl
    · rw [hlock (State.slotHeld_none hreqs), hfree]; rfl
    · rw [hack, State.answered_none hnone]
    · rw [hack, State.answered_some hr]
    · rw [hdata, State.answered_none hnone]
    · rw [hdata, State.answered_some hr]
    · rw [hgrant, State.answered_none hnone]
    · rw [hgrant, State.answered_some hr]
    · exact (hrow (type := ptUnlock) (by simp [packetRows])).trans (congrArg _ (State.deliver_unlock.trans (State.serveUnlock_none hwait)))
    · rw [hack, State.answered_none (State.reqFor_none hreqs)]
    · rw [hdata, State.answered_none (State.reqFor_none hreqs)]
    · rw [hgrant, State.answered_none (State.reqFor_none hreqs)]
    · exact (hrow (type := ptSbData) (by simp [packetRows])).trans (congrArg _ (State.deliver_data_unasked hpolls))
  case tunnel =>
    refine ⟨fun hoff => ?_, fun hon => ⟨fun hbad => ?_, fun hlen hcrc => ⟨fun hres => ?_, fun hres hid => ?_, fun hres hid => ⟨fun hown => ?_,
      fun hother => ?_⟩⟩⟩⟩
    · exact exec_tunnelDatagram_off hoff
    · exact exec_tunnelDatagram_broken hon hbad
    all_goals rw [exec_tunnelDatagram_whole hon hlen hcrc rfl]
    · rw [if_pos hres]
    · rw [if_neg (Bool.eq_false_iff.1 hres), if_pos (by rw [hid]; rfl)]
    all_goals rw [if_neg (Bool.eq_false_iff.1 hres), if_neg (by rw [hid]; decide)]
    · rw [if_pos hown]
    · rw [if_neg hother]
  case off => exact exec_pollTimer_idle (hoff.imp_right .inr)
  case early =>
    exact exec_pollTimer_idle (.inr (.inl (Bool.eq_false_iff.2 (fun htime => Nat.not_le.2 hearly (State.pollTime_iff.1 htime k hk)))))
  case poll => exact ⟨_, _, exec_pollTimer hen (State.pollTime_iff.2 hdue) hid, rfl, rfl, rfl, rfl, rfl, rfl⟩
  case missed =>
    refine (exec_pollMiss_some hx).trans (if_neg (fun h => ?_))
    exact hfew.elim (Nat.not_lt.2 h.1) (fun hlost => by rw [hlost] at h; exact Bool.false_ne_true h.2)
  case lost => exact (exec_pollMiss_some hx).trans (if_pos ⟨hthird, congrArg Bool.not hnew⟩)

end Sys2Proof.Machine
end

section
/-! Ethernet frames in and out of the switch, and the link of a port (14 R347–R354). -/

namespace Sys2Proof.Machine

set_option Elab.async false

/-! ### A frame received (14 R348–R350) -/

section
variable {s : State} {from_ rx rxSensor : Nat} {f : Bytes} {e : EthView}

/-- Where no stream table is in use, a frame of the safety VLAN, or any frame once the switch runs, goes to egress at the
ports of its destination; the source of one outside the safety VLAN is learned first. -/
theorem State.forward_plain (hview : ethView f = some e) (hplain : s.streamTables = false)
    (hpass : s.safetyFrame e = true ∨ s.flag GW_SW.RUN = true) {t : State}
    (ht : t = if s.safetyFrame e then s else s.learn e from_) :
    s.forward from_ rx rxSensor f = (t.portsFor e from_).foldl
      (fun u p => u.egress ⟨p, e.tci.getD 0 / 2 ^ 13, f, none, from_, rx, rxSensor⟩) t := by
  have hrun : ¬((!s.safetyFrame e && !s.flag GW_SW.RUN) = true) := by
    rcases hpass with h | h <;> rw [h] <;> simp
  subst ht
  simp only [State.forward, hview, hplain, Bool.false_and, Bool.false_eq_true, if_false, if_neg hrun]

end

section
variable {s : State} {port : Fin 10} {f : Bytes} {g : Option GptpInfo}

theorem exec_ethFrameReceive_closed (h : s.rd GW_PORT.STATE port ≠ 2 ∨ f.length < 60) : exec (.ethFrameReceive port f g) s = .next s :=
  if_pos h

section
variable (hon : s.rd GW_PORT.STATE port = 2)
include hon

theorem exec_ethFrameReceive_long (h : 2044 < f.length) : exec (.ethFrameReceive port f g) s = .next (s.inc GW_PORT.RX_DROP port) :=
  (if_neg (by omega)).trans (if_pos h)

variable (hmin : 60 ≤ f.length) (hmax : f.length ≤ 2044)
include hmin hmax

theorem exec_ethFrameReceive_unread (h : ethView f = none) : exec (.ethFrameReceive port f g) s = .next s := by
  refine ((if_neg (by omega)).trans (if_neg (by omega))).trans ?_
  rw [h]

variable {e : EthView} (hview : ethView f = some e)
include hview

theorem exec_ethFrameReceive_barred (hsafe : s.safetyFrame e = false) (hrun : s.flag GW_SW.RUN = false) :
    exec (.ethFrameReceive port f g) s = .next (s.inc GW_PORT.RX_DROP port) := by
  refine ((if_neg (by omega)).trans (if_neg (by omega))).trans ?_
  simp only [hview, hsafe, hrun]
  rfl

/-- A frame that the switch takes goes to the gPTP service by its type, or is forwarded. -/
theorem exec_ethFrameReceive_taken (hpass : s.safetyFrame e = true ∨ s.flag GW_SW.RUN = true) :
    exec (.ethFrameReceive port f g) s = .next (if e.etype = 0x88F7 then (g.elim s (s.gptpMessage port))
      else s.forward port (s.vehicleNs - s.rd GW_PORT.RX_LAT port) (s.sensorNs - s.rd GW_PORT.RX_LAT port) f) := by
  have hrun : ¬((!s.safetyFrame e && !s.flag GW_SW.RUN) = true) := by
    rcases hpass with h | h <;> rw [h] <;> simp
  refine ((if_neg (by omega)).trans (if_neg (by omega))).trans ?_
  simp only [hview, if_neg hrun]
  split
  · cases g <;> rfl
  · rfl

end
end

/-! ### A host transmit ring (14 R353) -/

section
variable {s : State} {ring : Fin 8}

theorem exec_ethTransmit_idle (h : s.flag GW_HPQ.TX_ENABLE ring = false ∨ s.rd GW_PORT.STATE 8 ≠ 2 ∨
    s.rd GW_HPQ.TX_HEAD ring % 2 ^ s.rd GW_HPQ.TX_SIZE_LOG2 ring = s.rd GW_HPQ.TX_TAIL ring % 2 ^ s.rd GW_HPQ.TX_SIZE_LOG2 ring) :
    exec (.ethTransmit ring) s = .next s := by
  refine if_pos ?_
  rcases h with h | h | h <;> simp [h]

/-- The address of the next descriptor of a host transmit ring. -/
def State.txDescriptor (s : State) (ring : Nat) : Nat :=
  s.rd GW_HPQ.TX_BASE ring / 4096 * 4096 + s.rd GW_HPQ.TX_HEAD ring % 2 ^ s.rd GW_HPQ.TX_SIZE_LOG2 ring * 16

/-- The state after a descriptor and its frame have been read. -/
def State.txTaken (s : State) (ring : Nat) (d : Bytes) : State :=
  (((s.ctxTouch gwCtx (s.txDescriptor ring) 16).ctxTouch gwCtx (Bytes.num d 0 8) (Bytes.num d 8 2)).wr GW_HPQ.TX_HEAD
    ((s.rd GW_HPQ.TX_HEAD ring + 1) % 2 ^ s.rd GW_HPQ.TX_SIZE_LOG2 ring) ring)

theorem exec_ethTransmit (hen : s.flag GW_HPQ.TX_ENABLE ring = true) (hon : s.rd GW_PORT.STATE 8 = 2)
    (hne : s.rd GW_HPQ.TX_HEAD ring % 2 ^ s.rd GW_HPQ.TX_SIZE_LOG2 ring ≠ s.rd GW_HPQ.TX_TAIL ring % 2 ^ s.rd GW_HPQ.TX_SIZE_LOG2 ring)
    {d f : Bytes} (hd : d = s.ctxRead gwCtx (s.txDescriptor ring) 16)
    (hf : f = (s.ctxTouch gwCtx (s.txDescriptor ring) 16).ctxRead gwCtx (Bytes.num d 0 8) (Bytes.num d 8 2)) :
    exec (.ethTransmit ring) s = .next ((s.txTaken ring d).hostTx d f) := by
  subst hd hf
  exact if_neg (by simp [hen, hon, hne])

end

section
variable {s : State} {d f : Bytes}

theorem State.hostTx_outside (h10 : 10 ≤ Bytes.num d 0xA 1) (hff : Bytes.num d 0xA 1 ≠ 0xFF) : s.hostTx d f = s :=
  (if_neg hff).trans (if_pos h10)

/-- The stamp that a descriptor asks for: its identifier and base. -/
def stampAsked (d : Bytes) : Option (Nat × Nat) :=
  if (Bytes.num d 0xB 1).testBit 0 then some (Bytes.num d 0xC 2, Bytes.num d 0xB 1 / 2 % 4) else none

theorem stampAsked_isSome (d : Bytes) : (stampAsked d).isSome = (Bytes.num d 0xB 1).testBit 0 := by
  unfold stampAsked
  cases (Bytes.num d 0xB 1).testBit 0 <;> rfl

/-- A descriptor that names no port: its frame is received on port 8, and a stamp that it asks for is ignored. -/
theorem State.hostTx_switched (hff : Bytes.num d 0xA 1 = 0xFF) {v : State}
    (hv : v = if (Bytes.num d 0xB 1).testBit 0 then s.inc GW_PORT.TS_IGNORED 8 else s) :
    s.hostTx d f = if Bytes.num d 8 2 < 64 ∨ 2044 < Bytes.num d 8 2 then v
      else v.forward 8 (v.vehicleNs - s.rd GW_PORT.RX_LAT 8) (v.sensorNs - s.rd GW_PORT.RX_LAT 8) f := by
  subst hv
  rw [← stampAsked_isSome d]
  exact if_pos hff

/-- The frame of a descriptor that names a port, as it waits there. -/
def State.txFrame (s : State) (d f : Bytes) : Egress :=
  ⟨Bytes.num d 0xA 1, ((ethView f).map (fun e => e.tci.getD 0 / 2 ^ 13)).getD 0, f, stampAsked d, 8,
    s.vehicleNs - s.rd GW_PORT.RX_LAT 8, s.sensorNs - s.rd GW_PORT.RX_LAT 8⟩

theorem State.hostTx_port (h10 : Bytes.num d 0xA 1 < 10) : s.hostTx d f =
    if Bytes.num d 8 2 < 64 ∨ 2044 < Bytes.num d 8 2 ∨ (!s.flag GW_SW.RUN ∧ !(ethView f).any s.safetyFrame) then
      s.dropStamp (s.txFrame d f) else s.egress (s.txFrame d f) := by
  refine ((if_neg (by omega)).trans (if_neg (by omega))).trans ?_
  unfold State.txFrame
  cases ethView f <;> rfl

end

/-! ### The link of a port (14 R347, R354) -/

/-- The stamps, marked DROPPED, of the frames that asked for one. -/
def droppedStamps (es : List Egress) : List TxStamp :=
  es.filterMap (fun e => e.stamp.map (fun x => ⟨e.port, x.1, x.2, true, 0⟩))

theorem State.dropStamp_eq (s : State) (e : Egress) :
    s.dropStamp e = { s with gw := { s.gw with leaving := s.gw.leaving ++ droppedStamps [e] } } := by
  unfold State.dropStamp droppedStamps
  cases h : e.stamp with
  | none => simp [h]
  | some x => simp [h]

theorem State.foldl_dropStamp (es : List Egress) (s : State) :
    es.foldl (fun t e => t.dropStamp e) s = { s with gw := { s.gw with leaving := s.gw.leaving ++ droppedStamps es } } := by
  induction es generalizing s with
  | nil => simp [droppedStamps]
  | cons e r ih =>
    have hsplit : droppedStamps (e :: r) = droppedStamps [e] ++ droppedStamps r := List.filterMap_append (l := [e])
    rw [List.foldl_cons, ih, State.dropStamp_eq, hsplit, List.append_assoc]

theorem State.dropEgress_eq (s : State) (p : Nat) : s.dropEgress p = { s with gw := { s.gw with
    egress := s.gw.egress.filter (fun e => e.port != p),
    leaving := s.gw.leaving ++ droppedStamps (s.gw.egress.filter (fun e => e.port == p)) } } :=
  State.foldl_dropStamp _ _

theorem exec_ethPortLinkChange_down (port : Fin 10) (s : State) : ∃ t, exec (.ethPortLinkChange port false) s = .next t ∧
    t.flag GW_PORT.LINK port = false ∧ t.gw.egress = s.gw.egress.filter (fun e => e.port != port.val) ∧
    t.gw.leaving = s.gw.leaving ++ droppedStamps (s.gw.egress.filter (fun e => e.port == port.val)) := by
  refine ⟨(s.wr GW_PORT.LINK 0 port).dropEgress port, rfl, ?_, ?_, ?_⟩
  · rw [State.dropEgress_eq]
    have hlink : (s.wr GW_PORT.LINK 0 port).rd GW_PORT.LINK port = 0 := State.rd_wr_same _ _ _ _ _
    exact congrArg (· != 0) hlink
  · rw [State.dropEgress_eq]; rfl
  · rw [State.dropEgress_eq]; rfl

/-- Settles O54: a frame received by the state of its port, its length, its VLAN and its type; a descriptor of a host ring by
the port that it names; the stamps of the frames that a loss of link drops by induction over them. What counts in RX_DROP is
log entry 97, TS_IGNORED at port 8 and the stamps of host frames at port 8 less its RX_LAT log entry 99, the view of a frame
log entry 98. -/
theorem ethernetFrames : Obligations.EthernetFrames := by
  unfold Obligations.EthernetFrames
  refine ⟨fun port f g s => ⟨exec_ethFrameReceive_closed, exec_ethFrameReceive_long, exec_ethFrameReceive_unread, ?received⟩,
    fun ring s => ⟨exec_ethTransmit_idle, ?host⟩, fun port s => ⟨rfl, exec_ethPortLinkChange_down port s⟩,
    fun src s => ⟨fun h => congrArg _ (State.asWho_pos s src _ _ _ h), fun h => congrArg _ (State.asWho_neg s src _ _ _ h)⟩⟩
  case received =>
    intro e hon hmin hmax hview x
    refine ⟨exec_ethFrameReceive_barred hon hmin hmax hview, fun hpass => ?_⟩
    have htaken := exec_ethFrameReceive_taken (g := g) hon hmin hmax hview hpass
    refine ⟨fun i hg hi => ?_, fun hg hi => ?_, fun hg => ?_, fun hg hplain => ⟨fun hsafe => ?_, fun hsafe => ?_⟩⟩
    · rw [htaken, if_pos hg, hi]; rfl
    · rw [htaken, if_pos hg, hi]; rfl
    · rw [htaken, if_neg hg]
    · rw [htaken, if_neg hg, State.forward_plain hview hplain hpass (t := s.learn e port) (by rw [hsafe]; rfl)]
    · rw [htaken, if_neg hg, State.forward_plain hview hplain hpass (t := s) (by rw [hsafe]; rfl)]
  case host =>
    intro a h d u ha hh hd hu hen hon hne
    subst ha hh
    obtain rfl : u = s.txTaken ring d := hu
    refine ⟨fun h10 hff => ?_, fun f hf => ⟨fun hff => ?_, fun h10 => ?_⟩⟩
    · rw [exec_ethTransmit hen hon hne hd rfl]
      exact congrArg _ (State.hostTx_outside h10 hff)
    · rw [exec_ethTransmit hen hon hne hd hf, State.hostTx_switched hff rfl]
      exact ⟨fun hlen => congrArg _ (if_pos hlen), fun hmin hmax => congrArg _ (if_neg (by omega))⟩
    · rw [exec_ethTransmit hen hon hne hd hf, State.hostTx_port h10]
      refine ⟨fun hbar => congrArg _ (if_pos ?_), fun hmin hmax hpass => congrArg _ (if_neg ?_)⟩
      · simpa using hbar
      · rcases hpass with h | h <;> simp [h, hmin, hmax]

end Sys2Proof.Machine
end

section
/-! Transmit timestamps and the gates of a port (14 R351, R354). -/

namespace Sys2Proof.Machine

set_option Elab.async false

/-! ### Timestamps (14 R354) -/

section
variable {port : Fin 10} {s : State} {x : TxStamp}

theorem exec_txTimestamp_none (h : ∀ y ∈ s.gw.leaving, y.port ≠ port.val) : exec (.txTimestamp port) s = .next s := by
  have hfind : s.gw.leaving.find? (fun y => y.port == port.val) = none :=
    List.find?_eq_none.2 (fun y hy hport => h y hy (beq_iff_eq.1 hport))
  show execTxTimestamp port s = _
  simp only [execTxTimestamp, hfind]

/-- The oldest stamp taken at a port no longer on its way. -/
def State.stampTaken (s : State) (x : TxStamp) : State := { s with gw := { s.gw with leaving := s.gw.leaving.erase x } }

theorem exec_txTimestamp_some (h : s.gw.leaving.find? (fun y => y.port == port.val) = some x) : exec (.txTimestamp port) s =
    if 32 ≤ (s.gw.stamps.filter (fun y => y.port == port.val)).length then
      .next (((s.stampTaken x).wr GW_TXTS_STAT.OVF 1 port).inc GW_TXTS_STAT.LOST port)
    else .next (({ s.stampTaken x with gw := { (s.stampTaken x).gw with stamps := (s.stampTaken x).gw.stamps ++ [x] } } : State).showStamps port) := by
  show execTxTimestamp port s = _
  simp only [execTxTimestamp, h]
  rfl

theorem State.popStamp_none {p : Nat} (h : ∀ y ∈ s.gw.stamps, y.port ≠ p) : s.popStamp p = s := by
  have hfind : s.gw.stamps.find? (fun y => y.port == p) = none :=
    List.find?_eq_none.2 (fun y hy hport => h y hy (beq_iff_eq.1 hport))
  simp only [State.popStamp, hfind]

/-- The registers of a port's queue show how many entries it holds. -/
theorem State.showStamps_facts (s : State) (p : Nat) : (s.showStamps p).gw = s.gw ∧
    (s.showStamps p).rd GW_TXTS_STAT.COUNT p = (s.gw.stamps.filter (fun y => y.port == p)).length % 2 ^ GW_TXTS_STAT.COUNT.w :=
  ⟨rfl, State.rd_wr_same _ _ _ _ _⟩

theorem State.popStamp_some {p : Nat} (h : s.gw.stamps.find? (fun y => y.port == p) = some x) :
    (s.popStamp p).gw.stamps = s.gw.stamps.erase x ∧
    (s.popStamp p).rd GW_TXTS_STAT.COUNT p = ((s.gw.stamps.erase x).filter (fun y => y.port == p)).length % 2 ^ GW_TXTS_STAT.COUNT.w := by
  have hpop : s.popStamp p = ({ s with gw := { s.gw with stamps := s.gw.stamps.erase x } } : State).showStamps p := by
    simp only [State.popStamp, h]
  rw [hpop]
  obtain ⟨hgw, hcount⟩ := ({ s with gw := { s.gw with stamps := s.gw.stamps.erase x } } : State).showStamps_facts p
  exact ⟨congrArg GwSt.stamps hgw, hcount⟩

end

/-! ### Gates (14 R351) -/

/-- The entry in force at an offset of a cycle is the one whose interval holds the offset, and its end is where that ends. -/
theorem gateAt_holds {l : List (Nat × Nat)} {o at_ st e : Nat} (h : gateAt l o at_ = some (st, e)) (hstart : at_ ≤ o) :
    ∃ k n, l[k]? = some (st, n) ∧ at_ + ((l.take k).map (·.2)).sum ≤ o ∧ o < e ∧ e = at_ + ((l.take k).map (·.2)).sum + n := by
  induction l generalizing at_ with
  | nil => exact absurd h (by simp [gateAt])
  | cons x r ih =>
    obtain ⟨st', n'⟩ := x
    rw [gateAt] at h
    by_cases hin : o < at_ + n'
    · rw [if_pos hin] at h
      obtain ⟨rfl, rfl⟩ := Prod.mk.inj (Option.some.inj h)
      exact ⟨0, n', rfl, hstart, hin, rfl⟩
    · rw [if_neg hin] at h
      obtain ⟨k, n, hk, hfrom, hto, he⟩ := ih h (Nat.not_lt.1 hin)
      refine ⟨k + 1, n, hk, ?_⟩
      rw [List.take_succ_cons, List.map_cons, List.sum_cons, ← Nat.add_assoc]
      exact ⟨hfrom, hto, he⟩

section
variable {port : Fin 10} {s : State} {p : Nat}

theorem exec_gateInterval_early {e : Nat} (h : Sparse.look none s.gw.gateEnd port.val = some e) (hearly : s.vehicleNs < e) :
    exec (.gateInterval port) s = .next s := by
  show execGateInterval port s = _
  simp only [execGateInterval, h, if_pos hearly]

theorem exec_gateInterval_due (h : ∀ e, Sparse.look none s.gw.gateEnd port.val = some e → e ≤ s.vehicleNs) :
    exec (.gateInterval port) s = .next (((s.swapGates port).setGates port).drainPort port) := by
  show execGateInterval port s = _
  cases hend : Sparse.look none s.gw.gateEnd port.val with
  | none => simp only [execGateInterval, hend]
  | some e => simp only [execGateInterval, hend, if_neg (Nat.not_lt.2 (h e hend))]

theorem State.swapGates_none (h : s.gateWord p 2065 = 0) : s.swapGates p = s := if_pos (.inl h)

/-- The gates of a port set, and the end of their interval. -/
def State.gatesPut (s : State) (p g : Nat) (e : Option Nat) : State :=
  { s with gw := { s.gw with gates := Sparse.put 0xFF s.gw.gates p g, gateEnd := Sparse.put none s.gw.gateEnd p e,
                             gateHold := s.gw.gateHold.filter (· != p) } }

theorem State.gatesPut_facts (s : State) (p g : Nat) (e : Option Nat) :
    Sparse.look 0xFF (s.gatesPut p g e).gw.gates p = g ∧ Sparse.look none (s.gatesPut p g e).gw.gateEnd p = e :=
  ⟨Sparse.look_put_same _ _ _ _, Sparse.look_put_same _ _ _ _⟩

theorem State.setGates_off (h : s.gateWord p 0 = 0) : s.setGates p = s.gatesPut p 0xFF none := if_pos h

/-- In a schedule whose base time has come, the entry in force at the offset into the cycle sets the gates. -/
theorem State.setGates_scheduled (hon : s.gateWord p 0 ≠ 0) (hcycle : s.gateTime p 2055 ≠ 0) (hlist : s.gateWord p 4 ≠ 0)
    (hbase : s.gateTime p 2063 ≤ s.vehicleNs) {st e : Nat}
    (h : gateAt (s.gateList p) ((s.vehicleNs - s.gateTime p 2063) % s.gateTime p 2055) 0 = some (st, e)) :
    s.setGates p = s.gatesPut p st (some (s.gateTime p 2063 +
      (s.vehicleNs - s.gateTime p 2063) / s.gateTime p 2055 * s.gateTime p 2055 + min e (s.gateTime p 2055))) := by
  rw [Nat.mod_eq_sub_div_mul, ← Nat.sub_add_eq] at h
  simp only [State.setGates, if_neg hon, if_neg (not_or.2 ⟨hcycle, hlist⟩), if_neg (Nat.not_lt.2 hbase), h]
  rfl

end

/-- Settles O55: a stamp by the room of its port's queue, POP by its requester, and the gates of a schedule by the entry whose
interval holds the offset, found by induction over the list. The words of the tables are log entry 96. -/
theorem stampsAndGates : Obligations.StampsAndGates := by
  unfold Obligations.StampsAndGates
  refine ⟨fun port x s => ⟨exec_txTimestamp_none, fun h => ⟨fun hfull => ?full, fun hroom => ?room⟩⟩,
    fun src port x s => ⟨fun hwho => congrArg _ (State.asWho_neg s src _ _ _ hwho), fun hwho => ?pop⟩,
    fun port s => ⟨fun e h hearly => exec_gateInterval_early h hearly, exec_gateInterval_due, State.swapGates_none⟩,
    fun port s => ⟨fun hoff => ?off, fun hon hcycle hlist hbase st e h => ?schedule⟩⟩
  case full => exact (exec_txTimestamp_some h).trans (if_pos hfull)
  case room => exact (exec_txTimestamp_some h).trans (if_neg (Nat.not_le.2 hroom))
  case pop =>
    have hexec : exec (.txtsPop src port) s = .next (s.popStamp port) := congrArg _ (State.asWho_pos s src _ _ _ hwho)
    exact ⟨fun h => hexec.trans (congrArg _ (State.popStamp_none h)), fun h => ⟨_, hexec, State.popStamp_some h⟩⟩
  case off =>
    rw [State.setGates_off hoff]
    exact s.gatesPut_facts _ _ _
  case schedule =>
    rw [State.setGates_scheduled hon hcycle hlist hbase h]
    refine ⟨?_, s.gatesPut_facts _ _ _⟩
    simpa only [Nat.zero_add] using gateAt_holds h (Nat.zero_le _)

end Sys2Proof.Machine
end

section
/-! CAN controllers and the signal gateway (14 R356–R361). -/

namespace Sys2Proof.Machine

set_option Elab.async false

/-! ### CAN controllers (14 R356–R358) -/

section
variable {s : State} {c : Nat}

theorem State.canOn_true (hon : s.rd GW_CAN.STATE c = 2) (hbus : s.flag GW_CAN.BUS_OFF c = false) : s.canOn c = true := by
  rw [State.canOn, hon, hbus]; rfl

theorem State.canOn_false (h : s.rd GW_CAN.STATE c ≠ 2 ∨ s.flag GW_CAN.BUS_OFF c = true) : s.canOn c = false := by
  rw [State.canOn, Bool.and_eq_false_iff, beq_eq_false_iff_ne, Bool.not_eq_false']
  exact h

end

section
variable {s : State} {ctl : Fin 16} {f : CanFrame}

theorem exec_canFrameReceive_closed (h : s.canOn ctl = false ∨ s.canFormat ctl f.fd f.xl = false) :
    exec (.canFrameReceive ctl f) s = .next s := by
  refine if_pos (Bool.or_eq_true_iff.2 ?_)
  exact h.imp (congrArg Bool.not) (congrArg Bool.not)

/-- What a frame that a controller receives leaves: ingress, its ring and the containers that name it; a safety controller's
goes to none of them. -/
def State.canTaken (s : State) (ctl : Fin 16) (f : CanFrame) : State :=
  if 14 ≤ ctl.val then s
  else
    let t := s.canIngest ctl f.id (b2n f.xl * 2 + b2n f.fd * 4 + b2n f.ext * 8) f.data
    let u := if Config.canAccept ctl f.id f.ext then t.canRing ctl f else t
    u.toContainers (fun i => !s.flag GW_CONT.KIND i && s.rd GW_CONT.CTRL i == ctl.val && s.rd GW_CONT.ID i == f.id &&
      s.flag GW_CONT.EXT i == f.ext && s.flag GW_CONT.FD i == f.fd && s.flag GW_CONT.XL i == f.xl) f.data s.vehicleNs

theorem exec_canFrameReceive (hon : s.canOn ctl = true) (hformat : s.canFormat ctl f.fd f.xl = true) :
    exec (.canFrameReceive ctl f) s = .next (if s.cur = mDepot ∧ s.wakeFrame f then (s.canTaken ctl f).wake 3 else s.canTaken ctl f) :=
  if_neg (by rw [hon, hformat]; decide)

/-- A wake identifier acts in DEPOT alone. -/
theorem not_wake (h : s.cur ≠ mDepot ∨ s.wakeFrame f = false) : ¬(s.cur = mDepot ∧ s.wakeFrame f = true) :=
  fun ⟨hdepot, hwake⟩ => h.elim (fun hno => hno hdepot) (fun hno => Bool.false_ne_true (hno.symm.trans hwake))

end

section
variable {s : State} {c : Nat} {f : CanFrame}

theorem State.canRing_full (h : (s.rd GW_CAN.RX_TAIL c + 1) % 2 ^ s.rd GW_CAN.RX_SIZE_LOG2 c =
    s.rd GW_CAN.RX_HEAD c % 2 ^ s.rd GW_CAN.RX_SIZE_LOG2 c) : s.canRing c f = s.inc GW_CAN.RX_DROP c := if_pos h

theorem State.canRing_tail (h : (s.rd GW_CAN.RX_TAIL c + 1) % 2 ^ s.rd GW_CAN.RX_SIZE_LOG2 c ≠
    s.rd GW_CAN.RX_HEAD c % 2 ^ s.rd GW_CAN.RX_SIZE_LOG2 c) : (s.canRing c f).rd GW_CAN.RX_TAIL c =
      (s.rd GW_CAN.RX_TAIL c + 1) % 2 ^ s.rd GW_CAN.RX_SIZE_LOG2 c % 2 ^ GW_CAN.RX_TAIL.w := by
  rw [State.canRing, if_neg h]
  exact State.rd_wr_same _ _ _ _ _

end

section
variable {s : State} {ctl : Fin 14}

theorem exec_canTransmit_idle (h : s.canOn ctl = false ∨
    s.rd GW_CAN.TX_HEAD ctl % 2 ^ s.rd GW_CAN.TX_SIZE_LOG2 ctl = s.rd GW_CAN.TX_TAIL ctl % 2 ^ s.rd GW_CAN.TX_SIZE_LOG2 ctl) :
    exec (.canTransmit ctl) s = .next s := by
  refine if_pos (Bool.or_eq_true_iff.2 ?_)
  exact h.imp (congrArg Bool.not) beq_iff_eq.2

/-- The address of the next entry of a transmit ring. -/
def State.canTxAt (s : State) (c : Nat) : Nat :=
  s.rd GW_CAN.TX_BASE c / 4096 * 4096 + s.rd GW_CAN.TX_HEAD c % 2 ^ s.rd GW_CAN.TX_SIZE_LOG2 c * s.canEntry c

/-- The state after the next entry of a transmit ring has been read. -/
def State.canTxTaken (s : State) (c : Nat) : State :=
  (s.ctxTouch gwCtx (s.canTxAt c) (s.canEntry c)).wr GW_CAN.TX_HEAD ((s.rd GW_CAN.TX_HEAD c + 1) % 2 ^ s.rd GW_CAN.TX_SIZE_LOG2 c) c

/-- The bytes of a ring entry's frame: no more than its format and the entry hold. -/
def canTxLen (e : Bytes) (w : Nat) : Nat :=
  min (Bytes.num e 14 2) (min (if (Bytes.num e 12 2).testBit 0 then 2048 else if (Bytes.num e 12 2).testBit 1 then 64 else 8) (w - 16))

theorem exec_canTransmit (hon : s.canOn ctl = true)
    (hne : s.rd GW_CAN.TX_HEAD ctl % 2 ^ s.rd GW_CAN.TX_SIZE_LOG2 ctl ≠ s.rd GW_CAN.TX_TAIL ctl % 2 ^ s.rd GW_CAN.TX_SIZE_LOG2 ctl)
    {e : Bytes} (he : e = s.ctxRead gwCtx (s.canTxAt ctl) (s.canEntry ctl)) : exec (.canTransmit ctl) s =
      if s.canFormat ctl ((Bytes.num e 12 2).testBit 1) ((Bytes.num e 12 2).testBit 0) then
        .next ((s.canTxTaken ctl).emit (.can ctl (Bytes.num e 8 4 % 2 ^ 29) ((Bytes.num e 12 2).testBit 2)
          (Bytes.sub e 16 (canTxLen e (s.canEntry ctl)))))
      else .next (s.canTxTaken ctl) := by
  subst he
  exact if_neg (by rw [hon, beq_eq_false_iff_ne.2 hne]; decide)

end

section
variable {s : State} {ctl : Fin 16}

theorem exec_busOff_closed (h : s.canOn ctl = false) : exec (.busOff ctl) s = .next s := if_pos (congrArg Bool.not h)

/-- A controller's bus-off, with the error counter that the model gives it. -/
def State.busOffSet (s : State) (ctl : Fin 16) : State := (s.wr GW_CAN.BUS_OFF 1 ctl).wr GW_CAN.TEC 0xFF ctl

theorem exec_busOff (h : s.canOn ctl = true) : exec (.busOff ctl) s =
    .next (if 14 ≤ ctl.val ∧ !s.saf.held ∧ !s.flag SAF_CTL.SAFE_STATE then (s.busOffSet ctl).sendStatus (s.busOffSet ctl).statusCode
      else s.busOffSet ctl) := by
  have hsafe : (s.busOffSet ctl).flag SAF_CTL.SAFE_STATE = s.flag SAF_CTL.SAFE_STATE := by
    rw [State.busOffSet, State.flag_wr_ne _ GW_CAN.TEC SAF_CTL.SAFE_STATE _ _ _ _ _ (by decide),
      State.flag_wr_ne _ GW_CAN.BUS_OFF SAF_CTL.SAFE_STATE _ _ _ _ _ (by decide)]
  rw [← hsafe]
  exact if_neg (by rw [h]; decide)

theorem exec_busOffRecovery (ctl : Fin 16) (s : State) : exec (.busOffRecovery ctl) s =
    if s.flag GW_CAN.BUS_OFF ctl ∧ s.flag GW_CAN.AUTO_RECOVER ctl then
      .next (((s.wr GW_CAN.BUS_OFF 0 ctl).wr GW_CAN.TEC 0 ctl).wr GW_CAN.REC 0 ctl)
    else .next s := rfl

end

/-! ### Containers (14 R359, R361) -/

@[simp] theorem State.cont_setCont (s : State) (i : Nat) (x : ContRt) : (s.setCont i x).cont i = x := Sparse.look_put_same _ _ _ _

section
variable {s : State} {i : Fin 1024}

theorem exec_containerSend_closed (h : s.flag GW_CONT.VALID i = false ∨ s.contOpen i = false) :
    exec (.containerSend i) s = .next s := by
  refine if_pos (Bool.or_eq_true_iff.2 ?_)
  exact h.imp (congrArg Bool.not) (congrArg Bool.not)

section
variable (hvalid : s.flag GW_CONT.VALID i = true) (hopen : s.contOpen i = true)
include hvalid hopen

theorem exec_containerSend_image {img : Bytes} {rest : List Bytes} (h : (s.cont i).due = img :: rest) :
    exec (.containerSend i) s = .next ((s.sendCont i img).setCont i { s.cont i with due := rest }) := by
  show execContainerSend i s = _
  simp only [execContainerSend, hvalid, hopen, h, Bool.not_true, Bool.or_self, Bool.false_eq_true, if_false]

theorem exec_containerSend_rest (hdue : (s.cont i).due = []) (h : (s.cont i).oldest = none) : exec (.containerSend i) s = .next s := by
  show execContainerSend i s = _
  simp only [execContainerSend, hvalid, hopen, hdue, h, Bool.not_true, Bool.or_self, Bool.false_eq_true, if_false]

theorem exec_containerSend_pending {a : Nat} (hdue : (s.cont i).due = []) (h : (s.cont i).oldest = some a) : exec (.containerSend i) s =
    if s.vehicleNs < max (s.cont i).nextDue a then .next s
    else .next ((s.sendCont i (s.cont i).image).setCont i
      { s.cont i with unsent := [], oldest := none, nextDue := max (s.cont i).nextDue a + s.contGap i }) := by
  show execContainerSend i s = _
  simp only [execContainerSend, hvalid, hopen, hdue, h, Bool.not_true, Bool.or_self, Bool.false_eq_true, if_false]

end
end

section
variable {s : State} {i : Nat} {image : Bytes}

theorem State.sendCont_can (h : s.flag GW_CONT.KIND i = false) : s.sendCont i image = s.emit (.can (s.rd GW_CONT.CTRL i)
    (s.rd GW_CONT.ID i % 2 ^ 29) (s.flag GW_CONT.EXT i) (Bytes.pad image (s.rd GW_CONT.LEN i))) :=
  if_neg (Bool.eq_false_iff.1 h)

theorem State.sendCont_udp (h : s.flag GW_CONT.KIND i = true) : s.sendCont i image = s.emit (.udp
    (s.rd GW_ADDR.ADDR (s.rd GW_CONT.ADDR i)) (s.rd GW_CONT.VLAN i) (s.rd GW_CONT.UDP_PORT i)
    (beBytes 4 (s.rd GW_CONT.ID i) ++ beBytes 4 (s.rd GW_CONT.LEN i) ++ Bytes.pad image (s.rd GW_CONT.LEN i))) :=
  if_pos h

end

/-- The greatest length of a container's payload, by its kind and format. -/
def State.contCap (s : State) (i : Nat) : Nat :=
  if s.flag GW_CONT.KIND i then 2000 else if s.flag GW_CONT.FD i || s.flag GW_CONT.XL i then 64 else 8

/-- A container that R359 refuses. -/
def State.contBad (s : State) (i : Nat) : Prop :=
  14 ≤ s.rd GW_CONT.CTRL i ∨ (s.flag GW_CONT.DIR i = true ∧ (s.rd GW_CONT.LEN i = 0 ∨ s.contCap i < s.rd GW_CONT.LEN i)) ∨
    (s.flag GW_CONT.DIR i = true ∧ s.flag GW_CONT.KIND i = true ∧ s.rd GW_ADDR.ADDR (s.rd GW_CONT.ADDR i) = 0)

section
variable {s : State} {i : Nat}

theorem State.contValid_refused (h : s.contBad i) : s.contValid i = s.inc GW_SG_STAT.CFG_REFUSED := if_pos h

theorem State.contValid_taken (h : ¬s.contBad i) : (s.contValid i).flag GW_CONT.VALID i = true ∧ (s.contValid i).cont i = ContRt.rest := by
  have htaken : s.contValid i = (s.wr GW_CONT.VALID 1 i).setCont i ContRt.rest := if_neg h
  have hvalid : (s.wr GW_CONT.VALID 1 i).rd GW_CONT.VALID i = 1 := State.rd_wr_same _ _ _ _ _
  rw [htaken]
  exact ⟨congrArg (· != 0) hvalid, State.cont_setCont _ _ _⟩

theorem State.not_contBad (hctrl : s.rd GW_CONT.CTRL i < 14) (hout : s.flag GW_CONT.DIR i = false ∨ (0 < s.rd GW_CONT.LEN i ∧
    s.rd GW_CONT.LEN i ≤ s.contCap i ∧ (s.flag GW_CONT.KIND i = false ∨ s.rd GW_ADDR.ADDR (s.rd GW_CONT.ADDR i) ≠ 0))) : ¬s.contBad i := by
  rintro (hhigh | ⟨hdir, hlen⟩ | ⟨hdir, hkind, haddr⟩)
  · omega
  · rcases hout with hin | ⟨hpos, hcap, -⟩
    · exact Bool.false_ne_true (hin.symm.trans hdir)
    · omega
  · rcases hout with hin | ⟨-, -, hcan | hnz⟩
    · exact Bool.false_ne_true (hin.symm.trans hdir)
    · exact Bool.false_ne_true (hcan.symm.trans hkind)
    · exact hnz haddr

/-! ### Routes (14 R360) -/

theorem State.routeBad_of {r : Nat} (h : s.rd GW_ROUTE.MODE r = 3 ∨ s.flag GW_CONT.DIR (s.rd GW_ROUTE.SRC r) = true ∨
    s.flag GW_CONT.DIR (s.rd GW_ROUTE.DST r) = false ∨ s.rd GW_ROUTE.LEN r = 0 ∨
    (s.rd GW_ROUTE.MODE r = 0 ∧ s.rd GW_ROUTE.SRC_BIT r % 8 ≠ 0)) : s.routeBad r = true := by
  rcases h with h | h | h | h | ⟨hmode, hbit⟩
  · simp [State.routeBad, h]
  · simp [State.routeBad, h]
  · simp [State.routeBad, h]
  · simp [State.routeBad, h]
  · simp [State.routeBad, hmode, hbit]

/-- 512 bits fit a container of either kind. -/
theorem State.routeBad_fits {r : Nat} (hmode : s.rd GW_ROUTE.MODE r = 1 ∨ s.rd GW_ROUTE.MODE r = 2)
    (hsrc : s.flag GW_CONT.DIR (s.rd GW_ROUTE.SRC r) = false) (hdst : s.flag GW_CONT.DIR (s.rd GW_ROUTE.DST r) = true)
    (hlen : 0 < s.rd GW_ROUTE.LEN r) (hfrom : s.rd GW_ROUTE.SRC_BIT r + s.rd GW_ROUTE.LEN r ≤ 512)
    (hto : s.rd GW_ROUTE.DST_BIT r + s.rd GW_ROUTE.LEN r ≤ 512) : s.routeBad r = false := by
  have hfit {b : Bool} {n : Nat} (h : n ≤ 512) : n ≤ if b = true then 16000 else 512 := by split <;> omega
  simp only [State.routeBad, hsrc, hdst, decide_eq_false (Nat.not_lt.2 (hfit hfrom)), decide_eq_false (Nat.not_lt.2 (hfit hto)),
    beq_eq_false_iff_ne.2 hlen.ne']
  rcases hmode with h | h <;> rw [h] <;> rfl

theorem State.routeValid_refused {r : Nat} (h : s.routeBad r = true) : s.routeValid r = s.inc GW_SG_STAT.CFG_REFUSED := if_pos h

theorem State.routeValid_taken {r : Nat} (h : s.routeBad r = false) : s.routeValid r = s.wr GW_ROUTE.VALID 1 r :=
  if_neg (Bool.eq_false_iff.1 h)

end

/-- Settles O56: a controller by its state, a transmit ring by its next entry, a container by what waits in it, and a container or
a route that becomes VALID by what R359 and R360 refuse. That an image due before a newer value came goes first, alone, is log
entry 134, the error counters after a bus-off log entry 100, the filters log entry 98. -/
theorem signalGateway : Obligations.SignalGateway := by
  unfold Obligations.SignalGateway
  refine ⟨fun ctl f s => ⟨fun hclosed => ?closed, fun hon hbus hformat => ?receive⟩,
    fun c f s => ⟨State.canRing_full, State.canRing_tail⟩, fun ctl s => ⟨fun hidle => ?txIdle, fun a e t ha he ht hon hbus hne => ?transmit⟩,
    fun ctl s => ⟨fun hclosed => exec_busOff_closed (State.canOn_false hclosed), fun hon hbus => ?busOff, fun hno => ?busStays,
      fun hbus hauto => (exec_busOffRecovery ctl s).trans (if_pos ⟨hbus, hauto⟩)⟩,
    fun i s => ⟨exec_containerSend_closed, fun hvalid hopen => ⟨fun img rest => exec_containerSend_image hvalid hopen,
      exec_containerSend_rest hvalid hopen, fun a hdue hold => ⟨fun hearly => ?early, fun hlate => ?sent⟩⟩⟩,
    fun src i s => ⟨fun hwho => congrArg _ (State.asWho_neg s src _ _ _ hwho), fun hwho => ?container⟩,
    fun src r s => ⟨fun hwho => congrArg _ (State.asWho_neg s src _ _ _ hwho), fun hwho => ?route⟩⟩
  case closed =>
    exact exec_canFrameReceive_closed (or_assoc.2 hclosed |>.imp_left State.canOn_false)
  case receive =>
    have hexec := exec_canFrameReceive (State.canOn_true hon hbus) hformat
    refine ⟨fun hsafety hno => ?_, fun hsafety hdepot hwake => ?_, fun t u w hplain ht hu hw => ?_⟩
    · rw [hexec, if_neg (not_wake hno), State.canTaken, if_pos hsafety]
    · rw [hexec, if_pos ⟨hdepot, hwake⟩, State.canTaken, if_pos hsafety]
    · have htaken : s.canTaken ctl f = w := by
        rw [hw, hu, ht]
        exact if_neg (Nat.not_le.2 hplain)
      rw [← htaken, hexec]
      exact ⟨fun hno => congrArg _ (if_neg (not_wake hno)), fun hdepot hwake => congrArg _ (if_pos ⟨hdepot, hwake⟩)⟩
  case txIdle => exact exec_canTransmit_idle (or_assoc.2 hidle |>.imp_left State.canOn_false)
  case transmit =>
    subst ha ht
    have hexec := exec_canTransmit (State.canOn_true hon hbus) hne he
    exact ⟨fun hbad => hexec.trans (if_neg (Bool.eq_false_iff.1 hbad)), fun hok => hexec.trans (if_pos hok)⟩
  case busOff =>
    have hexec := exec_busOff (State.canOn_true hon hbus)
    refine ⟨fun hno => hexec.trans (congrArg _ (if_neg ?_)), fun hsafety hheld hsafe => hexec.trans (congrArg _ (if_pos ?_))⟩
    · rintro ⟨hsafety, hheld, hsafe⟩
      rcases hno with h | h | h
      · omega
      · rw [h] at hheld; exact Bool.false_ne_true hheld
      · rw [h] at hsafe; exact Bool.false_ne_true hsafe
    · exact ⟨hsafety, congrArg Bool.not hheld, congrArg Bool.not hsafe⟩
  case busStays =>
    refine (exec_busOffRecovery ctl s).trans (if_neg ?_)
    exact fun ⟨hbus, hauto⟩ => hno.elim (fun h => Bool.false_ne_true (h.symm.trans hbus)) (fun h => Bool.false_ne_true (h.symm.trans hauto))
  case early => exact (exec_containerSend_pending hvalid hopen hdue hold).trans (if_pos hearly)
  case sent =>
    refine ⟨_, (exec_containerSend_pending hvalid hopen hdue hold).trans (if_neg (Nat.not_lt.2 hlate)), State.cont_setCont _ _ _,
      fun hcan => ?_, fun hudp => ?_⟩
    · rw [State.sendCont_can hcan]; rfl
    · rw [State.sendCont_udp hudp]; rfl
  case container =>
    have hexec : exec (.containerValid src i) s = .next (s.contValid i) := congrArg _ (State.asWho_pos s src _ _ _ hwho)
    exact ⟨fun hbad => hexec.trans (congrArg _ (State.contValid_refused hbad)),
      fun hctrl hout => ⟨_, hexec, State.contValid_taken (State.not_contBad hctrl hout)⟩⟩
  case route =>
    have hexec : exec (.routeValid src r) s = .next (s.routeValid r) := congrArg _ (State.asWho_pos s src _ _ _ hwho)
    refine ⟨fun hbad => ?_, fun hok => ?_, fun hbad => ?_, fun hmode hsrc hdst hlen hfrom hto => ?_⟩
    · rw [hexec, State.routeValid_refused hbad]
    · rw [hexec, State.routeValid_taken hok]
    · rw [hexec, State.routeValid_refused (State.routeBad_of hbad)]
    · rw [hexec, State.routeValid_taken (State.routeBad_fits hmode hsrc hdst hlen hfrom hto)]

end Sys2Proof.Machine
end

section
/-! Recovery over Ethernet, and package updates (15 R379–R381). -/

namespace Sys2Proof.Machine

set_option Elab.async false

/-! ### Recovery over Ethernet (15 R379) -/

section
variable {s : State}

/-- ROM's ANNOUNCE. -/
def State.announcement (s : State) : Bytes :=
  recoveryDatagram 1 (leBytes 1 (s.rd FW_STAT.REASON) ++ leBytes 3 0 ++ s.regBytes .sysId 0 0 4 ++ s.idHash)

theorem exec_recoveryAnnounce {r : Recovery} (h : s.fw.recovery = some r) : exec .recoveryAnnounce s =
    if !s.hearsEth || r.transfer.isSome || s.flag FW_PKG.BUSY || r.announced.any (fun t => within t 1000000000 s.localNs) then .next s
    else .next { s.emit (.recovery s.announcement) with fw := { s.fw with recovery := some { r with announced := some s.localNs } } } := by
  show execRecoveryAnnounce s = _
  unfold execRecoveryAnnounce
  rw [h]
  rfl

theorem State.ethTransfer_some {r : Recovery} (h : s.fw.recovery = some r) : s.ethTransfer = r.transfer := by
  rw [State.ethTransfer, h]
  rfl

theorem exec_recoveryAnnounce_quiet (h : s.hearsEth = false ∨ s.ethTransfer.isSome = true ∨ s.flag FW_PKG.BUSY = true) :
    exec .recoveryAnnounce s = .next s := by
  cases hrec : s.fw.recovery with
  | none =>
    show execRecoveryAnnounce s = _
    unfold execRecoveryAnnounce
    rw [hrec]
  | some r =>
    rw [State.ethTransfer_some hrec] at h
    refine (exec_recoveryAnnounce hrec).trans (if_pos ?_)
    rcases h with h | h | h <;> simp [h]

variable {sender off : Nat} {d : Bytes}

/-- A datagram's bytes are taken: ROM hears it, no update runs, and its length is one that DATA may have. -/
def State.takesData (s : State) (d : Bytes) : Prop :=
  s.hearsEth = true ∧ s.flag FW_PKG.BUSY = false ∧ 0 < d.length ∧ d.length ≤ 1024

theorem exec_recoveryData_refused (h : s.hearsEth = false ∨ s.flag FW_PKG.BUSY = true ∨ d = [] ∨ 1024 < d.length) :
    exec (.recoveryData sender off d) s = .next s := by
  refine if_pos ?_
  rcases h with h | h | h | h <;> simp [h]

theorem exec_recoveryData (htakes : s.takesData d) {t : Transfer} (ht : t = s.ethTransfer.getD ⟨sender, [], 0⟩) :
    exec (.recoveryData sender off d) s = if t.sender ≠ sender then .next s
      else
        let u := Transfer.mk sender (d.zipIdx.foldl (fun l x => Sparse.put none l (off + x.2) (some x.1)) t.bytes) s.localNs
        .next ((s.setTransfer (some u)).ackTransfer u) := by
  obtain ⟨heth, hbusy, hpos, hlen⟩ := htakes
  subst ht
  have hne : d.isEmpty = false := by
    cases d with
    | nil => exact absurd hpos (by decide)
    | cons b r => rfl
  exact if_neg (by rw [heth, hbusy, hne, decide_eq_false (Nat.not_lt.2 hlen)]; decide)

/-- A datagram of another sender than the transfer's changes nothing, whatever it carries. -/
theorem exec_recoveryData_other {t : Transfer} (ht : s.ethTransfer = some t) (hother : t.sender ≠ sender) :
    exec (.recoveryData sender off d) s = .next s := by
  by_cases hrefused : s.hearsEth = false ∨ s.flag FW_PKG.BUSY = true ∨ d = [] ∨ 1024 < d.length
  · exact exec_recoveryData_refused hrefused
  · obtain ⟨heth, hrest⟩ := not_or.1 hrefused
    obtain ⟨hbusy, hrest⟩ := not_or.1 hrest
    obtain ⟨hne, hlen⟩ := not_or.1 hrest
    have htakes : s.takesData d :=
      ⟨Bool.eq_true_of_not_eq_false heth, Bool.eq_false_of_not_eq_true hbusy, List.length_pos_iff.2 hne, Nat.not_lt.1 hlen⟩
    refine (exec_recoveryData htakes (t := t) ?_).trans (if_pos hother)
    rw [ht]
    rfl

/-- The bytes of a datagram stand from its offset up, and every other offset keeps what it held. -/
theorem look_foldl_put_zipIdx (d : Bytes) (l : Sparse (Option Byte)) (off k n : Nat) :
    Sparse.look none ((d.zipIdx k).foldl (fun l x => Sparse.put none l (off + x.2) (some x.1)) l) n =
      if off + k ≤ n ∧ n < off + k + d.length then d[n - (off + k)]? else Sparse.look none l n := by
  induction d generalizing l k with
  | nil => exact (if_neg (by simp)).symm
  | cons b r ih =>
    rw [List.zipIdx_cons, List.foldl_cons, ih, Sparse.look_put, List.length_cons]
    by_cases hlater : off + (k + 1) ≤ n ∧ n < off + (k + 1) + r.length
    · rw [if_pos hlater, if_pos (by omega), show n - (off + k) = n - (off + (k + 1)) + 1 by omega, List.getElem?_cons_succ]
    · rw [if_neg hlater]
      by_cases hfirst : n = off + k
      · rw [if_pos hfirst, if_pos (by omega), hfirst, Nat.sub_self]
        rfl
      · rw [if_neg hfirst, if_neg (by omega)]

/-! ### The end of a transfer -/

/-- An update begins with a package: BUSY is set and RESULT cleared. -/
def State.updateStarted (s : State) (b : Bytes) : State :=
  { (s.wr FW_PKG.BUSY 1).wr FW_PKG.RESULT 0 with fw := { s.fw with package := some b } }

theorem State.updateStarted_facts (s : State) (b : Bytes) : (s.updateStarted b).fw.package = some b ∧
    (s.updateStarted b).rd FW_PKG.BUSY = 1 ∧ (s.updateStarted b).rd FW_PKG.RESULT = 0 := by
  have hregs (f : Fld) : (s.updateStarted b).rd f = ((s.wr FW_PKG.BUSY 1).wr FW_PKG.RESULT 0).rd f := rfl
  refine ⟨rfl, ?_, ?_⟩
  · rw [hregs, State.rd_wr_ne _ _ _ _ _ _ _ _ (by decide) (by decide) (by decide), State.rd_wr_same]
    rfl
  · rw [hregs, State.rd_wr_same]
    exact Nat.zero_mod _

variable {total : Nat} {t : Transfer}

theorem exec_recoveryEnd_none (h : s.ethTransfer = none) : exec (.recoveryEnd sender total) s = .next s := by
  show execRecoveryEnd sender total s = _
  unfold execRecoveryEnd
  rw [h]

/-- The transfer after a datagram of its sender. -/
def State.transferHeard (s : State) (t : Transfer) : State := s.setTransfer (some { t with last := s.localNs })

theorem exec_recoveryEnd_some (h : s.ethTransfer = some t) : exec (.recoveryEnd sender total) s =
    if t.sender ≠ sender ∨ s.flag FW_PKG.BUSY then .next s
    else if nextGap 0 t.bytes < total then .next ((s.transferHeard t).ackTransfer t)
    else .next ((s.transferHeard t).updateStarted ((t.bytes.take total).map (fun x => x.2.getD 0))) := by
  show execRecoveryEnd sender total s = _
  unfold execRecoveryEnd
  rw [h]
  rfl

theorem exec_recoveryEnd_ignored (h : s.ethTransfer = none ∨ s.flag FW_PKG.BUSY = true ∨ ∃ t, s.ethTransfer = some t ∧ t.sender ≠ sender) :
    exec (.recoveryEnd sender total) s = .next s := by
  cases ht : s.ethTransfer with
  | none => exact exec_recoveryEnd_none ht
  | some t =>
    refine (exec_recoveryEnd_some ht).trans (if_pos ?_)
    rcases h with h | h | ⟨x, hx, hother⟩
    · rw [ht] at h; exact nomatch h
    · exact .inr h
    · exact .inl (Option.some.inj (ht.symm.trans hx) ▸ hother)

theorem exec_recoverySilenceTimeout (h : s.ethTransfer = some t) : exec .recoverySilenceTimeout s =
    if t.last + 10000000000 ≤ s.localNs ∧ (!s.flag FW_PKG.BUSY) = true then .next (s.setTransfer none) else .next s := by
  show execRecoverySilenceTimeout s = _
  unfold execRecoverySilenceTimeout
  rw [h]

theorem exec_recoverySilenceTimeout_kept (h : s.ethTransfer = none ∨ s.flag FW_PKG.BUSY = true ∨
    ∃ t, s.ethTransfer = some t ∧ s.localNs < t.last + 10000000000) : exec .recoverySilenceTimeout s = .next s := by
  cases ht : s.ethTransfer with
  | none =>
    show execRecoverySilenceTimeout s = _
    unfold execRecoverySilenceTimeout
    rw [ht]
  | some t =>
    refine (exec_recoverySilenceTimeout ht).trans (if_neg (fun ⟨hlate, hidle⟩ => ?_))
    rcases h with h | h | ⟨x, hx, hearly⟩
    · rw [ht] at h; exact nomatch h
    · rw [h] at hidle; exact Bool.false_ne_true hidle
    · rw [← Option.some.inj (ht.symm.trans hx)] at hearly; omega

end

/-! ### GO of FW_PKG (15 R380) -/

section
variable {s : State}

theorem State.packageGo_eq (s : State) : s.packageGo =
    if s.flag FW_PKG.BUSY then s
    else if s.hearsPcie then (if s.ethTransfer.isSome then s
      else s.updateStarted (Sparse.bytes 0 s.hostMem (s.rd FW_PKG.ADDR / 4096 * 4096) (s.rd FW_PKG.LEN_4K * 4096)))
    else if s.fw.running then s.updateStarted (s.memRead (s.rd FW_PKG.ADDR / 4096 * 4096) (s.rd FW_PKG.LEN_4K * 4096))
    else s := rfl

theorem State.packageGo_busy (h : s.flag FW_PKG.BUSY = true) : s.packageGo = s := if_pos h

theorem State.packageGo_deaf (hpcie : s.hearsPcie = false) (hrun : s.fw.running = false) : s.packageGo = s := by
  rw [State.packageGo_eq, hpcie, hrun]
  exact ite_self s

theorem State.packageGo_transfer (hpcie : s.hearsPcie = true) (ht : s.ethTransfer ≠ none) : s.packageGo = s := by
  rw [State.packageGo_eq, hpcie, Option.isSome_iff_ne_none.2 ht]
  exact ite_self s

theorem State.packageGo_operation (hbusy : s.flag FW_PKG.BUSY = false) (hrun : s.fw.running = true) (hpcie : s.hearsPcie = false) :
    s.packageGo = s.updateStarted (s.memRead (s.rd FW_PKG.ADDR / 4096 * 4096) (s.rd FW_PKG.LEN_4K * 4096)) := by
  rw [State.packageGo_eq, hbusy, hrun, hpcie]
  rfl

theorem State.packageGo_recovery (hbusy : s.flag FW_PKG.BUSY = false) (hpcie : s.hearsPcie = true) (ht : s.ethTransfer = none) :
    s.packageGo = s.updateStarted (Sparse.bytes 0 s.hostMem (s.rd FW_PKG.ADDR / 4096 * 4096) (s.rd FW_PKG.LEN_4K * 4096)) := by
  rw [State.packageGo_eq, hbusy, hpcie, ht]
  rfl

end

/-! ### What an update's end keeps (15 R380, R381) -/

/-- A save of the log writes flash alone, or is held. -/
theorem State.saveLog_eq (s : State) : ∃ flash slot held, s.saveLog =
    { s with fw := { s.fw with flash := flash, slot := slot, heldSaves := held } } := by
  unfold State.saveLog
  split
  · exact ⟨_, _, _, rfl⟩
  · exact ⟨_, _, _, rfl⟩

section
variable {γ : Type} {g : State → γ}
  (hg : ∀ s flash slot saves repairs, g { s with fw := { s.fw with flash := flash, slot := slot, heldSaves := saves, heldRepairs := repairs } } = g s)
include hg

theorem State.part_flashWrite (s : State) (o : Nat) (bs : Bytes) : g (s.flashWrite o bs) = g s := hg s _ _ _ _

theorem State.part_saveLog (s : State) : g s.saveLog = g s := by
  obtain ⟨flash, slot, held, heq⟩ := s.saveLog_eq
  rw [heq]
  exact hg s flash slot held _

theorem State.part_flushRepairs (s : State) : g s.flushRepairs = g s :=
  (hg _ _ _ _ _).trans (foldl_part g (fun t _ => State.part_flashWrite hg t _ _) _ _)

/-- The saves and repairs that an update held back reach flash and nothing else. -/
theorem State.part_heldBack (s : State) (n : Nat) : g ((List.range n).foldl (fun s _ => s.saveLog) s.flushRepairs) = g s :=
  (foldl_part g (fun t _ => State.part_saveLog hg t) _ _).trans (State.part_flushRepairs hg s)

theorem State.part_writeParts (s : State) (b : Bytes) (k : Nat) : g (s.writeParts b k) = g s :=
  foldl_part g (fun t _ => State.part_flashWrite hg t _ _) _ _

end

theorem State.regs_endUpdate (s : State) (r : Nat) : (s.endUpdate r).regs = ((s.wr FW_PKG.BUSY 0).wr FW_PKG.RESULT r).regs :=
  State.part_heldBack (g := State.regs) (fun _ _ _ _ _ => rfl) _ _

theorem State.recovery_endUpdate (s : State) (r : Nat) : (s.endUpdate r).fw.recovery = s.fw.recovery :=
  State.part_heldBack (g := fun t => t.fw.recovery) (fun _ _ _ _ _ => rfl) _ _

theorem State.endUpdate_facts (s : State) (r : Nat) : (s.endUpdate r).rd FW_PKG.BUSY = 0 ∧
    (s.endUpdate r).rd FW_PKG.RESULT = r % 2 ^ FW_PKG.RESULT.w := by
  refine ⟨(State.rd_congr _ _ (s.regs_endUpdate r) _ _ _).trans ?_, (State.rd_congr _ _ (s.regs_endUpdate r) _ _ _).trans ?_⟩
  · rw [State.rd_wr_ne _ _ _ _ _ _ _ _ (by decide) (by decide) (by decide), State.rd_wr_same]
    exact Nat.zero_mod _
  · exact State.rd_wr_same _ _ _ _ _

theorem State.recovery_writeParts (s : State) (b : Bytes) (k : Nat) : (s.writeParts b k).fw.recovery = s.fw.recovery :=
  State.part_writeParts (g := fun t => t.fw.recovery) (fun _ _ _ _ _ => rfl) s b k

theorem State.recovery_failWrite (s : State) (b : Bytes) : (s.failWrite b).fw.recovery = s.fw.recovery := by
  unfold State.failWrite
  dsimp only
  split <;> exact s.drawn.recovery_writeParts b _

/-! ### The end of an update (15 R380) -/

/-- What the end of an update writes. -/
def State.packageWritten (s : State) (b : Bytes) (bad : Bool) : State :=
  if s.packageCheck b ≠ 0 then s else if bad = true then s.failWrite b else s.writeParts b 3

/-- The RESULT of an update. -/
def State.packageResult (s : State) (b : Bytes) (bad : Bool) : Nat :=
  if s.packageCheck b ≠ 0 then s.packageCheck b else if bad = true then 4 else 1

theorem State.recovery_packageWritten (s : State) (b : Bytes) (bad : Bool) : (s.packageWritten b bad).fw.recovery = s.fw.recovery := by
  unfold State.packageWritten
  split
  · rfl
  · split
    · exact s.recovery_failWrite b
    · exact s.recovery_writeParts b 3

/-- What follows an update in recovery: its sender hears the result, the transfer ends, and a written package resets the device. -/
def State.recoveryAnswered (s : State) (q : Recovery) (result : Nat) : State :=
  let u := if q.transfer.isSome then s.emit (.recovery (recoveryDatagram 5 (leBytes 1 result))) else s
  let v : State := { u with fw := { u.fw with recovery := some { q with transfer := none } } }
  if result = 1 then v.warmReset 4 else v

section
variable {s : State} {b : Bytes} {bad : Bool}

theorem exec_packageUpdateDone_none (h : s.fw.package = none) : exec (.packageUpdateDone bad) s = .next s := by
  show execPackageUpdateDone bad s = _
  unfold execPackageUpdateDone
  rw [h]

theorem exec_packageUpdateDone_waits (hrec : s.fw.recovery = none) (hdown : s.fwDown 8 = true ∨ s.fwDown 9 = true) :
    exec (.packageUpdateDone bad) s = .next s := by
  cases hpkg : s.fw.package with
  | none => exact exec_packageUpdateDone_none hpkg
  | some b =>
    show execPackageUpdateDone bad s = _
    unfold execPackageUpdateDone
    rw [hpkg]
    exact if_pos (by rw [hrec, Bool.or_eq_true_iff.2 hdown]; rfl)

/-- The end of an update by whether ROM recovers. -/
def State.updateEnds (s : State) (b : Bytes) (bad : Bool) (q : Option Recovery) : State :=
  q.elim ((s.packageWritten b bad).endUpdate (s.packageResult b bad))
    (fun r => ((s.packageWritten b bad).endUpdate (s.packageResult b bad)).recoveryAnswered r (s.packageResult b bad))

theorem exec_packageUpdateDone (hpkg : s.fw.package = some b) (hruns : s.fw.recovery = none → s.fwDown 8 = false ∧ s.fwDown 9 = false) :
    exec (.packageUpdateDone bad) s = .next (s.updateEnds b bad s.fw.recovery) := by
  have hkeep : ((s.packageWritten b bad).endUpdate (s.packageResult b bad)).fw.recovery = s.fw.recovery :=
    (State.recovery_endUpdate _ _).trans (s.recovery_packageWritten b bad)
  have hgo : ¬(s.fw.recovery.isNone && (s.fwDown 8 || s.fwDown 9)) = true := by
    intro h
    obtain ⟨hnone, hdown⟩ := Bool.and_eq_true_iff.1 h
    obtain ⟨h8, h9⟩ := hruns (Option.isNone_iff_eq_none.1 hnone)
    rw [h8, h9] at hdown
    exact Bool.false_ne_true hdown
  have hends : exec (.packageUpdateDone bad) s =
      match ((s.packageWritten b bad).endUpdate (s.packageResult b bad)).fw.recovery with
      | none => .next ((s.packageWritten b bad).endUpdate (s.packageResult b bad))
      | some r => .next (((s.packageWritten b bad).endUpdate (s.packageResult b bad)).recoveryAnswered r (s.packageResult b bad)) := by
    show execPackageUpdateDone bad s = _
    unfold execPackageUpdateDone
    rw [hpkg]
    exact if_neg hgo
  rw [hends, hkeep]
  cases s.fw.recovery <;> rfl

end

/-- Settles O57: the datagrams of a transfer by its sender, the bytes of one by induction over them, GO by what ROM and firmware
are doing, and the end of an update by its check; what an end writes to flash leaves ROM's recovery and the registers. What a
failing write leaves is log entry 33, the warm reset of cause 4 after a written package in recovery log entry 34. -/
theorem recoveryAndPackages : Obligations.RecoveryAndPackages := by
  unfold Obligations.RecoveryAndPackages
  refine ⟨fun s => ⟨exec_recoveryAnnounce_quiet, fun a hrec heth hbusy => ⟨fun k hk hearly => ?early, fun hdue => ?announce⟩⟩,
    fun sender off d s => ⟨fun hno => ?refused, fun t heth hbusy hpos hlen ht hown => ?data⟩,
    fun sender total s => ⟨exec_recoveryEnd_ignored, fun t ht hown hbusy => ⟨fun hgap => ?gap, fun hall => ?whole⟩⟩,
    fun s => ⟨exec_recoverySilenceTimeout_kept, fun t ht hbusy hlate => ?silence⟩,
    fun src s => ⟨fun hwho => congrArg _ (State.asWho_neg s src _ _ _ hwho), fun hwho => ?go⟩,
    fun bad s => ⟨exec_packageUpdateDone_none, fun b hpkg hrec h8 h9 => ⟨fun hform => ?badForm, ?operation⟩,
      exec_packageUpdateDone_waits, fun b q hpkg hrec => ?recovery, s.endUpdate_facts⟩⟩
  case early =>
    have hwithin : a.any (fun t => within t 1000000000 s.localNs) = true := any_within_iff.2 ⟨k, hk, hearly⟩
    exact (exec_recoveryAnnounce hrec).trans (if_pos (by rw [hwithin, Bool.or_true]))
  case announce =>
    have hwithin : a.any (fun t => within t 1000000000 s.localNs) = false := by
      refine Bool.eq_false_iff.2 (fun h => ?_)
      obtain ⟨k, hk, hlt⟩ := any_within_iff.1 h
      exact Nat.not_lt.2 (hdue k hk) hlt
    exact ⟨_, (exec_recoveryAnnounce hrec).trans (if_neg (by rw [heth, hbusy, hwithin]; exact Bool.false_ne_true)), rfl, rfl⟩
  case refused =>
    rcases hno with h | h | h | h | ⟨t, ht, hother⟩
    · exact exec_recoveryData_refused (.inl h)
    · exact exec_recoveryData_refused (.inr (.inl h))
    · exact exec_recoveryData_refused (.inr (.inr (.inl h)))
    · exact exec_recoveryData_refused (.inr (.inr (.inr h)))
    · exact exec_recoveryData_other ht hother
  case data =>
    refine ⟨_, _, (exec_recoveryData ⟨heth, hbusy, hpos, hlen⟩ ht).trans (if_neg (not_not.2 hown)), rfl, rfl, fun n => ?_⟩
    simpa only [Nat.add_zero] using look_foldl_put_zipIdx d t.bytes off 0 n
  case gap =>
    refine ⟨_, ((exec_recoveryEnd_some ht).trans (if_neg ?_)).trans (if_pos hgap), rfl, rfl⟩
    exact not_or.2 ⟨not_not.2 hown, Bool.eq_false_iff.1 hbusy⟩
  case whole =>
    refine ⟨_, ((exec_recoveryEnd_some ht).trans (if_neg ?_)).trans (if_neg (Nat.not_lt.2 hall)), State.updateStarted_facts _ _⟩
    exact not_or.2 ⟨not_not.2 hown, Bool.eq_false_iff.1 hbusy⟩
  case silence => exact (exec_recoverySilenceTimeout ht).trans (if_pos ⟨hlate, congrArg Bool.not hbusy⟩)
  case go =>
    have hexec : exec (.packageUpdate src) s = .next s.packageGo := congrArg _ (State.asWho_pos s src _ _ _ hwho)
    refine ⟨fun hbusy => ?_, fun _ hpcie hrun => ?_, fun hpcie ht => ?_, fun hbusy hrun hpcie => ?_, fun hbusy hpcie ht => ?_⟩
    · rw [hexec, State.packageGo_busy hbusy]
    · rw [hexec, State.packageGo_deaf hpcie hrun]
    · rw [hexec, State.packageGo_transfer hpcie ht]
    · exact ⟨_, hexec.trans (congrArg _ (State.packageGo_operation hbusy hrun hpcie)), s.updateStarted_facts _⟩
    · exact ⟨_, hexec.trans (congrArg _ (State.packageGo_recovery hbusy hpcie ht)), s.updateStarted_facts _⟩
  case badForm =>
    have hcheck : s.packageCheck b = 3 := if_pos (congrArg Bool.not hform)
    rw [exec_packageUpdateDone hpkg (fun _ => ⟨h8, h9⟩), hrec, State.updateEnds, Option.elim_none, State.packageWritten, State.packageResult, hcheck]
    rfl
  case operation => rw [exec_packageUpdateDone hpkg (fun _ => ⟨h8, h9⟩), hrec]; rfl
  case recovery =>
    rw [exec_packageUpdateDone hpkg (fun hno => nomatch hno.symm.trans hrec), hrec]
    rfl

end Sys2Proof.Machine
end

section
/-! Firmware's components, the log's save and the trace points (15 R383–R387). -/

namespace Sys2Proof.Machine

set_option Elab.async false

/-! ### Component faults (15 R383) -/

section
variable {comp : Fin 16} {s : State}

theorem exec_componentFault_ignored (h : comp.val < 3 ∨ 9 < comp.val ∨ s.fwDown comp = true) :
    exec (.componentFault comp) s = .next s := if_pos h

/-- A component that restarts. -/
def State.componentDown (s : State) (comp : Nat) : State := { s with fw := { s.fw with restarting := comp :: s.fw.restarting } }

theorem exec_componentFault (hlow : 3 ≤ comp.val) (hhigh : comp.val ≤ 9) (hup : s.fwDown comp = false) :
    exec (.componentFault comp) s = .next (((s.componentDown comp).componentEffect comp).inc FW_STAT.RESTARTS) :=
  if_neg (not_or.2 ⟨Nat.not_lt.2 hlow, not_or.2 ⟨Nat.not_lt.2 hhigh, Bool.eq_false_iff.1 hup⟩⟩)

/-- The accounting, the link manager, the liaison and the BIST manager have nothing in progress that ends. -/
theorem State.componentEffect_none (s : State) {comp : Nat} (hlow : 4 ≤ comp) (hhigh : comp ≤ 7) : s.componentEffect comp = s :=
  (if_neg (by omega)).trans ((if_neg (by omega)).trans (if_neg (by omega)))

theorem State.fwDown_componentDown (s : State) (comp : Nat) : (s.componentDown comp).fwDown comp = true := by
  have hlisted : (s.componentDown comp).fw.restarting.contains comp = true := List.contains_iff_mem.2 List.mem_cons_self
  rw [State.fwDown, State.fwOut, hlisted]
  simp

end

/-! ### The end of a restart (15 R384, R385) -/

section
variable {comp : Fin 16} {s : State}

theorem exec_componentRestartDone_ignored (h : comp.val ∉ s.fw.restarting ∨ s.fw.halted = true) :
    exec (.componentRestartDone comp) s = .next s := by
  refine if_pos (h.imp_left (fun hno => ?_))
  rw [Bool.eq_false_iff.2 (fun hin => hno (List.contains_iff_mem.1 hin))]
  rfl

/-- The list of the restarting without a component; the scheduler's restart ends every one. -/
def State.restartOver (s : State) (comp : Nat) : State :=
  { s with fw := { s.fw with restarting := if comp = 2 then [] else s.fw.restarting.filter (· != comp) } }

/-- The saves that the log service held, written. -/
def State.savesWritten (s : State) : State :=
  (List.range s.fw.heldSaves).foldl (fun s _ => s.saveLog) { s with fw := { s.fw with heldSaves := 0 } }

theorem exec_componentRestartDone (hin : comp.val ∈ s.fw.restarting) (hruns : s.fw.halted = false) :
    exec (.componentRestartDone comp) s = .next (if comp.val = 9 ∨ comp.val = 2 then (s.restartOver comp).flushLog.savesWritten
      else (s.restartOver comp).flushLog) := by
  refine if_neg (not_or.2 ⟨?_, Bool.eq_false_iff.1 hruns⟩)
  rw [List.contains_iff_mem.2 hin]
  decide

/-- With nothing held, the log service that runs again writes nothing. -/
theorem State.flushLog_nothing (hheld : s.fw.heldLog = []) (hlost : s.fw.lostLog = 0) : s.flushLog.fw.restarting = s.fw.restarting ∧
    s.flushLog.fw.heldSaves = s.fw.heldSaves ∧ s.flushLog.regs = s.regs ∧ s.flushLog.mem = s.mem := by
  by_cases hdown : s.fwDown 9 = true
  · rw [State.flushLog, if_pos hdown]
    exact ⟨rfl, rfl, rfl, rfl⟩
  · rw [State.flushLog, if_neg hdown, hheld, if_pos hlost]
    exact ⟨rfl, rfl, rfl, rfl⟩

theorem State.savesWritten_none (h : s.fw.heldSaves = 0) : s.savesWritten = { s with fw := { s.fw with heldSaves := 0 } } := by
  rw [State.savesWritten, h]
  rfl

end

/-! ### The scheduler (15 R384) -/

theorem within_eq_decide (t gap now : Nat) : within t gap now = decide (now < t + gap) := by
  rw [Bool.eq_iff_iff, within_true, decide_eq_true_iff]

/-- The table commands in flight that have not committed run again. -/
def State.tablesAgain (s : State) : State := { s with flight := s.flight.map (fun (j : Job) =>
  if tableOp j.cmd.opcode && j.outcome == Outcome6.running then { j with cmd := j.cmd.again } else j) }

theorem exec_schedulerFault {s a b u : State} {past : List Nat} (ha : a = s.saveLog.rerunLoads) (hb : b = a.tablesAgain.report 0x13 none)
    (hu : u = (b.componentEffect 8).componentEffect 9)
    (hpast : past = s.fw.wholes.filter (fun k => decide (s.localNs < k + 60000000000))) (hup : s.fwDown 2 = false) :
    exec .schedulerFault s =
      .next { u with fw := { u.fw with wholes := u.localNs :: past, restarting := [2], halted := decide (2 ≤ past.length) } } := by
  simp only [← within_eq_decide] at hpast
  rw [hpast, hu, hb, ha]
  exact if_neg (Bool.eq_false_iff.1 hup)

/-! ### The log's save (15 R386) -/

section
variable {s : State}

theorem State.saveGo_stopped (h : s.fw.running = false) : s.saveGo = s := if_pos (congrArg Bool.not h)

theorem State.saveGo_held (hrun : s.fw.running = true) (hdown : s.fwDown 9 = true) :
    s.saveGo = { s with fw := { s.fw with heldSaves := s.fw.heldSaves + 1 } } := by
  rw [State.saveGo, hrun, hdown]
  rfl

theorem State.saveGo_up (h : s.fwDown 9 = false) : s.saveGo = s.saveLog := by
  have hrun : s.fw.running = true := by
    rw [State.fwDown, Bool.or_eq_false_iff, Bool.not_eq_false'] at h
    exact h.1
  rw [State.saveGo, hrun, h]
  rfl

theorem State.saveLog_held (h : s.flag FW_PKG.BUSY = true) :
    s.saveLog = { s with fw := { s.fw with heldSaves := s.fw.heldSaves + 1 } } := if_pos h

theorem State.saveLog_slot (h : s.flag FW_PKG.BUSY = false) : s.saveLog.fw.slot = (s.fw.slot + 1) % 4 :=
  congrArg (fun t : State => t.fw.slot) (if_neg (Bool.eq_false_iff.1 h))

end

/-! ### Trace points (15 R387) -/

/-- A log entry leaves the fields' runtime, whether it is written, held or lost. -/
theorem State.frt_log (s : State) (comp level code n : Nat) (args : Bytes) : (s.log comp level code args).frt n = s.frt n := by
  unfold State.log
  dsimp only
  split
  · exact State.part_memWrite (g := fun t => t.frt n) (fun _ _ _ => rfl) s _ _
  · split <;> rfl

/-- An entry that is written takes the next sequence number. -/
theorem State.nextSeq_log {s : State} (h : s.fwDown 9 = false) (comp level code : Nat) (args : Bytes) :
    (s.log comp level code args).rd FW_LOG.NEXT_SEQ = (s.rd FW_LOG.NEXT_SEQ + 1) % 2 ^ FW_LOG.NEXT_SEQ.w := by
  rw [State.log, h]
  exact State.rd_wr_same _ _ _ _ _

section
variable {field : Fin 17} {s : State}

/-- A field's trace point is enabled. -/
def State.traces (s : State) (field : Nat) : Bool := (s.rd FW_TRACE.MASK ((0x40 + field) / 32)).testBit ((0x40 + field) % 32)

/-- The bank conflicts that a trace point counts. -/
def State.traceConflicts (s : State) (field : Nat) : Nat := ((s.frt field).conflicts + (Config.freeWord s.freeCount 0).toNat) % 2 ^ 32

/-- The state with a trace point's count taken. -/
def State.traceCounted (s : State) (field : Nat) : State :=
  s.drawn.setF field { s.frt field with conflicts := s.traceConflicts field }

/-- The arguments of a trace point's entry. -/
def State.traceArgs (s : State) (field : Nat) : Bytes :=
  leBytes 4 (s.traceConflicts field) ++ leBytes 4 (s.rd PLAIN_FLD_ERR.CE_COUNT field) ++ leBytes 8 ((s.frt field).occupied / 1000)

/-- The state with a trace point's entry logged, or held. -/
def State.traceLogged (s : State) (field : Nat) : State := (s.traceCounted field).log 2 0 (0x40 + field) (s.traceArgs field)

theorem exec_tracePoint (field : Fin 17) (s : State) : exec (.tracePoint field) s =
    if !s.fw.running || (Sparse.look none s.fw.traced field).any (fun t => within t 10000000 s.localNs) || !s.traces field then .next s
    else .next { s.traceLogged field with fw := { (s.traceLogged field).fw with
      traced := Sparse.put none s.fw.traced field (some s.localNs) } } := rfl

theorem exec_tracePoint_quiet (h : s.fw.running = false ∨ s.traces field = false ∨
    ∃ k, Sparse.look none s.fw.traced field = some k ∧ s.localNs < k + 10000000) : exec (.tracePoint field) s = .next s := by
  refine (exec_tracePoint field s).trans (if_pos ?_)
  rw [← any_within_iff] at h
  rcases h with h | h | h <;> rw [h] <;> simp

theorem exec_tracePoint_due (hrun : s.fw.running = true) (hon : s.traces field = true)
    (hdue : ∀ k, Sparse.look none s.fw.traced field = some k → k + 10000000 ≤ s.localNs) : exec (.tracePoint field) s =
      .next { s.traceLogged field with fw := { (s.traceLogged field).fw with
        traced := Sparse.put none s.fw.traced field (some s.localNs) } } := by
  have hnot : (Sparse.look none s.fw.traced field).any (fun t => within t 10000000 s.localNs) = false := by
    refine Bool.eq_false_iff.2 (fun h => ?_)
    obtain ⟨k, hk, hlt⟩ := any_within_iff.1 h
    exact Nat.not_lt.2 (hdue k hk) hlt
  refine (exec_tracePoint field s).trans (if_neg ?_)
  rw [hrun, hnot, hon]
  decide

theorem State.conflicts_traceLogged (s : State) (field : Nat) : ((s.traceLogged field).frt field).conflicts = s.traceConflicts field := by
  rw [State.traceLogged, State.frt_log, State.traceCounted, State.frt_setF]

end

/-- Settles O58: a component's fault and restart by its code, the scheduler's by all that it ends, a save by the log service, and a
trace point by its time. That a whole restart is not counted in RESTARTS is log entry 36, the trace entries and the conflicts that
they count log entry 37. -/
theorem firmwareComponents : Obligations.FirmwareComponents := by
  unfold Obligations.FirmwareComponents
  refine ⟨fun comp s => ⟨exec_componentFault_ignored, exec_componentFault, fun hlow hhigh hup => ?plain⟩,
    fun comp s => ⟨exec_componentRestartDone_ignored, fun hin hruns h9 h2 => ?one, fun hin hruns hlog => ?log, fun hin hruns hheld hlost hsaves => ?whole⟩,
    fun s => ⟨fun hdown => if_pos hdown, fun a b u past => exec_schedulerFault⟩,
    fun src s => ⟨fun hwho => congrArg _ (State.asWho_neg s src _ _ _ hwho), fun hwho => ?save⟩,
    fun s => ⟨State.saveLog_held, fun hidle => ⟨State.saveLog_slot hidle, ?regs, ?mem⟩⟩,
    fun field s => ⟨exec_tracePoint_quiet, fun hrun hon hdue => ?trace⟩⟩
  case plain =>
    refine ⟨_, exec_componentFault (by omega) (by omega) hup, ?_⟩
    rw [State.componentEffect_none _ hlow hhigh]
    exact ⟨State.rd_inc_same _ _ _ _, rfl, s.fwDown_componentDown comp, rfl, rfl, rfl, rfl, rfl⟩
  case one =>
    rw [exec_componentRestartDone hin hruns, if_neg (not_or.2 ⟨h9, h2⟩), State.restartOver, if_neg h2]
  case log =>
    rw [exec_componentRestartDone hin hruns, if_pos hlog]
    rfl
  case whole =>
    obtain ⟨hrest, hheldSaves, hregs, hmem⟩ := State.flushLog_nothing (s := s.restartOver 2) hheld hlost
    have hdone := exec_componentRestartDone (comp := 2) hin hruns
    rw [if_pos (.inr rfl)] at hdone
    exact ⟨_, hdone.trans (congrArg _ (State.savesWritten_none (hheldSaves.trans hsaves))), hrest, hregs, hmem⟩
  case save =>
    have hexec : exec (.logSave src) s = .next s.saveGo := congrArg _ (State.asWho_pos s src _ _ _ hwho)
    refine ⟨fun hstop => ?_, fun hrun hdown => ?_, fun hup => ?_⟩
    · rw [hexec, State.saveGo_stopped hstop]
    · rw [hexec, State.saveGo_held hrun hdown]
    · rw [hexec, State.saveGo_up hup]
  case regs => exact State.part_saveLog (g := State.regs) (fun _ _ _ _ _ => rfl) s
  case mem => exact State.part_saveLog (g := State.mem) (fun _ _ _ _ _ => rfl) s
  case trace =>
    refine ⟨_, exec_tracePoint_due hrun hon hdue, Sparse.look_put_same none s.fw.traced field.val (some s.localNs), s.conflicts_traceLogged field, fun hup => ?_⟩
    exact State.nextSeq_log (s := s.traceCounted field) hup _ _ _ _

end Sys2Proof.Machine
end

section
/-! A write to an address (17 R418–R422, 12 R302), and the stall watchdog's period (02 R59). -/

namespace Sys2Proof.Machine

/-! ### What one access carries out -/

theorem exec_registerWrite (s : State) (src : Source) (a b v : Nat) :
    exec (.registerWrite src a b v) s = .next (s.writeAt src a b v) := rfl

theorem outsideMemory {a : Nat} (ha : inRegSpace a = true ∨ inPages a = true) : ¬(!inRegSpace a && !inPages a) = true := by
  rcases ha with h | h <;> simp [h]

theorem State.writeAt_narrow {a b : Nat} (s : State) (src : Source) (v : Nat) (ha : inRegSpace a = true ∨ inPages a = true)
    (hb : ¬((b = 4 ∨ b = 8) ∧ a % b = 0)) : s.writeAt src a b v = s.countNarrow (s.whoAt src a) a :=
  (if_neg (outsideMemory ha)).trans (if_neg hb)

theorem State.spaceWrite_word (s : State) (src : Source) (a v : Nat) : s.spaceWrite src a 4 v =
    (s.countAccess (s.whoAt src a) a [s.wordHit (s.whoAt src a) a]).wordWrite src (s.whoAt src a) (s.wordHit (s.whoAt src a) a) a v := by
  unfold State.spaceWrite
  exact if_pos rfl

/-- A write of one aligned word: it is counted, and carried out where it is permitted. -/
theorem State.writeAt_word {a : Nat} (s : State) (src : Source) (v : Nat) (ha : inRegSpace a = true ∨ inPages a = true)
    (hal : a % 4 = 0) : s.writeAt src a 4 v =
      (s.countAccess (s.whoAt src a) a [s.wordHit (s.whoAt src a) a]).wordWrite src (s.whoAt src a) (s.wordHit (s.whoAt src a) a) a
        (v % 2 ^ 32) :=
  (if_neg (outsideMemory ha)).trans ((if_pos ⟨.inl rfl, hal⟩).trans (s.spaceWrite_word src a _))

theorem State.writeAt_pair {a : Nat} (s : State) (src : Source) (v : Nat) (ha : inRegSpace a = true ∨ inPages a = true)
    (hal : a % 8 = 0) : s.writeAt src a 8 v = s.spaceWrite src a 8 (v % 2 ^ 64) :=
  (if_neg (outsideMemory ha)).trans (if_pos ⟨.inr rfl, hal⟩)

/-- Two words of one register are one write of both. -/
theorem State.spaceWrite_same {s : State} {src : Source} {a : Nat} {h k : Hit} (v : Nat) (hx : s.wordHit (s.whoAt src a) a = .reg h)
    (hy : s.wordHit (s.whoAt src a) (a + 4) = .reg k) (hr : h.reg = k.reg) (hi : h.i = k.i) (hj : h.j = k.j) :
    s.spaceWrite src a 8 v = (s.countAccess (s.whoAt src a) a [.reg h, .reg k]).regWrite src (s.whoAt src a) h 8 v := by
  simp only [State.spaceWrite, hx, hy]
  exact (if_neg (by decide)).trans (if_pos ⟨hr, hi, hj⟩)

/-- Two words of different registers are two writes. -/
theorem State.spaceWrite_two {s : State} {src : Source} {a : Nat} {h k : Hit} (v : Nat) (hx : s.wordHit (s.whoAt src a) a = .reg h)
    (hy : s.wordHit (s.whoAt src a) (a + 4) = .reg k) (hr : h.reg ≠ k.reg) :
    s.spaceWrite src a 8 v = ((s.countAccess (s.whoAt src a) a [.reg h, .reg k]).regWrite src (s.whoAt src a) h 4 (v % 2 ^ 32)).regWrite
      src (s.whoAt src a) k 4 (v / 2 ^ 32) := by
  simp only [State.spaceWrite, hx, hy]
  exact (if_neg (by decide)).trans (if_neg (fun e => hr e.1))

/-- A word beside a hole is carried out alone. -/
theorem State.spaceWrite_hole {s : State} {src : Source} {a : Nat} (v : Nat) (hy : s.wordHit (s.whoAt src a) (a + 4) = .hole) :
    s.spaceWrite src a 8 v = (s.countAccess (s.whoAt src a) a [s.wordHit (s.whoAt src a) a, .hole]).wordWrite src (s.whoAt src a)
      (s.wordHit (s.whoAt src a) a) a (v % 2 ^ 32) := by
  simp only [State.spaceWrite, hy]
  refine (if_neg (by decide)).trans ?_
  cases s.wordHit (s.whoAt src a) a <;> rfl

/-! ### What an access counts -/

theorem State.countNarrow_vef (s : State) (k a : Nat) : s.countNarrow (.vef k) a = s.inc VEF_VIOL.REG k := rfl

theorem State.countNarrow_others {who : Requester} (s : State) (a : Nat) (h : who.anyButVef = true) :
    s.countNarrow who a = (s.inc SYS_ACC.NARROW).wr SYS_ACC.LAST_SLOT (bits a 20 8) :=
  match who, h with
  | .firmware, _ | .hypervisor, _ | .cantle, _ => rfl

/-- A VEF's refused word counts once, whatever the reasons. -/
theorem State.countAccess_vef {xs : List WordHit} (s : State) (k a : Nat) (h : (xs.contains .hole || xs.contains .denied) = true) :
    s.countAccess (.vef k) a xs = s.inc VEF_VIOL.REG k := if_pos h

/-- What any other requester's access counts: each reason once, and the slot. -/
theorem State.countAccess_others {who : Requester} (s : State) (a : Nat) (xs : List WordHit) (h : who.anyButVef = true) :
    s.countAccess who a xs =
      (let t := if xs.contains .hole then s.inc SYS_ACC.HOLE else s
       let t := if xs.contains .denied then t.inc SYS_ACC.DENIED else t
       if xs.contains .hole || xs.contains .denied then t.wr SYS_ACC.LAST_SLOT (bits a 20 8) else t) :=
  match who, h with
  | .firmware, _ | .hypervisor, _ | .cantle, _ => rfl

/-- An access whose words are all registers counts nothing. -/
theorem State.countAccess_none {xs : List WordHit} (s : State) (who : Requester) (a : Nat)
    (hh : xs.contains .hole = false) (hd : xs.contains .denied = false) : s.countAccess who a xs = s := by
  unfold State.countAccess
  cases who <;> simp only [hh, hd, Bool.or_false, Bool.false_eq_true, if_false]

/-! ### The stall watchdog's period (02 R59) -/

theorem findReg_fldWdog : ∀ n : Fin 17, findReg (0xF000B00108 + n.val * 0x20) = some ⟨.plainFldWdog, n, 0, 0⟩ ∧
    findReg (0xF000B00108 + n.val * 0x20 + 4) = some ⟨.plainFldErr, n, 0, 0⟩ := by decide +kernel

theorem State.wordHit_allowed {a : Nat} {h : Hit} {who : Requester} (s : State) (hf : findReg a = some h) (hr : h.reg ≠ .pcieObw)
    (hw : h.allows who = true) : s.wordHit who a = .reg h := by
  simp only [State.wordHit, hf, hr, false_and, if_false, hw, if_true]

/-- A field at bit 0 takes its value from the low word of a write at its register's first byte. -/
theorem Fld.merge_low {f : Fld} {b : Nat} (old v : Nat) (hlo : f.lo = 0) (hw : f.w ≤ 8 * b) :
    f.merge old 0 b v = v % 2 ^ f.w := by
  have hdvd : 2 ^ f.w ∣ 2 ^ (8 * b) := pow_dvd_pow 2 hw
  have hmask : old &&& (2 ^ (8 * b) - 1) = old % 2 ^ (8 * b) := Nat.and_two_pow_sub_one_eq_mod old _
  have hhigh : 2 ^ f.w ∣ old - old % 2 ^ (8 * b) := hdvd.trans (Nat.dvd_sub_mod old)
  simp only [Fld.merge, bits, hlo, Nat.mul_zero, Nat.pow_zero, Nat.mul_one, Nat.div_one, hmask]
  rw [Nat.add_mod, Nat.mod_eq_zero_of_dvd hhigh, Nat.zero_add, Nat.mod_mod, Nat.mod_mod_of_dvd _ hdvd]

/-- The period that a write of a value stores. -/
def periodOf (x : Nat) : Nat := if x < 50 then 50 else if x > 100000 then 100000 else x

theorem periodOf_eq (x : Nat) : min 100000 (max 50 x) = periodOf x := by
  unfold periodOf
  split
  · omega
  · split <;> omega

theorem periodOf_lt (x : Nat) : periodOf x < 2 ^ 17 := by
  rw [← periodOf_eq]
  omega

theorem State.regWrite_fldWdog (s : State) (src : Source) (who : Requester) (n v : Nat) :
    s.regWrite src who ⟨.plainFldWdog, n, 0, 0⟩ 4 v = s.wr PLAIN_FLD_WDOG.PERIOD_US (periodOf (v % 2 ^ 17)) n := by
  have hmerge : s.newVal PLAIN_FLD_WDOG.PERIOD_US ⟨.plainFldWdog, n, 0, 0⟩ 4 v = v % 2 ^ 17 := Fld.merge_low _ v rfl (by decide)
  rw [← periodOf_eq, ← hmerge]
  rfl

/-- A write to the error flags of a field changes registers only, and of these not the period. -/
theorem State.regWrite_fldErr (s : State) (src : Source) (who : Requester) (n v m : Nat) :
    (s.regWrite src who ⟨.plainFldErr, n, 0, 0⟩ 4 v).flds = s.flds ∧
    (s.regWrite src who ⟨.plainFldErr, n, 0, 0⟩ 4 v).rd PLAIN_FLD_WDOG.PERIOD_US m = s.rd PLAIN_FLD_WDOG.PERIOD_US m := by
  show ((s.clearOnes fldErrFlags ⟨.plainFldErr, n, 0, 0⟩ 4 v).refreshLoc n).flds = _ ∧ State.rd (State.refreshLoc _ n) _ _ _ = _
  have hne : ∀ (t : State) (f : Fld) (x i : Nat), (f.placed && (PLAIN_FLD_WDOG.PERIOD_US.spot != f.spot)) = true →
      (t.wr f x i).rd PLAIN_FLD_WDOG.PERIOD_US m = t.rd PLAIN_FLD_WDOG.PERIOD_US m := by
    intro t f x i h
    obtain ⟨hp, hs⟩ := Bool.and_eq_true_iff.1 h
    exact State.rd_wr_ne t f _ x i 0 m 0 hp (by decide) (bne_iff_ne.1 hs)
  have hclear : (s.clearOnes fldErrFlags ⟨.plainFldErr, n, 0, 0⟩ 4 v).flds = s.flds ∧
      (s.clearOnes fldErrFlags ⟨.plainFldErr, n, 0, 0⟩ 4 v).rd PLAIN_FLD_WDOG.PERIOD_US m = s.rd PLAIN_FLD_WDOG.PERIOD_US m := by
    refine ⟨rfl, ?_⟩
    simp only [State.clearOnes, fldErrFlags, List.foldl_cons, List.foldl_nil]
    iterate 8 rw [hne _ _ _ _ (by decide)]
  unfold State.refreshLoc
  split
  · refine ⟨hclear.1, ?_⟩
    rw [State.toCold, State.toCold, hne _ _ _ _ (by decide), hne _ _ _ _ (by decide), hclear.2]
  · exact hclear

theorem whoAt_mgmt {s : State} {a : Nat} (h : inPages a = false) : s.whoAt .mgmt a = .firmware := by
  simp only [State.whoAt, h, Bool.false_eq_true, if_false]
  rfl

/-- What firmware's write at the address of a field's watchdog period leaves. -/
theorem State.writeAt_fldWdog (s : State) {n b : Nat} (v : Nat) (hn : n < 17) (hb : b = 4 ∨ b = 8) :
    let t := s.writeAt .mgmt (0xF000B00108 + n * 0x20) b v
    t.rd PLAIN_FLD_WDOG.PERIOD_US n = periodOf (v % 2 ^ 17) ∧
      (b = 4 → t = s.wr PLAIN_FLD_WDOG.PERIOD_US (periodOf (v % 2 ^ 17)) n) ∧ t.flds = s.flds := by
  have hreg : findReg (0xF000B00108 + n * 0x20) = some ⟨.plainFldWdog, n, 0, 0⟩ := (findReg_fldWdog ⟨n, hn⟩).1
  have herr : findReg (0xF000B00108 + n * 0x20 + 4) = some ⟨.plainFldErr, n, 0, 0⟩ := (findReg_fldWdog ⟨n, hn⟩).2
  have hspace : inRegSpace (0xF000B00108 + n * 0x20) = true := decide_eq_true (by omega)
  have hpage : inPages (0xF000B00108 + n * 0x20) = false := decide_eq_false (by omega)
  have hx := State.wordHit_allowed (who := .firmware) s hreg nofun rfl
  have hy := State.wordHit_allowed (who := .firmware) s herr nofun rfl
  have hrd : (s.wr PLAIN_FLD_WDOG.PERIOD_US (periodOf (v % 2 ^ 17)) n).rd PLAIN_FLD_WDOG.PERIOD_US n = periodOf (v % 2 ^ 17) := by
    rw [State.rd_wr_same]
    exact Nat.mod_eq_of_lt (periodOf_lt _)
  rcases hb with rfl | rfl
  · have h : s.writeAt .mgmt (0xF000B00108 + n * 0x20) 4 v = s.wr PLAIN_FLD_WDOG.PERIOD_US (periodOf (v % 2 ^ 17)) n := by
      rw [State.writeAt_word s .mgmt v (.inl hspace) (by omega), whoAt_mgmt hpage, hx, State.countAccess_none _ _ _ rfl rfl,
        State.wordWrite, State.regWrite_fldWdog, Nat.mod_mod_of_dvd v (by decide : 2 ^ 17 ∣ 2 ^ 32)]
    rw [h]
    exact ⟨hrd, fun _ => rfl, rfl⟩
  · have h : s.writeAt .mgmt (0xF000B00108 + n * 0x20) 8 v = (s.wr PLAIN_FLD_WDOG.PERIOD_US (periodOf (v % 2 ^ 17)) n).regWrite .mgmt
        .firmware ⟨.plainFldErr, n, 0, 0⟩ 4 (v % 2 ^ 64 / 2 ^ 32) := by
      rw [State.writeAt_pair s .mgmt v (.inl hspace) (by omega),
        State.spaceWrite_two (h := ⟨.plainFldWdog, n, 0, 0⟩) (k := ⟨.plainFldErr, n, 0, 0⟩) _ (by rw [whoAt_mgmt hpage]; exact hx) (by rw [whoAt_mgmt hpage]; exact hy) nofun, whoAt_mgmt hpage,
        State.countAccess_none _ _ _ rfl rfl, State.regWrite_fldWdog, Nat.mod_mod_of_dvd _ (by decide : 2 ^ 17 ∣ 2 ^ 32),
        Nat.mod_mod_of_dvd v (by decide : 2 ^ 17 ∣ 2 ^ 64)]
    obtain ⟨hflds, hper⟩ := (s.wr PLAIN_FLD_WDOG.PERIOD_US (periodOf (v % 2 ^ 17)) n).regWrite_fldErr .mgmt .firmware n
      (v % 2 ^ 64 / 2 ^ 32) n
    rw [h]
    exact ⟨hper.trans hrd, fun h4 => absurd h4 (by decide), hflds⟩

/-- Settles O60: a store goes to memory (log entry 19) or, word by word, to what stands at the address: a refused word is counted by
its reason and its requester (log entry 13), a reserved word inside a group being a hole (log entry 121). -/
theorem registerWrites : Obligations.RegisterWrites := by
  unfold Obligations.RegisterWrites
  refine ⟨fun s src a b v => ⟨rfl, exec_registerWrite_memory src b v⟩, fun s src a b v ha hb => ?narrow, fun s src a v ha hal => ?word,
    fun s src a v ha hal => ?pair, fun s n b v hn hb => ?wdog⟩
  case narrow =>
    rw [exec_registerWrite, State.writeAt_narrow s src v ha hb]
    exact ⟨fun k hk => by rw [hk]; rfl, fun hk => by rw [hk]; rfl, fun hk => by rw [State.countNarrow_others s a hk]⟩
  case word =>
    rw [exec_registerWrite, State.writeAt_word s src v ha hal]
    refine ⟨fun hx => ?hole, fun hx => ?denied, fun h hx => ?reg⟩
    all_goals rw [hx]
    case hole => exact ⟨fun k hk => by rw [hk]; rfl, fun hk => by rw [State.countAccess_others s a _ hk]; rfl⟩
    case denied => exact ⟨fun k hk => by rw [hk]; rfl, fun hk => by rw [State.countAccess_others s a _ hk]; rfl⟩
    case reg => rw [State.countAccess_none s _ a rfl rfl]; rfl
  case pair =>
    rw [exec_registerWrite, State.writeAt_pair s src v ha hal]
    refine ⟨fun h k hx hy hr hi hj => ?same, fun hx hy => ?denied, fun h hx hy hk => ?beside⟩
    case same => rw [State.spaceWrite_same _ hx hy hr hi hj, State.countAccess_none s _ a rfl rfl]
    case denied =>
      rw [State.spaceWrite_hole _ hy, hx]
      exact ⟨fun k hk => by rw [hk]; rfl, fun hk => by rw [State.countAccess_others s a _ hk]; rfl⟩
    case beside =>
      rw [State.spaceWrite_hole _ hy, hx, State.countAccess_others s a _ hk, Nat.mod_mod_of_dvd v (by decide : 2 ^ 32 ∣ 2 ^ 64)]
      rfl
  case wdog =>
    obtain ⟨hrd, hword, hflds⟩ := s.writeAt_fldWdog v hn hb
    refine ⟨_, exec_registerWrite s _ _ _ _, hrd, fun h4 => by rw [hrd]; exact hword h4, ?running, ?progress⟩
    case running => simp only [State.frt, hflds]
    case progress => rw [State.progress, State.frt_setF]

end Sys2Proof.Machine
end

section
/-! How a cell executes a microword (02 R35–R39, 04 R99): what its fetch corrects, what a repetition leaves of the cell, and how the
word stalls, stops, repeats and retires. -/

namespace Sys2Proof.Machine

/-! ### Single-bit errors corrected (02 R35) -/

/-- `t` is `s` with single-bit errors of pockets corrected and counted, and nothing else. -/
structure State.Corrected (s t : State) : Prop where
  rest : t = { s with regs := t.regs, mem := t.mem }
  mem : t.mem = { s.mem with pocketErr := t.mem.pocketErr }
  rd : ∀ (F : Fld) (i j : Nat), F.spot < 2 ^ 18 → F.spot ≠ PLAIN_FLD_ERR.CE_COUNT.spot → t.rd F i j = s.rd F i j

namespace State.Corrected

variable {s t u : State}

theorem refl (s : State) : s.Corrected s := ⟨rfl, rfl, fun _ _ _ _ _ => rfl⟩

theorem trans (h : s.Corrected t) (k : t.Corrected u) : s.Corrected u where
  rest := k.rest.trans (congrArg (fun x : State => { x with regs := u.regs, mem := u.mem }) h.rest)
  mem := k.mem.trans (congrArg (fun x : MemState => { x with pocketErr := u.mem.pocketErr }) h.mem)
  rd F i j hF hne := (k.rd F i j hF hne).trans (h.rd F i j hF hne)

theorem cells (h : s.Corrected t) : t.cells = s.cells := by rw [h.rest]
theorem flight (h : s.Corrected t) : t.flight = s.flight := by rw [h.rest]
theorem stitch (h : s.Corrected t) : t.mem.stitch = s.mem.stitch := by rw [h.mem]
theorem stitchBad (h : s.Corrected t) : t.mem.stitchBad = s.mem.stitchBad := by rw [h.mem]
theorem pocket (h : s.Corrected t) : t.mem.pocket = s.mem.pocket := by rw [h.mem]

theorem cell (h : s.Corrected t) (n : Nat) : t.cell n = s.cell n := by simp only [State.cell, h.cells]

/-- Corrections one after the other. -/
theorem foldl {α : Type} {g : State → α → State} (hg : ∀ (t : State) (x : α), t.Corrected (g t x)) (l : List α) (s : State) :
    s.Corrected (l.foldl g s) := by
  induction l generalizing s with
  | nil => exact refl s
  | cons x xs ih => exact (hg s x).trans (ih (g s x))

end State.Corrected

/-- One word corrected: its mark goes, and its field counts it. -/
theorem State.corrected_word (s : State) (f : Nat) (e : Sparse Nat) :
    s.Corrected { s.inc PLAIN_FLD_ERR.CE_COUNT f with mem := { (s.inc PLAIN_FLD_ERR.CE_COUNT f).mem with pocketErr := e } } :=
  ⟨rfl, rfl, fun F i j hF hne => State.rd_inc_ne s PLAIN_FLD_ERR.CE_COUNT F f 0 i j (by decide) (decide_eq_true hF) hne⟩

theorem State.corrected_pocketFix (s : State) (f cell o n : Nat) : s.Corrected (s.pocketFix f cell o n) := by
  unfold State.pocketFix
  split
  · exact .refl s
  · refine .foldl (fun t k => ?_) _ s
    dsimp only
    split
    · exact t.corrected_word f _
    · exact .refl t

theorem State.corrected_fixPocket (s : State) (cell o n : Nat) : s.Corrected (s.fixPocket cell o n) := by
  unfold State.fixPocket
  split
  · exact s.corrected_pocketFix _ cell o n
  · exact .refl s

theorem State.corrected_fixPart (s : State) (cell o n : Nat) : s.Corrected (s.fixPart cell o n) := by
  have hfirst : s.Corrected (if o % 8 = 0 then s else s.fixPocket cell (o / 8 * 8) 8) := by
    split
    · exact .refl s
    · exact s.corrected_fixPocket cell _ 8
  have hlast : ∀ t : State, t.Corrected (if (o + n) % 8 = 0 then t else t.fixPocket cell ((o + n) / 8 * 8) 8) := by
    intro t
    split
    · exact .refl t
    · exact t.corrected_fixPocket cell _ 8
  exact hfirst.trans (hlast _)

theorem State.corrected_fetchFix (s : State) (f cell pc : Nat) : s.Corrected (s.fetchFix f cell pc) := by
  unfold State.fetchFix
  split
  · exact .refl s
  · exact s.corrected_pocketFix f cell _ 16

/-! ### What a microword goes by: its field, and the stitch store -/

theorem State.fieldOfCell_congr {s t : State} (cell : Nat)
    (h : ∀ F ∈ [PLAIN_FLD_STATE.STATE, PLAIN_FLD_CFG.ORIGIN_X, PLAIN_FLD_CFG.ORIGIN_Y, PLAIN_FLD_CFG.WIDTH_M1, PLAIN_FLD_CFG.HEIGHT_M1],
      ∀ f, t.rd F f = s.rd F f) : t.fieldOfCell cell = s.fieldOfCell cell := by
  simp only [List.forall_mem_cons, List.not_mem_nil, false_implies, implies_true, and_true] at h
  obtain ⟨hs, hx, hy, hw, hh⟩ := h
  simp only [State.fieldOfCell, State.fieldOfCluster, State.fState, State.clustersOf, hs, hx, hy, hw, hh]

theorem State.Corrected.fieldOfCell {s t : State} (h : s.Corrected t) (cell : Nat) : t.fieldOfCell cell = s.fieldOfCell cell := by
  refine State.fieldOfCell_congr cell (fun F hF f => h.rd F f 0 ?_ ?_)
  all_goals revert F; decide

theorem State.fieldOfCell_setCell (s : State) (n : Nat) (x : CellSt) (cell : Nat) :
    (s.setCell n x).fieldOfCell cell = s.fieldOfCell cell := rfl

theorem State.storeBad_congr {s t : State} (h : t.mem.stitchBad = s.mem.stitchBad) (cell o n : Nat) :
    t.storeBad cell o n = s.storeBad cell o n := by simp only [State.storeBad, h]

theorem State.stitchNum_congr {s t : State} (h : t.mem.stitch = s.mem.stitch) (cell o n : Nat) :
    t.stitchNum cell o n = s.stitchNum cell o n := by simp only [State.stitchNum, h]

theorem State.liveField_cell {s : State} {cell : Nat} {f : Fin 17} (h : s.liveField cell = some f) : s.fieldOfCell cell = some f.val := by
  unfold State.liveField at h
  split at h
  next => exact absurd h (by simp)
  next g hg =>
    split at h
    · split at h
      · rw [hg, ← Option.some.inj h]
      · exact absurd h (by simp)
    · exact absurd h (by simp)

/-! ### What taking flits, giving flits and stepping generators leave -/

theorem State.taken_eq (s : State) (cell : Nat) (m : Micro) : s.taken cell m = s ∨
    ∃ p, s.taken cell m = s.setCell cell { s.cell cell with port := p } := by
  unfold State.taken
  split
  · exact .inr ⟨_, rfl⟩
  · exact .inl rfl

theorem State.taken_cell (s : State) (cell : Nat) (m : Micro) : ∃ p, (s.taken cell m).cell cell = { s.cell cell with port := p } := by
  rcases s.taken_eq cell m with h | ⟨p, h⟩
  · exact ⟨(s.cell cell).port, by rw [h]⟩
  · exact ⟨p, by rw [h, State.cell_setCell]⟩

theorem State.taken_frame (s : State) (cell : Nat) (m : Micro) : (s.taken cell m).regs = s.regs ∧ (s.taken cell m).mem = s.mem ∧
    (s.taken cell m).flds = s.flds ∧ (s.taken cell m).flight = s.flight := by
  rcases s.taken_eq cell m with h | ⟨p, h⟩
  · rw [h]; exact ⟨rfl, rfl, rfl, rfl⟩
  · rw [h]; exact ⟨rfl, rfl, rfl, rfl⟩

theorem State.fieldOfCell_taken (s : State) (n : Nat) (m : Micro) (cell : Nat) :
    (s.taken n m).fieldOfCell cell = s.fieldOfCell cell :=
  State.fieldOfCell_congr cell (fun F _ f => State.rd_congr _ _ (s.taken_frame n m).1 F f 0)

theorem State.given_off {m : Micro} (s : State) (cell : Nat) (fs : Option (List Flit)) (h : m.outEn = false) : s.given cell m fs = s :=
  if_neg (by rw [h]; decide)

theorem State.given_cell (s : State) (cell : Nat) (m : Micro) (fs : Option (List Flit)) :
    ∃ b, (s.given cell m fs).cell cell = { s.cell cell with inBuf := b } := by
  unfold State.given
  split
  · cases fs with
    | some l => exact ⟨_, State.cell_setCell s cell _⟩
    | none => exact ⟨_, State.cell_setCell s.drawn cell _⟩
  · exact ⟨(s.cell cell).inBuf, rfl⟩

theorem State.given_flight (s : State) (cell : Nat) (m : Micro) (fs : Option (List Flit)) : (s.given cell m fs).flight = s.flight := by
  unfold State.given
  split
  · cases fs <;> rfl
  · rfl

theorem State.stepGens_nil (s : State) (cell : Nat) : s.stepGens cell [] = s := rfl

/-- Generators that step change only their positions. -/
theorem State.stepGens_cell (s : State) (cell : Nat) (os : List Opd) :
    ∃ a, (s.stepGens cell os).cell cell = { s.cell cell with ags := a } := by
  unfold State.stepGens
  generalize ((os.filter (·.ag)).map (·.sel)).eraseDups = ns
  induction ns generalizing s with
  | nil => exact ⟨(s.cell cell).ags, rfl⟩
  | cons n ns ih =>
    obtain ⟨a, ha⟩ := ih (s.setCell cell { s.cell cell with
      ags := Sparse.put ⟨0, 0, 0⟩ (s.cell cell).ags n ((s.gen cell n).next ((s.cell cell).agPos n)) })
    refine ⟨a, ha.trans ?_⟩
    rw [State.cell_setCell]

/-! ### A microword command, case by case -/

theorem Micro.formatError_of_reserved {m : Micro} (h : m.reserved = true) : m.formatError = true := by
  simp only [Micro.formatError, h, Bool.true_or]

section
variable {s u t : State} {cell : Nat} {f : Fin 17} {m : Micro} {cls op : Nat} {total : Micro → Nat} {os : Micro → List Opd}
  {next : CellSt → Micro → Nat} {body : Body}

theorem State.runWord_dead (h : s.liveField cell = none) : s.runWord cell cls op total os next body = s := by
  simp only [State.runWord, h]

theorem State.runWord_halted (h : (s.cell cell).running = false) : s.runWord cell cls op total os next body = s := by
  unfold State.runWord
  split
  · rfl
  · exact if_pos (by rw [h]; rfl)

theorem State.runWord_unfetched {e : Bad} (hl : s.liveField cell = some f) (hr : (s.cell cell).running = true)
    (he : s.microAt cell (s.cell cell).pc = .error e) : s.runWord cell cls op total os next body = s.raise f cell e := by
  simp only [State.runWord, hl, hr, he, Bool.not_true, Bool.false_eq_true, if_false]

theorem State.runWord_reserved (hl : s.liveField cell = some f) (hr : (s.cell cell).running = true)
    (hm : s.microAt cell (s.cell cell).pc = .ok m) (hres : m.reserved = true) : s.runWord cell cls op total os next body =
      (s.fetchFix f cell (s.cell cell).pc).microError f (s.cell cell).job := by
  simp only [State.runWord, hl, hr, hm, hres, Bool.not_true, Bool.false_eq_true, if_false, if_true]

theorem State.runWord_elsewhere (hl : s.liveField cell = some f) (hr : (s.cell cell).running = true)
    (hm : s.microAt cell (s.cell cell).pc = .ok m) (hres : m.reserved = false) (hne : m.cls ≠ cls ∨ m.op ≠ op) :
    s.runWord cell cls op total os next body = s.fetchFix f cell (s.cell cell).pc := by
  simp only [State.runWord, hl, hr, hm, hres, Bool.not_true, Bool.false_eq_true, if_false]
  exact if_pos hne

theorem State.runWord_formatError (hl : s.liveField cell = some f) (hr : (s.cell cell).running = true)
    (hm : s.microAt cell (s.cell cell).pc = .ok m) (hc : m.cls = cls) (ho : m.op = op) (hbad : m.formatError = true) :
    s.runWord cell cls op total os next body = (s.fetchFix f cell (s.cell cell).pc).microError f (s.cell cell).job := by
  simp only [State.runWord, hl, hr, hm, hc, ho, hbad, Bool.not_true, Bool.false_eq_true, if_false, if_true, ne_eq, not_true,
    or_self, ite_self]

theorem State.runWord_waits (hl : s.liveField cell = some f) (hr : (s.cell cell).running = true)
    (hm : s.microAt cell (s.cell cell).pc = .ok m) (hc : m.cls = cls) (ho : m.op = op) (hok : m.formatError = false)
    (hev : (s.cell cell).eventOk m = false) :
    s.runWord cell cls op total os next body = s.fetchFix f cell (s.cell cell).pc := by
  have hres : m.reserved = false := Bool.eq_false_iff.2 (fun h => by rw [Micro.formatError_of_reserved h] at hok; cases hok)
  simp only [State.runWord, hl, hr, hm, hc, ho, hres, hok, hev, Bool.not_true, Bool.not_false, Bool.false_eq_true, if_false, if_true,
    ne_eq, not_true, or_self]

theorem Executes.notReserved (h : Executes s u cell f m cls op) : m.reserved = false :=
  Bool.eq_false_iff.2 (fun hres => absurd ((Micro.formatError_of_reserved hres).symm.trans h.legal) (by decide))

theorem Executes.corrected (h : Executes s u cell f m cls op) : s.Corrected u := h.fixed ▸ s.corrected_fetchFix f cell _

theorem State.runWord_stalls (h : Executes s u cell f m cls op) (hn : (s.cell cell).ready m (total m - (s.cell cell).rep) = 0) :
    s.runWord cell cls op total os next body = u.setCell cell { s.cell cell with waiting := m.inEn || m.outEn } := by
  simp only [State.runWord, h.live, h.running, h.fetched, ← h.fixed, h.notReserved, h.isCls, h.isOp, h.legal, h.event, hn,
    Bool.not_true, Bool.false_eq_true, if_false, if_true, ne_eq, not_true, or_self]

theorem State.runWord_badGen {k : Nat} (h : Executes s u cell f m cls op)
    (hn : 0 < (s.cell cell).ready m (total m - (s.cell cell).rep)) (hg : u.gensBad cell m (os m) = some k) :
    s.runWord cell cls op total os next body = u.raise f cell (.parity k) := by
  simp only [State.runWord, h.live, h.running, h.fetched, ← h.fixed, h.notReserved, h.isCls, h.isOp, h.legal, h.event, hn.ne', hg,
    Bool.not_true, Bool.false_eq_true, if_false, ne_eq, not_true, or_self]

theorem State.runWord_stops {e : Bad} (h : Executes s u cell f m cls op)
    (hn : 0 < (s.cell cell).ready m (total m - (s.cell cell).rep)) (hg : u.gensBad cell m (os m) = none)
    (hr : u.reps cell m (os m) body (s.cell cell).rep ((s.cell cell).ready m (total m - (s.cell cell).rep)) = .error (e, t)) :
    s.runWord cell cls op total os next body = t.raise f cell e := by
  simp only [State.runWord, h.live, h.running, h.fetched, ← h.fixed, h.notReserved, h.isCls, h.isOp, h.legal, h.event, hn.ne', hg, hr,
    Bool.not_true, Bool.false_eq_true, if_false, ne_eq, not_true, or_self]

theorem State.runWord_goesOn (h : Executes s u cell f m cls op)
    (hn : 0 < (s.cell cell).ready m (total m - (s.cell cell).rep)) (hg : u.gensBad cell m (os m) = none)
    (hr : u.reps cell m (os m) body (s.cell cell).rep ((s.cell cell).ready m (total m - (s.cell cell).rep)) = .ok t) :
    s.runWord cell cls op total os next body =
      if (s.cell cell).ready m (total m - (s.cell cell).rep) < total m - (s.cell cell).rep then
        t.setCell cell { t.cell cell with rep := (s.cell cell).rep + (s.cell cell).ready m (total m - (s.cell cell).rep), waiting := true }
      else t.retired cell f m (next (t.cell cell) m) := by
  simp only [State.runWord, h.live, h.running, h.fetched, ← h.fixed, h.notReserved, h.isCls, h.isOp, h.legal, h.event, hn.ne', hg, hr,
    Bool.not_true, Bool.false_eq_true, if_false, ne_eq, not_true, or_self]
  rfl

/-! ### Exactly one repetition -/

theorem State.oneRep_ok {rep : Nat} {l : List Opd} {fs : Option (List Flit)}
    (hb : body (u.taken cell m) m rep (u.flitsIn cell m) = .ok (t, fs)) :
    u.oneRep cell m l body rep = .ok ((t.stepGens cell l).given cell m fs) := by
  simp only [State.oneRep, hb]

theorem State.reps_one {rep : Nat} {l : List Opd} (h : u.oneRep cell m l body rep = .ok t) : u.reps cell m l body rep 1 = .ok t := by
  simp only [State.reps, h]

theorem State.reps_one_error {rep : Nat} {l : List Opd} {e : Bad} (hb : body (u.taken cell m) m rep (u.flitsIn cell m) = .error e) :
    u.reps cell m l body rep 1 = .error (e, u) := by
  simp only [State.reps, State.oneRep, hb]

/-- The one repetition of a microword that an error meets raises it on the state that the fetch left. -/
theorem State.runWord_error {e : Bad} (h : Steps s u cell f m cls op (total m) (os m))
    (hb : body (u.taken cell m) m (s.cell cell).rep (u.flitsIn cell m) = .error e) :
    s.runWord cell cls op total os next body = u.raise f cell e :=
  State.runWord_stops h.toExecutes (h.one ▸ Nat.one_pos) h.gens (h.one ▸ State.reps_one_error hb)

/-- The one repetition of a microword, and what the word does after it. -/
theorem State.runWord_step {fs : Option (List Flit)} (h : Steps s u cell f m cls op (total m) (os m))
    (hb : body (u.taken cell m) m (s.cell cell).rep (u.flitsIn cell m) = .ok (t, fs)) :
    s.runWord cell cls op total os next body = ((t.stepGens cell (os m)).given cell m fs).afterRep cell f m (s.cell cell).rep (total m)
      (next (((t.stepGens cell (os m)).given cell m fs).cell cell) m) := by
  rw [State.runWord_goesOn h.toExecutes (h.one ▸ Nat.one_pos) h.gens (h.one ▸ State.reps_one (State.oneRep_ok hb)), h.one,
    State.afterRep]
  have hlt : 1 < total m - (s.cell cell).rep ↔ (s.cell cell).rep + 1 < total m := by omega
  simp only [hlt]

/-- The same with the address after it, which the cell's own address and its loop counters decide. -/
theorem State.runWord_branch {fs : Option (List Flit)} {a : Nat} (h : Steps s u cell f m cls op (total m) (os m))
    (hb : body (u.taken cell m) m (s.cell cell).rep (u.flitsIn cell m) = .ok (t, fs))
    (ha : ∀ d : CellSt, d.loops = (t.cell cell).loops → d.pc = (t.cell cell).pc → next d m = a) :
    s.runWord cell cls op total os next body =
      ((t.stepGens cell (os m)).given cell m fs).afterRep cell f m (s.cell cell).rep (total m) a := by
  obtain ⟨g, hg⟩ := t.stepGens_cell cell (os m)
  obtain ⟨b, hb'⟩ := (t.stepGens cell (os m)).given_cell cell m fs
  rw [State.runWord_step h hb, ha (((t.stepGens cell (os m)).given cell m fs).cell cell) (by rw [hb', hg]) (by rw [hb', hg])]

/-- The same for a microword that does not branch, whose effect leaves the cell's address. -/
theorem State.runWord_onward {fs : Option (List Flit)} (h : Steps s u cell f m cls op (total m) (os m))
    (hb : body (u.taken cell m) m (s.cell cell).rep (u.flitsIn cell m) = .ok (t, fs)) (hpc : (t.cell cell).pc = (s.cell cell).pc) :
    s.runWord cell cls op total os onward body =
      ((t.stepGens cell (os m)).given cell m fs).afterRep cell f m (s.cell cell).rep (total m) ((s.cell cell).pc + 1) :=
  State.runWord_branch h hb (fun _ _ hd => congrArg (· + 1) (hd.trans hpc))

theorem Executes.cell_eq (h : Executes s u cell f m cls op) : u.cell cell = s.cell cell := h.corrected.cell cell

theorem Executes.taken_cell (h : Executes s u cell f m cls op) : ∃ p, (u.taken cell m).cell cell = { s.cell cell with port := p } := by
  obtain ⟨p, hp⟩ := u.taken_cell cell m
  exact ⟨p, by rw [hp, h.cell_eq]⟩

theorem Executes.taken_pc (h : Executes s u cell f m cls op) : ((u.taken cell m).cell cell).pc = (s.cell cell).pc := by
  obtain ⟨p, hp⟩ := h.taken_cell
  rw [hp]

/-- The field that a microword finds for its cell is the one that runs it. -/
theorem Executes.taken_field (h : Executes s u cell f m cls op) : (u.taken cell m).fieldOfCell cell = some f.val := by
  rw [State.fieldOfCell_taken, h.corrected.fieldOfCell, State.liveField_cell h.live]

theorem Executes.taken_storeBad (h : Executes s u cell f m cls op) (o n : Nat) :
    (u.taken cell m).storeBad cell o n = s.storeBad cell o n :=
  State.storeBad_congr ((congrArg MemState.stitchBad (u.taken_frame cell m).2.1).trans h.corrected.stitchBad) cell o n

theorem Executes.taken_stitchNum (h : Executes s u cell f m cls op) (o n : Nat) :
    (u.taken cell m).stitchNum cell o n = s.stitchNum cell o n :=
  State.stitchNum_congr ((congrArg MemState.stitch (u.taken_frame cell m).2.1).trans h.corrected.stitch) cell o n

theorem Executes.taken_flight (h : Executes s u cell f m cls op) : (u.taken cell m).flight = s.flight :=
  (u.taken_frame cell m).2.2.2.trans h.corrected.flight

end

/-! ### The 28 microword commands -/

/-- A microword command runs its word, and END then begins the next command. -/
theorem exec_wordOf {c : Instr} {s : State} {cell : Nat} {w : Word} (h : wordOf s c = some (cell, w)) :
    exec c s = .next (w.after (s.runWord cell w.cls w.op w.total w.opds w.next w.body)) := by
  unfold wordOf at h
  split at h <;> cases h <;> rfl

theorem State.afterEnd_same {s t : State} (cell : Nat) (h : t.flight = s.flight) : t.afterEnd s cell = t := by
  refine if_neg ?_
  simp only [State.cellEnded, h, Bool.and_not_self, Bool.false_eq_true, not_false_eq_true]

/-- What follows a microword does nothing where the commands in flight are those of before it. -/
theorem after_wordOf {c : Instr} {s t : State} {cell : Nat} {w : Word} (h : wordOf s c = some (cell, w)) (hf : t.flight = s.flight) :
    w.after t = t := by
  unfold wordOf at h
  split at h <;> cases h
  case h_5 c => exact State.afterEnd_same c hf
  all_goals rfl

/-- Settles O21: a command runs its word, whose repetitions stop at the first error, step generators once each and find a generator's
wrong parity before they begin (log entry 81); a reserved code is a format error (log entry 83). -/
theorem microwordsComplete : Obligations.MicrowordsComplete := by
  unfold Obligations.MicrowordsComplete
  intro c s cell w hw
  rw [exec_wordOf hw]
  refine ⟨fun f m u h => ⟨fun hn => ?stall, fun hn k hk => ?gen, fun hn hg e t hr => ?stop, fun hn hg t hr => ?goesOn⟩,
    fun hl => ?dead, fun hr => ?halted, fun f e hl hr he => ?unfetched, fun f m hl hr hm => ⟨fun hres => ?reserved,
      fun hres hne => ?elsewhere, fun hc ho hbad => ?formatError, fun hc ho hok hev => ?waits⟩⟩
  case stall => rw [State.runWord_stalls h hn]
  case gen => rw [State.runWord_badGen h hn hk]
  case stop => rw [State.runWord_stops h hn hg hr]
  case goesOn => rw [State.runWord_goesOn h hn hg hr]
  case dead => rw [State.runWord_dead hl, after_wordOf hw rfl]
  case halted => rw [State.runWord_halted hr, after_wordOf hw rfl]
  case unfetched => rw [State.runWord_unfetched hl hr he]
  case reserved => rw [State.runWord_reserved hl hr hm hres]
  case elsewhere => rw [State.runWord_elsewhere hl hr hm hres hne, after_wordOf hw (s.corrected_fetchFix f cell _).flight]
  case formatError => rw [State.runWord_formatError hl hr hm hc ho hbad]
  case waits => rw [State.runWord_waits hl hr hm hc ho hok hev, after_wordOf hw (s.corrected_fetchFix f cell _).flight]

end Sys2Proof.Machine
end

section
/-! The microwords of the CONTROL and SIGNAL classes and the packets of the packet lane (02 R42, R55, 04 R99–R103). -/

namespace Sys2Proof.Machine

/-! ### END (04 R103) -/

theorem State.afterRep_flight (s : State) (cell : Nat) (f : Fin 17) (m : Micro) (rep total next : Nat) :
    (s.afterRep cell f m rep total next).flight = s.flight := by
  unfold State.afterRep
  split
  · rfl
  · unfold State.retired
    dsimp only
    split <;> rfl

theorem State.cellEnded_iff (s : State) (job cell : Nat) :
    s.cellEnded job cell = true ↔ ∃ j ∈ s.flight, j.cmd.serial = job ∧ cell ∈ j.endedCells := by
  simp only [State.cellEnded, List.any_eq_true, Bool.and_eq_true, beq_iff_eq, List.contains_iff_mem]

theorem State.cellEnded_false_iff (s : State) (job cell : Nat) :
    s.cellEnded job cell = false ↔ ∀ j ∈ s.flight, j.cmd.serial = job → cell ∉ j.endedCells := by
  rw [← Bool.not_eq_true, State.cellEnded_iff]
  simp only [not_exists, not_and]

theorem State.afterEnd_begins {s t : State} {cell : Nat} (ht : t.cellEnded (s.cell cell).job cell = true)
    (hs : s.cellEnded (s.cell cell).job cell = false) : t.afterEnd s cell = t.setCell cell (t.cell cell).endJob :=
  if_pos (by rw [ht, hs]; rfl)

theorem State.afterEnd_stays {s t : State} {cell : Nat}
    (h : t.cellEnded (s.cell cell).job cell = false ∨ s.cellEnded (s.cell cell).job cell = true) : t.afterEnd s cell = t :=
  if_neg (by rcases h with h | h <;> simp [h])

/-- A command with a cell added to those that have ended it. -/
def endedBy (cell : Nat) (j : Job) : Job := { j with endedCells := j.endedCells ++ [cell] }

/-- Once a cell is added to a command in flight, it has ended it; with none in flight, nothing has ended. -/
theorem State.cellEnded_added {s t : State} {job cell : Nat} (h : t.flight = (s.changeJob job (endedBy cell)).flight) :
    t.cellEnded job cell = true ↔ ∃ j ∈ s.flight, j.cmd.serial = job := by
  rw [State.cellEnded_iff, h]
  constructor
  · rintro ⟨i, hi, hser, -⟩
    obtain ⟨j, hj, rfl⟩ := List.mem_map.1 hi
    refine ⟨j, hj, ?_⟩
    split at hser <;> exact hser
  · rintro ⟨j, hj, hser⟩
    refine ⟨endedBy cell j, List.mem_map.2 ⟨j, hj, if_pos hser⟩, hser, ?_⟩
    exact List.mem_append_right _ (List.mem_singleton.2 rfl)

/-- The END of a cell: it is added to the cells that have ended the command, and begins the next one where that ends its part. -/
theorem exec_controlEnd {s u : State} {cell : Fin 2368} {f : Fin 17} {m : Micro} (h : Steps s u cell f m 0 4 1 []) :
    let x := (((u.taken cell m).changeJob (s.cell cell).job (endedBy cell)).given cell m none).afterRep cell f m (s.cell cell).rep 1
      ((s.cell cell).pc + 1)
    exec (.controlEnd cell) s = .next (x.afterEnd s cell) ∧
      (x.cellEnded (s.cell cell).job cell = true ↔ ∃ j ∈ s.flight, j.cmd.serial = (s.cell cell).job) := by
  refine ⟨congrArg (fun x : State => Host.Outcome.next (x.afterEnd s cell))
    (State.runWord_onward (total := once) (os := noOpds) (body := controlEndBody cell (s.cell cell).job) h rfl h.taken_pc),
    State.cellEnded_added ?_⟩
  rw [State.afterRep_flight, State.given_flight, State.changeJob, State.changeJob, h.taken_flight]

/-! ### Control packets (02 R42) -/

theorem exec_controlPacket {s : State} {cell : Fin 2368} {f : Nat} (h : s.fieldOfCell cell = some f) :
    (∀ n : Fin 16, exec (.controlPacket cell (.token n)) s = .next (s.tokenArrives f cell n)) ∧
    exec (.controlPacket cell .stop) s = .next (if (s.frt f).faultDrain then s.setCell cell (s.cell cell).halt else s) ∧
    exec (.controlPacket cell .kill) s = .next (if s.fState f = stDraining then s.setCell cell (s.cell cell).kill else s) ∧
    exec (.controlPacket cell .progress) s =
      .next (if s.fState f = stRunning ∧ (s.frt f).faultDrain = false then s.progress f else s) := by
  have e : ∀ k, exec (.controlPacket cell k) s = execControlPacket cell k s := fun _ => rfl
  simp only [e, execControlPacket, h, Bool.not_eq_true', implies_true, and_self]

/-- START begins the next command of a halted cell. -/
theorem exec_controlPacket_start {s : State} {cell : Fin 2368} {f j : Nat} {rest : List Nat} (x : Nat)
    (h : s.fieldOfCell cell = some f) (hr : (s.cell cell).running = false) (ht : (s.cell cell).todo = j :: rest) :
    exec (.controlPacket cell (.start x)) s = .next (s.setCell cell { (s.cell cell).begin j with todo := rest }) := by
  show execControlPacket cell (.start x) s = _
  simp only [execControlPacket, h, hr, ht]

theorem exec_controlPacket_noStart {s : State} {cell : Fin 2368} {f : Nat} (x : Nat) (h : s.fieldOfCell cell = some f)
    (hx : (s.cell cell).running = true ∨ (s.cell cell).todo = []) : exec (.controlPacket cell (.start x)) s = .next s := by
  show execControlPacket cell (.start x) s = _
  simp only [execControlPacket, h]
  congr 1
  split
  next hr ht =>
    rcases hx with hx | hx
    · rw [hr] at hx; cases hx
    · rw [ht] at hx; cases hx
  next => rfl

theorem exec_controlPacket_nowhere {s : State} {cell : Fin 2368} (h : s.fieldOfCell cell = none) (k : PacketKind) :
    exec (.controlPacket cell k) s = .next s := by
  show execControlPacket cell k s = _
  simp only [execControlPacket, h]

theorem State.tokenArrives_sent {s : State} {f cell n k : Nat}
    (h : (s.cellsOf f).find? (fun k => (s.cell k).sent.contains (cell, n)) = some k) : s.tokenArrives f cell n =
      (s.setCell k { s.cell k with sent := (s.cell k).sent.erase (cell, n) }).setCell cell
        { (s.setCell k { s.cell k with sent := (s.cell k).sent.erase (cell, n) }).cell cell with
          tokens := setBit ((s.setCell k { s.cell k with sent := (s.cell k).sent.erase (cell, n) }).cell cell).tokens n } := by
  simp only [State.tokenArrives, h]

theorem State.tokenArrives_none {s : State} {f cell n : Nat} (h : ∀ k ∈ s.cellsOf f, (cell, n) ∉ (s.cell k).sent) :
    s.tokenArrives f cell n = s := by
  have hnone : (s.cellsOf f).find? (fun k => (s.cell k).sent.contains (cell, n)) = none :=
    List.find?_eq_none.2 (fun k hk hc => h k hk (List.contains_iff_mem.1 hc))
  simp only [State.tokenArrives, hnone]

/-! ### SIGNAL -/

theorem signalTokenBody_open {t : State} {cell k : Nat} {f : Fin 17} {m : Micro} {rep : Nat} {fs : List Flit}
    (hf : t.fieldOfCell cell = some f.val) (hk : t.cellAt f (bits m 64 6) (bits m 70 6) = some k) (hp : t.pathOpen f k 96 cell = true) :
    signalTokenBody cell t m rep fs =
      .ok (t.setCell cell { t.cell cell with sent := (t.cell cell).sent ++ [(k, bits m 76 4)] }, none) := by
  simp only [signalTokenBody, hf, hk, hp, if_true]

/-- A token to no cell of the field, or over a fenced link, is not sent. -/
theorem signalTokenBody_lost {t : State} {cell : Nat} {f : Fin 17} {m : Micro} {rep : Nat} {fs : List Flit}
    (hf : t.fieldOfCell cell = some f.val)
    (hp : ∀ k, t.cellAt f (bits m 64 6) (bits m 70 6) = some k → t.pathOpen f k 96 cell = false) :
    signalTokenBody cell t m rep fs = .ok (t, none) := by
  cases hk : t.cellAt f (bits m 64 6) (bits m 70 6) with
  | none => simp only [signalTokenBody, hf, hk]
  | some k => simp only [signalTokenBody, hf, hk, hp k hk, Bool.false_eq_true, if_false]

/-- Settles O22: each word by its one repetition, NOP and WAITTOK under their STREAM fields (log entry 83). A token goes along its row
first, and one whose route meets a closed link is not sent (log entry 128). -/
theorem controlAndSignalWords : Obligations.ControlAndSignalWords := by
  unfold Obligations.ControlAndSignalWords
  intro s cell
  refine ⟨fun f m u => ⟨fun h => ?nop, fun h => ?jump, fun h hb => ?loopset, fun h w hb => ?parity, fun h => ?loop, fun h k hk hp => ?token,
    fun h hp => ?lost, fun h ht => ?waittok, fun h => ⟨fun hin hnew => ?ends, fun hold => ?retires⟩⟩,
    fun f hf => ⟨fun n k hk => ?arrives, fun n hn => ?noToken, fun x j rest hr ht => ?start, fun x hx => ?noStart, ?stop, ?kill, ?progress⟩,
    fun hf k => exec_controlPacket_nowhere hf k⟩
  case nop => exact congrArg _ (State.runWord_onward (total := Micro.loop) (os := noOpds) (body := idleBody) h rfl h.taken_pc)
  case jump => exact congrArg _ (State.runWord_step (total := once) (os := noOpds) (body := idleBody) h rfl)
  case loopset =>
    have hbody : controlLoopsetBody cell (u.taken cell m) m (s.cell cell).rep (u.flitsIn cell m) =
        .ok ((u.taken cell m).setCell cell { (u.taken cell m).cell cell with
          loops := Sparse.put 0 ((u.taken cell m).cell cell).loops (bits m 76 4) (s.loopBound cell (bits m 76 4)) }, none) := by
      simp only [controlLoopsetBody, h.taken_storeBad, hb, State.loopBound, h.taken_stitchNum]
    refine congrArg _ (State.runWord_onward (total := once) (os := noOpds) h hbody ?_)
    rw [State.cell_setCell, h.taken_pc]
  case parity =>
    refine congrArg _ (State.runWord_error (total := once) (os := noOpds) h ?_)
    simp only [controlLoopsetBody, h.taken_storeBad, hb]
  case loop =>
    refine congrArg _ (State.runWord_branch (total := once) (os := noOpds) (body := controlLoopBody cell) h rfl (fun d hl hp => ?_))
    rw [hl, hp, State.cell_setCell]
    simp only [Sparse.look_put_same, h.taken_pc]
  case token =>
    refine congrArg _ (State.runWord_onward (total := once) (os := noOpds) h (signalTokenBody_open h.taken_field hk hp) ?_)
    rw [State.cell_setCell, h.taken_pc]
  case lost => exact congrArg _ (State.runWord_onward (total := once) (os := noOpds) h (signalTokenBody_lost h.taken_field hp) h.taken_pc)
  case waittok =>
    have h1 : Steps s u cell f m 5 1 (if (s.cell cell).tokens.testBit (bits m 76 4) then 1 else 0) [] := by rwa [if_pos ht]
    refine congrArg _ ((State.runWord_onward (total := fun m => if (s.cell cell).tokens.testBit (bits m 76 4) then 1 else 0) (os := noOpds)
      (body := signalWaittokBody cell) h1 rfl ?_).trans ?_)
    · rw [State.cell_setCell, h.taken_pc]
    · rw [if_pos ht]
      rfl
  case ends =>
    obtain ⟨hexec, hended⟩ := exec_controlEnd h
    rw [hexec, State.afterEnd_begins (hended.2 hin) ((s.cellEnded_false_iff _ _).2 hnew)]
    rfl
  case retires =>
    obtain ⟨hexec, hended⟩ := exec_controlEnd h
    rw [hexec, State.afterEnd_stays ?_]
    · rfl
    · refine hold.imp (fun hnone => Bool.eq_false_iff.2 (fun he => ?_)) (State.cellEnded_iff s _ _).2
      obtain ⟨j, hj, hser⟩ := hended.1 he
      exact hnone j hj hser
  case arrives =>
    obtain ⟨htoken, -⟩ := exec_controlPacket hf
    rw [htoken, State.tokenArrives_sent hk]
  case noToken =>
    obtain ⟨htoken, -⟩ := exec_controlPacket hf
    rw [htoken, State.tokenArrives_none hn]
  case start => exact exec_controlPacket_start x hf hr ht
  case noStart => exact exec_controlPacket_noStart x hf hx
  case stop =>
    obtain ⟨-, hstop, -⟩ := exec_controlPacket hf
    exact hstop
  case kill =>
    obtain ⟨-, -, hkill, -⟩ := exec_controlPacket hf
    exact hkill
  case progress =>
    obtain ⟨-, -, -, hprogress⟩ := exec_controlPacket hf
    exact hprogress

end Sys2Proof.Machine
end

section
/-! The microwords of the MATRIX class (03 R72–R80, 04 R102). -/

namespace Sys2Proof.Machine

/-! ### Reads of the pocket -/

theorem State.corrected_readPocket {s t : State} {cell o n : Nat} {bs : Bytes} (h : s.readPocket cell o n = .ok (t, bs)) :
    s.Corrected t := by
  unfold State.readPocket at h
  split at h
  · cases h
  · cases h
    exact s.corrected_fixPocket cell o n

theorem State.corrected_readScales {s t : State} {cell rep : Nat} {o : Opd} {l : List Nat} (h : s.readScales cell o rep = .ok (t, l)) :
    s.Corrected t := by
  unfold State.readScales at h
  dsimp only at h
  split at h
  · cases h
  · obtain ⟨rfl, -⟩ := Prod.mk.inj (Except.ok.inj h)
    exact .foldl (fun u a => u.corrected_fixPocket cell a 1) _ s

theorem State.corrected_readStep {s t : State} {cell rep : Nat} {m : Micro} {k : KStep} (h : s.readStep cell m rep = .ok (t, k)) :
    s.Corrected t := by
  simp only [State.readStep, bind, Except.bind] at h
  split at h
  · cases h
  next a ha =>
    split at h
    · cases h
    next b hb =>
      have hab := (State.corrected_readPocket ha).trans (State.corrected_readPocket hb)
      split at h
      · split at h
        · cases h
        next sa hsa =>
          split at h
          · cases h
          next sb hsb =>
            obtain ⟨rfl, -⟩ := Prod.mk.inj (Except.ok.inj h)
            exact (hab.trans (State.corrected_readScales hsa)).trans (State.corrected_readScales hsb)
      · obtain ⟨rfl, -⟩ := Prod.mk.inj (Except.ok.inj h)
        exact hab

/-! ### MMA (03 R72, R77) -/

/-- The cell after a K step, and how many columns set RANGE. -/
def State.mmaCell (t : State) (cell : Nat) (m : Micro) (new : Bool) (rep : Nat) (k : KStep) : CellSt × Nat :=
  (if new && rep == 0 then (t.cell cell).newTile else t.cell cell).accumulate (halfFmt m.fmtA) m.mx (new && rep == 0)
    (!m.mx || rep % 32 == 31) [k]

/-- The state after a K step, its RANGE columns counted. -/
def State.mmaDone (t : State) (cell : Nat) (f : Fin 17) (m : Micro) (new : Bool) (rep : Nat) (k : KStep) : State :=
  if (t.mmaCell cell m new rep k).2 = 0 then t.setCell cell (t.mmaCell cell m new rep k).1
  else (t.setCell cell (t.mmaCell cell m new rep k).1).noteRange f (t.mmaCell cell m new rep k).2

theorem State.mmaDone_pc (t : State) (cell : Nat) (f : Fin 17) (m : Micro) (new : Bool) (rep : Nat) (k : KStep) :
    ((t.mmaDone cell f m new rep k).cell cell).pc = (t.cell cell).pc := by
  have hcell : (t.mmaDone cell f m new rep k).cell cell = (t.mmaCell cell m new rep k).1 := by
    unfold State.mmaDone
    split
    · exact State.cell_setCell t cell _
    · exact State.cell_setCell t cell _
  rw [hcell, State.mmaCell]
  split <;> rfl

theorem mmaBody_read {t v : State} {cell rep : Nat} {f : Fin 17} {m : Micro} {k : KStep} {fs : List Flit} (new : Bool)
    (hk : t.readStep cell m rep = .ok (v, k)) (hf : v.fieldOfCell cell = some f.val) : mmaBody cell new t m rep fs =
      if (v.mmaCell cell m new rep k).1.step64Bad (halfFmt m.fmtA) then .error (.late errResidue 0 (v.mmaDone cell f m new rep k))
      else .ok (v.mmaDone cell f m new rep k, none) := by
  have hf' : ∀ x, (v.setCell cell x).fieldOfCell cell = some f.val := fun _ => hf
  simp only [mmaBody, hk, bind, Except.bind, hf']
  rfl

/-- One repetition of MMA or MMA_NEW. -/
theorem State.runWord_mma {s w t : State} {cell op : Nat} {f : Fin 17} {m : Micro} {k : KStep} (new : Bool)
    (h : Steps s w cell f m 1 op m.loop [m.opA, m.opB]) (hk : (w.taken cell m).readStep cell m (s.cell cell).rep = .ok (t, k)) :
    s.runWord cell 1 op Micro.loop (fun m => [m.opA, m.opB]) onward (mmaBody cell new) =
      if (t.mmaCell cell m new (s.cell cell).rep k).1.step64Bad (halfFmt m.fmtA) then
        (t.mmaDone cell f m new (s.cell cell).rep k).fldFault f errResidue cell 0
      else (((t.mmaDone cell f m new (s.cell cell).rep k).stepGens cell [m.opA, m.opB]).given cell m none).afterRep cell f m
        (s.cell cell).rep m.loop ((s.cell cell).pc + 1) := by
  have hcor := State.corrected_readStep hk
  have hbody := mmaBody_read (fs := w.flitsIn cell m) new hk ((hcor.fieldOfCell cell).trans h.taken_field)
  split at hbody
  next hbad =>
    rw [if_pos hbad, State.runWord_error h hbody]
    rfl
  next hgood =>
    rw [if_neg hgood]
    exact State.runWord_onward h hbody (by rw [State.mmaDone_pc, hcor.cell, h.taken_pc])

/-! ### DRAIN (03 R74, R77) -/

theorem matrixDrainBody_residue {t : State} {cell rep : Nat} {m : Micro} {fs : List Flit} (hh : halfFmt m.fmtA = false)
    (hbad : (t.cell cell).residueBad (t.cell cell).idleBank = true) : matrixDrainBody cell t m rep fs = .error (.flag errResidue 0) := by
  simp only [matrixDrainBody, hh, hbad, Bool.not_false, Bool.and_self, if_true]
  rfl

/-- The outputs of a drain. -/
def State.drainOuts (t : State) (cell : Nat) (m : Micro) : List Conv :=
  (t.cell cell).outputs (t.cell cell).idleBank (halfFmt m.fmtA) m.fmtOut ⟨m.sat, none⟩

/-- Outputs drained: dropped NaNs counted and, where CHECK is set, the outputs added to the checksum bank. -/
def State.drainSums (t : State) (cell : Nat) (m : Micro) (first : Nat) (now : List Conv) : State :=
  if m.check then (t.dropsOf cell now).setCell cell (((t.dropsOf cell now).cell cell).check first
    (now.map (fun x => fp32 (decodeNum m.fmtOut x.bits)))) else t.dropsOf cell now

theorem State.dropsOf_cells (s : State) (cell : Nat) (cs : List Conv) : (s.dropsOf cell cs).cells = s.cells := by
  unfold State.dropsOf
  split
  · split <;> rfl
  · rfl

theorem State.dropsOf_cell (s : State) (cell : Nat) (cs : List Conv) (n : Nat) : (s.dropsOf cell cs).cell n = s.cell n := by
  simp only [State.cell, State.dropsOf_cells]

theorem State.drainSums_pc (t : State) (cell : Nat) (m : Micro) (first : Nat) (now : List Conv) :
    ((t.drainSums cell m first now).cell cell).pc = (t.cell cell).pc := by
  unfold State.drainSums
  split
  · rw [State.cell_setCell, State.dropsOf_cell]
    rfl
  · rw [State.dropsOf_cell]

theorem matrixDrainBody_pocket {t v : State} {cell rep : Nat} {m : Micro} {fs : List Flit}
    (hok : halfFmt m.fmtA = true ∨ (t.cell cell).residueBad (t.cell cell).idleBank = false) (hout : m.outEn = false)
    (hw : (t.drainSums cell m 0 (t.drainOuts cell m)).writePocket cell ((t.drainSums cell m 0 (t.drainOuts cell m)).opdAddr cell m.opB rep)
      (packElems m.fmtOut ((t.drainOuts cell m).map (·.bits))) = .ok v) :
    matrixDrainBody cell t m rep fs = .ok (v, none) := by
  have hgo : (!halfFmt m.fmtA && (t.cell cell).residueBad (t.cell cell).idleBank) = false := by
    rcases hok with h | h <;> simp [h]
  simp only [State.drainSums, State.drainOuts] at hw
  simp only [matrixDrainBody, hgo, hout, Bool.false_eq_true, if_false, hw, bind, Except.bind]

theorem matrixDrainBody_flits {t : State} {cell rep : Nat} {m : Micro} {fs : List Flit}
    (hok : halfFmt m.fmtA = true ∨ (t.cell cell).residueBad (t.cell cell).idleBank = false) (hout : m.outEn = true) :
    let per := m.outFlits * 32 / (fmtBits m.fmtOut / 8)
    matrixDrainBody cell t m rep fs = .ok (t.drainSums cell m (rep * per) (((t.drainOuts cell m).drop (rep * per)).take per),
      some (flitsOf ((packElems m.fmtOut ((t.drainOuts cell m).map (·.bits))).drop (rep * m.outFlits * 32)) m.outFlits)) := by
  have hgo : (!halfFmt m.fmtA && (t.cell cell).residueBad (t.cell cell).idleBank) = false := by
    rcases hok with h | h <;> simp [h]
  simp only [matrixDrainBody, hgo, hout, Bool.false_eq_true, if_false, if_true, bind, Except.bind, State.drainSums, State.drainOuts]

theorem State.writePocket_cells {s t : State} {cell o : Nat} {bs : Bytes} (h : s.writePocket cell o bs = .ok t) : t.cells = s.cells := by
  unfold State.writePocket at h
  split at h
  · cases h
  · cases h
    exact (s.corrected_fixPart cell o bs.length).cells

theorem State.writePocket_cell {s t : State} {cell o : Nat} {bs : Bytes} (h : s.writePocket cell o bs = .ok t) (n : Nat) :
    t.cell n = s.cell n := by simp only [State.cell, State.writePocket_cells h]

/-! ### CHKCMP (03 R79, R80) -/

/-- The comparisons of a slice. -/
def State.comparisons (t : State) (cell : Nat) (m : Micro) : List (Option Bool) :=
  (t.cell cell).compare (t.tolerance cell (bits m 64 8)) (bits m 24 8 + 1) (bits m 16 8 + 1)

/-- The checksum bank cleared, the comparisons skipped counted. -/
def State.compared (t : State) (cell : Nat) (f : Fin 17) (m : Micro) : State :=
  if ((t.comparisons cell m).filter (·.isNone)).length = 0 then t.setCell cell { t.cell cell with chk := [] }
  else (t.setCell cell { t.cell cell with chk := [] }).noteSkips f ((t.comparisons cell m).filter (·.isNone)).length

theorem State.compared_pc (t : State) (cell : Nat) (f : Fin 17) (m : Micro) : ((t.compared cell f m).cell cell).pc = (t.cell cell).pc := by
  have hcell : (t.compared cell f m).cell cell = { t.cell cell with chk := [] } := by
    unfold State.compared
    split
    · exact State.cell_setCell t cell _
    · exact State.cell_setCell t cell _
  rw [hcell]

theorem matrixChkcmpBody_good {t : State} {cell rep : Nat} {f : Fin 17} {m : Micro} {fs : List Flit}
    (hp : t.storeBad cell (0x3C00 + bits m 64 8 * 2) 2 = none) (hf : t.fieldOfCell cell = some f.val) :
    matrixChkcmpBody cell t m rep fs = if (t.comparisons cell m).any (fun r => r == some true) then
      .error (.late errChecksum 0 (t.compared cell f m)) else .ok (t.compared cell f m, none) := by
  simp only [matrixChkcmpBody, hp, hf]
  rfl

/-- The one repetition of CHKCMP. -/
theorem State.runWord_chkcmp {s w : State} {cell : Nat} {f : Fin 17} {m : Micro} (h : Steps s w cell f m 1 3 1 [])
    (hp : s.storeBad cell (0x3C00 + bits m 64 8 * 2) 2 = none) :
    s.runWord cell 1 3 once noOpds onward (matrixChkcmpBody cell) =
      if ((w.taken cell m).comparisons cell m).any (fun r => r == some true) then
        ((w.taken cell m).compared cell f m).fldFault f errChecksum cell 0
      else (((w.taken cell m).compared cell f m).given cell m none).afterRep cell f m (s.cell cell).rep 1 ((s.cell cell).pc + 1) := by
  have hbody := matrixChkcmpBody_good (rep := (s.cell cell).rep) (fs := w.flitsIn cell m) ((h.taken_storeBad _ _).trans hp) h.taken_field
  split at hbody
  next hbad => exact (State.runWord_error (total := once) (os := noOpds) h hbody).trans (if_pos hbad).symm
  next hgood =>
    refine (State.runWord_onward (total := once) (os := noOpds) h hbody ?_).trans (if_neg hgood).symm
    rw [State.compared_pc, h.taken_pc]

/-- Settles O23: each word by its one repetition on the operands read. DRAIN goes row by row, and FMT_A names the half formats
(log entry 83). -/
theorem matrixWords : Obligations.MatrixWords := by
  unfold Obligations.MatrixWords
  intro s cell f m w
  refine ⟨fun new t k hk => ⟨fun hnew h => ?mma, fun hnew h => ?mmaNew⟩, fun h hh hbad => ?residue, fun h hok => ⟨fun hout t hw => ?pocket,
    fun hout => ?flits⟩, fun h hp => ?chkcmp⟩
  case mma =>
    subst hnew
    exact congrArg _ (State.runWord_mma false h hk)
  case mmaNew =>
    subst hnew
    exact congrArg _ (State.runWord_mma true h hk)
  case residue => exact congrArg _ (State.runWord_error (total := Micro.loop) (os := fun m => [m.opB]) h (matrixDrainBody_residue hh hbad))
  case pocket =>
    refine congrArg _ ((State.runWord_onward (total := Micro.loop) (os := fun m => [m.opB]) h (matrixDrainBody_pocket hok hout hw) ?_).trans ?_)
    · rw [State.writePocket_cell hw]
      exact (State.drainSums_pc _ _ _ _ _).trans h.taken_pc
    · rw [State.given_off _ _ _ hout]
  case flits =>
    refine congrArg _ (State.runWord_onward (total := Micro.loop) (os := fun m => [m.opB]) h (matrixDrainBody_flits hok hout) ?_)
    exact (State.drainSums_pc _ _ _ _ _).trans h.taken_pc
  case chkcmp => exact congrArg _ (State.runWord_chkcmp h hp)

end Sys2Proof.Machine
end

section
/-! The arithmetic microwords of the VECTOR class (02 R33, 03 R66–R69, 07 R182). -/

namespace Sys2Proof.Machine

/-! ### What an operation leaves of the cell's address -/

theorem CellSt.convert_pc (c : CellSt) (cell f : Nat) (sat sr : Bool) (xs : List Num) : (c.convert cell f sat sr xs).1.pc = c.pc := by
  unfold CellSt.convert
  split <;> rfl

theorem CellSt.setLanes_pc (c : CellSt) (r : Nat) (vs : List Nat) : (c.setLanes r vs).pc = c.pc := rfl

theorem State.vecOut_pc (s : State) (cell : Nat) (m : Micro) (xs : List Num) :
    ((s.vecOut cell m xs).cell cell).pc = (s.cell cell).pc := by
  unfold State.vecOut
  dsimp only
  rw [State.dropsOf_cell, State.cell_setCell]
  exact (s.cell cell).convert_pc cell _ _ _ xs

/-- A vector word whose repetition answers a state that leaves the cell's address. -/
theorem State.runWord_vector {s w t : State} {cell op : Nat} {f : Fin 17} {m : Micro} {body : Body} (h : Steps s w cell f m 2 op m.loop [])
    (hb : body (w.taken cell m) m (s.cell cell).rep (w.flitsIn cell m) = .ok (t, none))
    (hpc : (t.cell cell).pc = ((w.taken cell m).cell cell).pc) : s.runWord cell 2 op Micro.loop noOpds onward body =
      (t.given cell m none).afterRep cell f m (s.cell cell).rep m.loop ((s.cell cell).pc + 1) :=
  State.runWord_onward (total := Micro.loop) (os := noOpds) h hb (hpc.trans h.taken_pc)

/-! ### MAX and MIN -/

/-- A lane of a MAX or MIN has a NaN among its inputs. -/
def nanLane (xs ys : List Num) (i : Nat) : Bool := xs.getD i .nan == .nan || ys.getD i .nan == .nan

/-- What a MAX or MIN writes: the lanes without a NaN by the rule, the others open. -/
def State.extremes (u : State) (cell : Nat) (m : Micro) (g : Num → Num → Num) : State :=
  let xs := (u.cell cell).nums m.src1 m.fmtA
  let ys := (u.cell cell).nums m.src2 m.fmtB
  let t := u.vecOut cell m (List.zipWith (fun x y => if x == .nan || y == .nan then .fin false 0 0 else g x y) xs ys)
  if (List.zipWith (fun x y => x == Num.nan || y == Num.nan) xs ys).any id then
    t.drawn.setCell cell ((t.cell cell).setLanes m.dst ((List.range 32).map (fun i =>
      if nanLane xs ys i then u.openLane m.fmtOut i else (t.cell cell).lane m.dst i)))
  else t

theorem extremum_eq (u : State) (cell : Nat) (g : Num → Num → Num) (m : Micro) (rep : Nat) (fs : List Flit) :
    extremum cell g u m rep fs = .ok (u.extremes cell m g, none) := by
  unfold extremum State.extremes
  dsimp only
  split <;> rfl

theorem State.extremes_pc (u : State) (cell : Nat) (m : Micro) (g : Num → Num → Num) :
    ((u.extremes cell m g).cell cell).pc = (u.cell cell).pc := by
  unfold State.extremes
  dsimp only
  split
  · rw [State.cell_setCell]
    exact u.vecOut_pc cell m _
  · exact u.vecOut_pc cell m _

/-! ### REDUCE -/

/-- Lane 0 of DST set, the other lanes open. -/
def State.reduced (u : State) (m : Micro) (d : CellSt) (x : Nat) : CellSt :=
  d.setLanes m.dst (x :: (List.range 31).map (fun i => u.freeLane m.fmtOut (i + 1)))

theorem vectorReduceBody_none {u : State} {cell rep : Nat} {m : Micro} {fs : List Flit}
    (h : reduceOf (bits m 72 4) m.fmtA ((u.cell cell).nums m.src1 m.fmtA) = none) : vectorReduceBody cell u m rep fs =
      .ok (u.drawn.setCell cell (u.reduced m (u.cell cell) (u.openLane m.fmtOut 0)), none) := by
  simp only [vectorReduceBody, h]
  rfl

theorem vectorReduceBody_some {u : State} {cell rep : Nat} {m : Micro} {fs : List Flit} {x : Num}
    (h : reduceOf (bits m 72 4) m.fmtA ((u.cell cell).nums m.src1 m.fmtA) = some x) :
    let r := (u.cell cell).convert cell m.fmtOut m.sat m.sr [x]
    vectorReduceBody cell u m rep fs =
      .ok ((u.drawn.setCell cell (u.reduced m r.1 ((r.2.map (·.bits)).headD 0))).dropsOf cell r.2, none) := by
  simp only [vectorReduceBody, h]
  rfl

/-! ### ROWSTAT -/

/-- A cell's row-statistic slot updated, and its factors in DST. -/
def CellSt.rowstatDone (c : CellSt) (m : Micro) : CellSt :=
  let k := bits m 64 8 % 128
  let v := Sparse.look (fpNegInf, 0) c.rowstat k
  let r := Machine.rowstat v.1 v.2 (c.lane m.src1 0) (c.lane m.src1 1)
  CellSt.setLanes { c with rowstat := Sparse.put (fpNegInf, 0) c.rowstat k r.1 } m.dst (r.2.1 :: r.2.2 :: List.replicate 30 0)

theorem vectorRowstatBody_eq (u : State) (cell : Nat) (m : Micro) (rep : Nat) (fs : List Flit) :
    vectorRowstatBody cell u m rep fs = .ok (u.setCell cell ((u.cell cell).rowstatDone m), none) := rfl

theorem State.rowstatDone_pc (u : State) (cell : Nat) (m : Micro) :
    ((u.setCell cell ((u.cell cell).rowstatDone m)).cell cell).pc = (u.cell cell).pc := by
  rw [State.cell_setCell, CellSt.rowstatDone, CellSt.setLanes_pc]

/-- Settles O24: each word by its one repetition. FMA takes SRC3 in FMT_OUT (log entry 80); the lanes of CMP, those of MAX and MIN with
a NaN and those of REDUCE beyond its result are free (log entry 79). -/
theorem vectorArithmetic : Obligations.VectorArithmetic := by
  unfold Obligations.VectorArithmetic
  intro s cell f m w
  have hvec := fun xs => State.vecOut_pc (w.taken cell m) cell m xs
  refine ⟨fun h => ?add, fun h => ?mul, fun h => ?fma, fun max => ⟨fun hmax h => ?max, fun hmax h => ?min⟩, fun h => ?cvt, fun h => ?sfu,
    fun h => ⟨fun hn => ?openLane, fun x hx => ?reduce⟩, fun h => ?rowstat, fun h => ?cmp⟩
  case add => exact congrArg _ (State.runWord_vector (body := lanes2 cell Num.add) h rfl (hvec _))
  case mul => exact congrArg _ (State.runWord_vector (body := lanes2 cell Num.mul) h rfl (hvec _))
  case fma => exact congrArg _ (State.runWord_vector (body := vectorFmaBody cell) h rfl (hvec _))
  case max =>
    subst hmax
    exact congrArg _ (State.runWord_vector h (extremum_eq _ cell Num.max2 m _ _) (State.extremes_pc _ cell m _))
  case min =>
    subst hmax
    exact congrArg _ (State.runWord_vector h (extremum_eq _ cell Num.min2 m _ _) (State.extremes_pc _ cell m _))
  case cvt => exact congrArg _ (State.runWord_vector (body := vectorCvtBody cell) h rfl (hvec _))
  case sfu => exact congrArg _ (State.runWord_vector (body := vectorSfuBody cell) h rfl (hvec _))
  case openLane =>
    refine congrArg _ (State.runWord_vector h (vectorReduceBody_none hn) ?_)
    rw [State.cell_setCell]
    rfl
  case reduce =>
    refine congrArg _ (State.runWord_vector h (vectorReduceBody_some hx) ?_)
    rw [State.dropsOf_cell, State.cell_setCell]
    exact CellSt.convert_pc _ cell _ _ _ _
  case rowstat =>
    show exec (.vectorRowstat cell) s = .next ((((w.taken cell m).setCell cell (((w.taken cell m).cell cell).rowstatDone m)).given cell m
      none).afterRep cell f m (s.cell cell).rep m.loop ((s.cell cell).pc + 1))
    exact congrArg Host.Outcome.next (State.runWord_vector h (vectorRowstatBody_eq _ cell m _ _) (State.rowstatDone_pc _ cell m))
  case cmp =>
    refine congrArg _ (State.runWord_vector (body := vectorCmpBody cell) h rfl ?_)
    rw [State.cell_setCell]
    rfl

end Sys2Proof.Machine
end

section
/-! The moves of the VECTOR and STREAM classes, and what a write to a pocket leaves (02 R33–R36, 03 R66, 04 R100–R102). -/

namespace Sys2Proof.Machine

/-! ### Entries put one after the other -/

section
variable {α β : Type} [DecidableEq α]

theorem Sparse.look_foldl_put_ne (d : α) (key : β → Nat) (val : β → α) (l : List β) (g : Sparse α) {n : Nat} (h : ∀ b ∈ l, n ≠ key b) :
    Sparse.look d (l.foldl (fun g b => Sparse.put d g (key b) (val b)) g) n = Sparse.look d g n := by
  induction l generalizing g with
  | nil => rfl
  | cons b l ih =>
    rw [List.foldl_cons, ih _ (fun c hc => h c (List.mem_cons_of_mem b hc)), Sparse.look_put_ne _ _ _ _ _ _ (h b List.mem_cons_self)]

theorem Sparse.look_foldl_put_mem (d : α) (key : β → Nat) (val : β → α) (l : List β) (g : Sparse α) {b : β} (hn : (l.map key).Nodup)
    (h : b ∈ l) : Sparse.look d (l.foldl (fun g b => Sparse.put d g (key b) (val b)) g) (key b) = val b := by
  induction l generalizing g with
  | nil => exact absurd h List.not_mem_nil
  | cons c l ih =>
    rw [List.map_cons, List.nodup_cons] at hn
    rw [List.foldl_cons]
    rcases List.mem_cons.1 h with rfl | h
    · rw [Sparse.look_foldl_put_ne _ _ _ _ _ (fun e he heq => hn.1 (List.mem_map.2 ⟨e, he, heq.symm⟩)), Sparse.look_put_same]
    · exact ih _ hn.2 h

end

/-! ### Writes to a pocket -/

theorem State.pocket_pocketPut (s : State) (cell o : Nat) (bs : Bytes) (poison : Bool) : (s.pocketPut cell o bs poison).mem.pocket =
    bs.zipIdx.foldl (fun p b => Sparse.put 0 p (pocketKey cell (o + b.2)) b.1) s.mem.pocket := rfl

/-- Within 128 KiB no two offsets of a pocket share a key. -/
theorem pocketKey_inj {cell o i j : Nat} (hi : i < 0x20000) (hj : j < 0x20000) (h : pocketKey cell (o + i) = pocketKey cell (o + j)) :
    i = j := by
  unfold pocketKey at h
  omega

theorem mem_zipIdx_lt {bs : Bytes} {b : Byte × Nat} (h : b ∈ bs.zipIdx) : b.2 < bs.length := by
  have h' := List.snd_lt_add_of_mem_zipIdx h
  omega

theorem State.pocketBytes_pocketPut {bs : Bytes} (s : State) (cell o : Nat) (poison : Bool) (hl : bs.length ≤ 0x20000) :
    (s.pocketPut cell o bs poison).pocketBytes cell o bs.length = bs := by
  have hnodup : (bs.zipIdx.map (fun b => pocketKey cell (o + b.2))).Nodup := by
    have hsnd : (bs.zipIdx.map Prod.snd).Nodup := by
      rw [List.zipIdx_map_snd]
      exact List.nodup_range'
    have hmap : bs.zipIdx.map (fun b => pocketKey cell (o + b.2)) = (bs.zipIdx.map Prod.snd).map (fun i => pocketKey cell (o + i)) := by
      rw [List.map_map]
      rfl
    rw [hmap]
    refine List.Nodup.map_on (fun i hi j hj h => pocketKey_inj (Nat.lt_of_lt_of_le ?_ hl) (Nat.lt_of_lt_of_le ?_ hl) h) hsnd
    · obtain ⟨b, hb, rfl⟩ := List.mem_map.1 hi
      exact mem_zipIdx_lt hb
    · obtain ⟨b, hb, rfl⟩ := List.mem_map.1 hj
      exact mem_zipIdx_lt hb
  refine List.ext_getElem (by simp [State.pocketBytes]) (fun i h1 h2 => ?_)
  simp only [State.pocketBytes, List.getElem_map, List.getElem_range, State.pocket_pocketPut]
  exact Sparse.look_foldl_put_mem 0 (fun b : Byte × Nat => pocketKey cell (o + b.2)) Prod.fst bs.zipIdx s.mem.pocket (b := (bs[i], i))
    hnodup (List.mk_mem_zipIdx_iff_getElem?.2 (List.getElem?_eq_getElem h2))

theorem State.writePocket_eq {s t : State} {cell o : Nat} {bs : Bytes} (h : s.writePocket cell o bs = .ok t) :
    t = (s.fixPart cell o bs.length).pocketPut cell o bs false := by
  unfold State.writePocket at h
  split at h
  · cases h
  · exact (Except.ok.inj h).symm

/-! ### QUANT_MX (03 R66) -/

theorem State.noteDrops_cell (s : State) (f n cell : Nat) : (s.noteDrops f n).cell cell = s.cell cell := rfl

/-- A block with an input that is not finite: the zero block with scale 0xFF, counted. -/
theorem vectorQuantMxBody_nan {u t v : State} {cell rep : Nat} {f : Fin 17} {m : Micro} {fs : List Flit} (hmx : mxFmt m.fmtOut = true)
    (hf : u.fieldOfCell cell = some f.val) (hq : quantBlock m.fmtOut ((u.cell cell).nums m.src1 fFp32) = none)
    (ht : ((u.setCell cell (u.cell cell)).noteDrops f 1).writePocket cell (u.opdAddr cell m.opB rep)
      (packElems m.fmtOut (List.replicate 32 0)) = .ok t)
    (hv : t.writePocket cell (u.scaleAddr cell m.opB (u.opdSteps cell m.opB rep) 0) [0xFF] = .ok v) :
    vectorQuantMxBody cell u m rep fs = .ok (v, none) := by
  have hf' : ∀ x, (u.setCell cell x).fieldOfCell cell = some f.val := fun _ => hf
  have hff : (BitVec.ofNat 8 0xFF : Byte) = 0xFF := rfl
  simp only [vectorQuantMxBody, hmx, hq, hf', Bool.not_true, Bool.false_eq_true, if_false, if_true, bind, Except.bind, ht, hff, hv]

theorem vectorQuantMxBody_block {u t v : State} {cell rep : Nat} {f : Fin 17} {m : Micro} {fs : List Flit} {vs : List Num} {sc : Nat}
    (hmx : mxFmt m.fmtOut = true) (hf : u.fieldOfCell cell = some f.val)
    (hq : quantBlock m.fmtOut ((u.cell cell).nums m.src1 fFp32) = some (vs, sc))
    (ht : (u.setCell cell ((u.cell cell).convert cell m.fmtOut true m.sr vs).1).writePocket cell (u.opdAddr cell m.opB rep)
      (packElems m.fmtOut (((u.cell cell).convert cell m.fmtOut true m.sr vs).2.map Conv.bits)) = .ok t)
    (hv : t.writePocket cell (u.scaleAddr cell m.opB (u.opdSteps cell m.opB rep) 0) [BitVec.ofNat 8 sc] = .ok v) :
    vectorQuantMxBody cell u m rep fs = .ok (v, none) := by
  have hf' : ∀ x, (u.setCell cell x).fieldOfCell cell = some f.val := fun _ => hf
  simp only [vectorQuantMxBody, hmx, hq, hf', Bool.not_true, Bool.false_eq_true, if_false, bind, Except.bind, ht, hv]

theorem vectorQuantMxBody_other {u t v : State} {cell rep : Nat} {m : Micro} {fs : List Flit} (hmx : mxFmt m.fmtOut = false)
    (ht : u.writePocket cell (u.opdAddr cell m.opB rep) ((List.range (packedBytes m.fmtOut 32)).map (Config.undefinedByte u.freeCount)) =
      .ok t)
    (hv : t.writePocket cell (u.scaleAddr cell m.opB (u.opdSteps cell m.opB rep) 0) [Config.undefinedByte u.freeCount 200] = .ok v) :
    vectorQuantMxBody cell u m rep fs = .ok (v.drawn, none) := by
  simp only [vectorQuantMxBody, hmx, Bool.not_false, if_true, bind, Except.bind, ht, hv]

/-! ### LOAD, LDC, SEND, RECV -/

theorem vectorLoadBody_read {u t : State} {cell rep : Nat} {m : Micro} {fs : List Flit} {bs : Bytes}
    (h : u.readPocket cell (u.opdAddr cell m.opB rep) 128 = .ok (t, bs)) : vectorLoadBody cell u m rep fs =
      .ok (t.setCell cell ((t.cell cell).setLanes m.dst ((List.range 32).map (fun i => Bytes.num bs (i * 4) 4))), none) := by
  simp only [vectorLoadBody, h, bind, Except.bind]

theorem vectorStoreBody_written {u t : State} {cell rep : Nat} {m : Micro} {fs : List Flit}
    (h : u.writePocket cell (u.opdAddr cell m.opB rep) (((u.cell cell).lanes m.src1).flatMap (leBytes 4)) = .ok t) :
    vectorStoreBody cell u m rep fs = .ok (t, none) := by
  simp only [vectorStoreBody, h, bind, Except.bind]

/-- The lanes that LDC takes: cell constants, zeros beyond their end. -/
def State.constLanes (s : State) (cell : Nat) (m : Micro) : List Nat :=
  (List.range 32).map (fun i => if 0x3E00 + bits m 32 16 + i * 4 + 4 ≤ 0x4000 then s.stitchNum cell (0x3E00 + bits m 32 16 + i * 4) 4 else 0)

theorem vectorLdcBody_good {u : State} {cell rep : Nat} {m : Micro} {fs : List Flit}
    (h : u.storeBad cell (0x3E00 + bits m 32 16) 128 = none) :
    vectorLdcBody cell u m rep fs = .ok (u.setCell cell ((u.cell cell).setLanes m.dst (u.constLanes cell m)), none) := by
  simp only [vectorLdcBody, h]
  rfl

theorem streamSendBody_read {u t : State} {cell rep : Nat} {m : Micro} {fs : List Flit} {bs : Bytes}
    (h : u.readPocket cell (u.opdAddr cell m.opA rep) (m.outFlits * 32) = .ok (t, bs)) :
    streamSendBody cell u m rep fs = .ok (t, some (flitsOf bs m.outFlits)) := by
  simp only [streamSendBody, h, bind, Except.bind]

theorem streamRecvBody_good {u : State} {cell rep : Nat} {m : Micro} {fs : List Flit}
    (h : u.partBad cell (u.opdAddr cell m.opB rep) (fs.length * 32) = none) : streamRecvBody cell u m rep fs =
      .ok ((u.fixPart cell (u.opdAddr cell m.opB rep) (fs.length * 32)).storeFlits cell (u.opdAddr cell m.opB rep) fs, none) := by
  simp only [streamRecvBody, h]

theorem State.storeFlits_cell (s : State) (cell o : Nat) (fs : List Flit) (n : Nat) : (s.storeFlits cell o fs).cell n = s.cell n :=
  foldl_part (fun s : State => s.cell n)
    (f := fun s (x : Flit × Nat) => s.pocketPut cell (o + x.2 * 32) (leBytes 32 x.1.data) x.1.poison) (fun _ _ => rfl) fs.zipIdx s

/-- Settles O25: each word by its one repetition, and a write to a pocket by the keys of its bytes. LOAD, STORE and LDC move raw bytes
and QUANT_MX reads SRC1 as FP32 (log entry 80); QUANT_MX to a format that is not MX is free (log entry 85). -/
theorem vectorAndStreamMoves : Obligations.VectorAndStreamMoves := by
  unfold Obligations.VectorAndStreamMoves
  refine ⟨fun s cell f m w => ⟨fun h t bs ht => ?load, fun h t ht => ?store, fun h hb => ?ldc, fun h hmx => ⟨fun t v hq ht hv => ?nan,
    fun vs sc t v hq ht hv => ?block⟩, fun h hmx t v ht hv => ?other, fun h t bs ht => ?send, fun h hb => ?recv⟩,
    fun s t cell o bs ht hl => ?bytes⟩
  case load =>
    refine congrArg _ (State.runWord_onward (total := Micro.loop) (os := fun m => [m.opB]) h (vectorLoadBody_read ht) ?_)
    rw [State.cell_setCell, CellSt.setLanes_pc, (State.corrected_readPocket ht).cell, h.taken_pc]
  case store =>
    refine congrArg _ (State.runWord_onward (total := Micro.loop) (os := fun m => [m.opB]) h (vectorStoreBody_written ht) ?_)
    rw [State.writePocket_cell ht, h.taken_pc]
  case ldc =>
    have hlanes : (w.taken cell m).constLanes cell m = s.constLanes cell m := by simp only [State.constLanes, h.taken_stitchNum]
    have hbody := vectorLdcBody_good (rep := (s.cell cell).rep) (fs := w.flitsIn cell m) ((h.taken_storeBad _ _).trans hb)
    rw [hlanes] at hbody
    refine congrArg _ (State.runWord_onward (total := Micro.loop) (os := noOpds) h hbody ?_)
    rw [State.cell_setCell, CellSt.setLanes_pc, h.taken_pc]
  case nan =>
    refine congrArg _ (State.runWord_onward (total := Micro.loop) (os := fun m => [m.opB]) h
      (vectorQuantMxBody_nan hmx h.taken_field hq ht hv) ?_)
    rw [State.writePocket_cell hv, State.writePocket_cell ht, State.noteDrops_cell, State.cell_setCell, h.taken_pc]
  case block =>
    refine congrArg _ (State.runWord_onward (total := Micro.loop) (os := fun m => [m.opB]) h
      (vectorQuantMxBody_block hmx h.taken_field hq ht hv) ?_)
    rw [State.writePocket_cell hv, State.writePocket_cell ht, State.cell_setCell, CellSt.convert_pc, h.taken_pc]
  case other =>
    refine congrArg _ (State.runWord_onward (total := Micro.loop) (os := fun m => [m.opB]) h (vectorQuantMxBody_other hmx ht hv) ?_)
    exact (congrArg CellSt.pc ((State.writePocket_cell hv _).trans (State.writePocket_cell ht _))).trans h.taken_pc
  case send =>
    refine congrArg _ (State.runWord_onward (total := Micro.loop) (os := fun m => [m.opA]) h (streamSendBody_read ht) ?_)
    rw [(State.corrected_readPocket ht).cell, h.taken_pc]
  case recv =>
    refine congrArg _ (State.runWord_onward (total := Micro.loop) (os := fun m => [m.opB]) h (streamRecvBody_good hb) ?_)
    rw [State.storeFlits_cell, (State.corrected_fixPart _ cell _ _).cell, h.taken_pc]
  case bytes =>
    have hcor := s.corrected_fixPart cell o bs.length
    rw [State.writePocket_eq ht]
    refine ⟨State.pocketBytes_pocketPut _ cell o false hl, hcor.cells, hcor.rd, fun k hk => ?_⟩
    rw [State.pocket_pocketPut, Sparse.look_foldl_put_ne 0 (fun b : Byte × Nat => pocketKey cell (o + b.2)) Prod.fst _ _
      (fun b hb => hk b.2 (mem_zipIdx_lt hb)), hcor.pocket]

end Sys2Proof.Machine
end

section
/-! Cell movers and the stream router (02 R39–R43, R54, R55, 04 R92, 07 R172, R181). -/

namespace Sys2Proof.Machine

/-! ### The pages of a transfer (07 R181) -/

theorem State.sidePage_plain {s : State} {f cell : Nat} {j : Option Job} {p : Prog} {x : Side} {wr : Bool}
    (h : s.valleySide f x = false) : s.sidePage f cell j p x wr = .ok (s, none, []) := by
  simp only [State.sidePage, h, Bool.false_eq_true, if_false]

theorem State.sidePage_valley {s u : State} {f cell : Nat} {j : Job} {p : Prog} {x : Side} {wr : Bool} {b : Bytes} {a q n : Nat}
    (h : s.valleySide f x = true) (hu : s.readPocket cell (x.off % 2 ^ 17) 32 = .ok (u, b))
    (ht : u.resolveTag f j p x wr (tagOf b) = some (a, q, n)) : s.sidePage f cell (some j) p x wr = .ok (u, some a,
      if u.vly.ptCache.any (fun e => e.field == f && e.cluster == cell / 16 && e.seq == q && e.block == n) then [] else [(q, n)]) := by
  simp only [State.sidePage, h, if_true, hu, Option.bind_some, ht]

/-- Resolving a tag corrects what it reads, and changes nothing else. -/
theorem State.corrected_sidePage {s t : State} {f cell : Nat} {j : Option Job} {p : Prog} {x : Side} {wr : Bool}
    {r : Option Nat × List (Nat × Nat)} (h : s.sidePage f cell j p x wr = .ok (t, r)) : s.Corrected t := by
  unfold State.sidePage at h
  split at h
  · split at h
    · cases h
    next u b hu =>
      have hcor := State.corrected_readPocket hu
      split at h
      · obtain ⟨rfl, -⟩ := Prod.mk.inj (Except.ok.inj h)
        exact hcor
      · obtain ⟨rfl, -⟩ := Prod.mk.inj (Except.ok.inj h)
        exact hcor
  · obtain ⟨rfl, -⟩ := Prod.mk.inj (Except.ok.inj h)
    exact .refl s

/-! ### START (02 R43) -/

/-- A transfer that a START puts in progress: its program, command and pages, and the page-table entries it waits for. -/
def State.started (z : State) (cell x n pieces : Nat) (a b : Option Nat) (miss : List (Nat × Nat)) : State :=
  z.setCell cell ((z.cell cell).setXfer x ⟨true, n, 0, pieces, (z.cell cell).job, a, b, miss.eraseDups⟩)

theorem moverStartBody_starts {u v z : State} {cell rep : Nat} {f : Fin 17} {m : Micro} {fs : List Flit} {a b : Option Nat}
    {miss more : List (Nat × Nat)} (hidle : ((u.cell cell).xfer (bits m 68 3)).active = false) (hdrain : (u.frt f).faultDrain = false)
    (hgood : u.storeBad cell (0x3540 + bits m 64 4 * 64) 64 = none) (hlive : u.liveField cell = some f)
    (hsrc : u.sidePage f cell (u.jobOf (u.cell cell).job) (u.prog cell (bits m 64 4)) (u.prog cell (bits m 64 4)).src false =
      .ok (v, a, miss))
    (hdst : v.sidePage f cell (u.jobOf (u.cell cell).job) (u.prog cell (bits m 64 4)) (u.prog cell (bits m 64 4)).dst true =
      .ok (z, b, more)) :
    moverStartBody cell u m rep fs =
      .ok (z.started cell (bits m 68 3) (bits m 64 4) (u.prog cell (bits m 64 4)).pieces a b (miss ++ more), none) := by
  have hx : bits m 68 3 % 8 = bits m 68 3 := Nat.mod_mod _ 8
  simp only [moverStartBody, hgood, hlive, hx, hidle, hdrain, hsrc, hdst, Bool.false_eq_true, if_false]
  rfl

/-! ### Page-table misses and the events (02 R43, 07 R172) -/

theorem exec_pageTableMissFill {s : State} {cell : Fin 2368} {x : Fin 8} {q b : Nat} {rest : List (Nat × Nat)} {f : Nat}
    (hm : ((s.cell cell).xfer x).miss = (q, b) :: rest) (hf : s.fieldOfCell cell = some f) :
    exec (.pageTableMissFill cell x) s = .next
      ((s.setCell cell ((s.cell cell).setXfer x { (s.cell cell).xfer x with miss := rest })).cacheEntry f (cell.val / 16) q b) := by
  show execPageTableMissFill cell x s = _
  simp only [execPageTableMissFill, hm, hf]

theorem exec_pageTableMissFill_idle {s : State} {cell : Fin 2368} {x : Fin 8}
    (h : ((s.cell cell).xfer x).miss = [] ∨ s.fieldOfCell cell = none) : exec (.pageTableMissFill cell x) s = .next s := by
  show execPageTableMissFill cell x s = _
  unfold execPageTableMissFill
  dsimp only
  split
  next hm hf =>
    rcases h with h | h
    · rw [h] at hm; cases hm
    · rw [h] at hf; cases hf
  next => rfl

theorem State.movable_none {s : State} {cell n : Nat}
    (h : s.liveField cell = none ∨ ((s.cell cell).xfer n).active = false ∨ ((s.cell cell).xfer n).miss ≠ []) : s.movable cell n = none := by
  unfold State.movable
  split
  next => rfl
  next hf =>
    refine if_neg ?_
    rcases h with h | h | h
    · rw [h] at hf; cases hf
    · simp only [h, Bool.false_and, Bool.false_eq_true, not_false_eq_true]
    · simp only [Bool.and_eq_true, List.isEmpty_iff, h, and_false, not_false_eq_true]

theorem State.movable_some {s : State} {cell n : Nat} {f : Fin 17} (hl : s.liveField cell = some f)
    (ha : ((s.cell cell).xfer n).active = true) (hm : ((s.cell cell).xfer n).miss = []) :
    s.movable cell n = some (f, (s.cell cell).xfer n) := by
  simp only [State.movable, hl, ha, hm, List.isEmpty_nil, Bool.and_self, if_true]

theorem exec_moverEvents_idle {s : State} {cell : Fin 2368} {x : Fin 8} (h : s.movable cell x = none) :
    exec (.moverHalfEvent cell x) s = .next s ∧ exec (.moverFullEvent cell x) s = .next s := by
  constructor
  · show execMoverHalfEvent cell x s = _
    simp only [execMoverHalfEvent, h]
  · show execMoverFullEvent cell x s = _
    simp only [execMoverFullEvent, h]

theorem exec_moverHalfEvent {s : State} {cell : Fin 2368} {x : Fin 8} {f : Fin 17} {t : Xfer} (h : s.movable cell x = some (f, t)) :
    exec (.moverHalfEvent cell x) s = .next (if t.moved ≥ (t.total + 1) / 2 then s else
      let u := s.movePieces f cell t t.moved ((t.total + 1) / 2)
      if ((u.cell cell).xfer x).active then
        u.setCell cell { (u.cell cell).setXfer x { t with moved := (t.total + 1) / 2 } with half := setBit (u.cell cell).half x }
      else u) := by
  show execMoverHalfEvent cell x s = _
  simp only [execMoverHalfEvent, h]
  split
  · rfl
  · split <;> rfl

theorem exec_moverFullEvent {s : State} {cell : Fin 2368} {x : Fin 8} {f : Fin 17} {t : Xfer} (h : s.movable cell x = some (f, t)) :
    exec (.moverFullEvent cell x) s = .next (s.finishXfer f cell x t) := by
  show execMoverFullEvent cell x s = _
  simp only [execMoverFullEvent, h]

/-! ### The stream router (02 R40–R42, 04 R92) -/

theorem exec_streamFlit_idle {s : State} {cell : Fin 2368} {e : Fin 40} (h : s.liveField cell = none ∨ (s.cell cell).held e = []) :
    exec (.streamFlit cell e) s = .next s := by
  show execStreamFlit cell e s = _
  unfold execStreamFlit
  split
  next hf hx =>
    rcases h with h | h
    · rw [h] at hf; cases hf
    · rw [h] at hx; cases hx
  next => rfl

section
variable {s : State} {cell : Fin 2368} {e : Fin 40} {f : Fin 17} {x : Flit} {rest : List Flit}

theorem exec_streamFlit_parity {w : Nat} (hl : s.liveField cell = some f) (hx : (s.cell cell).held e = x :: rest)
    (hw : s.storeBad cell (0x3000 + e.val * 16) 16 = some w) : exec (.streamFlit cell e) s = .next (s.raise f cell (.parity w)) := by
  show execStreamFlit cell e s = _
  simp only [execStreamFlit, hl, hx, hw]

/-- A route forwards, and delivers a flit of an incoming endpoint. -/
def Route.forwards (r : Route) : Bool := r.kind == 1 || r.kind == 3
def Route.delivers (r : Route) (e : Nat) : Bool := (r.kind == 2 || r.kind == 3) && decide (e < 32)

/-- The flit that a route adds to another, where it adds. -/
def State.addendOf (s : State) (cell : Nat) (r : Route) : Option Flit :=
  if r.forwards && r.add then ((s.cell cell).held (32 + r.addPort)).head? else none

/-- The neighbour that a route forwards to, over an open link. -/
def State.openNeighbour (s : State) (f cell : Nat) (r : Route) : Option Nat :=
  match neighbour cell (r.out / 8) with
  | some n => if s.linkOpen f cell n then some n else none
  | none => none

/-- There is room where a route forwards to: a channel over an open link has a credit left. -/
def State.roomForward (s : State) (f cell : Nat) (r : Route) : Bool :=
  !r.forwards || (s.openNeighbour f cell r).isNone || decide (Sparse.look 0 (s.cell cell).used r.out < 4)

/-- There is room where a route delivers to. -/
def State.roomDeliver (s : State) (cell e : Nat) (r : Route) : Bool :=
  !r.delivers e || decide ((Sparse.look [] (s.cell cell).port r.port).length < portRoom)

/-- A flit at the head of an entry waits: its route is unused, a destination has no room, or its addend is not there. -/
def State.flitWaits (s : State) (f cell e : Nat) (r : Route) : Prop :=
  r.kind = 0 ∨ (e ≥ 32 ∧ r.kind ≠ 1) ∨ s.roomForward f cell r = false ∨ s.roomDeliver cell e r = false ∨
    (r.forwards && r.add && (s.addendOf cell r).isNone) = true

/-- The state once a flit has left its entry, been delivered where its route delivers, and its addend taken. -/
def State.flitOut (s : State) (cell e : Nat) (r : Route) (x : Flit) : State :=
  let t := if r.delivers e then (s.popFlit cell e).deliverFlit cell r.port x else s.popFlit cell e
  if (s.addendOf cell r).isSome then t.popFlit cell (32 + r.addPort) else t

/-- The flit forwarded: the one taken, or its sum with its addend. -/
def State.flitSum (s : State) (cell : Nat) (r : Route) (x : Flit) : Flit :=
  match s.addendOf cell r with
  | some a => x.plus a
  | none => x

theorem exec_streamFlit_waits (hl : s.liveField cell = some f) (hx : (s.cell cell).held e = x :: rest)
    (hw : s.storeBad cell (0x3000 + e.val * 16) 16 = none) (h : s.flitWaits f cell e (s.route cell e)) :
    exec (.streamFlit cell e) s = .next s := by
  show execStreamFlit cell e s = _
  simp only [execStreamFlit, hl, hx, hw, Bool.not_eq_true']
  exact if_pos h

theorem exec_streamFlit_stays (hl : s.liveField cell = some f) (hx : (s.cell cell).held e = x :: rest)
    (hw : s.storeBad cell (0x3000 + e.val * 16) 16 = none) (h : ¬s.flitWaits f cell e (s.route cell e))
    (hf : (s.route cell e).forwards = false) : exec (.streamFlit cell e) s = .next (s.flitOut cell e (s.route cell e) x) := by
  show execStreamFlit cell e s = _
  simp only [execStreamFlit, hl, hx, hw, Bool.not_eq_true']
  exact (if_neg h).trans (if_pos hf)

theorem exec_streamFlit_goes {n : Nat} (hl : s.liveField cell = some f) (hx : (s.cell cell).held e = x :: rest)
    (hw : s.storeBad cell (0x3000 + e.val * 16) 16 = none) (h : ¬s.flitWaits f cell e (s.route cell e))
    (hf : (s.route cell e).forwards = true) (hn : s.openNeighbour f cell (s.route cell e) = some n) :
    exec (.streamFlit cell e) s = .next ((s.flitOut cell e (s.route cell e) x).forwardFlit cell (s.route cell e).out
      (s.flitSum cell (s.route cell e) x) n) := by
  show execStreamFlit cell e s = _
  simp only [execStreamFlit, hl, hx, hw, Bool.not_eq_true']
  refine (if_neg h).trans ((if_neg (by rw [Bool.not_eq_false]; exact hf)).trans ?_)
  show (match s.openNeighbour f cell (s.route cell e) with | some _ => _ | none => _) = _
  rw [hn]
  rfl

theorem exec_streamFlit_fenced (hl : s.liveField cell = some f) (hx : (s.cell cell).held e = x :: rest)
    (hw : s.storeBad cell (0x3000 + e.val * 16) 16 = none) (h : ¬s.flitWaits f cell e (s.route cell e))
    (hf : (s.route cell e).forwards = true) (hn : s.openNeighbour f cell (s.route cell e) = none) :
    exec (.streamFlit cell e) s = .next ((s.flitOut cell e (s.route cell e) x).fldFault f errFence cell 0) := by
  show execStreamFlit cell e s = _
  simp only [execStreamFlit, hl, hx, hw, Bool.not_eq_true']
  refine (if_neg h).trans ((if_neg (by rw [Bool.not_eq_false]; exact hf)).trans ?_)
  show (match s.openNeighbour f cell (s.route cell e) with | some _ => _ | none => _) = _
  rw [hn]
  rfl

end

/-! ### Routes by their kinds -/

theorem State.openNeighbour_open {s : State} {f cell n : Nat} {r : Route} (hn : neighbour cell (r.out / 8) = some n)
    (ho : s.linkOpen f cell n = true) : s.openNeighbour f cell r = some n := by
  simp only [State.openNeighbour, hn, ho, if_true]

theorem State.openNeighbour_fenced {s : State} {f cell : Nat} {r : Route}
    (h : ∀ n, neighbour cell (r.out / 8) = some n → s.linkOpen f cell n = false) : s.openNeighbour f cell r = none := by
  unfold State.openNeighbour
  split
  next n hn => exact if_neg (by rw [h n hn]; decide)
  next => rfl

theorem Route.forwards_iff (r : Route) : r.forwards = true ↔ r.kind = 1 ∨ r.kind = 3 := by
  simp only [Route.forwards, Bool.or_eq_true, beq_iff_eq]

theorem Route.delivers_iff (r : Route) (e : Nat) : r.delivers e = true ↔ (r.kind = 2 ∨ r.kind = 3) ∧ e < 32 := by
  simp only [Route.delivers, Bool.and_eq_true, Bool.or_eq_true, beq_iff_eq, decide_eq_true_eq]

theorem State.addendOf_forwards {s : State} {cell : Nat} {r : Route} (hf : r.forwards = true) : s.addendOf cell r =
    if r.add then ((s.cell cell).held (32 + r.addPort)).head? else none := by
  simp only [State.addendOf, hf, Bool.true_and]

/-- A route that delivers alone, to a port with room. -/
theorem State.not_flitWaits_deliver {s : State} {f cell e : Nat} {r : Route} (hk : r.kind = 2) (he : e < 32)
    (hroom : (Sparse.look [] (s.cell cell).port r.port).length < portRoom) : ¬s.flitWaits f cell e r := by
  have hf : r.forwards = false := by simp only [Route.forwards, hk]; rfl
  have hr : s.roomDeliver cell e r = true := by simp only [State.roomDeliver, decide_eq_true hroom, Bool.or_true]
  have hfw : s.roomForward f cell r = true := by simp only [State.roomForward, hf, Bool.not_false, Bool.true_or]
  rintro (h | ⟨h, -⟩ | h | h | h)
  · omega
  · omega
  · rw [hfw] at h; cases h
  · rw [hr] at h; cases h
  · rw [hf] at h; cases h

/-- A route that forwards, with its addend there, room at the port that it delivers to and a credit where its link is open. -/
theorem State.not_flitWaits_forward {s : State} {f cell e : Nat} {r : Route}
    (hk : r.kind = 1 ∨ (r.kind = 3 ∧ e < 32 ∧ (Sparse.look [] (s.cell cell).port r.port).length < portRoom))
    (ha : r.add = true → (((s.cell cell).held (32 + r.addPort)).head?).isSome = true)
    (hc : ∀ n, s.openNeighbour f cell r = some n → Sparse.look 0 (s.cell cell).used r.out < 4) : ¬s.flitWaits f cell e r := by
  have hf : r.forwards = true := r.forwards_iff.2 (hk.imp id And.left)
  have hroomF : s.roomForward f cell r = true := by
    cases hn : s.openNeighbour f cell r with
    | none => simp only [State.roomForward, hn, Option.isNone_none, Bool.or_true, Bool.true_or]
    | some n => simp only [State.roomForward, decide_eq_true (hc n hn), Bool.or_true]
  have hroomD : s.roomDeliver cell e r = true := by
    rcases hk with hk | ⟨-, -, hroom⟩
    · simp only [State.roomDeliver, Route.delivers, hk]
      rfl
    · simp only [State.roomDeliver, decide_eq_true hroom, Bool.or_true]
  have hadd : (r.forwards && r.add && (s.addendOf cell r).isNone) = false := by
    rw [hf, s.addendOf_forwards hf]
    cases hra : r.add with
    | false => rfl
    | true =>
      obtain ⟨y, hy⟩ := Option.isSome_iff_exists.1 (ha hra)
      simp only [if_true, hy]
      rfl
  have hkind : r.kind = 1 ∨ (r.kind = 3 ∧ e < 32) := hk.imp id (fun h => ⟨h.1, h.2.1⟩)
  rintro (h | ⟨h, h1⟩ | h | h | h)
  · omega
  · omega
  · rw [hroomF] at h; cases h
  · rw [hroomD] at h; cases h
  · rw [hadd] at h; cases h

/-- What leaves an entry by a route that forwards. -/
theorem State.flitOut_forwards {s : State} {cell e : Nat} {r : Route} (x : Flit) (hk : r.kind = 1 ∨ (r.kind = 3 ∧ e < 32))
    (ha : r.add = true → (((s.cell cell).held (32 + r.addPort)).head?).isSome = true) :
    s.flitOut cell e r x =
      (let v := if r.kind = 3 then (s.popFlit cell e).deliverFlit cell r.port x else s.popFlit cell e
       if r.add then v.popFlit cell (32 + r.addPort) else v) ∧
    s.flitSum cell r x = if r.add then x.plus ((((s.cell cell).held (32 + r.addPort)).head?).getD x) else x := by
  have hf : r.forwards = true := r.forwards_iff.2 (hk.imp id And.left)
  have hd : r.delivers e = decide (r.kind = 3) := by
    rcases hk with hk | ⟨hk, he⟩
    · simp only [Route.delivers, hk]
      rfl
    · simp only [Route.delivers, hk, decide_eq_true he]
      rfl
  simp only [State.flitOut, State.flitSum, s.addendOf_forwards hf, hd, decide_eq_true_eq]
  cases hra : r.add with
  | false => exact ⟨rfl, rfl⟩
  | true =>
    obtain ⟨y, hy⟩ := Option.isSome_iff_exists.1 (ha hra)
    simp only [if_true, hy, Option.isSome_some, Option.getD_some]
    exact ⟨trivial, trivial⟩

/-! ### Credits (02 R41) -/

theorem exec_streamCredit {s : State} {cell : Fin 2368} {e : Fin 32} {n : Nat} (hn : neighbour cell (e.val / 8) = some n) :
    exec (.streamCredit cell e) s =
      if Sparse.look 0 (s.cell cell).used e > ((s.cell n).held ((e.val / 8 + 2) % 4 * 8 + e.val % 8)).length then
        .next (s.setCell cell { s.cell cell with used := Sparse.put 0 (s.cell cell).used e (Sparse.look 0 (s.cell cell).used e - 1) })
      else .next s := by
  show execStreamCredit cell e s = _
  simp only [execStreamCredit, hn]

theorem exec_streamCredit_edge {s : State} {cell : Fin 2368} {e : Fin 32} (hn : neighbour cell (e.val / 8) = none) :
    exec (.streamCredit cell e) s = .next s := by
  show execStreamCredit cell e s = _
  simp only [execStreamCredit, hn]

/-- Settles O26: sides that name the Valley are resolved at START, and half is the ceiling (log entry 85); a local port holds 16 flits,
and an unused entry keeps its flit (log entry 82). -/
theorem moversAndRouters : Obligations.MoversAndRouters := by
  unfold Obligations.MoversAndRouters
  refine ⟨fun s cell f m w h hidle hdrain hgood hlive v a miss z b more hsrc hdst => ?start,
    fun s f cell j p x wr => ⟨State.sidePage_plain, fun hv u b hu k a q n hj ht => ?valley⟩,
    fun s cell x => ⟨fun q b rest f hm hf => exec_pageTableMissFill hm hf, exec_pageTableMissFill_idle⟩,
    fun s cell x => ⟨fun h => exec_moverEvents_idle (State.movable_none h), fun f hl ha hm => ⟨fun hlt => ⟨fun hact => ?half, fun hact => ?halfLost⟩,
      fun hge => ?halfDone, fun hact => ?full, fun hact => ?fullLost⟩⟩,
    fun s cell e => ⟨exec_streamFlit_idle, fun f x rest hl hx => ⟨fun w hw => exec_streamFlit_parity hl hx hw,
      fun hw => ⟨fun hk he hroom => ?deliver, fun hk ha => ⟨fun n hn ho hc => ?forward, fun hclosed => ?fenced⟩, fun hwait => ?waits⟩⟩⟩,
    fun s cell e => ⟨fun n hn hused => ?credit, fun hnone => ?noCredit⟩⟩
  case start =>
    have hcor := (State.corrected_sidePage hsrc).trans (State.corrected_sidePage hdst)
    have hcell : (w.taken cell m).cell cell = { s.cell cell with port := ((w.taken cell m).cell cell).port } := by
      obtain ⟨p, hp⟩ := h.taken_cell
      rw [hp]
    have hidle' : (((w.taken cell m).cell cell).xfer (bits m 68 3)).active = false := by
      rw [hcell]
      exact hidle
    refine congrArg _ (State.runWord_onward (total := once) (os := noOpds) h
      (moverStartBody_starts hidle' hdrain hgood hlive hsrc hdst) ?_)
    rw [State.started, State.cell_setCell]
    exact (congrArg CellSt.pc (hcor.cell cell)).trans h.taken_pc
  case valley =>
    subst hj
    exact State.sidePage_valley hv hu ht
  case half =>
    rw [exec_moverHalfEvent (State.movable_some hl ha hm), if_neg (Nat.not_le.2 hlt)]
    exact congrArg _ (if_pos hact)
  case halfLost =>
    rw [exec_moverHalfEvent (State.movable_some hl ha hm), if_neg (Nat.not_le.2 hlt)]
    exact congrArg _ (if_neg (by rw [hact]; decide))
  case halfDone => rw [exec_moverHalfEvent (State.movable_some hl ha hm), if_pos hge]
  case full =>
    rw [exec_moverFullEvent (State.movable_some hl ha hm)]
    exact congrArg _ (if_pos hact)
  case fullLost =>
    rw [exec_moverFullEvent (State.movable_some hl ha hm)]
    exact congrArg _ (if_neg (by rw [hact]; decide))
  case deliver =>
    have hnot := State.not_flitWaits_deliver (f := f) hk he (Nat.not_le.1 (of_decide_eq_false hroom))
    have hf : (s.route cell e).forwards = false := by simp only [Route.forwards, hk]; rfl
    rw [exec_streamFlit_stays hl hx hw hnot hf]
    have hd : (s.route cell e).delivers e = true := (Route.delivers_iff _ _).2 ⟨.inl hk, he⟩
    simp only [State.flitOut, State.addendOf, hf, hd, Bool.false_and, Bool.false_eq_true, if_false, if_true, Option.isSome_none]
  case forward =>
    have hk' := hk.imp_right (fun h => And.intro h.1 (And.intro h.2.1 (Nat.not_le.1 (of_decide_eq_false h.2.2))))
    have hnot := State.not_flitWaits_forward (f := f) hk' ha (fun _ _ => hc)
    obtain ⟨hout, hsum⟩ := State.flitOut_forwards x (hk'.imp id (fun h => ⟨h.1, h.2.1⟩)) ha
    rw [exec_streamFlit_goes hl hx hw hnot ((Route.forwards_iff _).2 (hk.imp id And.left)) (State.openNeighbour_open hn ho), hout, hsum]
  case fenced =>
    have hk' := hk.imp_right (fun h => And.intro h.1 (And.intro h.2.1 (Nat.not_le.1 (of_decide_eq_false h.2.2))))
    have hopen := State.openNeighbour_fenced hclosed
    have hnot := State.not_flitWaits_forward (f := f) hk' ha (fun n hn => by rw [hopen] at hn; cases hn)
    obtain ⟨hout, -⟩ := State.flitOut_forwards x (hk'.imp id (fun h => ⟨h.1, h.2.1⟩)) ha
    rw [exec_streamFlit_fenced hl hx hw hnot ((Route.forwards_iff _).2 (hk.imp id And.left)) hopen, hout]
  case waits =>
    refine exec_streamFlit_waits hl hx hw ?_
    rcases hwait with hk | hk | ⟨hk, he, hfull⟩ | ⟨hk, hadd, hnone⟩ | ⟨hk, n, hn, ho, hc⟩
    · exact .inl hk
    · exact .inr (.inl hk)
    · refine .inr (.inr (.inr (.inl ?_)))
      simp only [State.roomDeliver, (Route.delivers_iff _ _).2 ⟨hk, he⟩, decide_eq_false (Nat.not_lt.2 (of_decide_eq_true hfull)),
        Bool.not_true, Bool.or_self]
    · have hf := (Route.forwards_iff _).2 hk
      refine .inr (.inr (.inr (.inr ?_)))
      rw [State.addendOf_forwards hf, hf, hadd, if_pos rfl, hnone]
      rfl
    · refine .inr (.inr (.inl ?_))
      simp only [State.roomForward, (Route.forwards_iff _).2 hk, State.openNeighbour_open hn ho, decide_eq_false (Nat.not_lt.2 hc),
        Bool.not_true, Option.isNone_some, Bool.or_self]
  case credit => rw [exec_streamCredit hn, if_pos hused]
  case noCredit =>
    cases hn : neighbour cell (e.val / 8) with
    | none => exact exec_streamCredit_edge hn
    | some n => rw [exec_streamCredit hn, if_neg (Nat.not_lt.2 (hnone n hn))]

end Sys2Proof.Machine
end

section
/-! Key commands, the scrubs, the Valley's pools and the SRAM windows (02 R30, R37, 05 R115, R116, R118, R119, 07 R189, R190, 12 R297). -/

namespace Sys2Proof.Machine

/-! ### Key commands (05 R118, R119) -/

theorem exec_keyCommands_firmware {s : State} {src : Source} (k : Fin 128) (h : s.who src = .firmware) :
    exec (.keyGenerate src k) s = .next (s.keyCommand k true) ∧ exec (.keyZeroise src k) s = .next (s.keyCommand k false) :=
  ⟨congrArg _ (State.byFirmware_firmware _ _ h), congrArg _ (State.byFirmware_firmware _ _ h)⟩

theorem State.keyCommand_refused {s : State} {slot : Nat} (generate : Bool) (h : s.mem.keyCmd.isSome = true ∨ s.slotInUse slot = true) :
    s.keyCommand slot generate = s.inc MEM_STAT.KEY_REFUSED := if_pos (Bool.or_eq_true_iff.2 h)

theorem State.keyCommand_started {s : State} {slot : Nat} (generate : Bool) (hnone : s.mem.keyCmd = none)
    (hfree : s.slotInUse slot = false) : s.keyCommand slot generate =
      { s.wr MEM_STAT.KEY_BUSY 1 with mem := { s.mem with keyCmd := some ⟨slot, generate, false⟩ } } :=
  if_neg (by rw [hnone, hfree]; decide)

/-- A slot set by the end of its key command, and a VEF that waited for its key active. -/
def State.keySet (s : State) (k : KeyCmd) : State :=
  if k.forVef ∧ k.generate then (s.setKey k.slot k.generate).wr VEF_CTL.STATE vActive k.slot else s.setKey k.slot k.generate

/-- The next key command that waits follows; with none, the engine is no longer busy. -/
def State.keyNext (s : State) : State :=
  match s.mem.keyWait with
  | [] => { s.wr MEM_STAT.KEY_BUSY 0 with mem := { s.mem with keyCmd := none } }
  | n :: rest => { s with mem := { s.mem with keyCmd := some n, keyWait := rest } }

theorem exec_keyCmdDone_idle {s : State} (h : s.mem.keyCmd = none) : exec .keyCmdDone s = .next s := by
  show execKeyCmdDone s = _
  simp only [execKeyCmdDone, h]

theorem exec_keyCmdDone {s : State} {k : KeyCmd} (h : s.mem.keyCmd = some k) : exec .keyCmdDone s = .next (s.keySet k).keyNext := by
  show execKeyCmdDone s = _
  simp only [execKeyCmdDone, h]
  rfl

theorem State.mem_keySet (s : State) (k : KeyCmd) : (s.keySet k).mem = (s.setKey k.slot k.generate).mem := by
  unfold State.keySet
  split <;> rfl

/-- What the end of a key command leaves of its slot, of the others and of what memory holds. -/
theorem State.setKey_facts (s : State) (slot : Nat) (generate : Bool) :
    Sparse.look 0 (s.setKey slot generate).mem.keys slot = (if generate then s.mem.keySerial + 1 else 0) ∧
    (s.setKey slot generate).mem.keySerial = (if generate then s.mem.keySerial + 1 else s.mem.keySerial) ∧
    (∀ n, n ≠ slot → Sparse.look 0 (s.setKey slot generate).mem.keys n = Sparse.look 0 s.mem.keys n) ∧
    (s.setKey slot generate).mem.hbm = s.mem.hbm ∧ (s.setKey slot generate).mem.tags = s.mem.tags ∧
    (s.setKey slot generate).mem.keyWait = s.mem.keyWait := by
  have hsame : ∀ v, Sparse.look 0 (Sparse.put 0 s.mem.keys slot v) slot = v := Sparse.look_put_same 0 s.mem.keys slot
  have hne : ∀ v n, n ≠ slot → Sparse.look 0 (Sparse.put 0 s.mem.keys slot v) n = Sparse.look 0 s.mem.keys n :=
    fun v n => Sparse.look_put_ne 0 0 s.mem.keys slot n v
  cases generate
  · exact ⟨hsame 0, rfl, hne 0, rfl, rfl, rfl⟩
  · exact ⟨hsame (s.mem.keySerial + 1), rfl, hne (s.mem.keySerial + 1), rfl, rfl, rfl⟩

theorem State.keyNext_facts (s : State) : s.keyNext.mem.keys = s.mem.keys ∧ s.keyNext.mem.keySerial = s.mem.keySerial ∧
    s.keyNext.mem.hbm = s.mem.hbm ∧ s.keyNext.mem.tags = s.mem.tags ∧ s.keyNext.mem.keyCmd = s.mem.keyWait.head? ∧
    s.keyNext.mem.keyWait = s.mem.keyWait.tail ∧ (s.mem.keyWait = [] → s.keyNext.rd MEM_STAT.KEY_BUSY = 0) ∧
    ∀ n, s.keyNext.rd VEF_CTL.STATE n = s.rd VEF_CTL.STATE n := by
  unfold State.keyNext
  split
  next h =>
    exact ⟨rfl, rfl, rfl, rfl, by rw [h]; rfl, h.trans (by rw [h]; rfl), fun _ => State.rd_wr_same s MEM_STAT.KEY_BUSY 0 0 0,
      fun n => State.rd_wr_ne s MEM_STAT.KEY_BUSY VEF_CTL.STATE 0 0 0 n 0 (by decide) (by decide) (by decide)⟩
  next k rest h => exact ⟨rfl, rfl, rfl, rfl, by rw [h]; rfl, by rw [h]; rfl, fun e => absurd (h.symm.trans e) (List.cons_ne_nil k rest), fun _ => rfl⟩

theorem State.keySet_active {s : State} {k : KeyCmd} (hv : k.forVef = true) (hg : k.generate = true) :
    (s.keySet k).rd VEF_CTL.STATE k.slot = vActive := by
  rw [State.keySet, if_pos ⟨hv, hg⟩, State.rd_wr_same]
  rfl

/-! ### Scrubs (05 R115, R116, 02 R37) -/

/-- A word of HBM with what a scrub finds in it: the worse of that and the error standing there. -/
def State.wordFound (s : State) (w : Nat) (found : Fin 3) : State :=
  if found.val = 0 then s
  else { s with mem := { s.mem with hbmErr := Sparse.put 0 s.mem.hbmErr w (max found.val (Sparse.look 0 s.mem.hbmErr w)) } }

theorem State.look_wordFound (s : State) (w : Nat) (found : Fin 3) : Sparse.look 0 (s.wordFound w found).mem.hbmErr w =
    if found.val = 0 then Sparse.look 0 s.mem.hbmErr w else max found.val (Sparse.look 0 s.mem.hbmErr w) := by
  unfold State.wordFound
  split
  · rfl
  · exact Sparse.look_put_same _ _ _ _

theorem State.wordFound_frame (s : State) (w : Nat) (found : Fin 3) :
    (s.wordFound w found).regs = s.regs ∧ (s.wordFound w found).saf = s.saf ∧ (s.wordFound w found).time = s.time := by
  unfold State.wordFound
  split <;> exact ⟨rfl, rfl, rfl⟩

theorem exec_patrolScrub {s : State} {w : Nat} (found : Fin 3) (h : w * 8 / pcBytes ∈ s.pcs) : exec (.patrolScrub w found) s =
    .next (if Sparse.look 0 (s.wordFound w found).mem.hbmErr w = 1 then ((s.wordFound w found).readWordErr w).report 0x30 none
      else (s.wordFound w found).readWordErr w) :=
  if_pos (List.contains_iff_mem.2 h)

theorem exec_patrolScrub_outside {s : State} {w : Nat} (found : Fin 3) (h : w * 8 / pcBytes ∉ s.pcs) :
    exec (.patrolScrub w found) s = .next s :=
  if_neg (fun hc => h (List.contains_iff_mem.1 hc))

theorem State.readWordErr_none {s : State} {w : Nat} (h : Sparse.look 0 s.mem.hbmErr w = 0) : s.readWordErr w = s := by
  simp only [State.readWordErr, h]

theorem State.reports_report {s u : State} (source : Nat) (field : Option Nat) (hsaf : u.saf = s.saf) (htime : u.time = s.time) :
    (u.report source field).saf.reports = s.saf.reports ++ [⟨source, field, s.vehicleNs⟩] := by
  rw [← hsaf, ← State.vehicleNs_congr htime]
  rfl

theorem State.readWordErr_single {s : State} {w : Nat} (h : Sparse.look 0 s.mem.hbmErr w = 1) : s.readWordErr w =
    { s.inc MEM_ECC.CE with mem := { (s.inc MEM_ECC.CE).mem with hbmErr := Sparse.put 0 s.mem.hbmErr w 0 } } := by
  simp only [State.readWordErr, h]

theorem State.readWordErr_double {s : State} {w : Nat} (h : 2 ≤ Sparse.look 0 s.mem.hbmErr w) :
    s.readWordErr w = (s.inc MEM_ECC.DED).wr MEM_ECC.LAST_PC (w * 8 / pcBytes) := by
  unfold State.readWordErr
  split
  next h0 => omega
  next h1 => omega
  next => rfl

/-- The parity marks of a cell's stitch store with the words that a scrub finds. -/
def State.stitchMarked (s : State) (cell : Nat) (bad : List Nat) : State :=
  { s with mem := { s.mem with stitchBad :=
    (bad.filter (· < 0x1000)).foldl (fun t w => Sparse.put false t (cell * 0x1000 + w) true) s.mem.stitchBad } }

theorem exec_stitchScrub_quiet {s : State} {cell : Fin 2368} {bad : List Nat}
    (h : s.fieldOfCell cell = none ∨ ∀ w < 0x1000, Sparse.look false (s.stitchMarked cell bad).mem.stitchBad (cell.val * 0x1000 + w) = false) :
    exec (.stitchScrub cell bad) s = .next (s.stitchMarked cell bad) := by
  show execStitchScrub cell bad s = _
  unfold execStitchScrub
  dsimp only
  split
  · rfl
  next f hf =>
    split
    · rfl
    next w hw =>
      rcases h with h | h
      · exact absurd (hf.symm.trans h) (by simp)
      · have hlt := List.mem_range.1 (List.mem_of_find?_eq_some hw)
        have hbad := List.find?_some hw
        exact absurd ((h w hlt).symm.trans hbad) (by decide)

theorem exec_stitchScrub_fault {s : State} {cell : Fin 2368} {bad : List Nat} {f : Fin 17} {w : Nat} (hf : s.fieldOfCell cell = some f.val)
    (hw : (List.range 0x1000).find? (fun w => Sparse.look false (s.stitchMarked cell bad).mem.stitchBad (cell.val * 0x1000 + w)) = some w) :
    exec (.stitchScrub cell bad) s = .next ((s.stitchMarked cell bad).parityError f cell w) := by
  have hf' : (s.stitchMarked cell bad).fieldOfCell cell = some f.val := hf
  show execStitchScrub cell bad s = _
  unfold execStitchScrub
  dsimp only
  split
  next h => exact absurd (hf'.symm.trans h) (by simp)
  next g hg =>
    obtain rfl := Option.some.inj (hf'.symm.trans hg)
    split
    next h => exact absurd (hw.symm.trans h) (by simp)
    next v hv =>
      obtain rfl := Option.some.inj (hw.symm.trans hv)
      exact dif_pos f.isLt

/-! ### Pools (07 R189, R190) -/

theorem Requester.hyp_iff (who : Requester) : who.hyp = true ↔ who = .hypervisor := by
  cases who <;> simp [Requester.hyp]

theorem exec_poolRows_hypervisor {s : State} {src : Source} (p : Fin 16) (h : s.who src = .hypervisor) :
    exec (.poolValid src p) s = .next (s.poolValid p) ∧ exec (.poolInvalidate src p) s = .next (s.poolInvalid p) :=
  ⟨congrArg _ (State.asWho_pos _ _ _ _ _ ((Requester.hyp_iff _).2 h)), congrArg _ (State.asWho_pos _ _ _ _ _ ((Requester.hyp_iff _).2 h))⟩

theorem exec_poolRows_denied {s : State} {src : Source} (p : Fin 16) (h : s.who src ≠ .hypervisor) :
    exec (.poolValid src p) s = .next (s.denied (s.who src) (RegName.vlyPool.addr p)) ∧
    exec (.poolInvalidate src p) s = .next (s.denied (s.who src) (RegName.vlyPool.addr p)) := by
  have hno : (s.who src).hyp = false := Bool.eq_false_iff.2 (fun e => h ((Requester.hyp_iff _).1 e))
  exact ⟨congrArg _ (State.asWho_neg _ _ _ _ _ hno), congrArg _ (State.asWho_neg _ _ _ _ _ hno)⟩

theorem State.poolValid_new {s : State} {p : Nat} (h : s.flag VLY_POOL.VALID p = false) : s.poolValid p =
    if s.poolRefused p then s.inc VLY_STAT.CFG_REFUSED
    else (s.wr VLY_POOL.VALID 1 p).wr VLY_POOL.GENERATION
      (if s.rd VLY_POOL.GENERATION p ≥ 0xFFFF then 1 else s.rd VLY_POOL.GENERATION p + 1) p :=
  if_neg (by rw [h]; decide)

/-- The three fields that say what a pool is: written one after the other they all hold. -/
theorem State.pool_cleared (s : State) (p : Nat) :
    let t := ((s.wr VLY_POOL.VALID 0 p).wr VLY_POOL.READY 0 p).wr VLY_POOL.FREE_GROUPS 0 p
    t.flag VLY_POOL.VALID p = false ∧ t.flag VLY_POOL.READY p = false ∧ t.rd VLY_POOL.FREE_GROUPS p = 0 := by
  have hready : (((s.wr VLY_POOL.VALID 0 p).wr VLY_POOL.READY 0 p).wr VLY_POOL.FREE_GROUPS 0 p).rd VLY_POOL.READY p = 0 := by
    rw [State.rd_wr_ne _ _ _ _ _ _ _ _ (by decide) (by decide) (by decide), State.rd_wr_same]
    rfl
  have hvalid : (((s.wr VLY_POOL.VALID 0 p).wr VLY_POOL.READY 0 p).wr VLY_POOL.FREE_GROUPS 0 p).rd VLY_POOL.VALID p = 0 := by
    rw [State.rd_wr_ne _ _ _ _ _ _ _ _ (by decide) (by decide) (by decide),
      State.rd_wr_ne _ _ _ _ _ _ _ _ (by decide) (by decide) (by decide), State.rd_wr_same]
    rfl
  exact ⟨by rw [State.flag, hvalid]; rfl, by rw [State.flag, hready]; rfl, (State.rd_wr_same _ VLY_POOL.FREE_GROUPS 0 p 0)⟩

theorem State.poolInvalid_cleared {s : State} {p : Nat} (hv : s.flag VLY_POOL.VALID p = true) (hb : s.flag VLY_POOL.BOUND p = false) :
    ∃ u, s.poolInvalid p = ((State.wr u VLY_POOL.VALID 0 p).wr VLY_POOL.READY 0 p).wr VLY_POOL.FREE_GROUPS 0 p :=
  ⟨_, if_neg (by rw [hv, hb]; decide)⟩

theorem State.poolInvalid_idle {s : State} {p : Nat} (h : s.flag VLY_POOL.VALID p = false ∨ s.flag VLY_POOL.BOUND p = true) :
    s.poolInvalid p = s := if_pos (by rcases h with h | h <;> simp [h])

theorem State.poolReady_idle {s : State} {p : Nat} (h : s.flag VLY_POOL.VALID p = false ∨ s.flag VLY_POOL.READY p = true) :
    s.poolReady p = s := if_pos (by rcases h with h | h <;> simp [h])

/-- A pool readied: empty, or adopted where its header holds. -/
theorem State.poolReady_readied {s : State} {p : Nat} (hv : s.flag VLY_POOL.VALID p = true) (hr : s.flag VLY_POOL.READY p = false) :
    (s.flag VLY_POOL.ADOPT p = false → s.poolReady p = (s.setPool p PoolSt.empty).wr VLY_POOL.READY 1 p) ∧
    (∀ x, s.flag VLY_POOL.ADOPT p = true → s.poolAdopt p = some x → s.poolReady p = (s.setPool p x).wr VLY_POOL.READY 1 p) ∧
    (s.flag VLY_POOL.ADOPT p = true → s.poolAdopt p = none →
      s.poolReady p = ((s.inc VLY_STAT.CFG_REFUSED).setPool p PoolSt.empty).wr VLY_POOL.READY 1 p) := by
  refine ⟨fun ha => ?_, fun x ha hx => ?_, fun ha hx => ?_⟩
  all_goals simp only [State.poolReady, hv, hr, ha, Bool.not_true, Bool.or_self, Bool.false_eq_true, if_false, if_true]
  all_goals simp only [hx]

/-! ### The SRAM windows (02 R30) -/

theorem State.sramPut_closed {s : State} {a k o : Nat} {b : Byte} {whole pk : Bool} (hp : sramPlace a = some (pk, k, o))
    (hc : s.sramOpen k = false) : s.sramPut a b whole = s := by
  simp only [State.sramPut, hp, hc, Bool.not_false, if_true]

theorem State.rmwWord_clean {s : State} {pk : Bool} {w cell word : Nat} {field : Option Nat}
    (h : Sparse.look 0 (if pk then s.mem.pocketErr else s.mem.sramErr) w = 0) : s.rmwWord pk w cell word field = s := by
  simp only [State.rmwWord, h]

/-- A byte put into an open memory, its word written whole or without an error: that byte and no other. -/
theorem State.sramPut_open {s : State} {a k o : Nat} {b : Byte} {whole pk : Bool} (hp : sramPlace a = some (pk, k, o))
    (hc : s.sramOpen k = true) (he : whole = true ∨ Sparse.look 0 (if pk then s.mem.pocketErr else s.mem.sramErr) (o / 8) = 0) :
    ∃ m : MemState, s.sramPut a b whole = { s with mem := m } ∧ m.pocket = (if pk then Sparse.put 0 s.mem.pocket o b else s.mem.pocket) ∧
      m.sram = (if pk then s.mem.sram else Sparse.put 0 s.mem.sram o b) := by
  have hread : (if whole then s else s.rmwWord pk (o / 8) (if pk then o / 0x20000 else k * 16)
      (if pk then o % 0x20000 / 8 else o % 0x80000 / 8) (s.fieldOfCluster k)) = s := by
    split
    · rfl
    next hw => exact State.rmwWord_clean (he.resolve_left hw)
  simp only [State.sramPut, hp, hc, Bool.not_true, Bool.false_eq_true, if_false, hread]
  refine ⟨_, rfl, ?_⟩
  cases pk <;> exact ⟨rfl, rfl⟩

/-- Settles O29: each row by what the engine, the word or the pool is at. What a scrub finds comes with its row (log entry 109). -/
theorem keysPoolsAndScrubs : Obligations.KeysPoolsAndScrubs := by
  unfold Obligations.KeysPoolsAndScrubs
  refine ⟨fun src k s hw => ⟨fun h => ?keyRefused, fun hnone hfree => ?keyStarted⟩, fun src k s hw => ?keyDenied, fun s h => exec_keyCmdDone_idle h,
    fun s k hk => ?keyDone, fun w found s hpc => ⟨fun he => ?clean, fun he => ?single, fun he => ?double⟩,
    fun w found s hpc => exec_patrolScrub_outside found hpc, fun cell bad s => ⟨exec_stitchScrub_quiet, fun f w => exec_stitchScrub_fault⟩,
    fun src p s hw => exec_poolRows_denied p hw, fun src p s hw => ?pools, fun p s h => congrArg _ (State.poolReady_idle h),
    fun p s hv hr => ?ready, fun src a data s => ⟨fun h => ?window, fun h => ?noWindow⟩,
    fun a b whole s => ⟨fun hp => ?nowhere, fun pk k o hp => ⟨State.sramPut_closed hp, fun hc he => ?put⟩⟩⟩
  case keyRefused =>
    obtain ⟨hg, hz⟩ := exec_keyCommands_firmware k hw
    rw [hg, hz, State.keyCommand_refused _ h, State.keyCommand_refused _ h]
    exact ⟨rfl, rfl⟩
  case keyStarted =>
    obtain ⟨hg, hz⟩ := exec_keyCommands_firmware k hw
    rw [hg, hz, State.keyCommand_started _ hnone hfree, State.keyCommand_started _ hnone hfree]
    exact ⟨rfl, rfl⟩
  case keyDenied => exact ⟨congrArg _ (State.byFirmware_other _ _ hw), congrArg _ (State.byFirmware_other _ _ hw)⟩
  case keyDone =>
    obtain ⟨hkey, hserial, hothers, hhbm, htags, hwait⟩ := s.setKey_facts k.slot k.generate
    obtain ⟨nkeys, nserial, nhbm, ntags, ncmd, nwait, nbusy, nstate⟩ := (s.keySet k).keyNext_facts
    rw [State.mem_keySet] at nkeys nserial nhbm ntags ncmd nwait nbusy
    rw [hwait] at ncmd nwait nbusy
    refine ⟨_, exec_keyCmdDone hk, by rw [nkeys, hkey], by rw [nserial, hserial], fun n hn => by rw [nkeys, hothers n hn],
      nhbm.trans hhbm, ntags.trans htags, ncmd, nwait, nbusy, fun hv hg => by rw [nstate, State.keySet_active hv hg]⟩
  case clean =>
    have hfound : found.val = 0 := by
      by_contra hne
      rw [if_neg hne] at he
      omega
    have hsame : s.wordFound w found = s := if_pos hfound
    rw [if_pos hfound] at he
    rw [exec_patrolScrub found hpc, hsame, he, State.readWordErr_none he, if_neg (by decide)]
  case single =>
    have hlook := (s.look_wordFound w found).trans he
    obtain ⟨hregs, hsaf, htime⟩ := s.wordFound_frame w found
    rw [exec_patrolScrub found hpc, if_pos hlook, State.readWordErr_single hlook]
    refine ⟨_, rfl, Sparse.look_put_same 0 (s.wordFound w found).mem.hbmErr w 0, ?_, ?_⟩
    · exact (State.rd_inc_same (s.wordFound w found) MEM_ECC.CE 0 0).trans (by rw [State.rd_congr _ _ hregs])
    · exact State.reports_report 0x30 none hsaf htime
  case double =>
    have hlook : 2 ≤ Sparse.look 0 (s.wordFound w found).mem.hbmErr w := le_of_le_of_eq he (s.look_wordFound w found).symm
    obtain ⟨-, hsaf, -⟩ := s.wordFound_frame w found
    rw [exec_patrolScrub found hpc, if_neg (by omega), State.readWordErr_double hlook]
    exact ⟨_, rfl, State.rd_wr_same _ MEM_ECC.LAST_PC _ 0 0, hsaf⟩
  case pools =>
    obtain ⟨hvalid, hinvalid⟩ := exec_poolRows_hypervisor p hw
    rw [hvalid, hinvalid]
    refine ⟨fun hv => congrArg _ (if_pos hv), fun h => congrArg _ (State.poolInvalid_idle h), fun hv hr => ?_, fun hv hr => ?_, fun hv hb => ?_⟩
    · rw [State.poolValid_new hv, if_pos hr]
    · rw [State.poolValid_new hv, if_neg (by rw [hr]; decide)]
    · obtain ⟨u, hu⟩ := State.poolInvalid_cleared hv hb
      exact ⟨_, congrArg _ hu, u.pool_cleared p⟩
  case ready =>
    obtain ⟨hempty, hadopt, hbad⟩ := State.poolReady_readied hv hr
    exact ⟨fun ha => congrArg _ (hempty ha), fun x ha hx => congrArg _ (hadopt x ha hx), fun ha hx => congrArg _ (hbad ha hx)⟩
  case window =>
    subst h
    rfl
  case noWindow =>
    show execPocketWindowWrite src a data s = _
    unfold execPocketWindowWrite
    split
    · exact absurd rfl h
    · rfl
  case nowhere => simp only [State.sramPut, hp]
  case put =>
    obtain ⟨m, hput, hpocket, hsram⟩ := State.sramPut_open (b := b) hp hc he
    rw [hput]
    cases pk
    · exact ⟨by rw [hsram]; exact Sparse.look_put_same _ _ _ _, rfl, rfl, fun n => ⟨fun _ => by rw [hpocket]; rfl,
        fun hn => by rw [hsram]; exact Sparse.look_put_ne _ _ _ _ _ _ (hn.resolve_left (by decide))⟩⟩
    · exact ⟨by rw [hpocket]; exact Sparse.look_put_same _ _ _ _, rfl, rfl, fun n =>
        ⟨fun hn => by rw [hpocket]; exact Sparse.look_put_ne _ _ _ _ _ _ (hn.resolve_left (by decide)), fun _ => by rw [hsram]; rfl⟩⟩

end Sys2Proof.Machine
end

section
/-! A FIELD_LOAD refused, attached, waiting for its twin or placed (02 R48, R49, 04 R104, R106). -/

namespace Sys2Proof.Machine

/-! ### Placing a load (02 R48, R49, 07 R169) -/

theorem State.placeLoad_poolBad {s : State} {c : Cmd} {x : ImgAt} (want : LoadWant) (h : s.poolBad c (s.imgHdr x).pageSize = true) :
    s.placeLoad c x want = (s.dropLoad c.serial).loadFail c 0x40 4 := if_pos h

theorem State.placeLoad_fresh_nowhere {s : State} {c : Cmd} {x : ImgAt} (hpool : s.poolBad c (s.imgHdr x).pageSize = false)
    (hp : s.placement (s.imgHdr x).fits .fresh = none) : s.placeLoad c x .fresh = (s.dropLoad c.serial).loadFail c 0x21 0x10 := by
  simp only [State.placeLoad, hpool, hp, Bool.false_eq_true, if_false]

theorem State.placeLoad_fresh_placed {s : State} {c : Cmd} {x : ImgAt} {p : Placement} (h : p.field < 17)
    (hpool : s.poolBad c (s.imgHdr x).pageSize = false) (hp : s.placement (s.imgHdr x).fits .fresh = some p) :
    s.placeLoad c x .fresh = ((s.dequeue c.serial).dropLoad c.serial).startLoad ⟨p.field, h⟩ (s.mkLoad c x p) := by
  simp only [State.placeLoad, hpool, hp, h, Bool.false_eq_true, if_false, dif_pos]

/-! ### A new placement: it attaches, waits for its twin, or is placed (02 R48, 04 R104) -/

theorem State.freshLoad_persist {s : State} {c : Cmd} {x : ImgAt} (h : s.persistW x = true) : s.freshLoad c x = s.placeLoad c x .fresh :=
  if_pos h

section
variable {s : State} {c : Cmd} {x : ImgAt} (hw : s.persistW x = false)
include hw

theorem State.freshLoad_attached {f : Fin 17} (h : s.attachTo c.vef (c.cls == 0) (s.imgHdr x).digest = some f) :
    s.freshLoad c x = ((s.dropLoad c.serial).attachField f c.vef).endQueued c 0 0 (s.handle f) := by
  simp only [State.freshLoad, hw, h, Bool.false_eq_true, if_false, State.attachLoad]

theorem State.freshLoad_twin (h : s.attachTo c.vef (c.cls == 0) (s.imgHdr x).digest = none)
    (htwin : s.loadTwin c.vef (c.cls == 0) (s.imgHdr x).digest c.serial = true) :
    ∃ u, s.freshLoad c x = u ∧ u.queue = s.queue.filter (fun q => q.2.serial != c.serial) ∧ u.regs = s.regs ∧
      ∃ l, u.loads = s.loads.filter (fun l => l.serial != c.serial) ++ [l] ∧ l.phase = .digestWait ∧ l.cmd = some c := by
  simp only [State.freshLoad, hw, h, htwin, Bool.false_eq_true, if_false, if_true]
  exact ⟨_, rfl, rfl, rfl, _, rfl, rfl, rfl⟩

theorem State.freshLoad_alone (h : s.attachTo c.vef (c.cls == 0) (s.imgHdr x).digest = none)
    (htwin : s.loadTwin c.vef (c.cls == 0) (s.imgHdr x).digest c.serial = false) : s.freshLoad c x = s.placeLoad c x .fresh := by
  simp only [State.freshLoad, hw, h, htwin, Bool.false_eq_true, if_false]

end

/-! ### The loader takes a load (04 R104, R106) -/

theorem exec_fieldLoad_idle {s : State} (h : s.fwOut 3 = true ∨ s.loadHead = none) : exec .fieldLoad s = .next s := by
  show execFieldLoad s = _
  obtain h | h := h
  · exact if_pos h
  · simp only [execFieldLoad, h, ite_self]

section
variable {s : State} {c : Cmd} (hfw : s.fwOut 3 = false) (hc : s.loadHead = some c)
include hfw hc

theorem exec_fieldLoad_operand {cause : Nat} (h : s.loadWant c = .error cause) : exec .fieldLoad s = .next (s.loadFail c 0x21 cause) := by
  show execFieldLoad s = _
  simp only [execFieldLoad, hfw, hc, h, Bool.false_eq_true, if_false]

theorem exec_fieldLoad_image {want : LoadWant} (h : s.loadWant c = .ok want)
    (hcause : s.imgCause c.imgAt (c.cls == 0) (c.op 0x20 8) (c.op 0x28 8) ≠ 0) :
    exec .fieldLoad s = .next ((s.ctxTouch c.imgAt.ctx c.imgAt.addr 256).loadFail c 0x22
      (s.imgCause c.imgAt (c.cls == 0) (c.op 0x20 8) (c.op 0x28 8))) := by
  show execFieldLoad s = _
  simp only [execFieldLoad, hfw, hc, h, Bool.false_eq_true, if_false]
  exact if_pos hcause

variable (hcause : s.imgCause c.imgAt (c.cls == 0) (c.op 0x20 8) (c.op 0x28 8) = 0)
include hcause

theorem exec_fieldLoad_fresh (h : s.loadWant c = .ok .fresh) :
    exec .fieldLoad s = .next ((s.ctxTouch c.imgAt.ctx c.imgAt.addr 256).freshLoad c c.imgAt) := by
  show execFieldLoad s = _
  simp only [execFieldLoad, hfw, hc, h, hcause, Bool.false_eq_true, if_false, ne_eq, not_true_eq_false]

theorem exec_fieldLoad_placed {want : LoadWant} (h : s.loadWant c = .ok want) (hwant : want ≠ .fresh) :
    exec .fieldLoad s = .next ((s.ctxTouch c.imgAt.ctx c.imgAt.addr 256).placeLoad c c.imgAt want) := by
  show execFieldLoad s = _
  cases want with
  | fresh => exact absurd rfl hwant
  | id n => simp only [execFieldLoad, hfw, hc, h, hcause, Bool.false_eq_true, if_false, ne_eq, not_true_eq_false]
  | replace f => simp only [execFieldLoad, hfw, hc, h, hcause, Bool.false_eq_true, if_false, ne_eq, not_true_eq_false]

end

/-! ### A waiting load is decided again (04 R104) -/

/-- The oldest load that waits for a twin which has ended. -/
def State.twinEnded (s : State) : Option Load :=
  s.loads.find? (fun l => l.phase == .digestWait && !s.loadTwin l.image.vef (l.cls == 0) l.image.digest l.serial)

theorem exec_digestWaitResolve_idle {s : State} (h : s.fwOut 3 = true ∨ s.twinEnded = none) : exec .digestWaitResolve s = .next s := by
  show execDigestWaitResolve s = _
  obtain h | h := h
  · exact if_pos h
  · rw [State.twinEnded] at h
    simp only [execDigestWaitResolve, h, ite_self]

theorem exec_digestWaitResolve_again {s : State} {l : Load} {c : Cmd} (hfw : s.fwOut 3 = false) (h : s.twinEnded = some l)
    (hc : l.cmd = some c) : exec .digestWaitResolve s = .next (s.freshLoad c c.imgAt) := by
  show execDigestWaitResolve s = _
  rw [State.twinEnded] at h
  simp only [execDigestWaitResolve, hfw, h, hc, Bool.false_eq_true, if_false]

theorem exec_digestWaitResolve_dropped {s : State} {l : Load} (hfw : s.fwOut 3 = false) (h : s.twinEnded = some l)
    (hc : l.cmd = none) : exec .digestWaitResolve s = .next (s.dropLoad l.serial) := by
  show execDigestWaitResolve s = _
  rw [State.twinEnded] at h
  simp only [execDigestWaitResolve, hfw, h, hc, Bool.false_eq_true, if_false]

/-- Settles O30: the loader's row is its operand test, its image test, and then the three ways of a new placement; the field with the
lowest ID is attached, and a pool that another load has taken counts as bound (log 88). -/
theorem fieldLoading : Obligations.FieldLoading := by
  unfold Obligations.FieldLoading
  refine ⟨fun s => ⟨exec_fieldLoad_idle, exec_digestWaitResolve_idle, fun l hfw hc h => exec_digestWaitResolve_dropped hfw h hc⟩,
    fun s c hfw hc => ⟨fun cause h => exec_fieldLoad_operand hfw hc h, fun want hwant =>
      ⟨exec_fieldLoad_image hfw hc hwant, fun hcause hkept => ?placed, fun hcause hfresh hw => ?fresh⟩⟩,
    fun s l c hfw hc h => exec_digestWaitResolve_again hfw h hc⟩
  case placed =>
    by_cases hfresh : want = .fresh
    · subst hfresh
      obtain hne | hpersist := hkept
      · exact absurd rfl hne
      · rw [exec_fieldLoad_fresh hfw hc hcause hwant, State.freshLoad_persist hpersist]
    · exact exec_fieldLoad_placed hfw hc hcause hwant hfresh
  case fresh =>
    subst hfresh
    rw [exec_fieldLoad_fresh hfw hc hcause hwant]
    refine ⟨fun f hf => congrArg _ (State.freshLoad_attached hw hf), fun hnone => ⟨fun htwin => ?_, fun htwin hbad => ?_, fun htwin hpool => ?_⟩⟩
    · obtain ⟨u, hu, hrest⟩ := State.freshLoad_twin hw hnone htwin
      exact ⟨u, congrArg _ hu, hrest⟩
    · rw [State.freshLoad_alone hw hnone htwin, State.placeLoad_poolBad _ hbad]
    · rw [State.freshLoad_alone hw hnone htwin]
      exact ⟨fun hp => congrArg _ (State.placeLoad_fresh_nowhere hpool hp),
        fun p h hp => congrArg _ (State.placeLoad_fresh_placed h hpool hp)⟩

end Sys2Proof.Machine
end

section
/-! Commands commit in order of admission on a field, and as they finish on another engine (06 R150, R152, 02 R52, 05 R115). -/

namespace Sys2Proof.Machine

/-! ### A field (02 R52) -/

/-- A FRAME in flight that asks for a checkpoint and has not begun its copies (08 R212). -/
def Job.AsksCopies (j : Job) : Prop :=
  j.cmd.opcode = 0x31 ∧ j.cmd.ckpt = true ∧ j.golden = false ∧ j.copying = false ∧ j.outcome = .running

/-- The copies of a command's checkpoint are under way. -/
def State.Copying (s : State) (f : Fin 17) (j : Job) : Prop := j.copying = true ∧ (s.frt f).moves.any (fun m => m.kind == 0x02) = true

theorem exec_commandCommit_field_empty {s : State} {f : Fin 17} (h : s.jobsOn (.field f) = []) :
    exec (.commandCommit (.field f)) s = .next s := by
  show execCommandCommit (.field f) s = _
  simp only [execCommandCommit, h]

section
variable {s : State} {f : Fin 17} {j : Job} {rest : List Job} (hj : s.jobsOn (.field f) = j :: rest)
include hj

theorem exec_commandCommit_field_waits (h : s.commitReady j = false ∨ s.fState f ≠ stRunning ∨ (s.frt f).faultDrain = true) :
    exec (.commandCommit (.field f)) s = .next s := by
  show execCommandCommit (.field f) s = _
  simp only [execCommandCommit, hj]
  refine if_pos ?_
  obtain h | h | h := h
  · exact .inr (.inr (by rw [h]; rfl))
  · exact .inl h
  · exact .inr (.inl h)

variable (hrun : s.fState f = stRunning) (hdrain : (s.frt f).faultDrain = false) (hready : s.commitReady j = true)
include hrun hdrain hready

theorem exec_commandCommit_field_copies (h : j.AsksCopies) : exec (.commandCommit (.field f)) s =
    .next ((s.startCopies f).changeJob j.cmd.serial (fun j => { j with copying := true })) := by
  obtain ⟨hop, hckpt, hgolden, hcopying, hrunning⟩ := h
  show execCommandCommit (.field f) s = _
  simp only [execCommandCommit, hj, hrun, hdrain, hready, hop, hckpt, hgolden, hcopying, hrunning, ne_eq, not_true_eq_false,
    Bool.false_eq_true, Bool.not_true, Bool.not_false, or_self, and_self, if_false, if_true]

variable (hck : ¬ j.AsksCopies)
include hck

theorem exec_commandCommit_field_copying (h : s.Copying f j) : exec (.commandCommit (.field f)) s = .next s := by
  show execCommandCommit (.field f) s = _
  simp only [execCommandCommit, hj]
  rw [if_neg (by simp [hrun, hdrain, hready]), if_neg (by simpa [Job.AsksCopies] using hck)]
  exact if_pos h

variable (hcp : ¬ s.Copying f j)
include hcp

theorem exec_commandCommit_field_well (h : j.outcome = .running ∨ ∃ cause r, j.outcome = .ended 0 cause r) :
    exec (.commandCommit (.field f)) s =
      .next (if j.tainted then ((s.reportPoison j).endJob j 0x30 0 0).settle f else s.commitField f j) := by
  show execCommandCommit (.field f) s = _
  simp only [execCommandCommit, hj]
  rw [if_neg (by simp [hrun, hdrain, hready]), if_neg (by simpa [Job.AsksCopies] using hck), if_neg (show ¬(j.copying = true ∧ _) from hcp)]
  obtain h | ⟨cause, r, h⟩ := h
  all_goals
    simp only [h]
    cases j.tainted <;> rfl

theorem exec_commandCommit_field_badly {st cause r : Nat} (h : j.outcome = .ended (st + 1) cause r) :
    exec (.commandCommit (.field f)) s = .next ((s.endJob j (st + 1) cause r).settle f) := by
  show execCommandCommit (.field f) s = _
  simp only [execCommandCommit, hj]
  rw [if_neg (by simp [hrun, hdrain, hready]), if_neg (by simpa [Job.AsksCopies] using hck), if_neg (show ¬(j.copying = true ∧ _) from hcp)]
  simp only [h]

end

/-! ### Another engine (06 R150, R152) -/

section
variable {s : State} {r : Res} (hr : ∀ f, r ≠ .field f)
include hr

theorem exec_commandCommit_engine_waits (h : (s.jobsOn r).find? (fun j => s.commitReady j) = none) :
    exec (.commandCommit r) s = .next s := by
  show execCommandCommit r s = _
  cases r with
  | field f => exact absurd rfl (hr f)
  | dma e => simp only [execCommandCommit, h]
  | loader => simp only [execCommandCommit, h]
  | render => simp only [execCommandCommit, h]
  | projector => simp only [execCommandCommit, h]

end

/-- What the command that has finished on an engine, now free of it, leaves. -/
def State.commitEngine (s : State) (j : Job) : State :=
  match j.outcome with
  | .running => s
  | .ended 0 _ res0 =>
    if j.tainted then (s.reportPoison j).endJob j 0x30 0 res0
    else (if s.saf.gate && j.cmd.cls == 0 then s else s.publish j.cmd j.wins).endJob j 0 0 res0
  | .ended st cause res0 => s.endJob j st cause res0

section
variable {s : State} {j : Job} {cause res0 : Nat}

theorem State.commitEngine_poisoned (h : j.outcome = .ended 0 cause res0) (ht : j.tainted = true) :
    s.commitEngine j = (s.reportPoison j).endJob j 0x30 0 res0 := by
  simp only [State.commitEngine, h, ht, if_true]

theorem State.commitEngine_published (h : j.outcome = .ended 0 cause res0) (ht : j.tainted = false)
    (hgate : (s.saf.gate && j.cmd.cls == 0) = false) : s.commitEngine j = (s.publish j.cmd j.wins).endJob j 0 0 res0 := by
  simp only [State.commitEngine, h, ht, hgate, Bool.false_eq_true, if_false]

theorem State.commitEngine_shut (h : j.outcome = .ended 0 cause res0) (ht : j.tainted = false)
    (hgate : (s.saf.gate && j.cmd.cls == 0) = true) : s.commitEngine j = s.endJob j 0 0 res0 := by
  simp only [State.commitEngine, h, ht, hgate, Bool.false_eq_true, if_false, if_true]

theorem State.commitEngine_badly {st : Nat} (h : j.outcome = .ended (st + 1) cause res0) :
    s.commitEngine j = s.endJob j (st + 1) cause res0 := by
  simp only [State.commitEngine, h]

end

theorem exec_commandCommit_engine {s : State} {r : Res} {j : Job} (hr : ∀ f, r ≠ .field f)
    (h : (s.jobsOn r).find? (fun j => s.commitReady j) = some j) (hend : j.outcome ≠ .running) :
    exec (.commandCommit r) s = .next ((s.freeEngine j).commitEngine j) := by
  show execCommandCommit r s = _
  cases r with
  | field f => exact absurd rfl (hr f)
  | _ =>
    simp only [execCommandCommit, h, State.commitEngine]
    cases ho : j.outcome with
    | running => exact absurd ho hend
    | ended st cause res0 =>
      cases st with
      | zero => cases j.tainted <;> rfl
      | succ st => rfl

theorem State.saf_freeEngine (s : State) (j : Job) : (s.freeEngine j).saf = s.saf := by
  unfold State.freeEngine
  split <;> rfl

/-- Settles O36: a field's row looks at the oldest command in flight alone, an engine's at the first that has finished. -/
theorem commitOrder : Obligations.CommitOrder := by
  unfold Obligations.CommitOrder
  refine ⟨fun s f => exec_commandCommit_field_empty, fun s f j rest hj => ⟨exec_commandCommit_field_waits hj, fun hrun hdrain hready =>
    ⟨exec_commandCommit_field_copies hj hrun hdrain hready, exec_commandCommit_field_copying hj hrun hdrain hready, fun hck hcp =>
      ⟨fun h => ?well, fun st cause r => exec_commandCommit_field_badly hj hrun hdrain hready hck hcp⟩⟩⟩,
    fun s r hr => ⟨exec_commandCommit_engine_waits hr, fun j hj => ⟨fun res0 cause h => ?engine, fun st cause res0 h => ?badly⟩⟩⟩
  case well =>
    have hrow := exec_commandCommit_field_well hj hrun hdrain hready hck hcp h
    exact ⟨fun ht => hrow.trans (by rw [ht]; rfl), fun ht => hrow.trans (by rw [ht]; rfl)⟩
  case engine =>
    rw [exec_commandCommit_engine hr hj (by rw [h]; nofun)]
    exact ⟨fun ht hgate => congrArg _ (State.commitEngine_published h ht (by rwa [State.saf_freeEngine])),
      fun ht hgate => congrArg _ (State.commitEngine_shut h ht (by rwa [State.saf_freeEngine])),
      fun ht => congrArg _ (State.commitEngine_poisoned h ht)⟩
  case badly => rw [exec_commandCommit_engine hr hj (by rw [h]; nofun), State.commitEngine_badly h]

end Sys2Proof.Machine
end

section
/-! What the shared operations of a field's state leave unchanged (02 R50, R55, R58). -/

namespace Sys2Proof.Machine

/-- The memories, the queues, the commands in flight and the loads of `t` are those of `s`. -/
structure State.WorkKept (s t : State) : Prop where
  mem : t.mem = s.mem
  queue : t.queue = s.queue
  flight : t.flight = s.flight
  loads : t.loads = s.loads

namespace State.WorkKept

theorem refl (s : State) : State.WorkKept s s := ⟨rfl, rfl, rfl, rfl⟩

theorem trans {s t u : State} (h : State.WorkKept s t) (k : State.WorkKept t u) : State.WorkKept s u :=
  ⟨k.mem.trans h.mem, k.queue.trans h.queue, k.flight.trans h.flight, k.loads.trans h.loads⟩

theorem foldl {α : Type} {g : State → α → State} (h : ∀ s a, State.WorkKept s (g s a)) (l : List α) (s : State) :
    State.WorkKept s (l.foldl g s) :=
  ⟨foldl_part State.mem (fun b a => (h b a).mem) l s, foldl_part State.queue (fun b a => (h b a).queue) l s,
    foldl_part State.flight (fun b a => (h b a).flight) l s, foldl_part State.loads (fun b a => (h b a).loads) l s⟩

theorem wr (s : State) (g : Fld) (v i j : Nat) : State.WorkKept s (s.wr g v i j) := ⟨rfl, rfl, rfl, rfl⟩

theorem setF (s : State) (f : Nat) (x : FldRt) : State.WorkKept s (s.setF f x) := ⟨rfl, rfl, rfl, rfl⟩

theorem setCell (s : State) (c : Nat) (x : CellSt) : State.WorkKept s (s.setCell c x) := ⟨rfl, rfl, rfl, rfl⟩

theorem jobsOn {s t : State} (h : State.WorkKept s t) (r : Res) : t.jobsOn r = s.jobsOn r :=
  congrArg (List.filter (fun j : Job => j.res == r)) h.flight

end State.WorkKept

/-! ### A field's state set -/

theorem State.clearNum_kept (s : State) (f : Nat) : State.WorkKept s (s.clearNum f) ∧ (s.clearNum f).flds = s.flds ∧
    (s.clearNum f).saf = s.saf := ⟨⟨rfl, rfl, rfl, rfl⟩, rfl, rfl⟩

/-- The registers that a field's entry into LOADING clears. -/
def numFlds : List Fld := [PLAIN_FLD_NUM.RANGE, PLAIN_FLD_NUM.NF_DROP, PLAIN_FLD_NUM.CHK_SKIP, PLAIN_FLD_NUM.FMT_ERR, PLAIN_FLD_ERR.CE_COUNT]

/-- A field of the registers at none of the places of a list. -/
def Fld.off (g : Fld) (l : List Fld) : Bool := g.placed && l.all (fun c => c.placed && g.spot != c.spot)

theorem State.rd_wr_off {g c : Fld} (s : State) (v f k : Nat) (h : g.off [c] = true) (i j : Nat) : (s.wr c v f k).rd g i j = s.rd g i j := by
  simp only [Fld.off, Bool.and_eq_true, List.all_eq_true, bne_iff_ne, List.mem_singleton, forall_eq] at h
  obtain ⟨hg, hc, hne⟩ := h
  exact State.rd_wr_ne s c g v f k i j hc hg hne

theorem Fld.off_mono {g : Fld} {l m : List Fld} (h : g.off m = true) (hl : ∀ c ∈ l, c ∈ m) : g.off l = true := by
  simp only [Fld.off, Bool.and_eq_true, List.all_eq_true] at h ⊢
  exact ⟨h.1, fun c hc => h.2 c (hl c hc)⟩

theorem State.rd_foldl_wr_off {g : Fld} {l : List Fld} (v f : Nat) (s : State) (h : g.off l = true) (i j : Nat) :
    (l.foldl (fun s c => s.wr c v f) s).rd g i j = s.rd g i j := by
  induction l generalizing s with
  | nil => rfl
  | cons c l ih =>
    exact (ih (s.wr c v f) (Fld.off_mono h fun d hd => List.mem_cons_of_mem c hd)).trans
      (s.rd_wr_off v f 0 (Fld.off_mono h fun d hd => List.mem_singleton.1 hd ▸ List.mem_cons_self) i j)

theorem State.rd_clearNum {g : Fld} (s : State) (f : Nat) (h : g.off numFlds = true) (i j : Nat) : (s.clearNum f).rd g i j = s.rd g i j :=
  State.rd_foldl_wr_off 0 f s h i j

/-- The runtime of a field with its watchdog's count at other values. -/
def FldRt.SameButWdog (x y : FldRt) : Prop := ∃ held last, y = { x with wdogHeld := held, lastProgress := last }

theorem FldRt.SameButWdog.refl (x : FldRt) : x.SameButWdog x := ⟨x.wdogHeld, x.lastProgress, rfl⟩

theorem State.wdogTurn_kept (s : State) (f st : Nat) : State.WorkKept s (s.wdogTurn f st) ∧ (s.wdogTurn f st).regs = s.regs ∧
    (s.wdogTurn f st).saf = s.saf ∧ (s.frt f).SameButWdog ((s.wdogTurn f st).frt f) := by
  unfold State.wdogTurn
  split
  · exact ⟨.setF s f _, rfl, rfl, _, _, State.frt_setF s f _⟩
  · exact ⟨.refl s, rfl, rfl, .refl _⟩

theorem State.refreshGold_eq (s : State) (f : Nat) : ∃ settled on,
    s.refreshGold f = ({ s with saf := { s.saf with settled := settled } } : State).wr SAF_GOLD.ENABLE (b2n on) f := by
  unfold State.refreshGold
  dsimp only
  generalize (s.flag SAF_GOLD.ARM f && s.flag SAF_GOLD.BUDGET_US f && _ && _ && s.isSafety f) = on
  split
  · exact ⟨_, on, rfl⟩
  · exact ⟨s.saf.settled, on, rfl⟩

theorem State.refreshGold_kept (s : State) (f : Nat) : State.WorkKept s (s.refreshGold f) ∧ (s.refreshGold f).flds = s.flds ∧
    (s.refreshGold f).saf.unresolved = s.saf.unresolved := by
  obtain ⟨settled, on, h⟩ := s.refreshGold_eq f
  rw [h]
  exact ⟨⟨rfl, rfl, rfl, rfl⟩, rfl, rfl⟩

theorem State.rd_refreshGold {g : Fld} (s : State) (f : Nat) (h : g.off [SAF_GOLD.ENABLE] = true) (i j : Nat) :
    (s.refreshGold f).rd g i j = s.rd g i j := by
  obtain ⟨settled, on, he⟩ := s.refreshGold_eq f
  rw [he]
  exact State.rd_wr_off _ (b2n on) f 0 h i j

/-- The registers that change as a field's state is set. -/
def stateFlds : List Fld := PLAIN_FLD_STATE.STATE :: SAF_GOLD.ENABLE :: numFlds

theorem State.enteredLoading_kept (s : State) (f st : Nat) : State.WorkKept s (if st = stLoading then s.clearNum f else s) ∧
    (if st = stLoading then s.clearNum f else s).flds = s.flds ∧
    (if st = stLoading then s.clearNum f else s).saf = s.saf := by
  split
  · exact s.clearNum_kept f
  · exact ⟨.refl s, rfl, rfl⟩

section
variable (s : State) (f st : Nat)

theorem State.setState_kept : State.WorkKept s (s.setState f st) :=
  (((s.enteredLoading_kept f st).1.trans (State.wdogTurn_kept _ f st).1).trans (.wr _ _ _ _ _)).trans (State.refreshGold_kept _ f).1

theorem State.frt_setState : (s.frt f).SameButWdog ((s.setState f st).frt f) := by
  obtain ⟨-, hflds, -⟩ := s.enteredLoading_kept f st
  obtain ⟨-, -, -, held, last, h⟩ := State.wdogTurn_kept (if st = stLoading then s.clearNum f else s) f st
  obtain ⟨-, hgold, -⟩ := State.refreshGold_kept
    (((if st = stLoading then s.clearNum f else s).wdogTurn f st).wr PLAIN_FLD_STATE.STATE st f) f
  have hsame : State.frt (if st = stLoading then s.clearNum f else s) f = s.frt f := congrArg (fun l => Sparse.look FldRt.rest l f) hflds
  have hset : (s.setState f st).frt f = ((if st = stLoading then s.clearNum f else s).wdogTurn f st).frt f :=
    congrArg (fun l => Sparse.look FldRt.rest l f) hgold
  exact ⟨held, last, by rw [hset, h, hsame]⟩

theorem State.unresolved_setState : (s.setState f st).saf.unresolved = s.saf.unresolved :=
  (State.refreshGold_kept _ f).2.2.trans <| (congrArg (fun x => x.unresolved) (State.wdogTurn_kept _ f st).2.2.1).trans
    (congrArg (fun x => x.unresolved) (s.enteredLoading_kept f st).2.2)

theorem State.rd_setState {g : Fld} (h : g.off stateFlds = true) (i j : Nat) : (s.setState f st).rd g i j = s.rd g i j := by
  unfold State.setState
  have hnum : g.off numFlds = true := Fld.off_mono h fun c hc => List.mem_cons_of_mem _ (List.mem_cons_of_mem _ hc)
  rw [State.rd_refreshGold _ f (Fld.off_mono h (by decide)), State.rd_wr_off _ st f 0 (Fld.off_mono h (by decide)),
    State.rd_congr _ _ (State.wdogTurn_kept _ f st).2.1]
  split
  · exact s.rd_clearNum f hnum i j
  · rfl

theorem State.fState_setState (h : st < 8) : (s.setState f st).fState f = st := by
  unfold State.setState State.fState
  rw [State.rd_refreshGold _ f (by decide), State.rd_wr_same]
  exact Nat.mod_eq_of_lt h

end

/-! ### Cells, counts and refunds -/

theorem State.regs_setCell (s : State) (c : Nat) (x : CellSt) : (s.setCell c x).regs = s.regs := rfl

theorem State.flds_setCell (s : State) (c : Nat) (x : CellSt) : (s.setCell c x).flds = s.flds := rfl

theorem State.onCells_kept (s : State) (f : Nat) (g : CellSt → CellSt) : State.WorkKept s (s.onCells f g) ∧
    (s.onCells f g).regs = s.regs ∧ (s.onCells f g).flds = s.flds :=
  ⟨.foldl (fun _ _ => .setCell _ _ _) _ _, foldl_part State.regs (fun (s : State) c => State.regs_setCell s c (g (s.cell c))) _ _,
    foldl_part State.flds (fun (s : State) c => State.flds_setCell s c (g (s.cell c))) _ _⟩

end Sys2Proof.Machine
end

section
/-! Admission, pre-emption and the field commands (02 R52, R53, 06 R145, R146, R148, R153). -/

namespace Sys2Proof.Machine

/-! ### What a read access leaves (06 R163, 12 R302) -/

section
variable {γ : Type} {g : State → γ} (hg : ∀ s r m v st, g { s with regs := r, mem := m, vefs := v, std := st } = g s)
include hg

theorem State.part_iommuFault (s : State) (dev : Nat) (pid : Option Nat) (iova : Nat) (write : Bool) :
    g (s.iommuFault dev pid iova write) = g s := by
  unfold State.iommuFault
  dsimp only
  split
  · rfl
  · split
    · exact hg s s.regs s.mem s.vefs _
    · exact (hg _ _ _ _ _).trans (State.part_memWrite (fun t r m => hg t r m t.vefs t.std) _ _ _)

theorem State.part_noteDeny (s : State) (c : Ctx) (a : Nat) (write : Bool) (d : Option Deny) : g (s.noteDeny c a write d) = g s := by
  cases d with
  | none => rfl
  | some d =>
    cases c with
    | phys => rfl
    | hyp st p => exact State.part_iommuFault hg s st p a write
    | vef v st p =>
      cases d with
      | iommu => exact (State.part_iommuFault hg _ st p a write).trans (hg s _ s.mem s.vefs s.std)
      | region => exact hg s _ s.mem s.vefs s.std

theorem State.part_noteAccess (s : State) (c : Ctx) (a n : Nat) (write : Bool) : g (s.noteAccess c a n write) = g s := by
  cases c with
  | phys =>
    show g (s.noteOut a n) = g s
    unfold State.noteOut
    split
    · rfl
    · exact hg s _ s.mem s.vefs s.std
  | vef v st p =>
    refine Eq.trans ?_ (State.part_noteDeny hg s (.vef v st p) a write (s.ctxDeny (.vef v st p) a n write))
    show g (State.charge _ v _) = _
    unfold State.charge
    split
    · rfl
    · exact hg _ _ _ _ _
  | hyp st p =>
    refine Eq.trans ?_ (State.part_noteDeny hg s (.hyp st p) a write (s.ctxDeny (.hyp st p) a n write))
    unfold State.noteAccess
    dsimp only
    split
    · exact hg _ _ _ _ _
    · rfl

theorem State.part_readWordErr (s : State) (w : Nat) : g (s.readWordErr w) = g s := by
  obtain h | h | h : Sparse.look 0 s.mem.hbmErr w = 0 ∨ Sparse.look 0 s.mem.hbmErr w = 1 ∨ 2 ≤ Sparse.look 0 s.mem.hbmErr w := by omega
  · rw [State.readWordErr_none h]
  · rw [State.readWordErr_single h]
    exact hg s _ _ s.vefs s.std
  · rw [State.readWordErr_double h]
    exact hg s _ s.mem s.vefs s.std

/-- A read access leaves every part of the state that reads neither registers, memories, accounts nor the IOMMU's words. -/
theorem State.part_ctxTouch (s : State) (c : Ctx) (a n : Nat) : g (s.ctxTouch c a n) = g s := by
  refine (foldl_part g (fun t k => ?_) _ _).trans (State.part_noteAccess hg s c a n false)
  dsimp only
  split
  · split
    · split
      · exact State.part_readWordErr hg t _
      · rfl
    · rfl
  · rfl

end

/-! ### A command taken up (06 R148, 02 R50) -/

theorem State.fieldOpen_state {s : State} {f : Fin 17} (h : s.fieldOpen f = true) : s.fState f = stIdle ∨ s.fState f = stRunning := by
  simp only [State.fieldOpen, Bool.and_eq_true, Bool.or_eq_true, beq_iff_eq, and_assoc] at h
  exact h.1

theorem State.seedField_kept (s : State) (f : Fin 17) : State.WorkKept s (s.seedField f) ∧ (s.seedField f).regs = s.regs := by
  obtain ⟨hkept, hregs, -⟩ := s.drawn.onCells_kept f (fun c => { c with rowstat := [], lfsr := [], seed := s.freeCount, chk := [] })
  exact ⟨⟨hkept.mem, hkept.queue, hkept.flight, hkept.loads⟩, hregs⟩

/-- A field in IDLE turns to RUNNING, and one that runs stays so. -/
theorem State.turnRunning_facts {s : State} {f : Nat} (h : s.fState f = stIdle ∨ s.fState f = stRunning) :
    State.WorkKept s (if s.fState f = stIdle then s.setState f stRunning else s) ∧
    (if s.fState f = stIdle then s.setState f stRunning else s).fState f = stRunning := by
  split
  next hidle => exact ⟨s.setState_kept f stRunning, s.fState_setState f stRunning (by decide)⟩
  next hidle => exact ⟨.refl s, h.resolve_left hidle⟩

theorem State.fState_countFlight (s : State) (f : Fin 17) : (s.countFlight f).fState f = s.fState f :=
  s.rd_wr_off _ f 0 (by decide) f 0

/-- A field that takes a command up from IDLE or RUNNING is RUNNING, with the command the last in flight. -/
theorem State.admitField_facts {s : State} {f : Fin 17} (j : Job) (h : s.fState f = stIdle ∨ s.fState f = stRunning) :
    (s.admitField f j).fState f = stRunning ∧ (s.admitField f j).flight = s.flight ++ [j] ∧ (s.admitField f j).queue = s.queue := by
  obtain ⟨hseed, hregs⟩ := State.seedField_kept { s with flight := s.flight ++ [j] } f
  have hst : (State.seedField { s with flight := s.flight ++ [j] } f).fState f = s.fState f := State.rd_congr _ _ hregs _ f 0
  obtain ⟨hturn, hrunning⟩ := State.turnRunning_facts (s := State.seedField { s with flight := s.flight ++ [j] } f) (by rwa [hst])
  have hkept := hseed.trans hturn
  unfold State.admitField
  dsimp only
  rw [State.fState_countFlight]
  split
  · exact ⟨hrunning, hkept.flight, hkept.queue⟩
  · exact ⟨hrunning, hkept.flight, hkept.queue⟩

theorem State.takeUp_field {s : State} {f : Fin 17} (c : Cmd) (h : s.fieldOpen f = true) :
    (s.takeUp (.field f) c).fState f = stRunning ∧ (s.takeUp (.field f) c).flight = s.flight ++ [c.job (.field f) s.localNs] ∧
    (s.takeUp (.field f) c).queue = s.queue.filter (fun q => q.2.serial != c.serial) := by
  obtain ⟨hst, hflight, hqueue⟩ := State.admitField_facts (s := s.dequeue c.serial)
    (c.job (.field f) (s.dequeue c.serial).localNs) (State.fieldOpen_state h)
  exact ⟨hst, hflight.trans (by rw [State.localNs_congr (s := s) (t := s.dequeue c.serial) rfl]; rfl), hqueue⟩

theorem State.takeCores_kept (s : State) : State.WorkKept s s.takeCores := by
  refine .foldl (fun t c => ?_) _ s
  dsimp only
  split
  · exact (State.WorkKept.wr t _ _ _ _).trans (.wr _ _ _ _ _)
  · exact .refl t

theorem State.takeUp_render (s : State) (c : Cmd) : (s.takeUp .render c).flight = s.flight ++ [c.job .render s.localNs] ∧
    (s.takeUp .render c).queue = s.queue.filter (fun q => q.2.serial != c.serial) := by
  have hkept := (s.dequeue c.serial).takeCores_kept
  have htime := State.localNs_congr (s := s) (t := s.dequeue c.serial) rfl
  simp only [State.takeUp, htime, hkept.flight, hkept.queue]
  exact ⟨rfl, rfl⟩

theorem State.takeUp_projector (s : State) (c : Cmd) :
    (s.takeUp .projector c).flight = s.flight ++ [((s.dequeue c.serial).withCal c).job .projector s.localNs] ∧
    (s.takeUp .projector c).queue = s.queue.filter (fun q => q.2.serial != c.serial) := by
  have htime := State.localNs_congr (s := s) (t := s.dequeue c.serial) rfl
  have hflight := State.part_ctxTouch (g := State.flight) (fun _ _ _ _ _ => rfl) (s.dequeue c.serial) c.ctx (c.op 0x28 8) calSize
  have hqueue := State.part_ctxTouch (g := State.queue) (fun _ _ _ _ _ => rfl) (s.dequeue c.serial) c.ctx (c.op 0x28 8) calSize
  simp only [State.takeUp, htime]
  split
  · rw [hflight, hqueue]
    exact ⟨rfl, rfl⟩
  · exact ⟨rfl, rfl⟩

/-! ### A resource takes up its next command (06 R148) -/

section
variable {s : State} {r : Res}

theorem State.admitNext_none (h : s.pick r [0, 1, 2, 3] = none) : s.admitNext r = s := by
  simp only [State.admitNext, h]

theorem State.admitNext_takeUp {c : Cmd} (h : s.pick r [0, 1, 2, 3] = some (c, .takeUp)) : s.admitNext r = s.takeUp r c := by
  simp only [State.admitNext, h]

theorem State.admitNext_finish {c : Cmd} {st cause : Nat} (h : s.pick r [0, 1, 2, 3] = some (c, .finish st cause)) :
    s.admitNext r = s.endQueued c st cause 0 := by
  simp only [State.admitNext, h]

end

theorem exec_admission_out {s : State} (r : Res) (h : s.fwOut 2 = true) :
    exec (.commandAdmit r) s = .next s ∧ exec (.preemptKill r) s = .next s := ⟨if_pos h, if_pos h⟩

theorem exec_commandAdmit_loader (s : State) : exec (.commandAdmit .loader) s = .next s := ite_self _

theorem exec_commandAdmit_field {s : State} (f : Fin 17) (h : s.fwOut 2 = false) : exec (.commandAdmit (.field f)) s =
    .next (if (s.resolveHeads f).fieldOpen f then (s.resolveHeads f).admitNext (.field f) else s.resolveHeads f) := by
  show execCommandAdmit (.field f) s = _
  simp only [execCommandAdmit, h, Bool.false_eq_true, if_false]
  split <;> rfl

theorem exec_commandAdmit_dma_waits {s : State} {e : Fin 4} (h : s.dmaHead e [0, 1, 2, 3] = none ∨ s.idleChannel e = none) :
    exec (.commandAdmit (.dma e)) s = .next s := by
  show execCommandAdmit (.dma e) s = _
  unfold execCommandAdmit
  split
  · rfl
  · obtain h | h := h
    · simp only [h]
    · simp only [State.assign, h]
      split <;> rfl

theorem State.assign_facts {s : State} {e : Fin 4} {k : Nat} (c : Cmd) (h : s.idleChannel e = some k) :
    (s.assign e c).flag DMA_CH_CTL.BUSY k = true ∧ (s.assign e c).rd DMA_CH_BYTES.BYTES k = 0 ∧
    (s.assign e c).flight = s.flight ++ [{ c.job (.dma e) s.localNs with chan := k }] ∧
    (s.assign e c).queue = s.queue.filter (fun q => q.2.serial != c.serial) := by
  have htime := State.localNs_congr (s := s) (t := s.dequeue c.serial) rfl
  simp only [State.assign, h, htime]
  refine ⟨?_, State.rd_wr_same _ DMA_CH_BYTES.BYTES 0 k 0, rfl, rfl⟩
  rw [State.flag, State.rd_wr_off _ 0 k 0 (by decide), State.rd_wr_off _ c.vef k 0 (by decide), State.rd_wr_same]
  rfl

theorem exec_commandAdmit_dma {s : State} {e : Fin 4} {c : Cmd} (hfw : s.fwOut 2 = false) (hc : s.dmaHead e [0, 1, 2, 3] = some c) :
    exec (.commandAdmit (.dma e)) s = .next (s.assign e c) := by
  show execCommandAdmit (.dma e) s = _
  simp only [execCommandAdmit, hfw, hc, Bool.false_eq_true, if_false]

theorem exec_commandAdmit_engine {s : State} {r : Res} {i : Nat} (hfw : s.fwOut 2 = false) (hi : killIndex r = some i) :
    exec (.commandAdmit r) s = .next (if (Sparse.look none s.engKill i).isSome then s else s.admitNext r) := by
  show execCommandAdmit r s = _
  cases r with
  | render =>
    obtain rfl := Option.some.inj hi
    simp only [execCommandAdmit, hfw, Bool.false_eq_true, if_false, if_true]
    exact (apply_ite Host.Outcome.next _ _ _).symm
  | projector =>
    obtain rfl := Option.some.inj hi
    simp only [execCommandAdmit, hfw, Bool.false_eq_true, if_false, reduceCtorEq]
    exact (apply_ite Host.Outcome.next _ _ _).symm
  | _ => exact nomatch hi

/-! ### Pre-emption (06 R153, R154) -/

section
variable {s : State} (hfw : s.fwOut 2 = false)
include hfw

theorem exec_preemptKill_none {r : Res} (h : s.preempts r = false) : exec (.preemptKill r) s = .next s := by
  show execPreemptKill r s = _
  simp only [execPreemptKill, hfw, h, Bool.false_eq_true, if_false, Bool.not_false, if_true]

theorem exec_preemptKill_field {f : Fin 17} (h : s.preempts (.field f) = true) : exec (.preemptKill (.field f)) s =
    .next (if s.fState f = stRunning ∧ (s.frt f).faultDrain = false ∧ s.wdogDue f = false then s.killField f else s) := by
  show execPreemptKill (.field f) s = _
  simp only [execPreemptKill, hfw, h, Bool.false_eq_true, if_false, Bool.not_true, Bool.not_eq_true']
  exact (apply_ite Host.Outcome.next _ _ _).symm

theorem exec_preemptKill_other {r : Res} (h : s.preempts r = true) (hr : ∀ f, r ≠ .field f) (hi : killIndex r = none) :
    exec (.preemptKill r) s = .next s := by
  show execPreemptKill r s = _
  cases r with
  | field f => exact absurd rfl (hr f)
  | render => exact nomatch hi
  | projector => exact nomatch hi
  | dma e => simp only [execPreemptKill, hfw, h, hi, Bool.false_eq_true, if_false, Bool.not_true]
  | loader => simp only [execPreemptKill, hfw, h, hi, Bool.false_eq_true, if_false, Bool.not_true]

theorem exec_preemptKill_engine {r : Res} {i : Nat} (h : s.preempts r = true) (hi : killIndex r = some i)
    (hk : Sparse.look none s.engKill i = none) :
    exec (.preemptKill r) s = .next { s with engKill := Sparse.put none s.engKill i (some s.localNs) } := by
  show execPreemptKill r s = _
  cases r with
  | render => simp only [execPreemptKill, hfw, h, hi, hk, Bool.false_eq_true, if_false, Bool.not_true]
  | projector => simp only [execPreemptKill, hfw, h, hi, hk, Bool.false_eq_true, if_false, Bool.not_true]
  | _ => exact nomatch hi

theorem exec_preemptKill_killing {r : Res} {i : Nat} (h : s.preempts r = true) (hi : killIndex r = some i)
    (hk : (Sparse.look none s.engKill i).isSome = true) : exec (.preemptKill r) s = .next s := by
  obtain ⟨t, ht⟩ := Option.isSome_iff_exists.1 hk
  show execPreemptKill r s = _
  cases r with
  | render => simp only [execPreemptKill, hfw, h, hi, ht, Bool.false_eq_true, if_false, Bool.not_true]
  | projector => simp only [execPreemptKill, hfw, h, hi, ht, Bool.false_eq_true, if_false, Bool.not_true]
  | _ => exact nomatch hi

end

theorem State.killField_draining {s : State} {f : Fin 17} (h : (s.jobsOn (.field f)).any (fun j => tableOp j.cmd.opcode) = false) :
    (s.killField f).fState f = stDraining := by
  simp only [State.killField, h, Bool.false_eq_true, if_false]
  exact State.fState_setState _ f stDraining (by decide)

/-! ### The field commands begin (06 R145, R146) -/

section
variable {s : State} {f : Fin 17}

theorem exec_fieldCommands_none : (s.unstarted (.field f) 0x30 = none → exec (.infer f) s = .next s) ∧
    (s.unstarted (.field f) 0x31 = none → exec (.frame f) s = .next s) ∧
    (s.unstarted (.field f) 0x22 = none → exec (.fieldCheckpoint f) s = .next s) := by
  refine ⟨fun h => ?_, fun h => ?_, fun h => ?_⟩
  · show execInfer f s = _
    simp only [execInfer, h]
  · show execFrame f s = _
    simp only [execFrame, h]
  · show execFieldCheckpoint f s = _
    simp only [execFieldCheckpoint, h]

theorem exec_fieldCommands_some {j : Job} : (s.unstarted (.field f) 0x30 = some j → exec (.infer f) s = .next (s.startWindows f j)) ∧
    (s.unstarted (.field f) 0x31 = some j → exec (.frame f) s = .next (s.startWindows f j)) ∧
    (s.unstarted (.field f) 0x22 = some j → exec (.fieldCheckpoint f) s =
      .next ((s.startCopies f).changeJob j.cmd.serial (fun j => { j with started := true, copying := true, outcome := .ended 0 0 0 }))) := by
  refine ⟨fun h => ?_, fun h => ?_, fun h => ?_⟩
  · show execInfer f s = _
    simp only [execInfer, h]
  · show execFrame f s = _
    simp only [execFrame, h]
  · show execFieldCheckpoint f s = _
    simp only [execFieldCheckpoint, h]

theorem State.startWindows_refused {j : Job} {e : Nat} (h : s.bufList j.cmd j.cmd.bufOp.1 j.cmd.bufOp.2 = .error e) :
    s.startWindows f j = (s.bufTouch j.cmd j.cmd.bufOp.1 j.cmd.bufOp.2).refuseJob j.cmd.serial e := by
  simp only [State.startWindows, h]

theorem State.startWindows_begun {j : Job} {ws : List Win} (h : s.bufList j.cmd j.cmd.bufOp.1 j.cmd.bufOp.2 = .ok ws) :
    s.startWindows f j = ((s.bufTouch j.cmd j.cmd.bufOp.1 j.cmd.bufOp.2).changeJob j.cmd.serial
      (fun j => { j with started := true, wins := ws })).startCells f j.cmd.serial := by
  simp only [State.startWindows, h]

/-! ### Release and detach (02 R53) -/

theorem exec_fieldRelease_none (h : (List.range 4).findSome? (fun cls => s.headIs (.field f) cls 0x21) = none) :
    exec (.fieldRelease f) s = .next s := by
  show execFieldRelease f s = _
  simp only [execFieldRelease, h]

theorem exec_fieldRelease_some {c : Cmd} (h : (List.range 4).findSome? (fun cls => s.headIs (.field f) cls 0x21) = some c) :
    exec (.fieldRelease f) s = .next (if s.waits c || !s.vefRuns c.vef then s
      else if c.op 0x30 4 / 65536 ≠ s.rd PLAIN_FLD_STATE.GENERATION f then s.endQueued c 0x21 0 0
      else (s.dequeue c.serial).setF f { s.frt f with releases := (s.frt f).releases ++ [c] }) := by
  show execFieldRelease f s = _
  simp only [execFieldRelease, h]
  rw [apply_ite Host.Outcome.next, apply_ite Host.Outcome.next]

theorem exec_fieldDetach_eq (v : Fin 129) : exec (.fieldDetach f v) s =
    if (s.frt f).releases.any (fun c => c.vef == v.val) = true ∧ (s.jobsOn (.field f)).any (fun j => j.cmd.vef == v.val && !j.golden) = false ∧
      s.fState f ≠ stLoading ∧ s.fState f ≠ stDraining ∧ (s.frt f).faultDrain = false ∧ s.sliceIn f = false then
      .next ((s.dropReleases f (fun c => c.vef == v.val) 0).detach f v false [])
    else .next s := by
  show execFieldDetach f v s = _
  simp only [execFieldDetach, Bool.and_eq_true, Bool.not_eq_true', bne_iff_ne, and_assoc]

end

/-- Settles O35: admission takes the head that the gate lets through, pre-emption is decided on the oldest command in flight, and a
release waits in its field until its VEF has nothing left there. -/
theorem admissionAndPreemption : Obligations.AdmissionAndPreemption := by
  unfold Obligations.AdmissionAndPreemption
  refine ⟨fun s r => ⟨exec_admission_out r, exec_commandAdmit_loader s⟩,
    fun s f hfw => ⟨fun h => ?fieldIdle, fun c hopen => ⟨fun st cause h => ?fieldEnded, fun h => ?fieldTaken⟩⟩,
    fun s e hfw => ⟨exec_commandAdmit_dma_waits, fun c k hc hk => ⟨_, exec_commandAdmit_dma hfw hc, State.assign_facts c hk⟩⟩,
    fun s r i hfw hi => ⟨fun h => ?engineIdle, fun c hkill => ⟨fun h => ?engineTaken, fun st cause h => ?engineEnded⟩⟩,
    fun s r hfw => ⟨exec_preemptKill_none hfw, fun h => ⟨fun f hr => ?preemptField, fun i hi => ?preemptEngine, fun hr hi => ?preemptNone⟩⟩,
    fun s f => ?begun, fun s f => ⟨exec_fieldRelease_none, fun c h => ⟨fun hwait => ?releaseWaits, fun hwait hruns => ⟨fun hgen => ?gone, fun hgen => ?released⟩⟩⟩,
    fun s f v => ⟨fun h => ?held, fun hrel hjobs hload hdrain hfault hslice => ?detached⟩⟩
  case fieldIdle =>
    rw [exec_commandAdmit_field f hfw]
    obtain h | h := h
    · rw [h, if_neg Bool.false_ne_true]
    · rw [State.admitNext_none h, ite_self]
  case fieldEnded => rw [exec_commandAdmit_field f hfw, if_pos hopen, State.admitNext_finish h]
  case fieldTaken => exact ⟨_, by rw [exec_commandAdmit_field f hfw, if_pos hopen, State.admitNext_takeUp h], State.takeUp_field c hopen⟩
  case engineIdle =>
    rw [exec_commandAdmit_engine hfw hi]
    obtain h | h := h
    · rw [if_pos h]
    · rw [State.admitNext_none h, ite_self]
  case engineTaken =>
    have hrow : exec (.commandAdmit r) s = .next (s.takeUp r c) := by
      rw [exec_commandAdmit_engine hfw hi, hkill, if_neg (by decide), State.admitNext_takeUp h]
    refine ⟨_, hrow, ?_⟩
    cases r with
    | render =>
      obtain ⟨hflight, hqueue⟩ := s.takeUp_render c
      exact ⟨hqueue, fun _ => hflight, nofun⟩
    | projector =>
      obtain ⟨hflight, hqueue⟩ := s.takeUp_projector c
      exact ⟨hqueue, nofun, fun _ => hflight⟩
    | _ => exact nomatch hi
  case engineEnded => rw [exec_commandAdmit_engine hfw hi, hkill, if_neg (by decide), State.admitNext_finish h]
  case preemptField =>
    subst hr
    refine ⟨fun hrun hfault hwdog => ⟨_, ?_, rfl, State.killField_draining⟩, fun hnot => ?_⟩
    · rw [exec_preemptKill_field hfw h, if_pos ⟨hrun, hfault, hwdog⟩]
    · rw [exec_preemptKill_field hfw h, if_neg]
      rintro ⟨hrun, hfault, hwdog⟩
      obtain hn | hn | hn := hnot
      · exact hn hrun
      · exact absurd (hfault.symm.trans hn) (by decide)
      · exact absurd (hwdog.symm.trans hn) (by decide)
  case preemptEngine => exact ⟨exec_preemptKill_engine hfw h hi, exec_preemptKill_killing hfw h hi⟩
  case preemptNone => exact exec_preemptKill_other hfw h hr hi
  case begun =>
    obtain ⟨hinfer, hframe, hcheckpoint⟩ := exec_fieldCommands_none (s := s) (f := f)
    refine ⟨hinfer, hframe, hcheckpoint, fun j => ?_⟩
    obtain ⟨hinfer, hframe, hcheckpoint⟩ := exec_fieldCommands_some (s := s) (f := f) (j := j)
    exact ⟨hinfer, hframe, fun _ => ⟨fun e => State.startWindows_refused, fun ws => State.startWindows_begun⟩, hcheckpoint⟩
  case releaseWaits => rw [exec_fieldRelease_some h, if_pos (by simpa using hwait)]
  case gone => rw [exec_fieldRelease_some h, if_neg (by simp [hwait, hruns]), if_pos hgen]
  case released => rw [exec_fieldRelease_some h, if_neg (by simp [hwait, hruns]), if_neg (not_not_intro hgen)]
  case held =>
    rw [exec_fieldDetach_eq, if_neg]
    rintro ⟨hrel, hjobs, hload, hdrain, hfault, hslice⟩
    simp [hrel, hjobs, hload, hdrain, hfault, hslice] at h
  case detached => rw [exec_fieldDetach_eq, if_pos ⟨hrel, hjobs, hload, hdrain, hfault, hslice⟩]

end Sys2Proof.Machine
end

section
/-! The phases of a load and re-initialisation (02 R50, R51, 04 R104, R106, R451, 10 R264). -/

namespace Sys2Proof.Machine

/-! ### Writes of registers alone -/

/-- `t` is `s` with registers at the places of a list written, and nothing else. -/
structure State.Wrote (l : List Fld) (s t : State) : Prop where
  rest : t = { s with regs := t.regs }
  others : ∀ g : Fld, g.off l = true → ∀ i j, t.rd g i j = s.rd g i j

namespace State.Wrote
variable {l : List Fld} {s t u : State}

theorem refl (l : List Fld) (s : State) : State.Wrote l s s := ⟨rfl, fun _ _ _ _ => rfl⟩

theorem trans (h : State.Wrote l s t) (k : State.Wrote l t u) : State.Wrote l s u :=
  ⟨k.rest.trans (by rw [h.rest]), fun g hg i j => (k.others g hg i j).trans (h.others g hg i j)⟩

theorem wr (h : State.Wrote l s t) {c : Fld} (v i j : Nat) (hc : c ∈ l) : State.Wrote l s (t.wr c v i j) :=
  h.trans ⟨rfl, fun _ hg i' j' => t.rd_wr_off v i j (Fld.off_mono hg fun _ hd => List.mem_singleton.1 hd ▸ hc) i' j'⟩

theorem foldl {α : Type} {f : State → α → State} (h : ∀ t a, State.Wrote l t (f t a)) (as : List α) (s : State) :
    State.Wrote l s (as.foldl f s) := by
  induction as generalizing s with
  | nil => exact refl l s
  | cons a as ih => exact (h s a).trans (ih (f s a))

theorem kept (h : State.Wrote l s t) : State.WorkKept s t := by
  rw [h.rest]
  exact ⟨rfl, rfl, rfl, rfl⟩

theorem frt (h : State.Wrote l s t) (f : Nat) : t.frt f = s.frt f := by
  rw [h.rest]
  rfl

end State.Wrote

/-! ### Entering LOADING (02 R42, R50, R51) -/

/-- The registers that a placed image sets. -/
def cfgFlds : List Fld :=
  [PLAIN_FLD_CFG.CLASS, PLAIN_FLD_CFG.PIPE_DEPTH_M1, PLAIN_FLD_CFG.ORIGIN_X, PLAIN_FLD_CFG.ORIGIN_Y, PLAIN_FLD_CFG.WIDTH_M1, PLAIN_FLD_CFG.HEIGHT_M1,
   PLAIN_FLD_WIN.BASE, PLAIN_FLD_WIN.LENGTH_4K, PLAIN_FLD_WIN.READ, PLAIN_FLD_WIN.WRITE, PLAIN_FLD_WIN.TRANSLATE, PLAIN_FLD_WIN.VEF]

theorem State.wrote_configure (s : State) (l : Load) : State.Wrote cfgFlds s (s.configure l) := by
  have hclass := ((State.Wrote.refl cfgFlds s).wr (c := PLAIN_FLD_CFG.CLASS) (b2n (l.cls == 0)) l.field 0 (by decide)).wr
    (c := PLAIN_FLD_CFG.PIPE_DEPTH_M1) (l.image.pipeDepth - 1) l.field 0 (by decide)
  refine State.Wrote.trans ?_ (.foldl (fun t w => ?_) _ _)
  · split
    · exact hclass
    · exact (((hclass.wr _ _ _ (by decide)).wr _ _ _ (by decide)).wr _ _ _ (by decide)).wr _ _ _ (by decide)
  · exact ((((((State.Wrote.refl cfgFlds t).wr _ _ _ (by decide)).wr _ _ _ (by decide)).wr _ _ _ (by decide)).wr _ _ _
      (by decide)).wr _ _ _ (by decide)).wr _ _ _ (by decide)

/-- The registers that a field's entry into LOADING sets before its state. -/
def loadFlds : List Fld :=
  [SAF_GOLD.SKIPS, SAF_GOLD.RUNS, SAF_GOLD.FAILS, SAF_GOLD.SKIPPED, PLAIN_FLD_STATE.GENERATION, BIST_UNIT.STATE]

/-- The state as a field enters LOADING, before the field itself is set: golden counters, GENERATION and SPARE clusters. -/
def State.loadReadied (s : State) (l : Load) : State :=
  let t := s.clearGold l.field
  let t := if (s.frt l.field).lastDigest = some l.image.digest then t else t.incWrap PLAIN_FLD_STATE.GENERATION l.field
  (l.clusters.filter (fun k => !l.image.excluded.contains k)).foldl (fun t k =>
    if t.rd BIST_UNIT.STATE k = 3 then t.wr BIST_UNIT.STATE 0 k else t) t

/-- The field of a load as the load enters LOADING. -/
def FldRt.loading (x : FldRt) (l : Load) : FldRt :=
  { x with image := some l.image, lastDigest := some l.image.digest, fenced := true, needReinit := false, ckptLast := false,
           heldRecs := [], wdogHeld := 0 }

theorem State.wrote_loadReadied (s : State) (l : Load) : State.Wrote loadFlds s (s.loadReadied l) := by
  have hgold : State.Wrote loadFlds s (s.clearGold l.field) :=
    ((((State.Wrote.refl loadFlds s).wr _ _ _ (by decide)).wr _ _ _ (by decide)).wr _ _ _ (by decide)).wr _ _ _ (by decide)
  refine State.Wrote.trans ?_ (.foldl (fun t k => ?_) _ _)
  · split
    · exact hgold
    · exact hgold.wr _ _ _ (by decide)
  · split
    · exact (State.Wrote.refl _ t).wr _ _ _ (by decide)
    · exact .refl _ t

theorem State.enterLoading_eq (s : State) (l : Load) :
    let u := (((s.loadReadied l).setF l.field (((s.loadReadied l).frt l.field).loading l)).setState l.field stLoading).configure l
    s.enterLoading l = { u with loads := u.loads ++ [l] } := rfl

theorem State.enterLoading_facts (s : State) (l : Load) : (s.enterLoading l).loads = s.loads ++ [l] ∧
    (s.enterLoading l).fState l.field = stLoading ∧ ((s.enterLoading l).frt l.field).fenced = true ∧
    ((s.enterLoading l).frt l.field).image = some l.image := by
  have hready := s.wrote_loadReadied l
  obtain ⟨held, last, hfrt⟩ := ((s.loadReadied l).setF l.field (((s.loadReadied l).frt l.field).loading l)).frt_setState l.field stLoading
  have hconf := State.wrote_configure
    (((s.loadReadied l).setF l.field (((s.loadReadied l).frt l.field).loading l)).setState l.field stLoading) l
  have hkept := (hready.kept.trans (.setF _ _ _)).trans ((State.setState_kept _ l.field stLoading).trans hconf.kept)
  have hset := (hconf.frt l.field).trans hfrt
  rw [State.frt_setF] at hset
  rw [State.enterLoading_eq]
  refine ⟨congrArg (· ++ [l]) hkept.loads, ?_, ?_, ?_⟩
  · exact (hconf.others _ (by decide) l.field 0).trans (State.fState_setState _ l.field stLoading (by decide))
  · exact congrArg FldRt.fenced hset
  · exact congrArg FldRt.image hset

theorem State.startLoad_powered {s : State} {f : Fin 17} {l : Load}
    (h : (l.clusters.any (fun k => s.flag PWR_DOM.FAIL (clusterDomain k))) = false) : s.startLoad f l = s.enterLoading l :=
  if_neg (by rw [h]; decide)

/-! ### The stitch phase and the end of a load (04 R90, R104, R106) -/

theorem exec_stitchPhaseStart_out {s : State} (h : s.fwOut 3 = true) : exec .stitchPhaseStart s = .next s := if_pos h

/-- The state once the stitch phase in progress has ended. -/
def State.stitchEnded (s : State) : State :=
  match s.loads.find? (fun l => l.phase == .stitch) with
  | some l => s.endStitch l
  | none => s

/-- The stitch entries of a load streamed: its cells written, and the cause that the stream found. -/
def State.stitchStreamed (s : State) (l : Load) : State :=
  (s.stitchAll l.field l).1.changeLoad l.serial (fun m => { m with phase := .stitch, cause := (s.stitchAll l.field l).2 })

theorem exec_stitchPhaseStart {s : State} (hfw : s.fwOut 3 = false) :
    exec .stitchPhaseStart s = .next (s.stitchEnded.nextStitch.elim s.stitchEnded s.stitchEnded.stitchStreamed) := by
  show execStitchPhaseStart s = _
  cases hfind : s.loads.find? (fun l => l.phase == .stitch) with
  | none =>
    simp only [execStitchPhaseStart, State.stitchEnded, hfw, hfind, Bool.false_eq_true, if_false]
    cases s.nextStitch with
    | none => rfl
    | some l => simp only [Option.elim_some, State.stitchStreamed]
  | some l =>
    simp only [execStitchPhaseStart, State.stitchEnded, hfw, hfind, Bool.false_eq_true, if_false]
    cases (s.endStitch l).nextStitch with
    | none => rfl
    | some l => simp only [Option.elim_some, State.stitchStreamed]

theorem exec_fieldLoadDone_idle {s : State} {f : Fin 17} (h : s.fwOut 3 = true ∨ s.loadedOf f false = none) :
    exec (.fieldLoadDone f) s = .next s := by
  show execFieldLoadDone f s = _
  obtain h | h := h
  · exact if_pos h
  · simp only [execFieldLoadDone, h, ite_self]

theorem exec_fieldLoadDone {s : State} {f : Fin 17} {l : Load} (hfw : s.fwOut 3 = false) (h : s.loadedOf f false = some l) :
    exec (.fieldLoadDone f) s = .next (if l.kill ≠ 0 then s.cancelLoad f l (l.kill == 1)
      else if s.lateCause l ≠ 0 then s.failLoad f l (s.lateCause l) else s.endLoad f l) := by
  show execFieldLoadDone f s = _
  simp only [execFieldLoadDone, hfw, h, Bool.false_eq_true, if_false]
  rw [apply_ite Host.Outcome.next, apply_ite Host.Outcome.next]

/-! ### Re-initialisation (02 R51, 04 R451, 10 R264) -/

theorem exec_fieldReinit_refused {src : Source} {s : State} {f : Fin 17}
    (h : s.fwOut 3 = true ∨ s.mayReinit f = false ∨ (s.isSafety f = false ∧ s.who src ≠ .firmware) ∨
      (s.isSafety f = true ∧ s.who src ≠ .cantle) ∨
      (s.isSafety f = true ∧ s.saf.unresolved.contains f.val = true ∧ s.rd SAF_ESC.REINIT_MAX ≤ s.recentReinits f)) :
    exec (.fieldReinit src f) s = .next s := by
  show execFieldReinit src f s = _
  obtain h | h | ⟨hclass, hwho⟩ | ⟨hclass, hwho⟩ | ⟨hclass, hun, hmax⟩ := h
  · exact if_pos h
  · simp only [execFieldReinit, h, Bool.not_false, if_true, ite_self]
  · simp only [execFieldReinit, hclass, hwho, decide_false, Bool.false_eq_true, Bool.and_false, Bool.false_and, if_false, ite_self]
  · simp only [execFieldReinit, hclass, hwho, decide_false, Bool.false_eq_true, Bool.and_false, Bool.not_true, Bool.false_and, if_false, ite_self]
  · simp only [execFieldReinit, hclass, hun, ge_iff_le, hmax, Bool.false_eq_true, Bool.not_true, Bool.false_and, if_false, if_true, ite_self]

section
variable {src : Source} {s : State} {f : Fin 17} (hfw : s.fwOut 3 = false) (hmay : s.mayReinit f = true)
include hfw hmay

theorem exec_fieldReinit_counted (hclass : s.isSafety f = true) (hwho : s.who src = .cantle) (hun : s.saf.unresolved.contains f.val = true)
    (hmax : s.recentReinits f < s.rd SAF_ESC.REINIT_MAX) : exec (.fieldReinit src f) s =
      .next (({ s with saf := { s.saf with reinits := (f.val, s.vehicleNs) :: s.saf.reinits } } : State).startReinit f) := by
  show execFieldReinit src f s = _
  simp only [execFieldReinit, hfw, hmay, hclass, hwho, hun, ge_iff_le, Nat.not_le.2 hmax, decide_true, Bool.and_self, Bool.false_eq_true, Bool.not_true,
    Bool.false_and, if_false, if_true]

theorem exec_fieldReinit_started (h : (s.isSafety f = false ∧ s.who src = .firmware) ∨
    (s.isSafety f = true ∧ s.who src = .cantle ∧ s.saf.unresolved.contains f.val = false)) :
    exec (.fieldReinit src f) s = .next (s.startReinit f) := by
  show execFieldReinit src f s = _
  obtain ⟨hclass, hwho⟩ | ⟨hclass, hwho, hun⟩ := h
  · simp only [execFieldReinit, hfw, hmay, hclass, hwho, decide_true, Bool.and_self, Bool.false_eq_true, Bool.not_true, Bool.not_false, if_false, if_true]
  · simp only [execFieldReinit, hfw, hmay, hclass, hwho, hun, decide_true, Bool.and_self, Bool.false_eq_true, Bool.not_true, Bool.false_and, if_false, if_true]

end

theorem State.startReinit_facts {s : State} {f : Fin 17} {i : FieldImage} (h : (s.frt f).image = some i) :
    (s.startReinit f).fState f = stLoading ∧
    (s.startReinit f).rd PLAIN_FLD_STATE.GENERATION f = s.rd PLAIN_FLD_STATE.GENERATION f ∧ (s.startReinit f).mem = s.mem ∧
    ∃ l, (s.startReinit f).loads = s.loads ++ [l] ∧ l.reinit = true ∧ l.image = i ∧ l.field = f.val ∧ l.phase = .waitStitch := by
  have hkept := s.setState_kept f stLoading
  simp only [State.startReinit, h]
  exact ⟨(State.rd_congr _ (s.setState f stLoading) (by rfl) _ f 0).trans (s.fState_setState f stLoading (by decide)),
    (State.rd_congr _ (s.setState f stLoading) (by rfl) _ f 0).trans (s.rd_setState f stLoading (by decide) f 0), hkept.mem, _,
    congrArg (· ++ [_]) hkept.loads, rfl, rfl, rfl, rfl⟩

theorem exec_fieldReinitDone_idle {s : State} {f : Fin 17} (h : s.fwOut 3 = true ∨ s.loadedOf f true = none) :
    exec (.fieldReinitDone f) s = .next s := by
  show execFieldReinitDone f s = _
  obtain h | h := h
  · exact if_pos h
  · simp only [execFieldReinitDone, h, ite_self]

/-- A field as its re-initialisation ends. -/
def State.reinitEnded (s : State) (f : Fin 17) (l : Load) : State :=
  (((s.dropLoad l.serial).setF f { (s.dropLoad l.serial).frt f with
    needReinit := false, hold := (s.frt f).hold && s.flag SAF_CTL.SAFE_STATE && s.isSafety f, resetAsked := false }).setState f stIdle).restartTests f

/-- After a field-class fault a field owes a golden frame (10 R264). -/
def State.goldenOwed (s : State) (f : Fin 17) : State :=
  if s.saf.unresolved.contains f.val then { s with saf := { s.saf with needGolden := s.saf.needGolden.filter (· != f.val) ++ [f.val] } } else s

theorem State.goldenOwed_none {s : State} {f : Fin 17} (h : s.saf.unresolved.contains f.val = false) : s.goldenOwed f = s :=
  if_neg (by rw [h]; decide)

section
variable {s : State} {f : Fin 17} {l : Load} (hfw : s.fwOut 3 = false) (h : s.loadedOf f true = some l)
include hfw h

theorem exec_fieldReinitDone_failed (hcause : s.lateCause l ≠ 0) :
    exec (.fieldReinitDone f) s = .next (s.failLoad f l (s.lateCause l)) := by
  show execFieldReinitDone f s = _
  simp only [execFieldReinitDone, hfw, h, hcause, Bool.false_eq_true, if_false, if_true, ne_eq, not_false_eq_true]

theorem exec_fieldReinitDone_ended (hcause : s.lateCause l = 0) :
    exec (.fieldReinitDone f) s = .next (((s.reinitEnded f l).goldenOwed f).events (((s.reinitEnded f l).goldenOwed f).frt f).attached 0x02
      (((s.reinitEnded f l).goldenOwed f).handle f) 0) := by
  show execFieldReinitDone f s = _
  simp only [execFieldReinitDone, hfw, h, hcause, Bool.false_eq_true, if_false, ne_eq, not_true_eq_false]
  rfl

end

theorem State.restartTests_kept (s : State) (f : Fin 17) : State.WorkKept s (s.restartTests f) ∧ (s.restartTests f).regs = s.regs ∧
    (s.restartTests f).flds = s.flds ∧ (s.restartTests f).saf = s.saf := by
  unfold State.restartTests
  exact ⟨.foldl (fun _ _ => by exact ⟨rfl, rfl, rfl, rfl⟩) _ s, foldl_part State.regs (by intros; rfl) _ s,
    foldl_part State.flds (by intros; rfl) _ s, foldl_part State.saf (by intros; rfl) _ s⟩

theorem State.reinitEnded_facts (s : State) (f : Fin 17) (l : Load) : (s.reinitEnded f l).fState f = stIdle ∧
    ((s.reinitEnded f l).frt f).needReinit = false ∧
    ((s.reinitEnded f l).frt f).hold = ((s.frt f).hold && s.flag SAF_CTL.SAFE_STATE && s.isSafety f) ∧
    ((s.reinitEnded f l).frt f).attached = (s.frt f).attached ∧ (s.reinitEnded f l).mem = s.mem ∧
    (s.reinitEnded f l).loads = s.loads.filter (fun m => m.serial != l.serial) ∧
    (s.reinitEnded f l).saf.unresolved = s.saf.unresolved := by
  let x : FldRt := { (s.dropLoad l.serial).frt f with
    needReinit := false, hold := (s.frt f).hold && s.flag SAF_CTL.SAFE_STATE && s.isSafety f, resetAsked := false }
  let u := (s.dropLoad l.serial).setF f x
  obtain ⟨hkept, hregs, hflds, hsaf⟩ := (u.setState f stIdle).restartTests_kept f
  obtain ⟨held, last, hset⟩ := u.frt_setState f stIdle
  have hidle := u.setState_kept f stIdle
  have hfrt : (s.reinitEnded f l).frt f = { x with wdogHeld := held, lastProgress := last } := by
    refine (congrArg (fun l => Sparse.look FldRt.rest l f) hflds).trans (hset.trans ?_)
    rw [State.frt_setF]
  rw [hfrt]
  refine ⟨(State.rd_congr _ _ hregs _ f 0).trans (u.fState_setState f stIdle (by decide)), rfl, rfl, rfl, hkept.mem.trans hidle.mem,
    hkept.loads.trans hidle.loads, (congrArg SafSt.unresolved hsaf).trans (u.unresolved_setState f stIdle)⟩

/-- Settles O31: each row of the loader is its test and the shared operation that the test selects; REINIT_MAX in 10 s of vehicle time and
the wait for a golden frame after a field-class fault are those of R264, and a field without golden entries waits too (log 69). -/
theorem loadPhases : Obligations.LoadPhases := by
  unfold Obligations.LoadPhases
  refine ⟨fun s f l hf h => ?entered, fun s => ⟨exec_stitchPhaseStart_out, fun hfw => ?stitch⟩,
    fun s f => ⟨exec_fieldLoadDone_idle, fun l hfw h => ⟨fun hk => ?killed, fun hk hc => ?ended, fun hk hc => ?failed⟩⟩,
    fun src s f => exec_fieldReinit_refused, fun src s f hfw hmay => exec_fieldReinit_counted hfw hmay,
    fun src s f i hfw himg hmay h => ⟨_, exec_fieldReinit_started hfw hmay h, State.startReinit_facts himg⟩,
    fun s f => exec_fieldReinitDone_idle, fun s f l hfw h => ⟨exec_fieldReinitDone_failed hfw h, exec_fieldReinitDone_ended hfw h, fun hc hun hat => ?alone⟩⟩
  case entered =>
    rw [State.startLoad_powered h, ← hf]
    exact s.enterLoading_facts l
  case stitch =>
    intro u
    have hu : u = s.stitchEnded := rfl
    clear_value u
    subst hu
    exact ⟨fun h => by rw [exec_stitchPhaseStart hfw, h, Option.elim_none],
      fun l h => by rw [exec_stitchPhaseStart hfw, h, Option.elim_some, State.stitchStreamed]⟩
  case killed => rw [exec_fieldLoadDone hfw h, if_pos hk]
  case ended => rw [exec_fieldLoadDone hfw h, if_neg (not_not_intro hk), if_neg (not_not_intro hc)]
  case failed => rw [exec_fieldLoadDone hfw h, if_neg (not_not_intro hk), if_pos hc]
  case alone =>
    obtain ⟨hst, hneed, hhold, hattached, hmem, hloads, hunres⟩ := s.reinitEnded_facts f l
    have hrow := exec_fieldReinitDone_ended hfw h hc
    rw [State.goldenOwed_none (by rw [hunres, hun]), hattached, hat] at hrow
    exact ⟨_, hrow, hst, hneed, hhold, hmem, hloads⟩

end Sys2Proof.Machine
end

section
/-! CLEARING, kills, contained faults, the watchdog and the cluster movers (02 R50, R52, R55, R56, 05 R121). -/

namespace Sys2Proof.Machine

/-! ### Folds over a list of clusters or commands -/

theorem foldl_eq_self {α β : Type} {g : β → α → β} {l : List α} {b : β} (h : ∀ a ∈ l, g b a = b) : l.foldl g b = b := by
  induction l with
  | nil => rfl
  | cons a l ih =>
    rw [List.foldl_cons, h a List.mem_cons_self]
    exact ih fun c hc => h c (List.mem_cons_of_mem a hc)

/-- What one step of a fold brings about, and every step keeps, holds after the fold. -/
theorem foldl_holds_of_mem {α β : Type} {P : β → Prop} {g : β → α → β} {l : List α} {a : α} (hstay : ∀ b c, P b → P (g b c))
    (hdo : ∀ b, P (g b a)) (ha : a ∈ l) (b : β) : P (l.foldl g b) := by
  have hkeep : ∀ (l : List α) b, P b → P (l.foldl g b) := fun l => by
    induction l with
    | nil => exact fun _ hb => hb
    | cons c l ih => exact fun b hb => ih (g b c) (hstay b c hb)
  induction l generalizing b with
  | nil => exact nomatch ha
  | cons c l ih =>
    obtain rfl | ha := List.mem_cons.1 ha
    · exact hkeep l _ (hdo b)
    · exact ih ha (g b c)

/-! ### CLEARING (02 R50) -/

theorem Sparse.look_forget {α : Type} (d : α) (l : Sparse α) (lo hi n : Nat) :
    Sparse.look d (Sparse.forget l lo hi) n = if lo ≤ n ∧ n < hi then d else Sparse.look d l n := by
  induction l with
  | nil => exact (ite_self _).symm
  | cons e l ih =>
    obtain ⟨k, v⟩ := e
    rw [Sparse.forget, List.filter_cons]
    by_cases hin : lo ≤ k ∧ k < hi
    · rw [if_neg (by simp [hin])]
      refine ih.trans (ite_congr rfl (fun _ => rfl) fun hn => ?_)
      exact (if_neg (by rintro rfl; exact hn hin)).symm
    · rw [if_pos (by simp only [Bool.or_eq_true, decide_eq_true_eq]; omega), Sparse.look, Sparse.look]
      split
      next hk => rw [if_neg (hk ▸ hin)]
      next hk => exact ih

/-- What zeroing one cluster does to the memories, and what it leaves. -/
theorem State.zeroCluster_facts (s : State) (k : Nat) :
    (s.zeroCluster k).mem.pocket = Sparse.forget s.mem.pocket (k * 16 * 0x20000) ((k * 16 + 16) * 0x20000) ∧
    (s.zeroCluster k).mem.sram = Sparse.forget s.mem.sram (k * 0x80000) ((k + 1) * 0x80000) ∧ (s.zeroCluster k).mem.hbm = s.mem.hbm ∧
    (s.zeroCluster k).loads = s.loads ∧ (s.zeroCluster k).flds = s.flds := by
  let u : State := { s with mem := { s.mem with
    pocket := Sparse.forget s.mem.pocket (k * 16 * 0x20000) ((k * 16 + 16) * 0x20000),
    pocketErr := Sparse.forget s.mem.pocketErr (k * 16 * 0x4000) ((k * 16 + 16) * 0x4000),
    sram := Sparse.forget s.mem.sram (k * 0x80000) ((k + 1) * 0x80000),
    sramErr := Sparse.forget s.mem.sramErr (k * 0x10000) ((k + 1) * 0x10000) } }
  have hkept : State.WorkKept u (s.zeroCluster k) := .foldl (fun t i => .setCell t _ _) _ u
  have hflds : (s.zeroCluster k).flds = u.flds := foldl_part State.flds (fun t i => State.flds_setCell t _ _) _ u
  rw [hkept.mem, hkept.loads, hflds]
  exact ⟨rfl, rfl, rfl, rfl, rfl⟩

/-- The clusters of a field in CLEARING that are in service, zeroed. -/
def State.zeroed (s : State) (f : Fin 17) : State :=
  ((s.clustersOf f).filter (fun k => s.rd BIST_UNIT.STATE k != 1)).foldl (fun s k => s.zeroCluster k) s

theorem State.zeroed_kept (s : State) (f : Fin 17) : (s.zeroed f).mem.hbm = s.mem.hbm ∧ (s.zeroed f).loads = s.loads ∧ (s.zeroed f).flds = s.flds := by
  refine ⟨foldl_part (fun t : State => t.mem.hbm) (fun t k => ?_) _ s, foldl_part State.loads (fun t k => ?_) _ s,
    foldl_part State.flds (fun t k => ?_) _ s⟩
  all_goals obtain ⟨-, -, hhbm, hloads, hflds⟩ := t.zeroCluster_facts k
  · exact hhbm
  · exact hloads
  · exact hflds

/-- Byte `n` of the pocket memories, or of the cluster SRAM, is zero. -/
def State.ZeroAt (s : State) (inPocket : Bool) (n : Nat) : Prop := Sparse.look 0 (if inPocket then s.mem.pocket else s.mem.sram) n = 0

theorem State.zeroCluster_zeroAt {s : State} {inPocket : Bool} {n : Nat} (k : Nat) (h : s.ZeroAt inPocket n) :
    (s.zeroCluster k).ZeroAt inPocket n := by
  obtain ⟨hpocket, hsram, -⟩ := s.zeroCluster_facts k
  unfold State.ZeroAt at h ⊢
  rw [hpocket, hsram]
  cases inPocket
  · exact (Sparse.look_forget _ _ _ _ n).trans (ite_eq_left_iff.2 fun _ => h)
  · exact (Sparse.look_forget _ _ _ _ n).trans (ite_eq_left_iff.2 fun _ => h)

theorem State.zeroCluster_pocket (s : State) (k : Nat) {n : Nat} (h : n < 16 * 0x20000) : (s.zeroCluster k).ZeroAt true (k * 16 * 0x20000 + n) := by
  obtain ⟨hpocket, -⟩ := s.zeroCluster_facts k
  unfold State.ZeroAt
  rw [if_pos rfl, hpocket, Sparse.look_forget, if_pos (by omega)]

theorem State.zeroCluster_sram (s : State) (k : Nat) {n : Nat} (h : n < 0x80000) : (s.zeroCluster k).ZeroAt false (k * 0x80000 + n) := by
  obtain ⟨-, hsram, -⟩ := s.zeroCluster_facts k
  unfold State.ZeroAt
  rw [if_neg (by decide), hsram, Sparse.look_forget, if_pos (by omega)]

theorem State.zeroed_zeroAt {s : State} {f : Fin 17} {k : Nat} (hk : k ∈ s.clustersOf f) (hin : s.rd BIST_UNIT.STATE k ≠ 1) :
    (∀ n < 16 * 0x20000, (s.zeroed f).ZeroAt true (k * 16 * 0x20000 + n)) ∧ ∀ n < 0x80000, (s.zeroed f).ZeroAt false (k * 0x80000 + n) := by
  have hmem : k ∈ (s.clustersOf f).filter (fun k => s.rd BIST_UNIT.STATE k != 1) := List.mem_filter.2 ⟨hk, bne_iff_ne.2 hin⟩
  exact ⟨fun n hn => foldl_holds_of_mem (P := fun t : State => t.ZeroAt true (k * 16 * 0x20000 + n)) (fun t c ht => State.zeroCluster_zeroAt c ht)
      (fun t => t.zeroCluster_pocket k hn) hmem s,
    fun n hn => foldl_holds_of_mem (P := fun t : State => t.ZeroAt false (k * 0x80000 + n)) (fun t c ht => State.zeroCluster_zeroAt c ht)
      (fun t => t.zeroCluster_sram k hn) hmem s⟩

theorem exec_clearingDone_other {s : State} {f : Fin 17} (h : s.fState f ≠ stClearing) : exec (.clearingDone f) s = .next s := if_pos h

theorem exec_clearingDone_replaced {s : State} {f : Fin 17} {l : Load} (h : s.fState f = stClearing)
    (hl : s.loads.find? (fun l => l.field == f.val && l.phase == .clearing) = some l) :
    exec (.clearingDone f) s = .next (((s.zeroed f).dropLoad l.serial).startLoad f { l with phase := .waitStitch }) := by
  show execClearingDone f s = _
  simp only [execClearingDone, h, hl, ne_eq, not_true_eq_false, if_false]
  rfl

/-- A field whose CLEARING has ended with no load to follow. -/
def State.freed (s : State) (f : Fin 17) : State := (s.setF f { s.frt f with fenced := false }).setState f stFree

theorem exec_clearingDone_freed {s : State} {f : Fin 17} (h : s.fState f = stClearing)
    (hl : s.loads.find? (fun l => l.field == f.val && l.phase == .clearing) = none) :
    exec (.clearingDone f) s = .next ((s.zeroed f).freed f) := by
  show execClearingDone f s = _
  simp only [execClearingDone, h, hl, ne_eq, not_true_eq_false, if_false]
  rfl

theorem State.freed_facts (s : State) (f : Fin 17) : State.WorkKept s (s.freed f) ∧ (s.freed f).fState f = stFree ∧
    ((s.freed f).frt f).fenced = false := by
  let u := s.setF f { s.frt f with fenced := false }
  obtain ⟨held, last, hfrt⟩ := u.frt_setState f stFree
  rw [State.frt_setF] at hfrt
  exact ⟨(State.WorkKept.setF s f _).trans (u.setState_kept f stFree), u.fState_setState f stFree (by decide), congrArg FldRt.fenced hfrt⟩

/-! ### Kills (02 R52, 06 R154) -/

theorem exec_killDone_field (s : State) (f : Fin 17) :
    exec (.killDone (.field f)) s = .next (if s.fState f = stDraining then s.fieldKilled f else s) :=
  (apply_ite Host.Outcome.next _ _ _).symm

theorem exec_killDone_none {s : State} {r : Res} (hr : ∀ f, r ≠ .field f) (h : ∀ i, killIndex r = some i → Sparse.look none s.engKill i = none) :
    exec (.killDone r) s = .next s := by
  show execKillDone r s = _
  cases r with
  | field f => exact absurd rfl (hr f)
  | render => simp only [execKillDone, killIndex, h 0 rfl]
  | projector => simp only [execKillDone, killIndex, h 1 rfl]
  | dma e => rfl
  | loader => rfl

theorem exec_killDone_engine {s : State} {r : Res} {i n : Nat} (hi : killIndex r = some i) (h : Sparse.look none s.engKill i = some n) :
    exec (.killDone r) s = .next (({ s with engKill := Sparse.put none s.engKill i none } : State).requeue r) := by
  show execKillDone r s = _
  cases r with
  | render => simp only [execKillDone, hi, h]
  | projector => simp only [execKillDone, hi, h]
  | _ => exact nomatch hi

/-- A refund changes a VEF's account alone. -/
theorem State.refund_kept (s : State) (j : Job) : State.WorkKept s (s.refund j) ∧ (s.refund j).regs = s.regs ∧ (s.refund j).flds = s.flds ∧
    (s.refund j).engKill = s.engKill := by
  unfold State.refund
  split
  · exact ⟨.refl s, rfl, rfl, rfl⟩
  · exact ⟨⟨rfl, rfl, rfl, rfl⟩, rfl, rfl, rfl⟩

theorem State.requeue_facts (s : State) (r : Res) : (s.requeue r).mem = s.mem ∧ (s.requeue r).regs = s.regs ∧ (s.requeue r).flds = s.flds ∧
    (s.requeue r).engKill = s.engKill ∧ (s.requeue r).queue = (s.jobsOn r).map (fun j => (r, j.cmd.again)) ++ s.queue ∧
    (s.requeue r).jobsOn r = [] := by
  let u := (s.jobsOn r).foldl (fun s j => s.refund j) s
  have hkept : State.WorkKept s u := .foldl (fun t j => (t.refund_kept j).1) _ s
  have hregs : u.regs = s.regs := foldl_part State.regs (fun t j => (t.refund_kept j).2.1) _ s
  have hflds : u.flds = s.flds := foldl_part State.flds (fun t j => (t.refund_kept j).2.2.1) _ s
  have hkill : u.engKill = s.engKill := foldl_part State.engKill (fun t j => (t.refund_kept j).2.2.2) _ s
  refine ⟨hkept.mem, hregs, hflds, hkill, ?_, ?_⟩
  · show (u.jobsOn r).map (fun j => (r, j.cmd.again)) ++ u.queue = _
    rw [hkept.jobsOn, hkept.queue]
  · show (u.flight.filter (fun j => j.res != r)).filter (fun j => j.res == r) = []
    simp only [List.filter_filter, List.filter_eq_nil_iff]
    intro j _
    simp [bne]

theorem State.dropGoldens_none {s : State} {f : Fin 17} (h : (s.jobsOn (.field f)).any (fun j => j.golden) = false) : s.dropGoldens f = s := by
  rw [List.any_eq_false] at h
  exact foldl_eq_self fun j hj => if_neg (h j hj)

theorem State.clearEmptied_none {s : State} {f : Fin 17} (h : (s.frt f).emptied = none) : s.clearEmptied f = s := by
  simp only [State.clearEmptied, h]

/-- A field turned IDLE as what was in flight is counted. -/
def State.idled (s : State) (f : Fin 17) : State := (s.countFlight f).setState f stIdle

theorem State.idled_facts (s : State) (f : Fin 17) : State.WorkKept s (s.idled f) ∧ (s.idled f).fState f = stIdle ∧
    (s.frt f).SameButWdog ((s.idled f).frt f) :=
  ⟨(State.WorkKept.wr s _ _ _ _).trans (State.setState_kept _ f stIdle), State.fState_setState _ f stIdle (by decide),
    (s.countFlight f).frt_setState f stIdle⟩

/-- A field whose kill has completed, with no golden in flight, no reset asked for and a VEF left. -/
theorem State.fieldKilled_plain {s : State} {f : Fin 17} (hgolden : (s.jobsOn (.field f)).any (fun j => j.golden) = false)
    (hreset : (s.frt f).resetAsked = false) (hempty : (s.frt f).emptied = none) :
    (s.fieldKilled f).fState f = stIdle ∧ ((s.fieldKilled f).frt f).killSince = none ∧ (s.fieldKilled f).mem = s.mem ∧
    (s.fieldKilled f).queue = (s.jobsOn (.field f)).map (fun j => (.field f, j.cmd.again)) ++ s.queue ∧ (s.fieldKilled f).jobsOn (.field f) = [] := by
  obtain ⟨hmem, -, hflds, -, hqueue, hjobs⟩ := s.requeue_facts (.field f)
  have hfrt : (s.requeue (.field f)).frt f = s.frt f := congrArg (fun l => Sparse.look FldRt.rest l f) hflds
  let u := (s.requeue (.field f)).setF f { (s.requeue (.field f)).frt f with killSince := none }
  obtain ⟨hkept, hidle, held, last, hset⟩ := u.idled_facts f
  have huf : u.frt f = { s.frt f with killSince := none } := by rw [State.frt_setF, hfrt]
  rw [huf] at hset
  have heq : s.fieldKilled f = u.idled f := by
    rw [State.fieldKilled, State.dropGoldens_none hgolden]
    show (if ((u.idled f).frt f).resetAsked then (u.idled f).startReinit f else (u.idled f).clearEmptied f) = u.idled f
    rw [State.clearEmptied_none (by rw [hset]; exact hempty), if_neg]
    rw [hset]
    exact ne_true_of_eq_false hreset
  rw [heq]
  exact ⟨hidle, by rw [hset], hkept.mem.trans hmem, hkept.queue.trans hqueue, (hkept.jobsOn (.field f)).trans hjobs⟩

/-! ### The stall watchdog and contained faults (02 R55, R56) -/

theorem exec_stallWatchdogExpiry_early {s : State} {f : Fin 17} (h : s.fState f ≠ stRunning ∨ s.wdogCount f < (s.frt f).wdogPeriod * 1000) :
    exec (.stallWatchdogExpiry f) s = .next s := by
  refine if_neg ?_
  rw [State.wdogDue, Bool.and_eq_true, beq_iff_eq, decide_eq_true_eq]
  rintro ⟨hrun, hdue⟩
  obtain h | h := h
  · exact h hrun
  · exact absurd hdue (Nat.not_le.2 h)

theorem exec_stallWatchdogExpiry_due {s : State} {f : Fin 17} (hrun : s.fState f = stRunning) (hdue : (s.frt f).wdogPeriod * 1000 ≤ s.wdogCount f) :
    exec (.stallWatchdogExpiry f) s = .next ((((s.setF f { s.frt f with lastProgress := s.localNs, wdogHeld := 0 }).fldError f errWdog
      (((s.cellsOf f).find? (fun c => (s.cell c).waiting)).getD 0xFFF) 0).reportField 0x20 f).stopField f 0x41) := by
  refine if_pos ?_
  rw [State.wdogDue, Bool.and_eq_true, beq_iff_eq, decide_eq_true_eq]
  exact ⟨hrun, hdue⟩

theorem exec_containedFaultDrainDone_none {s : State} {f : Fin 17} (h : (s.frt f).faultDrain = false) :
    exec (.containedFaultDrainDone f) s = .next s := if_pos (by rw [h]; rfl)

/-- The commands in flight of a field that have ended, with their records. -/
def State.drainJobs (s : State) (f : Fin 17) : State :=
  (s.jobsOn (.field f)).foldl (fun s j => match j.outcome with
    | .ended st cause r => s.endJob j st cause r
    | .running => s) s

/-- A field once its contained fault has drained. -/
def State.drainEnded (s : State) (f : Fin 17) : State := (s.setF f { s.frt f with faultDrain := false }).settle f

theorem exec_containedFaultDrainDone_drained {s : State} {f : Fin 17} (h : (s.frt f).faultDrain = true) :
    exec (.containedFaultDrainDone f) s = .next (if (((s.drainJobs f).drainEnded f).frt f).resetAsked then ((s.drainJobs f).drainEnded f).startReinit f
      else (s.drainJobs f).drainEnded f) := if_neg (by rw [h]; decide)

/-- A running field with nothing in flight, no reset asked for and a VEF left is IDLE once it has drained. -/
theorem State.drainEnded_plain {s : State} {f : Fin 17} (hrun : s.fState f = stRunning) (hjobs : s.jobsOn (.field f) = [])
    (hempty : (s.frt f).emptied = none) : State.WorkKept s (s.drainEnded f) ∧ (s.drainEnded f).fState f = stIdle ∧
    ((s.drainEnded f).frt f).faultDrain = false ∧ ((s.drainEnded f).frt f).resetAsked = (s.frt f).resetAsked := by
  let u := s.setF f { s.frt f with faultDrain := false }
  obtain ⟨hkept, hidle, held, last, hset⟩ := u.idled_facts f
  rw [State.frt_setF] at hset
  have hcount : (u.countFlight f).fState f = stRunning := (u.fState_countFlight f).trans hrun
  have heq : s.drainEnded f = u.idled f := by
    show (if (u.countFlight f).fState f = stRunning ∧ ((u.countFlight f).jobsOn (.field f)).isEmpty then (u.idled f).clearEmptied f
      else u.countFlight f) = u.idled f
    rw [if_pos ⟨hcount, List.isEmpty_iff.2 hjobs⟩, State.clearEmptied_none (by rw [hset]; exact hempty)]
  rw [heq]
  exact ⟨(State.WorkKept.setF s f _).trans hkept, hidle, by rw [hset], by rw [hset]⟩

/-! ### Cluster movers (05 R121) -/

theorem exec_clusterMoverTransferDone_none {s : State} {f : Fin 17} (h : (s.frt f).moves = [] ∨ (s.frt f).heldRecs ≠ []) :
    exec (.clusterMoverTransferDone f) s = .next s := by
  show execClusterMoverTransferDone f s = _
  cases hm : (s.frt f).moves with
  | nil => simp only [execClusterMoverTransferDone, hm]
  | cons m rest =>
    have hheld : (!(s.frt f).heldRecs.isEmpty) = true := by simpa [hm] using h
    simp only [execClusterMoverTransferDone, hm, hheld, if_true]

/-- The end of a transfer that its field's list no longer holds. -/
def State.moveEnds (s : State) (f : Fin 17) (m : ClMove) : Ans :=
  match (if m.toWin then s.tensorBad m else none) with
  | some (e, w) => .next (((s.cmqAppend f ⟨m.tag, m.kind, 0x30, 0, 0⟩).fldFault f e (if m.inPocket then m.place else m.place * 16) w).progress f)
  | none =>
    let r := (if m.toWin then s.tensorFix f m else s).doMove f m
    let t := (r.1.cmqAppend f r.2).progress f
    if r.2.status = 0x30 ∧ m.toWin then .next (t.contained f 0x10 none) else .next t

theorem State.moveEnds_good {s : State} {f : Fin 17} {m : ClMove} (h : m.toWin = true → s.tensorBad m = none) :
    let r := (if m.toWin then s.tensorFix f m else s).doMove f m
    let t := (r.1.cmqAppend f r.2).progress f
    s.moveEnds f m = .next (if r.2.status = 0x30 ∧ m.toWin = true then t.contained f 0x10 none else t) := by
  have hnone : (if m.toWin then s.tensorBad m else none) = none := ite_eq_right_iff.2 h
  simp only [State.moveEnds, hnone]
  exact (apply_ite Host.Outcome.next (_ ∧ _) _ _).symm

theorem State.moveEnds_bad {s : State} {f : Fin 17} {m : ClMove} {e w : Nat} (hwin : m.toWin = true) (h : s.tensorBad m = some (e, w)) :
    s.moveEnds f m =
      .next (((s.cmqAppend f ⟨m.tag, m.kind, 0x30, 0, 0⟩).fldFault f e (if m.inPocket then m.place else m.place * 16) w).progress f) := by
  have hsome : (if m.toWin then s.tensorBad m else none) = some (e, w) := (if_pos hwin).trans h
  simp only [State.moveEnds, hsome]

theorem exec_clusterMoverTransferDone_oldest {s : State} {f : Fin 17} {m : ClMove} {rest : List ClMove} (hm : (s.frt f).moves = m :: rest)
    (hheld : (s.frt f).heldRecs = []) :
    exec (.clusterMoverTransferDone f) s = (s.setF f { s.frt f with moves := rest }).moveEnds f m := by
  have hopen : (!(s.frt f).heldRecs.isEmpty) = false := by rw [hheld]; rfl
  show execClusterMoverTransferDone f s = _
  simp only [execClusterMoverTransferDone, hm, hopen, Bool.false_eq_true, if_false]
  rfl

theorem exec_cmqRecordAppend_none {s : State} {f : Fin 17} (h : (s.frt f).heldRecs = []) : exec (.cmqRecordAppend f) s = .next s := by
  show execCmqRecordAppend f s = _
  simp only [execCmqRecordAppend, h]

theorem exec_cmqRecordAppend_held {s : State} {f : Fin 17} {r : CmqRec} {rest : List CmqRec} (h : (s.frt f).heldRecs = r :: rest) :
    exec (.cmqRecordAppend f) s =
      .next (if s.cmqFull f then s else (s.setF f { s.frt f with heldRecs := rest }).cmqWrite f r) := by
  show execCmqRecordAppend f s = _
  simp only [execCmqRecordAppend, h]
  exact (apply_ite Host.Outcome.next _ _ _).symm

/-- Settles O32: CLEARING forgets the memories of each cluster in service, a kill returns what was in flight to its queue, and the
other rows are their test and the operation it selects; the cell named is 0xFFF, or the cluster's first, where the manual names none
(log 119), and the watchdog's count starts anew as it expires (log 126). -/
theorem clearingAndKills : Obligations.ClearingAndKills := by
  unfold Obligations.ClearingAndKills
  refine ⟨fun s f h hl => ?freed, fun s f => ⟨exec_clearingDone_other, fun l => exec_clearingDone_replaced⟩, exec_killDone_field,
    fun s r => exec_killDone_none, fun s f hst hgolden hreset hempty => ?killed, fun s r i n hi h => ?engine,
    fun s f => ⟨exec_stallWatchdogExpiry_early, exec_stallWatchdogExpiry_due⟩,
    fun s f => ⟨exec_containedFaultDrainDone_none, exec_containedFaultDrainDone_drained⟩, fun s f hdrain hjobs hreset hempty hrun => ?drained,
    fun s f => exec_clusterMoverTransferDone_none,
    fun s f m rest hm hheld => ⟨fun h => ?moved, fun e w hwin h => ?badTensor⟩,
    fun s f => exec_cmqRecordAppend_none, fun s f r rest h => ⟨fun hfull => ?full, fun hroom => ?room⟩⟩
  case freed =>
    obtain ⟨hhbm, hloads, -⟩ := s.zeroed_kept f
    obtain ⟨hkept, hst, hfence⟩ := (s.zeroed f).freed_facts f
    refine ⟨_, exec_clearingDone_freed h hl, hst, hfence, hkept.loads.trans hloads, (congrArg MemState.hbm hkept.mem).trans hhbm, fun k hk hin => ?_⟩
    rw [hkept.mem]
    exact State.zeroed_zeroAt hk hin
  case killed => exact ⟨_, by rw [exec_killDone_field, if_pos hst], State.fieldKilled_plain hgolden hreset hempty⟩
  case engine =>
    obtain ⟨hmem, hregs, -, hkill, hqueue, hjobs⟩ := State.requeue_facts { s with engKill := Sparse.put none s.engKill i none } r
    exact ⟨_, exec_killDone_engine hi h, by rw [hkill]; exact Sparse.look_put_same none s.engKill i none, hregs, hmem, hqueue, hjobs⟩
  case drained =>
    have hsame : s.drainJobs f = s := by rw [State.drainJobs, hjobs]; rfl
    obtain ⟨hkept, hst, hfault, hasked⟩ := State.drainEnded_plain hrun hjobs hempty
    refine ⟨_, ?_, hst, hfault, hkept.mem, hkept.queue⟩
    rw [exec_containedFaultDrainDone_drained hdrain, hsame, hasked, hreset, if_neg Bool.false_ne_true]
  case moved => exact (exec_clusterMoverTransferDone_oldest hm hheld).trans (State.moveEnds_good h)
  case badTensor => exact (exec_clusterMoverTransferDone_oldest hm hheld).trans (State.moveEnds_bad hwin h)
  case full => rw [exec_cmqRecordAppend_held h, if_pos hfull]
  case room => rw [exec_cmqRecordAppend_held h, hroom, if_neg Bool.false_ne_true]

end Sys2Proof.Machine
end
